-- ==== Sys2Proof/Word.lean ====
section
/-! DEFINITION. The word types of the ARL-7160 and the sparse-map type that every table of the state uses. -/

namespace Sys2Proof

/-- A register word: registers are 32 bits wide (R327). -/
abbrev Word := BitVec 32

/-- A byte of memory, of a message or of a packet. -/
abbrev Byte := BitVec 8

/-- A 64-bit value held in a LO and HI pair (R332). -/
abbrev DWord := BitVec 64

/-- A table keyed by a number (an address, an instance): entries in rising key order, and no entry
equal to what an unlisted key reads as. What an unlisted key reads as is given at each use. -/
abbrev SMap (α : Type) := List (Nat × α)

end Sys2Proof
end

