-- ==== Sys2Proof/Syntax.lean ====
section
/-! DEFINITION. The commands of the block: one constructor of `Instr` per row of spec/opcode_table.json, with the data that comes from outside the device. -/

namespace Sys2Proof

/-- Where a request comes from (R26, R302): a PCIe function (R127), a network node that names a CMAC key slot, MC firmware, or the
MC's safety manager. -/
inductive Source where
  | fn (f : Fin 32)
  | node (slot : Fin 16)
  | mc
  | manager
  deriving DecidableEq, Repr

/-- A scheduled burst that a window did not deliver in time (R93): its layer slot and the burst's VA over 64. -/
structure LostBurst where
  slot : Fin 96
  burst : Nat
  deriving DecidableEq, Repr

/-- The two reset inputs (R427). -/
inductive ResetPin where
  | porst
  | sysrst
  deriving DecidableEq, Repr

/-- The straps and flare level inputs, captured at the rising edge of PORST_N (R428, R473). -/
structure Straps where
  cascRole : BitVec 2
  bootSrc : Bool
  flaLvl : Bool
  flbLvl : Bool
  deriving DecidableEq, Repr

/-- What the host has programmed in the configuration space of an endpoint's functions (R320, R350, R358): VF Enable; MSI-X Enable,
the function mask and PME Enable of each of the sixteen functions; and the size of BAR2, 2^n GiB (log entry 55). -/
structure HostConfig where
  vfEnable : Bool
  msixEnable : BitVec 16
  fnMask : BitVec 16
  pmeEnable : BitVec 16
  bar2 : Fin 8
  deriving DecidableEq, Repr

/-- The outcome of a link training: 2^width lanes (R320), and what the host programs over the link. -/
structure LinkOutcome where
  width : Fin 4
  cfg : HostConfig
  /-- Whether the link, once up, goes to L1.2 (ASPM, R320). -/
  l12 : Bool
  deriving DecidableEq, Repr

/-- What the outside world decides during a start: rails, clocks, firmware checks, DRAM and link training results
(R430, R432, R435, R436). Lists are by bank, channel (rungs 1 to 3 in order) or quad. -/
structure StartEnv where
  /-- S1: rails in range and PLLs locked. -/
  clocksOk : Bool
  /-- S2: fuses readable and the ROM self-check passed. -/
  fusesOk : Bool
  /-- S3: outcome of each firmware bank when tried: 1 OK, 2 signature failed, 3 below the rollback floor (R434). -/
  bankOutcome : List Nat
  /-- Recovery start (R428): how P0 trains before S3, if it does, and the image pushed through the load window: its bytes, and what
  the ROM finds in it (R430): 1 OK, 2 signature failed, 3 below the rollback floor. -/
  recoveryLink : Option (Fin 5 × LinkOutcome)
  recoverySize : Nat
  recoveryOutcome : Nat
  /-- Installed size of each channel in GiB, 0 for an absent one (R98). -/
  chSize : List Nat
  /-- Per channel, whether each of rungs 1, 2, 3 passes (R435). -/
  rungOk : List (List Bool)
  /-- Outcome of the keep-path self-test, START_CODE of R210. -/
  keepCode : Nat
  /-- Per quad and transmit port, the rate code trained at, or none (R264, R436). -/
  quadRate : List (List (Option Nat))
  /-- The Osleig ports that come up at S10, whether a join follows within its bound, and whether it is refused (R408, R414). -/
  oslUp : BitVec 2
  joined : Bool
  cascRefused : Bool
  /-- Hop count from the belfry, number of joined devices minus 1, and the tick count the belfry gives (R408, R412). -/
  cascPosition : BitVec 2
  cascDevices : BitVec 2
  cascHighest : Nat
  /-- The ledger write of each point of R433 succeeds, in the order of the points. -/
  ledgerOk : List Bool
  /-- The write of new training values succeeds (R374, R435). -/
  trainingOk : Bool
  /-- ms from the release of PORST_N to the end of each step S1 to S11 (R434). -/
  endMs : List Nat
  deriving DecidableEq, Repr

/-- The landing domains of posted registers, one per PSTAT register (R334). -/
inductive PBlock where
  | head (n : Fin 16)
  | bt
  | ingress (p : Fin 18)
  | quad (q : Fin 8)
  | cascade
  deriving DecidableEq, Repr

/-- A function that goes to D3hot, and whether the link goes to L1.2 with it (R342, R344). -/
structure D3Entry where
  f : Fin 32
  l12 : Bool
  deriving DecidableEq, Repr

/-- One dword of a write request: its byte enables and its data (R328, R329). -/
structure WDword where
  be : BitVec 4
  data : Word
  deriving DecidableEq, Repr

/-- What a CAN XL frame carries beside its data (R303). -/
structure XlFields where
  sdt : Byte
  af : Word
  vcid : Byte
  sec : Bool
  deriving DecidableEq, Repr

/-- A CAN frame beside its message (R303): its identifier, encoded as REQ_ID is, its data length in bytes, and the fields of a CAN XL
frame; a CAN FD frame has none. -/
structure CanFrame where
  id : Word
  length : Nat
  xl : Option XlFields
  deriving DecidableEq, Repr

/-- A UDP datagram beside its message (R304): addresses and ports, and whether it is an IP fragment or has IP options. -/
structure Datagram where
  srcAddr : Word
  srcPort : BitVec 16
  dstAddr : Word
  dstPort : BitVec 16
  fragment : Bool
  options : Bool
  deriving DecidableEq, Repr

/-- How a dictionary message reaches the agent (R303 to R305). -/
inductive Via where
  | can (c : Fin 2) (f : CanFrame)
  | udp (p : Fin 2) (d : Datagram)
  | window (f : Fin 32)
  deriving DecidableEq, Repr

/-- The authentication trailer of a message (R300, R306). -/
structure Trailer where
  keySlot : Byte
  counter : Word
  mac : BitVec 64
  deriving DecidableEq, Repr

/-- A dictionary message as received (R300). `op` and `flags` are the raw bytes; `len` is the LEN field. The padding of a CAN frame is
no part of `data` (R303). -/
structure Msg where
  via : Via
  op : Byte
  flags : Byte
  seq : Byte
  sub : Byte
  index : BitVec 16
  len : Nat
  data : List Byte
  trailer : Option Trailer
  deriving DecidableEq, Repr

/-- What the keep clock supervisor or the safety manager found wrong (R200 kind 5). -/
inductive ClockTarget where
  | core
  | comparator
  | head (n : Fin 16)
  deriving DecidableEq, Repr

/-- A cascade packet arriving on a channel (R418 to R420). -/
inductive SegPacket where
  /-- The header of a SEGMENT frame. -/
  | header (width height depth : Nat) (frame : DWord)
  /-- A line of a SEGMENT stream. -/
  | line (y : Nat) (pixels : List Word)
  /-- The FS and FE packets of a FORWARD stream, with their virtual channel. -/
  | fs (vc : BitVec 4)
  | fe (vc : BitVec 4)
  /-- A CSI-2 long packet of a FORWARD stream: virtual channel, data type, payload and whether its CRC holds. -/
  | long (vc : BitVec 4) (dt : BitVec 6) (payload : List Byte) (crcOk : Bool)
  deriving DecidableEq, Repr

/-- The main PLLs whose lock loss is category 8 (R461). -/
inductive Pll where
  | core
  | fabric
  | memory
  | belfry
  deriving DecidableEq, Repr

/-- The JTAG instructions the spec tells apart (R26, R479): the challenge is read and its response given through the port. -/
inductive JtagOp where
  | idcode
  | bypass
  | challenge
  | response (mac : List Byte)
  | other (code : Nat)
  deriving DecidableEq, Repr

/-- The commands and events of the block, in the order of the table. -/
inductive Instr where
  | powerOnReset (straps : Straps) (env : StartEnv)
  | systemReset (env : StartEnv)
  | resetGlitch (pin : ResetPin) (ns : Nat) (straps : Straps) (env : StartEnv)
  | watchdogExpiry (env : StartEnv)
  | headEnable (src : Source) (n : Fin 16) (pg : BitVec 3)
  | headDisable (src : Source) (n : Fin 16) (pg : BitVec 3)
  | headBegin (n : Fin 16)
  | headStop (n : Fin 16)
  | frameAnchor (n : Fin 16)
  | fetchWindowOpen (n : Fin 16) (lost : List LostBurst)
  | selection (n : Fin 16)
  | headLatch (n : Fin 16)
  | slewDecision (g : Fin 4)
  | genlockEdge (rising : Bool)
  | holdoverTimeout (g : Fin 4)
  | flareFire (l : Fin 20)
  | pulseEnd (l : Fin 20)
  | writeLand (b : PBlock)
  | registerWrite (src : Source) (addr : Nat) (dwords : List WDword)
  | groupKeyWrite (src : Source) (addr : Nat) (data : Word)
  | groupPending (key : Nat)
  | reservedWrite (f : Fin 32) (addr : Nat) (dwords : List WDword)
  | unsupportedRequest (f : Fin 32) (bar : Fin 3) (off : Nat) (write : Bool)
  | poisonedTlp (f : Fin 32) (addr : Nat)
  | ecrcError (f : Fin 32) (addr : Nat)
  | sbLoad (src : Source) (bank : Fin 4)
  | sbUnload (src : Source) (bank : Fin 4)
  | loadComplete
  | eccCorrectable (m : Fin 4) (burst : Nat) (req : BitVec 4)
  | eccUncorrectable (m : Fin 4) (burst : Nat) (req : BitVec 4) (partialWrite metadata : Bool)
  | eccWriteback (m : Fin 4)
  | patrolScrub (m : Fin 4) (burst : Nat) (single : Bool)
  | pinComplete (i : Nat)
  | tlbInv (src : Source) (ctx : BitVec 6) (all : Bool)
  | rewalkComplete (i : Nat)
  | mr4Poll (m : Fin 4) (mult : BitVec 4) (hot : Bool)
  | bar2Read (f : Fin 32) (off : Nat) (len : Nat)
  | bar2Write (f : Fin 32) (off : Nat) (bytes : List (Option Byte)) (poisoned : Bool)
  | doorbellQueue (f : Fin 32) (p : Fin 768)
  | doorbellQueueStaged (f : Fin 32) (p : Fin 768)
  | doorbellSignal (f : Fin 32) (p : Fin 768)
  | doorbellCancel (f : Fin 32) (p : Fin 768)
  | doorbellBadOp (f : Fin 32) (p : Fin 768) (op : BitVec 4)
  | stageCopyDone (slot : Fin 96) (k : Nat) (lines : List (List Byte))
  | stageCopyFail (slot : Fin 96) (k : Nat) (detail : BitVec 4) (lines : List (List Byte))
  | keepMismatch (n : Fin 16) (col row : Nat) (unknown : Bool)
  | shadowLate (n : Fin 16) (x y : Nat)
  | keepClockFault (t : ClockTarget)
  | selftestLine (n : Fin 16) (pass : Bool)
  | keepClear (src : Source) (n : Fin 16) (regions : BitVec 4)
  | waitl (l : Fin 20)
  | waitlDone (l : Fin 20)
  | waitp (l : Fin 20)
  | waitpDone (l : Fin 20)
  | waitf (l : Fin 20)
  | waitfDone (l : Fin 20)
  | halt (l : Fin 20)
  | nop (l : Fin 20)
  | movi (l : Fin 20)
  | addi (l : Fin 20)
  | subi (l : Fin 20)
  | and (l : Fin 20)
  | cmpi (l : Fin 20)
  | br (l : Fin 20)
  | jmp (l : Fin 20)
  | flare (l : Fin 20)
  | latch (l : Fin 20)
  | signal (l : Fin 20)
  | testf (l : Fin 20)
  | scan (l : Fin 20)
  | stamp (l : Fin 20)
  | irq (l : Fin 20)
  | sync (l : Fin 20)
  | syncMarker (l : Fin 20) (marker : Option Nat)
  | lanternStart (src : Source) (l : Fin 20) (len : BitVec 10) (entry : BitVec 9)
  | lanternStop (src : Source) (l : Fin 20) (len : BitVec 10) (entry : BitVec 9)
  | csiFs (p : Fin 18) (vc : BitVec 4)
  | csiFe (p : Fin 18) (vc : BitVec 4)
  | csiLongPacket (p : Fin 18) (vc : BitVec 4) (dt : BitVec 6) (payload : List Byte) (crcOk : Bool)
  | csiShortIgnored (p : Fin 18) (vc : BitVec 4) (dt : BitVec 6)
  | headerEccError (p : Fin 18)
  | portLockGain (p : Fin 18) (gear : BitVec 8) (rate : BitVec 16)
  | portLockLoss (p : Fin 18)
  | pctrlEnable (src : Source) (p : Fin 18)
  | pctrlDisable (src : Source) (p : Fin 18)
  | quadEnable (src : Source) (q : Fin 8) (value : Word)
  | quadDisable (src : Source) (q : Fin 8) (value : Word)
  | retrain (src : Source) (q : Fin 8) (value : Word)
  | trainingComplete (q : Fin 8) (t : Fin 4) (rate : Option (BitVec 5))
  | linkLoss (q : Fin 8) (t : Fin 4)
  | hpdPlug (q : Fin 8) (t : Fin 4) (level : Bool)
  | hpdIrq (q : Fin 8) (t : Fin 4) (fault : Bool)
  | auxNativeWrite (src : Source) (q : Fin 8) (t : Fin 4) (lenM1 : BitVec 4)
  | auxNativeRead (src : Source) (q : Fin 8) (t : Fin 4) (lenM1 : BitVec 4)
  | auxI2cWrite (src : Source) (q : Fin 8) (t : Fin 4) (lenM1 : BitVec 4)
  | auxI2cRead (src : Source) (q : Fin 8) (t : Fin 4) (lenM1 : BitVec 4)
  | auxComplete (q : Fin 8) (t : Fin 4) (result : BitVec 4) (count : BitVec 4) (bytes : List Byte)
  | open (src : Source) (full : Bool)
  | draftWrite (src : Source) (off : Nat) (data : Word)
  | commit (src : Source) (ticket : BitVec 3) (mask : BitVec 16)
  | rollback (src : Source) (ticket : BitVec 3)
  | verificationComplete
  | ticketTimeout (t : Fin 5)
  | read (m : Msg)
  | write (m : Msg)
  | readSeg (m : Msg)
  | writeSeg (m : Msg)
  | txBegin (m : Msg)
  | txCommit (m : Msg)
  | txRollback (m : Msg)
  | undefinedOpcode (m : Msg)
  | send (f : Fin 32) (len : Nat)
  | windowResponse (f : Fin 32)
  | notify (cls : Fin 8)
  | segmentTimeout (src : Source) (udp : Bool)
  | storeWrite (ok : Bool)
  | diagChallenge (src : Source)
  | diagResponse (src : Source) (mac : List Byte)
  | diagSessionEnd (src : Source)
  | diagSessionTimeout
  | diagLockoutEnd
  | deviceLock (src : Source) (value : Byte)
  | keyRevoke (src : Source) (j : Fin 16) (value : Byte)
  | ledgerClear (src : Source) (value : Byte) (ok : Bool)
  | functionLevelReset (f : Fin 32)
  | hotReset (k : Fin 2)
  | pcieLinkUp (k : Fin 2) (speed : Fin 5) (link : LinkOutcome)
  | pcieLinkDown (k : Fin 2)
  | d3hotEntry (entry : D3Entry)
  | d0Return (f : Fin 32)
  | claim (src : Source) (selected : Bool) (full : Bool)
  | eoi (src : Source) (selected : Bool) (source : BitVec 9)
  | pendSet (src : Source) (selected : Bool) (k : Fin 16) (bits : Word)
  | pendClr (src : Source) (selected : Bool) (k : Fin 16) (bits : Word)
  | maskSet (src : Source) (selected : Bool) (k : Fin 16) (bits : Word)
  | maskClr (src : Source) (selected : Bool) (k : Fin 16) (bits : Word)
  | coalesceTimeout (g : Fin 64)
  | cvStart (src : Source) (u : Fin 8) (value : Word)
  | cvAbort (src : Source) (u : Fin 8) (value : Word)
  | cvProgramEnd (u : Fin 8)
  | submit (f : Fin 32) (e : Fin 2)
  | blitCommandStart (e : Fin 2)
  | blitCommandComplete (e : Fin 2)
  | cringRdWrite (f : Fin 32) (e : Fin 2) (value : Word)
  | preset (src : Source) (k : Fin 16) (j : Fin 9) (value : Word)
  | freeze (src : Source) (on : Bool)
  | counterWrap (k : Fin 16) (j : Fin 9) (n : Fin 16)
  | join (position : Nat) (devices : BitVec 2) (highest : Nat) (secondBelfry : Bool)
  | joinTimeout
  | belfryLoss
  | delayProbe (u : Fin 2) (delay : BitVec 16)
  | osleigLinkChange (u : Fin 2) (up : Bool)
  | segmentLineReceived (u : Fin 2) (channel : Byte) (last : Bool) (p : SegPacket)
  | segmentLineUnusable (k : Fin 4) (line : Nat)
  | sensorSample (temps : List Int)
  | thermalEvaluation
  | spireEntryRequest (src : Source)
  | spireExitRequest (src : Source)
  | spireVoltageReady
  | spireSecond (ok : Bool)
  | wearStore (ok : Bool)
  | shedTimer
  | thermalShutdown
  | aonComparatorShutdown
  | shutdownCauseRead (src : Source)
  | supplyExcursion (rail : Fin 11) (fault : Bool)
  | pllLockLoss (p : Pll)
  | mcLockstepFault (env : StartEnv)
  | faultClear (src : Source) (cats : BitVec 11)
  | heartbeat
  | safetyManagerLoss
  | pgFrameStart (g : Fin 4) (tick : Nat)
  | spireSupplyTimeout
  | pllLockRegained (p : Pll)
  | railInWindow (rail : Fin 11)
  | keepClockRestored (t : ClockTarget)
  | jtagInstruction (op : JtagOp)
  | networkLinkUp (i : Fin 4)
  | linkOutcomeTimeout (step : Fin 2)
  | resetAsserted (pin : ResetPin)
  | vddAonRemoval
  deriving DecidableEq, Repr

end Sys2Proof
end

