-- ==== Sys2Proof/Config.lean ====
section
/-! DEFINITION. What one part fixes in its fuses, and the values the spec leaves open. Every constant is opaque: nothing can be proved of its value. -/

namespace Sys2Proof.Config

/-- Free value: the n-th random byte the device draws (DIAG_CHALLENGE, R299; log entry 8). -/
opaque randomByte : Nat → BitVec 8

/-- Free value: the n-th byte whose contents the spec calls undefined (overlapping blitter rectangles, R391; log entry 8). -/
opaque undefinedByte : Nat → BitVec 8

/-- Free value: the n-th byte that the DSC encoders put out (R262; log entry 29). -/
opaque dscByte : Nat → BitVec 8

/-- Free value: a byte of the SPI NOR whose content the spec does not give, by the alive counter of the copy it belongs to and its
address (R429; log entry 68). -/
opaque norByte : Nat → Nat → BitVec 8

/-- Fuse: the serial number (R317 object 0x1000:0x04, R345). -/
opaque serial : BitVec 64

/-- The version of the firmware Thiward issued (R317 object 0x1000:0x05, R345). -/
opaque fwVersion : BitVec 32

/-- Fuse: the AES-128 key of CMAC key slot j (R306). -/
opaque nodeKey : Nat → BitVec 128

/-- Fuse: the AES-128 diagnostic key (R299). -/
opaque diagKey : BitVec 128

/-- Fuse: whether CMAC key slot j has been provisioned (R306, R317). -/
opaque nodeKeyProvisioned : Nat → Bool

/-- Fuse: the P-256 public key (x, y) of image key slot 0 to 3 (R79). -/
opaque imageKey : Nat → Nat × Nat

/-- Fuse: whether image key slot 0 to 3 holds an unrevoked key (R79, R80 check 5). -/
opaque imageKeyValid : Nat → Bool

/-- Thiward's manufacturer identity in the JTAG IDCODE word, 11 bits (R479). -/
opaque jtagManufacturer : BitVec 11

/-- Thiward's PCIe vendor number (R2). -/
opaque pcieVendor : BitVec 16

/-- Fuses: the Subsystem Vendor ID and the Subsystem ID of a function (R321). -/
opaque subsystemVendor : BitVec 16
opaque subsystemId : BitVec 16

/-- Free value: the threshold t_F of the filter of PORST_N (0) and SYSRST_N (1): `resetFilter` gives it between 1 µs and 10 µs (R478). -/
opaque resetFilter : Nat → Nat

end Sys2Proof.Config
end

