-- ==== Sys2Proof/Machine/Bits.lean ====
section
/-! DEFINITION. Bit fields, saturation and little-endian bytes. -/

namespace Sys2Proof.Machine

/-- The field of a word whose lowest bit is `lo` and whose width is `w`. -/
def fld (x : Word) (lo w : Nat) : Nat := x.toNat / 2 ^ lo % 2 ^ w

/-- One bit of a word. -/
def bit (x : Word) (i : Nat) : Bool := x.getLsbD i

/-- A value placed at bit `lo` of a word. -/
def put (v lo : Nat) : Word := BitVec.ofNat 32 v <<< lo

/-- A Boolean placed at bit `lo` of a word. -/
def putb (b : Bool) (lo : Nat) : Word := if b then 1#32 <<< lo else 0#32

/-- The bits of `new` where `m` is 1, those of `old` elsewhere. -/
def mergeBits (m old new : Word) : Word := (old &&& ~~~m) ||| (new &&& m)

/-- A field replaced. -/
def withFld (x : Word) (lo w v : Nat) : Word :=
  mergeBits (BitVec.ofNat 32 (2 ^ w - 1) <<< lo) x (BitVec.ofNat 32 (v % 2 ^ w) <<< lo)

/-- A saturating sum within a width. -/
def satAdd (w a b : Nat) : Nat := if a + b < 2 ^ w then a + b else 2 ^ w - 1

/-- A field of a word raised by `n`, saturating. -/
def bumpFld (x : Word) (lo w n : Nat) : Word := withFld x lo w (satAdd w (fld x lo w) n)

/-- The signed value of the low `w` bits of a number. -/
def signed (w v : Nat) : Int := if v % 2 ^ w < 2 ^ (w - 1) then (v % 2 ^ w : Nat) else (v % 2 ^ w : Nat) - (2 ^ w : Nat)

/-- An integer as a word, two's complement. -/
def wordOfInt (i : Int) : Word := BitVec.ofInt 32 i

/-- The quotient rounded up. -/
def ceilDiv (a b : Nat) : Nat := (a + b - 1) / b

/-- The value bounded on both sides. -/
def clampInt (lo hi x : Int) : Int := if x < lo then lo else if hi < x then hi else x

/-- The number that bytes spell, the first byte lowest (R295, R327). -/
def leNat : List Byte → Nat
  | [] => 0
  | b :: t => b.toNat + 256 * leNat t

/-- The low `n` bytes of a number, the lowest first. -/
def leBytes : Nat → Nat → List Byte
  | 0, _ => []
  | n + 1, v => BitVec.ofNat 8 v :: leBytes n (v / 256)

/-- The number that bytes spell, the first byte highest. -/
def beNat (l : List Byte) : Nat := l.foldl (fun a b => a * 256 + b.toNat) 0

/-- The low `n` bytes of a number, the highest first. -/
def beBytes (n v : Nat) : List Byte := (leBytes n v).reverse

/-- `n` bytes of a list from an offset; a byte beyond its end reads 0. -/
def sliceBytes (l : List Byte) (off n : Nat) : List Byte :=
  let t := (l.drop off).take n
  t ++ List.replicate (n - t.length) 0

/-- A little-endian field of a byte string. -/
def leAt (l : List Byte) (off n : Nat) : Nat := leNat (sliceBytes l off n)

/-- The words of a byte string, the lowest byte first. -/
def wordsOf : List Byte → List Word
  | a :: b :: c :: d :: t => BitVec.ofNat 32 (leNat [a, b, c, d]) :: wordsOf t
  | [] => []
  | l => [BitVec.ofNat 32 (leNat l)]

/-- The bytes of a word list. -/
def bytesOf (l : List Word) : List Byte := l.flatMap (fun w => leBytes 4 w.toNat)

/-- The numbers of the bits of a mask that are 1, lowest first. -/
def bitsOf (w : Nat) (m : BitVec w) : List Nat := (List.range w).filter (fun i => m.getLsbD i)

/-- One bit of a vector set to a value. -/
def setBit {w : Nat} (m : BitVec w) (i : Nat) (b : Bool) : BitVec w :=
  if b then m ||| (BitVec.ofNat w 1 <<< i) else m &&& ~~~(BitVec.ofNat w 1 <<< i)

end Sys2Proof.Machine
end

