-- ==== Sys2Proof/Machine/SMap.lean ====
section
/-! DEFINITION. Reading and writing the sparse maps of the state. A map is kept in one canonical form: keys strictly rising
and no entry equal to what an unlisted key reads as, so that equal tables are equal data. -/

namespace Sys2Proof.Machine

/-- The entry at a key, or the value `d` that an unlisted key reads as. -/
def SMap.get {α : Type} (m : SMap α) (k : Nat) (d : α) : α :=
  match m with
  | [] => d
  | (k', v) :: t => if k' = k then v else SMap.get t k d

/-- The map without any entry at a key. -/
def SMap.erase {α : Type} (m : SMap α) (k : Nat) : SMap α :=
  match m with
  | [] => []
  | (k', v) :: t => if k' = k then SMap.erase t k else (k', v) :: SMap.erase t k

/-- The map with the entry at a key inserted in key order. -/
def SMap.ins {α : Type} (m : SMap α) (k : Nat) (v : α) : SMap α :=
  match m with
  | [] => [(k, v)]
  | (k', v') :: t =>
    if k < k' then (k, v) :: (k', v') :: t
    else if k' = k then (k, v) :: t
    else (k', v') :: SMap.ins t k v

/-- Writing a key: an entry equal to what an unlisted key reads as is removed. -/
def SMap.set {α : Type} [DecidableEq α] (m : SMap α) (k : Nat) (v d : α) : SMap α :=
  if v = d then SMap.erase m k else SMap.ins m k v

/-- Changing the entry at a key. -/
def SMap.upd {α : Type} [DecidableEq α] (m : SMap α) (k : Nat) (d : α) (f : α → α) : SMap α :=
  SMap.set m k (f (SMap.get m k d)) d

/-- Keys rise strictly, all from `lo` on, and no entry equals `d`. -/
def SMap.wfFrom {α : Type} [DecidableEq α] (lo : Nat) (d : α) : SMap α → Bool
  | [] => true
  | (k, v) :: t => decide (lo ≤ k) && !decide (v = d) && SMap.wfFrom (k + 1) d t

/-- The canonical form. -/
def SMap.wf {α : Type} [DecidableEq α] (m : SMap α) (d : α) : Bool := SMap.wfFrom 0 d m

end Sys2Proof.Machine
end

