-- ==== Sys2Proof/Machine/RegTable.lean ====
section
/-! DEFINITION. The register map: every register of the BAR0 register space by name, with its place, its stored bits, its
reset value and how a write of it is taken; and the decoding of an address to a register. -/

namespace Sys2Proof.Machine

/-- The registers, one name per register of the tables of R61, R62, R95, R116, R141 to R143, R161, R186 to R188, R214, R215,
R234, R253, R269, R292, R319, R345, R361, R362, R375, R394, R395, R404, R405, R425, R441 and R466. -/
inductive RegName where
  | hlId
  | hlSerialLo
  | hlSerialHi
  | hlFwVersion
  | hlPLink
  | hlBar2Ctx
  | hlBar2Base
  | hlErrStatus
  | hlErrAddr
  | hlErrInfo
  | hlErrData
  | hlMsix
  | hlPba
  | txOpen
  | txCommit
  | txRollback
  | txTimeout
  | txPool
  | txPendingLog
  | txPendingCount
  | txTstate
  | txTmask
  | txTentries
  | txHcode
  | txAppliedLo
  | txAppliedHi
  | icPend
  | icPendSet
  | icPendClr
  | icMask
  | icMaskSet
  | icMaskClr
  | icClaim
  | icEoi
  | icThreshold
  | icRun
  | icCtrl
  | icStatus
  | icStack
  | icPrio
  | icCoal
  | icGcfg
  | icGstate
  | icSel
  | dwReq
  | dwRsp
  | dwSend
  | dwStatus
  | dhCtrl
  | dhPstat
  | dhHTiming
  | dhHSync
  | dhVTiming
  | dhVSync
  | dhPairDiv
  | dhLatchLine
  | dhPgOffset
  | dhPosition
  | dhStatus
  | dhFrameLo
  | dhFrameHi
  | dhLatchTickLo
  | dhLatchTickHi
  | dhLastSlew
  | btTickLo
  | btTickHi
  | btPstat
  | btPgCtrl
  | btRefOffset
  | btPgStatus
  | btFlareOe
  | btFlareSafe
  | btFlareLevel
  | btLateFire
  | btFlareOwner
  | mcSbCmd
  | mcSbLen
  | mcSbStatus
  | mcSbState
  | mcSbSelect
  | mcSbId
  | mcSbInfo
  | mcSbAlive
  | mfRootLo
  | mfRootHi
  | mfTlbInv
  | mfTlbInvVa
  | mfMirrorOf
  | mfOpenWeight
  | mfPinStat
  | mfKeepWin
  | mfXlatLo
  | mfXlatHi
  | mfChStatus
  | mfEccCount
  | mfEccThresh
  | mfEccLogLo
  | mfEccLogHi
  | siPctrl
  | siPstat
  | siLink
  | siIqMode
  | siSctrl
  | siRingPitch
  | siRingGeom
  | siRingCtx
  | siRingBaseLo
  | siRingBaseHi
  | siSstatus
  | siPos
  | siFrame
  | siFsTickLo
  | siFsTickHi
  | siErrcount
  | siDropCount
  | siRaceLost
  | siRaceSubst
  | siRaceBound
  | faCtrl
  | faSubstColor
  | faConstColor
  | faFormat
  | faPitch
  | faPlane1
  | faBaseLo
  | faBaseHi
  | faSrcPos
  | faSrcSize
  | faDstPos
  | faDstSize
  | faMisc
  | faSubstCount
  | faEventCount
  | faQstate
  | faShownTag
  | faClut
  | ppBufLo
  | ppBufHi
  | ppPlane1
  | ppFence
  | ppFenceVal
  | ppTag
  | ppHostLo
  | ppHostHi
  | ppHostPitch
  | ppDoorbell
  | ppStatus
  | faPortCfg
  | faFence
  | faFenceCfg
  | faDoneRec
  | faDoneWr
  | faDoneRd
  | faDoneOvr
  | faRejectCount
  | saTaps
  | saHInit
  | saVInit
  | saHRatio
  | saVRatio
  | saChroma
  | saStatus
  | saHcoef
  | saVcoef
  | ccBackground
  | ccInfo
  | scKeepStatus
  | scSelftest
  | scKfallbackLo
  | scKfallbackHi
  | scBackdrop
  | scKstatus
  | scFaultTile
  | scFaultFrameLo
  | scFaultFrameHi
  | scClear
  | scMismatch
  | scKrRect0
  | scKrRect1
  | scKrSafe
  | scKrCtrl
  | scSigRect0
  | scSigRect1
  | scExpect
  | scSigCtrl
  | scResult
  | scSigFrameLo
  | scSigFrameHi
  | scFail
  | scFrozen
  | scShadowResult
  | cpHctrl
  | cpHstatus
  | cpMat
  | cpPostRg
  | cpPostB
  | cpDegamma
  | cpRegamma
  | cpLctrl
  | cpLcoef
  | cpLpre01
  | cpLpre2
  | cpLpost01
  | cpLpost2
  | oqQctrl
  | oqPstat
  | oqDsc
  | oqLink
  | oqAuxCmd
  | oqAuxAddr
  | oqAuxData
  | oqAuxStatus
  | epEctrl
  | epEstat
  | caStatus
  | caPstat
  | caStepLo
  | caStepHi
  | caLossPolicy
  | caOslLink
  | caOslLoss
  | caRelayDrop
  | caSend
  | caSegCols
  | caSegCtrl
  | caSegStatus
  | caFwdRx
  | laLctrl
  | laLstatus
  | laLbudget
  | laLstream
  | laLate
  | laFaultWord
  | laMarkLo
  | laMarkHi
  | laLg
  | laProg
  | mcStartStatus
  | mcStartNo
  | mcFirstPixel
  | mcStep
  | mcThermStatus
  | mcSensor
  | mcSpireCtrl
  | mcSpireStatus
  | mcSpireSeconds
  | mcOpSeconds
  | mcHotSeconds
  | mcShed
  | mcFaultStatus
  | mcFaultClear
  | mcFaultnMask
  | mcFaultnMaskHi
  | cvCtrl
  | cvStatus
  | cvAddrLo
  | cvAddrHi
  | cvLength
  | cvPitch
  | cvLines
  | cvCfg
  | cvExpectLo
  | cvExpectHi
  | cvResLo
  | cvResHi
  | blCtrl
  | blStatus
  | blSubmitSeq
  | blDoneSeq
  | blFaultLog
  | blFaultSeq
  | blShareCfg
  | shCmd
  | shSubmit
  | shSubStatus
  | shLastSeq
  | shDoneSeq
  | shLastDone
  | shLastDoneSeq
  | shCringLo
  | shCringHi
  | shCringCtrl
  | shCringWr
  | shCringRd
  | pmFreeze
  | pmUserEn
  | pmCtrl
  | pmOvf
  | pmCycLo
  | pmCycHi
  | pmCtrLo
  | pmCtrHi
  | pmEvtsel
  | pmCycPreset
  | pmReserved
  | pmPreset
  deriving DecidableEq, Repr

/-- The coherence groups of R285. -/
inductive Grp where
  | timing | surface | geometry | scaler | postMatrix | layerConv | keepRegion | kfallback | signature
  | ctxRoot | bufAddr | hostAddr | ring | segment | cring | cvAddr | cvExpect
  deriving DecidableEq, Repr

/-- How a write of a register is taken (R11, R12, R285). -/
inductive WKind where
  /-- RO: a write is ignored and sets no flag. -/
  | ro
  /-- RW: the writable bits are stored at once, or on landing. -/
  | rw
  /-- W1C of a value held in the register file. -/
  | w1c
  /-- WO1: the first write after power-on takes effect. -/
  | wo1
  /-- RWL: as RW until the device lock. -/
  | rwl
  /-- The write acts as its own rule says. -/
  | act
  /-- A ·T field of no group: waits for a latch. -/
  | latched
  /-- A member of a coherence group other than its key. -/
  | mem (g : Grp)
  /-- The key of a coherence group. -/
  | key (g : Grp)
  deriving DecidableEq, Repr

/-- One register of the map. `base` is its BAR0 offset at indices 0; `dims` gives (count, stride) of each index, outermost
first. A page that every function has of its own carries the function (or target) as an outer index of stride 2^28, and the
lanterns lie at 0x0C00_0000 + 0x1_0000 · l; `canonical` gives the offset of this map for an address. -/
structure RegRow where
  base : Nat
  dims : List (Nat × Nat)
  mask : Word
  reset : Word
  kind : WKind
  posted : Bool
  deriving DecidableEq, Repr

/-- The map, row by row. -/
def RegName.row : RegName → RegRow
  | .hlId => ⟨0x0, [], 0x0#32, 0x71601100#32, .ro, false⟩ -- HL.ID (R345); FUNC per reader
  | .hlSerialLo => ⟨0x8, [], 0x0#32, 0x0#32, .ro, false⟩ -- SERIAL_LO
  | .hlSerialHi => ⟨0xc, [], 0x0#32, 0x0#32, .ro, false⟩ -- SERIAL_HI
  | .hlFwVersion => ⟨0x10, [], 0x0#32, 0x0#32, .ro, false⟩ -- FW_VERSION
  | .hlPLink => ⟨0x100, [(2, 0x20)], 0x0#32, 0x0#32, .ro, false⟩ -- P[k].P_LINK
  | .hlBar2Ctx => ⟨0x104, [(2, 0x20)], 0x3f#32, 0x0#32, .rw, false⟩ -- P[k].BAR2_CTX
  | .hlBar2Base => ⟨0x108, [(2, 0x20)], 0xfff#32, 0x0#32, .rw, false⟩ -- P[k].BAR2_BASE
  | .hlErrStatus => ⟨0x1000, [(32, 0x20)], 0x0#32, 0x0#32, .act, false⟩ -- ERR[f].STATUS
  | .hlErrAddr => ⟨0x1004, [(32, 0x20)], 0x0#32, 0x0#32, .act, false⟩ -- ERR[f].ERR_ADDR
  | .hlErrInfo => ⟨0x1008, [(32, 0x20)], 0x0#32, 0x0#32, .ro, false⟩ -- ERR[f].ERR_INFO
  | .hlErrData => ⟨0x100c, [(32, 0x20)], 0x0#32, 0x0#32, .ro, false⟩ -- ERR[f].ERR_DATA
  | .hlMsix => ⟨0x8000, [(32, 0x10000000), (4, 0x4)], 0xffffffff#32, 0x0#32, .act, false⟩ -- MSI-X table entry of function f (R321)
  | .hlPba => ⟨0x9000, [(32, 0x10000000), (2, 0x4)], 0x0#32, 0x0#32, .ro, false⟩ -- MSI-X pending bit array (R321)
  | .txOpen => ⟨0x10000, [], 0x0#32, 0x0#32, .ro, false⟩ -- TX.OPEN (R292)
  | .txCommit => ⟨0x10004, [], 0x0#32, 0x0#32, .act, false⟩ -- TX.COMMIT
  | .txRollback => ⟨0x10008, [], 0x0#32, 0x0#32, .act, false⟩ -- TX.ROLLBACK
  | .txTimeout => ⟨0x1000c, [], 0xffff#32, 0x3e8#32, .act, false⟩ -- TX.TIMEOUT
  | .txPool => ⟨0x10010, [], 0x0#32, 0x1000#32, .ro, false⟩ -- TX.POOL
  | .txPendingLog => ⟨0x10014, [], 0x0#32, 0x0#32, .act, false⟩ -- TX.PENDING_LOG
  | .txPendingCount => ⟨0x10018, [], 0x0#32, 0x0#32, .act, false⟩ -- TX.PENDING_COUNT
  | .txTstate => ⟨0x10100, [(4, 0x100)], 0x0#32, 0xff00#32, .ro, false⟩ -- TX[t].TSTATE
  | .txTmask => ⟨0x10104, [(4, 0x100)], 0x0#32, 0x0#32, .ro, false⟩ -- TMASK
  | .txTentries => ⟨0x10108, [(4, 0x100)], 0x0#32, 0x0#32, .ro, false⟩ -- TENTRIES
  | .txHcode => ⟨0x10110, [(4, 0x100), (4, 0x4)], 0x0#32, 0x0#32, .ro, false⟩ -- HCODE[k]
  | .txAppliedLo => ⟨0x10180, [(4, 0x100), (16, 0x8)], 0x0#32, 0xffffffff#32, .ro, false⟩ -- APPLIED_FRAME_LO[n]
  | .txAppliedHi => ⟨0x10184, [(4, 0x100), (16, 0x8)], 0x0#32, 0xffffffff#32, .ro, false⟩ -- APPLIED_FRAME_HI[n]
  | .icPend => ⟨0x20000, [(34, 0x10000000), (16, 0x4)], 0x0#32, 0x0#32, .ro, false⟩ -- PEND[k] of a target (R362)
  | .icPendSet => ⟨0x20040, [(34, 0x10000000), (16, 0x4)], 0x0#32, 0x0#32, .act, false⟩ -- PEND_SET[k]
  | .icPendClr => ⟨0x20080, [(34, 0x10000000), (16, 0x4)], 0x0#32, 0x0#32, .act, false⟩ -- PEND_CLR[k]
  | .icMask => ⟨0x200c0, [(34, 0x10000000), (16, 0x4)], 0x0#32, 0xffffffff#32, .ro, false⟩ -- MASK[k]
  | .icMaskSet => ⟨0x20100, [(34, 0x10000000), (16, 0x4)], 0x0#32, 0x0#32, .act, false⟩ -- MASK_SET[k]
  | .icMaskClr => ⟨0x20140, [(34, 0x10000000), (16, 0x4)], 0x0#32, 0x0#32, .act, false⟩ -- MASK_CLR[k]
  | .icClaim => ⟨0x20180, [(34, 0x10000000)], 0x0#32, 0x0#32, .ro, false⟩ -- CLAIM
  | .icEoi => ⟨0x20184, [(34, 0x10000000)], 0x0#32, 0x0#32, .act, false⟩ -- EOI
  | .icThreshold => ⟨0x20188, [(34, 0x10000000)], 0x1f#32, 0x0#32, .act, false⟩ -- THRESHOLD
  | .icRun => ⟨0x2018c, [(34, 0x10000000)], 0x0#32, 0x0#32, .ro, false⟩ -- RUN
  | .icCtrl => ⟨0x20190, [(34, 0x10000000)], 0x3#32, 0x0#32, .act, false⟩ -- CTRL
  | .icStatus => ⟨0x20194, [(34, 0x10000000)], 0x0#32, 0x0#32, .act, false⟩ -- STATUS
  | .icStack => ⟨0x201a0, [(34, 0x10000000), (8, 0x4)], 0x0#32, 0x0#32, .ro, false⟩ -- STACK[j]
  | .icPrio => ⟨0x20200, [(34, 0x10000000), (128, 0x4)], 0x1f1f1f1f#32, 0x0#32, .act, false⟩ -- PRIO[w]
  | .icCoal => ⟨0x20400, [(34, 0x10000000), (128, 0x4)], 0xbfbfbfbf#32, 0x0#32, .act, false⟩ -- COAL[w]
  | .icGcfg => ⟨0x22000, [(64, 0x10)], 0xbfffffff#32, 0x0#32, .act, false⟩ -- GCFG[g] (R361)
  | .icGstate => ⟨0x22004, [(64, 0x10)], 0x0#32, 0x0#32, .ro, false⟩ -- GSTATE[g]
  | .icSel => ⟨0x23000, [(32, 0x10000000)], 0x3f#32, 0x0#32, .act, false⟩ -- SEL of a PF
  | .dwReq => ⟨0x60000, [(32, 0x10000000), (1024, 0x4)], 0xffffffff#32, 0x0#32, .rw, false⟩ -- dictionary window REQ[w] (R319)
  | .dwRsp => ⟨0x61000, [(32, 0x10000000), (1024, 0x4)], 0x0#32, 0x0#32, .ro, false⟩ -- RSP[w]
  | .dwSend => ⟨0x62000, [(32, 0x10000000)], 0x0#32, 0x0#32, .act, false⟩ -- SEND
  | .dwStatus => ⟨0x62004, [(32, 0x10000000)], 0x0#32, 0x0#32, .act, false⟩ -- STATUS
  | .dhCtrl => ⟨0x800000, [(16, 0x10000)], 0xf#32, 0x0#32, .act, true⟩ -- DH[n].CTRL (R61)
  | .dhPstat => ⟨0x800004, [(16, 0x10000)], 0x0#32, 0x0#32, .act, false⟩ -- PSTAT
  | .dhHTiming => ⟨0x800010, [(16, 0x10000)], 0xffffffff#32, 0x0#32, (.mem .timing), true⟩ -- H_TIMING
  | .dhHSync => ⟨0x800014, [(16, 0x10000)], 0xffffffff#32, 0x0#32, (.mem .timing), true⟩ -- H_SYNC
  | .dhVTiming => ⟨0x800018, [(16, 0x10000)], 0xffffffff#32, 0x0#32, (.mem .timing), true⟩ -- V_TIMING
  | .dhVSync => ⟨0x80001c, [(16, 0x10000)], 0xc0ffffff#32, 0x0#32, (.mem .timing), true⟩ -- V_SYNC
  | .dhPairDiv => ⟨0x800020, [(16, 0x10000)], 0xffffffff#32, 0x0#32, (.key .timing), true⟩ -- PAIR_DIV
  | .dhLatchLine => ⟨0x800024, [(16, 0x10000)], 0xffff#32, 0x0#32, .latched, true⟩ -- LATCH_LINE
  | .dhPgOffset => ⟨0x800028, [(16, 0x10000)], 0xffffffff#32, 0x0#32, .latched, true⟩ -- PG_OFFSET
  | .dhPosition => ⟨0x800040, [(16, 0x10000)], 0x0#32, 0x0#32, .ro, true⟩ -- POSITION
  | .dhStatus => ⟨0x800044, [(16, 0x10000)], 0xa#32, 0x0#32, .act, true⟩ -- STATUS
  | .dhFrameLo => ⟨0x800048, [(16, 0x10000)], 0x0#32, 0x0#32, .ro, true⟩ -- FRAME_LO
  | .dhFrameHi => ⟨0x80004c, [(16, 0x10000)], 0x0#32, 0x0#32, .ro, true⟩ -- FRAME_HI
  | .dhLatchTickLo => ⟨0x800050, [(16, 0x10000)], 0x0#32, 0x0#32, .ro, true⟩ -- LATCH_TICK_LO
  | .dhLatchTickHi => ⟨0x800054, [(16, 0x10000)], 0x0#32, 0x0#32, .ro, true⟩ -- LATCH_TICK_HI
  | .dhLastSlew => ⟨0x800058, [(16, 0x10000)], 0x0#32, 0x0#32, .ro, true⟩ -- LAST_SLEW
  | .btTickLo => ⟨0xa00000, [], 0x0#32, 0x0#32, .ro, true⟩ -- BT.TICK_LO (R62)
  | .btTickHi => ⟨0xa00004, [], 0x0#32, 0x0#32, .ro, true⟩ -- TICK_HI
  | .btPstat => ⟨0xa00008, [], 0x0#32, 0x0#32, .act, false⟩ -- BT.PSTAT
  | .btPgCtrl => ⟨0xa00100, [(4, 0x20)], 0xff0f07#32, 0x0#32, .latched, true⟩ -- PG[g].CTRL
  | .btRefOffset => ⟨0xa00104, [(4, 0x20)], 0xffffffff#32, 0x0#32, .latched, true⟩ -- PG[g].REF_OFFSET
  | .btPgStatus => ⟨0xa00108, [(4, 0x20)], 0x0#32, 0x0#32, .ro, true⟩ -- PG[g].STATUS
  | .btFlareOe => ⟨0xa00200, [], 0xffffffff#32, 0x0#32, .rw, true⟩ -- FLARE_OE
  | .btFlareSafe => ⟨0xa00204, [], 0xffffffff#32, 0x0#32, .rw, true⟩ -- FLARE_SAFE
  | .btFlareLevel => ⟨0xa00208, [], 0x0#32, 0x0#32, .ro, true⟩ -- FLARE_LEVEL
  | .btLateFire => ⟨0xa0020c, [], 0xfffff#32, 0x0#32, .rw, true⟩ -- FLARE_LATE_FIRE
  | .btFlareOwner => ⟨0xa00280, [(32, 0x4)], 0x1f#32, 0x1f#32, .act, true⟩ -- FLARE_OWNER[p]
  | .mcSbCmd => ⟨0xb01000, [], 0xc#32, 0x0#32, .act, false⟩ -- MC.SB_CMD (R95)
  | .mcSbLen => ⟨0xb01004, [], 0xffffffff#32, 0x0#32, .rw, false⟩ -- SB_LEN
  | .mcSbStatus => ⟨0xb01008, [], 0x0#32, 0x0#32, .ro, false⟩ -- SB_STATUS
  | .mcSbState => ⟨0xb0100c, [], 0x0#32, 0x0#32, .ro, false⟩ -- SB_STATE
  | .mcSbSelect => ⟨0xb01010, [], 0x3#32, 0x0#32, .latched, false⟩ -- SB_SELECT (draft-only)
  | .mcSbId => ⟨0xb01020, [(4, 0x4)], 0x0#32, 0xffffffff#32, .ro, false⟩ -- SB_ID[b]
  | .mcSbInfo => ⟨0xb01030, [(4, 0x4)], 0x0#32, 0x0#32, .ro, false⟩ -- SB_INFO[b]
  | .mcSbAlive => ⟨0xb01040, [(4, 0x4)], 0x0#32, 0x0#32, .ro, false⟩ -- SB_ALIVE[b]
  | .mfRootLo => ⟨0x100000, [(64, 0x8)], 0xffff8001#32, 0x0#32, (.mem .ctxRoot), false⟩ -- MF.CTX[c].ROOT_LO (R116)
  | .mfRootHi => ⟨0x100004, [(64, 0x8)], 0x1f#32, 0x0#32, (.key .ctxRoot), false⟩ -- CTX[c].ROOT_HI
  | .mfTlbInv => ⟨0x100200, [], 0x0#32, 0x0#32, .act, false⟩ -- TLB_INV
  | .mfTlbInvVa => ⟨0x100204, [], 0x3fffffff#32, 0x0#32, .rw, false⟩ -- TLB_INV_VA
  | .mfMirrorOf => ⟨0x100210, [], 0xff#32, 0x0#32, .wo1, false⟩ -- MIRROR_OF
  | .mfOpenWeight => ⟨0x100220, [], 0xffffffff#32, 0x42122444#32, .rw, false⟩ -- OPEN_WEIGHT
  | .mfPinStat => ⟨0x100230, [], 0xffff0000#32, 0x0#32, .w1c, false⟩ -- PIN_STAT; USED is read from the pin store
  | .mfKeepWin => ⟨0x100240, [(4, 0x4)], 0xffffffff#32, 0x0#32, .wo1, false⟩ -- KEEP_WIN[m]
  | .mfXlatLo => ⟨0x100260, [], 0x0#32, 0x0#32, .ro, false⟩ -- XLAT_LOG_LO
  | .mfXlatHi => ⟨0x100264, [], 0x80000000#32, 0x0#32, .act, false⟩ -- XLAT_LOG_HI
  | .mfChStatus => ⟨0x101000, [(4, 0x100)], 0x0#32, 0x0#32, .ro, false⟩ -- CH[m].STATUS
  | .mfEccCount => ⟨0x101004, [(4, 0x100)], 0xffffffff#32, 0x0#32, .w1c, false⟩ -- CH[m].ECC_COUNT
  | .mfEccThresh => ⟨0x101008, [(4, 0x100)], 0xffff#32, 0x10#32, .rw, false⟩ -- CH[m].ECC_CE_THRESH
  | .mfEccLogLo => ⟨0x101010, [(4, 0x100)], 0x0#32, 0x0#32, .ro, false⟩ -- CH[m].ECC_LOG_LO
  | .mfEccLogHi => ⟨0x101014, [(4, 0x100)], 0x80000000#32, 0x0#32, .act, false⟩ -- CH[m].ECC_LOG_HI
  | .siPctrl => ⟨0x200000, [(18, 0x40)], 0x1#32, 0x0#32, .act, true⟩ -- SI port p PCTRL (R253)
  | .siPstat => ⟨0x200004, [(18, 0x40)], 0x0#32, 0x0#32, .act, false⟩ -- PSTAT of port p
  | .siLink => ⟨0x200008, [(18, 0x40)], 0x0#32, 0x0#32, .ro, true⟩ -- LINK of port p
  | .siIqMode => ⟨0x200800, [(4, 0x4)], 0x1#32, 0x0#32, .rw, true⟩ -- IQ[q].MODE
  | .siSctrl => ⟨0x210000, [(192, 0x40)], 0x811fff3f#32, 0x201e#32, .act, false⟩ -- STREAM[s].SCTRL
  | .siRingPitch => ⟨0x210004, [(192, 0x40)], 0xffffff#32, 0x0#32, (.mem .ring), false⟩ -- RING_PITCH
  | .siRingGeom => ⟨0x210008, [(192, 0x40)], 0xffffffff#32, 0x0#32, (.mem .ring), false⟩ -- RING_GEOM
  | .siRingCtx => ⟨0x21000c, [(192, 0x40)], 0x3f#32, 0x0#32, (.mem .ring), false⟩ -- RING_CTX
  | .siRingBaseLo => ⟨0x210010, [(192, 0x40)], 0xffffffff#32, 0x0#32, (.mem .ring), false⟩ -- RING_BASE_LO
  | .siRingBaseHi => ⟨0x210014, [(192, 0x40)], 0x3ff#32, 0x0#32, (.key .ring), false⟩ -- RING_BASE_HI
  | .siSstatus => ⟨0x210018, [(192, 0x40)], 0x0#32, 0x0#32, .ro, false⟩ -- SSTATUS
  | .siPos => ⟨0x21001c, [(192, 0x40)], 0x0#32, 0x0#32, .ro, false⟩ -- POS
  | .siFrame => ⟨0x210020, [(192, 0x40)], 0x0#32, 0x0#32, .ro, false⟩ -- FRAME
  | .siFsTickLo => ⟨0x210024, [(192, 0x40)], 0x0#32, 0x0#32, .ro, false⟩ -- FS_TICK_LO
  | .siFsTickHi => ⟨0x210028, [(192, 0x40)], 0x0#32, 0x0#32, .ro, false⟩ -- FS_TICK_HI
  | .siErrcount => ⟨0x21002c, [(192, 0x40)], 0xffffff00#32, 0x0#32, .w1c, false⟩ -- ERRCOUNT
  | .siDropCount => ⟨0x210030, [(192, 0x40)], 0xffff#32, 0x0#32, .w1c, false⟩ -- DROP_COUNT
  | .siRaceLost => ⟨0x220000, [(24, 0x10)], 0xffffffff#32, 0x0#32, .w1c, false⟩ -- RACE_LOST
  | .siRaceSubst => ⟨0x220004, [(24, 0x10)], 0xffffffff#32, 0x0#32, .w1c, false⟩ -- RACE_SUBST
  | .siRaceBound => ⟨0x220008, [(24, 0x10)], 0x0#32, 0x0#32, .ro, false⟩ -- RACE_BOUND
  | .faCtrl => ⟨0x300000, [(96, 0x1000)], 0xf0ffff9#32, 0xff00#32, .latched, false⟩ -- FA[slot].CTRL (R141)
  | .faSubstColor => ⟨0x300004, [(96, 0x1000)], 0xffffffff#32, 0xff000000#32, .latched, false⟩ -- SUBST_COLOR
  | .faConstColor => ⟨0x300008, [(96, 0x1000)], 0xffffff#32, 0x0#32, .latched, false⟩ -- CONST_COLOR
  | .faFormat => ⟨0x300010, [(96, 0x1000)], 0xff#32, 0x0#32, (.mem .surface), false⟩ -- FORMAT
  | .faPitch => ⟨0x300014, [(96, 0x1000)], 0xffffff#32, 0x0#32, (.mem .surface), false⟩ -- PITCH
  | .faPlane1 => ⟨0x300018, [(96, 0x1000)], 0xffffffff#32, 0x0#32, (.mem .surface), false⟩ -- PLANE1_OFFSET
  | .faBaseLo => ⟨0x30001c, [(96, 0x1000)], 0xffffffff#32, 0x0#32, (.mem .surface), false⟩ -- BASE_LO
  | .faBaseHi => ⟨0x300020, [(96, 0x1000)], 0x3ff#32, 0x0#32, (.key .surface), false⟩ -- BASE_HI
  | .faSrcPos => ⟨0x300030, [(96, 0x1000)], 0xffffffff#32, 0x0#32, (.mem .geometry), false⟩ -- SRC_POS
  | .faSrcSize => ⟨0x300034, [(96, 0x1000)], 0xffffffff#32, 0x0#32, (.mem .geometry), false⟩ -- SRC_SIZE
  | .faDstPos => ⟨0x300038, [(96, 0x1000)], 0xffffffff#32, 0x0#32, (.mem .geometry), false⟩ -- DST_POS
  | .faDstSize => ⟨0x30003c, [(96, 0x1000)], 0xffffffff#32, 0x0#32, (.key .geometry), false⟩ -- DST_SIZE
  | .faMisc => ⟨0x300040, [(96, 0x1000)], 0xff3f#32, 0x0#32, .latched, false⟩ -- MISC; 3 << 8 + 63 on a K slot
  | .faSubstCount => ⟨0x300050, [(96, 0x1000)], 0xffffffff#32, 0x0#32, .w1c, false⟩ -- SUBST_COUNT
  | .faEventCount => ⟨0x300054, [(96, 0x1000)], 0xffffffff#32, 0x0#32, .w1c, false⟩ -- EVENT_COUNT
  | .faQstate => ⟨0x300058, [(96, 0x1000)], 0x0#32, 0x0#32, .ro, false⟩ -- QSTATE
  | .faShownTag => ⟨0x30005c, [(96, 0x1000)], 0x0#32, 0x0#32, .ro, false⟩ -- SHOWN_TAG
  | .faClut => ⟨0x300400, [(96, 0x1000), (256, 0x4)], 0xffffffff#32, 0x0#32, .latched, false⟩ -- CLUT[k]
  | .ppBufLo => ⟨0x380000, [(768, 0x40)], 0xffffffff#32, 0x0#32, (.mem .bufAddr), false⟩ -- port page BUF_LO (R142)
  | .ppBufHi => ⟨0x380004, [(768, 0x40)], 0x3ff#32, 0x0#32, (.key .bufAddr), false⟩ -- BUF_HI
  | .ppPlane1 => ⟨0x380008, [(768, 0x40)], 0xffffffff#32, 0x0#32, .rw, false⟩ -- PLANE1_OFFSET of the entry
  | .ppFence => ⟨0x38000c, [(768, 0x40)], 0xc00003ff#32, 0x0#32, .rw, false⟩ -- FENCE
  | .ppFenceVal => ⟨0x380010, [(768, 0x40)], 0xffffffff#32, 0x0#32, .rw, false⟩ -- FENCE_VAL
  | .ppTag => ⟨0x380014, [(768, 0x40)], 0xffffffff#32, 0x0#32, .rw, false⟩ -- TAG
  | .ppHostLo => ⟨0x380018, [(768, 0x40)], 0xffffffff#32, 0x0#32, (.mem .hostAddr), false⟩ -- HOST_LO
  | .ppHostHi => ⟨0x38001c, [(768, 0x40)], 0xffffffff#32, 0x0#32, (.key .hostAddr), false⟩ -- HOST_HI
  | .ppHostPitch => ⟨0x380020, [(768, 0x40)], 0xffffff#32, 0x0#32, .rw, false⟩ -- HOST_PITCH
  | .ppDoorbell => ⟨0x380024, [(768, 0x40)], 0x0#32, 0x0#32, .act, false⟩ -- DOORBELL
  | .ppStatus => ⟨0x380028, [(768, 0x40)], 0x0#32, 0x0#32, .ro, false⟩ -- STATUS
  | .faPortCfg => ⟨0x390000, [(768, 0x4)], 0x807f001f#32, 0x0#32, .rw, false⟩ -- PORT_CFG[p] (R143)
  | .faFence => ⟨0x3a0000, [(1024, 0x4)], 0x0#32, 0x0#32, .ro, false⟩ -- FENCE[f]
  | .faFenceCfg => ⟨0x3a1000, [(1024, 0x4)], 0xff#32, 0xff#32, .rw, false⟩ -- FENCE_CFG[f]
  | .faDoneRec => ⟨0x3c0000, [(32, 0x400), (64, 0x10), (4, 0x4)], 0x0#32, 0x0#32, .ro, false⟩ -- DONE_REC[n][k]
  | .faDoneWr => ⟨0x3d0000, [(32, 0x10)], 0x0#32, 0x0#32, .ro, false⟩ -- DONE_WR[n]
  | .faDoneRd => ⟨0x3d0004, [(32, 0x10)], 0xffffffff#32, 0x0#32, .act, false⟩ -- DONE_RD[n]
  | .faDoneOvr => ⟨0x3d0008, [(32, 0x10)], 0xffff#32, 0x0#32, .w1c, false⟩ -- DONE_OVR[n]
  | .faRejectCount => ⟨0x3e0000, [], 0xffff#32, 0x0#32, .w1c, false⟩ -- REJECT_COUNT
  | .saTaps => ⟨0x400000, [(24, 0x2000)], 0xff0f00#32, 0x110500#32, (.mem .scaler), false⟩ -- SA[n].TAPS (R161)
  | .saHInit => ⟨0x400004, [(24, 0x2000)], 0xffffffff#32, 0x80000000#32, (.mem .scaler), false⟩ -- H_INIT
  | .saVInit => ⟨0x400008, [(24, 0x2000)], 0xffffffff#32, 0x80000000#32, (.mem .scaler), false⟩ -- V_INIT
  | .saHRatio => ⟨0x40000c, [(24, 0x2000)], 0xffffffff#32, 0x1000000#32, (.mem .scaler), false⟩ -- H_RATIO
  | .saVRatio => ⟨0x400010, [(24, 0x2000)], 0xffffffff#32, 0x1000000#32, (.key .scaler), false⟩ -- V_RATIO
  | .saChroma => ⟨0x400014, [(24, 0x2000)], 0x3#32, 0x2#32, .latched, false⟩ -- CHROMA
  | .saStatus => ⟨0x400018, [(24, 0x2000)], 0x0#32, 0x2000#32, .ro, false⟩ -- STATUS
  | .saHcoef => ⟨0x400400, [(24, 0x2000), (64, 0x20), (8, 0x4)], 0x3fff#32, 0x0#32, .latched, false⟩ -- HCOEF[phi][k]
  | .saVcoef => ⟨0x400c00, [(24, 0x2000), (64, 0x20), (6, 0x4)], 0x3fff#32, 0x0#32, .latched, false⟩ -- VCOEF[phi][k]
  | .ccBackground => ⟨0x500000, [(16, 0x40)], 0x3fffffff#32, 0x0#32, .latched, false⟩ -- CC[n].BACKGROUND (R186)
  | .ccInfo => ⟨0x500004, [(16, 0x40)], 0x0#32, 0x0#32, .ro, false⟩ -- CC[n].INFO
  | .scKeepStatus => ⟨0x600000, [], 0x0#32, 0x0#32, .ro, false⟩ -- SC.KEEP_STATUS (R214)
  | .scSelftest => ⟨0x600004, [], 0xff#32, 0x10#32, .rw, false⟩ -- SELFTEST
  | .scKfallbackLo => ⟨0x600040, [(8, 0x8)], 0xffffffff#32, 0x0#32, (.mem .kfallback), false⟩ -- KFALLBACK_LO[k]
  | .scKfallbackHi => ⟨0x600044, [(8, 0x8)], 0x3ff#32, 0x0#32, (.key .kfallback), false⟩ -- KFALLBACK_HI[k]
  | .scBackdrop => ⟨0x601000, [(16, 0x100)], 0x3fffffff#32, 0x0#32, .latched, false⟩ -- BACKDROP of head n
  | .scKstatus => ⟨0x601004, [(16, 0x100)], 0x80000000#32, 0x0#32, .act, false⟩ -- SC[n].KSTATUS
  | .scFaultTile => ⟨0x601008, [(16, 0x100)], 0x0#32, 0x0#32, .ro, false⟩ -- FAULT_TILE
  | .scFaultFrameLo => ⟨0x60100c, [(16, 0x100)], 0x0#32, 0x0#32, .ro, false⟩ -- FAULT_FRAME_LO
  | .scFaultFrameHi => ⟨0x601010, [(16, 0x100)], 0x0#32, 0x0#32, .ro, false⟩ -- FAULT_FRAME_HI
  | .scClear => ⟨0x601014, [(16, 0x100)], 0x0#32, 0x0#32, .act, false⟩ -- CLEAR
  | .scMismatch => ⟨0x601018, [(16, 0x100)], 0xffffffff#32, 0x0#32, .w1c, false⟩ -- MISMATCH_COUNT
  | .scKrRect0 => ⟨0x601020, [(16, 0x100), (4, 0x10)], 0xffffffff#32, 0x0#32, (.mem .keepRegion), false⟩ -- KR_RECT0
  | .scKrRect1 => ⟨0x601024, [(16, 0x100), (4, 0x10)], 0xffffffff#32, 0x0#32, (.mem .keepRegion), false⟩ -- KR_RECT1
  | .scKrSafe => ⟨0x601028, [(16, 0x100), (4, 0x10)], 0x3fffffff#32, 0x0#32, (.mem .keepRegion), false⟩ -- KR_SAFE_COLOR
  | .scKrCtrl => ⟨0x60102c, [(16, 0x100), (4, 0x10)], 0x7#32, 0x0#32, (.key .keepRegion), false⟩ -- KR[r].CTRL
  | .scSigRect0 => ⟨0x604000, [(16, 0x1000), (64, 0x20)], 0xffffffff#32, 0x0#32, (.mem .signature), false⟩ -- SIG_RECT0 (R215)
  | .scSigRect1 => ⟨0x604004, [(16, 0x1000), (64, 0x20)], 0xffffffff#32, 0x0#32, (.mem .signature), false⟩ -- SIG_RECT1
  | .scExpect => ⟨0x604008, [(16, 0x1000), (64, 0x20), (4, 0x4)], 0xffffffff#32, 0x0#32, (.mem .signature), false⟩ -- EXPECT[j]
  | .scSigCtrl => ⟨0x604018, [(16, 0x1000), (64, 0x20)], 0xff030303#32, 0x1000000#32, (.key .signature), false⟩ -- SIG[s].CTRL
  | .scResult => ⟨0x604800, [(16, 0x1000), (64, 0x4)], 0x0#32, 0x0#32, .ro, false⟩ -- RESULT[s]
  | .scSigFrameLo => ⟨0x604900, [(16, 0x1000)], 0x0#32, 0x0#32, .ro, false⟩ -- SIG_FRAME_LO
  | .scSigFrameHi => ⟨0x604904, [(16, 0x1000)], 0x0#32, 0x0#32, .ro, false⟩ -- SIG_FRAME_HI
  | .scFail => ⟨0x604908, [(16, 0x1000), (2, 0x4)], 0xffffffff#32, 0x0#32, .w1c, false⟩ -- FAIL_LO, FAIL_HI
  | .scFrozen => ⟨0x604910, [(16, 0x1000), (2, 0x4)], 0x0#32, 0x0#32, .ro, false⟩ -- FROZEN_LO, FROZEN_HI
  | .scShadowResult => ⟨0x604a00, [(16, 0x1000), (32, 0x4)], 0x0#32, 0x0#32, .ro, false⟩ -- SHADOW_RESULT[s]
  | .cpHctrl => ⟨0x700000, [(16, 0x10000)], 0xf07#32, 0x800#32, .latched, false⟩ -- CP[n].HCTRL (R187)
  | .cpHstatus => ⟨0x700004, [(16, 0x10000)], 0x0#32, 0x0#32, .ro, false⟩ -- HSTATUS
  | .cpMat => ⟨0x700010, [(16, 0x10000), (5, 0x4)], 0xffffffff#32, 0x0#32, (.mem .postMatrix), false⟩ -- MAT[j]; identity at reset
  | .cpPostRg => ⟨0x700024, [(16, 0x10000)], 0xffffffff#32, 0x0#32, (.mem .postMatrix), false⟩ -- POST_RG
  | .cpPostB => ⟨0x700028, [(16, 0x10000)], 0xffff#32, 0x0#32, (.key .postMatrix), false⟩ -- POST_B
  | .cpDegamma => ⟨0x704000, [(16, 0x10000), (4, 0x1000), (1024, 0x4)], 0xfff#32, 0x0#32, .latched, false⟩ -- DEGAMMA[c][e]; 4e at reset
  | .cpRegamma => ⟨0x708000, [(16, 0x10000), (1024, 0x4)], 0xfff#32, 0x0#32, .latched, false⟩ -- REGAMMA[e]; 4e at reset
  | .cpLctrl => ⟨0x70c000, [(16, 0x10000), (6, 0x400)], 0x373#32, 0x30#32, .latched, false⟩ -- CP[i].LCTRL (R188)
  | .cpLcoef => ⟨0x70c004, [(16, 0x10000), (6, 0x400), (5, 0x4)], 0xffffffff#32, 0x0#32, (.mem .layerConv), false⟩ -- LCOEF[j]; identity at reset
  | .cpLpre01 => ⟨0x70c018, [(16, 0x10000), (6, 0x400)], 0xffffffff#32, 0x0#32, (.mem .layerConv), false⟩ -- LPRE_01
  | .cpLpre2 => ⟨0x70c01c, [(16, 0x10000), (6, 0x400)], 0xffff#32, 0x0#32, (.mem .layerConv), false⟩ -- LPRE_2
  | .cpLpost01 => ⟨0x70c020, [(16, 0x10000), (6, 0x400)], 0xffffffff#32, 0x0#32, (.mem .layerConv), false⟩ -- LPOST_01
  | .cpLpost2 => ⟨0x70c024, [(16, 0x10000), (6, 0x400)], 0xffff#32, 0x0#32, (.key .layerConv), false⟩ -- LPOST_2
  | .oqQctrl => ⟨0x900000, [(8, 0x10000)], 0x31f1fc3#32, 0x82#32, .act, true⟩ -- OQ[q].QCTRL (R269)
  | .oqPstat => ⟨0x900004, [(8, 0x10000)], 0x0#32, 0x0#32, .act, false⟩ -- PSTAT of quad q
  | .oqDsc => ⟨0x900010, [(8, 0x10000)], 0x8fffff3f#32, 0x0#32, .latched, true⟩ -- DSC
  | .oqLink => ⟨0x900020, [(8, 0x10000), (4, 0x4)], 0x0#32, 0x0#32, .ro, true⟩ -- LINK[t]
  | .oqAuxCmd => ⟨0x900100, [(8, 0x10000), (4, 0x40)], 0x0#32, 0x0#32, .act, true⟩ -- AUX_CMD
  | .oqAuxAddr => ⟨0x900104, [(8, 0x10000), (4, 0x40)], 0xfffff#32, 0x0#32, .rw, true⟩ -- AUX_ADDR
  | .oqAuxData => ⟨0x900108, [(8, 0x10000), (4, 0x40), (4, 0x4)], 0xffffffff#32, 0x0#32, .rw, true⟩ -- AUX_DATA[k]
  | .oqAuxStatus => ⟨0x900118, [(8, 0x10000), (4, 0x40)], 0x0#32, 0x0#32, .ro, true⟩ -- AUX_STATUS
  | .epEctrl => ⟨0x980000, [(64, 0x40)], 0x80000c0f#32, 0x400#32, .latched, true⟩ -- EP[e].ECTRL
  | .epEstat => ⟨0x980004, [(64, 0x40)], 0x0#32, 0x0#32, .ro, true⟩ -- EP[e].ESTAT
  | .caStatus => ⟨0xa40000, [], 0x0#32, 0x0#32, .ro, true⟩ -- BT.CASC_STATUS (R425)
  | .caPstat => ⟨0xa40004, [], 0x0#32, 0x0#32, .act, false⟩ -- CASC.PSTAT
  | .caStepLo => ⟨0xa40008, [], 0x0#32, 0x0#32, .ro, true⟩ -- CASC_STEP_LO
  | .caStepHi => ⟨0xa4000c, [], 0x0#32, 0x0#32, .ro, true⟩ -- CASC_STEP_HI
  | .caLossPolicy => ⟨0xa40010, [], 0xffff#32, 0x0#32, .rw, true⟩ -- LOSS_POLICY
  | .caOslLink => ⟨0xa40100, [(2, 0x40)], 0x0#32, 0x0#32, .ro, true⟩ -- OSL_LINK
  | .caOslLoss => ⟨0xa40104, [(2, 0x40)], 0xffff#32, 0x0#32, .w1c, true⟩ -- OSL_LOSS
  | .caRelayDrop => ⟨0xa40108, [(2, 0x40)], 0xffff#32, 0x0#32, .w1c, true⟩ -- OSL_RELAY_DROP
  | .caSend => ⟨0xa40200, [(8, 0x4)], 0xe0ff000f#32, 0x0#32, .latched, true⟩ -- SEND[c]
  | .caSegCols => ⟨0xa40300, [(4, 0x10)], 0xffffffff#32, 0x0#32, (.mem .segment), true⟩ -- SEG_COLS[k]
  | .caSegCtrl => ⟨0xa40304, [(4, 0x10)], 0x8fff0000#32, 0x0#32, (.key .segment), true⟩ -- SEG_CTRL[k]
  | .caSegStatus => ⟨0xa40308, [(4, 0x10)], 0xffff#32, 0x0#32, .act, true⟩ -- SEG_STATUS[k]
  | .caFwdRx => ⟨0xa40400, [(16, 0x4)], 0x80ff0000#32, 0x0#32, .rw, true⟩ -- FWD_RX[r]
  | .laLctrl => ⟨0xc000000, [(20, 0x10000)], 0x3ff01ff#32, 0x0#32, .act, true⟩ -- LCTRL of a lantern (R234)
  | .laLstatus => ⟨0xc000004, [(20, 0x10000)], 0x0#32, 0x0#32, .ro, true⟩ -- LSTATUS
  | .laLbudget => ⟨0xc000008, [(20, 0x10000)], 0xfff#32, 0x40#32, .rw, true⟩ -- LBUDGET
  | .laLstream => ⟨0xc00000c, [(20, 0x10000)], 0xff#32, 0xff#32, .rw, true⟩ -- LSTREAM
  | .laLate => ⟨0xc000010, [(20, 0x10000)], 0xffffffff#32, 0x0#32, .w1c, true⟩ -- LATE
  | .laFaultWord => ⟨0xc000014, [(20, 0x10000)], 0x0#32, 0x0#32, .ro, true⟩ -- FAULT_WORD
  | .laMarkLo => ⟨0xc000018, [(20, 0x10000)], 0x0#32, 0x0#32, .ro, true⟩ -- MARK_LO
  | .laMarkHi => ⟨0xc00001c, [(20, 0x10000)], 0x0#32, 0x0#32, .ro, true⟩ -- MARK_HI
  | .laLg => ⟨0xc000020, [(20, 0x10000), (8, 0x4)], 0xffffffff#32, 0x0#32, .act, true⟩ -- LG[k]
  | .laProg => ⟨0xc001000, [(20, 0x10000), (512, 0x4)], 0xffffffff#32, 0x0#32, .act, true⟩ -- PROG[w]
  | .mcStartStatus => ⟨0xb02000, [], 0x0#32, 0x0#32, .ro, false⟩ -- MC.START_STATUS (R441)
  | .mcStartNo => ⟨0xb02004, [], 0x0#32, 0x0#32, .ro, false⟩ -- START_NO
  | .mcFirstPixel => ⟨0xb02008, [], 0x0#32, 0xffff#32, .ro, false⟩ -- FIRST_PIXEL
  | .mcStep => ⟨0xb02040, [(11, 0x4)], 0x0#32, 0x0#32, .ro, false⟩ -- STEP[s]
  | .mcThermStatus => ⟨0xb03000, [], 0x0#32, 0x0#32, .ro, false⟩ -- THERM_STATUS (R466)
  | .mcSensor => ⟨0xb03004, [(12, 0x4)], 0x0#32, 0x0#32, .ro, false⟩ -- SENSOR[i]
  | .mcSpireCtrl => ⟨0xb03040, [], 0x1#32, 0x0#32, .act, false⟩ -- SPIRE_CTRL
  | .mcSpireStatus => ⟨0xb03044, [], 0x0#32, 0x0#32, .ro, false⟩ -- SPIRE_STATUS
  | .mcSpireSeconds => ⟨0xb03048, [], 0x0#32, 0x0#32, .ro, false⟩ -- SPIRE_SECONDS
  | .mcOpSeconds => ⟨0xb0304c, [], 0x0#32, 0x0#32, .ro, false⟩ -- OP_SECONDS
  | .mcHotSeconds => ⟨0xb03050, [], 0x0#32, 0x0#32, .ro, false⟩ -- HOT_SECONDS
  | .mcShed => ⟨0xb03060, [], 0x0#32, 0x0#32, .ro, false⟩ -- SHED
  | .mcFaultStatus => ⟨0xb03080, [], 0x0#32, 0x0#32, .ro, false⟩ -- FAULT_STATUS
  | .mcFaultClear => ⟨0xb03084, [], 0x0#32, 0x0#32, .act, false⟩ -- FAULT_CLEAR
  | .mcFaultnMask => ⟨0xb03088, [], 0x320#32, 0x120#32, .rwl, false⟩ -- FAULTN_MASK
  | .mcFaultnMaskHi => ⟨0xb0308c, [], 0x1#32, 0x1#32, .rwl, false⟩ -- FAULTN_MASK_HI
  | .cvCtrl => ⟨0x40000, [(8, 0x1000)], 0x73f#32, 0x0#32, .act, false⟩ -- CV[u].CTRL (R375)
  | .cvStatus => ⟨0x40004, [(8, 0x1000)], 0x0#32, 0x0#32, .act, false⟩ -- STATUS
  | .cvAddrLo => ⟨0x40400, [(8, 0x1000), (64, 0x20)], 0xffffffff#32, 0x0#32, (.mem .cvAddr), false⟩ -- ADDR_LO
  | .cvAddrHi => ⟨0x40404, [(8, 0x1000), (64, 0x20)], 0xfc0003ff#32, 0x0#32, (.key .cvAddr), false⟩ -- ADDR_HI
  | .cvLength => ⟨0x40408, [(8, 0x1000), (64, 0x20)], 0xffffffff#32, 0x0#32, .rw, false⟩ -- LENGTH
  | .cvPitch => ⟨0x4040c, [(8, 0x1000), (64, 0x20)], 0xffffffff#32, 0x0#32, .rw, false⟩ -- PITCH
  | .cvLines => ⟨0x40410, [(8, 0x1000), (64, 0x20)], 0xffffffff#32, 0x0#32, .rw, false⟩ -- LINES
  | .cvCfg => ⟨0x40414, [(8, 0x1000), (64, 0x20)], 0xff00ffff#32, 0x0#32, .rw, false⟩ -- CFG
  | .cvExpectLo => ⟨0x40418, [(8, 0x1000), (64, 0x20)], 0xffffffff#32, 0x0#32, (.mem .cvExpect), false⟩ -- EXPECT_LO
  | .cvExpectHi => ⟨0x4041c, [(8, 0x1000), (64, 0x20)], 0xffffffff#32, 0x0#32, (.key .cvExpect), false⟩ -- EXPECT_HI
  | .cvResLo => ⟨0x40c00, [(8, 0x1000), (64, 0x8)], 0x0#32, 0x0#32, .ro, false⟩ -- RES_LO
  | .cvResHi => ⟨0x40c04, [(8, 0x1000), (64, 0x8)], 0x0#32, 0x0#32, .ro, false⟩ -- RES_HI
  | .blCtrl => ⟨0x50000, [(2, 0x100)], 0x1#32, 0x0#32, .rw, false⟩ -- BL[e].CTRL (R394)
  | .blStatus => ⟨0x50004, [(2, 0x100)], 0x0#32, 0x0#32, .ro, false⟩ -- STATUS
  | .blSubmitSeq => ⟨0x50008, [(2, 0x100)], 0x0#32, 0x0#32, .ro, false⟩ -- SUBMIT_SEQ
  | .blDoneSeq => ⟨0x5000c, [(2, 0x100)], 0x0#32, 0x0#32, .ro, false⟩ -- DONE_SEQ
  | .blFaultLog => ⟨0x50010, [(2, 0x100)], 0x80000000#32, 0x0#32, .act, false⟩ -- FAULT_LOG
  | .blFaultSeq => ⟨0x50014, [(2, 0x100)], 0x0#32, 0x0#32, .ro, false⟩ -- FAULT_SEQ
  | .blShareCfg => ⟨0x52000, [(2, 0x100), (32, 0x4)], 0x803f003f#32, 0x0#32, .rw, false⟩ -- SHARE_CFG[e][f]; ENABLE and QUOTA 8 for f = 0, 16
  | .shCmd => ⟨0x54000, [(32, 0x10000000), (2, 0x1000), (16, 0x4)], 0xffffffff#32, 0x0#32, .rw, false⟩ -- share page CMD[w] (R395)
  | .shSubmit => ⟨0x54040, [(32, 0x10000000), (2, 0x1000)], 0x0#32, 0x0#32, .act, false⟩ -- SUBMIT
  | .shSubStatus => ⟨0x54044, [(32, 0x10000000), (2, 0x1000)], 0x0#32, 0x0#32, .ro, false⟩ -- SUB_STATUS
  | .shLastSeq => ⟨0x54048, [(32, 0x10000000), (2, 0x1000)], 0x0#32, 0x0#32, .ro, false⟩ -- LAST_SEQ
  | .shDoneSeq => ⟨0x5404c, [(32, 0x10000000), (2, 0x1000)], 0x0#32, 0x0#32, .ro, false⟩ -- DONE_SEQ
  | .shLastDone => ⟨0x54050, [(32, 0x10000000), (2, 0x1000)], 0x0#32, 0x0#32, .ro, false⟩ -- LAST_DONE
  | .shLastDoneSeq => ⟨0x54054, [(32, 0x10000000), (2, 0x1000)], 0x0#32, 0x0#32, .ro, false⟩ -- LAST_DONE_SEQ
  | .shCringLo => ⟨0x54060, [(32, 0x10000000), (2, 0x1000)], 0xfffffff0#32, 0x0#32, (.mem .cring), false⟩ -- CRING_LO
  | .shCringHi => ⟨0x54064, [(32, 0x10000000), (2, 0x1000)], 0xffffffff#32, 0x0#32, (.key .cring), false⟩ -- CRING_HI
  | .shCringCtrl => ⟨0x54068, [(32, 0x10000000), (2, 0x1000)], 0x8000000f#32, 0x0#32, .rw, false⟩ -- CRING_CTRL
  | .shCringWr => ⟨0x5406c, [(32, 0x10000000), (2, 0x1000)], 0x0#32, 0x0#32, .ro, false⟩ -- CRING_WR
  | .shCringRd => ⟨0x54070, [(32, 0x10000000), (2, 0x1000)], 0xffffffff#32, 0x0#32, .act, false⟩ -- CRING_RD
  | .pmFreeze => ⟨0x38000, [], 0x1#32, 0x0#32, .act, false⟩ -- PM.FREEZE (R404)
  | .pmUserEn => ⟨0x38100, [(16, 0x4)], 0xfffefffe#32, 0x0#32, .act, false⟩ -- USER_EN[k]
  | .pmCtrl => ⟨0x30000, [(16, 0x800)], 0x1ff#32, 0x0#32, .rw, false⟩ -- PM block k CTRL (R405)
  | .pmOvf => ⟨0x30004, [(16, 0x800)], 0x1ff#32, 0x0#32, .w1c, false⟩ -- OVF
  | .pmCycLo => ⟨0x30008, [(16, 0x800)], 0x0#32, 0x0#32, .ro, false⟩ -- CYC_LO
  | .pmCycHi => ⟨0x3000c, [(16, 0x800)], 0x0#32, 0x0#32, .ro, false⟩ -- CYC_HI
  | .pmCtrLo => ⟨0x30010, [(16, 0x800), (8, 0x8)], 0x0#32, 0x0#32, .ro, false⟩ -- CTR_LO[j]
  | .pmCtrHi => ⟨0x30014, [(16, 0x800), (8, 0x8)], 0x0#32, 0x0#32, .ro, false⟩ -- CTR_HI[j]
  | .pmEvtsel => ⟨0x30050, [(16, 0x800), (8, 0x4)], 0xffff#32, 0x0#32, .rw, false⟩ -- EVTSEL[j]
  | .pmCycPreset => ⟨0x30070, [(16, 0x800)], 0x0#32, 0x0#32, .act, false⟩ -- CYC_PRESET
  | .pmReserved => ⟨0x30074, [(16, 0x800), (3, 0x4)], 0x0#32, 0x0#32, .ro, false⟩ -- RSV rows of the table (R405)
  | .pmPreset => ⟨0x30080, [(16, 0x800), (8, 0x4)], 0x0#32, 0x0#32, .act, false⟩ -- PRESET[j]

/-- The registers that lie in one block of the map, by block number (64 KiB blocks first, then 1 MiB blocks). -/
def blockRegs : Nat → List RegName
  | 0x0 => [.hlId, .hlSerialLo, .hlSerialHi, .hlFwVersion, .hlPLink, .hlBar2Ctx, .hlBar2Base, .hlErrStatus, .hlErrAddr,
      .hlErrInfo, .hlErrData, .hlMsix, .hlPba]
  | 0x1 => [.txOpen, .txCommit, .txRollback, .txTimeout, .txPool, .txPendingLog, .txPendingCount, .txTstate, .txTmask,
      .txTentries, .txHcode, .txAppliedLo, .txAppliedHi]
  | 0x2 => [.icPend, .icPendSet, .icPendClr, .icMask, .icMaskSet, .icMaskClr, .icClaim, .icEoi, .icThreshold, .icRun,
      .icCtrl, .icStatus, .icStack, .icPrio, .icCoal, .icGcfg, .icGstate, .icSel]
  | 0x3 => [.pmFreeze, .pmUserEn, .pmCtrl, .pmOvf, .pmCycLo, .pmCycHi, .pmCtrLo, .pmCtrHi, .pmEvtsel, .pmCycPreset,
      .pmReserved, .pmPreset]
  | 0x4 => [.cvCtrl, .cvStatus, .cvAddrLo, .cvAddrHi, .cvLength, .cvPitch, .cvLines, .cvCfg, .cvExpectLo, .cvExpectHi,
      .cvResLo, .cvResHi]
  | 0x5 => [.blCtrl, .blStatus, .blSubmitSeq, .blDoneSeq, .blFaultLog, .blFaultSeq, .blShareCfg, .shCmd, .shSubmit,
      .shSubStatus, .shLastSeq, .shDoneSeq, .shLastDone, .shLastDoneSeq, .shCringLo, .shCringHi, .shCringCtrl,
      .shCringWr, .shCringRd]
  | 0x6 => [.dwReq, .dwRsp, .dwSend, .dwStatus]
  | 0x10 => [.mfRootLo, .mfRootHi, .mfTlbInv, .mfTlbInvVa, .mfMirrorOf, .mfOpenWeight, .mfPinStat, .mfKeepWin, .mfXlatLo,
      .mfXlatHi, .mfChStatus, .mfEccCount, .mfEccThresh, .mfEccLogLo, .mfEccLogHi]
  | 0x11 => [.siPctrl, .siPstat, .siLink, .siIqMode, .siSctrl, .siRingPitch, .siRingGeom, .siRingCtx, .siRingBaseLo,
      .siRingBaseHi, .siSstatus, .siPos, .siFrame, .siFsTickLo, .siFsTickHi, .siErrcount, .siDropCount, .siRaceLost,
      .siRaceSubst, .siRaceBound]
  | 0x12 => [.faCtrl, .faSubstColor, .faConstColor, .faFormat, .faPitch, .faPlane1, .faBaseLo, .faBaseHi, .faSrcPos,
      .faSrcSize, .faDstPos, .faDstSize, .faMisc, .faSubstCount, .faEventCount, .faQstate, .faShownTag, .faClut,
      .ppBufLo, .ppBufHi, .ppPlane1, .ppFence, .ppFenceVal, .ppTag, .ppHostLo, .ppHostHi, .ppHostPitch, .ppDoorbell,
      .ppStatus, .faPortCfg, .faFence, .faFenceCfg, .faDoneRec, .faDoneWr, .faDoneRd, .faDoneOvr, .faRejectCount]
  | 0x13 => [.saTaps, .saHInit, .saVInit, .saHRatio, .saVRatio, .saChroma, .saStatus, .saHcoef, .saVcoef]
  | 0x14 => [.ccBackground, .ccInfo]
  | 0x15 => [.scKeepStatus, .scSelftest, .scKfallbackLo, .scKfallbackHi, .scBackdrop, .scKstatus, .scFaultTile,
      .scFaultFrameLo, .scFaultFrameHi, .scClear, .scMismatch, .scKrRect0, .scKrRect1, .scKrSafe, .scKrCtrl,
      .scSigRect0, .scSigRect1, .scExpect, .scSigCtrl, .scResult, .scSigFrameLo, .scSigFrameHi, .scFail, .scFrozen,
      .scShadowResult]
  | 0x16 => [.cpHctrl, .cpHstatus, .cpMat, .cpPostRg, .cpPostB, .cpDegamma, .cpRegamma, .cpLctrl, .cpLcoef, .cpLpre01,
      .cpLpre2, .cpLpost01, .cpLpost2]
  | 0x17 => [.dhCtrl, .dhPstat, .dhHTiming, .dhHSync, .dhVTiming, .dhVSync, .dhPairDiv, .dhLatchLine, .dhPgOffset,
      .dhPosition, .dhStatus, .dhFrameLo, .dhFrameHi, .dhLatchTickLo, .dhLatchTickHi, .dhLastSlew]
  | 0x18 => [.oqQctrl, .oqPstat, .oqDsc, .oqLink, .oqAuxCmd, .oqAuxAddr, .oqAuxData, .oqAuxStatus, .epEctrl, .epEstat]
  | 0x19 => [.btTickLo, .btTickHi, .btPstat, .btPgCtrl, .btRefOffset, .btPgStatus, .btFlareOe, .btFlareSafe, .btFlareLevel,
      .btLateFire, .btFlareOwner, .caStatus, .caPstat, .caStepLo, .caStepHi, .caLossPolicy, .caOslLink, .caOslLoss,
      .caRelayDrop, .caSend, .caSegCols, .caSegCtrl, .caSegStatus, .caFwdRx]
  | 0x1a => [.mcSbCmd, .mcSbLen, .mcSbStatus, .mcSbState, .mcSbSelect, .mcSbId, .mcSbInfo, .mcSbAlive, .mcStartStatus,
      .mcStartNo, .mcFirstPixel, .mcStep, .mcThermStatus, .mcSensor, .mcSpireCtrl, .mcSpireStatus, .mcSpireSeconds,
      .mcOpSeconds, .mcHotSeconds, .mcShed, .mcFaultStatus, .mcFaultClear, .mcFaultnMask, .mcFaultnMaskHi]
  | 0xcf | 0xd0 => [.laLctrl, .laLstatus, .laLbudget, .laLstream, .laLate, .laFaultWord, .laMarkLo, .laMarkHi, .laLg, .laProg]
  | _ => []

/-- A register with its indices, outermost first; an index the register does not have is 0. -/
structure RegId where
  name : RegName
  i : Nat := 0
  j : Nat := 0
  k : Nat := 0
  deriving DecidableEq, Repr

/-- The offset within the map of given indices. -/
def offsetOf : List (Nat × Nat) → List Nat → Nat
  | (_, st) :: ds, x :: xs => x * st + offsetOf ds xs
  | _, _ => 0

/-- The key of a register in the register file: its offset in the map. -/
def RegId.addr (r : RegId) : Nat :=
  r.name.row.base + offsetOf r.name.row.dims [r.i, r.j, r.k]

/-- The indices that an offset from a row's base spells, if each is below its count. -/
def indicesOf : Nat → List (Nat × Nat) → Option (List Nat)
  | off, [] => if off = 0 then some [] else none
  | off, (n, st) :: ds => if off / st < n then (indicesOf (off % st) ds).map (fun l => off / st :: l) else none

/-- The first register of a list that lies at offset `a` of the map. -/
def lookupIn (a : Nat) : List RegName → Option RegId
  | [] => none
  | n :: ns =>
    if a < n.row.base then lookupIn a ns
    else match indicesOf (a - n.row.base) n.row.dims with
      | some l => some { name := n, i := l.getD 0 0, j := l.getD 1 0, k := l.getD 2 0 }
      | none => lookupIn a ns

/-- The block number of an offset of the map. -/
def blockOf (a : Nat) : Nat :=
  if a % 0x10000000 < 0x100000 then a % 0x10000000 / 0x10000 else 15 + a % 0x10000000 / 0x100000

/-- The register at a 4-byte aligned offset of the map; none is a reserved address (R330). -/
def regAt (a : Nat) : Option RegId := lookupIn a (blockRegs (blockOf a))

/-- Slot kinds by index (R117): 0 to 63 G, 64 to 87 V, 88 to 95 K. -/
def isK (slot : Nat) : Bool := 88 ≤ slot && slot < 96
def isV (slot : Nat) : Bool := 64 ≤ slot && slot < 88

/-- The identity coefficients of R187: K[0], K[4] and K[8] are 0x1000. -/
def identityCoef (j : Nat) : Word := if j = 0 ∨ j = 2 ∨ j = 4 then 0x1000#32 else 0#32

/-- The layer slot of a per-layer colour stage (R188). -/
def RegId.cpSlot (r : RegId) : Nat := r.i * 6 + r.j

/-- The value a register holds after reset (R10), where the row's own value depends on the instance. -/
def RegId.resetValue (r : RegId) : Word :=
  match r.name with
  | .faMisc => if isK r.i then 0x33F#32 else 0#32
  | .cpMat => identityCoef r.j
  | .cpLcoef => identityCoef r.k
  | .cpDegamma => BitVec.ofNat 32 (4 * r.k)
  | .cpRegamma => BitVec.ofNat 32 (4 * r.j)
  | .blShareCfg => if r.j = 0 ∨ r.j = 16 then 0x80000008#32 else 0#32
  | .icSel => BitVec.ofNat 32 r.i
  | .laLstream => if r.i < 16 then 0#32 else 0xFF#32
  | .hlMsix => if r.j = 3 then 1#32 else 0#32 -- Vector Control's mask bit (PRESUMED, PCI Express; log entry 10)
  | n => n.row.reset

/-- The bits a write of a register stores, where they depend on the instance. -/
def RegId.mask (r : RegId) : Word :=
  match r.name with
  | .cpMat => if r.j = 4 then 0xFFFF#32 else 0xFFFFFFFF#32
  | .cpLcoef => if r.k = 4 then 0xFFFF#32 else 0xFFFFFFFF#32
  | n => n.row.mask

/-- The reset value of the register at an offset of the map; 0 where there is none. -/
def resetAt (a : Nat) : Word :=
  match regAt a with
  | some r => r.resetValue
  | none => 0#32

end Sys2Proof.Machine
end

