-- ==== Sys2Proof/Machine/State.lean ====
section
/-! DEFINITION. The state of the block as plain data, one structure per subsystem, the reasons a step can stop, and the state
after reset. -/

namespace Sys2Proof.Machine

/-! ### Power, errors and messages -/

/-- Whether the device runs (R427, R430, R457). -/
inductive Power where
  /-- PORST_N or SYSRST_N is held low. -/
  | inReset
  /-- Reset is released and start-up has not run. -/
  | starting
  /-- Start-up ran to S11. -/
  | on
  /-- Start-up stopped for good at a step (R430, R434). -/
  | halted (step : Nat)
  /-- Shut down by temperature (R457). -/
  | shutdown
  /-- VDD_AON is removed. -/
  | off
  deriving DecidableEq, Repr

/-- The error record of a function (R338, R345). -/
structure ErrRec where
  accessErr : Bool := false
  writeDropped : Bool := false
  lockViolation : Bool := false
  rsvWrites : Nat := 0
  held : Bool := false
  kind : Nat := 0
  offset : Nat := 0
  cause : Nat := 0
  be : BitVec 4 := 0
  data : Word := 0
  deriving DecidableEq, Repr

/-- What HL.P_LINK shows of an endpoint's link (R345). -/
structure PLink where
  up : Bool := false
  speed : Nat := 0
  width : Nat := 0
  l12 : Bool := false
  deriving DecidableEq, Repr

/-- What AER records (R330, R339). -/
inductive AerKind where
  | unsupportedRequest
  | poisoned
  | ecrc
  deriving DecidableEq, Repr

/-- Where a network message of the device goes (R303, R304, R313): a CAN identifier, with SDT and AF for a CAN XL frame, or an IPv4
address and a UDP port. -/
inductive Dest where
  | can (c : Nat) (id : Word) (xl : Option (Nat × Nat))
  | udp (p : Nat) (addr port : Nat)
  deriving DecidableEq, Repr

/-- A message the device has sent, oldest first in the outbox (the model's own record of its outputs; log entry 7). -/
inductive OutMsg where
  /-- The MSI-X message of a function's vector (R350). -/
  | msix (f : Nat)
  /-- PME of an endpoint (R358). -/
  | pme (k : Nat)
  /-- An error an endpoint logs through AER (R330, R339). -/
  | aer (k : Nat) (what : AerKind)
  /-- A completion with status Unsupported Request. -/
  | unsupported (f : Nat)
  /-- A completion with status Completer Abort (R326). -/
  | completerAbort (f : Nat)
  /-- Bytes written to a bus address of a function's address space. -/
  | hostWrite (f : Nat) (addr : Nat) (bytes : List Byte)
  /-- A dictionary response on the network (R301, R306): where to, key slot if authenticated, message. -/
  | response (dest : Dest) (key : Option Nat) (bytes : List Byte)
  /-- A NOTIFY (R313): where to, class, key slot, message. -/
  | notify (dest : Dest) (cls : Nat) (key : Nat) (bytes : List Byte)
  /-- A packet on an Osleig port (R410, R418, R419): port, channel (or none for control), content. -/
  | osleig (u : Nat) (channel : Option Nat) (bytes : List Byte)
  /-- The raster of a frame that an egress port begins: sync, blanking, and what the main stream attributes say (R256, R258): port,
  H_TIMING, H_SYNC, V_TIMING, V_SYNC and PAIR_DIV. -/
  | raster (e : Nat) (timing : List Word)
  /-- An active line that an egress port sends (R259, R260, R420): port, line, R, G and B of each pixel. -/
  | pixels (e : Nat) (y : Nat) (line : List Nat)
  /-- A compressed line that an egress port sends (R262): port, line and the encoder's bytes. -/
  | coded (e : Nat) (y : Nat) (bytes : List Byte)
  /-- Idle patterns with the no-video flag on a DP stream (R266): port. -/
  | noVideo (e : Nat)
  /-- A line of vertical blanking that an egress port sends (R258). -/
  | blank (e : Nat) (y : Nat)
  /-- The payload allocation of a quad's sink, written over AUX with the allocation-change trigger (R261): slots of each stream. -/
  | payload (q : Nat) (slots : List Nat)
  /-- A picture parameter set (R262): port, slices, slice height, sixteenths of a bit per pixel, bits per component, width and
  height. -/
  | pps (e : Nat) (set : List Nat)
  /-- Time markers on the down port, one at every tick k · 1,024 (R410): the first k, and how many. -/
  | markers (first count : Nat)
  /-- A SYNC marker sent down the cascade (R226): channel and MARK. -/
  | syncMarker (channel : Nat) (mark : DWord)
  /-- The AUX or link transaction a quad starts (R267). -/
  | aux (q t : Nat) (op : Nat) (addr : Nat) (bytes : List Byte)
  /-- Training started on a transmit port (R264): the rate it begins at, the lowest that it falls back to, and the lanes. -/
  | train (q t : Nat) (rate lowest lanes : Nat)
  /-- A word shifted out at TDO (R479). -/
  | jtag (bits : Nat) (w : Nat)
  deriving DecidableEq, Repr

/-- The completion of the last command that reads (log entry 7). -/
inductive Reply where
  | none
  /-- Register data. -/
  | word (w : Word)
  /-- Memory data. -/
  | bytes (l : List Byte)
  /-- A completion with a poisoned TLP (R103). -/
  | poisoned (l : List Byte)
  /-- Completer Abort (R326). -/
  | abort
  /-- Unsupported Request (R342). -/
  | unsupported
  /-- A dictionary response message. -/
  | msg (l : List Byte)
  deriving DecidableEq, Repr

/-- Host link complex. -/
structure Hl where
  err : SMap ErrRec := []
  links : SMap PLink := []
  /-- Functions in D3hot (R342). -/
  d3hot : BitVec 32 := 0
  /-- VF Enable of each endpoint, and MSI-X Enable and PME Enable of each function, as the host programs them (R320). -/
  vfEnable : BitVec 2 := 0
  msixEn : BitVec 32 := 0
  pmeEn : BitVec 32 := 0
  /-- The size of BAR2 of each endpoint, 2^n GiB: 16 GiB at reset (R325). -/
  bar2 : SMap Nat := []
  /-- PME sent in this sleep (R358). -/
  pmeSent : BitVec 32 := 0
  /-- MSI-X pending bit of each function (R350). -/
  pba : BitVec 32 := 0
  /-- MSI-X function mask of each function (R350). -/
  fnMask : BitVec 32 := 0
  deriving DecidableEq, Repr

/-! ### Held values, latched items and posted writes -/

/-- A value held for its group's key (R286, R287). -/
structure Held where
  value : Word
  safety : Bool
  since : Nat
  deriving DecidableEq, Repr

/-- One register value that an item writes, and whether its writer carried SAFETY (R178, R287). -/
structure Wr where
  addr : Nat
  value : Word
  safety : Bool
  deriving DecidableEq, Repr

/-- A direct ·T write, or a keyed group, that waits for a latch (R44, R45, R482). -/
structure Item where
  /-- The head whose latch it joins. -/
  head : Nat
  /-- Its key or its own register. -/
  unit : Nat
  group : Bool
  writes : List Wr
  landed : Nat
  /-- A slot move waits for this head's latch first (R482), until the tick given once that latch has passed. -/
  oldHead : Option Nat := none
  moved : Option Nat := none
  deriving DecidableEq, Repr

/-- A write taken and not yet landed (R334). -/
structure Landing where
  block : PBlock
  reg : RegId
  value : Word
  src : Source
  safety : Bool
  deriving DecidableEq, Repr

/-- A group that is pending (R288): its key's offset. -/
abbrev PendGroups := List Nat

/-! ### Heads and phase groups -/

/-- The timing group of a head (R61). -/
structure Raster where
  hTiming : Word := 0
  hSync : Word := 0
  vTiming : Word := 0
  vSync : Word := 0
  pairDiv : Word := 0
  deriving DecidableEq, Repr

/-- Whether a head scans (R41). -/
inductive HPhase where
  | disabled
  /-- Waiting to begin, at the given tick where the group fixes one. -/
  | waiting (begin : Nat)
  | running
  deriving DecidableEq, Repr

/-- Display head n (R38 to R61). -/
structure Head where
  phase : HPhase := .disabled
  stopReq : Bool := false
  pg : Nat := 0
  anchor : Nat := 0
  frame : DWord := 0
  /-- The raster of the frame being scanned. -/
  raster : Raster := {}
  line : Nat := 0
  /-- Whether the head has passed an L0:P0 since it began. -/
  anchored : Bool := false
  /-- Whether the fetch window of the current line has been opened. -/
  opened : Bool := false
  /-- Whether this frame's latch has happened. -/
  latched : Bool := false
  /-- The line a LATCH instruction of this frame chose (R46). -/
  early : Option Nat := none
  /-- The line at which the head began, or begins: its first latch (R41). -/
  beginLine : Nat := 0
  /-- Whether the selection of the coming latch has run (R133). -/
  selected : Bool := false
  /-- Whether the first latch since the head began has happened. -/
  firstLatch : Bool := false
  latchTick : DWord := 0
  /-- The tick of the last latch in the present count: a cascade step moves it, LATCH_TICK stays (R412). -/
  latchedAt : Nat := 0
  lastSlew : Word := 0
  /-- Slew to spend at the end of this frame, and one already decided for the next frame (R54). -/
  slew : Int := 0
  slewNext : Int := 0
  /-- Whether the window of a last line that a negative slew omits has been opened (R54, R70; log entry 58). -/
  extra : Bool := false
  autoLatch : Bool := false
  cfgRefused : Bool := false
  groupPending : Bool := false
  timingApplied : Bool := false
  lastLine : Nat := 0
  lastPixel : Nat := 0
  /-- The bank whose image is in force on the head. -/
  bank : Option Nat := none
  deriving DecidableEq, Repr

/-- Genlock state (R55). -/
inductive GState where
  | off | acquiring | locked | holdover
  deriving DecidableEq, Repr

/-- Phase group g (R49 to R55). -/
structure PGroup where
  state : GState := .off
  /-- Tick of the last reference event. -/
  event : Option Nat := none
  /-- Tick at which REF was last applied with a value other than NONE. -/
  refSince : Nat := 0
  /-- Whether the decision before was made with an event and had |e| ≤ S. -/
  prevGood : Bool := false
  /-- The group anchor before the current one: a follower may still have its anchor to come (R49). -/
  prev : Option Nat := none
  /-- The head whose raster and anchors define the current group frame, with that raster; none before the group has a frame period
  (R49, R62). -/
  lead : Option (Nat × Raster) := none
  /-- The anchor of the current group frame, once the group has one. -/
  anchor : Option Nat := none
  slew : Int := 0
  gf : DWord := 0
  deriving DecidableEq, Repr

/-! ### Flares -/

/-- The internal triggers of R224. -/
structure TrigArg where
  kind : Nat
  arg : Nat
  deriving DecidableEq, Repr

/-- What a comparator-bank entry does (R56). -/
inductive FlareAct where
  | set
  | clear
  | pulse (w : Nat)
  | trigger (t : TrigArg)
  deriving DecidableEq, Repr

/-- One place of the bank: a queued entry, or a pulse whose falling edge is to come. -/
structure FlareEntry where
  target : Nat
  act : FlareAct
  mask : Word
  order : Nat
  fall : Bool := false
  deriving DecidableEq, Repr

/-- The comparator bank and the pins. -/
structure Flares where
  bank : SMap (List FlareEntry) := []
  order : Nat := 0
  level : Word := 0
  deriving DecidableEq, Repr

/-! ### Schedule images and banks -/

/-- A HEADS entry (R66). -/
structure HeadEntry where
  raster : Raster := {}
  latchLine : Nat := 0
  lead : Nat := 1
  cluster : Nat := 0
  pg : Nat := 0
  elastic : Bool := false
  genlocked : Bool := false
  deriving DecidableEq, Repr

/-- An ENVELOPES entry (R67). -/
structure Envelope where
  slot : Nat := 0
  head : Nat := 0
  formatClass : Nat := 0
  alphaModes : Nat := 0
  zMin : Nat := 0
  zMax : Nat := 0
  channel : Nat := 0
  mirror : Nat := 0xFF
  srcWMax : Nat := 0
  srcHMax : Nat := 0
  x0 : Nat := 0
  y0 : Nat := 0
  x1 : Nat := 0
  y1 : Nat := 0
  maxBpl : Nat := 0
  hRatioMin : Nat := 0
  hRatioMax : Nat := 0
  vRatioMin : Nat := 0
  vRatioMax : Nat := 0
  hTapsMax : Nat := 1
  vTapsMax : Nat := 1
  beamRaced : Bool := false
  hostStaged : Bool := false
  paired : Bool := false
  stream : Nat := 0xFF
  bursts : Nat := 0
  deriving DecidableEq, Repr

/-- A CLASSES entry (R70). -/
structure LineClass where
  head : Nat := 0
  first : Nat := 0
  last : Nat := 0
  envs : List Nat := []
  deriving DecidableEq, Repr

/-- An ASSIGN entry (R75); `head` 0xFF is unbound. -/
structure Assign where
  head : Nat := 0xFF
  env : Nat := 0xFF
  paired : Bool := false
  deriving DecidableEq, Repr

/-- An INGRESS entry (R76). -/
structure IngressEntry where
  stream : Nat := 0
  owner : Nat := 0
  channel : Nat := 0
  maxLineBytes : Nat := 0
  minLineTicks : Nat := 0
  ringLines : Nat := 0
  deriving DecidableEq, Repr

/-- A demand entry of the certificate (R78). -/
structure CertEntry where
  head : Nat
  cls : Nat
  channel : Nat
  kind : Nat
  demand : Nat
  grant : Nat
  deriving DecidableEq, Repr

/-- An image that a bank holds (R64 to R79), in structured form. -/
structure Image where
  clockSpire : Bool := false
  channelMask : Nat := 0
  signed : Bool := false
  bootScene : Bool := false
  headMask : Nat := 0
  imageId : Nat := 0xFFFF
  counterpart : Nat := 0xFFFF
  dataRate : Nat := 0
  fabKhz : Nat := 0
  /-- Entries of the heads in HEAD_MASK. -/
  heads : SMap HeadEntry := []
  envs : List Envelope := []
  classes : List LineClass := []
  /-- The slot table of each channel in CHANNEL_MASK. -/
  slots : SMap (List Nat) := []
  assign : List Assign := []
  ingress : List IngressEntry := []
  lanterns : SMap (List Word) := []
  /-- Channel counts, six per channel, and COMP_LOAD of each cluster, as claimed. -/
  certCounts : List (List Nat) := []
  compLoad : List Nat := []
  certEntries : List CertEntry := []
  alive : Nat := 0
  deriving DecidableEq, Repr

/-- The state of a bank (R87). -/
inductive BState where
  | empty | loading | resident | live | switching
  deriving DecidableEq, Repr

/-- A schedule bank. -/
structure Bank where
  state : BState := .empty
  image : Option Image := none
  deriving DecidableEq, Repr

/-- A load in progress (R80): the bank, the record, the state the bank was in. -/
structure Load where
  bank : Nat
  record : List Byte
  busy : Bool
  before : BState
  deriving DecidableEq, Repr

/-- A switch that has been accepted (R88). -/
structure Switch where
  fromBank : Nat
  toBank : Nat
  /-- Affected heads that have not yet switched. -/
  left : BitVec 16
  /-- Affected heads that have. -/
  done : BitVec 16
  spire : Bool
  /-- Tick at which verification completed. -/
  accepted : Nat
  /-- The ticket that committed it; none for the MC's own. -/
  ticket : Option Nat
  deriving DecidableEq, Repr

/-- The banks and the loader. -/
structure Sched where
  banks : SMap Bank := []
  load : Option Load := none
  switch : Option Switch := none
  window : SMap Byte := []
  code : Nat := 0
  detHead : Nat := 0xFF
  detClass : Nat := 0xFF
  detChannel : Option Nat := none
  lastBank : Nat := 0
  /-- Running heads that apply their HEADS entry at their next latch (R439). -/
  entryDue : BitVec 16 := 0
  /-- Heads whose first latch under the live image has not passed: their lanterns load there (R77). -/
  firstDue : BitVec 16 := 0
  /-- Whether the ingress lanterns wait for the first latch under the live image (R77). -/
  ingressDue : Bool := false
  deriving DecidableEq, Repr

/-! ### Memory fabric -/

/-- A channel (R98, R102, R113, R114). -/
structure Channel where
  sizeGib : Nat := 0
  rate : Nat := 0
  reason : Nat := 0
  refMult : Nat := 0
  hot : Bool := false
  logHeld : Bool := false
  logUncorr : Bool := false
  logReq : Nat := 0
  logDpa : Nat := 0
  deriving DecidableEq, Repr

/-- A page found by a walk: VA and size, where it maps, its WRITE and MIRROR bits; a faulting page maps nowhere. -/
structure Page where
  va : Nat
  size : Nat
  dpa : Option Nat
  write : Bool := false
  mirror : Bool := false
  deriving DecidableEq, Repr

/-- An entry of the translation cache (R106). -/
structure TlbEntry where
  ctx : Nat
  channel : Nat
  page : Page
  deriving DecidableEq, Repr

/-- What a pin serves (R106, R195). -/
inductive PinUse where
  | queue (slot : Nat) (seq : Nat)
  | direct (slot : Nat)
  | fallback (k : Nat)
  | ring (stream : Nat)
  deriving DecidableEq, Repr

/-- Whether a pin has completed. -/
inductive PinState where
  | pending | done | refused
  deriving DecidableEq, Repr

/-- A pin of a buffer: its context, its bytes and, once complete, its pages. `shadow` pages are the shadow's own (R195). -/
structure Pin where
  use : PinUse
  ctx : Nat
  base : Nat
  len : Nat
  state : PinState
  pages : List Page
  shadow : List Page
  /-- The tick at which it was last completed or refused. -/
  tick : Nat := 0
  deriving DecidableEq, Repr

/-- A re-walk in progress (R107): the pinned page. -/
structure Rewalk where
  ctx : Nat
  va : Nat
  size : Nat
  deriving DecidableEq, Repr

/-- The translation fault log (R105). -/
structure XlatLog where
  held : Bool := false
  write : Bool := false
  level : Nat := 0
  req : Nat := 0
  ctx : Nat := 0
  va : Nat := 0
  deriving DecidableEq, Repr

/-- The memory fabric beside the memory itself. -/
structure Fabric where
  channels : SMap Channel := []
  /-- Bursts stored with the poison pattern, and metadata bursts that are damaged (R103), by address / 64. -/
  poison : List Nat := []
  badMeta : List Nat := []
  /-- Corrected bursts waiting for their write-back (R102). -/
  writeback : List Nat := []
  tlb : List TlbEntry := []
  pins : List Pin := []
  rewalks : List Rewalk := []
  log : XlatLog := {}
  /-- Open-slot credits by channel · 8 + requester, and the last requester served (R112). -/
  credits : SMap Nat := []
  served : SMap Nat := []
  deriving DecidableEq, Repr

/-! ### Fetch array -/

/-- A pixel: three 12-bit channels in channel order, and alpha. -/
structure Px where
  c0 : Nat := 0
  c1 : Nat := 0
  c2 : Nat := 0
  a : Nat := 4095
  deriving DecidableEq, Repr

/-- Why a pixel has no value of its own. -/
inductive NoPx where
  /-- Its data was not delivered (R93). -/
  | missing
  /-- Its tile is malformed, or its line was lost to the beam: it shows SUBST_COLOR and does not count as substitution (R124, R247). -/
  | malformed
  deriving DecidableEq, Repr

/-- What a fetch gives. -/
inductive Got (α : Type) where
  | ok (a : α)
  | error (e : NoPx)
  deriving DecidableEq, Repr

/-- A pixel of a layer, or why there is none. -/
abbrev Cell := Got Px

/-- A tile as read: its header and payload. -/
structure Tile where
  hdr : List Byte
  pay : List Byte
  /-- The bursts of its payload that were not delivered (R93). -/
  gaps : List Nat := []
  deriving DecidableEq, Repr

/-- A stage copy (R132). -/
structure Stage where
  host : Nat
  hostPitch : Nat
  pitch : Nat
  lineBytes : Nat
  first : Nat
  count : Nat
  fn : Nat
  /-- The engine serves it: the next copy is chosen when this one ends (R132). -/
  begun : Bool := false
  done : Bool := false
  failed : Option Nat := none
  deriving DecidableEq, Repr

/-- A queue entry (R129, R131). -/
structure QEntry where
  seq : Nat
  port : Nat
  ctx : Nat
  buf : Nat
  plane1 : Word
  fence : Word
  fenceVal : Word
  tag : Word
  stage : Option Stage
  deriving DecidableEq, Repr

/-- The buffer a layer shows. -/
structure Shown where
  tag : Word
  /-- The port it was queued through; none for a directly applied buffer or a fallback. -/
  port : Option Nat
  /-- The pin that holds its pages. -/
  use : PinUse
  deriving DecidableEq, Repr

/-- The not-ready policy of the frame that follows a latch (R135). -/
inductive NrNow where
  | normal | hold | hide | substitute
  deriving DecidableEq, Repr

/-- The run-time state of a layer slot. -/
structure Layer where
  queue : List QEntry := []
  /-- Sequence number of the selected entry. -/
  sel : Option Nat := none
  /-- Port and tag of the first entry at the selection, where the queue was not empty then (R135). -/
  first : Option (Nat × Word) := none
  shown : Option Shown := none
  policy : NrNow := .normal
  keepAge : Nat := 0
  /-- Hidden on its old head by a move (R482) or between the two switch latches (R281). -/
  hidden : Bool := false
  /-- A move that hid it was rejected: it is shown again from its head's next latch (R482). -/
  reshow : Bool := false
  /-- The fallback of its keep region's fault was shown on this K slot (R202). -/
  fell : Bool := false
  /-- The resident source lines after the input stage, by line of the source rectangle (R145, R152). -/
  rows : SMap (List Cell) := []
  /-- The chroma line delivered with the last luma line of this frame, and its number (R148). -/
  chroma : Option (Nat × List (Got (Nat × Nat))) := none
  /-- The tiles read for the rows in use, by tile row · 65536 + tile column (R125). -/
  tiles : SMap (Got Tile) := []
  /-- The destination line made in the last window that made one (R145). -/
  cells : List Cell := []
  deriving DecidableEq, Repr

/-- A slot that has been moved to a head that does not run, as its old head shows it to the end of its frame (R482): the values of the
slot's registers, and its run-time state. -/
structure Linger where
  slot : Nat
  head : Nat
  regs : List (Nat × Word)
  layer : Layer
  deriving DecidableEq, Repr

/-- A completion record (R140). -/
structure DoneRec where
  tag : Word := 0
  port : Nat := 0
  event : Nat := 0
  head : Nat := 0
  frame : DWord := 0
  deriving DecidableEq, Repr

/-- The fetch array. -/
structure Fa where
  layers : SMap Layer := []
  /-- Slots that an old head goes on showing to its next latch (R482). -/
  linger : List Linger := []
  fences : SMap Word := []
  recs : SMap DoneRec := []
  doneWr : SMap Nat := []
  doneRd : SMap Nat := []
  result : SMap Nat := []
  seq : Nat := 0
  /-- Records made and not yet stored, with their functions. -/
  due : List (Nat × DoneRec) := []
  deriving DecidableEq, Repr

/-! ### Keep path and signatures -/

/-- Keep state of a head (R197 to R204, R211). -/
structure KeepHead where
  fault : BitVec 4 := 0
  fallback : BitVec 4 := 0
  blanked : Bool := false
  lastKind : Nat := 0
  clearRefused : Bool := false
  tileValid : Bool := false
  tileRegion : Nat := 0
  tileRow : Nat := 0
  tileCol : Nat := 0
  tileFrame : DWord := 0
  clearReq : BitVec 4 := 0
  /-- Regions with a fault event since the last anchor (R204). -/
  recent : BitVec 4 := 0
  /-- Tiles counted in this frame (R197). -/
  tiles : List (Nat × Nat) := []
  /-- The tick at which each region in fault was last found so. -/
  faultTick : SMap Nat := []
  /-- Pixels in enabled regions, by line composed and not yet scanned, where main path and shadow disagree: column, and the kind of
  keep fault (R196, R197). -/
  diff : SMap (List (Nat × Nat)) := []
  /-- Regions whose fallback has been applied since the fault (R202, R203). -/
  fellBack : BitVec 4 := 0
  selfFrames : Nat := 0
  selfBit : Nat := 0
  deriving DecidableEq, Repr

/-- A signature region (R206 to R208). -/
structure SigRun where
  crc : Word := 0xFFFFFFFF
  shadowCrc : Word := 0xFFFFFFFF
  result : Word := 0
  shadowResult : Word := 0
  frozen : Bool := false
  last4 : List Word := []
  equal : Nat := 0
  /-- Its FAIL bit was set under ACTION FAULT_N: it holds FAULT_N until it is cleared (R208). -/
  holds : Bool := false
  posted : Nat := 0
  deriving DecidableEq, Repr

/-- The shadow compositor and the signatures. -/
structure Keep where
  available : Bool := false
  startCode : Nat := 0
  owner : Nat := 0
  clockBad : List ClockTarget := []
  heads : SMap KeepHead := []
  /-- Signature regions by head · 64 + region, and the frame of the posted results. -/
  sigs : SMap SigRun := []
  sigFrame : SMap DWord := []
  deriving DecidableEq, Repr

/-! ### Lanterns -/

/-- What a lantern waits for (R222 to R226): a line, a pixel, a fence or a cascade marker, the last two with the lines left before
they time out. -/
inductive LWait where
  | line (l : Nat)
  | pixel (p : Nat)
  | fence (f : Nat) (target : Word) (left : Nat)
  | sync (channel : Nat) (left : Nat)
  deriving DecidableEq, Repr

/-- STATE of a lantern (R234). -/
inductive LState where
  | halted | running | waiting | fault
  deriving DecidableEq, Repr

/-- A lantern (R217 to R234). -/
structure Lantern where
  state : LState := .halted
  pc : Nat := 0
  flag : Bool := false
  mark : DWord := 0
  wait : Option LWait := none
  code : Nat := 0
  faultWord : Word := 0
  image : Bool := false
  len : Nat := 0
  issued : Nat := 0
  lg : SMap Word := []
  stampHi : Word := 0
  /-- The tick at which the pending wait is met, once that is known. -/
  hit : Option Nat := none
  /-- The pace period in which `issued` counts, while the lantern counts pace periods (R217). -/
  pace : Nat := 0
  /-- A START has been accepted and begins at the next line of the head (R232). -/
  startDue : Bool := false
  /-- ENTRY of that START, where it begins (R232). -/
  startPc : Nat := 0
  /-- A START in FAULT of an image-owned program waits for the next latch (R231). -/
  restart : Bool := false
  /-- The image's program as it was loaded (R231). -/
  loaded : List Word := []
  /-- The tick at which a counted wait has run out (R225). -/
  out : Option Nat := none
  /-- MARK as the last read of MARK_HI sampled it, for the next read of MARK_LO (R234). -/
  sample : Option DWord := none
  deriving DecidableEq, Repr

/-! ### Ingress -/

/-- A stream port (R241 to R249). -/
structure Stream where
  frame : Word := 0
  wp : Nat := 0
  active : Bool := false
  ended : Bool := false
  fsTick : DWord := 0
  /-- LINES of the last frames, newest first: frame number and count. -/
  history : List (Nat × Nat) := []
  firstSince : Bool := true
  /-- FRAME of the first frame since the last ring change: none before it is held (R243). -/
  since : Word := 0
  unreserved : Bool := false
  ringOk : Bool := false
  lastReject : Nat := 0
  raised : Bool := false
  ringApplied : Bool := false
  /-- Whether lines of the frame in progress are written (R239, R251). -/
  writes : Bool := false
  /-- Values of SCTRL and of the ring group that wait for the end of the frame in progress (R243). -/
  waiting : List Wr := []
  deriving DecidableEq, Repr

/-- A receive port's link (R253). -/
structure RxPort where
  lock : Bool := false
  gear : Nat := 0
  rate : Nat := 0
  /-- The Osleig port over which a forwarded channel arrives, while it does (R422). -/
  via : Option Nat := none
  deriving DecidableEq, Repr

/-- A beam-raced plane (R247). -/
structure Race where
  /-- G; RACE_BOUND reads 0 before the first head frame, a frame that no camera has written (R253). -/
  bound : Option Nat := some 0
  lost : Bool := false
  /-- The decision of R247 for each source line of this head frame: the camera frame read plus 1, or 0 for none. -/
  lines : SMap Nat := []
  deriving DecidableEq, Repr

/-- Stream ingress. -/
structure Ingress where
  streams : SMap Stream := []
  ports : SMap RxPort := []
  races : SMap Race := []
  deriving DecidableEq, Repr

/-! ### Output quads -/

/-- LINK STATE (R264). -/
inductive LinkState where
  | down | training | up | failed
  deriving DecidableEq, Repr

/-- A transmit port (R264 to R268). -/
structure TxPort where
  state : LinkState := .down
  /-- TRAINED_RATE as it reads: 0 after reset, and 0xFF from the first training on while the link is not UP (R10, R269; log
  entry 67). -/
  rate : Nat := 0
  /-- The rate that training begins at (R264, R436). -/
  target : Nat := 0
  hpd : Bool := false
  loss : Nat := 0
  auxBusy : Bool := false
  auxOp : Nat := 0
  auxLen : Nat := 0
  auxBytes : Nat := 0
  auxResult : Nat := 0
  deriving DecidableEq, Repr

/-- An egress stream port (R257 to R262). -/
structure Egress where
  /-- The head whose frame the port carries. -/
  carry : Option Nat := none
  /-- Bits per component of the frame that it carries (R259, R260). -/
  bpc : Nat := 0
  /-- The picture parameter set in force for that frame (R262). -/
  pps : Option (List Nat) := none
  lastReject : Nat := 0
  deriving DecidableEq, Repr

/-- Output quads. -/
structure Output where
  ports : SMap TxPort := []
  /-- The payload allocation that each quad's sink was last told (R261). -/
  payload : SMap (List Nat) := []
  /-- The picture parameter set that each quad sent last on its present link (R262). -/
  pps : SMap (List Nat) := []
  egress : SMap Egress := []
  deriving DecidableEq, Repr

/-! ### Transactions -/

/-- STATE of a ticket (R292). -/
inductive TState where
  | free | opened | verifying | accepted | applied | rejected | partly
  deriving DecidableEq, Repr

/-- The share of an accepted transaction for one head (R279). -/
structure Share where
  head : Nat
  writes : List Wr
  /-- Slots that the share moves from another head, with that head (R482). -/
  moves : List (Nat × Nat) := []
  deriving DecidableEq, Repr

/-- A ticket (R271 to R292). -/
structure Ticket where
  state : TState := .free
  code : Nat := 0
  detail : Nat := 0
  holder : Nat := 0xFF
  mask : BitVec 16 := 0
  done : BitVec 16 := 0
  failed : BitVec 16 := 0
  hcode : SMap Nat := []
  appliedFrame : SMap DWord := []
  draft : List Wr := []
  draftFull : Bool := false
  /-- The tick of its opening, and the tick at which its timeout expires (R272). -/
  openedAt : Nat := 0
  deadline : Nat := 0
  /-- Position in the verification order, and in the acceptance order. -/
  order : Nat := 0
  /-- Units that other tickets' commits, accepted since this one opened, wrote (R283). -/
  foreign : List Nat := []
  shares : List Share := []
  accepted : Nat := 0
  safety : Bool := false
  /-- The request to answer when verification completes (R310). -/
  answer : Option Msg := none
  deriving DecidableEq, Repr

/-- The transaction block. -/
structure Tx where
  tickets : SMap Ticket := []
  order : Nat := 0
  logValid : Bool := false
  logKey : Nat := 0
  deriving DecidableEq, Repr

/-! ### Dictionary -/

/-- A segmented transfer of one source (R302, R308): a node has one of each kind per transport. -/
structure Segs where
  source : Source
  udp : Bool
  index : Nat
  sub : Nat
  data : List Byte
  last : Nat
  /-- It was abandoned for want of a segment, and its next segment is refused for that. -/
  expired : Bool := false
  deriving DecidableEq, Repr

/-- A network interface (R317): CAN 0 and 1, 10BASE-T1S and SGMII. Its objects' values take effect when it is enabled. -/
structure Iface where
  on : Bool := false
  cfg : SMap (List Byte) := []
  deriving DecidableEq, Repr

/-- A dictionary window (R319). -/
structure Win where
  busy : Bool := false
  done : Bool := false
  len : Nat := 0
  rspLen : Nat := 0
  rsp : List Byte := []
  /-- The agent has taken the request. -/
  taken : Bool := false
  /-- The response that waits to be posted. -/
  ready : Option (List Byte) := none
  deriving DecidableEq, Repr

/-- A waiting NOTIFY (R313, R314). -/
structure Note where
  code : Nat := 0
  item : Nat := 0xFFFF
  detail : Word := 0
  tick : Nat := 0
  only : Option Nat := none
  deriving DecidableEq, Repr

/-- The dictionary agent. -/
structure Dict where
  /-- Values of objects that no register mirrors, by index · 256 + sub. -/
  values : SMap (List Byte) := []
  writeSegs : List Segs := []
  readSegs : List Segs := []
  challenge : Option (List Byte) := none
  session : Option Source := none
  /-- The session is the JTAG port's (R26, R479). -/
  jtag : Bool := false
  sessionTick : Nat := 0
  wrong : Nat := 0
  /-- The tick at which the refusal of every response began (R299). -/
  lockout : Option Nat := none
  deviceLock : Bool := false
  floor : SMap Nat := []
  floorRes : SMap Nat := []
  counter : SMap Nat := []
  counterRes : SMap Nat := []
  wins : SMap Win := []
  notes : SMap (List Note) := []
  lost : SMap Nat := []
  noteNo : Nat := 0
  /-- Persistent values waiting to be stored, and the requests to answer then (R297). -/
  storing : List (Nat × List Byte) := []
  storeAnswers : List Msg := []
  /-- Requests to enter spire mode whose answer waits for VDD_CORE (R447). -/
  spireAnswers : List Msg := []
  /-- Writes of posted registers that wait for BUSY of their block to clear, oldest first (R335). -/
  blocked : List Msg := []
  /-- A ledger write that LEDGER_CLEAR by a message has asked for (R442). -/
  ledgerDue : Bool := false
  /-- Requests of network sources that wait for an earlier one of their source, oldest first (R302). -/
  waiting : List Msg := []
  /-- The source served last, as the round of R302 numbers sources. -/
  turn : Nat := 0
  /-- Last tick of an authenticated request of each key slot, and how it came (R312; log entry 31). -/
  heard : SMap Nat := []
  heardVia : SMap (Option Via) := []
  /-- The interfaces, and RX_ERR of each (R303, R304, R317). -/
  ifaces : SMap Iface := []
  rxErr : SMap Nat := []
  deriving DecidableEq, Repr

/-! ### Interrupt concentrator -/

/-- One entry of a claim stack (R351). -/
structure Claim where
  source : Nat
  prio : Nat
  deriving DecidableEq, Repr

/-- A target (R346). -/
structure Target where
  pend : BitVec 512 := 0
  mask : BitVec 512 := BitVec.allOnes 512 - 1
  prio : SMap Nat := []
  /-- COAL byte of each source. -/
  coal : SMap Nat := []
  threshold : Nat := 0
  /-- Top first. -/
  stack : List Claim := []
  armed : Bool := false
  asleep : Bool := false
  wakeUncoal : Bool := false
  waiting : Bool := false
  nestFull : Bool := false
  deriving DecidableEq, Repr

/-- State of a coalescing group (R356). -/
inductive CState where
  | idle | holding | released | expired
  deriving DecidableEq, Repr

/-- A coalescing group's run-time state (R355). -/
structure CGroup where
  state : CState := .idle
  count : Nat := 0
  since : Nat := 0
  deriving DecidableEq, Repr

/-- The concentrator. -/
structure Ic where
  targets : SMap Target := []
  groups : SMap CGroup := []
  deriving DecidableEq, Repr

/-! ### Check values, blitter, performance monitor -/

/-- A check-value unit (R364 to R375). -/
structure CvUnit where
  busy : Bool := false
  done : Bool := false
  doneEmpty : Bool := false
  mismatch : Bool := false
  err : Nat := 0
  errIndex : Nat := 0
  firstMismatch : Nat := 0
  runs : Nat := 0
  entry : Nat := 0
  results : SMap DWord := []
  deriving DecidableEq, Repr

/-- A command in a blitter queue (R387). -/
structure BlitCmd where
  words : List Word
  seq : Nat
  fn : Nat
  ctx : Nat
  deriving DecidableEq, Repr

/-- A blitter engine (R377 to R389). -/
structure BlitEng where
  queue : List BlitCmd := []
  current : Option (BlitCmd × Nat × Nat) := none
  submitSeq : Word := 0
  doneSeq : Word := 0
  stall : Option Nat := none
  logHeld : Bool := false
  logFn : Nat := 0
  logResult : Nat := 0
  logLine : Nat := 0
  faultSeq : Word := 0
  deriving DecidableEq, Repr

/-- A queue share (R395). -/
structure BlitShare where
  result : Nat := 0
  lastSeq : Word := 0
  lastDone : Nat := 0
  lastDoneSeq : Word := 0
  cringWr : Nat := 0
  cringRd : Nat := 0
  deriving DecidableEq, Repr

/-- The blitter: engines, and shares by engine · 32 + function. -/
structure Blitter where
  engines : SMap BlitEng := []
  shares : SMap BlitShare := []
  deriving DecidableEq, Repr

/-- Performance monitor: CYC of each block, CTR by block · 8 + counter, and the sticky OVF bits (R396, R398). -/
structure Perf where
  cyc : SMap Nat := []
  ctr : SMap Nat := []
  /-- OVF of each block: bits 0 to 7 for its counters, bit 8 for CYC. -/
  ovf : SMap (BitVec 9) := []
  /-- What registers written in the core clock in progress held before it: it counts by those (R401, R402). -/
  held : List (Nat × Word) := []
  /-- Counters, 8 being CYC, loaded when the core clock in progress ends, with their values (R400). -/
  loads : List (Nat × Nat × Nat) := []
  /-- Counters that have wrapped in the core clock in progress (R398). -/
  wrapped : List (Nat × Nat) := []
  deriving DecidableEq, Repr

/-! ### Cascade -/

/-- STATE of the cascade (R414). -/
inductive CascState where
  | alone | joining | joined | lost
  deriving DecidableEq, Repr

/-- An Osleig port (R409, R411): `free` is the tick by which it has sent what it took (log entry 29). -/
structure Osleig where
  up : Bool := false
  delay : Nat := 0
  free : Nat := 0
  deriving DecidableEq, Repr

/-- A segment buffer (R420). -/
structure SegBuf where
  usable : Bool := false
  formatErr : Bool := false
  late : Nat := 0
  /-- The last header. -/
  width : Nat := 0
  height : Nat := 0
  depth : Nat := 0
  frame : DWord := 0
  /-- The buffered lines, by their number: at most four. -/
  lines : SMap (List Word) := []
  /-- Whether the source has fired in the receiving head's frame. -/
  raised : Bool := false
  /-- The line of the receiving head that was found not to be usable (R420), until the head leaves it. -/
  missed : Option Nat := none
  /-- Whether the line before was found not to be usable: LOSS_POLICY is in effect (R417). -/
  policy : Bool := true
  /-- Whether a line was missed since the last header that matched: the segment resumes at a frame (R420). -/
  lost : Bool := false
  deriving DecidableEq, Repr

/-- The cascade. -/
structure Cascade where
  role : Nat := 0
  position : Nat := 0
  state : CascState := .alone
  devices : Nat := 0
  step : DWord := 0
  ports : SMap Osleig := []
  segs : SMap SegBuf := []
  /-- Line packets waiting to be relayed, with the ticks they came at, by outgoing port · 256 + channel (R419). -/
  relay : SMap (List (Nat × SegPacket)) := []
  /-- Whether a line was discarded since the last header, by outgoing port · 256 + channel (R419). -/
  discarded : SMap Bool := []
  /-- The tick of the SYNC marker that each channel relayed last (R410). -/
  synced : SMap (Option Nat) := []
  deriving DecidableEq, Repr

/-! ### Start-up, ledger and stored data -/

/-- What verification of a record found (R372, R373). -/
inductive Outcome where
  | ok | payloadMismatch | damaged (detail : Nat) | repeat_ | stale
  deriving DecidableEq, Repr

/-- One of the two copies of a record of the MC's own (R371, R374): its ALIVE, its payload, and what R372 finds in it without F. -/
structure Copy (α : Type) where
  alive : Nat
  found : Outcome
  payload : α
  deriving DecidableEq, Repr

/-- A start entry (R434). -/
structure LedgerEntry where
  startNo : Nat := 0
  result : Nat := 0
  /-- STEP[s] by s. -/
  steps : SMap Word := []
  dram : Word := 0
  links : Word := 0
  copies : Word := 0
  /-- SHUTDOWN_CAUSE as it was read in this start (R457). R434 names no byte for it, so the payload does not show it (log entry 68). -/
  cause : Byte := 0
  /-- The rungs that failed on each channel, bit r for rung r; the DETAIL of each damaged copy, by its place in COPIES; and the boot
  entries that failed, bit k for entry k (R374, R435, R438). R434 names no bytes for them either. -/
  failed : SMap Nat := []
  details : SMap Nat := []
  bootFails : Nat := 0
  deriving DecidableEq, Repr

/-- The ledger payload (R434): counts by channel and by quad, start entries by their place. -/
structure Ledger where
  startCount : Nat := 0
  chFails : SMap Nat := []
  quadFails : SMap Nat := []
  fwGoodB : Bool := false
  entries : SMap LedgerEntry := []
  /-- Copies found CHECK_DAMAGED and copies found PAYLOAD_MISMATCH (R374), for which R434 names no bytes (log entry 68). -/
  damaged : Nat := 0
  mismatched : Nat := 0
  deriving DecidableEq, Repr

/-- SPI NOR contents (R429, R431, R438). A copy that was never written is none. -/
structure Nor where
  /-- The array's bytes at offsets that boot entries name. -/
  bytes : SMap Byte := []
  ledgerA : Option (Copy Ledger) := none
  ledgerB : Option (Copy Ledger) := none
  /-- The persistent store's copies: values by index · 256 + sub (R297). -/
  storeA : Option (Copy (SMap (List Byte))) := none
  storeB : Option (Copy (SMap (List Byte))) := none
  /-- The stored training's copies: the data rates that each channel has stored values for, the latest first (R435). -/
  trainA : Option (Copy (SMap (List Nat))) := none
  trainB : Option (Copy (SMap (List Nat))) := none
  /-- LAST_GOOD_RATE of each quad (R436). -/
  lastGood : SMap Nat := []
  deriving DecidableEq, Repr

/-- Start-up state (R429 to R442). -/
structure Start where
  ready : Bool := false
  limp : Bool := false
  recovery : Bool := false
  fwBank : Nat := 0
  step : Nat := 0
  ledgerErr : Bool := false
  bootEntry : Nat := 0xFF
  failedOf10 : Nat := 0
  startNo : Nat := 0
  firstPixel : Nat := 0xFFFF
  /-- The egress port of the boot entry used (R438, R440). -/
  bootPort : Option Nat := none
  steps : SMap Word := []
  /-- The launch word: whether a bank was launched, which one, and whether this start's ledger entry is written (R431). -/
  launched : Bool := false
  launchB : Bool := false
  entryWritten : Bool := false
  /-- The ledger as the MC holds it in this start (R433). -/
  ledger : Ledger := {}
  /-- The tick at which each step ended. -/
  ends : SMap Nat := []
  /-- Network links that have come up since S6, and whether the outcomes of S5 and S6 are still to be recorded (R432). -/
  netUp : BitVec 4 := 0
  linksDue : BitVec 2 := 0
  deriving DecidableEq, Repr

/-! ### Power, heat and safety -/

/-- Thermal state (R446). -/
inductive TherState where
  | normal | warm | shedding
  deriving DecidableEq, Repr

/-- Spire MODE (R447). -/
inductive SpireMode where
  | sustained | entering | spire | leaving
  deriving DecidableEq, Repr

/-- The estimator, spire mode, wear and shedding (R444 to R457). Temperatures are in 1/8 °C. -/
structure Thermal where
  /-- The samples of the last millisecond, newest first. -/
  window : List (List Int) := []
  /-- Samples in a row in which a sensor stood apart from the median. -/
  apart : SMap Nat := []
  excluded : List Nat := []
  tmax : Int := 0
  /-- TMAX of the last 25 evaluations, newest first. -/
  history : List Int := []
  pred : Int := 0
  state : TherState := .normal
  mode : SpireMode := .sustained
  lastExit : Nat := 0
  reason : Nat := 0
  /-- The cause of an exit that waits for the entry to be applied (R451); 0 for none. -/
  exitDue : Nat := 0
  spireSeconds : Nat := 0
  /-- OP_SECONDS at S1 of this start, and the tick of that moment (R453). -/
  opSeconds : Nat := 0
  opStart : Nat := 0
  hotSeconds : Nat := 0
  /-- The last second of this start that counted as hot, plus 1. -/
  hotLast : Nat := 0
  shed : BitVec 16 := 0
  coreMhz : Nat := 800
  vselSpire : Bool := false
  shedTick : Nat := 0
  /-- Who asked for the entry by the register route, until VDD_CORE reaches its spire window or fails to (R447). -/
  asker : Option Source := none
  deriving DecidableEq, Repr

/-- FAULT_N and its categories (R458 to R462). -/
structure Safety where
  category : BitVec 11 := 0
  /-- The categories that cleared last, and the tick at which they did (R462). -/
  cleared : BitVec 11 := 0
  clearedAt : Nat := 0
  /-- PLLs without lock, and the tick at which each lost PLL locked again. -/
  pllOut : List Pll := []
  pllBack : List (Pll × Nat) := []
  /-- The tick of the last heartbeat refresh, and whether two in a row were missed (R459). -/
  refreshed : Nat := 0
  managerLost : Bool := false
  deriving DecidableEq, Repr

/-- The always-on domain and what survives a system reset (R427, R428, R431, R452, R457). -/
structure AlwaysOn where
  straps : Straps := ⟨0, false, false, false⟩
  /-- The reset inputs that are low (R427, R477). -/
  porstLow : Bool := false
  sysrstLow : Bool := false
  shutdownCause : Byte := 0
  /-- FAULT_N driven static low (R427, R459). -/
  faultnLow : Bool := true
  /-- The rails that their monitors find outside the warning window, and outside the fault window (R458). -/
  railsWarn : List Nat := []
  railsOut : List Nat := []
  nor : Nor := {}
  /-- OTP wear bits burnt (R452). -/
  otpWear : Nat := 0
  /-- Fuse-backed items written (R296): key slots revoked. -/
  fuseRevoked : BitVec 16 := 0
  deriving DecidableEq, Repr

/-! ### The whole -/

/-- The state of the block. -/
structure State where
  /-- Commands waiting, oldest first. -/
  pending : List Instr
  power : Power
  aon : AlwaysOn
  /-- The Belfry tick counter (R36). -/
  tick : Nat
  /-- Remainder of core clocks in ticks (log entry 9). -/
  corePhase : Nat
  /-- Free values drawn so far (log entry 8). -/
  fresh : Nat
  outbox : List OutMsg
  reply : Reply
  /-- Applied register values by key of the register map. -/
  regs : SMap Word
  /-- Values held for a group's key, by register key. -/
  held : SMap Held
  pendGroups : PendGroups
  /-- Direct ·T writes and keyed groups waiting for a latch, in landing order. -/
  items : List Item
  /-- Posted writes that have not landed. -/
  posted : List Landing
  /-- Posted blocks whose WRITE_DROPPED is set. -/
  dropped : List PBlock
  /-- Local memory by device physical address (R100). -/
  mem : SMap Byte
  /-- WO1 registers written since power-on (R11). -/
  wo1 : List Nat
  /-- Commit code of the last rejected item of each block that has a LAST_REJECT field: DH n, 0x100 + SA n, 0x200 + CP n. -/
  lastReject : SMap Nat
  hl : Hl
  heads : SMap Head
  groups : SMap PGroup
  flares : Flares
  sched : Sched
  fabric : Fabric
  fa : Fa
  /-- Post-dither pixels of the lines composed and not yet scanned, by head · 65536 + line (R183). -/
  tap : SMap (List Word)
  keep : Keep
  lanterns : SMap Lantern
  si : Ingress
  oq : Output
  tx : Tx
  dict : Dict
  ic : Ic
  cv : SMap CvUnit
  bl : Blitter
  pm : Perf
  casc : Cascade
  start : Start
  therm : Thermal
  safety : Safety
  deriving DecidableEq, Repr

/-- The reasons a command can stop with a fault. -/
inductive Fault where
  /-- An ECC event names a burst that no channel has (R100). Raised by the ECC and scrub commands. Safe: the hardware has no
  such event. -/
  | absentBurst
  deriving DecidableEq, Repr

/-- The reasons a command is refused. -/
inductive Refusal where
  /-- No meaning yet. Raised by the dispatcher alone. Safe. -/
  | notModelled (mnemonic : String)
  /-- A JTAG instruction other than those R479 describes, inside a DIAG session. Raised by JTAG_INSTRUCTION. Safe. -/
  | jtagPrivate
  deriving DecidableEq, Repr

/-- The machine right after reset (R10): PORST_N is released and start-up has not run (log entry 1); every register reads
its reset value, memory and tables list nothing, and no command waits. -/
def State.reset : State where
  pending := []
  power := .starting
  aon := {}
  tick := 0
  corePhase := 0
  fresh := 0
  outbox := []
  reply := .none
  regs := []
  held := []
  pendGroups := []
  items := []
  posted := []
  dropped := []
  mem := []
  wo1 := []
  lastReject := []
  hl := {}
  heads := []
  groups := []
  flares := {}
  sched := {}
  fabric := {}
  fa := {}
  tap := []
  keep := {}
  lanterns := []
  si := {}
  oq := {}
  tx := {}
  dict := {}
  ic := {}
  cv := []
  bl := {}
  pm := {}
  casc := {}
  start := {}
  therm := {}
  safety := {}

end Sys2Proof.Machine
end

