-- ==== Sys2Proof/Machine/Ops.lean ====
section
/-! DEFINITION. The named operations over the state: registers, time, interrupts, local memory, its errors and its
translation. -/

namespace Sys2Proof.Machine

/-! ### Outcomes -/

/-- What every command of the block answers. -/
abbrev Result := Host.Outcome State Fault Refusal

/-- The effect of a command on a device that runs; a device that does not run takes no command but reset and power (R427,
R430, R457), and its state stays (log entry 6). -/
def powered (s : State) (f : State → State) : Result :=
  .next (if s.power = .on then f s else s)

/-! ### Registers -/

/-- The applied value of a register. -/
def State.reg (s : State) (r : RegId) : Word := SMap.get s.regs r.addr r.resetValue

/-- The applied value at a key of the register map. -/
def State.regKey (s : State) (a : Nat) : Word := SMap.get s.regs a (resetAt a)

/-- A register's applied value replaced. -/
def State.setReg (s : State) (r : RegId) (v : Word) : State :=
  { s with regs := SMap.set s.regs r.addr v r.resetValue }

/-- The value at a key replaced. -/
def State.setKey (s : State) (a : Nat) (v : Word) : State :=
  { s with regs := SMap.set s.regs a v (resetAt a) }

/-- A field of a register raised by `n`, saturating. -/
def State.bump (s : State) (r : RegId) (lo w n : Nat) : State := s.setReg r (bumpFld (s.reg r) lo w n)

/-- A register named with its indices. -/
def rg (n : RegName) (i : Nat := 0) (j : Nat := 0) (k : Nat := 0) : RegId := { name := n, i := i, j := j, k := k }

/-! ### Structures of the state by instance -/

def State.head (s : State) (n : Nat) : Head := SMap.get s.heads n {}
def State.setHead (s : State) (n : Nat) (h : Head) : State := { s with heads := SMap.set s.heads n h {} }
def State.pgroup (s : State) (g : Nat) : PGroup := SMap.get s.groups g {}
def State.setPgroup (s : State) (g : Nat) (p : PGroup) : State := { s with groups := SMap.set s.groups g p {} }
def State.layer (s : State) (i : Nat) : Layer := SMap.get s.fa.layers i {}
def State.setLayer (s : State) (i : Nat) (l : Layer) : State :=
  { s with fa := { s.fa with layers := SMap.set s.fa.layers i l {} } }
def State.bank (s : State) (b : Nat) : Bank := SMap.get s.sched.banks b {}
def State.setBank (s : State) (b : Nat) (x : Bank) : State :=
  { s with sched := { s.sched with banks := SMap.set s.sched.banks b x {} } }
def State.channel (s : State) (m : Nat) : Channel := SMap.get s.fabric.channels m {}
def State.setChannel (s : State) (m : Nat) (c : Channel) : State :=
  { s with fabric := { s.fabric with channels := SMap.set s.fabric.channels m c {} } }
def State.keepHead (s : State) (n : Nat) : KeepHead := SMap.get s.keep.heads n {}
def State.setKeepHead (s : State) (n : Nat) (k : KeepHead) : State :=
  { s with keep := { s.keep with heads := SMap.set s.keep.heads n k {} } }
def State.sig (s : State) (n r : Nat) : SigRun := SMap.get s.keep.sigs (n * 64 + r) {}
def State.setSig (s : State) (n r : Nat) (k : SigRun) : State :=
  { s with keep := { s.keep with sigs := SMap.set s.keep.sigs (n * 64 + r) k {} } }
def State.lantern (s : State) (l : Nat) : Lantern := SMap.get s.lanterns l {}
def State.setLantern (s : State) (l : Nat) (x : Lantern) : State := { s with lanterns := SMap.set s.lanterns l x {} }
def State.stream (s : State) (i : Nat) : Stream := SMap.get s.si.streams i {}
def State.setStream (s : State) (i : Nat) (x : Stream) : State :=
  { s with si := { s.si with streams := SMap.set s.si.streams i x {} } }
def State.rx (s : State) (p : Nat) : RxPort := SMap.get s.si.ports p {}
def State.setRx (s : State) (p : Nat) (x : RxPort) : State :=
  { s with si := { s.si with ports := SMap.set s.si.ports p x {} } }
def State.race (s : State) (n : Nat) : Race := SMap.get s.si.races n {}
def State.setRace (s : State) (n : Nat) (x : Race) : State :=
  { s with si := { s.si with races := SMap.set s.si.races n x {} } }
def State.txPort (s : State) (q t : Nat) : TxPort := SMap.get s.oq.ports (q * 4 + t) {}
def State.setTxPort (s : State) (q t : Nat) (x : TxPort) : State :=
  { s with oq := { s.oq with ports := SMap.set s.oq.ports (q * 4 + t) x {} } }
def State.egress (s : State) (e : Nat) : Egress := SMap.get s.oq.egress e {}
def State.setEgress (s : State) (e : Nat) (x : Egress) : State :=
  { s with oq := { s.oq with egress := SMap.set s.oq.egress e x {} } }
def State.ticket (s : State) (t : Nat) : Ticket := SMap.get s.tx.tickets t {}
def State.setTicket (s : State) (t : Nat) (x : Ticket) : State :=
  { s with tx := { s.tx with tickets := SMap.set s.tx.tickets t x {} } }
def State.win (s : State) (f : Nat) : Win := SMap.get s.dict.wins f {}
def State.setWin (s : State) (f : Nat) (x : Win) : State :=
  { s with dict := { s.dict with wins := SMap.set s.dict.wins f x {} } }
def State.target (s : State) (t : Nat) : Target := SMap.get s.ic.targets t {}
def State.setTarget (s : State) (t : Nat) (x : Target) : State :=
  { s with ic := { s.ic with targets := SMap.set s.ic.targets t x {} } }
def State.cgroup (s : State) (g : Nat) : CGroup := SMap.get s.ic.groups g {}
def State.setCgroup (s : State) (g : Nat) (x : CGroup) : State :=
  { s with ic := { s.ic with groups := SMap.set s.ic.groups g x {} } }
def State.cvUnit (s : State) (u : Nat) : CvUnit := SMap.get s.cv u {}
def State.setCvUnit (s : State) (u : Nat) (x : CvUnit) : State := { s with cv := SMap.set s.cv u x {} }
def State.engine (s : State) (e : Nat) : BlitEng := SMap.get s.bl.engines e {}
def State.setEngine (s : State) (e : Nat) (x : BlitEng) : State :=
  { s with bl := { s.bl with engines := SMap.set s.bl.engines e x {} } }
def State.share (s : State) (e f : Nat) : BlitShare := SMap.get s.bl.shares (e * 32 + f) {}
def State.setShare (s : State) (e f : Nat) (x : BlitShare) : State :=
  { s with bl := { s.bl with shares := SMap.set s.bl.shares (e * 32 + f) x {} } }
def State.osl (s : State) (u : Nat) : Osleig := SMap.get s.casc.ports u {}
def State.setOsl (s : State) (u : Nat) (x : Osleig) : State :=
  { s with casc := { s.casc with ports := SMap.set s.casc.ports u x {} } }
def State.seg (s : State) (k : Nat) : SegBuf := SMap.get s.casc.segs k {}
def State.setSeg (s : State) (k : Nat) (x : SegBuf) : State :=
  { s with casc := { s.casc with segs := SMap.set s.casc.segs k x {} } }
def State.errRec (s : State) (f : Nat) : ErrRec := SMap.get s.hl.err f {}
def State.setErrRec (s : State) (f : Nat) (x : ErrRec) : State :=
  { s with hl := { s.hl with err := SMap.set s.hl.err f x {} } }
def State.link (s : State) (k : Nat) : PLink := SMap.get s.hl.links k {}
def State.setLink (s : State) (k : Nat) (x : PLink) : State :=
  { s with hl := { s.hl with links := SMap.set s.hl.links k x {} } }

/-- A link in L1.2 is woken when the device has a TLP to send on it (R344). -/
def State.wakeLink (k : Nat) (s : State) : State := if (s.link k).l12 then s.setLink k { s.link k with l12 := false } else s

/-- A message sent. -/
def State.send (s : State) (m : OutMsg) : State := { s with outbox := s.outbox ++ [m] }

/-- A TLP sent on a link. -/
def State.sendTlp (s : State) (k : Nat) (m : OutMsg) : State := (s.wakeLink k).send m

/-- The completion of a read. -/
def State.answer (s : State) (r : Reply) : State := { s with reply := r }

/-- Free bytes drawn from the open values of Config (log entry 8). -/
def State.drawn (s : State) (n : Nat) (f : Nat → Byte) : List Byte :=
  (List.range n).map (fun i => f (s.fresh + i))

def State.draw (s : State) (n : Nat) : State := { s with fresh := s.fresh + n }

/-- Ticks in a microsecond and in a millisecond (R4). -/
def ticksPerUs : Nat := 1600
def ticksPerMs : Nat := 1600000

/-! ### Interrupts -/

/-- The group a source belongs to at a target: its COAL entry names it and the target owns it (R355). -/
def coalGroup (s : State) (t src : Nat) : Option Nat :=
  let b := SMap.get (s.target t).coal src 0
  if 128 ≤ b ∧ fld (s.reg (rg .icGcfg (b % 64))) 24 6 = t then some (b % 64) else none

/-- Whether a source of a target is free to be claimed as far as its group goes (R349). -/
def groupOpen (s : State) (t src : Nat) : Bool :=
  match coalGroup s t src with
  | none => true
  | some g => decide ((s.cgroup g).state = .released)

/-- Eligibility (R349). -/
def eligible (s : State) (t src : Nat) : Bool :=
  let x := s.target t
  x.pend.getLsbD src && !x.mask.getLsbD src && decide (x.threshold < SMap.get x.prio src 0) && groupOpen s t src

/-- The running priority (R346). -/
def running (x : Target) : Nat := match x.stack with
  | [] => 0
  | c :: _ => c.prio

/-- The sources of a target that are pending and not masked. -/
def openSources (x : Target) : List Nat :=
  if x.pend &&& ~~~x.mask = 0 then [] else bitsOf 512 (x.pend &&& ~~~x.mask)

/-- The source a claim would return: the highest priority above the running one, the highest number among equals; 0 for none
(R351). -/
def bestSource (s : State) (t : Nat) : Nat :=
  let x := s.target t
  (openSources x).foldl (fun best src =>
    if eligible s t src ∧ running x < SMap.get x.prio src 0 ∧
        (best = 0 ∨ SMap.get x.prio best 0 ≤ SMap.get x.prio src 0) then src else best) 0

/-- The request output (R350). -/
def irqRequest (s : State) (t : Nat) : Bool :=
  decide ((s.target t).stack.length < 8) && decide (bestSource s t ≠ 0)

/-- Whether a target sleeps (R358). -/
def sleeping (s : State) (t : Nat) : Bool :=
  decide (t < 32) && (s.hl.d3hot.getLsbD t || (s.target t).asleep)

/-- Whether the function's MSI-X vector is masked, or MSI-X is not enabled for the function (R320, R350; log entry 55). -/
def vectorMasked (s : State) (t : Nat) : Bool :=
  bit (s.reg (rg .hlMsix t 3)) 0 || s.hl.fnMask.getLsbD t || !s.hl.msixEn.getLsbD t

/-- Groups that are RELEASED with no member pending at their owner become IDLE (R356). -/
def idleGroups (t : Nat) (s : State) : State :=
  (List.range 64).foldl (fun s g =>
    if (s.cgroup g).state = .released ∧ fld (s.reg (rg .icGcfg g)) 24 6 = t ∧
        ¬ (bitsOf 512 (s.target t).pend).any (fun src => coalGroup s t src = some g)
    then s.setCgroup g {} else s) s

/-- Sending what a function target's request asks for (R350, R358). A message that waits in the pending bit array goes with its request,
as PCI Express requires. -/
def sendRequest (t : Nat) (s : State) : State :=
  if t < 32 ∧ ¬ irqRequest s t then { s with hl := { s.hl with pba := setBit s.hl.pba t false } }
  else if t < 32 ∧ ¬ (s.target t).armed then
    if sleeping s t then s.setTarget t { s.target t with waiting := true }
    else if vectorMasked s t then { s with hl := { s.hl with pba := setBit s.hl.pba t true } }
    else ({ s with hl := { s.hl with pba := setBit s.hl.pba t false } }.setTarget t
      { s.target t with armed := true }).sendTlp (t / 16) (.msix t)
  else s

/-- A target that stops sleeping: its EXPIRED groups become RELEASED, and IDLE where no member is pending (R356), WAITING clears, the next
sleep may send PME again, and a message due is sent (R358). -/
def stopSleeping (t : Nat) (s : State) : State :=
  let s := (List.range 64).foldl (fun s g =>
    if (s.cgroup g).state = .expired ∧ fld (s.reg (rg .icGcfg g)) 24 6 = t
    then s.setCgroup g { s.cgroup g with state := .released } else s) s
  let s := { s with hl := { s.hl with pmeSent := setBit s.hl.pmeSent t false } }
  sendRequest t (idleGroups t (s.setTarget t { s.target t with waiting := false }))

/-- Waking a sleeping target (R358): PME once per sleep from D3hot, else ASLEEP clears. -/
def wake (t : Nat) (s : State) : State :=
  if s.hl.d3hot.getLsbD t then
    if s.hl.pmeEn.getLsbD t ∧ ¬ s.hl.pmeSent.getLsbD t then
      { s with hl := { s.hl with pmeSent := setBit s.hl.pmeSent t true } }.sendTlp (t / 16) (.pme (t / 16))
    else s
  else stopSleeping t (s.setTarget t { s.target t with asleep := false })

/-- Whether an uncoalesced source became eligible between two states (R358). -/
def becameEligible (before after : State) (t : Nat) : Bool :=
  (openSources (after.target t)).any (fun src =>
    eligible after t src && !eligible before t src && (coalGroup after t src).isNone)

/-- After any change at a target: groups that emptied become IDLE, a sleeping target wakes where R358 says, and a message due
is sent. -/
def settleCore (t : Nat) (before s : State) : State :=
  let s := idleGroups t s
  let s := if sleeping s t && (s.target t).wakeUncoal && becameEligible before s t then wake t s else s
  sendRequest t s

/-- Whether a group meets a criterion with its count and the ticks since it began to hold (R355, R356). -/
def criterion (s : State) (g count ticks : Nat) : Bool :=
  let c := s.reg (rg .icGcfg g)
  (fld c 16 8 = 0 && fld c 0 16 = 0) || (fld c 16 8 ≠ 0 && fld c 16 8 ≤ count) ||
    (fld c 0 16 ≠ 0 && fld c 0 16 * ticksPerUs ≤ ticks)

/-- A group that meets its criterion: RELEASED, or EXPIRED while its owner sleeps, with a wake if WAKE is set (R356, R358). -/
def releaseGroup (t g count since : Nat) (s : State) : State :=
  if sleeping s t then
    let s := s.setCgroup g { state := .expired, count := count, since := since }
    if bit (s.reg (rg .icGcfg g)) 31 then wake t s else s
  else s.setCgroup g { state := .released, count := count, since := since }

/-- A member event at the owning target (R355, R356). -/
def groupEvent (t g : Nat) (s : State) : State :=
  let x := s.cgroup g
  match x.state with
  | .idle => if criterion s g 1 0 then releaseGroup t g 1 s.tick s
             else s.setCgroup g { state := .holding, count := 1, since := s.tick }
  | .holding =>
    let c := satAdd 8 x.count 1
    if criterion s g c (s.tick - x.since) then releaseGroup t g c x.since s
    else s.setCgroup g { x with count := c }
  | _ => s

/-- Whether a source is one that an event makes pending: source 0 is none, and 161 to 192 never become pending (R347, R360). -/
def realSource (src : Nat) : Bool := decide (src ≠ 0) && decide (src < 512) && !(decide (161 ≤ src) && decide (src ≤ 192))

/-- A source made pending at one target, with what its coalescing group makes of it (R347, R355). -/
def pendAt (t src : Nat) (s : State) : State :=
  let s' := s.setTarget t { s.target t with pend := setBit (s.target t).pend src true }
  match coalGroup s' t src with
  | some g => groupEvent t g s'
  | none => s'

/-! ### Event counters (R396 to R398) -/

/-- A register of the monitor as the core clock in progress counts by it (R401, R402). -/
def pmReg (s : State) (r : RegId) : Word :=
  match s.pm.held.find? (fun e => e.1 = r.addr) with
  | some e => e.2
  | none => s.reg r

/-- A register of the monitor is about to be written: the core clock in progress goes on by what it held. -/
def holdPm (r : RegId) (s : State) : State :=
  if s.pm.held.any (fun e => e.1 = r.addr) then s else { s with pm := { s.pm with held := (r.addr, s.reg r) :: s.pm.held } }

/-- Whether the monitor is frozen in the core clock in progress (R402). -/
def pmFrozen (s : State) : Bool := bit (pmReg s (rg .pmFreeze)) 0

/-- Whether an event counter counts an event of an instance: it runs, and EVTSEL selects the event and the instance (R397). -/
def ctrCounts (s : State) (k j inst ev : Nat) : Bool :=
  let w := pmReg s (rg .pmEvtsel k j)
  bit (pmReg s (rg .pmCtrl k)) j && decide (fld w 0 8 = ev) && (decide (fld w 8 8 = 0xFF) || decide (fld w 8 8 = inst))

/-- OVF of a block. -/
def ovfOf (s : State) (k : Nat) : BitVec 9 := SMap.get s.pm.ovf k 0

/-- An OVF bit set by a wrap in the core clock in progress (R398). -/
def setOvf (k j : Nat) (s : State) : State :=
  { s with pm := { s.pm with ovf := SMap.set s.pm.ovf k (setBit (ovfOf s k) j true) 0, wrapped := (k, j) :: s.pm.wrapped } }

/-- `n` occurrences counted by one counter; the flag says whether it wrapped. -/
def addCtr (k j n : Nat) (s : State) : State × Bool :=
  let v := SMap.get s.pm.ctr (k * 8 + j) 0 + n
  ({ s with pm := { s.pm with ctr := SMap.set s.pm.ctr (k * 8 + j) (v % 2 ^ 48) 0 } }, decide (2 ^ 48 ≤ v))

/-- `n` occurrences of an event counted by the counters of its block, with those that wrapped. -/
def countEvent (k inst ev n : Nat) (s : State) : State × List Nat :=
  (List.range 8).foldl (fun p j =>
    if ctrCounts p.1 k j inst ev then ((addCtr k j n p.1).1, if (addCtr k j n p.1).2 then p.2 ++ [j] else p.2) else p) (s, [])

/-- Messages of a function's vector sent between two states. -/
def messagesSent (t : Nat) (before after : State) : Nat :=
  (after.outbox.drop before.outbox.length).countP (fun m => m = .msix t)

/-- A count of `n` occurrences of an event of an instance of a block. -/
abbrev Counting := Nat → Nat → Nat → Nat → State → State

/-- The requests raised and the messages sent at a target between two states, counted (R397). -/
def tallyWith (count : Counting) (t : Nat) (before after : State) : State :=
  let rose := !irqRequest before t && irqRequest after t
  count 13 t 1 (if rose then 1 else 0) (count 0 (t / 16) 4 (messagesSent t before after) after)

/-- After any change at a target: groups that emptied become IDLE, a sleeping target wakes where R358 says, and a message due
is sent. -/
def settleWith (count : Counting) (t : Nat) (before s : State) : State := tallyWith count t before (settleCore t before s)

/-- An event of a source at one target (R347, R355). -/
def raiseAtWith (count : Counting) (t src : Nat) (s : State) : State :=
  if realSource src then settleWith count t s (pendAt t src s) else s

/-- An event of a source, at every target (R347). -/
def raiseWith (count : Counting) (src : Nat) (s : State) : State := (List.range 34).foldl (fun s t => raiseAtWith count t src s) s

/-- A counter has wrapped: its OVF bit is set, source 273 + k becomes pending where the bit rises, and the wrap is an event of block 14
(R397, R398). -/
def wrapWith (count : Counting) (k j : Nat) (s : State) : State :=
  count 14 k 1 1 (if (ovfOf s k).getLsbD j then setOvf k j s else raiseWith count (273 + k) (setOvf k j s))

/-- Occurrences counted, with what the wraps that they bring count in turn. -/
def countFuel : Nat → Counting
  | 0 => fun _ _ _ _ s => s
  | fuel + 1 => fun k inst ev n s =>
    if n = 0 ∨ fld (pmReg s (rg .pmCtrl k)) 0 8 = 0 ∨ pmFrozen s then s
    else (countEvent k inst ev n s).2.foldl (fun s j => wrapWith (countFuel fuel) k j s) (countEvent k inst ev n s).1

/-- `n` occurrences of event `ev` of instance `inst` of block k; a frozen monitor counts nothing (R396, R402). A counter that has wrapped
does not wrap again with the events of wraps, so that a chain of wraps is no longer than the 128 counters. -/
def perfEvent (k inst ev n : Nat) (s : State) : State := countFuel 130 k inst ev n s

/-- The INST of a block whose events have no instance of their own (R397). -/
def anyInst : Nat := 0xFF

/-! ### Events of sources (R347) -/

/-- What follows a change at a target (R347, R355, R358). -/
def settle (t : Nat) (before s : State) : State := settleWith perfEvent t before s

/-- An event of a source at one target (R347, R355). -/
def raiseAt (t src : Nat) (s : State) : State := raiseAtWith perfEvent t src s

/-- An event of a source, at every target (R347). -/
def raise (src : Nat) (s : State) : State := raiseWith perfEvent src s

/-! ### Time -/

/-- Core clocks that end within `n` ticks: one clock is 2 ticks at 800 MHz and 8/5 ticks at 1,000 MHz (R32). The phase is
kept in fifths of a tick. -/
def coreClocks (s : State) (n : Nat) : Nat :=
  (s.corePhase + 5 * n) / (if s.therm.coreMhz = 1000 then 8 else 10)

/-- Whether CYC of a block counts in the core clock in progress (R396, R402). -/
def cycRuns (s : State) (k : Nat) : Bool := !pmFrozen s && bit (pmReg s (rg .pmCtrl k)) 8

/-- CYC of one perf block after `c` core clocks (R396): it wraps at 2^64. -/
def cycAfter (s : State) (k c : Nat) : Nat :=
  if cycRuns s k then (SMap.get s.pm.cyc k 0 + c) % 2 ^ 64 else SMap.get s.pm.cyc k 0

/-- CYC of the sixteen blocks after `c` core clocks. -/
def countCycles (s : State) (c : Nat) : SMap Nat :=
  (List.range 16).foldl (fun m k => SMap.set m k (cycAfter s k c) 0) s.pm.cyc

/-- The blocks whose CYC wraps within `c` core clocks. -/
def cycWraps (s : State) (c : Nat) : List Nat :=
  (List.range 16).filter (fun k => cycRuns s k && decide (2 ^ 64 ≤ SMap.get s.pm.cyc k 0 + c))

/-- What `c` core clocks count beside CYC: wraps of CYC, and the clocks of stalled blitter engines (R397, R398). -/
def countClocks (c : Nat) (wraps : List Nat) (s : State) : State :=
  let s := wraps.foldl (fun s k => wrapWith perfEvent k 8 s) s
  [0, 1].foldl (fun s e => if (s.engine e).stall.isSome then perfEvent 12 e 3 c s else s) s

/-- `c` core clocks counted by the monitor's registers as they stand for them. -/
def runClocks (c : Nat) (s : State) : State :=
  countClocks c (cycWraps s c) { s with pm := { s.pm with cyc := countCycles s c } }

/-- A counter loaded; OVF is unchanged (R400). -/
def loadCounter (k j v : Nat) (s : State) : State :=
  if j = 8 then { s with pm := { s.pm with cyc := SMap.set s.pm.cyc k v 0 } }
  else { s with pm := { s.pm with ctr := SMap.set s.pm.ctr (k * 8 + j) v 0 } }

/-- The core clock in progress ends: what was written in it holds from the next one (R400 to R402). -/
def endClock (s : State) : State :=
  let s := s.pm.loads.foldl (fun s l => loadCounter l.1 l.2.1 l.2.2 s) s
  { s with pm := { s.pm with held := [], loads := [], wrapped := [] } }

/-- Whether time markers leave on the down port: the belfry sends them, and a turret that is JOINED relays them (R410). -/
def marksTime (s : State) : Bool :=
  (decide (s.casc.role = 1) || (decide (s.casc.role = 2) && decide (s.casc.state = .joined))) && (SMap.get s.casc.ports 1 {}).up

/-- The time markers of the ticks since one (R410). -/
def sendMarkers (since : Nat) (s : State) : State :=
  let n := s.tick / 1024 - since / 1024
  if n = 0 ∨ ¬ marksTime s then s else s.send (.markers (since / 1024 + 1) n)

/-- `n` ticks pass: the tick counter counts, time markers leave, and the monitor counts in each core clock that ends. -/
def passTicks (n : Nat) (s : State) : State :=
  let c := coreClocks s n
  let s := sendMarkers s.tick { s with
    tick := s.tick + n
    corePhase := (s.corePhase + 5 * n) % (if s.therm.coreMhz = 1000 then 8 else 10) }
  if c = 0 then s else runClocks (c - 1) (endClock (runClocks 1 s))

/-- Time moves on to an event's own tick; it never runs backward (R36; log entry 5). -/
def toTick (t : Nat) (s : State) : State := if s.tick < t then passTicks (t - s.tick) s else s

/-- One tick passes on an empty queue (log entry 2). -/
def idle (s : State) : State := match s.power with
  | .on => passTicks 1 s
  | _ => s

/-! ### Error records -/

/-- What an access to be recorded carried (R338). -/
structure Access where
  off : Nat
  be : BitVec 4 := 15
  data : Word := 0
  deriving DecidableEq, Repr

/-- The written dword with its disabled bytes read 0 (R345). -/
def enabledBytes (be : BitVec 4) (d : Word) : Word :=
  (if be.getLsbD 0 then d &&& 0xFF#32 else 0) ||| (if be.getLsbD 1 then d &&& 0xFF00#32 else 0) |||
  (if be.getLsbD 2 then d &&& 0xFF0000#32 else 0) ||| (if be.getLsbD 3 then d &&& 0xFF000000#32 else 0)

/-- The first event after the record was freed is captured (R338). -/
def capture (e : ErrRec) (kind cause : Nat) (a : Access) : ErrRec :=
  if e.held then e
  else { e with held := true, kind := kind, offset := a.off % 2 ^ 28, cause := cause, be := a.be,
                data := enabledBytes a.be a.data }

/-- An event of a record: its sticky bit, the capture, and the source when the bit rises (R338, R340). -/
def errEvent (f kind cause : Nat) (a : Access) (s : State) : State :=
  let e := s.errRec f
  let was := if kind = 1 then e.accessErr else if kind = 2 then e.writeDropped else e.lockViolation
  let e := capture e kind cause a
  let e := if kind = 1 then { e with accessErr := true }
           else if kind = 2 then { e with writeDropped := true } else { e with lockViolation := true }
  let s := s.setErrRec f e
  if was then s else raiseAt 32 (416 + kind) (raiseAt f (416 + kind) s)

/-- The function of a source that has an error record. -/
def Source.function : Source → Option Nat
  | .fn f => some f.val
  | _ => none

/-- A refused write: ACCESS_ERR with its cause in the writer's record (R337, R341). -/
def refuse (src : Source) (cause : Nat) (a : Access) (s : State) : State :=
  match Source.function src with
  | some f => errEvent f 1 cause a s
  | none => s

/-- A write to a locked or written-once field (R337). -/
def lockViolation (src : Source) (a : Access) (s : State) : State :=
  match Source.function src with
  | some f => errEvent f 3 0 a s
  | none => s

/-- A write to a reserved address counts 1 in RSV_WRITES (R330). -/
def countReserved (f : Nat) (s : State) : State :=
  s.setErrRec f { s.errRec f with rsvWrites := satAdd 16 (s.errRec f).rsvWrites 1 }

/-- An error an endpoint logs through AER raises source 291 + k (R330, R360). -/
def aerLog (k : Nat) (what : AerKind) (s : State) : State := raise (291 + k) (s.sendTlp k (.aer k what))

/-! ### Local memory (R98 to R103) -/

/-- Bytes that a channel's usable offsets span: seven-eighths of the installed size, none when excluded (R100, R114). -/
def usable (s : State) (m : Nat) : Nat :=
  if (s.channel m).reason ≠ 0 then 0 else (s.channel m).sizeGib * 2 ^ 30 / 8 * 7

def chanOf (dpa : Nat) : Nat := dpa / 2 ^ 35 % 4
def offOf (dpa : Nat) : Nat := dpa % 2 ^ 35

/-- A DPA that no channel has (R100). -/
def absentDpa (s : State) (dpa : Nat) : Bool := decide (2 ^ 37 ≤ dpa) || decide (usable s (chanOf dpa) ≤ offOf dpa)

/-- A byte of local memory; a byte nothing has written reads 0 (log entry 4). -/
def State.byte (s : State) (dpa : Nat) : Byte := SMap.get s.mem dpa 0

/-- Bytes of local memory from an address on. -/
def State.readMem (s : State) (dpa n : Nat) : List Byte := (List.range n).map (fun i => s.byte (dpa + i))

/-- A 64-bit little-endian word of local memory. -/
def State.read64 (s : State) (dpa : Nat) : Nat := leNat (s.readMem dpa 8)

/-- Bytes stored one after another. -/
def storeBytes (m : SMap Byte) (dpa : Nat) : List Byte → SMap Byte
  | [] => m
  | b :: t => storeBytes (SMap.set m dpa b 0) (dpa + 1) t

/-- The bursts a byte range touches, by address / 64. -/
def burstsOf (dpa n : Nat) : List Nat :=
  if n = 0 then [] else (List.range ((dpa + n - 1) / 64 - dpa / 64 + 1)).map (fun i => dpa / 64 + i)

/-- Whether a range covers a whole burst. -/
def coversBurst (dpa n b : Nat) : Bool := decide (dpa ≤ b * 64) && decide (b * 64 + 64 ≤ dpa + n)

/-- Whether reading a burst is uncorrectable: it holds the poison pattern, or its metadata burst is damaged (R103). -/
def burstBad (s : State) (b : Nat) : Bool := s.fabric.poison.contains b || s.fabric.badMeta.contains (b / 8)

def rangeBad (s : State) (dpa n : Nat) : Bool := (burstsOf dpa n).any (burstBad s)

/-- Bytes stored at a DPA. Writing a whole burst clears its poison pattern; a part leaves it (R103). -/
def State.writeMem (s : State) (dpa : Nat) (l : List Byte) : State :=
  { s with
    mem := storeBytes s.mem dpa l
    fabric := { s.fabric with poison := s.fabric.poison.filter (fun b => !coversBurst dpa l.length b) } }

/-- A byte range of which some bytes are not written (byte enables, R325). -/
def storeMasked (m : SMap Byte) (dpa : Nat) : List (Option Byte) → SMap Byte
  | [] => m
  | some b :: t => storeMasked (SMap.set m dpa b 0) (dpa + 1) t
  | none :: t => storeMasked m (dpa + 1) t

/-! ### ECC (R102, R103, R483) -/

/-- A captured or dropped entry of ECC_LOG (R483). -/
def eccCapture (c : Channel) (uncorr : Bool) (req dpa : Nat) : Channel :=
  if !c.logHeld || (uncorr && !c.logUncorr) then
    { c with logHeld := true, logUncorr := uncorr, logReq := req, logDpa := dpa }
  else c

/-- A correctable error on a burst (R102). -/
def eccCorrect (m burst req : Nat) (s : State) : State :=
  let s := s.setChannel m (eccCapture (s.channel m) false req (burst * 64))
  let old := fld (s.reg (rg .mfEccCount m)) 0 16
  let s := s.bump (rg .mfEccCount m) 0 16 1
  let s := perfEvent 1 m 5 1 { s with fabric := { s.fabric with writeback := s.fabric.writeback ++ [burst] } }
  let thr := fld (s.reg (rg .mfEccThresh m)) 0 16
  if thr ≠ 0 ∧ old + 1 = thr then raise (241 + m) s else s

/-- An uncorrectable error on a burst: count, capture and source (R103). -/
def eccUncorrect (m burst req : Nat) (s : State) : State :=
  let s := s.setChannel m (eccCapture (s.channel m) true req (burst * 64))
  raise (245 + m) (s.bump (rg .mfEccCount m) 16 16 1)

/-- Each uncorrectable read of a range is one uncorrectable error per burst (R103). -/
def eccReads (dpa n req : Nat) (s : State) : State :=
  ((burstsOf dpa n).filter (burstBad s)).foldl (fun s b => eccUncorrect (chanOf (b * 64)) b req s) s

/-! ### The arbiter of the open slots (R101, R111, R112) -/

/-- The weight of a requester in the arbiter (R112, R116); a stored 0 does not exist. -/
def openWeight (w : Word) (r : Nat) : Nat := fld w (4 * r) 4

/-- The credit of a requester on a channel: its reset weight until the first burst, then what is held (one more is kept). -/
def creditOf (s : State) (m r : Nat) : Nat :=
  match SMap.get s.fabric.credits (m * 8 + r) 0 with
  | 0 => openWeight 0x42122444#32 r
  | c + 1 => c

/-- The requester a channel served last; before the first open burst the order begins at requester 0. -/
def servedOf (s : State) (m : Nat) : Nat := 7 - SMap.get s.fabric.served m 0

/-- Every credit of a channel reloaded to its weight. -/
def reloadCredits (m : Nat) (s : State) : State :=
  { s with fabric := { s.fabric with
    credits := (List.range 8).foldl (fun l r => SMap.set l (m * 8 + r) (openWeight (s.reg (rg .mfOpenWeight)) r + 1) 0)
      s.fabric.credits } }

/-- A burst issued for a requester (R397): its credit falls by one and the order goes on after it. -/
def spendCredit (m r : Nat) (s : State) : State :=
  perfEvent 1 m 2 1 { s with fabric := { s.fabric with
    credits := SMap.set s.fabric.credits (m * 8 + r) (creditOf s m r) 0
    served := SMap.set s.fabric.served m (7 - r) 0 } }

/-- The requester that the next open slot of a channel goes to among those with a burst pending: the next in index order after
the last one served that has credit left (R112). -/
def nextServed (s : State) (m : Nat) (pending : List Nat) : Option Nat :=
  ((List.range 8).map (fun i => (servedOf s m + 1 + i) % 8)).find? (fun r => pending.contains r && decide (0 < creditOf s m r))

/-- The oldest corrected burst of a channel that waits for its write-back (R102). -/
def firstWriteback (s : State) (m : Nat) : Option Nat := s.fabric.writeback.find? (fun b => chanOf (b * 64) = m)

/-- Open slots of a channel up to the one in which requester `r` issues its burst: write-backs of requester 7 that wait take
their turn, and every credit reloads when none that has a burst pending has any left (R102, R112). -/
def openSlots (m r : Nat) : Nat → State → State
  | 0, s => s
  | fuel + 1, s =>
    match nextServed s m (r :: if (firstWriteback s m).isSome then [7] else []) with
    | none => openSlots m r fuel (reloadCredits m s)
    | some q =>
      if q = r then spendCredit m r s
      else match firstWriteback s m with
        | none => s
        | some b => openSlots m r fuel (spendCredit m 7 { s with fabric := { s.fabric with
            writeback := s.fabric.writeback.erase b } })

/-- One burst of a requester served in an open slot of the burst's channel. -/
def serveBurst (r : Nat) (s : State) (burst : Nat) : State :=
  openSlots (chanOf (burst * 64)) r (2 * s.fabric.writeback.length + 4) s

/-- The data bursts of a range and, for each aligned block of eight that it touches, the metadata burst that covers it, which
takes a slot of its own (R101): one entry per burst issued, the metadata burst named by the block's first burst. -/
def issued (dpa n : Nat) : List Nat :=
  burstsOf dpa n ++ ((burstsOf dpa n).map (fun b => b / 8 * 8)).eraseDups

/-- Bursts of a range issued: data and metadata in open slots for the requesters of R111; for the others the data in scheduled
slots, with the metadata in ECC slots (R72, R101, R110, R397). -/
def serve (r dpa n : Nat) (s : State) : State :=
  if r < 8 then (issued dpa n).foldl (serveBurst r) s
  else perfEvent 1 (chanOf dpa) 1 (burstsOf dpa n).length s

/-! ### Translation (R104, R105, R108) -/

/-- Whether a DPA lies in its channel's keep window, clipped to the usable offsets (R108, R116). -/
def inKeepWin (s : State) (dpa : Nat) : Bool :=
  let w := s.reg (rg .mfKeepWin (chanOf dpa))
  let base := fld w 16 16 * 2 ^ 21
  decide (base ≤ offOf dpa) && decide (offOf dpa < base + fld w 0 16 * 2 ^ 21) && !absentDpa s dpa

/-- The outcome of a walk: a page, or a fault at a level. -/
inductive Walk where
  | page (p : Page)
  | fault (level : Nat)
  deriving DecidableEq, Repr

/-- Whether an entry breaks a must-be-0 bit (R105). -/
def badEntry (ctx e : Nat) : Bool :=
  decide (e / 2 ^ 37 ≠ 0) || decide (e / 2 ^ 4 % 2 ^ 8 ≠ 0) || (decide (ctx ≠ 63) && decide (e / 8 % 2 = 1))

def entryAddr (e : Nat) : Nat := e / 2 ^ 12 % 2 ^ 25 * 2 ^ 12

/-- The mirror channel of a channel (R109, R116). -/
def mirrorOf (s : State) (m : Nat) : Nat := fld (s.reg (rg .mfMirrorOf)) (2 * m) 2

/-- A leaf entry: alignment, presence, the keep-window rule of context 63, the WRITE bit, and a mirror write whose channel
mirrors itself (R105, R108, R116). -/
def leaf (s : State) (ctx va e size level : Nat) (write : Bool) : Walk :=
  let base := entryAddr e
  if base % size ≠ 0 ∨ absentDpa s base ∨ absentDpa s (base + size - 1) then .fault level
  else if ctx = 63 ∧ ¬ (inKeepWin s base ∧ inKeepWin s (base + size - 1)) then .fault level
  else if write ∧ e / 4 % 2 = 0 then .fault level
  else if write ∧ ctx = 63 ∧ e / 8 % 2 = 1 ∧ mirrorOf s (chanOf base) = chanOf base then .fault level
  else .page { va := va / size * size, size := size, dpa := some base,
               write := decide (e / 4 % 2 = 1), mirror := decide (e / 8 % 2 = 1) }

/-- The address of the sixteen entries of the 64 KiB page that holds a VA. -/
def page64Base (table va : Nat) : Nat := table + va / 2 ^ 12 % 512 / 16 * 16 * 8

/-- Whether the sixteen entries of a 64 KiB page agree: each is VALID, carries PAGE64 and names the same DPA, as R104 defines the
group; the other bits of the fifteen that the VA does not select are not compared (DESIGN CHOICE, log entry 52). -/
def page64Ok (s : State) (table va e : Nat) : Bool :=
  (List.range 16).all (fun i =>
    let x := s.read64 (page64Base table va + i * 8)
    decide (x % 4 = 3) && decide (entryAddr x = entryAddr e))

/-- Whether a table entry lies in a burst that is uncorrectable: the walk that reads it then faults at its level (DESIGN CHOICE,
log entry 53). -/
def entryBad (s : State) (dpa : Nat) : Bool := burstBad s (dpa / 64)

/-- The three-level walk (R104, R105), with the address and length of every read of a table that it makes. -/
def walkReads (s : State) (ctx va : Nat) (write : Bool) : List (Nat × Nat) × Walk :=
  let lo := s.reg (rg .mfRootLo ctx)
  let root := fld lo 15 17 * 2 ^ 15 + (s.reg (rg .mfRootHi ctx)).toNat * 2 ^ 32
  if ¬ bit lo 0 then ([], .fault 0)
  else if absentDpa s root then ([], .fault 1)
  else
    let a1 := root + va / 2 ^ 30 % 4096 * 8
    let e1 := s.read64 a1
    if entryBad s a1 ∨ e1 % 2 = 0 ∨ badEntry ctx e1 then ([(a1, 8)], .fault 1)
    else if e1 / 2 % 2 = 1 then ([(a1, 8)], leaf s ctx va e1 (2 ^ 30) 1 write)
    else if absentDpa s (entryAddr e1) then ([(a1, 8)], .fault 1)
    else
      let a2 := entryAddr e1 + va / 2 ^ 21 % 512 * 8
      let e2 := s.read64 a2
      if entryBad s a2 ∨ e2 % 2 = 0 ∨ badEntry ctx e2 then ([(a1, 8), (a2, 8)], .fault 2)
      else if e2 / 2 % 2 = 1 then ([(a1, 8), (a2, 8)], leaf s ctx va e2 (2 ^ 21) 2 write)
      else if absentDpa s (entryAddr e2) then ([(a1, 8), (a2, 8)], .fault 2)
      else
        let a3 := entryAddr e2 + va / 2 ^ 12 % 512 * 8
        let e3 := s.read64 a3
        let g := page64Base (entryAddr e2) va
        if entryBad s a3 ∨ e3 % 2 = 0 ∨ badEntry ctx e3 then ([(a1, 8), (a2, 8), (a3, 8)], .fault 3)
        else if e3 / 2 % 2 = 0 then ([(a1, 8), (a2, 8), (a3, 8)], leaf s ctx va e3 (2 ^ 12) 3 write)
        else if ¬ rangeBad s g 128 ∧ page64Ok s (entryAddr e2) va e3 then
          ([(a1, 8), (a2, 8), (g, 128)], leaf s ctx va e3 (2 ^ 16) 3 write)
        else ([(a1, 8), (a2, 8), (g, 128)], .fault 3)

/-- The outcome of a walk. -/
def walk (s : State) (ctx va : Nat) (write : Bool) : Walk := (walkReads s ctx va write).2

/-- The bursts that a walk reads, issued as open traffic of requester 7 (R106, R111); each that is uncorrectable is one
uncorrectable error (R103). -/
def walkTraffic (ctx va : Nat) (write : Bool) (s : State) : State :=
  (walkReads s ctx va write).1.foldl (fun s r => eccReads r.1 r.2 7 (serve 7 r.1 r.2 s)) s

/-- The address within a page that a VA maps to. -/
def pageDpa (p : Page) (va : Nat) : Option Nat := p.dpa.map (fun d => d + (va - p.va))

/-- A cached translation of open traffic (R106). -/
def cached (s : State) (ctx va : Nat) : Option Page :=
  (s.fabric.tlb.find? (fun t => t.ctx = ctx ∧ t.page.va ≤ va ∧ va < t.page.va + t.page.size)).map (·.page)

/-- A translation put into the cache: 2,048 entries per channel, the oldest of the channel leaving (log entry 15). -/
def tlbInsert (l : List TlbEntry) (e : TlbEntry) : List TlbEntry :=
  let same := l.filter (fun t => t.channel = e.channel)
  if same.length < 2048 then l ++ [e]
  else match same with
    | old :: _ => l.erase old ++ [e]
    | [] => l ++ [e]

/-- A fault reported and captured (R105): source 249 fires at every fault. -/
def xlatFault (ctx va level req : Nat) (write : Bool) (s : State) : State :=
  let s := if s.fabric.log.held then s
    else { s with fabric := { s.fabric with
      log := { held := true, write := write, level := level, req := req, ctx := ctx, va := va } } }
  raise 249 s

/-- The level at which a page's leaf entry stands. -/
def Page.level (p : Page) : Nat := if p.size = 2 ^ 30 then 1 else if p.size = 2 ^ 21 then 2 else 3

/-- Whether a write to a cached page faults as its leaf entry says. -/
def refusesWrite (s : State) (ctx : Nat) (p : Page) : Bool :=
  !p.write || (decide (ctx = 63) && p.mirror && decide (mirrorOf s (chanOf (p.dpa.getD 0)) = chanOf (p.dpa.getD 0)))

/-- Translating an access of open traffic: the cache, else a walk that fills it. `none` is a fault, already reported. -/
def xlat (s : State) (ctx va req : Nat) (write : Bool) : State × Option Page :=
  match cached s ctx va with
  | some p =>
    if write && refusesWrite s ctx p then (xlatFault ctx va p.level req write s, none)
    else (s, some p)
  | none =>
    let s' := walkTraffic ctx va write s
    match walk s ctx va write with
    | .fault l => (xlatFault ctx va l req write s', none)
    | .page p =>
      ({ s' with fabric := { s'.fabric with
        tlb := tlbInsert s'.fabric.tlb { ctx := ctx, channel := chanOf (p.dpa.getD 0), page := p } } }, some p)

/-- The pieces of `n` bytes at a VA that lie within 4 KiB each: address, offset into the data, length. -/
def piecesFrom : Nat → Nat → Nat → Nat → List (Nat × Nat × Nat)
  | 0, _, _, _ => []
  | fuel + 1, va, off, n =>
    if n = 0 then []
    else (va, off, min n (4096 - va % 4096)) ::
      piecesFrom fuel (va + min n (4096 - va % 4096)) (off + min n (4096 - va % 4096)) (n - min n (4096 - va % 4096))

def pieces (va n : Nat) : List (Nat × Nat × Nat) := piecesFrom (n / 4096 + 2) va 0 n

/-- The mirror copy's address, if the mirror channel can take it (R109). -/
def mirrorDpa (s : State) (dpa : Nat) : Option Nat :=
  let c := mirrorOf s (chanOf dpa)
  let d := c * 2 ^ 35 + offOf dpa
  if c = chanOf dpa ∨ absentDpa s d ∨ ¬ inKeepWin s d then none else some d

/-- Whether a store writes every byte of a burst. -/
def wholeBurst (d : Nat) (l : List (Option Byte)) (b : Nat) : Bool :=
  coversBurst d l.length b && ((l.drop (b * 64 - d)).take 64).all Option.isSome

/-- Bytes stored at a DPA by requester `req`: a whole burst loses its poison pattern; a partial burst that is uncorrectable is
reported, and its check bits become the poison pattern (R103). -/
def putBytes (req d : Nat) (l : List (Option Byte)) (s : State) : State :=
  let hurt := (burstsOf d l.length).filter (fun b => burstBad s b && !wholeBurst d l b)
  let s := hurt.foldl (fun s b => eccUncorrect (chanOf (b * 64)) b req s) s
  { s with
    mem := storeMasked s.mem d l
    fabric := { s.fabric with
      poison := s.fabric.poison.filter (fun b => !wholeBurst d l b) ++ hurt.filter (fun b => !s.fabric.poison.contains b) } }

/-- A store of open traffic that has been translated: the keep-window rule, the store, and the mirror copy (R108, R109). -/
def storeOpen (req ctx : Nat) (p : Page) (va : Nat) (l : List (Option Byte)) (s : State) : State :=
  match pageDpa p va with
  | none => s
  | some d =>
    if inKeepWin s d ∧ ctx ≠ 63 then raise 250 (s.bump (rg .mfPinStat) 16 8 1)
    else
      let s := putBytes req d l (serve req d l.length s)
      if p.mirror ∧ ctx = 63 then
        match mirrorDpa s d with
        | some d' => putBytes req d' l (serve req d' l.length s)
        | none => raise 251 s
      else s

/-- A write of open traffic: each 4 KiB piece is translated and stored; a piece that faults is not performed. The flag says
whether every piece was performed. -/
def openWrite (ctx va req : Nat) (l : List (Option Byte)) (s : State) : State × Bool :=
  (pieces va l.length).foldl (fun (s, ok) (a, o, n) =>
    match xlat s ctx a req true with
    | (s, none) => (s, false)
    | (s, some p) => (storeOpen req ctx p a ((l.drop o).take n) s, ok)) (s, true)

/-- A read of open traffic: the bytes, whether every piece translated, and whether any burst was uncorrectable. -/
def openRead (ctx va req n : Nat) (s : State) : State × List Byte × Bool × Bool :=
  (pieces va n).foldl (fun (s, acc, ok, bad) (a, _, k) =>
    match xlat s ctx a req false with
    | (s, none) => (s, acc ++ List.replicate k 0, false, bad)
    | (s, some p) =>
      let d := (pageDpa p a).getD 0
      (eccReads d k req (serve req d k s), acc ++ s.readMem d k, ok, bad || rangeBad s d k)) (s, [], true, false)

/-! ### Ranges read and written up to the first fault (R368, R381) -/

/-- Why a range could not be read. -/
inductive ReadFail where
  | xlat | poison
  deriving DecidableEq, Repr

/-- A piece read by a requester: its first uncorrectable burst is delivered poisoned, and every burst before it is read (R103). -/
def readPiece (req d n : Nat) (s : State) : State × Except ReadFail (List Byte) :=
  match (burstsOf d n).find? (burstBad s) with
  | some b => (eccUncorrect (chanOf (b * 64)) b req (serve req d (b * 64 + 64 - d) s), .error .poison)
  | none => (serve req d n s, .ok (s.readMem d n))

/-- Pieces read in order, up to the first that fails. -/
def readPieces (req ctx : Nat) : List (Nat × Nat × Nat) → State → State × Except ReadFail (List Byte)
  | [], s => (s, .ok [])
  | (a, _, n) :: t, s =>
    if 2 ^ 42 < a + n then (s, .error .xlat)
    else match xlat s ctx a req false with
      | (s, none) => (s, .error .xlat)
      | (s, some p) => match readPiece req ((pageDpa p a).getD 0) n s with
        | (s, .error e) => (s, .error e)
        | (s, .ok l) => match readPieces req ctx t s with
          | (s, .error e) => (s, .error e)
          | (s, .ok l') => (s, .ok (l ++ l'))

/-- A byte range read. -/
def readRange (req ctx va n : Nat) (s : State) : State × Except ReadFail (List Byte) := readPieces req ctx (pieces va n) s

/-- Pieces written in order, up to the first that fails translation; the flag says whether all were. -/
def writePieces (req ctx : Nat) (l : List Byte) : List (Nat × Nat × Nat) → State → State × Bool
  | [], s => (s, true)
  | (a, o, n) :: t, s =>
    if 2 ^ 42 < a + n then (s, false)
    else match xlat s ctx a req true with
      | (s, none) => (s, false)
      | (s, some p) => writePieces req ctx l t (storeOpen req ctx p a (((l.drop o).take n).map some) s)

/-- A byte range written. -/
def writeRange (req ctx va : Nat) (l : List Byte) (s : State) : State × Bool := writePieces req ctx l (pieces va l.length) s

/-! ### Pins (R106, R107, R195) -/

/-- A page as a walk at a VA pins it: 64 KiB, or the larger block that maps it; a page mapped at 4 KiB, or faulting, is pinned
as faulting, in an entry of 64 KiB whatever the size of the page it replaces (DESIGN CHOICE, log entry 54). -/
def pinnedPage (va : Nat) (w : Walk) : Page :=
  let none64 : Page := { va := va / 65536 * 65536, size := 65536, dpa := none }
  match w with
  | .page p => if p.size = 2 ^ 12 then none64 else p
  | .fault _ => none64

/-- The page of the pin store that holds a VA of a context. -/
def heldPage (s : State) (ctx va : Nat) : Option Page :=
  (s.fabric.pins.filter (fun p => p.ctx = ctx && decide (p.state = .done))).findSome? (fun p =>
    p.pages.find? (fun q => q.va ≤ va ∧ va < q.va + q.size))

/-- What a pin finds for each page of a range: a page of the store that holds it already (`old`), or a walk.
What a VA past 4 TiB maps to for a buffer that runs over the end the spec does not say: the walk takes VA[41:0], and so wraps
(DESIGN CHOICE, log entry 77). -/
def pinWalks (s : State) (old : Nat → Option Page) (ctx : Nat) : Nat → Nat → Nat → List (Nat × Walk)
  | 0, _, _ => []
  | fuel + 1, va, hi =>
    if hi ≤ va then []
    else
      let w : Walk := match old va with
        | some p => .page p
        | none => walk s ctx va false
      let p := pinnedPage va w
      (va, w) :: pinWalks s old ctx fuel (p.va + p.size) hi

/-- The walks of a range issued by requester 7 (R111), but for the pages that a store holds already (`old`); those that fault
are reported for the requester that pins (R105). -/
def reportWalks (old : Nat → Option Page) (req ctx : Nat) (l : List (Nat × Walk)) (s : State) : State :=
  l.foldl (fun s w =>
    let s := if (old w.1).isSome then s else walkTraffic ctx w.1 false s
    match w.2 with
    | .fault level => xlatFault ctx w.1 level req false s
    | .page _ => s) s

/-- Entries of the pin store: a page that several buffers pin is one. -/
def pinEntries (s : State) : List (Nat × Page) := (s.fabric.pins.flatMap (fun p => p.pages.map (fun q => (p.ctx, q)))).eraseDups

/-- Entries of the pin store in use. -/
def pinsUsed (s : State) : Nat := (pinEntries s).length

/-- Where the mirror copy of a byte lies: the same offset on the channel that MIRROR_OF names (R109, R195). -/
def copyDpa (s : State) (dpa : Nat) : Option Nat :=
  let d := mirrorOf s (chanOf dpa) * 2 ^ 35 + offOf dpa
  if absentDpa s d then none else some d

/-- The shadow's own entry that holds a VA of a context (R195). -/
def shadowHeld (s : State) (ctx va : Nat) : Option Page :=
  (s.fabric.pins.filter (fun p => p.ctx = ctx)).findSome? (fun p => p.shadow.find? (fun q => q.va ≤ va ∧ va < q.va + q.size))

/-- The shadow's walks of a range, by its own walker: an entry that it holds already is not walked (R195). -/
def shadowWalks (s : State) (old : Nat → Option Page) (ctx lo hi : Nat) : List (Nat × Walk) :=
  pinWalks s old ctx ((hi - lo) / 65536 + 2) lo hi

/-- The shadow's entries for walks of a range: the mirror copies of the pages found, and the entries it holds as they stand. -/
def shadowPages (s : State) (old : Nat → Option Page) (l : List (Nat × Walk)) : List Page :=
  (l.map (fun w => match old w.1 with
    | some q => q
    | none =>
      let p := pinnedPage w.1 w.2
      { p with dpa := p.dpa.bind (copyDpa s) })).eraseDups

/-- Whether a use is a keep surface's, which the shadow pins too (R195). -/
def PinUse.keep : PinUse → Bool
  | .queue s _ => isK s
  | .direct s => isK s
  | .fallback _ => true
  | .ring _ => false

/-- A pin asked for; it is pending until PIN_COMPLETE. -/
def requestPin (u : PinUse) (ctx base len : Nat) (s : State) : State :=
  { s with fabric := { s.fabric with
    pins := s.fabric.pins ++ [{ use := u, ctx := ctx, base := base, len := len, state := .pending, pages := [], shadow := [] }] } }

/-- A use's pins released. -/
def dropPin (u : PinUse) (s : State) : State :=
  { s with fabric := { s.fabric with pins := s.fabric.pins.filter (fun p => p.use ≠ u) } }

/-- The pin of a use. -/
def pinOf (s : State) (u : PinUse) : Option Pin := s.fabric.pins.find? (fun p => p.use = u)

/-- The shadow pins a keep surface with its own walker and in its own entries, whatever becomes of the main pin (R195). -/
def shadowPin (p : Pin) (s : State) : State × List Page :=
  if p.use.keep then
    let ws := shadowWalks s (shadowHeld s p.ctx) p.ctx p.base (p.base + p.len)
    (reportWalks (shadowHeld s p.ctx) 9 p.ctx ws s, shadowPages s (shadowHeld s p.ctx) ws)
  else (s, [])

/-- A pin carried out: all of its pages, or none with FULL_COUNT and source 256 (R106). -/
def completePin (i : Nat) (s : State) : State :=
  match s.fabric.pins[i]? with
  | none => s
  | some p =>
    let ws := pinWalks s (heldPage s p.ctx) p.ctx (p.len / 65536 + 2) p.base (p.base + p.len)
    let l := (ws.map (fun w => pinnedPage w.1 w.2)).eraseDups
    let (s, shadow) := shadowPin p (reportWalks (heldPage s p.ctx) 7 p.ctx ws s)
    let more := l.filter (fun q => !(pinEntries s).contains (p.ctx, q))
    if 16384 < pinsUsed s + more.length then
      let refused : Pin := { p with state := .refused, pages := [], shadow := shadow, tick := s.tick }
      raise 256 ({ s with fabric := { s.fabric with pins := s.fabric.pins.set i refused } }.bump (rg .mfPinStat) 24 8 1)
    else
      let done : Pin := { p with state := .done, pages := l, shadow := shadow, tick := s.tick }
      { s with fabric := { s.fabric with pins := s.fabric.pins.set i done } }

/-- The page of a pin that holds a VA: of the shadow's own entries for the shadow, of the pin store for the main path once the
pin has completed (R106, R195). -/
def pinPage (p : Pin) (shadow : Bool) (va : Nat) : Option Page :=
  if shadow then p.shadow.find? (fun q => q.va ≤ va ∧ va < q.va + q.size)
  else if p.state = .done then p.pages.find? (fun q => q.va ≤ va ∧ va < q.va + q.size)
  else none

/-- Where a pinned buffer's byte lies, for the main path or for the shadow: `none` fails translation (R93, R106). A page under
re-walk fails (R107). -/
def pinnedDpa (s : State) (u : PinUse) (shadow : Bool) (va : Nat) : Option Nat :=
  match pinOf s u with
  | none => none
  | some p =>
    match pinPage p shadow va with
    | none => none
    | some q =>
      if s.fabric.rewalks.any (fun r => r.ctx = p.ctx ∧ r.va ≤ va ∧ va < r.va + r.size) then none
      else pageDpa q va

end Sys2Proof.Machine
end

