-- ==== Sys2Proof/Machine/Raster.lean ====
section
/-! DEFINITION. Rasters and scan time: the limits of R37, the tick of a position (R38), frame and line times (R39). -/

namespace Sys2Proof.Machine

def Raster.hTotal (r : Raster) : Nat := fld r.hTiming 16 16
def Raster.hActive (r : Raster) : Nat := fld r.hTiming 0 16
def Raster.hsWidth (r : Raster) : Nat := fld r.hSync 16 16
def Raster.hsStart (r : Raster) : Nat := fld r.hSync 0 16
def Raster.vTotal (r : Raster) : Nat := fld r.vTiming 16 16
def Raster.vActive (r : Raster) : Nat := fld r.vTiming 0 16
def Raster.vsWidth (r : Raster) : Nat := fld r.vSync 16 8
def Raster.vsStart (r : Raster) : Nat := fld r.vSync 0 16

/-- Every limit of R37. -/
def Raster.legal (r : Raster) : Bool :=
  decide (64 ≤ r.hActive) && decide (r.hActive ≤ 7680) && decide (r.hActive % 2 = 0) &&
  decide (r.hActive + 32 ≤ r.hTotal) && decide (r.hTotal ≤ 16384) && decide (r.hTotal % 2 = 0) &&
  decide (r.hsStart % 2 = 0) && decide (r.hsWidth % 2 = 0) && decide (r.hActive ≤ r.hsStart) &&
  decide (2 ≤ r.hsWidth) && decide (r.hsStart + r.hsWidth ≤ r.hTotal) &&
  decide (8 ≤ r.vActive) && decide (r.vActive ≤ 4096) &&
  decide (r.vActive + 3 ≤ r.vTotal) && decide (r.vTotal ≤ 65535) &&
  decide (r.vActive ≤ r.vsStart) && decide (1 ≤ r.vsWidth) && decide (r.vsStart + r.vsWidth ≤ r.vTotal) &&
  decide (r.hActive * r.vActive ≤ 16588800) && decide (0x02AAAAAB ≤ r.pairDiv.toNat)

/-- Ticks from the anchor to the pair that holds pixel P of line L (R38). -/
def Raster.offset (r : Raster) (l p : Nat) : Nat := (l * r.hTotal + p) / 2 * r.pairDiv.toNat / 2 ^ 24

/-- The natural frame period F (R39). -/
def Raster.period (r : Raster) : Nat := r.vTotal * (r.hTotal / 2) * r.pairDiv.toNat / 2 ^ 24

/-- The line time of every line-time rule (R39). -/
def Raster.lineTime (r : Raster) : Nat := r.hTotal / 2 * r.pairDiv.toNat / 2 ^ 24

/-- Line and pixel at a number of ticks from the anchor of a frame of `lines` lines: the last pair begun, held within the frame's last
pair (R38, R54, R61). -/
def Raster.positionAt (r : Raster) (lines t : Nat) : Nat × Nat :=
  let pairs := r.hTotal / 2
  let p := min (((t + 1) * 2 ^ 24 - 1) / max r.pairDiv.toNat 1) (lines * pairs - 1)
  if pairs = 0 then (0, 0) else (p / pairs, p % pairs * 2)

/-- The applied timing group of a head. -/
def appliedRaster (s : State) (n : Nat) : Raster :=
  { hTiming := s.reg (rg .dhHTiming n), hSync := s.reg (rg .dhHSync n), vTiming := s.reg (rg .dhVTiming n),
    vSync := s.reg (rg .dhVSync n), pairDiv := s.reg (rg .dhPairDiv n) }

/-- The latch line a LATCH_LINE value selects under a raster (R42). -/
def latchLineOf (r : Raster) (v : Nat) : Nat := if v = 0 then r.vActive else v

/-- The bound on the latch line for a fetch lead (R42). -/
def latchLineOk (r : Raster) (v lead : Nat) : Bool :=
  decide (r.vActive ≤ latchLineOf r v) && decide (latchLineOf r v + 2 * lead ≤ r.vTotal - 1)

/-- The LIVE bank; during a switch the outgoing one (R87, R95). -/
def liveBank (s : State) : Option Nat :=
  match s.sched.switch with
  | some w => some w.fromBank
  | none => (List.range 4).find? (fun b => (s.bank b).state = .live)

/-- The image of the LIVE bank. -/
def liveImage (s : State) : Option Image := (liveBank s).bind (fun b => (s.bank b).image)

/-- The bank in force on a head: the incoming one once the head has applied a pending switch (R88). -/
def bankOn (s : State) (n : Nat) : Option Nat :=
  match s.sched.switch with
  | some w => if w.done.getLsbD n then some w.toBank else some w.fromBank
  | none => liveBank s

def imageOn (s : State) (n : Nat) : Option Image := (bankOn s n).bind (fun b => (s.bank b).image)

/-- Whether a head is in an image's HEAD_MASK. -/
def Image.hasHead (i : Image) (n : Nat) : Bool := decide (i.headMask / 2 ^ n % 2 = 1)

/-- The HEADS entry of a head under the image in force on it. -/
def headEntry (s : State) (n : Nat) : Option HeadEntry :=
  (imageOn s n).bind (fun i => if i.hasHead n then some (SMap.get i.heads n {}) else none)

/-- The fetch lead of a head (R42). -/
def leadOf (s : State) (n : Nat) : Nat := match headEntry s n with
  | some e => e.lead
  | none => 1

/-- The phase group of a head: 1 to 4, or 0 for none (R61). -/
def groupOf (s : State) (n : Nat) : Nat := (s.head n).pg

/-- LEADER of a group as applied: it leads from the next group anchor (R62). -/
def namedLeader (s : State) (g : Nat) : Nat := fld (s.reg (rg .btPgCtrl g)) 8 4

/-- The leader of the current group frame (R49, R62). -/
def leaderOf (s : State) (g : Nat) : Nat :=
  match (s.pgroup g).lead with
  | some l => l.1
  | none => namedLeader s g

/-- The group's frame period; none while the leader's timing group has never been applied (R49). -/
def groupPeriod (s : State) (g : Nat) : Option Nat := (s.pgroup g).lead.map (·.2.period)

/-- The groups whose current frame a head defines. -/
def ledBy (s : State) (n : Nat) : List Nat := (List.range 4).filter (fun g => (s.pgroup g).lead.any (fun l => l.1 = n))

/-- Members of a group that scan or wait to (R49). -/
def members (s : State) (g : Nat) : List Nat :=
  (List.range 16).filter (fun n => (s.head n).pg = g + 1 && decide ((s.head n).phase ≠ .disabled))

/-- The line of the current frame at which a head latches: the one it began at, for its first latch (R41, R42, R46). -/
def latchAt (s : State) (n : Nat) : Nat :=
  match (s.head n).early with
  | some l => l
  | none =>
    if (s.head n).firstLatch then latchLineOf (s.head n).raster (fld (s.reg (rg .dhLatchLine n)) 0 16) else (s.head n).beginLine

/-- The tick of a position of the current frame of a head. -/
def tickAt (s : State) (n l p : Nat) : Nat := (s.head n).anchor + (s.head n).raster.offset l p

/-- Whether a head is running. -/
def isRunning (s : State) (n : Nat) : Bool := decide ((s.head n).phase = .running)

/-- Whether a head is disabled: its ·T fields then apply on landing (R41). -/
def isStopped (s : State) (n : Nat) : Bool := decide ((s.head n).phase = .disabled)

/-! ### Anchors (R48, R49, R51, R54) -/

/-- The last line of the frame: one less where a negative slew omits it, which it cannot once the head stands in it (R54). -/
def lastLineOf (s : State) (n : Nat) : Nat :=
  let h := s.head n
  h.raster.vTotal - (if h.slew < 0 ∧ h.line < h.raster.vTotal - 1 then 2 else 1)

/-- The tick at which the current frame ends in its own raster, with its slew (R39, R54). -/
def frameEnd (s : State) (n : Nat) : Nat := (((s.head n).anchor + (s.head n).raster.period : Nat) + (s.head n).slew).toNat

/-- The offset of a head's anchors from its group's (R49). -/
def groupOffset (s : State) (n : Nat) : Nat :=
  if leaderOf s (groupOf s n - 1) = n then 0 else (s.reg (rg .dhPgOffset n)).toNat

/-- The anchor of the current group frame (R49). -/
def groupAnchor (s : State) (g : Nat) : Option Nat :=
  if isRunning s (leaderOf s g) then some (s.head (leaderOf s g)).anchor else (s.pgroup g).anchor

/-- The slew at the end of the current group frame, as decided so far. -/
def groupSlew (s : State) (g : Nat) : Int :=
  if isRunning s (leaderOf s g) then (s.head (leaderOf s g)).slew else (s.pgroup g).slew

/-- The anchor of the k-th group frame after the current one, as decided so far: the slew of the current frame counts, and none
after it. -/
def groupAnchorAt (s : State) (g a f k : Nat) : Nat :=
  if k = 0 then a else ((a + k * f : Nat) + groupSlew s g).toNat

/-- The next anchor of a follower (R49): the first group anchor plus its offset at or after the end of its frame, with the number
of group frames from the current one. An anchor before the current one may have its followers still to come: one that a negative slew
lets the leader pass (R54). -/
def followerAnchor (s : State) (n g a f : Nat) : Nat × Nat :=
  let off := groupOffset s n
  let e := frameEnd s n
  if (s.pgroup g).prev.any (fun p => decide (e ≤ p + off)) then ((s.pgroup g).prev.getD 0 + off, 0)
  else if e ≤ a + off then (a + off, 0)
  else
    let first := groupAnchorAt s g a f 1 + off
    let k := 1 + ceilDiv (e - first) (max f 1)
    (groupAnchorAt s g a f k + off, k)

/-- The next anchor of a head and the group frames it lies ahead. -/
def nextAnchor (s : State) (n : Nat) : Nat × Nat :=
  let g := groupOf s n - 1
  if groupOf s n = 0 ∨ leaderOf s g = n then (frameEnd s n, 1)
  else match groupAnchor s g, groupPeriod s g with
    | some a, some f => followerAnchor s n g a f
    | _, _ => (frameEnd s n, 1)

/-- The group frame number of the current group frame (R49). A leader that has begun and not passed an L0:P0 has no FRAME for it
yet: GF counts on (DESIGN CHOICE, log entry 57). -/
def groupFrame (s : State) (g : Nat) : DWord :=
  if isRunning s (leaderOf s g) ∧ (s.head (leaderOf s g)).anchored then (s.head (leaderOf s g)).frame else (s.pgroup g).gf

/-- FRAME at an anchor (R48, R49): one more, or the group frame number at a member's first L0:P0. -/
def frameAt (s : State) (n k : Nat) : DWord :=
  if groupOf s n ≠ 0 ∧ ¬ (s.head n).anchored then groupFrame s (groupOf s n - 1) + BitVec.ofNat 64 k
  else (s.head n).frame + 1

end Sys2Proof.Machine
end

