-- ==== Sys2Proof/Machine/Operands.lean ====
section
/-! DEFINITION. Operand forms: who asks (sources and their classes, R26), and what an address names (R323, R324). -/

namespace Sys2Proof.Machine

/-! ### Sources and classes -/

/-- The code of a source in HOLDER and in object 0x5000 (R190, R292). -/
def sourceCode : Source → Nat
  | .fn f => f.val
  | .node j => 0x40 + j.val
  | .mc | .manager => 0x80

/-- Whether a source is the MC: its firmware or its safety manager. -/
def isMc : Source → Bool
  | .mc | .manager => true
  | _ => false

/-- A physical function (R127). -/
def isPF (f : Nat) : Bool := decide (f % 16 = 0)

/-- The endpoint of a function. -/
def endpointOf (f : Nat) : Nat := f / 16

/-- Access classes that a request carries (R26). -/
structure Classes where
  local_ : Bool := false
  safety : Bool := false
  host : Bool := false
  guest : Bool := false
  net : Bool := false
  diag : Bool := false
  deriving DecidableEq, Repr

/-- Whether a source is the keep owner, or the MC's safety manager, which carries SAFETY whatever the owner; MC firmware carries it
in no case (R26, R190). -/
def carriesSafety (s : State) (src : Source) : Bool :=
  match src with
  | .mc => false
  | .manager => true
  | .fn f => isPF f.val && decide (s.keep.owner = f.val)
  | .node j => decide (s.keep.owner = 0x40 + j.val)

/-- The class set of a source (R26). -/
def classesOf (s : State) (src : Source) : Classes :=
  { local_ := isMc src
    safety := carriesSafety s src
    host := match src with | .fn f => isPF f.val | _ => false
    guest := match src with | .fn f => !isPF f.val | _ => false
    net := match src with | .node _ => true | _ => false
    diag := decide (s.dict.session = some src) }

/-- Whether two class sets share a class. -/
def Classes.meets (a b : Classes) : Bool :=
  (a.local_ && b.local_) || (a.safety && b.safety) || (a.host && b.host) || (a.guest && b.guest) ||
  (a.net && b.net) || (a.diag && b.diag)

/-- LOCAL, HOST and NET: the write mask of ordinary configuration. -/
def Classes.config : Classes := { local_ := true, host := true, net := true }

/-- SAFETY alone (R191). -/
def Classes.keepOnly : Classes := { safety := true }

/-- Whether a register request of a source reaches no register: a function in D3hot answers its BARs as Unsupported Request
(R342), a VF has no BAR before VF Enable (R320), and a network node has no register route (R25). -/
def unreached (s : State) (src : Source) : Bool :=
  match src with
  | .fn f => s.hl.d3hot.getLsbD f.val || (!isPF f.val && !s.hl.vfEnable.getLsbD (endpointOf f.val))
  | .node _ => true
  | _ => false

/-- A request that a function does not take: Unsupported Request, logged through AER (R330, R342). -/
def turnAway (src : Source) (s : State) : State :=
  match src with
  | .fn f => (aerLog (endpointOf f.val) .unsupportedRequest s).answer .unsupported
  | _ => s

/-- A BAR0 read or write of a function counted (R397): event 1 or 2. Its link is out of L1.2 by then (R344). -/
def countBar0 (src : Source) (ev : Nat) (s : State) : State := match src with
  | .fn f => perfEvent 0 (endpointOf f.val) ev 1 (s.wakeLink (endpointOf f.val))
  | _ => s

/-- A write request of a source by the register route: a request that reaches no register is only turned away (R25, R342). -/
def request (src : Source) (s : State) (f : State → State) : Result :=
  powered s (fun s => if unreached s src then turnAway src s else f (countBar0 src 2 s))

/-- A read request of a source. -/
def readRequest (src : Source) (s : State) (f : State → State) : Result :=
  powered s (fun s => if unreached s src then turnAway src s else f (countBar0 src 1 s))

/-! ### Addresses -/

/-- What an address of a function's BAR0 names. -/
inductive Place where
  | reg (r : RegId)
  /-- The load window (R96). -/
  | window (off : Nat)
  /-- The draft alias (R273). -/
  | draftAlias (x : Nat)
  /-- The perf user page of block k (R403). -/
  | userPage (k off : Nat)
  | reserved
  deriving DecidableEq, Repr

def placeOf : Option RegId → Place
  | some r => .reg r
  | none => .reserved

/-- The offset in the register map of an offset of a PF's register space (R234, R345, R361, R394). -/
def canonical (s : State) (f a : Nat) : Nat :=
  let own := a + f * 2 ^ 28
  if 0x8000 ≤ a ∧ a < 0xA000 then own
  else if 0x20000 ≤ a ∧ a < 0x21000 then own
  else if 0x21000 ≤ a ∧ a < 0x22000 then a - 0x1000 + (s.reg (rg .icSel f)).toNat * 2 ^ 28
  else if a = 0x23000 then own
  else if 0x54000 ≤ a ∧ a < 0x56000 then own
  else if 0x60000 ≤ a ∧ a < 0x70000 then own
  else if 0x800000 ≤ a ∧ a < 0x900000 ∧ 0x8000 ≤ a % 0x10000 then 0xC000000 + (a - 0x800000) / 0x10000 * 0x10000 + a % 0x8000
  else if 0xA80000 ≤ a ∧ a < 0xAC0000 ∧ 0x8000 ≤ a % 0x10000 then
    0xC000000 + (16 + (a - 0xA80000) / 0x10000) * 0x10000 + a % 0x8000
  else a

/-- What a 4-byte aligned offset of a PF's BAR0 names (R323). -/
def decodePF (s : State) (f a : Nat) : Place :=
  if a < 0x1000000 then placeOf (regAt (canonical s f a))
  else if a < 0x2000000 then .window (a - 0x1000000)
  else if 0x8000000 ≤ a ∧ a < 0x9000000 then .draftAlias (a - 0x8000000)
  else .reserved

/-- What a 4-byte aligned offset of a VF's BAR0 names (R324). -/
def decodeVF (f a : Nat) : Place :=
  if a < 0x14 then placeOf (regAt a)
  else if 0x1000 ≤ a ∧ a < 0x1020 then placeOf (regAt (a + 0x20 * f))
  else if 0x8000 ≤ a ∧ a < 0xA000 then placeOf (regAt (a + f * 2 ^ 28))
  else if 0x10000 ≤ a ∧ a < 0x1C000 then placeOf (regAt (a - 0x10000 + 0x380000))
  else if 0x20000 ≤ a ∧ a < 0x20400 then placeOf (regAt (a - 0x20000 + 0x3C0000 + 0x400 * f))
  else if 0x20400 ≤ a ∧ a < 0x2040C then placeOf (regAt (a - 0x20400 + 0x3D0000 + 0x10 * f))
  else if 0x30000 ≤ a ∧ a < 0x31000 then placeOf (regAt (a - 0x10000 + f * 2 ^ 28))
  else if 0x40000 ≤ a ∧ a < 0x50000 then .userPage ((a - 0x40000) / 0x1000) (a % 0x1000)
  else if 0x50000 ≤ a ∧ a < 0x52000 then placeOf (regAt (a + 0x4000 + f * 2 ^ 28))
  else if 0x60000 ≤ a ∧ a < 0x70000 then placeOf (regAt (a + f * 2 ^ 28))
  else .reserved

/-- What an address of a source's register space names. The MC and the agent's nodes reach registers by their BAR0 offsets; the
page of a target is there the MC's own (R346). -/
def decode (s : State) (src : Source) (a : Nat) : Place :=
  match src with
  | .fn f => if isPF f.val then decodePF s f.val a else decodeVF f.val a
  | _ => if 0x20000 ≤ a ∧ a < 0x21000 then placeOf (regAt (a + 32 * 2 ^ 28)) else decodePF s 0 a

/-- The size of a source's BAR0 (R323, R324). -/
def barSize (src : Source) : Nat := match src with
  | .fn f => if isPF f.val then 2 ^ 28 else 2 ^ 20
  | _ => 2 ^ 28

/-! ### Groups (R285) -/

/-- The key register of a group's instance. -/
def Grp.keyOf (g : Grp) (i j : Nat) : RegId :=
  match g with
  | .timing => rg .dhPairDiv i
  | .surface => rg .faBaseHi i
  | .geometry => rg .faDstSize i
  | .scaler => rg .saVRatio i
  | .postMatrix => rg .cpPostB i
  | .layerConv => rg .cpLpost2 i j
  | .keepRegion => rg .scKrCtrl i j
  | .kfallback => rg .scKfallbackHi i
  | .signature => rg .scSigCtrl i j
  | .ctxRoot => rg .mfRootHi i
  | .bufAddr => rg .ppBufHi i
  | .hostAddr => rg .ppHostHi i
  | .ring => rg .siRingBaseHi i
  | .segment => rg .caSegCtrl i
  | .cring => rg .shCringHi i j
  | .cvAddr => rg .cvAddrHi i j
  | .cvExpect => rg .cvExpectHi i j

/-- The members of a group's instance, in address order, the key last. -/
def Grp.members (g : Grp) (i j : Nat) : List RegId :=
  match g with
  | .timing => [rg .dhHTiming i, rg .dhHSync i, rg .dhVTiming i, rg .dhVSync i, rg .dhPairDiv i]
  | .surface => [rg .faFormat i, rg .faPitch i, rg .faPlane1 i, rg .faBaseLo i, rg .faBaseHi i]
  | .geometry => [rg .faSrcPos i, rg .faSrcSize i, rg .faDstPos i, rg .faDstSize i]
  | .scaler => [rg .saTaps i, rg .saHInit i, rg .saVInit i, rg .saHRatio i, rg .saVRatio i]
  | .postMatrix => [rg .cpMat i 0, rg .cpMat i 1, rg .cpMat i 2, rg .cpMat i 3, rg .cpMat i 4, rg .cpPostRg i, rg .cpPostB i]
  | .layerConv => [rg .cpLcoef i j 0, rg .cpLcoef i j 1, rg .cpLcoef i j 2, rg .cpLcoef i j 3, rg .cpLcoef i j 4,
      rg .cpLpre01 i j, rg .cpLpre2 i j, rg .cpLpost01 i j, rg .cpLpost2 i j]
  | .keepRegion => [rg .scKrRect0 i j, rg .scKrRect1 i j, rg .scKrSafe i j, rg .scKrCtrl i j]
  | .kfallback => [rg .scKfallbackLo i, rg .scKfallbackHi i]
  | .signature => [rg .scSigRect0 i j, rg .scSigRect1 i j, rg .scExpect i j 0, rg .scExpect i j 1, rg .scExpect i j 2,
      rg .scExpect i j 3, rg .scSigCtrl i j]
  | .ctxRoot => [rg .mfRootLo i, rg .mfRootHi i]
  | .bufAddr => [rg .ppBufLo i, rg .ppBufHi i]
  | .hostAddr => [rg .ppHostLo i, rg .ppHostHi i]
  | .ring => [rg .siRingPitch i, rg .siRingGeom i, rg .siRingCtx i, rg .siRingBaseLo i, rg .siRingBaseHi i]
  | .segment => [rg .caSegCols i, rg .caSegCtrl i]
  | .cring => [rg .shCringLo i j, rg .shCringHi i j]
  | .cvAddr => [rg .cvAddrLo i j, rg .cvAddrHi i j]
  | .cvExpect => [rg .cvExpectLo i j, rg .cvExpectHi i j]

/-- Whether a group is made of ·T fields (R285). -/
def Grp.draftable : Grp → Bool
  | .timing | .surface | .geometry | .scaler | .postMatrix | .layerConv | .keepRegion | .kfallback | .signature
  | .segment => true
  | _ => false

/-- The group of a register, if it has one. -/
def RegId.group (r : RegId) : Option Grp :=
  match r.name.row.kind with
  | .mem g => some g
  | .key g => some g
  | _ => none

/-- Whether a register's fields are typed ·T. -/
def RegId.isT (r : RegId) : Bool :=
  match r.name.row.kind with
  | .latched => true
  | .mem g => g.draftable
  | .key g => g.draftable
  | _ => false

/-- The key of a register's group, or the register itself: the unit of R283. -/
def RegId.unit (r : RegId) : Nat :=
  match r.group with
  | some g => (g.keyOf r.i r.j).addr
  | none => r.addr

/-- A value as a write of a register would leave it, with the other held or applied members: the held value, else the applied
one (R286). -/
def heldOr (s : State) (r : RegId) : Word :=
  match s.held.find? (fun e => e.1 = r.addr) with
  | some e => e.2.value
  | none => s.reg r

/-! ### Heads that items belong to (R277, R482) -/

/-- The value of a register in a list of writes, else a default. -/
def wrOr (ws : List Wr) (r : RegId) (d : Word) : Word :=
  match ws.find? (fun w => w.addr = r.addr) with
  | some w => w.value
  | none => d

/-- The head that a register belongs to under R277, reading naming fields by `val`; none for a register of no head. -/
def headOfReg (r : RegId) (val : RegId → Word) : Option Nat :=
  match r.name with
  | .dhHTiming | .dhHSync | .dhVTiming | .dhVSync | .dhPairDiv | .dhLatchLine | .dhPgOffset
  | .ccBackground | .cpHctrl | .cpMat | .cpPostRg | .cpPostB | .cpDegamma | .cpRegamma
  | .scBackdrop | .scKrRect0 | .scKrRect1 | .scKrSafe | .scKrCtrl
  | .scSigRect0 | .scSigRect1 | .scExpect | .scSigCtrl => some r.i
  | .faCtrl | .faSubstColor | .faConstColor | .faFormat | .faPitch | .faPlane1 | .faBaseLo | .faBaseHi
  | .faSrcPos | .faSrcSize | .faDstPos | .faDstSize | .faMisc | .faClut => some (fld (val (rg .faCtrl r.i)) 24 4)
  | .cpLctrl | .cpLcoef | .cpLpre01 | .cpLpre2 | .cpLpost01 | .cpLpost2 =>
    some (fld (val (rg .faCtrl r.cpSlot)) 24 4)
  | .saTaps | .saHInit | .saVInit | .saHRatio | .saVRatio | .saChroma | .saHcoef | .saVcoef =>
    some (fld (val (rg .faCtrl (64 + r.i))) 24 4)
  | .scKfallbackLo | .scKfallbackHi => some (fld (val (rg .faCtrl (88 + r.i))) 24 4)
  | .epEctrl => some (fld (val (rg .epEctrl r.i)) 0 4)
  | .oqDsc => some (fld (val (rg .epEctrl (fld (val (rg .oqDsc r.i)) 0 6))) 0 4)
  | .btPgCtrl | .btRefOffset => some (fld (val (rg .btPgCtrl r.i)) 8 4)
  | .caSend => some (fld (val (rg .caSend r.i)) 0 4)
  | .caSegCtrl | .caSegCols => some (fld (val (rg .caSegCtrl r.i)) 24 4)
  | _ => none

/-- The head an item of writes joins, with the naming field as it will stand (R482). -/
def headOfItem (s : State) (ws : List Wr) : Option Nat :=
  match ws.getLast? with
  | none => none
  | some w => (regAt w.addr).bind (fun r => headOfReg r (fun x => wrOr ws x (s.reg x)))

end Sys2Proof.Machine
end

