-- ==== Sys2Proof/Machine/Isa.lean ====
section
/-! DEFINITION. The instruction words of the lanterns: fields, must-be-0 bits and the decode check (R219, R220, R226, R230). -/

namespace Sys2Proof.Machine

def opOf (w : Word) : Nat := fld w 26 6
def rdOf (w : Word) : Nat := fld w 23 3
def rsOf (w : Word) : Nat := fld w 20 3
def rtOf (w : Word) : Nat := fld w 17 3
def immOf (w : Word) : Nat := fld w 0 16
/-- IMM sign-extended. -/
def simmOf (w : Word) : Word := wordOfInt (signed 16 (immOf w))
def targetOfWord (w : Word) : Nat := fld w 0 9
def fenceOf (w : Word) : Nat := fld w 0 10

/-- The bits an operation uses beside OP; none is an undefined opcode (R220). -/
def fieldMask (w : Word) : Option Word :=
  match opOf w with
  | 0x00 | 0x01 | 0x18 => some 0
  | 0x04 => some 0x0381FFFF#32
  | 0x05 | 0x06 => some 0x03F0FFFF#32
  | 0x07 => some 0x03FE0000#32
  | 0x08 => some 0x007EFFFF#32
  | 0x0C => some 0x020001FF#32
  | 0x0D => some 0x000001FF#32
  | 0x10 | 0x11 => some (if bit w 19 then 0x00780000#32 else 0x0008FFFF#32)
  | 0x14 => some (if fld w 24 2 = 2 then 0x03FFFFFF#32 else 0x03E3FFFF#32)
  | 0x19 | 0x1B => some 0x007003FF#32
  | 0x1A => some 0x0070FFFF#32
  | 0x1C => some 0x00000007#32
  | 0x1D => some 0x03830000#32
  | 0x1E => some 0x000001FF#32
  | 0x1F => some 0x000000FF#32
  | _ => none

/-- Whether a word is a defined instruction with no must-be-0 bit set and no reserved condition (R219, R228). -/
def wordOk (w : Word) : Bool :=
  match fieldMask w with
  | none => false
  | some m => decide (w &&& 0x03FFFFFF#32 &&& ~~~m = 0) && !(decide (opOf w = 0x08) && decide (6 ≤ rtOf w))

/-- Whether a lantern is an ingress lantern. -/
def isIngressLantern (l : Nat) : Bool := decide (16 ≤ l)

/-- Sources that a lantern may raise (R226). -/
def permittedSource (l src : Nat) : Bool :=
  decide (449 ≤ src) || decide (src = if l < 16 then 2 + 4 * l else 157 + (l - 16))

/-- The decode check of one word of a program of `len` words (R230). `vTotal` and `hTotal` are those of a head lantern's
raster. -/
def decodeWordOk (l len vTotal hTotal : Nat) (w : Word) : Bool :=
  wordOk w &&
  (match opOf w with
   | 0x0C | 0x0D => decide (targetOfWord w < len)
   | 0x10 => bit w 19 || (if isIngressLantern l then decide (immOf w ≤ 8192) else decide (immOf w < vTotal))
   | 0x11 => !isIngressLantern l && (bit w 19 || decide (immOf w < hTotal))
   | 0x18 => !isIngressLantern l
   | 0x1E => permittedSource l (fld w 0 9)
   | _ => true)

/-- The first word of a program that fails the check. -/
def decodeFailure (l len vTotal hTotal : Nat) (ws : List Word) : Option Nat :=
  (List.range len).find? (fun i => !decodeWordOk l len vTotal hTotal (ws.getD i 0))

end Sys2Proof.Machine
end

