-- ==== Sys2Proof/Machine/Crypto.lean ====
section
/-! DEFINITION. The public algorithms the spec names: the CRCs of R363, SHA-256, ECDSA P-256 (R79) and AES-128-CMAC (R306). -/

namespace Sys2Proof.Machine

/-! ### CRC (R363) -/

/-- One bit of a CRC whose register shifts right (refin and refout), polynomial reflected. -/
def crcRightBit (poly r : Nat) : Nat := if r % 2 = 1 then (r / 2) ^^^ poly else r / 2

/-- One byte of such a CRC. -/
def crcRightByte (poly r : Nat) (b : Byte) : Nat := (List.range 8).foldl (fun r _ => crcRightBit poly r) (r ^^^ b.toNat)

/-- One bit of a CRC of width `w` whose register shifts left. -/
def crcLeftBit (w poly r : Nat) : Nat := if r / 2 ^ (w - 1) % 2 = 1 then (r * 2 % 2 ^ w) ^^^ poly else r * 2

/-- One byte of such a CRC. -/
def crcLeftByte (w poly r : Nat) (b : Byte) : Nat :=
  (List.range 8).foldl (fun r _ => crcLeftBit w poly r) (r ^^^ (b.toNat * 2 ^ (w - 8)))

/-- The register before any byte. -/
def crcInit : Nat → Nat
  | 0 | 1 => 0xFFFFFFFF
  | 2 => 0
  | _ => 0xFFFF

/-- The register after one more byte, under ALG. -/
def crcByte (alg r : Nat) (b : Byte) : Nat :=
  match alg with
  | 0 => crcRightByte 0xEDB88320 r b
  | 1 => crcRightByte 0x82F63B78 r b
  | 2 => crcLeftByte 64 0x42F0E1EBA9EA3693 r b
  | _ => crcLeftByte 16 0x1021 r b

/-- The register after more bytes. -/
def crcRun (alg r : Nat) (l : List Byte) : Nat := l.foldl (crcByte alg) r

/-- The value after xorout. -/
def crcFinal (alg r : Nat) : Nat := if alg < 2 then r ^^^ 0xFFFFFFFF else r

/-- The CRC of a byte string. -/
def crc (alg : Nat) (l : List Byte) : Nat := crcFinal alg (crcRun alg (crcInit alg) l)

/-! ### SHA-256 -/

/-- The 64 round constants, 32 bits each, the first lowest. -/
def shaK : Nat :=
  0x550c7dc3243185be12835b01d807aa98ab1c5ed5923f82a459f111f13956c25be9b5dba5b5c0fbcf71374491428a2f98 +
  0x76f988da5cb0a9dc4a7484aa2de92c6f240ca1cc0fc19dc6efbe4786e49b69c1c19bf1749bdc06a780deb1fe72be5d74 * 2 ^ 384 +
  0x53380d134d2c6dfc2e1b213827b70a851429296706ca6351d5a79147c6e00bf3bf597fc7b00327c8a831c66d983e5152 * 2 ^ 768 +
  0x106aa070f40e3585d6990624d192e819c76c51a3c24b8b70a81a664ba2bfe8a192722c8581c2c92e766a0abb650a7354 * 2 ^ 1152 +
  0x8cc7020884c8781478a5636f748f82ee682e6ff35b9cca4f4ed8aa4a391c0cb334b0bcb52748774c1e376c0819a4c116 * 2 ^ 1536 +
  0xc67178f2bef9a3f7a4506ceb90befffa * 2 ^ 1920

/-- The eight initial hash words, the first lowest. -/
def shaH : Nat :=
  0x5be0cd191f83d9ab9b05688c510e527fa54ff53a3c6ef372bb67ae856a09e667

/-- Word `i` of a packed table of 32-bit words. -/
def packedWord (t i : Nat) : Word := BitVec.ofNat 32 (t / 2 ^ (32 * i))

/-- The message padded to whole 64-byte blocks. -/
def shaPad (l : List Byte) : List Byte :=
  l ++ [0x80#8] ++ List.replicate ((119 - l.length % 64) % 64) 0#8 ++ beBytes 8 (l.length * 8)

/-- The 64 message words of a block, the newest first. -/
def shaSchedule (ws : List Word) : List Word :=
  (List.range 48).foldl (fun acc _ =>
    let x15 := acc.getD 14 0
    let x2 := acc.getD 1 0
    let s0 := x15.rotateRight 7 ^^^ x15.rotateRight 18 ^^^ (x15 >>> 3)
    let s1 := x2.rotateRight 17 ^^^ x2.rotateRight 19 ^^^ (x2 >>> 10)
    (acc.getD 15 0 + s0 + acc.getD 6 0 + s1) :: acc) ws.reverse

/-- The eight working words. -/
structure ShaState where
  a : Word
  b : Word
  c : Word
  d : Word
  e : Word
  f : Word
  g : Word
  h : Word
  deriving DecidableEq, Repr

/-- One round. -/
def shaRound (s : ShaState) (k w : Word) : ShaState :=
  let t1 := s.h + (s.e.rotateRight 6 ^^^ s.e.rotateRight 11 ^^^ s.e.rotateRight 25) +
    ((s.e &&& s.f) ^^^ (~~~s.e &&& s.g)) + k + w
  let t2 := (s.a.rotateRight 2 ^^^ s.a.rotateRight 13 ^^^ s.a.rotateRight 22) +
    ((s.a &&& s.b) ^^^ (s.a &&& s.c) ^^^ (s.b &&& s.c))
  ⟨t1 + t2, s.a, s.b, s.c, s.d + t1, s.e, s.f, s.g⟩

/-- The words of a block, high byte first. -/
def beWords : List Byte → List Word
  | a :: b :: c :: d :: t => BitVec.ofNat 32 (beNat [a, b, c, d]) :: beWords t
  | _ => []

/-- One block of 64 bytes. -/
def shaBlock (s : ShaState) (l : List Byte) : ShaState :=
  let r := ((shaSchedule (beWords l)).reverse.zipIdx).foldl (fun s p => shaRound s (packedWord shaK p.2) p.1) s
  ⟨s.a + r.a, s.b + r.b, s.c + r.c, s.d + r.d, s.e + r.e, s.f + r.f, s.g + r.g, s.h + r.h⟩

/-- Blocks one after another, `n` of them. -/
def shaBlocks : Nat → List Byte → ShaState → ShaState
  | 0, _, s => s
  | n + 1, l, s => shaBlocks n (l.drop 64) (shaBlock s (l.take 64))

/-- SHA-256 as a number, high byte first. -/
def sha256 (l : List Byte) : Nat :=
  let p := shaPad l
  let w := packedWord shaH
  let s := shaBlocks (p.length / 64) p ⟨w 0, w 1, w 2, w 3, w 4, w 5, w 6, w 7⟩
  [s.a, s.b, s.c, s.d, s.e, s.f, s.g, s.h].foldl (fun x w => x * 2 ^ 32 + w.toNat) 0

/-! ### ECDSA over P-256 -/

def p256P : Nat := 2 ^ 256 - 2 ^ 224 + 2 ^ 192 + 2 ^ 96 - 1
def p256N : Nat := 0xffffffff00000000ffffffffffffffffbce6faada7179e84f3b9cac2fc632551
def p256B : Nat := 0x5ac635d8aa3a93e7b3ebbd55769886bc651d06b0cc53b0f63bce3c3e27d2604b
def p256G : Nat × Nat :=
  (0x6b17d1f2e12c4247f8bce6e563a440f277037d812deb33a0f4a13945d898c296,
   0x4fe342e2fe1a7f9b8ee7eb4a7c0f9e162bce33576b315ececbb6406837bf51f5)

/-- `b ^ e` modulo `m`, over `fuel` bits of the exponent. -/
def powMod : Nat → Nat → Nat → Nat → Nat → Nat
  | 0, _, _, _, acc => acc
  | fuel + 1, b, e, m, acc => powMod fuel (b * b % m) (e / 2) m (if e % 2 = 1 then acc * b % m else acc)

/-- The inverse modulo a prime. -/
def invMod (a m : Nat) : Nat := powMod 256 (a % m) (m - 2) m 1

/-- A point of the curve; none is the point at infinity. -/
abbrev Point := Option (Nat × Nat)

/-- The sum of two points with a given slope. -/
def pointWith (l x1 y1 x2 : Nat) : Point :=
  let x3 := (l * l + 2 * p256P - x1 - x2) % p256P
  some (x3, (l * (p256P + x1 - x3) + p256P - y1) % p256P)

/-- Point addition. -/
def pointAdd : Point → Point → Point
  | none, q => q
  | p, none => p
  | some (x1, y1), some (x2, y2) =>
    if x1 = x2 then
      if (y1 + y2) % p256P = 0 then none
      else pointWith (((3 * x1 * x1 + p256P - 3) * invMod (2 * y1) p256P) % p256P) x1 y1 x2
    else pointWith (((p256P + y2 - y1) * invMod (p256P + x2 - x1) p256P) % p256P) x1 y1 x2

/-- `k` times a point, over `fuel` bits of `k`. -/
def pointMul : Nat → Nat → Point → Point → Point
  | 0, _, _, acc => acc
  | fuel + 1, k, p, acc => pointMul fuel (k / 2) (pointAdd p p) (if k % 2 = 1 then pointAdd acc p else acc)

/-- Whether a signature (r, s) over a digest verifies under a public key. -/
def ecdsaOk (key : Nat × Nat) (digest r s : Nat) : Bool :=
  if r = 0 ∨ p256N ≤ r ∨ s = 0 ∨ p256N ≤ s then false
  else
    let w := invMod s p256N
    match pointAdd (pointMul 256 (digest * w % p256N) (some p256G) none) (pointMul 256 (r * w % p256N) (some key) none) with
    | none => false
    | some (x, _) => decide (x % p256N = r)

/-! ### AES-128-CMAC -/

/-- The S-box, 256 bytes, the first lowest. -/
def aesSbox : Nat :=
  0x1531d871f1e5a534ccf73f362693fdb7c072a49cafa2d4adf04759fa7dc982ca76abd7fe2b670130c56f6bf27b777c63 +
  0xcf584c4a39becb6a5bb1fc20ed00d153842fe329b3d63b52a05a6e1b1a2c830975b227ebe28012079a059618c323c704 * 2 ^ 384 +
  0x73195d643d7ea7c41744975fec130ccdd2f3ff1021dab6bcf5389d928f40a351a89f3c507f02f94585334d43fbaaefd0 * 2 ^ 768 +
  0x08ae7a65eaf4566ca94ed58d6d37c8e779e4959162acd3c25c2406490a3a32e0db0b5ede14b8ee4688902a22dc4f8160 * 2 ^ 1152 +
  0xdf2855cee9871e9b948ed9691198f8e19e1dc186b95735610ef6034866b53e708a8bbd4b1f74dde8c6b4a61c2e2578ba * 2 ^ 1536 +
  0x16bb54b00f2d99416842e6bf0d89a18c * 2 ^ 1920

def subByte (x : Nat) : Nat := aesSbox / 2 ^ (8 * x) % 256

/-- Multiplication by 2 in the field of AES. -/
def xtime (x : Nat) : Nat := if 128 ≤ x then (2 * x - 256) ^^^ 0x1B else 2 * x

/-- The next round key, of 16 bytes. -/
def nextKey (k : List Nat) (rcon : Nat) : List Nat :=
  let g (i : Nat) : Nat := k.getD i 0
  let w0 := [g 0 ^^^ subByte (g 13) ^^^ rcon, g 1 ^^^ subByte (g 14), g 2 ^^^ subByte (g 15), g 3 ^^^ subByte (g 12)]
  let w1 := List.zipWith (· ^^^ ·) w0 [g 4, g 5, g 6, g 7]
  let w2 := List.zipWith (· ^^^ ·) w1 [g 8, g 9, g 10, g 11]
  w0 ++ w1 ++ w2 ++ List.zipWith (· ^^^ ·) w2 [g 12, g 13, g 14, g 15]

/-- SubBytes and ShiftRows. -/
def subShift (s : List Nat) : List Nat :=
  (List.range 16).map (fun i => subByte (s.getD ((i + 4 * (i % 4)) % 16) 0))

/-- MixColumns. -/
def mixColumns (s : List Nat) : List Nat :=
  (List.range 16).map (fun i =>
    let a (j : Nat) : Nat := s.getD (i / 4 * 4 + (i + j) % 4) 0
    xtime (a 0) ^^^ (xtime (a 1) ^^^ a 1) ^^^ a 2 ^^^ a 3)

/-- One AES-128 block. -/
def aesBlock (key x : List Nat) : List Nat :=
  let r := (List.range 9).foldl (fun (p : List Nat × List Nat × Nat) _ =>
    let k := nextKey p.2.1 p.2.2
    (List.zipWith (· ^^^ ·) (mixColumns (subShift p.1)) k, k, xtime p.2.2)) (List.zipWith (· ^^^ ·) x key, key, 1)
  List.zipWith (· ^^^ ·) (subShift r.1) (nextKey r.2.1 r.2.2)

/-- Doubling in the field of CMAC. -/
def cmacDouble (l : List Nat) : List Nat :=
  let n := l.foldl (fun a b => a * 256 + b) 0
  let d := if n / 2 ^ 127 = 1 then (n * 2 % 2 ^ 128) ^^^ 0x87 else n * 2
  (List.range 16).map (fun i => d / 2 ^ (8 * (15 - i)) % 256)

/-- The chaining over `n` whole blocks. -/
def cmacChain : Nat → List Nat → List Nat → List Nat → List Nat
  | 0, _, _, c => c
  | n + 1, key, m, c => cmacChain n key (m.drop 16) (aesBlock key (List.zipWith (· ^^^ ·) c (m.take 16)))

/-- AES-128-CMAC of a message, 16 bytes. -/
def cmac (key : BitVec 128) (msg : List Byte) : List Byte :=
  let k := (beBytes 16 key.toNat).map BitVec.toNat
  let m := msg.map BitVec.toNat
  let zero := List.replicate 16 0
  let k1 := cmacDouble (aesBlock k zero)
  let n := if m.length = 0 then 1 else (m.length + 15) / 16
  let last := m.drop (16 * (n - 1))
  let last := if last.length = 16 then List.zipWith (· ^^^ ·) last k1
    else List.zipWith (· ^^^ ·) (last ++ [128] ++ List.replicate (15 - last.length) 0) (cmacDouble k1)
  (aesBlock k (List.zipWith (· ^^^ ·) (cmacChain (n - 1) k m zero) last)).map (BitVec.ofNat 8)

end Sys2Proof.Machine
end

