-- ==== Sys2Proof/Machine/Records.lean ====
section
/-! DEFINITION. Guarded records (R371, R372) and the choice between two copies (R374). -/

namespace Sys2Proof.Machine

/-- OUTCOME code of R373. -/
def Outcome.code : Outcome → Nat
  | .ok => 0
  | .payloadMismatch => 1
  | .damaged _ => 2
  | .repeat_ => 3
  | .stale => 4

/-- DETAIL of R373. -/
def Outcome.detail : Outcome → Nat
  | .damaged d => d
  | _ => 0

/-- ALIVE of a record's header. -/
def recordAlive (l : List Byte) : Nat := leAt l 0x0C 4

/-- LENGTH of a record's header. -/
def recordLength (l : List Byte) : Nat := leAt l 0x08 4

/-- The payload of a record. -/
def recordPayload (l : List Byte) : List Byte := sliceBytes l 32 (recordLength l)

/-- Step 1 of R372: the header alone; `format` 0 accepts any. -/
def headerOutcome (space format : Nat) (l : List Byte) : Option Nat :=
  let h := sliceBytes l 0 32
  if crc 3 (h.take 30) ≠ leAt h 0x1E 2 then some 1
  else if leAt h 0 4 ≠ 0x44524754 then some 2
  else if leAt h 7 1 ≠ 0 ∨ leAt h 0x18 6 ≠ 0 ∨ 2 < leAt h 6 1 then some 3
  else if space < 32 + recordLength h then some 4
  else if format ≠ 0 ∧ leAt h 4 2 ≠ format then some 5
  else none

/-- Step 3 of R372: the alive counter against the last accepted one. -/
def aliveOutcome (floor : Option Nat) (alive : Nat) : Outcome :=
  match floor with
  | none => .ok
  | some f =>
    let d := (alive + 2 ^ 32 - f % 2 ^ 32) % 2 ^ 32
    if d = 0 then .repeat_ else if 2 ^ 31 ≤ d then .stale else .ok

/-- Verification of a record (R372). -/
def verifyRecord (space format : Nat) (floor : Option Nat) (l : List Byte) : Outcome :=
  match headerOutcome space format l with
  | some d => .damaged d
  | none =>
    if crc (leAt l 6 1) (recordPayload l) ≠ leAt l 0x10 8 then .payloadMismatch
    else aliveOutcome floor (recordAlive l)

/-- The copy chosen (R374): none where neither passes, else whether it is copy B. -/
def chooseCopy (a b : Option Nat) : Option Bool :=
  match a, b with
  | none, none => none
  | some _, none => some false
  | none, some _ => some true
  | some x, some y => if aliveOutcome (some x) y = .ok then some true else some false

/-- The ALIVE of the next write (R374). -/
def nextAlive (a : Nat) : Nat := (a + 1) % 2 ^ 32

/-! ### The MC's own records (R371, R374, R429) -/

/-- FORMAT of the start ledger, the persistent store and the stored training (R371). -/
def ledgerFormat : Nat := 4
def storeFormat : Nat := 5
def trainingFormat : Nat := 6

/-- The space of a copy in the SPI NOR, and the offset of copy A of each of the three; copy B follows it (R429). -/
def copySpace : Nat := 0x10000
def copyBase (format : Nat) : Nat := 0x800000 + (format - 4) * (2 * copySpace)

/-- What R372 finds in a copy: one never written is erased, and its header check fails. -/
def foundIn {α : Type} (c : Option (Copy α)) : Outcome := match c with | some c => c.found | none => .damaged 1

/-- The ALIVE of a copy that passes. -/
def passing {α : Type} (c : Option (Copy α)) : Option Nat :=
  match c with
  | some c => if c.found = .ok then some c.alive else none
  | none => none

/-- The copy chosen, if one passes (R374). -/
def chosenOf {α : Type} (a b : Option (Copy α)) : Option (Copy α) :=
  match chooseCopy (passing a) (passing b) with
  | some false => a
  | some true => b
  | none => none

/-- Whether a write rewrites copy B: the copy not chosen (R374). -/
def rewritesB {α : Type} (a b : Option (Copy α)) : Bool := decide (chooseCopy (passing a) (passing b) = some false)

/-- The copy that a write makes (R374). -/
def newCopy {α : Type} (a b : Option (Copy α)) (found : Outcome) (payload : α) : Copy α :=
  { alive := match chosenOf a b with | some c => nextAlive c.alive | none => 0, found := found, payload := payload }

/-- What R372 finds as a write is read back. Of one that failed the spec does not say what it left: a free value (log entry 68). -/
def readBack (ok : Bool) (s : State) : Outcome :=
  let k := (Config.undefinedByte s.fresh).toNat % 6
  if ok then .ok else if k = 0 then .payloadMismatch else .damaged k

/-- A record's bytes (R371): the header, whose checks hold, and the payload. -/
def recordBytes (format alg alive : Nat) (payload : List Byte) : List Byte :=
  let h := leBytes 4 0x44524754 ++ leBytes 2 format ++ leBytes 1 alg ++ leBytes 1 0 ++ leBytes 4 payload.length ++ leBytes 4 alive ++
    leBytes 8 (crc alg payload) ++ leBytes 6 0
  h ++ leBytes 2 (crc 3 h) ++ payload

/-- A start entry's 64 bytes (R434). -/
def entryBytes (e : LedgerEntry) : List Byte :=
  leBytes 4 e.startNo ++ leBytes 1 e.result ++ leBytes 3 0 ++
  (List.range 11).flatMap (fun i => leBytes 4 (SMap.get e.steps (i + 1) 0).toNat) ++
  leBytes 4 e.dram.toNat ++ leBytes 4 e.links.toNat ++ leBytes 4 e.copies.toNat

/-- The ledger payload (R434). -/
def ledgerBytes (l : Ledger) : List Byte :=
  leBytes 4 l.startCount ++ (List.range 4).map (fun m => BitVec.ofNat 8 (SMap.get l.chFails m 0)) ++
  (List.range 8).map (fun q => BitVec.ofNat 8 (SMap.get l.quadFails q 0)) ++
  leBytes 1 (if l.fwGoodB then 1 else 0) ++ leBytes 47 0 ++
  (List.range 16).flatMap (fun x => entryBytes (SMap.get l.entries x {}))

/-- A free value of at most n: a length or a code that the spec does not give. -/
def freeUpTo (n x : Nat) : Nat := (leNat ((List.range 4).map (Config.norByte x))) % (n + 1)

/-- The payload of a record whose layout the spec does not give: free bytes (log entry 68). -/
def freePayload (format alive : Nat) : List Byte :=
  (List.range (freeUpTo (copySpace - 32) (alive + format * 2 ^ 32))).map (Config.norByte (alive + (format + 8) * 2 ^ 32))

/-- The byte at an offset of a copy's space: of a good copy its record's and then erased; of a damaged one a free value. -/
def copyByte {α : Type} (format : Nat) (bytes : α → List Byte) (c : Option (Copy α)) (i : Nat) : Byte :=
  match c with
  | none => 0xFF
  | some c =>
    if c.found = .ok then (recordBytes format (freeUpTo 2 format) c.alive (bytes c.payload)).getD i 0xFF
    else Config.norByte (c.alive + format * 2 ^ 32) i

/-- A byte of the SPI NOR (R429): the firmware banks' bytes are free values, the copies' are those of their records, and what was
never programmed elsewhere reads 0xFF (log entries 32 and 68). -/
def norByte (n : Nor) (a : Nat) : Byte :=
  if a < copyBase ledgerFormat then Config.norByte 0 a
  else
    let i := a % copySpace
    match (a - copyBase ledgerFormat) / copySpace with
    | 0 => copyByte ledgerFormat ledgerBytes n.ledgerA i
    | 1 => copyByte ledgerFormat ledgerBytes n.ledgerB i
    | 2 => copyByte storeFormat (fun _ => freePayload storeFormat ((n.storeA.map (·.alive)).getD 0)) n.storeA i
    | 3 => copyByte storeFormat (fun _ => freePayload storeFormat ((n.storeB.map (·.alive)).getD 0)) n.storeB i
    | 4 => copyByte trainingFormat (fun _ => freePayload trainingFormat ((n.trainA.map (·.alive)).getD 0)) n.trainA i
    | 5 => copyByte trainingFormat (fun _ => freePayload trainingFormat ((n.trainB.map (·.alive)).getD 0)) n.trainB i
    | _ => SMap.get n.bytes a 0xFF

end Sys2Proof.Machine
end

