-- ==== Sys2Proof/Machine/Image.lean ====
section
/-! DEFINITION. Scan schedule images: their form (R64 to R79), the schedule arithmetic (R66, R69, R70, R74, R76, R81, R83, R89)
and the checks of a load (R80, R90). -/

namespace Sys2Proof.Machine

/-! ### Schedule arithmetic -/

/-- WIN(h) (R66); negative is 0. -/
def windowOf (fabKhz lineTicks : Nat) : Nat := lineTicks * fabKhz / 1600000 - 256

/-- The 8.24 ratio 1.0. -/
def unity : Nat := 0x01000000

/-- Whether an envelope is unscaled: all ratios 1.0 and both tap counts 1 (R67). -/
def Envelope.flat (e : Envelope) : Bool :=
  decide (e.hRatioMin = unity) && decide (e.hRatioMax = unity) && decide (e.vRatioMin = unity) &&
  decide (e.vRatioMax = unity) && decide (e.hTapsMax = 1) && decide (e.vTapsMax = 1)

/-- DEM(e) (R69). -/
def Envelope.demand (e : Envelope) (lead : Nat) : Nat :=
  let bps := ceilDiv e.maxBpl 64 + 1
  if e.flat then bps else (ceilDiv e.vRatioMax (2 ^ 24) + ceilDiv (e.vTapsMax - 1) lead) * bps

/-- Whether an envelope covers display line y (R70). -/
def Envelope.covers (e : Envelope) (lead vTotal y : Nat) : Bool :=
  decide ((y + vTotal + lead - e.y0) % vTotal < e.y1 - e.y0 + lead)

/-- Running counts of an owner's slots: entry i counts slots 0 to i − 1 (two turns of the table). -/
def prefixCounts (owner : Nat) : List Nat → Nat → List Nat
  | [], acc => [acc]
  | x :: t, acc => acc :: prefixCounts owner t (if x = owner then acc + 1 else acc)

/-- The smallest difference between two lists, place by place. -/
def minDiff : List Nat → List Nat → Option Nat
  | a :: as, b :: bs => match minDiff as bs with
    | none => some (b - a)
    | some m => some (min (b - a) m)
  | _, _ => none

/-- GRANT (R74). -/
def grant (table : List Nat) (owner win : Nat) : Nat :=
  if win = 0 then 0
  else
    let k := table.count owner
    let rem := win % 1600
    let c := (prefixCounts owner (table ++ table) 0)
    win / 1600 * k + (if rem = 0 ∨ k = 0 then 0 else (minDiff (c.take 1600) (c.drop rem)).getD 0)

/-- CL(h) (R81). -/
def compLoadOf (hActive lineTicks : Nat) : Nat := if lineTicks = 0 then 0 else ceilDiv (hActive * 2 ^ 15) lineTicks

/-- The slot table of a channel; a channel outside CHANNEL_MASK counts as all OPEN (R89). -/
def Image.table (i : Image) (m : Nat) : List Nat :=
  if i.channelMask / 2 ^ m % 2 = 1 then SMap.get i.slots m [] else List.replicate 1600 0

/-- The owners that may hand a slot over (R89). -/
def handover (a b : Nat) : Bool :=
  decide (a = b) || decide (a = 0) || decide (b = 0) ||
  (decide (0x10 ≤ a) && decide (a < 0x20) && decide (b = a + 0x20)) ||
  (decide (0x10 ≤ b) && decide (b < 0x20) && decide (a = b + 0x20))

/-- R89 between two images. -/
def handoverOk (a b : Image) : Bool :=
  (List.range 4).all (fun m => (List.zipWith handover (a.table m) (b.table m)).all id)

/-- The HEADS entry of a head. -/
def Image.head (i : Image) (h : Nat) : HeadEntry := SMap.get i.heads h {}

/-- The heads of HEAD_MASK. -/
def Image.headList (i : Image) : List Nat := (List.range 16).filter i.hasHead

/-- The channels of CHANNEL_MASK. -/
def Image.channelList (i : Image) : List Nat := (List.range 4).filter (fun m => i.channelMask / 2 ^ m % 2 = 1)

/-- The line classes of a head, in order. -/
def Image.classesOf (i : Image) (h : Nat) : List LineClass := i.classes.filter (fun c => c.head = h)

/-- The envelopes of a class. -/
def Image.classEnvs (i : Image) (c : LineClass) : List Envelope := c.envs.filterMap (fun k => i.envs[k]?)

/-- The ASSIGN entry of a slot. -/
def Image.assignOf (i : Image) (slot : Nat) : Assign := i.assign.getD slot {}

/-- The envelope of a slot (no slot appears twice, R67). -/
def Image.envOf (i : Image) (slot : Nat) : Option Envelope := i.envs.find? (fun e => e.slot = slot)

/-- The streams of an ingress owner on a channel. -/
def Image.ingressOf (i : Image) (owner m : Nat) : List IngressEntry :=
  i.ingress.filter (fun x => x.owner = owner ∧ x.channel = m)

/-- The ingress demand of an owner on a channel (R76). -/
def Image.ingressDemand (i : Image) (owner m : Nat) : Nat :=
  ((i.ingressOf owner m).map (fun x => ceilDiv x.maxLineBytes 64 + 1)).sum

/-- The ingress window of an owner on a channel (R76). -/
def Image.ingressWindow (i : Image) (owner m : Nat) : Nat :=
  match (i.ingressOf owner m).map (·.minLineTicks) with
  | [] => 0
  | x :: t => windowOf i.fabKhz (t.foldl min x)

/-- WIN of a head. -/
def Image.window (i : Image) (h : Nat) : Nat := windowOf i.fabKhz (i.head h).raster.lineTime

/-- The main demand of a class on a channel, and its shadow demand (R83). -/
def Image.mainDemand (i : Image) (c : LineClass) (m : Nat) : Nat :=
  (((i.classEnvs c).filter (fun e => e.channel = m)).map (fun e => e.demand (i.head c.head).lead)).sum
def Image.shadowDemand (i : Image) (c : LineClass) (m : Nat) : Nat :=
  (((i.classEnvs c).filter (fun e => isK e.slot ∧ e.mirror = m)).map (fun e => e.demand (i.head c.head).lead)).sum

/-- One inequality of R83: where it stands, its demand and its grant. KIND 0 main, 1 shadow, 2 ingress. -/
structure Term where
  head : Nat
  cls : Nat
  channel : Nat
  kind : Nat
  demand : Nat
  grant : Nat
  deriving DecidableEq, Repr

/-- The inequalities of R83 in the order R80 judges them, and R78 lists them. -/
def Image.terms (i : Image) : List Term :=
  i.headList.flatMap (fun h =>
    ((i.classesOf h).zipIdx).flatMap (fun ck => i.channelList.flatMap (fun m =>
      [⟨h, ck.2, m, 0, i.mainDemand ck.1 m, grant (i.table m) (0x10 + h) (i.window h)⟩,
       ⟨h, ck.2, m, 1, i.shadowDemand ck.1 m, grant (i.table m) (0x30 + h) (i.window h)⟩]))) ++
  (List.range 6).flatMap (fun o => i.channelList.map (fun m =>
    ⟨0xFE, o, m, 2, i.ingressDemand o m, grant (i.table m) (0x20 + o) (i.ingressWindow o m)⟩))

/-- COMP_LOAD of a cluster (R81). -/
def Image.compLoadOfCluster (i : Image) (c : Nat) : Nat :=
  ((i.headList.filter (fun h => (i.head h).cluster = c)).map (fun h =>
    compLoadOf (i.head h).raster.hActive (i.head h).raster.lineTime)).sum

/-! ### Reading an image (R64 to R79) -/

/-- DIR: offset and length of a section. -/
def dirOf (p : List Byte) (k : Nat) : Nat × Nat := (leAt p (0x20 + 8 * k) 4, leAt p (0x24 + 8 * k) 4)

/-- The bytes of a section. -/
def sectionOf (p : List Byte) (k : Nat) : List Byte := sliceBytes p (dirOf p k).1 (min (dirOf p k).2 p.length)

/-- A HEADS entry (R66). -/
def parseHead (b : List Byte) : HeadEntry :=
  let pol := leAt b 0x0F 1
  { raster :=
      { hTiming := put (leAt b 2 2) 16 ||| put (leAt b 0 2) 0
        hSync := put (leAt b 6 2) 16 ||| put (leAt b 4 2) 0
        vTiming := put (leAt b 0x0A 2) 16 ||| put (leAt b 8 2) 0
        vSync := put (pol / 2 % 2) 31 ||| put (pol % 2) 30 ||| put (leAt b 0x0E 1) 16 ||| put (leAt b 0x0C 2) 0
        pairDiv := BitVec.ofNat 32 (leAt b 0x10 4) }
    latchLine := leAt b 0x14 2
    lead := leAt b 0x16 1
    cluster := leAt b 0x17 1
    pg := leAt b 0x18 1
    elastic := decide (leAt b 0x19 1 % 2 = 1)
    genlocked := decide (leAt b 0x19 1 / 2 % 2 = 1) }

/-- An ENVELOPES entry (R67). -/
def parseEnv (b : List Byte) : Envelope :=
  { slot := leAt b 0 1, head := leAt b 1 1, formatClass := leAt b 2 1, alphaModes := leAt b 3 1, zMin := leAt b 4 1,
    zMax := leAt b 5 1, channel := leAt b 6 1, mirror := leAt b 7 1, srcWMax := leAt b 8 2, srcHMax := leAt b 0x0A 2,
    x0 := leAt b 0x0C 2, y0 := leAt b 0x0E 2, x1 := leAt b 0x10 2, y1 := leAt b 0x12 2, maxBpl := leAt b 0x14 4,
    hRatioMin := leAt b 0x18 4, hRatioMax := leAt b 0x1C 4, vRatioMin := leAt b 0x20 4, vRatioMax := leAt b 0x24 4,
    hTapsMax := leAt b 0x28 1, vTapsMax := leAt b 0x29 1, beamRaced := decide (leAt b 0x2A 1 % 2 = 1),
    hostStaged := decide (leAt b 0x2A 1 / 2 % 2 = 1), paired := decide (leAt b 0x2A 1 / 4 % 2 = 1),
    stream := leAt b 0x2B 1, bursts := leAt b 0x2C 2 }

/-- A CLASSES entry (R70). -/
def parseClass (b : List Byte) : LineClass :=
  { head := leAt b 0 1, first := leAt b 2 2, last := leAt b 4 2,
    envs := (List.range (leAt b 1 1)).map (fun k => leAt b (8 + k) 1) }

/-- An ASSIGN entry (R75). -/
def parseAssign (b : List Byte) : Assign :=
  { head := leAt b 0 1, env := leAt b 1 1, paired := decide (leAt b 2 1 = 1) }

/-- An INGRESS entry (R76). -/
def parseIngress (b : List Byte) : IngressEntry :=
  { stream := leAt b 0 1, owner := leAt b 1 1, channel := leAt b 2 1, maxLineBytes := leAt b 4 4,
    minLineTicks := leAt b 8 4, ringLines := leAt b 0x0C 2 }

/-- The program entries of LANTERN (R77), with whether the section's form holds up to its end. -/
def parseLanterns : Nat → List Byte → List (Nat × List Word) × Bool
  | 0, l => ([], l.isEmpty)
  | fuel + 1, l =>
    if l.isEmpty then ([], true)
    else
      let n := leAt l 0 1
      let w := leAt l 2 2
      let used := 4 + 4 * w
      let step := (used + 15) / 16 * 16
      let rest := parseLanterns fuel (l.drop step)
      ((n, (List.range w).map (fun k => BitVec.ofNat 32 (leAt l (4 + 4 * k) 4))) :: rest.1,
       rest.2 && decide (step ≤ l.length) && decide (leAt l 1 1 = 0) && decide (1 ≤ w) && decide (w ≤ 512) &&
         decide (n ≤ 19) && (sliceBytes l used (step - used)).all (fun b => b = 0))

/-- A certificate entry (R78). -/
def parseCert (b : List Byte) : CertEntry :=
  { head := leAt b 0 1, cls := leAt b 1 1, channel := leAt b 2 1, kind := leAt b 3 1, demand := leAt b 4 2,
    grant := leAt b 6 2 }

/-- Chunks of a section, `n` of them, of `size` bytes. -/
def chunks : Nat → Nat → List Byte → List (List Byte)
  | 0, _, _ => []
  | n + 1, size, l => sliceBytes l 0 size :: chunks n size (l.drop size)

/-- N_ENV and N_CLASS. -/
def nEnv (p : List Byte) : Nat := leAt p 0x18 2
def nClass (p : List Byte) : Nat := leAt p 0x1A 2

/-- The channels of a mask in ascending order. -/
def maskChannels (mask : Nat) : List Nat := (List.range 4).filter (fun m => mask / 2 ^ m % 2 = 1)

/-- An image read from a payload, whatever its form. -/
def parseImage (p : List Byte) (alive : Nat) : Image :=
  let headMask := leAt p 0x0C 2
  let cmask := leAt p 0x0A 1
  let sec := sectionOf p
  { clockSpire := decide (leAt p 9 1 = 1)
    channelMask := cmask % 16
    signed := decide (leAt p 0x0B 1 % 2 = 1)
    bootScene := decide (leAt p 0x0B 1 / 2 % 2 = 1)
    headMask := headMask
    imageId := leAt p 0x0E 2
    counterpart := leAt p 0x10 2
    dataRate := leAt p 0x12 2
    fabKhz := leAt p 0x14 4
    heads := ((chunks 16 32 (sec 0)).zipIdx).foldl (fun m x =>
      if headMask / 2 ^ x.2 % 2 = 1 then SMap.set m x.2 (parseHead x.1) {} else m) []
    envs := (chunks (nEnv p) 64 (sec 1)).map parseEnv
    classes := (chunks (nClass p) 32 (sec 2)).map parseClass
    slots := (List.zip (maskChannels cmask) (chunks 4 1600 (sec 3))).foldl (fun m x =>
      SMap.set m x.1 (x.2.map BitVec.toNat) []) []
    assign := (chunks 96 4 (sec 4)).map parseAssign
    ingress := (chunks ((sec 5).length / 16) 16 (sec 5)).map parseIngress
    lanterns := (parseLanterns 21 (sec 6)).1.foldl (fun m x => SMap.set m x.1 x.2 []) []
    certCounts := (List.range 4).map (fun m => (List.range 6).map (fun k => leAt (sec 7) (16 * m + 2 * k) 2))
    compLoad := (List.range 4).map (fun c => leAt (sec 7) (0x40 + 4 * c) 4)
    certEntries := (chunks (((sec 7).length - 96) / 8) 8 ((sec 7).drop 0x60)).map parseCert
    alive := alive }

/-! ### STRUCTURE (R64 to R79), section by section -/

def zeroBytes (l : List Byte) (off n : Nat) : Bool := (sliceBytes l off n).all (fun b => b = 0)

/-- The header fields of R64 that check 6 does not judge. -/
def headerForm (p : List Byte) : Bool :=
  decide (0x80 ≤ p.length) && decide (leAt p 9 1 ≤ 1) && decide (leAt p 0x0A 1 / 16 = 0) && decide (leAt p 0x0A 1 % 16 ≠ 0) &&
  decide (leAt p 0x0B 1 / 4 = 0) && decide (leAt p 0x0C 2 ≠ 0) && decide (leAt p 0x0E 2 ≠ 0xFFFF) &&
  decide (nEnv p ≤ 96) && decide (1 ≤ nClass p) && decide (nClass p ≤ 1024) && zeroBytes p 0x1C 4 && zeroBytes p 0x70 16

/-- The length a section must have, where one value is right (R65). -/
def sectionLength (p : List Byte) (k n : Nat) : Bool :=
  match k with
  | 0 => decide (n = 512)
  | 1 => decide (n = nEnv p * 64)
  | 2 => decide (n = nClass p * 32)
  | 3 => decide (n = 1600 * (maskChannels (leAt p 0x0A 1)).length)
  | 4 => decide (n = 384)
  | 5 => decide (n % 16 = 0) && decide (n ≤ 16 * 192)
  | 6 => true
  | 7 => decide (96 ≤ n) && decide (n = 96 + 8 * leAt (sectionOf p 7) 0x50 4)
  | 8 => decide (n = if leAt p 0x0B 1 % 2 = 1 then 80 else 0)
  | _ => decide (n = 0)

/-- A directory entry: place, order, alignment and length (R65). The first section begins after the directory (DEDUCED, log entry
59). -/
def directoryForm (p : List Byte) (k : Nat) : Bool :=
  let d := dirOf p k
  let prev := (List.range k).foldl (fun e j => if (dirOf p j).2 = 0 then e else (dirOf p j).1 + (dirOf p j).2) 0x80
  sectionLength p k d.2 &&
    (if d.2 = 0 then decide (d.1 = 0)
     else decide (d.1 % 16 = 0) && decide (prev ≤ d.1) && decide (d.1 + d.2 ≤ p.length))

/-- A HEADS entry in the mask: R37, R42 and its ranges. -/
def headForm (b : List Byte) : Bool :=
  let e := parseHead b
  e.raster.legal && decide (1 ≤ e.lead) && decide (e.lead ≤ 8) && latchLineOk e.raster e.latchLine e.lead &&
  decide (e.cluster ≤ 3) && decide (e.pg ≤ 4) && decide (leAt b 0x0F 1 ≤ 3) && decide (leAt b 0x19 1 ≤ 3) && zeroBytes b 0x1A 6

/-- The heads of one phase group judged together (R66, R51). -/
def groupForm (i : Image) (g : Nat) : Bool :=
  let fs := ((i.headList.filter (fun h => (i.head h).pg = g)).map (fun h => (i.head h).raster.period))
  fs.all (fun f => fs.all (fun f' => decide (f' ≤ f + 1023)))

def headsForm (p : List Byte) (i : Image) : Bool :=
  ((chunks 16 32 (sectionOf p 0)).zipIdx).all (fun x => if i.hasHead x.2 then headForm x.1 else x.1.all (fun b => b = 0)) &&
  (List.range 4).all (fun g => groupForm i (g + 1))

/-- Whether a slot kind admits a format class (R68). -/
def slotAdmits (slot cls : Nat) : Bool :=
  if isV slot then decide (cls ≤ 8) else if isK slot then decide (cls = 0) || decide (cls = 1) || decide (cls = 3) else decide (cls ≤ 4)

/-- Whether a channel is in CHANNEL_MASK. -/
def Image.inMask (i : Image) (m : Nat) : Bool := decide (m ≤ 3) && decide (i.channelMask / 2 ^ m % 2 = 1)

/-- The scaled or unscaled shape of an envelope (R67). -/
def Envelope.shapeOk (e : Envelope) : Bool :=
  if !isV e.slot then e.flat && !e.paired
  else
    decide (e.paired = decide (4096 < e.srcWMax)) &&
    (e.flat ||
      (decide (0x00100000 ≤ e.hRatioMin) && decide (e.hRatioMin ≤ e.hRatioMax) && decide (e.hRatioMax ≤ 0x08000000) &&
       decide (0x00100000 ≤ e.vRatioMin) && decide (e.vRatioMin ≤ e.vRatioMax) && decide (2 ≤ e.hTapsMax) &&
       decide (2 ≤ e.vTapsMax) && decide (e.vTapsMax + ceilDiv e.vRatioMax (2 ^ 24) ≤ if e.paired then 6 else 12)))

/-- An ENVELOPES entry (R67, R68). -/
def envForm (i : Image) (b : List Byte) : Bool :=
  let e := parseEnv b
  let r := (i.head e.head).raster
  decide (e.slot ≤ 95) && decide (e.head ≤ 15) && i.hasHead e.head && slotAdmits e.slot e.formatClass &&
  decide (e.alphaModes ≠ 0) && decide (e.alphaModes < 8) && decide (e.zMin ≤ e.zMax) &&
  decide (e.zMax ≤ if isK e.slot then 1 else 15) && i.inMask e.channel &&
  (if isK e.slot then i.inMask e.mirror && decide (e.mirror ≠ e.channel) else decide (e.mirror = 0xFF)) &&
  decide (1 ≤ e.srcWMax) && decide (e.srcWMax ≤ 8192) && decide (1 ≤ e.srcHMax) && decide (e.srcHMax ≤ 8192) &&
  decide (e.x0 < e.x1) && decide (e.x1 ≤ r.hActive) && decide (e.y0 < e.y1) && decide (e.y1 ≤ r.vActive) &&
  decide (1 ≤ e.hTapsMax) && decide (e.hTapsMax ≤ 8) && decide (1 ≤ e.vTapsMax) && decide (e.vTapsMax ≤ 6) &&
  decide (leAt b 0x2A 1 ≤ 7) && (if e.beamRaced then decide (e.stream ≤ 191) else decide (e.stream = 0xFF)) &&
  (!e.beamRaced || (isV e.slot && (decide (e.formatClass = 0) || decide (e.formatClass = 7)))) &&
  e.shapeOk && zeroBytes b 0x2E 18

/-- Whether a list of numbers has no repeats. -/
def noRepeats : List Nat → Bool
  | [] => true
  | x :: t => !t.contains x && noRepeats t

def envsForm (p : List Byte) (i : Image) : Bool :=
  (chunks (nEnv p) 64 (sectionOf p 1)).all (envForm i) && noRepeats (i.envs.map (·.slot))

/-- A CLASSES entry on its own (R70). -/
def classForm (i : Image) (b : List Byte) : Bool :=
  let c := parseClass b
  decide (c.head ≤ 15) && i.hasHead c.head && decide (c.envs.length ≤ 18) && c.envs.all (fun k => decide (k < i.envs.length)) &&
  zeroBytes b 6 2 && (sliceBytes b (8 + c.envs.length) (18 - c.envs.length)).all (fun x => x = 0xFF#8) && zeroBytes b 0x1A 6

/-- The indices of a head's envelopes that cover a line, in ENVELOPES order. -/
def coveringEnvs (i : Image) (h y : Nat) : List Nat :=
  (i.envs.zipIdx.filter (fun x => x.1.head = h ∧ x.1.covers (i.head h).lead (i.head h).raster.vTotal y)).map (·.2)

/-- The classes of a head tile its lines, and each names exactly the envelopes that cover its lines. -/
def tilingForm (i : Image) (h : Nat) : Bool :=
  let cs := i.classesOf h
  decide (cs.length ≤ 64) &&
  (match cs.foldl (fun (n : Option Nat) c => n.bind (fun n => if c.first = n ∧ n ≤ c.last then some (c.last + 1) else none))
      (some 0) with
   | some n => decide (n = (i.head h).raster.vTotal)
   | none => false) &&
  cs.all (fun c => (List.range (c.last + 1 - c.first)).all (fun k => decide (coveringEnvs i h (c.first + k) = c.envs)))

/-- Whether a list of numbers rises or stays. -/
def ascending : List Nat → Bool
  | a :: b :: t => decide (a ≤ b) && ascending (b :: t)
  | _ => true

def classesForm (p : List Byte) (i : Image) : Bool :=
  (chunks (nClass p) 32 (sectionOf p 2)).all (classForm i) && ascending (i.classes.map (·.head)) && i.headList.all (tilingForm i)

/-- Whether a slot code is defined (R71). -/
def slotCodeOk (c : Nat) : Bool :=
  decide (c ≤ 2) || (decide (0x10 ≤ c) && decide (c ≤ 0x1F)) || (decide (0x20 ≤ c) && decide (c ≤ 0x25)) ||
  (decide (0x30 ≤ c) && decide (c ≤ 0x3F))

def slotsForm (i : Image) : Bool := i.channelList.all (fun m => (i.table m).all slotCodeOk)

/-- An ASSIGN entry (R75). -/
def assignForm (i : Image) (slot : Nat) (b : List Byte) : Bool :=
  let a := parseAssign b
  decide (leAt b 2 1 ≤ 1) && decide (leAt b 3 1 = 0) &&
  (if a.head = 0xFF then decide (a.env = 0xFF) && !a.paired
   else match i.envs[a.env]? with
     | none => false
     | some e =>
       decide (e.slot = slot) && decide (e.head = a.head) &&
       (!a.paired || (isV slot && decide (slot % 2 = 0) && e.paired && decide ((i.assignOf (slot + 1)).head = 0xFF))))

/-- How many slots of a kind are bound to a head. -/
def boundCount (i : Image) (h : Nat) (keep : Bool) : Nat :=
  ((List.range 96).filter (fun s => isK s = keep ∧ (i.assignOf s).head = h)).length

def assignsForm (p : List Byte) (i : Image) : Bool :=
  ((chunks 96 4 (sectionOf p 4)).zipIdx).all (fun x => assignForm i x.2 x.1) &&
  (List.range 16).all (fun h => decide (boundCount i h false ≤ 16) && decide (boundCount i h true ≤ 2))

/-- INGRESS (R76). -/
def ingressForm (p : List Byte) (i : Image) : Bool :=
  (chunks ((sectionOf p 5).length / 16) 16 (sectionOf p 5)).all (fun b =>
    let x := parseIngress b
    decide (x.stream ≤ 191) && decide (x.owner ≤ 5) && i.inMask x.channel && decide (8 ≤ x.ringLines) &&
    zeroBytes b 3 1 && zeroBytes b 0x0E 2) && noRepeats (i.ingress.map (·.stream))

/-- LANTERN (R77). -/
def lanternForm (p : List Byte) (i : Image) : Bool :=
  let x := parseLanterns 21 (sectionOf p 6)
  x.2 && noRepeats (x.1.map (·.1)) && x.1.all (fun e => decide (16 ≤ e.1) || i.hasHead e.1)

/-- The place of a certificate entry in the order of R78. -/
def CertEntry.order (e : CertEntry) : Nat := ((e.head * 256 + e.cls) * 256 + e.channel) * 256 + e.kind

/-- Whether a list of numbers rises strictly. -/
def rising : List Nat → Bool
  | a :: b :: t => decide (a < b) && rising (b :: t)
  | _ => true

/-- CERT's own shape (R78). -/
def certForm (p : List Byte) (i : Image) : Bool :=
  (List.range 4).all (fun m =>
    let c := i.certCounts.getD m []
    zeroBytes (sectionOf p 7) (16 * m + 12) 4 && (if i.inMask m then decide (c.sum = 1600) else c.all (fun x => x = 0))) &&
  zeroBytes (sectionOf p 7) 0x54 12 && i.certEntries.all (fun e => decide (e.demand ≠ 0)) && rising (i.certEntries.map (·.order))

/-- SIGNATURE's own shape (R79). -/
def signatureForm (p : List Byte) : Bool := decide ((dirOf p 8).2 = 0) || zeroBytes (sectionOf p 8) 1 15

/-- The rules judged in one section. -/
def sectionForm (p : List Byte) (i : Image) (k : Nat) : Bool :=
  directoryForm p k &&
  (match k with
   | 0 => headsForm p i
   | 1 => envsForm p i
   | 2 => classesForm p i
   | 3 => slotsForm i
   | 4 => assignsForm p i
   | 5 => ingressForm p i
   | 6 => lanternForm p i
   | 7 => certForm p i
   | 8 => signatureForm p
   | _ => true)

/-- Where check 8 first fails: 0xFF for the header, else the directory entry (R80). -/
def structureFailure (p : List Byte) (i : Image) : Option Nat :=
  if ¬ headerForm p then some 0xFF else (List.range 10).find? (fun k => !sectionForm p i k)

/-! ### The other checks of R80 -/

/-- What a load reports: CODE, HEAD, CLASS and CHANNEL of SB_STATUS (R80, R95). -/
structure LoadReport where
  code : Nat
  head : Nat := 0xFF
  cls : Nat := 0xFF
  channel : Option Nat := none
  deriving DecidableEq, Repr

/-- The signature of an image (R79, check 5). -/
def signatureOk (p : List Byte) : Bool :=
  let d := dirOf p 8
  let sg := sectionOf p 8
  let slot := leAt sg 0 1
  decide (d.2 = 80) && decide (d.1 + 80 ≤ p.length) && decide (slot ≤ 3) && Config.imageKeyValid slot &&
  ecdsaOk (Config.imageKey slot) (sha256 (p.take d.1)) (beNat (sliceBytes sg 16 32)) (beNat (sliceBytes sg 48 32))

/-- Check 6. A channel that start-up has excluded has no trained rate; check 7 judges it. -/
def incompatible (s : State) (p : List Byte) : Bool :=
  let rate := leAt p 0x12 2
  decide (leAt p 0 4 ≠ 0x4B564B53) || decide (leAt p 5 1 ≠ 1) || decide (leAt p 6 2 ≠ 0x7160) ||
  decide (leAt p 0x14 4 ≠ rate * 125) || decide (0x11 < leAt p 8 1) ||
  (maskChannels (leAt p 0x0A 1)).any (fun m => decide ((s.channel m).reason = 0) && decide ((s.channel m).rate < rate))

/-- Check 9: every lantern word decodes. -/
def lanternsOk (i : Image) : Bool :=
  i.lanterns.all (fun x =>
    (decodeFailure x.1 x.2.length (i.head x.1).raster.vTotal (i.head x.1).raster.hTotal x.2).isNone)

/-- The envelopes of a head in slot order. -/
def Image.headEnvs (i : Image) (h : Nat) : List Envelope :=
  (List.range 96).filterMap (fun slot => (i.envOf slot).bind (fun e => if e.head = h then some e else none))

/-- The K-slot envelopes in slot order; they bound the keep regions of an image (R194). -/
def Image.keepEnvs (i : Image) : List Envelope := (List.range 8).filterMap (fun k => i.envOf (88 + k))

/-- The classes of a head with their envelopes named by slot. -/
def Image.headClasses (i : Image) (h : Nat) : List (Nat × Nat × List Nat) :=
  (i.classesOf h).map (fun c => (c.first, c.last, (i.classEnvs c).map (·.slot)))

/-- The rules of R90 between a spire image and a sustained one. -/
def pairOk (spire sus : Image) : Bool :=
  !sus.clockSpire && decide (sus.imageId = spire.counterpart) && decide (sus.counterpart = spire.imageId) &&
  decide (sus.headMask = spire.headMask) && decide (sus.channelMask = spire.channelMask) &&
  decide (sus.dataRate = spire.dataRate) && decide (sus.keepEnvs = spire.keepEnvs) &&
  spire.headList.all (fun h =>
    decide ((sus.head h).elastic = (spire.head h).elastic) &&
    (if (spire.head h).elastic then
      decide ((sus.head h).raster.hActive = (spire.head h).raster.hActive) &&
      decide ((sus.head h).raster.vActive = (spire.head h).raster.vActive)
     else decide (sus.head h = spire.head h) && decide (sus.headEnvs h = spire.headEnvs h) &&
      decide (sus.headClasses h = spire.headClasses h))) &&
  handoverOk sus spire && handoverOk spire sus

/-- Check 10 (R90). -/
def counterpartOk (s : State) (i : Image) : Bool :=
  !i.clockSpire || (List.range 4).any (fun b =>
    (decide ((s.bank b).state = .resident) || decide ((s.bank b).state = .live)) &&
    (match (s.bank b).image with | some x => pairOk i x | none => false))

/-- A value as the certificate holds it. -/
def sat16 (n : Nat) : Nat := min n 65535

/-- The counts of a channel's table, in the certificate's order (R78). -/
def tableCounts (t : List Nat) : List Nat :=
  let n (f : Nat → Bool) : Nat := t.countP f
  [n (fun c => decide (0x10 ≤ c) && decide (c ≤ 0x1F)), n (fun c => decide (0x20 ≤ c) && decide (c ≤ 0x2F)),
   n (fun c => decide (0x30 ≤ c) && decide (c ≤ 0x3F)), n (fun c => decide (c = 1)), n (fun c => decide (c = 2)),
   n (fun c => decide (c = 0))]

/-- The demand entries the MC recomputes. -/
def Image.entries (i : Image) : List CertEntry :=
  (i.terms.filter (fun t => t.demand ≠ 0)).map (fun t =>
    { head := t.head, cls := t.cls, channel := t.channel, kind := t.kind, demand := sat16 t.demand, grant := sat16 t.grant })

/-- Check 11. -/
def certOk (i : Image) : Bool :=
  i.channelList.all (fun m => decide (i.certCounts.getD m [] = tableCounts (i.table m))) &&
  (List.range 4).all (fun c => decide (i.compLoad.getD c 0 = i.compLoadOfCluster c)) &&
  i.envs.all (fun e => decide (e.bursts = e.demand (i.head e.head).lead)) && decide (i.certEntries = i.entries)

/-- The longest run of slots without REFRESH. -/
def refreshGap (t : List Nat) : Nat :=
  (t.foldl (fun (x : Nat × Nat) c => if c = 1 then (0, x.2) else (x.1 + 1, max x.2 (x.1 + 1))) (0, 0)).2

/-- R72 on one channel. -/
def channelOk (i : Image) (m : Nat) : Bool :=
  let t := i.table m
  let c := tableCounts t
  let sched := c.getD 0 0 + c.getD 1 0 + c.getD 2 0
  decide (sched ≤ 1248) && decide (ceilDiv sched 8 ≤ c.getD 4 0) && decide (128 ≤ c.getD 3 0) &&
  decide (refreshGap (t ++ t) ≤ 16) &&
  t.all (fun x => !(decide (0x10 ≤ x) && decide (x ≤ 0x1F)) || i.hasHead (x - 0x10)) &&
  t.all (fun x => !(decide (0x30 ≤ x) && decide (x ≤ 0x3F)) || i.keepEnvs.any (fun e => e.head = x - 0x30))

/-- The limit of COMP_LOAD (R81). -/
def compLimit (i : Image) : Nat := if i.clockSpire then 40960 else 32768

/-- Check 12. -/
def capacityFailure (i : Image) : Option LoadReport :=
  match i.channelList.find? (fun m => !channelOk i m) with
  | some m => some { code := 0x29, channel := some m }
  | none =>
    match (List.range 4).find? (fun c => decide (compLimit i < i.compLoadOfCluster c)) with
    | some c => some { code := 0x29, head := 0xFE, cls := c }
    | none => none

/-- Check 13. -/
def coverageFailure (i : Image) : Option LoadReport :=
  match i.terms.find? (fun t => decide (t.grant < t.demand)) with
  | some t => some { code := 0x2A, head := t.head, cls := t.cls, channel := some t.channel }
  | none => none

/-- Checks 8 to 13 on a payload. -/
def judgeImage (s : State) (p : List Byte) (i : Image) : LoadReport :=
  match structureFailure p i with
  | some k => { code := 0x26, cls := k }
  | none =>
    if ¬ lanternsOk i then { code := 0x27 }
    else if ¬ counterpartOk s i then { code := 0x2B }
    else if ¬ certOk i then { code := 0x28 }
    else match capacityFailure i with
      | some r => r
      | none => match coverageFailure i with
        | some r => r
        | none => { code := 0 }

/-- A dictionary object's stored value as a number, or its default (R317). -/
def State.obj (s : State) (index sub dflt : Nat) : Nat :=
  match SMap.get s.dict.values (index * 256 + sub) [] with
  | [] => dflt
  | l => leNat l

/-- Checks 2 to 13 of R80 on a record, with what the image would be. -/
def judgeRecord (s : State) (len : Nat) (r : List Byte) : LoadReport × Option Image :=
  if len = 0 ∨ 2 ^ 24 < len then ({ code := 0x20 }, none)
  else
    match verifyRecord len 3 (some (s.obj 0x6001 0 0)) r with
    | .payloadMismatch => ({ code := 0x20 }, none)
    | .damaged _ => ({ code := 0x20 }, none)
    | .stale => ({ code := 0x21 }, none)
    | _ =>
      let p := recordPayload r
      let i := parseImage p (recordAlive r)
      if ¬ i.signed ∧ s.obj 0x6002 0 1 = 1 then ({ code := 0x22 }, none)
      else if i.signed ∧ ¬ signatureOk p then ({ code := 0x23 }, none)
      else if incompatible s p then ({ code := 0x24 }, none)
      else if (maskChannels (leAt p 0x0A 1)).any (fun m => decide ((s.channel m).reason ≠ 0)) then ({ code := 0x25 }, none)
      else
        let rep := judgeImage s p i
        (rep, if rep.code = 0 then some i else none)

/-- Whether a bank's image is the sustained counterpart of a spire image that some bank holds (check 1, R449). -/
def holdsCounterpart (s : State) (b : Nat) : Bool :=
  match (s.bank b).image with
  | none => false
  | some x => !x.clockSpire && (List.range 4).any (fun k => match (s.bank k).image with
    | some y => y.clockSpire && decide (y.counterpart = x.imageId) && decide (x.counterpart = y.imageId)
    | none => false)

/-- Check 1 (R80). -/
def bankBusy (s : State) (b : Nat) : Bool :=
  decide ((s.bank b).state = .live) || decide ((s.bank b).state = .switching) || holdsCounterpart s b

end Sys2Proof.Machine
end

