-- ==== Sys2Proof/Machine/Pixel.lean ====
section
/-! DEFINITION. The exact arithmetic of the pixel path on numbers: widening, conversion, LUTs, blending, dither (R163 to R182),
sampling, filtering and chroma upsampling (R146 to R151), and the decoding of TC tiles (R121 to R124). -/

namespace Sys2Proof.Machine

/-! ### Widening (R163 to R165) -/

/-- An n-bit component widened to 12 bits by repetition (R163). -/
def widen (n v : Nat) : Nat :=
  match n with
  | 1 => v * 4095
  | 2 => v * 1365
  | 4 => v * 273
  | 5 => v * 128 + v * 4 + v / 8
  | 6 => v * 64 + v
  | 8 => v * 16 + v / 16
  | 10 => v * 4 + v / 256
  | _ => v

/-- A binary16 value as a 12-bit code (R165): NaN gives 0, and the value is clamped to 0 to 1 and rounded exactly. -/
def widenHalf (h : Nat) : Nat :=
  let e := h / 1024 % 32
  let m := h % 1024
  if e = 31 ∧ m ≠ 0 then 0
  else if h / 32768 % 2 = 1 then 0
  else if 15 ≤ e then 4095
  else
    let v := if e = 0 then m * 2 else 1024 + m
    let x := if e = 0 then 1 else e
    let v := if e = 0 then m else v
    (v * 4095 * 2 + 2 ^ (25 - x)) / 2 ^ (26 - x)

/-! ### Conversion (R167, R168) -/

/-- A matrix with its offsets (R167). -/
structure Matrix where
  k : List Int
  pre : List Int
  post : List Int
  deriving DecidableEq, Repr

/-- One channel of a conversion. -/
def convertChannel (m : Matrix) (i : Nat) (p : Px) : Nat :=
  let d (j v : Nat) : Int := (m.k.getD (3 * i + j) 0) * ((v : Int) - m.pre.getD j 0)
  (clampInt 0 4095 ((d 0 p.c0 + d 1 p.c1 + d 2 p.c2 + 2048) / 4096 + m.post.getD i 0)).toNat

/-- The conversion of a pixel; alpha is never converted. -/
def convert (m : Matrix) (p : Px) : Px :=
  { c0 := convertChannel m 0 p, c1 := convertChannel m 1 p, c2 := convertChannel m 2 p, a := p.a }

/-- The presets (R168): PRE of Y, then KY, RCR, GCB, GCR, BCB. -/
def presetRow : Nat → Int × Int × Int × Int × Int × Int
  | 0 => (0, 4096, 5743, -1410, -2925, 7258)
  | 1 => (256, 4787, 6561, -1611, -3342, 8293)
  | 2 => (0, 4096, 6450, -767, -1917, 7601)
  | 4 => (0, 4096, 6040, -674, -2340, 7706)
  | 5 => (256, 4787, 6901, -770, -2674, 8805)
  | _ => (256, 4787, 7370, -877, -2191, 8684)

def preset (n : Nat) : Matrix :=
  match presetRow n with
  | (y, ky, rcr, gcb, gcr, bcb) =>
    { k := [ky, 0, rcr, ky, gcb, gcr, ky, bcb, 0], pre := [y, 2048, 2048], post := [0, 0, 0] }

/-! ### LUTs (R170) -/

/-- A 12-bit input mapped through a LUT of 1,024 entries. -/
def lutMap (e : Nat → Nat) (v : Nat) : Nat :=
  let i := v / 4
  let f := v % 4
  (e i * (4 - f) + e (min (i + 1) 1023) * f + 2) / 4

def lutPx (e : Nat → Nat) (p : Px) : Px := { p with c0 := lutMap e p.c0, c1 := lutMap e p.c1, c2 := lutMap e p.c2 }

/-! ### Blending (R172 to R174) -/

/-- The product of two 12-bit fractions (R172). -/
def mulFrac (x y : Nat) : Nat := (x * y + 2048 + (x * y + 2048) / 4096) / 4096

/-- ALPHA_MODE: 0 NONE, 1 STRAIGHT, 2 PREMULT. What a layer pixel contributes: a' and C' (R173). -/
def contribution (mode l : Nat) (p : Px) : Px :=
  match mode with
  | 0 => { c0 := mulFrac p.c0 l, c1 := mulFrac p.c1 l, c2 := mulFrac p.c2 l, a := l }
  | 1 => let a := mulFrac p.a l
         { c0 := mulFrac p.c0 a, c1 := mulFrac p.c1 a, c2 := mulFrac p.c2 a, a := a }
  | _ => { c0 := mulFrac p.c0 l, c1 := mulFrac p.c1 l, c2 := mulFrac p.c2 l, a := mulFrac p.a l }

/-- One layer composed over what lies beneath (R174). -/
def blendOver (c d : Px) : Px :=
  { c0 := min (c.c0 + mulFrac d.c0 (4095 - c.a)) 4095
    c1 := min (c.c1 + mulFrac d.c1 (4095 - c.a)) 4095
    c2 := min (c.c2 + mulFrac d.c2 (4095 - c.a)) 4095
    a := 4095 }

/-! ### Dither (R181, R182) -/

/-- The dither matrix. -/
def ditherMatrix : List Nat := [0, 8, 2, 10, 12, 4, 14, 6, 3, 11, 1, 9, 15, 7, 13, 5]

/-- One channel dithered: mode 0 NONE, 1 ORDERED, 2 TEMPORAL4; `b` is the depth, `phi` the frame phase. -/
def dither (mode b x y phi v : Nat) : Nat :=
  let sh := 12 - b
  let d0 := ditherMatrix.getD (y % 4 * 4 + x % 4) 0
  let d := if mode = 2 then (d0 + 4 * phi) % 16 else d0
  if mode = 0 then v / 2 ^ sh else min ((v + d * 2 ^ sh / 16) / 2 ^ sh) (2 ^ b - 1)

/-- A post-dither pixel as it is kept: 10 bits per channel field, the b-bit values right-aligned in them. -/
def packPx (r g b : Nat) : Word := put r 20 ||| put g 10 ||| put b 0

/-! ### Sampling and filtering (R149 to R151) -/

/-- The initial position: 0x8000_0000 selects AUTO (R149). -/
def initPos (init ratio : Word) : Int :=
  if init = 0x80000000#32 then ((ratio.toNat : Int) - 0x1000000) / 2 else signed 32 init.toNat

/-- Source index and phase of destination index j (R149). -/
def samplePos (init ratio : Word) (j : Nat) : Int × Nat :=
  let q := initPos init ratio + (j : Int) * ratio.toNat + 2 ^ 17
  (q / 2 ^ 24, (q % 2 ^ 24).toNat / 2 ^ 18)

/-- The source index of tap k of `taps` among n source positions (R149). -/
def tapIndex (i : Int) (taps n k : Nat) : Nat :=
  (clampInt 0 ((n : Int) - 1) (i - (taps - 1) / 2 + k)).toNat

/-- A coefficient: selection 0 LOADED, 1 LINEAR, 2 NEAREST (R151). -/
def coefficient (sel taps phi k : Nat) (loaded : Nat → Nat → Int) : Int :=
  let k0 := (taps - 1) / 2
  match sel with
  | 0 => loaded phi k
  | 1 => if k = k0 then 4096 - 64 * phi else if k = k0 + 1 then 64 * phi else 0
  | _ => if phi < 32 then (if k = k0 then 4096 else 0) else (if k = k0 + 1 then 4096 else 0)

/-- A sum of products rounded and clamped (R150). -/
def filterOut (acc : Int) : Nat := (clampInt 0 4095 ((acc + 2048) / 4096)).toNat

/-- One stage for one position: coefficients against pixels, every channel alike (R150). -/
def filterPx (cs : List Int) (ps : List Px) : Px :=
  let sum (f : Px → Nat) : Int := (List.zipWith (fun c p => c * (f p : Int)) cs ps).foldl (· + ·) 0
  { c0 := filterOut (sum (·.c0)), c1 := filterOut (sum (·.c1)), c2 := filterOut (sum (·.c2)), a := filterOut (sum (·.a)) }

/-! ### Chroma upsampling (R147, R148) -/

/-- A chroma value at luma position x from samples by index, with nearest-sample replacement outside 0 to n − 1. -/
def chromaAt (interstitial : Bool) (n : Nat) (c : Nat → Nat) (x : Nat) : Nat :=
  let m := x / 2
  let v (i : Int) : Nat := c (clampInt 0 ((n : Int) - 1) i).toNat
  if interstitial then
    if x % 2 = 0 then (v ((m : Int) - 1) + 3 * v m + 2) / 4 else (3 * v m + v ((m : Int) + 1) + 2) / 4
  else if x % 2 = 0 then v m else (v m + v ((m : Int) + 1) + 1) / 2

/-- The chroma line delivered with luma line y (R148). -/
def chromaLineOf (last y : Nat) : Nat := min ((y + 1) / 2) last

/-- The chroma line used where R147 asks for line `want` at luma line y: it, if it is the line delivered now or the line held
from the previously fetched luma line, else the line delivered now (R148). -/
def chromaLineFor (last y : Nat) (prev : Option Nat) (want : Nat) : Nat :=
  let now := chromaLineOf last y
  if want = now then now
  else match prev with
    | some p => if want = chromaLineOf last p then want else now
    | none => now

/-! ### TC tiles (R121 to R124) -/

/-- A value of `w` bits at bit `pos` of a byte string, bit 0 of each byte first. -/
def bitsAt (l : List Byte) (pos w : Nat) : Nat :=
  (List.range w).foldl (fun acc i =>
    acc + (if (l.getD ((pos + i) / 8) 0).getLsbD ((pos + i) % 8) then 2 ^ i else 0)) 0

/-- The payload slot size z and the largest LEN of a TC format (R121, R122). -/
def tcSlot (nv12 : Bool) : Nat := if nv12 then 128 else 256
def tcMaxLen (nv12 : Bool) : Nat := if nv12 then 2 else 4

/-- The coded length L of a payload (R123). -/
def tcCodedLen (nv12 : Bool) (pay : List Byte) : Nat :=
  if nv12 then 4 + 8 * ((pay.getD 3 0).toNat % 16) + 4 * ((pay.getD 3 0).toNat / 16)
  else 6 + 8 * ((pay.getD 4 0).toNat % 16 + (pay.getD 4 0).toNat / 16 + (pay.getD 5 0).toNat % 16 + (pay.getD 5 0).toNat / 16)

/-- The decoded components of pixel i of a TC-ARGB8888 tile, B, G, R, A; none where a value exceeds 255 (R123, R124). -/
def tcArgbPixel (raw : Bool) (pay : List Byte) (i : Nat) : List Nat :=
  if raw then (List.range 4).map (fun c => (pay.getD (4 * i + c) 0).toNat)
  else
    let w : List Nat := [(pay.getD 4 0).toNat % 16, (pay.getD 4 0).toNat / 16, (pay.getD 5 0).toNat % 16, (pay.getD 5 0).toNat / 16]
    let per := w.foldl (· + ·) 0
    (List.range 4).map (fun c =>
      (pay.getD c 0).toNat + bitsAt pay (48 + i * per + (w.take c).foldl (· + ·) 0) (w.getD c 0))

/-- The decoded luma sample i, 0 to 63, of a TC-NV12 tile. -/
def tcLuma (raw : Bool) (pay : List Byte) (i : Nat) : Nat :=
  if raw then (pay.getD i 0).toNat
  else (pay.getD 0 0).toNat + bitsAt pay (32 + i * ((pay.getD 3 0).toNat % 16)) ((pay.getD 3 0).toNat % 16)

/-- The decoded chroma pair i, 0 to 15, of a TC-NV12 tile: Cb for c = 0, Cr for c = 1. -/
def tcChroma (raw : Bool) (pay : List Byte) (i c : Nat) : Nat :=
  if raw then (pay.getD (64 + 2 * i + c) 0).toNat
  else
    let wy := (pay.getD 3 0).toNat % 16
    let wc := (pay.getD 3 0).toNat / 16
    (pay.getD (1 + c) 0).toNat + bitsAt pay (32 + 64 * wy + (2 * i + c) * wc) wc

/-- Whether the must-be-0 bits or LEN make a tile malformed (R122, R124). -/
def tcBadHeader (nv12 : Bool) (hdr : List Byte) : Bool :=
  let b0 := (hdr.getD 0 0).toNat
  decide (b0 / 16 ≠ 0) || !((hdr.drop 1).take 3).all (fun b => b = 0) || decide (tcMaxLen nv12 < b0 % 8) ||
  (decide (b0 % 8 ≠ 0) && !((hdr.drop 4).take 4).all (fun b => b = 0)) ||
  (decide (b0 % 8 = 0) && nv12 && decide (hdr.getD 7 0 ≠ 0))

/-- Whether a tile is malformed (R124): its header, its LEN, its widths and every decoded value. -/
def tcMalformed (nv12 : Bool) (hdr pay : List Byte) : Bool :=
  let b0 := (hdr.getD 0 0).toNat
  let len := b0 % 8
  let raw := decide (b0 / 8 % 2 = 1)
  let ws : List Nat := if nv12 then [(pay.getD 3 0).toNat % 16, (pay.getD 3 0).toNat / 16]
    else [(pay.getD 4 0).toNat % 16, (pay.getD 4 0).toNat / 16, (pay.getD 5 0).toNat % 16, (pay.getD 5 0).toNat / 16]
  tcBadHeader nv12 hdr || (raw && decide (len ≠ tcMaxLen nv12)) ||
  (!raw && decide (len ≠ 0) &&
    (ws.any (fun w => decide (8 < w)) || decide (len ≠ ceilDiv (tcCodedLen nv12 pay) 64) ||
     (if nv12 then (List.range 64).any (fun i => decide (255 < tcLuma false pay i)) ||
        (List.range 16).any (fun i => decide (255 < tcChroma false pay i 0) || decide (255 < tcChroma false pay i 1))
      else (List.range 64).any (fun i => (tcArgbPixel false pay i).any (fun v => decide (255 < v))))))

end Sys2Proof.Machine
end

