-- ==== Sys2Proof/Machine/Surface.lean ====
section
/-! DEFINITION. Surface formats and where their bytes lie (R118 to R121), the alignment rules (R126), and a layer slot's
latched state as one record. -/

namespace Sys2Proof.Machine

/-! ### Formats -/

/-- The format class of a code; none for an undefined code (R118). -/
def fmtClass (c : Nat) : Option Nat :=
  match c with
  | 0x01 | 0x02 | 0x03 | 0x04 => some 0
  | 0x08 | 0x09 | 0x0A => some 1
  | 0x10 => some 2
  | 0x18 | 0x19 => some 3
  | 0x20 => some 4
  | 0x28 | 0x29 => some 5
  | 0x30 => some 6
  | 0x38 | 0x39 => some 7
  | 0x40 => some 8
  | _ => none

/-- Tile-compressed formats. -/
def isTc (c : Nat) : Bool := decide (c = 0x20) || decide (c = 0x40)

/-- Semi-planar formats. -/
def isSemi (c : Nat) : Bool := decide (c = 0x28) || decide (c = 0x29) || decide (c = 0x30)

/-- 4:2:2 packed formats. -/
def isPacked422 (c : Nat) : Bool := decide (c = 0x38) || decide (c = 0x39)

/-- Bytes of one pixel in plane 0 of a linear format. -/
def bytesPerPixel (c : Nat) : Nat :=
  match c with
  | 0x01 | 0x02 | 0x03 | 0x04 => 4
  | 0x10 => 8
  | 0x18 | 0x19 | 0x28 | 0x29 => 1
  | _ => 2

/-- Bytes of plane 0 that w pixels take. -/
def plane0Bytes (c w : Nat) : Nat := w * bytesPerPixel c

/-- The payload slot z of a TC format (R121). -/
def tcZ (c : Nat) : Nat := tcSlot (decide (c = 0x40))

/-- BPL(w) (R118, R120). -/
def bytesPerLine (c w lead : Nat) : Nat :=
  if isTc c then ceilDiv (ceilDiv w 16 * (tcZ c + 8)) (min 4 (lead + 1))
  else if isSemi c then 2 * plane0Bytes c w
  else plane0Bytes c w

/-! ### A layer's latched state -/

/-- The latched state of a layer slot as one record. -/
structure LayerView where
  slot : Nat
  bind : Bool
  head : Nat
  z : Nat
  layerAlpha : Nat
  alphaMode : Nat
  nrPolicy : Nat
  latest : Bool
  fmt : Nat
  pitch : Nat
  plane1 : Nat
  base : Nat
  sx : Nat
  sy : Nat
  sw : Nat
  sh : Nat
  dx : Nat
  dy : Nat
  dw : Nat
  dh : Nat
  stale : Nat
  ctx : Nat
  deriving DecidableEq, Repr

/-- BIND of a slot. -/
def isBound (s : State) (slot : Nat) : Bool := bit (s.reg (rg .faCtrl slot)) 0

/-- The head a slot names, whatever BIND is (R277). -/
def slotHead (s : State) (slot : Nat) : Nat := fld (s.reg (rg .faCtrl slot)) 24 4

/-- The latched state of a slot. -/
def layerView (s : State) (slot : Nat) : LayerView :=
  let c := s.reg (rg .faCtrl slot)
  let sp := s.reg (rg .faSrcPos slot)
  let ss := s.reg (rg .faSrcSize slot)
  let dp := s.reg (rg .faDstPos slot)
  let ds := s.reg (rg .faDstSize slot)
  let m := s.reg (rg .faMisc slot)
  { slot := slot, bind := bit c 0, head := fld c 24 4, z := fld c 16 4, layerAlpha := fld c 8 8,
    alphaMode := fld c 6 2, nrPolicy := fld c 4 2, latest := bit c 3,
    fmt := fld (s.reg (rg .faFormat slot)) 0 8, pitch := fld (s.reg (rg .faPitch slot)) 0 24,
    plane1 := (s.reg (rg .faPlane1 slot)).toNat,
    base := (s.reg (rg .faBaseLo slot)).toNat + fld (s.reg (rg .faBaseHi slot)) 0 10 * 2 ^ 32,
    sx := fld sp 0 16, sy := fld sp 16 16, sw := fld ss 0 16, sh := fld ss 16 16,
    dx := fld dp 0 16, dy := fld dp 16 16, dw := fld ds 0 16, dh := fld ds 16 16,
    stale := fld m 8 8, ctx := if isK slot then 63 else fld m 0 6 }

/-- A bound layer that R85 does not disable. -/
def LayerView.enabled (v : LayerView) : Bool := v.bind && decide (v.dw ≠ 0) && decide (v.dh ≠ 0)

/-- The layer with the address and offset of another buffer (R133, R134). -/
def LayerView.withBuffer (v : LayerView) (base plane1 : Nat) : LayerView := { v with base := base, plane1 := plane1 }

/-! ### Addresses (R119, R121) -/

/-- The byte that begins pixel (x, y) in plane 0 of a linear surface; the header byte of its tile in a TC one. -/
def LayerView.pixelVa (v : LayerView) (x y : Nat) : Nat :=
  if isTc v.fmt then v.base + (y / 4 * (v.pitch / tcZ v.fmt) + x / 16) * 8
  else v.base + y * v.pitch + (if isPacked422 v.fmt then x / 2 * 4 else x * bytesPerPixel v.fmt)

/-- Bytes of a chroma pair of a semi-planar format. -/
def chromaBytes (c : Nat) : Nat := if c = 0x30 then 4 else 2

/-- The chroma pair of pixel (x, y) in plane 1 of a semi-planar surface. -/
def LayerView.chromaVa (v : LayerView) (x y : Nat) : Nat :=
  v.base + v.plane1 + y / 2 * v.pitch + x / 2 * chromaBytes v.fmt

/-- The payload slot of the tile that holds pixel (x, y). -/
def LayerView.payloadVa (v : LayerView) (x y : Nat) : Nat :=
  v.base + v.plane1 + y / 4 * v.pitch + x / 16 * tcZ v.fmt

/-- The first byte of the first line of the source rectangle. -/
def LayerView.firstVa (v : LayerView) : Nat := v.pixelVa v.sx v.sy

/-- The last byte of the last fetched line of the last plane (R119). -/
def LayerView.lastVa (v : LayerView) : Nat :=
  let x := v.sx + v.sw - 1
  let y := v.sy + v.sh - 1
  if isTc v.fmt then v.payloadVa x y + tcZ v.fmt - 1
  else if isSemi v.fmt then v.chromaVa x y + chromaBytes v.fmt - 1
  else if isPacked422 v.fmt then v.pixelVa x y + 3
  else v.pixelVa x y + bytesPerPixel v.fmt - 1

/-- Bytes from BASE to the end of the fetched buffer: what a pin covers (R106). -/
def LayerView.extent (v : LayerView) : Nat := v.lastVa + 1 - v.base

/-! ### Alignment and pitch (R126) -/

/-- The rules of R126 that a buffer of a defined format obeys. -/
def alignedFor (cls : Nat) (v : LayerView) : Bool :=
  (if isTc v.fmt then
    decide (v.base % 4096 = 0) && decide (ceilDiv (v.sx + v.sw) 16 * tcZ v.fmt ≤ v.pitch) &&
    decide (v.plane1 % 4096 = 0) && decide (ceilDiv (v.sy + v.sh) 4 * (v.pitch / tcZ v.fmt) * 8 ≤ v.plane1)
   else decide (plane0Bytes v.fmt (v.sx + v.sw) ≤ v.pitch)) &&
  (!isSemi v.fmt || (decide (v.plane1 % 256 = 0) && decide (v.pitch * (v.sy + v.sh) ≤ v.plane1))) &&
  (!(decide (5 ≤ cls)) || (decide (v.sx % 2 = 0) && decide (v.sw % 2 = 0))) &&
  (!isTc v.fmt || (decide (v.sx % 16 = 0) && decide (v.sy % 4 = 0))) &&
  (!(decide (5 ≤ cls) && decide (cls ≠ 7)) || (decide (v.sy % 2 = 0) && decide (v.sh % 2 = 0)))

/-- R126. The rules that name a format's bytes judge a defined format only; an undefined one fails check 4 (R118). -/
def LayerView.aligned (v : LayerView) : Bool :=
  decide (v.base % 256 = 0) && decide (v.pitch % 256 = 0) && decide (256 ≤ v.pitch) && decide (v.pitch ≤ 16776960) &&
  (match fmtClass v.fmt with
   | some c => alignedFor c v
   | none => true)

/-! ### Rings of ingress streams as buffers (R241, R246) -/

/-- The applied ring of a stream: context, base, pitch, lines per bank, lines. -/
structure Ring where
  ctx : Nat
  base : Nat
  pitch : Nat
  bankLines : Nat
  lines : Nat
  deriving DecidableEq, Repr

def ringOf (s : State) (i : Nat) : Ring :=
  let g := s.reg (rg .siRingGeom i)
  { ctx := fld (s.reg (rg .siRingCtx i)) 0 6
    base := (s.reg (rg .siRingBaseLo i)).toNat + fld (s.reg (rg .siRingBaseHi i)) 0 10 * 2 ^ 32
    pitch := fld (s.reg (rg .siRingPitch i)) 0 24
    bankLines := fld g 0 16
    lines := fld g 16 16 }

/-- The layer as checks 3 and 4 see it when it is beam-raced: bank 0 of the applied ring (R246). -/
def LayerView.overRing (v : LayerView) (r : Ring) : LayerView :=
  { v with base := r.base, pitch := r.pitch, plane1 := 0, ctx := r.ctx }

end Sys2Proof.Machine
end

