-- ==== Sys2Proof/Machine/Verify.lean ====
section
/-! DEFINITION. What the watch stations verify at an application: the checks of R84 in order, with R37, R40, R42, R51, R126, R146,
R153, R156, R193, R209, R257 to R262, R418 and R420; and the checks of a bank switch (R88). -/

namespace Sys2Proof.Machine

/-- A judgement: the state before and after the item, what it writes, the heads it affects and the image to judge by. -/
structure Judge where
  before : State
  after : State
  writes : List Wr
  heads : List Nat
  /-- The image in force on a head. -/
  image : Nat → Option Image

/-- The perf-block numbers of the stations that fail a check (R16). -/
abbrev Fails := List Nat

def failIf (b : Bool) (station : Nat) : Fails := if b then [station] else []

/-- Whether the item writes a register that satisfies a test. -/
def Judge.touches (j : Judge) (p : RegId → Bool) : Bool :=
  j.writes.any (fun w => match regAt w.addr with | some r => p r | none => false)

/-- The registers that the item writes. -/
def Judge.regs (j : Judge) : List RegId := j.writes.filterMap (fun w => regAt w.addr)

/-- The enabled layers of the affected heads, as the item leaves them. -/
def Judge.layers (j : Judge) : List LayerView :=
  (List.range 96).filterMap (fun slot =>
    if isBound j.after slot && j.heads.contains (slotHead j.after slot) then
      let v := layerView j.after slot
      if v.enabled then some v else none
    else none)

/-- The unbound slots that name an affected head and have a destination: the limits that need no envelope hold for them too (DEDUCED, log
entry 64). -/
def Judge.spare (j : Judge) : List LayerView :=
  (List.range 96).filterMap (fun slot =>
    if !isBound j.after slot && j.heads.contains (slotHead j.after slot) then
      let v := layerView j.after slot
      if v.dw ≠ 0 ∧ v.dh ≠ 0 then some v else none
    else none)

/-- The envelope of a layer in the image of its head. -/
def Judge.env (j : Judge) (v : LayerView) : Option Envelope := (j.image v.head).bind (fun i => i.envOf v.slot)

/-- The HEADS entry of a head in the image in force on it. -/
def Judge.entry (j : Judge) (n : Nat) : Option HeadEntry :=
  (j.image n).bind (fun i => if i.hasHead n then some (i.head n) else none)

/-! ### Check 2, heads (R37, R40, R42, R49, R51) -/

/-- Whether a head's timing group will have been applied (R41). -/
def Judge.timed (j : Judge) (n : Nat) : Bool :=
  (j.after.head n).timingApplied || j.touches (fun r => decide (r = rg .dhPairDiv n))

/-- The residual of a follower under a leader's period (R51). -/
def residualOk (period follower : Nat) : Bool := decide (follower ≤ period) && decide (period ≤ follower + 1023)

/-- The residuals that a raster of head n leaves (R51): its own under its group's leader, and those of the running followers of each
group that it leads. A group without a frame period asks nothing (R49). -/
def Judge.residualsOk (j : Judge) (n : Nat) : Bool :=
  let s := j.after
  let f := (appliedRaster s n).period
  let lead := namedLeader s (groupOf s n - 1)
  (decide (groupOf s n = 0) || decide (lead = n) || !j.timed lead || residualOk (appliedRaster s lead).period f) &&
  ((List.range 4).filter (fun g => namedLeader s g = n)).all (fun g =>
    (members s g).all (fun m => decide (m = n) || !isRunning s m || residualOk f (appliedRaster s m).period))

/-- A written timing group (R37, R40, R51). -/
def Judge.rasterOk (j : Judge) (n : Nat) : Bool :=
  let r := appliedRaster j.after n
  r.legal && (match j.entry n with | some e => decide (r = e.raster) | none => true) && j.residualsOk n

/-- The latch line that a raster and LATCH_LINE select (R42). -/
def Judge.latchOk (j : Judge) (n : Nat) : Bool :=
  latchLineOk (appliedRaster j.after n) (fld (j.after.reg (rg .dhLatchLine n)) 0 16) (match j.entry n with | some e => e.lead | none => 1)

/-- A written PG_OFFSET: below the period of the group that the head follows in (R49, R61). -/
def Judge.offsetOk (j : Judge) (n : Nat) : Bool :=
  let lead := namedLeader j.after (groupOf j.after n - 1)
  decide (groupOf j.after n = 0) || decide (lead = n) || !j.timed lead ||
  decide ((j.after.reg (rg .dhPgOffset n)).toNat < (appliedRaster j.after lead).period)

/-- A written PG[g].CTRL (R49, R62). -/
def Judge.pgCtrlOk (j : Judge) (g : Nat) : Bool :=
  let c := j.after.reg (rg .btPgCtrl g)
  decide (fld c 16 8 ≤ 191) && decide (fld c 0 3 ≤ 4) && (decide (fld c 0 3 ≠ 4) || decide (j.after.casc.role = 2)) &&
  j.timed (fld c 8 4)

def Judge.headFails (j : Judge) : Fails :=
  j.heads.flatMap (fun n =>
    let raster := j.touches (fun r => decide (r = rg .dhPairDiv n))
    let latch := j.touches (fun r => decide (r = rg .dhLatchLine n))
    failIf (raster && !j.rasterOk n) 8 ++ failIf ((raster || latch) && !j.latchOk n) 8 ++
    failIf (j.touches (fun r => decide (r = rg .dhPgOffset n)) && !j.offsetOk n) 8) ++
  j.regs.flatMap (fun r => match r.name with
    | .btPgCtrl => failIf (!j.pgCtrlOk r.i) 10
    | _ => [])

/-! ### Check 2, egress ports (R257 to R262) -/

/-- Bits per component that a BPC or DEPTH code gives. -/
def depthOf (c : Nat) : Nat := match c with | 0 => 6 | 1 => 8 | _ => 10

/-- The depth of a head (R182). -/
def headDepth (s : State) (n : Nat) : Nat := depthOf (fld (s.reg (rg .cpHctrl n)) 10 2)

/-- An egress port's ECTRL, taken apart. -/
def portEnabled (s : State) (e : Nat) : Bool := bit (s.reg (rg .epEctrl e)) 31
def portHead (s : State) (e : Nat) : Nat := fld (s.reg (rg .epEctrl e)) 0 4
def portBpc (s : State) (e : Nat) : Nat := depthOf (fld (s.reg (rg .epEctrl e)) 10 2)

/-- MODE of a quad: 0 DP, 1 APHY, 2 ASAML. -/
def quadMode (s : State) (q : Nat) : Nat := fld (s.reg (rg .oqQctrl q)) 24 2

/-- The ports of a quad that are enabled. -/
def quadPorts (s : State) (q : Nat) : List Nat := ((List.range 8).map (fun k => 8 * q + k)).filter (portEnabled s)

/-- The transmit port of an egress port (R257). -/
def txOf (s : State) (e : Nat) : Nat := if quadMode s (e / 8) = 0 then 0 else e % 8 / 2

/-- Whether the quad's encoder compresses a port (R262). -/
def compressed (s : State) (e : Nat) : Bool :=
  let d := s.reg (rg .oqDsc (e / 8))
  bit d 31 && decide (fld d 0 6 = e)

/-- Bits per pixel of a port's stream, in sixteenths (R261). -/
def streamBits (s : State) (e : Nat) : Nat :=
  if compressed s e then fld (s.reg (rg .oqDsc (e / 8))) 8 8 + 64 else 48 * portBpc s e

/-- The rate code of a transmit port: trained while UP, else requested (R261). -/
def rateCode (s : State) (q t : Nat) : Nat :=
  if (s.txPort q t).state = .up then (s.txPort q t).rate else fld (s.reg (rg .oqQctrl q)) 16 5

/-- The rate of a code in tenths of Gb/s (R269). -/
def rateOf (mode code : Nat) : Nat :=
  if mode = 0 then (match code with | 0 => 100 | 1 => 135 | _ => 200)
  else (match code with | 1 => 20 | 2 => 40 | 3 => 80 | 4 => 120 | 5 => 160 | _ => 20)

/-- Lanes of a DP link. -/
def lanesOf (s : State) (q : Nat) : Nat := match fld (s.reg (rg .oqQctrl q)) 6 2 with | 0 => 1 | 1 => 2 | _ => 4

/-- The capacity of a transmit port in bits per second (R261). -/
def capacity (s : State) (q t : Nat) : Nat :=
  if quadMode s q = 0 then 94 * lanesOf s q * rateOf 0 (rateCode s q 0) * 1000000
  else 88 * rateOf (quadMode s q) (rateCode s q t) * 1000000

/-- A stream rate as an exact fraction (R261); a head with no raster sends nothing. -/
def streamRate (s : State) (e : Nat) : Nat × Nat :=
  let d := (appliedRaster s (portHead s e)).pairDiv.toNat
  if d = 0 then (0, 1) else (3200000000 * 2 ^ 24 * streamBits s e, 16 * d)

/-- S of a DP stream (R261). -/
def timeSlots (s : State) (e : Nat) : Nat :=
  let r := streamRate s e
  ceilDiv (64 * r.1) (r.2 * capacity s (e / 8) 0)

/-- A sum of fractions. -/
def addFrac (a b : Nat × Nat) : Nat × Nat := (a.1 * b.2 + b.1 * a.2, a.2 * b.2)

/-- Whether the streams of a transmit port fit its link (R261). -/
def linkFits (s : State) (q t : Nat) : Bool :=
  if quadMode s q = 0 then decide (((quadPorts s q).map (timeSlots s)).sum ≤ 64)
  else
    let f := (((quadPorts s q).filter (fun e => txOf s e = t)).map (streamRate s)).foldl addFrac (0, 1)
    decide (f.1 ≤ f.2 * capacity s q t)

/-- Whether the streams of a quad fit its links (R261). -/
def bandwidthOk (s : State) (q : Nat) : Bool := (List.range 4).all (linkFits s q)

/-- The slots that a port is allocated (R261): none outside DP mode, or where the streams do not fit. -/
def slotsOf (s : State) (e : Nat) : Nat :=
  if portEnabled s e ∧ quadMode s (e / 8) = 0 ∧ linkFits s (e / 8) 0 then timeSlots s e else 0

/-- Slices of a DSC code. -/
def slicesOf (d : Word) : Nat := 2 ^ fld d 24 4

/-- R262 for a quad whose encoder is enabled. -/
def dscOk (s : State) (q : Nat) : Bool :=
  let d := s.reg (rg .oqDsc q)
  let e := fld d 0 6
  let r := appliedRaster s (portHead s e)
  let bpp := fld d 8 8 + 64
  let w := r.hActive / slicesOf d
  decide (8 ≤ portBpc s e) && decide (128 ≤ bpp) && decide (bpp ≤ 192) &&
  decide (w * slicesOf d = r.hActive) && decide (w % 2 = 0) && decide (w ≤ 2560) &&
  decide (8 ≤ fld d 16 8) && decide (fld d 16 8 ≤ 128) && decide (r.vActive % fld d 16 8 = 0)

/-- The form of a written DSC register, whatever ENABLE is (R269). -/
def dscForm (s : State) (q : Nat) : Bool :=
  let d := s.reg (rg .oqDsc q)
  decide (fld d 0 6 / 8 = q) && decide (fld d 24 4 ≤ 3)

/-- The picture parameter set of the port that a quad compresses (R262). -/
def ppsOf (s : State) (q : Nat) : List Nat :=
  let d := s.reg (rg .oqDsc q)
  let e := fld d 0 6
  let r := appliedRaster s (portHead s e)
  if bit d 31 ∧ portEnabled s e ∧ e / 8 = q then
    [e, slicesOf d, fld d 16 8, fld d 8 8 + 64, portBpc s e, r.hActive, r.vActive]
  else []

/-- Whether a port's slot is one its mode uses (R257). -/
def portSlotOk (s : State) (e : Nat) : Bool := decide (quadMode s (e / 8) ≠ 0) || decide (e % 8 < 4)

/-- The enabled ports that carry a head. -/
def portsOfHead (s : State) (n : Nat) : List Nat := (List.range 64).filter (fun e => portEnabled s e && decide (portHead s e = n))

/-- Quads that carry an affected head, or that the item writes. -/
def Judge.quads (j : Judge) : List Nat :=
  (List.range 8).filter (fun q => (quadPorts j.after q).any (fun e => j.heads.contains (portHead j.after e)) ||
    j.touches (fun r => (decide (r.name = .epEctrl) && decide (r.i / 8 = q)) || decide (r = rg .oqDsc q)))

def Judge.portFails (j : Judge) : Fails :=
  let s := j.after
  j.heads.flatMap (fun n =>
    let ps := portsOfHead s n
    failIf (decide (4 < ps.length)) 9 ++ failIf (ps.any (fun e => !portSlotOk s e)) 9 ++
    failIf (ps.any (fun e => decide (portBpc s e < headDepth s n))) 7) ++
  j.quads.flatMap (fun q =>
    failIf (!bandwidthOk s q) 9 ++
    failIf (bit (s.reg (rg .oqDsc q)) 31 && j.heads.contains (portHead s (fld (s.reg (rg .oqDsc q)) 0 6)) && !dscOk s q) 9) ++
  j.regs.flatMap (fun r => match r.name with
    | .oqDsc => failIf (!dscForm s r.i) 9
    | _ => [])

/-! ### Check 2, cascade (R418, R420) -/

/-- The enabled SEND entries. -/
def sends (s : State) : List Word := ((List.range 8).map (fun c => s.reg (rg .caSend c))).filter (fun w => bit w 31)

/-- The bit rate of a SEND entry as an exact fraction (R418): the active pixels of a frame over its period. -/
def sendRate (s : State) (w : Word) : Nat × Nat :=
  let r := appliedRaster s (fld w 0 4)
  if r.period = 0 then (0, 1) else (r.hActive * r.vActive * 1600000000 * (if bit w 30 then 24 else 30), r.period)

/-- R418: the role is not none, no channel repeats, and each port's streams fit. -/
def sendsOk (s : State) : Bool :=
  decide (s.casc.role ≠ 0) && noRepeats ((sends s).map (fun w => fld w 16 8)) &&
   [false, true].all (fun dir =>
    let f := (((sends s).filter (fun w => bit w 29 = dir)).map (sendRate s)).foldl addFrac (0, 1)
    decide (f.1 ≤ f.2 * 115200000000))

/-- A segment's columns and head. -/
structure Seg where
  k : Nat
  enabled : Bool
  head : Nat
  channel : Nat
  x0 : Nat
  x1 : Nat
  deriving DecidableEq, Repr

def segOf (s : State) (k : Nat) : Seg :=
  let c := s.reg (rg .caSegCtrl k)
  let w := s.reg (rg .caSegCols k)
  { k := k, enabled := bit c 31, head := fld c 24 4, channel := fld c 16 8, x0 := fld w 0 16, x1 := fld w 16 16 }

def segsOf (s : State) (n : Nat) : List Seg :=
  ((List.range 4).map (segOf s)).filter (fun g => g.enabled && decide (g.head = n))

/-- Whether two column ranges meet. -/
def colsMeet (a0 a1 b0 b1 : Nat) : Bool := decide (a0 < b1) && decide (b0 < a1)

/-- R420 for the enabled segments of a head. -/
def segsOk (s : State) (n : Nat) : Bool :=
  let l := segsOf s n
  l.all (fun g => decide (g.x0 % 2 = 0) && decide (g.x1 % 2 = 0) && decide (g.x0 < g.x1) &&
    decide (g.x1 ≤ (appliedRaster s n).hActive) &&
    l.all (fun h => decide (h.k = g.k) || !colsMeet g.x0 g.x1 h.x0 h.x1))

def Judge.cascadeFails (j : Judge) : Fails :=
  failIf (j.touches (fun r => decide (r.name = .caSend)) && !sendsOk j.after) 10 ++
  j.heads.flatMap (fun n => failIf (!segsOk j.after n) 10)

/-! ### Check 2, layers -/

def Judge.bindFails (j : Judge) : Fails :=
  failIf (j.layers.any (fun v => match j.image v.head with
    | none => true
    | some i => decide ((i.assignOf v.slot).head ≠ v.head) || (i.envOf v.slot).isNone)) 3

/-! ### Check 3 -/

/-- The buffer of a layer that checks 3 and 4 judge: the ring of a beam-raced plane once one has been applied, the surface as it
will stand where the item applies one or a buffer is shown; none where the layer has never shown one (R84, R246). -/
def Judge.buffer (j : Judge) (v : LayerView) : Option LayerView :=
  match j.env v with
  | some e =>
    if e.beamRaced then (if (j.after.stream e.stream).ringApplied then some (v.overRing (ringOf j.after e.stream)) else none)
    else if (j.after.layer v.slot).shown.isSome ∨ j.touches (fun r => decide (r = rg .faBaseHi v.slot)) then some v
    else none
  | none => none

def Judge.alignFails (j : Judge) : Fails :=
  failIf (j.layers.any (fun v => match j.buffer v with | some b => !b.aligned | none => false) ||
    j.spare.any (fun v => j.touches (fun r => decide (r = rg .faBaseHi v.slot)) && !v.aligned)) 3

/-! ### Check 4 -/

/-- The channel a byte translates to; none where it does not translate. -/
def channelAt (s : State) (ctx va : Nat) : Option Nat :=
  if 2 ^ 42 ≤ va then none
  else match walk s ctx va false with
    | .page p => (pageDpa p va).map chanOf
    | .fault _ => none

/-- The first and last byte of a buffer on CHANNEL (R84). -/
def channelsOk (s : State) (v : LayerView) (channel : Nat) : Bool :=
  (match channelAt s v.ctx v.firstVa with | some c => decide (c = channel) | none => true) &&
  (match channelAt s v.ctx v.lastVa with | some c => decide (c = channel) | none => true)

/-- Scaler n's applied taps, selections and ratios. -/
structure ScalerView where
  hTaps : Nat
  vTaps : Nat
  hCoef : Nat
  vCoef : Nat
  hRatio : Word
  vRatio : Word
  hInit : Word
  vInit : Word
  deriving DecidableEq, Repr

def scalerView (s : State) (n : Nat) : ScalerView :=
  let t := s.reg (rg .saTaps n)
  { hTaps := fld t 20 4, vTaps := fld t 16 4, hCoef := fld t 10 2, vCoef := fld t 8 2,
    hRatio := s.reg (rg .saHRatio n), vRatio := s.reg (rg .saVRatio n),
    hInit := s.reg (rg .saHInit n), vInit := s.reg (rg .saVInit n) }

/-- Whether a scaler passes its source through (R146). -/
def ScalerView.flat (v : ScalerView) : Bool :=
  decide (v.hRatio = 0x01000000#32) && decide (v.vRatio = 0x01000000#32) && decide (v.hTaps = 1) && decide (v.vTaps = 1)

/-- A scaler's own limits (R146, R156, R161). -/
def ScalerView.legal (v : ScalerView) : Bool :=
  decide (v.hCoef ≠ 3) && decide (v.vCoef ≠ 3) &&
  decide (1 ≤ v.hTaps) && decide (v.hTaps ≤ 8) && decide (1 ≤ v.vTaps) && decide (v.vTaps ≤ 6) &&
  (decide (2 ≤ v.hTaps ∧ 2 ≤ v.vTaps) || v.flat) &&
  decide (0x00100000 ≤ v.hRatio.toNat) && decide (v.hRatio.toNat ≤ 0x08000000) && decide (0x00100000 ≤ v.vRatio.toNat)

/-- R146, R156 and R161 within an envelope. -/
def ScalerView.fits (v : ScalerView) (e : Envelope) : Bool :=
  v.legal && decide (v.hTaps ≤ e.hTapsMax) && decide (v.vTaps ≤ e.vTapsMax) &&
  decide (e.hRatioMin ≤ v.hRatio.toNat) && decide (v.hRatio.toNat ≤ e.hRatioMax) &&
  decide (e.vRatioMin ≤ v.vRatio.toNat) && decide (v.vRatio.toNat ≤ e.vRatioMax)

/-- Whether a K slot takes a format (R117). -/
def keepFormat (c : Nat) : Bool := decide (c = 0x01) || decide (c = 0x08) || decide (c = 0x18) || decide (c = 0x19)

/-- The parts of check 4 that do not judge a buffer. -/
def layerFits (s : State) (v : LayerView) (e : Envelope) (lead : Nat) : Bool :=
  decide (1 ≤ v.sw) && decide (v.sw ≤ e.srcWMax) && decide (1 ≤ v.sh) && decide (v.sh ≤ e.srcHMax) &&
  decide (e.x0 ≤ v.dx) && decide (v.dx + v.dw ≤ e.x1) && decide (e.y0 ≤ v.dy) && decide (v.dy + v.dh ≤ e.y1) &&
  decide (fmtClass v.fmt = some e.formatClass) && (!isK v.slot || keepFormat v.fmt) &&
  decide (v.alphaMode ≠ 3) && decide (e.alphaModes / 2 ^ v.alphaMode % 2 = 1) &&
  decide (e.zMin ≤ v.z) && decide (v.z ≤ e.zMax) && decide (bytesPerLine v.fmt v.sw lead ≤ e.maxBpl) &&
  (if isV v.slot then (scalerView s (v.slot - 64)).fits e else decide (v.sw = v.dw) && decide (v.sh = v.dh))

/-- The widths that a scaler takes: 8,192 source pixels, and the active pixels of the head, where it has a raster (R156). -/
def scalerWidthsOk (s : State) (v : LayerView) : Bool :=
  decide (v.sw ≤ 8192) && (!(s.head v.head).timingApplied || decide (v.dw ≤ (appliedRaster s v.head).hActive))

/-- The parts of check 4 that need no envelope (R117, R118, R126, R156). -/
def layerLegal (s : State) (v : LayerView) : Bool :=
  decide (1 ≤ v.sw) && decide (1 ≤ v.sh) && (fmtClass v.fmt).isSome && (!isK v.slot || keepFormat v.fmt) && decide (v.alphaMode ≠ 3) &&
  (!isV v.slot || ((scalerView s (v.slot - 64)).legal && scalerWidthsOk s v))

/-- LEAD of a layer's head under the image judged by. -/
def Judge.lead (j : Judge) (n : Nat) : Nat := match j.entry n with | some e => e.lead | none => 1

def Judge.envelopeFails (j : Judge) : Fails :=
  failIf (j.spare.any (fun v => !layerLegal j.after v)) 3 ++
  j.layers.flatMap (fun v => match j.env v with
    | none => []
    | some e =>
      failIf (!layerFits j.after v e (j.lead v.head)) 3 ++
      (match j.buffer v with
       | some b => failIf (!channelsOk j.after b e.channel) 3
       | none => []))

/-- A signature region's rectangle and settings. -/
structure SigView where
  x0 : Nat
  y0 : Nat
  x1 : Nat
  y1 : Nat
  mode : Nat
  action : Nat
  region : Nat
  freeze : Nat
  deriving DecidableEq, Repr

def sigView (s : State) (n r : Nat) : SigView :=
  let a := s.reg (rg .scSigRect0 n r)
  let b := s.reg (rg .scSigRect1 n r)
  let c := s.reg (rg .scSigCtrl n r)
  { x0 := fld a 0 16, y0 := fld a 16 16, x1 := fld b 0 16, y1 := fld b 16 16, mode := fld c 0 2, action := fld c 8 2,
    region := fld c 16 2, freeze := fld c 24 8 }

/-- The signature regions of a head that compute. -/
def activeSigs (s : State) (n : Nat) : List Nat := (List.range 64).filter (fun r => decide ((sigView s n r).mode ≠ 0))

/-- R206: the rectangle of a region that computes. -/
def SigView.rectOk (v : SigView) (r : Raster) : Bool :=
  decide (v.x0 < v.x1) && decide (v.x1 ≤ r.hActive) && decide (v.y0 < v.y1) && decide (v.y1 ≤ r.vActive)

def Judge.signatureFails (j : Judge) : Fails :=
  j.heads.flatMap (fun n =>
    failIf ((activeSigs j.after n).any (fun r => !(sigView j.after n r).rectOk (appliedRaster j.after n))) 6)

/-! ### Check 5 (R153, R156) -/

/-- Resident lines a scaler's state needs (R153). -/
def ScalerView.lines (v : ScalerView) : Nat := v.vTaps + ceilDiv v.vRatio.toNat (2 ^ 24)

/-- Whether a slot's scaler needs more lines than its store holds (R153, R154). -/
def linesShort (s : State) (v : LayerView) : Bool :=
  isV v.slot && decide ((if v.sw ≤ 4096 then 12 else 6) < (scalerView s (v.slot - 64)).lines)

def Judge.lineFails (j : Judge) : Fails :=
  failIf (j.spare.any (linesShort j.after) || j.layers.any (fun v =>
    linesShort j.after v ||
    (isV v.slot && decide (4096 < v.sw) && !(match j.image v.head with | some i => (i.assignOf v.slot).paired | none => false)))) 3

/-! ### Check 6 (R193, R209, R420) -/

/-- A rectangle with exclusive right and bottom edges. -/
structure Rect where
  x0 : Nat
  y0 : Nat
  x1 : Nat
  y1 : Nat
  deriving DecidableEq, Repr

/-- Whether one rectangle lies wholly inside another. -/
def Rect.inside (a b : Rect) : Bool := decide (b.x0 ≤ a.x0) && decide (a.x1 ≤ b.x1) && decide (b.y0 ≤ a.y0) && decide (a.y1 ≤ b.y1)

/-- Whether two rectangles share a pixel. -/
def Rect.meets (a b : Rect) : Bool := colsMeet a.x0 a.x1 b.x0 b.x1 && colsMeet a.y0 a.y1 b.y0 b.y1

/-- Whether a pixel lies in a rectangle. -/
def Rect.holds (r : Rect) (x y : Nat) : Bool := decide (r.x0 ≤ x) && decide (x < r.x1) && decide (r.y0 ≤ y) && decide (y < r.y1)

/-- The rectangle and CTRL of a keep region. -/
def keepRect (s : State) (n r : Nat) : Rect :=
  let a := s.reg (rg .scKrRect0 n r)
  let b := s.reg (rg .scKrRect1 n r)
  { x0 := fld a 0 16, y0 := fld a 16 16, x1 := fld b 0 16, y1 := fld b 16 16 }

def keepEnabled (s : State) (n r : Nat) : Bool := bit (s.reg (rg .scKrCtrl n r)) 0

/-- The enabled keep regions of a head. -/
def keepRegions (s : State) (n : Nat) : List Nat := (List.range 4).filter (keepEnabled s n)

def LayerView.dstRect (v : LayerView) : Rect := { x0 := v.dx, y0 := v.dy, x1 := v.dx + v.dw, y1 := v.dy + v.dh }
def Envelope.rect (e : Envelope) : Rect := { x0 := e.x0, y0 := e.y0, x1 := e.x1, y1 := e.y1 }

/-- The K slots that ASSIGN of an image binds to a head. -/
def Image.keepSlots (i : Image) (n : Nat) : List Nat :=
  ((List.range 8).map (fun k => 88 + k)).filter (fun slot => (i.assignOf slot).head = n)

/-- Whether a register is colour state of R178 of a head. -/
def isColourOf (n : Nat) (r : RegId) : Bool :=
  match r.name with
  | .cpHctrl | .cpMat | .cpPostRg | .cpPostB | .cpRegamma | .cpDegamma => decide (r.i = n)
  | _ => false

/-- Keep check 1: colour state of a keep-bearing head changes, and some contributing write lacked SAFETY (R178). -/
def Judge.colourBad (j : Judge) (n : Nat) : Bool :=
  let ws := j.writes.filter (fun w => match regAt w.addr with | some r => isColourOf n r | none => false)
  (match j.image n with | some i => !(i.keepSlots n).isEmpty | none => false) &&
  ws.any (fun w => decide (j.before.regKey w.addr ≠ j.after.regKey w.addr)) && ws.any (fun w => !w.safety)

/-- Keep check 4. -/
def keepRectOk (s : State) (n r : Nat) : Bool :=
  let x := keepRect s n r
  let a := appliedRaster s n
  decide (x.x0 % 16 = 0) && decide (x.x1 % 16 = 0) && decide (x.y0 % 4 = 0) && decide (x.y1 % 4 = 0) &&
  decide (x.x0 < x.x1) && decide (x.x1 ≤ a.hActive) && decide (x.y0 < x.y1) && decide (x.y1 ≤ a.vActive)

/-- Keep check 5. -/
def Judge.keepBacked (j : Judge) (n r : Nat) : Bool :=
  match j.image n with
  | none => false
  | some i => (i.keepSlots n).any (fun k => match i.envOf k with
    | some e => (keepRect j.after n r).inside e.rect
    | none => false)

/-- Keep check 8: a register of a region changes. -/
def Judge.regionChanged (j : Judge) (n r : Nat) : Bool :=
  (Grp.members .keepRegion n r).any (fun x => decide (j.before.reg x ≠ j.after.reg x))

/-- The address in KFALLBACK[k]. -/
def fallbackVa (s : State) (k : Nat) : Nat :=
  (s.reg (rg .scKfallbackLo k)).toNat + fld (s.reg (rg .scKfallbackHi k)) 0 10 * 2 ^ 32

/-- Whether a byte lies on the channel of an envelope, where there is one; a byte that does not translate lies on none (R213). -/
def onChannel (s : State) (ctx : Nat) (e : Option Envelope) (va : Nat) : Bool :=
  match channelAt s ctx va with
  | some c => (match e with | some e => decide (c = e.channel) | none => true)
  | none => false

/-- Keep check 9. -/
def Judge.fallbackBad (j : Judge) (k : Nat) : Bool :=
  let v := layerView j.after (88 + k)
  let b := v.withBuffer (fallbackVa j.after k) v.plane1
  decide (fallbackVa j.after k ≠ 0) && j.heads.contains v.head &&
  (!b.aligned || !onChannel j.after b.ctx (j.env v) b.firstVa || !onChannel j.after b.ctx (j.env v) b.lastVa)

/-- Keep check 10 (R209). -/
def sigKeepBad (s : State) (n r : Nat) : Bool :=
  let v := sigView s n r
  let x : Rect := { x0 := v.x0, y0 := v.y0, x1 := v.x1, y1 := v.y1 }
  (decide (32 ≤ r) && (decide (v.mode = 2) || decide (v.action ≠ 0))) ||
  (decide (v.mode = 2) && !(keepRegions s n).any (fun k => x.inside (keepRect s n k))) ||
  (decide (v.action = 2) && !keepEnabled s n v.region)

/-- The keep rules of one head. -/
def Judge.headKeepFails (j : Judge) (n : Nat) : Fails :=
  let s := j.after
  let rs := keepRegions s n
  let ks := j.layers.filter (fun v => isK v.slot && decide (v.head = n))
  failIf (j.colourBad n) 6 ++
  failIf (rs.any (fun r => !keepRectOk s n r)) 5 ++
  failIf (rs.any (fun r => !j.keepBacked n r)) 5 ++
  failIf (rs.any (fun r => rs.any (fun q => decide (q ≠ r) && (keepRect s n r).meets (keepRect s n q)))) 5 ++
  failIf (ks.any (fun v => decide ((rs.filter (fun r => v.dstRect.inside (keepRect s n r))).length ≠ 1))) 3 ++
  failIf ((List.range 4).any (fun r => (j.before.keepHead n).fault.getLsbD r && j.regionChanged n r)) 5 ++
  failIf ((List.range 64).any (fun r => sigKeepBad s n r)) 6 ++
  failIf ((segsOf s n).any (fun g => rs.any (fun r => colsMeet g.x0 g.x1 (keepRect s n r).x0 (keepRect s n r).x1))) 10

def Judge.keepFails (j : Judge) : Fails :=
  j.layers.flatMap (fun v =>
    if isK v.slot then
      failIf (decide (v.stale = 0)) 3 ++
      failIf (match j.env v with | some e => decide (e.mirror ≠ mirrorOf j.after e.channel) | none => false) 3
    else failIf (decide (v.ctx = 63)) 3) ++
  failIf (j.spare.any (fun v => if isK v.slot then decide (v.stale = 0) else decide (v.ctx = 63))) 3 ++
  j.heads.flatMap j.headKeepFails ++
  failIf ((List.range 8).any j.fallbackBad) 6

/-! ### The verdict -/

/-- The lowest station of a list. -/
def lowest (l : Fails) : Nat := l.foldl min 0xFF

/-- Whether a register is a colour field (R185 to R188). -/
def isColourField (r : RegId) : Bool :=
  match r.name with
  | .ccBackground | .cpHctrl | .cpMat | .cpPostRg | .cpPostB | .cpRegamma | .cpDegamma
  | .cpLctrl | .cpLcoef | .cpLpre01 | .cpLpre2 | .cpLpost01 | .cpLpost2 => true
  | _ => false

/-- The verdict on colour fields alone (R185): only a DEPTH above a port's BPC (R260) and R178 reject them. -/
def Judge.colourVerdict (j : Judge) : Option (Nat × Nat) :=
  let deep := j.heads.any (fun n => j.touches (fun r => decide (r = rg .cpHctrl n)) &&
    (portsOfHead j.after n).any (fun e => decide (portBpc j.after e < headDepth j.after n)))
  if deep then some (0x05, 7) else if j.heads.any j.colourBad then some (0x04, 6) else none

/-- Checks 2 to 6 of R84 in order: the code and the lowest failing station, or none. -/
def Judge.verdict (j : Judge) : Option (Nat × Nat) :=
  if ¬ j.writes.isEmpty ∧ j.regs.all isColourField then j.colourVerdict
  else match j.headFails ++ j.portFails ++ j.cascadeFails ++ j.bindFails with
  | f :: t => some (0x05, lowest (f :: t))
  | [] => match j.alignFails with
    | f :: t => some (0x0A, lowest (f :: t))
    | [] => match j.envelopeFails ++ j.signatureFails with
      | f :: t => some (0x02, lowest (f :: t))
      | [] => match j.lineFails with
        | f :: t => some (0x03, lowest (f :: t))
        | [] => match j.keepFails with
          | f :: t => some (0x04, lowest (f :: t))
          | [] => none

/-- The image of a bank. -/
def bankImage (s : State) (b : Nat) : Option Image := (s.bank b).image

/-- The sustained counterpart of a spire image, where a bank holds it (R449). -/
def counterpartImage (s : State) (i : Image) : Option Image :=
  ((List.range 4).filterMap (bankImage s)).find? (fun x => (x.clockSpire != i.clockSpire) && decide (x.imageId = i.counterpart))

/-- The images that an application on a head must fit: the one in force, both of a switch from its acceptance until every affected head
has applied it (R88), and the sustained counterpart while spire MODE is not SUSTAINED (R449). -/
def imagesFor (s : State) (n : Nat) : List (Option Image) :=
  let live := imageOn s n
  live ::
    (match s.sched.switch with
     | some w => if (w.left ||| w.done).getLsbD n then [bankImage s (if w.done.getLsbD n then w.fromBank else w.toBank)] else []
     | none => []) ++
    (if s.therm.mode = .sustained then []
     else match live with
       | some i => (match counterpartImage s i with | some c => [some c] | none => [])
       | none => [])

/-- The verdict of an item on one head by a list of images: none passes. -/
def verifyBy (images : List (Option Image)) (before after : State) (ws : List Wr) (n : Nat) : Option (Nat × Nat) :=
  images.findSome? (fun i => Judge.verdict { before := before, after := after, writes := ws, heads := [n], image := fun _ => i })

/-! ### Bank switches (R88) -/

/-- The heads of a switch: those in either image's HEAD_MASK. -/
def switchHeads (a b : Image) : BitVec 16 := BitVec.ofNat 16 a.headMask ||| BitVec.ofNat 16 b.headMask

/-- Whether the K-slot envelopes (and so the keep regions, R194) of two images differ. -/
def keepDiffers (a b : Image) : Bool := decide (a.keepEnvs ≠ b.keepEnvs)

/-- The MC's checks of R88 in order, with the code of the first that fails. `spire` is the MC's spire switch.
The table has no order for a commit that meets two rows: while another switch is SWITCHING the model answers 0x06, unless the selected
bank is not RESIDENT (DESIGN CHOICE, log entry 75). -/
def switchFailure (s : State) (dst : Nat) (mask : BitVec 16) (safety spire : Bool) : Option Nat :=
  match s.sched.switch with
  | some _ => if (s.bank dst).state ≠ .resident then some 0x05 else some 0x06
  | none =>
    match liveImage s, (s.bank dst).state, (s.bank dst).image with
    | some live, .resident, some new =>
      if switchHeads live new &&& ~~~mask ≠ 0 then some 0x05
      else if (new.headList.any (fun n => decide (groupOf s n ≠ (new.head n).pg))) then some 0x05
      else if ¬ handoverOk live new then some 0x05
      else if new.clockSpire ∧ ¬ spire then some 0x05
      else if keepDiffers live new ∧ ¬ safety then some 0x09
      else none
    | _, _, _ => some 0x05

end Sys2Proof.Machine
end

