-- ==== Sys2Proof/Machine/Fetch.lean ====
section
/-! DEFINITION. What a layer slot fetches for a display line: which source lines a window brings (R125, R152), the race decision
of beam-raced planes (R247), and the pixels of a source line after the input stage (R118 to R124, R145 to R148, R163 to R165). -/

namespace Sys2Proof.Machine

/-! ### Where a layer's bytes come from -/

/-- The source of a layer's bytes: a pinned buffer, the channel its bursts are granted on, the bursts that this window did not deliver,
and the tiles read before. -/
structure Feed where
  use : PinUse
  shadow : Bool
  channel : Nat
  view : LayerView
  lost : List Nat := []
  tiles : SMap (Got Tile) := []
  deriving DecidableEq, Repr

/-- A value made from one that was got. -/
def Got.map {α β : Type} (f : α → β) : Got α → Got β
  | .ok a => .ok (f a)
  | .error e => .error e

/-- A value that is got, where it has one, from one that was got. -/
def Got.bind {α β : Type} (g : Got α) (f : α → Got β) : Got β :=
  match g with
  | .ok a => f a
  | .error e => .error e

/-- Two values combined: missing data outweighs a malformed tile (log entry 62). -/
def Got.both {α β γ : Type} (f : α → β → γ) : Got α → Got β → Got γ
  | .ok a, .ok b => .ok (f a b)
  | .error .missing, _ => .error .missing
  | _, .error .missing => .error .missing
  | .error e, _ => .error e
  | _, .error e => .error e

/-- A byte of a feed: none where its burst was not delivered, translation fails, the channel is another or the burst is uncorrectable
(R93). -/
def feedByte (s : State) (f : Feed) (va : Nat) : Option Byte :=
  if f.lost.contains (va / 64) then none
  else match pinnedDpa s f.use f.shadow va with
    | none => none
    | some d => if chanOf d ≠ f.channel ∨ absentDpa s d ∨ burstBad s (d / 64) then none else some (s.byte d)

/-- Bytes of a feed. -/
def feedBytes (s : State) (f : Feed) (va n : Nat) : Got (List Byte) :=
  match (List.range n).mapM (fun i => feedByte s f (va + i)) with
  | some l => .ok l
  | none => .error .missing

/-- A little-endian word of a feed. -/
def feedWord (s : State) (f : Feed) (va n : Nat) : Got Nat := (feedBytes s f va n).map leNat

/-! ### Pixels of the formats (R118, R163 to R165) -/

/-- An ARGB8888 word widened. -/
def argb (w : Nat) : Px :=
  { c0 := widen 8 (w / 2 ^ 16 % 256), c1 := widen 8 (w / 2 ^ 8 % 256), c2 := widen 8 (w % 256), a := widen 8 (w / 2 ^ 24 % 256) }

/-- A pixel word of an RGB format of a slot, widened. -/
def expandRgb (s : State) (slot fmt w : Nat) : Px :=
  match fmt with
  | 0x02 => { argb w with a := 4095 }
  | 0x03 => { argb w with c0 := widen 8 (w % 256), c2 := widen 8 (w / 2 ^ 16 % 256) }
  | 0x04 => { c0 := widen 10 (w / 2 ^ 20 % 1024), c1 := widen 10 (w / 2 ^ 10 % 1024), c2 := widen 10 (w % 1024),
              a := widen 2 (w / 2 ^ 30 % 4) }
  | 0x08 => { c0 := widen 5 (w / 2 ^ 11 % 32), c1 := widen 6 (w / 2 ^ 5 % 64), c2 := widen 5 (w % 32), a := 4095 }
  | 0x09 => { c0 := widen 5 (w / 2 ^ 10 % 32), c1 := widen 5 (w / 2 ^ 5 % 32), c2 := widen 5 (w % 32),
              a := widen 1 (w / 2 ^ 15 % 2) }
  | 0x0A => { c0 := widen 4 (w / 2 ^ 8 % 16), c1 := widen 4 (w / 2 ^ 4 % 16), c2 := widen 4 (w % 16),
              a := widen 4 (w / 2 ^ 12 % 16) }
  | 0x10 => { c0 := widenHalf (w / 2 ^ 32 % 65536), c1 := widenHalf (w / 2 ^ 16 % 65536), c2 := widenHalf (w % 65536),
              a := widenHalf (w / 2 ^ 48 % 65536) }
  | 0x18 => { argb (s.reg (rg .faConstColor slot)).toNat with a := widen 8 (w % 256) }
  | 0x19 => argb (s.reg (rg .faClut slot (w % 256))).toNat
  | _ => argb w

/-! ### Tiles (R121 to R124) -/

def Tile.len (t : Tile) : Nat := (t.hdr.getD 0 0).toNat % 8
def Tile.raw (t : Tile) : Bool := (t.hdr.getD 0 0).getLsbD 3

/-- Whether a format's tiles are those of TC-NV12. -/
def isNv12Tc (fmt : Nat) : Bool := decide (fmt = 0x40)

/-- A tile whose payload is complete judged (R124). One of which a burst was not delivered is judged by its header alone. -/
def judgeTile (fmt : Nat) (t : Tile) : Got Tile :=
  if (if t.gaps.isEmpty then tcMalformed (isNv12Tc fmt) t.hdr t.pay
      else tcBadHeader (isNv12Tc fmt) t.hdr || (t.raw && decide (t.len ≠ tcMaxLen (isNv12Tc fmt)))) then .error .malformed else .ok t

/-- The header of the tile at row r, column c of a TC surface: a tile whose payload is still to be read, or a solid one. -/
def readHeader (s : State) (f : Feed) (r c : Nat) : Got Tile :=
  (feedBytes s f (f.view.pixelVa (16 * c) (4 * r)) 8).bind (fun hdr =>
    let t : Tile := { hdr := hdr, pay := [] }
    if tcBadHeader (isNv12Tc f.view.fmt) hdr then .error .malformed else if t.len = 0 then judgeTile f.view.fmt t else .ok t)

/-- Burst j of a tile's payload added to it: one that is not delivered leaves a gap (R93). The last one completes the tile. -/
def readPayload (s : State) (f : Feed) (r c j : Nat) (t : Tile) : Got Tile :=
  if t.len ≤ j then .ok t
  else
    let t : Tile := match feedBytes s f (f.view.payloadVa (16 * c) (4 * r) + 64 * j) 64 with
      | .ok l => { t with pay := t.pay ++ l }
      | .error _ => { t with pay := t.pay ++ List.replicate 64 0, gaps := t.gaps ++ [j] }
    if j + 1 = t.len then judgeTile f.view.fmt t else .ok t

/-- The tile at row r, column c of a TC surface, read now. -/
def readTile (s : State) (f : Feed) (r c : Nat) : Got Tile :=
  (List.range 4).foldl (fun t j => t.bind (readPayload s f r c j)) (readHeader s f r c)

/-- Whether bits lo to hi − 1 of a tile's payload lie in a burst that was not delivered; a coded tile needs its first burst throughout
(R123). -/
def Tile.lacks (t : Tile) (lo hi : Nat) : Bool :=
  t.gaps.any (fun b => (decide (b = 0) && !t.raw) || (decide (lo < 512 * (b + 1)) && decide (512 * b < hi)))

/-- A value of a tile that rests on some bits of its payload. -/
def Tile.value {α : Type} (t : Tile) (lo n : Nat) (v : α) : Got α := if t.lacks lo (lo + n) then .error .missing else .ok v

/-- The widths of a coded tile's offsets: of the four components together, or of luma and chroma. -/
def Tile.widthAt (t : Tile) (i : Nat) : Nat := (t.pay.getD i 0).toNat % 16 + (t.pay.getD i 0).toNat / 16

/-- Pixel i of a TC-ARGB8888 tile. -/
def Tile.argbPx (t : Tile) (i : Nat) : Cell :=
  if t.len = 0 then .ok (argb (leAt t.hdr 4 4))
  else
    let c := tcArgbPixel t.raw t.pay i
    let per := t.widthAt 4 + t.widthAt 5
    t.value (if t.raw then 32 * i else 48 + i * per) (if t.raw then 32 else per)
      { c0 := widen 8 (c.getD 2 0), c1 := widen 8 (c.getD 1 0), c2 := widen 8 (c.getD 0 0), a := widen 8 (c.getD 3 0) }

/-- Luma sample i of a TC-NV12 tile, 8-bit. -/
def Tile.luma (t : Tile) (i : Nat) : Got Nat :=
  if t.len = 0 then .ok (leAt t.hdr 4 1)
  else
    let wy := (t.pay.getD 3 0).toNat % 16
    t.value (if t.raw then 8 * i else 32 + i * wy) (if t.raw then 8 else wy) (tcLuma t.raw t.pay i)

/-- Chroma pair i of a TC-NV12 tile, 8-bit. -/
def Tile.chroma (t : Tile) (i : Nat) : Got (Nat × Nat) :=
  if t.len = 0 then .ok (leAt t.hdr 5 1, leAt t.hdr 6 1)
  else
    let wy := (t.pay.getD 3 0).toNat % 16
    let wc := (t.pay.getD 3 0).toNat / 16
    t.value (if t.raw then 512 + 16 * i else 32 + 64 * wy + 2 * i * wc) (if t.raw then 16 else 2 * wc)
      (tcChroma t.raw t.pay i 0, tcChroma t.raw t.pay i 1)

/-- A tile of a TC surface: as its row's slices brought it, else read now (R125; log entry 60). -/
def tileAt (s : State) (f : Feed) (r c : Nat) : Got Tile :=
  match f.tiles.find? (fun e => e.1 = r * 65536 + c) with
  | some (_, .ok t) => if t.pay.length = 64 * t.len then .ok t else readTile s f r c
  | some (_, .error x) => .error x
  | none => readTile s f r c

/-- The tiles of a tile row that a source rectangle takes. -/
def tileRow (s : State) (f : Feed) (r : Nat) : List (Got Tile) :=
  (List.range (ceilDiv f.view.sw 16)).map (fun c => tileAt s f r (f.view.sx / 16 + c))

/-! ### Source lines -/

/-- The pixels of source line y (counted from the rectangle's top) of a format of classes 0 to 4. -/
def rgbRow (s : State) (f : Feed) (y : Nat) : List Cell :=
  let v := f.view
  if isTc v.fmt then
    ((tileRow s f ((v.sy + y) / 4)).flatMap (fun t =>
      (List.range 16).map (fun x => t.bind (fun t => t.argbPx ((v.sy + y) % 4 * 16 + x))))).take v.sw
  else (List.range v.sw).map (fun x =>
    (feedWord s f (v.pixelVa (v.sx + x) (v.sy + y)) (bytesPerPixel v.fmt)).map (expandRgb s v.slot v.fmt))

/-- The luma samples of a source line of classes 5 to 8, widened. -/
def lumaRow (s : State) (f : Feed) (y : Nat) : List (Got Nat) :=
  let v := f.view
  if isTc v.fmt then
    ((tileRow s f ((v.sy + y) / 4)).flatMap (fun t =>
      (List.range 16).map (fun x => t.bind (fun t => (t.luma ((v.sy + y) % 4 * 16 + x)).map (· * 16))))).take v.sw
  else (List.range v.sw).map (fun x =>
    let va := v.pixelVa (v.sx + x) (v.sy + y)
    if isPacked422 v.fmt then
      (feedWord s f (va + (v.sx + x) % 2 * 2 + (if v.fmt = 0x39 then 1 else 0)) 1).map (· * 16)
    else if v.fmt = 0x30 then (feedWord s f va 2).map (fun w => w / 64 * 4)
    else (feedWord s f va 1).map (· * 16))

/-- Chroma pairs of a chroma line of a source rectangle, widened, Cb first. For 4:2:2 a chroma line is a source line. -/
def chromaRow (s : State) (f : Feed) (m : Nat) : List (Got (Nat × Nat)) :=
  let v := f.view
  if isTc v.fmt then
    ((tileRow s f ((v.sy / 2 + m) / 2)).flatMap (fun t =>
      (List.range 8).map (fun x => t.bind (fun t =>
        (t.chroma ((v.sy / 2 + m) % 2 * 8 + x)).map (fun p => (p.1 * 16, p.2 * 16)))))).take (v.sw / 2)
  else (List.range (v.sw / 2)).map (fun x =>
    if isPacked422 v.fmt then
      (feedWord s f (v.pixelVa (v.sx + 2 * x) (v.sy + m)) 4).map (fun w =>
        if v.fmt = 0x39 then (w % 256 * 16, w / 2 ^ 16 % 256 * 16) else (w / 2 ^ 8 % 256 * 16, w / 2 ^ 24 % 256 * 16))
    else
      let va := v.chromaVa (v.sx + 2 * x) (v.sy + 2 * m)
      if v.fmt = 0x30 then (feedWord s f va 4).map (fun w => (w % 65536 / 64 * 4, w / 65536 / 64 * 4))
      else (feedWord s f va 2).map (fun w =>
        if v.fmt = 0x29 then (w / 256 * 16, w % 256 * 16) else (w % 256 * 16, w / 256 * 16)))

/-- Two chroma pairs combined by a formula of R147. -/
def mixPairs (g : Nat → Nat → Nat) (a b : Got (Nat × Nat)) : Got (Nat × Nat) := Got.both (fun a b => (g a.1 b.1, g a.2 b.2)) a b

/-- Chroma at a luma position from the chroma samples around it (R147). -/
def upsample (inter : Bool) (n : Nat) (c : Nat → Got (Nat × Nat)) (x : Nat) : Got (Nat × Nat) :=
  let m := x / 2
  let v (i : Int) := c (clampInt 0 ((n : Int) - 1) i).toNat
  if inter then
    if x % 2 = 0 then mixPairs (fun a b => (a + 3 * b + 2) / 4) (v ((m : Int) - 1)) (v m)
    else mixPairs (fun a b => (3 * a + b + 2) / 4) (v m) (v ((m : Int) + 1))
  else if x % 2 = 0 then v m
  else mixPairs (fun a b => (a + b + 1) / 2) (v m) (v ((m : Int) + 1))

/-- The chroma line that the fetch delivers with luma line y of a 4:2:0 rectangle, with its number (R148). -/
def deliveredChroma (s : State) (f : Feed) (y : Nat) : Nat × List (Got (Nat × Nat)) :=
  let n := chromaLineOf (f.view.sh / 2 - 1) y
  (n, chromaRow s f n)

/-- The vertically upsampled chroma of luma line y of a 4:2:0 rectangle, by chroma column, from the line delivered with it and the one
held from the luma line before (R147, R148). -/
def chromaVertical (inter : Bool) (last y : Nat) (now : Nat × List (Got (Nat × Nat)))
    (held : Option (Nat × List (Got (Nat × Nat)))) : List (Got (Nat × Nat)) :=
  let rowAt (l : Int) := match held with
    | some h => if h.1 = (clampInt 0 last l).toNat ∧ h.1 ≠ now.1 then h.2 else now.2
    | none => now.2
  let m : Int := ((y / 2 : Nat) : Int)
  if inter then
    if y % 2 = 0 then List.zipWith (mixPairs (fun a b => (a + 3 * b + 2) / 4)) (rowAt (m - 1)) (rowAt m)
    else List.zipWith (mixPairs (fun a b => (3 * a + b + 2) / 4)) (rowAt m) (rowAt (m + 1))
  else if y % 2 = 0 then rowAt m
  else List.zipWith (mixPairs (fun a b => (a + b + 1) / 2)) (rowAt m) (rowAt (m + 1))

/-- A luma sample and its chroma as a pixel. -/
def ycc : Got Nat → Got (Nat × Nat) → Cell := Got.both (fun y c => { c0 := y, c1 := c.1, c2 := c.2, a := 4095 })

/-- Whether a format class is 4:2:0. -/
def is420 (cls : Option Nat) : Bool := decide (cls = some 5) || decide (cls = some 6) || decide (cls = some 8)

/-- Source line y after the input stage (R145): 4:4:4, widened. `held` is the chroma line held from the luma line before it. -/
def inputRow (s : State) (f : Feed) (held : Option (Nat × List (Got (Nat × Nat)))) (y : Nat) : List Cell :=
  match fmtClass f.view.fmt with
  | some c =>
    if c < 5 then rgbRow s f y
    else
      let site := s.reg (rg .saChroma (f.view.slot - 64))
      let col := if c = 7 then chromaRow s f y
        else chromaVertical (bit site 1) (f.view.sh / 2 - 1) y (deliveredChroma s f y) held
      let arr := col.toArray
      let n := arr.size
      (lumaRow s f y).zipIdx.map (fun p => ycc p.1 (upsample (bit site 0) n (fun i => arr.getD i (.error .missing)) p.2))
  | none => List.replicate f.view.sw (.error .missing)

/-! ### Windows (R70, R152) -/

/-- The source lines that the taps of a destination line use, in ascending order without repeats. -/
def tapLines (v : ScalerView) (sh d taps : Nat) : List Nat :=
  let p := samplePos v.vInit v.vRatio d
  ((List.range taps).map (fun k => tapIndex p.1 v.vTaps sh k)).eraseDups

/-- What a window of a head does for a layer, by its display line: nothing, a prefill chunk, or destination line d. -/
inductive WinOf where
  | none
  | prefill (p : Nat)
  | dest (d : Nat)
  deriving DecidableEq, Repr

def windowFor (v : LayerView) (lead vTotal y : Nat) : WinOf :=
  let r := (y + vTotal + lead - v.dy) % max vTotal 1
  if r < lead then .prefill r else if r - lead < v.dh then .dest (r - lead) else .none

/-- Whether a slot's scaler passes through; every G and K slot does (R146). -/
def passes (s : State) (slot : Nat) : Bool := !isV slot || (scalerView s (slot - 64)).flat

/-- The source lines that destination line d of a layer uses, in ascending order (R146, R149). -/
def usedLines (s : State) (v : LayerView) (d : Nat) : List Nat :=
  if passes s v.slot then [min d (v.sh - 1)]
  else
    let x := scalerView s (v.slot - 64)
    tapLines x v.sh d x.vTaps

/-- The source lines that a window brings for a layer (R152). The prefill windows are filled from the first on, each to the bound that
R152 sets (DESIGN CHOICE, log entry 61); the lines of a tiled surface come with the window that completes their tile row (R125). -/
def broughtLines (s : State) (v : LayerView) (lead : Nat) : WinOf → List Nat
  | .none => []
  | .prefill p =>
    if passes s v.slot || isTc v.fmt then []
    else
      let x := scalerView s (v.slot - 64)
      let per := ceilDiv (x.vTaps - 1) (max lead 1)
      ((tapLines x v.sh 0 (x.vTaps - 1)).drop (p * per)).take per
  | .dest d => (usedLines s v d).filter (fun l => !(s.layer v.slot).rows.any (fun e => e.1 = l))

/-- Whether a window is the first of the frame in which the layer fetches. -/
def firstWindow (s : State) (v : LayerView) (w : WinOf) : Bool :=
  if passes s v.slot && !isTc v.fmt then decide (w = .dest 0) else decide (w = .prefill 0)

/-! ### Slices of tile rows (R125) -/

/-- The tile rows that destination line d is the first to use. -/
def freshRows (s : State) (v : LayerView) (d : Nat) : List Nat :=
  let rows (d : Nat) := ((usedLines s v d).map (fun l => (v.sy + l) / 4)).eraseDups
  if d = 0 then rows 0 else (rows d).filter (fun r => !(rows (d - 1)).contains r)

/-- q: the slices of a tile row (R120). -/
def sliceCount (lead : Nat) : Nat := min 4 (lead + 1)

/-- The tile rows and slices that a window brings: slice i of a row first used at destination line d comes in the window of line
d − q + 1 + i. -/
def windowSlices (s : State) (v : LayerView) (lead : Nat) (w : WinOf) : List (Nat × Nat) :=
  let at_ : Option Nat := match w with
    | .none => none
    | .prefill p => some p
    | .dest d => some (d + lead)
  match at_ with
  | none => []
  | some x =>
    let q := sliceCount lead
    (List.range q).flatMap (fun k =>
      let d := x + k - lead
      if x + k < lead ∨ v.dh ≤ d then [] else (freshRows s v d).map (fun r => (r, q - 1 - k)))

/-- A burst of a tile row: that of some tile headers, or burst j of the payload slot of the tile at column c. -/
inductive RowBurst where
  | headers (cols : List Nat)
  | payload (c j : Nat)
  deriving DecidableEq, Repr

/-- The bursts of a tile row in address order: its headers, then the payload slots of its tiles (R121, R125). -/
def rowBursts (v : LayerView) (r : Nat) : List RowBurst :=
  let cols := (List.range (ceilDiv v.sw 16)).map (v.sx / 16 + ·)
  let burst (c : Nat) := v.pixelVa (16 * c) (4 * r) / 64
  ((cols.map burst).eraseDups.map (fun b => RowBurst.headers (cols.filter (fun c => burst c = b)))) ++
    cols.flatMap (fun c => (List.range (tcZ v.fmt / 64)).map (RowBurst.payload c))

/-- The bursts of slice i of a tile row: equal counts, the last one shorter (R125). -/
def sliceBursts (v : LayerView) (lead r i : Nat) : List RowBurst :=
  let l := rowBursts v r
  let w := ceilDiv l.length (sliceCount lead)
  (l.drop (i * w)).take w

/-! ### Beam-raced lines (R246, R247) -/

/-- LINES(X): the lines of an ended frame, where the stream keeps them. -/
def linesOf (x : Stream) (frame : Nat) : Option Nat := (x.history.find? (fun e => e.1 = frame)).map (·.2)

/-- Banks of a ring (R241). -/
def Ring.banks (r : Ring) : Nat := if r.bankLines = 0 then 0 else r.lines / r.bankLines

/-- held(X, k) (R247). The current frame counts by its write pointer, also once it has ended. -/
def heldLine (x : Stream) (r : Ring) (frame k : Nat) : Bool :=
  decide (x.frame.toNat + 1 ≤ frame + min r.banks 4) && decide (frame ≤ x.frame.toNat) && !x.firstSince &&
  (if frame = x.frame.toNat then decide (k < x.wp) && decide (x.wp - k + 2 ≤ r.bankLines)
   else match linesOf x frame with
     | some n => decide (k < n) && decide (n - k ≤ r.bankLines)
     | none => false)

/-- The decision of R247 for source line k of a plane bound to frame `g`: the frame read, and whether the line was won. -/
def raceLine (s : State) (stream : Nat) (g : Option Nat) (k : Nat) : Option Nat × Bool :=
  let x := s.stream stream
  let r := ringOf s stream
  let rd := fld (s.reg (rg .siSctrl stream)) 12 4
  match g with
  | none => (none, false)
  | some g =>
    if heldLine x r g k && (decide (g < x.frame.toNat) || decide (rd ≤ x.wp + 1 - k)) then (some g, true)
    else if g ≠ 0 ∧ heldLine x r (g - 1) k then (some (g - 1), false)
    else (none, false)

/-- The view of source line k of a beam-raced plane: the ring line that holds it becomes line 0 (R241, R246). -/
def raceView (v : LayerView) (r : Ring) (frame k : Nat) : LayerView :=
  { v with base := r.base + (frame % max r.banks 1 * r.bankLines + k % max r.bankLines 1) * r.pitch, pitch := r.pitch,
           plane1 := 0, ctx := r.ctx, sy := 0 }

end Sys2Proof.Machine
end

