-- ==== Sys2Proof/Machine/Notify.lean ====
section
/-! DEFINITION. Notifications (R313, R314), fault categories and FAULT_N (R459 to R462), and keep faults (R200 to R203). -/

namespace Sys2Proof.Machine

/-! ### The level that temperature thresholds see (R445) -/

/-- The allowance that two or more excluded sensors add to a temperature. -/
def tempAllowance (s : State) : Int := if 2 ≤ s.therm.excluded.length then 40 else 0

/-- TMAX as thresholds see it, in 1/8 °C. -/
def tempLevel (s : State) : Int := s.therm.tmax + tempAllowance s

/-! ### NOTIFY -/

/-- An event of a NOTIFY class (R314): it replaces a waiting message of its class, and LOST counts 1. -/
def noteEvent (cls code item : Nat) (detail : Word) (only : Option Nat) (s : State) : State :=
  let waiting := SMap.get s.dict.notes cls []
  let lost := SMap.get s.dict.lost cls 0 + waiting.length
  { s with dict := { s.dict with
      notes := SMap.set s.dict.notes cls [{ code := code, item := item, detail := detail, tick := s.tick, only := only }] []
      lost := SMap.set s.dict.lost cls lost 0 } }

/-! ### FAULT_N -/

/-- Whether some region of a head is in fault. -/
def anyKeepFault (s : State) : Bool := (List.range 16).any (fun n => decide ((s.keepHead n).fault ≠ 0))

/-- Whether ASSIGN of the live image binds a K slot to a head (R178). -/
def keepBearing (s : State) (n : Nat) : Bool :=
  match imageOn s n with
  | some i => !(i.keepSlots n).isEmpty
  | none => false

/-- Whether a category that holds drives FAULT_N static low (R461). -/
def assertsFaultN (s : State) (c : Nat) : Bool :=
  s.safety.category.getLsbD c &&
  (match c with
   | 5 => (List.range 16).any (fun n => s.therm.shed.getLsbD n && keepBearing s n) || bit (s.reg (rg .mcFaultnMask)) 5
   | 8 => bit (s.reg (rg .mcFaultnMask)) 8
   | 9 => bit (s.reg (rg .mcFaultnMask)) 9
   | 10 => bit (s.reg (rg .mcFaultnMaskHi)) 0
   | _ => true)

/-- Whether the pin is static low: a selected category holds, or the always-on domain holds it (R427, R459). -/
def faultNLow (s : State) : Bool :=
  decide (s.power ≠ .off) && (s.aon.faultnLow || s.safety.managerLost || (List.range 11).any (assertsFaultN s))

/-- FAULT_STATUS (R466). -/
def faultStatus (s : State) : Word :=
  BitVec.ofNat 32 (s.safety.category.toNat / 2 * 2) ||| putb (faultNLow s) 0

/-- Whether a category cleared in this evaluation: at this tick (R462; log entry 30). -/
def clearedNow (s : State) (c : Nat) : Bool := s.safety.cleared.getLsbD c && decide (s.safety.clearedAt = s.tick)

/-- The waiting NOTIFY of a category that cleared withdrawn. -/
def withdrawNote (code : Nat) (s : State) : State :=
  { s with dict := { s.dict with
    notes := SMap.set s.dict.notes 2 ((SMap.get s.dict.notes 2 []).filter (fun x => x.code ≠ code ∨ x.tick ≠ s.tick)) [] } }

/-- A category becomes set (R460): source 393 and a NOTIFY of class 2, once while it stays set. One that recurs in the evaluation in
which it cleared stays set, with neither (R462). -/
def setCategory (c item : Nat) (s : State) : State :=
  if s.safety.category.getLsbD c then s
  else
    let again := clearedNow s c
    let s := { s with safety := { s.safety with category := setBit s.safety.category c true } }
    if again then withdrawNote (0x8000 + c) s else noteEvent 2 c item (faultStatus s) none (raise 393 s)

/-- A category clears (R460). -/
def clearCategory (c : Nat) (s : State) : State :=
  if ¬ s.safety.category.getLsbD c then s
  else
    let before := if s.safety.clearedAt = s.tick then s.safety.cleared else 0
    let s := { s with safety := { s.safety with
      category := setBit s.safety.category c false, cleared := setBit before c true, clearedAt := s.tick } }
    noteEvent 2 (0x8000 + c) 0xFFFF (faultStatus s) none s

/-! ### What a quad tells its sink (R261, R262) -/

/-- A quad's payload allocation and its picture parameter set, sent where they have changed and the link is UP. -/
def settleQuad (s : State) (q : Nat) : State :=
  let slots := (List.range 4).map (fun j => slotsOf s (8 * q + j))
  let slots := if slots.all (· = 0) then [] else slots
  let set := ppsOf s q
  let up (t : Nat) : Bool := decide ((s.txPort q t).state = .up)
  let s := if up 0 ∧ quadMode s q = 0 ∧ slots ≠ SMap.get s.oq.payload q [] then
      { s with oq := { s.oq with payload := SMap.set s.oq.payload q slots [] } }.send (.payload q slots)
    else s
  if up (txOf s (set.headD 0)) ∧ set ≠ [] ∧ set ≠ SMap.get s.oq.pps q [] then
    { s with oq := { s.oq with pps := SMap.set s.oq.pps q set [] } }.send (.pps (set.headD 0) set.tail)
  else s

/-- What a quad's sinks were told is forgotten as a link goes down. -/
def forgetQuad (q t : Nat) (s : State) : State :=
  let e := (SMap.get s.oq.pps q []).headD 0
  { s with oq := { s.oq with
    payload := if t = 0 then SMap.set s.oq.payload q [] [] else s.oq.payload
    pps := if txOf s e = t then SMap.set s.oq.pps q [] [] else s.oq.pps } }

/-! ### Keep faults (R200 to R203) -/

/-- Whether the keep owner is a network node. -/
def networkOwner (s : State) : Option Nat :=
  if 0x40 ≤ s.keep.owner ∧ s.keep.owner < 0x50 then some (s.keep.owner - 0x40) else none

/-- KSTATUS of a head (R214). -/
def kstatus (s : State) (n : Nat) : Word :=
  let k := s.keepHead n
  putb k.clearRefused 31 ||| putb k.blanked 30 ||| put k.lastKind 20 ||| put k.fallback.toNat 8 ||| put k.fault.toNat 0

/-- REACTION of a region: SAFE_COLOUR where the keep path is unavailable (R212). -/
def reactionOf (s : State) (n r : Nat) : Nat :=
  if s.keep.available then fld (s.reg (rg .scKrCtrl n r)) 1 2 else 0

/-- Whether some region in fault blanks the head (R202, R203). -/
def blanks (s : State) (n : Nat) : Bool :=
  (List.range 4).any (fun r => (s.keepHead n).fault.getLsbD r && decide (reactionOf s n r = 2))

/-- BLANKED follows the regions in fault. -/
def updateBlanked (n : Nat) (s : State) : State := s.setKeepHead n { s.keepHead n with blanked := blanks s n }

/-- A region of a keep fault (R201, R203): it enters fault; a region that shows its fallback is switched to SAFE_COLOUR. -/
def faultRegion (n : Nat) (s : State) (r : Nat) : State :=
  let k := s.keepHead n
  s.setKeepHead n { k with
    fault := setBit k.fault r true
    fallback := setBit k.fallback r false
    recent := setBit k.recent r true
    faultTick := if k.fault.getLsbD r then k.faultTick else SMap.set k.faultTick r s.tick 0 }

/-- The NOTIFY of each region that enters fault, whoever the keep owner is (R201, R313). -/
def noteRegions (n kind : Nat) (rs : List Nat) (s : State) : State :=
  rs.foldl (fun s r => noteEvent 1 kind (n * 256 + r) (kstatus s n) none s) s

/-- A keep fault of a kind in regions of a head (R201): fault bits, FAULT_N, source 65 + n and the owner's NOTIFY. Where every region is
already in fault, LAST_KIND alone is set, beside what R203 and R204 ask of a fault in such a region. A fault of a whole head that has no enabled region records and raises nothing,
on which the spec is silent (DESIGN CHOICE, log entry 83). -/
def keepFault (n kind : Nat) (rs : List Nat) (s : State) : State :=
  if rs.isEmpty then s
  else
    let entering := rs.filter (fun r => !(s.keepHead n).fault.getLsbD r)
    let s := rs.foldl (faultRegion n) s
    let s := updateBlanked n (s.setKeepHead n { s.keepHead n with lastKind := kind })
    if entering.isEmpty then s else noteRegions n kind entering (raise (65 + n) (setCategory 1 n s))

/-- Category 1 clears when no region is in fault (R461). -/
def settleKeep (s : State) : State := if anyKeepFault s then s else clearCategory 1 s

/-- The regions whose enabled K slot's rectangle lies inside them. -/
def regionsOfSlot (s : State) (n slot : Nat) : List Nat :=
  (keepRegions s n).filter (fun r => (layerView s slot).dstRect.inside (keepRect s n r))

/-- The enabled K slots of a head whose destination lies in a region. -/
def slotsOfRegion (s : State) (n r : Nat) : List Nat :=
  ((List.range 8).map (fun k => 88 + k)).filter (fun slot =>
    (layerView s slot).enabled && decide (slotHead s slot = n) && (layerView s slot).dstRect.inside (keepRect s n r))

/-- A region leaves the fault state (R204): its slots' fallbacks are those of a fault that is over. -/
def leaveFault (n : Nat) (s : State) (r : Nat) : State :=
  let k := s.keepHead n
  let s := (slotsOfRegion s n r).foldl (fun s slot => s.setLayer slot { s.layer slot with fell := false }) s
  let s := s.setKeepHead n { k with
    fault := setBit k.fault r false, fallback := setBit k.fallback r false, fellBack := setBit k.fellBack r false }
  let s := updateBlanked n s
  noteEvent 1 0 (n * 256 + r) (kstatus s n) none s

/-- While the keep path is unavailable every enabled region is in fault (R212); one that enters it is notified as any other (R313).
CODE is a free value: R200 has no kind for it (DESIGN CHOICE, log entry 74). -/
def enforceUnavailable (n : Nat) (s : State) : State :=
  if s.keep.available then s
  else
    let k := s.keepHead n
    let entering := (keepRegions s n).filter (fun r => !k.fault.getLsbD r)
    let s := s.setKeepHead n { k with fault := entering.foldl (fun m r => setBit m r true) k.fault }
    if entering.isEmpty then s else (noteRegions n (leNat (s.drawn 1 Config.undefinedByte)) entering s).draw 1

/-! ### The keep gate (R202) -/

/-- A safe colour at a head's depth, undithered. -/
def safePx (s : State) (n r : Nat) : Word :=
  let c := s.reg (rg .scKrSafe n r)
  let k := 2 ^ (10 - headDepth s n)
  packPx (fld c 20 10 / k) (fld c 10 10 / k) (fld c 0 10 / k)

/-- Whether the gate replaces a pixel of a region (R202): all of them while it is in fault and shows no fallback; then those of its K
slots whose fallback is not shown. -/
def gated (s : State) (n r x y : Nat) : Bool :=
  let k := s.keepHead n
  k.fault.getLsbD r && (!k.fallback.getLsbD r ||
    (slotsOfRegion s n r).any (fun slot => !(s.layer slot).fell && (layerView s slot).dstRect.holds x y))

/-- The post-gate pixels of a line (R202, R203): a blanked head shows 0, a gated region its safe colour. -/
def gateLine (s : State) (n y : Nat) (line : List Word) : List Word :=
  if (s.keepHead n).blanked then line.map (fun _ => 0)
  else
    let rs := (keepRegions s n).filter (fun r => (s.keepHead n).fault.getLsbD r)
    if rs.isEmpty then line
    else line.zipIdx.map (fun p => match rs.find? (fun r => (keepRect s n r).holds p.2 y && gated s n r p.2 y) with
      | some r => safePx s n r
      | none => p.1)

end Sys2Proof.Machine
end

