-- ==== Sys2Proof/Machine/Compose.lean ====
section
/-! DEFINITION. The pixel path of one display line: what a window fetches, scaling (R145 to R160), the per-layer colour stage (R166
to R171), composition (R172 to R176), the per-head stage and dither (R179 to R183), and the signatures over its result (R206). -/

namespace Sys2Proof.Machine

/-! ### A layer's destination line -/

/-- The feed of a layer's shown buffer. A K slot's shadow feed reads the mirror channel (R195), and has its own delivery. -/
def feedOf (s : State) (v : LayerView) (e : Envelope) (shadow : Bool) (lost : List Nat) : Feed :=
  { use := if e.beamRaced then .ring e.stream
      else match (s.layer v.slot).shown with | some b => b.use | none => .direct v.slot
    shadow := shadow
    channel := if shadow then e.mirror else e.channel
    view := v
    lost := if shadow then [] else lost
    tiles := if shadow then [] else (s.layer v.slot).tiles }

/-- A resident source line of a slot. -/
def residentRow (s : State) (v : LayerView) (y : Nat) : List Cell := SMap.get (s.layer v.slot).rows y []

/-- The filtered value of some cells (R159): missing where one is; the substitute colour, not counted, where a tile among them is
malformed (DESIGN CHOICE, log entry 62). -/
def filterCells (cs : List Int) (l : List Cell) : Cell :=
  (l.foldr (Got.both (fun p ps => p :: ps)) (.ok [])).map (filterPx cs)

/-- Rows taken column by column; a column that a row lacks is missing. -/
def columns (n : Nat) (rows : List (List Cell)) : List (List Cell) :=
  let arrs := rows.map List.toArray
  (List.range n).map (fun x => arrs.map (fun a => a.getD x (.error .missing)))

/-- The coefficients of one stage at a phase. -/
def coefs (sel taps phi : Nat) (loaded : Nat → Nat → Int) : List Int :=
  (List.range taps).map (fun k => coefficient sel taps phi k loaded)

/-- A loaded coefficient (R161). -/
def hCoefAt (s : State) (n phi k : Nat) : Int := signed 14 (s.reg (rg .saHcoef n phi k)).toNat
def vCoefAt (s : State) (n phi k : Nat) : Int := signed 14 (s.reg (rg .saVcoef n phi k)).toNat

/-- The vertical stage: the intermediate line of destination line d (R145, R149, R150). -/
def verticalStage (s : State) (v : LayerView) (d : Nat) : List Cell :=
  let x := scalerView s (v.slot - 64)
  let p := samplePos x.vInit x.vRatio d
  let rows := (List.range x.vTaps).map (fun k => residentRow s v (tapIndex p.1 x.vTaps v.sh k))
  (columns v.sw rows).map (filterCells (coefs x.vCoef x.vTaps p.2 (vCoefAt s (v.slot - 64))))

/-- The horizontal stage. -/
def horizontalStage (s : State) (v : LayerView) (mid : List Cell) : List Cell :=
  let x := scalerView s (v.slot - 64)
  let arr := mid.toArray
  (List.range v.dw).map (fun j =>
    let p := samplePos x.hInit x.hRatio j
    filterCells (coefs x.hCoef x.hTaps p.2 (hCoefAt s (v.slot - 64)))
      ((List.range x.hTaps).map (fun k => arr.getD (tapIndex p.1 x.hTaps v.sw k) (.error .missing))))

/-- A source line passed through with its edge repeated (R146). -/
def passRow (v : LayerView) (row : List Cell) : List Cell :=
  let arr := row.toArray
  (List.range v.dw).map (fun j => arr.getD (min j (v.sw - 1)) (.error .missing))

/-- Destination line d of a layer, from its resident lines. -/
def destLine (s : State) (v : LayerView) (d : Nat) : List Cell :=
  if passes s v.slot then passRow v (residentRow s v (min d (v.sh - 1))) else horizontalStage s v (verticalStage s v d)

/-- Destination line d of a K slot as the shadow fetches it (R195). -/
def shadowCells (s : State) (v : LayerView) (e : Envelope) (d : Nat) : List Cell :=
  passRow v (inputRow s (feedOf s v e true []) none (min d (v.sh - 1)))

/-! ### The per-layer colour stage (R166 to R171) -/

def s16 (w : Word) (lo : Nat) : Int := signed 16 (fld w lo 16)

/-- Nine coefficients from five registers. -/
def coefWords (w : Nat → Word) : List Int :=
  [s16 (w 0) 0, s16 (w 0) 16, s16 (w 1) 0, s16 (w 1) 16, s16 (w 2) 0, s16 (w 2) 16, s16 (w 3) 0, s16 (w 3) 16, s16 (w 4) 0]

/-- A layer's own matrix (R188). -/
def layerMatrix (s : State) (slot : Nat) : Matrix :=
  let i := slot / 6
  let j := slot % 6
  let pre := s.reg (rg .cpLpre01 i j)
  let post := s.reg (rg .cpLpost01 i j)
  { k := coefWords (fun k => s.reg (rg .cpLcoef i j k)),
    pre := [s16 pre 0, s16 pre 16, s16 (s.reg (rg .cpLpre2 i j)) 0],
    post := [s16 post 0, s16 post 16, s16 (s.reg (rg .cpLpost2 i j)) 0] }

/-- A head's post-blend matrix (R179, R187). -/
def headMatrix (s : State) (n : Nat) : Matrix :=
  let rg' := s.reg (rg .cpPostRg n)
  { k := coefWords (fun k => s.reg (rg .cpMat n k)), pre := [0, 0, 0],
    post := [s16 rg' 0, s16 rg' 16, s16 (s.reg (rg .cpPostB n)) 0] }

/-- Conversion of a layer's pixel (R166 step 1). -/
def convertLayer (s : State) (v : LayerView) (p : Px) : Px :=
  let c := s.reg (rg .cpLctrl (v.slot / 6) (v.slot % 6))
  match (if isK v.slot then 0 else fld c 0 2) with
  | 0 => if 5 ≤ (fmtClass v.fmt).getD 0 then convert (preset (fld c 4 3)) p else p
  | 1 => convert (layerMatrix s v.slot) p
  | _ => p

/-- Degamma on a head that blends in linear light (R166 step 2, R169). -/
def degamma (s : State) (n cls : Nat) (p : Px) : Px :=
  if bit (s.reg (rg .cpHctrl n)) 0 then lutPx (fun e => fld (s.reg (rg .cpDegamma n cls e)) 0 12) p else p

/-- A cell as it leaves the per-layer stage: a replaced pixel skips the conversion. -/
def colourStage (s : State) (n : Nat) (v : LayerView) (c : Cell) : Px :=
  let cls := fld (s.reg (rg .cpLctrl (v.slot / 6) (v.slot % 6))) 8 2
  degamma s n cls (match c with
    | .ok p => convertLayer s v p
    | .error _ => argb (s.reg (rg .faSubstColor v.slot)).toNat)

/-! ### Composition (R172 to R176) -/

/-- A 10-bit colour word widened. -/
def colour10 (w : Word) : Px := { c0 := widen 10 (fld w 20 10), c1 := widen 10 (fld w 10 10), c2 := widen 10 (fld w 0 10), a := 4095 }

/-- Whether the layer is composed in the frame being fetched: enabled, not hidden, and with a buffer to show (R135, R174). -/
def composes (s : State) (v : LayerView) (e : Envelope) : Bool :=
  v.enabled && !(s.layer v.slot).hidden &&
  (e.beamRaced || ((s.layer v.slot).shown.isSome && decide ((s.layer v.slot).policy ≠ .hide)))

/-- Whether the layer's rectangle is composed from SUBST_COLOR without a fetch (R135). -/
def substitutes (s : State) (v : LayerView) : Bool := decide ((s.layer v.slot).policy = .substitute)

/-- The layers of a head in composition order: ascending z, then slot (R174). -/
def headLayers (s : State) (n : Nat) : List (LayerView × Envelope) :=
  match imageOn s n with
  | none => []
  | some i =>
    if ¬ i.hasHead n then []
    else
      let l := (List.range 96).filterMap (fun slot =>
        if isBound s slot ∧ slotHead s slot = n then
          let v := layerView s slot
          match i.envOf slot with
          | some e => if composes s v e then some (v, e) else none
          | none => none
        else none)
      (List.range 16).flatMap (fun z => l.filter (fun p => p.1.z = z))

/-- Whether a layer's rectangle meets a display line. -/
def LayerView.meetsLine (v : LayerView) (y : Nat) : Bool := decide (v.dy ≤ y) && decide (y < v.dy + v.dh)

/-- A layer's contribution laid over a line; `takes` says at which pixels it is composed. -/
def blendLine (mode alpha dx : Nat) (takes : List Bool) (cells : List Px) (line : List Px) : List Px :=
  let l := widen 8 alpha
  let padded := (List.replicate dx none ++ cells.map some ++ List.replicate line.length none).take line.length
  List.zipWith (fun (q : Bool × Option Px) d => match q with
    | (true, some c) => blendOver (contribution mode l c) d
    | _ => d) (List.zip takes padded) line

/-- For each active pixel of a line, whether it lies in an enabled keep region. -/
def keepFlags (s : State) (n y w : Nat) : List Bool :=
  let rs := (keepRegions s n).map (keepRect s n)
  (List.range w).map (fun x => rs.any (fun r => r.holds x y))

/-- What lies beneath every layer (R175, R176): the keep backdrop inside enabled keep regions, the background elsewhere. -/
def ground (s : State) (n : Nat) (keep : List Bool) : List Px :=
  let bg := degamma s n 0 (colour10 (s.reg (rg .ccBackground n)))
  let kbg := degamma s n 0 (colour10 (s.reg (rg .scBackdrop n)))
  keep.map (fun k => if k then kbg else bg)

/-- The composed line (R174 to R176): every layer in order, by the destination lines that the windows made. -/
def composeLine (s : State) (n y w : Nat) : List Px :=
  let keep := keepFlags s n y w
  (headLayers s n).foldl (fun line p =>
    if p.1.meetsLine y then
      blendLine p.1.alphaMode p.1.layerAlpha p.1.dx (keep.map (fun k => k == isK p.1.slot))
        ((s.layer p.1.slot).cells.map (colourStage s n p.1)) line
    else line) (ground s n keep)

/-- A K layer's contribution laid over the shadow's line: a pixel without data is unknown from there on (R196). -/
def blendShadow (mode alpha dx : Nat) (takes : List Bool) (cells : List (Option Px)) (line : List (Option Px)) : List (Option Px) :=
  let l := widen 8 alpha
  let padded := (List.replicate dx none ++ cells.map some ++ List.replicate line.length none).take line.length
  List.zipWith (fun (q : Bool × Option (Option Px)) d => match q, d with
    | (true, some (some c)), some d => some (blendOver (contribution mode l c) d)
    | (true, some none), _ => none
    | _, d => d) (List.zip takes padded) line

/-- The shadow's composition of the pixels inside enabled keep regions (R195): keep layers alone, of the mirror copies. -/
def composeShadow (s : State) (n y w : Nat) : List (Option Px) :=
  let keep := keepFlags s n y w
  ((headLayers s n).filter (fun p => isK p.1.slot)).foldl (fun line p =>
    if p.1.meetsLine y then
      blendShadow p.1.alphaMode p.1.layerAlpha p.1.dx keep
        ((shadowCells s p.1 p.2 (y - p.1.dy)).map (fun c => match c with
          | .ok q => some (colourStage s n p.1 (.ok q))
          | .error _ => none)) line
    else line) ((ground s n keep).map some)

/-- The per-head stage (R179, R180) and dither (R182): the post-dither pixel at (x, y) in frame phase `phi`. -/
def postDither (s : State) (n x y phi : Nat) (p : Px) : Word :=
  let h := s.reg (rg .cpHctrl n)
  let p := if bit h 1 then convert (headMatrix s n) p else p
  let p := if bit h 2 then lutPx (fun e => fld (s.reg (rg .cpRegamma n e)) 0 12) p else p
  let d := dither (fld h 8 2) (headDepth s n) x y phi
  packPx (d p.c0) (d p.c1) (d p.c2)

/-- The post-dither pixels of a display line of width w (R183). -/
def displayLine (s : State) (n y phi w : Nat) : List Word := (composeLine s n y w).zipIdx.map (fun q => postDither s n q.2 y phi q.1)

/-- The shadow's post-dither pixels of a display line; unknown ones have no value (R195, R196). -/
def shadowLine (s : State) (n y phi w : Nat) : List (Option Word) :=
  (composeShadow s n y w).zipIdx.map (fun q => q.1.map (postDither s n q.2 y phi))

/-! ### Effects of a window -/

/-- The raster of the frame that a display line belongs to: the applied one for a line of the next frame (R61, R175). -/
def rasterOfLine (s : State) (n : Nat) (next : Bool) : Raster := if next then appliedRaster s n else (s.head n).raster

/-- The frame that a display line belongs to: for a line of the next frame, the FRAME that its anchor will bring (R48, R49, R182). -/
def frameOfLine (s : State) (n : Nat) (next : Bool) : Nat :=
  (if next then frameAt s n (nextAnchor s n).2 else (s.head n).frame).toNat

/-- The race decision for a source line of a beam-raced plane, and its counts (R247, R248). -/
def raceDecide (v : LayerView) (e : Envelope) (s : State) (y : Nat) : State :=
  if e.beamRaced then
    let n := v.slot - 64
    let r := raceLine s e.stream (s.race n).bound (v.sy + y)
    let x := s.race n
    let s := s.setRace n { x with lines := SMap.set x.lines (v.sy + y) (match r.1 with | some f => f + 1 | none => 0) 0
                                  lost := x.lost || !r.2 }
    let s := if r.2 then s else s.bump (rg .siRaceLost n) 0 32 1
    if r.1.isNone then s.bump (rg .siRaceSubst n) 0 32 1 else s
  else s

/-- Where the bytes of a source line lie: the feed, and the line in its view. A line lost to the beam has none. -/
def lineFeed (s : State) (v : LayerView) (e : Envelope) (lost : List Nat) (y : Nat) : Option (Feed × Nat) :=
  if e.beamRaced then
    match SMap.get (s.race (v.slot - 64)).lines (v.sy + y) 0 with
    | 0 => none
    | x + 1 => some (feedOf s (raceView v (ringOf s e.stream) x (v.sy + y)) e false lost, 0)
  else some (feedOf s v e false lost, y)

/-- The byte ranges of source line y of a linear surface: with luma line y comes chroma line n(y) (R148). -/
def lineRanges (v : LayerView) (y : Nat) : List (Nat × Nat) :=
  (v.pixelVa v.sx (v.sy + y), plane0Bytes v.fmt v.sw) ::
    (if isSemi v.fmt then [(v.chromaVa v.sx (v.sy + 2 * chromaLineOf (v.sh / 2 - 1) y), v.sw / 2 * chromaBytes v.fmt)] else [])

/-- The first bytes of the bursts that some byte ranges ask for. -/
def rangeBursts (l : List (Nat × Nat)) : List Nat :=
  l.flatMap (fun r => (List.range (r.2 / 64 + 2)).filterMap (fun i =>
    let va := if i = 0 then r.1 else r.1 / 64 * 64 + 64 * i
    if r.1 + r.2 ≤ va then none else some va))

/-- Scheduled bursts counted (R397): those issued by their channel, and those delivered to a slot. -/
def countBursts (f : Feed) (req : Nat) (l : List (Nat × Nat)) (s : State) : State :=
  let bs := (l.map (fun p => (p.2 / 64, f.lost.contains (p.1 / 64)))).eraseDups
  let here := bs.filter (fun b => chanOf (b.1 * 64) = f.channel)
  let s := perfEvent 1 f.channel 1 here.length s
  if req = 8 then perfEvent 3 f.view.slot 1 (here.countP (fun b => !b.2 && !burstBad s b.1)) s else s

/-- The reports of what a window fetches (R93, R103, R105): a burst that fails translation is a translation fault met in a page pinned
as faulting; an uncorrectable burst counts, and a scheduled one sets category 9 (R461). Requester 8 is scheduled fetch, and 9 the
shadow's (R116, R195). -/
def reportBursts (f : Feed) (req : Nat) (ranges : List (Nat × Nat)) (s : State) : State :=
  let l := (rangeBursts ranges).map (fun va => (va, pinnedDpa s f.use f.shadow va))
  let s := countBursts f req (l.filterMap (fun p => p.2.map (fun d => (p.1, d)))) s
  let s := (l.filter (fun p => p.2.isNone)).foldl (fun s p => xlatFault f.view.ctx p.1 0 req false s) s
  let bad := ((l.filterMap (·.2)).filter (fun d => chanOf d = f.channel && burstBad s (d / 64))).map (· / 64)
  bad.eraseDups.foldl (fun s b =>
    let s := eccUncorrect (chanOf (b * 64)) b req s
    if req = 8 then setCategory 9 0xFFFF s else s) s

/-- A tile as far as a slice has brought it: kept for the lines of its row, and counted where it turns out malformed, or is solid
(R124, R125, R397). -/
def keepTile (v : LayerView) (r c : Nat) (t : Got Tile) (s : State) : State :=
  let s := match t with
    | .error .malformed => s.bump (rg .faEventCount v.slot) 16 16 1
    | .error .missing => s
    | .ok t => perfEvent 3 v.slot 5 (if t.len = 0 then 1 else 0) s
  s.setLayer v.slot { s.layer v.slot with tiles := SMap.ins (s.layer v.slot).tiles (r * 65536 + c) t }

/-- A burst of a tile row read: headers are always read, and of a payload slot only the LEN bursts that its tile has (R123). -/
def takeBurst (v : LayerView) (e : Envelope) (lost : List Nat) (r : Nat) (s : State) (b : RowBurst) : State :=
  let f := feedOf s v e false lost
  match b with
  | .headers cols =>
    let tiles := cols.map (fun c => (c, readHeader s f r c))
    let s := reportBursts f 8 [(v.pixelVa (16 * cols.headD 0) (4 * r), 8 * cols.length)] s
    tiles.foldl (fun s p => keepTile v r p.1 p.2 s) s
  | .payload c j =>
    match f.tiles.find? (fun e => e.1 = r * 65536 + c) with
    | some (_, .ok t) =>
      if t.len ≤ j then s
      else keepTile v r c (readPayload s f r c j t) (reportBursts f 8 [(v.payloadVa (16 * c) (4 * r) + 64 * j, 64)] s)
    | _ => s

/-- A slice of a tile row. -/
def takeSlice (v : LayerView) (e : Envelope) (lead : Nat) (lost : List Nat) (s : State) (p : Nat × Nat) : State :=
  (sliceBursts v lead p.1 p.2).foldl (takeBurst v e lost p.1) s

/-- A source line that a window brings: it is read now, and stays as read while it is resident (R145, R152, R247). -/
def bringLine (v : LayerView) (e : Envelope) (lost : List Nat) (s : State) (y : Nat) : State :=
  let s := raceDecide v e s y
  match lineFeed s v e lost y with
  | none => s.setLayer v.slot { s.layer v.slot with rows := SMap.set (s.layer v.slot).rows y (List.replicate v.sw (.error .malformed)) [] }
  | some (f, k) =>
    let row := inputRow s f (s.layer v.slot).chroma k
    let chroma := if is420 (fmtClass v.fmt) then some (deliveredChroma s f k) else none
    let s := if isTc v.fmt then s else reportBursts f 8 (lineRanges f.view k) s
    s.setLayer v.slot { s.layer v.slot with rows := SMap.set (s.layer v.slot).rows y row [], chroma := chroma }

/-- Binding a beam-raced plane to the stream's frame, and emptying the line buffer (R152, R246). -/
def startLayerFrame (v : LayerView) (e : Envelope) (s : State) : State :=
  let s := s.setLayer v.slot { s.layer v.slot with rows := [], chroma := none, tiles := [] }
  if e.beamRaced then
    let x := s.stream e.stream
    s.setRace (v.slot - 64) { s.race (v.slot - 64) with
      bound := if x.firstSince then none else some x.frame.toNat, lines := [] }
  else s

/-- The end of the window of destination line d: its line is made, and what it does not use is released (R152). -/
def makeLine (v : LayerView) (d : Nat) (s : State) : State :=
  let used := usedLines s v d
  let l := s.layer v.slot
  let first := used.foldl min v.sh
  s.setLayer v.slot { l with
    cells := destLine s v d
    rows := l.rows.filter (fun e => used.contains e.1)
    tiles := l.tiles.filter (fun e => decide ((v.sy + first) / 4 ≤ e.1 / 65536)) }

/-- The shadow's own fetch for a destination line of a K slot (R195). -/
def shadowFetch (v : LayerView) (e : Envelope) (d : Nat) (s : State) : State :=
  if isK v.slot && s.keep.available then
    let f := feedOf s v e true []
    reportBursts f 9 (lineRanges v (min d (v.sh - 1))) s
  else s

/-- What one window does for one layer. -/
def windowLayer (y lead vTotal : Nat) (lost : List LostBurst) (s : State) (p : LayerView × Envelope) : State :=
  let v := p.1
  let e := p.2
  let w := windowFor v lead vTotal y
  if substitutes s v then s.setLayer v.slot { s.layer v.slot with cells := List.replicate v.dw (.error .malformed) }
  else
    let gone := (lost.filter (fun b => b.slot.val = v.slot)).map (·.burst)
    let s := if firstWindow s v w then startLayerFrame v e s else s
    let s := if isTc v.fmt then (windowSlices s v lead w).foldl (takeSlice v e lead gone) s else s
    let lines := broughtLines s v lead w
    let s := lines.foldl (bringLine v e gone) s
    let s := if isV v.slot then
        perfEvent 4 (v.slot - 64) 2 (match w with | .dest _ => 1 | _ => 0) (perfEvent 4 (v.slot - 64) 1 lines.length s)
      else s
    match w with
    | .dest d => shadowFetch v e d (makeLine v d s)
    | _ => s

/-- Whether some pixel of a layer's line has no data (R93, R159). -/
def lineShort (s : State) (v : LayerView) (y : Nat) : Bool :=
  v.meetsLine y && (s.layer v.slot).cells.any (fun c => decide (c = .error .missing))

/-- SUBST_COUNT and source 3 + 4n for the layers of a line (R93, R159). -/
def countShort (n y : Nat) (s : State) : State :=
  let short := (headLayers s n).filter (fun p => lineShort s p.1 y)
  if short.isEmpty then s
  else raise (3 + 4 * n) (short.foldl (fun s p => perfEvent 3 p.1.slot 4 1 (s.bump (rg .faSubstCount p.1.slot) 0 32 1)) s)

/-- The pixels of a line that a rectangle takes. -/
def cut (x0 x1 : Nat) (l : List Word) : List Word := (l.drop x0).take (x1 - x0)

/-- A signature region's CRC over a line (R206): it begins anew at the region's first line. -/
def signLine (v : SigView) (y : Nat) (line : List Word) (crc : Word) : Word :=
  if v.y0 ≤ y ∧ y < v.y1 then
    BitVec.ofNat 32 (crcRun 1 (if y = v.y0 then crcInit 1 else crc.toNat) (bytesOf (cut v.x0 v.x1 line)))
  else crc

/-- The shadow's pixels of a line as its signatures take them: a free word for each unknown one (R206; log entry 8). -/
def fillUnknown : List (Option Word) → List Word → List Word
  | [], _ => []
  | some w :: t, free => w :: fillUnknown t free
  | none :: t, free => free.headD 0 :: fillUnknown t free.tail

/-- Where main path and shadow disagree on a line: column, and the kind of keep fault (R196, R197). While the keep path is
unavailable nothing is compared and the shadow fetches nothing, on which R212 is silent (DESIGN CHOICE, log entry 86). -/
def compareLine (s : State) (n y w : Nat) (main : List Word) (shadow : List (Option Word)) : List (Nat × Nat) :=
  if ¬ s.keep.available then []
  else
    ((List.zip (keepFlags s n y w) (List.zip main shadow)).zipIdx).filterMap (fun p =>
      match p.1 with
      | (true, m, some x) => if m = x then none else some (p.2, 1)
      | (true, _, none) => some (p.2, 3)
      | _ => none)

/-- One region's running CRCs after a line. -/
def signRegion (n y : Nat) (line shadow : List Word) (s : State) (r : Nat) : State :=
  let v := sigView s n r
  let x := s.sig n r
  s.setSig n r { x with crc := signLine v y line x.crc
                        shadowCrc := if v.mode = 2 then signLine v y shadow x.shadowCrc else x.shadowCrc }

/-- The signatures of a head over one line. -/
def signHead (n y : Nat) (line : List Word) (shadow : List (Option Word)) (s : State) : State :=
  let rs := activeSigs s n
  let unknown := if rs.any (fun r => decide ((sigView s n r).mode = 2)) then shadow.countP Option.isNone else 0
  let words := fillUnknown shadow (wordsOf (s.drawn (4 * unknown) Config.undefinedByte))
  (rs.foldl (signRegion n y line words) s).draw (4 * unknown)

/-- The pixel pairs that a layer's rectangle meets on a display line. -/
def layerPairs (v : LayerView) (y : Nat) : Nat :=
  if v.meetsLine y then (v.dx + v.dw + 1) / 2 - v.dx / 2 else 0

/-- The cluster of a head. -/
def clusterOf (s : State) (n : Nat) : Nat := match imageOn s n with
  | some i => (SMap.get i.heads n {}).cluster
  | none => 0

/-- The tiles of enabled keep regions that end with line y (R197). -/
def tilesEnding (s : State) (n y : Nat) (r : Raster) : Nat :=
  if y % 4 ≠ 3 ∧ y + 1 ≠ r.vActive then 0
  else (List.range (ceilDiv r.hActive 16)).countP (fun c => (keepRegions s n).any (fun k =>
    (List.range 16).any (fun x => (List.range 4).any (fun i => (keepRect s n k).holds (16 * c + x) (y / 4 * 4 + i)))))

/-- What the composition of a display line counts (R397). -/
def countLine (n y : Nat) (r : Raster) (s : State) : State :=
  let pairs := r.hActive / 2
  let layers := ((headLayers s n).map (fun p => layerPairs p.1 y)).foldl (· + ·) 0
  let s := perfEvent 5 (clusterOf s n) 2 layers (perfEvent 5 (clusterOf s n) 1 pairs s)
  let s := perfEvent 7 n 2 (if bit (s.reg (rg .cpHctrl n)) 0 then layers else 0) (perfEvent 7 n 1 pairs s)
  if s.keep.available ∧ fld (s.reg (rg .pmCtrl 6)) 0 8 ≠ 0 then perfEvent 6 n 1 (tilesEnding s n y r) s else s

/-- A display line composed, by the main path and by the shadow: it waits in the tap for its scan, with what the comparator finds in it
(R183, R195 to R197). -/
def showLine (n y : Nat) (next : Bool) (s : State) : State :=
  let r := rasterOfLine s n next
  let s := countLine n y r (countShort n y s)
  let phi := frameOfLine s n next % 4
  let line := displayLine s n y phi r.hActive
  let shadow := if (keepRegions s n).isEmpty then line.map some else shadowLine s n y phi r.hActive
  let s := signHead n y line shadow { s with tap := SMap.set s.tap (n * 65536 + y) line [] }
  let k := s.keepHead n
  s.setKeepHead n { k with diff := SMap.set k.diff y (compareLine s n y r.hActive line shadow) [] }

/-- The window of display line y, of this frame or the next: what it brings, and the line it lets the head show (R70, R183). -/
def openWindow (n y : Nat) (next : Bool) (lost : List LostBurst) (s : State) : State :=
  let r := rasterOfLine s n next
  let s := (headLayers s n).foldl (windowLayer y (leadOf s n) r.vTotal lost) s
  if y < r.vActive then showLine n y next s else s

end Sys2Proof.Machine
end

