-- ==== Sys2Proof/Machine/Apply.lean ====
section
/-! DEFINITION. Applying items: completion records (R140), what an applied write brings with it, the verdict on an item and the
code it leaves when it is rejected (R45, R84, R286). -/

namespace Sys2Proof.Machine

/-! ### Completion records (R140) -/

/-- A record put into a ring at its write index, with the two indices after it. -/
def putRec (f wr rd : Nat) (r : DoneRec) (s : State) : State :=
  { s with fa := { s.fa with
      recs := SMap.set s.fa.recs (f * 64 + wr % 64) r {}
      doneWr := SMap.set s.fa.doneWr f ((wr + 1) % 2 ^ 32) 0
      doneRd := SMap.set s.fa.doneRd f rd 0 } }

/-- A record stored in a function's ring; a full ring loses its oldest. -/
def storeRec (f : Nat) (r : DoneRec) (s : State) : State :=
  let wr := SMap.get s.fa.doneWr f 0
  let rd := SMap.get s.fa.doneRd f 0
  let full : Bool := decide ((wr + 2 ^ 32 - rd) % 2 ^ 32 = 64)
  let s := if full then s.bump (rg .faDoneOvr f) 0 16 1 else s
  putRec f wr (if full then (wr + 2 ^ 32 - 63) % 2 ^ 32 else rd) r s

/-- The function that owns a port (R127). -/
def portOwner (s : State) (p : Nat) : Nat := fld (s.reg (rg .faPortCfg p)) 0 5

/-- A record made for the function that owns the entry's port; it is stored with the others of its latch. -/
def makeRec (ev detail port : Nat) (tag : Word) (head frame : Nat) (s : State) : State :=
  let r : DoneRec := { tag := tag, port := port, event := ev + 16 * detail, head := head, frame := BitVec.ofNat 64 frame }
  { s with fa := { s.fa with due := s.fa.due ++ [(portOwner s port, r)] } }

/-- The place of an event among the records of one latch: DROPPED, RETIRED, SHOWN, NOT_READY. -/
def recOrder (event : Nat) : Nat := match event % 16 with | 3 => 0 | 2 => 1 | 1 => 2 | 4 => 3 | _ => 4

/-- Every record made is stored, in that order. -/
def flushRecs (s : State) : State :=
  let l := s.fa.due
  let s := { s with fa := { s.fa with due := [] } }
  (List.range 5).foldl (fun s k => (l.filter (fun e => recOrder e.2.event = k)).foldl (fun s e => storeRec e.1 e.2 s) s) s

/-- The frame number of a head. -/
def frameNo (s : State) (n : Nat) : Nat := (s.head n).frame.toNat

/-- An entry that leaves a queue with a record, and its pin with it. -/
def leaveQueue (ev detail slot n : Nat) (e : QEntry) (s : State) : State :=
  dropPin (.queue slot e.seq) (makeRec ev detail e.port e.tag n (frameNo s n) s)

/-- A slot's queue emptied with DROPPED records (R131). -/
def emptyQueue (slot n : Nat) (s : State) : State :=
  let q := (s.layer slot).queue
  let s := s.setLayer slot { s.layer slot with queue := [], sel := none }
  q.foldl (fun s e => leaveQueue 3 0 slot n e s) s

/-- The pin of a buffer that is shown no longer; a fallback image keeps its own (R106). -/
def unpinShown (b : Shown) (s : State) : State :=
  match b.use with
  | .fallback _ => s
  | u => dropPin u s

/-- The shown buffer leaves: RETIRED where it came through a port (R134, R137). -/
def retireShown (slot n : Nat) (s : State) : State :=
  match (s.layer slot).shown with
  | none => s
  | some b =>
    let s := match b.port with
      | some p => makeRec 2 0 p b.tag n (frameNo s n) s
      | none => s
    unpinShown b (s.setLayer slot { s.layer slot with shown := none })

/-- An unbind or a change of head (R137): the slot starts as one that has never shown a buffer. -/
def resetSlot (slot n : Nat) (s : State) : State :=
  let s := (retireShown slot n (emptyQueue slot n s)).setLayer slot {}
  if isV slot then s.setRace (slot - 64) { s.race (slot - 64) with lost := false } else s

/-! ### Pins that follow applied registers (R106) -/

/-- A pin's use renamed, at the first pin that a test names. -/
def renamePin (old : Pin → Bool) (new : PinUse) : List Pin → List Pin
  | [] => []
  | p :: t => if old p then { p with use := new } :: t else p :: renamePin old new t

/-- The pin that a direct application of a slot's surface at a base address asked for. -/
def directPin (slot base : Nat) (p : Pin) : Bool := decide (p.use = .direct slot) && decide (p.base = base)

/-- The first pin that a test names removed. -/
def dropFirstPin (old : Pin → Bool) (s : State) : State :=
  { s with fabric := { s.fabric with pins := s.fabric.pins.eraseP old } }

/-- A new sequence number for a queued or shown buffer. -/
def State.newSeq (s : State) : State := { s with fa := { s.fa with seq := s.fa.seq + 1 } }

/-- A direct application of the surface group: its buffer is shown, with no record, and KEEP_AGE is 0 (R137, R138).
A port buffer that it displaces gets no RETIRED record: the spec gives none for it (DESIGN CHOICE, log entry 81). -/
def showDirect (slot : Nat) (s : State) : State :=
  let s := match (s.layer slot).shown with
    | some b => unpinShown b s
    | none => s
  let seq := s.fa.seq
  let s := { s.newSeq with fabric := { s.fabric with pins := renamePin (directPin slot (layerView s slot).base) (.queue slot seq) s.fabric.pins } }
  s.setLayer slot { s.layer slot with shown := some { tag := 0, port := none, use := .queue slot seq }, keepAge := 0 }

/-- A KFALLBACK pair applied: its image is pinned for the slot's surface; one that is shown keeps its old pin until it is shown
no longer. -/
def repinFallback (k : Nat) (s : State) : State :=
  let slot := 88 + k
  let s := match (s.layer slot).shown with
    | some b =>
      if b.use = .fallback k then
        let seq := s.fa.seq
        ({ s.newSeq with fabric := { s.fabric with pins := renamePin (fun p => decide (p.use = PinUse.fallback k)) (.queue slot seq) s.fabric.pins } }).setLayer
          slot { s.layer slot with shown := some { b with use := .queue slot seq } }
      else s
    | none => s
  let s := dropPin (.fallback k) s
  let va := fallbackVa s k
  if va = 0 then s
  else
    let v := layerView s slot
    requestPin (.fallback k) v.ctx va (v.withBuffer va v.plane1).extent s

/-- Refused pins of a use are tried again (R106). -/
def retryPins (p : PinUse → Bool) (s : State) : State :=
  { s with fabric := { s.fabric with
    pins := s.fabric.pins.map (fun x => if x.state = .refused ∧ p x.use then { x with state := .pending } else x) } }

/-! ### Phase groups (R49, R55) -/

/-- A change of genlock state raises source 381 + g (R55). -/
def setGState (g : Nat) (x : GState) (s : State) : State :=
  let p := s.pgroup g
  if p.state = x then s else raise (381 + g) (s.setPgroup g { p with state := x })

/-- The bytes of a group's frame start (log entry 7). -/
def groupStartBytes (g at_ : Nat) : List Byte := [0x02#8] ++ leBytes 1 g ++ leBytes 8 at_

/-- The frame start that the belfry sends for a group (R410). -/
def sendGroupStart (g at_ : Nat) (s : State) : State :=
  if s.casc.role = 1 ∧ s.casc.state = .joined then s.send (.osleig 1 none (groupStartBytes g at_)) else s

/-- A group anchor passes: the head that CTRL names and its raster define the frame that begins (R49, R62). -/
def groupAnchored (g a : Nat) (gf : DWord) (s : State) : State :=
  let l := namedLeader s g
  sendGroupStart g a
    (s.setPgroup g { s.pgroup g with anchor := some a, prev := (s.pgroup g).anchor, slew := 0, gf := gf, lead := some (l, appliedRaster s l) })

/-- The frame starts of `count` group anchors from a tick on, a group frame apart (R410). -/
def groupStarts (g first f count : Nat) (s : State) : State :=
  (List.range count).foldl (fun s i => sendGroupStart g (first + i * f) s) s

/-- A group whose leader does not run: its anchors pass, and GF counts them (R49). -/
def advanceGroup (s : State) (g : Nat) : State :=
  let p := s.pgroup g
  match p.anchor, groupPeriod s g with
  | some a, some f =>
    let first := ((a + f : Nat) + p.slew).toNat
    if isRunning s (leaderOf s g) ∨ f = 0 ∨ s.tick < first then s
    else
      let s := groupAnchored g first (p.gf + 1) s
      let f := (groupPeriod s g).getD 0
      if isRunning s (leaderOf s g) ∨ f = 0 then s
      else
        let k := (s.tick - first) / f
        if k = 0 then s
        else groupAnchored g (first + k * f) (p.gf + 1 + BitVec.ofNat 64 k)
          ((groupStarts g (first + f) f (k - 1) s).setPgroup g { s.pgroup g with anchor := some (first + (k - 1) * f) })
  | _, _ => s

def advanceGroups (s : State) : State := (List.range 4).foldl advanceGroup s

/-- A group that comes to have a frame period: its anchors are counted from that moment where its leader does not run (DESIGN
CHOICE, log entry 16). -/
def originGroup (s : State) (g : Nat) : State :=
  if (s.pgroup g).lead.isNone ∧ (s.head (namedLeader s g)).timingApplied then groupAnchored g s.tick (s.pgroup g).gf s else s

def originGroups (s : State) : State := (List.range 4).foldl originGroup s

/-- REF applied (R55): OFF for NONE, else ACQUIRING with no event yet, whatever REF was before. -/
def applyRef (g : Nat) (s : State) : State :=
  let s := setGState g (if fld (s.reg (rg .btPgCtrl g)) 0 3 = 0 then .off else .acquiring) s
  s.setPgroup g { s.pgroup g with event := none, refSince := s.tick, prevGood := false }

/-! ### What an applied write brings with it -/

/-- Whether a slot's binding ends or moves between two states (R137). -/
def leavesHead (before after : State) (slot : Nat) : Bool :=
  isBound before slot && (!isBound after slot || decide (slotHead after slot ≠ slotHead before slot))

/-! ### Slots that an old head goes on showing (R482) -/

/-- Whether a register says how a slot is shown: one of its layer, its colour stage or its scaler. -/
def RegId.ofSlot (r : RegId) (slot : Nat) : Bool :=
  match r.name with
  | .faCtrl | .faSubstColor | .faConstColor | .faFormat | .faPitch | .faPlane1 | .faBaseLo | .faBaseHi | .faSrcPos | .faSrcSize | .faDstPos
  | .faDstSize | .faMisc => decide (r.i = slot)
  | .saTaps | .saHInit | .saVInit | .saHRatio | .saVRatio | .saChroma | .saHcoef | .saVcoef => decide (r.i + 64 = slot)
  | .cpLctrl | .cpLcoef | .cpLpre01 | .cpLpre2 | .cpLpost01 | .cpLpost2 => decide (r.cpSlot = slot)
  | _ => false

/-- The values of a slot's registers. -/
def slotRegs (s : State) (slot : Nat) : List (Nat × Word) := s.regs.filter (fun e => (regAt e.1).any (·.ofSlot slot))

/-- A slot as it stands. -/
def slotNow (s : State) (slot n : Nat) : Linger := { slot := slot, head := n, regs := slotRegs s slot, layer := s.layer slot }

/-- A slot put back as it stood. -/
def putSlot (s : State) (x : Linger) : State :=
  let s := (slotRegs s x.slot).foldl (fun s e => s.setKey e.1 (resetAt e.1)) s
  ((x.regs.filter (fun e => (regAt e.1).any (·.ofSlot x.slot))).foldl (fun s e => s.setKey e.1 e.2) s).setLayer x.slot x.layer

/-- Whether an old head still shows a slot. -/
def lingers (s : State) (slot : Nat) : Bool := s.fa.linger.any (fun x => decide (x.slot = slot))

/-- The slots that head n still shows though they have left it. -/
def lingering (s : State) (n : Nat) : List Linger := s.fa.linger.filter (fun x => decide (x.head = n))

/-- What head n fetches and shows: the slots that it still shows stand as it shows them. -/
def seenBy (n : Nat) (f : State → State) (s : State) : State :=
  let now := (lingering s n).map (fun x => slotNow s x.slot n)
  let s := f ((lingering s n).foldl putSlot s)
  let s := { s with fa := { s.fa with linger := s.fa.linger.map (fun x => if x.head = n then { x with layer := s.layer x.slot } else x) } }
  now.foldl putSlot s

/-- A slot leaves a running head for one that does not run: its old head goes on showing it (R482; log entry 56). -/
def lingerSlot (before : State) (slot : Nat) (s : State) : State :=
  { s with fa := { s.fa with linger := s.fa.linger ++ [slotNow before slot (slotHead before slot)] } }.setLayer slot { hidden := true }

/-- Head n's latch, or its stop, ends that: the buffers that it showed and the entries queued then leave with their records. -/
def endLinger (n : Nat) (s : State) : State :=
  (lingering s n).foldl (fun s x =>
    let now := s.layer x.slot
    let s := resetSlot x.slot n (s.setLayer x.slot x.layer)
    s.setLayer x.slot { now with hidden := false })
    { s with fa := { s.fa with linger := s.fa.linger.filter (fun x => decide (x.head ≠ n)) } }

/-- Whether a slot that leaves its head goes on being shown there: the head runs, and the slot moves to another and is not hidden. -/
def staysShown (before after : State) (slot : Nat) : Bool :=
  isRunning before (slotHead before slot) && decide (slotHead after slot ≠ slotHead before slot) && !(before.layer slot).hidden

/-- A slot whose binding ends, or that moves (R137, R482). -/
def leaveHead (before : State) (slot : Nat) (s : State) : State :=
  if staysShown before s slot then lingerSlot before slot s
  else
    let s := resetSlot slot (slotHead before slot) s
    s.setLayer slot { s.layer slot with hidden := lingers s slot }

/-- The order in which the writes of an item take effect: those of CTRL first, since what leaves a head leaves before a buffer is shown
(R137). -/
def effectOrder (ws : List Wr) : List Wr :=
  let ctrl (w : Wr) : Bool := (regAt w.addr).any (fun r => decide (r.name = .faCtrl))
  ws.filter ctrl ++ ws.filter (fun w => !ctrl w)

/-- The effects of one applied register beside its value. -/
def applyEffect (before : State) (s : State) (w : Wr) : State :=
  match regAt w.addr with
  | none => s
  | some r =>
    match r.name with
    | .dhPairDiv => s.setHead r.i { s.head r.i with timingApplied := true }
    | .faCtrl =>
      if leavesHead before s r.i then leaveHead before r.i s
      else if slotHead s r.i ≠ slotHead before r.i then s.setLayer r.i { s.layer r.i with hidden := false, reshow := false }
      else s
    | .faBaseHi => showDirect r.i s
    | .scKfallbackHi => repinFallback r.i s
    | .btPgCtrl => applyRef r.i s
    | .scSigCtrl =>
      let a := sigView before r.i r.j
      let b := sigView s r.i r.j
      if a.mode ≠ b.mode ∨ (a.x0, a.y0, a.x1, a.y1) ≠ (b.x0, b.y0, b.x1, b.y1) then
        s.setSig r.i r.j { s.sig r.i r.j with last4 := [], equal := 0 }
      else s
    | _ => s

/-- Writes laid over a state. -/
def overlay (ws : List Wr) (s : State) : State := ws.foldl (fun s w => s.setKey w.addr w.value) s

/-- Whether a register bears on what a quad tells its sinks (R261, R262). -/
def bearsOnLink (w : Wr) : Bool :=
  match regAt w.addr with
  | some r => match r.name with | .epEctrl | .oqDsc | .dhPairDiv => true | _ => false
  | none => false

/-- Every quad's sinks told what has changed. -/
def settleQuads (s : State) : State := (List.range 8).foldl settleQuad s

/-- A pin that must cover a buffer in a context: where the context changes, or the buffer grows, it is asked for anew (R106; log entry
76). -/
def recover (ctx len : Nat) (p : Pin) : Pin :=
  if p.ctx ≠ ctx then { p with ctx := ctx, len := len, state := .pending, pages := [], shadow := [] }
  else if p.len < len then { p with len := len, state := .pending }
  else p

/-- The length of what a pin of a slot's must cover under the slot's applied state: a queued entry's buffer, the shown one, or the
fallback image. -/
def coverOf (s : State) (slot : Nat) (u : PinUse) : Option Nat :=
  let v := layerView s slot
  match u with
  | .queue k q =>
    if k ≠ slot then none
    else match (s.layer slot).queue.find? (fun e => e.seq = q) with
      | some e => some (v.withBuffer e.buf e.plane1.toNat).extent
      | none => if (s.layer slot).shown.any (fun b => decide (b.use = u)) then some v.extent else none
  | .fallback k => if k + 88 = slot then some (v.withBuffer (fallbackVa s k) v.plane1).extent else none
  | _ => none

/-- The pins of a slot follow its format, geometry and context (R106). -/
def repinSlot (s : State) (slot : Nat) : State :=
  { s with fabric := { s.fabric with pins := s.fabric.pins.map (fun p =>
    match coverOf s slot p.use with
    | some len => recover (layerView s slot).ctx len p
    | none => p) } }

/-- The slots whose buffers' extent or context an item bears on. -/
def extentSlots (ws : List Wr) : List Nat :=
  (ws.filterMap (fun w => match regAt w.addr with
    | some r => (match r.name with
      | .faFormat | .faPitch | .faPlane1 | .faBaseHi | .faSrcPos | .faSrcSize | .faMisc => some r.i
      | _ => none)
    | none => none)).eraseDups

/-- An item applied: its values, what they bring with them, and the keep path's hold on head n (R212). -/
def applyWrites (n : Nat) (ws : List Wr) (before : State) : State :=
  let s := (extentSlots ws).foldl repinSlot ((effectOrder ws).foldl (applyEffect before) (overlay ws before))
  let s := originGroups (enforceUnavailable n s)
  if ws.any bearsOnLink then settleQuads s else s

/-- An item verified by a list of images at its application on head n, and applied if it passes: else the code and the station. -/
def tryWith (images : List (Option Image)) (n : Nat) (ws : List Wr) (s : State) : Except (Nat × Nat) State :=
  let s := advanceGroups s
  match verifyBy images s (overlay ws s) ws n with
  | some f => .error f
  | none => .ok (applyWrites n ws s)

/-- An item verified at its application on head n, and applied if it passes (R45, R84). -/
def tryItem (n : Nat) (ws : List Wr) (s : State) : Except (Nat × Nat) State := tryWith (imagesFor s n) n ws s

/-! ### Rejection -/

/-- Where the code of a rejected register goes beside the head's own field: SA 0x100 + n, CP 0x200 + n (R157, R185). -/
def rejectKey (s : State) (code : Nat) (r : RegId) : Option Nat :=
  match r.name with
  | .saTaps | .saHInit | .saVInit | .saHRatio | .saVRatio | .saChroma | .saHcoef | .saVcoef => some (0x100 + r.i)
  | .faDstSize => if code = 3 ∧ isV r.i then some (0x100 + (r.i - 64)) else none
  | .cpHctrl | .cpMat | .cpPostRg | .cpPostB | .cpDegamma | .cpRegamma => some (0x200 + r.i)
  | .cpLctrl | .cpLcoef | .cpLpre01 | .cpLpre2 | .cpLpost01 | .cpLpost2 => some (0x200 + slotHead s r.cpSlot)
  | _ => none

/-- The egress port of a rejected register (R269). -/
def rejectPort (ws : List Wr) (s : State) (r : RegId) : Option Nat :=
  match r.name with
  | .epEctrl => some r.i
  | .oqDsc => some (fld (wrOr ws r (s.reg r)) 0 6)
  | _ => none

/-- The code of a rejected non-transactional item recorded (R61, R157, R185, R269). -/
def recordReject (n code : Nat) (ws : List Wr) (s : State) : State :=
  let s := { s with lastReject := SMap.set s.lastReject n code 0 }
  (ws.filterMap (fun w => regAt w.addr)).foldl (fun s r =>
    let s := match rejectKey s code r with
      | some k => { s with lastReject := SMap.set s.lastReject k code 0 }
      | none => s
    match rejectPort ws s r with
    | some e => s.setEgress e { s.egress e with lastReject := code }
    | none => s) s

/-- The pins of a rejected item's surface groups released. -/
def dropDirect (ws : List Wr) (s : State) : State :=
  ws.foldl (fun s w => match regAt w.addr with
    | some r => if r.name = .faBaseHi then dropFirstPin (directPin r.i (layerView (overlay ws s) r.i).base) s else s
    | none => s) s

/-- Slots that a rejected move had hidden are shown on their old head again: from its next latch, or at once where it does not run
(R482). -/
def showAgain (slots : List Nat) (s : State) : State :=
  slots.foldl (fun s slot =>
    if (s.layer slot).hidden ∧ isRunning s (slotHead s slot) then s.setLayer slot { s.layer slot with reshow := true }
    else s.setLayer slot { s.layer slot with hidden := false }) s

/-- The slots whose CTRL a list of writes holds. -/
def ctrlSlots (ws : List Wr) : List Nat :=
  ws.filterMap (fun w => match regAt w.addr with
    | some r => if r.name = .faCtrl then some r.i else none
    | none => none)

/-- A direct ·T write or a keyed group applied on head n, or rejected with its code (R286). -/
def applyDirect (n : Nat) (ws : List Wr) (s : State) : State :=
  match tryItem n ws s with
  | .ok s' => s'
  | .error f => dropDirect ws (recordReject n f.1 ws (showAgain (ctrlSlots ws) s))

end Sys2Proof.Machine
end

