-- ==== Sys2Proof/Machine/Lantern.lean ====
section
/-! DEFINITION. What happens to a lantern from outside its own instructions: halting, faults (R229), lines and stream events that
meet its waits (R222 to R226), and fences (R128, R225). -/

namespace Sys2Proof.Machine

/-- A lantern halted as the spec's HALT does (R60, R220): its queued entries stay, a wait is abandoned, and a program stays
image-owned. One in FAULT stays there (R229). -/
def stopLantern (l : Nat) (s : State) : State :=
  let x := s.lantern l
  s.setLantern l { x with
    state := if x.state = .fault then .fault else .halted, wait := none, hit := none, startDue := false, restart := false }

/-- A lantern that the image no longer lists (R77, R231): halted, and not image-owned from then on. -/
def haltLantern (l : Nat) (s : State) : State :=
  let s := stopLantern l s
  s.setLantern l { s.lantern l with image := false }

/-- The pins that a lantern owns (R58). -/
def ownedPins (s : State) (l : Nat) : Word :=
  (List.range 32).foldl (fun m p => if fld (s.reg (rg .btFlareOwner p)) 0 5 = l then m ||| putb true p else m) 0

/-- Whether a flare bank's supply lies in its fault window (R458, R473): VDDIO_FLA and VDDIO_FLB are rails 9 and 10 of the table. -/
def bankSupplied (s : State) (p : Nat) : Bool := !s.aon.railsOut.contains (9 + p / 16)

/-- Whether the outputs other than FAULT_N are driven: VDD_AON is on and both reset inputs are high (R427). -/
def outputsDriven (s : State) : Bool :=
  !s.aon.porstLow && !s.aon.sysrstLow && decide (s.power ≠ .inReset) && decide (s.power ≠ .off)

/-- A flare pin as it is outside: high-impedance while its bit of FLARE_OE is 0 (R60), while its bank's supply is out (R473), and
while a reset input is low or VDD_AON is off (R427). -/
def flarePin (s : State) (p : Nat) : Option Bool :=
  if bit (s.reg (rg .btFlareOe)) p ∧ bankSupplied s p ∧ outputsDriven s then some (s.flares.level.getLsbD p) else none

/-- Whether the level input of a flare bank selects 3.3 V (R473). -/
def bankHigh (s : State) (b : Nat) : Bool := if b = 0 then s.aon.straps.flaLvl else s.aon.straps.flbLvl

/-- The nominal of a rail of R458's table, in mV: VDD_CORE's follows VSEL, and the flare banks' their level inputs (R458, R473). -/
def railNominal (s : State) (rail : Nat) : Nat :=
  match rail with
  | 0 => if s.therm.vselSpire then 850 else 750
  | 4 => 900
  | 5 => 1050
  | 6 => 500
  | 7 => 1200
  | 8 => 1800
  | 9 => if bankHigh s 0 then 3300 else 1800
  | 10 => if bankHigh s 1 then 3300 else 1800
  | _ => 800

/-- The level of a flare pin in mV: its bank's supply while it is high (R473). -/
def flareMv (s : State) (p : Nat) : Option Nat := (flarePin s p).map (fun high => if high then railNominal s (9 + p / 16) else 0)

/-- VSEL as it is outside: high-impedance until S1 has passed and while the outputs are not driven, and then high for spire mode (R427,
R448, R475). -/
def vselPin (s : State) : Option Bool :=
  if outputsDriven s ∧ 1 ≤ s.start.step ∧ s.power ≠ .halted 1 then some s.therm.vselSpire else none

/-- The source of a lantern (R229). -/
def lanternSource (l : Nat) : Nat := if l < 16 then 2 + 4 * l else 157 + (l - 16)

/-- The word at a lantern's PC. -/
def lanternWord (s : State) (l : Nat) : Word := s.reg (rg .laProg l (s.lantern l).pc)

/-- A lantern fault (R60, R228, R229). -/
def lanternFault (l code : Nat) (s : State) : State :=
  let safe := s.reg (rg .btFlareSafe)
  let s := s.setLantern l { s.lantern l with state := .fault, code := code, faultWord := lanternWord s l, wait := none, hit := none
                                             startDue := false }
  raise (lanternSource l) { s with flares := { s.flares with
    bank := SMap.set s.flares.bank l [] [], level := mergeBits (ownedPins s l) s.flares.level safe } }

/-- A pace period in ticks, and the one that a tick falls in (R217). -/
def paceTicks : Nat := 16384
def paceOf (s : State) : Nat := s.tick / paceTicks

/-- A counted wait with one line less to go. -/
def LWait.oneLess : LWait → LWait
  | .fence f t left => .fence f t (left - 1)
  | .sync c left => .sync c (left - 1)
  | w => w

/-- A wait that counts lines brought up to the present, where the lantern counts pace periods (R217). -/
def LWait.less (n : Nat) : LWait → LWait
  | .fence f t left => .fence f t (left - n)
  | .sync c left => .sync c (left - n)
  | w => w

/-- The lines that a counted wait has to go. -/
def LWait.left : LWait → Option Nat
  | .fence _ _ left => some left
  | .sync _ left => some left
  | _ => none

/-- Whether a lantern counts raster lines: it is a head lantern and its head scans (R217). -/
def countsLines (s : State) (l : Nat) : Bool := decide (l < 16) && isRunning s l

/-- Whether a lantern's domain has its clock: a shed head's stops with its scan (R35). -/
def lanternClocked (s : State) (l : Nat) : Bool := !(decide (l < 16) && s.therm.shed.getLsbD l && isStopped s l)

/-- The tick at which a counted wait with `left` lines to go times out, once that is known. -/
def timeoutTick (s : State) (l left : Nat) : Option Nat :=
  match (s.lantern l).out with
  | some t => some t
  | none => if ¬ countsLines s l then some (((s.lantern l).pace + left) * paceTicks) else none

/-- Whether a counted wait timed out before the present: what comes in the same tick still counts (R225). -/
def expired (s : State) (l left : Nat) : Bool := (timeoutTick s l left).any (fun t => decide (t < s.tick))

/-- The tick at which a wait ran out: kept from the line, or the pace period, that left it none to go (R225). -/
def Lantern.outAt (x : Lantern) (after : Option LWait) (at_ : Option Nat) : Option Nat :=
  match x.out with
  | some t => some t
  | none => if after.bind LWait.left = some 0 then at_ else none

/-- The pace periods that have begun since the lantern last counted (R217). -/
def settlePace (l : Nat) (s : State) : State :=
  let x := s.lantern l
  let w := x.wait.map (LWait.less (paceOf s - x.pace))
  s.setLantern l { x with
    wait := w, pace := paceOf s
    out := x.outAt w ((x.wait.bind LWait.left).map (fun k => (x.pace + k) * paceTicks)) }

/-- Head n comes to pixel 0 of line y at a tick: its lantern's budget starts anew (R227), a START begins (R232), and waits for the
line, for a pixel of it, or for a number of lines go on (R222 to R226). -/
def lanternLine (n y at_ : Nat) (s : State) : State :=
  let x := { s.lantern n with issued := 0 }
  if x.startDue then
    s.setLantern n { x with state := .running, pc := x.startPc, mark := BitVec.ofNat 64 at_, startDue := false }
  else match x.wait with
    | some (.line l) => s.setLantern n (if l = y ∧ x.hit.isNone then { x with hit := some at_ } else x)
    | some (.pixel p) =>
      s.setLantern n (if x.hit.isNone then { x with hit := some ((s.head n).anchor + (s.head n).raster.offset y p) } else x)
    | w => s.setLantern n { x with wait := w.map LWait.oneLess, out := x.outAt (w.map LWait.oneLess) (some at_) }

/-- The last line of a frame is omitted by a slew: a wait for it is met by the next anchor (R222). -/
def lanternOmitted (n last at_ : Nat) (s : State) : State :=
  let x := s.lantern n
  if x.wait = some (.line last) ∧ x.hit.isNone then s.setLantern n { x with hit := some at_ } else s

/-- A raster applied at a latch that leaves a pending wait beyond V_TOTAL faults the lantern there (R222, R228). -/
def faultLostWait (n : Nat) (s : State) : State :=
  match (s.lantern n).wait with
  | some (.line l) =>
    if (s.lantern n).hit.isNone ∧ (appliedRaster s n).vTotal ≤ l ∧ isRunning s n then lanternFault n 2 s else s
  | _ => s

/-- A stream's line count comes to a value: ingress lanterns that wait for it have it (R222; log entry 22). -/
def lanternStream (stream count at_ : Nat) (s : State) : State :=
  [16, 17, 18, 19].foldl (fun s l =>
    let x := s.lantern l
    if (s.reg (rg .laLstream l)).toNat = stream ∧ x.wait = some (.line count) ∧ x.hit.isNone then
      s.setLantern l { x with hit := some at_ }
    else s) s

/-- Whether a value has reached a target (R128). -/
def reached (value target : Word) : Bool := decide ((value - target).toNat < 2 ^ 31)

/-- The value of a fence. -/
def fenceValue (s : State) (f : Nat) : Word := SMap.get s.fa.fences f 0

/-- A fence set (R128): lanterns that wait for the value have it, where their time has not run out (R225). -/
def setFence (i : Nat) (v : Word) (s : State) : State :=
  let s := { s with fa := { s.fa with fences := SMap.set s.fa.fences i v 0 } }
  (List.range 20).foldl (fun s l =>
    let x := s.lantern l
    match x.wait with
    | some (.fence f t left) => if f = i ∧ reached v t ∧ x.hit.isNone ∧ ¬ expired s l left then s.setLantern l { x with hit := some s.tick } else s
    | _ => s) s

end Sys2Proof.Machine
end

