-- ==== Sys2Proof/Machine/Ledger.lean ====
section
/-! DEFINITION. The copies of the start ledger and of the persistent store (R297, R374, R433), and notifications whose CODE or DETAIL the spec does not state. -/

namespace Sys2Proof.Machine

/-- A change of what the SPI NOR holds. -/
def State.setNor (s : State) (f : Nor → Nor) : State := { s with aon := { s.aon with nor := f s.aon.nor } }

/-- The ledger of the chosen copy; one with no copy that passes is taken as empty (R374, R437). -/
def storedLedger (s : State) : Ledger :=
  match chosenOf s.aon.nor.ledgerA s.aon.nor.ledgerB with | some c => c.payload | none => {}

/-- A write of the ledger: it rewrites the copy not chosen with the next ALIVE, and counts as done where the read back passes; one that
fails sets LEDGER_ERR (R374, R433). -/
def writeLedger (ok : Bool) (s : State) : State :=
  let n := s.aon.nor
  let c := newCopy n.ledgerA n.ledgerB (readBack ok s) s.start.ledger
  let s := (s.setNor (fun n => if rewritesB n.ledgerA n.ledgerB then { n with ledgerB := some c } else { n with ledgerA := some c })).draw 1
  if c.found = .ok then s else { s with start := { s.start with ledgerErr := true } }

/-! ### The persistent store (R297) -/

/-- The stored values; none are stored where neither copy passes (R374). -/
def storedValues (s : State) : SMap (List Byte) :=
  match chosenOf s.aon.nor.storeA s.aon.nor.storeB with | some c => c.payload | none => []

/-- A write of the store: the copy not chosen takes the chosen values with the new ones and the next ALIVE; one whose read back does
not pass fires source 325 (R297, R374). -/
def writeStore (ok : Bool) (vals : List (Nat × List Byte)) (s : State) : State :=
  let n := s.aon.nor
  let c := newCopy n.storeA n.storeB (readBack ok s) (vals.foldl (fun m v => SMap.ins m v.1 v.2) (storedValues s))
  let s := (s.setNor (fun n => if rewritesB n.storeA n.storeB then { n with storeB := some c } else { n with storeA := some c })).draw 1
  let s := perfEvent 15 anyInst 3 1 s
  if c.found = .ok then s else raise 325 s

/-- The ledger held by the MC changed. -/
def State.setLedger (s : State) (f : Ledger → Ledger) : State := { s with start := { s.start with ledger := f s.start.ledger } }

/-- This start's entry in the ledger changed, once it has one. -/
def noteEntry (f : LedgerEntry → LedgerEntry) (s : State) : State :=
  if s.start.startNo = 0 then s
  else s.setLedger (fun l => { l with entries := SMap.upd l.entries (s.start.startNo % 16) {} f })

/-- A copy's outcome recorded at its place in COPIES (R374, R434): its DETAIL, and the count of its kind. -/
def noteCopy (place : Nat) (o : Outcome) (s : State) : State :=
  let s := s.setLedger (fun l => match o with
    | .damaged _ => { l with damaged := l.damaged + 1 }
    | .payloadMismatch => { l with mismatched := l.mismatched + 1 }
    | _ => l)
  noteEntry (fun e => { e with
    copies := withFld e.copies (4 * place) 4 o.code, details := SMap.set e.details place o.detail 0 }) s

/-- A NOTIFY event whose CODE the spec does not state: a free value (log entry 8). -/
def noteFree (cls item : Nat) (detail : Word) (only : Option Nat) (s : State) : State :=
  noteEvent cls (leNat (s.drawn 2 Config.undefinedByte)) item detail only (s.draw 2)

end Sys2Proof.Machine
end

