-- ==== Sys2Proof/Machine/Switch.lean ====
section
/-! DEFINITION. Lantern programs of an image (R77, R231), bank switches applied on a head (R88, R281, R439) and the results of
transactions (R279, R280). -/

namespace Sys2Proof.Machine

/-! ### Lantern programs -/

/-- The program memory of a lantern replaced by an image's words, the rest being HALT (R231). -/
def writeProgram (l : Nat) (ws : List Word) (s : State) : State :=
  (List.range 512).foldl (fun s w => s.setReg (rg .laProg l w) (ws.getD w 0)) s

/-- An image-owned program loaded and started at word 0 (R231). -/
def loadLantern (l : Nat) (ws : List Word) (tick : Nat) (s : State) : State :=
  (writeProgram l ws s).setLantern l { s.lantern l with
    state := .running, pc := 0, flag := false, mark := BitVec.ofNat 64 tick, wait := none, image := true, len := ws.length,
    lg := [], restart := false, startDue := false, hit := none, loaded := ws }

/-- The program that an image lists for a lantern. -/
def Image.program (i : Image) (l : Nat) : Option (List Word) := (i.lanterns.find? (fun e => e.1 = l)).map (·.2)

/-- A lantern at its point under an image: loaded where the image lists it, else halted (R77). -/
def placeLantern (i : Image) (tick l : Nat) (s : State) : State :=
  match i.program l with
  | some ws => loadLantern l ws tick s
  | none => haltLantern l s

/-- A head lantern whose head is not running when the image comes into force: a listed program waits for the head's first latch,
another is halted at once (R77). -/
def placeIdle (i : Image) (n : Nat) (s : State) : State :=
  let due := (i.program n).isSome
  let s := { s with sched := { s.sched with firstDue := setBit s.sched.firstDue n due } }
  if due then s else haltLantern n s

/-- The lanterns of a latch of head n under an image (R77, R231): its own where due, and the ingress lanterns at the first latch
under the image. -/
def placeDue (i : Image) (n tick : Nat) (s : State) : State :=
  let s :=
    if s.sched.firstDue.getLsbD n then
      placeLantern i tick n { s with sched := { s.sched with firstDue := setBit s.sched.firstDue n false } }
    else s
  let under : Bool := match s.sched.switch with | some w => w.done.getLsbD n | none => true
  if s.sched.ingressDue && under then
    [16, 17, 18, 19].foldl (fun s l => placeLantern i tick l s) { s with sched := { s.sched with ingressDue := false } }
  else s

/-- A START in FAULT of an image-owned program: the program restarts as it was loaded (R231). -/
def restartLantern (tick : Nat) (s : State) (l : Nat) : State :=
  if (s.lantern l).restart then loadLantern l (s.lantern l).loaded tick s else s

/-- The lanterns of a latch of head n: what is due under its image, then the programs that a START asked for. R231 names no head for
an ingress lantern: its program restarts at the next latch of any (DESIGN CHOICE, log entry 85). -/
def placeLanterns (n tick : Nat) (s : State) : State :=
  match imageOn s n with
  | none => s
  | some i => [n, 16, 17, 18, 19].foldl (restartLantern tick) (placeDue i n tick s)

/-! ### Ingress entries (R243, R251) -/

/-- The image whose INGRESS entries are in force: the incoming one from the first latch of a switch (R89). -/
def ingressImage (s : State) : Option Image :=
  match s.sched.switch with
  | some w => if w.done = 0 then bankImage s w.fromBank else bankImage s w.toBank
  | none => liveImage s

/-- Whether a stream's applied ring agrees with its INGRESS entry (R243). -/
def ringAgrees (s : State) (x : Nat) : Bool :=
  match ingressImage s with
  | none => false
  | some i =>
    match i.ingress.find? (fun e => e.stream = x) with
    | none => false
    | some e =>
      let r := ringOf s x
      decide (r.lines = e.ringLines) &&
      (match channelAt s r.ctx r.base with | some c => decide (c = e.channel) | none => true) &&
      (match channelAt s r.ctx (r.base + r.lines * r.pitch - 1) with | some c => decide (c = e.channel) | none => true)

/-- RING_OK judged again (R243, R251): a stream that no longer agrees stops writing; one that newly agrees writes from its next
FS. -/
def rejudgeRing (s : State) (x : Nat) : State :=
  let st := s.stream x
  let ok := st.ringApplied && ringAgrees s x
  s.setStream x { st with ringOk := ok, writes := st.writes && ok }

def rejudgeRings (s : State) : State := (s.si.streams.map (·.1)).foldl rejudgeRing s

/-! ### Applying an image's entry on a head (R88, R439) -/

/-- The raster and latch line of a HEADS entry as register writes. -/
def entryWrites (n : Nat) (e : HeadEntry) : List Wr :=
  [⟨(rg .dhHTiming n).addr, e.raster.hTiming, true⟩, ⟨(rg .dhHSync n).addr, e.raster.hSync, true⟩,
   ⟨(rg .dhVTiming n).addr, e.raster.vTiming, true⟩, ⟨(rg .dhVSync n).addr, e.raster.vSync, true⟩,
   ⟨(rg .dhPairDiv n).addr, e.raster.pairDiv, true⟩, ⟨(rg .dhLatchLine n).addr, BitVec.ofNat 32 e.latchLine, true⟩]

/-- A head's entry of an image applied; a head outside the image keeps its raster (R40). -/
def applyEntry (n : Nat) (i : Image) (s : State) : State :=
  if i.hasHead n then applyWrites n (entryWrites n (i.head n)) (advanceGroups s) else s

/-- Slots whose ASSIGN head differs between two images: hidden from the first of the two switch latches until the second (R281). A head
that does not run has no latch: its part of the switch hides nothing. -/
def hideMoved (old new : Image) (done : BitVec 16) (n : Nat) (s : State) : State :=
  (List.range 96).foldl (fun s slot =>
    let a := (old.assignOf slot).head
    let b := (new.assignOf slot).head
    if a ≠ b ∧ a < 16 ∧ b < 16 ∧ (n = a ∨ n = b) then
      s.setLayer slot { s.layer slot with
        hidden := if done.getLsbD (if n = a then b else a) then lingers s slot else (s.layer slot).hidden || isRunning s n }
    else s) s

/-- A value put in line for the next store write; a later value of the same object replaces it. -/
def queueStore (key : Nat) (l : List Byte) (s : State) : State :=
  { s with dict := { s.dict with storing := s.dict.storing.filter (fun e => e.1 ≠ key) ++ [(key, l)] } }

/-- A count of seconds as the store holds it. -/
def wearValue (sub v : Nat) : Nat × List Byte := (0x703000 + sub, leBytes 4 v)

/-- SPIRE_SECONDS put in line for the store, as spire mode ends (R452). -/
def storeWear (s : State) : State := queueStore (wearValue 1 s.therm.spireSeconds).1 (wearValue 1 s.therm.spireSeconds).2 s

/-- The end of the MC's spire switch (R448, R450). -/
def spireSwitched (s : State) : State :=
  match s.therm.mode with
  | .entering => raise 386 { s with therm := { s.therm with mode := .spire } }
  | .leaving => raise 386 (storeWear { s with therm := { s.therm with mode := .sustained, coreMhz := 800, vselSpire := false } })
  | _ => s

/-- A switch that every affected head has applied (R88): the heads outside it come to their first latch under the new image, and
lanterns of heads that do not run are judged by it now (R77). -/
def completeSwitch (w : Switch) (s : State) : State :=
  let s := s.setBank w.fromBank { s.bank w.fromBank with state := .resident }
  let s := s.setBank w.toBank { s.bank w.toBank with state := .live }
  let s := { s with sched := { s.sched with switch := none } }
  let s := match bankImage s w.toBank with
    | none => s
    | some i => ((List.range 16).filter (fun n => !w.done.getLsbD n || s.sched.firstDue.getLsbD n)).foldl (fun s n =>
        if isRunning s n then { s with sched := { s.sched with firstDue := setBit s.sched.firstDue n true } }
        else placeIdle i n s) s
  if w.spire then spireSwitched s else s

/-- An accepted switch applied on a head (R88): at its latch, or at once where the head does not run (R279). -/
def applySwitch (n : Nat) (s : State) : State :=
  match s.sched.switch with
  | none => s
  | some w =>
    if ¬ w.left.getLsbD n then s
    else match bankImage s w.fromBank, bankImage s w.toBank with
      | some old, some new =>
        let w' : Switch := { w with left := setBit w.left n false, done := setBit w.done n true }
        let s := { s with sched := { s.sched with switch := some w' } }
        let s := applyEntry n new s
        let s := s.setHead n { s.head n with bank := some w.toBank }
        let s := hideMoved old new w.done n s
        let s := { s with sched := { s.sched with firstDue := setBit s.sched.firstDue n true } }
        let s := if w.done = 0 then rejudgeRings s else s
        if w'.left = 0 then completeSwitch w' s else s
      | _, _ => s

/-- The HEADS entry of the first LIVE image on a head that was running then (R439). -/
def applyFirstEntry (n : Nat) (s : State) : State :=
  if s.sched.entryDue.getLsbD n then
    let s := { s with sched := { s.sched with entryDue := setBit s.sched.entryDue n false } }
    match liveImage s with
    | some i => applyEntry n i s
    | none => s
  else s

/-! ### Results of transactions (R279, R280) -/

/-- STATE of a ticket as a number (R292). -/
def TState.code : TState → Nat
  | .free => 0
  | .opened => 1
  | .verifying => 2
  | .accepted => 3
  | .applied => 4
  | .rejected => 5
  | .partly => 6

/-- TSTATE of a ticket (R292). -/
def tstateWord (x : Ticket) : Word := put x.code 24 ||| put x.detail 16 ||| put x.holder 8 ||| put x.state.code 0

/-- The key slot of a ticket's network holder; a session's ticket belongs to the node that opened the session. -/
def ticketNode (s : State) (x : Ticket) : Option Nat :=
  if 0x40 ≤ x.holder ∧ x.holder < 0x50 then some (x.holder - 0x40)
  else if x.holder = 0xC0 then (match s.dict.session with | some (.node j) => some j.val | _ => none)
  else none

/-- The NOTIFY of a final result, for a network holder (R310, R313). -/
def noteFinal (t : Nat) (s : State) : State :=
  match ticketNode s (s.ticket t) with
  | some j => noteFree 5 t (tstateWord (s.ticket t)) (some j) s
  | none => s

/-- A ticket whose every masked head has applied or failed: its result is final (R280). -/
def finishTicket (t : Nat) (s : State) : State :=
  let x := s.ticket t
  if x.state = .accepted ∧ x.done = x.mask then
    noteFinal t (raise (208 + t)
      (s.setTicket t { x with state := if x.failed = 0 then .applied else .partly, draft := [], shares := [] }))
  else s

/-- The result of a head's share: HCODE, APPLIED_FRAME and DONE. -/
def shareResult (t n code : Nat) (frame : DWord) (s : State) : State :=
  let x := s.ticket t
  finishTicket t (s.setTicket t { x with
    done := setBit x.done n true
    failed := if code = 0 then x.failed else setBit x.failed n true
    hcode := SMap.set x.hcode n code 0
    appliedFrame := SMap.set x.appliedFrame n (if code = 0 then frame else BitVec.allOnes 64) (BitVec.allOnes 64)
    shares := x.shares.filter (fun y => y.head ≠ n) })

/-- A share verified and applied. The fields drafted beside a switch are judged by the image that the switch has brought (R280); any
other share as every application (R88). -/
def tryShare (t n : Nat) (ws : List Wr) (s : State) : Except (Nat × Nat) State :=
  match s.sched.switch with
  | some w => if w.ticket = some t then tryWith [imageOn s n] n ws s else tryItem n ws s
  | none => tryItem n ws s

/-- A head's share of an accepted transaction applied, or failed (R280). A head that is not running shows no frame number. -/
def applyShare (t : Nat) (y : Share) (s : State) : State :=
  let n := y.head
  let frame := if isRunning s n then (s.head n).frame + 1 else BitVec.allOnes 64
  if y.writes.isEmpty then shareResult t n 0 frame s
  else match tryShare t n y.writes s with
    | .ok s' => shareResult t n 0 frame s'
    | .error f => shareResult t n f.1 frame (dropDirect y.writes (showAgain (y.moves.map (·.1)) s))

/-- Tickets with a share for a head, in acceptance order (R45). -/
def ticketsFor (s : State) (n : Nat) : List (Nat × Share) :=
  let l := ([1, 2, 3, 4].filter (fun t => (s.ticket t).state = .accepted)).filterMap (fun t =>
    ((s.ticket t).shares.find? (fun y => y.head = n)).map (fun y => ((s.ticket t).order, t, y)))
  let place (a : Nat × Nat × Share) := l.countP (fun b => b.1 < a.1)
  (List.range l.length).filterMap (fun k => (l.find? (fun a => place a = k)).map (·.2))

end Sys2Proof.Machine
end

