-- ==== Sys2Proof/Machine/Latch.lean ====
section
/-! DEFINITION. The latch of a head: the items that join it (R44, R279, R482), selection and takes (R133 to R138), the keep path's
and the signatures' work at the latch (R202, R204, R208), and what follows it (R47, R231). -/

namespace Sys2Proof.Machine

/-! ### Which items join a latch -/

/-- The cut-off of a latch at line `l`: pixel 0 of the line two lines before (R44). -/
def cutOff (s : State) (n : Nat) : Nat := tickAt s n (latchAt s n - 2) 0

/-- Whether a slot is beam-raced: its envelope says so (R139). -/
def beamRaced (s : State) (slot : Nat) : Bool :=
  match (imageOn s (slotHead s slot)).bind (fun i => i.envOf slot) with
  | some e => e.beamRaced
  | none => false

/-- The slots whose surface group a list of writes completes. -/
def surfaceSlots (ws : List Wr) : List Nat :=
  ws.filterMap (fun w => match regAt w.addr with
    | some r => if r.name = .faBaseHi then some r.i else none
    | none => none)

/-- The surfaces that a list of writes brings, as they will stand: slot and state of the layer. A beam-raced plane uses none (R246). -/
def newSurfaces (ws : List Wr) (s : State) : List (Nat × LayerView) :=
  ((surfaceSlots ws).filter (fun slot => !beamRaced (overlay ws s) slot)).map (fun slot => (slot, layerView (overlay ws s) slot))

/-- The pin of a surface that a list of writes completes is asked for at once (R106). -/
def pinSurfaces (ws : List Wr) (s : State) : State :=
  (newSurfaces ws s).foldl (fun s e => requestPin (.direct e.1) e.2.ctx e.2.base e.2.extent s) s

/-- Whether the pins of an item's surfaces had ended by a tick (R106). -/
def directReady (s : State) (cut : Nat) (ws : List Wr) : Bool :=
  (newSurfaces ws s).all (fun e => match s.fabric.pins.find? (directPin e.1 e.2.base) with
    | some p => decide (p.state ≠ .pending) && decide (p.tick ≤ cut)
    | none => true)

/-- Whether an item outside transactions joins the latch of head n whose cut-off is given (R44, R106, R482). The first latch of a
head takes all that it holds (R41). -/
def itemJoins (s : State) (n cut : Nat) (x : Item) : Bool :=
  decide (x.head = n) && (x.oldHead.isNone || x.moved.isSome) &&
  (!(s.head n).firstLatch || (decide (x.landed ≤ cut) && directReady s cut x.writes))

/-- The anchor of member m in the group frame that head n scans (R49). -/
def memberAnchor (s : State) (n m : Nat) : Nat := (s.head n).anchor + groupOffset s m - groupOffset s n

/-- Whether member m has latched in the group frame that head n scans. -/
def memberLatched (s : State) (n m : Nat) : Bool := (s.head m).latched && decide ((s.head m).anchor = memberAnchor s n m)

/-- The latch of member m in the group frame that head n scans: where it was, or where it will be. -/
def memberLatch (s : State) (n m : Nat) : Nat :=
  if memberLatched s n m then (s.head m).latchedAt else memberAnchor s n m + (s.head m).raster.offset (latchAt s m) 0

/-- Whether a share, or a switch, accepted at a tick joins the latch of head n at tick `at_` (R279): the cut-off of every masked member
that runs, and what else a member needs at its latch, are judged together. -/
def shareJoins (s : State) (n at_ accepted : Nat) (mask : BitVec 16) (needs : Nat → Nat → Bool) : Bool :=
  let ok (m at_ : Nat) : Bool := decide (accepted + 2 * (s.head m).raster.lineTime ≤ at_) && needs m at_
  if groupOf s n = 0 then ok n at_
  else ((List.range 16).filter (fun m => mask.getLsbD m && decide (groupOf s m = groupOf s n) && isRunning s m)).all (fun m =>
    ok m (if m = n then at_ else memberLatch s n m))

/-- The tick of a head's next latch: of a running head in this frame, or at the line that its next one is to latch at (R46); of one that
waits to begin, the tick at which it does (R41, R136). A disabled head has none. -/
def nextLatch (s : State) (n : Nat) : Option Nat :=
  match (s.head n).phase with
  | .disabled => none
  | .waiting t => some t
  | .running =>
    if (s.head n).latched then
      let r := appliedRaster s n
      some ((nextAnchor s n).1 + r.offset (latchLineOf r (fld (s.reg (rg .dhLatchLine n)) 0 16)) 0)
    else some (tickAt s n (latchAt s n) 0)

/-- Whether every slot that a share moves has left its old head by a tick: its latch has come, or comes by then (R482). -/
def movesDone (s : State) (y : Share) (at_ : Nat) : Bool :=
  y.moves.all (fun m => (s.layer m.1).hidden || !isRunning s m.2 || (nextLatch s m.2).any (fun t => decide (t ≤ at_)))

/-- What a ticket's share for a member needs at its latch beside the cut-off: its moves, unless the share has applied. One that has
latched in this group frame without its share does not take it there. -/
def memberReady (s : State) (n t m at_ : Nat) : Bool :=
  match (s.ticket t).shares.find? (fun y => y.head = m) with
  | none => true
  | some y => movesDone s y at_ && (decide (m = n) || !memberLatched s n m)

/-- The shares that join a latch of head n at a tick, in acceptance order. -/
def joiningShares (s : State) (n at_ : Nat) : List (Nat × Share) :=
  (ticketsFor s n).filter (fun p => shareJoins s n at_ (s.ticket p.1).accepted (s.ticket p.1).mask (memberReady s n p.1))

/-- Whether the accepted switch applies at a latch of head n: with its ticket's share, or by the same rule for the MC's own
(R448). -/
def switchJoins (s : State) (n at_ : Nat) : Bool :=
  match s.sched.switch with
  | none => false
  | some w => w.left.getLsbD n && (match w.ticket with
    | some t => (joiningShares s n at_).any (fun p => p.1 = t)
    | none => shareJoins s n at_ w.accepted (w.left ||| w.done) (fun _ _ => true))

/-- Items 1 to 4 of a latch of head n (R45): the switch, transactions, keyed groups, single writes. -/
def latchItems (n at_ cut : Nat) (s : State) : State :=
  let shares := joiningShares s n at_
  let sw := switchJoins s n at_
  let s := applyFirstEntry n s
  let s := if sw then applySwitch n s else s
  let s := shares.foldl (fun s p => applyShare p.1 p.2 s) s
  let mine := s.items.filter (itemJoins s n cut)
  let s := { s with items := s.items.filter (fun x => !mine.contains x) }
  let s := (mine.filter (·.group)).foldl (fun s x => applyDirect n x.writes s) s
  (mine.filter (fun x => !x.group)).foldl (fun s x => applyDirect n x.writes s) s

/-- Slots of head n that a rejected move had hidden are shown again (R482). -/
def reshowSlots (n : Nat) (s : State) : State :=
  ((List.range 96).filter (fun slot => (s.layer slot).reshow && decide (slotHead s slot = n))).foldl
    (fun s slot => s.setLayer slot { s.layer slot with hidden := false, reshow := false }) s

/-- Slots that leave head n at its latch, or as it stops: hidden until their new head takes them; and those that had left it already
(R482). -/
def hideLeaving (n at_ : Nat) (s : State) : State :=
  let s := reshowSlots n (endLinger n s)
  let slots := (s.items.filter (fun x => x.oldHead = some n ∧ x.moved.isNone)).filterMap (fun x => (regAt x.unit).map (·.i))
  let shares := [1, 2, 3, 4].flatMap (fun t => (s.ticket t).shares.flatMap (fun y =>
    (y.moves.filter (fun m => m.2 = n)).map (·.1)))
  let s := { s with items := s.items.map (fun x =>
    if x.oldHead = some n ∧ x.moved.isNone then { x with moved := some at_ } else x) }
  (slots ++ shares).foldl (fun s slot => s.setLayer slot { s.layer slot with hidden := true }) s

/-! ### Selection (R131 to R133) -/

/-- POS of a stream (R241). -/
def posOf (x : Stream) : Word := put (x.frame.toNat % 2 ^ 16) 16 ||| put (if x.ended then 0xFFFF else x.wp) 0

/-- Whether POS of a stream has reached a line count, of a frame written since the last ring change (R243, R245). -/
def countMet (x : Stream) (v : Word) : Bool :=
  !x.firstSince && reached (posOf x) v && reached v (put (x.since.toNat % 2 ^ 16) 16)

/-- Whether what an entry waits for has come: its stage copy, and its line count or, where it is not staged, its fence (R131 to
R133). -/
def fenceMet (s : State) (e : QEntry) : Bool :=
  e.stage.all (·.done) &&
  (if bit e.fence 31 then countMet (s.stream (fld e.fence 0 8)) e.fenceVal
   else e.stage.isSome || bit e.fence 30 || reached (SMap.get s.fa.fences (fld e.fence 0 10) 0) e.fenceVal)

/-- Readiness (R133). -/
def entryReady (s : State) (slot : Nat) (e : QEntry) : Bool :=
  fenceMet s e && (match pinOf s (.queue slot e.seq) with | some p => decide (p.state = .done) | none => false)

/-- Why a stage copy failed, if it did (R132). -/
def stageFailed (e : QEntry) : Option Nat := e.stage.bind (·.failed)

/-- The address of an entry's buffer in a layer's state. -/
def entryView (v : LayerView) (e : QEntry) : LayerView := v.withBuffer e.buf e.plane1.toNat

/-- The verification of an entry against the state that will stand (R133): none passes, as a layer that R85 disables does. -/
def entryFails (after : State) (slot : Nat) (e : QEntry) : Option Nat :=
  let v := entryView (layerView after slot) e
  if ¬ v.enabled then none
  else match (imageOn after v.head).bind (fun i => i.envOf slot) with
  | none => some 5
  | some env =>
    if ¬ v.aligned then some 0xA
    else if env.maxBpl < bytesPerLine v.fmt v.sw (leadOf after v.head) ∨ ¬ channelsOk after v env.channel then some 2
    else none

/-- The outcome of a walk: the entry selected, and the entries that leave with an event and a DETAIL. -/
structure Picked where
  sel : Option Nat := none
  gone : List (QEntry × Nat × Nat) := []
  deriving DecidableEq, Repr

/-- The walk of R133; an entry whose stage copy failed leaves when it stands at the front (R132). -/
def walkQueue (s after : State) (slot : Nat) (latest front : Bool) : List QEntry → Picked → Picked
  | [], p => p
  | e :: t, p =>
    match (if front then stageFailed e else none) with
    | some d => walkQueue s after slot latest front t { p with gone := p.gone ++ [(e, 6, d)] }
    | none =>
      if !entryReady s slot e then p
      else match entryFails after slot e with
        | some c => walkQueue s after slot latest front t { p with gone := p.gone ++ [(e, 5, c)] }
        | none => if latest then walkQueue s after slot latest false t { p with sel := some e.seq } else { p with sel := some e.seq }

/-- The selection of one slot. QMODE is the one that will stand after items 1 to 4 of the latch, as all else that the walk judges by
(DESIGN CHOICE, log entry 66). -/
def selectSlot (n : Nat) (after s : State) (slot : Nat) : State :=
  let l := s.layer slot
  let p := walkQueue s after slot (layerView after slot).latest true l.queue {}
  let s := s.setLayer slot { l with
    sel := p.sel, first := l.queue.head?.map (fun e => (e.port, e.tag)), queue := l.queue.filter (fun e => !p.gone.any (fun g => g.1 = e)) }
  let s := p.gone.foldl (fun s g => leaveQueue g.2.1 g.2.2 slot n g.1 s) s
  retryPins (fun u => match u with | .queue k q => decide (k = slot) && (s.layer slot).queue.any (fun e => e.seq = q) | _ => false) s

/-- The slots bound to a head. -/
def boundSlots (s : State) (n : Nat) : List Nat := (List.range 96).filter (fun slot => isBound s slot && decide (slotHead s slot = n))

/-- The selection of a head (R133): against the state that items 1 to 4 of its latch will leave. -/
def selectHead (n : Nat) (s : State) : State :=
  let after := latchItems n (tickAt s n (latchAt s n) 0) (cutOff s n) s
  let s := ((boundSlots after n).filter (fun slot => isBound s slot && decide (slotHead s slot = n) && !beamRaced after slot)).foldl
    (selectSlot n after) s
  flushRecs (s.setHead n { s.head n with selected := true })

/-! ### Takes and the not-ready policy (R134, R135) -/

/-- A take: entries ahead leave DROPPED, the shown buffer RETIRED, and the entry is shown (R134). -/
def takeEntry (n slot : Nat) (e : QEntry) (s : State) : State :=
  let q := (s.layer slot).queue
  let ahead := q.takeWhile (fun x => x.seq ≠ e.seq)
  let s := ahead.foldl (fun s x => leaveQueue 3 0 slot n x s) s
  let s := retireShown slot n s
  let s := perfEvent 3 slot 2 1 (makeRec 1 0 e.port e.tag n (frameNo s n + 1) s)
  let s := s.setLayer slot { s.layer slot with
    queue := q.drop (ahead.length + 1), sel := none, first := none, policy := .normal, keepAge := 0
    shown := some { tag := e.tag, port := some e.port, use := .queue slot e.seq } }
  ((s.setReg (rg .faBaseLo slot) (BitVec.ofNat 32 e.buf)).setReg (rg .faBaseHi slot) (BitVec.ofNat 32 (e.buf / 2 ^ 32))).setReg
    (rg .faPlane1 slot) e.plane1

/-- NR_POLICY for the frame that follows; a K slot always holds (R135, R138). -/
def policyOf (s : State) (slot : Nat) : NrNow :=
  if isK slot then .hold
  else match fld (s.reg (rg .faCtrl slot)) 4 2 with
    | 1 => .hide
    | 2 => .substitute
    | _ => .hold

/-- Item 5 of one slot. A NOT_READY record goes to the owner of the port of the first entry still queued, or, where none is, of the first
one at the selection (DEDUCED, log entry 71). -/
def queueStep (n : Nat) (s : State) (slot : Nat) : State :=
  let l := s.layer slot
  match l.queue.find? (fun e => l.sel = some e.seq) with
  | some e => takeEntry n slot e s
  | none =>
    match (if l.sel.isNone then l.first else none) with
    | some first =>
      let s := (s.setLayer slot { l with first := none, policy := policyOf s slot }).bump (rg .faEventCount slot) 0 16 1
      let s := perfEvent 3 slot 3 1 s
      let owner := match l.queue with | e :: _ => (e.port, e.tag) | [] => first
      makeRec 4 0 owner.1 owner.2 n (frameNo s n) s
    | none => s.setLayer slot { l with sel := none, first := none, policy := .normal }

/-! ### The keep path at the latch -/

/-- Whether a K slot came to its fallback in a region that has not been cleared: its age is not counted and QUEUE returns MODE
(R202). -/
def fallenBack (s : State) (slot : Nat) : Bool :=
  isK slot && (s.layer slot).fell && (regionsOfSlot s (slotHead s slot) slot).any (fun r => (s.keepHead (slotHead s slot)).fellBack.getLsbD r)

/-- KEEP_AGE counts this latch; a take or a direct application then returns it to 0 (R138). The latch that binds or unbinds a K slot
counts for the slots bound before its items apply, which the spec does not say (DESIGN CHOICE, log entry 82). -/
def countAges (n : Nat) (s : State) : State :=
  ((boundSlots s n).filter isK).foldl (fun s slot =>
    if fallenBack s slot then s.setLayer slot { s.layer slot with keepAge := 0 }
    else s.setLayer slot { s.layer slot with keepAge := min 511 ((s.layer slot).keepAge + 1) }) s

/-- STALE (R138, R200): the regions that hold an enabled K slot older than its limit. -/
def staleCheck (n : Nat) (s : State) : State :=
  ((boundSlots s n).filter isK).foldl (fun s slot =>
    let v := layerView s slot
    if v.enabled ∧ v.stale < (s.layer slot).keepAge then keepFault n 2 (regionsOfSlot s n slot) s else s) s

/-- The fallback image of a slot shown (R202). -/
def showFallback (n : Nat) (s : State) (slot : Nat) : State :=
  let k := slot - 88
  let s := retireShown slot n (emptyQueue slot n s)
  let s := s.setLayer slot { s.layer slot with
    shown := some { tag := 0, port := none, use := .fallback k }, keepAge := 0, policy := .normal, first := none, fell := true }
  (s.setReg (rg .faBaseLo slot) (s.reg (rg .scKfallbackLo k))).setReg (rg .faBaseHi slot) (s.reg (rg .scKfallbackHi k))

/-- The K slots of a region that come to show their fallback: those that have one and do not show it. One that is given its fallback
later shows it at a later latch (DESIGN CHOICE, log entry 73). -/
def fallbackSlots (s : State) (n r : Nat) : List Nat :=
  (slotsOfRegion s n r).filter (fun slot => !(s.layer slot).fell && decide (fallbackVa s (slot - 88) ≠ 0))

/-- Whether a region in fault comes to show a fallback at a latch at tick `at_`: two line times after detection, with a K slot that has
one (R202). A region whose fallback failed shows none again (R203). -/
def fallsBack (s : State) (n at_ r : Nat) : Bool :=
  let k := s.keepHead n
  k.fault.getLsbD r && (!k.fellBack.getLsbD r || k.fallback.getLsbD r) && decide (reactionOf s n r = 1) &&
  decide (SMap.get k.faultTick r 0 + 2 * (s.head n).raster.lineTime ≤ at_) && !(fallbackSlots s n r).isEmpty

/-- FALLBACK_APPLY (R202). -/
def applyFallback (n at_ : Nat) (s : State) : State :=
  ((keepRegions s n).filter (fallsBack s n at_)).foldl (fun s r =>
    let s := (fallbackSlots s n r).foldl (showFallback n) s
    let k := s.keepHead n
    s.setKeepHead n { k with fallback := setBit k.fallback r true, fellBack := setBit k.fellBack r true }) s

/-- Whether a region that is asked to clear may (R204). -/
def mayClear (s : State) (n r : Nat) : Bool :=
  s.keep.available && !(s.keepHead n).recent.getLsbD r &&
  (slotsOfRegion s n r).all (fun slot => decide ((s.layer slot).keepAge ≤ (layerView s slot).stale))

/-- A pending CLEAR judged (R204). The bit of a region that is not in fault is ignored: it frees no FAULT_TILE and sets no CLEAR_REFUSED,
on which the spec is silent (DESIGN CHOICE, log entry 84). -/
def judgeClear (n : Nat) (s : State) : State :=
  let k := s.keepHead n
  let rs := (bitsOf 4 k.clearReq).filter (fun r => k.fault.getLsbD r)
  let s := s.setKeepHead n { k with clearReq := 0 }
  let yes := rs.filter (mayClear s n)
  let no := rs.filter (fun r => !mayClear s n r)
  let s := yes.foldl (leaveFault n) s
  let s := if yes.isEmpty then s else s.setKeepHead n { s.keepHead n with tileValid := false }
  let s := if no.isEmpty then s else s.setKeepHead n { s.keepHead n with clearRefused := true }
  settleKeep s

/-! ### Signatures (R206 to R208) -/

/-- Whether a head dithers over four frames. -/
def temporal (s : State) (n : Nat) : Bool := decide (fld (s.reg (rg .cpHctrl n)) 8 2 = 2)

/-- A region's result posted: the new run-time state, and whether it fails and whether FROZEN becomes set. FROZEN clears at a
different result alone (R207). -/
def postRegion (s : State) (n r : Nat) : SigRun × Bool × Bool :=
  let v := sigView s n r
  let x := s.sig n r
  let result : Word := BitVec.ofNat 32 (crcFinal 1 x.crc.toNat)
  let shadow : Word := if v.mode = 2 then BitVec.ofNat 32 (crcFinal 1 x.shadowCrc.toNat) else 0
  let before := if temporal s n then x.last4[3]? else x.last4[0]?
  let compared : Bool := decide (v.mode = 3) && before.isSome
  let equal := if compared ∧ before = some result then x.equal + 1 else 0
  let frozen : Bool := if compared then decide (before = some result) && (x.frozen || decide (v.freeze ≤ equal)) else x.frozen
  let wants := s.reg (rg .scExpect n r (if temporal s n then frameNo s n % 4 else 0))
  let fails := match v.mode with
    | 1 => decide (result ≠ wants)
    | 2 => decide (result ≠ shadow)
    | 3 => frozen && !x.frozen
    | _ => false
  ({ x with result := result, shadowResult := shadow, frozen := frozen, last4 := (result :: x.last4).take 4, equal := min equal 255 },
    fails, frozen && !x.frozen)

/-- A FAIL bit of a head. -/
def failBit (s : State) (n r : Nat) : Bool := bit (s.reg (rg .scFail n (r / 32))) (r % 32)

/-- The results of frame f posted (R208): the regions that newly fail or freeze, with ACTION and KEEP_REGION. A head that has
scanned no frame posts none. -/
def postSignatures (n : Nat) (s : State) : State × List (Nat × Nat) :=
  if ¬ (s.head n).anchored then (s, [])
  else
    let rs := activeSigs s n
    let s := { s with keep := { s.keep with sigFrame := SMap.set s.keep.sigFrame n (s.head n).frame 0 } }
    rs.foldl (fun p r =>
      let s := p.1
      let o := postRegion s n r
      let newly := (o.2.1 && !failBit s n r) || o.2.2
      let s := perfEvent 6 n 3 1 (s.setSig n r o.1)
      let s := if o.2.1 then s.setReg (rg .scFail n (r / 32)) (s.reg (rg .scFail n (r / 32)) ||| putb true (r % 32)) else s
      let v := sigView s n r
      let held := failBit p.1 n r && (s.sig n r).holds
      if newly then (s.setSig n r { s.sig n r with holds := held || decide (v.action = 1) }, p.2 ++ [(v.action, v.region)])
      else (s, p.2)) (s, [])

/-- The ACTION of a region that newly fails (R208). -/
def signatureAction (n : Nat) (s : State) (a : Nat × Nat) : State :=
  let s := raise (81 + n) s
  match a.1 with
  | 1 => setCategory 3 n s
  | 2 => keepFault n 7 (if keepEnabled s n a.2 then [a.2] else []) s
  | _ => s

/-! ### The latch -/

/-- The planes of head n that lost a line in the frame that its latch ends (R248). -/
def lostPlanes (s : State) (n : Nat) : List Nat := (boundSlots s n).filter (fun slot => isV slot && (s.race (slot - 64)).lost)

/-- Source 115 + v of each of those planes, at the latch (R248). -/
def raceSources (planes : List Nat) (s : State) : State :=
  planes.foldl (fun s slot => raise (115 + (slot - 64)) (s.setRace (slot - 64) { s.race (slot - 64) with lost := false })) s

/-- Losses of a head that has stopped since are of no frame that latches. -/
def forgetLost (n : Nat) (s : State) : State :=
  (lostPlanes s n).foldl (fun s slot => s.setRace (slot - 64) { s.race (slot - 64) with lost := false }) s

/-- AUTO_LATCH (R46, R229): no LATCH executed in the frame while the lantern had a program under way. -/
def autoLatch (n : Nat) (s : State) : State :=
  if (s.head n).early.isNone ∧ (s.lantern n).state ≠ .halted then s.setHead n { s.head n with autoLatch := true } else s

/-- Refused pins tried again at a latch of head n (R106): of its directly applied buffers and its fallbacks. -/
def retryAtLatch (n : Nat) (s : State) : State :=
  retryPins (fun u => match u with
    | .queue slot seq => decide (slotHead s slot = n) && (match (s.layer slot).shown with
        | some b => decide (b.use = .queue slot seq)
        | none => false)
    | .fallback k => decide (slotHead s (88 + k) = n)
    | _ => false) s

/-- The latch of head n at tick `at_` (R43, R45, R47). -/
def latchHead (n at_ : Nat) (s : State) : State :=
  let cut := cutOff s n
  let lost := lostPlanes s n
  let s := countAges n (retryAtLatch n s)
  let p := postSignatures n s
  let s := hideLeaving n at_ (latchItems n at_ cut p.1)
  let s := (boundSlots s n).foldl (queueStep n) s
  let s := staleCheck n s
  let s := p.2.foldl (signatureAction n) s
  let s := judgeClear n (applyFallback n at_ s)
  let s := raceSources lost (autoLatch n s)
  let s := flushRecs s
  let s := s.setHead n { s.head n with latched := true, firstLatch := true, latchTick := BitVec.ofNat 64 at_, latchedAt := at_, selected := false }
  let s := perfEvent 8 n 2 1 (raise (1 + 4 * n) s)
  placeLanterns n at_ (faultLostWait n s)

/-! ### State that applies on landing (R41, R482) -/

/-- An item for a head that is not running applies at once, with its records. -/
def applyAtOnce (n : Nat) (ws : List Wr) (s : State) : State := flushRecs (applyDirect n ws s)

end Sys2Proof.Machine
end

