-- ==== Sys2Proof/Machine/HeadCmds.lean ====
section
/-! DEFINITION. The commands of heads, phase groups and genlock (R36 to R55): enabling and stopping, anchors, windows, selections
and latches. -/

namespace Sys2Proof.Machine

/-! ### State that a head holds when it does not run (R41, R279) -/

/-- What a head still holds applies when it is not running: an entry or switch that waits, its shares, then its items; slots that
wait to leave it are hidden at once. -/
def settleStopped (n : Nat) (s : State) : State :=
  let s := applyFirstEntry n s
  let joins : Bool := match s.sched.switch with | some w => w.left.getLsbD n | none => false
  let s := if joins then applySwitch n s else s
  let s := hideLeaving n s.tick ((ticketsFor s n).foldl (fun s p => applyShare p.1 p.2 s) s)
  let mine := s.items.filter (fun x => x.head = n)
  let s := { s with items := s.items.filter (fun x => x.head ≠ n) }
  let s := (mine.filter (·.group)).foldl (fun s x => applyDirect n x.writes s) s
  let s := (mine.filter (fun x => !x.group)).foldl (fun s x => applyDirect n x.writes s) s
  flushRecs s

/-! ### Enable and disable (R41, R50) -/

/-- The raster line at which an enabled head begins (R42). -/
def beginLine (s : State) (n : Nat) : Nat := latchLineOf (appliedRaster s n) (fld (s.reg (rg .dhLatchLine n)) 0 16)

/-- The tick at which a head of group g begins (R41): its next anchor falls on the group's next anchor plus PG_OFFSET, or on the first
later one that leaves the line times it needs; a slew already decided counts (DEDUCED, log entry 69: the anchor and the offset are compared together). -/
def groupBegin (s : State) (n g a f : Nat) : Nat :=
  let r := appliedRaster s n
  let l := beginLine s n
  let off := groupOffset s n
  let need := s.tick + (r.vTotal - l) * r.lineTime
  let k := 1 + ceilDiv (need - (groupAnchorAt s g a f 1 + off)) (max f 1)
  groupAnchorAt s g a f k + off - (r.period - r.offset l 0)

/-- Whether a start is refused (R41). -/
def startRefused (s : State) (n : Nat) : Bool :=
  let g := groupOf s n - 1
  !(s.head n).timingApplied ||
  (decide (groupOf s n ≠ 0) &&
    (match groupPeriod s g with
     | none => true
     | some f => decide (leaderOf s g ≠ n) && !residualOk f (appliedRaster s n).period))

/-- The tick at which an accepted start begins. -/
def beginTick (s : State) (n : Nat) : Nat :=
  if groupOf s n = 0 then s.tick
  else
    let g := groupOf s n - 1
    match groupAnchor s g, groupPeriod s g with
    | some a, some f => groupBegin s n g a f
    | _, _ => s.tick

/-- A head that waits to begin: the position of its first latch is fixed, and an ungrouped head selects at once (R41, R136). -/
def waitToBegin (n : Nat) (s : State) : State :=
  let t := beginTick s n
  let r := appliedRaster s n
  let l := beginLine s n
  let s := s.setHead n { s.head n with
    phase := .waiting t, stopReq := false, raster := r, line := l, beginLine := l, anchor := t - r.offset l 0, anchored := false,
    opened := false, extra := false, latched := false, early := none, selected := false, firstLatch := false, slew := 0,
    slewNext := 0 }
  if groupOf s n = 0 then selectHead n s else s

/-- CTRL.ENABLE landing as 1 (R41), judged by the group frames as they then stand (R49, R51). A stop that has not come about is cancelled. -/
def startHead (n : Nat) (s : State) : State :=
  match (s.head n).phase with
  | .disabled =>
    let s := originGroups (advanceGroups s)
    if startRefused s n then s.setHead n { s.head n with cfgRefused := true } else waitToBegin n s
  | _ => s.setHead n { s.head n with stopReq := false }

/-- CTRL.ENABLE landing as 0 (R41). -/
def stopHead (n : Nat) (s : State) : State :=
  match (s.head n).phase with
  | .disabled => s
  | .waiting _ => s.setHead n { s.head n with phase := .disabled }
  | .running => s.setHead n { s.head n with stopReq := true }

/-- A CTRL write that lands (R41, R50). -/
def landHeadCtrl (n pg : Nat) (enable : Bool) (s : State) : State :=
  let h := s.head n
  if 5 ≤ pg ∨ (pg ≠ h.pg ∧ h.phase ≠ .disabled) then s.setHead n { h with cfgRefused := true }
  else
    let s := s.setHead n { h with pg := pg }
    if enable then startHead n s else stopHead n s

/-- A write of a head's CTRL as an access. -/
def headCtrlAccess (n pg : Nat) (enable : Bool) : Access :=
  { off := (rg .dhCtrl n).addr, data := put pg 1 ||| putb enable 0 }

/-- Whether a source carries a class of ordinary configuration (R26). -/
def mayConfigure (s : State) (src : Source) : Bool := (classesOf s src).meets Classes.config

/-- Whether ENABLE 1 for a shed head is refused (R456). -/
def shedRefuses (s : State) (n : Nat) : Bool := s.therm.shed.getLsbD n && decide (960 ≤ tempLevel s)

/-- The SHED bit of a head that is enabled again clears, and category 5 with the last one (R456, R461); its lantern's domain has its
clock again (R35). -/
def clearShed (n : Nat) (s : State) : State :=
  if ¬ s.therm.shed.getLsbD n then s
  else
    let s := s.setLantern n { s.lantern n with pace := paceOf s, issued := 0 }
    let s := { s with therm := { s.therm with shed := setBit s.therm.shed n false } }
    if s.therm.shed = 0 then clearCategory 5 s else s

/-! ### Lines -/

/-- What a SEND entry's packets carry (R418): the header of a frame, and a line. The byte layout is the model's (log entry 7). -/
def sendHeader (s : State) (n : Nat) (kind1 : Bool) : List Byte :=
  let h := s.head n
  if kind1 then [0x00#8, 0x00#8]
  else [0x10#8] ++ leBytes 2 h.raster.hActive ++ leBytes 2 h.raster.vActive ++ leBytes 1 (headDepth s n) ++ leBytes 8 h.frame.toNat

/-- A b-bit value narrowed to 8 bits (R418). -/
def top8 (b v : Nat) : Nat := if 8 ≤ b then v / 2 ^ (b - 8) else v * 2 ^ (8 - b)

/-- A line of pixels as a SEND entry carries it: 30-bit pixels, or RGB888. -/
def sendLine (s : State) (n y : Nat) (kind1 : Bool) (line : List Word) : List Byte :=
  let b := headDepth s n
  if kind1 then
    [0x24#8, 0x00#8] ++ line.flatMap (fun w => [BitVec.ofNat 8 (top8 b (fld w 0 10)), BitVec.ofNat 8 (top8 b (fld w 10 10)),
      BitVec.ofNat 8 (top8 b (fld w 20 10))])
  else [0x11#8] ++ leBytes 2 y ++ bytesOf line

/-- Ticks that an Osleig port takes for a line of pixels of a width in bits: 72 bits pass in a tick (R409; log entry 29). -/
def oslTicks (pixels bits : Nat) : Nat := ceilDiv (pixels * bits) 72

/-- A port takes time for what it sends. -/
def chargeOsl (u ticks : Nat) (s : State) : State :=
  s.setOsl u { s.osl u with free := max (s.osl u).free s.tick + ticks }

/-- The packets of line y of head n on every enabled SEND entry whose port is UP (R418). -/
def sendStreams (n y : Nat) (line : List Word) (s : State) : State :=
  ((sends s).filter (fun w => fld w 0 4 = n ∧ (s.osl (if bit w 29 then 1 else 0)).up)).foldl (fun s w =>
    let u := if bit w 29 then 1 else 0
    let ch := fld w 16 8
    let s := if y = 0 then s.send (.osleig u (some ch) (sendHeader s n (bit w 30))) else s
    let s := chargeOsl u (oslTicks line.length (if bit w 30 then 24 else 30)) s
    let s := s.send (.osleig u (some ch) (sendLine s n y (bit w 30) line))
    if bit w 30 ∧ y + 1 = (s.head n).raster.vActive then s.send (.osleig u (some ch) [0x01#8, 0x00#8]) else s) s

/-- Whether a segment's last header matches its columns and its head (R420). -/
def segMatches (s : State) (g : Seg) : Bool :=
  let x := s.seg g.k
  decide (x.width = g.x1 - g.x0) && decide (x.height = (s.head g.head).raster.vActive) && decide (x.depth = headDepth s g.head)

/-- The usable line y of a segment, if it is there. -/
def segLine (s : State) (g : Seg) (y : Nat) : Option (List Word) :=
  if segMatches s g ∧ (s.seg g.k).missed ≠ some y then ((s.seg g.k).lines.find? (fun e => e.1 = y)).map (·.2) else none

/-- The columns of a line that a segment feeds: the segment's own pixels, or what LOSS_POLICY shows. The policy takes effect from the
line after detection: what the line found unusable shows is a free value (R417, R420; log entry 29). -/
def segColumns (y : Nat) (x : State × List Word) (g : Seg) : State × List Word :=
  let s := x.1
  let put (l : List Word) : List Word := x.2.take g.x0 ++ l ++ x.2.drop g.x1
  let n := g.x1 - g.x0
  match segLine s g y with
  | some l => (s, put l)
  | none =>
    if ¬ (s.seg g.k).policy then
      (s.draw (4 * n), put ((wordsOf (s.drawn (4 * n) Config.undefinedByte)).map (fun w => w &&& 0x3FFFFFFF#32)))
    else if bit (s.reg (rg .caLossPolicy)) g.head then (s, put (List.replicate n 0))
    else x

/-- Line y of head n as its egress ports send it. -/
def mergeSegments (s : State) (n y : Nat) (line : List Word) : State × List Word := (segsOf s n).foldl (segColumns y) (s, line)

/-- A line that a segment cannot use (R420): it is counted LATE once, the source fires once in a frame, and the segment takes nothing
more of this frame. -/
def missLine (k y : Nat) (s : State) : State :=
  let x := s.seg k
  if x.missed = some y then s
  else
    let s := s.setSeg k { x with usable := false, late := satAdd 16 x.late 1, raised := true, missed := some y, lost := true, lines := [] }
    if x.raised then s else raise (357 + k) s

/-- A line that head n leaves: a segment that has nothing usable for it has missed it, whether or not SEGMENT_LINE_UNUSABLE said so. -/
def missedSegments (n y : Nat) (s : State) : State :=
  if y < (s.head n).raster.vActive then
    (segsOf s n).foldl (fun s g => if (segLine s g y).isSome then s else missLine g.k y s) s
  else s

/-- After line y of head n: its segments' buffers keep only the lines of the next three (R420, R421), and a segment that was shown
is usable. -/
def passSegments (n y : Nat) (s : State) : State :=
  (segsOf s n).foldl (fun s g =>
    let x := s.seg g.k
    let v := (s.head n).raster.vTotal
    s.setSeg g.k { x with
      usable := if y < (s.head n).raster.vActive then (segLine s g y).isSome else x.usable
      policy := if y < (s.head n).raster.vActive then (segLine s g y).isNone else x.policy
      missed := none
      lines := x.lines.filter (fun e => e.1 ≠ y ∧ (e.1 + v - y) % max v 1 ≤ 3) }) s

/-- The pixel pairs of a line of head n sent by the ports that carry it (R397). -/
def countSent (n : Nat) (s : State) : State :=
  (List.range 8).foldl (fun s q =>
    perfEvent 9 q 1 (((List.range 8).countP (fun k => (s.egress (8 * q + k)).carry = some n)) * ((s.head n).raster.hActive / 2)) s) s

/-- A b-bit value as a component of a port's width (R260). -/
def repeatBits (b bpc v : Nat) : Nat := v * 2 ^ (bpc - b) + v / 2 ^ (2 * b - bpc)

/-- The R, G and B components of a line of b-bit pixels on a port. -/
def portPixels (b bpc : Nat) (line : List Word) : List Nat :=
  line.flatMap (fun w => [repeatBits b bpc (fld w 20 10), repeatBits b bpc (fld w 10 10), repeatBits b bpc (fld w 0 10)])

/-- The bytes of a compressed line: the width of the set in force times its bits per pixel (R262). -/
def codedBytes (set : List Nat) : Nat := ceilDiv (set.getD 5 0 * set.getD 3 0) 128

/-- A line leaves on a port: as components of the port's width, or as what the encoder of the quad makes of it, of which the spec
gives the rate alone: its bytes are a free value (R260, R262; log entry 29). -/
def sendPixelLine (n y : Nat) (line : List Word) (s : State) (e : Nat) : State :=
  match (s.egress e).pps with
  | none => s.send (.pixels e y (portPixels (headDepth s n) (s.egress e).bpc line))
  | some set => (s.draw (codedBytes set)).send (.coded e y (s.drawn (codedBytes set) Config.dscByte))

/-- The first pixel of the boot scene leaves its link: its time in ms from the release of PORST_N is S1's end and the ticks since
(R36, R440, R441). -/
def noteFirstPixel (l : List Nat) (s : State) : State :=
  if s.start.firstPixel = 0xFFFF ∧ s.start.bootPort.any (fun e => l.contains e) then
    { s with start := { s.start with
      firstPixel := min 0xFFFF (fld (SMap.get s.start.steps 1 0) 0 16 + s.tick / ticksPerMs) } }
  else s

/-- A line that has left the gate is sent by the ports that carry the head (R259, R260). -/
def sendPixels (n y : Nat) (line : List Word) (s : State) : State :=
  let l := (List.range 64).filter (fun e => (s.egress e).carry = some n)
  noteFirstPixel l (l.foldl (sendPixelLine n y line) (countSent n s))

/-- A line of vertical blanking of head n, on the ports that carry it (R258). -/
def sendBlank (n y : Nat) (s : State) : State :=
  ((List.range 64).filter (fun e => (s.egress e).carry = some n)).foldl (fun s e => s.send (.blank e y)) s

/-! ### The comparison (R196, R197) -/

/-- The enabled keep region of a head that holds a pixel. -/
def regionAt (s : State) (n x y : Nat) : Option Nat := (keepRegions s n).find? (fun r => (keepRect s n r).holds x y)

/-- A mismatching tile (R197): the first after a clear is captured, and each later one counts once per frame. -/
def countTile (n r col row : Nat) (s : State) : State :=
  let s := if (s.keepHead n).tiles.contains (col, row) then s else perfEvent 6 n 2 1 s
  let k := s.keepHead n
  if ¬ k.tileValid then
    s.setKeepHead n { k with tileValid := true, tileRegion := r, tileRow := row, tileCol := col, tileFrame := (s.head n).frame
                             tiles := (col, row) :: k.tiles }
  else if k.tiles.contains (col, row) then s
  else (s.setKeepHead n { k with tiles := (col, row) :: k.tiles }).bump (rg .scMismatch n) 0 32 1

/-- A tile in which main path and shadow disagree: kind MISMATCH; one whose shadow pixels are unknown is kind SHADOW_FETCH. A tile outside
every enabled region is not compared. -/
def tileFault (n col row x y kind : Nat) (s : State) : State :=
  match regionAt s n x y with
  | none => s
  | some r => if kind = 3 then keepFault n 3 [r] s else keepFault n 1 [r] (countTile n r col row s)

/-- What the comparator found in line y, once the line has passed the tap: one fault for each tile and kind. -/
def judgeLine (n y : Nat) (s : State) : State :=
  let k := s.keepHead n
  let found := ((SMap.get k.diff y []).map (fun p => (p.1 / 16, p.2))).eraseDups
  let s := s.setKeepHead n { k with diff := SMap.erase k.diff y }
  found.foldl (fun s p => tileFault n p.1 (y / 4) (16 * p.1) y p.2 s) s

/-- A head leaves the line it stands in: an active one goes out, merged with its segments (R420; log entry 29). -/
def leaveLine (n : Nat) (s : State) : State :=
  let y := (s.head n).line
  let key := n * 65536 + y
  let line := SMap.get s.tap key []
  let s := if (s.head n).raster.vActive ≤ y then sendBlank n y s
    else if line ≠ [] then
      let m := mergeSegments s n y line
      judgeLine n y { sendPixels n y m.2 m.1 with tap := SMap.erase s.tap key }
    else s
  passSegments n y (missedSegments n y s)

/-- A head enters a line: its lantern follows (R222 to R232), and an active line leaves the tap through the gate (R183, R202). -/
def enterLine (n y : Nat) (s : State) : State :=
  let s := perfEvent 8 n 1 1 (s.setHead n { s.head n with line := y, opened := false })
  let s := lanternLine n y (tickAt s n y 0) s
  if y < (s.head n).raster.vActive then
    let line := gateLine s n y (SMap.get s.tap (n * 65536 + y) [])
    sendStreams n y line { s with tap := SMap.set s.tap (n * 65536 + y) line [] }
  else s

/-! ### Beginning and stopping -/

/-- HEAD_BEGIN (R41): the waiting head scans pixel 0 of its latch line. A grouped head's selection that has not come about is made
now. -/
def headBegin (n : Nat) (s : State) : State :=
  match (s.head n).phase with
  | .waiting t =>
    let s := advanceGroups (toTick t s)
    let s := if (s.head n).selected then s else selectHead n s
    let s := (settlePace n (forgetLost n s)).setHead n { s.head n with phase := .running }
    lanternLine n (s.head n).line t (perfEvent 8 n 1 1 s)
  | _ => s

def execHeadBegin (n : Fin 16) (s : State) : Result := powered s (headBegin n.val)

/-- A port carries idle from the end of a frame: its link stays up, a DP link sends idle patterns with the no-video flag set, and
another link sends no packets (R266). -/
def idlePort (s : State) (e : Nat) : State :=
  let s := s.setEgress e { s.egress e with carry := none }
  if quadMode s (e / 8) = 0 then s.send (.noVideo e) else s

/-- Ports that carry a head's frame carry idle (R259, R266). -/
def idlePorts (n : Nat) (s : State) : State :=
  ((List.range 64).filter (fun e => (s.egress e).carry = some n)).foldl idlePort s

/-- Whether a head can end its frame now: it has latched and stands in its last line. -/
def atFrameEnd (s : State) (n : Nat) : Bool :=
  isRunning s n && (s.head n).latched && decide ((s.head n).line = lastLineOf s n)

/-- HEAD_STOP (R41): before the next L0:P0. POSITION holds the last position scanned. -/
def headStop (n : Nat) (s : State) : State :=
  if atFrameEnd s n ∧ (s.head n).stopReq then
    let s := toTick (frameEnd s n) (leaveLine n s)
    let p := (s.head n).raster.positionAt (lastLineOf s n + 1) (s.head n).raster.period
    let s := (ledBy s n).foldl (fun s g => s.setPgroup g { s.pgroup g with
      anchor := some (s.head n).anchor, gf := groupFrame s g, slew := (s.head n).slew }) s
    let s := s.setHead n { s.head n with
      phase := .disabled, stopReq := false, lastLine := p.1, lastPixel := p.2, anchored := false,
      lastSlew := wordOfInt (s.head n).slew, slew := 0 }
    let s := s.setLantern n { s.lantern n with pace := paceOf s }
    settleStopped n (idlePorts n s)
  else s

/-! ### Anchors (R48, R49, R51) -/

/-- A port begins a frame of head n: its width and picture parameter set for the frame, and the raster (R258 to R262). -/
def beginPort (n : Nat) (s : State) (e : Nat) : State :=
  let r := (s.head n).raster
  let pps := if compressed s e then some (SMap.get s.oq.pps (e / 8) []) else none
  (s.setEgress e { s.egress e with carry := some n, bpc := portBpc s e, pps := pps }).send
    (.raster e [r.hTiming, r.hSync, r.vTiming, r.vSync, r.pairDiv])

/-- Egress ports at an anchor of head n (R259, R261, R265): a port whose configuration has left the head goes idle; one that carries it,
or that names it, fits and has its link up, begins the frame. -/
def anchorPorts (n : Nat) (s : State) : State :=
  (List.range 64).foldl (fun s e =>
    let x := s.egress e
    let names := portEnabled s e && decide (portHead s e = n)
    let up := decide ((s.txPort (e / 8) (txOf s e)).state = .up)
    if x.carry = some n then (if names then beginPort n s e else idlePort s e)
    else if names ∧ up ∧ x.carry.isNone ∧ portSlotOk s e ∧ linkFits s (e / 8) (txOf s e) then beginPort n s e
    else s) s

/-- A new frame of a receiving head: each segment's source may fire once in it (R420). -/
def newSegFrame (n : Nat) (s : State) : State :=
  (segsOf s n).foldl (fun s g => s.setSeg g.k { s.seg g.k with raised := false }) s

/-- Whether a last line is omitted whose window is still to open: every display line of the next frame is fetched, the window of line
LEAD − 1 within the last line scanned (R54, R70, R92; log entry 58). -/
def extraWindow (s : State) (n : Nat) : Bool :=
  let h := s.head n
  decide (h.line + 2 = h.raster.vTotal) && decide (h.line = lastLineOf s n) && !h.extra && !h.stopReq

/-- The window of an omitted last line, at the tick at which that line would have begun. -/
def openExtra (n : Nat) (lost : List LostBurst) (s : State) : State :=
  let s := toTick (tickAt s n ((s.head n).line + 1) 0) s
  seenBy n (openWindow n (leadOf s n - 1) true lost) (s.setHead n { s.head n with extra := true })

/-- FRAME_ANCHOR (R48): the next L0:P0 of a running head. The window of an omitted last line has opened by then (R92). -/
def frameAnchor (n : Nat) (s : State) : State :=
  if atFrameEnd s n ∧ ¬ (s.head n).stopReq then
    let s := if extraWindow s n then openExtra n [] s else s
    let s := advanceGroups (leaveLine n s)
    let a := nextAnchor s n
    let frame := frameAt s n a.2
    let s := toTick a.1 s
    let s := if (s.head n).line + 1 < (s.head n).raster.vTotal then lanternOmitted n ((s.head n).raster.vTotal - 1) a.1 s else s
    let s := s.setHead n { s.head n with
      anchor := a.1, frame := frame, raster := appliedRaster s n, anchored := true, latched := false, early := none,
      selected := false, extra := false, lastSlew := wordOfInt (s.head n).slew, slew := (s.head n).slewNext, slewNext := 0 }
    let s := (ledBy s n).foldl (fun s g => groupAnchored g a.1 frame s) s
    let s := s.setKeepHead n { s.keepHead n with
      recent := 0, tiles := [], selfFrames := min 255 ((s.keepHead n).selfFrames + 1) }
    enterLine n 0 (newSegFrame n (anchorPorts n s))
  else s

def execFrameAnchor (n : Fin 16) (s : State) : Result := powered s (frameAnchor n.val)

/-! ### Windows, selections, latches -/

/-- Whether the head may enter its next line: it has latched before it passes its latch line (R46), and a frame has a next line. -/
def mayAdvance (s : State) (n : Nat) : Bool :=
  decide ((s.head n).line < lastLineOf s n) && ((s.head n).latched || decide ((s.head n).line < latchAt s n))

/-- The window of the line that the head stands in; none is opened for a frame that a stop prevents. -/
def openLine (n : Nat) (lost : List LostBurst) (s : State) : State :=
  let h := s.head n
  let y := h.line + leadOf s n
  let s := s.setHead n { h with opened := true }
  if h.raster.vTotal ≤ y then
    (if h.stopReq then s else seenBy n (openWindow n (y - h.raster.vTotal) true lost) s)
  else seenBy n (openWindow n y false lost) s

/-- FETCH_WINDOW_OPEN (R70): the window that opens at pixel 0 of the current line, or of the next one where that is open. -/
def fetchWindowOpen (n : Nat) (lost : List LostBurst) (s : State) : State :=
  if ¬ isRunning s n then s
  else if (s.head n).opened then
    if mayAdvance s n then
      let y := (s.head n).line + 1
      openLine n lost (enterLine n y (toTick (tickAt s n y 0) (leaveLine n s)))
    else if (s.head n).latched ∧ extraWindow s n then openExtra n lost s
    else s
  else openLine n lost s

def execFetchWindowOpen (n : Fin 16) (lost : List LostBurst) (s : State) : Result := powered s (fetchWindowOpen n.val lost)

/-- SELECTION (R133, R136): two lines before the latch, or before a waiting head's first one. -/
def selection (n : Nat) (s : State) : State :=
  let h := s.head n
  if h.selected then s
  else match h.phase with
    | .running => if h.latched then s else selectHead n (toTick (cutOff s n) s)
    | .waiting t => selectHead n (toTick (t - 2 * h.raster.lineTime) s)
    | .disabled => s

def execSelection (n : Fin 16) (s : State) : Result := powered s (selection n.val)

/-- HEAD_LATCH (R43): at pixel 0 of the latch line. A selection that has not come about is made now (log entry 6). -/
def headLatch (n : Nat) (s : State) : State :=
  if isRunning s n ∧ ¬ (s.head n).latched ∧ (s.head n).line = latchAt s n then
    let s := if (s.head n).selected then s else selectHead n s
    let t := tickAt s n (latchAt s n) 0
    latchHead n t (toTick t s)
  else s

/-! ### Genlock (R52 to R55) -/

/-- REF of a group. -/
def refOf (s : State) (g : Nat) : Nat := fld (s.reg (rg .btPgCtrl g)) 0 3

/-- The error of the nearest target (R53), the earlier one on a tie: `d` is E − N. -/
def nearestError (d : Int) (f : Nat) : Int :=
  let r := d % (f : Int)
  if 2 * r < f then r else r - f

/-- The raster that defines the current frame of a group. -/
def leadRaster (s : State) (g : Nat) : Raster :=
  match (s.pgroup g).lead with
  | some l => l.2
  | none => appliedRaster s (namedLeader s g)

/-- The largest slew of a group (R53). -/
def maxSlew (s : State) (g : Nat) : Nat :=
  ((members s g).map (fun n => (s.head n).raster.lineTime)).foldl min (leadRaster s g).lineTime

/-- The tick of a group's decision: pixel 0 of the leader's line V_TOTAL − 2 (R53). -/
def decisionTick (s : State) (g a : Nat) : Nat := a + (leadRaster s g).offset ((leadRaster s g).vTotal - 2) 0

/-- The group frame, counted from the current one at anchor `a`, that a head's present frame belongs to: the nearest. -/
def frameInGroup (s : State) (n a f : Nat) : Int :=
  (2 * (((s.head n).anchor : Int) - (groupOffset s n : Int) - (a : Int)) + (f : Int)) / (2 * (f : Int))

/-- A decision's slew given to every member, for its frame of the current group frame: the present one, or the next where a member is
still in the frame before (R54). -/
def giveSlew (g a f : Nat) (x : Int) (s : State) : State :=
  (members s g).foldl (fun s n =>
    let k := frameInGroup s n a f
    if k = 0 then s.setHead n { s.head n with slew := x }
    else if k < 0 then s.setHead n { s.head n with slewNext := x }
    else s) (s.setPgroup g { s.pgroup g with slew := x })

/-- The decision of a genlocked group at its anchor `a` with period `f` (R53, R55). -/
def decide_ (g a f : Nat) (s : State) : State :=
  let t := decisionTick s g a
  let s := perfEvent 10 anyInst 3 1 (toTick t s)
  let p := s.pgroup g
  match p.event with
  | some e =>
    if t ≤ e + 3 * f / 2 then
      let off := (s.reg (rg .btRefOffset g)).toInt
      let err := nearestError ((e : Int) + off - ((a + f : Nat) : Int)) f
      let m := maxSlew s g
      let good : Bool := decide (err.natAbs ≤ m)
      let locked := p.prevGood && good && decide (p.state ≠ .holdover)
      let s := setGState g (if locked then .locked else .acquiring) s
      giveSlew g a f (clampInt (-(m : Int)) m err) (s.setPgroup g { s.pgroup g with prevGood := good })
    else giveSlew g a f 0 (setGState g .holdover (s.setPgroup g { p with prevGood := false }))
  | none =>
    let s := s.setPgroup g { p with prevGood := false }
    giveSlew g a f 0 (setGState g (if p.refSince + 3 * f / 2 < t ∨ p.state = .holdover then .holdover else .acquiring) s)

/-- SLEW_DECISION (R53). A group with REF NONE slews by nothing. -/
def slewDecision (g : Nat) (s : State) : State :=
  let s := advanceGroups s
  match groupAnchor s g, groupPeriod s g with
  | some a, some f => if refOf s g = 0 then giveSlew g a f 0 s else decide_ g a f s
  | _, _ => s

def execSlewDecision (g : Fin 4) (s : State) : Result := powered s (slewDecision g.val)

/-- A reference event of a group (R52). -/
def refEvent (g at_ : Nat) (s : State) : State := s.setPgroup g { s.pgroup g with event := some at_ }

/-- GENLOCK_EDGE (R52). -/
def genlockEdge (rising : Bool) (s : State) : State :=
  ((List.range 4).filter (fun g => refOf s g = if rising then 2 else 3)).foldl (fun s g => refEvent g s.tick s) s

def execGenlockEdge (rising : Bool) (s : State) : Result := powered s (genlockEdge rising)

/-- HOLDOVER_TIMEOUT (R55). -/
def holdoverTimeout (g : Nat) (s : State) : State :=
  let p := s.pgroup g
  match groupPeriod s g with
  | none => s
  | some f =>
    if refOf s g = 0 ∨ p.state = .holdover then s
    else
      let since := match p.event with | some e => e | none => p.refSince
      setGState g .holdover (toTick (since + ceilDiv (3 * f) 2) s)

def execHoldoverTimeout (g : Fin 4) (s : State) : Result := powered s (holdoverTimeout g.val)

end Sys2Proof.Machine
end

