-- ==== Sys2Proof/Machine/CvCmds.lean ====
section
/-! DEFINITION. The check-value engine (R363 to R375). -/

namespace Sys2Proof.Machine

/-! ### Descriptors (R364, R375) -/

/-- A descriptor as one record. -/
structure CvDesc where
  va : Nat
  ctx : Nat
  length : Nat
  pitch : Nat
  lines : Nat
  last : Bool
  cont : Bool
  kind : Nat
  alg : Nat
  verify : Bool
  noFloor : Bool
  format : Nat
  expect : Nat
  deriving DecidableEq, Repr

def cvDesc (s : State) (u d : Nat) : CvDesc :=
  let hi := s.reg (rg .cvAddrHi u d)
  let c := s.reg (rg .cvCfg u d)
  { va := (s.reg (rg .cvAddrLo u d)).toNat + fld hi 0 10 * 2 ^ 32, ctx := fld hi 26 6
    length := (s.reg (rg .cvLength u d)).toNat, pitch := (s.reg (rg .cvPitch u d)).toNat, lines := (s.reg (rg .cvLines u d)).toNat
    last := bit c 31, cont := bit c 30, kind := fld c 28 2, alg := fld c 26 2, verify := bit c 25, noFloor := bit c 24
    format := fld c 0 16
    expect := (s.reg (rg .cvExpectLo u d)).toNat + (s.reg (rg .cvExpectHi u d)).toNat * 2 ^ 32 }

/-- The program from a descriptor on: through the first with LAST, or D63. -/
def programFrom (s : State) (u : Nat) : Nat → Nat → List (Nat × CvDesc)
  | 0, _ => []
  | fuel + 1, d =>
    if 64 ≤ d then []
    else
      let x := cvDesc s u d
      (d, x) :: (if x.last then [] else programFrom s u fuel (d + 1))

def cvProgram (s : State) (u entry : Nat) : List (Nat × CvDesc) := programFrom s u 64 entry

/-- Whether a descriptor breaks the checks of a start, after the one before it (R365). -/
def badDesc (prev : Option CvDesc) (x : CvDesc) : Bool :=
  decide (x.kind = 3) ||
  (x.cont && (match prev with
    | none => true
    | some p => decide (x.alg ≠ p.alg) || decide (x.kind = 2) || decide (p.kind = 2)))

/-- The first descriptor of a program that breaks them. -/
def firstBad : Option CvDesc → List (Nat × CvDesc) → Option Nat
  | _, [] => none
  | prev, (d, x) :: t => if badDesc prev x then some d else firstBad (some x) t

/-! ### Reading (R366, R368) -/

/-- The bytes read so far, or the ERR that ended the reading. -/
abbrev CvRead := Except Nat (List Byte)

/-- The ERR of a failed read: 2 XLAT, 3 POISON (R375). -/
def ReadFail.err : ReadFail → Nat
  | .xlat => 2
  | .poison => 3

/-- A byte range read as open traffic of requester 5. -/
def scanRange (u ctx va n : Nat) (s : State) : State × CvRead :=
  match readRange 5 ctx va n s with
  | (s, .ok l) => (perfEvent 11 u 1 (burstsOf va n).length s, .ok l)
  | (s, .error e) => (s, .error e.err)

/-- The lines of a plane read in order. -/
def scanLines (u : Nat) (x : CvDesc) : List Nat → State → State × CvRead
  | [], s => (s, .ok [])
  | i :: t, s => match scanRange u x.ctx (x.va + i * x.pitch) x.length s with
    | (s, .error e) => (s, .error e)
    | (s, .ok l) => match scanLines u x t s with
      | (s, .error e) => (s, .error e)
      | (s, .ok l') => (s, .ok (l ++ l'))

/-! ### Running a program (R364, R367, R373) -/

/-- What a program has come to: the CRC register before xorout, and whether every descriptor so far was empty. -/
structure CvRun where
  reg : Nat := 0
  allEmpty : Bool := true
  deriving DecidableEq, Repr

/-- Whether a descriptor reads no memory (R367). -/
def CvDesc.empty (x : CvDesc) : Bool :=
  match x.kind with
  | 0 => decide (x.length = 0)
  | 1 => decide (x.length = 0) || decide (x.lines = 0)
  | _ => false

/-- RES of a descriptor written. -/
def setRes (u d : Nat) (v : DWord) (s : State) : State :=
  s.setCvUnit u { s.cvUnit u with results := SMap.set (s.cvUnit u).results d v 0 }

/-- A difference: MISMATCH, and FIRST_MISMATCH at the first of the program. -/
def noteMismatch (u d : Nat) (s : State) : State :=
  let x := s.cvUnit u
  if x.mismatch then s else s.setCvUnit u { x with mismatch := true, firstMismatch := d }

/-- A LINEAR or PLANE descriptor's bytes entered (R364, R367). -/
def enterBytes (u d : Nat) (x : CvDesc) (r : CvRun) (l : List Byte) (s : State) : State × CvRun :=
  let reg := crcRun x.alg (if x.cont then r.reg else crcInit x.alg) l
  let v := crcFinal x.alg reg
  let s := setRes u d (BitVec.ofNat 64 v) s
  let s := if x.verify ∧ v ≠ x.expect then noteMismatch u d s else s
  (s, { reg := reg, allEmpty := r.allEmpty && x.empty })

/-- RES of a RECORD descriptor (R373). -/
def recordRes (o : Outcome) (header : List Byte) : DWord :=
  let alive := match o with | .damaged _ => 0 | _ => recordAlive header
  BitVec.ofNat 64 (o.code + 256 * o.detail + alive * 2 ^ 32)

/-- A RECORD's outcome taken. -/
def enterRecord (u d : Nat) (o : Outcome) (header : List Byte) (s : State) : State × CvRun :=
  let s := setRes u d (recordRes o header) s
  (if o ≠ .ok then noteMismatch u d s else s, { allEmpty := false })

/-- One RECORD descriptor: the payload is read only after the header passes (R372, R373). -/
def runRecord (u d : Nat) (x : CvDesc) (s : State) : State × Except Nat CvRun :=
  match scanRange u x.ctx x.va 32 s with
  | (s, .error e) => (s, .error e)
  | (s, .ok h) => match headerOutcome x.length x.format h with
    | some k => let (s, r) := enterRecord u d (.damaged k) h s; (s, .ok r)
    | none => match scanRange u x.ctx (x.va + 32) (recordLength h) s with
      | (s, .error e) => (s, .error e)
      | (s, .ok l) =>
        let (s, r) := enterRecord u d (verifyRecord x.length x.format (if x.noFloor then none else some x.lines) (h ++ l)) h s
        (s, .ok r)

/-- One descriptor. -/
def runDesc (u d : Nat) (x : CvDesc) (r : CvRun) (s : State) : State × Except Nat CvRun :=
  if x.kind = 2 then runRecord u d x s
  else if x.kind = 1 ∧ 1 < x.lines ∧ x.pitch < x.length then (s, .error 1)
  else if x.empty then let (s, r) := enterBytes u d x r [] s; (s, .ok r)
  else match (if x.kind = 0 then scanRange u x.ctx x.va x.length s else scanLines u x (List.range x.lines) s) with
    | (s, .error e) => (s, .error e)
    | (s, .ok l) => let (s, r) := enterBytes u d x r l s; (s, .ok r)

/-- RES of the rest of a program reads 0 (R368). -/
def clearRest (u : Nat) (l : List (Nat × CvDesc)) (s : State) : State := l.foldl (fun s p => setRes u p.1 0 s) s

/-- Descriptors run in order: the run, or the ERR and its descriptor. -/
def runDescs (u : Nat) : List (Nat × CvDesc) → CvRun → State → State × Except (Nat × Nat) CvRun
  | [], r, s => (s, .ok r)
  | (d, x) :: t, r, s => match runDesc u d x r s with
    | (s, .error e) => (clearRest u ((d, x) :: t) s, .error (e, d))
    | (s, .ok r) => runDescs u t r s

/-! ### Start and end (R365, R370) -/

/-- Whether the MC holds a unit: unit 7, during a load and while a store or ledger write is due (R373). -/
def mcHoldsUnit (s : State) (u : Nat) : Bool := decide (u = 7) && (s.sched.load.isSome || !s.dict.storing.isEmpty || s.dict.ledgerDue)

/-- Idle (R365). -/
def cvIdle (s : State) (u : Nat) : Bool :=
  let x := s.cvUnit u
  !x.busy && (!x.done || bit (s.reg (rg .cvCtrl u)) 10) && !mcHoldsUnit s u

/-- A program's end: BUSY clears as DONE is set, and the sources fire (R370). ERR_INDEX names the descriptor of an ERR alone. -/
def cvFinish (u err index : Nat) (empty : Bool) (s : State) : State :=
  let s := s.setCvUnit u { s.cvUnit u with
    busy := false, done := true, doneEmpty := empty, err := err, errIndex := if err = 0 then (s.cvUnit u).errIndex else index }
  let s := perfEvent 11 u 2 1 s
  let c := s.reg (rg .cvCtrl u)
  let s := if bit c 8 then raise (193 + u) s else s
  if bit c 9 ∧ ((s.cvUnit u).mismatch ∨ err ≠ 0) then raise (201 + u) s else s

/-- A start of an idle unit (R365): FIRST_MISMATCH and ERR_INDEX keep their values until the program changes them (R369). -/
def cvBegin (u entry : Nat) (s : State) : State :=
  let x := s.cvUnit u
  let s := s.setCvUnit u { x with done := false, doneEmpty := false, mismatch := false, err := 0
                                  runs := (x.runs + 1) % 256, entry := entry }
  match firstBad none (cvProgram s u entry) with
  | some d => cvFinish u 1 d false s
  | none => s.setCvUnit u { s.cvUnit u with busy := true }

/-- CV_PROGRAM_END (R364 to R370): the program under way is carried out and ends. -/
def cvProgramEnd (u : Nat) (s : State) : State :=
  let x := s.cvUnit u
  if ¬ x.busy then s
  else match runDescs u (cvProgram s u x.entry) {} s with
    | (s, .ok r) => cvFinish u 0 0 r.allEmpty s
    | (s, .error (e, d)) => cvFinish u e d false s

def execCvProgramEnd (u : Fin 8) (s : State) : Result := powered s (cvProgramEnd u.val)

/-- An abort (R368). Which descriptor is under way depends on time that the spec does not give: it is a free value, and the
earlier ones have their results (log entry 8). -/
def cvAbortRun (u : Nat) (s : State) : State :=
  let prog := cvProgram s u (s.cvUnit u).entry
  let k := (Config.undefinedByte s.fresh).toNat % max prog.length 1
  let s := s.draw 1
  match runDescs u (prog.take k) {} s with
  | (s, .error (_, d)) => cvFinish u 4 d false (clearRest u (prog.filter (fun p => d ≤ p.1)) s)
  | (s, .ok _) => cvFinish u 4 ((prog.map (·.1)).getD k 0) false (clearRest u (prog.drop k) s)

/-! ### CTRL (R375) -/

/-- A write of CTRL as an access. -/
def cvAccess (u : Nat) (v : Word) : Access := { off := (rg .cvCtrl u).addr, data := v }

/-- Whether a source may write the units: LOCAL, HOST, NET and DIAG (R376). -/
def mayScan (s : State) (src : Source) : Bool := (classesOf s src).meets { Classes.config with diag := true }

/-- A write of CTRL while a program runs: ENTRY keeps its value, which is refused whatever the write has there, and a START is refused
whole (R365, R375; log entry 20). -/
def cvCtrlBusy (src : Source) (u : Nat) (v : Word) (s : State) : State :=
  if bit v 31 ∧ ¬ bit v 30 then refuse src 3 (cvAccess u v) s
  else
    let old := s.reg (rg .cvCtrl u)
    let s := s.setReg (rg .cvCtrl u) (mergeBits 0x700#32 old v)
    refuse src 3 (cvAccess u v) (if bit v 30 then cvAbortRun u s else s)

/-- A write of CTRL (R365, R368, R373, R375). -/
def cvCtrl (src : Source) (u : Nat) (v : Word) (s : State) : State :=
  if ¬ mayScan s src then refuse src 2 (cvAccess u v) s
  else if mcHoldsUnit s u then refuse src 3 (cvAccess u v) s
  else if (s.cvUnit u).busy then cvCtrlBusy src u v s
  else if bit v 31 ∧ ¬ bit v 30 then
    if cvIdle s u then cvBegin u (fld v 0 6) (s.setReg (rg .cvCtrl u) (v &&& 0x73F#32)) else refuse src 3 (cvAccess u v) s
  else s.setReg (rg .cvCtrl u) (v &&& 0x73F#32)

/-- CV_START (R365). -/
def execCvStart (src : Source) (u : Fin 8) (value : Word) (s : State) : Result :=
  request src s (cvCtrl src u.val (value ||| putb true 31))

/-- CV_ABORT (R368): an abort of a unit that is not busy only writes the other fields. -/
def execCvAbort (src : Source) (u : Fin 8) (value : Word) (s : State) : Result :=
  request src s (cvCtrl src u.val (value ||| putb true 30))

/-- STATUS.DONE written 1 (R369, R375). -/
def landCvStatus (u : Nat) (v : Word) (s : State) : State :=
  if bit v 30 ∧ ¬ (s.cvUnit u).busy then s.setCvUnit u { s.cvUnit u with done := false } else s

end Sys2Proof.Machine
end

