-- ==== Sys2Proof/Machine/FabricCmds.lean ====
section
/-! DEFINITION. The commands of the memory fabric: ECC events (R101 to R103, R483), pins and re-walks (R106, R107), MR4 (R113) and
the BAR2 aperture (R325, R326). -/

namespace Sys2Proof.Machine

/-! ### ECC (R102, R103) -/

/-- An ECC event of a burst, named by its DPA divided by 64: a burst that the channel does not have stops the command. -/
def onBurst (m burst : Nat) (s : State) (f : State → State) : Result :=
  if s.power ≠ .on then .next s
  else if absentDpa s (burst * 64) ∨ chanOf (burst * 64) ≠ m then .fault .absentBurst
  else .next (f s)

def execEccCorrectable (m : Fin 4) (burst : Nat) (req : BitVec 4) (s : State) : Result :=
  onBurst m.val burst s (eccCorrect m.val burst req.toNat)

/-- A burst that holds damage from now on: it stays uncorrectable until it is wholly written (log entry 17). -/
def damageBurst (burst : Nat) (s : State) : State :=
  if s.fabric.poison.contains burst then s else { s with fabric := { s.fabric with poison := s.fabric.poison ++ [burst] } }

/-- A metadata burst that is damaged: the 8 data bursts that it covers are uncorrectable (R103). -/
def damageMeta (burst : Nat) (s : State) : State :=
  if s.fabric.badMeta.contains (burst / 8) then s
  else { s with fabric := { s.fabric with badMeta := s.fabric.badMeta ++ [burst / 8] } }

/-- The display lines of head n that wait in the tap for their scan. -/
def waitingLines (s : State) (n : Nat) : List Nat := (s.tap.filter (fun e => decide (e.1 / 65536 = n))).map (fun e => e.1 % 65536)

/-- The columns of a waiting line whose shadow pixels have no value. -/
def unknownColumns (s : State) (n y : Nat) : List Nat :=
  (shadowLine s n y 0 (SMap.get s.tap (n * 65536 + y) []).length).zipIdx.filterMap (fun p => if p.1.isNone then some p.2 else none)

/-- A shadow burst has turned out uncorrectable: the pixels of a waiting line that it leaves without a value are a keep fault of kind
SHADOW_FETCH when they are compared (R103, R196, R200). -/
def shadowLost (n : Nat) (s : State) (y : Nat) : State :=
  let k := s.keepHead n
  let d := SMap.get k.diff y []
  let new := ((unknownColumns s n y).map (fun x => (x, 3))).filter (fun e => !d.contains e)
  s.setKeepHead n { k with diff := SMap.set k.diff y (d ++ new) [] }

def shadowHit (s : State) : State :=
  if s.keep.available then (List.range 16).foldl (fun s n => (waitingLines s n).foldl (shadowLost n) s) s else s

/-- ECC_UNCORRECTABLE (R103): the requester's effect, the count, the capture and the source; a scheduled fetch sets category 9
(R461). A partial write stores the poison pattern. -/
def eccUncorrectable (m burst req : Nat) (partialWrite metadata : Bool) (s : State) : State :=
  let s := if metadata then damageMeta burst s else s
  let s := if partialWrite || !metadata then damageBurst burst s else s
  let s := eccUncorrect m burst req s
  if req = 8 then setCategory 9 0xFFFF s
  else if req = 9 then shadowHit s
  else s

def execEccUncorrectable (m : Fin 4) (burst : Nat) (req : BitVec 4) (partialWrite metadata : Bool) (s : State) : Result :=
  onBurst m.val burst s (eccUncorrectable m.val burst req.toNat partialWrite metadata)

/-- ECC_WRITEBACK (R102): the first corrected burst of the channel is written back in an open slot of requester 7. Its contents
are the corrected ones already. -/
def eccWriteback (m : Nat) (s : State) : State :=
  match s.fabric.writeback.find? (fun b => chanOf (b * 64) = m) with
  | none => s
  | some b => serveBurst 7 { s with fabric := { s.fabric with writeback := s.fabric.writeback.erase b } } b

def execEccWriteback (m : Fin 4) (s : State) : Result := powered s (eccWriteback m.val)

/-- PATROL_SCRUB (R102, R103): the scrubber, requester 7, reads a burst. A single-bit error is corrected; an uncorrectable one is
logged only. -/
def patrolScrub (m burst : Nat) (single : Bool) (s : State) : State :=
  let s := serve 7 (burst * 64) 64 s
  if burstBad s burst then eccUncorrect m burst 7 s
  else if single then eccCorrect m burst 7 s
  else s

def execPatrolScrub (m : Fin 4) (burst : Nat) (single : Bool) (s : State) : Result :=
  onBurst m.val burst s (patrolScrub m.val burst single)

/-! ### Pins and re-walks (R106, R107) -/

/-- PIN_COMPLETE (R106): the i-th pin, if it is pending. -/
def pinComplete (i : Nat) (s : State) : State :=
  match s.fabric.pins[i]? with
  | some p => if p.state = .pending then completePin i s else s
  | none => s

def execPinComplete (i : Nat) (s : State) : Result := powered s (pinComplete i)

/-- Whether a page of a context matches an invalidation: all of the context, or the page that holds the VA (R107). -/
def invalidates (ctx va : Nat) (all : Bool) (c : Nat) (p : Page) : Bool :=
  decide (c = ctx) && (all || (decide (p.va ≤ va) && decide (va < p.va + p.size)))

/-- The shadow's own entries, with their contexts. -/
def shadowEntries (s : State) : List (Nat × Page) := s.fabric.pins.flatMap (fun p => p.shadow.map (fun q => (p.ctx, q)))

/-- An invalidation (R107): cache entries drop, and the pinned pages that match, the shadow's among them, are re-walked. -/
def invalidate (ctx va : Nat) (all : Bool) (s : State) : State :=
  { s with fabric := { s.fabric with
      tlb := s.fabric.tlb.filter (fun t => !invalidates ctx va all t.ctx t.page)
      rewalks := ((pinEntries s ++ shadowEntries s).filter (fun e => invalidates ctx va all e.1 e.2)).map (fun e =>
        ({ ctx := e.1, va := e.2.va, size := e.2.size } : Rewalk)) |>.eraseDups } }

/-- TLB_INV.BUSY (R116). -/
def tlbBusy (s : State) : Bool := !s.fabric.rewalks.isEmpty

/-- A write of TLB_INV as an access. -/
def tlbAccess (ctx : Nat) (all : Bool) : Access := { off := (rg .mfTlbInv).addr, data := putb all 30 ||| put ctx 0 }

/-- TLB_INV (R107, R116). -/
def tlbInv (src : Source) (ctx : Nat) (all : Bool) (s : State) : State :=
  if ¬ mayConfigure s src then refuse src 2 (tlbAccess ctx all) s
  else if tlbBusy s then refuse src 3 (tlbAccess ctx all) s
  else invalidate ctx (fld (s.reg (rg .mfTlbInvVa)) 0 30 * 4096) all s

def execTlbInv (src : Source) (ctx : BitVec 6) (all : Bool) (s : State) : Result := request src s (tlbInv src ctx.toNat all)

/-- Pages with the one re-walked replaced by those that now cover its range. -/
def replacePage (r : Rewalk) (new l : List Page) : List Page :=
  (l.flatMap (fun q => if q.va = r.va ∧ q.size = r.size then new else [q])).eraseDups

/-- A pin after a re-walk, in the pin store and in the shadow's own entries. -/
def repinPage (r : Rewalk) (new shadow : List Page) (p : Pin) : Pin :=
  if p.ctx = r.ctx then { p with pages := replacePage r new p.pages, shadow := replacePage r shadow p.shadow } else p

/-- Whether a page is the one that a re-walk concerns. -/
def Rewalk.isOf (r : Rewalk) (e : Nat × Page) : Bool := decide (e.1 = r.ctx) && decide (e.2.va = r.va) && decide (e.2.size = r.size)

/-- The shadow's part of a re-walk: its walks, and the entries that replace the one re-walked. -/
def rewalkShadow (r : Rewalk) (s : State) : State × List Page :=
  if (shadowEntries s).any r.isOf then
    let ws := shadowWalks s (fun _ => none) r.ctx r.va (r.va + r.size)
    (reportWalks (fun _ => none) 9 r.ctx ws s, shadowPages s (fun _ => none) ws)
  else (s, [])

/-- A re-walk carried out (R107): the range is pinned afresh at its new size, or as faulting where the store lacks the entries. -/
def rewalk (r : Rewalk) (s : State) : State :=
  let (s, shadow) := rewalkShadow r s
  if (pinEntries s).any r.isOf then
    let ws := pinWalks s (fun _ => none) r.ctx (r.size / 65536 + 2) r.va (r.va + r.size)
    let new := (ws.map (fun w => pinnedPage w.1 w.2)).eraseDups
    let s := reportWalks (fun _ => none) 7 r.ctx ws s
    let kept := (pinEntries s).filter (fun e => !r.isOf e)
    let need := kept.length + (new.filter (fun q => !kept.contains (r.ctx, q))).length
    let full : Bool := decide (16384 < need)
    let pages := if full then [{ va := r.va, size := r.size, dpa := none }] else new
    let s := { s with fabric := { s.fabric with pins := s.fabric.pins.map (repinPage r pages shadow) } }
    if full then raise 256 (s.bump (rg .mfPinStat) 24 8 1) else s
  else { s with fabric := { s.fabric with pins := s.fabric.pins.map (repinPage r [] shadow) } }

/-- REWALK_COMPLETE (R107): the i-th re-walk in progress. -/
def rewalkComplete (i : Nat) (s : State) : State :=
  match s.fabric.rewalks[i]? with
  | some r => rewalk r { s with fabric := { s.fabric with rewalks := s.fabric.rewalks.eraseIdx i } }
  | none => s

def execRewalkComplete (i : Nat) (s : State) : Result := powered s (rewalkComplete i)

/-! ### Refresh (R113, R114) -/

/-- MR4_POLL (R113); an excluded channel receives no refresh (R114). -/
def mr4Poll (m mult : Nat) (hot : Bool) (s : State) : State :=
  if (s.channel m).reason ≠ 0 then s
  else
    let s := s.setChannel m { s.channel m with refMult := mult, hot := hot }
    if hot then raise (252 + m) s else s

def execMr4Poll (m : Fin 4) (mult : BitVec 4) (hot : Bool) (s : State) : Result := powered s (mr4Poll m.val mult.toNat hot)

/-! ### BAR2 (R325, R326) -/

/-- The VA of a BAR2 offset of an endpoint. -/
def bar2Va (s : State) (k off : Nat) : Nat := (fld (s.reg (rg .hlBar2Base k)) 0 12 * 2 ^ 30 + off) % 2 ^ 42

/-- The context of an endpoint's BAR2. -/
def bar2Ctx (s : State) (k : Nat) : Nat := fld (s.reg (rg .hlBar2Ctx k)) 0 6

/-- The bytes of BAR2 of an endpoint, as the host has sized it (R325). -/
def bar2Bytes (s : State) (k : Nat) : Nat := 2 ^ (30 + SMap.get s.hl.bar2 k 4)

/-- A request that a function does not take: it is in D3hot (R342), has no BAR2 (R322), or the request leaves the BAR (R330). -/
def bar2Outside (s : State) (f off len : Nat) : Bool :=
  s.hl.d3hot.getLsbD f || !isPF f || decide (bar2Bytes s (endpointOf f) < off + len)

/-- BAR2_READ (R325, R326): the data; Completer Abort where translation fails; a poisoned completion where a burst is
uncorrectable. -/
def bar2Read (f off len : Nat) (s : State) : State :=
  let k := endpointOf f
  if bar2Outside s f off len then (aerLog k .unsupportedRequest s).answer .unsupported
  else
    let (s, l, ok, bad) := openRead (bar2Ctx s k) (bar2Va s k off) k len (s.wakeLink k)
    s.answer (if ¬ ok then .abort else if bad then .poisoned l else .bytes l)

def execBar2Read (f : Fin 32) (off : Nat) (len : Nat) (s : State) : Result := powered s (bar2Read f.val off len)

/-- BAR2_WRITE (R325, R326): each enabled byte is stored; a write that faults, or a poisoned one, is discarded. -/
def bar2Write (f off : Nat) (bytes : List (Option Byte)) (poisoned : Bool) (s : State) : State :=
  let k := endpointOf f
  if bar2Outside s f off bytes.length then aerLog k .unsupportedRequest s
  else if poisoned then aerLog k .poisoned s
  else (openWrite (bar2Ctx s k) (bar2Va s k off) k bytes (s.wakeLink k)).1

def execBar2Write (f : Fin 32) (off : Nat) (bytes : List (Option Byte)) (poisoned : Bool) (s : State) : Result :=
  powered s (bar2Write f.val off bytes poisoned)

end Sys2Proof.Machine
end

