-- ==== Sys2Proof/Machine/LayerCmds.lean ====
section
/-! DEFINITION. The commands of surface ports and the stage engine (R127 to R132). -/

namespace Sys2Proof.Machine

/-! ### Ports and doorbells (R127 to R131) -/

/-- Whether a function may use a port's page (R127). -/
def mayUsePort (s : State) (f p : Nat) : Bool := bit (s.reg (rg .faPortCfg p)) 31 && decide (portOwner s p = f)

/-- The slot of a port. -/
def portSlot (s : State) (p : Nat) : Nat := fld (s.reg (rg .faPortCfg p)) 16 7

/-- A doorbell's outcome posted in STATUS.RESULT (R129). -/
def portResult (p code : Nat) (s : State) : State := { s with fa := { s.fa with result := SMap.set s.fa.result p code 0 } }

/-- A doorbell of a function at a port: performed for the owner, else ignored and counted (R127). -/
def doorbell (f p : Nat) (op : State → State) (s : State) : State :=
  if mayUsePort s f p then op s else s.bump (rg .faRejectCount) 0 16 1

/-- A command of a function that reaches its BAR0. -/
def byFunction (f : Fin 32) (s : State) (g : State → State) : Result := request (.fn f) s g

/-- The address of a buffer that a port page names. -/
def portBuf (s : State) (p : Nat) : Nat := (s.reg (rg .ppBufLo p)).toNat + fld (s.reg (rg .ppBufHi p)) 0 10 * 2 ^ 32

/-- Whether QUEUE to a slot returns MODE: unbound, beam-raced, or a K slot that shows a fallback (R129, R139, R202). -/
def modeRefuses (s : State) (slot : Nat) : Bool := !isBound s slot || beamRaced s slot || fallenBack s slot

/-- Bytes of each line that a stage copy takes: pixels 0 to SRC_X + SRC_W − 1, rounded up to 64 bytes (R132). -/
def stageLineBytes (v : LayerView) : Nat := ceilDiv (plane0Bytes v.fmt (v.sx + v.sw)) 64 * 64

/-- Whether a format can be staged: classes 0, 1, 2, 3 and 7 (R129). -/
def stageable (fmt : Nat) : Bool :=
  match fmtClass fmt with
  | some c => decide (c ≤ 3) || decide (c = 7)
  | none => false

/-- The stage copy that a port page asks for, with the layer's format and pitch at the doorbell (R132), and with its geometry there too
(DESIGN CHOICE, log entry 78). -/
def stageOf (s : State) (f p : Nat) (v : LayerView) : Stage :=
  { host := (s.reg (rg .ppHostLo p)).toNat + (s.reg (rg .ppHostHi p)).toNat * 2 ^ 32
    hostPitch := fld (s.reg (rg .ppHostPitch p)) 0 24, pitch := v.pitch, lineBytes := stageLineBytes v
    first := v.sy, count := v.sh, fn := f }

/-- Whether a port page's FENCE names a stream that cannot be waited for: above 191, disabled, or of raw data (R240). -/
def badStreamFence (s : State) (p : Nat) : Bool :=
  let w := s.reg (rg .ppFence p)
  let x := fld w 0 8
  let c := s.reg (rg .siSctrl x)
  bit w 31 && (decide (191 < x) || !bit c 31 || decide (0x2A ≤ fld c 0 6))

/-- The RESULT of QUEUE or QUEUE_STAGED, in the order of the codes (R129; log entry 19). -/
def queueResult (s : State) (p : Nat) (staged : Bool) : Nat :=
  let slot := portSlot s p
  let v := layerView s slot
  if 4 ≤ (s.layer slot).queue.length then 1
  else if modeRefuses s slot then 2
  else if badStreamFence s p then 3
  else if staged ∧ (¬ stageable v.fmt ∨ fld (s.reg (rg .ppHostPitch p)) 0 24 < stageLineBytes v) then 4
  else 0

/-- An entry appended at the tail of the slot's queue, its pin started (R106, R129). -/
def appendEntry (f p : Nat) (staged : Bool) (s : State) : State :=
  let slot := portSlot s p
  let v := layerView s slot
  let seq := s.fa.seq
  let buf := portBuf s p
  let plane1 := s.reg (rg .ppPlane1 p)
  let e : QEntry := { seq := seq, port := p, ctx := v.ctx, buf := buf, plane1 := plane1, fence := s.reg (rg .ppFence p)
                      fenceVal := s.reg (rg .ppFenceVal p), tag := s.reg (rg .ppTag p)
                      stage := if staged then some (stageOf s f p v) else none }
  let s := s.newSeq.setLayer slot { s.layer slot with queue := (s.layer slot).queue ++ [e] }
  requestPin (.queue slot seq) v.ctx buf (v.withBuffer buf plane1.toNat).extent s

/-- The k-th entry of a slot's queue changed. -/
def updEntry (slot k : Nat) (g : QEntry → QEntry) (s : State) : State :=
  let l := s.layer slot
  match l.queue[k]? with
  | some e => s.setLayer slot { l with queue := l.queue.set k (g e) }
  | none => s

/-- Whether a stage copy is under way: neither ended nor paused by its function's D3hot (R132, R342). -/
def copyRuns (s : State) (c : Stage) : Bool := !c.done && c.failed.isNone && !s.hl.d3hot.getLsbD c.fn

/-- The stage copies under way: slot, place in its queue, and the copy. -/
def pendingCopies (s : State) : List (Nat × Nat × Stage) :=
  (List.range 96).flatMap (fun slot => (s.layer slot).queue.zipIdx.filterMap (fun q =>
    (q.1.stage.filter (copyRuns s)).map (fun c => (slot, q.2, c))))

/-- Whether a latch comes before another; a disabled head has none. -/
def sooner : Option Nat → Option Nat → Bool
  | some a, some b => decide (a < b)
  | some _, none => true
  | none, _ => false

/-- The engine, once free, serves the copy whose head latches next, the lower slot on a tie; a copy begun goes on (R132; log
entry 34). Its reads wake the function's link (R344). -/
def nextCopy (s : State) : State :=
  let cs := pendingCopies s
  if cs.any (·.2.2.begun) then s
  else
    let best := cs.foldl (fun (b : Option (Nat × Nat × Stage)) c => match b with
      | none => some c
      | some d => if sooner (nextLatch s (slotHead s c.1)) (nextLatch s (slotHead s d.1)) then some c else b) none
    match best with
    | none => s
    | some c => updEntry c.1 c.2.1 (fun e => { e with stage := e.stage.map (fun x => { x with begun := true }) })
        (s.wakeLink (endpointOf c.2.2.fn))

/-- QUEUE and QUEUE_STAGED (R129). -/
def queueOp (f p : Nat) (staged : Bool) (s : State) : State :=
  let code := queueResult s p staged
  portResult p code (if code = 0 then nextCopy (appendEntry f p staged s) else s)

def execDoorbellQueue (f : Fin 32) (p : Fin 768) (s : State) : Result :=
  byFunction f s (doorbell f.val p.val (queueOp f.val p.val false))

def execDoorbellQueueStaged (f : Fin 32) (p : Fin 768) (s : State) : Result :=
  byFunction f s (doorbell f.val p.val (queueOp f.val p.val true))

/-- The owner of a fence; 0xFF is none. -/
def fenceOwner (s : State) (i : Nat) : Nat := fld (s.reg (rg .faFenceCfg i)) 0 8

/-- SIGNAL (R128, R129): a fence that the function owns, named with KIND 0. A FENCE of KIND 1 names no fence, so the function owns
none: RESULT 3 (DESIGN CHOICE, log entry 65). -/
def signalOp (f p : Nat) (s : State) : State :=
  let w := s.reg (rg .ppFence p)
  let i := fld w 0 10
  if bit w 31 ∨ fenceOwner s i ≠ f then portResult p 3 s
  else portResult p 0 (setFence i (s.reg (rg .ppFenceVal p)) s)

def execDoorbellSignal (f : Fin 32) (p : Fin 768) (s : State) : Result :=
  byFunction f s (doorbell f.val p.val (signalOp f.val p.val))

/-- The entries queued through a port to one slot that are not selected leave with DROPPED. -/
def cancelSlot (p : Nat) (s : State) (slot : Nat) : State :=
  let l := s.layer slot
  let out (e : QEntry) : Bool := decide (e.port = p) && decide (l.sel ≠ some e.seq)
  let s := s.setLayer slot { l with queue := l.queue.filter (fun e => !out e) }
  (l.queue.filter out).foldl (fun s e => leaveQueue 3 0 slot (slotHead s slot) e s) s

/-- The slots whose queue holds an entry queued through a port: its slot's, and those it had before (R127, R129). -/
def slotsOfPort (s : State) (p : Nat) : List Nat :=
  (List.range 96).filter (fun slot => (s.layer slot).queue.any (fun e => decide (e.port = p)))

/-- CANCEL (R129): every entry queued through the port that is not selected leaves with DROPPED at once. -/
def cancelOp (p : Nat) (s : State) : State :=
  portResult p 0 (nextCopy (flushRecs ((slotsOfPort s p).foldl (cancelSlot p) s)))

def execDoorbellCancel (f : Fin 32) (p : Fin 768) (s : State) : Result :=
  byFunction f s (doorbell f.val p.val (cancelOp p.val))

/-- An undefined OP: BAD_OP. The operations that have rows of their own keep their meaning. -/
def badOp (f p op : Nat) (s : State) : State :=
  match op with
  | 1 => queueOp f p false s
  | 2 => queueOp f p true s
  | 3 => signalOp f p s
  | 4 => cancelOp p s
  | _ => portResult p 6 s

def execDoorbellBadOp (f : Fin 32) (p : Fin 768) (op : BitVec 4) (s : State) : Result :=
  byFunction f s (doorbell f.val p.val (badOp f.val p.val op.toNat))

/-! ### Stage copies (R132, R342) -/

/-- The lines of a copy written to the buffer, as far as translation allows: requester 2. -/
def copyLines (e : QEntry) (c : Stage) : List (Nat × List Byte) → State → State × Bool
  | [], s => (s, true)
  | (i, l) :: t, s =>
    match openWrite e.ctx (e.buf + (c.first + i) * c.pitch) 2 ((sliceBytes l 0 c.lineBytes).map some) s with
    | (s, true) => copyLines e c t (perfEvent 0 (endpointOf c.fn) 3 (burstsOf (e.buf + (c.first + i) * c.pitch) c.lineBytes).length s)
    | (s, false) => (s, false)

/-- The outcome of a copy put into its entry; the engine turns to the next. -/
def endStage (slot k : Nat) (failed : Option Nat) (s : State) : State :=
  nextCopy (updEntry slot k (fun e => { e with stage := e.stage.map (fun c => { c with done := failed.isNone, failed := failed }) }) s)

/-- The k-th entry's stage copy, if it is the one that the engine serves (R132). -/
def runningCopy (s : State) (slot k : Nat) : Option (QEntry × Stage) :=
  match ((nextCopy s).layer slot).queue[k]? with
  | some e => match e.stage with
    | some c => if copyRuns s c && c.begun then some (e, c) else none
    | none => none
  | none => none

/-- STAGE_COPY_DONE (R132): `lines` is what the PCIe reads returned, first line first. -/
def stageCopyDone (slot k : Nat) (lines : List (List Byte)) (s : State) : State :=
  match runningCopy s slot k with
  | none => s
  | some (e, c) =>
    let (s, ok) := copyLines e c ((List.range c.count).map (fun i => (i, lines.getD i []))) (s.wakeLink (endpointOf c.fn))
    endStage slot k (if ok then none else some 5) s

def execStageCopyDone (slot : Fin 96) (k : Nat) (lines : List (List Byte)) (s : State) : Result :=
  powered s (stageCopyDone slot.val k lines)

/-- STAGE_COPY_FAIL (R132): the copy ends with its DETAIL after the lines that were copied before. -/
def stageCopyFail (slot k detail : Nat) (lines : List (List Byte)) (s : State) : State :=
  match runningCopy s slot k with
  | none => s
  | some (e, c) =>
    if detail = 0 ∨ 5 < detail then s
    else
      let (s, ok) := copyLines e c ((lines.take c.count).zipIdx.map (fun q => (q.2, q.1))) (s.wakeLink (endpointOf c.fn))
      endStage slot k (some (if ok then detail else 5)) s

def execStageCopyFail (slot : Fin 96) (k : Nat) (detail : BitVec 4) (lines : List (List Byte)) (s : State) : Result :=
  powered s (stageCopyFail slot.val k detail.toNat lines)

end Sys2Proof.Machine
end

