-- ==== Sys2Proof/Machine/LanternCmds.lean ====
section
/-! DEFINITION. The lanterns' instructions (R217 to R230), the comparator bank (R56 to R60), and START and STOP (R231, R232). -/

namespace Sys2Proof.Machine

/-! ### Issue (R218, R227, R228) -/

/-- The raster whose totals bound a head lantern's operands: the applied one. -/
def lanternRaster (s : State) (l : Nat) : Raster := appliedRaster s l

/-- The budget in force (R227). -/
def budgetOf (s : State) (l : Nat) : Nat :=
  min (fld (s.reg (rg .laLbudget l)) 0 12)
    (if l < 16 then (if countsLines s l then (s.head l).raster else lanternRaster s l).hTotal / 2 - 16 else 8176)

/-- A START that waits, on a lantern that counts pace periods, begins with the next of them (R217, R232). -/
def beginPace (l : Nat) (s : State) : State :=
  let x := s.lantern l
  if x.startDue ∧ ¬ countsLines s l then
    let s := toTick ((x.pace + 1) * paceTicks) s
    s.setLantern l { s.lantern l with
      state := .running, pc := x.startPc, mark := BitVec.ofNat 64 s.tick, startDue := false, issued := 0, pace := paceOf s }
  else s

/-- The instructions counted in the present line: a lantern that counts pace periods starts anew with each (R217, R227). -/
def freshBudget (l : Nat) (s : State) : State :=
  let x := s.lantern l
  if countsLines s l ∨ x.pace = paceOf s then s else s.setLantern l { x with issued := 0, pace := paceOf s }

/-- PC moves on; an advance past word 511 is a fault (R218, R228). -/
def advancePc (l : Nat) (s : State) : State :=
  let x := s.lantern l
  if 511 ≤ x.pc then lanternFault l 5 s else s.setLantern l { x with pc := x.pc + 1 }

/-- Whether a word that a lantern issues is illegal: undefined, a must-be-0 bit, a reserved condition, or an operation that an
ingress lantern does not have (R228). -/
def illegalWord (l : Nat) (w : Word) : Bool :=
  !wordOk w || (isIngressLantern l && (decide (opOf w = 0x11) || decide (opOf w = 0x18)))

/-- An instruction row of lantern l with an opcode: it issues where the lantern runs and that instruction (or an undefined one) stands at
PC. A lantern without a clock does nothing. -/
def issue (l op : Nat) (body : Word → State → State) (s : State) : State :=
  if ¬ lanternClocked s l then s
  else
  let s := freshBudget l (beginPace l s)
  let x := s.lantern l
  let w := lanternWord s l
  if x.state ≠ .running ∨ (opOf w ≠ op ∧ (fieldMask w).isSome) then s
  else if budgetOf s l ≤ x.issued then lanternFault l 4 s
  else
    let s := s.setLantern l { x with issued := x.issued + 1 }
    let s := if l < 16 then perfEvent 8 l 3 1 s else s
    if illegalWord l w then lanternFault l 1 s else body w s

/-- A general register. -/
def lg (s : State) (l r : Nat) : Word := SMap.get (s.lantern l).lg r 0

/-- A general register written. -/
def setLg (l r : Nat) (v : Word) (s : State) : State :=
  s.setLantern l { s.lantern l with lg := SMap.set (s.lantern l).lg r v 0 }

/-- The flag written. -/
def setFlag (l : Nat) (b : Bool) (s : State) : State := s.setLantern l { s.lantern l with flag := b }

/-- An instruction that writes a register and goes on. -/
def writeRd (l : Nat) (w v : Word) (s : State) : State := advancePc l (setLg l (rdOf w) v s)

/-- A lantern begins to wait. -/
def beginWait (l : Nat) (wt : LWait) (hit : Option Nat) (s : State) : State :=
  s.setLantern l { s.lantern l with state := .waiting, wait := some wt, hit := hit, out := none, pace := paceOf s }

/-- A wait completes: PC moves on. -/
def endWait (l : Nat) (s : State) : State :=
  advancePc l (s.setLantern l { s.lantern l with state := .running, wait := none, hit := none, out := none })

/-! ### Plain instructions (R220) -/

/-- HALT issues: PC advances as after every instruction that does not branch, so that HALT in word 511 is a fault (R218, R220). -/
def haltIssue (l : Nat) (s : State) : State := stopLantern l (advancePc l s)

/-- HALT. -/
def execHalt (l : Fin 20) (s : State) : Result := powered s (issue l.val 0x00 (fun _ => haltIssue l.val))

/-- NOP. -/
def execNop (l : Fin 20) (s : State) : Result := powered s (issue l.val 0x01 (fun _ => advancePc l.val))

/-- MOVI. -/
def execMovi (l : Fin 20) (s : State) : Result :=
  powered s (issue l.val 0x04 (fun w s =>
    let v := if bit w 16 then withFld (lg s l.val (rdOf w)) 16 16 (immOf w) else simmOf w
    writeRd l.val w v s))

/-- ADDI. -/
def execAddi (l : Fin 20) (s : State) : Result :=
  powered s (issue l.val 0x05 (fun w s => writeRd l.val w (lg s l.val (rsOf w) + simmOf w) s))

/-- SUBI. -/
def execSubi (l : Fin 20) (s : State) : Result :=
  powered s (issue l.val 0x06 (fun w s => writeRd l.val w (lg s l.val (rsOf w) - simmOf w) s))

/-- AND. -/
def execAnd (l : Fin 20) (s : State) : Result :=
  powered s (issue l.val 0x07 (fun w s => writeRd l.val w (lg s l.val (rsOf w) &&& lg s l.val (rtOf w)) s))

/-- COND of CMPI (R220). -/
def condHolds (c : Nat) (a b : Word) : Bool :=
  match c with
  | 0 => decide (a = b)
  | 1 => decide (a ≠ b)
  | 2 => decide (a.toInt < b.toInt)
  | 3 => decide (b.toInt ≤ a.toInt)
  | 4 => decide (a.toNat < b.toNat)
  | _ => decide (b.toNat ≤ a.toNat)

/-- CMPI. -/
def execCmpi (l : Fin 20) (s : State) : Result :=
  powered s (issue l.val 0x08 (fun w s =>
    advancePc l.val (setFlag l.val (condHolds (rtOf w) (lg s l.val (rsOf w)) (simmOf w)) s)))

/-- A jump. -/
def jumpTo (l t : Nat) (s : State) : State := s.setLantern l { s.lantern l with pc := t }

/-- BR. -/
def execBr (l : Fin 20) (s : State) : Result :=
  powered s (issue l.val 0x0C (fun w s =>
    if (s.lantern l.val).flag = bit w 25 then jumpTo l.val (targetOfWord w) s else advancePc l.val s))

/-- JMP. -/
def execJmp (l : Fin 20) (s : State) : Result :=
  powered s (issue l.val 0x0D (fun w => jumpTo l.val (targetOfWord w)))

/-! ### Waits (R221 to R223, R225) -/

/-- The operand of WAITL and WAITP: RS or IMM (R219). -/
def waitOperand (s : State) (l : Nat) (w : Word) : Nat := if bit w 19 then (lg s l (rsOf w)).toNat else immOf w

/-- WAITL issues (R222). -/
def waitlIssue (l : Nat) (w : Word) (s : State) : State :=
  let v := waitOperand s l w
  let out : Bool := if isIngressLantern l then decide (8192 < v) else decide ((lanternRaster s l).vTotal ≤ v)
  if out then lanternFault l 2 s else beginWait l (.line v) none s

def execWaitl (l : Fin 20) (s : State) : Result := powered s (issue l.val 0x10 (waitlIssue l.val))

/-- MARK set to a tick as a wait ends. -/
def markAndGo (l at_ : Nat) (s : State) : State :=
  endWait l (s.setLantern l { s.lantern l with mark := BitVec.ofNat 64 at_ })

/-- A row that ends a lantern's wait, on a lantern with a clock. -/
def waitEvent (l : Nat) (body : State → State) (s : State) : Result := powered s (fun s => if lanternClocked s l then body s else s)

/-- WAITL_DONE (R221, R222): the line has been reached. -/
def waitlDone (l : Nat) (s : State) : State :=
  match (s.lantern l).wait, (s.lantern l).hit with
  | some (.line _), some t => markAndGo l t s
  | _, _ => s

def execWaitlDone (l : Fin 20) (s : State) : Result := waitEvent l.val (waitlDone l.val) s

/-- WAITP issues (R223): a pixel that has passed completes it at once. While the head does not scan it waits for the head's next line
(log entry 22). Between a latch that applies a new raster and the next anchor, the applied raster's H_TOTAL bounds P: the spec does not say
which of the two does (DESIGN CHOICE, log entry 87). -/
def waitpIssue (l : Nat) (w : Word) (s : State) : State :=
  let p := waitOperand s l w
  if (lanternRaster s l).hTotal ≤ p then lanternFault l 1 s
  else if ¬ countsLines s l then beginWait l (.pixel p) none s
  else
    let t := tickAt s l (s.head l).line p
    if t ≤ s.tick then markAndGo l t s else beginWait l (.pixel p) (some t) s

def execWaitp (l : Fin 20) (s : State) : Result := powered s (issue l.val 0x11 (waitpIssue l.val))

/-- WAITP_DONE (R221, R223). -/
def waitpDone (l : Nat) (s : State) : State :=
  match (s.lantern l).wait, (s.lantern l).hit with
  | some (.pixel _), some t => markAndGo l t (toTick t s)
  | _, _ => s

def execWaitpDone (l : Fin 20) (s : State) : Result := waitEvent l.val (waitpDone l.val) s

/-- TIMEOUT of WAITF in lines. -/
def timeoutOf (w : Word) : Nat := if fld w 10 6 = 0 then 64 else fld w 10 6

/-- WAITF issues (R225): a fence that has reached its target completes it at once. -/
def waitfIssue (l : Nat) (w : Word) (s : State) : State :=
  let t := lg s l (rsOf w)
  let s := beginWait l (.fence (fenceOf w) t (timeoutOf w)) none s
  if reached (fenceValue s (fenceOf w)) t then endWait l (setFlag l true s) else s

def execWaitf (l : Fin 20) (s : State) : Result := powered s (issue l.val 0x1A (waitfIssue l.val))

/-- The time-out of a counted wait: on a lantern that counts pace periods, time moves on to it. -/
def timedOut (l left : Nat) (s : State) : State × Bool :=
  if countsLines s l then (s, decide (left = 0)) else (toTick (((s.lantern l).pace + left) * paceTicks) s, true)

/-- WAITF_DONE (R225): the fence has reached its target, or the lines of TIMEOUT have begun. -/
def waitfDone (l : Nat) (s : State) : State :=
  match (s.lantern l).wait with
  | some (.fence _ _ left) =>
    if (s.lantern l).hit.isSome then endWait l (setFlag l true s)
    else
      let (s, late) := timedOut l left s
      if late then endWait l (setFlag l false s) else s
  | _ => s

def execWaitfDone (l : Fin 20) (s : State) : Result := waitEvent l.val (waitfDone l.val) s

/-! ### Fences (R225) -/

/-- LATE.MISS counts one. -/
def countMiss (l : Nat) (s : State) : State := s.bump (rg .laLate l) 16 16 1

/-- SIGNAL: only a fence that no function owns (R128, R225). -/
def signalIssue (l : Nat) (w : Word) (s : State) : State :=
  if fenceOwner s (fenceOf w) = 0xFF then
    advancePc l (setFlag l true (setFence (fenceOf w) (lg s l (rsOf w)) s))
  else advancePc l (setFlag l false (countMiss l s))

def execSignal (l : Fin 20) (s : State) : Result := powered s (issue l.val 0x19 (signalIssue l.val))

/-- TESTF. -/
def execTestf (l : Fin 20) (s : State) : Result :=
  powered s (issue l.val 0x1B (fun w s =>
    advancePc l.val (setFlag l.val (reached (fenceValue s (fenceOf w)) (lg s l.val (rsOf w))) s)))

/-! ### Latch, scan, stamp, interrupt, sync (R46, R226) -/

/-- LATCH (R46): the latch at pixel 0 of the next line, or of V_ACTIVE if that is later, where the latch line is no earlier. A
selection whose moment has passed is made now (log entry 23). -/
def latchIssue (n : Nat) (s : State) : State :=
  let h := s.head n
  let at_ := max (h.line + 1) h.raster.vActive
  let s := if isRunning s n ∧ ¬ h.latched ∧ h.early.isNone ∧ at_ ≤ latchAt s n then
      let s := s.setHead n { h with early := some at_ }
      if h.selected ∨ s.tick < cutOff s n then s else selectHead n s
    else s
  advancePc n s

def execLatch (l : Fin 20) (s : State) : Result := powered s (issue l.val 0x18 (fun _ => latchIssue l.val))

/-- A start of a CV unit's program from its ENTRY, and whether the unit was idle (R226, R365). -/
def startUnit (u : Nat) (s : State) : State × Bool :=
  if cvIdle s u then (cvBegin u (fld (s.reg (rg .cvCtrl u)) 0 6) s, true) else (s, false)

/-- SCAN. -/
def execScan (l : Fin 20) (s : State) : Result :=
  powered s (issue l.val 0x1C (fun w s =>
    let (s, ok) := startUnit (fld w 0 3) s
    advancePc l.val (setFlag l.val ok s)))

/-- STAMP. -/
def stampIssue (l : Nat) (w : Word) (s : State) : State :=
  let x := s.lantern l
  match fld w 16 2 with
  | 0 => writeRd l w (BitVec.ofNat 32 s.tick) (s.setLantern l { x with stampHi := BitVec.ofNat 32 (s.tick / 2 ^ 32) })
  | 1 => writeRd l w x.stampHi s
  | 2 => writeRd l w (x.mark.truncate 32) s
  | _ => writeRd l w ((x.mark >>> 32).truncate 32) s

def execStamp (l : Fin 20) (s : State) : Result := powered s (issue l.val 0x1D (stampIssue l.val))

/-- IRQ. -/
def execIrq (l : Fin 20) (s : State) : Result :=
  powered s (issue l.val 0x1E (fun w s =>
    if permittedSource l.val (fld w 0 9) then advancePc l.val (raise (fld w 0 9) s) else lanternFault l.val 1 s))

/-- SYNC, by the device's cascade role (R226, R407): belfry, turret, or outside a cascade. -/
def syncIssue (l : Nat) (w : Word) (s : State) : State :=
  match s.casc.role with
  | 1 => advancePc l (setFlag l true (s.send (.syncMarker (fld w 0 8) (s.lantern l).mark)))
  | 2 => beginWait l (.sync (fld w 0 8) 64) none s
  | _ => advancePc l (setFlag l false s)

def execSync (l : Fin 20) (s : State) : Result := powered s (issue l.val 0x1F (syncIssue l.val))

/-- A SYNC marker relayed down the chain, once however many lanterns take it (R410). -/
def relaySync (ch t : Nat) (s : State) : State :=
  if SMap.get s.casc.synced ch none = some t then s
  else
    let s := { s with casc := { s.casc with synced := SMap.set s.casc.synced ch (some t) none } }
    if s.casc.role = 2 ∧ (s.osl 1).up then s.send (.syncMarker ch (BitVec.ofNat 64 t)) else s

/-- SYNC_MARKER (R226): the first marker of the channel, with its tick in the local timebase; or none within 64 lines, as one that comes
after them. A turret that is not JOINED receives none (R413). -/
def syncMarker (l : Nat) (marker : Option Nat) (s : State) : State :=
  if marker.isSome ∧ s.casc.state ≠ .joined then s
  else match (s.lantern l).wait, marker with
  | some (.sync ch left), some t =>
    let s := relaySync ch t s
    if expired s l left then endWait l (setFlag l false s)
    else endWait l (setFlag l true (s.setLantern l { s.lantern l with mark := BitVec.ofNat 64 t }))
  | some (.sync _ left), none =>
    let (s, late) := timedOut l left s
    if late then endWait l (setFlag l false s) else s
  | _, _ => s

def execSyncMarker (l : Fin 20) (marker : Option Nat) (s : State) : Result :=
  waitEvent l.val (syncMarker l.val marker) s

/-! ### Flares (R56 to R60, R224) -/

/-- The entries of a lantern in the bank. -/
def bankOf (s : State) (l : Nat) : List FlareEntry := SMap.get s.flares.bank l []

/-- A lantern's entries replaced. -/
def setFlareBank (l : Nat) (b : List FlareEntry) (s : State) : State :=
  { s with flares := { s.flares with bank := SMap.set s.flares.bank l b [] } }

/-- Levels put on the pins of a mask that the lantern owns (R58). -/
def drivePins (l : Nat) (mask : Word) (high : Bool) (s : State) : State :=
  let m := mask &&& ownedPins s l
  { s with flares := { s.flares with level := if high then s.flares.level ||| m else s.flares.level &&& ~~~m } }

/-- What an entry does as it fires; a pulse keeps its place until its falling edge (R224). -/
def fireEntry (l : Nat) (e : FlareEntry) (rest : List FlareEntry) (s : State) : State :=
  let s := setFlareBank l rest s
  let s := if e.fall then s else perfEvent 10 l 1 1 s
  match e.act with
  | .set => drivePins l e.mask true s
  | .clear => drivePins l e.mask false s
  | .pulse w =>
    if e.fall then drivePins l e.mask false s
    else drivePins l e.mask true (setFlareBank l (rest ++ [{ e with target := e.target + w, fall := true }]) s)
  | .trigger t =>
    if t.kind = 1 then
      let (s, ok) := startUnit t.arg s
      if ok then s else countMiss l s
    else raise t.arg s

/-- The entry of a list that is due first: by target, then in queue order (R56, R58). -/
def firstEntry : List FlareEntry → Option FlareEntry
  | [] => none
  | e :: t => match firstEntry t with
    | none => some e
    | some x => if x.target < e.target ∨ (x.target = e.target ∧ x.order < e.order) then some x else some e

/-- Ticks after the target at which an entry acts: 5 for a pin edge and 4 for an internal action (R57; log entry 5). -/
def fireDelay (e : FlareEntry) : Nat := match e.act with | .trigger _ => 4 | _ => 5

/-- Entries fire in order up to and including the first of a kind. -/
def fireUntil (l : Nat) (fall : Bool) : Nat → State → State
  | 0, s => s
  | fuel + 1, s => match firstEntry (bankOf s l) with
    | none => s
    | some e =>
      let s := fireEntry l e ((bankOf s l).erase e) (toTick (e.target + fireDelay e) s)
      if e.fall = fall then s else fireUntil l fall fuel s

/-- FLARE_FIRE (R56 to R58): the next entry fires, with the falling edges due before it. -/
def flareFire (l : Nat) (s : State) : State :=
  if (bankOf s l).any (fun e => !e.fall) then fireUntil l false 9 s else s

def execFlareFire (l : Fin 20) (s : State) : Result := powered s (flareFire l.val)

/-- PULSE_END (R56, R58): the next falling edge, with the entries due before it. -/
def pulseEnd (l : Nat) (s : State) : State := if (bankOf s l).any (·.fall) then fireUntil l true 9 s else s

def execPulseEnd (l : Fin 20) (s : State) : Result := powered s (pulseEnd l.val)

/-- The action that a FLARE word asks for; none is a fault (R224, R228). -/
def flareAct (s : State) (l : Nat) (w : Word) : Option FlareAct :=
  match fld w 24 2 with
  | 0 => some .set
  | 1 => some .clear
  | 2 => let v := (lg s l (fld w 18 3)).toNat
         if v = 0 then none else some (.pulse v)
  | _ =>
    let m := lg s l (fld w 21 3)
    if fld m 28 4 = 1 then some (.trigger { kind := 1, arg := fld m 0 3 })
    else if fld m 28 4 = 2 ∧ permittedSource l (fld m 0 9) then some (.trigger { kind := 2, arg := fld m 0 9 })
    else none

/-- The target tick of a FLARE word: MARK + OFFSET, never below 0 (R224). -/
def flareTarget (s : State) (l : Nat) (w : Word) : Nat := ((((s.lantern l).mark.toNat : Nat) : Int) + signed 18 (fld w 0 18)).toNat

/-- An entry that reaches the bank: one whose target has passed is late, and fires at once or is discarded (R59). A late pulse rises now
and keeps its width: it falls as one whose target lay a pin's latency ago (R56; log entry 24). -/
def enterBank (l : Nat) (e : FlareEntry) (s : State) : State :=
  if e.target < s.tick then
    let s := perfEvent 10 l 2 1 (s.bump (rg .laLate l) 0 16 1)
    if bit (s.reg (rg .btLateFire)) l then fireEntry l { e with target := s.tick - 5 } (bankOf s l) s else s
  else setFlareBank l (bankOf s l ++ [e]) s

/-- FLARE issues (R224). -/
def flareIssue (l : Nat) (w : Word) (s : State) : State :=
  match flareAct s l w with
  | none => lanternFault l 1 s
  | some a =>
    if 8 ≤ (bankOf s l).length then lanternFault l 3 s
    else
      let e : FlareEntry := { target := flareTarget s l w, act := a, mask := lg s l (fld w 21 3), order := s.flares.order }
      let s := { s with flares := { s.flares with order := s.flares.order + 1 } }
      advancePc l (enterBank l e s)

def execFlare (l : Fin 20) (s : State) : Result := powered s (issue l.val 0x14 (flareIssue l.val))

/-! ### START and STOP (R230 to R232) -/

/-- LCTRL as a START or STOP writes it. -/
def lctrlWord (start stop : Bool) (len : BitVec 10) (entry : BitVec 9) : Word :=
  putb start 31 ||| putb stop 30 ||| put len.toNat 16 ||| put entry.toNat 0

/-- The BAR0 offset of a lantern's block (R234). -/
def lanternOffset (l : Nat) : Nat := if l < 16 then 0x808000 + l * 0x10000 else 0xA88000 + (l - 16) * 0x10000

/-- The write of LCTRL as an access. -/
def lctrlAccess (l : Nat) (v : Word) : Access := { off := lanternOffset l, data := v }

/-- Words of a lantern's program memory. -/
def programOf (s : State) (l n : Nat) : List Word := (List.range n).map (fun w => s.reg (rg .laProg l w))

/-- A START that fails the decode check: CODE 6 and PC names the word (R232, R234). -/
def startFails (l pc : Nat) (bad : Option Nat) (s : State) : State :=
  let x := s.lantern l
  s.setLantern l { x with code := 6, pc := pc
                          faultWord := match bad with | some w => s.reg (rg .laProg l w) | none => x.faultWord }

/-- An accepted START (R232): an ingress lantern starts now; a head lantern at its head's next line. -/
def acceptStart (l entry len : Nat) (s : State) : State :=
  let s := freshBudget l s
  let x := { s.lantern l with code := 0, pc := entry, len := len, wait := none, hit := none, pace := paceOf s }
  if isIngressLantern l then s.setLantern l { x with state := .running, mark := BitVec.ofNat 64 s.tick }
  else s.setLantern l { x with startDue := true, startPc := entry }

/-- START judged over LEN words (R230, R232, R234). -/
def judgeStart (l : Nat) (s : State) : State :=
  let v := s.reg (rg .laLctrl l)
  let len := fld v 16 10
  let entry := fld v 0 9
  let r := lanternRaster s l
  if len = 0 ∨ 512 < len then startFails l 0 none s
  else match decodeFailure l len r.vTotal r.hTotal (programOf s l len) with
    | some w => startFails l w (some w) s
    | none => if len ≤ entry then startFails l entry none s else acceptStart l entry len s

/-- LEN and ENTRY stored. -/
def storeLctrl (l : Nat) (v : Word) (s : State) : State := s.setReg (rg .laLctrl l) (v &&& 0x3FF01FF#32)

/-- LCTRL that lands, from a source that is local or not (R231, R232). STOP goes before START. -/
def landLctrl (l : Nat) (v : Word) (isLocal : Bool) (s : State) : State :=
  let x := s.lantern l
  let s := storeLctrl l v s
  if bit v 30 then (if x.image ∧ ¬ isLocal then s else stopLantern l s)
  else if bit v 31 then
    if x.image ∧ ¬ isLocal then s.setLantern l { x with restart := true, code := 0 } else judgeStart l s
  else s

/-- Whether a START is refused when it is written (R231, R232). -/
def lctrlRefused (s : State) (l : Nat) (v : Word) (isLocal : Bool) : Bool :=
  let x := s.lantern l
  bit v 31 && !bit v 30 &&
  (if x.image && !isLocal then decide (x.state ≠ .fault) else decide (x.state = .running) || decide (x.state = .waiting))

end Sys2Proof.Machine
end

