-- ==== Sys2Proof/Machine/IngressCmds.lean ====
section
/-! DEFINITION. The commands of camera ingress (R236 to R254): packets, frames and line rings, the link of a receive port, and the
application of a stream's settings. -/

namespace Sys2Proof.Machine

/-! ### Settings of a stream (R243) -/

/-- Why a stream's settings are rejected, in the order of the table. -/
def streamFails (s : State) (x : Nat) : Option Nat :=
  let r := ringOf s x
  let c := s.reg (rg .siSctrl x)
  let rd := fld c 12 4
  let raw := decide (0x2A ≤ fld c 0 6)
  let raced : Bool := match liveImage s with
    | some i => i.envs.any (fun e => e.beamRaced && decide (e.stream = x))
    | none => false
  if r.lines < 8 ∨ r.bankLines < 8 ∨ r.lines < r.bankLines ∨ rd < 2 ∨ 17 < fld c 16 5 then some 2
  else if r.base % 256 ≠ 0 ∨ r.pitch % 256 ≠ 0 ∨ r.pitch < 256 ∨ 16776960 < r.pitch then some 0xA
  else if bit c 31 ∧ raced ∧ raw then some 5
  else none

/-- A ring that applies: its history ends, its bytes are pinned, and it is judged against its INGRESS entry (R106, R243). -/
def bindRing (x : Nat) (s : State) : State :=
  let s := s.setStream x { s.stream x with ringApplied := true, firstSince := true, history := [] }
  let r := ringOf s x
  rejudgeRing (requestPin (.ring x) r.ctx r.base (r.lines * r.pitch) (dropPin (.ring x) s)) x

/-- SCTRL and the ring group applied together, or rejected with the code in LAST_REJECT. -/
def applyStream (x : Nat) (s : State) : State :=
  let ws := (s.stream x).waiting
  let s := s.setStream x { s.stream x with waiting := [] }
  if ws.isEmpty then s
  else
    let next := overlay ws s
    match streamFails next x with
    | some code => s.setStream x { s.stream x with lastReject := code }
    | none => if ws.any (fun w => w.addr = (rg .siRingBaseHi x).addr) then bindRing x next else next

/-- Values for a stream's SCTRL or ring group: they apply at once, or at the end of the frame in progress. -/
def writeStream (x : Nat) (ws : List Wr) (s : State) : State :=
  let s := s.setStream x { s.stream x with
    waiting := (s.stream x).waiting.filter (fun w => !ws.any (fun v => v.addr = w.addr)) ++ ws }
  if (s.stream x).active then s else applyStream x s

/-! ### Frames (R242) -/

/-- The end of the frame in progress: LINES is kept for it and the three before, and waiting settings apply. -/
def endFrame (x : Nat) (s : State) : State :=
  let st := s.stream x
  if ¬ st.active then s
  else applyStream x (s.setStream x { st with
    active := false, ended := true, history := ((st.frame.toNat, st.wp) :: st.history).take 4, writes := false })

/-- Whether an enabled stream takes the packets of a port and virtual channel. -/
def matchesPort (s : State) (p vc x : Nat) : Bool :=
  let c := s.reg (rg .siSctrl x)
  bit c 31 && decide (fld c 16 5 = p) && decide (fld c 8 4 = vc)

/-- The enabled streams of a port. -/
def streamsOf (s : State) (p : Nat) : List Nat :=
  (List.range 192).filter (fun x => bit (s.reg (rg .siSctrl x)) 31 && decide (fld (s.reg (rg .siSctrl x)) 16 5 = p))

/-- The groups whose reference is the frame start of a stream (R52). -/
def groupsOn (s : State) (x : Nat) : List Nat :=
  (List.range 4).filter (fun g => refOf s g = 1 && decide (fld (s.reg (rg .btPgCtrl g)) 16 8 = x))

/-- The start of a frame (R242, R249): a refused ring pin is tried again (R106). -/
def startFrame (x : Nat) (s : State) : State :=
  let st := s.stream x
  let s := s.setStream x { st with
    frame := st.frame + 1, wp := 0, active := true, ended := false, fsTick := BitVec.ofNat 64 s.tick, firstSince := false
    since := if st.firstSince then st.frame + 1 else st.since
    writes := st.ringOk, raised := false, unreserved := st.unreserved && !st.ringOk }
  let s := perfEvent 2 x 2 1 (retryPins (fun u => u = .ring x) s)
  lanternStream x 0 s.tick ((groupsOn s x).foldl (fun s g => refEvent g s.tick s) s)

/-- Whether a receive port delivers packets: it is enabled and its link carries data (R253). -/
def receives (s : State) (p : Nat) : Bool := bit (s.reg (rg .siPctrl p)) 0 && (s.rx p).lock

/-- CSI_FS (R242). -/
def csiFs (p vc : Nat) (s : State) : State :=
  if ¬ receives s p then s
  else ((List.range 192).filter (matchesPort s p vc)).foldl (fun s x =>
    let s := endFrame x s
    if matchesPort s p vc x then startFrame x s else s) s

/-- Whether a receive port takes a cascade channel in place of its PHY (R422). -/
def takesChannel (s : State) (p : Nat) : Bool := decide (p < 16) && bit (s.reg (rg .caFwdRx p)) 31

/-- What a port's PHY delivers is taken where no channel stands in its place (R422). -/
def fromPhy (p : Nat) (body : State → State) (s : State) : Result := powered s (fun s => if takesChannel s p then s else body s)

def execCsiFs (p : Fin 18) (vc : BitVec 4) (s : State) : Result := fromPhy p.val (csiFs p.val vc.toNat) s

/-- CSI_FE (R242). -/
def csiFe (p vc : Nat) (s : State) : State :=
  if ¬ receives s p then s
  else ((List.range 192).filter (matchesPort s p vc)).foldl (fun s x => endFrame x s) s

def execCsiFe (p : Fin 18) (vc : BitVec 4) (s : State) : Result := fromPhy p.val (csiFe p.val vc.toNat) s

/-- CSI_SHORT_IGNORED (R238): line numbering does not use LS, LE and generic short packets. -/
def execCsiShortIgnored (_p : Fin 18) (_vc : BitVec 4) (_dt : BitVec 6) (s : State) : Result := powered s id

/-! ### Lines (R238 to R242) -/

/-- A count of ERRCOUNT, its field from bit `lo`, with source 139 (R242). -/
def countInput (x lo : Nat) (s : State) : State := raise 139 (s.bump (rg .siErrcount x) lo 8 1)

/-- Each byte pair swapped (R240). -/
def swapPairs : List Byte → List Byte
  | a :: b :: t => b :: a :: swapPairs t
  | l => l

/-- RGB888 as XRGB8888: B, G, R, 0xFF per pixel (R240). -/
def padPixels : List Byte → List Byte
  | b :: g :: r :: t => b :: g :: r :: 0xFF#8 :: padPixels t
  | _ => []

/-- What a payload becomes in the ring (R240). -/
def ringBytes (dt : Nat) (swap : Bool) (l : List Byte) : List Byte :=
  if dt = 0x1E then (if swap then swapPairs l else l) else if dt = 0x24 then padPixels l else l

/-- The page of a ring's pin that holds a VA, for writing. -/
def ringPage (s : State) (x va : Nat) : Option Page :=
  match pinOf s (.ring x) with
  | none => none
  | some p =>
    if p.state ≠ .done ∨ s.fabric.rewalks.any (fun r => r.ctx = p.ctx ∧ r.va ≤ va ∧ va < r.va + r.size) then none
    else p.pages.find? (fun q => q.va ≤ va ∧ va < q.va + q.size)

/-- A piece of a ring line written by requester 10: a write that translation refuses is a fault and is not performed (R93, R105);
one into a keep window is discarded and counted (R108); the ingress slots serve the ring's channel alone (R241). -/
def ringWrite (x ctx channel va : Nat) (l : List Byte) (s : State) : State :=
  match ringPage s x va with
  | none => xlatFault ctx va 0 10 true s
  | some q => match pageDpa q va with
    | none => xlatFault ctx va 0 10 true s
    | some d =>
      if ¬ q.write then xlatFault ctx va q.level 10 true s
      else if inKeepWin s d then raise 250 (s.bump (rg .mfPinStat) 16 8 1)
      else if chanOf d ≠ channel then s
      else putBytes 10 d (l.map some) (serve 10 d l.length s)

/-- The channel of a stream's INGRESS entry. -/
def ingressChannel (s : State) (x : Nat) : Nat :=
  match (ingressImage s).bind (fun i => i.ingress.find? (fun e => e.stream = x)) with
  | some e => e.channel
  | none => 0

/-- The address of line k of frame X in a ring (R241). -/
def ringLineVa (r : Ring) (frame k : Nat) : Nat :=
  r.base + (frame % max r.banks 1 * r.bankLines + k % max r.bankLines 1) * r.pitch

/-- A line written and counted by WP (R241, R249). -/
def writeLine (x : Nat) (l : List Byte) (s : State) : State :=
  let st := s.stream x
  let r := ringOf s x
  let va := ringLineVa r st.frame.toNat st.wp
  let channel := ingressChannel s x
  let s := (pieces va l.length).foldl (fun s q => ringWrite x r.ctx channel q.1 ((l.drop q.2.1).take q.2.2) s) s
  lanternStream x (st.wp + 1) s.tick (perfEvent 2 x 1 1 (s.setStream x { st with wp := st.wp + 1 }))

/-- A line that R239 discards: counted, with source 140 once per frame. -/
def dropLine (x : Nat) (s : State) : State :=
  let st := s.stream x
  let s := perfEvent 2 x 3 1 ((s.bump (rg .siDropCount x) 0 16 1).setStream x { st with unreserved := true, raised := true })
  if st.raised then s else raise 140 s

/-- A long packet that stream x takes. -/
def takeLine (x : Nat) (payload : List Byte) (crcOk : Bool) (s : State) : State :=
  let st := s.stream x
  let c := s.reg (rg .siSctrl x)
  let s := if crcOk then s else countInput x 16 s
  if ¬ st.active then perfEvent 2 x 3 1 (countInput x 8 s)
  else if ¬ st.writes then dropLine x s
  else if 8192 ≤ st.wp then perfEvent 2 x 3 1 (countInput x 8 s)
  else
    let l := ringBytes (fld c 0 6) (bit c 24) payload
    let pitch := (ringOf s x).pitch
    if pitch < l.length then writeLine x (l.take pitch) (countInput x 8 s) else writeLine x l s

/-- The stream that takes a long packet: the lowest-numbered enabled one that matches (R239). -/
def takerOf (s : State) (p vc dt : Nat) : Option Nat :=
  (List.range 192).find? (fun x => matchesPort s p vc x && decide (fld (s.reg (rg .siSctrl x)) 0 6 = dt))

/-- CSI_LONG_PACKET (R238, R239, R241). -/
def csiLongPacket (p vc dt : Nat) (payload : List Byte) (crcOk : Bool) (s : State) : State :=
  if ¬ receives s p then s
  else match takerOf s p vc dt with
    | some x => takeLine x payload crcOk s
    | none => s

def execCsiLongPacket (p : Fin 18) (vc : BitVec 4) (dt : BitVec 6) (payload : List Byte) (crcOk : Bool) (s : State) : Result :=
  fromPhy p.val (csiLongPacket p.val vc.toNat dt.toNat payload crcOk) s

/-- HEADER_ECC_ERROR (R238): every enabled stream of the port counts it. -/
def headerEccError (p : Nat) (s : State) : State :=
  if ¬ receives s p then s
  else raise 139 ((streamsOf s p).foldl (fun s x => s.bump (rg .siErrcount x) 24 8 1) s)

def execHeaderEccError (p : Fin 18) (s : State) : Result := fromPhy p.val (headerEccError p.val) s

/-! ### Receive ports (R236, R253) -/

/-- Whether a port's link is A-PHY: GEAR is 0 on every other (R236, R253, R422). -/
def isAphy (s : State) (p : Nat) : Bool :=
  decide (p < 16) && !bit (s.reg (rg .siIqMode (p / 4))) 0 && !takesChannel s p

/-- PORT_LOCK_GAIN (R252). A port that is not enabled has no link. -/
def portLockGain (p gear rate : Nat) (s : State) : State :=
  if ¬ bit (s.reg (rg .siPctrl p)) 0 ∨ (s.rx p).lock then s
  else raise (97 + p) (s.setRx p { lock := true, gear := if isAphy s p then gear else 0, rate := rate })

def execPortLockGain (p : Fin 18) (gear : BitVec 8) (rate : BitVec 16) (s : State) : Result :=
  fromPhy p.val (portLockGain p.val gear.toNat rate.toNat) s

/-- A packet of its channel arrives over an Osleig port: an enabled receive port that takes the channel has its link (R422). -/
def channelArrives (u p : Nat) (s : State) : State :=
  let s := portLockGain p 0 0 s
  if (s.rx p).lock then s.setRx p { s.rx p with via := some u } else s

/-- A link lost: the frames in progress end as at FE (R242). -/
def loseLock (p : Nat) (s : State) : State :=
  if ¬ (s.rx p).lock then s
  else (streamsOf s p).foldl (fun s x => endFrame x s) (raise (97 + p) (s.setRx p {}))

def execPortLockLoss (p : Fin 18) (s : State) : Result := powered s (loseLock p.val)

/-- A write of PCTRL that lands (R253). -/
def landPctrl (p : Nat) (on : Bool) (s : State) : State :=
  let s := s.setReg (rg .siPctrl p) (putb on 0)
  if on then s else loseLock p s

end Sys2Proof.Machine
end

