-- ==== Sys2Proof/Machine/CascadeCmds.lean ====
section
/-! DEFINITION. The events of a cascade (R407 to R426) and of REF 4 (R52): joins and losses, hop delays, the Osleig ports, relayed
channels, and segments. -/

namespace Sys2Proof.Machine

/-! ### The step of a join (R412) -/

/-- A map with every entry changed. -/
def mapVals {α : Type} (f : α → α) (m : SMap α) : SMap α := m.map (fun e => (e.1, f e.2))

/-- A head's ticks moved on. LATCH_TICK is a captured stamp and stays. -/
def Head.shift (d : Nat) (h : Head) : Head :=
  { h with anchor := h.anchor + d, latchedAt := h.latchedAt + d
           phase := match h.phase with
             | .waiting t => .waiting (t + d)
             | p => p }

/-- A phase group's ticks moved on: its anchor and its genlock targets. -/
def PGroup.shift (d : Nat) (p : PGroup) : PGroup :=
  { p with event := p.event.map (· + d), refSince := p.refSince + d, anchor := p.anchor.map (· + d) }

/-- A lantern's MARK and pending wait moved on; `periods` is by how much the numbers of pace periods grow. -/
def Lantern.shift (d periods : Nat) (x : Lantern) : Lantern :=
  { x with mark := x.mark + BitVec.ofNat 64 d, hit := x.hit.map (· + d), pace := x.pace + periods }

/-- A ticket's ticks moved on. -/
def Ticket.shift (d : Nat) (x : Ticket) : Ticket := { x with openedAt := x.openedAt + d, deadline := x.deadline + d, accepted := x.accepted + d }

/-- Every tick value that the device holds for future use moved on by D (R412 step 3). -/
def shiftTicks (d : Nat) (s : State) : State :=
  let periods := (s.tick + d) / paceTicks - s.tick / paceTicks
  { s with
    tick := s.tick + d
    heads := mapVals (Head.shift d) s.heads
    groups := mapVals (PGroup.shift d) s.groups
    flares := { s.flares with bank := mapVals (fun l => l.map (fun e => { e with target := e.target + d })) s.flares.bank }
    lanterns := mapVals (Lantern.shift d periods) s.lanterns
    held := mapVals (fun h => { h with since := h.since + d }) s.held
    items := s.items.map (fun x => { x with landed := x.landed + d, moved := x.moved.map (· + d) })
    sched := { s.sched with switch := s.sched.switch.map (fun w => { w with accepted := w.accepted + d }) }
    fabric := { s.fabric with pins := s.fabric.pins.map (fun p => { p with tick := p.tick + d }) }
    keep := { s.keep with heads := mapVals (fun k => { k with faultTick := mapVals (· + d) k.faultTick }) s.keep.heads }
    tx := { s.tx with tickets := mapVals (Ticket.shift d) s.tx.tickets }
    dict := { s.dict with
      sessionTick := s.dict.sessionTick + d, heard := mapVals (· + d) s.dict.heard
      lockout := s.dict.lockout.map (· + d)
      writeSegs := s.dict.writeSegs.map (fun x => { x with last := x.last + d })
      readSegs := s.dict.readSegs.map (fun x => { x with last := x.last + d }) }
    ic := { s.ic with groups := mapVals (fun g => { g with since := g.since + d }) s.ic.groups }
    start := { s.start with ends := mapVals (· + d) s.start.ends }
    therm := { s.therm with opStart := s.therm.opStart + d, shedTick := s.therm.shedTick + d }
    safety := { s.safety with
      pllBack := s.safety.pllBack.map (fun p => (p.1, p.2 + d)), refreshed := s.safety.refreshed + d,
      clearedAt := s.safety.clearedAt + d }
    casc := { s.casc with
      ports := mapVals (fun p => { p with free := p.free + d }) s.casc.ports
      relay := mapVals (fun l => l.map (fun e => (e.1 + d, e.2))) s.casc.relay } }

/-! ### Joins and losses (R408, R414 to R416) -/

/-- The state of the cascade changed. -/
def setCasc (x : CascState) (s : State) : State := { s with casc := { s.casc with state := x } }

/-- JOIN (R408, R412): `highest` is the highest count among the devices, delays removed. A device outside a cascade has no part in
one, nor a turret whose up port is DOWN. -/
def join (position : Nat) (devices : BitVec 2) (highest : Nat) (secondBelfry : Bool) (s : State) : State :=
  if s.casc.role = 0 ∨ (s.casc.role = 2 ∧ ¬ (s.osl 0).up) then s
  else if 3 < position ∨ secondBelfry then raise 361 s
  else
    let d := highest - s.tick
    let s := shiftTicks d s
    raise 356 { s with casc := { s.casc with
      position := if s.casc.role = 1 then 0 else position, devices := devices.toNat, step := BitVec.ofNat 64 d, state := .joined } }

def execJoin (position : Nat) (devices : BitVec 2) (highest : Nat) (secondBelfry : Bool) (s : State) : Result :=
  powered s (join position devices highest secondBelfry)

/-- JOIN_TIMEOUT (R414): a turret that is JOINING. -/
def joinTimeout (s : State) : State := if s.casc.role = 2 ∧ s.casc.state = .joining then setCasc .lost s else s

def execJoinTimeout (s : State) : Result := powered s joinTimeout

/-- BELFRY_LOSS (R415): a turret that is JOINED. LOSS_POLICY follows from the segments' own lines (R417). -/
def belfryLoss (s : State) : State :=
  if s.casc.role = 2 ∧ s.casc.state = .joined then raise 355 (setCasc .lost s) else s

def execBelfryLoss (s : State) : Result := powered s belfryLoss

/-- DELAY_PROBE (R410, R411): a probe leaves on a port that is UP, and the hop delay that it measures is kept. -/
def delayProbe (u delay : Nat) (s : State) : State :=
  if (s.osl u).up then (s.setOsl u { s.osl u with delay := delay }).send (.osleig u none [0x03#8]) else s

def execDelayProbe (u : Fin 2) (delay : BitVec 16) (s : State) : Result := powered s (delayProbe u.val delay.toNat)

/-- The receive ports whose channel arrives over an Osleig port. -/
def arrivingOver (s : State) (u : Nat) : List Nat := (List.range 16).filter (fun r => (s.rx r).via = some u)

/-- Whether a role leaves an Osleig port unused: without a role both, and the belfry's up port (R407, R408). -/
def oslUnused (s : State) (u : Nat) : Bool := decide (s.casc.role = 0) || (decide (s.casc.role = 1) && decide (u = 0))

/-- OSLEIG_LINK_CHANGE (R409, R424): an unused port stays down. With a port that goes DOWN the channels that arrive over it stop, and
the receive ports that take them lose their links (R422). -/
def oslLink (u : Nat) (up : Bool) (s : State) : State :=
  if oslUnused s u ∨ (s.osl u).up = up then s
  else
    let s := s.setOsl u (if up then { up := true, free := s.tick } else {})
    let s := if up then s else (arrivingOver s u).foldl (fun s r => loseLock r s) (s.bump (rg .caOslLoss u) 0 16 1)
    raise (353 + u) s

def execOsleigLinkChange (u : Fin 2) (up : Bool) (s : State) : Result := powered s (oslLink u.val up)

/-- PG_FRAME_START (R52, R410, R413): a turret that is JOINED relays the event, and stamps it for its group of that number if its
reference is REF 4. The byte layout is the model's (log entry 7). -/
def pgFrameStart (g tick : Nat) (s : State) : State :=
  if s.casc.role = 2 ∧ s.casc.state = .joined then
    let s := if (s.osl 1).up then s.send (.osleig 1 none (groupStartBytes g tick)) else s
    if refOf s g = 4 then refEvent g tick s else s
  else s

def execPgFrameStart (g : Fin 4) (tick : Nat) (s : State) : Result := powered s (pgFrameStart g.val tick)

/-! ### Relayed channels (R418, R419) -/

/-- The relay buffer of a port and channel. -/
def relayOf (s : State) (u ch : Nat) : List (Nat × SegPacket) := SMap.get s.casc.relay (u * 256 + ch) []

def setRelay (u ch : Nat) (l : List (Nat × SegPacket)) (s : State) : State :=
  { s with casc := { s.casc with relay := SMap.set s.casc.relay (u * 256 + ch) l [] } }

/-- The bytes of a packet (log entry 7). -/
def packetBytes : SegPacket → List Byte
  | .header w h d f => [0x10#8] ++ leBytes 2 w ++ leBytes 2 h ++ leBytes 1 d ++ leBytes 8 f.toNat
  | .line y l => [0x11#8] ++ leBytes 2 y ++ bytesOf l
  | .fs vc => [0x00#8, vc.zeroExtend 8]
  | .fe vc => [0x01#8, vc.zeroExtend 8]
  | .long vc dt l _ => [dt.zeroExtend 8, vc.zeroExtend 8] ++ l

/-- The ticks that a line packet takes on a port: 30 bits a pixel of a SEGMENT line, and a FORWARD line's bytes (R409, R418). -/
def packetTicks : SegPacket → Nat
  | .line _ l => oslTicks l.length 30
  | .long _ _ l _ => oslTicks l.length 8
  | _ => 0

/-- The channels with lines waiting on a port, each with the tick that its first line came at. -/
def waitingChannels (s : State) (u : Nat) : List (Nat × Nat) :=
  (List.range 256).filterMap (fun ch => (relayOf s u ch).head?.map (fun e => (ch, e.1)))

/-- The channel whose line leaves a port next, and when: as soon as the port is free and a line waits, the lowest channel of those that
wait by then (R419; log entry 29). -/
def nextRelay (s : State) (u : Nat) : Option (Nat × Nat) :=
  match (waitingChannels s u).map (·.2) with
  | [] => none
  | t :: l =>
    let at_ := max (s.osl u).free (l.foldl min t)
    ((waitingChannels s u).find? (fun c => decide (c.2 ≤ at_))).map (fun c => (c.1, at_))

/-- Relayed lines leave a port that is UP (R419). -/
def drainRelay (u : Nat) : Nat → State → State
  | 0, s => s
  | fuel + 1, s =>
    match nextRelay s u with
    | none => s
    | some (ch, at_) =>
      if ¬ (s.osl u).up ∨ s.tick < at_ then s
      else match relayOf s u ch with
        | [] => s
        | (_, p) :: t =>
          let s := (setRelay u ch t s).send (.osleig u (some ch) (packetBytes p))
          drainRelay u fuel (s.setOsl u { s.osl u with free := at_ + packetTicks p })

/-- A line to be relayed: two wait at most, and a third is discarded whole (R419). -/
def relayLine (u ch : Nat) (p : SegPacket) (s : State) : State :=
  let s := drainRelay u 512 s
  if 2 ≤ (relayOf s u ch).length then
    let first := !SMap.get s.casc.discarded (u * 256 + ch) false
    let s := s.bump (rg .caRelayDrop u) 0 16 1
    let s := { s with casc := { s.casc with discarded := SMap.set s.casc.discarded (u * 256 + ch) true false } }
    if first then raise 362 s else s
  else drainRelay u 1 (setRelay u ch (relayOf s u ch ++ [(s.tick, p)]) s)

/-- A frame header, FS or FE to be relayed: it goes ahead of line data. A frame's header or FS begins the frame for source 362. -/
def relayAhead (u ch : Nat) (starts : Bool) (p : SegPacket) (s : State) : State :=
  let s := if starts then { s with casc := { s.casc with discarded := SMap.set s.casc.discarded (u * 256 + ch) false false } } else s
  if (s.osl u).up then s.send (.osleig u (some ch) (packetBytes p)) else s

/-- A packet to be relayed on a port (R419). -/
def relayPacket (u ch : Nat) (p : SegPacket) (s : State) : State :=
  match p with
  | .header .. | .fs _ => relayAhead u ch true p s
  | .fe _ => relayAhead u ch false p s
  | .line .. | .long .. => relayLine u ch p s

/-- What passes on an empty queue: a tick, in which relayed lines leave (log entry 2). -/
def rest (s : State) : State :=
  match s.power with
  | .on => drainRelay 1 512 (drainRelay 0 512 (idle s))
  | _ => s

/-! ### Segments (R420) -/

/-- The enabled segments that take a channel. -/
def segsTaking (s : State) (ch : Nat) : List Seg := ((List.range 4).map (segOf s)).filter (fun g => g.enabled && decide (g.channel = ch))

/-- A header received by a segment: a mismatch sets FORMAT_ERR until one matches, with which a segment that missed a line resumes. -/
def segHeader (width height depth : Nat) (frame : DWord) (s : State) (g : Seg) : State :=
  let s := s.setSeg g.k { s.seg g.k with width := width, height := height, depth := depth, frame := frame }
  let ok := segMatches s g
  s.setSeg g.k { s.seg g.k with formatErr := !ok, lost := (s.seg g.k).lost && !ok }

/-- Whether a line y that is complete now comes too late, past pixel X0 of that line, or too early, more than 3 line times before it
(R420, R421). -/
def segUntimely (s : State) (g : Seg) (y : Nat) : Bool :=
  let h := s.head g.head
  let v := max h.raster.vTotal 1
  let ahead := (y + v - h.line % v) % v
  let passed := decide (tickAt s g.head h.line g.x0 < s.tick)
  isRunning s g.head &&
    ((decide (ahead = 0) && passed) || decide (4 ≤ ahead) || (decide (ahead = 3) && decide (s.tick < tickAt s g.head h.line g.x0)))

/-- A line received by a segment: one that is not complete, that is untimely, that belongs to a frame of which a line was missed, or
that finds four lines in the buffer, is not kept (R420, R421; log entry 29). -/
def segStore (y : Nat) (l : List Word) (s : State) (g : Seg) : State :=
  let x := s.seg g.k
  if l.length ≠ x.width ∨ x.height ≤ y ∨ x.lost ∨ segUntimely s g y ∨ (4 ≤ x.lines.length ∧ ¬ x.lines.any (fun e => e.1 = y)) then s
  else s.setSeg g.k { x with lines := SMap.set x.lines y l [] }

/-- The receive ports that take a channel (R422): its packets arrive as those ports' own. -/
def takersOf (s : State) (ch : Nat) : List Nat :=
  (List.range 16).filter (fun r => takesChannel s r && decide (fld (s.reg (rg .caFwdRx r)) 16 8 = ch))

/-- A packet of its channel taken by a receive port: its link carries data, and a FORWARD packet is received as from its PHY
(R422). -/
def forwardPacket (u : Nat) (p : SegPacket) (s : State) (r : Nat) : State :=
  let s := channelArrives u r s
  match p with
  | .fs vc => csiFs r vc.toNat s
  | .fe vc => csiFe r vc.toNat s
  | .long vc dt l crcOk => csiLongPacket r vc.toNat dt.toNat l crcOk s
  | .header .. | .line .. => s

/-- A packet taken by a segment: those of a FORWARD stream are none of its own. -/
def segTake (p : SegPacket) (s : State) (g : Seg) : State :=
  match p with
  | .header w h d f => segHeader w h d f s g
  | .line y l => segStore y l s g
  | .fs _ | .fe _ | .long .. => s

/-- SEGMENT_LINE_RECEIVED (R418 to R420, R422): what an UP port receives is consumed, discarded at the end of the chain, or relayed. -/
def segmentLine (u ch : Nat) (last : Bool) (p : SegPacket) (s : State) : State :=
  if ¬ (s.osl u).up then s
  else
    let gs := segsTaking s ch
    let rs := takersOf s ch
    if gs.isEmpty ∧ rs.isEmpty then (if last then s else relayPacket (1 - u) ch p s)
    else rs.foldl (forwardPacket u p) (gs.foldl (segTake p) s)

def execSegmentLineReceived (u : Fin 2) (channel : Byte) (last : Bool) (p : SegPacket) (s : State) : Result :=
  powered s (segmentLine u.val channel.toNat last p)

/-- SEGMENT_LINE_UNUSABLE (R420): the receiving head stands in an active line that the segment does not hold. What is shown is
decided as the line leaves (R417). -/
def segmentUnusable (k line : Nat) (s : State) : State :=
  let g := segOf s k
  if ¬ g.enabled ∨ ¬ isRunning s g.head ∨ (s.head g.head).line ≠ line ∨ (s.head g.head).raster.vActive ≤ line ∨
      (segLine s g line).isSome then s
  else missLine k line s

def execSegmentLineUnusable (k : Fin 4) (line : Nat) (s : State) : Result := powered s (segmentUnusable k.val line)

/-- SEG_STATUS (R425). -/
def segStatus (s : State) (k : Nat) : Word :=
  let x := s.seg k
  putb x.usable 31 ||| putb x.formatErr 30 ||| put x.late 0

/-- 1s written to LATE clear the written bits. -/
def clearLate (k : Nat) (v : Word) (s : State) : State :=
  s.setSeg k { s.seg k with late := ((put (s.seg k).late 0) &&& ~~~v).toNat % 65536 }

/-- CASC_STATUS (R425). -/
def cascStatus (s : State) : Word :=
  let c := s.casc
  let st := match c.state with
    | .alone => 0
    | .joining => 1
    | .joined => 2
    | .lost => 3
  put c.role 30 ||| put c.position 28 ||| put st 26 ||| put c.devices 24

/-- OSL_LINK of a port (R425). -/
def oslWord (s : State) (u : Nat) : Word :=
  let x := s.osl u
  if x.up then putb true 31 ||| put 4 24 ||| put x.delay 0 else 0

end Sys2Proof.Machine
end

