-- ==== Sys2Proof/Machine/OutputCmds.lean ====
section
/-! DEFINITION. The commands of the output quads (R255 to R270): the quad's control register, link training and loss, hot plug and
the AUX mailbox. -/

namespace Sys2Proof.Machine

/-! ### Links (R264 to R268) -/

/-- STATE as a number (R264). -/
def LinkState.code : LinkState → Nat
  | .down => 0
  | .training => 1
  | .up => 2
  | .failed => 3

/-- LINK[t] of a quad (R269): TRAINED_RATE reads 0xFF while the link is not UP, and 0 after reset until it first trains (R10; log
entry 67). -/
def linkWord (s : State) (q t : Nat) : Word :=
  let x := s.txPort q t
  put x.state.code 30 ||| put x.rate 16 ||| putb x.hpd 8 ||| put x.loss 0

/-- The heads that feed a quad through an enabled port. -/
def quadHeads (s : State) (q : Nat) : List Nat := ((quadPorts s q).map (portHead s)).eraseDups

/-- A link-status event of a quad (R268, R313): the source of every head that feeds it, and a NOTIFY of class 4. -/
def linkEvent (q : Nat) (s : State) : State :=
  noteFree 4 q (linkWord s q 0) none ((quadHeads s q).foldl (fun s n => raise (4 + 4 * n) s) s)

/-- The enabled ports of a transmit port. -/
def portsOfTx (s : State) (q t : Nat) : List Nat := (quadPorts s q).filter (fun e => txOf s e = t)

/-- A transmit port comes to a state: a change is a link-status event; a port whose link is not UP sends nothing, and one that comes UP is
told the payload table and the picture parameter set (R261, R262, R264, R268). -/
def setLink (q t : Nat) (x : LinkState) (rate : Nat) (s : State) : State :=
  let old := (s.txPort q t).state
  let s := s.setTxPort q t { s.txPort q t with state := x, rate := rate }
  let s := if x = .up then settleQuad s q
    else ((List.range 8).map (fun k => 8 * q + k)).foldl (fun s e =>
      if txOf s e = t then s.setEgress e { s.egress e with carry := none } else s) (forgetQuad q t s)
  if old = x then s else linkEvent q s

/-- The transmit ports of a quad's mode (R255). -/
def txPortsOf (s : State) (q : Nat) : List Nat := if quadMode s q = 0 then [0] else [0, 1, 2, 3]

/-- The transmit ports that training brings up: the DP link, or each port with an enabled stream (R264). -/
def trainable (s : State) (q : Nat) : List Nat :=
  (txPortsOf s q).filter (fun t => decide (quadMode s q = 0) || !(portsOfTx s q t).isEmpty)

/-- RATE of a quad. -/
def quadRate (s : State) (q : Nat) : Nat := fld (s.reg (rg .oqQctrl q)) 16 5

/-- MIN_RATE of a quad: a value above the rate that training begins at is that rate (R264, R269). -/
def lowestRate (s : State) (q rate : Nat) : Nat := min (fld (s.reg (rg .oqQctrl q)) 8 5) rate

/-- Whether a quad's domain has its clock: it stops where every head that feeds the quad has been shed and has stopped (R35). -/
def quadClocked (s : State) (q : Nat) : Bool :=
  (quadHeads s q).isEmpty || (quadHeads s q).any (fun n => !s.therm.shed.getLsbD n || !isStopped s n)

/-- An event of a quad's links acts on a quad whose domain has its clock (R35). -/
def clockedQuad (q : Nat) (body : State → State) (s : State) : Result :=
  powered s (fun s => if quadClocked s q then body s else s)

/-- Training of a transmit port begins at a rate (R264). -/
def trainPort (q t rate : Nat) (s : State) : State :=
  let s := setLink q t .training 0xFF s
  (s.setTxPort q t { s.txPort q t with target := rate }).send
    (.train q t rate (lowestRate s q rate) (if quadMode s q = 0 then lanesOf s q else 1))

/-- Training of a quad's links that are DOWN or FAILED (R264; log entry 26). -/
def trainQuad (q rate : Nat) (s : State) : State :=
  ((trainable s q).filter (fun t => (s.txPort q t).state = .down ∨ (s.txPort q t).state = .failed)).foldl
    (fun s t => trainPort q t rate s) s

/-- Every transmit port that has an enabled stream retrained (R269). -/
def retrainQuad (q rate : Nat) (s : State) : State :=
  ((txPortsOf s q).filter (fun t => !(portsOfTx s q t).isEmpty)).foldl (fun s t => trainPort q t rate s) s

/-! ### QCTRL (R255, R264, R266, R269) -/

/-- RATE as stored: an undefined value is the lowest rate of the mode. -/
def fixRate (mode rate : Nat) : Nat :=
  if mode = 0 then (if rate ≤ 2 then rate else 0) else if 1 ≤ rate ∧ rate ≤ 5 then rate else 1

/-- QCTRL as stored. -/
def fixQctrl (v : Word) : Word :=
  let v := v &&& 0x31F1FC3#32
  let v := withFld v 16 5 (fixRate (fld v 24 2) (fld v 16 5))
  if fld v 6 2 = 3 then withFld v 6 2 2 else v

/-- Why a QCTRL write is ignored: MODE 3, or a change of MODE while a port of the quad is enabled (R255, R269). -/
def qctrlRefused (s : State) (q : Nat) (v : Word) : Option Nat :=
  if fld v 24 2 = 3 then some 4
  else if fld v 24 2 ≠ quadMode s q ∧ ¬ (quadPorts s q).isEmpty then some 3
  else none

/-- A QCTRL write that lands; training begins at RATE, or at the last good rate where start-up asks for it (R436). A link that stays
up is told the payload table of the new lane count (R261). A quad whose domain has no clock trains nothing (R35; log entry 26). -/
def landQctrlAt (q : Nat) (v : Word) (rate : Option Nat) (s : State) : State :=
  let s := settleQuad (s.setReg (rg .oqQctrl q) (fixQctrl v)) q
  let rate := rate.getD (quadRate s q)
  if bit v 0 then
    if quadClocked s q then trainQuad q rate (if bit v 2 then retrainQuad q rate s else s) else s
  else [0, 1, 2, 3].foldl (fun s t => setLink q t .down 0xFF s) s

/-- A QCTRL write that lands. -/
def landQctrl (q : Nat) (v : Word) (s : State) : State := landQctrlAt q v none s

/-! ### Training and loss (R264, R265, R436) -/

/-- A quad that reaches UP: its rate is the last good one, and its fail count is 0 (R436). -/
def quadUp (q rate : Nat) (s : State) : State :=
  let s := s.setNor (fun n => { n with lastGood := SMap.set n.lastGood q rate 0 })
  if SMap.get s.start.ledger.quadFails q 0 = 0 then s
  else writeLedger true (s.setLedger (fun l => { l with quadFails := SMap.set l.quadFails q 0 0 }))

/-- Whether training can end at a rate: one of the mode's, from that it began at down to MIN_RATE (R256, R264). -/
def trainsAt (s : State) (q t r : Nat) : Bool :=
  decide (fixRate (quadMode s q) r = r) && decide (r ≤ (s.txPort q t).target) && decide (lowestRate s q (s.txPort q t).target ≤ r)

/-- TRAINING_COMPLETE (R264): UP at a rate, or FAILED. A rate that training does not try is none that it ends at: nothing changes. -/
def trainingComplete (q t : Nat) (rate : Option Nat) (s : State) : State :=
  if (s.txPort q t).state ≠ .training then s
  else match rate with
    | some r => if trainsAt s q t r then quadUp q r (setLink q t .up r s) else s
    | none => setLink q t .failed 0xFF s

def execTrainingComplete (q : Fin 8) (t : Fin 4) (rate : Option (BitVec 5)) (s : State) : Result :=
  clockedQuad q.val (trainingComplete q.val t.val (rate.map (·.toNat))) s

/-- A link that was UP is lost (R265): counted, and retrained where AUTO_RETRAIN is 1. -/
def loseLink (q t : Nat) (s : State) : State :=
  if (s.txPort q t).state ≠ .up then s
  else
    let s := perfEvent 9 q 2 1 (s.setTxPort q t { s.txPort q t with loss := satAdd 8 (s.txPort q t).loss 1 })
    let s := setLink q t .down 0xFF s
    if bit (s.reg (rg .oqQctrl q)) 1 then trainPort q t (quadRate s q) s else s

def execLinkLoss (q : Fin 8) (t : Fin 4) (s : State) : Result := clockedQuad q.val (loseLink q.val t.val) s

/-- HPD_PLUG (R268). -/
def hpdPlug (q t : Nat) (level : Bool) (s : State) : State :=
  if (s.txPort q t).hpd = level then s else linkEvent q (s.setTxPort q t { s.txPort q t with hpd := level })

def execHpdPlug (q : Fin 8) (t : Fin 4) (level : Bool) (s : State) : Result := clockedQuad q.val (hpdPlug q.val t.val level) s

/-- HPD_IRQ (R265, R268). -/
def hpdIrq (q t : Nat) (fault : Bool) (s : State) : State :=
  let s := linkEvent q s
  if fault then loseLink q t s else s

def execHpdIrq (q : Fin 8) (t : Fin 4) (fault : Bool) (s : State) : Result := clockedQuad q.val (hpdIrq q.val t.val fault) s

/-! ### The AUX mailbox (R267) -/

/-- The 16 data bytes of a mailbox. -/
def auxData (s : State) (q t : Nat) : List Byte := bytesOf ((List.range 4).map (fun k => s.reg (rg .oqAuxData q t k)))

/-- The data bytes replaced from byte 0 on. -/
def setAuxData (q t : Nat) (l : List Byte) (s : State) : State :=
  let d := l.take 16 ++ (auxData s q t).drop (l.take 16).length
  (List.range 4).foldl (fun s k => s.setReg (rg .oqAuxData q t k) (BitVec.ofNat 32 (leAt d (4 * k) 4))) s

/-- AUX_CMD that lands: OP 1 to 4 starts a transaction; a write sends its data bytes. In DP mode a port other than 0 is not used: its
mailbox has no link, and the result says so at once (R267, R269). A quad whose domain has no clock starts none (R35). -/
def startAux (q t op lenM1 : Nat) (s : State) : State :=
  if op = 0 ∨ 4 < op ∨ ¬ quadClocked s q then s
  else if quadMode s q = 0 ∧ t ≠ 0 then s.setTxPort q t { s.txPort q t with auxBytes := 0, auxResult := 4 }
  else
    let data := if op = 1 ∨ op = 3 then (auxData s q t).take (lenM1 + 1) else []
    (s.setTxPort q t { s.txPort q t with auxBusy := true, auxOp := op, auxLen := lenM1 + 1 }).send
      (.aux q t op (fld (s.reg (rg .oqAuxAddr q t)) 0 20) data)

/-- AUX_COMPLETE (R267): the result is posted, and a read overwrites the data bytes. In DP mode a port other than 0 has no link
(R267, R269). -/
def auxComplete (q t result count : Nat) (bytes : List Byte) (s : State) : State :=
  let x := s.txPort q t
  if ¬ x.auxBusy ∨ 4 < result then s
  else if quadMode s q = 0 ∧ t ≠ 0 then s.setTxPort q t { x with auxBusy := false, auxBytes := 0, auxResult := 4 }
  else
    let s := s.setTxPort q t { x with auxBusy := false, auxBytes := count, auxResult := result }
    if x.auxOp = 2 ∨ x.auxOp = 4 then setAuxData q t (bytes.take x.auxLen) s else s

def execAuxComplete (q : Fin 8) (t : Fin 4) (result count : BitVec 4) (bytes : List Byte) (s : State) : Result :=
  clockedQuad q.val (auxComplete q.val t.val result.toNat count.toNat bytes) s

end Sys2Proof.Machine
end

