-- ==== Sys2Proof/Machine/TxCmds.lean ====
section
/-! DEFINITION. Transactions (R271 to R284): tickets, drafts, commits and their verification, rollback and timeouts, and the
acceptance of a bank switch (R88). -/

namespace Sys2Proof.Machine

/-! ### Tickets and holders (R271, R272) -/

/-- The code of a source as a holder: a diagnostic session holds by its own code (R271, R292). -/
def holderCode (s : State) (src : Source) : Nat := if s.dict.session = some src then 0xC0 else sourceCode src

/-- Whether a source holds what a holder code names. -/
def isHolder (s : State) (src : Source) (code : Nat) : Bool :=
  decide (code = sourceCode src) || (decide (code = 0xC0) && decide (s.dict.session = some src))

/-- Whether a source can hold tickets: every source but a VF (R271). -/
def mayHold (src : Source) : Bool := match src with | .fn f => isPF f.val | _ => true

/-- Tickets 1 to 4. -/
def ticketNumbers : List Nat := [1, 2, 3, 4]

/-- The ticket that a source holds in a given state. -/
def heldTicket (s : State) (src : Source) (x : TState) : Option Nat :=
  ticketNumbers.find? (fun t => decide ((s.ticket t).state = x) && isHolder s src (s.ticket t).holder)

/-- Whether a ticket can be opened. -/
def TState.openable : TState → Bool
  | .free | .applied | .rejected | .partly => true
  | _ => false

/-- The ticket that a read of TX.OPEN opens, if any (R272). -/
def nextTicket (s : State) (src : Source) : Option Nat :=
  if ¬ mayHold src ∨ (heldTicket s src .opened).isSome ∨ (heldTicket s src .verifying).isSome then none
  else ticketNumbers.find? (fun t => (s.ticket t).state.openable)

/-- A ticket opened: its results are cleared, and its timeout starts with TX.TIMEOUT. -/
def openTicket (src : Source) (t : Nat) (s : State) : State :=
  s.setTicket t { state := .opened, holder := holderCode s src, openedAt := s.tick
                  deadline := s.tick + fld (s.reg (rg .txTimeout)) 0 16 * ticksPerMs }

/-- OPEN (R272): a full read opens and returns the number, or 0. -/
def openTx (src : Source) (full : Bool) (s : State) : State :=
  match (if full then nextTicket s src else none) with
  | some t => (openTicket src t s).answer (.word (BitVec.ofNat 32 t))
  | none => s.answer (.word 0)

def execOpen (src : Source) (full : Bool) (s : State) : Result := readRequest src s (openTx src full)

/-! ### Drafts (R274, R275) -/

/-- Draft entries in use. -/
def draftsUsed (s : State) : Nat := (ticketNumbers.map (fun t => (s.ticket t).draft.length)).sum

/-- Draft entries free. -/
def poolFree (s : State) : Nat := 4096 - draftsUsed s

/-- A value entered into a ticket's draft: it overwrites the register's entry, or takes a new one; with the pool empty the ticket is
marked DRAFT_FULL. -/
def enterDraft (t : Nat) (w : Wr) (s : State) : State :=
  let x := s.ticket t
  if x.draft.any (fun v => v.addr = w.addr) then
    s.setTicket t { x with draft := x.draft.map (fun v => if v.addr = w.addr then w else v) }
  else if poolFree s = 0 then s.setTicket t { x with draftFull := true }
  else s.setTicket t { x with draft := x.draft ++ [w] }

/-! ### Commit and rollback (R276, R282) -/

/-- Whether a ticket in a state still has its holder: one accepted is no longer held (R271). -/
def TState.held : TState → Bool
  | .accepted | .applied | .partly => false
  | _ => true

/-- Why a write of COMMIT or ROLLBACK for a ticket is not taken. -/
def ticketCause (s : State) (src : Source) (t : Nat) : Option Nat :=
  if t = 0 ∨ 4 < t then some 4
  else if ¬ isHolder s src (s.ticket t).holder ∨ ¬ (s.ticket t).state.held then some 2
  else if (s.ticket t).state ≠ .opened then some 3
  else none

/-- Whether a tick lies before the core clock in progress; the phase is kept in fifths of a tick (log entry 9). -/
def beforeClock (s : State) (t : Nat) : Bool := decide (s.corePhase < 5 * (s.tick - t))

/-- The tick at which the core clock in progress ends. -/
def clockEnd (s : State) : Nat := s.tick + ceilDiv ((if s.therm.coreMhz = 1000 then 8 else 10) - s.corePhase) 5

/-- Why a commit is not taken: as for every ticket write, or its timeout has expired in an earlier core clock. -/
def commitCause (s : State) (src : Source) (t : Nat) : Option Nat :=
  match ticketCause s src t with
  | some c => some c
  | none => if beforeClock s (s.ticket t).deadline then some 3 else none

/-- A commit taken: the timeout stops and the ticket waits for its verification. -/
def takeCommit (src : Source) (t : Nat) (mask : BitVec 16) (answer : Option Msg) (s : State) : State :=
  { s with tx := { s.tx with order := s.tx.order + 1 } }.setTicket t { s.ticket t with
    state := .verifying, mask := mask, order := s.tx.order, safety := carriesSafety s src, answer := answer }

/-- COMMIT by the register route (R276). -/
def commit (src : Source) (t : Nat) (mask : BitVec 16) (s : State) : State :=
  if ¬ mayHold src then s
  else match commitCause s src t with
    | some c => refuse src c { off := (rg .txCommit).addr, data := put mask.toNat 16 ||| put t 0 } s
    | none => takeCommit src t mask none s

def execCommit (src : Source) (ticket : BitVec 3) (mask : BitVec 16) (s : State) : Result :=
  request src s (commit src ticket.toNat mask)

/-- A ticket freed by its holder (R282). -/
def freeTicket (t : Nat) (s : State) : State := s.setTicket t {}

/-- ROLLBACK by the register route (R282). -/
def rollback (src : Source) (t : Nat) (s : State) : State :=
  if ¬ mayHold src then s
  else match ticketCause s src t with
    | some c => refuse src c { off := (rg .txRollback).addr, data := put t 0 } s
    | none => freeTicket t s

def execRollback (src : Source) (ticket : BitVec 3) (s : State) : Result := request src s (rollback src ticket.toNat)

/-- An OPEN ticket rolled back as REJECTED TIMEOUT (R282). -/
def rollTicket (t detail : Nat) (s : State) : State :=
  if (s.ticket t).state ≠ .opened then s
  else noteFinal t (raise (212 + t) (s.setTicket t { s.ticket t with
    state := .rejected, code := 7, detail := detail, draft := [], draftFull := false }))

/-- The tick at which the network holder of an OPEN ticket has been silent for the ticket's timeout (R312); none for another
holder. -/
def silentAt (s : State) (x : Ticket) : Option Nat :=
  if 0x40 ≤ x.holder ∧ x.holder < 0x50 then some (SMap.get s.dict.heard (x.holder - 0x40) 0 + (x.deadline - x.openedAt)) else none

/-- TICKET_TIMEOUT: the holder's loss by silence where that has come about, else the timeout, at the end of the core clock in which it
expires (R282, R284, R312). -/
def ticketTimeout (t : Nat) (s : State) : State :=
  let x := s.ticket t
  if x.state ≠ .opened then s
  else match (silentAt s x).filter (· ≤ x.deadline) with
    | some l => rollTicket t 1 (toTick l s)
    | none =>
      let s := toTick x.deadline s
      rollTicket t 0 (if beforeClock s x.deadline then s else toTick (clockEnd s) s)

def execTicketTimeout (t : Fin 5) (s : State) : Result := powered s (ticketTimeout t.val)

/-- A holder that is lost: its OPEN ticket is rolled back with DETAIL 1 (R282). -/
def loseHolder (code : Nat) (s : State) : State :=
  (ticketNumbers.filter (fun t => (s.ticket t).holder = code)).foldl (fun s t => rollTicket t 1 s) s

/-! ### Verification (R278) -/

/-- The perf-block number of the subsystem that owns a register (R16). -/
def ownerBlock (addr : Nat) : Nat :=
  let b := addr / 0x100000
  if b = 0 then (match addr / 0x10000 with | 4 => 11 | 5 => 12 | 2 => 13 | 3 => 14 | _ => 0)
  else if b = 0xB then 15 else b

/-- The bank that a draft selects, if it holds SB_SELECT. -/
def draftBank (ws : List Wr) : Option Nat :=
  (ws.find? (fun w => w.addr = (rg .mcSbSelect).addr)).map (fun w => fld w.value 0 2)

/-- The entries of a draft other than SB_SELECT. -/
def draftFields (ws : List Wr) : List Wr := ws.filter (fun w => w.addr ≠ (rg .mcSbSelect).addr)

/-- The head that an entry of a draft belongs to (R277): naming fields by their drafted values, else their live ones. -/
def entryHead (s : State) (ws : List Wr) (w : Wr) : Option Nat :=
  (regAt w.addr).bind (fun r => headOfReg r (fun x => wrOr ws x (s.reg x)))

/-- Values laid over a state that is only judged; a timing group counts as applied. -/
def project (ws : List Wr) (s : State) : State :=
  ws.foldl (fun s w => match regAt w.addr with
    | some r => if r.name = .dhPairDiv then s.setHead r.i { s.head r.i with timingApplied := true } else s
    | none => s) (overlay ws s)

/-- The heads of the switch to a bank: those of the live image and of the selected one, where there are such (R277). -/
def headsOfSwitch (s : State) (dst : Nat) : BitVec 16 :=
  match liveImage s, bankImage s dst with
  | some a, some b => switchHeads a b
  | some a, none => switchHeads a a
  | none, some b => switchHeads b b
  | none, none => 0

/-- Accepted tickets that are not yet applied, in acceptance order. -/
def acceptedTickets (s : State) : List Nat :=
  let l := ticketNumbers.filter (fun t => (s.ticket t).state = .accepted)
  let place (t : Nat) := l.countP (fun u => (s.ticket u).order < (s.ticket t).order)
  (List.range l.length).filterMap (fun k => l.find? (fun t => place t = k))

/-- The live state with the shares of accepted transactions that are not yet applied laid over it. -/
def projected (s : State) : State :=
  (acceptedTickets s).foldl (fun p t => (s.ticket t).shares.foldl (fun p y => project y.writes p) p) s

/-- The raster and latch line that a switch brings to every head of its new image. -/
def switchWrites (s : State) (dst : Nat) : List Wr :=
  match bankImage s dst with
  | some i => i.headList.flatMap (fun n => entryWrites n (i.head n))
  | none => []

def projectSwitch (s : State) (dst : Nat) (p : State) : State := project (switchWrites s dst) p

/-- The state that a commit is judged on: the projected state, the switch first, then the draft. -/
def projectCommit (s : State) (ws : List Wr) : State :=
  let p := projected s
  project (draftFields ws) (match draftBank ws with | some b => projectSwitch s b p | none => p)

/-- The first offending entry's owner among those a test refuses: the lowest. -/
def lowestOwner (l : List Wr) : Option Nat :=
  match l.map (fun w => ownerBlock w.addr) with
  | [] => none
  | a :: t => some (t.foldl min a)

/-- Check 3: entries of heads outside the mask. -/
def outsideMask (s : State) (x : Ticket) : List Wr :=
  x.draft.filter (fun w =>
    if w.addr = (rg .mcSbSelect).addr then decide (headsOfSwitch s (fld w.value 0 2) &&& ~~~x.mask ≠ 0)
    else match entryHead s x.draft w with
      | some n => !x.mask.getLsbD n
      | none => false)

/-- Check 4: members whose key is not drafted (R290). -/
def keyless (ws : List Wr) : List Wr :=
  ws.filter (fun w => match regAt w.addr with
    | some r => (match r.group with
      | some g => !ws.any (fun v => v.addr = (g.keyOf r.i r.j).addr)
      | none => false)
    | none => false)

/-- Check 6: the masked heads against each image that they must fit. -/
def judgeHeads (s p : State) (ws : List Wr) (mask : BitVec 16) (switchTo : Option Nat) : Option (Nat × Nat) :=
  let heads := bitsOf 16 mask
  let before := projected s
  let verdict (ws : List Wr) (image : Nat → Option Image) : Option (Nat × Nat) :=
    Judge.verdict { before := before, after := p, writes := ws, heads := heads, image := image }
  match switchTo with
  | some b => verdict (switchWrites s b ++ ws) (fun _ => bankImage s b)
  | none => [0, 1, 2].findSome? (fun k => verdict ws (fun n =>
      let l := imagesFor p n
      (l[k]?).getD (l.headD none)))

/-- The checks of a commit that needs a switch, made by the MC (R88, R449): the code of the first that fails. -/
def switchCheck (s : State) (dst : Nat) (mask : BitVec 16) (safety spire : Bool) : Option Nat :=
  if s.therm.mode ≠ .sustained ∧ ¬ spire then some 9 else switchFailure s dst mask safety spire

/-- The verification of a ticket (R278): the code and DETAIL of the first check that fails. -/
def judgeTicket (s : State) (x : Ticket) : Option (Nat × Nat) :=
  if x.draft.isEmpty then none
  else if x.draftFull then some (8, 0xFF)
  else if (x.draft.filterMap (fun w => (regAt w.addr).map RegId.unit)).any (x.foreign.contains ·) then some (6, 0xFF)
  else match lowestOwner (outsideMask s x) with
    | some d => some (5, d)
    | none => match lowestOwner (keyless x.draft) with
      | some d => some (1, d)
      | none =>
        let dst := draftBank x.draft
        match dst.bind (fun b => switchCheck s b x.mask x.safety false) with
        | some c => some (c, 0xFF)
        | none => judgeHeads s (projectCommit s x.draft) (draftFields x.draft) x.mask dst

/-! ### Acceptance (R279, R281, R88) -/

/-- A switch accepted: both banks are SWITCHING, and the ingress lanterns wait for the first latch under the new image (R77,
R87). -/
def acceptSwitch (dst : Nat) (spire : Bool) (ticket : Option Nat) (s : State) : State :=
  match liveBank s with
  | none => s
  | some b =>
    let left := headsOfSwitch s dst
    let s := s.setBank b { s.bank b with state := .switching }
    let s := s.setBank dst { s.bank dst with state := .switching }
    { s with sched := { s.sched with
        ingressDue := true
        switch := some { fromBank := b, toBank := dst, left := left, done := 0, spire := spire, accepted := s.tick,
                         ticket := ticket } } }

/-- An accepted switch that no head has to apply is complete at once. -/
def settleSwitch (s : State) : State :=
  match s.sched.switch with
  | some w => if w.left = 0 then completeSwitch w s else s
  | none => s

/-- The slots that a share moves, with their old heads (R482). -/
def sharesMoves (s : State) (ws : List Wr) : List (Nat × Nat) :=
  (ctrlSlots ws).filterMap (fun slot =>
    let n := fld (wrOr ws (rg .faCtrl slot) 0) 24 4
    if n ≠ slotHead s slot then some (slot, slotHead s slot) else none)

/-- The share of a head (R277, R279). -/
def shareOf (s : State) (x : Ticket) (n : Nat) : Share :=
  let ws := (draftFields x.draft).filter (fun w => entryHead s x.draft w = some n)
  { head := n, writes := ws, moves := sharesMoves s ws }

/-- Slots that leave a head that does not run are hidden at once (R482). -/
def hideIdle (moves : List (Nat × Nat)) (s : State) : State :=
  (moves.filter (fun m => !isRunning s m.2)).foldl (fun s m => s.setLayer m.1 { s.layer m.1 with hidden := true }) s

/-- The units that a ticket's draft writes (R283). -/
def unitsOf (ws : List Wr) : List Nat := (ws.filterMap (fun w => (regAt w.addr).map RegId.unit)).eraseDups

/-- Other tickets that are OPEN or VERIFYING keep the units of an accepted draft (R283). -/
def spreadUnits (t : Nat) (units : List Nat) (s : State) : State :=
  (ticketNumbers.filter (fun u => u ≠ t ∧ ((s.ticket u).state = .opened ∨ (s.ticket u).state = .verifying))).foldl
    (fun s u => s.setTicket u { s.ticket u with foreign := ((s.ticket u).foreign ++ units).eraseDups }) s

/-- An accepted ticket's shares on heads that do not run apply at once (R279). -/
def applyIdle (t : Nat) (s : State) : State :=
  (s.ticket t).shares.foldl (fun s y =>
    if isRunning s y.head then s else flushRecs (applyShare t y (applySwitch y.head s))) s

/-- A ticket accepted (R279). An empty draft applies nothing and is APPLIED (R278). -/
def acceptTicket (t : Nat) (s : State) : State :=
  let x := s.ticket t
  if x.draft.isEmpty then
    noteFinal t (raise (208 + t) (s.setTicket t { x with state := .applied, done := x.mask, answer := none }))
  else
    let shares := (bitsOf 16 x.mask).map (shareOf s x)
    let s := pinSurfaces (draftFields x.draft) (spreadUnits t (unitsOf x.draft) s)
    let s := s.setTicket t { x with state := .accepted, shares := shares, accepted := s.tick, foreign := [], answer := none }
    let s := match draftBank x.draft with
      | some b => acceptSwitch b false (some t) s
      | none => s
    let s := applyIdle t (shares.foldl (fun s y => hideIdle y.moves s) s)
    finishTicket t (settleSwitch s)

/-- A ticket rejected at commit (R278). -/
def rejectTicket (t code detail : Nat) (s : State) : State :=
  noteFinal t (raise (208 + t) (s.setTicket t { s.ticket t with
    state := .rejected, code := code, detail := detail, draft := [], draftFull := false, foreign := [], answer := none }))

/-- The ticket whose verification runs: the first commit taken (R276). -/
def verifyingTicket (s : State) : Option Nat :=
  (ticketNumbers.filter (fun t => (s.ticket t).state = .verifying)).foldl (fun best t => match best with
    | none => some t
    | some b => if (s.ticket t).order < (s.ticket b).order then some t else some b) none

/-- The end of a ticket's verification (R278, R279). -/
def verifyTicket (t : Nat) (s : State) : State :=
  let s := advanceGroups s
  match judgeTicket s (s.ticket t) with
  | some f => rejectTicket t f.1 f.2 s
  | none => acceptTicket t s

/-! ### The MC's spire switches (R448, R450) -/

/-- The MC's switch to a bank: verified by checks 5 and 6 of R278 and accepted without a ticket; `none` where it is rejected. -/
def mcSwitch (dst : Nat) (s : State) : Option State :=
  let mask := headsOfSwitch s dst
  match switchCheck s dst mask true true with
  | some _ => none
  | none =>
    match judgeHeads s (projectSwitch s dst (projected s)) [] mask (some dst) with
    | some _ => none
    | none =>
      let s := acceptSwitch dst true none s
      some (settleSwitch ((bitsOf 16 mask).foldl (fun s n => if isRunning s n then s else flushRecs (applySwitch n s)) s))

end Sys2Proof.Machine
end

