-- ==== Sys2Proof/Machine/BlitCmds.lean ====
section
/-! DEFINITION. The blitter (R377 to R395): shares and submission, the checks and operations of a command, and its completion. -/

namespace Sys2Proof.Machine

/-! ### A command (R378) -/

/-- Word k of a command. -/
def BlitCmd.w (c : BlitCmd) (k : Nat) : Word := c.words.getD k 0

def BlitCmd.op (c : BlitCmd) : Nat := fld (c.w 0) 16 4
def BlitCmd.width (c : BlitCmd) : Nat := fld (c.w 1) 0 16
def BlitCmd.height (c : BlitCmd) : Nat := fld (c.w 1) 16 16
def BlitCmd.wantsRecord (c : BlitCmd) : Bool := bit (c.w 0) 31
/-- BLEND and CONVERT compute pixels. -/
def BlitCmd.computes (c : BlitCmd) : Bool := decide (c.op = 3) || decide (c.op = 4)

/-- A rectangle of a surface as a view (R119, R121). -/
def blitView (fmt base pitch plane1 x y w h : Nat) : LayerView :=
  { slot := 0, bind := true, head := 0, z := 0, layerAlpha := 0, alphaMode := 0, nrPolicy := 0, latest := false,
    fmt := fmt, pitch := pitch, plane1 := plane1, base := base, sx := x, sy := y, sw := w, sh := h,
    dx := 0, dy := 0, dw := 0, dh := 0, stale := 0, ctx := 0 }

/-- The source rectangle. -/
def BlitCmd.src (c : BlitCmd) : LayerView :=
  blitView (fld (c.w 0) 0 8) ((c.w 2).toNat + fld (c.w 3) 0 10 * 2 ^ 32) (fld (c.w 4) 0 24) (c.w 10).toNat
    (fld (c.w 5) 0 16) (fld (c.w 5) 16 16) c.width c.height

/-- The destination rectangle. -/
def BlitCmd.dst (c : BlitCmd) : LayerView :=
  blitView (fld (c.w 0) 8 8) ((c.w 6).toNat + fld (c.w 7) 0 10 * 2 ^ 32) (fld (c.w 8) 0 24) (c.w 11).toNat
    (fld (c.w 9) 0 16) (fld (c.w 9) 16 16) c.width c.height

/-- The surfaces that a command uses: FILL reads none. -/
def BlitCmd.surfaces (c : BlitCmd) : List LayerView := if c.op = 2 then [c.dst] else [c.src, c.dst]

/-! ### The checks (R379 to R381) -/

/-- The blitter formats (R380). -/
def blitFormat (f : Nat) : Bool := [0x01, 0x02, 0x04, 0x08, 0x18, 0x28, 0x20, 0x40].contains f

/-- The formats that pixels are computed in (R379). -/
def pixelFormat (f : Nat) : Bool := [0x01, 0x02, 0x04, 0x08, 0x18].contains f

/-- A must-be-0 bit of a word that the command uses is 1, or MODE is 3. -/
def BlitCmd.badOp (c : BlitCmd) : Bool :=
  decide (c.op = 0) || decide (4 < c.op) || decide (fld (c.w 0) 20 11 ≠ 0) ||
  (decide (c.op ≠ 2) && (decide (fld (c.w 3) 10 22 ≠ 0) || decide (fld (c.w 4) 24 8 ≠ 0))) ||
  decide (fld (c.w 7) 10 22 ≠ 0) || decide (fld (c.w 8) 24 8 ≠ 0) ||
  (decide (c.op = 3) && (decide (fld (c.w 13) 10 22 ≠ 0) || decide (fld (c.w 13) 8 2 = 3)))

/-- R379. -/
def BlitCmd.formatsOk (c : BlitCmd) : Bool :=
  match c.op with
  | 1 => blitFormat c.src.fmt && decide (c.dst.fmt = c.src.fmt)
  | 2 => blitFormat c.dst.fmt && !isTc c.dst.fmt
  | _ => pixelFormat c.src.fmt && pixelFormat c.dst.fmt

/-- SIZE for one surface. In a TC surface plane 0 is the header plane. -/
def sizeOk (v : LayerView) : Bool :=
  decide ((if isTc v.fmt then 8 * ceilDiv (v.sx + v.sw) 16 else plane0Bytes v.fmt (v.sx + v.sw)) ≤ v.pitch) &&
  (!isSemi v.fmt || decide (v.pitch * (v.sy + v.sh) ≤ v.plane1)) &&
  (!isTc v.fmt || decide (ceilDiv (v.sy + v.sh) 4 * (v.pitch / tcZ v.fmt) * 8 ≤ v.plane1))

/-- R380 for one surface. -/
def blitAligned (v : LayerView) : Bool :=
  match v.fmt with
  | 0x28 => decide (v.base % 256 = 0) && decide ((v.base + v.plane1) % 256 = 0) && decide (v.pitch % 256 = 0) &&
      decide (v.sx % 2 = 0) && decide (v.sy % 2 = 0) && decide (v.sw % 2 = 0) && decide (v.sh % 2 = 0)
  | 0x20 | 0x40 => decide (v.base % 4096 = 0) && decide ((v.base + v.plane1) % 4096 = 0) &&
      decide (v.pitch % tcZ v.fmt = 0) && decide (v.sx % 16 = 0) && decide (v.sy % 4 = 0)
  | f => decide (v.base % bytesPerPixel f = 0) && decide (v.pitch % 64 = 0)

/-- The result of the checks of R381, in order: none where the command runs. -/
def BlitCmd.judge (c : BlitCmd) : Option Nat :=
  if c.badOp then some 0x10
  else if ¬ c.formatsOk then some 0x11
  else if c.width = 0 ∨ c.height = 0 then some 0x01
  else if 16384 < c.width ∨ 16384 < c.height ∨ c.surfaces.any (fun v => !sizeOk v) then some 0x12
  else if c.surfaces.any (fun v => !blitAligned v) then some 0x0A
  else none

/-! ### Lines of a rectangle (R382, R383) -/

/-- The byte ranges of the i-th line of a rectangle, in every plane: address and length. Whole tiles lie at every fourth line. -/
def rectRanges (v : LayerView) (i : Nat) : List (Nat × Nat) :=
  let y := v.sy + i
  if isTc v.fmt then
    (if i % 4 = 0 then [(v.pixelVa v.sx y, 8 * ceilDiv v.sw 16), (v.payloadVa v.sx y, tcZ v.fmt * ceilDiv v.sw 16)] else [])
  else
    (v.pixelVa v.sx y, plane0Bytes v.fmt v.sw) ::
      (if isSemi v.fmt ∧ i % 2 = 0 then [(v.chromaVa v.sx y, v.sw / 2 * chromaBytes v.fmt)] else [])

/-- Every byte range of a rectangle, up to line n. -/
def rectBytes (v : LayerView) (n : Nat) : List (Nat × Nat) := (List.range n).flatMap (rectRanges v)

/-! ### Pixels (R384 to R386) -/

/-- A pixel word widened; an A8 source takes its colour from COLOR (R385). -/
def blitWiden (s : State) (colour : Word) (fmt w : Nat) : Px :=
  if fmt = 0x18 then { argb colour.toNat with a := widen 8 w } else expandRgb s 0 fmt w

/-- N_n (R385). -/
def narrow (n v : Nat) : Nat := (v * (2 ^ n - 1) + 2048) / 4096

/-- A pixel stored in a format (R385). -/
def packPixel (fmt : Nat) (p : Px) : Nat :=
  let f (n v lo : Nat) := narrow n v * 2 ^ lo
  match fmt with
  | 0x01 => f 8 p.a 24 + f 8 p.c0 16 + f 8 p.c1 8 + f 8 p.c2 0
  | 0x02 => 0xFF000000 + f 8 p.c0 16 + f 8 p.c1 8 + f 8 p.c2 0
  | 0x04 => f 2 p.a 30 + f 10 p.c0 20 + f 10 p.c1 10 + f 10 p.c2 0
  | 0x08 => f 5 p.c0 11 + f 6 p.c1 5 + f 5 p.c2 0
  | _ => narrow 8 p.a

/-- The pixels of a line of bytes. -/
def unpackLine (s : State) (colour : Word) (fmt w : Nat) (l : List Byte) : List Px :=
  let b := bytesPerPixel fmt
  (List.range w).map (fun x => blitWiden s colour fmt (leAt l (x * b) b))

/-- A line of pixels as bytes. -/
def packLine (fmt : Nat) (l : List Px) : List Byte := l.flatMap (fun p => leBytes (bytesPerPixel fmt) (packPixel fmt p))

/-- A source pixel over a destination pixel, with the alpha that it leaves (R386). -/
def blendPixel (mode la : Nat) (c d : Px) : Px :=
  let k := contribution mode (widen 8 la) c
  { blendOver k d with a := min (k.a + mulFrac d.a (4095 - k.a)) 4095 }

/-- The bytes that FILL writes to the ranges of a line: its pixels, or luma and chroma (R384). -/
def fillBytes (c : BlitCmd) (k n : Nat) : List Byte :=
  let v := c.w 12
  if c.dst.fmt = 0x28 then
    if k = 0 then List.replicate n (BitVec.ofNat 8 (fld v 16 8))
    else (List.range n).map (fun i => BitVec.ofNat 8 (if i % 2 = 0 then fld v 8 8 else fld v 0 8))
  else packLine c.dst.fmt (List.replicate (n / bytesPerPixel c.dst.fmt) (argb v.toNat))

/-! ### Execution (R381 to R386) -/

/-- RESULT of a failed read (R381). -/
def ReadFail.result : ReadFail → Nat
  | .xlat => 0x20
  | .poison => 0x21

/-- Ranges written in order; 0x20 where one fails translation. -/
def writeRanges (req ctx : Nat) : List (Nat × List Byte) → State → State × Nat
  | [], s => (s, 0)
  | (va, l) :: t, s => match writeRange req ctx va l s with
    | (s, true) => writeRanges req ctx t s
    | (s, false) => (s, 0x20)

/-- Ranges copied in order. -/
def copyRanges (req ctx : Nat) : List ((Nat × Nat) × (Nat × Nat)) → State → State × Nat
  | [], s => (s, 0)
  | ((a, n), (d, _)) :: t, s => match readRange req ctx a n s with
    | (s, .error e) => (s, e.result)
    | (s, .ok l) => match writeRange req ctx d l s with
      | (s, false) => (s, 0x20)
      | (s, true) => copyRanges req ctx t s

/-- The destination pixels that BLEND reads; CONVERT reads none. -/
def readUnder (req : Nat) (c : BlitCmd) (i : Nat) (s : State) : State × Except ReadFail (List Px) :=
  if c.op = 3 then
    match readRange req c.ctx (c.dst.pixelVa c.dst.sx (c.dst.sy + i)) (plane0Bytes c.dst.fmt c.width) s with
    | (s, .ok l) => (s, .ok (unpackLine s (c.w 12) c.dst.fmt c.width l))
    | (s, .error e) => (s, .error e)
  else (s, .ok [])

/-- A line of BLEND or CONVERT. -/
def computeLine (req : Nat) (c : BlitCmd) (i : Nat) (s : State) : State × Nat :=
  match readRange req c.ctx (c.src.pixelVa c.src.sx (c.src.sy + i)) (plane0Bytes c.src.fmt c.width) s with
  | (s, .error e) => (s, e.result)
  | (s, .ok l) =>
    let px := unpackLine s (c.w 12) c.src.fmt c.width l
    match readUnder req c i s with
    | (s, .error e) => (s, e.result)
    | (s, .ok under) =>
      let out := if c.op = 3 then List.zipWith (blendPixel (fld (c.w 13) 8 2) (fld (c.w 13) 0 8)) px under else px
      writeRanges req c.ctx [(c.dst.pixelVa c.dst.sx (c.dst.sy + i), packLine c.dst.fmt out)] s

/-- Line i of a command: 0, or the RESULT that ends it. Within a line the reads come before the writes (log entry 27). -/
def blitLine (req : Nat) (c : BlitCmd) (i : Nat) (s : State) : State × Nat :=
  match c.op with
  | 1 => copyRanges req c.ctx (List.zip (rectRanges c.src i) (rectRanges c.dst i)) s
  | 2 => writeRanges req c.ctx ((rectRanges c.dst i).zipIdx.map (fun q => (q.1.1, fillBytes c q.2 q.1.2))) s
  | _ => computeLine req c i s

/-- The lines of a command in order, up to the first that faults: RESULT and the lines done. -/
def blitLines (req : Nat) (c : BlitCmd) : List Nat → State → State × Nat × Nat
  | [], s => (s, 0, c.height)
  | i :: t, s => match blitLine req c i s with
    | (s, 0) => blitLines req c t s
    | (s, r) => (s, r, i)

/-! ### Overlap (R391) -/

/-- The page that open traffic translates a VA by. -/
def pageOf (s : State) (ctx va : Nat) : Option Page :=
  match cached s ctx va with
  | some p => some p
  | none => (match walk s ctx va false with | .page p => some p | .fault _ => none)

/-- Where ranges are read in local memory. -/
def physOf (s : State) (ctx : Nat) (l : List (Nat × Nat)) : List (Nat × Nat) :=
  (l.flatMap (fun r => pieces r.1 r.2)).filterMap (fun q =>
    ((pageOf s ctx q.1).bind (fun p => pageDpa p q.1)).map (fun d => (d, q.2.2)))

/-- Where a store of `n` bytes at a DPA through a page of a context lands: nowhere in a keep window of another context (R108), and a second
time where the page is mirrored (R109). -/
def landsAt (s : State) (ctx : Nat) (p : Page) (d n : Nat) : List (Nat × Nat) :=
  if inKeepWin s d ∧ ctx ≠ 63 then []
  else (d, n) :: (if p.mirror ∧ ctx = 63 then ((mirrorDpa s d).map (fun m => (m, n))).toList else [])

/-- Where ranges that are written land in local memory. -/
def landsOf (s : State) (ctx : Nat) (l : List (Nat × Nat)) : List (Nat × Nat) :=
  (l.flatMap (fun r => pieces r.1 r.2)).flatMap (fun q =>
    match pageOf s ctx q.1 with
    | none => []
    | some p => match pageDpa p q.1 with
      | none => []
      | some d => landsAt s ctx p d q.2.2)

/-- The bytes that two lists of ranges share. -/
def sharedBytes (a b : List (Nat × Nat)) : List (Nat × Nat) :=
  a.flatMap (fun p => b.filterMap (fun q =>
    let lo := max p.1 q.1
    let hi := min (p.1 + p.2) (q.1 + q.2)
    if lo < hi then some (lo, hi - lo) else none))

/-- Bytes of local memory whose contents are undefined: free values (log entry 8). -/
def scramble (req : Nat) (l : List (Nat × Nat)) (s : State) : State :=
  l.foldl (fun s r => (putBytes req r.1 ((s.drawn r.2 Config.undefinedByte).map some) s).draw r.2) s

/-- The lines of its destination that a command has written, in local memory. -/
def written (s : State) (c : BlitCmd) (lines : Nat) : List (Nat × Nat) := landsOf s c.ctx (rectBytes c.dst lines)

/-- The bytes that overlap leaves undefined: the destination where it meets the source, and what the other engine's command in
progress writes too. -/
def undefinedBytes (s : State) (e : Nat) (c : BlitCmd) (lines : Nat) : List (Nat × Nat) :=
  let d := written s c lines
  let own := c.op ≠ 2 ∧ ¬ (sharedBytes (physOf s c.ctx (rectBytes c.src c.height)) d).isEmpty
  if own then d
  else match (s.engine (1 - e)).current with
    | some (o, _, n) => sharedBytes d (written s o n)
    | none => []

/-! ### Completion (R387 to R389) -/

/-- Records of a share's ring: 2^LOG2, LOG2 from 4 to 12. -/
def ringSize (s : State) (e f : Nat) : Nat := 2 ^ min 12 (max 4 (fld (s.reg (rg .shCringCtrl f e)) 0 4))

/-- Whether a share's ring is enabled. -/
def ringOn (s : State) (e f : Nat) : Bool := bit (s.reg (rg .shCringCtrl f e)) 31

/-- Whether a share's ring is full. -/
def ringFull (s : State) (e f : Nat) : Bool := decide ((s.share e f).cringWr - (s.share e f).cringRd = ringSize s e f)

/-- The 16-byte record of a command (R389). -/
def blitRecord (e : Nat) (c : BlitCmd) (result detail : Nat) : List Byte :=
  leBytes 4 (c.w 14).toNat ++ leBytes 4 c.seq ++ leBytes 1 result ++ leBytes 1 e ++ leBytes 2 0 ++ leBytes 4 detail

/-- DETAIL of a record: the destination line for XLAT and POISON. -/
def blitDetail (c : BlitCmd) (result lines : Nat) : Nat := if result = 0x20 ∨ result = 0x21 then c.dst.sy + lines else 0

/-- The record written to the share's ring in its function's bus address space. -/
def writeRecord (e : Nat) (c : BlitCmd) (result lines : Nat) (s : State) : State :=
  let f := c.fn
  let base := (s.reg (rg .shCringLo f e)).toNat + (s.reg (rg .shCringHi f e)).toNat * 2 ^ 32
  let x := s.share e f
  (s.setShare e f { x with cringWr := x.cringWr + 1 }).sendTlp (endpointOf f)
    (.hostWrite f (base + x.cringWr % ringSize s e f * 16) (blitRecord e c result (blitDetail c result lines)))

/-- DONE_SEQ takes the command's number, and the share's LAST_DONE its result (R388). -/
def endCommand (e : Nat) (c : BlitCmd) (result : Nat) (s : State) : State :=
  let s := perfEvent 12 e 2 1 (s.setEngine e { s.engine e with current := none, stall := none, doneSeq := BitVec.ofNat 32 c.seq })
  s.setShare e c.fn { s.share e c.fn with lastDone := result, lastDoneSeq := BitVec.ofNat 32 c.seq }

/-- The command in progress completes, with its record; a full ring stalls the engine (R389). A function in D3hot sends no request, so
that its record waits, and the command with it, until D0 (R342; DEDUCED, log entry 70). -/
def completeCommand (e : Nat) (s : State) : State :=
  match (s.engine e).current with
  | none => s
  | some (c, result, lines) =>
    if ¬ c.wantsRecord ∨ ¬ ringOn s e c.fn then endCommand e c result s
    else if s.hl.d3hot.getLsbD c.fn then s
    else if ringFull s e c.fn then s.setEngine e { s.engine e with stall := some c.fn }
    else endCommand e c result (writeRecord e c result lines s)

/-- A stall that what changed may have ended. -/
def retryStall (e f : Nat) (s : State) : State := if (s.engine e).stall = some f then completeCommand e s else s

/-- The first fault captured in FAULT_LOG (R381). -/
def logFault (e : Nat) (c : BlitCmd) (result lines : Nat) (s : State) : State :=
  let x := s.engine e
  if x.logHeld ∨ (result ≠ 0x20 ∧ result ≠ 0x21) then s
  else s.setEngine e { x with logHeld := true, logFn := c.fn, logResult := result, logLine := blitDetail c result lines
                              faultSeq := BitVec.ofNat 32 c.seq }

/-- A command that passes its checks is carried out: requester 3 + e. -/
def runCommand (e : Nat) (c : BlitCmd) (s : State) : State :=
  let o := blitLines (3 + e) c (List.range c.height) s
  let s := scramble (3 + e) (undefinedBytes o.1 e c o.2.2) o.1
  let s := perfEvent 12 e 1 (c.width * o.2.2) s
  logFault e c o.2.1 o.2.2 (s.setEngine e { s.engine e with current := some (c, o.2.1, o.2.2) })

/-- Whether PAUSE holds an engine (R394). -/
def paused (s : State) (e : Nat) : Bool := bit (s.reg (rg .blCtrl e)) 0

/-- BLIT_COMMAND_START (R381). -/
def blitStart (e : Nat) (s : State) : State :=
  if (s.engine e).current.isSome ∨ paused s e then s
  else match (s.engine e).queue with
    | [] => s
    | c :: t =>
      let s := s.setEngine e { s.engine e with queue := t }
      match c.judge with
      | some code => completeCommand e (s.setEngine e { s.engine e with current := some (c, code, 0) })
      | none => runCommand e c s

def execBlitCommandStart (e : Fin 2) (s : State) : Result := powered s (blitStart e.val)

/-- BLIT_COMMAND_COMPLETE (R388). -/
def execBlitCommandComplete (e : Fin 2) (s : State) : Result := powered s (completeCommand e.val)

/-! ### Submission (R387, R389) -/

/-- Commands that an engine's queue holds, the one in progress among them. -/
def queued (s : State) (e : Nat) : Nat := (s.engine e).queue.length + (if (s.engine e).current.isSome then 1 else 0)

/-- Commands that a share holds, from acceptance to completion. -/
def shareHeld (s : State) (e f : Nat) : Nat :=
  ((s.engine e).queue.filter (fun c => c.fn = f)).length +
  (match (s.engine e).current with | some (c, _, _) => if c.fn = f then 1 else 0 | none => 0)

/-- SUB_STATUS.RESULT of a submit. -/
def submitResult (s : State) (f e : Nat) : Nat :=
  let cfg := s.reg (rg .blShareCfg e f)
  if ¬ bit cfg 31 then 2
  else if fld cfg 0 6 ≤ shareHeld s e f ∨ 32 ≤ queued s e then 1
  else 0

/-- SUBMIT (R387). -/
def submit (f e : Nat) (s : State) : State :=
  let r := submitResult s f e
  let s := s.setShare e f { s.share e f with result := r }
  if r ≠ 0 then s
  else
    let seq := (s.engine e).submitSeq + 1
    let c : BlitCmd := { words := (List.range 16).map (fun w => s.reg (rg .shCmd f e w)), seq := seq.toNat, fn := f
                         ctx := fld (s.reg (rg .blShareCfg e f)) 16 6 }
    let s := s.setEngine e { s.engine e with submitSeq := seq, queue := (s.engine e).queue ++ [c] }
    s.setShare e f { s.share e f with lastSeq := seq }

def execSubmit (f : Fin 32) (e : Fin 2) (s : State) : Result := byFunction f s (submit f.val e.val)

/-- The count of records that a 32-bit count stands for, beside one of `wr`: the nearest (DEDUCED: the counts pass 2^32). -/
def countNear (wr v : Nat) : Nat :=
  let base := wr / 2 ^ 32 * 2 ^ 32
  if v ≤ wr % 2 ^ 32 + 2 ^ 31 ∨ base = 0 then base + v else base + v - 2 ^ 32

/-- CRING_RD as stored (R395). -/
def fixCringRd (s : State) (e f v : Nat) : Nat :=
  let wr := (s.share e f).cringWr
  let v := countNear wr v
  if wr < v then wr else if v + ringSize s e f < wr then wr - ringSize s e f else v

/-- CRING_RD_WRITE (R389). -/
def cringRdWrite (f e v : Nat) (s : State) : State :=
  retryStall e f (s.setShare e f { s.share e f with cringRd := fixCringRd s e f v })

def execCringRdWrite (f : Fin 32) (e : Fin 2) (value : Word) (s : State) : Result :=
  byFunction f s (cringRdWrite f.val e.val value.toNat)

/-- CRING_HI or CRING_CTRL written: the counts are 0 again (R389). -/
def resetRing (e f : Nat) (s : State) : State :=
  retryStall e f (s.setShare e f { s.share e f with cringWr := 0, cringRd := 0 })

/-! ### Reset of a function (R392) -/

/-- An engine without a function's commands: the one in progress ends DISCARDED with no record. -/
def discardCommands (e f : Nat) (s : State) : State :=
  let x := s.engine e
  let s := s.setEngine e { x with queue := x.queue.filter (fun c => c.fn ≠ f) }
  match (s.engine e).current with
  | some (c, _, _) => if c.fn = f then endCommand e c 0x22 s else s
  | none => s

/-- The registers of a function's share page of an engine. -/
def sharePage (e f : Nat) : List RegId :=
  (List.range 16).map (fun w => rg .shCmd f e w) ++ [rg .shCringLo f e, rg .shCringHi f e, rg .shCringCtrl f e]

/-- A function's shares emptied by its reset; SHARE_CFG is kept. -/
def resetShares (f : Nat) (s : State) : State :=
  [0, 1].foldl (fun s e =>
    let s := discardCommands e f s
    let s := (sharePage e f).foldl (fun s r => { s.setReg r r.resetValue with held := SMap.erase s.held r.addr }) s
    s.setShare e f {}) s

end Sys2Proof.Machine
end

