-- ==== Sys2Proof/Machine/ObjTable.lean ====
section
/-! DEFINITION. The object dictionary's table (R294 to R297, R316, R317 and the object tables of the other chapters): what every
index and sub-index is, who reads and writes it, and where its value lives. -/

namespace Sys2Proof.Machine

/-- The access kinds (R296). -/
inductive OAcc where
  | ro | wo | rw | rwt | wonce | lockable
  deriving DecidableEq, Repr

/-- The objects whose value is neither a register's nor a stored one: each has its own rule. -/
inductive Own where
  | vendor | part | stepping | serial | fwVersion | fwBank
  | ledger | ledgerClear
  | deviceLock | challenge | response | session
  | keyState (j : Nat) | keyRevoke (j : Nat) | rxFloor (j : Nat) | rxErr (i : Nat)
  | lastGood (q : Nat)
  | keepOwner | keepClear (n : Nat) | failClear (n : Nat) | noShadow
  | bankState (b : Nat) | liveBank | imageId (b : Nat) | counterpartId (b : Nat) | clockMode (b : Nat) | headMask (b : Nat)
  | channelMask (b : Nat) | load (b : Nat)
  | sensors | spireReq | shed | faultClear | faultnMask | shutdownCause
  | role
  | doneClear (u : Nat) | cvCtrl (u : Nat)
  | ovfClear (k : Nat) | freeze | userEn (k : Nat)
  deriving DecidableEq, Repr

/-- Where an object's value lives: in the registers that mirror it, in the dictionary, or where its own rule says. -/
inductive OVal where
  | regs (l : List RegId)
  | kept (dflt : Nat)
  | own (o : Own)
  deriving DecidableEq, Repr

/-- An object: its size in bytes (for a string, its greatest length), its access kind, the classes that read and write it, whether
it is persistent, and its value. -/
structure ObjDef where
  size : Nat
  acc : OAcc
  rd : Classes
  wr : Classes
  store : Bool := false
  val : OVal
  /-- Whether its type is DOMAIN (R295). -/
  domain : Bool := false
  deriving DecidableEq, Repr

/-! ### Class sets of the tables -/

/-- LOCAL HOST NET DIAG. -/
def rCfg : Classes := { local_ := true, host := true, net := true, diag := true }
/-- LOCAL HOST GUEST NET DIAG. -/
def rAll : Classes := { local_ := true, host := true, guest := true, net := true, diag := true }
/-- LOCAL SAFETY HOST NET DIAG. -/
def rKeep : Classes := { local_ := true, safety := true, host := true, net := true, diag := true }
/-- LOCAL HOST NET. -/
def wCfg : Classes := Classes.config
/-- LOCAL HOST DIAG. -/
def wNet : Classes := { local_ := true, host := true, diag := true }
/-- HOST DIAG. -/
def wBoot : Classes := { host := true, diag := true }
/-- DIAG. -/
def wDiag : Classes := { diag := true }

/-! ### Rows -/

/-- A read-only object that registers mirror. -/
def roReg (size : Nat) (l : List RegId) (rd : Classes := rCfg) : ObjDef := { size := size, acc := .ro, rd := rd, wr := {}, val := .regs l }

/-- A read-only object with its own rule. -/
def roOwn (size : Nat) (o : Own) (rd : Classes := rCfg) : ObjDef := { size := size, acc := .ro, rd := rd, wr := {}, val := .own o }

/-- An RWT object of ordinary configuration. -/
def rwtReg (size : Nat) (l : List RegId) (rd wr : Classes) : ObjDef := { size := size, acc := .rwt, rd := rd, wr := wr, val := .regs l }

/-- An RW object that registers mirror. -/
def rwReg (size : Nat) (l : List RegId) (wr : Classes := wCfg) (store : Bool := false) : ObjDef :=
  { size := size, acc := .rw, rd := rCfg, wr := wr, store := store, val := .regs l }

/-- An object whose type is DOMAIN. -/
def ObjDef.asDomain (d : ObjDef) : ObjDef := { d with domain := true }

/-- A write-only object with its own rule. -/
def woOwn (size : Nat) (o : Own) (wr : Classes) : ObjDef := { size := size, acc := .wo, rd := {}, wr := wr, val := .own o }

/-- A persistent LOCKABLE object kept in the dictionary. -/
def kept (size dflt : Nat) (wr : Classes) : ObjDef :=
  { size := size, acc := .lockable, rd := rCfg, wr := wr, store := true, val := .kept dflt }

/-- A row of a table by its sub-index. -/
abbrev Subs := List (Nat × ObjDef)

/-- Rows with consecutive sub-indices. -/
def rowsFrom (sub : Nat) (l : List ObjDef) : Subs := l.zipIdx.map (fun p => (sub + p.2, p.1))

/-! ### Identity, ledger and security (R317, R442) -/

def identityObjs : Subs := rowsFrom 1
  [roOwn 7 .vendor rAll, roOwn 2 .part rAll, roOwn 1 .stepping rAll, roOwn 8 .serial rAll, roOwn 4 .fwVersion rAll, roOwn 1 .fwBank]

def ledgerObjs : Subs := rowsFrom 1
  [roReg 4 [rg .mcStartStatus], roOwn 1088 .ledger, woOwn 1 .ledgerClear wDiag,
   { size := 1, acc := .rw, rd := rCfg, wr := { host := true, net := true, diag := true }, store := true, val := .kept 0 }]

def keyObjs (j : Nat) : Subs := rowsFrom 1
  [roOwn 1 (.keyState j),
   { size := 1, acc := .wonce, rd := { local_ := true, diag := true }, wr := wDiag, val := .own (.keyRevoke j) },
   roOwn 4 (.rxFloor j)]

/-! ### Heads, outputs and layers (R144, R162, R189, R235, R270) -/

/-- The registers of `DH[n]`, and below those of the timebase, in the order of their offsets: R316 gives the ranges, and no table their
sub-indices, types and classes (DESIGN CHOICE, log entry 38). -/
def headObjs (n : Nat) : Subs := rowsFrom 1
  [rwReg 4 [rg .dhCtrl n], roReg 4 [rg .dhPstat n], rwtReg 4 [rg .dhHTiming n] rCfg wCfg, rwtReg 4 [rg .dhHSync n] rCfg wCfg,
   rwtReg 4 [rg .dhVTiming n] rCfg wCfg, rwtReg 4 [rg .dhVSync n] rCfg wCfg, rwtReg 4 [rg .dhPairDiv n] rCfg wCfg,
   rwtReg 4 [rg .dhLatchLine n] rCfg wCfg, rwtReg 4 [rg .dhPgOffset n] rCfg wCfg, roReg 4 [rg .dhPosition n], rwReg 4 [rg .dhStatus n],
   roReg 8 [rg .dhFrameLo n, rg .dhFrameHi n], roReg 8 [rg .dhLatchTickLo n, rg .dhLatchTickHi n], roReg 4 [rg .dhLastSlew n]]

def phaseObjs (g : Nat) : Subs := rowsFrom 1
  [rwtReg 4 [rg .btPgCtrl g] rCfg wCfg, rwtReg 4 [rg .btRefOffset g] rCfg wCfg, roReg 4 [rg .btPgStatus g]]

def flareObjs : Subs :=
  rowsFrom 1 [roReg 8 [rg .btTickLo, rg .btTickHi], roReg 4 [rg .btPstat], rwReg 4 [rg .btFlareOe], rwReg 4 [rg .btFlareSafe],
    roReg 4 [rg .btFlareLevel], rwReg 4 [rg .btLateFire]] ++
  rowsFrom 0x10 ((List.range 32).map (fun p => rwReg 4 [rg .btFlareOwner p]))

def colourObjs (n : Nat) : Subs :=
  rowsFrom 1 (([rg .ccBackground n, rg .cpHctrl n] ++ (List.range 5).map (fun j => rg .cpMat n j) ++ [rg .cpPostRg n, rg .cpPostB n]).map
    (fun r => rwtReg 4 [r] rCfg wCfg)) ++
  [(0x0A, roReg 4 [rg .cpHstatus n])] ++
  rowsFrom 0x10 ((List.range 4).map (fun c => (rwtReg 4096 ((List.range 1024).map (fun e => rg .cpDegamma n c e)) rCfg wCfg).asDomain)) ++
  [(0x14, (rwtReg 4096 ((List.range 1024).map (fun e => rg .cpRegamma n e)) rCfg wCfg).asDomain)]

def lanternObjs (l : Nat) : Subs :=
  rowsFrom 1 [{ size := 4, acc := .wo, rd := {}, wr := wCfg, val := .regs [rg .laLctrl l] }, roReg 4 [rg .laLstatus l],
    rwReg 4 [rg .laLbudget l], rwReg 4 [rg .laLstream l], roReg 4 [rg .laLate l], roReg 8 [rg .laMarkLo l, rg .laMarkHi l]] ++
  rowsFrom 0x10 ((List.range 8).map (fun k => rwReg 4 [rg .laLg l k])) ++
  [(0x20, (rwReg 2048 ((List.range 512).map (fun w => rg .laProg l w))).asDomain)]

def egressObjs (e : Nat) : Subs := [(1, rwtReg 4 [rg .epEctrl e] rCfg wCfg), (2, roReg 4 [rg .epEstat e])]

def quadObjs (q : Nat) : Subs :=
  [(1, rwReg 4 [rg .oqQctrl q] wCfg true), (2, { rwtReg 4 [rg .oqDsc q] rCfg wCfg with store := true })] ++
  rowsFrom 3 ((List.range 4).map (fun t => roReg 4 [rg .oqLink q t])) ++ [(7, roOwn 1 (.lastGood q))]

/-- A scaler's rows, which lie in the index of its slot. -/
def scalerObjs (n : Nat) : Subs :=
  rowsFrom 0x30 (([rg .saTaps n, rg .saHInit n, rg .saVInit n, rg .saHRatio n, rg .saVRatio n, rg .saChroma n].map
    (fun r => rwtReg 4 [r] rCfg wCfg)) ++ [roReg 4 [rg .saStatus n]]) ++
  [(0x38, (rwtReg 2048 ((List.range 512).map (fun k => rg .saHcoef n (k / 8) (k % 8))) rCfg wCfg).asDomain),
   (0x39, (rwtReg 1536 ((List.range 384).map (fun k => rg .saVcoef n (k / 6) (k % 6))) rCfg wCfg).asDomain)]

def layerObjs (i : Nat) : Subs :=
  let cp (r : RegName) (k : Nat := 0) : RegId := rg r (i / 6) (i % 6) k
  rowsFrom 1 ([rg .faCtrl i, rg .faSubstColor i, rg .faConstColor i, rg .faFormat i, rg .faPitch i, rg .faPlane1 i].map
    (fun r => rwtReg 4 [r] rCfg wCfg)) ++
  [(7, rwtReg 8 [rg .faBaseLo i, rg .faBaseHi i] rCfg wCfg)] ++
  rowsFrom 8 ([rg .faSrcPos i, rg .faSrcSize i, rg .faDstPos i, rg .faDstSize i, rg .faMisc i].map
    (fun r => rwtReg 4 [r] rCfg wCfg)) ++
  rowsFrom 0x10 ([rg .faSubstCount i, rg .faEventCount i, rg .faQstate i, rg .faShownTag i].map (fun r => roReg 4 [r])) ++
  [(0x20, (rwtReg 1024 ((List.range 256).map (fun k => rg .faClut i k)) rCfg wCfg).asDomain)] ++
  (if isV i then scalerObjs (i - 64) else []) ++
  rowsFrom 0x40 (([cp .cpLctrl] ++ (List.range 5).map (fun k => cp .cpLcoef k) ++
    [cp .cpLpre01, cp .cpLpre2, cp .cpLpost01, cp .cpLpost2]).map (fun r => rwtReg 4 [r] rCfg wCfg))

/-! ### Ingress (R254) -/

def portObjs (p : Nat) : Subs := [(1, rwReg 4 [rg .siPctrl p]), (2, roReg 4 [rg .siLink p])]

def streamObjs (i : Nat) : Subs :=
  rowsFrom 1 ([rg .siSctrl i, rg .siRingPitch i, rg .siRingGeom i, rg .siRingCtx i, rg .siRingBaseLo i, rg .siRingBaseHi i].map
    (fun r => rwReg 4 [r])) ++
  rowsFrom 7 [roReg 4 [rg .siSstatus i], roReg 4 [rg .siPos i], roReg 4 [rg .siFrame i],
    roReg 8 [rg .siFsTickLo i, rg .siFsTickHi i], roReg 4 [rg .siErrcount i], roReg 4 [rg .siDropCount i]]

def raceObjs (n : Nat) : Subs := rowsFrom 1 ([rg .siRaceLost n, rg .siRaceSubst n, rg .siRaceBound n].map (fun r => roReg 4 [r]))

/-! ### Keep and signatures (R216) -/

def keepOwnerObjs : Subs :=
  [(0, { size := 1, acc := .wonce, rd := { rKeep with guest := true }, wr := { local_ := true }, val := .own .keepOwner })]

def ownerNextObjs : Subs :=
  [(0, { size := 1, acc := .rw, rd := { local_ := true, safety := true, diag := true }, wr := wDiag, store := true, val := .kept 0x80 })]

def selftestObjs : Subs :=
  [(0, { size := 1, acc := .rw, rd := rKeep, wr := Classes.keepOnly, store := true, val := .regs [rg .scSelftest] })]

def keepHeadObjs (n : Nat) : Subs :=
  [(1, rwtReg 4 [rg .scBackdrop n] rKeep Classes.keepOnly), (2, roReg 4 [rg .scKstatus n] rKeep), (3, roReg 4 [rg .scFaultTile n] rKeep),
   (4, roReg 4 [rg .scMismatch n] rKeep), (5, roReg 8 [rg .scFaultFrameLo n, rg .scFaultFrameHi n] rKeep),
   (6, woOwn 1 (.keepClear n) Classes.keepOnly)] ++
  rowsFrom 0x10 ((List.range 4).flatMap (fun r => [rg .scKrRect0 n r, rg .scKrRect1 n r, rg .scKrSafe n r, rg .scKrCtrl n r].map
    (fun x => rwtReg 4 [x] rKeep Classes.keepOnly)))

def signatureObjs (n k : Nat) : Subs :=
  let wr := if k < 32 then Classes.keepOnly else wCfg
  rowsFrom 1 (([rg .scSigRect0 n k, rg .scSigRect1 n k] ++ (List.range 4).map (fun j => rg .scExpect n k j) ++ [rg .scSigCtrl n k]).map
    (fun r => rwtReg 4 [r] rKeep wr)) ++
  [(0x10, roReg 4 [rg .scResult n k] rKeep),
   (0x11, if k < 32 then roReg 4 [rg .scShadowResult n k] rKeep else roOwn 4 .noShadow rKeep)]

def sigHeadObjs (n : Nat) : Subs :=
  [(1, roReg 8 [rg .scSigFrameLo n, rg .scSigFrameHi n] rKeep), (2, roReg 8 [rg .scFail n 0, rg .scFail n 1] rKeep),
   (3, roReg 8 [rg .scFrozen n 0, rg .scFrozen n 1] rKeep),
   (4, woOwn 8 (.failClear n) { local_ := true, safety := true, host := true, net := true })]

/-! ### Banks and transactions (R97, R293) -/

def bankObjs (b : Nat) : Subs := rowsFrom 1
  [roOwn 2 (.imageId b), roOwn 2 (.counterpartId b), roOwn 1 (.clockMode b), roOwn 2 (.headMask b), roOwn 1 (.channelMask b),
   roReg 4 [rg .mcSbAlive b]]

def liveBankObjs : Subs := [(0, { size := 1, acc := .rwt, rd := rAll, wr := wCfg, val := .own .liveBank })]

def txObjs : Subs :=
  [(1, rwReg 2 [rg .txTimeout] wCfg true), (2, roReg 2 [rg .txPool]), (3, roReg 4 [rg .txPendingLog])]

def ticketObjs (t : Nat) : Subs :=
  [(1, roReg 4 [rg .txTstate (t - 1)]), (2, roReg 4 [rg .txTmask (t - 1)]), (3, roReg 2 [rg .txTentries (t - 1)]),
   (4, roReg 16 ((List.range 4).map (fun k => rg .txHcode (t - 1) k)))] ++
  rowsFrom 0x10 ((List.range 16).map (fun n => roReg 8 [rg .txAppliedLo (t - 1) n, rg .txAppliedHi (t - 1) n]))

/-! ### Power, heat and safety (R467) -/

def thermalObjs : Subs := [(1, roReg 4 [rg .mcThermStatus] rKeep), (2, roOwn 24 .sensors rKeep), (3, kept 1 110 wCfg)]

def spireObjs : Subs :=
  [(1, { size := 1, acc := .rw, rd := rCfg, wr := wCfg, val := .own .spireReq }), (2, roReg 4 [rg .mcSpireStatus])]

def wearObjs : Subs :=
  rowsFrom 1 ([rg .mcSpireSeconds, rg .mcOpSeconds, rg .mcHotSeconds].map (fun r => roReg 4 [r])) ++ [(4, roOwn 2 .shed rKeep)]

def faultObjs : Subs :=
  [(1, roReg 4 [rg .mcFaultStatus] rKeep), (2, woOwn 4 .faultClear Classes.keepOnly),
   (3, { size := 2, acc := .lockable, rd := rKeep, wr := Classes.keepOnly, store := true, val := .own .faultnMask }),
   (4, roOwn 1 .shutdownCause rKeep)]

/-! ### Cascade (R426) -/

def cascadeObjs : Subs :=
  [(1, { size := 1, acc := .wonce, rd := rCfg, wr := { local_ := true }, val := .own .role }),
   (2, { size := 1, acc := .rw, rd := rCfg, wr := wDiag, store := true, val := .kept 0 }),
   (3, roReg 4 [rg .caStatus]), (4, rwReg 2 [rg .caLossPolicy] wCfg true)]

def segmentObjs (k : Nat) : Subs :=
  [(1, rwtReg 4 [rg .caSegCols k] rCfg wCfg), (2, rwtReg 4 [rg .caSegCtrl k] rCfg wCfg), (3, roReg 4 [rg .caSegStatus k])]

/-! ### The network (R317) -/

def canObjs (c : Nat) : Subs := rowsFrom 1
  [kept 1 0 wNet, kept 4 0x502 wNet, kept 4 (0x6E0 + 0x20 * c) wNet, kept 4 (0x6E8 + 0x20 * c) wNet, kept 4 (0x6EF + 0x20 * c) wNet,
   kept 8 0x4000007160 wNet, roOwn 4 (.rxErr c)]

def ethObjs (p : Nat) : Subs := rowsFrom 1
  [kept 1 0 wNet, kept 4 0 wNet, kept 4 0 wNet, kept 2 47160 wNet, kept 2 0 wNet, roOwn 4 (.rxErr (2 + p))]

def notifyObjs : Subs := rowsFrom 1 [kept 1 0 wNet, kept 8 0 wNet, kept 8 0 wNet, kept 1 0 wNet]

/-! ### Perf and check values (R376, R406) -/

def wScan : Classes := { Classes.config with diag := true }

def perfObjs (k : Nat) : Subs :=
  [(1, rwReg 4 [rg .pmCtrl k] wScan), (2, roReg 4 [rg .pmOvf k]), (3, woOwn 4 (.ovfClear k) wScan),
   (4, roReg 8 [rg .pmCycLo k, rg .pmCycHi k]), (5, { size := 4, acc := .wo, rd := {}, wr := wScan, val := .regs [rg .pmCycPreset k] })] ++
  rowsFrom 0x10 ((List.range 8).map (fun j => roReg 8 [rg .pmCtrLo k j, rg .pmCtrHi k j])) ++
  rowsFrom 0x18 ((List.range 8).map (fun j => rwReg 4 [rg .pmEvtsel k j] wScan)) ++
  rowsFrom 0x20 ((List.range 8).map (fun j => { size := 4, acc := .wo, rd := {}, wr := wScan, val := .regs [rg .pmPreset k j] }))

def monitorObjs : Subs :=
  [(1, { size := 1, acc := .rw, rd := rCfg, wr := wScan, val := .own .freeze })] ++
  rowsFrom 0x10 ((List.range 16).map (fun k =>
    { size := 4, acc := .rw, rd := { local_ := true, host := true, diag := true }, wr := { host := true }, val := .own (.userEn k) }))

def cvObjs (u : Nat) : Subs :=
  [(1, { size := 4, acc := .rw, rd := rCfg, wr := wScan, val := .own (.cvCtrl u) }), (2, roReg 4 [rg .cvStatus u]),
   (3, woOwn 1 (.doneClear u) wScan),
   (0x10, (rwReg 2048 ((List.range 64).flatMap (fun d => [rg .cvAddrLo u d, rg .cvAddrHi u d, rg .cvLength u d, rg .cvPitch u d,
     rg .cvLines u d, rg .cvCfg u d, rg .cvExpectLo u d, rg .cvExpectHi u d])) wScan).asDomain),
   (0x11, roReg 512 ((List.range 64).flatMap (fun d => [rg .cvResLo u d, rg .cvResHi u d])))]

/-! ### Boot (R442) -/

def bootObjs : Subs :=
  rowsFrom 1 ([kept 1 0 wBoot] ++ List.replicate 9 (kept 4 0 wBoot))

/-! ### The dictionary (R316) -/

/-- Whether a number lies in a range of `n` from `lo`. -/
def among (i lo n : Nat) : Bool := decide (lo ≤ i) && decide (i < lo + n)

/-- The rows of an index; none where the index is not defined (R294). -/
def objRows (i : Nat) : Subs :=
  if i = 0x1000 then identityObjs
  else if i = 0x1100 then ledgerObjs
  else if i = 0x1203 then [(0, { size := 1, acc := .wonce, rd := rCfg, wr := rCfg, val := .own .deviceLock })]
  else if i = 0x1210 then [(0, roOwn 16 .challenge { local_ := true, host := true, net := true })]
  else if i = 0x1211 then [(0, (woOwn 16 .response wCfg).asDomain)]
  else if i = 0x1212 then [(0, { size := 1, acc := .rw, rd := rCfg, wr := wDiag, val := .own .session })]
  else if among i 0x1220 16 then keyObjs (i - 0x1220)
  else if among i 0x2000 0x100 ∧ i % 16 = 0 then headObjs ((i - 0x2000) / 16)
  else if among i 0x2000 0x100 ∧ i % 16 = 8 then colourObjs ((i - 0x2000) / 16)
  else if among i 0x2000 0x100 ∧ i % 16 = 12 then lanternObjs ((i - 0x2000) / 16)
  else if among i 0x2100 4 then phaseObjs (i - 0x2100)
  else if i = 0x2110 then flareObjs
  else if among i 0x2200 64 then egressObjs (i - 0x2200)
  else if among i 0x22C0 8 then quadObjs (i - 0x22C0)
  else if among i 0x3000 96 then layerObjs (i - 0x3000)
  else if among i 0x4000 18 then portObjs (i - 0x4000)
  else if among i 0x4020 4 then [(0, rwReg 1 [rg .siIqMode (i - 0x4020)] wCfg true)]
  else if among i 0x4100 4 then lanternObjs (16 + (i - 0x4100))
  else if among i 0x4200 192 then streamObjs (i - 0x4200)
  else if among i 0x4300 24 then raceObjs (i - 0x4300)
  else if i = 0x5000 then keepOwnerObjs
  else if i = 0x5001 then ownerNextObjs
  else if i = 0x5002 then [(0, roReg 4 [rg .scKeepStatus] rKeep)]
  else if i = 0x5003 then selftestObjs
  else if among i 0x5008 8 then [(0, rwtReg 8 [rg .scKfallbackLo (i - 0x5008), rg .scKfallbackHi (i - 0x5008)] rKeep Classes.keepOnly)]
  else if among i 0x5010 16 then keepHeadObjs (i - 0x5010)
  else if among i 0x5400 0x400 then signatureObjs ((i - 0x5400) / 64) (i % 64)
  else if among i 0x5800 16 then sigHeadObjs (i - 0x5800)
  else if i = 0x6000 then rowsFrom 1 ((List.range 4).map (fun b => roOwn 1 (.bankState b) rAll))
  else if i = 0x6001 then [(0, kept 4 0 wCfg)]
  else if i = 0x6002 then [(0, kept 1 1 wCfg)]
  else if i = 0x6010 then liveBankObjs
  else if among i 0x6020 4 then bankObjs (i - 0x6020)
  else if i = 0x6030 then rowsFrom 1 ((List.range 4).map (fun b => (woOwn (2 ^ 24) (.load b) wCfg).asDomain))
  else if i = 0x6031 then [(0, roReg 4 [rg .mcSbStatus])]
  else if i = 0x6100 then txObjs
  else if among i 0x6111 4 then ticketObjs (i - 0x6110)
  else if i = 0x7000 then thermalObjs
  else if i = 0x7010 then spireObjs
  else if i = 0x7020 then [(0, kept 8 0xFEDCBA9876543210 wCfg)]
  else if i = 0x7030 then wearObjs
  else if i = 0x7100 then faultObjs
  else if i = 0x8000 then cascadeObjs
  else if among i 0x8010 8 then [(0, rwtReg 4 [rg .caSend (i - 0x8010)] rCfg wCfg)]
  else if among i 0x8020 4 then segmentObjs (i - 0x8020)
  else if among i 0x8040 16 then [(0, rwReg 4 [rg .caFwdRx (i - 0x8040)])]
  else if among i 0x9000 2 then canObjs (i - 0x9000)
  else if among i 0x9010 2 then ethObjs (i - 0x9010)
  else if i = 0x9030 then notifyObjs
  else if among i 0xA000 16 then perfObjs (i - 0xA000)
  else if i = 0xA0F0 then monitorObjs
  else if among i 0xA100 8 then cvObjs (i - 0xA100)
  else if i = 0xB000 then [(1, kept 2 8533 wBoot)]
  else if among i 0xB010 4 then bootObjs
  else []

/-- What a request finds. -/
inductive Found where
  | noObject
  | noSub
  | obj (d : ObjDef)
  /-- Sub-index 0x00 of an object whose values begin at 0x01: its highest sub-index, for the read classes of the object. -/
  | highest (n : Nat) (rd : Classes)
  deriving DecidableEq, Repr

/-- The union of two class sets. -/
def Classes.union (a b : Classes) : Classes :=
  { local_ := a.local_ || b.local_, safety := a.safety || b.safety, host := a.host || b.host, guest := a.guest || b.guest,
    net := a.net || b.net, diag := a.diag || b.diag }

/-- What an index and a sub-index name (R294). -/
def findObj (index sub : Nat) : Found :=
  let l := objRows index
  match l.find? (fun e => e.1 = sub) with
  | some e => .obj e.2
  | none =>
    if l.isEmpty then .noObject
    else if sub = 0 then .highest (l.foldl (fun m e => max m e.1) 0) (l.foldl (fun c e => c.union e.2.rd) {})
    else .noSub

/-- The default of an object kept in the dictionary. -/
def keptDefault (index sub : Nat) : Nat := match findObj index sub with
  | .obj d => (match d.val with | .kept v => v | _ => 0)
  | _ => 0

end Sys2Proof.Machine
end

