-- ==== Sys2Proof/Machine/KeepCmds.lean ====
section
/-! DEFINITION. The events of the keep comparators and of the keep clock, the self-test and the clear request (R196 to R204, R211,
R214). -/

namespace Sys2Proof.Machine

/-! ### The comparison (R196 to R198) -/

/-- KEEP_MISMATCH (R197): a disagreement beside those of the line's own pixels, such as a fault in a compositor makes (log entry 63). A
head that does not scan compares nothing. -/
def keepMismatch (n col row : Nat) (unknown : Bool) (s : State) : State :=
  if ¬ isRunning s n then s else tileFault n col row (16 * col) (4 * row) (if unknown then 3 else 1) s

def execKeepMismatch (n : Fin 16) (col row : Nat) (unknown : Bool) (s : State) : Result :=
  powered s (keepMismatch n.val col row unknown)

/-- SHADOW_LATE (R198). -/
def shadowLate (n x y : Nat) (s : State) : State :=
  if ¬ isRunning s n then s
  else match regionAt s n x y with
    | none => s
    | some r => keepFault n 4 [r] s

def execShadowLate (n : Fin 16) (x y : Nat) (s : State) : Result := powered s (shadowLate n.val x y)

/-! ### Clocks (R34, R200, R214) -/

/-- The heads that a CLOCK fault affects (R200). -/
def clockHeads (s : State) : ClockTarget → List Nat
  | .head n => if isStopped s n.val then [] else [n.val]
  | _ => (List.range 16).filter (keepBearing s)

/-- KEEP_CLOCK_FAULT (R200). -/
def keepClockFault (t : ClockTarget) (s : State) : State :=
  let s := { s with keep := { s.keep with clockBad := if s.keep.clockBad.contains t then s.keep.clockBad else s.keep.clockBad ++ [t] } }
  (clockHeads s t).foldl (fun s n => keepFault n 5 (keepRegions s n) s) s

def execKeepClockFault (t : ClockTarget) (s : State) : Result := powered s (keepClockFault t)

/-- KEEP_CLOCK_RESTORED (R214). -/
def keepClockRestored (t : ClockTarget) (s : State) : State :=
  { s with keep := { s.keep with clockBad := s.keep.clockBad.erase t } }

def execKeepClockRestored (t : ClockTarget) (s : State) : Result := powered s (keepClockRestored t)

/-! ### Self-test and clear (R204, R211) -/

/-- Whether the comparator of a head takes a test line now: keep-bearing, the path available, in vertical blanking, and PERIOD
frames since the last one. -/
def selftestDue (s : State) (n : Nat) : Bool :=
  s.keep.available && keepBearing s n && isRunning s n && decide ((s.head n).raster.vActive ≤ (s.head n).line) &&
  decide (fld (s.reg (rg .scSelftest)) 0 8 ≤ (s.keepHead n).selfFrames)

/-- SELFTEST_LINE (R211): the bit position moves on through the pair's bits, and a failure is a keep fault of every region. -/
def selftestLine (n : Nat) (pass : Bool) (s : State) : State :=
  if ¬ selftestDue s n then s
  else
    let k := s.keepHead n
    let s := s.setKeepHead n { k with selfFrames := 0, selfBit := (k.selfBit + 1) % (6 * headDepth s n) }
    if pass then s else keepFault n 6 (keepRegions s n) s

def execSelftestLine (n : Fin 16) (pass : Bool) (s : State) : Result := powered s (selftestLine n.val pass)

/-- A write of CLEAR as an access. -/
def clearAccess (n : Nat) (regions : BitVec 4) : Access := { off := (rg .scClear n).addr, data := regions.zeroExtend 32 }

/-- KEEP_CLEAR (R204): the request is judged at the head's next latch. -/
def keepClear (src : Source) (n : Nat) (regions : BitVec 4) (s : State) : State :=
  if ¬ carriesSafety s src then refuse src 2 (clearAccess n regions) s
  else s.setKeepHead n { s.keepHead n with clearReq := (s.keepHead n).clearReq ||| regions }

def execKeepClear (src : Source) (n : Fin 16) (regions : BitVec 4) (s : State) : Result :=
  request src s (keepClear src n.val regions)

end Sys2Proof.Machine
end

