-- ==== Sys2Proof/Machine/Irq.lean ====
section
/-! DEFINITION. The interrupt concentrator's commands: claim, end of interrupt, pending and mask writes, coalescing (R346 to
R362). -/

namespace Sys2Proof.Machine

/-- The target a source reaches: its own page, or the selected page of a PF (R348, R361). The MC's own target is 32. -/
def targetOf (s : State) (src : Source) (selected : Bool) : Nat :=
  match src with
  | .fn f => if selected && isPF f.val then (s.reg (rg .icSel f.val)).toNat else f.val
  | _ => 32

/-- Whether a source may write a target's registers (R348). -/
def mayTarget (src : Source) (t : Nat) : Bool :=
  match src with
  | .fn f =>
    if t = f.val then true
    else isPF f.val && ((decide (t < 32) && decide (endpointOf t = endpointOf f.val)) || decide (t = 33))
  | .mc | .manager => decide (t = 32)
  | .node _ => false

/-- A change of a target's registers, then what follows from it. -/
def changeTarget (t : Nat) (f : Target → Target) (s : State) : State := settle t s (s.setTarget t (f (s.target t)))

/-- The offset within a target page as an access, for the error record. -/
def targetAccess (src : Source) (selected : Bool) (off : Nat) (d : Word) : Access :=
  { off := (match src with
      | .fn f => if isPF f.val then (if selected then 0x21000 else 0x20000) else 0x30000
      | _ => 0x20000) + off, data := d }

/-- A full read of CLAIM at a target (R351): ARMED clears; the claim pops the pending bit and pushes the stack. -/
def claimAt (t : Nat) (s : State) : State × Nat :=
  let x := s.target t
  if 8 ≤ x.stack.length then
    (changeTarget t (fun x => { x with armed := false, nestFull := true }) s, 0)
  else
    let b := bestSource s t
    if b = 0 then (changeTarget t (fun x => { x with armed := false }) s, 0)
    else (perfEvent 13 t 2 1 (changeTarget t (fun x => { x with
      armed := false, pend := setBit x.pend b false, stack := { source := b, prio := SMap.get x.prio b 0 } :: x.stack }) s), b)

/-- CLAIM: a full read claims; a narrower one, or one of target 32 without LOCAL, only looks (R327, R348, R351). -/
def claim (src : Source) (selected full : Bool) (s : State) : State :=
  let t := targetOf s src selected
  if full && (decide (t ≠ 32) || isMc src) then
    let (s', b) := claimAt t s
    s'.answer (.word (BitVec.ofNat 32 b))
  else s.answer (.word (BitVec.ofNat 32 (if (s.target t).stack.length < 8 then bestSource s t else 0)))

def execClaim (src : Source) (selected full : Bool) (s : State) : Result := readRequest src s (claim src selected full)

/-- EOI (R352). -/
def eoiAt (src : Source) (t : Nat) (a : Access) (source : Nat) (s : State) : State :=
  if ¬ mayTarget src t then refuse src 2 a s
  else match (s.target t).stack with
    | [] => refuse src 3 a s
    | c :: rest =>
      if c.source = source then changeTarget t (fun x => { x with stack := rest }) s
      else refuse src 4 a s

def execEoi (src : Source) (selected : Bool) (source : BitVec 9) (s : State) : Result :=
  request src s (fun s => eoiAt src (targetOf s src selected) (targetAccess src selected 0x184 (source.zeroExtend 32)) source.toNat s)

/-- The bits of one word of a 512-bit array. -/
def wordBits (k : Nat) (w : Word) : BitVec 512 := BitVec.ofNat 512 w.toNat <<< (32 * k)

/-- Whether a PEND_SET bit may rise: source 0 is none, 161 to 192 never become pending, and a VF sets only software doorbells
(R347, R360). -/
def maySet (src : Source) (n : Nat) : Bool :=
  decide (n ≠ 0) && !(decide (161 ≤ n) && decide (n ≤ 192)) &&
    (match src with
     | .fn f => isPF f.val || decide (449 ≤ n)
     | _ => true)

/-- The bits of a PEND_SET word that may rise. -/
def settable (src : Source) (k : Nat) (w : Word) : Word :=
  (List.range 32).foldl (fun m i => if maySet src (32 * k + i) then m ||| (w &&& (1#32 <<< i)) else m) 0

/-- PEND_SET (R355, R360, R362): each bit is an event of its source at the target; a VF's bits below 449 are ignored and set
ACCESS_ERR. -/
def pendSetAt (src : Source) (t k : Nat) (a : Access) (w : Word) (s : State) : State :=
  if ¬ mayTarget src t then refuse src 2 a s
  else
    let ok := settable src k w
    let low := match src with
      | .fn f => !isPF f.val && (List.range 32).any (fun i => w.getLsbD i && decide (32 * k + i < 449))
      | _ => false
    let s := settle t s (((List.range 32).filter ok.getLsbD).foldl (fun s i => pendAt t (32 * k + i) s) s)
    if low then refuse src 2 a s else s

def execPendSet (src : Source) (selected : Bool) (k : Fin 16) (bits : Word) (s : State) : Result :=
  request src s (fun s => pendSetAt src (targetOf s src selected) k.val (targetAccess src selected (0x40 + 4 * k.val) bits) bits s)

/-- PEND_CLR (R362). -/
def pendClrAt (src : Source) (t k : Nat) (a : Access) (w : Word) (s : State) : State :=
  if ¬ mayTarget src t then refuse src 2 a s
  else changeTarget t (fun x => { x with pend := x.pend &&& ~~~(wordBits k w) }) s

def execPendClr (src : Source) (selected : Bool) (k : Fin 16) (bits : Word) (s : State) : Result :=
  request src s (fun s => pendClrAt src (targetOf s src selected) k.val (targetAccess src selected (0x80 + 4 * k.val) bits) bits s)

/-- The bits of a mask word that exist: source 0 has none (R347). -/
def maskable (k : Nat) (w : Word) : Word := if k = 0 then w &&& ~~~1#32 else w

/-- MASK_SET (R362). -/
def maskSetAt (src : Source) (t k : Nat) (a : Access) (w : Word) (s : State) : State :=
  if ¬ mayTarget src t then refuse src 2 a s
  else changeTarget t (fun x => { x with mask := x.mask ||| wordBits k (maskable k w) }) s

def execMaskSet (src : Source) (selected : Bool) (k : Fin 16) (bits : Word) (s : State) : Result :=
  request src s (fun s => maskSetAt src (targetOf s src selected) k.val (targetAccess src selected (0x100 + 4 * k.val) bits) bits s)

/-- MASK_CLR (R362). -/
def maskClrAt (src : Source) (t k : Nat) (a : Access) (w : Word) (s : State) : State :=
  if ¬ mayTarget src t then refuse src 2 a s
  else changeTarget t (fun x => { x with mask := x.mask &&& ~~~(wordBits k w) }) s

def execMaskClr (src : Source) (selected : Bool) (k : Fin 16) (bits : Word) (s : State) : Result :=
  request src s (fun s => maskClrAt src (targetOf s src selected) k.val (targetAccess src selected (0x140 + 4 * k.val) bits) bits s)

/-- The time criterion of a HOLDING group is met (R356). A group that does not hold, or whose TIME is 0, times nothing. -/
def coalesceTimeout (g : Nat) (s : State) : State :=
  let x := s.cgroup g
  let c := s.reg (rg .icGcfg g)
  if x.state = .holding ∧ fld c 0 16 ≠ 0 then
    let s1 := toTick (x.since + fld c 0 16 * ticksPerUs) s
    let t := fld c 24 6
    settle t s1 (releaseGroup t g x.count x.since s1)
  else s

def execCoalesceTimeout (g : Fin 64) (s : State) : Result := powered s (coalesceTimeout g.val)

/-- The four bytes of a word written into a byte-per-source table (R362): word `w` holds sources 4w to 4w + 3. -/
def setBytes (m : SMap Nat) (w : Nat) (v : Word) : SMap Nat :=
  (List.range 4).foldl (fun m b => SMap.set m (4 * w + b) (fld v (8 * b) 8) 0) m

/-- The word of a byte-per-source table. -/
def byteWord (m : SMap Nat) (w : Nat) : Word :=
  (List.range 4).foldl (fun x b => x ||| put (SMap.get m (4 * w + b) 0) (8 * b)) 0

/-- The priorities of sources 65 to 96 as they stand at the MC's target, whatever is written there (R201). -/
def keepPrio (t : Nat) (old new : SMap Nat) : SMap Nat :=
  if t ≠ 32 then new
  else (List.range 32).foldl (fun m i => SMap.set m (65 + i) (SMap.get old (65 + i) 0) 0) new

/-- THRESHOLD, CTRL, STATUS, PRIO and COAL writes of a target page (R348, R358, R362). -/
def targetWrite (t : Nat) (r : RegId) (v : Word) (s : State) : State :=
  match r.name with
  | .icThreshold => changeTarget t (fun x => { x with threshold := fld v 0 5 }) s
  | .icCtrl =>
    if 32 ≤ t then s
    else
      let was := sleeping s t
      let s1 := s.setTarget t { s.target t with asleep := bit v 0, wakeUncoal := bit v 1 }
      if was && !sleeping s1 t then settle t s (stopSleeping t s1)
      else settle t s s1
  | .icStatus => if bit v 3 then changeTarget t (fun x => { x with nestFull := false }) s else s
  | .icPrio =>
    let v := if r.j = 0 then v &&& 0x1F1F1F00#32 else v &&& 0x1F1F1F1F#32
    changeTarget t (fun x => { x with prio := keepPrio t x.prio (setBytes x.prio r.j v) }) s
  | .icCoal =>
    changeTarget t (fun x => { x with coal := setBytes x.coal r.j (if r.j = 0 then v &&& 0xBFBFBF00#32 else v &&& 0xBFBFBFBF#32) }) s
  | _ => s

/-- A Function Level Reset's effect on the function's target and groups (R359). -/
def resetTarget (f : Nat) (s : State) : State :=
  let s := s.setTarget f {}
  let s := { s with hl := { s.hl with pmeSent := setBit s.hl.pmeSent f false, pba := setBit s.hl.pba f false } }
  (List.range 64).foldl (fun s g => if fld (s.reg (rg .icGcfg g)) 24 6 = f then s.setCgroup g {} else s) s

/-- Priority 31 and clear masks for sources 65 to 96 at the keep owner's target, and at the MC's and the external one (R201,
R359). -/
def keepSources (t : Nat) (s : State) : State :=
  changeTarget t (fun x => { x with
    mask := x.mask &&& ~~~(BitVec.ofNat 512 (2 ^ 32 - 1) <<< 65)
    prio := (List.range 32).foldl (fun m i => SMap.set m (65 + i) 31 0) x.prio }) s

end Sys2Proof.Machine
end

