-- ==== Sys2Proof/Machine/PerfCmds.lean ====
section
/-! DEFINITION. The commands of the performance monitor (R396 to R406). -/

namespace Sys2Proof.Machine

/-- The value that a PRESET write loads (R400); counter 8 is CYC. -/
def presetValue (j : Nat) (v : Word) : Nat :=
  if bit v 31 then 2 ^ (if j = 8 then 64 else 48) - 2 ^ 31 + fld v 0 31 else fld v 0 31

/-- The PRESET register of a counter. -/
def presetReg (k j : Nat) : RegId := if j = 8 then rg .pmCycPreset k else rg .pmPreset k j

/-- PRESET (R400): the value stands from the next core clock. LOCAL, HOST, NET and DIAG may write it (R406). -/
def presetCounter (src : Source) (k j : Nat) (v : Word) (s : State) : State :=
  if mayScan s src then { s with pm := { s.pm with loads := s.pm.loads ++ [(k, j, presetValue j v)] } }
  else refuse src 2 { off := (presetReg k j).addr, data := v } s

def execPreset (src : Source) (k : Fin 16) (j : Fin 9) (value : Word) (s : State) : Result :=
  request src s (presetCounter src k.val j.val value)

/-- A register of the monitor written: the core clock in progress still counts by what it held (R401, R402). -/
def writePm (r : RegId) (v : Word) (s : State) : State := (holdPm r s).setReg r v

/-- FREEZE (R402). -/
def freeze (src : Source) (on : Bool) (s : State) : State :=
  if mayScan s src then writePm (rg .pmFreeze) (putb on 0) s
  else refuse src 2 { off := (rg .pmFreeze).addr, data := putb on 0 } s

def execFreeze (src : Source) (on : Bool) (s : State) : Result := request src s (freeze src on)

/-- Core clocks until CYC of a block wraps. -/
def clocksToWrap (s : State) (k : Nat) : Nat := 2 ^ 64 - SMap.get s.pm.cyc k 0

/-- The tick by which `c` core clocks have ended (R32). -/
def tickOfClocks (s : State) (c : Nat) : Nat :=
  s.tick + ceilDiv (c * (if s.therm.coreMhz = 1000 then 8 else 10) - s.corePhase) 5

/-- The instances of a block and its last EVENT (R397). -/
def eventsOf : Nat → Nat × Nat
  | 0 => (2, 4) | 1 => (4, 5) | 2 => (192, 3) | 3 => (96, 5) | 4 => (24, 2) | 5 => (4, 2) | 6 => (16, 3) | 7 => (16, 2)
  | 8 => (16, 3) | 9 => (8, 3) | 10 => (20, 3) | 11 => (8, 2) | 12 => (2, 3) | 13 => (34, 2) | 14 => (16, 1) | _ => (0, 3)

/-- Whether an EVTSEL value selects an event that the table lists for the block, and an instance of it (R397). -/
def selects (k : Nat) (w : Word) : Bool :=
  decide (1 ≤ fld w 0 8) && decide (fld w 0 8 ≤ (eventsOf k).2) && (decide (fld w 8 8 = 0xFF) || decide (fld w 8 8 < (eventsOf k).1))

/-- Whether an event counter counts anything in the core clock in progress. -/
def ctrRuns (s : State) (k j : Nat) : Bool :=
  bit (pmReg s (rg .pmCtrl k)) j && !pmFrozen s && selects k (pmReg s (rg .pmEvtsel k j))

/-- CYC of a block passes its top value as time moves on to the clock in which it wraps: the one in progress, or a later one, by what the
registers then say. -/
def cycWrap (k : Nat) (s : State) : State :=
  let go (s : State) : State := if cycRuns s k then toTick (tickOfClocks s (clocksToWrap s k)) s else s
  let now := cycRuns s k && decide (clocksToWrap s k = 1)
  if now ∨ (s.pm.held.isEmpty ∧ s.pm.loads.isEmpty) then go s else go (toTick (tickOfClocks s 1) s)

/-- COUNTER_WRAP (R398): a counter that runs passes its top value with the occurrences of one clock. -/
def counterWrap (k j n : Nat) (s : State) : State :=
  if j = 8 then cycWrap k s
  else if ctrRuns s k j && (addCtr k j n s).2 then wrapWith perfEvent k j (addCtr k j n s).1
  else s

def execCounterWrap (k : Fin 16) (j : Fin 9) (n : Fin 16) (s : State) : Result :=
  powered s (counterWrap k.val j.val n.val)

/-- OVF written (R398): 1s clear the written bits, but for one whose counter wraps in the same core clock: that stays 1, and the source
becomes pending again. -/
def clearOvf (k : Nat) (v : Word) (s : State) : State :=
  let again := (List.range 9).filter (fun j => v.getLsbD j && s.pm.wrapped.contains (k, j))
  let keep : BitVec 9 := again.foldl (fun m j => setBit m j true) 0
  let s := { s with pm := { s.pm with ovf := SMap.set s.pm.ovf k (ovfOf s k &&& (~~~(v.truncate 9) ||| keep)) 0 } }
  if again.isEmpty then s else raise (273 + k) s

end Sys2Proof.Machine
end

