-- ==== Sys2Proof/Machine/ThermalCmds.lean ====
section
/-! DEFINITION. Power, heat, wear and safety reactions (R444 to R467): the estimator, spire mode, wear, shedding, supplies, main
clocks, fault categories and the heartbeat. -/

namespace Sys2Proof.Machine

/-! ### Sensors and the estimator (R444 to R446) -/

/-- Sensors that are not excluded. -/
def goodSensors (s : State) : List Nat := (List.range 12).filter (fun i => !s.therm.excluded.contains i)

/-- The last sample of a sensor. -/
def sensorTemp (s : State) (i : Nat) : Int := ((s.therm.window.headD []).getD i 0)

/-- A number inserted into an ascending list. -/
def insertUp (x : Int) : List Int → List Int
  | [] => [x]
  | y :: t => if x ≤ y then x :: y :: t else y :: insertUp x t

/-- Twice the median of some temperatures: of an even number, the mean of the middle two. -/
def median2 (l : List Int) : Int :=
  let a := (l.foldr insertUp []).toArray
  a.getD ((a.size - 1) / 2) 0 + a.getD (a.size / 2) 0

/-- A sensor excluded (R444): source 390; the second one sets category 10 (R445). -/
def excludeSensor (i : Nat) (s : State) : State :=
  let s := raise 390 { s with therm := { s.therm with excluded := s.therm.excluded ++ [i] } }
  if 2 ≤ s.therm.excluded.length then setCategory 10 0xFFFF s else s

/-- A sensor's samples in a row that stand more than 15 °C apart from the median. -/
def countApart (m2 : Int) (s : State) (i : Nat) : State :=
  let d := (2 * sensorTemp s i - m2).natAbs
  let n := if 240 < d then SMap.get s.therm.apart i 0 + 1 else 0
  { s with therm := { s.therm with apart := SMap.set s.therm.apart i n 0 } }

/-- SENSOR_SAMPLE (R444): one reading of each sensor, every 100 µs: 1,000 in a row are 100 ms. -/
def sensorSample (temps : List Int) (s : State) : State :=
  let s := { s with therm := { s.therm with window := (temps :: s.therm.window).take 10 } }
  let s := ((goodSensors s).filter (fun i => sensorTemp s i < -440 ∨ 1200 < sensorTemp s i)).foldl (fun s i => excludeSensor i s) s
  let s := (goodSensors s).foldl (countApart (median2 ((goodSensors s).map (sensorTemp s)))) s
  ((goodSensors s).filter (fun i => 1000 ≤ SMap.get s.therm.apart i 0)).foldl (fun s i => excludeSensor i s) s

/-- The sum of a sensor's samples of the last millisecond. -/
def windowSum (s : State) (i : Nat) : Int := s.therm.window.foldl (fun a l => a + l.getD i 0) 0

/-- TMAX (R445): the largest 1 ms average. How an average is rounded to 1/8 °C is not stated: it is a free value between the two
nearest (log entry 30). -/
def computeTmax (s : State) : State :=
  match goodSensors s with
  | [] => s
  | i :: t =>
    let n : Int := (max s.therm.window.length 1 : Nat)
    let m := t.foldl (fun m j => max m (windowSum s j)) (windowSum s i)
    if m % n = 0 then { s with therm := { s.therm with tmax := m / n } }
    else ({ s with therm := { s.therm with tmax := m / n + ((Config.undefinedByte s.fresh).toNat % 2 : Nat) } }).draw 1

/-- TMAX 250 ms ago: a free value where the device has not run for so long (log entry 30). -/
def oldTmax (s : State) : State × Int :=
  match s.therm.history[24]? with
  | some t => (s, t)
  | none => (s.draw 2, signed 12 (leNat (s.drawn 2 Config.undefinedByte)))

/-- PRED (R445): the slope is taken over 0.25 s and projected by 2 s. -/
def computePred (s : State) : State :=
  let s := computeTmax s
  let (s, old) := oldTmax s
  let t := s.therm.tmax
  { s with therm := { s.therm with pred := t + 8 * max (t - old) 0, history := (t :: s.therm.history).take 25 } }

/-- The thermal state that a level gives (R446, R455). -/
def therStateOf (s : State) : TherState :=
  let t := tempLevel s
  if 1000 ≤ t ∨ (s.therm.state = .shedding ∧ 976 ≤ t) then .shedding
  else if (s.obj 0x7000 3 110 : Nat) * 8 ≤ t then .warm
  else .normal

/-- STATE of THERM_STATUS as a number. -/
def TherState.code : TherState → Nat
  | .normal => 0
  | .warm => 1
  | .shedding => 2

/-- THERM_STATUS (R466). -/
def thermStatus (s : State) : Word :=
  put s.therm.state.code 30 ||| put (min s.therm.excluded.length 15) 24 |||
    withFld 0 12 12 (BitVec.ofInt 12 s.therm.pred).toNat ||| withFld 0 0 12 (BitVec.ofInt 12 s.therm.tmax).toNat

/-- A change of thermal state (R446). -/
def setTherState (x : TherState) (s : State) : State :=
  if s.therm.state = x then s
  else
    let s := raise 385 { s with therm := { s.therm with state := x } }
    noteEvent 3 x.code 0xFFFF (thermStatus s) none s

/-! ### Shedding (R454 to R456) -/

/-- The heads of SHED_ORDER, first to shed first, then the others in ascending order. -/
def shedList (s : State) : List Nat :=
  let v := s.obj 0x7020 0 0xFEDCBA9876543210
  ((List.range 16).map (fun i => v / 16 ^ i % 16) ++ List.range 16).eraseDups

/-- The order in which heads shed: keep-bearing heads last. -/
def shedOrder (s : State) : List Nat :=
  (shedList s).filter (fun n => !keepBearing s n) ++ (shedList s).filter (keepBearing s)

/-- The next head in order is shed (R455). -/
def shedNext (s : State) : State :=
  match (shedOrder s).find? (fun n => isRunning s n && !s.therm.shed.getLsbD n) with
  | none => s
  | some n =>
    let s := stopHead n { s with therm := { s.therm with shed := setBit s.therm.shed n true, shedTick := s.tick } }
    setCategory 5 n (raise 389 s)

/-- SHED_TIMER (R455): 100 ms after the last head was shed. -/
def shedTimer (s : State) : State :=
  if s.therm.state ≠ .shedding then s else shedNext (toTick (s.therm.shedTick + 100 * ticksPerMs) s)

/-! ### Spire mode (R447 to R451) -/

/-- The bank of the resident sustained or spire counterpart of the live image (R90). -/
def counterpartBank (s : State) : Option Nat :=
  match liveImage s with
  | none => none
  | some l => [0, 1, 2, 3].find? (fun b => match (s.bank b).image with
    | some x => decide ((s.bank b).state = .resident) && (x.clockSpire != l.clockSpire) &&
        decide (x.imageId = l.counterpart) && decide (x.counterpart = l.imageId)
    | none => false)

/-- R91 step 1: the image LIVE is sustained, with a resident counterpart. While a switch is SWITCHING no bank is LIVE (R87). -/
def spireImageReady (s : State) : Bool :=
  match liveImage s with
  | some l => s.sched.switch.isNone && !l.clockSpire && (counterpartBank s).isSome
  | none => false

/-- Why a request to enter is refused (R447). -/
def spireRefusal (s : State) : Option Nat :=
  if 10800000 ≤ s.therm.spireSeconds then some 1
  else if s.therm.state ≠ .normal ∨ 904 ≤ s.therm.pred + tempAllowance s then some 2
  else if ¬ spireImageReady s then some 3
  else if s.safety.category.getLsbD 10 then some 4
  else if s.safety.category.getLsbD 7 then some 5
  else none

/-- A refused request or an abandoned entry: REASON and source 387. -/
def spireReason (r : Nat) (s : State) : State := raise 387 { s with therm := { s.therm with reason := r } }

/-- An entry abandoned before its switch is accepted (R451): the seconds that it counted at 1,000 MHz are stored (R452). -/
def abandonEntry (r : Nat) (s : State) : State :=
  let s := if s.therm.coreMhz = 1000 then storeWear s else s
  spireReason r { s with therm := { s.therm with mode := .sustained, coreMhz := 800, vselSpire := false, asker := none } }

/-- The switch to the sustained counterpart committed (R450). -/
def commitExit (s : State) : State :=
  match counterpartBank s with
  | some b => (mcSwitch b s).getD s
  | none => s

/-- Spire mode ends for a cause (R450). -/
def leaveSpire (code : Nat) (s : State) : State :=
  commitExit { s with therm := { s.therm with mode := .leaving, lastExit := code, exitDue := 0 } }

/-- An exit that waited for the entry to be applied (R451). -/
def followSpire (s : State) : State :=
  if s.therm.mode = .spire ∧ s.therm.exitDue ≠ 0 then leaveSpire s.therm.exitDue s else s

/-- REASON that a cause of R450 gives an abandoned entry (R451). -/
def abandonReason (s : State) (code : Nat) : Nat :=
  match code with
  | 1 => 2
  | 2 => 1
  | _ => if s.safety.category.getLsbD 7 then 5 else if s.safety.category.getLsbD 10 then 4 else 6

/-- A cause of R450 arises. -/
def spireCause (code : Nat) (s : State) : State :=
  match s.therm.mode with
  | .spire => leaveSpire code s
  | .entering =>
    if ¬ s.sched.switch.any (·.spire) then abandonEntry (abandonReason s code) s
    else if s.therm.exitDue = 0 then { s with therm := { s.therm with exitDue := code } } else s
  | _ => s

/-- The lowest cause of R450 that holds. -/
def spireCauseOf (s : State) : Option Nat :=
  if 944 ≤ s.therm.pred + tempAllowance s then some 1
  else if 10800000 ≤ s.therm.spireSeconds then some 2
  else if s.safety.category &&& 0x5FF#11 ≠ 0 then some 4
  else none

/-- The causes of R450 judged; an exit switch that was not accepted is committed again (log entry 30). -/
def judgeSpire (s : State) : State :=
  let s := if s.therm.mode = .leaving ∧ s.sched.switch.isNone then commitExit s else s
  match spireCauseOf s with
  | some c => spireCause c s
  | none => s

/-- A request to enter spire mode: the cause of its refusal, if it is refused (R447). -/
def spireEnter (s : State) : State × Option Nat :=
  match s.therm.mode with
  | .entering => (s, some 3)
  | .leaving => (s, some 3)
  | .spire => (s, none)
  | .sustained => match spireRefusal s with
    | some r => (spireReason r s, some 4)
    | none => ({ s with therm := { s.therm with mode := .entering, vselSpire := true, exitDue := 0 } }.setReg (rg .mcSpireCtrl) 1, none)

/-- A request to leave it. -/
def spireExit (s : State) : State × Option Nat :=
  match s.therm.mode with
  | .entering => (s, some 3)
  | .leaving => (s, some 3)
  | .sustained => (s, none)
  | .spire => (leaveSpire 3 (s.setReg (rg .mcSpireCtrl) 0), none)

/-- Whether a request began an entry: its outcome waits for VDD_CORE (R447). -/
def entered (s t : State) : Bool := decide (s.therm.mode = .sustained) && decide (t.therm.mode = .entering)

/-- A write of SPIRE_CTRL by a source. -/
def spireRequest (src : Source) (on : Bool) (s : State) : State :=
  let a : Access := { off := (rg .mcSpireCtrl).addr, data := putb on 0 }
  if ¬ mayConfigure s src then refuse src 2 a s
  else match (if on then spireEnter s else spireExit s) with
    | (t, some cause) => refuse src cause a t
    | (t, none) => if entered s t then { t with therm := { t.therm with asker := some src } } else t

def execSpireEntryRequest (src : Source) (s : State) : Result := request src s (spireRequest src true)

def execSpireExitRequest (src : Source) (s : State) : Result := request src s (spireRequest src false)

/-- SPIRE_VOLTAGE_READY (R448): the core clock rises and the switch is committed. A cause of R450 that has arisen abandons the entry
first (R451), and so does a switch that the checks reject (log entry 30). -/
def spireReady (s : State) : State :=
  if s.therm.mode ≠ .entering ∨ s.sched.switch.any (·.spire) then s
  else match spireCauseOf s with
    | some c => spireCause c s
    | none =>
      let s := { s with therm := { s.therm with coreMhz := 1000, asker := none } }
      match (counterpartBank s).bind (fun b => mcSwitch b s) with
      | some s => followSpire s
      | none => abandonEntry 3 s

/-- SPIRE_SUPPLY_TIMEOUT (R447): the request is refused, on the register route with ACCESS_ERR cause 4. -/
def spireSupplyTimeout (s : State) : State :=
  if s.therm.mode = .entering ∧ ¬ s.sched.switch.any (·.spire) ∧ s.therm.coreMhz = 800 then
    let t := abandonEntry 5 (s.setReg (rg .mcSpireCtrl) 0)
    match s.therm.asker with
    | some src => refuse src 4 { off := (rg .mcSpireCtrl).addr, data := 1 } t
    | none => t
  else s

/-- THERMAL_EVALUATION (R445, R446, R450, R455). -/
def thermalEvaluation (s : State) : State :=
  let s := computePred s
  let sec := (s.tick - s.therm.opStart) / 1600000000 + 1
  let s := if 920 ≤ tempLevel s ∧ s.therm.hotLast ≠ sec then
      { s with therm := { s.therm with hotSeconds := (s.therm.hotSeconds + 1) % 2 ^ 32, hotLast := sec } }
    else s
  let was := s.therm.state
  let s := setTherState (therStateOf s) s
  judgeSpire (if s.therm.state = .shedding ∧ was ≠ .shedding then shedNext s else s)

/-- HEAD_LATCH, with what the end of an MC switch brings (R43, R451). -/
def execHeadLatch (n : Fin 16) (s : State) : Result := powered s (fun s => followSpire (headLatch n.val s))

/-- HEAD_STOP, with what the end of an MC switch brings (R41, R451). -/
def execHeadStop (n : Fin 16) (s : State) : Result := powered s (fun s => followSpire (headStop n.val s))

/-! ### Wear (R452, R453) -/

/-- SPIRE_SECOND (R452): the store is written every 60 s, and an OTP bit is burnt for every 36,000 s. The limit ends spire mode and
fires source 388 (R450). -/
def spireSecond (ok : Bool) (s : State) : State :=
  if s.therm.coreMhz ≠ 1000 then s
  else
    let n := s.therm.spireSeconds + 1
    let s := { s with therm := { s.therm with spireSeconds := n % 2 ^ 32 }
                      aon := { s.aon with otpWear := max s.aon.otpWear (min (n / 36000) 300) } }
    let s := if n % 60 = 0 then writeStore ok [wearValue 1 n] s else s
    if n = 10800000 then spireCause 2 (raise 388 s) else s

/-- OP_SECONDS now (R453). -/
def opSecondsNow (s : State) : Nat := s.therm.opSeconds + (s.tick - s.therm.opStart) / 1600000000

/-- WEAR_STORE (R453). -/
def wearStore (ok : Bool) (s : State) : State :=
  writeStore ok [wearValue 2 (opSecondsNow s), wearValue 3 s.therm.hotSeconds] s

def execWearStore (ok : Bool) (s : State) : Result := powered s (wearStore ok)

/-! ### Shutdown (R457) -/

/-- Every domain but the always-on one stops: the cause is kept, and FAULT_N is static low. -/
def shutDown (cause : Byte) (s : State) : State :=
  let s := setCategory 6 0xFFFF s
  { s with power := .shutdown, aon := { s.aon with shutdownCause := cause, faultnLow := true } }

/-- THERMAL_SHUTDOWN: TMAX reaches 130 °C. -/
def thermalShutdown (s : State) : State := if 1040 ≤ tempLevel s then shutDown 1 s else s

def execThermalShutdown (s : State) : Result := powered s thermalShutdown

/-- Whether the always-on domain runs and the device is not yet shut down (R427). -/
def aonRuns (s : State) : Bool :=
  match s.power with
  | .off | .shutdown => false
  | .inReset => !s.aon.porstLow
  | .on | .starting | .halted _ => true

/-- AON_COMPARATOR_SHUTDOWN: the comparator acts by itself, at 135 °C, whatever the MC does. -/
def execAonComparatorShutdown (s : State) : Result := .next (if aonRuns s then shutDown 2 s else s)

/-- A read of SHUTDOWN_CAUSE by whatever route (R457): a cause that the cell holds is recorded in this start's ledger entry, and the cell
is cleared. -/
def takeCause (s : State) : State :=
  let c := s.aon.shutdownCause
  let t := if c = 0 then s else noteEntry (fun e => { e with cause := c }) s
  { t with aon := { t.aon with shutdownCause := 0 } }

/-- SHUTDOWN_CAUSE_READ (R457): the cell is returned as it was. -/
def shutdownCauseRead (src : Source) (s : State) : State :=
  let who : Classes := { local_ := true, safety := true, host := true, net := true, diag := true }
  if (classesOf s src).meets who then
    (takeCause s).answer (.word (s.aon.shutdownCause.zeroExtend 32))
  else s

def execShutdownCauseRead (src : Source) (s : State) : Result := readRequest src s (shutdownCauseRead src)

/-! ### Supplies and main clocks (R458, R461) -/

/-- A rail that its monitor finds outside its warning window, and outside its fault window where `fault` says so. -/
def noteRail (rail : Nat) (fault : Bool) (s : State) : State :=
  let a := s.aon
  let put (l : List Nat) : List Nat := if l.contains rail then l else l ++ [rail]
  { s with aon := { a with railsWarn := put a.railsWarn, railsOut := if fault then put a.railsOut else a.railsOut } }

/-- Whether the MC and the interrupt concentrator see the monitors: outside a reset and a shutdown. -/
def seesRails (s : State) : Bool :=
  match s.power with
  | .on | .starting | .halted _ => true
  | .inReset | .shutdown | .off => false

/-- A rail leaves its windows (R458): source 391 once per excursion, and category 7, which ends spire mode. ITEM of the NOTIFY is the
rail's place in the table. -/
def railOut (rail : Nat) (fault : Bool) (s : State) : State :=
  let t := noteRail rail fault s
  if ¬ seesRails s then t
  else
    let t := if s.aon.railsWarn.contains rail then t else raise 391 t
    if fault ∧ ¬ s.aon.railsOut.contains rail then judgeSpire (setCategory 7 rail t) else t

/-- What the monitors find as a device starts: they have no reset of their own but PORST_N's, and the rails are as they were
(R458). -/
def monitorRails (s : State) : State :=
  s.aon.railsOut.foldl (fun s r => setCategory 7 r s) (s.aon.railsWarn.foldl (fun s _ => raise 391 s) s)

/-- RAIL_IN_WINDOW: the monitors stand in the always-on domain. -/
def railIn (rail : Nat) (s : State) : State :=
  { s with aon := { s.aon with railsWarn := s.aon.railsWarn.erase rail, railsOut := s.aon.railsOut.erase rail } }

def execRailInWindow (rail : Fin 11) (s : State) : Result := .next (if s.power = .off then s else railIn rail.val s)

/-- PLL_LOCK_LOSS: source 394 and category 8. -/
def pllLost (p : Pll) (s : State) : State :=
  if s.safety.pllOut.contains p then s
  else judgeSpire (setCategory 8 0xFFFF (raise 394 { s with safety := { s.safety with
    pllOut := s.safety.pllOut ++ [p], pllBack := s.safety.pllBack.filter (fun q => q.1 ≠ p) } }))

/-- PLL_LOCK_REGAINED. -/
def pllRegained (p : Pll) (s : State) : State :=
  if ¬ s.safety.pllOut.contains p then s
  else { s with safety := { s.safety with pllOut := s.safety.pllOut.erase p, pllBack := s.safety.pllBack ++ [(p, s.tick)] } }

def execPllLockRegained (p : Pll) (s : State) : Result := powered s (pllRegained p)

/-! ### FAULT_CLEAR and the heartbeat (R459, R462) -/

/-- Whether a category's condition no longer holds, so that FAULT_CLEAR may clear it (R461). -/
def mayClearFault (s : State) (c : Nat) : Bool :=
  match c with
  | 7 => s.aon.railsOut.isEmpty
  | 8 => s.safety.pllOut.isEmpty && s.safety.pllBack.all (fun p => decide (p.2 + ticksPerMs ≤ s.tick))
  | 9 => true
  | _ => false

/-- Categories cleared by FAULT_CLEAR. -/
def clearFaults (cats : BitVec 11) (s : State) : State :=
  ([7, 8, 9].filter (fun c => cats.getLsbD c && mayClearFault s c)).foldl (fun s c => clearCategory c s) s

/-- FAULT_CLEAR (R462): only with SAFETY. -/
def faultClear (src : Source) (cats : BitVec 11) (s : State) : State :=
  if carriesSafety s src then clearFaults cats s
  else refuse src 2 { off := (rg .mcFaultClear).addr, data := cats.zeroExtend 32 } s

def execFaultClear (src : Source) (cats : BitVec 11) (s : State) : Result := request src s (faultClear src cats)

/-- HEARTBEAT (R459): the safety manager's refresh. -/
def execHeartbeat (s : State) : Result :=
  powered s (fun s => { s with safety := { s.safety with refreshed := s.tick } })

/-- SAFETY_MANAGER_LOSS (R459): two refreshes in a row are missed. The pin stays low from then on (log entry 30). -/
def execSafetyManagerLoss (s : State) : Result :=
  powered s (fun s =>
    let s := toTick (s.safety.refreshed + 2 * ticksPerMs) s
    { s with safety := { s.safety with managerLost := true } })

end Sys2Proof.Machine
end

