-- ==== Sys2Proof/Machine/Flags.lean ====
section
/-! DEFINITION. Status and flag words: what a register that is not a stored value reads (R61, R62, R95, R116, R141 to R143, R161,
R186, R187, R214, R215, R234, R253, R269, R292, R319, R345, R361, R362, R375, R394, R395, R405, R441, R466). -/

namespace Sys2Proof.Machine

/-- The low and the high word of a 64-bit value. -/
def lowWord (v : Nat) : Word := BitVec.ofNat 32 v
def highWord (v : Nat) : Word := BitVec.ofNat 32 (v / 2 ^ 32)

/-- PSTAT of a posted block (R61, R334). -/
def pstatWord (s : State) (b : PBlock) : Word :=
  putb (s.dropped.contains b) 1 ||| putb (s.posted.any (fun x => x.block = b)) 0

/-! ### HL (R345) -/

/-- P_LINK of an endpoint. -/
def plinkWord (s : State) (k : Nat) : Word :=
  let x := s.link k
  put x.speed 16 ||| put x.width 8 ||| putb x.l12 1 ||| putb x.up 0

/-- STATUS of an error record. -/
def errStatusWord (e : ErrRec) : Word :=
  putb e.accessErr 31 ||| putb e.writeDropped 30 ||| putb e.lockViolation 29 ||| put e.rsvWrites 0

/-- ERR_ADDR of a record. -/
def errAddrWord (e : ErrRec) : Word := if e.held then putb true 31 ||| put e.kind 28 ||| put e.offset 0 else 0

/-- ERR_INFO of a record. -/
def errInfoWord (e : ErrRec) : Word := if e.held then put e.cause 24 ||| put e.be.toNat 20 else 0

/-! ### TX (R292) -/

/-- TMASK of a ticket. -/
def tmaskWord (x : Ticket) : Word := put x.done.toNat 16 ||| put x.mask.toNat 0

/-- HCODE[k] of a ticket: heads 4k to 4k + 3. -/
def hcodeWord (x : Ticket) (k : Nat) : Word :=
  (List.range 4).foldl (fun w i => w ||| put (SMap.get x.hcode (4 * k + i) 0) (8 * i)) 0

/-- APPLIED_FRAME of a head. -/
def appliedFrameOf (x : Ticket) (n : Nat) : Nat := (SMap.get x.appliedFrame n (BitVec.allOnes 64)).toNat

/-- PENDING_LOG. -/
def pendingLogWord (s : State) : Word := putb s.tx.logValid 31 ||| put (if s.tx.logValid then s.tx.logKey else 0) 0

/-! ### IC (R361, R362) -/

/-- Word k of a 512-bit array. -/
def wordOf512 (v : BitVec 512) (k : Nat) : Word := BitVec.ofNat 32 (v.toNat / 2 ^ (32 * k))

/-- RUN of a target. -/
def runWord (x : Target) : Word := put x.stack.length 8 ||| put (running x) 0

/-- STATUS of a target. -/
def icStatusWord (s : State) (t : Nat) : Word :=
  let x := s.target t
  putb x.nestFull 3 ||| putb x.waiting 2 ||| putb x.armed 1 ||| putb (irqRequest s t) 0

/-- STACK[j], 0 the bottom. -/
def stackWord (x : Target) (j : Nat) : Word := match x.stack.reverse[j]? with
  | some c => put c.prio 16 ||| put c.source 0
  | none => 0

/-- GSTATE of a coalescing group: COUNT reads 0 in IDLE. -/
def gstateWord (x : CGroup) : Word :=
  match x.state with
  | .idle => 0
  | .holding => put 1 30 ||| put x.count 0
  | .released => put 2 30 ||| put x.count 0
  | .expired => put 3 30 ||| put x.count 0

/-! ### DW, DH, BT (R61, R62, R319) -/

/-- STATUS of a dictionary window. -/
def winStatusWord (x : Win) : Word := putb x.busy 31 ||| putb x.done 30 ||| put x.rspLen 0

/-- CTRL of a head: ENABLE reads 1 while the head is starting or running. -/
def headCtrlWord (h : Head) : Word := put h.pg 1 ||| putb (decide (h.phase ≠ .disabled)) 0

/-- POSITION of a head: the present pixel while it scans, else the last one scanned. -/
def positionWord (s : State) (n : Nat) : Word :=
  let h := s.head n
  if h.phase = .running then
    let p := h.raster.positionAt (lastLineOf s n + 1) (s.tick - h.anchor)
    put p.2 16 ||| put p.1 0
  else put h.lastPixel 16 ||| put h.lastLine 0

/-- STATUS of a head. -/
def headStatusWord (s : State) (n : Nat) : Word :=
  let h := s.head n
  put (SMap.get s.lastReject n 0) 16 ||| putb h.cfgRefused 3 ||| putb h.groupPending 2 ||| putb h.autoLatch 1 |||
    putb (decide (h.phase = .running)) 0

/-- STATE of a genlock (R55). -/
def GState.code : GState → Nat
  | .off => 0
  | .acquiring => 1
  | .locked => 2
  | .holdover => 3

/-! ### MC: schedule banks (R95) -/

/-- STATE of a bank (R87). -/
def BState.code : BState → Nat
  | .empty => 0
  | .loading => 1
  | .resident => 2
  | .live => 3
  | .switching => 4

/-- SB_STATUS. -/
def sbStatusWord (s : State) : Word :=
  let x := s.sched
  put x.code 24 ||| put x.detHead 16 ||| put x.detClass 8 ||| put (x.detChannel.getD 0) 6 ||| put x.lastBank 4 |||
    putb x.detChannel.isSome 3 ||| putb x.load.isSome 0

/-- SB_STATE. -/
def sbStateWord (s : State) : Word :=
  let live := liveBank s
  putb live.isNone 18 ||| put (live.getD 0) 16 |||
    (List.range 4).foldl (fun w b => w ||| put (s.bank b).state.code (4 * b)) 0

/-- SB_ID of a bank. -/
def sbIdWord (s : State) (b : Nat) : Word := match (s.bank b).image with
  | some i => put i.imageId 16 ||| put i.counterpart 0
  | none => 0xFFFFFFFF#32

/-- SB_INFO of a bank. -/
def sbInfoWord (s : State) (b : Nat) : Word := match (s.bank b).image with
  | some i => put i.headMask 16 ||| put i.channelMask 12 ||| putb i.clockSpire 8 ||| putb i.signed 0
  | none => 0

/-! ### MF (R116) -/

/-- XLAT_LOG_HI. -/
def xlatHiWord (x : XlatLog) : Word :=
  putb x.held 31 ||| putb x.write 30 ||| put x.level 28 ||| put x.req 24 ||| put x.ctx 16 ||| put (x.va / 2 ^ 32) 0

/-- STATUS of a channel. -/
def chStatusWord (c : Channel) : Word :=
  put (if c.reason = 0 then c.rate else 0) 16 ||| put c.sizeGib 8 ||| put c.refMult 4 ||| put c.reason 2 ||| putb c.hot 1 |||
    putb (decide (c.reason ≠ 0)) 0

/-- ECC_LOG_LO and ECC_LOG_HI of a channel. -/
def eccLoWord (c : Channel) : Word := BitVec.ofNat 32 (c.logDpa / 64 * 64)
def eccHiWord (c : Channel) : Word :=
  putb c.logHeld 31 ||| putb c.logUncorr 30 ||| put c.logReq 4 ||| put (c.logDpa / 2 ^ 32 % 16) 0

/-! ### SI (R253) -/

/-- LINK of a receive port. -/
def rxLinkWord (x : RxPort) : Word := putb x.lock 31 ||| put x.gear 16 ||| put x.rate 0

/-- SSTATUS of a stream. -/
def sstatusWord (x : Stream) : Word :=
  put x.lastReject 24 ||| putb x.unreserved 2 ||| putb x.ringOk 1 ||| putb x.active 0

/-- RACE_BOUND. -/
def raceBoundWord (x : Race) : Word := match x.bound with
  | some g => BitVec.ofNat 32 g
  | none => 0xFFFFFFFF#32

/-! ### FA, SA, CC (R141 to R143, R161, R186) -/

/-- QSTATE of a slot. -/
def qstateWord (s : State) (slot : Nat) : Word :=
  put (if isK slot then min (s.layer slot).keepAge 511 else 0) 8 ||| put (s.layer slot).queue.length 0

/-- A word of a completion record (R140). -/
def recWord (r : DoneRec) (k : Nat) : Word :=
  if k = 0 then r.tag
  else if k = 1 then put r.head 24 ||| put r.event 16 ||| put r.port 0
  else if k = 2 then lowWord r.frame.toNat else highWord r.frame.toNat

/-- STATUS of a port page. -/
def portStatusWord (s : State) (p : Nat) : Word :=
  put (SMap.get s.fa.result p 0) 28 ||| put (s.layer (portSlot s p)).queue.length 0

/-- Whether scaler n runs paired (R155). -/
def runsPaired (s : State) (n : Nat) : Bool :=
  decide (n % 2 = 0) && (match imageOn s (slotHead s (64 + n)) with
    | some i => (i.assignOf (64 + n)).paired
    | none => false)

/-- STATUS of a scaler. -/
def scalerStatusWord (s : State) (n : Nat) : Word :=
  let v := scalerView s n
  put (SMap.get s.lastReject (0x100 + n) 0) 24 ||| put ((if v.flat then 2 else v.lines) % 16) 12 |||
    putb (decide (n % 2 = 1) && runsPaired s (n - 1)) 2 ||| putb (runsPaired s n) 1 ||| putb (!v.flat) 0

/-- Planes of a head that are bound and enabled. -/
def planesOf (s : State) (n : Nat) (keep : Bool) : Nat :=
  (List.range 96).countP (fun slot => isK slot == keep && (layerView s slot).enabled && decide (slotHead s slot = n))

/-- INFO of a head. -/
def ccInfoWord (s : State) (n : Nat) : Word :=
  put (planesOf s n true) 16 ||| put (planesOf s n false) 8 ||| put (match headEntry s n with | some e => e.cluster | none => 0) 0

/-! ### SC (R214, R215) -/

/-- KEEP_STATUS. -/
def keepStatusWord (s : State) : Word :=
  putb s.keep.available 31 ||| putb s.keep.clockBad.isEmpty 30 ||| put s.keep.owner 16 ||| put s.keep.startCode 0

/-- FAULT_TILE of a head. -/
def faultTileWord (k : KeepHead) : Word :=
  putb k.tileValid 31 ||| put k.tileRegion 26 ||| put k.tileRow 16 ||| put k.tileCol 0

/-- FROZEN of 32 regions of a head. -/
def frozenWord (s : State) (n w : Nat) : Word :=
  (List.range 32).foldl (fun x i => x ||| putb (s.sig n (32 * w + i)).frozen i) 0

/-! ### OQ (R269) -/

/-- AUX_STATUS of a transmit port. -/
def auxStatusWord (x : TxPort) : Word := putb x.auxBusy 31 ||| put x.auxBytes 4 ||| put x.auxResult 0

/-- LAST_REJECT of an egress port: an enabled port whose link is up and cannot carry its streams reads 0x05 (R265). -/
def egressReject (s : State) (e : Nat) : Nat :=
  if portEnabled s e ∧ (s.txPort (e / 8) (txOf s e)).state = .up ∧ ¬ linkFits s (e / 8) (txOf s e) then 5 else (s.egress e).lastReject

/-- ESTAT of an egress port. -/
def estatWord (s : State) (e : Nat) : Word :=
  put (egressReject s e) 24 ||| put (slotsOf s e) 1 ||| putb (s.egress e).carry.isSome 0

/-! ### LA (R234) -/

/-- STATE of a lantern. -/
def LState.code : LState → Nat
  | .halted => 0
  | .running => 1
  | .waiting => 2
  | .fault => 3

/-- LSTATUS of a lantern. -/
def lstatusWord (s : State) (l : Nat) : Word :=
  let x := s.lantern l
  put x.code 24 ||| putb x.image 23 ||| put x.pc 8 ||| put (bankOf s l).length 4 ||| putb x.flag 3 ||| put x.state.code 0

/-! ### MC: start and temperature (R441, R466) -/

/-- START_STATUS. -/
def startStatusWord (s : State) : Word :=
  let x := s.start
  putb x.ready 31 ||| putb x.limp 30 ||| putb x.recovery 29 ||| put x.fwBank 28 ||| put x.step 24 |||
    put s.aon.straps.cascRole.toNat 22 ||| putb s.aon.straps.bootSrc 21 ||| putb x.ledgerErr 20 ||| put x.bootEntry 8 |||
    put x.failedOf10 4

/-- SENSOR[i]. -/
def sensorWord (s : State) (i : Nat) : Word :=
  putb (s.therm.excluded.contains i) 31 ||| put (BitVec.ofInt 12 (sensorTemp s i)).toNat 0

/-- MODE of spire mode (R447). -/
def SpireMode.code : SpireMode → Nat
  | .sustained => 0
  | .entering => 1
  | .spire => 2
  | .leaving => 3

/-- SPIRE_STATUS. -/
def spireStatusWord (s : State) : Word :=
  put s.therm.mode.code 30 ||| put s.therm.lastExit 20 ||| put s.therm.reason 16

/-! ### CV, BL, PM (R375, R394, R395, R405) -/

/-- STATUS of a check-value unit. -/
def cvStatusWord (s : State) (u : Nat) : Word :=
  let x := s.cvUnit u
  putb x.busy 31 ||| putb x.done 30 ||| putb x.doneEmpty 29 ||| putb x.mismatch 28 ||| putb (mcHoldsUnit s u) 27 |||
    put x.err 24 ||| put x.errIndex 16 ||| put x.firstMismatch 8 ||| put (x.runs % 256) 0

/-- STATUS of a blitter engine: PAUSED once no command executes. -/
def blStatusWord (s : State) (e : Nat) : Word :=
  let x := s.engine e
  putb (decide (queued s e ≠ 0)) 31 ||| putb x.stall.isSome 30 ||| putb (paused s e && x.current.isNone) 29 |||
    put (x.stall.getD 0) 16 ||| put (queued s e) 0

/-- FAULT_LOG of an engine. -/
def faultLogWord (x : BlitEng) : Word := putb x.logHeld 31 ||| put x.logFn 24 ||| put x.logResult 16 ||| put (x.logLine % 2 ^ 16) 0

/-- SUB_STATUS of a share. -/
def subStatusWord (s : State) (f e : Nat) : Word := put (s.share e f).result 30 ||| put (shareHeld s e f) 0

/-- CYC and CTRj of a block. -/
def cycOf (s : State) (k : Nat) : Nat := SMap.get s.pm.cyc k 0
def ctrOf (s : State) (k j : Nat) : Nat := SMap.get s.pm.ctr (k * 8 + j) 0

end Sys2Proof.Machine
end

