-- ==== Sys2Proof/Machine/ReadReg.lean ====
section
/-! DEFINITION. What a read of a register returns, register by register. A read changes no state (R327); the two reads that do,
CLAIM and OPEN, are commands of their own, and what the read of MARK_HI samples (R234) is kept here too. -/

namespace Sys2Proof.Machine

/-- HL and TX registers that are not stored values. -/
def readHost (s : State) (reader : Nat) (r : RegId) : Option Word :=
  match r.name with
  | .hlId => some (0x71601100#32 ||| put reader 0)
  | .hlSerialLo => some (Config.serial.truncate 32)
  | .hlSerialHi => some ((Config.serial >>> 32).truncate 32)
  | .hlFwVersion => some Config.fwVersion
  | .hlPLink => some (plinkWord s r.i)
  | .hlErrStatus => some (errStatusWord (s.errRec r.i))
  | .hlErrAddr => some (errAddrWord (s.errRec r.i))
  | .hlErrInfo => some (errInfoWord (s.errRec r.i))
  | .hlErrData => some (if (s.errRec r.i).held then (s.errRec r.i).data else 0)
  | .hlPba => some (putb (decide (r.j = 0) && s.hl.pba.getLsbD r.i) 0)
  | .txOpen | .txCommit | .txRollback => some 0
  | .txPool => some (BitVec.ofNat 32 (poolFree s))
  | .txPendingLog => some (pendingLogWord s)
  | .txTstate => some (tstateWord (s.ticket (r.i + 1)))
  | .txTmask => some (tmaskWord (s.ticket (r.i + 1)))
  | .txTentries => some (BitVec.ofNat 32 (s.ticket (r.i + 1)).draft.length)
  | .txHcode => some (hcodeWord (s.ticket (r.i + 1)) r.j)
  | .txAppliedLo => some (lowWord (appliedFrameOf (s.ticket (r.i + 1)) r.j))
  | .txAppliedHi => some (highWord (appliedFrameOf (s.ticket (r.i + 1)) r.j))
  | _ => none

/-- IC and dictionary-window registers. -/
def readConcentrator (s : State) (r : RegId) : Option Word :=
  let x := s.target r.i
  match r.name with
  | .icPend => some (wordOf512 x.pend r.j)
  | .icMask => some (wordOf512 x.mask r.j)
  | .icPendSet | .icPendClr | .icMaskSet | .icMaskClr | .icEoi => some 0
  | .icClaim => some (BitVec.ofNat 32 (if x.stack.length < 8 then bestSource s r.i else 0))
  | .icThreshold => some (BitVec.ofNat 32 x.threshold)
  | .icRun => some (runWord x)
  | .icCtrl => some (putb x.wakeUncoal 1 ||| putb x.asleep 0)
  | .icStatus => some (icStatusWord s r.i)
  | .icStack => some (stackWord x r.j)
  | .icPrio => some (byteWord x.prio r.j)
  | .icCoal => some (byteWord x.coal r.j)
  | .icGstate => some (gstateWord (s.cgroup r.i))
  | .dwRsp => some (BitVec.ofNat 32 (leAt (s.win r.i).rsp (4 * r.j) 4))
  | .dwSend => some 0
  | .dwStatus => some (winStatusWord (s.win r.i))
  | _ => none

/-- DH, BT, cascade and lantern registers. -/
def readTiming (s : State) (r : RegId) : Option Word :=
  match r.name with
  | .dhCtrl => some (headCtrlWord (s.head r.i))
  | .dhPstat => some (pstatWord s (.head (Fin.ofNat 16 r.i)))
  | .dhPosition => some (positionWord s r.i)
  | .dhStatus => some (headStatusWord s r.i)
  | .dhFrameLo => some (lowWord (s.head r.i).frame.toNat)
  | .dhFrameHi => some (highWord (s.head r.i).frame.toNat)
  | .dhLatchTickLo => some (lowWord (s.head r.i).latchTick.toNat)
  | .dhLatchTickHi => some (highWord (s.head r.i).latchTick.toNat)
  | .dhLastSlew => some (s.head r.i).lastSlew
  | .btTickLo => some (lowWord s.tick)
  | .btTickHi => some (highWord s.tick)
  | .btPstat => some (pstatWord s .bt)
  | .btPgStatus => some (BitVec.ofNat 32 (s.pgroup r.i).state.code)
  | .btFlareLevel => some s.flares.level
  | .caStatus => some (cascStatus s)
  | .caPstat => some (pstatWord s .cascade)
  | .caStepLo => some (lowWord s.casc.step.toNat)
  | .caStepHi => some (highWord s.casc.step.toNat)
  | .caOslLink => some (oslWord s r.i)
  | .caSegStatus => some (segStatus s r.i)
  | .laLstatus => some (lstatusWord s r.i)
  | .laFaultWord => some (s.lantern r.i).faultWord
  | .laMarkLo => some (lowWord ((s.lantern r.i).sample.getD (s.lantern r.i).mark).toNat)
  | .laMarkHi => some (highWord (s.lantern r.i).mark.toNat)
  | .laLg => some (lg s r.i r.j)
  | _ => none

/-- MC registers. -/
def readController (s : State) (r : RegId) : Option Word :=
  match r.name with
  | .mcSbStatus => some (sbStatusWord s)
  | .mcSbState => some (sbStateWord s)
  | .mcSbSelect => some (BitVec.ofNat 32 ((liveBank s).getD 0))
  | .mcSbId => some (sbIdWord s r.i)
  | .mcSbInfo => some (sbInfoWord s r.i)
  | .mcSbAlive => some (match (s.bank r.i).image with | some i => BitVec.ofNat 32 i.alive | none => 0)
  | .mcStartStatus => some (startStatusWord s)
  | .mcStartNo => some (BitVec.ofNat 32 s.start.startNo)
  | .mcFirstPixel => some (BitVec.ofNat 32 s.start.firstPixel)
  | .mcStep => some (SMap.get s.start.steps (r.i + 1) 0)
  | .mcThermStatus => some (thermStatus s)
  | .mcSensor => some (sensorWord s r.i)
  | .mcSpireStatus => some (spireStatusWord s)
  | .mcSpireSeconds => some (BitVec.ofNat 32 s.therm.spireSeconds)
  | .mcOpSeconds => some (BitVec.ofNat 32 (opSecondsNow s))
  | .mcHotSeconds => some (BitVec.ofNat 32 s.therm.hotSeconds)
  | .mcShed => some (s.therm.shed.zeroExtend 32)
  | .mcFaultStatus => some (faultStatus s)
  | .mcFaultClear => some 0
  | _ => none

/-- MF and SI registers. -/
def readFabric (s : State) (r : RegId) : Option Word :=
  match r.name with
  | .mfTlbInv => some (putb (tlbBusy s) 31)
  | .mfPinStat => some (s.reg r ||| put (pinsUsed s) 0)
  | .mfXlatLo => some (lowWord s.fabric.log.va)
  | .mfXlatHi => some (xlatHiWord s.fabric.log)
  | .mfChStatus => some (chStatusWord (s.channel r.i))
  | .mfEccLogLo => some (eccLoWord (s.channel r.i))
  | .mfEccLogHi => some (eccHiWord (s.channel r.i))
  | .siPstat => some (pstatWord s (.ingress (Fin.ofNat 18 r.i)))
  | .siLink => some (rxLinkWord (s.rx r.i))
  | .siSstatus => some (sstatusWord (s.stream r.i))
  | .siPos => some (posOf (s.stream r.i))
  | .siFrame => some (s.stream r.i).frame
  | .siFsTickLo => some (lowWord (s.stream r.i).fsTick.toNat)
  | .siFsTickHi => some (highWord (s.stream r.i).fsTick.toNat)
  | .siRaceBound => some (raceBoundWord (s.race r.i))
  | _ => none

/-- FA, SA, CC, SC and CP registers. -/
def readPixels (s : State) (r : RegId) : Option Word :=
  match r.name with
  | .faQstate => some (qstateWord s r.i)
  | .faShownTag => some (match (s.layer r.i).shown with | some b => b.tag | none => 0)
  | .ppDoorbell => some 0
  | .ppStatus => some (portStatusWord s r.i)
  | .faFence => some (fenceValue s r.i)
  | .faDoneRec => some (recWord (SMap.get s.fa.recs (r.i * 64 + r.j) {}) r.k)
  | .faDoneWr => some (BitVec.ofNat 32 (SMap.get s.fa.doneWr r.i 0))
  | .faDoneRd => some (BitVec.ofNat 32 (SMap.get s.fa.doneRd r.i 0))
  | .saStatus => some (scalerStatusWord s r.i)
  | .ccInfo => some (ccInfoWord s r.i)
  | .scKeepStatus => some (keepStatusWord s)
  | .scKstatus => some (kstatus s r.i)
  | .scFaultTile => some (faultTileWord (s.keepHead r.i))
  | .scFaultFrameLo => some (lowWord (s.keepHead r.i).tileFrame.toNat)
  | .scFaultFrameHi => some (highWord (s.keepHead r.i).tileFrame.toNat)
  | .scClear => some 0
  | .scResult => some (s.sig r.i r.j).result
  | .scSigFrameLo => some (lowWord (SMap.get s.keep.sigFrame r.i 0).toNat)
  | .scSigFrameHi => some (highWord (SMap.get s.keep.sigFrame r.i 0).toNat)
  | .scFrozen => some (frozenWord s r.i r.j)
  | .scShadowResult => some (if (sigView s r.i r.j).mode = 2 then (s.sig r.i r.j).shadowResult else 0)
  | .cpHstatus => some (put (SMap.get s.lastReject (0x200 + r.i) 0) 24)
  | _ => none

/-- OQ, CV, BL and PM registers. -/
def readEngines (s : State) (r : RegId) : Option Word :=
  match r.name with
  | .oqPstat => some (pstatWord s (.quad (Fin.ofNat 8 r.i)))
  | .oqLink => some (linkWord s r.i r.j)
  | .oqAuxCmd => some 0
  | .oqAuxStatus => some (auxStatusWord (s.txPort r.i r.j))
  | .epEstat => some (estatWord s r.i)
  | .cvStatus => some (cvStatusWord s r.i)
  | .cvResLo => some (lowWord (SMap.get (s.cvUnit r.i).results r.j 0).toNat)
  | .cvResHi => some (highWord (SMap.get (s.cvUnit r.i).results r.j 0).toNat)
  | .blStatus => some (blStatusWord s r.i)
  | .blSubmitSeq => some (s.engine r.i).submitSeq
  | .blDoneSeq => some (s.engine r.i).doneSeq
  | .blFaultLog => some (faultLogWord (s.engine r.i))
  | .blFaultSeq => some (s.engine r.i).faultSeq
  | .shSubmit => some 0
  | .shSubStatus => some (subStatusWord s r.i r.j)
  | .shLastSeq => some (s.share r.j r.i).lastSeq
  | .shDoneSeq => some (s.engine r.j).doneSeq
  | .shLastDone => some (put (s.share r.j r.i).lastDone 24)
  | .shLastDoneSeq => some (s.share r.j r.i).lastDoneSeq
  | .shCringWr => some (BitVec.ofNat 32 (s.share r.j r.i).cringWr)
  | .shCringRd => some (BitVec.ofNat 32 (s.share r.j r.i).cringRd)
  | .pmOvf => some ((ovfOf s r.i).zeroExtend 32)
  | .pmCycLo => some (lowWord (cycOf s r.i))
  | .pmCycHi => some (highWord (cycOf s r.i))
  | .pmCtrLo => some (lowWord (ctrOf s r.i r.j))
  | .pmCtrHi => some (highWord (ctrOf s r.i r.j))
  | .pmCycPreset | .pmPreset => some 0
  | _ => none

/-- What a direct read of a register returns: a status word where the register is one, else the held value of a group's member
(R286), else the stored value. `reader` is the reading function's number (R345). R127 settles the writes of a port page alone: a read
of it by a function that does not own the port returns the values all the same (DESIGN CHOICE, log entry 66). -/
def readReg (s : State) (reader : Nat) (r : RegId) : Word :=
  match readHost s reader r <|> readConcentrator s r <|> readTiming s r <|> readController s r <|> readFabric s r <|>
      readPixels s r <|> readEngines s r with
  | some w => w
  | none => heldOr s r

/-- What a read of the perf user page of block k returns (R403): the block, while the function is enabled there. -/
def readUserPage (s : State) (f k off : Nat) : Word :=
  if bit (s.reg (rg .pmUserEn k)) f ∧ off < 0x80 then
    match regAt ((rg .pmCtrl k).addr + off) with
    | some r => readReg s f r
    | none => 0
  else 0

/-- What a read through the draft alias returns: the drafted value, else as a direct read (R274). -/
def readAlias (s : State) (src : Source) (reader : Nat) (r : RegId) : Word :=
  match (heldTicket s src .opened).bind (fun t => (s.ticket t).draft.find? (fun w => w.addr = r.addr)) with
  | some w => w.value
  | none => readReg s reader r

/-! ### Reads by address (R327, R330) -/

/-- What a read of a dword of a source's BAR0 returns: a reserved address reads 0; the load window its bytes (R96); OPEN reads 0
through the alias (R272). The full reads of CLAIM and OPEN that change state are commands of their own. -/
def readDword (s : State) (src : Source) (a : Nat) : Word :=
  let reader := (Source.function src).getD 0
  match decode s src a with
  | .reg r => readReg s reader r
  | .window o => BitVec.ofNat 32 (leNat ((List.range 4).map (fun i => SMap.get s.sched.window (o + i) 0)))
  | .draftAlias x => (match decodePF s reader x with
    | .reg r => readAlias s src reader r
    | _ => 0)
  | .userPage k o => readUserPage s reader k o
  | .reserved => 0

/-- The byte at an offset of a source's BAR0. -/
def readByte (s : State) (src : Source) (a : Nat) : Byte := ((readDword s src (a / 4 * 4)) >>> (8 * (a % 4))).truncate 8

/-- Whether a read of BAR0 completes as Unsupported Request: it leaves the BAR, or the function answers no memory request (R330,
R342). -/
def readTurnedAway (s : State) (src : Source) (a n : Nat) : Bool := decide (barSize src < a + n) || unreached s src

/-- What a read of `n` bytes, 1, 2 or 4 of one register or any other number, returns: the addressed bytes; none where it is turned away
(R327, R329, R330). -/
def readBar0 (s : State) (src : Source) (a n : Nat) : Option (List Byte) :=
  if readTurnedAway s src a n then none else some ((List.range n).map (fun i => readByte s src (a + i)))

/-- What a read of a register leaves: MARK_HI samples MARK, and the next read of MARK_LO takes the sample (R234). -/
def readEffect (r : RegId) (s : State) : State :=
  match r.name with
  | .laMarkHi => s.setLantern r.i { s.lantern r.i with sample := some (s.lantern r.i).mark }
  | .laMarkLo => s.setLantern r.i { s.lantern r.i with sample := none }
  | _ => s

/-- What a read of BAR0 leaves beside its answer: its count, the link awake for the completion (R344, R397), and the effects of the
registers that it touches. -/
def afterBar0Read (src : Source) (a n : Nat) (s : State) : State :=
  if readTurnedAway s src a n then turnAway src s
  else (List.range ((a % 4 + n + 3) / 4)).foldl (fun s i => match decode s src (a / 4 * 4 + 4 * i) with
    | .reg r => readEffect r s
    | _ => s) (countBar0 src 1 s)

/-! ### Configuration space (R2, R320, R321) -/

/-- What the configuration space of a function shows, by what the spec says of it. -/
inductive CfgItem where
  | vendorId | deviceId | vfDeviceId | revisionId | classCode | subsystemVendorId | subsystemId | noSoftReset
  | firstVfOffset | vfStride | totalVfs | vfEnable
  | msixTableSize | msixTableOffset | msixPbaOffset | msixEnable | msixFunctionMask
  | bar2Sizes | bar2Size
  deriving DecidableEq, Repr

/-- The value of an item of a function's configuration space. MSI-X tables and BAR sizes are given in their own units: entries, byte
offsets in BAR0, and the set of offered sizes and the size in force as n of 2^n GiB. -/
def configItem (s : State) (f : Nat) (i : CfgItem) : Nat :=
  match i with
  | .vendorId => Config.pcieVendor.toNat
  | .deviceId => 0x7160
  | .vfDeviceId => 0x7160
  | .revisionId => 0x11
  | .classCode => 0x038000
  | .subsystemVendorId => Config.subsystemVendor.toNat
  | .subsystemId => Config.subsystemId.toNat
  | .noSoftReset => 1
  | .firstVfOffset => 1
  | .vfStride => 1
  | .totalVfs => 15
  | .vfEnable => (putb (s.hl.vfEnable.getLsbD (endpointOf f)) 0).toNat
  | .msixTableSize => 1
  | .msixTableOffset => 0x8000
  | .msixPbaOffset => 0x9000
  | .msixEnable => (putb (s.hl.msixEn.getLsbD f) 0).toNat
  | .msixFunctionMask => (putb (s.hl.fnMask.getLsbD f) 0).toNat
  | .bar2Sizes => 0xFF
  | .bar2Size => SMap.get s.hl.bar2 (endpointOf f) 4

/-- The first dword of every function's configuration space: the Device ID over the Vendor ID (R2, R321). -/
def configDword0 (s : State) (f : Nat) : Word := put (configItem s f .deviceId) 16 ||| put (configItem s f .vendorId) 0

end Sys2Proof.Machine
end

