-- ==== Sys2Proof/Machine/SchedCmds.lean ====
section
/-! DEFINITION. The commands of the schedule banks (R80, R87, R94 to R97, R439). -/

namespace Sys2Proof.Machine

/-- The bytes of the load window from its start (R96). -/
def windowBytes (s : State) (n : Nat) : List Byte := (List.range n).map (fun i => SMap.get s.sched.window i 0)

/-- The record that SB_LEN takes from the window; a length that no record has takes none. -/
def windowRecord (s : State) : List Byte :=
  let n := (s.reg (rg .mcSbLen)).toNat
  if n ≤ 2 ^ 24 then windowBytes s n else []

/-- A load begun (R80): check 1 is judged now, and the bank is LOADING where it passes. -/
def startLoad (b : Nat) (record : List Byte) (s : State) : State :=
  let x := s.bank b
  let busy := bankBusy s b
  let s := { s with sched := { s.sched with load := some { bank := b, record := record, busy := busy, before := x.state } } }
  if busy then s else s.setBank b { state := .loading, image := none }

/-- The result of a load or unload in SB_STATUS (R95). -/
def sbResult (b : Nat) (r : LoadReport) (s : State) : State :=
  { s with sched := { s.sched with
      code := r.code, detHead := r.head, detClass := r.cls, detChannel := r.channel, lastBank := b } }

/-- Whether a bank holds the sustained counterpart of the live image while spire MODE is not SUSTAINED (R449). -/
def spireHolds (s : State) (b : Nat) : Bool :=
  decide (s.therm.mode ≠ .sustained) &&
  (match liveImage s, (s.bank b).image with
   | some l, some x => !x.clockSpire && decide (x.imageId = l.counterpart)
   | _, _ => false)

/-- UNLOAD (R87). -/
def unload (b : Nat) (s : State) : State :=
  if (s.bank b).state = .resident ∧ ¬ spireHolds s b then sbResult b { code := 0 } (s.setBank b {})
  else sbResult b { code := 0x2C } s

/-- A write of SB_CMD as an access. -/
def sbAccess (b op : Nat) : Access := { off := (rg .mcSbCmd).addr, data := put b 2 ||| put op 0 }

/-- A write of SB_CMD (R95): the bank is kept, and the operation acts. -/
def sbCommand (src : Source) (b op : Nat) (s : State) : State :=
  if ¬ mayConfigure s src then refuse src 2 (sbAccess b op) s
  else if op = 3 then refuse src 4 (sbAccess b op) s
  else if s.sched.load.isSome then refuse src 3 (sbAccess b op) s
  else
    let s := s.setReg (rg .mcSbCmd) (put b 2)
    match op with
    | 1 => startLoad b (windowRecord s) s
    | 2 => unload b s
    | _ => s

def execSbLoad (src : Source) (bank : Fin 4) (s : State) : Result := request src s (sbCommand src bank.val 1)

def execSbUnload (src : Source) (bank : Fin 4) (s : State) : Result := request src s (sbCommand src bank.val 2)

/-- The first image that becomes LIVE (R439): heads that do not run apply their entries now, running ones at their next latch, and
lanterns follow R77. -/
def firstLive (b : Nat) (i : Image) (s : State) : State :=
  let s := s.setBank b { s.bank b with state := .live }
  let s := (List.range 16).foldl (fun s n =>
    if isRunning s n then
      let s := { s with sched := { s.sched with firstDue := setBit s.sched.firstDue n true } }
      if i.hasHead n then { s with sched := { s.sched with entryDue := setBit s.sched.entryDue n true } } else s
    else placeIdle i n (flushRecs (applyEntry n i s))) s
  rejudgeRings { s with sched := { s.sched with ingressDue := true } }

/-- The outcome of a load's checks: its report, and the image where it passes (R80). -/
def loadOutcome (s : State) (l : Load) : LoadReport × Option Image :=
  if l.busy then ({ code := 0x2C }, none) else judgeRecord s l.record.length l.record

/-- A load's end: the bank is RESIDENT, EMPTY or as it was; the first image becomes LIVE (R80, R439). -/
def finishLoad (l : Load) (s : State) : State :=
  let o := loadOutcome s l
  let s := { s with sched := { s.sched with load := none } }
  let s := sbResult l.bank o.1 s
  match o.2 with
  | some i =>
    let s := s.setBank l.bank { state := .resident, image := some i }
    if (liveBank s).isNone then firstLive l.bank i s else s
  | none => if l.busy then s else s.setBank l.bank {}

/-- LOAD_COMPLETE (R80): source 225 fires either way. -/
def loadComplete (s : State) : State :=
  match s.sched.load with
  | none => s
  | some l => raise 225 (finishLoad l s)

def execLoadComplete (s : State) : Result := powered s loadComplete

end Sys2Proof.Machine
end

