-- ==== Sys2Proof/Machine/RegWrite.lean ====
section
/-! DEFINITION. The register route (R25 to R28, R273, R274, R285 to R288, R327 to R341, R482): the judgement of a write by its
watch station, its landing, held groups and items, and the commands that write registers. -/

namespace Sys2Proof.Machine

/-! ### Why a write is not taken (R341) -/

/-- Why a watch station does not take a write: a cause of ACCESS_ERR, or a lock (R337). -/
inductive Reject where
  | cause (c : Nat)
  /-- An RWL field after the device lock. -/
  | locked
  /-- A WO1 field after its first write. -/
  | written
  deriving DecidableEq, Repr

/-- The registers that only SAFETY writes (R191, R462, R466). -/
def safetyOnly (r : RegId) : Bool :=
  match r.name with
  | .faCtrl | .faSubstColor | .faConstColor | .faFormat | .faPitch | .faPlane1 | .faBaseLo | .faBaseHi | .faSrcPos
  | .faSrcSize | .faDstPos | .faDstSize | .faMisc | .faClut | .faSubstCount | .faEventCount => isK r.i
  | .cpLctrl | .cpLcoef | .cpLpre01 | .cpLpre2 | .cpLpost01 | .cpLpost2 => isK r.cpSlot
  | .mfMirrorOf | .mfKeepWin | .scSelftest | .scKfallbackLo | .scKfallbackHi | .scBackdrop | .scClear
  | .scKrRect0 | .scKrRect1 | .scKrSafe | .scKrCtrl | .mcFaultnMask | .mcFaultnMaskHi | .mcFaultClear => true
  | .scSigRect0 | .scSigRect1 | .scExpect | .scSigCtrl => decide (r.j < 32)
  | .scFail => decide (r.j = 0)
  | .mfRootLo | .mfRootHi => decide (r.i = 63)
  | _ => false

/-- The registers of a page that a function has of its own, which its own writes reach whatever its classes (R324). -/
def ownPage (r : RegId) : Bool :=
  match r.name with
  | .hlErrStatus | .hlErrAddr | .hlMsix | .dwReq | .dwSend | .dwStatus | .shCmd | .shSubmit | .shCringLo | .shCringHi
  | .shCringCtrl | .shCringRd | .faDoneRd | .faDoneOvr
  | .icPendSet | .icPendClr | .icMaskSet | .icMaskClr | .icEoi | .icThreshold | .icCtrl | .icStatus | .icPrio | .icCoal => true
  | _ => false

/-- A port page's registers (R142): a write to any of them is judged by the port's owner first (R29, R127). -/
def portPage (r : RegId) : Bool :=
  match r.name with
  | .ppBufLo | .ppBufHi | .ppPlane1 | .ppFence | .ppFenceVal | .ppTag | .ppHostLo | .ppHostHi | .ppHostPitch | .ppDoorbell | .ppStatus => true
  | _ => false

/-- Whether the classes of a set may name a context in a register: 62 needs LOCAL, 63 SAFETY (R116, R375, R394). -/
def contextOk (c : Classes) (ctx : Nat) : Bool := (decide (ctx ≠ 62) || c.local_) && (decide (ctx ≠ 63) || c.safety)

/-- Whether a source is a function of another endpoint. -/
def otherEndpoint (src : Source) (k : Nat) : Bool := match src with
  | .fn f => decide (endpointOf f.val ≠ k)
  | _ => false

/-- The bits of USER_EN that belong to the VFs of an endpoint (R403). -/
def userBits (k : Nat) : Word := 0xFFFE#32 <<< (16 * k)

/-- Whether a source may write a coalescing group that a target owns (R361). -/
def mayOwnGroup (src : Source) (t : Nat) : Bool :=
  if t = 32 then isMc src
  else if t < 32 then (match src with | .fn f => isPF f.val && decide (endpointOf f.val = endpointOf t) | _ => false)
  else true

/-- Whether a source's classes permit a write of a value (R26, R341 cause 2). -/
def classAdmits (s : State) (src : Source) (r : RegId) (v : Word) : Bool :=
  let c := classesOf s src
  if ownPage r then true
  else if safetyOnly r then c.safety
  else
    match r.name with
    | .hlBar2Ctx => mayConfigure s src && !otherEndpoint src r.i && (decide (fld v 0 6 ≠ 63) || c.safety)
    | .hlBar2Base => mayConfigure s src && !otherEndpoint src r.i
    | .blShareCfg => mayConfigure s src && !otherEndpoint src (r.j / 16) && contextOk c (fld v 16 6)
    | .cvCtrl | .cvStatus | .cvAddrLo | .cvLength | .cvPitch | .cvLines | .cvCfg | .cvExpectLo | .cvExpectHi => mayScan s src
    | .cvAddrHi => mayScan s src && contextOk c (fld v 26 6)
    | .pmFreeze | .pmCtrl | .pmOvf | .pmEvtsel | .pmCycPreset | .pmPreset => mayScan s src
    | .pmUserEn => c.host
    | .faMisc => mayConfigure s src && (decide (fld v 0 6 ≠ 62) || c.local_)
    | .siRingCtx => mayConfigure s src && (decide (fld v 0 6 ≠ 62) || c.local_)
    | .faPortCfg => mayConfigure s src && (!isK (fld v 16 7) || c.safety)
    | .icGcfg => mayOwnGroup src (fld (s.reg r) 24 6) && (decide (33 < fld v 24 6) || mayOwnGroup src (fld v 24 6))
    | .icSel => (match src with
      | .fn f => decide (33 < fld v 0 6) || decide (fld v 0 6 = 33) || decide (fld v 0 6 < 32 ∧ endpointOf (fld v 0 6) = endpointOf f.val)
      | _ => true)
    | .oqAuxCmd => c.meets { local_ := true, host := true }
    | _ => mayConfigure s src

/-- Whether a value is taken at write time (R341 cause 4). -/
def valueAdmits (s : State) (r : RegId) (v : Word) : Bool :=
  match r.name with
  | .hlBar2Ctx => decide (fld v 0 6 ≠ 62)
  | .mcSbCmd => decide (fld v 0 2 ≠ 3)
  | .oqQctrl => decide (qctrlRefused s r.i v ≠ some 4)
  | .faPortCfg => decide (fld v 16 7 ≤ 95)
  | .siRingCtx => decide (fld v 0 6 ≠ 63)
  | .icGcfg => decide (fld v 24 6 ≤ 33)
  | .icSel => decide (fld v 0 6 ≤ 33)
  | .dwSend => decide (8 ≤ fld v 0 13) && decide (fld v 0 13 ≤ 4096)
  | _ => true

/-- Whether a lantern's memory takes writes of a source (R231, R232). -/
def lanternOpen (s : State) (src : Source) (l : Nat) : Bool :=
  let x := s.lantern l
  (!x.image || isMc src) && (decide (x.state = .halted) || decide (x.state = .fault))

/-- Whether the state of a block takes a write (R341 cause 3). -/
def stateAdmits (s : State) (src : Source) (r : RegId) (v : Word) : Bool :=
  match r.name with
  | .mcSbCmd => s.sched.load.isNone
  | .mfTlbInv => !tlbBusy s
  | .dhCtrl => !(bit v 0 && shedRefuses s r.i)
  | .laLctrl => !lctrlRefused s r.i v (isMc src)
  | .laLbudget | .laLstream | .laLg | .laProg => lanternOpen s src r.i
  | .siIqMode => (List.range 4).all (fun k => !bit (s.reg (rg .siPctrl (4 * r.i + k))) 0)
  | .caFwdRx => !bit (s.reg (rg .siPctrl r.i)) 0
  | .oqQctrl => decide (qctrlRefused s r.i v ≠ some 3)
  | .oqAuxCmd => !(s.txPort r.i r.j).auxBusy
  | .cvAddrLo | .cvAddrHi | .cvLength | .cvPitch | .cvLines | .cvCfg | .cvExpectLo | .cvExpectHi =>
    !(s.cvUnit r.i).busy && !mcHoldsUnit s r.i
  | .icGcfg => decide (fld v 24 6 = fld (s.reg r) 24 6) || decide ((s.cgroup r.i).state = .idle)
  | .dwReq => !(s.win r.i).busy
  | .dwSend => !(s.win r.i).busy && !(s.win r.i).done
  | _ => true

/-- The registers whose own operation judges them. -/
def judgesItself (r : RegId) : Bool :=
  match r.name with
  | .txCommit | .txRollback | .icEoi | .icPendSet | .icPendClr | .icMaskSet | .icMaskClr | .cvCtrl | .mcSpireCtrl
  | .mcFaultClear | .scClear | .ppDoorbell => true
  | _ => false

/-- Whether the register is of the draft alone (R88). -/
def draftOnly (r : RegId) : Bool := decide (r.name = .mcSbSelect)

/-- Whether SPIRE_CTRL is written with a request that R447 refuses by its value (R467). -/
def spireValueRefused (s : State) (v : Word) : Bool := bit v 0 && decide (s.therm.mode = .sustained) && (spireRefusal s).isSome

/-- The class or value that a register which judges itself refuses (R341 causes 2 and 4), for a write that reaches it by way of the
alias: it lacks its ticket only after these. -/
def ownCause (s : State) (src : Source) (r : RegId) (v : Word) : Option Nat :=
  match r.name with
  | .txCommit | .txRollback => (match ticketCause s src (fld v 0 3) with
    | some 2 => some 2
    | some 4 => some 4
    | _ => none)
  | .icPendSet | .icPendClr | .icMaskSet | .icMaskClr => if mayTarget src r.i then none else some 2
  | .icEoi =>
    if ¬ mayTarget src r.i then some 2
    else (match (s.target r.i).stack with
      | [] => none
      | c :: _ => if c.source = fld v 0 9 then none else some 4)
  | .cvCtrl => if mayScan s src then none else some 2
  | .mcSpireCtrl => if ¬ mayConfigure s src then some 2 else if spireValueRefused s v then some 4 else none
  | .mcFaultClear | .scClear => if carriesSafety s src then none else some 2
  | _ => none

/-- The causes of R341 that do not depend on the ticket, in their order: class, then value. -/
def classOrValue (s : State) (src : Source) (r : RegId) (v : Word) : Option Nat :=
  if judgesItself r then ownCause s src r v
  else if ¬ classAdmits s src r v then some 2
  else if ¬ valueAdmits s r v then some 4
  else none

/-- The judgement of a write by its watch station, in the order of R341: class, value, ticket, state, lock. `alias` is a write
through the draft alias; a direct one of a draft-only field lacks its ticket too. No RWL register holds an unlocked field, so every
write after the lock is one to a locked field (R11, R337). -/
def judgeWrite (s : State) (src : Source) (alias_ : Bool) (r : RegId) (v : Word) : Option Reject :=
  if judgesItself r ∧ ¬ alias_ then none
  else match classOrValue s src r v with
    | some c => some (.cause c)
    | none =>
      if alias_ ∧ (heldTicket s src .opened).isNone then some (.cause 5)
      else if ¬ alias_ ∧ draftOnly r then some (.cause 5)
      else if ¬ judgesItself r ∧ ¬ stateAdmits s src r v then some (.cause 3)
      else match r.name.row.kind with
        | .rwl => if s.dict.deviceLock then some .locked else none
        | .wo1 => if s.wo1.contains r.addr then some .written else none
        | _ => none

/-- A write that is not taken sets its flag in the writer's record (R337, R338). -/
def report (src : Source) (a : Access) (x : Reject) (s : State) : State :=
  match x with
  | .cause c => refuse src c a s
  | .locked => lockViolation src a s
  | .written => lockViolation src a s

/-! ### Values as stored -/

/-- A field that a value out of its range replaces. -/
def fixFld (v : Word) (lo w : Nat) (bad : Nat → Bool) (dst : Nat) : Word := if bad (fld v lo w) then withFld v lo w dst else v

/-- The weights of OPEN_WEIGHT: a written 0 is stored as 1 (R116). -/
def fixWeights (v : Word) : Word := (List.range 8).foldl (fun w i => fixFld w (4 * i) 4 (fun x => x = 0) 1) v

/-- A value as a register stores it, where its Meaning replaces one that is out of range. -/
def fixValue (s : State) (r : RegId) (v : Word) : Word :=
  match r.name with
  | .faCtrl => if isK r.i then withFld v 4 2 0 else fixFld v 4 2 (fun x => x = 3) 0
  | .faMisc => if isK r.i then withFld v 0 8 63 else withFld v 8 8 0
  | .cpHctrl => fixFld (fixFld v 10 2 (fun x => x = 3) 2) 8 2 (fun x => x = 3) 1
  | .cpLctrl =>
    let v := fixFld v 4 3 (fun x => 5 < x) 3
    if isK r.cpSlot then withFld v 0 2 0 else fixFld v 0 2 (fun x => x = 3) 0
  | .epEctrl => fixFld v 10 2 (fun x => x = 3) 2
  | .scKrCtrl => fixFld v 1 2 (fun x => x = 3) 0
  | .scSigCtrl =>
    let v := fixFld (fixFld v 24 8 (fun x => x = 0) 1) 8 2 (fun x => x = 3) 0
    if r.j < 32 then v else withFld v 16 2 0
  | .scSelftest => fixFld v 0 8 (fun x => x = 0) 16
  | .laLbudget => fixFld v 0 12 (fun x => x = 0) 64
  | .laLstream => if r.i < 16 then 0 else fixFld v 0 8 (fun x => 192 ≤ x) 0xFF
  | .mfOpenWeight => fixWeights v
  | .faFenceCfg => fixFld v 0 8 (fun x => 32 ≤ x) 0xFF
  | .btFlareOwner => fixFld v 0 5 (fun x => 20 ≤ x) 31
  | .txTimeout => BitVec.ofNat 32 (min 60000 (max 10 (fld v 0 16)))
  | .siSctrl => fixFld v 0 6 (fun x => ¬ (x = 0x1E ∨ x = 0x24 ∨ (0x2A ≤ x ∧ x ≤ 0x2E))) 0x2A
  | .blShareCfg => fixFld v 0 6 (fun x => 32 < x) 32
  | .shCringCtrl => withFld v 0 4 (min 12 (max 4 (fld v 0 4)))
  | .faDoneRd => BitVec.ofNat 32 (min v.toNat (SMap.get s.fa.doneWr r.i 0))
  | .oqQctrl => fixQctrl v
  | _ => v

/-- The whole value of a register as a write leaves it: its writable bits, as stored. -/
def stored (s : State) (r : RegId) (v : Word) : Word := fixValue s r (v &&& r.mask)

/-- The registers of a K slot that ignore writes (R188). -/
def ignoresWrites (r : RegId) : Bool :=
  match r.name with
  | .cpLcoef | .cpLpre01 | .cpLpre2 | .cpLpost01 | .cpLpost2 => isK r.cpSlot
  | _ => false

/-! ### Items and groups (R41, R44, R286, R287, R482) -/

/-- The slot that a write of CTRL moves from a head to another, with the old head (R482). -/
def movedSlot (s : State) (ws : List Wr) (n : Nat) : Option (Nat × Nat) :=
  (ctrlSlots ws).findSome? (fun slot => if slotHead s slot ≠ n then some (slot, slotHead s slot) else none)

/-- An item lands: it waits for the latch of the running head it belongs to, else it applies at once; a move from one running head to
another waits for the old one first (R41, R482). -/
def landItem (unit : Nat) (group : Bool) (ws : List Wr) (s : State) : State :=
  let s := pinSurfaces ws s
  match headOfItem s ws with
  | none => overlay ws s
  | some n =>
    let item : Item := { head := n, unit := unit, group := group, writes := ws, landed := s.tick }
    let moved := movedSlot s ws n
    if ¬ isRunning s n then applyAtOnce n ws s
    else match moved with
      | none => { s with items := s.items ++ [item] }
      | some m =>
        if isRunning s m.2 then { s with items := s.items ++ [{ item with oldHead := some m.2 }] }
        else { s.setLayer m.1 { s.layer m.1 with hidden := true } with items := s.items ++ [item] }

/-- A value held for its group's key; the moment it was first held is kept (R286 to R288). -/
def hold (r : RegId) (v : Word) (safety : Bool) (s : State) : State :=
  let since := match s.held.find? (fun e => e.1 = r.addr) with
    | some e => e.2.since
    | none => s.tick
  { s with held := SMap.ins s.held r.addr { value := v, safety := safety, since := since } }

/-- The held members of a group, as writes. -/
def heldMembers (s : State) (g : Grp) (i j : Nat) : List Wr :=
  (g.members i j).filterMap (fun r => match s.held.find? (fun e => e.1 = r.addr) with
    | some e => some { addr := r.addr, value := e.2.value, safety := e.2.safety }
    | none => none)

/-- A group's pending state cleared by its key (R288). -/
def clearPending (g : Grp) (i j : Nat) (s : State) : State :=
  let s := { s with pendGroups := s.pendGroups.filter (fun a => a ≠ (g.keyOf i j).addr) }
  if g = .timing then s.setHead i { s.head i with groupPending := false } else s

/-- The held values of a group taken from it. -/
def dropHeld (g : Grp) (i j : Nat) (s : State) : State :=
  { s with held := (g.members i j).foldl (fun m r => SMap.erase m r.addr) s.held }

/-- A key written: the held members and the key apply together (R286). -/
def completeGroup (g : Grp) (r : RegId) (v : Word) (safety : Bool) (s : State) : State :=
  let ws := heldMembers s g r.i r.j ++ [{ addr := r.addr, value := v, safety := safety }]
  let s := clearPending g r.i r.j (dropHeld g r.i r.j s)
  if g.draftable then landItem r.addr true ws s
  else match g with
    | .ring => writeStream r.i ws s
    | .cring => resetRing r.j r.i (overlay ws s)
    | _ => overlay ws s

/-! ### Persistent objects that registers mirror (R297) -/

/-- The key, and the bytes, of the persistent object that a register mirrors. -/
def persistKey (r : RegId) : Option (Nat × Nat) :=
  match r.name with
  | .txTimeout => some (0x610001, 2)
  | .siIqMode => some ((0x4020 + r.i) * 256, 1)
  | .oqQctrl => some ((0x22C0 + r.i) * 256 + 1, 4)
  | .oqDsc => some ((0x22C0 + r.i) * 256 + 2, 4)
  | .caLossPolicy => some (0x800004, 2)
  | .scSelftest => some (0x500300, 1)
  | _ => none

/-- FAULTN_MASK as the object has it: bit c for category c (R466, R467). -/
def faultMask (s : State) : Nat :=
  (s.reg (rg .mcFaultnMask)).toNat ||| (s.reg (rg .mcFaultnMaskHi)).toNat * 2 ^ 10

/-- A register-route write of a field that a persistent object mirrors is stored (R297). -/
def persist (src : Source) (r : RegId) (v : Word) (s : State) : State :=
  match src with
  | .node _ => s
  | _ =>
    match r.name with
    | .mcFaultnMask | .mcFaultnMaskHi => queueStore 0x710003 (leBytes 2 (faultMask s)) s
    | _ => match persistKey r with
      | some (k, n) => queueStore k (leBytes n v.toNat) s
      | none => s

/-! ### Registers whose write acts -/

/-- Clearing FAIL bits: category 3 clears when no FAIL bit that was set under ACTION FAULT_N is left (R208, R461). -/
def settleSignature (s : State) : State :=
  if (List.range 16).any (fun n => (List.range 64).any (fun r => failBit s n r && (s.sig n r).holds)) then s
  else clearCategory 3 s

/-- GCFG written: a HOLDING group is judged again by its new thresholds (R355, R361). -/
def writeGcfg (g : Nat) (v : Word) (s : State) : State :=
  let old := fld (s.reg (rg .icGcfg g)) 24 6
  let new := fld v 24 6
  let s1 := s.setReg (rg .icGcfg g) v
  let x := s1.cgroup g
  let s2 := if x.state = .holding ∧ criterion s1 g x.count (s1.tick - x.since) then releaseGroup new g x.count x.since s1 else s1
  settle old s (if old = new then s2 else settle new s s2)

/-- SEND of a dictionary window: the request waits for its response (R305, R319). -/
def sendWindow (f len : Nat) (s : State) : State := s.setWin f { s.win f with busy := true, len := len }

/-- STATUS.DONE of a window written 1. -/
def clearWindow (f : Nat) (s : State) : State := s.setWin f { s.win f with done := false }

/-- Sticky bits of an error record cleared (R338, R345). -/
def clearErr (f : Nat) (v : Word) (s : State) : State :=
  let e := s.errRec f
  s.setErrRec f { e with
    accessErr := e.accessErr && !bit v 31
    writeDropped := e.writeDropped && !bit v 30
    lockViolation := e.lockViolation && !bit v 29
    rsvWrites := (put e.rsvWrites 0 &&& ~~~v).toNat % 65536 }

/-- HELD of a record written 1 frees its capture. -/
def freeErr (f : Nat) (v : Word) (s : State) : State := if bit v 31 then s.setErrRec f { s.errRec f with held := false } else s

/-- A doorbell's OP at a port (R129). -/
def ringDoorbell (src : Source) (p : Nat) (v : Word) (s : State) : State :=
  match src with
  | .fn f => doorbell f.val p (badOp f.val p (fld v 0 4)) s
  | _ => s.bump (rg .faRejectCount) 0 16 1

/-- USER_EN written by a PF: the bits of its own VFs; a bit of another endpoint is ignored (R403, R404). -/
def writeUserEn (src : Source) (k : Nat) (a : Access) (v : Word) (s : State) : State :=
  match src with
  | .fn f =>
    let m := userBits (endpointOf f.val)
    let s' := s.setReg (rg .pmUserEn k) (mergeBits m (s.reg (rg .pmUserEn k)) v)
    if v &&& ~~~m &&& 0xFFFEFFFE#32 ≠ 0 then refuse src 2 a s' else s'
  | _ => s

/-- WRITE_DROPPED of a PSTAT written 1 (R61). -/
def clearDropped (b : PBlock) (v : Word) (s : State) : State :=
  if bit v 1 then { s with dropped := s.dropped.filter (fun x => x ≠ b) } else s

/-- DH and BT registers that act: CTRL, STATUS, PSTAT, FLARE_OWNER and a lantern's. -/
def actTiming (src : Source) (r : RegId) (v : Word) (s : State) : State :=
  match r.name with
  | .dhCtrl => landHeadCtrl r.i (fld v 1 3) (bit v 0) (if bit v 0 then clearShed r.i s else s)
  | .dhPstat => clearDropped (.head (Fin.ofNat 16 r.i)) v s
  | .dhStatus =>
    let h := s.head r.i
    s.setHead r.i { h with cfgRefused := h.cfgRefused && !bit v 3, autoLatch := h.autoLatch && !bit v 1 }
  | .btPstat => clearDropped .bt v s
  | .btFlareOwner => s.setReg r (stored s r v)
  | .laLctrl => landLctrl r.i v (isMc src) s
  | .laLg => setLg r.i r.j v s
  | .laProg => s.setReg r v
  | .caPstat => clearDropped .cascade v s
  | .caSegStatus => clearLate r.i v s
  | _ => s

/-- HL, TX, IC and dictionary-window registers that act. -/
def actHost (src : Source) (a : Access) (r : RegId) (v : Word) (s : State) : State :=
  match r.name with
  | .hlErrStatus => clearErr r.i v s
  | .hlErrAddr => freeErr r.i v s
  | .hlMsix => changeTarget r.i id (s.setReg r v)
  | .txCommit => commit src (fld v 0 3) (BitVec.ofNat 16 (fld v 16 16)) s
  | .txRollback => rollback src (fld v 0 3) s
  | .txTimeout => s.setReg r (stored s r v)
  | .txPendingLog => if bit v 31 then { s with tx := { s.tx with logValid := false } } else s
  | .txPendingCount => s.setReg r (s.reg r &&& ~~~v)
  | .icPendSet => pendSetAt src r.i r.j a v s
  | .icPendClr => pendClrAt src r.i r.j a v s
  | .icMaskSet => maskSetAt src r.i r.j a v s
  | .icMaskClr => maskClrAt src r.i r.j a v s
  | .icEoi => eoiAt src r.i a (fld v 0 9) s
  | .icThreshold | .icCtrl | .icStatus | .icPrio | .icCoal =>
    if mayTarget src r.i then targetWrite r.i r v s else refuse src 2 a s
  | .icGcfg => writeGcfg r.i (v &&& r.mask) s
  | .icSel => s.setReg r (v &&& r.mask)
  | .dwSend => sendWindow r.i (fld v 0 13) s
  | .dwStatus => if bit v 30 then clearWindow r.i s else s
  | _ => s

/-- The other registers that act. What a log reads once HELD has been written 1 the spec leaves open: XLAT_LOG reads 0, and ECC_LOG keeps
the DPA and requester of its last event (DESIGN CHOICE, log entry 66). -/
def actUnits (src : Source) (a : Access) (r : RegId) (v : Word) (s : State) : State :=
  match r.name with
  | .mcSbCmd => sbCommand src (fld v 2 2) (fld v 0 2) s
  | .mcSpireCtrl => spireRequest src (bit v 0) s
  | .mcFaultClear => faultClear src (BitVec.ofNat 11 (v.toNat % 2048)) s
  | .mfTlbInv => tlbInv src (fld v 0 6) (bit v 30) s
  | .mfXlatHi => if bit v 31 then { s with fabric := { s.fabric with log := {} } } else s
  | .mfEccLogHi => if bit v 31 then s.setChannel r.i { s.channel r.i with logHeld := false, logUncorr := false } else s
  | .siPctrl => landPctrl r.i (bit v 0) s
  | .siPstat => clearDropped (.ingress (Fin.ofNat 18 r.i)) v s
  | .siSctrl => writeStream r.i [{ addr := r.addr, value := stored s r v, safety := carriesSafety s src }] s
  | .ppDoorbell => ringDoorbell src r.i v s
  | .faDoneRd => { s with fa := { s.fa with doneRd := SMap.set s.fa.doneRd r.i (stored s r v).toNat 0 } }
  | .scKstatus => if bit v 31 then s.setKeepHead r.i { s.keepHead r.i with clearRefused := false } else s
  | .scClear => keepClear src r.i (BitVec.ofNat 4 (fld v 0 4)) s
  | .oqQctrl => landQctrl r.i v s
  | .oqPstat => clearDropped (.quad (Fin.ofNat 8 r.i)) v s
  | .oqAuxCmd => startAux r.i r.j (fld v 0 4) (fld v 4 4) s
  | .cvCtrl => cvCtrl src r.i v s
  | .cvStatus => landCvStatus r.i v s
  | .blFaultLog => if bit v 31 then s.setEngine r.i { s.engine r.i with logHeld := false } else s
  | .shSubmit => if bit v 0 then submit r.i r.j s else s
  | .shCringRd => cringRdWrite r.i r.j v.toNat s
  | .pmFreeze => freeze src (bit v 0) s
  | .pmUserEn => writeUserEn src r.i a v s
  | .pmCycPreset => presetCounter src r.i 8 v s
  | .pmPreset => presetCounter src r.i r.j v s
  | _ => s

/-! ### Landing -/

/-- What a plain write brings with it beside its value. -/
def storeReg (r : RegId) (v : Word) (s : State) : State :=
  match r.name with
  | .shCringCtrl => resetRing r.j r.i (s.setReg r v)
  | _ => s.setReg r v

/-- 1s written clear the written bits. -/
def clearBits (r : RegId) (v : Word) (s : State) : State :=
  match r.name with
  | .pmOvf => clearOvf r.i v s
  | .scFail => settleSignature (s.setReg r (s.reg r &&& ~~~v))
  | _ => s.setReg r (s.reg r &&& ~~~(v &&& r.mask))

/-- Whether the monitor's counters count by a register: the core clock in progress goes on by what it held (R401). -/
def selectsEvents (r : RegId) : Bool := match r.name with | .pmCtrl | .pmEvtsel => true | _ => false

/-- A write that has been admitted takes its effect (R11, R12, R285, R286). -/
def landReg (src : Source) (safety : Bool) (a : Access) (r : RegId) (v : Word) (s : State) : State :=
  if ignoresWrites r then s
  else match r.name.row.kind with
    | .ro => s
    | .rw => persist src r (stored s r v) (storeReg r (stored s r v) (if selectsEvents r then holdPm r s else s))
    | .rwl => persist src r (stored s r v) (storeReg r (stored s r v) s)
    | .w1c => clearBits r v s
    | .wo1 => { s.setReg r (stored s r v) with wo1 := s.wo1 ++ [r.addr] }
    | .latched => persist src r (stored s r v) (landItem r.addr false [{ addr := r.addr, value := stored s r v, safety := safety }] s)
    | .mem _ => hold r (stored s r v) safety s
    | .key g => completeGroup g r (stored s r v) safety s
    | .act => persist src r (stored s r v) (actUnits src a r v (actHost src a r v (actTiming src r v s)))

/-- The posted block of a register (R334). -/
def blockOfReg (r : RegId) : PBlock :=
  match r.name with
  | .siPctrl => .ingress (Fin.ofNat 18 r.i)
  | .siIqMode => .ingress (Fin.ofNat 18 (4 * r.i))
  | .oqQctrl | .oqDsc | .oqAuxCmd | .oqAuxAddr | .oqAuxData => .quad (Fin.ofNat 8 r.i)
  | .epEctrl => .quad (Fin.ofNat 8 (r.i / 8))
  | .caLossPolicy | .caOslLoss | .caRelayDrop | .caSend | .caSegCols | .caSegCtrl | .caSegStatus | .caFwdRx => .cascade
  | .laLctrl | .laLbudget | .laLstream | .laLate | .laLg | .laProg => if r.i < 16 then .head (Fin.ofNat 16 r.i) else .bt
  | .dhCtrl | .dhHTiming | .dhHSync | .dhVTiming | .dhVSync | .dhPairDiv | .dhLatchLine | .dhPgOffset | .dhStatus =>
    .head (Fin.ofNat 16 r.i)
  | _ => .bt

/-- BUSY of a block. -/
def blockBusy (s : State) (b : PBlock) : Bool := s.posted.any (fun x => x.block = b)

/-- A write dropped (R335). -/
def dropWrite (src : Source) (b : PBlock) (a : Access) (s : State) : State :=
  let s := if s.dropped.contains b then s else { s with dropped := s.dropped ++ [b] }
  match Source.function src with
  | some f => errEvent f 2 0 a s
  | none => s

/-- An admitted write: posted, dropped, or landed. `mine` are the blocks that this access has posted to (R335). The dictionary agent's
writes come by objects, and wait there; a write of the MC by the register route is dropped as any other. -/
def deliver (src : Source) (a : Access) (r : RegId) (v : Word) (s : State) (mine : List PBlock) : State × List PBlock :=
  if r.name.row.posted then
    let b := blockOfReg r
    if blockBusy s b && !mine.contains b then (dropWrite src b a s, mine)
    else ({ s with posted := s.posted ++ [{ block := b, reg := r, value := v, src := src, safety := carriesSafety s src }] }, b :: mine)
  else (landReg src (carriesSafety s src) a r v s, mine)

/-! ### Taking a write (R274, R328 to R331) -/

/-- Whether a source is the function that owns a valid port (R29, R127). -/
def ownsPort (s : State) (src : Source) (p : Nat) : Bool := match src with
  | .fn f => mayUsePort s f.val p
  | _ => false

/-- A write of a register, 32 bits wide. -/
def writeReg (src : Source) (a : Access) (r : RegId) (v : Word) (s : State) (mine : List PBlock) : State × List PBlock :=
  if portPage r then
    (if r.name ≠ .ppDoorbell ∧ ¬ ownsPort s src r.i then s.bump (rg .faRejectCount) 0 16 1
     else landReg src (carriesSafety s src) a r v s, mine)
  else if r.name.row.kind = .ro then (s, mine)
  else match judgeWrite s src false r v with
    | some x => (report src a x s, mine)
    | none => deliver src a r v s mine

/-- A write through the draft alias (R274): a ·T field enters the draft, another register is written as directly. -/
def writeAlias (src : Source) (a : Access) (r : RegId) (v : Word) (s : State) (mine : List PBlock) : State × List PBlock :=
  if r.name.row.kind = .ro then
    (if (heldTicket s src .opened).isNone then refuse src 5 a s else s, mine)
  else match judgeWrite s src true r v with
    | some x => (report src a x s, mine)
    | none =>
      if r.isT then
        match heldTicket s src .opened with
        | some t => (if ignoresWrites r then s
            else enterDraft t { addr := r.addr, value := stored s r v, safety := carriesSafety s src } s, mine)
        | none => (s, mine)
      else writeReg src a r v s mine

/-- The bytes of the load window that a dword writes (R96): every enabled byte, while no load runs. -/
def writeWindow (src : Source) (a : Access) (off : Nat) (d : WDword) (s : State) : State :=
  if s.sched.load.isSome then refuse src 3 a s
  else { s with sched := { s.sched with window := (List.range 4).foldl (fun m i =>
      if d.be.getLsbD i then SMap.set m (off + i) (BitVec.ofNat 8 (d.data.toNat / 2 ^ (8 * i))) 0 else m) s.sched.window } }

/-- A write to a reserved address (R330). -/
def writeReserved (src : Source) (s : State) : State := match Source.function src with
  | some f => countReserved f s
  | none => s

/-- One dword of a write (R328 to R330). A write with partial byte enables to a port page that is invalid or another's sets ACCESS_ERR
with cause 1 and is not counted in REJECT_COUNT: which check comes first the spec does not say (DESIGN CHOICE, log entry 80). -/
def writeDword (src : Source) (off : Nat) (d : WDword) (s : State) (mine : List PBlock) : State × List PBlock :=
  let a : Access := { off := off, be := d.be, data := d.data }
  match decode s src off with
  | .reserved => (writeReserved src s, mine)
  | .window o => (writeWindow src a o d s, mine)
  | .userPage _ _ => (refuse src (if d.be = 15 then 2 else 1) a s, mine)
  | .reg r => if d.be ≠ 15 then (refuse src 1 a s, mine) else writeReg src a r d.data s mine
  | .draftAlias x => match decodePF s (match src with | .fn f => f.val | _ => 0) x with
    | .reg r => if d.be ≠ 15 then (refuse src 1 a s, mine) else writeAlias src a r d.data s mine
    | _ => (writeReserved src s, mine)

/-- The dwords of a write in ascending order (R329); one beyond the BAR is outside the device (R330). -/
def writeDwords (src : Source) : Nat → List WDword → State → List PBlock → State
  | _, [], s, _ => s
  | off, d :: t, s, mine =>
    if barSize src ≤ off then turnAway src s
    else match writeDword src off d s mine with
      | (s, mine) => writeDwords src (off + 4) t s mine

/-! ### The commands -/

/-- REGISTER_WRITE (R329, R331). -/
def execRegisterWrite (src : Source) (addr : Nat) (dwords : List WDword) (s : State) : Result :=
  request src s (fun s => writeDwords src (addr / 4 * 4) dwords s [])

/-- GROUP_KEY_WRITE (R286): a full write of a group's key; an address that is no key is left alone. -/
def groupKeyWrite (src : Source) (addr : Nat) (v : Word) (s : State) : State :=
  match decode s src addr with
  | .reg r => match r.name.row.kind with
    | .key _ => (writeReg src { off := addr, data := v } r v s []).1
    | _ => s
  | _ => s

def execGroupKeyWrite (src : Source) (addr : Nat) (data : Word) (s : State) : Result :=
  request src s (groupKeyWrite src addr data)

/-- RESERVED_WRITE (R330): a write to reserved addresses. -/
def execReservedWrite (f : Fin 32) (addr : Nat) (dwords : List WDword) (s : State) : Result :=
  request (.fn f) s (fun s => writeDwords (.fn f) (addr / 4 * 4) dwords s [])

/-- DRAFT_WRITE (R274, R275): a write at an offset of the draft alias, which lies beyond a VF's BAR0 (R324, R330). -/
def draftWrite (src : Source) (off : Nat) (v : Word) (s : State) : State :=
  let a : Access := { off := 0x8000000 + off, data := v }
  match src with
  | .fn f => if isPF f.val then (match decodePF s f.val off with
      | .reg r => (writeAlias src a r v s []).1
      | _ => writeReserved src s) else turnAway src s
  | _ => match decodePF s 0 off with
    | .reg r => (writeAlias src a r v s []).1
    | _ => s

def execDraftWrite (src : Source) (off : Nat) (data : Word) (s : State) : Result :=
  request src s (draftWrite src off data)

/-! ### Commands that write one posted register (R334, R335) -/

/-- One register written whole by the register route: judged, then posted, or dropped while its block is busy. -/
def writeOne (src : Source) (a : Access) (r : RegId) (v : Word) (s : State) : State := (writeReg src a r v s []).1

/-- DH.CTRL written (R41, R61). -/
def headCtrlWrite (src : Source) (n pg : Nat) (enable : Bool) (s : State) : State :=
  writeOne src (headCtrlAccess n pg enable) (rg .dhCtrl n) (headCtrlAccess n pg enable).data s

/-- HEAD_ENABLE (R41, R456). -/
def execHeadEnable (src : Source) (n : Fin 16) (pg : BitVec 3) (s : State) : Result :=
  request src s (headCtrlWrite src n.val pg.toNat true)

/-- HEAD_DISABLE (R41). -/
def execHeadDisable (src : Source) (n : Fin 16) (pg : BitVec 3) (s : State) : Result :=
  request src s (headCtrlWrite src n.val pg.toNat false)

/-- QCTRL written (R269). -/
def qctrlWrite (src : Source) (q : Nat) (v : Word) (s : State) : State :=
  writeOne src { off := (rg .oqQctrl q).addr, data := v } (rg .oqQctrl q) v s

/-- QUAD_ENABLE (R264): a write with ENABLE 1. -/
def execQuadEnable (src : Source) (q : Fin 8) (value : Word) (s : State) : Result :=
  request src s (qctrlWrite src q.val (withFld value 0 1 1))

/-- QUAD_DISABLE (R266): a write with ENABLE 0. -/
def execQuadDisable (src : Source) (q : Fin 8) (value : Word) (s : State) : Result :=
  request src s (qctrlWrite src q.val (withFld value 0 1 0))

/-- RETRAIN (R269): a write with RETRAIN 1. -/
def execRetrain (src : Source) (q : Fin 8) (value : Word) (s : State) : Result :=
  request src s (qctrlWrite src q.val (withFld value 2 1 1))

/-- AUX_CMD as written. -/
def auxWord (op lenM1 : Nat) : Word := put lenM1 4 ||| put op 0

/-- AUX_CMD written (R267, R270). -/
def auxWrite (src : Source) (q t op lenM1 : Nat) (s : State) : State :=
  writeOne src { off := (rg .oqAuxCmd q t).addr, data := auxWord op lenM1 } (rg .oqAuxCmd q t) (auxWord op lenM1) s

def execAuxNativeWrite (src : Source) (q : Fin 8) (t : Fin 4) (lenM1 : BitVec 4) (s : State) : Result :=
  request src s (auxWrite src q.val t.val 1 lenM1.toNat)

def execAuxNativeRead (src : Source) (q : Fin 8) (t : Fin 4) (lenM1 : BitVec 4) (s : State) : Result :=
  request src s (auxWrite src q.val t.val 2 lenM1.toNat)

def execAuxI2cWrite (src : Source) (q : Fin 8) (t : Fin 4) (lenM1 : BitVec 4) (s : State) : Result :=
  request src s (auxWrite src q.val t.val 3 lenM1.toNat)

def execAuxI2cRead (src : Source) (q : Fin 8) (t : Fin 4) (lenM1 : BitVec 4) (s : State) : Result :=
  request src s (auxWrite src q.val t.val 4 lenM1.toNat)

/-- PCTRL written (R253, R254). -/
def pctrlWrite (src : Source) (p : Nat) (on : Bool) (s : State) : State :=
  writeOne src { off := (rg .siPctrl p).addr, data := putb on 0 } (rg .siPctrl p) (putb on 0) s

def execPctrlEnable (src : Source) (p : Fin 18) (s : State) : Result := request src s (pctrlWrite src p.val true)

def execPctrlDisable (src : Source) (p : Fin 18) (s : State) : Result := request src s (pctrlWrite src p.val false)

/-- LCTRL written (R231, R232, R234). -/
def lctrlWrite (src : Source) (l : Nat) (v : Word) (s : State) : State := writeOne src (lctrlAccess l v) (rg .laLctrl l) v s

/-- LANTERN_START (R231, R232). -/
def execLanternStart (src : Source) (l : Fin 20) (len : BitVec 10) (entry : BitVec 9) (s : State) : Result :=
  request src s (lctrlWrite src l.val (lctrlWord true false len entry))

/-- LANTERN_STOP (R232). -/
def execLanternStop (src : Source) (l : Fin 20) (len : BitVec 10) (entry : BitVec 9) (s : State) : Result :=
  request src s (lctrlWrite src l.val (lctrlWord false true len entry))

/-- WRITE_LAND (R334): every write that the block has taken lands, and BUSY clears. -/
def writeLand (b : PBlock) (s : State) : State :=
  let l := s.posted.filter (fun x => x.block = b)
  let s := { s with posted := s.posted.filter (fun x => x.block ≠ b) }
  l.foldl (fun s x => landReg x.src x.safety { off := x.reg.addr, data := x.value } x.reg x.value s) s

/-! ### GROUP_PENDING (R288) -/

/-- The interval after which a group is pending: a natural frame of its head's applied raster, or 20 ms. -/
def pendingTicks (s : State) (ws : List Wr) : Nat :=
  match headOfItem s ws with
  | some n => if (s.head n).timingApplied then (appliedRaster s n).period else 20 * ticksPerMs
  | none => 20 * ticksPerMs

/-- When the oldest held member of a group was held. -/
def heldSince (s : State) (g : Grp) (i j : Nat) : Option Nat :=
  ((g.members i j).filterMap (fun r => (s.held.find? (fun e => e.1 = r.addr)).map (fun e => e.2.since))).foldl
    (fun m t => match m with | none => some t | some u => some (min u t)) none

/-- A group whose members have been held for its interval without a key write. -/
def groupPending (key : Nat) (s : State) : State :=
  match regAt key with
  | none => s
  | some r => match r.name.row.kind with
    | .key g => (match heldSince s g r.i r.j with
      | none => s
      | some t =>
        if s.pendGroups.contains key then s
        else
          let s := toTick (t + pendingTicks s (heldMembers s g r.i r.j ++ [{ addr := key, value := s.reg r, safety := false }])) s
          let s := { s with pendGroups := s.pendGroups ++ [key] }
          let s := if g = .timing then s.setHead r.i { s.head r.i with groupPending := true } else s
          let s := if s.tx.logValid then s else { s with tx := { s.tx with logValid := true, logKey := key % 2 ^ 24 } }
          raise 217 (s.bump (rg .txPendingCount) 0 16 1))
    | _ => s

def execGroupPending (key : Nat) (s : State) : Result := powered s (groupPending key)

end Sys2Proof.Machine
end

