-- ==== Sys2Proof/Machine/DictOps.lean ====
section
/-! DEFINITION. Reading and writing an object of the dictionary, whoever asks (R26, R294 to R299, R311, R315, R317): the checks in
their order, the values, and what each object's own rule does. -/

namespace Sys2Proof.Machine

/-! ### Abort codes (R315) -/

/-- The abort codes. -/
inductive Abort where
  | ok | noObject | noSub | classDenied | readOnly | writeOnly | locked | written | badLength | badRange | noTransaction | rejected
  | authFailed | replayed | busy | timeout | policy
  deriving DecidableEq, Repr

def Abort.code : Abort → Nat
  | .ok => 0
  | .noObject => 0x10001
  | .noSub => 0x10002
  | .classDenied => 0x20001
  | .readOnly => 0x20002
  | .writeOnly => 0x20003
  | .locked => 0x20004
  | .written => 0x20005
  | .badLength => 0x30001
  | .badRange => 0x30002
  | .noTransaction => 0x40001
  | .rejected => 0x40002
  | .authFailed => 0x50001
  | .replayed => 0x50002
  | .busy => 0x60001
  | .timeout => 0x60002
  | .policy => 0x60003

/-- The abort code of a write that its watch station does not take (R25). -/
def Reject.abort : Reject → Abort
  | .cause 2 => .classDenied
  | .cause 3 => .busy
  | .cause 4 => .badRange
  | .cause 5 => .noTransaction
  | .cause _ => .badLength
  | .locked => .locked
  | .written => .written

/-! ### Key slots (R306, R307, R317) -/

/-- The last value that a counter or floor has. -/
def counterMax : Nat := 0xFFFFFFFF

def rxFloorOf (s : State) (j : Nat) : Nat := SMap.get s.dict.floor j 0
def txCounterOf (s : State) (j : Nat) : Nat := SMap.get s.dict.counter j 0

/-- A slot whose counter is exhausted (R306). -/
def slotExhausted (s : State) (j : Nat) : Bool := decide (counterMax ≤ txCounterOf s j) || decide (counterMax ≤ rxFloorOf s j)

/-- A provisioned slot that is not revoked. -/
def slotUsable (s : State) (j : Nat) : Bool := decide (j < 16) && Config.nodeKeyProvisioned j && !s.aon.fuseRevoked.getLsbD j

/-- KEY_STATE (R317). -/
def keyState (s : State) (j : Nat) : Nat :=
  if s.aon.fuseRevoked.getLsbD j then 2
  else if ¬ Config.nodeKeyProvisioned j then 0
  else if slotExhausted s j then 3 else 1

/-! ### Values -/

/-- A kept object's value. -/
def keptValue (s : State) (index sub size dflt : Nat) : List Byte := leBytes size (s.obj index sub dflt)

/-- "Thiward". -/
def vendorName : List Byte := [0x54, 0x68, 0x69, 0x77, 0x61, 0x72, 0x64]

/-- Whether a diagnostic session is open: a source's, or the JTAG port's (R26, R299). -/
def sessionOpen (s : State) : Bool := s.dict.session.isSome || s.dict.jtag

/-- What an object with its own rule reads. -/
def ownValue (s : State) : Own → List Byte
  | .vendor => vendorName
  | .part => leBytes 2 0x7160
  | .stepping => leBytes 1 0x11
  | .serial => leBytes 8 Config.serial.toNat
  | .fwVersion => leBytes 4 Config.fwVersion.toNat
  | .fwBank => leBytes 1 s.start.fwBank
  | .ledger => ledgerBytes (storedLedger s)
  | .deviceLock => leBytes 1 (if s.dict.deviceLock then 1 else 0)
  | .challenge => s.drawn 16 Config.randomByte
  | .session => leBytes 1 (if sessionOpen s then 1 else 0)
  | .keyState j => leBytes 1 (keyState s j)
  | .keyRevoke j => leBytes 1 (if s.aon.fuseRevoked.getLsbD j then 1 else 0)
  | .rxFloor j => leBytes 4 (rxFloorOf s j)
  | .rxErr i => leBytes 4 (SMap.get s.dict.rxErr i 0)
  | .lastGood q => leBytes 1 (SMap.get s.aon.nor.lastGood q 0)
  | .keepOwner => leBytes 1 s.keep.owner
  | .bankState b => leBytes 1 (s.bank b).state.code
  | .liveBank => leBytes 1 ((liveBank s).getD 0)
  | .imageId b => leBytes 2 (fld (sbIdWord s b) 16 16)
  | .counterpartId b => leBytes 2 (fld (sbIdWord s b) 0 16)
  | .clockMode b => leBytes 1 (fld (sbInfoWord s b) 8 1)
  | .headMask b => leBytes 2 (fld (sbInfoWord s b) 16 16)
  | .channelMask b => leBytes 1 (fld (sbInfoWord s b) 12 4)
  | .sensors => (List.range 12).flatMap (fun i => leBytes 2 (BitVec.ofInt 16 (sensorTemp s i)).toNat)
  | .spireReq => leBytes 1 (fld (s.reg (rg .mcSpireCtrl)) 0 1)
  | .shed => leBytes 2 s.therm.shed.toNat
  | .faultnMask => leBytes 2 (faultMask s)
  | .shutdownCause => [s.aon.shutdownCause]
  | .role => leBytes 1 s.casc.role
  | .cvCtrl u => leBytes 4 (s.reg (rg .cvCtrl u)).toNat
  | .freeze => leBytes 1 (fld (s.reg (rg .pmFreeze)) 0 1)
  | .userEn k => leBytes 4 (s.reg (rg .pmUserEn k)).toNat
  | .noShadow => leBytes 4 0
  | .ledgerClear | .response | .keepClear _ | .failClear _ | .load _ | .faultClear | .doneClear _ | .ovfClear _ => []

/-- What reading such an object changes: the challenge is replaced (R299), the shutdown cause is recorded and cleared (R457). -/
def afterRead (o : Own) (s : State) : State :=
  match o with
  | .challenge => { s.draw 16 with dict := { s.dict with challenge := some (s.drawn 16 Config.randomByte) } }
  | .shutdownCause => takeCause s
  | _ => s

/-- The words of registers as bytes, drafted values where `draft` is asked for (R311). An object is read whole: what a register read has
sampled is not for it. -/
def regBytes (s : State) (src : Source) (draft : Bool) (l : List RegId) : List Byte :=
  l.flatMap (fun r => leBytes 4 (if draft then readAlias s src 0 r else readReg (readEffect (rg .laMarkLo r.i) s) 0 r).toNat)

/-- An object's value, and the state after the read. -/
def objValue (src : Source) (index sub : Nat) (txn : Bool) (d : ObjDef) (s : State) : State × List Byte :=
  match d.val with
  | .regs l => (s, (regBytes s src (txn && decide (d.acc = .rwt)) l).take d.size)
  | .kept v => (s, keptValue s index sub d.size v)
  | .own .liveBank =>
    let drafted := if txn then (heldTicket s src .opened).bind (fun t => draftBank (s.ticket t).draft) else none
    (s, leBytes 1 (drafted.getD ((liveBank s).getD 0)))
  | .own o => (afterRead o s, ownValue s o)

/-! ### Reads (R26, R294, R296, R311) -/

/-- A read of an object: the first check that fails, else the value. -/
def readObject (src : Source) (index sub : Nat) (txn : Bool) (s : State) : State × Abort × List Byte :=
  match findObj index sub with
  | .noObject => (s, .noObject, [])
  | .noSub => (s, .noSub, [])
  | .highest n rd =>
    if ¬ (classesOf s src).meets rd then (s, .classDenied, [])
    else if txn ∧ (heldTicket s src .opened).isNone then (s, .noTransaction, [])
    else (s, .ok, leBytes 1 n)
  | .obj d =>
    if d.acc = .wo then (s, .writeOnly, [])
    else if ¬ (classesOf s src).meets d.rd then (s, .classDenied, [])
    else if txn ∧ (heldTicket s src .opened).isNone then (s, .noTransaction, [])
    else match objValue src index sub txn d s with
      | (s, l) => (s, .ok, l)

/-! ### The checks of a write (R26, R295, R296, R298, R311, R315) -/

/-- The registers of an object. -/
def ObjDef.mirrored (d : ObjDef) : List RegId := match d.val with | .regs l => l | _ => []

/-- Whether a WONCE object has been written (R296): the MC writes KEEP_OWNER and ROLE at every start. -/
def writtenOnce (s : State) (d : ObjDef) : Bool :=
  match d.val with
  | .own .deviceLock => s.dict.deviceLock
  | .own (.keyRevoke j) => s.aon.fuseRevoked.getLsbD j
  | .own .keepOwner => true
  | .own .role => true
  | _ => false

/-- Bits of FAIL that a source may clear (R216). -/
def failAllowed (s : State) (src : Source) (v : Nat) : Bool :=
  (decide (v % 2 ^ 32 = 0) || carriesSafety s src) && (decide (v / 2 ^ 32 = 0) || mayConfigure s src)

/-- Whether a source may write USER_EN with a value: bits of its own endpoint's functions alone (R403, R406). -/
def userAllowed (src : Source) (v : Nat) : Bool :=
  match src with
  | .fn f => decide (BitVec.ofNat 32 v &&& ~~~userBits (endpointOf f.val) &&& 0xFFFEFFFE#32 = 0)
  | _ => false

/-- Whether the class of a source permits the value it writes, where that depends on the value. -/
def valueAllowed (s : State) (src : Source) (d : ObjDef) (l : List Byte) : Bool :=
  match d.val with
  | .own (.failClear _) => failAllowed s src (leNat l)
  | .own (.userEn _) => userAllowed src (leNat l)
  | _ => true

/-- Checks 4 to 6 of R315: class, access kind, lock and write-once. -/
def writeGate (s : State) (src : Source) (d : ObjDef) : Abort :=
  if d.acc = .ro then .readOnly
  else if ¬ (classesOf s src).meets d.wr then .classDenied
  else if d.mirrored.any safetyOnly ∧ ¬ carriesSafety s src then .classDenied
  else if d.mirrored.any ignoresWrites then .readOnly
  else if d.acc = .lockable ∧ s.dict.deviceLock then .locked
  else if d.acc = .wonce ∧ writtenOnce s d then .written
  else .ok

/-- Whether a value's length is its type's; the length of a DOMAIN is judged with its range (R295). -/
def lengthOk (d : ObjDef) (n : Nat) : Bool := d.domain || decide (n = d.size)

/-- Whether a DOMAIN has its object's stated length: a record to load has any length up to the window's (R97, R295). -/
def domainOk (d : ObjDef) (n : Nat) : Bool :=
  match d.val with
  | .own (.load _) => decide (n ≤ d.size)
  | _ => !d.domain || decide (n = d.size)

/-- An identifier of CAN as it goes on the bus (R317). -/
def canIdent (v : Nat) : Nat × Nat := if v / 2 ^ 31 % 2 = 1 then (1, v % 2 ^ 29) else (0, v % 2 ^ 11)

/-- Whether an identifier equals another of its controller. -/
def identTaken (s : State) (index sub v : Nat) : Bool :=
  ([3, 4, 5].filter (fun k => k ≠ sub)).any (fun k => canIdent (s.obj index k (keptDefault index k)) = canIdent v)

/-- Each object's stated range (R97, R190, R293, R299, R317, R376, R426, R442, R467). -/
def rangeOk (s : State) (index sub v : Nat) : Bool :=
  if index = 0x1100 then (if sub = 3 then decide (v = 1) else decide (v ≤ 1))
  else if index = 0x1203 then decide (v = 1)
  else if index = 0x1212 then decide (v = 0)
  else if among index 0x1220 16 then decide (v = 1)
  else if index = 0x5001 then decide (v = 0) || decide (v = 0x10) || among v 0x40 16 || decide (v = 0x80)
  else if index = 0x6001 then decide (s.obj 0x6001 0 0 ≤ v)
  else if index = 0x6002 then decide (v ≤ 1)
  else if index = 0x6010 then decide (v ≤ 3)
  else if index = 0x6100 then decide (10 ≤ v) && decide (v ≤ 60000)
  else if index = 0x7000 then decide (90 ≤ v) && decide (v ≤ 120)
  else if index = 0x7010 then decide (v ≤ 1)
  else if index = 0x7100 ∧ sub = 3 then decide (v &&& 0xF8DF = 0)
  else if index = 0x8000 ∧ sub = 2 then decide (v ≤ 2)
  else if among index 0x9000 2 then
    (match sub with
     | 1 => decide (v ≤ 1)
     | 2 => among (v / 256 % 256) 1 10 && among (v % 256) 1 20 && decide (v / 65536 ≤ 1)
     | 3 | 4 | 5 => !identTaken s index sub v
     | _ => true)
  else if among index 0x9010 2 ∧ sub = 1 then decide (v ≤ 1)
  else if index = 0xA0F0 ∧ sub = 1 then decide (v ≤ 1)
  else if among index 0xA100 8 ∧ sub = 3 then decide (v = 1)
  else if index = 0xB000 then decide (v = 6400) || decide (v = 7500) || decide (v = 8533)
  else if among index 0xB010 4 ∧ sub = 1 then decide (v ≤ 1)
  else true

/-! ### Network interfaces (R317) -/

/-- The objects whose values an interface takes when it is enabled: its own, and those of the notifications. -/
def ifaceKeys (i : Nat) : List Nat :=
  (if i < 2 then (List.range 6).map (fun k => (0x9000 + i) * 256 + k + 1)
   else (List.range 5).map (fun k => (0x9010 + (i - 2)) * 256 + k + 1)) ++
  (List.range 4).map (fun k => 0x9030 * 256 + k + 1)

/-- An interface enabled with the values its objects have, or disabled. -/
def setIface (i : Nat) (on : Bool) (s : State) : State :=
  let cfg := (ifaceKeys i).foldl (fun m k => SMap.set m k (SMap.get s.dict.values k []) []) []
  { s with dict := { s.dict with ifaces := SMap.set s.dict.ifaces i (if on then { on := true, cfg := cfg } else {}) {} } }

/-- An object's value as an interface took it. -/
def ifaceObj (s : State) (i index sub : Nat) : Nat :=
  match SMap.get (SMap.get s.dict.ifaces i {}).cfg (index * 256 + sub) [] with
  | [] => keptDefault index sub
  | l => leNat l

/-- A kept object written: enabling an interface acts. -/
def setKept (index sub : Nat) (l : List Byte) (s : State) : State :=
  let s := { s with dict := { s.dict with values := SMap.set s.dict.values (index * 256 + sub) l [] } }
  if among index 0x9000 2 ∧ sub = 1 then setIface (index - 0x9000) (decide (leNat l = 1)) s
  else if among index 0x9010 2 ∧ sub = 1 then setIface (2 + (index - 0x9010)) (decide (leNat l = 1)) s
  else s

/-! ### The diagnostic session and the key slots (R299, R312) -/

/-- The session ends: its transaction is rolled back, and source 324 fires. -/
def endSession (s : State) : State :=
  if ¬ sessionOpen s then s
  else
    let s := loseHolder 0xC0 s
    raise 324 { s with dict := { s.dict with session := none, jtag := false } }

/-- A session opened for a source, or for the JTAG port where none is named; one that is open ends. -/
def openSession (who : Option Source) (s : State) : State :=
  let s := endSession s
  raise 324 { s with dict := { s.dict with session := who, jtag := who.isNone, sessionTick := s.tick } }

/-- The lockout after three wrong responses, 10 s. -/
def lockoutTicks : Nat := 10000 * ticksPerMs

/-- Whether responses are refused now. -/
def lockedOut (s : State) : Bool := match s.dict.lockout with
  | some t => decide (s.tick < t + lockoutTicks)
  | none => false

/-- A response to the challenge; `who` as for `openSession`. -/
def diagRespond (who : Option Source) (l : List Byte) (s : State) : State × Abort :=
  if lockedOut s then (s, .busy)
  else match s.dict.challenge with
    | none => (s, .authFailed)
    | some c =>
      let s := { s with dict := { s.dict with challenge := none, lockout := none } }
      if cmac Config.diagKey c = l then
        (openSession who { s with dict := { s.dict with wrong := 0 } }, .ok)
      else if s.dict.wrong = 2 then ({ s with dict := { s.dict with wrong := 0, lockout := some s.tick } }, .authFailed)
      else ({ s with dict := { s.dict with wrong := s.dict.wrong + 1 } }, .authFailed)

/-- A slot revoked for good; its node is lost as a holder and as the source of a session (R312). -/
def revokeKey (j : Nat) (s : State) : State :=
  let s := { s with aon := { s.aon with fuseRevoked := setBit s.aon.fuseRevoked j true } }
  let s := loseHolder (0x40 + j) s
  match s.dict.session with
  | some (.node k) => if k.val = j then endSession s else s
  | _ => s

/-- LEDGER_CLEAR's change of the ledger (R442). -/
def clearLedger (s : State) : State :=
  s.setLedger (fun l => { l with chFails := [], quadFails := []
                                 entries := (List.range 16).foldl (fun m x => SMap.upd m x {} (fun e => { e with result := 4 })) l.entries })

/-! ### Objects written by their own rule -/

/-- CTRL of a check-value unit (R365, R375, R376): refused whole where the register route would refuse a part of it. -/
def writeCv (src : Source) (u : Nat) (v : Word) (s : State) : State × Abort :=
  let start := bit v 31 && !bit v 30
  let x := s.cvUnit u
  if mcHoldsUnit s u ∨ (x.busy ∧ (start ∨ fld v 0 6 ≠ fld (s.reg (rg .cvCtrl u)) 0 6)) ∨ (¬ x.busy ∧ start ∧ ¬ cvIdle s u) then (s, .busy)
  else (cvCtrl src u v s, .ok)

/-- FAIL bits cleared (R216, R461). -/
def clearFails (n v : Nat) (s : State) : State :=
  [0, 1].foldl (fun s j => clearBits (rg .scFail n j) (BitVec.ofNat 32 (v / 2 ^ (32 * j))) s) s

/-- USER_EN by the dictionary (R406): the bits of the endpoint's own functions. -/
def writeUser (src : Source) (k : Nat) (v : Word) (s : State) : State :=
  match src with
  | .fn f => s.setReg (rg .pmUserEn k) (mergeBits (userBits (endpointOf f.val)) (s.reg (rg .pmUserEn k)) v)
  | _ => s

/-- SPIRE_REQ (R447, R467). -/
def writeSpire (on : Bool) (s : State) : State × Abort :=
  match (if on then spireEnter s else spireExit s) with
  | (s, none) => (s, .ok)
  | (s, some 3) => (s, .busy)
  | (s, some _) => (s, .policy)

/-- FAULTN_MASK written (R467). -/
def writeFaultMask (v : Nat) (s : State) : State :=
  (s.setReg (rg .mcFaultnMask) (BitVec.ofNat 32 (v % 1024))).setReg (rg .mcFaultnMaskHi) (BitVec.ofNat 32 (v / 1024))

/-- A write of an object with its own rule, all of whose other checks have passed. -/
def ownWrite (src : Source) (o : Own) (l : List Byte) (s : State) : State × Abort :=
  let v := leNat l
  match o with
  | .ledgerClear => (let s := clearLedger s; { s with dict := { s.dict with ledgerDue := true } }, .ok)
  | .deviceLock => ({ s with dict := { s.dict with deviceLock := true } }, .ok)
  | .response => diagRespond (some src) l s
  | .session => (endSession s, .ok)
  | .keyRevoke j => (revokeKey j s, .ok)
  | .keepClear n => (s.setKeepHead n { s.keepHead n with clearReq := (s.keepHead n).clearReq ||| BitVec.ofNat 4 v }, .ok)
  | .failClear n => (clearFails n v s, .ok)
  | .load b => if s.sched.load.isSome then (s, .busy) else (startLoad b l s, .ok)
  | .spireReq => writeSpire (decide (v = 1)) s
  | .faultClear => (clearFaults (BitVec.ofNat 11 v) s, .ok)
  | .faultnMask => (writeFaultMask v s, .ok)
  | .doneClear u => (landCvStatus u (putb true 30) s, .ok)
  | .cvCtrl u => writeCv src u (BitVec.ofNat 32 v) s
  | .ovfClear k => (clearOvf k (BitVec.ofNat 32 v) s, .ok)
  | .freeze => (writePm (rg .pmFreeze) (put v 0) s, .ok)
  | .userEn k => (writeUser src k (BitVec.ofNat 32 v) s, .ok)
  | _ => (s, .readOnly)

/-! ### Objects that registers mirror (R25, R311) -/

/-- The words that a value writes to the registers of an object. -/
def mirrorWords (l : List RegId) (v : List Byte) : List (RegId × Word) := l.zip (wordsOf v)

/-- The place of a refusal in the order of R315: class, lock, range, transaction, busy. -/
def Reject.rank : Reject → Nat
  | .cause 2 => 0
  | .locked => 1
  | .written => 1
  | .cause 1 => 2
  | .cause 4 => 3
  | .cause 5 => 4
  | .cause _ => 5

/-- The refusal of some registers that comes first in the order of R315. `txn` asks for an OPEN ticket. -/
def firstReject (s : State) (src : Source) (txn : Bool) (ws : List (RegId × Word)) : Option Reject :=
  (ws.filterMap (fun w => judgeWrite s src txn w.1 w.2)).foldl (fun m x => match m with
    | none => some x
    | some y => if x.rank < y.rank then some x else some y) none

/-- The agent's own delivery of a write that is taken; the agent has waited for BUSY to clear, and none is dropped (R335). -/
def agentWrite (src : Source) (s : State) (w : RegId × Word) : State :=
  if w.1.name.row.posted then
    { s with posted := s.posted ++ [{ block := blockOfReg w.1, reg := w.1, value := w.2, src := src, safety := carriesSafety s src }] }
  else landReg src (carriesSafety s src) { off := w.1.addr, data := w.2 } w.1 w.2 s

/-- Whether a write of an object must wait for BUSY of a posted block to clear before its station takes it (R335); a drafted one is
not posted. -/
def mustWait (s : State) (index sub : Nat) (txn : Bool) : Bool :=
  match findObj index sub with
  | .obj d => (match d.val with
    | .regs rs => !(txn && decide (d.acc = .rwt)) && rs.any (fun r => r.name.row.posted && blockBusy s (blockOfReg r))
    | _ => false)
  | _ => false

/-- A transactional write of mirrored registers: one draft entry per word. -/
def draftWords (src : Source) (t : Nat) (ws : List (RegId × Word)) (s : State) : State :=
  ws.foldl (fun s w => enterDraft t { addr := w.1.addr, value := stored s w.1 w.2, safety := carriesSafety s src } s) s

/-- Whether a write enables a shed head that may not be (R456). -/
def shedWrite (s : State) (ws : List (RegId × Word)) : Bool :=
  ws.any (fun w => decide (w.1.name = .dhCtrl) && bit w.2 0 && shedRefuses s w.1.i)

/-- A write of mirrored registers, judged as the register route judges it, in the order of R315: with TXN 1 it needs an OPEN ticket,
and enters its draft where the object is RWT; every other write is direct (R311). A shed head's ENABLE is refused by policy (R456). -/
def writeMirror (src : Source) (txn rwt : Bool) (ws : List (RegId × Word)) (s : State) : State × Abort :=
  match firstReject s src txn ws with
  | some x => (s, if x = .cause 3 ∧ shedWrite s ws then .policy else x.abort)
  | none => match (if txn && rwt then heldTicket s src .opened else none) with
    | some t => (draftWords src t ws s, .ok)
    | none => (ws.foldl (agentWrite src) s, .ok)

/-- LIVE_BANK is written in a transaction alone (R88, R97). -/
def draftSelect (src : Source) (t v : Nat) (s : State) : State :=
  enterDraft t { addr := (rg .mcSbSelect).addr, value := BitVec.ofNat 32 v, safety := carriesSafety s src } s

/-! ### Writes -/

/-- The effect of a write whose object, class, kind, lock, length and range have passed: the transaction comes before what is busy
(R315). -/
def performWrite (src : Source) (index sub : Nat) (txn : Bool) (d : ObjDef) (l : List Byte) (s : State) : State × Abort :=
  match d.val with
  | .regs rs => writeMirror src txn (decide (d.acc = .rwt)) (mirrorWords rs l) s
  | v =>
    let ticket := heldTicket s src .opened
    if txn ∧ ticket.isNone then (s, .noTransaction)
    else match v with
      | .own .liveBank => match (if txn then ticket else none) with
        | some t => (draftSelect src t (leNat l) s, .ok)
        | none => (s, .noTransaction)
      | .own o => ownWrite src o l s
      | _ => (setKept index sub l s, .ok)

/-- The value that the store takes for a persistent object: the live value that a write leaves (R297). -/
def storedValue (d : ObjDef) (l : List Byte) (s : State) : List Byte :=
  match d.val with
  | .regs rs => (mirrorWords rs l).flatMap (fun w => leBytes 4 (stored s w.1 w.2).toNat) |>.take d.size
  | .kept _ => l
  | .own o => ownValue s o

/-- What became of a write: its code, and whether its answer waits for the store (R297). -/
structure Written where
  abort : Abort
  stored : Bool := false
  /-- Whether the answer waits for VDD_CORE, as an entry into spire mode has begun (R447). -/
  spire : Bool := false
  deriving DecidableEq, Repr

/-- A write of an object: the checks of R315 in order, then its effect; a persistent value is put in line for the store. -/
def writeObject (src : Source) (index sub : Nat) (txn : Bool) (l : List Byte) (s : State) : State × Written :=
  match findObj index sub with
  | .noObject => (s, { abort := .noObject })
  | .noSub => (s, { abort := .noSub })
  | .highest _ _ => (s, { abort := .readOnly })
  | .obj d =>
    match writeGate s src d with
    | .ok =>
      if ¬ valueAllowed s src d l then (s, { abort := .classDenied })
      else if ¬ lengthOk d l.length then (s, { abort := .badLength })
      else if ¬ domainOk d l.length ∨ ¬ rangeOk s index sub (leNat (l.take 8)) then (s, { abort := .badRange })
      else match performWrite src index sub txn d l s with
        | (s', .ok) =>
          if d.store ∧ ¬ (txn ∧ d.acc = .rwt) then (queueStore (index * 256 + sub) (storedValue d l s') s', { abort := .ok, stored := true })
          else (s', { abort := .ok, spire := entered s s' })
        | (s', a) => (s', { abort := a })
    | a => (s, { abort := a })

end Sys2Proof.Machine
end

