-- ==== Sys2Proof/Machine/DictCmds.lean ====
section
/-! DEFINITION. The commands of the object dictionary (R297 to R314, R319): messages and their authentication, segmented transfers,
transactions, the window, the store, the diagnostic session and notifications. -/

namespace Sys2Proof.Machine

/-! ### Messages (R300, R303 to R306) -/

/-- The first eight bytes of a message. -/
def headerBytes (op flags seq sub index len : Nat) : List Byte :=
  leBytes 1 op ++ leBytes 1 flags ++ leBytes 1 seq ++ leBytes 1 sub ++ leBytes 2 index ++ leBytes 2 len

end Sys2Proof.Machine

namespace Sys2Proof

open Sys2Proof.Machine

/-- The transport byte: 1 CAN, 2 UDP. -/
def Via.transport : Via → Nat
  | .can _ _ => 1
  | .udp _ _ => 2
  | .window _ => 0

/-- The interface of a transport: CAN 0 and 1, 10BASE-T1S, SGMII. -/
def Via.iface : Via → Nat
  | .can c _ => c.val
  | .udp p _ => 2 + p.val
  | .window _ => 0

/-- The bytes of a received message from OP to the end of DATA. -/
def Msg.body (m : Msg) : List Byte :=
  headerBytes m.op.toNat m.flags.toNat m.seq.toNat m.sub.toNat m.index.toNat m.len ++ m.data

/-- AUTH, TXN and LAST. -/
def Msg.auth (m : Msg) : Bool := m.flags.getLsbD 0
def Msg.txn (m : Msg) : Bool := m.flags.getLsbD 1
def Msg.last (m : Msg) : Bool := m.flags.getLsbD 2

/-- The trailer of a message that carries one. -/
def Msg.seal (m : Msg) : Option Trailer := if m.auth then m.trailer else none

/-- The bytes that a message takes. -/
def Msg.total (m : Msg) : Nat := 8 + m.data.length + (if m.seal.isSome then 16 else 0)

/-- The slot of a network message's source. -/
def Msg.slot (m : Msg) : Option Nat := match m.via with
  | .window _ => none
  | _ => m.seal.map (fun t => t.keySlot.toNat)

/-- The source that a message's classes come from. -/
def Msg.source (m : Msg) : Source := match m.via with
  | .window f => .fn f
  | _ => .node (Fin.ofNat 16 (m.slot.getD 0))

/-- Two messages of one source: a slot on one transport, or a function's window. -/
def Msg.sameSource (a b : Msg) : Bool := decide (a.source = b.source) && decide (a.via.transport = b.via.transport)

def Msg.byUdp (m : Msg) : Bool := decide (m.via.transport = 2)

/-- OFFSET and MAX of a segment request. -/
def Msg.offset (m : Msg) : Nat := leAt m.data 0 4
def Msg.maxBytes (m : Msg) : Nat := leAt m.data 4 2

end Sys2Proof

namespace Sys2Proof.Machine

/-! ### Seals and capacities (R303 to R306) -/

/-- KEY_SLOT, its zero bytes and COUNTER. -/
def trailerHead (slot counter : Nat) : List Byte := leBytes 1 slot ++ leBytes 3 0 ++ leBytes 4 counter

/-- The direction and transport bytes and the bytes that a MAC covers; the first 8 bytes of the CMAC. -/
def macBytes (slot direction transport : Nat) (l : List Byte) : List Byte :=
  (cmac (Config.nodeKey slot) (leBytes 1 direction ++ leBytes 1 transport ++ l)).take 8

/-- An object of CAN controller c as the controller took it. -/
def canObj (s : State) (c sub : Nat) : Nat := ifaceObj s c (0x9000 + c) sub

/-- An object of Ethernet port p as the port took it. -/
def ethObj (s : State) (p sub : Nat) : Nat := ifaceObj s (2 + p) (0x9010 + p) sub

/-- Whether a CAN controller is set to CAN XL (R317). -/
def canXl (s : State) (c : Nat) : Bool := decide (canObj s c 2 / 65536 = 1)

/-- The bytes that a message on a transport holds (R303 to R305). -/
def capacityOf (s : State) (v : Via) : Nat :=
  match v with
  | .can c _ => if canXl s c.val then 2048 else 64
  | .udp _ _ => 1472
  | .window _ => 4096

/-- Where a CAN controller sends under an identifier: RSP_ID (4) or NTF_ID (5), with SDT and AF on CAN XL (R303). -/
def canDest (s : State) (c idSub : Nat) : Dest :=
  .can c (BitVec.ofNat 32 (canObj s c idSub))
    (if canXl s c then some (canObj s c 6 / 2 ^ 32 % 256, canObj s c 6 % 2 ^ 32) else none)

/-- Where the response to a network request goes (R303, R304); a window's is posted. -/
def responseDest (s : State) (v : Via) : Option Dest :=
  match v with
  | .can c _ => some (canDest s c.val 4)
  | .udp p d => some (.udp p.val d.srcAddr.toNat d.srcPort.toNat)
  | .window _ => none

/-- The smallest data length of a CAN FD frame that holds `n` bytes (R303). -/
def fdLength (n : Nat) : Nat := ([0, 1, 2, 3, 4, 5, 6, 7, 8, 12, 16, 20, 24, 32, 48].find? (fun k => decide (n ≤ k))).getD 64

/-- A message as the frame or datagram to a destination carries it: a CAN FD frame is padded with 0 (R303). -/
def framed (d : Dest) (l : List Byte) : List Byte :=
  match d with
  | .can _ _ none => l ++ List.replicate (fdLength l.length - l.length) 0
  | _ => l

/-- What an interface makes of a frame or datagram. -/
inductive Taken where
  | taken
  /-- Not for the agent: it is left alone. -/
  | ignored
  /-- Ignored, and counted in RX_ERR. -/
  | counted
  deriving DecidableEq, Repr

/-- The bytes of a message by its LEN and AUTH (R303). -/
def msgByLen (m : Msg) : Nat := 8 + m.len + (if m.auth then 16 else 0)

/-- A CAN frame taken or not (R303): its identifier is REQ_ID's; its kind is the controller's; a CAN XL frame has the controller's
SDT and AF, VCID 0 and SEC 0; and its message fits it. -/
def takeCan (s : State) (c : Nat) (f : CanFrame) (m : Msg) : Taken :=
  let xlOk : Bool := match f.xl with
    | none => !canXl s c
    | some x => canXl s c && decide (x.sdt.toNat = canObj s c 6 / 2 ^ 32 % 256) && decide (x.af.toNat = canObj s c 6 % 2 ^ 32) &&
        decide (x.vcid = 0) && !x.sec
  if canIdent f.id.toNat ≠ canIdent (canObj s c 3) ∨ ¬ xlOk then .ignored
  else if min f.length (capacityOf s m.via) < msgByLen m then .counted
  else .taken

/-- A datagram taken or not (R304): it goes to UDP_PORT of the port's address; IP options and fragments are discarded. -/
def takeUdp (s : State) (p : Nat) (d : Datagram) (m : Msg) : Taken :=
  if d.dstAddr.toNat ≠ ethObj s p 2 then .ignored
  else if d.fragment then .counted
  else if d.options ∨ d.dstPort.toNat ≠ ethObj s p 4 then .ignored
  else if 1472 < m.total then .counted
  else .taken

/-- What the interface of a network message makes of it. -/
def takeNet (s : State) (m : Msg) : Taken :=
  match m.via with
  | .can c f => takeCan s c.val f m
  | .udp p d => takeUdp s p.val d m
  | .window _ => .taken

/-- Bytes of DATA, after the abort code, that a response on a transport holds. -/
def dataRoom (s : State) (v : Via) : Nat :=
  capacityOf s v - 12 - (match v with | .window _ => 0 | _ => 16)

/-! ### Floors and counters (R306, R307) -/

/-- A reservation raised by 1,024 as often as a value that reaches it needs. -/
def raisedReserve (old v : Nat) : Nat := if old ≤ v then old + 1024 * ((v - old) / 1024 + 1) else old

/-- The keys under which the store holds the reservations of a slot's floor and transmit counter (log entry 31). -/
def floorKey (j : Nat) : Nat := (0x1220 + j) * 256 + 3
def counterKey (j : Nat) : Nat := (0x1220 + j) * 256 + 0x83

/-- The floor of a slot raised to a value; the reservation is stored first where the value reaches it. -/
def raiseFloor (j v : Nat) (s : State) : State :=
  let old := SMap.get s.dict.floorRes j 0
  let r := raisedReserve old v
  let s := if r = old then s else writeStore true [(floorKey j, leBytes 4 (min r counterMax))] s
  { s with dict := { s.dict with floor := SMap.set s.dict.floor j v 0, floorRes := SMap.set s.dict.floorRes j r 0 } }

/-- The transmit counter of a slot for its next message; at its last value it stays. -/
def nextCounter (j : Nat) (s : State) : State × Nat :=
  let v := min (txCounterOf s j + 1) counterMax
  let old := SMap.get s.dict.counterRes j 0
  let r := raisedReserve old v
  let s := if r = old then s else writeStore true [(counterKey j, leBytes 4 (min r counterMax))] s
  ({ s with dict := { s.dict with counter := SMap.set s.dict.counter j v 0, counterRes := SMap.set s.dict.counterRes j r 0 } }, v)

/-! ### Responses (R300, R301, R306, R319) -/

/-- A response on its way to the network. -/
def sendResponse (v : Via) (key : Option Nat) (l : List Byte) (s : State) : State :=
  match responseDest s v with
  | some d => (s.send (.response d key (framed d l))).answer (.msg l)
  | none => s.answer (.msg l)

/-- A response sent: under the slot where it is authenticated; a window's waits to be posted. -/
def respond (m : Msg) (slot : Option Nat) (a : Abort) (data : List Byte) (last : Bool) (s : State) : State :=
  let s := if a = .ok then s else perfEvent 15 anyInst 2 1 s
  let op := m.op.toNat % 128 + 128
  let flags := (if slot.isSome then 1 else 0) + (if last then 4 else 0)
  let body := headerBytes op flags m.seq.toNat m.sub.toNat m.index.toNat (4 + data.length) ++ leBytes 4 a.code ++ data
  match m.via, slot with
  | .window f, _ => (s.setWin f.val { s.win f.val with ready := some body }).answer (.msg body)
  | v, some j => match nextCounter j s with
    | (s, c) =>
      let sealed := body ++ trailerHead j c
      sendResponse v (some j) (sealed ++ macBytes j 1 v.transport sealed) s
  | v, none => sendResponse v none body s

/-! ### Authentication (R306) -/

/-- What the agent finds of a network request: the slot that passed, or the refusal, with whether it is sealed and its DATA. -/
inductive Auth where
  | pass (j : Fin 16)
  | fail
  | replay (j : Fin 16)
  deriving DecidableEq, Repr

/-- The checks of R306 in order. -/
def authenticate (s : State) (m : Msg) : Auth :=
  match m.seal with
  | none => .fail
  | some t =>
    if h : t.keySlot.toNat < 16 then
      let j : Fin 16 := ⟨t.keySlot.toNat, h⟩
      if ¬ slotUsable s j.val then .fail
      else if macBytes j.val 0 m.via.transport (m.body ++ trailerHead j.val t.counter.toNat) ≠ beBytes 8 t.mac.toNat then .fail
      else if slotExhausted s j.val ∨ t.counter.toNat ≤ rxFloorOf s j.val then .replay j
      else .pass j
    else .fail

/-! ### Sources and their order (R302) -/

/-- Requests whose answer waits for the store, for BUSY of a block or for a verification. -/
def unanswered (s : State) : List Msg :=
  s.dict.storeAnswers ++ s.dict.spireAnswers ++ s.dict.blocked ++ ticketNumbers.filterMap (fun t => (s.ticket t).answer)

/-- Whether a source has a request that is not yet answered. -/
def sourceBusy (s : State) (m : Msg) : Bool := (unanswered s).any (fun x => x.sameSource m)

/-! ### Shapes (R301) -/

/-- The DATA that each opcode takes. -/
def dataOk (op n : Nat) : Bool :=
  match op with
  | 1 => decide (n = 0)
  | 2 => true
  | 3 => decide (n = 6)
  | 4 => decide (4 ≤ n)
  | 5 => decide (n = 0)
  | 6 => decide (n = 3)
  | 7 => decide (n = 1)
  | _ => false

/-- Whether a message has the shape of a request with an opcode. -/
def shapeOk (op : Nat) (m : Msg) : Bool :=
  decide (m.op.toNat = op) && decide (m.flags.toNat / 8 = 0) && decide (m.len = m.data.length) && dataOk op m.data.length &&
  (decide (op < 5) || (decide (m.index = 0) && decide (m.sub = 0))) &&
  (match m.via with | .window _ => !m.auth | _ => true)

/-! ### What an opcode answers -/

/-- The answer to a request, or that it comes later. -/
inductive Answer where
  | now (a : Abort) (data : List Byte) (last : Bool)
  | later
  deriving DecidableEq, Repr

def refused (a : Abort) : Answer := .now a [] false

/-- READ (R301): a value that does not fit the response is refused by its length (R303). -/
def serveRead (m : Msg) (s : State) : State × Answer :=
  match readObject m.source m.index.toNat m.sub.toNat m.txn s with
  | (s', .ok, l) => if dataRoom s m.via < l.length then (s, refused .badLength) else (s', .now .ok l false)
  | (s', a, _) => (s', refused a)

/-- A request whose answer waits for the store. -/
def awaitStore (m : Msg) (s : State) : State := { s with dict := { s.dict with storeAnswers := s.dict.storeAnswers ++ [m] } }

/-- A request to enter spire mode whose answer waits for VDD_CORE (R447). -/
def awaitSpire (m : Msg) (s : State) : State := { s with dict := { s.dict with spireAnswers := s.dict.spireAnswers ++ [m] } }

/-- A write that waits for BUSY of its block to clear (R335). -/
def awaitBlock (m : Msg) (s : State) : State := { s with dict := { s.dict with blocked := s.dict.blocked ++ [m] } }

/-- WRITE (R296, R297). -/
def serveWrite (m : Msg) (s : State) : State × Answer :=
  if mustWait s m.index.toNat m.sub.toNat m.txn then (awaitBlock m s, .later)
  else match writeObject m.source m.index.toNat m.sub.toNat m.txn m.data s with
  | (s, w) =>
    if w.stored then (awaitStore m s, .later)
    else if w.spire then (awaitSpire m s, .later)
    else (s, refused w.abort)

/-! ### Segmented transfers (R308) -/

/-- The time after which a transfer without a segment is abandoned. -/
def segTicks : Nat := 1000 * ticksPerMs

/-- Whether a transfer is a source's. -/
def Segs.isOf (x : Segs) (src : Source) (udp : Bool) : Bool := decide (x.source = src) && decide (x.udp = udp)

/-- Whether a transfer has been abandoned for want of a segment. -/
def Segs.late (x : Segs) (now : Nat) : Bool := x.expired || decide (x.last + segTicks ≤ now)

/-- Transfers of a source, replaced by one or by none. -/
def putSegs (l : List Segs) (m : Msg) (x : Option Segs) : List Segs :=
  l.filter (fun y => !y.isOf m.source m.byUdp) ++ x.toList

/-- The transfer of a message's source. -/
def segsOfMsg (l : List Segs) (m : Msg) : Option Segs := l.find? (fun x => x.isOf m.source m.byUdp)

/-- A segment of a snapshot. -/
def serveSlice (m : Msg) (l : List Byte) (room : Nat) : Answer :=
  let part := (l.drop m.offset).take (min m.maxBytes (room - 4))
  .now .ok (leBytes 4 m.offset ++ part) (decide (l.length ≤ m.offset + part.length))

/-- READ_SEG: OFFSET 0 takes the snapshot that later segments are served from. -/
def serveReadSeg (m : Msg) (s : State) : State × Answer :=
  let put (x : Option Segs) (s : State) : State := { s with dict := { s.dict with readSegs := putSegs s.dict.readSegs m x } }
  let x : Segs := { source := m.source, udp := m.byUdp, index := m.index.toNat, sub := m.sub.toNat, data := [], last := s.tick }
  if m.offset = 0 then
    match readObject m.source m.index.toNat m.sub.toNat m.txn s with
    | (s', .ok, l) => (put (some { x with data := l }) s', serveSlice m l (dataRoom s m.via))
    | (s', a, _) => (s', refused a)
  else match readObject m.source m.index.toNat m.sub.toNat m.txn s with
    | (_, .ok, _) => match segsOfMsg s.dict.readSegs m with
      | none => (s, refused .badLength)
      | some y =>
        if y.late s.tick then (put none s, refused .timeout)
        else if y.index ≠ x.index ∨ y.sub ≠ x.sub then (s, refused .badLength)
        else (put (some { y with last := s.tick }) s, serveSlice m y.data (dataRoom s m.via))
    | (_, a, _) => (s, refused a)

/-- The next OFFSET that a response to WRITE_SEG names. -/
def nextOffset (a : Abort) (n : Nat) : Answer := .now a (leBytes 4 n) false

/-- The greatest length of an object that a transfer can write. -/
def objLength (index sub : Nat) : Nat := match findObj index sub with | .obj d => d.size | _ => 0

/-- The OFFSET that the transfer of a message's source expects next. -/
def expectedOffset (m : Msg) (s : State) : Nat := match segsOfMsg s.dict.writeSegs m with
  | some y => y.data.length
  | none => 0

/-- Checks 3 to 6 of a segment's object. -/
def segGate (m : Msg) (s : State) : Abort :=
  match findObj m.index.toNat m.sub.toNat with
  | .noObject => .noObject
  | .noSub => .noSub
  | .highest _ _ => .readOnly
  | .obj d => writeGate s m.source d

/-- The bytes received so far with a segment's own, where the segment is the one expected. -/
def joinSegment (m : Msg) (s : State) : Except Abort (List Byte) :=
  if m.offset = 0 then .ok (m.data.drop 4)
  else match segsOfMsg s.dict.writeSegs m with
    | none => .error .badLength
    | some y =>
      if y.late s.tick then .error .timeout
      else if y.index ≠ m.index.toNat ∨ y.sub ≠ m.sub.toNat ∨ m.offset ≠ y.data.length then .error .badLength
      else .ok (y.data ++ m.data.drop 4)

/-- WRITE_SEG: the object changes with the last segment. -/
def serveWriteSeg (m : Msg) (s : State) : State × Answer :=
  let put (x : Option Segs) (s : State) : State := { s with dict := { s.dict with writeSegs := putSegs s.dict.writeSegs m x } }
  let x : Segs := { source := m.source, udp := m.byUdp, index := m.index.toNat, sub := m.sub.toNat, data := [], last := s.tick }
  match segGate m s with
  | .ok => match joinSegment m s with
    | .error a => (put none s, nextOffset a 0)
    | .ok l =>
      if objLength m.index.toNat m.sub.toNat < l.length then (s, nextOffset .badLength m.offset)
      else if m.txn ∧ (heldTicket s m.source .opened).isNone then (s, nextOffset .noTransaction (expectedOffset m s))
      else if ¬ m.last then (put (some { x with data := l }) s, nextOffset .ok l.length)
      else if mustWait s m.index.toNat m.sub.toNat m.txn then (awaitBlock m s, .later)
      else match writeObject m.source m.index.toNat m.sub.toNat m.txn l s with
        | (s', w) =>
          if w.stored then (awaitStore m (put none s'), .later)
          else if w.spire then (awaitSpire m (put none s'), .later)
          else if w.abort = .ok then (put none s', nextOffset .ok l.length)
          else (s', nextOffset w.abort m.offset)
  | a => (s, nextOffset a (expectedOffset m s))

/-! ### Transactions (R309, R310) -/

/-- TX_BEGIN. -/
def serveBegin (m : Msg) (s : State) : State × Answer :=
  if ¬ mayHold m.source then (s, refused .classDenied)
  else match nextTicket s m.source with
    | some t => (openTicket m.source t s, .now .ok (leBytes 1 t) false)
    | none => (s, refused .busy)

/-- TSTATE of a ticket as a response carries it. -/
def tstateBytes (s : State) (t : Nat) : List Byte :=
  if 1 ≤ t ∧ t ≤ 4 then leBytes 4 (tstateWord (s.ticket t)).toNat else leBytes 4 0

/-- TX_COMMIT: a taken commit is answered when its verification completes. -/
def serveCommit (m : Msg) (s : State) : State × Answer :=
  let t := leAt m.data 0 1
  if ¬ mayHold m.source then (s, .now .classDenied (tstateBytes s t) false)
  else match commitCause s m.source t with
    | some _ => (s, .now .noTransaction (tstateBytes s t) false)
    | none => (takeCommit m.source t (BitVec.ofNat 16 (leAt m.data 1 2)) (some m) s, .later)

/-- TX_ROLLBACK. -/
def serveRollback (m : Msg) (s : State) : State × Answer :=
  let t := leAt m.data 0 1
  if ¬ mayHold m.source then (s, refused .classDenied)
  else match ticketCause s m.source t with
    | some _ => (s, refused .noTransaction)
    | none => (freeTicket t s, refused .ok)

/-! ### Serving requests (R299, R301, R302) -/

/-- The answer to a request that is refused before its opcode is served: WRITE_SEG and TX_COMMIT carry their DATA in every response
(R301). -/
def refusedOp (op : Nat) (a : Abort) (m : Msg) (s : State) : Answer :=
  match op with
  | 4 => nextOffset a (expectedOffset m s)
  | 6 => .now a (tstateBytes s (leAt m.data 0 1)) false
  | _ => refused a

/-- A request with an opcode, its shape checked. -/
def serveOp (op : Nat) (m : Msg) (s : State) : State × Answer :=
  if ¬ shapeOk op m then (s, refusedOp op .badLength m s)
  else match op with
    | 1 => serveRead m s
    | 2 => serveWrite m s
    | 3 => serveReadSeg m s
    | 4 => serveWriteSeg m s
    | 5 => serveBegin m s
    | 6 => serveCommit m s
    | 7 => serveRollback m s
    | _ => (s, refused .badLength)

/-- A request of the session's source keeps the session (R299). -/
def touchSession (src : Source) (s : State) : State :=
  if s.dict.session = some src then { s with dict := { s.dict with sessionTick := s.tick } } else s

/-- The place of a request's source in the round of R302. -/
def sourcePlace (m : Msg) : Nat := match m.via with
  | .window f => f.val
  | _ => 16 + 16 * m.via.transport + m.slot.getD 0 % 16

/-- A request served: answered now, or later. -/
def conclude (op : Nat) (m : Msg) (s : State) : State :=
  match serveOp op m s with
  | (s, .now a data last) => respond m m.slot a data last s
  | (s, .later) => s

/-- A request processed: its source has had its turn (R302). -/
def process (op : Nat) (m : Msg) (s : State) : State :=
  conclude op m (touchSession m.source (perfEvent 15 anyInst 1 1 { s with dict := { s.dict with turn := sourcePlace m } }))

/-- The waiting request that is served next: of the free sources that have one, the first after the source served last has its oldest
served (R302). -/
def nextWaiting (s : State) : Option Msg :=
  let free := s.dict.waiting.filter (fun m => !sourceBusy s m)
  (List.range 64).findSome? (fun i => free.find? (fun m => decide (sourcePlace m = (s.dict.turn + 1 + i) % 64)))

/-- Waiting requests whose sources have become free are processed, in the round of their sources. -/
def drain : Nat → State → State
  | 0, s => s
  | n + 1, s => match nextWaiting s with
    | none => s
    | some m => drain n (process m.op.toNat m { s with dict := { s.dict with waiting := s.dict.waiting.erase m } })

def drainAll (s : State) : State := drain s.dict.waiting.length s

/-- A request that has passed authentication: processed, or made to wait; a fifth that would wait is refused (R302). -/
def arrive (op : Nat) (m : Msg) (s : State) : State :=
  if ¬ sourceBusy s m then process op m s
  else if (s.dict.waiting.filter (fun x => x.sameSource m)).length < 4 then
    { s with dict := { s.dict with waiting := s.dict.waiting ++ [m] } }
  else
    let s := perfEvent 15 anyInst 1 1 s
    match refusedOp op .busy m s with
    | .now a data last => respond m m.slot a data last s
    | .later => s

/-- The refusal of a request that fails authentication (R306): a replay carries the floor. -/
def turnDown (m : Msg) (a : Auth) (s : State) : State :=
  let s := perfEvent 15 anyInst 1 1 s
  match a with
  | .replay j => respond m (some j.val) .replayed (leBytes 4 (rxFloorOf s j.val)) false (raise 323 s)
  | _ => respond m none .authFailed [] false (raise 322 s)

/-- A network request that its interface has taken, authenticated (R306). -/
def authenticated (op : Nat) (m : Msg) (s : State) : State :=
  match authenticate s m with
  | .pass j =>
    let s := raiseFloor j.val ((m.seal.map (fun t => t.counter.toNat)).getD 0) s
    arrive op m { s with dict := { s.dict with
      heard := SMap.set s.dict.heard j.val s.tick 0, heardVia := SMap.set s.dict.heardVia j.val (some m.via) none } }
  | a => turnDown m a s

/-- RX_ERR of an interface counts one, saturating (log entry 31). -/
def countRxErr (i : Nat) (s : State) : State :=
  { s with dict := { s.dict with rxErr := SMap.set s.dict.rxErr i (satAdd 32 (SMap.get s.dict.rxErr i 0) 1) 0 } }

/-- A network request, as its interface takes it (R303, R304). -/
def receiveNet (op : Nat) (m : Msg) (s : State) : State :=
  let i := m.via.iface
  if ¬ (SMap.get s.dict.ifaces i {}).on then s
  else match takeNet s m with
    | .taken => authenticated op m s
    | .ignored => s
    | .counted => countRxErr i s

/-- The request that a window holds (R305, R319): the first LENGTH bytes of REQ. -/
def windowMsg (s : State) (f : Fin 32) : Msg :=
  let n := (s.win f.val).len
  let l := ((List.range ((n + 3) / 4)).flatMap (fun w => leBytes 4 (s.reg (rg .dwReq f.val w)).toNat)).take n
  let at_ (i : Nat) : Byte := l.getD i 0
  { via := .window f, op := at_ 0, flags := at_ 1, seq := at_ 2, sub := at_ 3, index := BitVec.ofNat 16 (leAt l 4 2),
    len := leAt l 6 2, data := l.drop 8, trailer := none }

/-- A window's request taken by the agent, once. -/
def takeWindow (op : Nat) (f : Fin 32) (s : State) : State :=
  let m := windowMsg s f
  process op m (s.setWin f.val { s.win f.val with taken := true })

/-- A message as a command with its opcode: a window's is the one that the window sent. -/
def receive (op : Nat) (m : Msg) (s : State) : State :=
  match m.via with
  | .window f =>
    if (s.win f.val).busy ∧ ¬ (s.win f.val).taken ∧ m = windowMsg s f then takeWindow op f s else s
  | _ => receiveNet op m s

/-- READ. -/
def execRead (m : Msg) (s : State) : Result := powered s (receive 1 m)

/-- WRITE. -/
def execWrite (m : Msg) (s : State) : Result := powered s (receive 2 m)

/-- READ_SEG. -/
def execReadSeg (m : Msg) (s : State) : Result := powered s (receive 3 m)

/-- WRITE_SEG. -/
def execWriteSeg (m : Msg) (s : State) : Result := powered s (receive 4 m)

/-- TX_BEGIN. -/
def execTxBegin (m : Msg) (s : State) : Result := powered s (receive 5 m)

/-- TX_COMMIT. -/
def execTxCommit (m : Msg) (s : State) : Result := powered s (receive 6 m)

/-- TX_ROLLBACK. -/
def execTxRollback (m : Msg) (s : State) : Result := powered s (receive 7 m)

/-- UNDEFINED_OPCODE: a message that is no request with a defined opcode. -/
def execUndefinedOpcode (m : Msg) (s : State) : Result := powered s (receive 0 m)

/-! ### The window (R319) -/

/-- SEND. -/
def sendLen (f : Fin 32) (len : Nat) (s : State) : State :=
  let v := BitVec.ofNat 32 len
  match judgeWrite s (.fn f) false (rg .dwSend f.val) v with
  | some x => report (.fn f) { off := 0x62000, data := v } x s
  | none => sendWindow f.val (fld v 0 13) s

def execSend (f : Fin 32) (len : Nat) (s : State) : Result := request (.fn f) s (sendLen f len)

/-- A window's response posted: DONE, and source 321 at the window's own function. -/
def postWindow (f : Nat) (l : List Byte) (s : State) : State :=
  raiseAt f 321 (s.setWin f { s.win f with busy := false, done := true, taken := false, ready := none, rsp := l, rspLen := l.length })

/-- WINDOW_RESPONSE: the agent takes the request unless it has, and posts the response once there is one. -/
def windowResponse (f : Fin 32) (s : State) : State :=
  if ¬ (s.win f.val).busy then s
  else
    let s := if (s.win f.val).taken then s else takeWindow (windowMsg s f).op.toNat f s
    match (s.win f.val).ready with
    | some l => postWindow f.val l s
    | none => s

def execWindowResponse (f : Fin 32) (s : State) : Result := powered s (windowResponse f)

/-! ### Deferred answers (R297, R310) -/

/-- The answer to a write that waited. -/
def answerHeld (a : Abort) (s : State) (m : Msg) : State :=
  if m.op.toNat % 128 = 4 then respond m m.slot a (leBytes 4 (m.offset + (m.data.length - 4))) false s
  else respond m m.slot a [] false s

/-- The answer to a request that waited for the store. -/
def answerStored (ok : Bool) (s : State) (m : Msg) : State := answerHeld (if ok then .ok else .timeout) s m

/-- STORE_WRITE (R297): the values in line are stored together, and the requests that wait for them are answered. -/
def storeWrite (ok : Bool) (s : State) : State :=
  let vals := s.dict.storing
  let msgs := s.dict.storeAnswers
  let due := s.dict.ledgerDue
  let s := if vals.isEmpty then s else writeStore ok vals s
  let s := if due then writeLedger ok s else s
  let s := { s with dict := { s.dict with storing := [], storeAnswers := [], ledgerDue := false } }
  drainAll (msgs.foldl (answerStored ok) s)

def execStoreWrite (ok : Bool) (s : State) : Result := powered s (storeWrite ok)

/-! ### Requests that wait for spire mode (R447, R451; log entry 30) -/

/-- Whether an entry still waits for VDD_CORE. -/
def spireWaits (s : State) : Bool := decide (s.therm.mode = .entering) && decide (s.therm.coreMhz = 800)

/-- The requests that wait are answered once the entry's outcome is known. -/
def settleSpire (a : Abort) (s : State) : State :=
  let msgs := s.dict.spireAnswers
  if msgs.isEmpty ∨ spireWaits s then s
  else drainAll (msgs.foldl (answerHeld a) { s with dict := { s.dict with spireAnswers := [] } })

/-- A command that may end the wait of an entry. -/
def spirePowered (a : Abort) (body : State → State) (s : State) : Result := powered s (fun s => settleSpire a (body s))

/-- SENSOR_SAMPLE: a category that it or anything before it has set ends spire mode (R450). -/
def execSensorSample (temps : List Int) (s : State) : Result := spirePowered .ok (fun s => judgeSpire (sensorSample temps s)) s

def execThermalEvaluation (s : State) : Result := spirePowered .ok thermalEvaluation s

def execShedTimer (s : State) : Result := spirePowered .ok (fun s => judgeSpire (shedTimer s)) s

def execSpireSecond (ok : Bool) (s : State) : Result := spirePowered .ok (spireSecond ok) s

def execPllLockLoss (p : Pll) (s : State) : Result := spirePowered .ok (pllLost p) s

/-- SPIRE_VOLTAGE_READY. -/
def execSpireVoltageReady (s : State) : Result := spirePowered .ok spireReady s

/-- SPIRE_SUPPLY_TIMEOUT: the dictionary route's request is refused by policy (R447). -/
def execSpireSupplyTimeout (s : State) : Result := spirePowered .policy spireSupplyTimeout s

/-- TSTATE that the answer to a taken commit carries (R310). -/
def commitState (x : Ticket) (rejected : Bool) (empty : Bool) : Word :=
  tstateWord (if rejected ∨ empty then x else { x with state := .accepted })

/-- Writes that waited for BUSY of a block, served now that it has cleared, one after the other; those that must wait again do
(R335). -/
def resumeBlocked (s : State) : State :=
  let l := s.dict.blocked
  drainAll (l.foldl (fun s m => conclude m.op.toNat m s) { s with dict := { s.dict with blocked := [] } })

/-- WRITE_LAND (R334, R335): the block's writes land, and a write of the agent that waits is taken. -/
def execWriteLand (b : PBlock) (s : State) : Result := powered s (fun s => resumeBlocked (writeLand b s))

/-- The answer to a commit whose verification is complete. -/
def answerCommit (t : Nat) (m : Msg) (empty : Bool) (s : State) : State :=
  let x := s.ticket t
  let bad := decide (x.state = .rejected)
  respond m m.slot (if bad then .rejected else .ok) (leBytes 4 (commitState x bad empty).toNat) false s

/-- VERIFICATION_COMPLETE (R278, R310). -/
def verificationComplete (s : State) : State :=
  match verifyingTicket s with
  | none => s
  | some t =>
    let x := s.ticket t
    let s := verifyTicket t s
    match x.answer with
    | none => s
    | some m => drainAll (answerCommit t m x.draft.isEmpty s)

def execVerificationComplete (s : State) : Result := powered s verificationComplete

/-- SEGMENT_TIMEOUT (R308): time moves on until the first of the source's transfers is due, and those due are abandoned. -/
def segmentTimeout (src : Source) (udp : Bool) (s : State) : State :=
  let l := (s.dict.writeSegs ++ s.dict.readSegs).filter (fun x => x.isOf src udp && !x.expired)
  match l with
  | [] => s
  | x :: t =>
    let s := toTick (t.foldl (fun m y => min m y.last) x.last + segTicks) s
    let age (y : Segs) : Segs := if y.isOf src udp && y.late s.tick then { y with expired := true, data := [] } else y
    { s with dict := { s.dict with writeSegs := s.dict.writeSegs.map age, readSegs := s.dict.readSegs.map age } }

def execSegmentTimeout (src : Source) (udp : Bool) (s : State) : Result := powered s (segmentTimeout src udp)

/-! ### The diagnostic session, the lock, the keys and the ledger (R298, R299, R317, R442) -/

/-- The source that a command names, as the agent admits it: a node's request counts as sealed with the next counter of its slot, which a
slot that cannot authenticate does not have (R26, R306; DESIGN CHOICE, log entry 79). -/
def takeDirect (src : Source) (s : State) : State × Abort :=
  match src with
  | .node j =>
    if ¬ slotUsable s j.val then (raise 322 s, .authFailed)
    else if slotExhausted s j.val then (raise 323 s, .replayed)
    else
      let s := raiseFloor j.val (rxFloorOf s j.val + 1) s
      ({ s with dict := { s.dict with heard := SMap.set s.dict.heard j.val s.tick 0 } }, .ok)
  | _ => (s, .ok)

/-- A request that a command makes of the agent, its code and data as the completion; requests and refusals are counted (R397). -/
def direct (src : Source) (f : State → State × Abort × List Byte) (s : State) : State :=
  let o := match takeDirect src (perfEvent 15 anyInst 1 1 s) with
    | (s, .ok) => f (touchSession src s)
    | (s, a) => (s, a, [])
  (if o.2.1 = .ok then o.1 else perfEvent 15 anyInst 2 1 o.1).answer (.msg (leBytes 4 o.2.1.code ++ o.2.2))

/-- A write of an object by a source. -/
def directWrite (src : Source) (index sub : Nat) (l : List Byte) (s : State) : State :=
  direct src (fun s => match writeObject src index sub false l s with | (s, w) => (s, w.abort, [])) s

/-- DIAG_CHALLENGE. -/
def diagChallenge (src : Source) (s : State) : State := direct src (readObject src 0x1210 0 false) s

def execDiagChallenge (src : Source) (s : State) : Result := powered s (diagChallenge src)

/-- DIAG_RESPONSE. -/
def execDiagResponse (src : Source) (mac : List Byte) (s : State) : Result := powered s (directWrite src 0x1211 0 mac)

/-- DIAG_SESSION_END. -/
def execDiagSessionEnd (src : Source) (s : State) : Result := powered s (directWrite src 0x1212 0 [0])

/-- DIAG_SESSION_TIMEOUT: 30 s without a request from the session's source. -/
def diagSessionTimeout (s : State) : State :=
  if ¬ sessionOpen s then s else endSession (toTick (s.dict.sessionTick + 30000 * ticksPerMs) s)

def execDiagSessionTimeout (s : State) : Result := powered s diagSessionTimeout

/-- DIAG_LOCKOUT_END. -/
def diagLockoutEnd (s : State) : State :=
  match s.dict.lockout with
  | none => s
  | some t =>
    let s := toTick (t + lockoutTicks) s
    { s with dict := { s.dict with lockout := none } }

def execDiagLockoutEnd (s : State) : Result := powered s diagLockoutEnd

/-- DEVICE_LOCK. -/
def execDeviceLock (src : Source) (value : Byte) (s : State) : Result := powered s (directWrite src 0x1203 0 [value])

/-- KEY_REVOKE. -/
def execKeyRevoke (src : Source) (j : Fin 16) (value : Byte) (s : State) : Result :=
  powered s (directWrite src (0x1220 + j.val) 2 [value])

/-- LEDGER_CLEAR, with the outcome of its ledger write. -/
def ledgerClear (src : Source) (value : Byte) (ok : Bool) (s : State) : State :=
  let due := s.dict.ledgerDue
  let s := directWrite src 0x1100 3 [value] s
  if s.dict.ledgerDue ∧ ¬ due then writeLedger ok { s with dict := { s.dict with ledgerDue := false } } else s

def execLedgerClear (src : Source) (value : Byte) (ok : Bool) (s : State) : Result := powered s (ledgerClear src value ok)

/-! ### NOTIFY (R313, R314) -/

/-- The destination that NOTIFY_UDPk names, on Ethernet port p (R317). -/
def udpNoteDest (s : State) (k p : Nat) : Dest :=
  let v := ifaceObj s (2 + p) 0x9030 (2 + k)
  .udp p (v / 2 ^ 16 % 2 ^ 32) (v % 2 ^ 16)

/-- The destinations of NOTIFY_DEST that are enabled, with the notify slot of each (R313, R317). -/
def noteDests (s : State) : List (Dest × Nat) :=
  let dest (i : Nat) := ifaceObj s i 0x9030 1
  let key (i : Nat) := ifaceObj s i 0x9030 4
  let on (i : Nat) : Bool := (SMap.get s.dict.ifaces i {}).on
  ([0, 1].filter (fun c => on c && decide (dest c / 2 ^ c % 2 = 1))).map (fun c => (canDest s c 5, key c)) ++
  [0, 1].flatMap (fun k => ([0, 1].filter (fun p => on (2 + p) && decide (dest (2 + p) / 2 ^ (2 + k) % 2 = 1) &&
    decide (ifaceObj s (2 + p) 0x9030 (2 + k) / 2 ^ 48 % 2 = p))).map (fun p => (udpNoteDest s k p, key (2 + p))))

/-- Where the NOTIFY of a holder alone goes: the way its last authenticated request came (log entry 31). -/
def holderDest (s : State) (j : Nat) : List (Dest × Nat) :=
  match SMap.get s.dict.heardVia j none with
  | some v =>
    if (SMap.get s.dict.ifaces v.iface {}).on then
      (match v with
       | .can c _ => [(canDest s c.val 5, ifaceObj s v.iface 0x9030 4)]
       | _ => (responseDest s v).toList.map (fun d => (d, ifaceObj s v.iface 0x9030 4)))
    else []
  | none => []

/-- The messages of a NOTIFY: destination and slot of each. A network keep owner gets class 1 under its own slot too; a slot that
cannot authenticate sends none. -/
def noteCopies (s : State) (cls : Nat) (x : Note) : List (Dest × Nat) :=
  let l := match x.only with
    | some j => holderDest s j
    | none => noteDests s
  let own := if cls = 1 then (match networkOwner s with | some j => l.map (fun d => (d.1, j)) | none => []) else []
  (l ++ own).eraseDups.filter (fun d => slotUsable s d.2 && decide (txCounterOf s d.2 < counterMax))

/-- The transport byte of a destination (R306). -/
def Dest.transport : Dest → Nat
  | .can _ _ _ => 1
  | .udp _ _ _ => 2

/-- DATA of a NOTIFY. -/
def noteData (x : Note) (number lost : Nat) : List Byte :=
  leBytes 2 x.code ++ leBytes 2 x.item ++ leBytes 4 x.detail.toNat ++ leBytes 8 x.tick ++ leBytes 4 number ++ leBytes 2 (min lost 0xFFFF) ++
    leBytes 2 0

/-- One message of a NOTIFY. -/
def sendCopy (cls number lost : Nat) (x : Note) (s : State) (d : Dest × Nat) : State :=
  match nextCounter d.2 s with
  | (s, c) =>
    let body := headerBytes 8 1 number cls 0 24 ++ noteData x number lost ++ trailerHead d.2 c
    s.send (.notify d.1 cls d.2 (framed d.1 (body ++ macBytes d.2 1 d.1.transport body)))

/-- A waiting NOTIFY of a class sent to every destination; one that has none is not sent. -/
def sendNote (cls : Nat) (s : State) : State :=
  match SMap.get s.dict.notes cls [] with
  | [] => s
  | x :: _ =>
    let copies := noteCopies s cls x
    let lost := SMap.get s.dict.lost cls 0
    let s := { s with dict := { s.dict with notes := SMap.set s.dict.notes cls [] [] } }
    if copies.isEmpty then s
    else
      let n := (s.dict.noteNo + 1) % 2 ^ 32
      let s := { s with dict := { s.dict with noteNo := n, lost := SMap.set s.dict.lost cls 0 0 } }
      copies.foldl (sendCopy cls n lost x) s

/-- NOTIFY (R314): a waiting message of class 1 goes first. -/
def notifyClass (cls : Nat) (s : State) : State := if cls = 1 then sendNote 1 s else sendNote cls (sendNote 1 s)

def execNotify (cls : Fin 8) (s : State) : Result := powered s (notifyClass cls.val)

end Sys2Proof.Machine
end

