-- ==== Sys2Proof/Machine/HostCmds.lean ====
section
/-! DEFINITION. The host links (R330, R339, R342, R343), the events of the endpoints' links (R360), and the JTAG port (R479). -/

namespace Sys2Proof.Machine

/-! ### Requests that the links turn away (R330, R339) -/

/-- The bytes of a function's BAR 0, 1 or 2: BAR0 takes numbers 0 and 1, being 64-bit, and a VF has no BAR2 (R323 to R325). -/
def barBytes (s : State) (f bar : Nat) : Nat :=
  if bar < 2 then (if isPF f then 2 ^ 28 else 2 ^ 20) else if isPF f then bar2Bytes s (endpointOf f) else 0

/-- UNSUPPORTED_REQUEST (R330, R342): a request beyond the last byte of a BAR, or one of a function that answers no memory request. Only
a read has a completion. -/
def beyondBar (f bar off : Nat) (write : Bool) (s : State) : State :=
  if off < barBytes s f bar ∧ ¬ unreached s (.fn (Fin.ofNat 32 f)) then s
  else
    let s := aerLog (endpointOf f) .unsupportedRequest s
    if write then s else s.answer .unsupported

def execUnsupportedRequest (f : Fin 32) (bar : Fin 3) (off : Nat) (write : Bool) (s : State) : Result :=
  powered s (beyondBar f.val bar.val off write)

/-- POISONED_TLP (R339): ignored and reported. -/
def execPoisonedTlp (f : Fin 32) (_addr : Nat) (s : State) : Result := powered s (aerLog (endpointOf f.val) .poisoned)

/-- ECRC_ERROR (R339): discarded and reported. -/
def execEcrcError (f : Fin 32) (_addr : Nat) (s : State) : Result := powered s (aerLog (endpointOf f.val) .ecrc)

/-! ### Function Level Reset (R343) -/

/-- Entries of a function's ports leave a queue without records; a selected one that leaves is no longer there to be taken. -/
def removeEntries (f slot : Nat) (s : State) : State :=
  let l := s.layer slot
  let mine (e : QEntry) : Bool := decide (portOwner s e.port = f)
  (l.queue.filter mine).foldl (fun s e => dropPin (.queue slot e.seq) s)
    (s.setLayer slot { l with queue := l.queue.filter (fun e => !mine e) })

/-- A function's completion records cleared. -/
def clearRecs (f : Nat) (s : State) : State :=
  let s := s.setReg (rg .faDoneOvr f) 0
  { s with fa := { s.fa with
      recs := s.fa.recs.filter (fun e => decide (e.1 / 64 ≠ f))
      doneWr := SMap.erase s.fa.doneWr f
      doneRd := SMap.erase s.fa.doneRd f
      due := s.fa.due.filter (fun e => decide (e.1 ≠ f)) } }

/-- Whether a request came through a function's window. -/
def ofWindow (f : Nat) (m : Msg) : Bool := match m.via with
  | .window g => decide (g.val = f)
  | _ => false

/-- A function's dictionary window: the answer to a request in progress is discarded. -/
def resetWindow (f : Nat) (s : State) : State :=
  let s := s.setWin f { s.win f with busy := false, done := false, taken := false, ready := none }
  let s := { s with dict := { s.dict with storeAnswers := s.dict.storeAnswers.filter (fun m => !ofWindow f m), spireAnswers := s.dict.spireAnswers.filter (fun m => !ofWindow f m), blocked := s.dict.blocked.filter (fun m => !ofWindow f m) } }
  ticketNumbers.foldl (fun s t => if (s.ticket t).answer.any (ofWindow f) then s.setTicket t { s.ticket t with answer := none } else s) s

/-- A session that a function holds ends. -/
def endSessionOf (f : Nat) (s : State) : State :=
  match s.dict.session with
  | some (.fn g) => if g.val = f then endSession s else s
  | _ => s

/-- One function reset; the keep owner's target gets its keep sources back (R343, R359). -/
def resetOne (f : Nat) (s : State) : State :=
  let s := loseHolder f s
  let s := clearRecs f ((List.range 96).foldl (fun s slot => removeEntries f slot s) s)
  let s := resetShares f (resetTarget f s)
  let s := endSessionOf f (resetWindow f s)
  let s := s.setErrRec f {}
  if s.keep.owner = f then keepSources f s else s

/-- FUNCTION_LEVEL_RESET: a PF's also resets its VFs and clears VF Enable. -/
def resetFunction (f : Nat) (s : State) : State :=
  let s := resetOne f s
  if isPF f then
    let s := (List.range 15).foldl (fun s i => resetOne (f + 1 + i) s) s
    { s with hl := { s.hl with vfEnable := setBit s.hl.vfEnable (endpointOf f) false } }
  else s

def execFunctionLevelReset (f : Fin 32) (s : State) : Result := powered s (resetFunction f.val)

/-- HOT_RESET of an endpoint acts as an FLR of its PF. -/
def execHotReset (k : Fin 2) (s : State) : Result := powered s (resetFunction (16 * k.val))

/-- PCIE_LINK_DOWN: as an FLR of the PF; source 289 + k fires when the link was up (R343, R360). -/
def pcieLinkDown (k : Nat) (s : State) : State :=
  let was := (s.link k).up
  let s := resetFunction (16 * k) (s.setLink k {})
  if was then raise (289 + k) s else s

def execPcieLinkDown (k : Fin 2) (s : State) : Result := powered s (pcieLinkDown k.val)

/-! ### Power states (R342, R358) -/

/-- D3HOT_ENTRY: the function's BARs, stage copies and target read this state. The link may go to L1.2 with it (R320, R344). -/
def d3hotEntry (f : Nat) (l12 : Bool) (s : State) : State :=
  let k := endpointOf f
  let s := { s with hl := { s.hl with d3hot := setBit s.hl.d3hot f true } }
  if l12 ∧ (s.link k).up then s.setLink k { s.link k with l12 := true } else s

def execD3hotEntry (entry : D3Entry) (s : State) : Result := powered s (d3hotEntry entry.f.val entry.l12)

/-- D0_RETURN: every state of the function is kept; its target stops sleeping, unless its CTRL.ASLEEP is 1. -/
def d0Return (f : Nat) (s : State) : State :=
  let was := sleeping s f
  let s := s.wakeLink (endpointOf f)
  let s := { s with hl := { s.hl with d3hot := setBit s.hl.d3hot f false } }
  if was && !sleeping s f then settle f s (stopSleeping f s) else s

def execD0Return (f : Fin 32) (s : State) : Result := powered s (d0Return f.val)

/-! ### The JTAG port (R26, R479) -/

/-- The IDCODE word. -/
def idcode : Nat := 0x1 * 2 ^ 28 + 0x7160 * 2 ^ 12 + Config.jtagManufacturer.toNat * 2 + 1

/-- The port's session kept open by its own use (R299). -/
def touchJtag (s : State) : State := if s.dict.jtag then { s with dict := { s.dict with sessionTick := s.tick } } else s

/-- JTAG_INSTRUCTION while the device runs: the identity; the bypass bit; the challenge and its response, which open the port's DIAG
session; others are BYPASS outside a session, and inside one the spec does not say what they do. -/
def jtag (op : JtagOp) (s : State) : Result :=
  match op with
  | .idcode => .next (s.send (.jtag 32 idcode))
  | .bypass => .next (s.send (.jtag 1 0))
  | .challenge =>
    .next (({ s.draw 16 with dict := { s.dict with challenge := some (s.drawn 16 Config.randomByte) } }).send
      (.jtag 128 (leNat (s.drawn 16 Config.randomByte))))
  | .response mac => .next (diagRespond none mac s).1
  | .other _ => if sessionOpen s then .refused .jtagPrivate else .next (s.send (.jtag 1 0))

/-- What the port answers while the device does not run: the identity, and the bypass bit for every other instruction; TDO is
high-impedance in reset, and dead in a shut-down device (R427, R457). -/
def jtagIdle (op : JtagOp) (s : State) : State :=
  match s.power with
  | .starting | .halted _ => s.send (match op with | .idcode => .jtag 32 idcode | _ => .jtag 1 0)
  | _ => s

def execJtagInstruction (op : JtagOp) (s : State) : Result :=
  if s.power = .on then jtag op (touchJtag s) else .next (jtagIdle op s)

end Sys2Proof.Machine
end

