-- ==== Sys2Proof/Machine/BootScene.lean ====
section
/-! DEFINITION. The boot scene of S7 (R438): its entries, its image in SPI NOR, its splash, its layers and its camera. -/

namespace Sys2Proof.Machine

/-! ### What the SPI NOR holds (R429, R438) -/

/-- A boot object of entry k. -/
def bootObj (s : State) (k sub : Nat) : Nat := s.obj (0xB010 + k) sub 0

/-- Bytes of the array from an offset. -/
def norBytes (s : State) (off n : Nat) : List Byte := (List.range n).map (fun i => norByte s.aon.nor (off + i))

/-- A guarded record in the array: its header, and its payload where the header's LENGTH leaves it within 16 MiB. -/
def norRecord (s : State) (off : Nat) : List Byte :=
  let h := norBytes s off 32
  if 2 ^ 24 < 32 + recordLength h then h else norBytes s off (32 + recordLength h)

/-- What verification of an image copy finds (R374 step 1). -/
def copyOutcome (r : List Byte) : Outcome := verifyRecord (2 ^ 24) 3 none r

/-- ALIVE of a copy that passes. -/
def copyAlive (r : List Byte) : Option Nat := if copyOutcome r = .ok then some (recordAlive r) else none

/-- The image copy that entry k's load takes. -/
def bootRecord (s : State) (k : Nat) : Option (List Byte) :=
  let a := norRecord s (bootObj s k 2)
  let b := norRecord s (bootObj s k 3)
  match chooseCopy (copyAlive a) (copyAlive b) with
  | some false => some a
  | some true => some b
  | none => none

/-- The outcomes of entry k's copies recorded (R374, R434). -/
def noteBootCopies (k : Nat) (s : State) : State :=
  noteCopy 5 (copyOutcome (norRecord s (bootObj s k 3))) (noteCopy 4 (copyOutcome (norRecord s (bootObj s k 2))) s)

/-! ### Context 62 (R104; the MC's own, log entry 32) -/

/-- The lowest channel in use. -/
def lowChannel (s : State) : Nat := ((List.range 4).find? (fun m => usable s m ≠ 0)).getD 0

/-- The end of a channel's usable memory, as a DPA. -/
def channelTop (s : State) (m : Nat) : Nat := m * 2 ^ 35 + usable s m

/-- The level-1 table of context 62. -/
def mcTable (s : State) : Nat := channelTop s (lowChannel s) - 2 ^ 15

/-- Context 62 mapped 1:1 by 1 GiB blocks, which may be written. -/
def mapMc (s : State) : State :=
  let t := mcTable s
  let s := s.writeMem t ((List.range 128).flatMap (fun i => leBytes 8 (i * 2 ^ 30 + 7)))
  (s.setReg (rg .mfRootLo 62) (BitVec.ofNat 32 (t % 2 ^ 32 + 1))).setReg (rg .mfRootHi 62) (BitVec.ofNat 32 (t / 2 ^ 32))

/-- Where the MC puts the splash and the camera's ring: below the top MiB of their channels, the splash above the ring. -/
def splashBase (s : State) (m len : Nat) : Nat := (channelTop s m - 2 ^ 20 - len) / 65536 * 65536

def ringBase (s : State) (m splash len : Nat) : Nat := (splashBase s m splash - len) / 65536 * 65536

/-! ### Items (R438) -/

/-- A register written by the MC. -/
def mcWr (r : RegId) (v : Nat) : Wr := { addr := r.addr, value := BitVec.ofNat 32 v, safety := true }

/-- Items applied in order on the boot head; none where one is rejected. -/
def tryItems (n : Nat) : List (List Wr) → State → Option State
  | [], s => some s
  | ws :: t, s =>
    match tryItem n ws (pinSurfaces ws s) with
    | .ok s => tryItems n t s
    | .error _ => none

/-- Every pin asked for carried out. -/
def completePins (s : State) : State :=
  (List.range s.fabric.pins.length).foldl (fun s i =>
    if (s.fabric.pins[i]?).any (fun p => decide (p.state = .pending)) then completePin i s else s) s

/-- The lowest alpha mode an envelope allows. -/
def firstAlpha (e : Envelope) : Nat := ((List.range 3).find? (fun m => e.alphaModes / 2 ^ m % 2 = 1)).getD 0

/-- A slot set up unscaled over its envelope's whole rectangle, in context 62 (R438). -/
def layerItems (n : Nat) (e : Envelope) (fmt pitch base : Nat) : List (List Wr) :=
  let size := (e.x1 - e.x0) + (e.y1 - e.y0) * 65536
  [[mcWr (rg .faMisc e.slot) 62],
   [mcWr (rg .faSrcPos e.slot) 0, mcWr (rg .faSrcSize e.slot) size, mcWr (rg .faDstPos e.slot) (e.x0 + e.y0 * 65536),
    mcWr (rg .faDstSize e.slot) size],
   [mcWr (rg .faFormat e.slot) fmt, mcWr (rg .faPitch e.slot) pitch, mcWr (rg .faBaseLo e.slot) (base % 2 ^ 32),
    mcWr (rg .faBaseHi e.slot) (base / 2 ^ 32)],
   [mcWr (rg .faCtrl e.slot) (n * 2 ^ 24 + e.zMin * 2 ^ 16 + 0xFF * 2 ^ 8 + firstAlpha e * 2 ^ 6 + 1)]]

/-- The splash: copied into its envelope's channel, checked, and set as the layer's surface. -/
def setSplash (k n : Nat) (i : Image) (s : State) : Option State :=
  let slot := bootObj s k 8 % 256
  let l := norBytes s (bootObj s k 5) (bootObj s k 6)
  match i.envOf slot with
  | none => none
  | some e =>
    if 64 ≤ slot ∨ (i.assignOf slot).head ≠ n ∨ crc 1 l ≠ bootObj s k 7 then none
    else
      let base := splashBase s e.channel l.length
      tryItems n (layerItems n e (bootObj s k 8 / 2 ^ 8 % 256) (bootObj s k 8 / 2 ^ 16 * 256) base) (s.writeMem base l)

/-- The beam-raced plane of a head: its envelope. -/
def cameraEnv (i : Image) (n : Nat) : Option Envelope :=
  i.envs.find? (fun e => e.beamRaced && decide (e.head = n) && decide ((i.assignOf e.slot).head = n))

/-- SCTRL of the camera's stream: enabled, DT 0x1E, RD 2. -/
def cameraSctrl (cam : Nat) : Nat :=
  2 ^ 31 + cam / 2 ^ 24 % 2 * 2 ^ 24 + cam / 2 ^ 16 % 32 * 2 ^ 16 + 2 * 2 ^ 12 + cam / 2 ^ 8 % 16 * 2 ^ 8 + 0x1E

/-- The camera: its stream and ring, then its plane, whose envelope must be unscaled. -/
def setCamera (k n : Nat) (i : Image) (s : State) : Option State :=
  let cam := bootObj s k 9
  if cam / 2 ^ 31 % 2 = 0 then some s
  else match cameraEnv i n with
    | none => none
    | some e =>
      match i.ingress.find? (fun x => x.stream = e.stream) with
      | none => none
      | some x =>
        if e.srcWMax ≠ e.x1 - e.x0 ∨ e.srcHMax ≠ e.y1 - e.y0 then none
        else
          let pitch := (x.maxLineBytes + 255) / 256 * 256
          let base := ringBase s x.channel (bootObj s k 6) (x.ringLines * pitch)
          let s := landPctrl (cam / 2 ^ 16 % 32) true s
          let s := writeStream e.stream
            [mcWr (rg .siSctrl e.stream) (cameraSctrl cam), mcWr (rg .siRingPitch e.stream) pitch,
             mcWr (rg .siRingGeom e.stream) (x.ringLines * 65536 + x.ringLines / 2), mcWr (rg .siRingCtx e.stream) 62,
             mcWr (rg .siRingBaseLo e.stream) (base % 2 ^ 32), mcWr (rg .siRingBaseHi e.stream) (base / 2 ^ 32)] s
          if (s.stream e.stream).ringOk then
            tryItems n (layerItems n e (if cam / 2 ^ 24 % 2 = 1 then 0x38 else 0x39) pitch base) s
          else none

/-- The heads of an image that lead their phase groups by genlock (HEADS FLAGS[1]). -/
def genlockedHeads (i : Image) : List Nat :=
  (List.range 16).filter (fun h => i.hasHead h && (i.head h).genlocked && decide (1 ≤ (i.head h).pg))

/-- Each genlocked head leads its phase group, with REF 1 on the camera's stream. -/
def setGenlock (k n : Nat) (i : Image) (s : State) : Option State :=
  match cameraEnv i n with
  | none => some s
  | some e =>
    if bootObj s k 9 / 2 ^ 31 % 2 = 0 then some s
    else (genlockedHeads i).foldl (fun o h => o.bind (fun s =>
      let g := (i.head h).pg - 1
      tryItems h [[mcWr (rg .btRefOffset g) (bootObj s k 0xA)], [mcWr (rg .btPgCtrl g) (e.stream * 2 ^ 16 + h * 2 ^ 8 + 1)]] s)) (some s)

/-! ### An entry judged (R438) -/

/-- The egress port, its quad and the head that entry k's route names. -/
def routePort (s : State) (k : Nat) : Nat := bootObj s k 4 / 2 ^ 8 % 64
def routeQuad (s : State) (k : Nat) : Nat := routePort s k / 8
def routeHead (s : State) (k : Nat) : Nat := bootObj s k 4 % 16

/-- The stored QCTRL of a quad. -/
def storedQctrl (s : State) (q : Nat) : Nat :=
  match SMap.get (storedValues s) ((0x22C0 + q) * 256 + 1) [] with
  | [] => (rg .oqQctrl q).resetValue.toNat
  | l => leNat l

/-- Whether S9 trains a quad, as far as its settings and its record say (R436). -/
def quadUsable (s : State) (q : Nat) : Bool :=
  decide (storedQctrl s q % 2 = 1) && decide (SMap.get s.start.ledger.quadFails q 0 < 3)

/-- SB0 made LIVE with its HEADS entries applied, then the scene set up; none where an application is rejected. -/
def setScene (k : Nat) (i : Image) (s : State) : Option State :=
  let n := routeHead s k
  let s := mapMc (firstLive 0 i s)
  (setCamera k n i s).bind fun s =>
  (setSplash k n i s).bind fun s =>
  (setGenlock k n i s).bind fun s =>
  (tryItems n [[mcWr (rg .epEctrl (routePort s k)) (2 ^ 31 + bootObj s k 4 / 2 ^ 16 % 4 * 2 ^ 10 + n)]] s).map fun s =>
  completePins s

/-- The load of an image into SB0 by the MC (R80): source 225 fires. -/
def loadBoot (r : List Byte) (s : State) : State × Option Image :=
  let o := judgeRecord s r.length r
  let s := sbResult 0 o.1 s
  match o.2 with
  | some i => (raise 225 (s.setBank 0 { state := .resident, image := some i }), some i)
  | none => (raise 225 (s.setBank 0 {}), none)

/-- Entry k judged: the state it leaves, and whether it is used. -/
def judgeEntry (k : Nat) (s : State) : State × Bool :=
  match bootRecord s k with
  | none => (s, false)
  | some r =>
    if ¬ (parseImage (recordPayload r) (recordAlive r)).bootScene then (s, false)
    else match loadBoot r s with
      | (s, none) => (s, false)
      | (s, some i) =>
        if quadUsable s (routeQuad s k) ∧ i.hasHead (routeHead s k) then
          match setScene k i s with
          | some t => (t, true)
          | none => (s, false)
        else (s, false)

/-- A boot entry judged where none is used yet: the entry used, and how many were judged. One that fails is recorded. -/
def judgeStep (x : State × Option Nat × Nat) (k : Nat) : State × Option Nat × Nat :=
  if x.2.1.isSome ∨ bootObj x.1 k 1 = 0 then x
  else
    match judgeEntry k (noteBootCopies k x.1) with
    | (s, true) => (s, some k, x.2.2 + 1)
    | (s, false) => (noteEntry (fun e => { e with bootFails := e.bootFails ||| 2 ^ k }) s, none, x.2.2 + 1)

/-- The boot entries judged in order, up to the first that is used. -/
def judgeEntries (l : List Nat) (s : State) : State × Option Nat × Nat := l.foldl judgeStep (s, none, 0)

end Sys2Proof.Machine
end

