-- ==== Sys2Proof/Machine/StartCmds.lean ====
section
/-! DEFINITION. Resets and start-up (R427 to R441): the two reset inputs and their filter, the steps S1 to S11, the start ledger, the
outcome of the host and network links, and the supply of the always-on domain. -/

namespace Sys2Proof.Machine

/-! ### Reset (R427) -/

/-- The state of a device that is reset: what the always-on domain keeps is given. The queue, the outputs sent so far and the count of
free values drawn are the model's own and stay. -/
def coldState (p : Power) (aon : AlwaysOn) (s : State) : State :=
  { State.reset with power := p, aon := { aon with faultnLow := true }, pending := s.pending, outbox := s.outbox, fresh := s.fresh }

/-- What PORST_N leaves of the always-on domain: the SPI NOR, the OTP and the SHUTDOWN_CAUSE cell (R427, R457). The level of SYSRST_N and
the rails are what is outside. -/
def aonPorst (s : State) : AlwaysOn :=
  { shutdownCause := s.aon.shutdownCause, nor := s.aon.nor, otpWear := s.aon.otpWear, fuseRevoked := s.aon.fuseRevoked
    sysrstLow := s.aon.sysrstLow, railsWarn := s.aon.railsWarn, railsOut := s.aon.railsOut }

/-- A system reset: the always-on domain and its launch word stay (R427, R431). -/
def sysState (p : Power) (s : State) : State :=
  { coldState p s.aon s with start := { launched := s.start.launched, launchB := s.start.launchB, entryWritten := s.start.entryWritten } }

/-! ### Steps (R432, R434) -/

/-- ms from the release of PORST_N to the end of a step. -/
def endMs (env : StartEnv) (k : Nat) : Nat := env.endMs.getD (k - 1) 0

/-- STEP[s]: outcome (1 OK, 2 FAILED, 3 SKIPPED), attempts, CODE and time. -/
def stepWord (outcome attempts code ms : Nat) : Word :=
  put outcome 30 ||| put (min attempts 63) 24 ||| put code 16 ||| put (min ms 0xFFFF) 0

/-- A STEP word recorded. -/
def setStep (k : Nat) (w : Word) (s : State) : State :=
  noteEntry (fun e => { e with steps := SMap.set e.steps k w 0 }) { s with start := { s.start with steps := SMap.set s.start.steps k w 0 } }

/-- The end of a step: time passes to it; the tick counter has run since the end of S1 (R36). -/
def endStep (env : StartEnv) (k outcome attempts code : Nat) (s : State) : State :=
  let s := toTick ((endMs env k - endMs env 1) * ticksPerMs) s
  setStep k (stepWord outcome attempts code (endMs env k))
    { s with start := { s.start with step := k, ends := SMap.set s.start.ends k s.tick 0 } }

/-- A step that is skipped, with its CODE: S7's is 0xFF, as no boot entry is used (R434). -/
def skipStep (env : StartEnv) (k code : Nat) (s : State) : State := setStep k (stepWord 3 0 code (endMs env k)) s

/-! ### S3: firmware and the persistent store (R297, R430, R431) -/

/-- What the ROM finds in a bank: 1 OK, 2 signature failed, 3 below the rollback floor. -/
def bankOutcome (env : StartEnv) (b : Bool) : Nat := env.bankOutcome.getD (if b then 1 else 0) 2

/-- The bank the ROM tries first: the last good one, or A; the other one than launched where the watchdog found no entry written. -/
def firstBank (s : State) (change : Bool) : Bool :=
  if change then !s.start.launchB
  else (storedLedger s).fwGoodB

/-- CODE of S3. -/
def launchCode (env : StartEnv) (first : Bool) (change : Bool) : Nat :=
  let one (b : Bool) : Nat := if b = first ∨ bankOutcome env first ≠ 1 then bankOutcome env b else 0
  one false + 4 * one true + (if change then 16 else 0)

/-- The registers that persistent objects mirror (R297), but for FAULTN_MASK. -/
def mirrors : List RegId :=
  [rg .txTimeout, rg .caLossPolicy, rg .scSelftest] ++ (List.range 5).map (fun q => rg .siIqMode q) ++
  (List.range 8).map (fun q => rg .oqQctrl q) ++ (List.range 8).map (fun q => rg .oqDsc q)

/-- A mirrored register at its stored value; a quad is enabled at S9 alone. -/
def loadMirror (m : SMap (List Byte)) (s : State) (r : RegId) : State :=
  match persistKey r with
  | none => s
  | some (k, _) =>
    match SMap.get m k [] with
    | [] => s
    | l =>
      let v := BitVec.ofNat 32 (leNat l)
      s.setReg r (if r.name = .oqQctrl then withFld v 0 1 0 else v)

/-- Whether a stored value is that of an object which no register mirrors. -/
def isKept (key : Nat) : Bool :=
  match findObj (key / 256) (key % 256) with
  | .obj d => (match d.val with | .kept _ => true | _ => false)
  | _ => false

/-- A stored number. -/
def storedNat (m : SMap (List Byte)) (key : Nat) : Nat := leNat (SMap.get m key [])

/-- The floors or counters of the key slots as their reservations have them (R307). -/
def storedCounts (m : SMap (List Byte)) (key : Nat → Nat) : SMap Nat :=
  (List.range 16).foldl (fun c j => SMap.set c j (storedNat m (key j)) 0) []

/-- The persistent store loaded (R297, R307, R452, R453). -/
def loadStore (s : State) : State :=
  let m := storedValues s
  let s := mirrors.foldl (loadMirror m) s
  let s := match SMap.get m 0x710003 [] with
    | [] => s
    | l => writeFaultMask (leNat l) s
  { s with
    dict := { s.dict with
      values := m.filter (fun e => isKept e.1)
      floor := storedCounts m floorKey, floorRes := storedCounts m floorKey
      counter := storedCounts m counterKey, counterRes := storedCounts m counterKey }
    therm := { s.therm with
      spireSeconds := max (storedNat m 0x703001) (s.aon.otpWear * 36000)
      opSeconds := storedNat m 0x703002, opStart := 0, hotSeconds := storedNat m 0x703003 } }

/-! ### The ledger entry (R433, R434, R437) -/

/-- The entry of start x, if the ledger holds it. -/
def entryOf (l : Ledger) (x : Nat) : Option LedgerEntry :=
  let e := SMap.get l.entries (x % 16) {}
  if x ≠ 0 ∧ e.startNo = x then some e else none

/-- Whether start x counted as failed. -/
def countedFailed (l : Ledger) (x : Nat) : Bool := (entryOf l x).any (fun e => decide (e.result = 3) || decide (e.result = 0))

/-- An entry that a start finds IN_PROGRESS. -/
def closeEntry (interrupted : Bool) (e : LedgerEntry) : LedgerEntry :=
  if e.startNo ≠ 0 ∧ e.result = 0 then { e with result := if interrupted then 4 else 3 } else e

/-- The copies that a start reads, by their places in COPIES; the boot image's are not read yet (R434). -/
def readCopies (n : Nor) : List (Nat × Outcome) :=
  [(0, foundIn n.storeA), (1, foundIn n.storeB), (2, foundIn n.ledgerA), (3, foundIn n.ledgerB),
   (6, foundIn n.trainA), (7, foundIn n.trainB)]

/-- The ledger taken up and this start's entry made. -/
def openEntry (interrupted : Bool) (s : State) : State :=
  let old := storedLedger s
  let l := { old with entries := old.entries.map (fun e => (e.1, closeEntry interrupted e.2)) }
  let no := old.startCount % 2 ^ 32 + 1
  let failed := ((List.range 10).filter (fun i => countedFailed l (no + i - 10))).length
  let e : LedgerEntry := { startNo := no, result := 0, steps := s.start.steps, links := 0xFF0000, copies := 0xFFFFFFFF }
  let t := { s with start := { s.start with
      startNo := no, failedOf10 := failed, limp := decide (3 ≤ failed)
      ledger := { l with startCount := no, entries := SMap.set l.entries (no % 16) e {} } } }
  (readCopies s.aon.nor).foldl (fun t c => noteCopy c.1 c.2 t) t

/-- RESULT of this start (R434). -/
def setResult (r : Nat) (s : State) : State := noteEntry (fun e => { e with result := r }) s

/-- Whether the ledger write of a point of R433 succeeds. -/
def pointOk (env : StartEnv) (point : Nat) : Bool := env.ledgerOk.getD point true

/-- A write of the ledger at a point of R433; the launch word keeps that the entry is written (R431). -/
def ledgerPoint (env : StartEnv) (point : Nat) (s : State) : State :=
  let s := writeLedger (pointOk env point) s
  { s with start := { s.start with entryWritten := s.start.entryWritten || pointOk env point } }

/-! ### S4: DRAM (R99, R114, R435) -/

/-- Whether the previous start recorded a rung failing on a channel. -/
def rungFailed (s : State) (m r : Nat) : Bool :=
  (entryOf s.start.ledger (s.start.startNo - 1)).any (fun e => (SMap.get e.failed m 0).testBit r)

/-- The stored training values: the rates of each channel, the latest first; none where no copy passes R374. -/
def storedTraining (s : State) : SMap (List Nat) :=
  match chosenOf s.aon.nor.trainA s.aon.nor.trainB with | some c => c.payload | none => []

/-- The rate of a channel's values from the last good start. -/
def storedRate (s : State) (m : Nat) : Option Nat := (SMap.get (storedTraining s) m []).head?

/-- Whether a channel has stored training values. -/
def hasTraining (s : State) (m : Nat) : Bool := (storedRate s m).isSome

/-- A channel's first rung. -/
def firstRung (s : State) (m : Nat) : Nat :=
  if s.obj 0x1100 4 0 = 1 then 1
  else if hasTraining s m && !rungFailed s m 2 then 2
  else if rungFailed s m 1 then 3 else 1

/-- The rungs that a channel goes down: one without stored values has no rung 2. -/
def rungs (s : State) (m : Nat) : List Nat := [1, 2, 3].filter (fun r => decide (firstRung s m ≤ r) && (decide (r ≠ 2) || hasTraining s m))

/-- The rate of a rung. -/
def rungRate (s : State) (m r : Nat) : Nat :=
  match r with
  | 1 => s.obj 0xB000 1 8533
  | 2 => (storedRate s m).getD 0
  | _ => 6400

def rungPasses (env : StartEnv) (m r : Nat) : Bool := (env.rungOk.getD m []).getD (r - 1) false

/-- What S4 makes of a channel: the rungs tried, and the rate it passed at. -/
structure ChannelRun where
  size : Nat
  tried : Nat := 0
  last : Nat := 0
  rate : Nat := 0
  /-- The rungs that failed, bit r for rung r. -/
  failed : Nat := 0
  excluded : Bool := false
  deriving DecidableEq, Repr

/-- A channel trained: down its rungs to the first that passes. -/
def trainChannel (env : StartEnv) (s : State) (m : Nat) : ChannelRun :=
  let size := env.chSize.getD m 0
  if size = 0 then { size := 0 }
  else if 2 ≤ SMap.get s.start.ledger.chFails m 0 then { size := size, excluded := true }
  else
    let l := rungs s m
    let lost := l.takeWhile (fun r => !rungPasses env m r)
    let run : ChannelRun := { size := size, tried := lost.length, last := 3, failed := (lost.map (fun r => 2 ^ r)).sum }
    match l.find? (rungPasses env m) with
    | some r => { run with tried := lost.length + 1, last := r, rate := rungRate s m r }
    | none => run

/-- The byte of a channel in DRAM. -/
def ChannelRun.byte (c : ChannelRun) : Nat :=
  c.last * 64 + (if c.excluded then 3 else if c.tried = 0 then 0 else if c.rate ≠ 0 then 1 else 2) * 16

/-- The common rate: the lowest that an included channel passed at. -/
def commonRate (l : List ChannelRun) : Nat :=
  ((l.filter (fun c => c.rate ≠ 0)).map (·.rate)).foldl (fun a r => if a = 0 then r else min a r) 0

/-- A channel's outcome recorded: its registers and CH_FAILS. -/
def recordChannel (common m : Nat) (c : ChannelRun) (s : State) : State :=
  let reason := if c.size = 0 then 1 else if c.rate = 0 then 2 else 0
  let s := s.setChannel m { sizeGib := c.size, rate := if c.rate = 0 then 0 else common, reason := reason }
  if c.tried = 0 then s
  else noteEntry (fun e => { e with failed := SMap.set e.failed m c.failed 0 })
    (s.setLedger (fun l => { l with
      chFails := SMap.set l.chFails m (if c.rate ≠ 0 then 0 else min 255 (SMap.get l.chFails m 0 + 1)) 0 }))

/-- The training values after S4: a pass at rung 1 or 3 has new ones for its channel and rate. -/
def newTraining (l : List ChannelRun) (t : SMap (List Nat)) : SMap (List Nat) :=
  l.zipIdx.foldl (fun t c =>
    if c.1.rate ≠ 0 ∧ c.1.last ≠ 2 then
      SMap.set t c.2 (c.1.rate :: (SMap.get t c.2 []).filter (fun r => r ≠ c.1.rate)) []
    else t) t

/-- New training values are written to the copy not chosen (R374). -/
def writeTraining (ok : Bool) (l : List ChannelRun) (s : State) : State :=
  if l.all (fun c => decide (c.rate = 0) || decide (c.last = 2)) then s
  else
    let n := s.aon.nor
    let c := newCopy n.trainA n.trainB (readBack ok s) (newTraining l (storedTraining s))
    (s.setNor (fun n => if rewritesB n.trainA n.trainB then { n with trainB := some c } else { n with trainA := some c })).draw 1

/-- S4. RETRAIN_NEXT is cleared at this start. -/
def stepDram (env : StartEnv) (s : State) : State :=
  let l := (List.range 4).map (trainChannel env s)
  let common := commonRate l
  let s := writeTraining env.trainingOk l (l.zipIdx.foldl (fun s c => recordChannel common c.2 c.1 s) s)
  let s := noteEntry (fun e => { e with dram := BitVec.ofNat 32 (leNat (l.map (fun c => BitVec.ofNat 8 c.byte))) }) s
  let s := if s.obj 0x1100 4 0 = 1 then
      queueStore 0x110004 [0] { s with dict := { s.dict with values := SMap.set s.dict.values 0x110004 [0] [] } }
    else s
  let lost := l.any (fun c => decide (c.size ≠ 0) && decide (c.rate = 0))
  endStep env 4 (if lost then 2 else 1) (l.foldl (fun a c => max a c.tried) 0) (if lost then 1 else 0) s

/-- Whether some channel is included. -/
def anyChannel (s : State) : Bool := (List.range 4).any (fun m => decide (usable s m ≠ 0))

/-! ### Link outcomes (R360, R432) -/

/-- The bits of a word that belong to an endpoint's functions replaced. -/
def endpointBits (k : Nat) (old : BitVec 32) (v : BitVec 16) : BitVec 32 :=
  (old &&& ~~~(0xFFFF#32 <<< (16 * k))) ||| (v.zeroExtend 32 <<< (16 * k))

/-- The configuration that the host has programmed at an endpoint; a message that it releases is sent (R350; log entry 55). -/
def hostConfig (k : Nat) (c : HostConfig) (s : State) : State :=
  let s' := { s with hl := { s.hl with
    vfEnable := setBit s.hl.vfEnable k c.vfEnable
    msixEn := endpointBits k s.hl.msixEn c.msixEnable
    fnMask := endpointBits k s.hl.fnMask c.fnMask
    pmeEn := endpointBits k s.hl.pmeEn c.pmeEnable
    bar2 := SMap.set s.hl.bar2 k c.bar2.val 4 } }
  (List.range 16).foldl (fun x i => settle (16 * k + i) s x) s'

/-- PCIE_LINK_UP: the rate, the lanes that trained and what the host programs over the link; source 289 + k fires where the link
was down (R320, R360). An idle link may go to L1.2 with every function in D0 (ASPM, R320): the event says so. -/
def pcieLinkUp (k : Nat) (speed width : Nat) (cfg : HostConfig) (l12 : Bool) (s : State) : State :=
  let was := (s.link k).up
  let s := hostConfig k cfg (s.setLink k { s.link k with up := true, speed := speed, width := width })
  let s := if was then s else raise (289 + k) s
  s.setLink k { s.link k with l12 := l12 }

/-! ### S5 and S6: links (R317, R432) -/

/-- S5: the endpoints are enabled; the outcome of their links comes later. -/
def stepPcie (env : StartEnv) (s : State) : State :=
  endStep env 5 1 1 0 { s with start := { s.start with linksDue := setBit s.start.linksDue 0 true } }

/-- Whether an interface's ENABLE object is 1. -/
def ifaceEnabled (s : State) (i : Nat) : Bool := decide (s.obj (if i < 2 then 0x9000 + i else 0x9010 + (i - 2)) 1 0 = 1)

/-- S6: the network interfaces take their objects. -/
def stepNetwork (env : StartEnv) (s : State) : State :=
  let s := (List.range 4).foldl (fun s i => setIface i (ifaceEnabled s i) s) s
  endStep env 6 1 1 0 { s with start := { s.start with linksDue := setBit s.start.linksDue 1 true } }

/-! ### S7 and S8: the boot scene and the keep path (R190, R201, R210, R438, R439) -/

/-- S7: its attempts are the entries judged. -/
def stepBoot (env : StartEnv) (s : State) : State :=
  match judgeEntries [0, 1, 2, 3] s with
  | (t, used, tried) =>
    let t := { t with start := { t.start with bootEntry := used.getD 0xFF, bootPort := used.map (routePort s) } }
    let t := noteEntry (fun e => { e with links := withFld e.links 16 8 (used.getD 0xFF) }) t
    endStep env 7 (if used.isSome then 1 else 2) tried (used.getD 0xFF) t

/-- The target that the keep owner's sources are enabled at (R201). -/
def ownerTarget (owner : Nat) : Nat := if owner < 0x20 then owner else 32

/-- The boot head, if an entry is used. -/
def bootHead (s : State) : Option Nat := if s.start.bootEntry < 4 then some (routeHead s s.start.bootEntry) else none

/-- S8: the keep owner is set, the self-test runs, the boot head is enabled, and FAULT_N is released. -/
def stepKeep (env : StartEnv) (s : State) : State :=
  let owner := s.obj 0x5001 0 0x80
  let code := env.keepCode
  let s := { s with keep := { s.keep with owner := owner, available := decide (code = 0), startCode := code } }
  let s := keepSources (ownerTarget owner) s
  let s := if code = 0 then s else setCategory 2 0xFFFF s
  let s := match bootHead s with
    | some n => landHeadCtrl n (match headEntry s n with | some e => e.pg | none => 0) true s
    | none => s
  let s := clearCategory 4 { s with aon := { s.aon with faultnLow := false } }
  endStep env 8 (if code = 0 then 1 else 2) 1 code s

/-! ### S9: output quads (R264, R436, R437) -/

/-- The quads that S9 trains: in a limp start the boot entry's alone. -/
def quadsToTrain (s : State) : List Nat :=
  (List.range 8).filter (fun q => quadUsable s q &&
    (!s.start.limp || (decide (s.start.bootEntry < 4) && decide (routeQuad s s.start.bootEntry = q))))

/-- Whether a quad failed at the previous start. -/
def quadFailedLast (s : State) (q : Nat) : Bool :=
  (entryOf s.start.ledger (s.start.startNo - 1)).any (fun e => decide (fld e.links (2 * q) 2 = 2))

/-- The rate that a quad trains at where it failed at the previous start: its last good one (R436). -/
def bootRate (s : State) (q : Nat) : Option Nat :=
  if quadFailedLast s q then some (fixRate (fld (BitVec.ofNat 32 (storedQctrl s q)) 24 2) (SMap.get s.aon.nor.lastGood q 0)) else none

/-- The end of a port's training at start-up: at the rate that the environment gives, no better than it began at, or FAILED. -/
def bootTrained (env : StartEnv) (s : State) (q t : Nat) : Option Nat :=
  (((env.quadRate.getD q []).getD t none).map (fun r => min r (s.txPort q t).target)).filter (trainsAt s q t)

/-- What became of a quad: 0 nothing trained, 1 UP, 2 FAILED. -/
def quadOutcome (s : State) (q : Nat) : Nat :=
  let l := trainable s q
  if l.isEmpty then 0 else if l.all (fun t => decide ((s.txPort q t).state = .up)) then 1 else 2

/-- A quad enabled and trained, its count and its bits of LINKS recorded. -/
def trainBootQuad (env : StartEnv) (s : State) (q : Nat) : State :=
  let n := SMap.get s.start.ledger.quadFails q 0
  let s := s.setLedger (fun l => { l with quadFails := SMap.set l.quadFails q 0 0 })
  let s := landQctrlAt q (BitVec.ofNat 32 (storedQctrl s q)) (bootRate s q) s
  let s := (trainable s q).foldl (fun s t => trainingComplete q t (bootTrained env s q t) s) s
  let x := quadOutcome s q
  let count := match x with | 0 => n | 1 => 0 | _ => min 255 (n + 1)
  noteEntry (fun e => { e with links := withFld e.links (2 * q) 2 x })
    (s.setLedger (fun l => { l with quadFails := SMap.set l.quadFails q count 0 }))

/-- S9. -/
def stepQuads (env : StartEnv) (s : State) : State :=
  let l := quadsToTrain s
  let s := ((List.range 8).filter (fun q => 3 ≤ SMap.get s.start.ledger.quadFails q 0)).foldl
    (fun s q => noteEntry (fun e => { e with links := withFld e.links (2 * q) 2 3 }) s) s
  let s := l.foldl (trainBootQuad env) s
  let failed := (l.filter (fun q => quadOutcome s q = 2)).length
  endStep env 9 (if failed = 0 then 1 else 2) 1 failed s

/-! ### S10: the cascade (R407, R414) -/

/-- The role (R407): the strap's, or the stored one. -/
def roleOf (s : State) : Nat :=
  if s.aon.straps.cascRole = 3 then s.obj 0x8000 2 0 else s.aon.straps.cascRole.toNat

/-- The ports a role uses come up where they do: the belfry's down port, both of a turret. -/
def trainOsl (env : StartEnv) (s : State) : State :=
  ([0, 1].filter (fun u => env.oslUp.getLsbD u && (decide (s.casc.role = 2) || decide (u = 1)))).foldl (fun s u => oslLink u true s) s

/-- The join of S10: the belfry is JOINED, with turrets or on its own; a turret joins, or is LOST. -/
def stepJoin (env : StartEnv) (s : State) : State :=
  match s.casc.role with
  | 0 => s
  | 1 =>
    let s := setCasc .joined s
    if env.joined ∧ (s.osl 1).up then join 0 env.cascDevices env.cascHighest env.cascRefused s else s
  | _ =>
    let s := setCasc .joining s
    joinTimeout (if env.joined then join env.cascPosition.toNat env.cascDevices env.cascHighest env.cascRefused s else s)

/-- STATE of the cascade as a number. -/
def cascCode (s : State) : Nat := fld (cascStatus s) 26 2

/-- S10; a limp start skips it, and its ports stay down (R437). -/
def stepCascade (env : StartEnv) (s : State) : State :=
  if s.start.limp then skipStep env 10 0 s
  else
    let s := { s with casc := { s.casc with role := roleOf s } }
    let s := stepJoin env (trainOsl env s)
    endStep env 10 (if s.casc.state = .lost then 2 else 1) 1 (cascCode s) s

/-! ### The whole start -/

/-- S11 reached: RESULT, FW_GOOD, READY and a NOTIFY of class 6; a start that failed writes the ledger once more (R433, R439). -/
def stepReady (env : StartEnv) (s : State) : State :=
  let failed := decide (fld (SMap.get s.start.steps 7 0) 30 2 = 2)
  let result := if failed then 3 else if s.start.limp then 2 else 1
  let s := if s.start.recovery then s else s.setLedger (fun l => { l with fwGoodB := s.start.launchB })
  let s := ledgerPoint env 2 (if failed then s else setResult result s)
  let s := endStep env 11 1 1 0 s
  let s := noteFree 6 0xFFFF 0 none { s with power := .on, start := { s.start with ready := true, step := 11 } }
  if failed then ledgerPoint env 3 (setResult 3 s) else s

/-- S4 to S11, with the ledger's writes between them (R432, R433). A recovery start has run S5 already, and skips S7 and S9 (R428). -/
def runFirmware (env : StartEnv) (s : State) : State :=
  let s := ledgerPoint env 1 (stepDram env (ledgerPoint env 0 s))
  if ¬ anyChannel s then { ledgerPoint env 3 (setResult 3 s) with power := .halted 4 }
  else
    let r := s.start.recovery
    let s := stepNetwork env (if r then s else stepPcie env s)
    let s := stepKeep env (if r then skipStep env 7 0xFF s else stepBoot env s)
    stepReady env (stepCascade env (if r then skipStep env 9 0 s else stepQuads env s))

/-- Whether a recovery start has an image to launch. -/
def recoveryOk (env : StartEnv) : Bool :=
  env.recoveryLink.isSome && decide (env.recoverySize ≤ 0x400000) && decide (env.recoveryOutcome = 1)

/-- The ROM of a recovery start: P0 trained at S5 before S3, and an image of at most 4 MiB taken through the load window and verified
(R428, R430). -/
def recoveryLaunch (env : StartEnv) (s : State) : State :=
  let s := stepPcie env s
  match env.recoveryLink with
  | none => s
  | some l => pcieLinkUp 0 (l.1.val + 1) (2 ^ l.2.width.val) l.2.cfg l.2.l12 s

/-- The start from S1 on a device that has been reset. `change` is a watchdog bank change; `interrupted` says that the launch word
shows SYSRST_N to have ended the start before (R430, R431, R434). -/
def runStart (env : StartEnv) (change interrupted : Bool) (s : State) : State :=
  let s := monitorRails { s with power := .starting, start := { s.start with recovery := s.aon.straps.bootSrc } }
  if ¬ env.clocksOk then { endStep env 1 2 1 0 s with power := .halted 1 }
  else
    let s := endStep env 1 1 1 0 s
    if ¬ env.fusesOk then { endStep env 2 2 1 0 s with power := .halted 2 }
    else
      let s := endStep env 2 1 1 0 s
      if s.start.recovery then
        let s := recoveryLaunch env s
        if ¬ recoveryOk env then { endStep env 3 2 1 0 s with power := .halted 3 }
        else
          let b := (Config.undefinedByte s.fresh).toNat % 2
          let s := { s.draw 1 with start := { s.start with fwBank := b, launched := true, entryWritten := false } }
          runFirmware env (openEntry interrupted (endStep env 3 1 1 0 (loadStore s)))
      else
        let first := firstBank s change
        let good := decide (bankOutcome env first = 1)
        if ¬ good ∧ bankOutcome env (!first) ≠ 1 then { endStep env 3 2 2 (launchCode env first change) s with power := .halted 3 }
        else
          let b := if good then first else !first
          let s := { s with start := { s.start with
            fwBank := if b then 1 else 0, launched := true, launchB := b, entryWritten := false } }
          let s := endStep env 3 1 (if good then 1 else 2) (launchCode env first change) (loadStore s)
          runFirmware env (openEntry interrupted s)

/-- A start as for SYSRST_N: an entry left IN_PROGRESS was interrupted where the launch word shows that it was written. -/
def restart (env : StartEnv) (s : State) : State := runStart env false (s.start.launched && s.start.entryWritten) (sysState .starting s)

/-- A start that the firmware watchdog brings about (R431). -/
def watchdogStart (env : StartEnv) (s : State) : State := runStart env (!s.start.entryWritten) false (sysState .starting s)

/-! ### Reset commands (R427, R476 to R478) -/

/-- PORST_N goes low. -/
def assertPorst (s : State) : State := coldState .inReset { aonPorst s with porstLow := true } s

/-- PORST_N rises: the straps are captured; S1 waits while SYSRST_N is low. -/
def releasePorst (straps : Straps) (env : StartEnv) (s : State) : State :=
  let s := coldState .inReset { aonPorst s with straps := straps } s
  if s.aon.sysrstLow then s else runStart env false false s

/-- Whether the device can be reset by SYSRST_N: it has power, is not shut down, and PORST_N is high. -/
def sysrstActs (s : State) : Bool := !s.aon.porstLow && (match s.power with | .shutdown | .off => false | _ => true)

/-- SYSRST_N goes low. -/
def assertSysrst (s : State) : State :=
  let s := { s with aon := { s.aon with sysrstLow := true } }
  if sysrstActs s then sysState .inReset s else s

/-- SYSRST_N rises. -/
def releaseSysrst (env : StartEnv) (s : State) : State :=
  let s := { s with aon := { s.aon with sysrstLow := false } }
  if sysrstActs s then restart env s else s

/-- POWER_ON_RESET. -/
def execPowerOnReset (straps : Straps) (env : StartEnv) (s : State) : Result := .next (releasePorst straps env s)

/-- SYSTEM_RESET. -/
def execSystemReset (env : StartEnv) (s : State) : Result := .next (releaseSysrst env s)

/-- RESET_ASSERTED: a device without VDD_AON has no inputs. -/
def execResetAsserted (pin : ResetPin) (s : State) : Result :=
  .next (match s.power, pin with
    | .off, _ => s
    | _, .porst => assertPorst s
    | _, .sysrst => assertSysrst s)

/-- t_F of a reset input in ns: 1,000 to 9,999, so that 10 µs always resets and 1 µs never does (R476, R478). -/
def filterNs (pin : ResetPin) : Nat := 1000 + Config.resetFilter (match pin with | .porst => 0 | .sysrst => 1) % 9000

/-- RESET_GLITCH: a low pulse on an input that was high. One no longer than t_F changes nothing. -/
def resetGlitch (pin : ResetPin) (ns : Nat) (straps : Straps) (env : StartEnv) (s : State) : State :=
  if ns ≤ filterNs pin ∨ s.power = .off ∨ s.aon.porstLow then s
  else match pin with
    | .porst => releasePorst straps env (assertPorst s)
    | .sysrst => if s.aon.sysrstLow then s else releaseSysrst env (assertSysrst s)

def execResetGlitch (pin : ResetPin) (ns : Nat) (straps : Straps) (env : StartEnv) (s : State) : Result :=
  .next (resetGlitch pin ns straps env s)

/-- Whether the firmware runs, and with it its watchdog. -/
def firmwareRuns (s : State) : Bool := match s.power with
  | .on => true
  | .halted k => decide (4 ≤ k)
  | _ => false

/-- WATCHDOG_EXPIRY. -/
def execWatchdogExpiry (env : StartEnv) (s : State) : Result := .next (if firmwareRuns s then watchdogStart env s else s)

/-- MC_LOCKSTEP_FAULT (R461): category 4 stays set through the restart, to S8. -/
def lockstepFault (env : StartEnv) (s : State) : State :=
  let s := setCategory 4 0xFFFF s
  let t := sysState .starting s
  runStart env (!s.start.entryWritten) false { t with safety := { t.safety with category := setBit t.safety.category 4 true } }

def execMcLockstepFault (env : StartEnv) (s : State) : Result := .next (if firmwareRuns s then lockstepFault env s else s)

/-! ### Supplies (R457, R458) -/

/-- What a VDD_AON fault resets, as PORST_N does (R458); S1 to S11 then run by POWER_ON_RESET. -/
def aonFault (s : State) : State :=
  if s.aon.porstLow then coldState .inReset { aonPorst s with porstLow := true } s else coldState .starting (aonPorst s) s

/-- SUPPLY_EXCURSION (R458): VDD_AON is the third rail of the table. -/
def supplyExcursion (rail : Nat) (fault : Bool) (s : State) : State :=
  if s.power = .off then s
  else
    let s := settleSpire .ok (railOut rail fault s)
    if rail = 2 ∧ fault then aonFault s else s

/-- The monitors stand in the always-on domain: they act whatever the rest of the device does. -/
def execSupplyExcursion (rail : Fin 11) (fault : Bool) (s : State) : Result := .next (supplyExcursion rail.val fault s)

/-- VDD_AON_REMOVAL: only the SPI NOR and the OTP are left. -/
def execVddAonRemoval (s : State) : Result := .next (coldState .off { aonPorst s with shutdownCause := 0, sysrstLow := false, railsWarn := [], railsOut := [] } s)

/-! ### Commands of the links (R360, R432) -/

def execPcieLinkUp (k : Fin 2) (speed : Fin 5) (link : LinkOutcome) (s : State) : Result :=
  powered s (pcieLinkUp k.val (speed.val + 1) (2 ^ link.width.val) link.cfg link.l12)

/-- NETWORK_LINK_UP: the outcome of an enabled interface is recorded. -/
def networkLinkUp (i : Nat) (s : State) : State :=
  if (SMap.get s.dict.ifaces i {}).on then { s with start := { s.start with netUp := setBit s.start.netUp i true } } else s

def execNetworkLinkUp (i : Fin 4) (s : State) : Result := powered s (networkLinkUp i.val)

/-- The links of S5 or S6 that have not come up, one bit each. -/
def linksMissing (s : State) (step : Nat) : Nat :=
  if step = 0 then ((List.range 2).filter (fun k => !(s.link k).up)).foldl (fun a k => a + 2 ^ k) 0
  else ((List.range 4).filter (fun i => (SMap.get s.dict.ifaces i {}).on && !s.start.netUp.getLsbD i)).foldl (fun a i => a + 2 ^ i) 0

/-- LINK_OUTCOME_TIMEOUT: 1 s after S5 or S6, links that have not come up are recorded in the step's CODE. -/
def linkOutcome (step : Nat) (s : State) : State :=
  if ¬ s.start.linksDue.getLsbD step then s
  else
    let k := 5 + step
    let s := toTick (SMap.get s.start.ends k 0 + 1000 * ticksPerMs) s
    let s := { s with start := { s.start with linksDue := setBit s.start.linksDue step false } }
    let w := SMap.get s.start.steps k 0
    let miss := linksMissing s step
    if miss = 0 then s else setStep k (withFld (withFld w 16 8 miss) 30 2 2) s

def execLinkOutcomeTimeout (step : Fin 2) (s : State) : Result := powered s (linkOutcome step.val)

end Sys2Proof.Machine
end

