-- ==== Sys2Proof/Machine/Dispatch.lean ====
section
/-! DEFINITION. One arm per command: the meaning of each. -/

namespace Sys2Proof.Machine

/-- The effect of a command on everything but the queue. -/
def exec (i : Instr) (s : State) : Host.Outcome State Fault Refusal :=
  match i with
  | .powerOnReset straps env => Sys2Proof.Machine.execPowerOnReset straps env s
  | .systemReset env => Sys2Proof.Machine.execSystemReset env s
  | .resetGlitch pin ns straps env => Sys2Proof.Machine.execResetGlitch pin ns straps env s
  | .watchdogExpiry env => Sys2Proof.Machine.execWatchdogExpiry env s
  | .headEnable src n pg => Sys2Proof.Machine.execHeadEnable src n pg s
  | .headDisable src n pg => Sys2Proof.Machine.execHeadDisable src n pg s
  | .headBegin n => Sys2Proof.Machine.execHeadBegin n s
  | .headStop n => Sys2Proof.Machine.execHeadStop n s
  | .frameAnchor n => Sys2Proof.Machine.execFrameAnchor n s
  | .fetchWindowOpen n lost => Sys2Proof.Machine.execFetchWindowOpen n lost s
  | .selection n => Sys2Proof.Machine.execSelection n s
  | .headLatch n => Sys2Proof.Machine.execHeadLatch n s
  | .slewDecision g => Sys2Proof.Machine.execSlewDecision g s
  | .genlockEdge rising => Sys2Proof.Machine.execGenlockEdge rising s
  | .holdoverTimeout g => Sys2Proof.Machine.execHoldoverTimeout g s
  | .flareFire l => Sys2Proof.Machine.execFlareFire l s
  | .pulseEnd l => Sys2Proof.Machine.execPulseEnd l s
  | .writeLand b => Sys2Proof.Machine.execWriteLand b s
  | .registerWrite src addr dwords => Sys2Proof.Machine.execRegisterWrite src addr dwords s
  | .groupKeyWrite src addr data => Sys2Proof.Machine.execGroupKeyWrite src addr data s
  | .groupPending key => Sys2Proof.Machine.execGroupPending key s
  | .reservedWrite f addr dwords => Sys2Proof.Machine.execReservedWrite f addr dwords s
  | .unsupportedRequest f bar off write => Sys2Proof.Machine.execUnsupportedRequest f bar off write s
  | .poisonedTlp f addr => Sys2Proof.Machine.execPoisonedTlp f addr s
  | .ecrcError f addr => Sys2Proof.Machine.execEcrcError f addr s
  | .sbLoad src bank => Sys2Proof.Machine.execSbLoad src bank s
  | .sbUnload src bank => Sys2Proof.Machine.execSbUnload src bank s
  | .loadComplete => Sys2Proof.Machine.execLoadComplete s
  | .eccCorrectable m burst req => Sys2Proof.Machine.execEccCorrectable m burst req s
  | .eccUncorrectable m burst req partialWrite metadata => Sys2Proof.Machine.execEccUncorrectable m burst req partialWrite metadata s
  | .eccWriteback m => Sys2Proof.Machine.execEccWriteback m s
  | .patrolScrub m burst single => Sys2Proof.Machine.execPatrolScrub m burst single s
  | .pinComplete i_ => Sys2Proof.Machine.execPinComplete i_ s
  | .tlbInv src ctx all => Sys2Proof.Machine.execTlbInv src ctx all s
  | .rewalkComplete i_ => Sys2Proof.Machine.execRewalkComplete i_ s
  | .mr4Poll m mult hot => Sys2Proof.Machine.execMr4Poll m mult hot s
  | .bar2Read f off len => Sys2Proof.Machine.execBar2Read f off len s
  | .bar2Write f off bytes poisoned => Sys2Proof.Machine.execBar2Write f off bytes poisoned s
  | .doorbellQueue f p => Sys2Proof.Machine.execDoorbellQueue f p s
  | .doorbellQueueStaged f p => Sys2Proof.Machine.execDoorbellQueueStaged f p s
  | .doorbellSignal f p => Sys2Proof.Machine.execDoorbellSignal f p s
  | .doorbellCancel f p => Sys2Proof.Machine.execDoorbellCancel f p s
  | .doorbellBadOp f p op => Sys2Proof.Machine.execDoorbellBadOp f p op s
  | .stageCopyDone slot k lines => Sys2Proof.Machine.execStageCopyDone slot k lines s
  | .stageCopyFail slot k detail lines => Sys2Proof.Machine.execStageCopyFail slot k detail lines s
  | .keepMismatch n col row unknown => Sys2Proof.Machine.execKeepMismatch n col row unknown s
  | .shadowLate n x y => Sys2Proof.Machine.execShadowLate n x y s
  | .keepClockFault t => Sys2Proof.Machine.execKeepClockFault t s
  | .selftestLine n pass => Sys2Proof.Machine.execSelftestLine n pass s
  | .keepClear src n regions => Sys2Proof.Machine.execKeepClear src n regions s
  | .waitl l => Sys2Proof.Machine.execWaitl l s
  | .waitlDone l => Sys2Proof.Machine.execWaitlDone l s
  | .waitp l => Sys2Proof.Machine.execWaitp l s
  | .waitpDone l => Sys2Proof.Machine.execWaitpDone l s
  | .waitf l => Sys2Proof.Machine.execWaitf l s
  | .waitfDone l => Sys2Proof.Machine.execWaitfDone l s
  | .halt l => Sys2Proof.Machine.execHalt l s
  | .nop l => Sys2Proof.Machine.execNop l s
  | .movi l => Sys2Proof.Machine.execMovi l s
  | .addi l => Sys2Proof.Machine.execAddi l s
  | .subi l => Sys2Proof.Machine.execSubi l s
  | .and l => Sys2Proof.Machine.execAnd l s
  | .cmpi l => Sys2Proof.Machine.execCmpi l s
  | .br l => Sys2Proof.Machine.execBr l s
  | .jmp l => Sys2Proof.Machine.execJmp l s
  | .flare l => Sys2Proof.Machine.execFlare l s
  | .latch l => Sys2Proof.Machine.execLatch l s
  | .signal l => Sys2Proof.Machine.execSignal l s
  | .testf l => Sys2Proof.Machine.execTestf l s
  | .scan l => Sys2Proof.Machine.execScan l s
  | .stamp l => Sys2Proof.Machine.execStamp l s
  | .irq l => Sys2Proof.Machine.execIrq l s
  | .sync l => Sys2Proof.Machine.execSync l s
  | .syncMarker l marker => Sys2Proof.Machine.execSyncMarker l marker s
  | .lanternStart src l len entry => Sys2Proof.Machine.execLanternStart src l len entry s
  | .lanternStop src l len entry => Sys2Proof.Machine.execLanternStop src l len entry s
  | .csiFs p vc => Sys2Proof.Machine.execCsiFs p vc s
  | .csiFe p vc => Sys2Proof.Machine.execCsiFe p vc s
  | .csiLongPacket p vc dt payload crcOk => Sys2Proof.Machine.execCsiLongPacket p vc dt payload crcOk s
  | .csiShortIgnored p vc dt => Sys2Proof.Machine.execCsiShortIgnored p vc dt s
  | .headerEccError p => Sys2Proof.Machine.execHeaderEccError p s
  | .portLockGain p gear rate => Sys2Proof.Machine.execPortLockGain p gear rate s
  | .portLockLoss p => Sys2Proof.Machine.execPortLockLoss p s
  | .pctrlEnable src p => Sys2Proof.Machine.execPctrlEnable src p s
  | .pctrlDisable src p => Sys2Proof.Machine.execPctrlDisable src p s
  | .quadEnable src q value => Sys2Proof.Machine.execQuadEnable src q value s
  | .quadDisable src q value => Sys2Proof.Machine.execQuadDisable src q value s
  | .retrain src q value => Sys2Proof.Machine.execRetrain src q value s
  | .trainingComplete q t rate => Sys2Proof.Machine.execTrainingComplete q t rate s
  | .linkLoss q t => Sys2Proof.Machine.execLinkLoss q t s
  | .hpdPlug q t level => Sys2Proof.Machine.execHpdPlug q t level s
  | .hpdIrq q t fault => Sys2Proof.Machine.execHpdIrq q t fault s
  | .auxNativeWrite src q t lenM1 => Sys2Proof.Machine.execAuxNativeWrite src q t lenM1 s
  | .auxNativeRead src q t lenM1 => Sys2Proof.Machine.execAuxNativeRead src q t lenM1 s
  | .auxI2cWrite src q t lenM1 => Sys2Proof.Machine.execAuxI2cWrite src q t lenM1 s
  | .auxI2cRead src q t lenM1 => Sys2Proof.Machine.execAuxI2cRead src q t lenM1 s
  | .auxComplete q t result count bytes => Sys2Proof.Machine.execAuxComplete q t result count bytes s
  | .open src full => Sys2Proof.Machine.execOpen src full s
  | .draftWrite src off data => Sys2Proof.Machine.execDraftWrite src off data s
  | .commit src ticket mask => Sys2Proof.Machine.execCommit src ticket mask s
  | .rollback src ticket => Sys2Proof.Machine.execRollback src ticket s
  | .verificationComplete => Sys2Proof.Machine.execVerificationComplete s
  | .ticketTimeout t => Sys2Proof.Machine.execTicketTimeout t s
  | .read m => Sys2Proof.Machine.execRead m s
  | .write m => Sys2Proof.Machine.execWrite m s
  | .readSeg m => Sys2Proof.Machine.execReadSeg m s
  | .writeSeg m => Sys2Proof.Machine.execWriteSeg m s
  | .txBegin m => Sys2Proof.Machine.execTxBegin m s
  | .txCommit m => Sys2Proof.Machine.execTxCommit m s
  | .txRollback m => Sys2Proof.Machine.execTxRollback m s
  | .undefinedOpcode m => Sys2Proof.Machine.execUndefinedOpcode m s
  | .send f len => Sys2Proof.Machine.execSend f len s
  | .windowResponse f => Sys2Proof.Machine.execWindowResponse f s
  | .notify cls => Sys2Proof.Machine.execNotify cls s
  | .segmentTimeout src udp => Sys2Proof.Machine.execSegmentTimeout src udp s
  | .storeWrite ok => Sys2Proof.Machine.execStoreWrite ok s
  | .diagChallenge src => Sys2Proof.Machine.execDiagChallenge src s
  | .diagResponse src mac => Sys2Proof.Machine.execDiagResponse src mac s
  | .diagSessionEnd src => Sys2Proof.Machine.execDiagSessionEnd src s
  | .diagSessionTimeout => Sys2Proof.Machine.execDiagSessionTimeout s
  | .diagLockoutEnd => Sys2Proof.Machine.execDiagLockoutEnd s
  | .deviceLock src value => Sys2Proof.Machine.execDeviceLock src value s
  | .keyRevoke src j value => Sys2Proof.Machine.execKeyRevoke src j value s
  | .ledgerClear src value ok => Sys2Proof.Machine.execLedgerClear src value ok s
  | .functionLevelReset f => Sys2Proof.Machine.execFunctionLevelReset f s
  | .hotReset k => Sys2Proof.Machine.execHotReset k s
  | .pcieLinkUp k speed link => Sys2Proof.Machine.execPcieLinkUp k speed link s
  | .pcieLinkDown k => Sys2Proof.Machine.execPcieLinkDown k s
  | .d3hotEntry entry => Sys2Proof.Machine.execD3hotEntry entry s
  | .d0Return f => Sys2Proof.Machine.execD0Return f s
  | .claim src selected full => Sys2Proof.Machine.execClaim src selected full s
  | .eoi src selected source => Sys2Proof.Machine.execEoi src selected source s
  | .pendSet src selected k bits => Sys2Proof.Machine.execPendSet src selected k bits s
  | .pendClr src selected k bits => Sys2Proof.Machine.execPendClr src selected k bits s
  | .maskSet src selected k bits => Sys2Proof.Machine.execMaskSet src selected k bits s
  | .maskClr src selected k bits => Sys2Proof.Machine.execMaskClr src selected k bits s
  | .coalesceTimeout g => Sys2Proof.Machine.execCoalesceTimeout g s
  | .cvStart src u value => Sys2Proof.Machine.execCvStart src u value s
  | .cvAbort src u value => Sys2Proof.Machine.execCvAbort src u value s
  | .cvProgramEnd u => Sys2Proof.Machine.execCvProgramEnd u s
  | .submit f e => Sys2Proof.Machine.execSubmit f e s
  | .blitCommandStart e => Sys2Proof.Machine.execBlitCommandStart e s
  | .blitCommandComplete e => Sys2Proof.Machine.execBlitCommandComplete e s
  | .cringRdWrite f e value => Sys2Proof.Machine.execCringRdWrite f e value s
  | .preset src k j value => Sys2Proof.Machine.execPreset src k j value s
  | .freeze src on => Sys2Proof.Machine.execFreeze src on s
  | .counterWrap k j n => Sys2Proof.Machine.execCounterWrap k j n s
  | .join position devices highest secondBelfry => Sys2Proof.Machine.execJoin position devices highest secondBelfry s
  | .joinTimeout => Sys2Proof.Machine.execJoinTimeout s
  | .belfryLoss => Sys2Proof.Machine.execBelfryLoss s
  | .delayProbe u delay => Sys2Proof.Machine.execDelayProbe u delay s
  | .osleigLinkChange u up => Sys2Proof.Machine.execOsleigLinkChange u up s
  | .segmentLineReceived u channel last p => Sys2Proof.Machine.execSegmentLineReceived u channel last p s
  | .segmentLineUnusable k line => Sys2Proof.Machine.execSegmentLineUnusable k line s
  | .sensorSample temps => Sys2Proof.Machine.execSensorSample temps s
  | .thermalEvaluation => Sys2Proof.Machine.execThermalEvaluation s
  | .spireEntryRequest src => Sys2Proof.Machine.execSpireEntryRequest src s
  | .spireExitRequest src => Sys2Proof.Machine.execSpireExitRequest src s
  | .spireVoltageReady => Sys2Proof.Machine.execSpireVoltageReady s
  | .spireSecond ok => Sys2Proof.Machine.execSpireSecond ok s
  | .wearStore ok => Sys2Proof.Machine.execWearStore ok s
  | .shedTimer => Sys2Proof.Machine.execShedTimer s
  | .thermalShutdown => Sys2Proof.Machine.execThermalShutdown s
  | .aonComparatorShutdown => Sys2Proof.Machine.execAonComparatorShutdown s
  | .shutdownCauseRead src => Sys2Proof.Machine.execShutdownCauseRead src s
  | .supplyExcursion rail fault => Sys2Proof.Machine.execSupplyExcursion rail fault s
  | .pllLockLoss p => Sys2Proof.Machine.execPllLockLoss p s
  | .mcLockstepFault env => Sys2Proof.Machine.execMcLockstepFault env s
  | .faultClear src cats => Sys2Proof.Machine.execFaultClear src cats s
  | .heartbeat => Sys2Proof.Machine.execHeartbeat s
  | .safetyManagerLoss => Sys2Proof.Machine.execSafetyManagerLoss s
  | .pgFrameStart g tick => Sys2Proof.Machine.execPgFrameStart g tick s
  | .spireSupplyTimeout => Sys2Proof.Machine.execSpireSupplyTimeout s
  | .pllLockRegained p => Sys2Proof.Machine.execPllLockRegained p s
  | .railInWindow rail => Sys2Proof.Machine.execRailInWindow rail s
  | .keepClockRestored t => Sys2Proof.Machine.execKeepClockRestored t s
  | .jtagInstruction op => Sys2Proof.Machine.execJtagInstruction op s
  | .networkLinkUp i_ => Sys2Proof.Machine.execNetworkLinkUp i_ s
  | .linkOutcomeTimeout step => Sys2Proof.Machine.execLinkOutcomeTimeout step s
  | .resetAsserted pin => Sys2Proof.Machine.execResetAsserted pin s
  | .vddAonRemoval => Sys2Proof.Machine.execVddAonRemoval s

end Sys2Proof.Machine
end

