-- ==== Sys2Proof/Safety.lean ====
section
/-! DEFINITION. What claims about the block are stated in: where a command ends in a next state, which parts of the state it
changes, and the invariant that every step keeps. -/

namespace Sys2Proof

open Sys2Proof.Machine

/-- The next state of an outcome, if it is one. -/
def nextOf (o : Host.Outcome State Fault Refusal) : Option State :=
  match o with
  | .next s => some s
  | _ => none

/-- Whether an outcome is a next state. -/
def goesOn (o : Host.Outcome State Fault Refusal) : Bool := (nextOf o).isSome

/-- The device runs and a request of the source reaches a register: the source is no function in D3hot (R342), and no network node, which has
no register route (R25). -/
abbrev Served (s : State) (src : Source) : Prop := s.power = .on ∧ unreached s src = false

/-! ### Frames -/

/-- The parts of the state that a frame names: the fields of `State`, with the error records (R338, R345) apart from the rest of
the host link. -/
inductive Part where
  | pending | power | aon | tick | corePhase | fresh | outbox | reply | regs | held | pendGroups | items | posted | dropped
  | mem | wo1 | lastReject | err | hl | heads | groups | flares | sched | fabric | fa | tap | keep | lanterns | si | oq | tx
  | dict | ic | cv | bl | pm | casc | start | therm | safety
  deriving DecidableEq, Repr

/-- Two states agree on a part. -/
def SameOn (p : Part) (s t : State) : Prop :=
  match p with
  | .pending => t.pending = s.pending
  | .power => t.power = s.power
  | .aon => t.aon = s.aon
  | .tick => t.tick = s.tick
  | .corePhase => t.corePhase = s.corePhase
  | .fresh => t.fresh = s.fresh
  | .outbox => t.outbox = s.outbox
  | .reply => t.reply = s.reply
  | .regs => t.regs = s.regs
  | .held => t.held = s.held
  | .pendGroups => t.pendGroups = s.pendGroups
  | .items => t.items = s.items
  | .posted => t.posted = s.posted
  | .dropped => t.dropped = s.dropped
  | .mem => t.mem = s.mem
  | .wo1 => t.wo1 = s.wo1
  | .lastReject => t.lastReject = s.lastReject
  | .err => t.hl.err = s.hl.err
  | .hl => { t.hl with err := s.hl.err } = s.hl
  | .heads => t.heads = s.heads
  | .groups => t.groups = s.groups
  | .flares => t.flares = s.flares
  | .sched => t.sched = s.sched
  | .fabric => t.fabric = s.fabric
  | .fa => t.fa = s.fa
  | .tap => t.tap = s.tap
  | .keep => t.keep = s.keep
  | .lanterns => t.lanterns = s.lanterns
  | .si => t.si = s.si
  | .oq => t.oq = s.oq
  | .tx => t.tx = s.tx
  | .dict => t.dict = s.dict
  | .ic => t.ic = s.ic
  | .cv => t.cv = s.cv
  | .bl => t.bl = s.bl
  | .pm => t.pm = s.pm
  | .casc => t.casc = s.casc
  | .start => t.start = s.start
  | .therm => t.therm = s.therm
  | .safety => t.safety = s.safety

/-- A frame: two states agree on every part that the list does not name. -/
structure Only (l : List Part) (s t : State) : Prop where
  part : ∀ p, l.contains p = true ∨ SameOn p s t

/-- What signalling an event may change (R347 to R358, R396 to R398): messages sent, interrupt targets, the host link's pending
bits, and event counters. -/
abbrev signalParts : List Part := [.outbox, .ic, .hl, .pm]

/-! ### Lanterns -/

/-- The instruction at the PC of a running lantern issues (R35, R218, R227, R228): its domain has its clock, its word is `w`, legal, with operation code `op`, and
the line's budget has room for it. -/
structure Issues (s : State) (l op : Nat) (w : Word) : Prop where
  power : s.power = .on
  clocked : lanternClocked s l = true
  running : (s.lantern l).state = .running
  begun : (s.lantern l).startDue = false
  word : lanternWord s l = w
  code : opOf w = op
  legal : illegalWord l w = false
  room : (s.lantern l).issued < budgetOf s l

/-- What every issued instruction leaves alone (R220): the length, owner and fault code of its program, every other lantern, and everything but
lanterns, messages, interrupt targets, event counters and the parts listed. -/
def IssueFrame (l : Nat) (more : List Part) (s t : State) : Prop :=
  (t.lantern l).len = (s.lantern l).len ∧ (t.lantern l).image = (s.lantern l).image ∧ (t.lantern l).code = (s.lantern l).code ∧
  (∀ m, m ≠ l → t.lantern m = s.lantern m) ∧ Only (.lanterns :: more ++ signalParts) s t

/-- The lantern and the operation code of an instruction row (R220 to R226). -/
def lanternRow : Instr → Option (Nat × Nat)
  | .halt l => some (l.val, 0x00)
  | .nop l => some (l.val, 0x01)
  | .movi l => some (l.val, 0x04)
  | .addi l => some (l.val, 0x05)
  | .subi l => some (l.val, 0x06)
  | .and l => some (l.val, 0x07)
  | .cmpi l => some (l.val, 0x08)
  | .br l => some (l.val, 0x0C)
  | .jmp l => some (l.val, 0x0D)
  | .waitl l => some (l.val, 0x10)
  | .waitp l => some (l.val, 0x11)
  | .flare l => some (l.val, 0x14)
  | .latch l => some (l.val, 0x18)
  | .signal l => some (l.val, 0x19)
  | .waitf l => some (l.val, 0x1A)
  | .testf l => some (l.val, 0x1B)
  | .scan l => some (l.val, 0x1C)
  | .stamp l => some (l.val, 0x1D)
  | .irq l => some (l.val, 0x1E)
  | .sync l => some (l.val, 0x1F)
  | _ => none

/-- What a fault of a lantern leaves (R228, R229): the state, the code and the word, the PC as it was, no entry in the bank, the pins that it
owns at their safe levels, and its source pending at every target. -/
def LanternFaulted (s t : State) (l code : Nat) (more : List Part) : Prop :=
  (t.lantern l).state = .fault ∧ (t.lantern l).code = code ∧ (t.lantern l).faultWord = lanternWord s l ∧
  (t.lantern l).pc = (s.lantern l).pc ∧ (t.lantern l).wait = none ∧ bankOf t l = [] ∧
  t.flares.level = (s.flares.level &&& ~~~ownedPins s l) ||| (s.reg (rg .btFlareSafe) &&& ownedPins s l) ∧
  (∀ k, k < 34 → (t.target k).pend.getLsbD (if l < 16 then 2 + 4 * l else 157 + (l - 16)) = true) ∧
  (∀ m, m ≠ l → t.lantern m = s.lantern m) ∧ Only ([.lanterns, .flares] ++ more ++ signalParts) s t

/-! ### Surface ports -/

/-- A queue entry but for the stage engine's mark of the copy that it serves (R132). -/
def unserved (e : QEntry) : QEntry := { e with stage := e.stage.map (fun c => { c with begun := false }) }

/-- Two layers that differ at most in which stage copy the engine serves. -/
def SameLayer (a b : Layer) : Prop :=
  { b with queue := b.queue.map unserved } = { a with queue := a.queue.map unserved }

/-- What QUEUE or QUEUE_STAGED through a port leaves (R129): its RESULT, and with RESULT 0 the entry at the tail of the slot's queue, from the
port's page, and its pin asked for. -/
def DoorbellQueued (s t : State) (p : Nat) (staged : Bool) : Prop :=
  SMap.get t.fa.result p 0 = queueResult s p staged ∧
  (queueResult s p staged ≠ 0 → ∀ j, t.layer j = s.layer j) ∧
  (queueResult s p staged = 0 →
    ∃ e : QEntry, SameLayer { s.layer (portSlot s p) with queue := (s.layer (portSlot s p)).queue ++ [e] } (t.layer (portSlot s p)) ∧
      e.port = p ∧ e.buf = portBuf s p ∧ e.plane1 = s.reg (rg .ppPlane1 p) ∧ e.fence = s.reg (rg .ppFence p) ∧
      e.fenceVal = s.reg (rg .ppFenceVal p) ∧ e.tag = s.reg (rg .ppTag p) ∧ e.stage.isSome = staged ∧
      (∀ j, j ≠ portSlot s p → SameLayer (s.layer j) (t.layer j)) ∧
      (∃ q, t.fabric.pins = s.fabric.pins ++ [q] ∧ q.use = .queue (portSlot s p) e.seq ∧ q.base = e.buf ∧ q.state = .pending)) ∧
  (∀ j, j ≠ p → SMap.get t.fa.result j 0 = SMap.get s.fa.result j 0) ∧ Only ([.fa, .fabric] ++ signalParts) s t

/-! ### Keep faults -/

/-- What follows a region's keep fault (R200, R201): category 1 and source 65 + n where it enters fault, and nothing where it was in fault
before. -/
def EntersFault (s t : State) (n r : Nat) : Prop :=
  ((s.keepHead n).fault.getLsbD r = false →
    t.safety.category.getLsbD 1 = true ∧ ∀ k, k < 34 → (t.target k).pend.getLsbD (65 + n) = true) ∧
  ((s.keepHead n).fault.getLsbD r = true →
    t.safety = s.safety ∧ t.dict = s.dict ∧ ∀ k, (t.target k).pend.getLsbD (65 + n) = (s.target k).pend.getLsbD (65 + n))

/-! ### Register writes and messages -/

/-- The register of an address that a plain write of one full dword reaches: admitted once the access is counted, not posted, with no page or operation of its
own. -/
structure PlainWrite (s : State) (src : Source) (addr : Nat) (r : RegId) (v : Word) : Prop where
  place : decode s src (addr / 4 * 4) = .reg r
  posted : r.name.row.posted = false
  page : portPage r = false
  writes : ignoresWrites r = false
  admitted : judgeWrite (countBar0 src 2 s) src false r v = none

/-- The writes of a coherence group whose key `r` is written with `v`: the held members and the key (R286). -/
def groupWrites (s : State) (g : Grp) (r : RegId) (v : Word) (safety : Bool) : List Wr :=
  heldMembers s g r.i r.j ++ [{ addr := r.addr, value := stored s r v, safety := safety }]

/-- The source, register and value of a command that writes one posted control register whole (R334). -/
def postedWrite : Instr → Option (Source × RegId × Word)
  | .headEnable src n pg => some (src, rg .dhCtrl n.val, (headCtrlAccess n.val pg.toNat true).data)
  | .headDisable src n pg => some (src, rg .dhCtrl n.val, (headCtrlAccess n.val pg.toNat false).data)
  | .lanternStart src l len entry => some (src, rg .laLctrl l.val, lctrlWord true false len entry)
  | .lanternStop src l len entry => some (src, rg .laLctrl l.val, lctrlWord false true len entry)
  | .pctrlEnable src p => some (src, rg .siPctrl p.val, 1#32)
  | .pctrlDisable src p => some (src, rg .siPctrl p.val, 0#32)
  | .quadEnable src q v => some (src, rg .oqQctrl q.val, withFld v 0 1 1)
  | .quadDisable src q v => some (src, rg .oqQctrl q.val, withFld v 0 1 0)
  | .retrain src q v => some (src, rg .oqQctrl q.val, withFld v 2 1 1)
  | .auxNativeWrite src q t n => some (src, rg .oqAuxCmd q.val t.val, auxWord 1 n.toNat)
  | .auxNativeRead src q t n => some (src, rg .oqAuxCmd q.val t.val, auxWord 2 n.toNat)
  | .auxI2cWrite src q t n => some (src, rg .oqAuxCmd q.val t.val, auxWord 3 n.toNat)
  | .auxI2cRead src q t n => some (src, rg .oqAuxCmd q.val t.val, auxWord 4 n.toNat)
  | _ => none

/-! ### Camera ingress -/

/-- A bad payload CRC of a stream's packet is counted, with source 139, and no other count of the register changes (R242). -/
def CrcCounted (s t : State) (x : Nat) : Prop :=
  fld (t.reg (rg .siErrcount x)) 16 8 = min (fld (s.reg (rg .siErrcount x)) 16 8 + 1) 255 ∧
  fld (t.reg (rg .siErrcount x)) 8 8 = fld (s.reg (rg .siErrcount x)) 8 8 ∧
  fld (t.reg (rg .siErrcount x)) 24 8 = fld (s.reg (rg .siErrcount x)) 24 8 ∧
  (∀ r : RegId, r.addr ≠ (rg .siErrcount x).addr → t.reg r = s.reg r) ∧
  ∀ k, k < 34 → (t.target k).pend.getLsbD 139 = true

/-! ### Output quads -/

/-- A transmit port in training at RATE (R264). -/
def trainingPort (s : State) (q i : Nat) : TxPort :=
  { s.txPort q i with state := .training, rate := 0xFF, target := quadRate s q }

/-- A transmit port that was UP and lost its link (R265): counted, and DOWN or in training again. -/
def lostLink (s : State) (q i : Nat) : TxPort :=
  let x := { s.txPort q i with loss := min ((s.txPort q i).loss + 1) 255, rate := 0xFF, state := .down }
  if bit (s.reg (rg .oqQctrl q)) 1 then { x with state := .training, target := quadRate s q } else x

/-- A link-status event of a quad (R268): its source of every head that feeds the quad; no other transmit port changes. -/
def LinkSignalled (s t : State) (q i : Nat) : Prop :=
  (∀ n, n ∈ quadHeads s q → n < 16 → ∀ k, k < 34 → (t.target k).pend.getLsbD (4 + 4 * n) = true) ∧
  (∀ j m, m < 4 → (j ≠ q ∨ m ≠ i) → t.txPort j m = s.txPort j m)

/-- A write of QCTRL that has landed (R264, R266, R269): a quad without its clock trains nothing (R35; log entry 26). -/
def QuadLanded (s u : State) (q : Nat) (v : Word) : Prop :=
  u.reg (rg .oqQctrl q) = fixQctrl v ∧
  (v.getLsbD 0 = true → ∀ i, i < 4 →
    if quadClocked s q = true ∧ ((v.getLsbD 2 = true ∧ i ∈ txPortsOf u q ∧ portsOfTx u q i ≠ []) ∨
        (i ∈ trainable u q ∧ ((s.txPort q i).state = .down ∨ (s.txPort q i).state = .failed))) then
      u.txPort q i = { trainingPort s q i with target := quadRate u q } ∧
        .train q i (quadRate u q) (lowestRate u q (quadRate u q)) (if quadMode u q = 0 then lanesOf u q else 1) ∈ u.outbox
    else u.txPort q i = s.txPort q i) ∧
  (v.getLsbD 0 = false → (∀ i, i < 4 → u.txPort q i = { s.txPort q i with state := .down, rate := 0xFF }) ∧
    ∀ k, k < 8 → (u.egress (8 * q + k)).carry = none) ∧
  (∀ j i, j ≠ q → i < 4 → u.txPort j i = s.txPort j i) ∧
  (∀ r : RegId, r.addr ≠ (rg .oqQctrl q).addr → u.reg r = s.reg r) ∧ Only ([.regs, .oq, .dict, .fresh] ++ signalParts) s u

/-- A write of AUX_CMD that has landed (R267, R269): the transaction is BUSY and sent, or the port has no link; a quad without
its clock starts none (R35). -/
def AuxStarted (s u : State) (q t op len : Nat) : Prop :=
  (if quadClocked s q = false then u.txPort q t = s.txPort q t
   else if quadMode s q = 0 ∧ t ≠ 0 then u.txPort q t = { s.txPort q t with auxBytes := 0, auxResult := 4 }
   else u.txPort q t = { s.txPort q t with auxBusy := true, auxOp := op, auxLen := len } ∧
    .aux q t op (fld (s.reg (rg .oqAuxAddr q t)) 0 20) (if op = 1 ∨ op = 3 then (auxData s q t).take len else []) ∈ u.outbox) ∧
  (∀ j i, i < 4 → (j ≠ q ∨ i ≠ t) → u.txPort j i = s.txPort j i) ∧ Only (.oq :: signalParts) s u

/-- What the agent notes of a network request that has passed authentication with a slot (R307, R312): its counter is the floor, and
the slot was heard now, by this transport. -/
def heardFrom (m : Msg) (j : Nat) (s : State) : State :=
  let s := raiseFloor j ((m.seal.map (fun t => t.counter.toNat)).getD 0) s
  { s with dict := { s.dict with
      heard := SMap.set s.dict.heard j s.tick 0, heardVia := SMap.set s.dict.heardVia j (some m.via) none } }

/-- The agent takes up a request (R299, R302, R397): its source has had its turn, its session is kept open, and the request counts. -/
def takenUp (m : Msg) (s : State) : State :=
  touchSession m.source (perfEvent 15 anyInst 1 1 { s with dict := { s.dict with turn := sourcePlace m } })

/-- A message that the agent serves now (R302 to R306), and the state in which it does: the request of a window that has been sent,
or a network request that its interface takes, that passes authentication and whose source waits for no answer. -/
def Reaches (s : State) (m : Msg) (s1 : State) : Prop :=
  s.power = .on ∧
  match m.via with
  | .window f => (s.win f.val).busy = true ∧ (s.win f.val).taken = false ∧ m = windowMsg s f ∧
      s1 = takenUp m (s.setWin f.val { s.win f.val with taken := true })
  | _ => (SMap.get s.dict.ifaces m.via.iface {}).on = true ∧ takeNet s m = .taken ∧ sourceBusy s m = false ∧
      ∃ j : Fin 16, authenticate s m = .pass j ∧ s1 = takenUp m (heardFrom m j.val s)

/-- The last completion is the response to a message (R300, R301): OP with bit 7 set, the flags, SEQ, SUB and INDEX of the request, LEN,
the abort code, and DATA; a trailer follows where it is sealed. A window's waits to be posted, and a network request's has been sent to
its destination (R303, R304). -/
def Answered (t : State) (m : Msg) (sealed : Bool) (code : Nat) (data : List Byte) (last : Bool) : Prop :=
  ∃ rest l, l = headerBytes (m.op.toNat % 128 + 128) ((if sealed then 1 else 0) + (if last then 4 else 0)) m.seq.toNat
      m.sub.toNat m.index.toNat (4 + data.length) ++ leBytes 4 code ++ data ++ rest ∧ t.reply = .msg l ∧
    (match m.via with
     | .window f => (t.win f.val).ready = some l
     | _ => ∀ d, responseDest t m.via = some d → ∃ key, .response d key (framed d l) ∈ t.outbox)

/-- An OPEN ticket rolled back as REJECTED TIMEOUT with a DETAIL (R282). -/
def TicketRolledBack (s t : State) (k detail : Nat) : Prop :=
  t.ticket k = { s.ticket k with state := .rejected, code := 7, detail := detail, draft := [], draftFull := false } ∧
  (∀ j, j < 34 → (t.target j).pend.getLsbD (212 + k) = true) ∧ (∀ j, j ≠ k → t.ticket j = s.ticket j) ∧
  Only ([.tick, .corePhase, .tx, .dict, .fresh] ++ signalParts) s t

/-! ### Functions -/

/-- What the reset of a function leaves (R343): of the function, and where it is physical of its VFs with VF Enable, the error record cleared, the
window idle, no entry queued through a port of its own, no claim and no threshold, its open ticket rolled back with DETAIL 1, its
completion counts 0, and no blit command waiting. -/
def FunctionReset (s t : State) (f : Nat) : Prop :=
  (∀ g, g < 32 → (g = f ∨ (isPF f = true ∧ f ≤ g ∧ g < f + 16)) →
    t.errRec g = {} ∧ (t.win g).busy = false ∧ (t.win g).done = false ∧ (t.target g).stack = [] ∧ (t.target g).threshold = 0 ∧
    SMap.get t.fa.doneWr g 0 = 0 ∧ SMap.get t.fa.doneRd g 0 = 0 ∧
    (∀ i, i < 96 → ∀ e ∈ (t.layer i).queue, e.port < 768 → portOwner s e.port ≠ g) ∧
    (∀ k, 1 ≤ k → k ≤ 4 → (s.ticket k).state = .opened → (s.ticket k).holder = g →
      (t.ticket k).state = .rejected ∧ (t.ticket k).code = 7 ∧ (t.ticket k).detail = 1 ∧ (t.ticket k).draft = []) ∧
    (∀ e, e < 2 → (∀ x ∈ (t.engine e).queue, x.fn ≠ g) ∧ (∀ x r n, (t.engine e).current = some (x, r, n) → x.fn ≠ g))) ∧
  (isPF f = true → t.hl.vfEnable.getLsbD (endpointOf f) = false) ∧
  (isPF f = false → ∀ g, g ≠ f → t.errRec g = s.errRec g ∧ t.win g = s.win g) ∧
  (∀ i, (t.layer i).shown = (s.layer i).shown) ∧
  Only ([.tx, .err, .fabric, .held, .dict, .regs, .fa, .fresh, .bl] ++ signalParts) s t

/-! ### Cascades -/

/-- Whether a packet of a cascade carries a line, which waits its turn where it is relayed (R419). -/
def SegPacket.isLine : SegPacket → Bool
  | .line .. | .long .. => true
  | .header .. | .fs _ | .fe _ => false

/-! ### Starts -/

/-- What a start leaves behind (R430, R432, R434): it stops for good at S1 where clocks fail, at S2 where fuses fail, and at S3 where no
firmware can be launched; a start that launches firmware reaches S11 with READY set, or stops at S4 for want of a memory channel. -/
structure Started (env : StartEnv) (t : State) : Prop where
  clocks : env.clocksOk = false → t.power = .halted 1
  fuses : env.clocksOk = true → env.fusesOk = false → t.power = .halted 2
  pushed : env.clocksOk = true → env.fusesOk = true → t.aon.straps.bootSrc = true → recoveryOk env = false → t.power = .halted 3
  banks : env.clocksOk = true → env.fusesOk = true → t.aon.straps.bootSrc = false → bankOutcome env false ≠ 1 →
    bankOutcome env true ≠ 1 → t.power = .halted 3
  runs : env.clocksOk = true → env.fusesOk = true → (t.aon.straps.bootSrc = true → recoveryOk env = true) →
    (t.aon.straps.bootSrc = false → bankOutcome env false = 1 ∨ bankOutcome env true = 1) →
    (t.power = .on ∧ t.start.ready = true ∧ t.start.step = 11) ∨ (t.power = .halted 4 ∧ anyChannel t = false)

/-- The part of the always-on domain that every reset keeps: the SPI NOR and the OTP (R427, R430, R452). A start may write the NOR. -/
structure OtpKept (s t : State) : Prop where
  wear : t.aon.otpWear = s.aon.otpWear
  revoked : t.aon.fuseRevoked = s.aon.fuseRevoked

/-- A device that is reset (R427): registers at their reset values, memory empty, no head enabled, no request accepted. -/
structure ResetTo (p : Power) (s t : State) : Prop where
  power : t.power = p
  regs : ∀ r, t.reg r = r.resetValue
  mem : t.mem = []
  heads : ∀ n, t.head n = {}
  low : t.aon.faultnLow = true
  otp : OtpKept s t
  queue : t.pending = s.pending

/-! ### The invariant -/

/-- The canonical form of local memory: addresses rise, and no byte is listed that an unlisted address reads as. -/
def Memory.wf (m : SMap Byte) : Bool := SMap.wf m 0

/-- Memory is canonical, no layer queue holds more than four entries, nor that of a slot which an old
head still shows (R129, R482), no claim stack more than eight (R351), and the wear
count stays within its 300 fuses (R452). -/
structure Inv (s : State) : Prop where
  mem : Memory.wf s.mem = true
  queue : ∀ i, (s.layer i).queue.length ≤ 4
  linger : ∀ x ∈ s.fa.linger, x.layer.queue.length ≤ 4
  stack : ∀ i, (s.target i).stack.length ≤ 8
  wear : s.aon.otpWear ≤ 300

end Sys2Proof
end

