-- ==== Sys2Proof/Certificates/Slice0/Obligations.lean ====
section
/-! DEFINITION. The statements about the block. -/

open Sys2Proof Sys2Proof.Machine

/-! ### Heads (R41 to R61) -/

/-- HEAD_ENABLE and HEAD_DISABLE (R41, R334), as the posted write that each is lands: an ungrouped head that is disabled waits to begin at
its latch line from this tick on with its selection made, its SHED bit clears and its FRAME stays; a head whose timing group has never been
applied stays disabled with CFG_REFUSED set. A running head that is disabled is asked to stop at the end of its frame and still runs, a
waiting head stops at once, a disabled head stays; enabling a running head cancels the stop. No other head changes. -/
def Obligations.HeadsEnableAndDisable : Prop :=
  (∀ (s : State) (src : Source) (n : Fin 16), Served s src → mayConfigure s src = true → shedRefuses s n.val = false →
    blockBusy s (.head n) = false → (s.head n.val).phase = .disabled →
    ∃ t u, exec (.headEnable src n 0) s = .next t ∧ blockBusy t (.head n) = true ∧ t.heads = s.heads ∧
      exec (.writeLand (.head n)) t = .next (resumeBlocked u) ∧
      ((s.head n.val).timingApplied = true → (u.head n.val).phase = .waiting s.tick ∧ (u.head n.val).stopReq = false ∧
        (u.head n.val).selected = true) ∧
      ((s.head n.val).timingApplied = false → (u.head n.val).phase = .disabled ∧ (u.head n.val).cfgRefused = true) ∧
      (u.head n.val).pg = 0 ∧ (u.head n.val).frame = (s.head n.val).frame ∧ u.therm.shed.getLsbD n.val = false ∧
      (∀ m, m ≠ n.val → u.head m = s.head m) ∧
      Only ([.heads, .groups, .lanterns, .fabric, .fa, .regs, .therm, .safety, .dict] ++ signalParts) s u) ∧
  (∀ (s : State) (src : Source) (n : Fin 16) (pg : BitVec 3), Served s src → mayConfigure s src = true →
    blockBusy s (.head n) = false → pg.toNat = (s.head n.val).pg → pg.toNat < 5 →
    (∃ t u, exec (.headDisable src n pg) s = .next t ∧ blockBusy t (.head n) = true ∧ t.heads = s.heads ∧
      exec (.writeLand (.head n)) t = .next (resumeBlocked u) ∧
      ((s.head n.val).phase = .running → u.head n.val = { s.head n.val with stopReq := true }) ∧
      (∀ b, (s.head n.val).phase = .waiting b → u.head n.val = { s.head n.val with phase := .disabled }) ∧
      ((s.head n.val).phase = .disabled → u.head n.val = s.head n.val) ∧
      (∀ m, m ≠ n.val → u.head m = s.head m) ∧ Only (.heads :: signalParts) s u) ∧
    ((s.head n.val).phase = .running → shedRefuses s n.val = false →
      ∃ t u, exec (.headEnable src n pg) s = .next t ∧ exec (.writeLand (.head n)) t = .next (resumeBlocked u) ∧
        u.head n.val = { s.head n.val with stopReq := false } ∧ (∀ m, m ≠ n.val → u.head m = s.head m) ∧
        Only ([.heads, .lanterns, .therm, .safety, .dict] ++ signalParts) s u))

/-- HEAD_BEGIN, SELECTION, FETCH_WINDOW_OPEN and HEAD_LATCH (R41, R43, R48, R70, R133): a waiting head scans from the tick it waited for; a
head makes its selection by the cut-off, and a waiting one two lines before it begins; the window of its line opens, and a head whose window
was open has entered its next line, where it may; at the latch line LATCH_TICK holds the tick of pixel 0, source 1 + 4n is pending at every
target, and the head scans on in the same frame. -/
def Obligations.HeadsScan : Prop :=
  (∀ (s : State) (n : Fin 16) (b : Nat), s.power = .on → (s.head n.val).phase = .waiting b →
    ∃ t, exec (.headBegin n) s = .next t ∧ (t.head n.val).phase = .running ∧ (t.head n.val).selected = true ∧
      t.tick = max s.tick b ∧ (t.head n.val).frame = (s.head n.val).frame ∧ (∀ m, m ≠ n.val → t.head m = s.head m) ∧
      Only ([.tick, .corePhase, .heads, .groups, .lanterns, .si, .fabric, .fa, .regs] ++ signalParts) s t) ∧
  (∀ (s : State) (n : Fin 16) (b : Nat), s.power = .on → (s.head n.val).phase = .waiting b → (s.head n.val).selected = false →
    ∃ t, exec (.selection n) s = .next t ∧ t.head n.val = { s.head n.val with selected := true } ∧
      t.tick = max s.tick (b - 2 * (s.head n.val).raster.lineTime) ∧ (∀ m, m ≠ n.val → t.head m = s.head m) ∧
      Only ([.tick, .corePhase, .heads, .fabric, .fa, .regs] ++ signalParts) s t) ∧
  (∀ (s : State) (n : Fin 16), s.power = .on → (s.head n.val).phase = .running → (s.head n.val).latched = false →
    (s.head n.val).selected = false →
    ∃ t, exec (.selection n) s = .next t ∧ t.head n.val = { s.head n.val with selected := true } ∧
      t.tick = max s.tick (cutOff s n.val) ∧ (∀ m, m ≠ n.val → t.head m = s.head m) ∧
      Only ([.tick, .corePhase, .heads, .fabric, .fa, .regs] ++ signalParts) s t) ∧
  (∀ (s : State) (n : Fin 16) (lost : List LostBurst), s.power = .on → (s.head n.val).phase = .running →
    ((s.head n.val).opened = true → mayAdvance s n.val = true) →
    ∃ t, exec (.fetchWindowOpen n lost) s = .next t ∧
      t.head n.val = { s.head n.val with
        opened := true, line := if (s.head n.val).opened then (s.head n.val).line + 1 else (s.head n.val).line } ∧
      (∀ m, m ≠ n.val → t.head m = s.head m) ∧ t.mem = s.mem ∧ t.tx = s.tx ∧ t.sched = s.sched) ∧
  (∀ (s : State) (n : Fin 16), s.power = .on → (s.head n.val).phase = .running → (s.head n.val).latched = false →
    (s.head n.val).line = latchAt s n.val →
    ∃ t, exec (.headLatch n) s = .next t ∧ (t.head n.val).latched = true ∧
      (t.head n.val).latchTick = BitVec.ofNat 64 (tickAt s n.val (latchAt s n.val) 0) ∧
      (t.head n.val).phase = .running ∧ (t.head n.val).frame = (s.head n.val).frame ∧ (t.head n.val).line = (s.head n.val).line ∧
      t.tick = max s.tick (tickAt s n.val (latchAt s n.val) 0) ∧
      (∀ k, k < 34 → (t.target k).pend.getLsbD (1 + 4 * n.val) = true) ∧ t.mem = s.mem ∧ t.aon = s.aon)

/-- FRAME_ANCHOR and HEAD_STOP at the end of the frame of a head (R41, R48): an ungrouped head that is not asked to stop counts FRAME up by 1,
its anchor is the end of the frame, and it stands at line 0 with the applied raster; a head asked to stop is disabled and its FRAME stays. No
memory byte changes. -/
def Obligations.FramesEnd : Prop :=
  (∀ (s : State) (n : Fin 16), s.power = .on → (s.head n.val).pg = 0 → atFrameEnd s n.val = true → (s.head n.val).stopReq = false →
    ∃ t, exec (.frameAnchor n) s = .next t ∧ (t.head n.val).frame = (s.head n.val).frame + 1 ∧
      (t.head n.val).anchor = frameEnd s n.val ∧ (t.head n.val).line = 0 ∧ (t.head n.val).latched = false ∧
      (t.head n.val).lastSlew = wordOfInt (s.head n.val).slew ∧ (t.head n.val).phase = .running ∧
      (t.head n.val).raster = appliedRaster s n.val ∧ (∀ m, m ≠ n.val → t.head m = s.head m) ∧
      Only ([.tick, .corePhase, .heads, .groups, .keep, .lanterns, .oq, .casc, .tap, .regs, .dict, .safety, .fabric, .fa, .si, .fresh,
        .start] ++ signalParts) s t) ∧
  (∀ (s : State) (n : Fin 16), s.power = .on → atFrameEnd s n.val = true → (s.head n.val).stopReq = true →
    ∃ t, exec (.headStop n) s = .next t ∧ (t.head n.val).phase = .disabled ∧ (t.head n.val).stopReq = false ∧
      (t.head n.val).frame = (s.head n.val).frame ∧ (∀ m, m ≠ n.val → (t.head m).phase = (s.head m).phase) ∧
      (∀ e, e < 64 → (t.egress e).carry ≠ some n.val) ∧ t.mem = s.mem ∧ t.aon = s.aon)

/-! ### Phase groups and genlock (R49 to R55, R410) -/

/-- GENLOCK_EDGE, PG_FRAME_START and HOLDOVER_TIMEOUT (R52, R55, R410, R413): the event is stamped for the groups whose REF selects it and
for no other; a JOINED turret passes a frame start on down its chain, and a device that is no JOINED turret receives none; a genlocked group
without an event enters HOLDOVER, at the end of 1.5 frame periods, and raises source 381 + g. -/
def Obligations.GenlockEvents : Prop :=
  (∀ (s : State) (rising : Bool), s.power = .on →
    ∃ t, exec (.genlockEdge rising) s = .next t ∧
      (∀ g, g < 4 → t.pgroup g =
        if refOf s g = (if rising then 2 else 3) then { s.pgroup g with event := some s.tick } else s.pgroup g) ∧
      Only [.groups] s t) ∧
  (∀ (s : State) (g : Fin 4) (at_ : Nat), s.power = .on → s.casc.role = 2 → s.casc.state = .joined → refOf s g.val = 4 →
    ∃ t, exec (.pgFrameStart g at_) s = .next t ∧ t.pgroup g.val = { s.pgroup g.val with event := some at_ } ∧
      t.outbox = s.outbox ++ (if (s.osl 1).up then [.osleig 1 none (groupStartBytes g.val at_)] else []) ∧
      (∀ j, j ≠ g.val → t.pgroup j = s.pgroup j) ∧ Only [.groups, .outbox] s t) ∧
  (∀ (s : State) (g : Fin 4) (at_ : Nat), s.power = .on → s.casc.role ≠ 2 ∨ s.casc.state ≠ .joined →
    exec (.pgFrameStart g at_) s = .next s) ∧
  (∀ (s : State) (g : Fin 4) (f : Nat), s.power = .on → groupPeriod s g.val = some f → refOf s g.val ≠ 0 →
    (s.pgroup g.val).state ≠ .holdover →
    ∃ t, exec (.holdoverTimeout g) s = .next t ∧ t.pgroup g.val = { s.pgroup g.val with state := .holdover } ∧
      (∀ k, k < 34 → (t.target k).pend.getLsbD (381 + g.val) = true) ∧
      (∀ e, (s.pgroup g.val).event = some e → t.tick = max s.tick (e + (3 * f + 1) / 2)) ∧
      (∀ j, j ≠ g.val → t.pgroup j = s.pgroup j) ∧ Only ([.tick, .corePhase, .groups] ++ signalParts) s t)

/-- SLEW_DECISION of a genlocked group whose leader runs (R53 to R55): without an event the slew is 0 and the group is
ACQUIRING or in HOLDOVER; with one within 1.5 frame periods it is LOCKED or ACQUIRING; the slew lies within the largest slew on either
side, and every member takes it for its frame of the group's current frame: the present one, or the next where it is still in the frame
before. That a member still in the frame before keeps it for its next frame (the slewNext clause) is the model's choice, for R54 says nothing
of it (log entry 69). -/
def Obligations.SlewIsBounded : Prop :=
  ∀ (s : State) (g : Fin 4) (f : Nat), s.power = .on → groupPeriod s g.val = some f → refOf s g.val ≠ 0 →
    (s.head (leaderOf s g.val)).phase = .running →
    ∃ t, exec (.slewDecision g) s = .next t ∧
      ((s.pgroup g.val).event = none → (t.pgroup g.val).slew = 0 ∧ (t.pgroup g.val).prevGood = false ∧
        ((t.pgroup g.val).state = .holdover ∨ (t.pgroup g.val).state = .acquiring)) ∧
      (∀ e, (s.pgroup g.val).event = some e →
        decisionTick s g.val (s.head (leaderOf s g.val)).anchor ≤ e + 3 * f / 2 →
        (t.pgroup g.val).state = .locked ∨ (t.pgroup g.val).state = .acquiring) ∧
      (-(maxSlew s g.val : Int) ≤ (t.pgroup g.val).slew ∧ (t.pgroup g.val).slew ≤ maxSlew s g.val) ∧
      (∀ n, n ∈ members s g.val →
        (frameInGroup s n (s.head (leaderOf s g.val)).anchor f = 0 → (t.head n).slew = (t.pgroup g.val).slew) ∧
        (frameInGroup s n (s.head (leaderOf s g.val)).anchor f < 0 → (t.head n).slewNext = (t.pgroup g.val).slew ∧
          (t.head n).slew = (s.head n).slew)) ∧
      (∀ n, (t.head n).phase = (s.head n).phase ∧ (t.head n).frame = (s.head n).frame) ∧
      Only ([.tick, .corePhase, .heads, .groups] ++ signalParts) s t

/-! ### Lanterns (R217 to R234) -/

/-- MOVI, ADDI, SUBI and AND (R220): RD takes the value of the operation, the PC moves on, the flag is kept, and no other register
changes. -/
def Obligations.LanternArithmetic : Prop :=
  (∀ (s : State) (l : Fin 20) (w : Word), Issues s l.val 0x04 w → (s.lantern l.val).pc < 511 →
    ∃ t, exec (.movi l) s = .next t ∧
      lg t l.val (rdOf w) = (if w.getLsbD 16 then (lg s l.val (rdOf w) &&& 0xFFFF) ||| (BitVec.ofNat 32 (fld w 0 16) <<< 16)
        else (w.setWidth 16).signExtend 32) ∧
      (∀ r, r ≠ rdOf w → lg t l.val r = lg s l.val r) ∧ (t.lantern l.val).pc = (s.lantern l.val).pc + 1 ∧
      (t.lantern l.val).flag = (s.lantern l.val).flag ∧ (t.lantern l.val).state = .running ∧ IssueFrame l.val [] s t) ∧
  (∀ (s : State) (l : Fin 20) (w : Word), Issues s l.val 0x05 w → (s.lantern l.val).pc < 511 →
    ∃ t, exec (.addi l) s = .next t ∧ lg t l.val (rdOf w) = lg s l.val (rsOf w) + (w.setWidth 16).signExtend 32 ∧
      (∀ r, r ≠ rdOf w → lg t l.val r = lg s l.val r) ∧ (t.lantern l.val).pc = (s.lantern l.val).pc + 1 ∧
      (t.lantern l.val).flag = (s.lantern l.val).flag ∧ (t.lantern l.val).state = .running ∧ IssueFrame l.val [] s t) ∧
  (∀ (s : State) (l : Fin 20) (w : Word), Issues s l.val 0x06 w → (s.lantern l.val).pc < 511 →
    ∃ t, exec (.subi l) s = .next t ∧ lg t l.val (rdOf w) = lg s l.val (rsOf w) - (w.setWidth 16).signExtend 32 ∧
      (∀ r, r ≠ rdOf w → lg t l.val r = lg s l.val r) ∧ (t.lantern l.val).pc = (s.lantern l.val).pc + 1 ∧
      (t.lantern l.val).flag = (s.lantern l.val).flag ∧ (t.lantern l.val).state = .running ∧ IssueFrame l.val [] s t) ∧
  (∀ (s : State) (l : Fin 20) (w : Word), Issues s l.val 0x07 w → (s.lantern l.val).pc < 511 →
    ∃ t, exec (.and l) s = .next t ∧ lg t l.val (rdOf w) = lg s l.val (rsOf w) &&& lg s l.val (rtOf w) ∧
      (∀ r, r ≠ rdOf w → lg t l.val r = lg s l.val r) ∧ (t.lantern l.val).pc = (s.lantern l.val).pc + 1 ∧
      (t.lantern l.val).flag = (s.lantern l.val).flag ∧ (t.lantern l.val).state = .running ∧ IssueFrame l.val [] s t)

/-- HALT, NOP, CMPI, BR and JMP (R218, R220): the state, the flag and the PC they leave, which moves on after every one that does not branch; no
register changes. -/
def Obligations.LanternControl : Prop :=
  (∀ (s : State) (l : Fin 20) (w : Word), Issues s l.val 0x00 w → (s.lantern l.val).pc < 511 →
    ∃ t, exec (.halt l) s = .next t ∧ (t.lantern l.val).state = .halted ∧ (t.lantern l.val).pc = (s.lantern l.val).pc + 1 ∧
      (t.lantern l.val).flag = (s.lantern l.val).flag ∧ (t.lantern l.val).lg = (s.lantern l.val).lg ∧ IssueFrame l.val [] s t) ∧
  (∀ (s : State) (l : Fin 20) (w : Word), Issues s l.val 0x01 w → (s.lantern l.val).pc < 511 →
    ∃ t, exec (.nop l) s = .next t ∧ (t.lantern l.val).state = .running ∧ (t.lantern l.val).pc = (s.lantern l.val).pc + 1 ∧
      (t.lantern l.val).flag = (s.lantern l.val).flag ∧ (t.lantern l.val).lg = (s.lantern l.val).lg ∧ IssueFrame l.val [] s t) ∧
  (∀ (s : State) (l : Fin 20) (w : Word), Issues s l.val 0x08 w → (s.lantern l.val).pc < 511 →
    ∃ t, exec (.cmpi l) s = .next t ∧
      (t.lantern l.val).flag = (match rtOf w with
        | 0 => lg s l.val (rsOf w) == (w.setWidth 16).signExtend 32
        | 1 => lg s l.val (rsOf w) != (w.setWidth 16).signExtend 32
        | 2 => (lg s l.val (rsOf w)).slt ((w.setWidth 16).signExtend 32)
        | 3 => !(lg s l.val (rsOf w)).slt ((w.setWidth 16).signExtend 32)
        | 4 => (lg s l.val (rsOf w)).ult ((w.setWidth 16).signExtend 32)
        | _ => !(lg s l.val (rsOf w)).ult ((w.setWidth 16).signExtend 32)) ∧
      (t.lantern l.val).state = .running ∧ (t.lantern l.val).pc = (s.lantern l.val).pc + 1 ∧
      (t.lantern l.val).lg = (s.lantern l.val).lg ∧ IssueFrame l.val [] s t) ∧
  (∀ (s : State) (l : Fin 20) (w : Word), Issues s l.val 0x0C w → ((s.lantern l.val).flag ≠ w.getLsbD 25 → (s.lantern l.val).pc < 511) →
    ∃ t, exec (.br l) s = .next t ∧ (t.lantern l.val).state = .running ∧
      (t.lantern l.val).pc = (if (s.lantern l.val).flag = w.getLsbD 25 then fld w 0 9 else (s.lantern l.val).pc + 1) ∧
      (t.lantern l.val).flag = (s.lantern l.val).flag ∧ (t.lantern l.val).lg = (s.lantern l.val).lg ∧ IssueFrame l.val [] s t) ∧
  (∀ (s : State) (l : Fin 20) (w : Word), Issues s l.val 0x0D w →
    ∃ t, exec (.jmp l) s = .next t ∧ (t.lantern l.val).state = .running ∧ (t.lantern l.val).pc = fld w 0 9 ∧
      (t.lantern l.val).flag = (s.lantern l.val).flag ∧ (t.lantern l.val).lg = (s.lantern l.val).lg ∧ IssueFrame l.val [] s t)

/-- WAITL, WAITP, WAITF, WAITL_DONE, WAITP_DONE and WAITF_DONE (R221 to R225): the lantern waits for its line, for its pixel or for its
fence, and neither its PC nor a register changes; a fence that has reached its target ends the wait at once with the flag 1; a wait that is
met ends, its MARK or its flag set, and the PC moves on; the fence wait of a lantern whose lines have passed ends with the flag 0. A lantern
whose domain has no clock waits on. A pixel beyond the line, and WAITP on an ingress lantern, is a fault. -/
def Obligations.LanternWaits : Prop :=
  (∀ (s : State) (l : Fin 20) (w : Word), Issues s l.val 0x10 w →
    (if l.val < 16 then waitOperand s l.val w < (appliedRaster s l.val).vTotal else waitOperand s l.val w ≤ 8192) →
    ∃ t, exec (.waitl l) s = .next t ∧ (t.lantern l.val).state = .waiting ∧
      (t.lantern l.val).wait = some (.line (waitOperand s l.val w)) ∧ (t.lantern l.val).hit = none ∧
      (t.lantern l.val).pc = (s.lantern l.val).pc ∧ (t.lantern l.val).lg = (s.lantern l.val).lg ∧
      (t.lantern l.val).flag = (s.lantern l.val).flag ∧ (t.lantern l.val).mark = (s.lantern l.val).mark ∧
      IssueFrame l.val [] s t) ∧
  (∀ (s : State) (l : Fin 20) (w : Word), Issues s l.val 0x11 w → (s.lantern l.val).pc < 511 → waitOperand s l.val w < (appliedRaster s l.val).hTotal →
    (s.head l.val).phase = .running →
    ∃ t, exec (.waitp l) s = .next t ∧
      (if tickAt s l.val (s.head l.val).line (waitOperand s l.val w) ≤ s.tick then
        (t.lantern l.val).state = .running ∧ (t.lantern l.val).pc = (s.lantern l.val).pc + 1 ∧
          (t.lantern l.val).mark = BitVec.ofNat 64 (tickAt s l.val (s.head l.val).line (waitOperand s l.val w))
      else
        (t.lantern l.val).state = .waiting ∧ (t.lantern l.val).pc = (s.lantern l.val).pc ∧
          (t.lantern l.val).mark = (s.lantern l.val).mark ∧
          (t.lantern l.val).hit = some (tickAt s l.val (s.head l.val).line (waitOperand s l.val w))) ∧
      (t.lantern l.val).lg = (s.lantern l.val).lg ∧ (t.lantern l.val).flag = (s.lantern l.val).flag ∧ IssueFrame l.val [] s t) ∧
  (∀ (s : State) (l : Fin 20) (w : Word), Issues s l.val 0x11 w → (appliedRaster s l.val).hTotal ≤ waitOperand s l.val w →
    ∃ t, exec (.waitp l) s = .next t ∧ (t.lantern l.val).state = .fault ∧ (t.lantern l.val).code = 1 ∧
      (t.lantern l.val).mark = (s.lantern l.val).mark ∧ (∀ m, m ≠ l.val → t.lantern m = s.lantern m) ∧
      Only ([.lanterns, .flares] ++ signalParts) s t) ∧
  (∀ (s : State) (l : Fin 20), s.power = .on → 16 ≤ l.val → (s.lantern l.val).state = .running → (s.lantern l.val).startDue = false →
    opOf (lanternWord s l.val) = 0x11 → (s.lantern l.val).issued < budgetOf s l.val →
    ∃ t, exec (.waitp l) s = .next t ∧ (t.lantern l.val).state = .fault ∧ (t.lantern l.val).code = 1 ∧
      (∀ m, m ≠ l.val → t.lantern m = s.lantern m) ∧ Only ([.lanterns, .flares] ++ signalParts) s t) ∧
  (∀ (s : State) (l : Fin 20) (w : Word), Issues s l.val 0x1A w → (s.lantern l.val).pc < 511 →
    ∃ t, exec (.waitf l) s = .next t ∧
      (if (fenceValue s (fld w 0 10) - lg s l.val (rsOf w)).toNat < 2 ^ 31 then
        (t.lantern l.val).state = .running ∧ (t.lantern l.val).flag = true ∧ (t.lantern l.val).pc = (s.lantern l.val).pc + 1
      else
        (t.lantern l.val).state = .waiting ∧ (t.lantern l.val).flag = (s.lantern l.val).flag ∧
          (t.lantern l.val).pc = (s.lantern l.val).pc ∧
          (t.lantern l.val).wait =
            some (.fence (fld w 0 10) (lg s l.val (rsOf w)) (if fld w 10 6 = 0 then 64 else fld w 10 6))) ∧
      (t.lantern l.val).lg = (s.lantern l.val).lg ∧ IssueFrame l.val [] s t) ∧
  (∀ (s : State) (l : Fin 20) (y h : Nat), s.power = .on → lanternClocked s l.val = true → (s.lantern l.val).wait = some (.line y) → (s.lantern l.val).hit = some h →
    (s.lantern l.val).pc < 511 →
    ∃ t, exec (.waitlDone l) s = .next t ∧
      t.lantern l.val = { s.lantern l.val with
        state := .running, wait := none, hit := none, out := none, mark := BitVec.ofNat 64 h, pc := (s.lantern l.val).pc + 1 } ∧
      (∀ m, m ≠ l.val → t.lantern m = s.lantern m) ∧ Only [.lanterns] s t) ∧
  (∀ (s : State) (l : Fin 20) (p h : Nat), s.power = .on → lanternClocked s l.val = true → (s.lantern l.val).wait = some (.pixel p) → (s.lantern l.val).hit = some h →
    (s.lantern l.val).pc < 511 →
    ∃ t, exec (.waitpDone l) s = .next t ∧
      t.lantern l.val = { s.lantern l.val with
        state := .running, wait := none, hit := none, out := none, mark := BitVec.ofNat 64 h, pc := (s.lantern l.val).pc + 1 } ∧
      t.tick = max s.tick h ∧ (∀ m, m ≠ l.val → t.lantern m = s.lantern m) ∧
      Only ([.tick, .corePhase, .lanterns] ++ signalParts) s t) ∧
  (∀ (s : State) (l : Fin 20) (f left : Nat) (v : Word), s.power = .on → lanternClocked s l.val = true → (s.lantern l.val).wait = some (.fence f v left) →
    (s.lantern l.val).pc < 511 → ((s.lantern l.val).hit = none → countsLines s l.val = true → left = 0) →
    ∃ t, exec (.waitfDone l) s = .next t ∧
      t.lantern l.val = { s.lantern l.val with
        state := .running, wait := none, hit := none, out := none, flag := (s.lantern l.val).hit.isSome, pc := (s.lantern l.val).pc + 1 } ∧
      (∀ m, m ≠ l.val → t.lantern m = s.lantern m) ∧ Only ([.tick, .corePhase, .lanterns] ++ signalParts) s t) ∧
  (∀ (s : State) (l : Fin 20) (m : Option Nat), s.power = .on → lanternClocked s l.val = false →
    exec (.waitlDone l) s = .next s ∧ exec (.waitpDone l) s = .next s ∧ exec (.waitfDone l) s = .next s ∧
    exec (.syncMarker l m) s = .next s)

/-- SIGNAL, TESTF and SCAN (R225, R226, R365): the flag says whether the fence was set, has been reached, or the unit's program started. SIGNAL
sets only a fence that no function owns, and counts LATE.MISS otherwise; a fence that it sets ends no fence wait whose lines ran out at an
earlier tick. SCAN of an idle unit counts its RUN and leaves it BUSY, or ends it at once with DONE and ERR 1 at the first bad descriptor of
its program; SCAN of a unit that is not idle leaves it alone. -/
def Obligations.LanternFencesAndScan : Prop :=
  (∀ (s : State) (l : Fin 20) (w : Word), Issues s l.val 0x19 w → (s.lantern l.val).pc < 511 →
    ∃ t, exec (.signal l) s = .next t ∧ (t.lantern l.val).flag = decide (fenceOwner s (fld w 0 10) = 0xFF) ∧
      (t.lantern l.val).pc = (s.lantern l.val).pc + 1 ∧ (t.lantern l.val).lg = (s.lantern l.val).lg ∧
      fenceValue t (fld w 0 10) =
        (if fenceOwner s (fld w 0 10) = 0xFF then lg s l.val (rsOf w) else fenceValue s (fld w 0 10)) ∧
      fld (t.reg (rg .laLate l.val)) 16 16 = (if fenceOwner s (fld w 0 10) = 0xFF then fld (s.reg (rg .laLate l.val)) 16 16
        else min (fld (s.reg (rg .laLate l.val)) 16 16 + 1) 65535) ∧
      fld (t.reg (rg .laLate l.val)) 0 16 = fld (s.reg (rg .laLate l.val)) 0 16 ∧
      (∀ m, m < 20 → m ≠ l.val → ∀ f v left, (s.lantern m).wait = some (.fence f v left) → expired s m left = true →
        t.lantern m = s.lantern m) ∧
      (∀ f, f ≠ fld w 0 10 → fenceValue t f = fenceValue s f) ∧
      (∀ r : RegId, r.addr ≠ (rg .laLate l.val).addr → t.reg r = s.reg r) ∧
      (∀ m, m ≠ l.val → { t.lantern m with hit := (s.lantern m).hit } = s.lantern m) ∧
      Only ([.lanterns, .fa, .regs] ++ signalParts) s t) ∧
  (∀ (s : State) (l : Fin 20) (w : Word), Issues s l.val 0x1B w → (s.lantern l.val).pc < 511 →
    ∃ t, exec (.testf l) s = .next t ∧
      (t.lantern l.val).flag = decide ((fenceValue s (fld w 0 10) - lg s l.val (rsOf w)).toNat < 2 ^ 31) ∧
      (t.lantern l.val).state = .running ∧ (t.lantern l.val).pc = (s.lantern l.val).pc + 1 ∧
      (t.lantern l.val).lg = (s.lantern l.val).lg ∧ IssueFrame l.val [] s t) ∧
  (∀ (s : State) (l : Fin 20) (w : Word), Issues s l.val 0x1C w → (s.lantern l.val).pc < 511 →
    ∃ t, exec (.scan l) s = .next t ∧ (t.lantern l.val).flag = cvIdle s (fld w 0 3) ∧
      (cvIdle s (fld w 0 3) = true → (t.cvUnit (fld w 0 3)).entry = fld (s.reg (rg .cvCtrl (fld w 0 3))) 0 6 ∧
        (t.cvUnit (fld w 0 3)).runs = ((s.cvUnit (fld w 0 3)).runs + 1) % 256 ∧
        (firstBad none (cvProgram s (fld w 0 3) (fld (s.reg (rg .cvCtrl (fld w 0 3))) 0 6)) = none →
          (t.cvUnit (fld w 0 3)).busy = true ∧ (t.cvUnit (fld w 0 3)).done = false ∧ (t.cvUnit (fld w 0 3)).err = 0) ∧
        (∀ d, firstBad none (cvProgram s (fld w 0 3) (fld (s.reg (rg .cvCtrl (fld w 0 3))) 0 6)) = some d →
          (t.cvUnit (fld w 0 3)).busy = false ∧ (t.cvUnit (fld w 0 3)).done = true ∧ (t.cvUnit (fld w 0 3)).err = 1 ∧
            (t.cvUnit (fld w 0 3)).errIndex = d)) ∧
      (cvIdle s (fld w 0 3) = false → t.cvUnit (fld w 0 3) = s.cvUnit (fld w 0 3)) ∧
      (∀ u, u ≠ fld w 0 3 → t.cvUnit u = s.cvUnit u) ∧
      (t.lantern l.val).state = .running ∧ (t.lantern l.val).pc = (s.lantern l.val).pc + 1 ∧
      (t.lantern l.val).lg = (s.lantern l.val).lg ∧ IssueFrame l.val [.cv] s t)

/-- LATCH, STAMP and IRQ (R46, R226): the latch moves to the next line or to V_ACTIVE where the latch line is no earlier; RD takes the
sample or MARK; the source is pending at every target. -/
def Obligations.LanternLatchStampIrq : Prop :=
  (∀ (s : State) (l : Fin 20) (w : Word), Issues s l.val 0x18 w → (s.lantern l.val).pc < 511 → (s.head l.val).phase = .running → (s.head l.val).latched = false →
    (s.head l.val).early = none → max ((s.head l.val).line + 1) (s.head l.val).raster.vActive ≤ latchAt s l.val →
    ∃ t, exec (.latch l) s = .next t ∧
      (t.head l.val).early = some (max ((s.head l.val).line + 1) (s.head l.val).raster.vActive) ∧
      (t.head l.val).line = (s.head l.val).line ∧ (t.head l.val).latched = false ∧
      (∀ m, m ≠ l.val → t.head m = s.head m) ∧ (t.lantern l.val).pc = (s.lantern l.val).pc + 1 ∧
      (t.lantern l.val).flag = (s.lantern l.val).flag ∧ (t.lantern l.val).lg = (s.lantern l.val).lg ∧
      IssueFrame l.val [.heads, .fabric, .fa, .regs] s t) ∧
  (∀ (s : State) (l : Fin 20) (w : Word), Issues s l.val 0x1D w → (s.lantern l.val).pc < 511 →
    ∃ t, exec (.stamp l) s = .next t ∧
      lg t l.val (rdOf w) = (match fld w 16 2 with
        | 0 => BitVec.ofNat 32 s.tick
        | 1 => (s.lantern l.val).stampHi
        | 2 => (s.lantern l.val).mark.setWidth 32
        | _ => ((s.lantern l.val).mark >>> 32).setWidth 32) ∧
      (t.lantern l.val).stampHi = (if fld w 16 2 = 0 then BitVec.ofNat 32 (s.tick / 2 ^ 32) else (s.lantern l.val).stampHi) ∧
      (t.lantern l.val).mark = (s.lantern l.val).mark ∧ (∀ r, r ≠ rdOf w → lg t l.val r = lg s l.val r) ∧
      (t.lantern l.val).pc = (s.lantern l.val).pc + 1 ∧ (t.lantern l.val).flag = (s.lantern l.val).flag ∧ IssueFrame l.val [] s t) ∧
  (∀ (s : State) (l : Fin 20) (w : Word), Issues s l.val 0x1E w → (s.lantern l.val).pc < 511 →
    (449 ≤ fld w 0 9 ∨ fld w 0 9 = if l.val < 16 then 2 + 4 * l.val else 157 + (l.val - 16)) →
    ∃ t, exec (.irq l) s = .next t ∧ (∀ k, k < 34 → (t.target k).pend.getLsbD (fld w 0 9) = true) ∧
      (t.lantern l.val).pc = (s.lantern l.val).pc + 1 ∧ (t.lantern l.val).flag = (s.lantern l.val).flag ∧
      (t.lantern l.val).lg = (s.lantern l.val).lg ∧ IssueFrame l.val [] s t)

/-- SYNC and SYNC_MARKER (R226, R410, R413): the belfry sends MARK on the channel with the flag 1, a device outside a cascade goes on with
the flag 0, a turret waits; the first marker of the channel within 64 lines sets MARK and the flag, and 64 lines without one leave MARK with
the flag 0. A turret whose down port is UP passes a new marker on, and a device that is not JOINED receives none. -/
def Obligations.LanternSync : Prop :=
  (∀ (s : State) (l : Fin 20) (w : Word), Issues s l.val 0x1F w → (s.lantern l.val).pc < 511 →
    ∃ t, exec (.sync l) s = .next t ∧
      (s.casc.role = 1 → (t.lantern l.val).flag = true ∧ (t.lantern l.val).pc = (s.lantern l.val).pc + 1 ∧
        .syncMarker (fld w 0 8) (s.lantern l.val).mark ∈ t.outbox) ∧
      (s.casc.role = 2 → (t.lantern l.val).state = .waiting ∧ (t.lantern l.val).wait = some (.sync (fld w 0 8) 64)) ∧
      (s.casc.role ≠ 1 → s.casc.role ≠ 2 → (t.lantern l.val).flag = false ∧ (t.lantern l.val).pc = (s.lantern l.val).pc + 1) ∧
      (t.lantern l.val).mark = (s.lantern l.val).mark ∧ (t.lantern l.val).lg = (s.lantern l.val).lg ∧ IssueFrame l.val [] s t) ∧
  (∀ (s : State) (l : Fin 20) (c left : Nat) (m : Option Nat), s.power = .on → lanternClocked s l.val = true → (s.lantern l.val).wait = some (.sync c left) →
    (s.lantern l.val).pc < 511 → (m = none → countsLines s l.val = true → left = 0) → (m.isSome = true → s.casc.state = .joined) →
    ∃ t, exec (.syncMarker l m) s = .next t ∧
      t.lantern l.val = { s.lantern l.val with
        state := .running, wait := none, hit := none, out := none, flag := m.isSome && !expired s l.val left, pc := (s.lantern l.val).pc + 1,
        mark := match m with
          | some x => if expired s l.val left then (s.lantern l.val).mark else BitVec.ofNat 64 x
          | none => (s.lantern l.val).mark } ∧
      (∀ x, m = some x → s.casc.role = 2 → (s.osl 1).up = true → SMap.get s.casc.synced c none ≠ some x →
        .syncMarker c (BitVec.ofNat 64 x) ∈ t.outbox) ∧
      (∀ k, k ≠ l.val → t.lantern k = s.lantern k) ∧ Only ([.tick, .corePhase, .lanterns, .casc] ++ signalParts) s t) ∧
  (∀ (s : State) (l : Fin 20) (x : Nat), s.power = .on → s.casc.state ≠ .joined → exec (.syncMarker l (some x)) s = .next s)

/-- FLARE, FLARE_FIRE and PULSE_END (R56 to R59, R224): an entry whose target has not passed is queued with its target at MARK + OFFSET, a late
one is counted and, by default, discarded;
the entry that is due first sets or clears the owned pins of its mask at its target, and leaves its place; a pulse drives them high, and
low at its end. A pin shows its level while FLARE_OE enables it, its bank is supplied and the outputs are driven, and is high-impedance
otherwise. The exact instants, 5 and 4 ticks after the target where R57 gives 5 to 6 and 4 to 5, and that an entry is in the bank at its issue
are the model's choice (log entry 5), and so is a pin without its bank's supply (log entry 72). -/
def Obligations.FlareEntries : Prop :=
  (∀ (s : State) (l : Fin 20) (w m : Word) (a : FlareAct), Issues s l.val 0x14 w → (s.lantern l.val).pc < 511 → (bankOf s l.val).length < 8 →
    m = lg s l.val (fld w 21 3) →
    a = (match fld w 24 2 with
      | 0 => .set
      | 1 => .clear
      | 2 => .pulse (lg s l.val (fld w 18 3)).toNat
      | _ => .trigger { kind := fld m 28 4, arg := if fld m 28 4 = 1 then fld m 0 3 else fld m 0 9 }) →
    (fld w 24 2 = 2 → lg s l.val (fld w 18 3) ≠ 0) →
    (fld w 24 2 = 3 → fld m 28 4 = 1 ∨ (fld m 28 4 = 2 ∧ permittedSource l.val (fld m 0 9) = true)) →
    ((s.tick : Int) ≤ (s.lantern l.val).mark.toNat + ((w.setWidth 18).toInt) →
      ∃ t, exec (.flare l) s = .next t ∧
        bankOf t l.val = bankOf s l.val ++ [{
          target := ((s.lantern l.val).mark.toNat + ((w.setWidth 18).toInt)).toNat, act := a, mask := m, order := s.flares.order }] ∧
        t.flares.level = s.flares.level ∧ (t.lantern l.val).pc = (s.lantern l.val).pc + 1 ∧
        (t.lantern l.val).flag = (s.lantern l.val).flag ∧ (t.lantern l.val).lg = (s.lantern l.val).lg ∧
        IssueFrame l.val [.flares] s t) ∧
    (((s.lantern l.val).mark.toNat + ((w.setWidth 18).toInt)).toNat < s.tick → bit (s.reg (rg .btLateFire)) l.val = false →
      ∃ t, exec (.flare l) s = .next t ∧ bankOf t l.val = bankOf s l.val ∧ t.flares.level = s.flares.level ∧
        fld (t.reg (rg .laLate l.val)) 0 16 = min (fld (s.reg (rg .laLate l.val)) 0 16 + 1) 65535 ∧
        (t.lantern l.val).pc = (s.lantern l.val).pc + 1 ∧ (t.lantern l.val).flag = (s.lantern l.val).flag ∧
        (t.lantern l.val).lg = (s.lantern l.val).lg ∧ (∀ k, k ≠ l.val → t.lantern k = s.lantern k) ∧
        Only ([.lanterns, .flares, .regs] ++ signalParts) s t)) ∧
  (∀ (s : State) (l : Fin 20) (e : FlareEntry), s.power = .on → firstEntry (bankOf s l.val) = some e → e.fall = false →
    (∃ t, exec (.flareFire l) s = .next t ∧ t.tick = max s.tick (e.target + fireDelay e) ∧
      (e.act = .set → t.flares.level = s.flares.level ||| (e.mask &&& ownedPins s l.val) ∧
        bankOf t l.val = (bankOf s l.val).erase e) ∧
      (e.act = .clear → t.flares.level = s.flares.level &&& ~~~(e.mask &&& ownedPins s l.val) ∧
        bankOf t l.val = (bankOf s l.val).erase e) ∧
      (∀ width, e.act = .pulse width → t.flares.level = s.flares.level ||| (e.mask &&& ownedPins s l.val) ∧
        bankOf t l.val = (bankOf s l.val).erase e ++ [{ e with target := e.target + width, fall := true }]) ∧
      Only ([.tick, .corePhase, .flares, .regs, .cv] ++ signalParts) s t)) ∧
  (∀ (s : State) (l : Fin 20) (e : FlareEntry) (width : Nat), s.power = .on → firstEntry (bankOf s l.val) = some e → e.fall = true →
    e.act = .pulse width →
    ∃ t, exec (.pulseEnd l) s = .next t ∧ t.tick = max s.tick (e.target + 5) ∧
      t.flares.level = s.flares.level &&& ~~~(e.mask &&& ownedPins s l.val) ∧ bankOf t l.val = (bankOf s l.val).erase e ∧
      Only ([.tick, .corePhase, .flares] ++ signalParts) s t) ∧
  (∀ (s : State) (l : Fin 20) (e : FlareEntry) (p : Nat), s.power = .on → firstEntry (bankOf s l.val) = some e → e.fall = false →
    e.act = .set → p < 32 → (e.mask &&& ownedPins s l.val).getLsbD p = true →
    ∃ t, exec (.flareFire l) s = .next t ∧
      flarePin t p = (if bit (s.reg (rg .btFlareOe)) p = true ∧ (9 + p / 16) ∉ s.aon.railsOut ∧ outputsDriven s = true then some true
        else none))

/-- LANTERN_START and LANTERN_STOP of a lantern that is not image-owned (R230, R232, R334), as the posted write that each is lands: STOP
halts it and abandons its wait, and leaves a lantern in FAULT there; a START that passes the decode check starts an ingress lantern at ENTRY
with MARK at the tick, and a head lantern at its head's next line; its registers and its flag stay. That an ingress lantern runs, with MARK
at the tick, as the write lands is the model's choice within the 64 clocks of R232 (log entry 5). -/
def Obligations.LanternStartStop : Prop :=
  (∀ (s : State) (src : Source) (l : Fin 20) (b : PBlock) (len : BitVec 10) (entry : BitVec 9), Served s src → mayConfigure s src = true →
    b = blockOfReg (rg .laLctrl l.val) → blockBusy s b = false → (s.lantern l.val).image = false →
    ∃ t u, exec (.lanternStop src l len entry) s = .next t ∧ blockBusy t b = true ∧ t.lanterns = s.lanterns ∧
      exec (.writeLand b) t = .next (resumeBlocked u) ∧
      (u.lantern l.val).state = (if (s.lantern l.val).state = .fault then .fault else .halted) ∧ (u.lantern l.val).wait = none ∧
      (u.lantern l.val).startDue = false ∧ (u.lantern l.val).lg = (s.lantern l.val).lg ∧ (u.lantern l.val).flag = (s.lantern l.val).flag ∧
      (∀ m, m ≠ l.val → u.lantern m = s.lantern m) ∧ (∀ r : RegId, r.addr ≠ (rg .laLctrl l.val).addr → u.reg r = s.reg r) ∧
      Only ([.lanterns, .regs] ++ signalParts) s u) ∧
  (∀ (s : State) (src : Source) (l : Fin 20) (b : PBlock) (len : BitVec 10) (entry : BitVec 9), Served s src → mayConfigure s src = true →
    b = blockOfReg (rg .laLctrl l.val) → blockBusy s b = false → (s.lantern l.val).image = false →
    ((s.lantern l.val).state = .halted ∨ (s.lantern l.val).state = .fault) → len.toNat ≤ 512 → entry.toNat < len.toNat →
    decodeFailure l.val len.toNat (lanternRaster s l.val).vTotal (lanternRaster s l.val).hTotal (programOf s l.val len.toNat) = none →
    ∃ t u, exec (.lanternStart src l len entry) s = .next t ∧ blockBusy t b = true ∧ t.lanterns = s.lanterns ∧
      exec (.writeLand b) t = .next (resumeBlocked u) ∧ (u.lantern l.val).pc = entry.toNat ∧ (u.lantern l.val).len = len.toNat ∧
      (u.lantern l.val).code = 0 ∧
      (if l.val < 16 then (u.lantern l.val).startDue = true ∧ (u.lantern l.val).startPc = entry.toNat
       else (u.lantern l.val).state = .running ∧ (u.lantern l.val).mark = BitVec.ofNat 64 s.tick) ∧
      (u.lantern l.val).lg = (s.lantern l.val).lg ∧ (u.lantern l.val).flag = (s.lantern l.val).flag ∧
      (∀ m, m ≠ l.val → u.lantern m = s.lantern m) ∧ (∀ r : RegId, r.addr ≠ (rg .laLctrl l.val).addr → u.reg r = s.reg r) ∧
      Only ([.lanterns, .regs] ++ signalParts) s u)

/-- Where an instruction faults (R222, R224, R227 to R229): the lantern is in FAULT with its code and the word, its PC stays, its queued
entries are gone, its pins stand at their safe levels, and its source is pending at every target. Every instruction faults with BUDGET where
its line's budget is used up, and with ILLEGAL on an illegal word; one that moves on past word 511 with PC_RANGE; WAITL with LINE_RANGE for
a line that it cannot wait for; FLARE with QUEUE_FULL for a ninth entry, and with ILLEGAL for a width of 0 or an action of no kind; IRQ with
ILLEGAL for a source that is not the program's. -/
def Obligations.LanternFaults : Prop :=
  (∀ (i : Instr) (s : State) (l op : Nat), lanternRow i = some (l, op) → s.power = .on → lanternClocked s l = true →
    (s.lantern l).state = .running → (s.lantern l).startDue = false → (opOf (lanternWord s l) = op ∨ fieldMask (lanternWord s l) = none) →
    ((countsLines s l = true ∨ (s.lantern l).pace = paceOf s) → budgetOf s l ≤ (s.lantern l).issued →
      ∃ t, exec i s = .next t ∧ LanternFaulted s t l 4 []) ∧
    ((s.lantern l).issued < budgetOf s l → illegalWord l (lanternWord s l) = true →
      ∃ t, exec i s = .next t ∧ LanternFaulted s t l 1 [])) ∧
  (∀ (i : Instr) (s : State) (l op : Nat) (w : Word), lanternRow i = some (l, op) → Issues s l op w → 511 ≤ (s.lantern l).pc →
    op ∈ [0x00, 0x01, 0x04, 0x05, 0x06, 0x07, 0x08, 0x18, 0x1B, 0x1C, 0x1D] ∨ (op = 0x1E ∧ permittedSource l (fld w 0 9) = true) →
    ∃ t, exec i s = .next t ∧
      LanternFaulted s t l 5 (if op = 0x18 then [.heads, .fabric, .fa, .regs] else if op = 0x1C then [.cv] else [])) ∧
  (∀ (s : State) (l : Fin 20) (w : Word), Issues s l.val 0x10 w →
    (if l.val < 16 then (appliedRaster s l.val).vTotal ≤ waitOperand s l.val w else 8192 < waitOperand s l.val w) →
    ∃ t, exec (.waitl l) s = .next t ∧ LanternFaulted s t l.val 2 []) ∧
  (∀ (s : State) (l : Fin 20) (w : Word), Issues s l.val 0x14 w → flareAct s l.val w ≠ none → 8 ≤ (bankOf s l.val).length →
    ∃ t, exec (.flare l) s = .next t ∧ LanternFaulted s t l.val 3 []) ∧
  (∀ (s : State) (l : Fin 20) (w : Word), Issues s l.val 0x14 w →
    (fld w 24 2 = 2 ∧ lg s l.val (fld w 18 3) = 0) ∨ (fld w 24 2 = 3 ∧ fld (lg s l.val (fld w 21 3)) 28 4 ≠ 1 ∧
      (fld (lg s l.val (fld w 21 3)) 28 4 ≠ 2 ∨ permittedSource l.val (fld (lg s l.val (fld w 21 3)) 0 9) = false)) →
    ∃ t, exec (.flare l) s = .next t ∧ LanternFaulted s t l.val 1 []) ∧
  (∀ (s : State) (l : Fin 20) (w : Word), Issues s l.val 0x1E w → permittedSource l.val (fld w 0 9) = false →
    ∃ t, exec (.irq l) s = .next t ∧ LanternFaulted s t l.val 1 [])

/-! ### Schedule banks (R80, R87, R95, R439) -/

/-- SB_LOAD, SB_UNLOAD and LOAD_COMPLETE: a load begins on the window's record and its bank is LOADING, unless it is LIVE, SWITCHING
or holds the live image's counterpart; unload empties a RESIDENT bank, and any other answers 0x2C; a load ends with the verifier's code
in SB_STATUS, the bank holding the image or EMPTY, the first image LIVE, and source 225 pending. While a load is still under way both commands
are refused and change nothing. -/
def Obligations.BanksLoadAndUnload : Prop :=
  (∀ (s : State) (src : Source) (b : Fin 4), Served s src → mayConfigure s src = true → s.sched.load = none →
    ∃ t, exec (.sbLoad src b) s = .next t ∧
      t.sched.load = some { bank := b.val, record := windowRecord s, busy := bankBusy s b.val, before := (s.bank b.val).state } ∧
      t.bank b.val = (if bankBusy s b.val then s.bank b.val else { state := .loading, image := none }) ∧
      (∀ j, j ≠ b.val → t.bank j = s.bank j) ∧ t.reg (rg .mcSbCmd) = put b.val 2 ∧
      (∀ r : RegId, r.addr ≠ (rg .mcSbCmd).addr → t.reg r = s.reg r) ∧ Only ([.sched, .regs] ++ signalParts) s t) ∧
  (∀ (s : State) (src : Source) (b : Fin 4), Served s src → mayConfigure s src = true → s.sched.load = none →
    ∃ t, exec (.sbUnload src b) s = .next t ∧
      (if (s.bank b.val).state = .resident ∧ spireHolds s b.val = false then t.bank b.val = {} ∧ t.sched.code = 0
       else t.bank b.val = s.bank b.val ∧ t.sched.code = 0x2C) ∧
      t.sched.lastBank = b.val ∧ (∀ j, j ≠ b.val → t.bank j = s.bank j) ∧ t.reg (rg .mcSbCmd) = put b.val 2 ∧
      (∀ r : RegId, r.addr ≠ (rg .mcSbCmd).addr → t.reg r = s.reg r) ∧ Only ([.sched, .regs] ++ signalParts) s t) ∧
  (∀ (s : State) (src : Source) (b : Fin 4), Served s src → mayConfigure s src = true → s.sched.load.isSome = true →
    ∃ t u, exec (.sbLoad src b) s = .next t ∧ exec (.sbUnload src b) s = .next u ∧
      (∀ f, src = .fn f → (t.errRec f.val).accessErr = true ∧ (u.errRec f.val).accessErr = true) ∧
      Only (.err :: signalParts) s t ∧ Only (.err :: signalParts) s u) ∧
  (∀ (s : State) (l : Load), s.power = .on → s.sched.load = some l →
    ∃ t, exec .loadComplete s = .next t ∧ t.sched.load = none ∧ t.sched.lastBank = l.bank ∧
      (l.busy = true → t.sched.code = 0x2C ∧ ∀ j, t.bank j = s.bank j) ∧
      (l.busy = false → t.sched.code = (judgeRecord s l.record.length l.record).1.code ∧
        (∀ j, j ≠ l.bank → t.bank j = s.bank j) ∧
        ((judgeRecord s l.record.length l.record).2 = none → t.bank l.bank = {}) ∧
        (∀ i, (judgeRecord s l.record.length l.record).2 = some i →
          (liveBank s = none → t.bank l.bank = { state := .live, image := some i }) ∧
          (∀ j, liveBank s = some j → j ≠ l.bank → t.bank l.bank = { state := .resident, image := some i }))) ∧
      (∀ k, k < 34 → (t.target k).pend.getLsbD 225 = true) ∧
      Only ([.lanterns, .keep, .fabric, .sched, .regs, .fa, .si, .oq, .groups, .heads, .dict, .fresh] ++ signalParts) s t)

/-! ### Memory fabric (R101 to R116) -/

/-- ECC_CORRECTABLE, ECC_UNCORRECTABLE, ECC_WRITEBACK and PATROL_SCRUB (R99, R100, R102, R103, R483): the channel's count rises,
saturating, the capture follows R483, the threshold or the uncorrectable source fires, damaged bursts read as uncorrectable, damaged metadata
makes all eight of its bursts so, a write-back and a scrub are bursts of requester 7, and no memory byte changes; the shadow's damaged burst
puts no region in fault before its pixel is compared (R200). That a burst which an event has damaged stays so, data and metadata alike, is the
model's choice (log entry 17); so is the stop of an event of a burst that its channel does not have (log entry 46). -/
def Obligations.EccEvents : Prop :=
  (∀ (s : State) (m : Fin 4) (burst : Nat) (req : BitVec 4), s.power = .on → absentDpa s (burst * 64) = false →
    chanOf (burst * 64) = m.val →
    ∃ t, exec (.eccCorrectable m burst req) s = .next t ∧
      fld (t.reg (rg .mfEccCount m.val)) 0 16 = min (fld (s.reg (rg .mfEccCount m.val)) 0 16 + 1) 65535 ∧
      fld (t.reg (rg .mfEccCount m.val)) 16 16 = fld (s.reg (rg .mfEccCount m.val)) 16 16 ∧
      t.channel m.val = (if (s.channel m.val).logHeld then s.channel m.val
        else { s.channel m.val with logHeld := true, logUncorr := false, logReq := req.toNat, logDpa := burst * 64 }) ∧
      t.fabric.writeback = s.fabric.writeback ++ [burst] ∧
      (fld (s.reg (rg .mfEccThresh m.val)) 0 16 = fld (s.reg (rg .mfEccCount m.val)) 0 16 + 1 →
        ∀ k, k < 34 → (t.target k).pend.getLsbD (241 + m.val) = true) ∧
      (∀ j, j ≠ m.val → t.channel j = s.channel j) ∧
      (∀ r : RegId, r.addr ≠ (rg .mfEccCount m.val).addr → t.reg r = s.reg r) ∧ Only ([.fabric, .regs] ++ signalParts) s t) ∧
  (∀ (s : State) (m : Fin 4) (burst : Nat) (req : BitVec 4) (partialWrite metadata : Bool), s.power = .on →
    absentDpa s (burst * 64) = false → chanOf (burst * 64) = m.val →
    ∃ t, exec (.eccUncorrectable m burst req partialWrite metadata) s = .next t ∧
      fld (t.reg (rg .mfEccCount m.val)) 16 16 = min (fld (s.reg (rg .mfEccCount m.val)) 16 16 + 1) 65535 ∧
      fld (t.reg (rg .mfEccCount m.val)) 0 16 = fld (s.reg (rg .mfEccCount m.val)) 0 16 ∧
      t.channel m.val = (if (s.channel m.val).logHeld && (s.channel m.val).logUncorr then s.channel m.val
        else { s.channel m.val with logHeld := true, logUncorr := true, logReq := req.toNat, logDpa := burst * 64 }) ∧
      (metadata = true → ∀ b, b / 8 = burst / 8 → burstBad t b = true) ∧ burstBad t burst = true ∧
      (req = 8 → t.safety.category.getLsbD 9 = true) ∧ (req ≠ 8 → t.safety = s.safety ∧ t.dict = s.dict) ∧ (req ≠ 9 → t.keep = s.keep) ∧
      (∀ n, { t.keepHead n with diff := (s.keepHead n).diff } = s.keepHead n) ∧
      (∀ k, k < 34 → (t.target k).pend.getLsbD (245 + m.val) = true) ∧
      (∀ j, j ≠ m.val → t.channel j = s.channel j) ∧
      (∀ r : RegId, r.addr ≠ (rg .mfEccCount m.val).addr → t.reg r = s.reg r) ∧
      Only ([.fabric, .regs, .keep, .dict, .safety] ++ signalParts) s t) ∧
  (∀ (s : State) (m : Fin 4) (b : Nat), s.power = .on → s.fabric.writeback.find? (fun b => chanOf (b * 64) = m.val) = some b →
    ∃ t, exec (.eccWriteback m) s = .next t ∧ t.fabric.writeback = s.fabric.writeback.erase b ∧
      (openWeight (s.reg (rg .mfOpenWeight)) 7 ≠ 0 → servedOf t m.val = 7) ∧
      (∀ j, t.channel j = s.channel j) ∧ Only (.fabric :: signalParts) s t) ∧
  (∀ (s : State) (m : Fin 4) (burst : Nat) (single : Bool), s.power = .on → absentDpa s (burst * 64) = false →
    chanOf (burst * 64) = m.val →
    ∃ t, exec (.patrolScrub m burst single) s = .next t ∧ (openWeight (s.reg (rg .mfOpenWeight)) 7 ≠ 0 → servedOf t m.val = 7) ∧
      fld (t.reg (rg .mfEccCount m.val)) 16 16 =
        (if burstBad s burst then min (fld (s.reg (rg .mfEccCount m.val)) 16 16 + 1) 65535
         else fld (s.reg (rg .mfEccCount m.val)) 16 16) ∧
      fld (t.reg (rg .mfEccCount m.val)) 0 16 =
        (if burstBad s burst = false ∧ single = true then min (fld (s.reg (rg .mfEccCount m.val)) 0 16 + 1) 65535
         else fld (s.reg (rg .mfEccCount m.val)) 0 16) ∧
      (burstBad s burst = true → ∀ k, k < 34 → (t.target k).pend.getLsbD (245 + m.val) = true) ∧
      (burstBad s burst = false → single = false → t.channel m.val = s.channel m.val) ∧
      (∀ r : RegId, r.addr ≠ (rg .mfEccCount m.val).addr → t.reg r = s.reg r) ∧ Only ([.fabric, .regs] ++ signalParts) s t) ∧
  (∀ (s : State) (m : Fin 4) (burst : Nat), s.power = .on → (absentDpa s (burst * 64) = true ∨ chanOf (burst * 64) ≠ m.val) →
    (∀ req, exec (.eccCorrectable m burst req) s = .fault .absentBurst) ∧
    (∀ req partialWrite metadata, exec (.eccUncorrectable m burst req partialWrite metadata) s = .fault .absentBurst) ∧
    (∀ single, exec (.patrolScrub m burst single) s = .fault .absentBurst))

/-- PIN_COMPLETE, TLB_INV, REWALK_COMPLETE and MR4_POLL (R106, R107, R113, R116, R195): a pin holds the pages of its range, those that the store
has already and those it walks, or none with source 256 where the store lacks the entries, and the shadow pins a keep surface in its own store;
an invalidation drops the matching cache entries and re-walks the matching pinned pages, and is refused while BUSY; a re-walk ends with the
entries it replaces at their new pages, or faulting, and leaves the pins of every other context; the refresh multiplier and HOT follow MR4. No
memory byte changes. That two pins of one page share one entry of the store is the model's choice (log entry 17), and so is a page that does not
translate held as one 64 KiB entry that faults (log entry 54). -/
def Obligations.PinsAndInvalidation : Prop :=
  (∀ (s : State) (i : Nat) (p : Pin) (ws : List (Nat × Walk)) (l : List Page), s.power = .on → s.fabric.pins[i]? = some p →
    p.state = .pending → ws = pinWalks s (heldPage s p.ctx) p.ctx (p.len / 65536 + 2) p.base (p.base + p.len) →
    l = (ws.map (fun w => pinnedPage w.1 w.2)).eraseDups →
    ∃ t shadow, exec (.pinComplete i) s = .next t ∧ shadow = (shadowPin p (reportWalks (heldPage s p.ctx) 7 p.ctx ws s)).2 ∧
      (p.use.keep = false → shadow = []) ∧
      (if 16384 < pinsUsed s + (l.filter (fun q => !(pinEntries s).contains (p.ctx, q))).length then
        t.fabric.pins[i]? = some { p with state := .refused, pages := [], shadow := shadow, tick := s.tick } ∧
          ∀ k, k < 34 → (t.target k).pend.getLsbD 256 = true
       else t.fabric.pins[i]? = some { p with state := .done, pages := l, shadow := shadow, tick := s.tick }) ∧
      (∀ j, j ≠ i → t.fabric.pins[j]? = s.fabric.pins[j]?) ∧ t.fabric.tlb = s.fabric.tlb ∧
      Only ([.fabric, .regs] ++ signalParts) s t) ∧
  (∀ (s : State) (src : Source) (ctx : BitVec 6) (all : Bool), Served s src → mayConfigure s src = true →
    (s.fabric.rewalks = [] →
      ∃ t, exec (.tlbInv src ctx all) s = .next t ∧
        t.fabric = { s.fabric with
          tlb := s.fabric.tlb.filter (fun e =>
            !invalidates ctx.toNat (fld (s.reg (rg .mfTlbInvVa)) 0 30 * 4096) all e.ctx e.page),
          rewalks := (((pinEntries s ++ shadowEntries s).filter (fun e =>
            invalidates ctx.toNat (fld (s.reg (rg .mfTlbInvVa)) 0 30 * 4096) all e.1 e.2)).map (fun e =>
              { ctx := e.1, va := e.2.va, size := e.2.size })).eraseDups } ∧ Only (.fabric :: signalParts) s t) ∧
    (s.fabric.rewalks ≠ [] →
      ∃ t, exec (.tlbInv src ctx all) s = .next t ∧ (∀ f, src = .fn f → (t.errRec f.val).accessErr = true) ∧
        Only (.err :: signalParts) s t)) ∧
  (∀ (s u : State) (i : Nat) (r : Rewalk), s.power = .on → s.fabric.rewalks[i]? = some r →
    u = (rewalkShadow r { s with fabric := { s.fabric with rewalks := s.fabric.rewalks.eraseIdx i } }).1 →
    ∃ t new shadow, exec (.rewalkComplete i) s = .next t ∧ t.fabric.rewalks = s.fabric.rewalks.eraseIdx i ∧
      t.fabric.pins = s.fabric.pins.map (repinPage r new shadow) ∧
      ((pinEntries s).any r.isOf = true →
        (new = [{ va := r.va, size := r.size, dpa := none }] ∧ ∀ k, k < 34 → (t.target k).pend.getLsbD 256 = true) ∨
        new = ((pinWalks u (fun _ => none) r.ctx (r.size / 65536 + 2) r.va (r.va + r.size)).map
          (fun w => pinnedPage w.1 w.2)).eraseDups) ∧
      (∀ (j : Nat) (p : Pin), s.fabric.pins[j]? = some p → p.ctx ≠ r.ctx → t.fabric.pins[j]? = some p) ∧
      t.fabric.tlb = s.fabric.tlb ∧ Only ([.fabric, .regs] ++ signalParts) s t) ∧
  (∀ (s : State) (mult : BitVec 4) (c : Fin 4) (hot : Bool), s.power = .on →
    ∃ t, exec (.mr4Poll c mult hot) s = .next t ∧
      ((s.channel c.val).reason = 0 → t.channel c.val = { s.channel c.val with refMult := mult.toNat, hot := hot } ∧
        (hot = true → ∀ k, k < 34 → (t.target k).pend.getLsbD (252 + c.val) = true)) ∧
      ((s.channel c.val).reason ≠ 0 → t = s) ∧ (∀ j, j ≠ c.val → t.channel j = s.channel j) ∧
      Only (.fabric :: signalParts) s t)

/-- BAR2_READ and BAR2_WRITE (R325, R326, R342): a page in the translation cache that may be written takes each enabled byte and no
other, and a read answers the bytes there; a poisoned write is discarded and logged; a request outside the BAR is an Unsupported
Request, logged, which a read answers with, as is one of a function in D3hot, and a write there is discarded, poisoned or not. The base, the
size and the context are the endpoint's own. -/
def Obligations.Bar2Accesses : Prop :=
  (∀ (s : State) (f : Fin 32) (off : Nat) (bytes : List (Option Byte)) (p : Page) (d : Nat), s.power = .on →
    bar2Outside s f.val off bytes.length = false → 0 < bytes.length →
    bar2Va s (endpointOf f.val) off % 4096 + bytes.length ≤ 4096 →
    cached s (bar2Ctx s (endpointOf f.val)) (bar2Va s (endpointOf f.val) off) = some p → p.write = true → p.mirror = false →
    pageDpa p (bar2Va s (endpointOf f.val) off) = some d → inKeepWin s d = false →
    rangeBad s d bytes.length = false →
    ∃ t, exec (.bar2Write f off bytes false) s = .next t ∧
      (∀ i b, bytes[i]? = some (some b) → t.byte (d + i) = b) ∧ (∀ i, bytes[i]? = some none → t.byte (d + i) = s.byte (d + i)) ∧
      (∀ a, a < d ∨ d + bytes.length ≤ a → t.byte a = s.byte a) ∧ Only ([.fabric, .mem] ++ signalParts) s t) ∧
  (∀ (s : State) (f : Fin 32) (off len : Nat) (p : Page) (d : Nat), s.power = .on → bar2Outside s f.val off len = false → 0 < len →
    bar2Va s (endpointOf f.val) off % 4096 + len ≤ 4096 →
    cached s (bar2Ctx s (endpointOf f.val)) (bar2Va s (endpointOf f.val) off) = some p →
    pageDpa p (bar2Va s (endpointOf f.val) off) = some d → rangeBad s d len = false →
    ∃ t, exec (.bar2Read f off len) s = .next t ∧ t.reply = .bytes (s.readMem d len) ∧
      Only ([.fabric, .reply] ++ signalParts) s t) ∧
  (∀ (s : State) (f : Fin 32) (off : Nat) (bytes : List (Option Byte)), s.power = .on →
    bar2Outside s f.val off bytes.length = false →
    ∃ t, exec (.bar2Write f off bytes true) s = .next t ∧ .aer (endpointOf f.val) .poisoned ∈ t.outbox ∧
      (∀ k, k < 34 → (t.target k).pend.getLsbD (291 + endpointOf f.val) = true) ∧ Only signalParts s t) ∧
  (∀ (s : State) (f : Fin 32) (off len : Nat), s.power = .on → bar2Outside s f.val off len = true →
    ∃ t, exec (.bar2Read f off len) s = .next t ∧ t.reply = .unsupported ∧
      .aer (endpointOf f.val) .unsupportedRequest ∈ t.outbox ∧
      (∀ k, k < 34 → (t.target k).pend.getLsbD (291 + endpointOf f.val) = true) ∧ Only (.reply :: signalParts) s t) ∧
  (∀ (s : State) (f : Fin 32) (off : Nat) (bytes : List (Option Byte)) (poisoned : Bool), s.power = .on →
    bar2Outside s f.val off bytes.length = true →
    ∃ t, exec (.bar2Write f off bytes poisoned) s = .next t ∧ .aer (endpointOf f.val) .unsupportedRequest ∈ t.outbox ∧
      (∀ k, k < 34 → (t.target k).pend.getLsbD (291 + endpointOf f.val) = true) ∧ Only signalParts s t)

/-! ### Surface ports and the stage engine (R127 to R132) -/

/-- QUEUE and QUEUE_STAGED by the port's function (R129): the entry takes the tail of the slot's queue with the page's buffer, fence and
tag, its pin is asked for, and RESULT is 0; a refused doorbell posts its code and queues nothing: FULL with four entries in the queue, MODE
for a slot that is unbound, beam-raced or fallen back (R202), FENCE for a stream fence of no stream that can set it, FORMAT for a copy of a
format outside the classes or of a pitch below a line's bytes. That these are judged in the order of their codes is the model's choice (log
entry 19). A doorbell of another function, whatever its OP, is ignored and counted (R127). -/
def Obligations.DoorbellsQueue : Prop :=
  (∀ (s : State) (f : Fin 32) (p : Fin 768), Served s (.fn f) → mayUsePort s f.val p.val = true →
    ∃ t, exec (.doorbellQueue f p) s = .next t ∧ DoorbellQueued s t p.val false) ∧
  (∀ (s : State) (f : Fin 32) (p : Fin 768), Served s (.fn f) → mayUsePort s f.val p.val = true →
    ∃ t, exec (.doorbellQueueStaged f p) s = .next t ∧ DoorbellQueued s t p.val true) ∧
  (∀ (s : State) (f : Fin 32) (p : Fin 768), Served s (.fn f) → mayUsePort s f.val p.val = false →
    ∃ t, exec (.doorbellQueue f p) s = .next t ∧ exec (.doorbellQueueStaged f p) s = .next t ∧
      exec (.doorbellSignal f p) s = .next t ∧ exec (.doorbellCancel f p) s = .next t ∧
      (∀ op, exec (.doorbellBadOp f p op) s = .next t) ∧
      fld (t.reg (rg .faRejectCount)) 0 16 = min (fld (s.reg (rg .faRejectCount)) 0 16 + 1) 65535 ∧
      (∀ r : RegId, r.addr ≠ (rg .faRejectCount).addr → t.reg r = s.reg r) ∧ Only (.regs :: signalParts) s t) ∧
  (∀ (s : State) (p : Nat) (staged full mode fence format : Bool),
    full = decide (4 ≤ (s.layer (portSlot s p)).queue.length) →
    mode = (!isBound s (portSlot s p) || beamRaced s (portSlot s p) || fallenBack s (portSlot s p)) →
    fence = (bit (s.reg (rg .ppFence p)) 31 && (decide (191 < fld (s.reg (rg .ppFence p)) 0 8) ||
      !bit (s.reg (rg .siSctrl (fld (s.reg (rg .ppFence p)) 0 8))) 31 ||
      decide (0x2A ≤ fld (s.reg (rg .siSctrl (fld (s.reg (rg .ppFence p)) 0 8))) 0 6))) →
    format = (staged && (!stageable (layerView s (portSlot s p)).fmt ||
      decide (fld (s.reg (rg .ppHostPitch p)) 0 24 < stageLineBytes (layerView s (portSlot s p))))) →
    (queueResult s p staged = 1 ↔ full = true) ∧ (queueResult s p staged = 2 ↔ full = false ∧ mode = true) ∧
    (queueResult s p staged = 3 ↔ full = false ∧ mode = false ∧ fence = true) ∧
    (queueResult s p staged = 4 ↔ full = false ∧ mode = false ∧ fence = false ∧ format = true) ∧
    (queueResult s p staged = 0 ↔ full = false ∧ mode = false ∧ fence = false ∧ format = false))

/-- SIGNAL, CANCEL and BAD_OP (R128, R129): a fence that the function owns takes FENCE_VAL, another answers FENCE (3), as does a FENCE of
KIND 1, which is the model's choice (log entry 65); CANCEL removes the port's entries that are not selected, from every slot that holds one,
and leaves the others in order; an undefined OP answers BAD_OP (6) and does nothing. -/
def Obligations.DoorbellsSignalAndCancel : Prop :=
  (∀ (s : State) (f : Fin 32) (p : Fin 768), Served s (.fn f) → mayUsePort s f.val p.val = true →
    ∃ t, exec (.doorbellSignal f p) s = .next t ∧
      (if bit (s.reg (rg .ppFence p.val)) 31 = false ∧ fenceOwner s (fld (s.reg (rg .ppFence p.val)) 0 10) = f.val then
        SMap.get t.fa.result p.val 0 = 0 ∧
          fenceValue t (fld (s.reg (rg .ppFence p.val)) 0 10) = s.reg (rg .ppFenceVal p.val) ∧
          (∀ i, i ≠ fld (s.reg (rg .ppFence p.val)) 0 10 → fenceValue t i = fenceValue s i)
       else SMap.get t.fa.result p.val 0 = 3 ∧ ∀ i, fenceValue t i = fenceValue s i) ∧
      (∀ j, t.layer j = s.layer j) ∧ Only ([.fa, .lanterns] ++ signalParts) s t) ∧
  (∀ (s : State) (f : Fin 32) (p : Fin 768), Served s (.fn f) → mayUsePort s f.val p.val = true →
    ∃ t, exec (.doorbellCancel f p) s = .next t ∧ SMap.get t.fa.result p.val 0 = 0 ∧
      (∀ j, j < 96 → SameLayer { s.layer j with queue := (s.layer j).queue.filter (fun e =>
        decide (e.port ≠ p.val) || decide ((s.layer j).sel = some e.seq)) } (t.layer j)) ∧
      (∀ i, fenceValue t i = fenceValue s i) ∧ Only ([.fa, .fabric, .regs] ++ signalParts) s t) ∧
  (∀ (s : State) (f : Fin 32) (p : Fin 768) (op : BitVec 4), Served s (.fn f) → mayUsePort s f.val p.val = true →
    (op = 0 ∨ 5 ≤ op.toNat) →
    ∃ t, exec (.doorbellBadOp f p op) s = .next t ∧
      t.fa = { s.fa with result := SMap.set s.fa.result p.val 6 0 } ∧ Only (.fa :: signalParts) s t) ∧
  (∀ (s : State) (f : Fin 32) (p : Fin 768), s.power = .on →
    exec (.doorbellBadOp f p 1) s = exec (.doorbellQueue f p) s ∧ exec (.doorbellBadOp f p 2) s = exec (.doorbellQueueStaged f p) s ∧
    exec (.doorbellBadOp f p 3) s = exec (.doorbellSignal f p) s ∧ exec (.doorbellBadOp f p 4) s = exec (.doorbellCancel f p) s)

/-- STAGE_COPY_DONE and STAGE_COPY_FAIL (R132, R342) of the copy that the engine serves: the copy ends, done or with a DETAIL; the entry keeps
its place and everything else in it, and no other entry, slot or register changes; a copy that is not served is left alone. With none
begun, the engine serves the copy whose head's next latch comes first, the lowest slot of several. That a copy of a head with no next latch
comes last, and that a copy once served is not interrupted, are the model's choices, for R132 gives no more than the order (log entry 34). -/
def Obligations.StageCopiesEnd : Prop :=
  (∀ (s : State) (slot : Fin 96) (k : Nat) (lines : List (List Byte)) (e : QEntry) (c : Stage), s.power = .on →
    runningCopy s slot.val k = some (e, c) →
    ∃ t g, exec (.stageCopyDone slot k lines) s = .next t ∧ (g = none ∨ g = some 5) ∧
      SameLayer { s.layer slot.val with
        queue := (s.layer slot.val).queue.set k { e with stage := some { c with done := g.isNone, failed := g } } } (t.layer slot.val) ∧
      (∀ j, j ≠ slot.val → SameLayer (s.layer j) (t.layer j)) ∧ (∀ i, fenceValue t i = fenceValue s i) ∧
      Only ([.mem, .fabric, .regs, .fa] ++ signalParts) s t) ∧
  (∀ (s : State) (slot : Fin 96) (k : Nat) (lines : List (List Byte)) (e : QEntry) (c : Stage) (detail : BitVec 4), s.power = .on →
    runningCopy s slot.val k = some (e, c) → detail ≠ 0 → detail.toNat ≤ 5 →
    ∃ t g, exec (.stageCopyFail slot k detail lines) s = .next t ∧ (g = detail.toNat ∨ g = 5) ∧
      (lines = [] → g = detail.toNat ∧ t.mem = s.mem) ∧
      SameLayer { s.layer slot.val with
        queue := (s.layer slot.val).queue.set k { e with stage := some { c with done := false, failed := some g } } } (t.layer slot.val) ∧
      (∀ j, j ≠ slot.val → SameLayer (s.layer j) (t.layer j)) ∧ (∀ i, fenceValue t i = fenceValue s i) ∧
      Only ([.mem, .fabric, .regs, .fa] ++ signalParts) s t) ∧
  (∀ (s : State) (slot : Fin 96) (k : Nat) (lines : List (List Byte)) (detail : BitVec 4), s.power = .on →
    runningCopy s slot.val k = none →
    exec (.stageCopyDone slot k lines) s = .next s ∧ exec (.stageCopyFail slot k detail lines) s = .next s) ∧
  (∀ (s : State) (slot : Fin 96) (k : Nat) (e : QEntry) (c : Stage) (d : Nat × Nat × Stage), runningCopy s slot.val k = some (e, c) →
    (∀ x ∈ pendingCopies s, x.2.2.begun = false) → d ∈ pendingCopies s →
    sooner (nextLatch s (slotHead s d.1)) (nextLatch s (slotHead s slot.val)) = false ∧
    (d.1 < slot.val → sooner (nextLatch s (slotHead s slot.val)) (nextLatch s (slotHead s d.1)) = true))

/-! ### Keep path (R196 to R214) -/

/-- KEEP_MISMATCH, SHADOW_LATE and KEEP_CLOCK_FAULT (R196 to R201): the region of the tile or pixel, or every region of an affected head,
is in fault with its kind; where a region enters fault so, category 1 is set and source 65 + n is pending, and where each was in fault before,
nothing but the kind and the count moves; the first mismatching tile is captured and a later one is counted once a frame, so that a tile
already recorded in the frame is not counted again; outside every enabled region, or on a head that does not scan, nothing changes. -/
def Obligations.KeepFaultsEnter : Prop :=
  (∀ (s : State) (n : Fin 16) (col row r : Nat) (unknown : Bool), s.power = .on → isRunning s n.val = true →
    regionAt s n.val (16 * col) (4 * row) = some r →
    ∃ t, exec (.keepMismatch n col row unknown) s = .next t ∧ (t.keepHead n.val).fault.getLsbD r = true ∧
      (t.keepHead n.val).fallback.getLsbD r = false ∧ (t.keepHead n.val).lastKind = (if unknown then 3 else 1) ∧
      (∀ q, q ≠ r → (t.keepHead n.val).fault.getLsbD q = (s.keepHead n.val).fault.getLsbD q) ∧
      (unknown = false → (s.keepHead n.val).tileValid = false → (t.keepHead n.val).tileValid = true ∧
        (t.keepHead n.val).tileRegion = r ∧ (t.keepHead n.val).tileRow = row ∧ (t.keepHead n.val).tileCol = col ∧
        (t.keepHead n.val).tileFrame = (s.head n.val).frame ∧ t.reg (rg .scMismatch n.val) = s.reg (rg .scMismatch n.val)) ∧
      (unknown = false → (s.keepHead n.val).tileValid = true → (s.keepHead n.val).tiles.contains (col, row) = false →
        (t.reg (rg .scMismatch n.val)).toNat = min ((s.reg (rg .scMismatch n.val)).toNat + 1) (2 ^ 32 - 1) ∧
        (t.keepHead n.val).tiles = (col, row) :: (s.keepHead n.val).tiles ∧
        (t.keepHead n.val).tileRow = (s.keepHead n.val).tileRow ∧ (t.keepHead n.val).tileCol = (s.keepHead n.val).tileCol) ∧
      (unknown = false → (s.keepHead n.val).tileValid = true → (s.keepHead n.val).tiles.contains (col, row) = true →
        t.reg (rg .scMismatch n.val) = s.reg (rg .scMismatch n.val) ∧ (t.keepHead n.val).tiles = (s.keepHead n.val).tiles ∧
        (t.keepHead n.val).tileRow = (s.keepHead n.val).tileRow ∧ (t.keepHead n.val).tileCol = (s.keepHead n.val).tileCol) ∧
      EntersFault s t n.val r ∧ (∀ m, m ≠ n.val → t.keepHead m = s.keepHead m) ∧
      (∀ a : RegId, a.addr ≠ (rg .scMismatch n.val).addr → t.reg a = s.reg a) ∧
      Only ([.keep, .regs, .dict, .safety] ++ signalParts) s t) ∧
  (∀ (s : State) (n : Fin 16) (x y r : Nat), s.power = .on → isRunning s n.val = true → regionAt s n.val x y = some r →
    ∃ t, exec (.shadowLate n x y) s = .next t ∧ (t.keepHead n.val).fault.getLsbD r = true ∧ (t.keepHead n.val).lastKind = 4 ∧
      (∀ q, q ≠ r → (t.keepHead n.val).fault.getLsbD q = (s.keepHead n.val).fault.getLsbD q) ∧
      EntersFault s t n.val r ∧ (∀ m, m ≠ n.val → t.keepHead m = s.keepHead m) ∧ Only ([.keep, .dict, .safety] ++ signalParts) s t) ∧
  (∀ (s : State) (n : Fin 16) (x y : Nat) (unknown : Bool), s.power = .on →
    (isRunning s n.val = false → exec (.keepMismatch n x y unknown) s = .next s ∧ exec (.shadowLate n x y) s = .next s) ∧
    (regionAt s n.val x y = none → exec (.shadowLate n x y) s = .next s) ∧
    (regionAt s n.val (16 * x) (4 * y) = none → exec (.keepMismatch n x y unknown) s = .next s)) ∧
  (∀ (s : State) (c : ClockTarget), s.power = .on →
    ∃ t, exec (.keepClockFault c) s = .next t ∧ c ∈ t.keep.clockBad ∧
      (∀ n, n ∈ clockHeads s c → ∀ r, r ∈ keepRegions s n → (t.keepHead n).fault.getLsbD r = true ∧ (t.keepHead n).lastKind = 5 ∧
        ((s.keepHead n).fault.getLsbD r = false → t.safety.category.getLsbD 1 = true ∧
          ∀ k, k < 34 → (t.target k).pend.getLsbD (65 + n) = true)) ∧
      (∀ n, n ∉ clockHeads s c → t.keepHead n = s.keepHead n) ∧ Only ([.keep, .dict, .safety] ++ signalParts) s t)

/-- KEEP_CLOCK_RESTORED, SELFTEST_LINE and KEEP_CLEAR (R204, R211, R214): the clock is no longer bad; a test line that is due moves the bit
position on and, where it fails, puts every region of the head in fault with kind 6; a clear request of a source that carries SAFETY is
kept for the head's next latch, and any other is refused. That the position counts modulo 6 times the depth is the model's choice (log entry
36). -/
def Obligations.KeepTestsAndClears : Prop :=
  (∀ (s : State) (c : ClockTarget), s.power = .on →
    ∃ t, exec (.keepClockRestored c) s = .next t ∧ t.keep = { s.keep with clockBad := s.keep.clockBad.erase c } ∧ Only [.keep] s t) ∧
  (∀ (s : State) (n : Fin 16) (pass : Bool), s.power = .on →
    (selftestDue s n.val = false → exec (.selftestLine n pass) s = .next s) ∧
    (selftestDue s n.val = true →
      ∃ t, exec (.selftestLine n pass) s = .next t ∧ (t.keepHead n.val).selfFrames = 0 ∧
        (t.keepHead n.val).selfBit = ((s.keepHead n.val).selfBit + 1) % (6 * headDepth s n.val) ∧
        (pass = true → (t.keepHead n.val).fault = (s.keepHead n.val).fault ∧ Only [.keep] s t) ∧
        (pass = false → ∀ r, r ∈ keepRegions s n.val → (t.keepHead n.val).fault.getLsbD r = true ∧ (t.keepHead n.val).lastKind = 6 ∧
          ((s.keepHead n.val).fault.getLsbD r = false → ∀ k, k < 34 → (t.target k).pend.getLsbD (65 + n.val) = true)) ∧
        (∀ m, m ≠ n.val → t.keepHead m = s.keepHead m) ∧ Only ([.keep, .dict, .safety] ++ signalParts) s t)) ∧
  (∀ (s : State) (src : Source) (n : Fin 16) (regions : BitVec 4), Served s src →
    (carriesSafety s src = true →
      ∃ t, exec (.keepClear src n regions) s = .next t ∧
        t.keepHead n.val = { s.keepHead n.val with clearReq := (s.keepHead n.val).clearReq ||| regions } ∧
        (∀ m, m ≠ n.val → t.keepHead m = s.keepHead m) ∧ Only (.keep :: signalParts) s t) ∧
    (carriesSafety s src = false →
      ∃ t, exec (.keepClear src n regions) s = .next t ∧ (∀ f, src = .fn f → (t.errRec f.val).accessErr = true) ∧
        Only (.err :: signalParts) s t))

/-! ### Check values (R363 to R376) -/

/-- CV_START and CV_ABORT (R365, R368): an idle unit takes ENTRY and CTRL, counts RUN and is BUSY, or ends at once with ERR 1 at the first
bad descriptor; a start of a busy unit is refused; an abort ends a busy unit with ERR 4, and as it writes ENTRY too, it is flagged there (log
entry 20); an abort of a unit that is not busy only stores CTRL. -/
def Obligations.CheckValuesStart : Prop :=
  (∀ (s : State) (src : Source) (u : Fin 8) (v : Word), Served s src → mayScan s src = true → v.getLsbD 30 = false →
    cvIdle s u.val = true →
    ∃ t, exec (.cvStart src u v) s = .next t ∧ t.reg (rg .cvCtrl u.val) = v &&& 0x73F#32 ∧
      (t.cvUnit u.val).entry = fld v 0 6 ∧ (t.cvUnit u.val).runs = ((s.cvUnit u.val).runs + 1) % 256 ∧
      (t.cvUnit u.val).mismatch = false ∧ (t.cvUnit u.val).results = (s.cvUnit u.val).results ∧
      (firstBad none (cvProgram s u.val (fld v 0 6)) = none →
        (t.cvUnit u.val).busy = true ∧ (t.cvUnit u.val).done = false ∧ (t.cvUnit u.val).err = 0) ∧
      (∀ d, firstBad none (cvProgram s u.val (fld v 0 6)) = some d →
        (t.cvUnit u.val).busy = false ∧ (t.cvUnit u.val).done = true ∧ (t.cvUnit u.val).err = 1 ∧ (t.cvUnit u.val).errIndex = d ∧
        (v.getLsbD 9 = true → ∀ k, k < 34 → (t.target k).pend.getLsbD (201 + u.val) = true)) ∧
      (∀ j, j ≠ u.val → t.cvUnit j = s.cvUnit j) ∧ (∀ r : RegId, r.addr ≠ (rg .cvCtrl u.val).addr → t.reg r = s.reg r) ∧
      Only ([.cv, .regs] ++ signalParts) s t) ∧
  (∀ (s : State) (src : Source) (u : Fin 8) (v : Word), Served s src → mayScan s src = true → v.getLsbD 30 = false →
    (s.cvUnit u.val).busy = true →
    ∃ t, exec (.cvStart src u v) s = .next t ∧ (∀ f, src = .fn f → (t.errRec f.val).accessErr = true) ∧
      Only (.err :: signalParts) s t) ∧
  (∀ (s : State) (src : Source) (u : Fin 8) (v : Word), Served s src → mayScan s src = true → mcHoldsUnit s u.val = false →
    (s.cvUnit u.val).busy = true →
    ∃ t, exec (.cvAbort src u v) s = .next t ∧ (t.cvUnit u.val).busy = false ∧ (t.cvUnit u.val).done = true ∧
      (t.cvUnit u.val).err = 4 ∧ (t.cvUnit u.val).runs = (s.cvUnit u.val).runs ∧ (t.cvUnit u.val).entry = (s.cvUnit u.val).entry ∧
      (∀ f, src = .fn f → (t.errRec f.val).accessErr = true) ∧ (v.getLsbD 9 = true → ∀ k, k < 34 → (t.target k).pend.getLsbD (201 + u.val) = true) ∧
      (∀ j, j ≠ u.val → t.cvUnit j = s.cvUnit j) ∧ Only ([.cv, .regs, .fabric, .fresh, .err] ++ signalParts) s t) ∧
  (∀ (s : State) (src : Source) (u : Fin 8) (v : Word), Served s src → mayScan s src = true → mcHoldsUnit s u.val = false →
    (s.cvUnit u.val).busy = false →
    ∃ t, exec (.cvAbort src u v) s = .next t ∧ t.reg (rg .cvCtrl u.val) = v &&& 0x73F#32 ∧
      (∀ r : RegId, r.addr ≠ (rg .cvCtrl u.val).addr → t.reg r = s.reg r) ∧ Only (.regs :: signalParts) s t)

/-- CV_PROGRAM_END (R364 to R370): a busy unit ends with DONE; a run that ends well has ERR 0, one that fails has its ERR and descriptor; a
program of one LINEAR descriptor has the check value of the bytes read in RES, and MISMATCH where it is verified against another value.
No memory byte changes. A unit that is not busy is left alone. -/
def Obligations.CheckValuesEnd : Prop :=
  (∀ (s : State) (u : Fin 8), s.power = .on → (s.cvUnit u.val).busy = true →
    ∃ t, exec (.cvProgramEnd u) s = .next t ∧ (t.cvUnit u.val).busy = false ∧ (t.cvUnit u.val).done = true ∧
      (∀ r, (runDescs u.val (cvProgram s u.val (s.cvUnit u.val).entry) {} s).2 = .ok r →
        (t.cvUnit u.val).err = 0 ∧ (t.cvUnit u.val).doneEmpty = r.allEmpty) ∧
      (∀ e d, (runDescs u.val (cvProgram s u.val (s.cvUnit u.val).entry) {} s).2 = .error (e, d) →
        (t.cvUnit u.val).err = e ∧ (t.cvUnit u.val).errIndex = d ∧ SMap.get (t.cvUnit u.val).results d 0 = 0) ∧
      (∀ d x l, cvProgram s u.val (s.cvUnit u.val).entry = [(d, x)] → x.kind = 0 → x.cont = false → x.length ≠ 0 →
        (scanRange u.val x.ctx x.va x.length s).2 = .ok l →
        SMap.get (t.cvUnit u.val).results d 0 = BitVec.ofNat 64 (crcFinal x.alg (crcRun x.alg (crcInit x.alg) l)) ∧
        ((s.cvUnit u.val).mismatch = false → (t.cvUnit u.val).mismatch =
          (x.verify && decide (crcFinal x.alg (crcRun x.alg (crcInit x.alg) l) ≠ x.expect)))) ∧
      (t.cvUnit u.val).runs = (s.cvUnit u.val).runs ∧ (∀ j, j ≠ u.val → t.cvUnit j = s.cvUnit j) ∧
      (bit (s.reg (rg .cvCtrl u.val)) 8 = true → ∀ k, k < 34 → (t.target k).pend.getLsbD (193 + u.val) = true) ∧
      Only ([.cv, .regs, .fabric] ++ signalParts) s t) ∧
  (∀ (s : State) (u : Fin 8), s.power = .on → (s.cvUnit u.val).busy = false → exec (.cvProgramEnd u) s = .next s)

/-! ### Interrupt concentrator (R346 to R362) -/

/-- CLAIM and EOI (R351, R352), judged once the access is counted: a full read answers the best source, pops its pending bit and pushes it
with its priority; with no source, or a full stack, it answers 0 and the stack stays; a narrower read, or one of the MC's target by another,
claims nothing; EOI of the top of the stack pops it and the running priority returns to the new top, and any other is refused with its
cause; an EOI changes ARMED only through a message that it lets go. -/
def Obligations.ClaimsAndEnds : Prop :=
  (∀ (s : State) (src : Source) (selected : Bool) (x : Nat), Served s src → x = targetOf s src selected → (x ≠ 32 ∨ isMc src = true) →
    ∃ t, exec (.claim src selected true) s = .next t ∧
      (if 8 ≤ (s.target x).stack.length then
        t.reply = .word 0 ∧ (t.target x).stack = (s.target x).stack ∧ (t.target x).nestFull = true
       else if bestSource (countBar0 src 1 s) x = 0 then t.reply = .word 0 ∧ (t.target x).stack = (s.target x).stack
       else t.reply = .word (BitVec.ofNat 32 (bestSource (countBar0 src 1 s) x)) ∧
        (t.target x).stack = Claim.mk (bestSource (countBar0 src 1 s) x)
          (SMap.get (s.target x).prio (bestSource (countBar0 src 1 s) x) 0) :: (s.target x).stack ∧
        (bestSource (countBar0 src 1 s) x < 273 ∨ 288 < bestSource (countBar0 src 1 s) x →
          (t.target x).pend.getLsbD (bestSource (countBar0 src 1 s) x) = false)) ∧
      (t.target x).mask = (s.target x).mask ∧ (t.target x).threshold = (s.target x).threshold ∧
      (∀ k, k ≠ x → (t.target k).stack = (s.target k).stack) ∧ Only (.reply :: signalParts) s t) ∧
  (∀ (s : State) (src : Source) (selected full : Bool), Served s src →
    full = false ∨ (targetOf s src selected = 32 ∧ isMc src = false) →
    exec (.claim src selected full) s = .next ((countBar0 src 1 s).answer (.word (BitVec.ofNat 32
      (if (s.target (targetOf s src selected)).stack.length < 8 then
        bestSource (countBar0 src 1 s) (targetOf s src selected) else 0))))) ∧
  (∀ (s : State) (src : Source) (selected : Bool) (n : BitVec 9) (x : Nat), Served s src → x = targetOf s src selected →
    mayTarget src x = true →
    ∃ t, exec (.eoi src selected n) s = .next t ∧
      (∀ c rest, (s.target x).stack = c :: rest → c.source = n.toNat → (t.target x).stack = rest ∧
        running (t.target x) = (rest.map (·.prio)).headD 0 ∧ Only signalParts s t) ∧
      (((s.target x).stack.map (·.source)).head? ≠ some n.toNat →
        (t.target x).stack = (s.target x).stack ∧ ∀ f, src = .fn f → (t.errRec f.val).accessErr = true ∧
          ((s.errRec f.val).held = false → (t.errRec f.val).cause = (if (s.target x).stack = [] then 3 else 4))) ∧
      ((t.target x).armed = (s.target x).armed ∨ OutMsg.msix x ∈ t.outbox.drop s.outbox.length) ∧
      (∀ k, k ≠ x → (t.target k).stack = (s.target k).stack) ∧ (t.target x).mask = (s.target x).mask ∧
      Only (.err :: signalParts) s t)

/-- PEND_SET, PEND_CLR, MASK_SET, MASK_CLR and COALESCE_TIMEOUT (R347, R356, R360, R362): the bits of the word rise or clear, source 0 and
the sources 161 to 192 never become pending, a VF sets none below 449 and is refused; masks move by exactly the word; a HOLDING group
whose TIME has passed is RELEASED while a member is pending at a target that does not sleep. -/
def Obligations.TargetWordsWritten : Prop :=
  (∀ (s : State) (src : Source) (selected : Bool) (k : Fin 16) (w : Word) (x : Nat), Served s src → x = targetOf s src selected →
    mayTarget src x = true →
    (∃ t, exec (.pendSet src selected k w) s = .next t ∧
      (∀ i, i < 32 → w.getLsbD i = true → maySet src (32 * k.val + i) = true → (t.target x).pend.getLsbD (32 * k.val + i) = true) ∧
      (∀ n, n < 512 → (n < 273 ∨ 288 < n) → n ≠ 417 → ¬ (n / 32 = k.val ∧ w.getLsbD (n % 32) = true ∧ maySet src n = true) →
        (t.target x).pend.getLsbD n = (s.target x).pend.getLsbD n) ∧
      (∀ f, src = .fn f → isPF f.val = false → (∃ i, i < 32 ∧ w.getLsbD i = true ∧ 32 * k.val + i < 449) →
        (t.errRec f.val).accessErr = true) ∧
      (t.target x).mask = (s.target x).mask ∧ (t.target x).stack = (s.target x).stack ∧ Only (.err :: signalParts) s t) ∧
    (∃ t, exec (.pendClr src selected k w) s = .next t ∧
      (∀ n, n < 512 → (n < 273 ∨ 288 < n) → (t.target x).pend.getLsbD n =
        ((s.target x).pend.getLsbD n && !(decide (n / 32 = k.val) && w.getLsbD (n % 32)))) ∧
      (t.target x).mask = (s.target x).mask ∧ (t.target x).stack = (s.target x).stack ∧ Only signalParts s t) ∧
    (∃ t, exec (.maskSet src selected k w) s = .next t ∧
      (∀ n, n < 512 → (t.target x).mask.getLsbD n =
        ((s.target x).mask.getLsbD n || (decide (n / 32 = k.val) && w.getLsbD (n % 32) && decide (n ≠ 0)))) ∧
      (t.target x).stack = (s.target x).stack ∧ (∀ j, j ≠ x → (t.target j).mask = (s.target j).mask) ∧ Only signalParts s t) ∧
    (∃ t, exec (.maskClr src selected k w) s = .next t ∧
      (∀ n, n < 512 → (t.target x).mask.getLsbD n =
        ((s.target x).mask.getLsbD n && !(decide (n / 32 = k.val) && w.getLsbD (n % 32) && decide (n ≠ 0)))) ∧
      (t.target x).stack = (s.target x).stack ∧ (∀ j, j ≠ x → (t.target j).mask = (s.target j).mask) ∧ Only signalParts s t)) ∧
  (∀ (s : State) (g : Fin 64) (c : Word) (x : Nat), s.power = .on → c = s.reg (rg .icGcfg g.val) → x = fld c 24 6 →
    ((s.cgroup g.val).state = .holding → fld c 0 16 ≠ 0 →
      ∃ t, exec (.coalesceTimeout g) s = .next t ∧ t.tick = max s.tick ((s.cgroup g.val).since + fld c 0 16 * 1600) ∧
        (sleeping s x = false → (∃ n, n < 512 ∧ (s.target x).pend.getLsbD n = true ∧ coalGroup s x n = some g.val) →
          (t.cgroup g.val).state = .released) ∧
        (∀ j, (t.target j).mask = (s.target j).mask ∧ (t.target j).stack = (s.target j).stack) ∧
        Only ([.tick, .corePhase] ++ signalParts) s t) ∧
    ((s.cgroup g.val).state ≠ .holding ∨ fld c 0 16 = 0 → exec (.coalesceTimeout g) s = .next s))

/-! ### Register writes (R285 to R288, R327 to R341) -/

/-- REGISTER_WRITE and RESERVED_WRITE (R285, R328 to R330, R337, R338): a full dword of a plain register stores its writable bits and a
group's member is held; byte enables that are not full, and a judgement against the write, leave every register and set ACCESS_ERR or
LOCK_VIOLATION in the writer's record; a register of a port page takes the writes of the port's owner, and counts those of another; a reserved
address counts in RSV_WRITES. -/
def Obligations.RegisterWritesTake : Prop :=
  (∀ (s : State) (src : Source) (addr : Nat) (v : Word) (r : RegId), Served s src → PlainWrite s src addr r v →
    (r.name.row.kind = .rw → r.name ≠ .shCringCtrl →
      ∃ t, exec (.registerWrite src addr [{ be := 15, data := v }]) s = .next t ∧ t.reg r = stored s r v ∧
        (∀ a : RegId, a.addr ≠ r.addr → t.reg a = s.reg a) ∧ Only ([.regs, .dict] ++ signalParts) s t) ∧
    (∀ g, r.name.row.kind = .mem g →
      ∃ t h, exec (.registerWrite src addr [{ be := 15, data := v }]) s = .next t ∧
        t.held.find? (fun e => e.1 = r.addr) = some (r.addr, h) ∧ h.value = stored s r v ∧ h.safety = carriesSafety s src ∧
        (∀ a, a ≠ r.addr → t.held.find? (fun e => e.1 = a) = s.held.find? (fun e => e.1 = a)) ∧ Only (.held :: signalParts) s t)) ∧
  (∀ (s : State) (src : Source) (addr : Nat) (be : BitVec 4) (v : Word) (r : RegId), Served s src → be ≠ 15 →
    decode s src (addr / 4 * 4) = .reg r →
    ∃ t, exec (.registerWrite src addr [{ be := be, data := v }]) s = .next t ∧
      (∀ f, src = .fn f → (t.errRec f.val).accessErr = true ∧
        ((s.errRec f.val).held = false → (t.errRec f.val).held = true ∧ (t.errRec f.val).cause = 1 ∧ (t.errRec f.val).be = be)) ∧
      Only (.err :: signalParts) s t) ∧
  (∀ (s : State) (src : Source) (addr : Nat) (v : Word) (r : RegId) (x : Reject), Served s src →
    decode s src (addr / 4 * 4) = .reg r → r.name.row.kind ≠ .ro → portPage r = false →
    judgeWrite (countBar0 src 2 s) src false r v = some x →
    ∃ t, exec (.registerWrite src addr [{ be := 15, data := v }]) s = .next t ∧
      (∀ f c, src = .fn f → x = .cause c → (t.errRec f.val).accessErr = true ∧
        ((s.errRec f.val).held = false → (t.errRec f.val).held = true ∧ (t.errRec f.val).cause = c)) ∧
      (∀ f, src = .fn f → x = .locked ∨ x = .written → (t.errRec f.val).lockViolation = true) ∧
      Only (.err :: signalParts) s t) ∧
  (∀ (s : State) (src : Source) (addr : Nat) (v : Word) (r : RegId), Served s src → decode s src (addr / 4 * 4) = .reg r →
    portPage r = true → r.name ≠ .ppDoorbell →
    (ownsPort s src r.i = false →
      ∃ t, exec (.registerWrite src addr [{ be := 15, data := v }]) s = .next t ∧
        fld (t.reg (rg .faRejectCount)) 0 16 = min (fld (s.reg (rg .faRejectCount)) 0 16 + 1) 65535 ∧
        (∀ a : RegId, a.addr ≠ (rg .faRejectCount).addr → t.reg a = s.reg a) ∧ Only (.regs :: signalParts) s t) ∧
    (ownsPort s src r.i = true → r.name ≠ .ppStatus →
      ∃ t, exec (.registerWrite src addr [{ be := 15, data := v }]) s = .next t ∧ t.reg r = stored s r v ∧
        (∀ a : RegId, a.addr ≠ r.addr → t.reg a = s.reg a) ∧ Only (.regs :: signalParts) s t)) ∧
  (∀ (s : State) (f : Fin 32) (addr : Nat) (d : WDword), Served s (.fn f) → decode s (.fn f) (addr / 4 * 4) = .reserved →
    addr / 4 * 4 < barSize (.fn f) →
    ∃ t, exec (.reservedWrite f addr [d]) s = .next t ∧ (t.errRec f.val).rsvWrites = satAdd 16 (s.errRec f.val).rsvWrites 1 ∧
      (t.errRec f.val).accessErr = (s.errRec f.val).accessErr ∧ (∀ g, g ≠ f.val → t.errRec g = s.errRec g) ∧
      Only (.err :: signalParts) s t)

/-- GROUP_KEY_WRITE and GROUP_PENDING (R286, R288, R243, R395): the key and every held member of a group that is not of ·T fields apply
together, a member that was not held keeps its value, and none stays held; the group of a running head's ·T fields becomes one item that waits
for a latch, its surface pinned, and of a stopped head is judged at once, a refused one leaving every member; a ring group of a stream waits
for the end of its frame or is judged and bound at once; a completion ring's group sets its counts to 0. A group held for its interval is
pending, counted, logged first, and raises source 217; that the interval counts from the oldest member held is the model's choice (log
entry 40). -/
def Obligations.GroupKeysComplete : Prop :=
  (∀ (s : State) (src : Source) (addr : Nat) (v : Word) (r : RegId) (g : Grp), Served s src →
    PlainWrite s src addr r v → addr % 4 = 0 → r.name.row.kind = .key g → g.draftable = false → g ≠ .ring → g ≠ .cring →
    r = g.keyOf r.i r.j →
    ∃ t, exec (.groupKeyWrite src addr v) s = .next t ∧ t.reg r = stored s r v ∧
      (∀ m, m ∈ g.members r.i r.j → m ≠ r → t.reg m = heldOr s m) ∧
      (∀ m, m ∈ g.members r.i r.j → t.held.find? (fun e => e.1 = m.addr) = none) ∧
      (∀ a : RegId, a.addr ∉ (g.members r.i r.j).map RegId.addr → t.reg a = s.reg a) ∧
      r.addr ∉ t.pendGroups ∧ Only ([.regs, .held, .pendGroups] ++ signalParts) s t) ∧
  (∀ (s : State) (src : Source) (addr : Nat) (v : Word) (r : RegId) (g : Grp) (n : Nat), Served s src →
    PlainWrite s src addr r v → addr % 4 = 0 → r.name.row.kind = .key g → g.draftable = true → r = g.keyOf r.i r.j →
    headOfItem s (groupWrites s g r v (carriesSafety s src)) = some n →
    let ws := groupWrites s g r v (carriesSafety s src)
    let s0 := clearPending g r.i r.j (dropHeld g r.i r.j (countBar0 src 2 s))
    (isRunning s n = true →
      ∃ t, exec (.groupKeyWrite src addr v) s = .next t ∧
        t.items = s.items ++ [{ head := n, unit := r.addr, group := true, writes := ws, landed := s.tick }] ∧
        t.fabric = (pinSurfaces ws s).fabric ∧ (∀ m, m ∈ g.members r.i r.j → t.held.find? (fun e => e.1 = m.addr) = none) ∧
        r.addr ∉ t.pendGroups ∧ Only ([.items, .fabric, .held, .pendGroups] ++ signalParts) s t) ∧
    (isRunning s n = false →
      (∀ x, tryItem n ws (pinSurfaces ws s0) = .ok x → exec (.groupKeyWrite src addr v) s = .next (flushRecs x)) ∧
      (∀ c, tryItem n ws (pinSurfaces ws s0) = .error c →
        ∃ t, exec (.groupKeyWrite src addr v) s = .next t ∧ t.items = s.items ∧ SMap.get t.lastReject n 0 = c.1 ∧
          (∀ m, m ∈ g.members r.i r.j → t.reg m = s.reg m ∧ t.held.find? (fun e => e.1 = m.addr) = none) ∧
          r.addr ∉ t.pendGroups))) ∧
  (∀ (s : State) (src : Source) (addr : Nat) (v : Word) (r : RegId), Served s src → PlainWrite s src addr r v → addr % 4 = 0 →
    r.name.row.kind = .key .ring → r = Grp.ring.keyOf r.i r.j →
    let old := s.stream r.i
    let ws := groupWrites s .ring r v (carriesSafety s src)
    let wait := old.waiting.filter (fun w => !ws.any (fun y => y.addr = w.addr)) ++ ws
    ∃ t, exec (.groupKeyWrite src addr v) s = .next t ∧
      (∀ m, m ∈ Grp.ring.members r.i r.j → t.held.find? (fun e => e.1 = m.addr) = none) ∧ r.addr ∉ t.pendGroups ∧
      (∀ j, j ≠ r.i → t.stream j = s.stream j) ∧ Only ([.regs, .si, .fabric, .held, .pendGroups] ++ signalParts) s t ∧
      (old.active = true → t.stream r.i = { old with waiting := wait } ∧ t.regs = s.regs ∧ t.fabric = s.fabric) ∧
      (old.active = false → ∀ c, streamFails (overlay wait s) r.i = some c →
        t.stream r.i = { old with waiting := [], lastReject := c } ∧ t.regs = s.regs ∧ t.fabric = s.fabric) ∧
      (old.active = false → streamFails (overlay wait s) r.i = none →
        (∀ a : RegId, t.reg a = (overlay wait s).reg a) ∧ (t.stream r.i).waiting = [] ∧ (t.stream r.i).ringApplied = true ∧
        (t.stream r.i).firstSince = true ∧ (t.stream r.i).history = [] ∧ (t.stream r.i).ringOk = ringAgrees t r.i)) ∧
  (∀ (s : State) (src : Source) (addr : Nat) (v : Word) (r : RegId), Served s src → PlainWrite s src addr r v → addr % 4 = 0 →
    r.name.row.kind = .key .cring → r = Grp.cring.keyOf r.i r.j →
    ∃ t, exec (.groupKeyWrite src addr v) s = .next t ∧ t.reg r = stored s r v ∧
      (∀ m, m ∈ Grp.cring.members r.i r.j → m ≠ r → t.reg m = heldOr s m) ∧
      (∀ m, m ∈ Grp.cring.members r.i r.j → t.held.find? (fun e => e.1 = m.addr) = none) ∧
      (∀ a : RegId, a.addr ∉ (Grp.cring.members r.i r.j).map RegId.addr → t.reg a = s.reg a) ∧ r.addr ∉ t.pendGroups ∧
      Only ([.regs, .held, .pendGroups, .bl] ++ signalParts) s t ∧
      ((s.engine r.j).stall ≠ some r.i →
        t.share r.j r.i = { s.share r.j r.i with cringWr := 0, cringRd := 0 } ∧ t.bl.engines = s.bl.engines) ∧
      (∀ c result lines, (s.engine r.j).stall = some r.i → (s.engine r.j).current = some (c, result, lines) → c.fn = r.i →
        c.wantsRecord = true → ringOn s r.j r.i = true → s.hl.d3hot.getLsbD r.i = false →
        (t.share r.j r.i).cringWr = 1 ∧ (t.share r.j r.i).cringRd = 0 ∧ (t.engine r.j).stall = none ∧
          (t.engine r.j).current = none)) ∧
  (∀ (s : State) (key since : Nat) (r : RegId) (g : Grp), s.power = .on → regAt key = some r → r.name.row.kind = .key g →
    heldSince s g r.i r.j = some since → key ∉ s.pendGroups →
    ∃ t, exec (.groupPending key) s = .next t ∧ t.pendGroups = s.pendGroups ++ [key] ∧ t.held = s.held ∧
      t.tick = max s.tick (since + pendingTicks s (heldMembers s g r.i r.j ++ [{ addr := key, value := s.reg r, safety := false }])) ∧
      fld (t.reg (rg .txPendingCount)) 0 16 = min (fld (s.reg (rg .txPendingCount)) 0 16 + 1) 65535 ∧ t.tx.logValid = true ∧
      t.tx.logKey = (if s.tx.logValid then s.tx.logKey else key % 2 ^ 24) ∧
      (∀ k, k < 34 → (t.target k).pend.getLsbD 217 = true) ∧
      (∀ a : RegId, a.addr ≠ (rg .txPendingCount).addr → t.reg a = s.reg a) ∧
      Only ([.tick, .corePhase, .regs, .pendGroups, .heads, .tx] ++ signalParts) s t)

/-- Posted writes and WRITE_LAND (R334, R335, R286): an admitted write of a posted register, a group's key among them, waits in its block;
while the block is BUSY the next write, whoever sends it, is dropped, and a host's is flagged; at the landing a plain register takes its
value, a group of ·T fields of a running head becomes one waiting item, and BUSY clears. The commands that write a posted
control register do so in the same way, and one that is refused has its cause in the writer's record. -/
def Obligations.PostedWritesLand : Prop :=
  (∀ (s : State) (src : Source) (addr : Nat) (v : Word) (r : RegId), Served s src → decode s src (addr / 4 * 4) = .reg r →
    r.name.row.kind ≠ .ro → r.name.row.posted = true → portPage r = false → judgeWrite s src false r v = none →
    (blockBusy s (blockOfReg r) = false →
      ∃ t, exec (.registerWrite src addr [{ be := 15, data := v }]) s = .next t ∧
        t.posted = s.posted ++ [{ block := blockOfReg r, reg := r, value := v, src := src, safety := carriesSafety s src }] ∧
        Only (.posted :: signalParts) s t) ∧
    (blockBusy s (blockOfReg r) = true →
      ∃ t, exec (.registerWrite src addr [{ be := 15, data := v }]) s = .next t ∧ blockOfReg r ∈ t.dropped ∧
        (∀ f, src = .fn f → (t.errRec f.val).writeDropped = true) ∧ Only ([.dropped, .err] ++ signalParts) s t)) ∧
  (∀ (s : State) (i : Instr) (src : Source) (r : RegId) (v : Word), Served s src → postedWrite i = some (src, r, v) →
    (judgeWrite s src false r v = none → blockBusy s (blockOfReg r) = false →
      ∃ t, exec i s = .next t ∧
        t.posted = s.posted ++ [{ block := blockOfReg r, reg := r, value := v, src := src, safety := carriesSafety s src }] ∧
        Only (.posted :: signalParts) s t) ∧
    (judgeWrite s src false r v = none → blockBusy s (blockOfReg r) = true →
      ∃ t, exec i s = .next t ∧ blockOfReg r ∈ t.dropped ∧ (∀ f, src = .fn f → (t.errRec f.val).writeDropped = true) ∧
        Only ([.dropped, .err] ++ signalParts) s t) ∧
    (∀ c, judgeWrite s src false r v = some (.cause c) →
      ∃ t, exec i s = .next t ∧ (∀ f, src = .fn f → (t.errRec f.val).accessErr = true ∧
        ((s.errRec f.val).held = false → (t.errRec f.val).held = true ∧ (t.errRec f.val).cause = c)) ∧
        Only (.err :: signalParts) s t)) ∧
  (∀ (s : State) (src : Source) (addr : Nat) (v : Word) (r : RegId) (g : Grp), Served s src → addr % 4 = 0 →
    decode s src addr = .reg r → r.name.row.kind = .key g → r.name.row.posted = true → judgeWrite s src false r v = none →
    (blockBusy s (blockOfReg r) = false →
      ∃ t, exec (.groupKeyWrite src addr v) s = .next t ∧
        t.posted = s.posted ++ [{ block := blockOfReg r, reg := r, value := v, src := src, safety := carriesSafety s src }] ∧
        Only (.posted :: signalParts) s t) ∧
    (blockBusy s (blockOfReg r) = true →
      ∃ t, exec (.groupKeyWrite src addr v) s = .next t ∧ blockOfReg r ∈ t.dropped ∧
        (∀ f, src = .fn f → (t.errRec f.val).writeDropped = true) ∧ Only ([.dropped, .err] ++ signalParts) s t)) ∧
  (∀ (s : State) (b : PBlock) (x : Landing), s.power = .on → s.posted.filter (fun y => y.block = b) = [x] →
    ignoresWrites x.reg = false →
    (x.reg.name.row.kind = .rw → x.reg.name ≠ .shCringCtrl →
      ∃ u, exec (.writeLand b) s = .next (resumeBlocked u) ∧ u.posted = s.posted.filter (fun y => y.block ≠ b) ∧
        blockBusy u b = false ∧ u.reg x.reg = stored s x.reg x.value ∧
        (∀ a : RegId, a.addr ≠ x.reg.addr → u.reg a = s.reg a) ∧ Only [.posted, .regs, .dict, .pm] s u ∧
        (s.dict.blocked = [] → s.dict.waiting = [] → resumeBlocked u = u)) ∧
    (∀ g n, x.reg.name.row.kind = .key g → g.draftable = true → x.reg = g.keyOf x.reg.i x.reg.j →
      let ws := groupWrites s g x.reg x.value x.safety
      headOfItem s ws = some n → isRunning s n = true →
      ∃ u, exec (.writeLand b) s = .next (resumeBlocked u) ∧ blockBusy u b = false ∧
        u.items = s.items ++ [{ head := n, unit := x.reg.addr, group := true, writes := ws, landed := s.tick }] ∧
        (∀ m, m ∈ g.members x.reg.i x.reg.j → u.held.find? (fun e => e.1 = m.addr) = none) ∧ u.regs = s.regs ∧
        (s.dict.blocked = [] → s.dict.waiting = [] → resumeBlocked u = u)))

/-- UNSUPPORTED_REQUEST, POISONED_TLP and ECRC_ERROR (R330, R339): the endpoint logs the error through AER and source 291 + k is pending;
a read beyond the BAR, or of a function that its configuration or D3hot leaves unreached, answers Unsupported Request; nothing else
changes. -/
def Obligations.BadRequestsAreLogged : Prop :=
  (∀ (s : State) (f : Fin 32) (bar : Fin 3) (off : Nat) (write : Bool), s.power = .on →
    barBytes s f.val bar.val ≤ off ∨ unreached s (.fn f) = true →
    ∃ t, exec (.unsupportedRequest f bar off write) s = .next t ∧ .aer (endpointOf f.val) .unsupportedRequest ∈ t.outbox ∧
      (∀ k, k < 34 → (t.target k).pend.getLsbD (291 + endpointOf f.val) = true) ∧
      t.reply = (if write then s.reply else .unsupported) ∧ Only (.reply :: signalParts) s t) ∧
  (∀ (s : State) (f : Fin 32) (addr : Nat), s.power = .on →
    (∃ t, exec (.poisonedTlp f addr) s = .next t ∧ .aer (endpointOf f.val) .poisoned ∈ t.outbox ∧
      (∀ k, k < 34 → (t.target k).pend.getLsbD (291 + endpointOf f.val) = true) ∧ Only signalParts s t) ∧
    (∃ t, exec (.ecrcError f addr) s = .next t ∧ .aer (endpointOf f.val) .ecrc ∈ t.outbox ∧
      (∀ k, k < 34 → (t.target k).pend.getLsbD (291 + endpointOf f.val) = true) ∧ Only signalParts s t))

/-! ### Camera ingress (R236 to R254) -/

/-- CSI_FS and CSI_FE (R242) at a port that receives: every matching stream whose settings do not wait begins its next frame at this tick
with WP 0, the frame before kept in its history; at FE its frame in progress ends; a port that does not receive, or that takes a cascade
channel in place of its PHY (R422), ignores both. -/
def Obligations.FramesStartAndEnd : Prop :=
  (∀ (s : State) (p : Fin 18) (vc : BitVec 4), s.power = .on → receives s p.val = true → takesChannel s p.val = false →
    (∀ x, x < 192 → matchesPort s p.val vc.toNat x = true → (s.stream x).waiting = []) →
    ∃ t, exec (.csiFs p vc) s = .next t ∧
      (∀ x, x < 192 → matchesPort s p.val vc.toNat x = true → t.stream x = { s.stream x with
        frame := (s.stream x).frame + 1, wp := 0, active := true, ended := false, fsTick := BitVec.ofNat 64 s.tick,
        firstSince := false, writes := (s.stream x).ringOk, raised := false,
        since := if (s.stream x).firstSince then (s.stream x).frame + 1 else (s.stream x).since,
        unreserved := (s.stream x).unreserved && !(s.stream x).ringOk,
        history := if (s.stream x).active then
            (((s.stream x).frame.toNat, (s.stream x).wp) :: (s.stream x).history).take 4
          else (s.stream x).history }) ∧
      (∀ x, (192 ≤ x ∨ matchesPort s p.val vc.toNat x = false) → t.stream x = s.stream x) ∧
      (∀ x, t.rx x = s.rx x) ∧ Only ([.si, .fabric, .groups, .lanterns] ++ signalParts) s t) ∧
  (∀ (s : State) (p : Fin 18) (vc : BitVec 4), s.power = .on → receives s p.val = true → takesChannel s p.val = false →
    (∀ x, x < 192 → matchesPort s p.val vc.toNat x = true → (s.stream x).waiting = []) →
    ∃ t, exec (.csiFe p vc) s = .next t ∧
      (∀ x, x < 192 → matchesPort s p.val vc.toNat x = true → (s.stream x).active = true → t.stream x = { s.stream x with
        active := false, ended := true, writes := false,
        history := (((s.stream x).frame.toNat, (s.stream x).wp) :: (s.stream x).history).take 4 }) ∧
      (∀ x, (192 ≤ x ∨ matchesPort s p.val vc.toNat x = false ∨ (s.stream x).active = false) → t.stream x = s.stream x) ∧
      (∀ x, t.rx x = s.rx x) ∧ Only [.si] s t) ∧
  (∀ (s : State) (p : Fin 18) (vc : BitVec 4), s.power = .on → receives s p.val = false ∨ takesChannel s p.val = true →
    exec (.csiFs p vc) s = .next s ∧ exec (.csiFe p vc) s = .next s)

/-- CSI_LONG_PACKET, CSI_SHORT_IGNORED and HEADER_ECC_ERROR (R238 to R242, R249): the lowest-numbered matching stream takes the packet and
writes its line into its ring at the place of R241, WP counts it and no other byte changes; without a reservation the line is dropped,
counted, and raises source 140 once a frame; outside a frame, or after 8,192 lines, it is counted with source 139; a bad CRC, whose line is
written as any other, and a bad header are counted with source 139. That a bad CRC is counted for a packet that is discarded too is the model's
choice (log entry 35). -/
def Obligations.LinesAreWritten : Prop :=
  (∀ (s : State) (p : Fin 18) (vc : BitVec 4) (dt : BitVec 6) (payload l : List Byte) (x va d : Nat) (q : Page) (crcOk : Bool), s.power = .on →
    receives s p.val = true → takesChannel s p.val = false → takerOf s p.val vc.toNat dt.toNat = some x → (s.stream x).active = true → (s.stream x).writes = true →
    (s.stream x).wp < 8192 → l = ringBytes (fld (s.reg (rg .siSctrl x)) 0 6) (bit (s.reg (rg .siSctrl x)) 24) payload →
    0 < l.length → l.length ≤ (ringOf s x).pitch → va = ringLineVa (ringOf s x) (s.stream x).frame.toNat (s.stream x).wp →
    va % 4096 + l.length ≤ 4096 → ringPage s x va = some q → pageDpa q va = some d → q.write = true → inKeepWin s d = false →
    chanOf d = ingressChannel s x → rangeBad s d l.length = false →
    ∃ t, exec (.csiLongPacket p vc dt payload crcOk) s = .next t ∧ (∀ i, i < l.length → t.byte (d + i) = l.getD i 0) ∧
      (∀ a, a < d ∨ d + l.length ≤ a → t.byte a = s.byte a) ∧ t.stream x = { s.stream x with wp := (s.stream x).wp + 1 } ∧
      (∀ y, y ≠ x → t.stream y = s.stream y) ∧ (crcOk = true → t.regs = s.regs) ∧ (crcOk = false → CrcCounted s t x) ∧
      Only ([.si, .fabric, .mem, .lanterns, .regs] ++ signalParts) s t) ∧
  (∀ (s : State) (p : Fin 18) (vc : BitVec 4) (dt : BitVec 6) (payload : List Byte) (x : Nat) (crcOk : Bool), s.power = .on →
    receives s p.val = true → takesChannel s p.val = false → takerOf s p.val vc.toNat dt.toNat = some x →
    ((s.stream x).active = true → (s.stream x).writes = false →
      ∃ t, exec (.csiLongPacket p vc dt payload crcOk) s = .next t ∧
        t.stream x = { s.stream x with unreserved := true, raised := true } ∧
        fld (t.reg (rg .siDropCount x)) 0 16 = min (fld (s.reg (rg .siDropCount x)) 0 16 + 1) 65535 ∧
        ((s.stream x).raised = false → ∀ k, k < 34 → (t.target k).pend.getLsbD 140 = true) ∧
        (∀ y, y ≠ x → t.stream y = s.stream y) ∧ (crcOk = false → fld (t.reg (rg .siErrcount x)) 16 8 = min (fld (s.reg (rg .siErrcount x)) 16 8 + 1) 255) ∧
        (∀ r : RegId, r.addr ≠ (rg .siDropCount x).addr → (crcOk = false → r.addr ≠ (rg .siErrcount x).addr) → t.reg r = s.reg r) ∧
        Only ([.si, .regs] ++ signalParts) s t) ∧
    ((s.stream x).active = false ∨ ((s.stream x).writes = true ∧ 8192 ≤ (s.stream x).wp) →
      ∃ t, exec (.csiLongPacket p vc dt payload crcOk) s = .next t ∧
        fld (t.reg (rg .siErrcount x)) 8 8 = min (fld (s.reg (rg .siErrcount x)) 8 8 + 1) 255 ∧
        fld (t.reg (rg .siErrcount x)) 16 8 =
          (if crcOk then fld (s.reg (rg .siErrcount x)) 16 8 else min (fld (s.reg (rg .siErrcount x)) 16 8 + 1) 255) ∧
        (∀ k, k < 34 → (t.target k).pend.getLsbD 139 = true) ∧
        (∀ r : RegId, r.addr ≠ (rg .siErrcount x).addr → t.reg r = s.reg r) ∧ Only (.regs :: signalParts) s t)) ∧
  (∀ (s : State) (p : Fin 18) (vc : BitVec 4) (dt : BitVec 6) (payload : List Byte) (crcOk : Bool), s.power = .on →
    exec (.csiShortIgnored p vc dt) s = .next s ∧
    (receives s p.val = false ∨ takesChannel s p.val = true ∨ takerOf s p.val vc.toNat dt.toNat = none →
      exec (.csiLongPacket p vc dt payload crcOk) s = .next s)) ∧
  (∀ (s : State) (p : Fin 18), s.power = .on →
    (receives s p.val = false ∨ takesChannel s p.val = true → exec (.headerEccError p) s = .next s) ∧
    (receives s p.val = true → takesChannel s p.val = false → ∃ t, exec (.headerEccError p) s = .next t ∧
      (∀ x, x ∈ streamsOf s p.val →
        fld (t.reg (rg .siErrcount x)) 24 8 = min (fld (s.reg (rg .siErrcount x)) 24 8 + 1) 255) ∧
      (∀ r : RegId, r.addr ∉ (streamsOf s p.val).map (fun x => (rg .siErrcount x).addr) → t.reg r = s.reg r) ∧
      (∀ k, k < 34 → (t.target k).pend.getLsbD 139 = true) ∧ Only (.regs :: signalParts) s t))

/-- PORT_LOCK_GAIN, PORT_LOCK_LOSS, PCTRL_ENABLE and PCTRL_DISABLE (R242, R252, R253): an enabled port without a link takes its gear and
rate, one with a link loses it, both raise source 97 + p, and a loss ends every frame of the port's streams; PCTRL, once the posted write has
landed, holds ENABLE alone, and disabling a port with a link is a loss. -/
def Obligations.ReceivePortsLock : Prop :=
  (∀ (s : State) (p : Fin 18) (gear : BitVec 8) (rate : BitVec 16), s.power = .on →
    (bit (s.reg (rg .siPctrl p.val)) 0 = true → (s.rx p.val).lock = false → takesChannel s p.val = false →
      ∃ t, exec (.portLockGain p gear rate) s = .next t ∧
        t.rx p.val = { lock := true, gear := if isAphy s p.val then gear.toNat else 0, rate := rate.toNat } ∧
        (∀ k, k < 34 → (t.target k).pend.getLsbD (97 + p.val) = true) ∧ (∀ q, q ≠ p.val → t.rx q = s.rx q) ∧
        (∀ x, t.stream x = s.stream x) ∧ Only (.si :: signalParts) s t) ∧
    (bit (s.reg (rg .siPctrl p.val)) 0 = false ∨ (s.rx p.val).lock = true ∨ takesChannel s p.val = true →
      exec (.portLockGain p gear rate) s = .next s)) ∧
  (∀ (s : State) (p : Fin 18), s.power = .on → (∀ x, (s.stream x).waiting = []) →
    ((s.rx p.val).lock = true →
      ∃ t, exec (.portLockLoss p) s = .next t ∧ t.rx p.val = {} ∧ (∀ x, x ∈ streamsOf s p.val → (t.stream x).active = false) ∧
        (∀ x, x ∉ streamsOf s p.val → t.stream x = s.stream x) ∧
        (∀ k, k < 34 → (t.target k).pend.getLsbD (97 + p.val) = true) ∧ (∀ q, q ≠ p.val → t.rx q = s.rx q) ∧
        Only (.si :: signalParts) s t) ∧
    ((s.rx p.val).lock = false → exec (.portLockLoss p) s = .next s)) ∧
  (∀ (s : State) (src : Source) (p : Fin 18), Served s src → mayConfigure s src = true → (∀ x, (s.stream x).waiting = []) →
    blockBusy s (.ingress p) = false →
    (∃ t u, exec (.pctrlEnable src p) s = .next t ∧ blockBusy t (.ingress p) = true ∧ t.regs = s.regs ∧
      exec (.writeLand (.ingress p)) t = .next (resumeBlocked u) ∧ u.reg (rg .siPctrl p.val) = 1 ∧
      (∀ r : RegId, r.addr ≠ (rg .siPctrl p.val).addr → u.reg r = s.reg r) ∧ Only (.regs :: signalParts) s u) ∧
    (∃ t u, exec (.pctrlDisable src p) s = .next t ∧ blockBusy t (.ingress p) = true ∧ t.regs = s.regs ∧
      exec (.writeLand (.ingress p)) t = .next (resumeBlocked u) ∧ u.reg (rg .siPctrl p.val) = 0 ∧ (u.rx p.val).lock = false ∧
      ((s.rx p.val).lock = true → ∀ x, x ∈ streamsOf s p.val → (u.stream x).active = false) ∧
      (∀ r : RegId, r.addr ≠ (rg .siPctrl p.val).addr → u.reg r = s.reg r) ∧ (∀ q, q ≠ p.val → u.rx q = s.rx q) ∧
      Only ([.regs, .si] ++ signalParts) s u))

/-! ### Output quads (R255 to R270) -/

/-- QUAD_ENABLE, QUAD_DISABLE and RETRAIN that are not refused (R264, R266, R269, R334), as the posted write of QCTRL that each is lands: QCTRL
holds the value as stored; ENABLE 1 trains the quad's ports that can train and are DOWN or FAILED, from RATE down to MIN_RATE, and with RETRAIN
every port that has an enabled stream; ENABLE 0 takes every port DOWN, and their streams stop. No register but QCTRL and no other quad's port
changes. That a port which is UP or TRAINING stays as it is when ENABLE lands 1, that RETRAIN trains an UP port too, and that a quad without its
clock (R35) trains nothing are the model's choices (log entry 26). -/
def Obligations.QuadsAreControlled : Prop :=
  (∀ (s : State) (src : Source) (q : Fin 8) (v : Word), Served s src → mayConfigure s src = true → blockBusy s (.quad q) = false →
    qctrlRefused s q.val (withFld v 0 1 1) = none →
    ∃ t u, exec (.quadEnable src q v) s = .next t ∧ blockBusy t (.quad q) = true ∧ t.regs = s.regs ∧ t.oq = s.oq ∧
      exec (.writeLand (.quad q)) t = .next (resumeBlocked u) ∧ QuadLanded s u q.val (withFld v 0 1 1)) ∧
  (∀ (s : State) (src : Source) (q : Fin 8) (v : Word), Served s src → mayConfigure s src = true → blockBusy s (.quad q) = false →
    qctrlRefused s q.val (withFld v 0 1 0) = none →
    ∃ t u, exec (.quadDisable src q v) s = .next t ∧ blockBusy t (.quad q) = true ∧ t.regs = s.regs ∧ t.oq = s.oq ∧
      exec (.writeLand (.quad q)) t = .next (resumeBlocked u) ∧ QuadLanded s u q.val (withFld v 0 1 0)) ∧
  (∀ (s : State) (src : Source) (q : Fin 8) (v : Word), Served s src → mayConfigure s src = true → blockBusy s (.quad q) = false →
    qctrlRefused s q.val (withFld v 2 1 1) = none →
    ∃ t u, exec (.retrain src q v) s = .next t ∧ blockBusy t (.quad q) = true ∧ t.regs = s.regs ∧ t.oq = s.oq ∧
      exec (.writeLand (.quad q)) t = .next (resumeBlocked u) ∧ QuadLanded s u q.val (withFld v 2 1 1))

/-- TRAINING_COMPLETE, LINK_LOSS, HPD_PLUG and HPD_IRQ (R264, R265, R268, R436): a training port comes UP at its rate, which the store
keeps, or FAILED; a rate that its training does not try is none that it ends at; an UP link that is lost counts, and trains again where
AUTO_RETRAIN is 1; every such event, a new plug level and an IRQ raise the line's source 4 + 4n of each head that feeds the quad; a port in
another state is left alone, and so is a quad whose heads were all shed and have stopped, for its domain has no clock (R35; that its links'
events then pass by is the model's choice, log entry 26). -/
def Obligations.LinksTrainAndDrop : Prop :=
  (∀ (s : State) (q : Fin 8) (p : Fin 4) (rate : Option (BitVec 5)), s.power = .on →
    ((s.txPort q.val p.val).state ≠ .training ∨ quadClocked s q.val = false → exec (.trainingComplete q p rate) s = .next s) ∧
    (∀ r, rate = some r → trainsAt s q.val p.val r.toNat = false → exec (.trainingComplete q p rate) s = .next s) ∧
    ((s.txPort q.val p.val).state = .training → quadClocked s q.val = true → (∀ r, rate = some r → trainsAt s q.val p.val r.toNat = true) →
      ∃ t, exec (.trainingComplete q p rate) s = .next t ∧
        (∀ r, rate = some r → t.txPort q.val p.val = { s.txPort q.val p.val with state := .up, rate := r.toNat } ∧
          SMap.get t.aon.nor.lastGood q.val 0 = r.toNat ∧ SMap.get t.start.ledger.quadFails q.val 0 = 0) ∧
        (rate = none → t.txPort q.val p.val = { s.txPort q.val p.val with state := .failed, rate := 0xFF } ∧
          t.aon = s.aon ∧ t.start = s.start) ∧ LinkSignalled s t q.val p.val ∧
        Only ([.oq, .dict, .fresh, .aon, .start] ++ signalParts) s t)) ∧
  (∀ (s : State) (q : Fin 8) (p : Fin 4), s.power = .on →
    ((s.txPort q.val p.val).state ≠ .up ∨ quadClocked s q.val = false → exec (.linkLoss q p) s = .next s) ∧
    ((s.txPort q.val p.val).state = .up → quadClocked s q.val = true →
      (∃ t, exec (.linkLoss q p) s = .next t ∧ t.txPort q.val p.val = lostLink s q.val p.val ∧ LinkSignalled s t q.val p.val ∧
        Only ([.oq, .dict, .fresh] ++ signalParts) s t) ∧
      (∃ t, exec (.hpdIrq q p true) s = .next t ∧ t.txPort q.val p.val = lostLink s q.val p.val ∧ LinkSignalled s t q.val p.val ∧
        Only ([.oq, .dict, .fresh] ++ signalParts) s t))) ∧
  (∀ (s : State) (q : Fin 8) (p : Fin 4) (level : Bool), s.power = .on →
    ((s.txPort q.val p.val).hpd = level ∨ quadClocked s q.val = false → exec (.hpdPlug q p level) s = .next s) ∧
    ((s.txPort q.val p.val).hpd ≠ level → quadClocked s q.val = true →
      ∃ t, exec (.hpdPlug q p level) s = .next t ∧ t.txPort q.val p.val = { s.txPort q.val p.val with hpd := level } ∧
        LinkSignalled s t q.val p.val ∧ Only ([.oq, .dict, .fresh] ++ signalParts) s t)) ∧
  (∀ (s : State) (q : Fin 8) (p : Fin 4) (fault : Bool), s.power = .on →
    (quadClocked s q.val = false → exec (.hpdIrq q p fault) s = .next s) ∧
    (quadClocked s q.val = true → fault = false ∨ (s.txPort q.val p.val).state ≠ .up →
      ∃ t, exec (.hpdIrq q p fault) s = .next t ∧ t.oq = s.oq ∧ LinkSignalled s t q.val p.val ∧
        Only ([.dict, .fresh] ++ signalParts) s t))

/-- The AUX mailbox (R267, R269, R270, R334): a command by the MC or a PF while the mailbox is not BUSY is the posted write of AUX_CMD, which
starts the transaction as it lands, with the data bytes of a write; one made while the mailbox is BUSY is refused; the completion clears BUSY,
posts the count and the result, and a read overwrites the data bytes from byte 0 on; in DP mode a port other than 0 answers the result of an
absent link at once, which, as that a quad without its clock (R35) starts and ends no transaction, is the model's choice (log entry 26). -/
def Obligations.AuxMailbox : Prop :=
  (∀ (s : State) (src : Source) (q : Fin 8) (p : Fin 4) (n : BitVec 4), Served s src →
    (classesOf s src).meets { local_ := true, host := true } = true → (s.txPort q.val p.val).auxBusy = false →
    blockBusy s (.quad q) = false →
    (∃ t u, exec (.auxNativeWrite src q p n) s = .next t ∧ blockBusy t (.quad q) = true ∧ t.oq = s.oq ∧
      exec (.writeLand (.quad q)) t = .next (resumeBlocked u) ∧ AuxStarted s u q.val p.val 1 (n.toNat + 1)) ∧
    (∃ t u, exec (.auxNativeRead src q p n) s = .next t ∧ blockBusy t (.quad q) = true ∧ t.oq = s.oq ∧
      exec (.writeLand (.quad q)) t = .next (resumeBlocked u) ∧ AuxStarted s u q.val p.val 2 (n.toNat + 1)) ∧
    (∃ t u, exec (.auxI2cWrite src q p n) s = .next t ∧ blockBusy t (.quad q) = true ∧ t.oq = s.oq ∧
      exec (.writeLand (.quad q)) t = .next (resumeBlocked u) ∧ AuxStarted s u q.val p.val 3 (n.toNat + 1)) ∧
    (∃ t u, exec (.auxI2cRead src q p n) s = .next t ∧ blockBusy t (.quad q) = true ∧ t.oq = s.oq ∧
      exec (.writeLand (.quad q)) t = .next (resumeBlocked u) ∧ AuxStarted s u q.val p.val 4 (n.toNat + 1))) ∧
  (∀ (s : State) (src : Source) (q : Fin 8) (p : Fin 4) (n : BitVec 4), Served s src → (s.txPort q.val p.val).auxBusy = true →
    ∃ t, exec (.auxNativeWrite src q p n) s = .next t ∧ (∀ f, src = .fn f → (t.errRec f.val).accessErr = true) ∧
      Only (.err :: signalParts) s t) ∧
  (∀ (s : State) (src : Source) (q : Fin 8) (p : Fin 4) (n : BitVec 4), Served s src → (s.txPort q.val p.val).auxBusy = true →
    ∃ t, exec (.auxNativeRead src q p n) s = .next t ∧ (∀ f, src = .fn f → (t.errRec f.val).accessErr = true) ∧
      Only (.err :: signalParts) s t) ∧
  (∀ (s : State) (src : Source) (q : Fin 8) (p : Fin 4) (n : BitVec 4), Served s src → (s.txPort q.val p.val).auxBusy = true →
    ∃ t, exec (.auxI2cWrite src q p n) s = .next t ∧ (∀ f, src = .fn f → (t.errRec f.val).accessErr = true) ∧
      Only (.err :: signalParts) s t) ∧
  (∀ (s : State) (src : Source) (q : Fin 8) (p : Fin 4) (n : BitVec 4), Served s src → (s.txPort q.val p.val).auxBusy = true →
    ∃ t, exec (.auxI2cRead src q p n) s = .next t ∧ (∀ f, src = .fn f → (t.errRec f.val).accessErr = true) ∧
      Only (.err :: signalParts) s t) ∧
  (∀ (s : State) (q : Fin 8) (p : Fin 4) (result count : BitVec 4) (bytes : List Byte), s.power = .on →
    ((s.txPort q.val p.val).auxBusy = false ∨ 4 < result.toNat ∨ quadClocked s q.val = false → exec (.auxComplete q p result count bytes) s = .next s) ∧
    ((s.txPort q.val p.val).auxBusy = true → result.toNat ≤ 4 → quadClocked s q.val = true →
      ∃ t, exec (.auxComplete q p result count bytes) s = .next t ∧
        t.txPort q.val p.val = { s.txPort q.val p.val with
          auxBusy := false, auxBytes := if quadMode s q.val = 0 ∧ p.val ≠ 0 then 0 else count.toNat,
          auxResult := if quadMode s q.val = 0 ∧ p.val ≠ 0 then 4 else result.toNat } ∧
        ((s.txPort q.val p.val).auxOp ≠ 2 → (s.txPort q.val p.val).auxOp ≠ 4 → t.regs = s.regs) ∧
        (((s.txPort q.val p.val).auxOp = 2 ∨ (s.txPort q.val p.val).auxOp = 4) → (quadMode s q.val ≠ 0 ∨ p.val = 0) → ∀ i, i < 16 →
          (auxData t q.val p.val).getD i 0 =
            (if i < min bytes.length (s.txPort q.val p.val).auxLen then bytes.getD i 0 else (auxData s q.val p.val).getD i 0)) ∧
        (∀ j i, i < 4 → (j ≠ q.val ∨ i ≠ p.val) → t.txPort j i = s.txPort j i) ∧ Only [.oq, .regs] s t))

/-! ### Transactions (R271 to R293) -/

/-- OPEN, TX_BEGIN and DRAFT_WRITE (R271, R272, R274, R275): the lowest ticket that can be opened is opened for its holder with its timeout
and its number answered; without one OPEN answers 0 and TX_BEGIN is refused as busy; a drafted value takes the register's entry, or a
new one, or marks DRAFT_FULL where the pool is empty, and no register changes; a draft without a ticket is refused. -/
def Obligations.TicketsOpen : Prop :=
  (∀ (s : State) (src : Source) (full : Bool), Served s src →
    (∀ k, full = true → nextTicket s src = some k →
      ∃ t, exec (.open src full) s = .next t ∧ t.reply = .word (BitVec.ofNat 32 k) ∧
        t.ticket k = { state := .opened, holder := holderCode s src, openedAt := s.tick,
                       deadline := s.tick + fld (s.reg (rg .txTimeout)) 0 16 * 1600000 } ∧
        (∀ j, j ≠ k → t.ticket j = s.ticket j) ∧ Only ([.tx, .reply] ++ signalParts) s t) ∧
    (full = false ∨ nextTicket s src = none →
      ∃ t, exec (.open src full) s = .next t ∧ t.reply = .word 0 ∧ Only (.reply :: signalParts) s t)) ∧
  (∀ (s s1 : State) (m : Msg), Reaches s m s1 → shapeOk 5 m = true → mayHold m.source = true →
    (∀ k, nextTicket s m.source = some k →
      ∃ t, exec (.txBegin m) s = .next t ∧ Answered t m m.slot.isSome 0 (leBytes 1 k) false ∧
        t.ticket k = { state := .opened, holder := holderCode s m.source, openedAt := s.tick,
                       deadline := s.tick + fld (s.reg (rg .txTimeout)) 0 16 * 1600000 } ∧
        (∀ j, m.slot = some j → j < 16 → s.dict.session ≠ some m.source → (t.ticket k).holder = 0x40 + j) ∧
        (∀ j, j ≠ k → t.ticket j = s.ticket j) ∧ Only ([.tx, .reply, .dict, .aon, .fresh] ++ signalParts) s t) ∧
    (nextTicket s m.source = none →
      ∃ t, exec (.txBegin m) s = .next t ∧ Answered t m m.slot.isSome 0x60001 [] false ∧
        Only ([.reply, .dict, .aon, .fresh] ++ signalParts) s t)) ∧
  (∀ (s : State) (src : Source) (off : Nat) (v : Word) (r : RegId) (f : Nat), Served s src →
    f = (match src with | .fn g => g.val | _ => 0) → isPF f = true → decodePF s f off = .reg r → r.isT = true →
    (∀ k, judgeWrite s src true r v = none → ignoresWrites r = false → heldTicket s src .opened = some k →
      ∃ t, exec (.draftWrite src off v) s = .next t ∧
        t.ticket k = (if (s.ticket k).draft.any (fun w => w.addr = r.addr) then
            { s.ticket k with draft := (s.ticket k).draft.map (fun w => if w.addr = r.addr then
              { addr := r.addr, value := stored s r v, safety := carriesSafety s src } else w) }
          else if poolFree s = 0 then { s.ticket k with draftFull := true }
          else { s.ticket k with draft := (s.ticket k).draft ++
            [{ addr := r.addr, value := stored s r v, safety := carriesSafety s src }] }) ∧
        (∀ j, j ≠ k → t.ticket j = s.ticket j) ∧ Only (.tx :: signalParts) s t) ∧
    (∀ c, judgeWrite s src true r v = some (.cause c) →
      ∃ t, exec (.draftWrite src off v) s = .next t ∧ (∀ g, src = .fn g → (t.errRec g.val).accessErr = true) ∧
        Only (.err :: signalParts) s t))

/-- COMMIT, TX_COMMIT, ROLLBACK and TX_ROLLBACK (R276, R282, R310): a commit of the holder's OPEN ticket whose timeout runs sets the mask,
takes the next place in the order and is VERIFYING, answered later; a rollback frees it; any other is refused with its cause, a message of
either with its code and TX_COMMIT's with TSTATE, and changes no ticket. That a ticket rolled back keeps nothing of its holder, and so reads
HOLDER 0xFF, and the code of a refused TX_ROLLBACK are the model's choices (log entries 37 and 31). -/
def Obligations.TicketsCommitAndRollBack : Prop :=
  (∀ (s : State) (src : Source) (k : BitVec 3) (mask : BitVec 16), Served s src → mayHold src = true →
    (commitCause s src k.toNat = none →
      ∃ t, exec (.commit src k mask) s = .next t ∧ t.tx.order = s.tx.order + 1 ∧
        t.ticket k.toNat = { s.ticket k.toNat with
          state := .verifying, mask := mask, order := s.tx.order, safety := carriesSafety s src, answer := none } ∧
        (∀ j, j ≠ k.toNat → t.ticket j = s.ticket j) ∧ Only (.tx :: signalParts) s t) ∧
    (∀ c, commitCause s src k.toNat = some c →
      ∃ t, exec (.commit src k mask) s = .next t ∧ (∀ g, src = .fn g → (t.errRec g.val).accessErr = true) ∧
        Only (.err :: signalParts) s t) ∧
    (ticketCause s src k.toNat = none →
      ∃ t, exec (.rollback src k) s = .next t ∧ t.ticket k.toNat = {} ∧ (∀ j, j ≠ k.toNat → t.ticket j = s.ticket j) ∧
        Only (.tx :: signalParts) s t) ∧
    (∀ c, ticketCause s src k.toNat = some c →
      ∃ t, exec (.rollback src k) s = .next t ∧ (∀ g, src = .fn g → (t.errRec g.val).accessErr = true) ∧
        Only (.err :: signalParts) s t)) ∧
  (∀ (s s1 : State) (m : Msg) (k : Nat), Reaches s m s1 → mayHold m.source = true → k = leAt m.data 0 1 →
    (shapeOk 6 m = true → commitCause s m.source k = none →
      ∃ t, exec (.txCommit m) s = .next t ∧ t.reply = s.reply ∧ t.ticket k = { s.ticket k with
          state := .verifying, mask := BitVec.ofNat 16 (leAt m.data 1 2), order := s.tx.order,
          safety := carriesSafety s m.source, answer := some m } ∧
        (∀ j, j ≠ k → t.ticket j = s.ticket j) ∧ Only ([.tx, .dict, .aon, .fresh] ++ signalParts) s t) ∧
    (shapeOk 6 m = true → commitCause s m.source k ≠ none →
      ∃ t, exec (.txCommit m) s = .next t ∧ Answered t m m.slot.isSome 0x40001 (tstateBytes s k) false ∧
        Only ([.reply, .dict, .aon, .fresh] ++ signalParts) s t) ∧
    (shapeOk 7 m = true → ticketCause s m.source k = none →
      ∃ t, exec (.txRollback m) s = .next t ∧ Answered t m m.slot.isSome 0 [] false ∧ t.ticket k = {} ∧
        (∀ j, j ≠ k → t.ticket j = s.ticket j) ∧ Only ([.tx, .reply, .dict, .aon, .fresh] ++ signalParts) s t) ∧
    (shapeOk 7 m = true → ticketCause s m.source k ≠ none →
      ∃ t, exec (.txRollback m) s = .next t ∧ Answered t m m.slot.isSome 0x40001 [] false ∧
        Only ([.reply, .dict, .aon, .fresh] ++ signalParts) s t))

/-- VERIFICATION_COMPLETE and TICKET_TIMEOUT (R278, R279, R282): the first commit taken is judged; where a check fails it is REJECTED with
the check's code and owner, its draft gone and source 208 + t pending; an empty draft is APPLIED; a draft whose heads all run is ACCEPTED
with a share for each masked head and applies nothing yet; an OPEN ticket is REJECTED with code 7 and source 212 + t at the end of the core
clock in which its timeout ends, or, with DETAIL 1, once its network holder has been silent for as long (R312). That an empty draft is
APPLIED at its verification, with DONE equal to its mask, is the model's choice (log entry 37); so are the moment from which a holder's
silence counts and its length (log entry 31). -/
def Obligations.TicketsEnd : Prop :=
  (∀ (s : State) (k : Nat), s.power = .on → verifyingTicket s = some k → (s.ticket k).answer = none →
    (∀ c d, judgeTicket (advanceGroups s) (s.ticket k) = some (c, d) →
      ∃ t, exec .verificationComplete s = .next t ∧
        t.ticket k = { s.ticket k with state := .rejected, code := c, detail := d, draft := [], draftFull := false, foreign := [] } ∧
        (∀ j, j < 34 → (t.target j).pend.getLsbD (208 + k) = true) ∧ (∀ j, j ≠ k → t.ticket j = s.ticket j) ∧
        Only ([.groups, .tx, .dict, .fresh] ++ signalParts) s t) ∧
    (judgeTicket (advanceGroups s) (s.ticket k) = none → (s.ticket k).draft = [] →
      ∃ t, exec .verificationComplete s = .next t ∧
        t.ticket k = { s.ticket k with state := .applied, done := (s.ticket k).mask } ∧
        (∀ j, j < 34 → (t.target j).pend.getLsbD (208 + k) = true) ∧ (∀ j, j ≠ k → t.ticket j = s.ticket j) ∧
        Only ([.groups, .tx, .dict, .fresh] ++ signalParts) s t) ∧
    (judgeTicket (advanceGroups s) (s.ticket k) = none → (s.ticket k).draft ≠ [] → draftBank (s.ticket k).draft = none →
      s.sched.switch = none → (s.ticket k).done ≠ (s.ticket k).mask → (∀ n, (s.ticket k).mask.getLsbD n = true → isRunning s n = true) →
      ∃ t, exec .verificationComplete s = .next t ∧ (t.ticket k).state = .accepted ∧ (t.ticket k).draft = (s.ticket k).draft ∧
        (t.ticket k).shares.map (·.head) = bitsOf 16 (s.ticket k).mask ∧ (t.ticket k).accepted = s.tick ∧
        (∀ j, (t.ticket j).state = if j = k then .accepted else (s.ticket j).state) ∧
        Only [.groups, .tx, .fa, .fabric, .outbox] s t)) ∧
  (∀ (s : State), s.power = .on → verifyingTicket s = none → exec .verificationComplete s = .next s) ∧
  (∀ (s : State) (k : Fin 5), s.power = .on →
    ((s.ticket k.val).state ≠ .opened → exec (.ticketTimeout k) s = .next s) ∧
    ((s.ticket k.val).state = .opened → (∀ l, silentAt s (s.ticket k.val) = some l → (s.ticket k.val).deadline < l) →
      ∃ t, exec (.ticketTimeout k) s = .next t ∧ max s.tick (s.ticket k.val).deadline ≤ t.tick ∧
        t.tick ≤ max s.tick (s.ticket k.val).deadline + 2 ∧ TicketRolledBack s t k.val 0) ∧
    (∀ l, (s.ticket k.val).state = .opened → silentAt s (s.ticket k.val) = some l → l ≤ (s.ticket k.val).deadline →
      ∃ t, exec (.ticketTimeout k) s = .next t ∧ t.tick = max s.tick l ∧ TicketRolledBack s t k.val 1))

/-! ### The object dictionary (R294 to R319) -/

/-- READ, READ_SEG, UNDEFINED_OPCODE and failed authentication (R301 to R304, R306, R308): a read answers the object's value, or the code of
the check that refused it; the first segment takes a snapshot and a later one is served from it; an undefined opcode answers 0x0003_0001; a
message that fails authentication answers 0x0005_0001 unsealed with source 322, a replay 0x0005_0002 with the floor and source 323, and
neither is served; a frame or datagram that is not for the agent is left alone, and one that its interface cannot hold is counted; a request
of a source that has one unanswered waits, and a fifth is refused as busy. The code of a value that does not fit, what is left alone and
what is counted where the rules name no case, and that a fifth request is authenticated before it is refused are the model's choices (log
entry 31). -/
def Obligations.MessagesRead : Prop :=
  (∀ (s s1 s2 : State) (m : Msg) (a : Abort) (l : List Byte), Reaches s m s1 → shapeOk 1 m = true →
    readObject m.source m.index.toNat m.sub.toNat m.txn s1 = (s2, a, l) →
    ∃ t, exec (.read m) s = .next t ∧
      (a = .ok → l.length ≤ dataRoom s1 m.via → Answered t m m.slot.isSome 0 l false) ∧
      (a = .ok → dataRoom s1 m.via < l.length → Answered t m m.slot.isSome 0x30001 [] false) ∧
      (a ≠ .ok → Answered t m m.slot.isSome a.code [] false) ∧ Only ([.reply, .dict, .aon, .fresh, .start] ++ signalParts) s t) ∧
  (∀ (s s1 s2 : State) (m : Msg) (l : List Byte), Reaches s m s1 → shapeOk 3 m = true →
    readObject m.source m.index.toNat m.sub.toNat m.txn s1 = (s2, .ok, l) →
    (m.offset = 0 →
      ∃ t, exec (.readSeg m) s = .next t ∧
        Answered t m m.slot.isSome 0 (leBytes 4 0 ++ l.take (min m.maxBytes (dataRoom s1 m.via - 4)))
          (decide (l.length ≤ min m.maxBytes (dataRoom s1 m.via - 4))) ∧
        (∃ x, segsOfMsg t.dict.readSegs m = some x ∧ x.data = l ∧ x.index = m.index.toNat ∧ x.sub = m.sub.toNat ∧ x.last = s.tick) ∧
        Only ([.reply, .dict, .aon, .fresh, .start] ++ signalParts) s t) ∧
    (∀ y, m.offset ≠ 0 → segsOfMsg s.dict.readSegs m = some y → y.late s.tick = false → y.index = m.index.toNat →
      y.sub = m.sub.toNat →
      ∃ t, exec (.readSeg m) s = .next t ∧
        (∃ last, Answered t m m.slot.isSome 0 (leBytes 4 m.offset ++
          (y.data.drop m.offset).take (min m.maxBytes (dataRoom s1 m.via - 4))) last) ∧
        Only ([.reply, .dict, .aon, .fresh] ++ signalParts) s t)) ∧
  (∀ (s s1 : State) (m : Msg), Reaches s m s1 →
    ∃ t, exec (.undefinedOpcode m) s = .next t ∧ Answered t m m.slot.isSome 0x30001 [] false ∧
      Only ([.reply, .dict, .aon, .fresh] ++ signalParts) s t) ∧
  (∀ (s : State) (m : Msg) (c : Instr), s.power = .on → (∀ f, m.via ≠ .window f) →
    c ∈ [Instr.read m, .write m, .readSeg m, .writeSeg m, .txBegin m, .txCommit m, .txRollback m, .undefinedOpcode m] →
    ((SMap.get s.dict.ifaces m.via.iface {}).on = false ∨ takeNet s m = .ignored → exec c s = .next s) ∧
    ((SMap.get s.dict.ifaces m.via.iface {}).on = true → takeNet s m = .counted →
      ∃ t, exec c s = .next t ∧
        SMap.get t.dict.rxErr m.via.iface 0 = satAdd 32 (SMap.get s.dict.rxErr m.via.iface 0) 1 ∧ Only [.dict] s t) ∧
    ((SMap.get s.dict.ifaces m.via.iface {}).on = true → takeNet s m = .taken → authenticate s m = .fail →
      ∃ t, exec c s = .next t ∧ Answered t m false 0x50001 [] false ∧ (∀ k, k < 34 → (t.target k).pend.getLsbD 322 = true) ∧
        Only (.reply :: signalParts) s t) ∧
    (∀ j, (SMap.get s.dict.ifaces m.via.iface {}).on = true → takeNet s m = .taken → authenticate s m = .replay j →
      ∃ t, exec c s = .next t ∧ Answered t m true 0x50002 (leBytes 4 (rxFloorOf s j.val)) false ∧
        (∀ k, k < 34 → (t.target k).pend.getLsbD 323 = true) ∧ Only ([.reply, .dict, .aon, .fresh] ++ signalParts) s t)) ∧
  (∀ (s : State) (m : Msg) (j : Fin 16), s.power = .on → (SMap.get s.dict.ifaces m.via.iface {}).on = true →
    (∀ f, m.via ≠ .window f) → takeNet s m = .taken → authenticate s m = .pass j → sourceBusy s m = true →
    ∃ t, exec (.read m) s = .next t ∧ Only ([.reply, .dict, .aon, .fresh] ++ signalParts) s t ∧
      (if (s.dict.waiting.filter (fun x => x.sameSource m)).length < 4 then t.dict.waiting = s.dict.waiting ++ [m] ∧ t.reply = s.reply
       else t.dict.waiting = s.dict.waiting ∧ Answered t m m.slot.isSome 0x60001 [] false))

/-- WRITE and WRITE_SEG (R296, R297, R308, R315): a write that is refused answers the code of its check; a direct write of a value that the
dictionary keeps stores its bytes, and where the object is persistent puts them in line for the store and answers later; one that begins an
entry into spire mode is answered once that has settled (R447); one of a posted register whose block is BUSY waits (R335); the first segment
of a transfer is kept, answers the next OFFSET and changes no object. -/
def Obligations.MessagesWrite : Prop :=
  (∀ (s s1 s2 : State) (m : Msg) (w : Written), Reaches s m s1 → shapeOk 2 m = true →
    mustWait s1 m.index.toNat m.sub.toNat m.txn = false →
    writeObject m.source m.index.toNat m.sub.toNat m.txn m.data s1 = (s2, w) →
    (w.stored = false → w.spire = false → ∃ t, exec (.write m) s = .next t ∧ Answered t m m.slot.isSome w.abort.code [] false ∧
      Only ([.reply, .dict, .aon, .fresh] ++ signalParts) s2 t) ∧
    (w.stored = true → ∃ t, exec (.write m) s = .next t ∧ t.reply = s2.reply ∧ m ∈ t.dict.storeAnswers ∧ Only [.dict] s2 t) ∧
    (w.stored = false → w.spire = true →
      ∃ t, exec (.write m) s = .next t ∧ t.reply = s2.reply ∧ m ∈ t.dict.spireAnswers ∧ Only [.dict] s2 t)) ∧
  (∀ (s s1 : State) (m : Msg), Reaches s m s1 → shapeOk 2 m = true → mustWait s1 m.index.toNat m.sub.toNat m.txn = true →
    ∃ t, exec (.write m) s = .next t ∧ t.dict.blocked = s.dict.blocked ++ [m] ∧ Only ([.dict, .aon, .fresh] ++ signalParts) s t) ∧
  (∀ (s s1 : State) (m : Msg) (d : ObjDef) (v : Nat), Reaches s m s1 → shapeOk 2 m = true → m.txn = false →
    findObj m.index.toNat m.sub.toNat = .obj d → d.val = .kept v → writeGate s m.source d = .ok → m.data.length = d.size →
    rangeOk s m.index.toNat m.sub.toNat (leNat (m.data.take 8)) = true →
    ∃ t, exec (.write m) s = .next t ∧ SMap.get t.dict.values (m.index.toNat * 256 + m.sub.toNat) [] = m.data ∧
      (∀ k, k ≠ m.index.toNat * 256 + m.sub.toNat → SMap.get t.dict.values k [] = SMap.get s.dict.values k []) ∧
      (d.store = true → (m.index.toNat * 256 + m.sub.toNat, m.data) ∈ t.dict.storing ∧ m ∈ t.dict.storeAnswers) ∧
      Only ([.reply, .dict, .aon, .fresh] ++ signalParts) s t) ∧
  (∀ (s s1 : State) (m : Msg), Reaches s m s1 → shapeOk 4 m = true → segGate m s = .ok → m.offset = 0 → m.last = false →
    (m.txn = true → heldTicket s m.source .opened ≠ none) →
    m.data.length - 4 ≤ objLength m.index.toNat m.sub.toNat →
    ∃ t, exec (.writeSeg m) s = .next t ∧ Answered t m m.slot.isSome 0 (leBytes 4 (m.data.length - 4)) false ∧
      (∃ x, segsOfMsg t.dict.writeSegs m = some x ∧ x.data = m.data.drop 4 ∧ x.index = m.index.toNat ∧ x.sub = m.sub.toNat) ∧
      t.dict.values = s.dict.values ∧ t.dict.storing = s.dict.storing ∧ Only ([.reply, .dict, .aon, .fresh] ++ signalParts) s t)

/-- SEND, WINDOW_RESPONSE, SEGMENT_TIMEOUT and STORE_WRITE (R297, R305, R308, R319): SEND makes the window BUSY with its length; the posted
response is in RSP with DONE and source 321 at the window's function; a transfer without a segment for 1,000 ms expires; the values in
line are stored together, or source 325 fires, and the request that waits is answered. -/
def Obligations.WindowsAndStores : Prop :=
  (∀ (s : State) (f : Fin 32) (len : Nat), Served s (.fn f) →
    (judgeWrite s (.fn f) false (rg .dwSend f.val) (BitVec.ofNat 32 len) = none →
      ∃ t, exec (.send f len) s = .next t ∧ t.win f.val = { s.win f.val with busy := true, len := len % 2 ^ 13 } ∧
        (∀ g, g ≠ f.val → t.win g = s.win g) ∧ Only (.dict :: signalParts) s t) ∧
    (∀ c, judgeWrite s (.fn f) false (rg .dwSend f.val) (BitVec.ofNat 32 len) = some (.cause c) →
      ∃ t, exec (.send f len) s = .next t ∧ (t.errRec f.val).accessErr = true ∧ Only (.err :: signalParts) s t)) ∧
  (∀ (s : State) (f : Fin 32), s.power = .on →
    ((s.win f.val).busy = false → exec (.windowResponse f) s = .next s) ∧
    (∀ l, (s.win f.val).busy = true → (s.win f.val).taken = true → (s.win f.val).ready = some l →
      ∃ t, exec (.windowResponse f) s = .next t ∧ t.win f.val = { s.win f.val with
          busy := false, done := true, taken := false, ready := none, rsp := l, rspLen := l.length } ∧
        (t.target f.val).pend.getLsbD 321 = true ∧ (∀ g, g ≠ f.val → t.win g = s.win g) ∧ Only (.dict :: signalParts) s t)) ∧
  (∀ (s : State) (src : Source) (udp : Bool) (x : Segs), s.power = .on →
    (s.dict.writeSegs ++ s.dict.readSegs).filter (fun y => y.isOf src udp && !y.expired) = [x] →
    ∃ t, exec (.segmentTimeout src udp) s = .next t ∧ t.tick = max s.tick (x.last + 1600000000) ∧
      { x with expired := true, data := [] } ∈ t.dict.writeSegs ++ t.dict.readSegs ∧
      (∀ y, y.isOf src udp = false → (y ∈ t.dict.writeSegs ↔ y ∈ s.dict.writeSegs) ∧ (y ∈ t.dict.readSegs ↔ y ∈ s.dict.readSegs)) ∧
      t.dict.values = s.dict.values ∧ Only ([.tick, .corePhase, .dict] ++ signalParts) s t) ∧
  (∀ (s : State) (ok : Bool), s.power = .on → s.dict.storing ≠ [] → s.dict.waiting = [] → s.dict.ledgerDue = false →
    (s.dict.storeAnswers = [] →
      ∃ t, exec (.storeWrite ok) s = .next t ∧ t.dict.storing = [] ∧ t.dict.values = s.dict.values ∧
        (ok = true → storedValues t = s.dict.storing.foldl (fun l v => SMap.ins l v.1 v.2) (storedValues s)) ∧
        (ok = false → storedValues t = storedValues s ∧ ∀ k, k < 34 → (t.target k).pend.getLsbD 325 = true) ∧
        Only ([.dict, .aon, .fresh] ++ signalParts) s t) ∧
    (∀ m, s.dict.storeAnswers = [m] → m.op.toNat % 128 = 2 →
      ∃ t, exec (.storeWrite ok) s = .next t ∧ t.dict.storing = [] ∧ t.dict.storeAnswers = [] ∧
        Answered t m m.slot.isSome (if ok then 0 else 0x60002) [] false ∧ Only ([.reply, .dict, .aon, .fresh] ++ signalParts) s t))

/-- NOTIFY (R313, R314): the waiting message of a class goes to each of its destinations under one new number, and no longer waits; with
no destination it is discarded unsent; a class with nothing waiting sends nothing. That the number rises once for an event with several
destinations, that one without any is discarded, and that a slot which cannot be used sends none are the model's choices (log entry 31). -/
def Obligations.NotificationsAreSent : Prop :=
  ∀ (s : State) (cls : Fin 8), s.power = .on → (cls.val = 1 ∨ SMap.get s.dict.notes 1 [] = []) →
    (SMap.get s.dict.notes cls.val [] = [] → exec (.notify cls) s = .next s) ∧
    (∀ x rest, SMap.get s.dict.notes cls.val [] = x :: rest →
      ∃ t, exec (.notify cls) s = .next t ∧ SMap.get t.dict.notes cls.val [] = [] ∧
        (∀ c, c ≠ cls.val → SMap.get t.dict.notes c [] = SMap.get s.dict.notes c []) ∧
        (noteCopies s cls.val x = [] → t.dict.noteNo = s.dict.noteNo ∧ t.dict.lost = s.dict.lost ∧ Only [.dict] s t) ∧
        (noteCopies s cls.val x ≠ [] → t.dict.noteNo = (s.dict.noteNo + 1) % 2 ^ 32 ∧ SMap.get t.dict.lost cls.val 0 = 0 ∧
          ∀ d, d ∈ noteCopies s cls.val x → ∃ trailer, .notify d.1 cls.val d.2
            (framed d.1 (headerBytes 8 1 t.dict.noteNo cls.val 0 24 ++ noteData x t.dict.noteNo (SMap.get s.dict.lost cls.val 0) ++
              trailer)) ∈ t.outbox) ∧
        Only ([.dict, .aon, .fresh] ++ signalParts) s t)

/-! ### Diagnosis, the lock, keys and the ledger (R298, R299, R312, R442) -/

/-- DIAG_CHALLENGE, DIAG_RESPONSE, DIAG_SESSION_END, DIAG_SESSION_TIMEOUT and DIAG_LOCKOUT_END (R299, R307): a challenge is 16 fresh random
bytes; the right response opens the source's session with source 324, a wrong one counts and the third refuses responses for 10 s; each
response of 16 bytes spends the challenge, one with no challenge outstanding fails, and one of another length is refused by its range (R295); a
session ends by its object or 30 s after its last request, with source 324; a node whose slot cannot be used or is exhausted is refused with
source 322 or 323. That a response with no challenge outstanding counts as no wrong one, and that the count starts again when the lock-out
begins, are the model's choices (log entry 31). -/
def Obligations.SessionsOpenAndEnd : Prop :=
  (∀ (s : State) (src : Source), s.power = .on → (takeDirect src s).2 = .ok →
    (classesOf s src).meets { local_ := true, host := true, net := true } = true →
    (∃ t, exec (.diagChallenge src) s = .next t ∧ t.dict.challenge = some ((takeDirect src s).1.drawn 16 Config.randomByte) ∧
      t.reply = .msg (leBytes 4 0 ++ (takeDirect src s).1.drawn 16 Config.randomByte) ∧ t.dict.session = s.dict.session ∧
      t.fresh = (takeDirect src s).1.fresh + 16 ∧ Only ([.dict, .reply, .aon, .fresh] ++ signalParts) s t) ∧
    (∀ mac, mac.length = 16 → lockedOut s = true →
      ∃ t, exec (.diagResponse src mac) s = .next t ∧ t.reply = .msg (leBytes 4 0x60001) ∧ t.dict.session = s.dict.session ∧
        t.dict.challenge = s.dict.challenge ∧ Only ([.dict, .reply, .aon, .fresh] ++ signalParts) s t) ∧
    (∀ mac, mac.length ≠ 16 →
      ∃ t, exec (.diagResponse src mac) s = .next t ∧ t.reply = .msg (leBytes 4 0x30002) ∧ t.dict.session = s.dict.session ∧
        t.dict.challenge = s.dict.challenge ∧ Only ([.dict, .reply, .aon, .fresh] ++ signalParts) s t) ∧
    (∀ mac, mac.length = 16 → lockedOut s = false → s.dict.challenge = none →
      ∃ t, exec (.diagResponse src mac) s = .next t ∧ t.reply = .msg (leBytes 4 0x50001) ∧ t.dict.session = s.dict.session ∧
        t.dict.challenge = none ∧ t.dict.wrong = s.dict.wrong ∧ t.dict.lockout = s.dict.lockout ∧
        Only ([.dict, .reply, .aon, .fresh] ++ signalParts) s t) ∧
    (∀ mac c, mac.length = 16 → lockedOut s = false → s.dict.challenge = some c → cmac Config.diagKey c = mac →
      ∃ t, exec (.diagResponse src mac) s = .next t ∧ t.reply = .msg (leBytes 4 0) ∧ t.dict.session = some src ∧
        t.dict.sessionTick = s.tick ∧ t.dict.challenge = none ∧ t.dict.wrong = 0 ∧
        (∀ k, k < 34 → (t.target k).pend.getLsbD 324 = true) ∧ Only ([.dict, .reply, .aon, .tx, .fresh] ++ signalParts) s t) ∧
    (∀ mac c, mac.length = 16 → lockedOut s = false → s.dict.challenge = some c → cmac Config.diagKey c ≠ mac →
      ∃ t, exec (.diagResponse src mac) s = .next t ∧ t.reply = .msg (leBytes 4 0x50001) ∧ t.dict.session = s.dict.session ∧
        t.dict.challenge = none ∧
        (s.dict.wrong = 2 → t.dict.lockout = some s.tick ∧ t.dict.wrong = 0) ∧
        (s.dict.wrong ≠ 2 → t.dict.lockout = none ∧ t.dict.wrong = s.dict.wrong + 1) ∧
        Only ([.dict, .reply, .aon, .fresh] ++ signalParts) s t)) ∧
  (∀ (s : State) (src : Source), s.power = .on → (takeDirect src s).2 = .ok → s.dict.session = some src →
    ∃ t, exec (.diagSessionEnd src) s = .next t ∧ t.reply = .msg (leBytes 4 0) ∧ t.dict.session = none ∧ t.dict.jtag = false ∧
      (∀ k, k < 34 → (t.target k).pend.getLsbD 324 = true) ∧ Only ([.dict, .reply, .aon, .tx, .fresh] ++ signalParts) s t) ∧
  (∀ (s : State) (j x : Fin 16) (mac : List Byte) (v : Byte) (ok : Bool) (c : Instr), s.power = .on →
    c ∈ [Instr.diagChallenge (.node j), .diagResponse (.node j) mac, .diagSessionEnd (.node j), .deviceLock (.node j) v,
      .keyRevoke (.node j) x v, .ledgerClear (.node j) v ok] →
    (slotUsable s j.val = false →
      ∃ t, exec c s = .next t ∧ t.reply = .msg (leBytes 4 0x50001) ∧ (∀ k, k < 34 → (t.target k).pend.getLsbD 322 = true) ∧
        Only (.reply :: signalParts) s t) ∧
    (slotUsable s j.val = true → slotExhausted s j.val = true →
      ∃ t, exec c s = .next t ∧ t.reply = .msg (leBytes 4 0x50002) ∧ (∀ k, k < 34 → (t.target k).pend.getLsbD 323 = true) ∧
        Only (.reply :: signalParts) s t)) ∧
  (∀ (s : State), s.power = .on →
    (sessionOpen s = false → exec .diagSessionTimeout s = .next s) ∧
    (sessionOpen s = true →
      ∃ t, exec .diagSessionTimeout s = .next t ∧ t.dict.session = none ∧ t.dict.jtag = false ∧
        t.tick = max s.tick (s.dict.sessionTick + 48000000000) ∧ (∀ k, k < 34 → (t.target k).pend.getLsbD 324 = true) ∧
        Only ([.tick, .corePhase, .dict, .tx, .fresh] ++ signalParts) s t) ∧
    (∀ b, s.dict.lockout = some b →
      ∃ t, exec .diagLockoutEnd s = .next t ∧ t.dict = { s.dict with lockout := none } ∧ t.tick = max s.tick (b + 16000000000) ∧
        Only ([.tick, .corePhase, .dict] ++ signalParts) s t))

/-- DEVICE_LOCK, KEY_REVOKE and LEDGER_CLEAR (R296, R298, R312, R442): the lock is set and a second write of it is refused as written; a
revoked slot can be used no more; clearing the ledger zeroes its fail counts, marks its entries and writes it; a value other than 1 is
refused and changes nothing of them. That every entry is marked is the model's choice (log entry 31). -/
def Obligations.LocksKeysAndLedger : Prop :=
  (∀ (s : State) (src : Source), s.power = .on → (takeDirect src s).2 = .ok → (classesOf s src).meets rCfg = true →
    (s.dict.deviceLock = false →
      ∃ t, exec (.deviceLock src 1) s = .next t ∧ t.dict.deviceLock = true ∧ t.reply = .msg (leBytes 4 0) ∧
        t.dict.values = s.dict.values ∧ Only ([.dict, .reply, .aon, .fresh] ++ signalParts) s t) ∧
    (s.dict.deviceLock = true →
      ∃ t, exec (.deviceLock src 1) s = .next t ∧ t.dict.deviceLock = true ∧ t.reply = .msg (leBytes 4 0x20005) ∧
        Only ([.dict, .reply, .aon, .fresh] ++ signalParts) s t) ∧
    (∀ v, v ≠ 1 → s.dict.deviceLock = false →
      ∃ t, exec (.deviceLock src v) s = .next t ∧ t.dict.deviceLock = false ∧ t.reply = .msg (leBytes 4 0x30002) ∧
        Only ([.dict, .reply, .aon, .fresh] ++ signalParts) s t)) ∧
  (∀ (s : State) (src : Source) (j : Fin 16), s.power = .on → (takeDirect src s).2 = .ok → s.dict.session = some src →
    s.aon.fuseRevoked.getLsbD j.val = false →
    ∃ t, exec (.keyRevoke src j 1) s = .next t ∧ t.aon.fuseRevoked = s.aon.fuseRevoked ||| (1#16 <<< j.val) ∧
      slotUsable t j.val = false ∧ t.reply = .msg (leBytes 4 0) ∧ t.aon.otpWear = s.aon.otpWear ∧
      Only ([.aon, .dict, .reply, .tx, .fresh] ++ signalParts) s t) ∧
  (∀ (s : State) (src : Source) (ok : Bool), s.power = .on → (takeDirect src s).2 = .ok → s.dict.session = some src →
    s.dict.ledgerDue = false →
    ∃ t, exec (.ledgerClear src 1 ok) s = .next t ∧ t.start.ledger.chFails = [] ∧ t.start.ledger.quadFails = [] ∧
      (∀ x, x < 16 → (SMap.get t.start.ledger.entries x {}).result = 4) ∧
      t.start.ledger.startCount = s.start.ledger.startCount ∧ t.reply = .msg (leBytes 4 0) ∧
      (ok = true → storedLedger t = t.start.ledger) ∧ (ok = false → t.start.ledgerErr = true ∧ storedLedger t = storedLedger s) ∧
      Only ([.aon, .dict, .reply, .start, .fresh] ++ signalParts) s t)
/-! ### Functions and endpoints (R342, R343, R360, R479) -/

/-- FUNCTION_LEVEL_RESET and HOT_RESET (R343): of the function, and where it is physical of its VFs with VF Enable: the error record is
cleared, its window is idle, no entry queued through a port of its own is left, its target holds no claim, its open ticket is rolled back with
DETAIL 1, its completion counts read 0, and no blit command of it waits. No head, layer view, keep state or memory byte changes. -/
def Obligations.FunctionsReset : Prop :=
  (∀ (s : State) (f : Fin 32), s.power = .on → ∃ t, exec (.functionLevelReset f) s = .next t ∧ FunctionReset s t f.val) ∧
  (∀ (s : State) (k : Fin 2), s.power = .on → ∃ t, exec (.hotReset k) s = .next t ∧ FunctionReset s t (16 * k.val)) ∧
  (∀ (s : State) (k : Fin 2), s.power = .on →
    ∃ t, exec (.pcieLinkDown k) s = .next t ∧ (t.link k.val).up = false ∧
      t.errRec (16 * k.val) = {} ∧ (t.target (16 * k.val)).stack = [] ∧
      ((s.link k.val).up = true → ∀ j, j < 34 → (t.target j).pend.getLsbD (289 + k.val) = true) ∧
      Only ([.tx, .err, .fabric, .held, .dict, .regs, .fa, .fresh, .bl] ++ signalParts) s t)

/-- PCIE_LINK_UP, D3HOT_ENTRY, D0_RETURN and JTAG_INSTRUCTION (R320, R342, R344, R345, R358, R360, R479): a link that comes up fires its
source, and the host's configuration of its functions takes effect with it (log entry 55), and so does L1.2 where the link partner enters
it; a function in D3hot keeps its whole state, and its return to D0 wakes its link and ends its target's waiting; IDCODE shifts out the
identity word and BYPASS one bit; a correct response opens the port's DIAG session and fires source 324, a wrong one opens none; every other
instruction is BYPASS outside a session, and in one stops by name, because the spec does not say what it does, which is the model's choice
(log entry 47). IDCODE and BYPASS answer before start-up too, and what the scans shift out is the model's choice (log entry 32). A wrap of a
counter of messages may make the sources 273 to 288 pending with any of these. -/
def Obligations.PowerStatesAndJtag : Prop :=
  (∀ (s : State) (k : Fin 2) (speed : Fin 5) (width : Fin 4) (cfg : HostConfig), s.power = .on →
    ∀ l12 : Bool, ∃ t, exec (.pcieLinkUp k speed ⟨width, cfg, l12⟩) s = .next t ∧ (t.link k.val).up = true ∧
      (t.link k.val).speed = speed.val + 1 ∧ (t.link k.val).width = 2 ^ width.val ∧ (t.link k.val).l12 = l12 ∧
      t.hl.vfEnable.getLsbD k.val = cfg.vfEnable ∧ SMap.get t.hl.bar2 k.val 4 = cfg.bar2.val ∧
      (∀ i, i < 16 → t.hl.msixEn.getLsbD (16 * k.val + i) = cfg.msixEnable.getLsbD i ∧
        t.hl.fnMask.getLsbD (16 * k.val + i) = cfg.fnMask.getLsbD i) ∧
      ((s.link k.val).up = true → ∀ j i, i < 273 ∨ 288 < i → (t.target j).pend.getLsbD i = (s.target j).pend.getLsbD i) ∧
      ((s.link k.val).up = false → ∀ j, j < 34 → (t.target j).pend.getLsbD (289 + k.val) = true) ∧ Only signalParts s t) ∧
  (∀ (s : State) (f : Fin 32), s.power = .on →
    (∀ l12 : Bool, ∃ t, exec (.d3hotEntry ⟨f, l12⟩) s = .next t ∧ t.hl.d3hot.getLsbD f.val = true ∧
      (∀ g, g < 32 → g ≠ f.val → t.hl.d3hot.getLsbD g = s.hl.d3hot.getLsbD g) ∧
      (t.link (f.val / 16)).l12 = ((s.link (f.val / 16)).l12 || (l12 && (s.link (f.val / 16)).up)) ∧ Only [.hl] s t) ∧
    (∃ t, exec (.d0Return f) s = .next t ∧ t.hl.d3hot.getLsbD f.val = false ∧
      (∀ g, g < 32 → g ≠ f.val → t.hl.d3hot.getLsbD g = s.hl.d3hot.getLsbD g) ∧
      (∀ g i, i < 273 ∨ 288 < i → (t.target g).pend.getLsbD i = (s.target g).pend.getLsbD i) ∧ (t.link (f.val / 16)).l12 = false ∧
      (s.hl.d3hot.getLsbD f.val = true → (s.target f.val).asleep = false → (t.target f.val).waiting = false) ∧
      Only signalParts s t)) ∧
  (∀ (s : State), s.power = .on →
    (∃ t, exec (.jtagInstruction .idcode) s = .next t ∧
      (∃ w, t.outbox = s.outbox ++ [.jtag 32 w] ∧ w / 2 ^ 28 = 1 ∧ w / 2 ^ 12 % 2 ^ 16 = 0x7160 ∧
        w / 2 % 2 ^ 11 = Config.jtagManufacturer.toNat ∧ w % 2 = 1) ∧
      Only [.outbox, .dict] s t) ∧
    (∃ t, exec (.jtagInstruction .bypass) s = .next t ∧ t.outbox = s.outbox ++ [.jtag 1 0] ∧ Only [.outbox, .dict] s t) ∧
    (∃ t, exec (.jtagInstruction .challenge) s = .next t ∧
      (∃ l, t.dict.challenge = some l ∧ l.length = 16 ∧ t.outbox = s.outbox ++ [.jtag 128 (leNat l)]) ∧
      Only [.outbox, .dict, .fresh] s t) ∧
    (∀ x, sessionOpen s = false →
      ∃ t, exec (.jtagInstruction (.other x)) s = .next t ∧ t.outbox = s.outbox ++ [.jtag 1 0] ∧ Only [.outbox, .dict] s t) ∧
    (∀ x, sessionOpen s = true → exec (.jtagInstruction (.other x)) s = .refused .jtagPrivate) ∧
    (∀ mac l, s.dict.challenge = some l → lockedOut s = false → cmac Config.diagKey l = mac →
      ∃ t, exec (.jtagInstruction (.response mac)) s = .next t ∧ t.dict.jtag = true ∧ t.dict.session = none ∧
        t.dict.challenge = none ∧ t.dict.wrong = 0 ∧ (∀ j, j < 34 → (t.target j).pend.getLsbD 324 = true) ∧
        Only ([.tx, .dict, .fresh] ++ signalParts) s t) ∧
    (∀ mac l, s.dict.challenge = some l → lockedOut s = false → cmac Config.diagKey l ≠ mac →
      ∃ t, exec (.jtagInstruction (.response mac)) s = .next t ∧ t.dict.jtag = s.dict.jtag ∧ t.dict.session = s.dict.session ∧
        t.dict.challenge = none ∧ Only [.dict] s t)) ∧
  (∀ (s : State) (op : JtagOp), (s.power = .starting ∨ ∃ k, s.power = .halted k) →
    ∃ t w, exec (.jtagInstruction op) s = .next t ∧ t.outbox = s.outbox ++ [w] ∧ (op = .idcode → ∃ v, w = .jtag 32 v ∧ v = idcode) ∧
      (op ≠ .idcode → w = .jtag 1 0) ∧ Only [.outbox] s t)

/-! ### The blitter and the event counters (R377 to R406) -/

/-- SUBMIT, BLIT_COMMAND_START, BLIT_COMMAND_COMPLETE and CRING_RD_WRITE (R381, R384, R387 to R389): an accepted submit takes the next
sequence number and joins the queue, another changes nothing but RESULT; a command that fails its checks ends with their code; a FILL writes
its lines; a completed command's number is DONE_SEQ, with its record where the ring has room, and a full ring stalls the engine. While its
function is in D3hot a command that owes a record waits with it (log entry 70). That the whole effect on memory is made at START and
completion only reports, and that a queue place is used until its command completes, are the model's choices (log entry 27). -/
def Obligations.BlitsRun : Prop :=
  (∀ (s : State) (f : Fin 32) (e : Fin 2), Served s (.fn f) →
    ∃ t, exec (.submit f e) s = .next t ∧
      (submitResult s f.val e.val = 0 →
        (t.engine e.val).submitSeq = (s.engine e.val).submitSeq + 1 ∧ (t.share e.val f.val).result = 0 ∧
        (t.share e.val f.val).lastSeq = (s.engine e.val).submitSeq + 1 ∧
        (t.engine e.val).queue = (s.engine e.val).queue ++
          [{ words := (List.range 16).map (fun w => s.reg (rg .shCmd f.val e.val w))
             seq := ((s.engine e.val).submitSeq + 1).toNat, fn := f.val
             ctx := fld (s.reg (rg .blShareCfg e.val f.val)) 16 6 }]) ∧
      (submitResult s f.val e.val ≠ 0 → t.engine e.val = s.engine e.val ∧
        t.share e.val f.val = { s.share e.val f.val with result := submitResult s f.val e.val }) ∧
      (∀ d, d ≠ e.val → t.engine d = s.engine d) ∧ Only (.bl :: signalParts) s t) ∧
  (∀ (s : State) (e : Fin 2), s.power = .on →
    ((s.engine e.val).current ≠ none ∨ paused s e.val = true ∨ (s.engine e.val).queue = [] →
      exec (.blitCommandStart e) s = .next s) ∧
    (∀ (c : BlitCmd) (q : List BlitCmd), (s.engine e.val).current = none → paused s e.val = false →
      (s.engine e.val).queue = c :: q →
      (∀ code, c.judge = some code → (c.wantsRecord = false ∨ ringOn s e.val c.fn = false) →
        ∃ t, exec (.blitCommandStart e) s = .next t ∧ (t.engine e.val).queue = q ∧ (t.engine e.val).current = none ∧
          (t.engine e.val).doneSeq = BitVec.ofNat 32 c.seq ∧ (t.share e.val c.fn).lastDone = code ∧
          Only (.bl :: signalParts) s t) ∧
      (c.judge = none →
        (∃ t r n, exec (.blitCommandStart e) s = .next t ∧ (t.engine e.val).queue = q ∧
          (t.engine e.val).current = some (c, r, n) ∧ (r = 0 ∨ r = 0x20 ∨ r = 0x21) ∧
          Only ([.bl, .mem, .fabric, .regs, .fresh] ++ signalParts) s t) ∧
        (∀ (a n : Nat) (s2 : State), c.op = 2 → c.height = 1 → rectRanges c.dst 0 = [(a, n)] →
          writeRange (3 + e.val) c.ctx a (fillBytes c 0 n) (s.setEngine e.val { s.engine e.val with queue := q }) = (s2, true) →
          undefinedBytes s2 e.val c 1 = [] →
          ∃ t, exec (.blitCommandStart e) s = .next t ∧ (t.engine e.val).current = some (c, 0, 1) ∧ t.mem = s2.mem ∧
            t.fresh = s2.fresh)))) ∧
  (∀ (s : State) (e : Fin 2), s.power = .on →
    ((s.engine e.val).current = none → exec (.blitCommandComplete e) s = .next s) ∧
    (∀ (c : BlitCmd) (r n : Nat), (s.engine e.val).current = some (c, r, n) →
      ((c.wantsRecord = false ∨ ringOn s e.val c.fn = false) →
        ∃ t, exec (.blitCommandComplete e) s = .next t ∧ (t.engine e.val).current = none ∧
          (t.engine e.val).doneSeq = BitVec.ofNat 32 c.seq ∧ (t.share e.val c.fn).lastDone = r ∧
          (t.share e.val c.fn).lastDoneSeq = BitVec.ofNat 32 c.seq ∧ Only (.bl :: signalParts) s t) ∧
      (c.wantsRecord = true → ringOn s e.val c.fn = true → s.hl.d3hot.getLsbD c.fn = true →
        exec (.blitCommandComplete e) s = .next s) ∧
      (c.wantsRecord = true → ringOn s e.val c.fn = true → s.hl.d3hot.getLsbD c.fn = false → ringFull s e.val c.fn = true →
        ∃ t, exec (.blitCommandComplete e) s = .next t ∧ t.engine e.val = { s.engine e.val with stall := some c.fn } ∧ Only [.bl] s t) ∧
      (c.wantsRecord = true → ringOn s e.val c.fn = true → s.hl.d3hot.getLsbD c.fn = false → ringFull s e.val c.fn = false →
        ∃ t l, exec (.blitCommandComplete e) s = .next t ∧ (t.engine e.val).current = none ∧
          (t.engine e.val).doneSeq = BitVec.ofNat 32 c.seq ∧ (t.share e.val c.fn).cringWr = (s.share e.val c.fn).cringWr + 1 ∧
          t.outbox = s.outbox ++ [.hostWrite c.fn ((s.reg (rg .shCringLo c.fn e.val)).toNat +
              (s.reg (rg .shCringHi c.fn e.val)).toNat * 2 ^ 32 + (s.share e.val c.fn).cringWr % ringSize s e.val c.fn * 16)
            (leBytes 4 (c.w 14).toNat ++ leBytes 4 c.seq ++ leBytes 1 r ++ leBytes 1 e.val ++ leBytes 2 0 ++
              leBytes 4 (if r = 0x20 ∨ r = 0x21 then c.dst.sy + n else 0))] ++ l ∧
          Only (.bl :: signalParts) s t))) ∧
  (∀ (s : State) (f : Fin 32) (e : Fin 2) (v : Word), Served s (.fn f) → (s.engine e.val).stall ≠ some f.val →
    ∃ t, exec (.cringRdWrite f e v) s = .next t ∧
      t.share e.val f.val = { s.share e.val f.val with cringRd := fixCringRd s e.val f.val v.toNat } ∧
      (∀ d, t.engine d = s.engine d) ∧ Only (.bl :: signalParts) s t)

/-- PRESET, FREEZE and COUNTER_WRAP (R398, R400 to R402): a preset loads its 31 bits, or that far below the top, from the core clock after
its own, and neither the write nor the load changes an OVF bit; FREEZE takes its bit, no other register changes, and the clock in progress
still counts by what it held; an enabled counter of an event of the table that passes its top wraps to the remainder and sets OVF, with the
source of its block pending where the bit rises. The counters of blocks 0, 13 and 14 are left out where accesses, messages, requests and
wraps, which the commands themselves are or bring, count in them. -/
def Obligations.CountersCount : Prop :=
  (∀ (s : State) (src : Source) (k : Fin 16) (j : Fin 9) (v : Word), Served s src →
    (mayScan s src = true → ∀ x, x = fld v 0 31 + (if bit v 31 then 2 ^ (if j.val = 8 then 64 else 48) - 2 ^ 31 else 0) →
      ∃ t, exec (.preset src k j v) s = .next t ∧ t.pm.loads = s.pm.loads ++ [(k.val, j.val, x)] ∧ t.pm.held = s.pm.held ∧
        (∀ b, b ≠ 0 → b ≠ 13 → b ≠ 14 → ovfOf t b = ovfOf s b ∧
          ∀ i, i < 8 → SMap.get t.pm.ctr (b * 8 + i) 0 = SMap.get s.pm.ctr (b * 8 + i) 0) ∧
        (if j.val = 8 then SMap.get (endClock t).pm.cyc k.val 0 = x else SMap.get (endClock t).pm.ctr (k.val * 8 + j.val) 0 = x) ∧
        (∀ b, ovfOf (endClock t) b = ovfOf t b) ∧ Only signalParts s t) ∧
    (mayScan s src = false →
      ∃ t, exec (.preset src k j v) s = .next t ∧ t.pm.loads = s.pm.loads ∧
        (∀ f, src = .fn f → (t.errRec f.val).accessErr = true) ∧ Only (.err :: signalParts) s t)) ∧
  (∀ (s : State) (src : Source) (on : Bool), Served s src →
    (mayScan s src = true →
      ∃ t, exec (.freeze src on) s = .next t ∧ bit (t.reg (rg .pmFreeze)) 0 = on ∧ pmFrozen t = pmFrozen s ∧
        pmFrozen (endClock t) = on ∧ (∀ r : RegId, r.addr ≠ (rg .pmFreeze).addr → t.reg r = s.reg r) ∧
        Only (.regs :: signalParts) s t) ∧
    (mayScan s src = false →
      ∃ t, exec (.freeze src on) s = .next t ∧ t.reg (rg .pmFreeze) = s.reg (rg .pmFreeze) ∧
        (∀ f, src = .fn f → (t.errRec f.val).accessErr = true) ∧ Only (.err :: signalParts) s t)) ∧
  (∀ (s : State) (k : Fin 16) (j : Fin 9) (n : Fin 16), s.power = .on →
    (j.val < 8 → ctrRuns s k.val j.val = true →
      2 ^ 48 ≤ SMap.get s.pm.ctr (k.val * 8 + j.val) 0 + n.val → SMap.get s.pm.ctr (k.val * 8 + j.val) 0 < 2 ^ 48 →
      ∃ t, exec (.counterWrap k j n) s = .next t ∧
        (k.val ≠ 0 → k.val ≠ 13 → k.val ≠ 14 →
          SMap.get t.pm.ctr (k.val * 8 + j.val) 0 = SMap.get s.pm.ctr (k.val * 8 + j.val) 0 + n.val - 2 ^ 48) ∧
        (ovfOf t k.val).getLsbD j.val = true ∧
        ((ovfOf s k.val).getLsbD j.val = false → ∀ i, i < 34 → (t.target i).pend.getLsbD (273 + k.val) = true) ∧
        Only signalParts s t) ∧
    (j.val < 8 → (ctrRuns s k.val j.val = false ∨ SMap.get s.pm.ctr (k.val * 8 + j.val) 0 + n.val < 2 ^ 48) →
      exec (.counterWrap k j n) s = .next s) ∧
    (j.val = 8 → cycRuns s k.val = true → SMap.get s.pm.cyc k.val 0 < 2 ^ 64 →
      (s.pm.held = [] ∧ s.pm.loads = []) ∨ clocksToWrap s k.val = 1 →
      s.corePhase < (if s.therm.coreMhz = 1000 then 8 else 10) →
      ∃ t, exec (.counterWrap k j n) s = .next t ∧ (ovfOf t k.val).getLsbD 8 = true ∧ s.tick ≤ t.tick ∧
        ((ovfOf s k.val).getLsbD 8 = false → ∀ i, i < 34 → (t.target i).pend.getLsbD (273 + k.val) = true) ∧
        Only ([.tick, .corePhase] ++ signalParts) s t) ∧
    (j.val = 8 → cycRuns s k.val = false → s.pm.held = [] → s.pm.loads = [] → exec (.counterWrap k j n) s = .next s))

/-! ### Cascades (R407 to R426) -/

/-- JOIN, JOIN_TIMEOUT, BELFRY_LOSS, DELAY_PROBE, OSLEIG_LINK_CHANGE, SEGMENT_LINE_RECEIVED and SEGMENT_LINE_UNUSABLE (R408 to R412, R414,
R415, R418 to R422, R424): a join steps the count and every head's anchor by the same difference and stamps stay; a fifth device or a second
belfry is refused with source 361; a loss fires source 355 and no head changes; a port that a role leaves unused stays DOWN; a segment keeps
a complete line of its frame that is neither late nor more than 3 line times early; a receive port that takes the channel receives its
packets as from its PHY; what nobody takes is relayed at once where the port is free, a line that finds two waiting is discarded and
counted; an unusable line is counted once and fires its source once per frame, and the segment resumes with a frame header that matches. The
bytes of the packets are the model's choice (log entry 7), and so is the tick at which a relayed line leaves (log entry 29). -/
def Obligations.CascadesJoinAndCarry : Prop :=
  (∀ (s : State) (position : Nat) (devices : BitVec 2) (highest : Nat) (second : Bool), s.power = .on →
    (s.casc.role = 0 ∨ (s.casc.role = 2 ∧ (s.osl 0).up = false) → exec (.join position devices highest second) s = .next s) ∧
    (s.casc.role ≠ 0 → (s.casc.role = 2 → (s.osl 0).up = true) → (3 < position ∨ second = true) →
      ∃ t, exec (.join position devices highest second) s = .next t ∧ (∀ j, j < 34 → (t.target j).pend.getLsbD 361 = true) ∧
        Only signalParts s t) ∧
    (s.casc.role ≠ 0 → (s.casc.role = 2 → (s.osl 0).up = true) → position ≤ 3 → second = false →
      ∃ t, exec (.join position devices highest second) s = .next t ∧ t.tick = max s.tick highest ∧
        t.casc.step = BitVec.ofNat 64 (highest - s.tick) ∧ t.casc.state = .joined ∧ t.casc.devices = devices.toNat ∧
        (s.casc.role ≠ 1 → t.casc.position = position) ∧
        (∀ n, isRunning s n = true → (t.head n).anchor = (s.head n).anchor + (highest - s.tick) ∧
          (t.head n).latchTick = (s.head n).latchTick ∧ (t.head n).frame = (s.head n).frame ∧
          (t.head n).line = (s.head n).line ∧ (t.head n).phase = .running) ∧
        (∀ j, j < 34 → (t.target j).pend.getLsbD 356 = true) ∧ t.regs = s.regs ∧ t.mem = s.mem ∧ t.aon = s.aon)) ∧
  (∀ (s : State), s.power = .on →
    (∃ t, exec .joinTimeout s = .next t ∧
      t.casc.state = (if s.casc.role = 2 ∧ s.casc.state = .joining then .lost else s.casc.state) ∧ Only [.casc] s t) ∧
    (s.casc.role = 2 → s.casc.state = .joined →
      ∃ t, exec .belfryLoss s = .next t ∧ t.casc.state = .lost ∧ (∀ j, j < 34 → (t.target j).pend.getLsbD 355 = true) ∧
        Only (.casc :: signalParts) s t) ∧
    (s.casc.role ≠ 2 ∨ s.casc.state ≠ .joined → exec .belfryLoss s = .next s)) ∧
  (∀ (s : State) (u : Fin 2) (delay : BitVec 16) (up : Bool), s.power = .on →
    ((s.osl u.val).up = true →
      ∃ t, exec (.delayProbe u delay) s = .next t ∧ t.osl u.val = { s.osl u.val with delay := delay.toNat } ∧
        t.outbox = s.outbox ++ [.osleig u.val none [0x03#8]] ∧ (∀ x, x ≠ u.val → t.osl x = s.osl x) ∧ Only [.casc, .outbox] s t) ∧
    ((s.osl u.val).up = false → exec (.delayProbe u delay) s = .next s) ∧
    (oslUnused s u.val = false → (s.osl u.val).up ≠ up →
      ∃ t, exec (.osleigLinkChange u up) s = .next t ∧ (t.osl u.val).up = up ∧
        (∀ j, j < 34 → (t.target j).pend.getLsbD (353 + u.val) = true) ∧ (up = true → t.regs = s.regs ∧ t.si = s.si) ∧
        (up = false → ∀ r, r < 16 → (s.rx r).via = some u.val → (t.rx r).lock = false) ∧
        Only ([.casc, .regs, .si, .fabric] ++ signalParts) s t) ∧
    (oslUnused s u.val = true ∨ (s.osl u.val).up = up → exec (.osleigLinkChange u up) s = .next s)) ∧
  (∀ (s : State) (u : Fin 2) (ch : Byte) (last : Bool) (p : SegPacket), s.power = .on →
    ((s.osl u.val).up = false → exec (.segmentLineReceived u ch last p) s = .next s) ∧
    ((s.osl u.val).up = true → segsTaking s ch.toNat = [] → takersOf s ch.toNat = [] →
      (last = true → exec (.segmentLineReceived u ch last p) s = .next s) ∧
      (last = false → p.isLine = false → (s.osl (1 - u.val)).up = true →
        ∃ t, exec (.segmentLineReceived u ch last p) s = .next t ∧
          t.outbox = s.outbox ++ [.osleig (1 - u.val) (some ch.toNat) (packetBytes p)] ∧ Only [.casc, .outbox] s t) ∧
      (last = false → p.isLine = true → (s.osl (1 - u.val)).up = true → waitingChannels s (1 - u.val) = [] →
        (s.osl (1 - u.val)).free ≤ s.tick →
        ∃ t, exec (.segmentLineReceived u ch last p) s = .next t ∧
          t.outbox = s.outbox ++ [.osleig (1 - u.val) (some ch.toNat) (packetBytes p)] ∧
          (t.osl (1 - u.val)).free = s.tick + packetTicks p ∧ Only [.casc, .outbox] s t) ∧
      (last = false → p.isLine = true → (relayOf s (1 - u.val) ch.toNat).length = 2 → s.tick < (s.osl (1 - u.val)).free →
        ∃ t, exec (.segmentLineReceived u ch last p) s = .next t ∧ t.casc.relay = s.casc.relay ∧
          fld (t.reg (rg .caRelayDrop (1 - u.val))) 0 16 = min (fld (s.reg (rg .caRelayDrop (1 - u.val))) 0 16 + 1) 65535 ∧
          (SMap.get s.casc.discarded ((1 - u.val) * 256 + ch.toNat) false = false →
            ∀ j, j < 34 → (t.target j).pend.getLsbD 362 = true) ∧
          (∀ r : RegId, r.addr ≠ (rg .caRelayDrop (1 - u.val)).addr → t.reg r = s.reg r) ∧
          Only ([.casc, .regs] ++ signalParts) s t)) ∧
    (∀ g, (s.osl u.val).up = true → segsTaking s ch.toNat = [g] → takersOf s ch.toNat = [] →
      (∀ y l, p = .line y l →
        ∃ t, exec (.segmentLineReceived u ch last p) s = .next t ∧
          (l.length = (s.seg g.k).width → y < (s.seg g.k).height → (s.seg g.k).lost = false → segUntimely s g y = false →
            (s.seg g.k).lines.length < 4 → SMap.get (t.seg g.k).lines y [] = l) ∧
          (l.length ≠ (s.seg g.k).width ∨ (s.seg g.k).height ≤ y ∨ (s.seg g.k).lost = true ∨ segUntimely s g y = true →
            t.seg g.k = s.seg g.k) ∧ (∀ k, k ≠ g.k → t.seg k = s.seg k) ∧ Only [.casc] s t) ∧
      (∀ w h d f, p = .header w h d f →
        ∃ t, exec (.segmentLineReceived u ch last p) s = .next t ∧ (t.seg g.k).formatErr = !segMatches t g ∧
          (t.seg g.k).lost = ((s.seg g.k).lost && !segMatches t g) ∧ (t.seg g.k).width = w ∧ (t.seg g.k).height = h ∧
          (t.seg g.k).depth = d ∧ (t.seg g.k).frame = f ∧ (t.seg g.k).lines = (s.seg g.k).lines ∧
          (∀ k, k ≠ g.k → t.seg k = s.seg k) ∧ Only [.casc] s t)) ∧
    (∀ r, (s.osl u.val).up = true → segsTaking s ch.toNat = [] → takersOf s ch.toNat = [r] →
      (∀ vc, p = .fs vc → exec (.segmentLineReceived u ch last p) s = .next (csiFs r vc.toNat (channelArrives u.val r s))) ∧
      (∀ vc, p = .fe vc → exec (.segmentLineReceived u ch last p) s = .next (csiFe r vc.toNat (channelArrives u.val r s))) ∧
      (∀ vc dt l crcOk, p = .long vc dt l crcOk → exec (.segmentLineReceived u ch last p) s =
        .next (csiLongPacket r vc.toNat dt.toNat l crcOk (channelArrives u.val r s))) ∧
      (bit (s.reg (rg .siPctrl r)) 0 = true →
        (channelArrives u.val r s).rx r = { (channelArrives u.val r s).rx r with lock := true, via := some u.val }))) ∧
  (∀ (s : State) (k : Fin 4) (line : Nat), s.power = .on →
    ((segOf s k.val).enabled = true → isRunning s (segOf s k.val).head = true → (s.head (segOf s k.val).head).line = line →
      line < (s.head (segOf s k.val).head).raster.vActive → segLine s (segOf s k.val) line = none → (s.seg k.val).missed ≠ some line →
      ∃ t, exec (.segmentLineUnusable k line) s = .next t ∧ (t.seg k.val).usable = false ∧ (t.seg k.val).raised = true ∧
        (t.seg k.val).missed = some line ∧ (t.seg k.val).lost = true ∧ (t.seg k.val).lines = [] ∧
        (t.seg k.val).late = satAdd 16 (s.seg k.val).late 1 ∧
        ((s.seg k.val).raised = false → ∀ j, j < 34 → (t.target j).pend.getLsbD (357 + k.val) = true) ∧
        (∀ i, i ≠ k.val → t.seg i = s.seg i) ∧ Only (.casc :: signalParts) s t) ∧
    ((segOf s k.val).enabled = false ∨ (s.seg k.val).missed = some line → exec (.segmentLineUnusable k line) s = .next s))

/-! ### Heat and power (R444 to R467) -/

/-- SENSOR_SAMPLE, THERMAL_EVALUATION, SHED_TIMER, THERMAL_SHUTDOWN, AON_COMPARATOR_SHUTDOWN and SHUTDOWN_CAUSE_READ (R444 to R446, R450,
R455, R457): a sensor out of range is excluded with source 390, and a second one sets category 10; TMAX is the largest average, PRED its
value two seconds ahead, and a change of state fires source 385; 100 ms after the last head the next in order is shed; after each of these
the causes that end spire mode are judged, and in sustained mode, with no request waiting for an entry, that changes nothing; a shutdown
keeps its cause, which a read returns and clears, and the comparator's acts in a halted device too. Temperatures are in eighths of a degree.
-/
def Obligations.HeatIsWatched : Prop :=
  (∀ (s : State) (temps : List Int) (i : Nat), s.power = .on → i ∈ goodSensors s →
    (temps.getD i 0 < -440 ∨ 1200 < temps.getD i 0 →
      ∃ u, exec (.sensorSample temps) s = .next (settleSpire .ok (judgeSpire u)) ∧ i ∈ u.therm.excluded ∧
        (∀ j ∈ s.therm.excluded, j ∈ u.therm.excluded) ∧
        u.therm.window = (temps :: s.therm.window).take 10 ∧ (∀ j, j < 34 → (u.target j).pend.getLsbD 390 = true) ∧
        (s.therm.excluded ≠ [] → u.safety.category.getLsbD 10 = true) ∧ Only ([.therm, .safety, .dict] ++ signalParts) s u) ∧
    ((∀ j ∈ goodSensors s, temps.getD j 0 = temps.getD i 0) → -440 ≤ temps.getD i 0 → temps.getD i 0 ≤ 1200 →
      ∃ u, exec (.sensorSample temps) s = .next (settleSpire .ok (judgeSpire u)) ∧ u.therm.excluded = s.therm.excluded ∧
        u.therm.window = (temps :: s.therm.window).take 10 ∧ Only [.therm] s u)) ∧
  (∀ (s : State) (i : Nat) (rest : List Nat) (m old level : Int), s.power = .on →
    goodSensors s = i :: rest → (∀ j ∈ rest, windowSum s j ≤ windowSum s i) →
    windowSum s i = m * ((max s.therm.window.length 1 : Nat) : Int) → s.therm.history[24]? = some old →
    level = m + (if 2 ≤ s.therm.excluded.length then 40 else 0) →
    ∃ u, exec .thermalEvaluation s = .next (settleSpire .ok (judgeSpire u)) ∧ u.therm.tmax = m ∧
      u.therm.pred = m + 8 * max (m - old) 0 ∧ u.therm.history = (m :: s.therm.history).take 25 ∧ u.therm.mode = s.therm.mode ∧
      u.therm.state = (if 1000 ≤ level ∨ (s.therm.state = .shedding ∧ 976 ≤ level) then .shedding
        else if (s.obj 0x7000 3 110 : Nat) * 8 ≤ level then .warm else .normal) ∧
      (u.therm.state ≠ s.therm.state → ∀ j, j < 34 → (u.target j).pend.getLsbD 385 = true) ∧
      (u.therm.state ≠ .shedding ∨ s.therm.state = .shedding → Only ([.therm, .dict] ++ signalParts) s u) ∧
      (∀ n, u.therm.state = .shedding → s.therm.state ≠ .shedding →
        (shedOrder s).find? (fun n => isRunning s n && !s.therm.shed.getLsbD n) = some n →
        u.therm.shed.getLsbD n = true ∧ (u.head n).stopReq = true ∧ u.safety.category.getLsbD 5 = true ∧
        (∀ j, j < 34 → (u.target j).pend.getLsbD 389 = true))) ∧
  (∀ (s : State), s.power = .on →
    (s.therm.state ≠ .shedding → exec .shedTimer s = .next (settleSpire .ok (judgeSpire s))) ∧
    (∀ n, s.therm.state = .shedding → (shedOrder s).find? (fun n => isRunning s n && !s.therm.shed.getLsbD n) = some n →
      ∃ u, exec .shedTimer s = .next (settleSpire .ok (judgeSpire u)) ∧ u.tick = max s.tick (s.therm.shedTick + 160000000) ∧
        u.therm.shedTick = u.tick ∧ u.therm.shed.getLsbD n = true ∧ (u.head n).stopReq = true ∧ (u.head n).phase = .running ∧
        (∀ m, m ≠ n → u.head m = s.head m) ∧ u.safety.category.getLsbD 5 = true ∧
        (∀ j, j < 34 → (u.target j).pend.getLsbD 389 = true) ∧
        Only ([.tick, .corePhase, .heads, .therm, .safety, .dict] ++ signalParts) s u) ∧
    (s.therm.mode = .sustained → s.dict.spireAnswers = [] → judgeSpire s = s ∧ ∀ a, settleSpire a s = s) ∧
    (tempLevel s < 1040 → exec .thermalShutdown s = .next s) ∧
    (1040 ≤ tempLevel s →
      ∃ t, exec .thermalShutdown s = .next t ∧ t.power = .shutdown ∧ t.aon = { s.aon with shutdownCause := 1, faultnLow := true } ∧
        t.safety.category.getLsbD 6 = true ∧ Only ([.power, .dict, .aon, .safety] ++ signalParts) s t)) ∧
  (∀ (s : State),
    (aonRuns s = true →
      ∃ t, exec .aonComparatorShutdown s = .next t ∧ t.power = .shutdown ∧
        t.aon = { s.aon with shutdownCause := 2, faultnLow := true } ∧ t.safety.category.getLsbD 6 = true ∧
        Only ([.power, .dict, .aon, .safety] ++ signalParts) s t) ∧
    (aonRuns s = false → exec .aonComparatorShutdown s = .next s)) ∧
  (∀ (s : State) (src : Source), Served s src →
    ((∀ f, src = .fn f → isPF f.val = true) →
      ∃ t, exec (.shutdownCauseRead src) s = .next t ∧ t.reply = .word (s.aon.shutdownCause.zeroExtend 32) ∧
        t.aon = { s.aon with shutdownCause := 0 } ∧
        (s.aon.shutdownCause ≠ 0 → s.start.startNo ≠ 0 →
          (SMap.get t.start.ledger.entries (s.start.startNo % 16) {}).cause = s.aon.shutdownCause) ∧
        (s.aon.shutdownCause = 0 → t.start = s.start) ∧ Only ([.reply, .aon, .start] ++ signalParts) s t))

/-- SPIRE_ENTRY_REQUEST, SPIRE_EXIT_REQUEST, SPIRE_VOLTAGE_READY, SPIRE_SUPPLY_TIMEOUT, SPIRE_SECOND and WEAR_STORE (R447 to R453): a
request to enter that nothing refuses raises the supply and keeps who asked, one that a cause refuses keeps its REASON with source 387; a
supply that does not settle abandons the entry and refuses its request, and so does a cause of R450; a request to leave is an exit with code
3, whose switch to the resident counterpart ends it; each second at 1,000 MHz counts, an OTP bit is burnt for every 36,000 of them up to
300, and the last one fires source 388. That an entry whose counterpart is gone, or whose switch is rejected, is abandoned with REASON 3,
and that an exit whose switch is rejected is tried again, are the model's choices (log entry 30). -/
def Obligations.SpireModeRuns : Prop :=
  (∀ (s : State) (src : Source), Served s src → mayConfigure s src = true →
    (s.therm.mode = .sustained → spireRefusal s = none →
      ∃ t, exec (.spireEntryRequest src) s = .next t ∧
        t.therm = { s.therm with mode := .entering, vselSpire := true, exitDue := 0, asker := some src } ∧
        t.reg (rg .mcSpireCtrl) = 1 ∧ Only ([.therm, .regs] ++ signalParts) s t) ∧
    (∀ r, s.therm.mode = .sustained → spireRefusal s = some r →
      ∃ t, exec (.spireEntryRequest src) s = .next t ∧ t.therm = { s.therm with reason := r } ∧
        (∀ f, src = .fn f → (t.errRec f.val).accessErr = true) ∧ (∀ j, j < 34 → (t.target j).pend.getLsbD 387 = true) ∧
        Only ([.therm, .err] ++ signalParts) s t) ∧
    (s.therm.mode = .entering ∨ s.therm.mode = .leaving → ∀ c ∈ [Instr.spireEntryRequest src, .spireExitRequest src],
      ∃ t, exec c s = .next t ∧ (∀ f, src = .fn f → (t.errRec f.val).accessErr = true) ∧ Only (.err :: signalParts) s t) ∧
    (s.therm.mode = .spire → ∃ t, exec (.spireEntryRequest src) s = .next t ∧ Only signalParts s t) ∧
    (s.therm.mode = .sustained → ∃ t, exec (.spireExitRequest src) s = .next t ∧ Only signalParts s t) ∧
    (∀ s0, s.therm.mode = .spire → s0 = { (countBar0 src 2 s).setReg (rg .mcSpireCtrl) 0 with
        therm := { s.therm with mode := .leaving, lastExit := 3, exitDue := 0 } } →
      (counterpartBank s = none ∨ (∃ b, counterpartBank s = some b ∧ mcSwitch b s0 = none) →
        exec (.spireExitRequest src) s = .next s0) ∧
      (∀ b s1, counterpartBank s = some b → mcSwitch b s0 = some s1 →
        exec (.spireExitRequest src) s = .next s1 ∧ s1.therm.lastExit = 3 ∧ s1.therm.exitDue = 0 ∧
        ((∃ n, n < 16 ∧ (headsOfSwitch s b).getLsbD n = true ∧ isRunning s n = true) →
          s1.therm.mode = .leaving ∧ ∃ w, s1.sched.switch = some w ∧ w.toBank = b ∧ w.spire = true) ∧
        ((∀ n, n < 16 → (headsOfSwitch s b).getLsbD n = true → isRunning s n = false) →
          s1.therm.mode = .sustained ∧ s1.therm.coreMhz = 800 ∧ s1.therm.vselSpire = false ∧ s1.sched.switch = none ∧
          (s1.bank b).state = .live ∧ (∀ j, j < 34 → (s1.target j).pend.getLsbD 386 = true))))) ∧
  (∀ (s : State), s.power = .on →
    (s.therm.mode ≠ .entering ∨ s.sched.switch.any (·.spire) = true →
      exec .spireVoltageReady s = .next (settleSpire .ok s) ∧ exec .spireSupplyTimeout s = .next (settleSpire .policy s)) ∧
    (∀ c, s.therm.mode = .entering → s.sched.switch.any (·.spire) = false → spireCauseOf s = some c →
      ∃ u, exec .spireVoltageReady s = .next (settleSpire .ok u) ∧
        u.therm = { s.therm with mode := .sustained, coreMhz := 800, vselSpire := false, asker := none, reason := abandonReason s c } ∧
        (∀ j, j < 34 → (u.target j).pend.getLsbD 387 = true) ∧ Only ([.therm, .dict] ++ signalParts) s u) ∧
    (s.therm.mode = .entering → s.sched.switch.any (·.spire) = false → spireCauseOf s = none →
      (∀ s0, s0 = { s with therm := { s.therm with coreMhz := 1000, asker := none } } →
      (counterpartBank s = none ∨ (∃ b, counterpartBank s = some b ∧ mcSwitch b s0 = none) →
        ∃ u, exec .spireVoltageReady s = .next (settleSpire .ok u) ∧
          u.therm = { s.therm with mode := .sustained, coreMhz := 800, vselSpire := false, asker := none, reason := 3 } ∧
          (∀ j, j < 34 → (u.target j).pend.getLsbD 387 = true) ∧ Only ([.therm, .dict] ++ signalParts) s u) ∧
      (∀ b s1, s.therm.exitDue = 0 → counterpartBank s = some b → mcSwitch b s0 = some s1 →
        exec .spireVoltageReady s = .next (settleSpire .ok s1) ∧ s1.therm.coreMhz = 1000 ∧ s1.tick = s.tick ∧
          s1.safety = s.safety ∧ s1.aon = s.aon ∧
        ((∃ n, n < 16 ∧ (headsOfSwitch s b).getLsbD n = true ∧ isRunning s n = true) →
          s1.therm.mode = .entering ∧ ∃ w, s1.sched.switch = some w ∧ w.toBank = b ∧ w.spire = true) ∧
        ((∀ n, n < 16 → (headsOfSwitch s b).getLsbD n = true → isRunning s n = false) →
          s1.therm.mode = .spire ∧ (s1.bank b).state = .live ∧ (∀ j, j < 34 → (s1.target j).pend.getLsbD 386 = true))))) ∧
    (s.therm.mode = .entering → s.sched.switch.any (·.spire) = false → s.therm.coreMhz = 800 →
      ∃ u, exec .spireSupplyTimeout s = .next (settleSpire .policy u) ∧
        u.therm = { s.therm with mode := .sustained, coreMhz := 800, vselSpire := false, asker := none, reason := 5 } ∧
        u.reg (rg .mcSpireCtrl) = 0 ∧ (∀ r : RegId, r.addr ≠ (rg .mcSpireCtrl).addr → u.reg r = s.reg r) ∧
        (∀ f, s.therm.asker = some (.fn f) → (u.errRec f.val).accessErr = true ∧
          ((s.errRec f.val).held = false → (u.errRec f.val).held = true ∧ (u.errRec f.val).cause = 4)) ∧
        (∀ j, j < 34 → (u.target j).pend.getLsbD 387 = true) ∧ Only ([.therm, .regs, .err] ++ signalParts) s u) ∧
    (s.dict.spireAnswers = [] → ∀ a, settleSpire a s = s) ∧
    (∀ m a, s.dict.spireAnswers = [m] → s.dict.waiting = [] → spireWaits s = false → m.op.toNat % 128 = 2 →
      Answered (settleSpire a s) m m.slot.isSome a.code [] false ∧ (settleSpire a s).dict.spireAnswers = [] ∧
        Only ([.reply, .dict, .aon, .fresh] ++ signalParts) s (settleSpire a s))) ∧
  (∀ (s : State) (ok : Bool), s.power = .on →
    (s.therm.coreMhz ≠ 1000 → exec (.spireSecond ok) s = .next (settleSpire .ok s)) ∧
    (s.therm.coreMhz = 1000 → s.therm.spireSeconds + 1 < 2 ^ 32 →
      ∃ u, exec (.spireSecond ok) s = .next (settleSpire .ok u) ∧ u.therm.spireSeconds = s.therm.spireSeconds + 1 ∧
        u.aon.otpWear = max s.aon.otpWear (min ((s.therm.spireSeconds + 1) / 36000) 300) ∧
        ((s.therm.spireSeconds + 1) % 60 ≠ 0 → u.aon.nor = s.aon.nor) ∧
        ((s.therm.spireSeconds + 1) % 60 = 0 → ok = true →
          SMap.get (storedValues u) 0x703001 [] = leBytes 4 (s.therm.spireSeconds + 1)) ∧
        (s.therm.spireSeconds + 1 ≠ 10800000 → Only ([.therm, .aon, .fresh] ++ signalParts) s u) ∧
        (s.therm.spireSeconds + 1 = 10800000 → (∀ j, j < 34 → (u.target j).pend.getLsbD 388 = true) ∧
          (s.therm.mode = .spire → u.therm.lastExit = 2))) ∧
    (∃ t, exec (.wearStore ok) s = .next t ∧ t.aon.otpWear = s.aon.otpWear ∧ t.aon.fuseRevoked = s.aon.fuseRevoked ∧
      (ok = true → SMap.get (storedValues t) 0x703002 [] = leBytes 4 (opSecondsNow s) ∧
        SMap.get (storedValues t) 0x703003 [] = leBytes 4 s.therm.hotSeconds) ∧
      (ok = false → ∀ j, j < 34 → (t.target j).pend.getLsbD 325 = true) ∧ Only ([.aon, .fresh] ++ signalParts) s t))

/-- SUPPLY_EXCURSION, RAIL_IN_WINDOW, PLL_LOCK_LOSS, PLL_LOCK_REGAINED, FAULT_CLEAR, HEARTBEAT and SAFETY_MANAGER_LOSS (R458, R459, R461,
R462): a rail that leaves its warning window fires source 391, and outside its fault window it sets category 7, in a halted or starting
device too, and the monitors keep it in a reset and a shutdown; a lost lock fires source 394 and sets category 8, and where that category
was cleared at the same tick neither note goes out and source 393 does not fire again; only a source with SAFETY clears a category, and only
one whose condition no longer holds; two missed refreshes are recorded. -/
def Obligations.FaultsSetAndClear : Prop :=
  (∀ (s : State) (rail : Fin 11) (fault : Bool), rail.val ≠ 2 ∨ fault = false →
    (seesRails s = true → s.therm.mode = .sustained →
      ∃ u, exec (.supplyExcursion rail fault) s = .next (settleSpire .ok u) ∧ rail.val ∈ u.aon.railsWarn ∧
        (rail.val ∉ s.aon.railsWarn → ∀ j, j < 34 → (u.target j).pend.getLsbD 391 = true) ∧
        (fault = true → rail.val ∈ u.aon.railsOut) ∧
        (fault = true → rail.val ∉ s.aon.railsOut → u.safety.category.getLsbD 7 = true) ∧
        (fault = false → u.safety.category = s.safety.category ∧ u.aon.railsOut = s.aon.railsOut) ∧
        Only ([.aon, .safety, .dict] ++ signalParts) s u) ∧
    (seesRails s = false → s.power ≠ .off →
      ∃ u, exec (.supplyExcursion rail fault) s = .next (settleSpire .ok u) ∧ rail.val ∈ u.aon.railsWarn ∧
        (fault = true → rail.val ∈ u.aon.railsOut) ∧ Only [.aon] s u) ∧
    (s.power = .off → exec (.supplyExcursion rail fault) s = .next s)) ∧
  (∀ (s : State) (rail : Fin 11),
    (s.power ≠ .off →
      ∃ t, exec (.railInWindow rail) s = .next t ∧
        t.aon = { s.aon with railsWarn := s.aon.railsWarn.erase rail.val, railsOut := s.aon.railsOut.erase rail.val } ∧
        Only [.aon] s t) ∧
    (s.power = .off → exec (.railInWindow rail) s = .next s)) ∧
  (∀ (s : State) (p : Pll), s.power = .on →
    (p ∈ s.safety.pllOut → exec (.pllLockLoss p) s = .next (settleSpire .ok s)) ∧
    (p ∉ s.safety.pllOut → s.therm.mode = .sustained →
      ∃ u, exec (.pllLockLoss p) s = .next (settleSpire .ok u) ∧ u.safety.pllOut = s.safety.pllOut ++ [p] ∧
        u.safety.category.getLsbD 8 = true ∧ (∀ j, j < 34 → (u.target j).pend.getLsbD 394 = true) ∧
        (s.safety.category.getLsbD 8 = false → clearedNow s 8 = false → ∀ j, j < 34 → (u.target j).pend.getLsbD 393 = true) ∧
        (s.safety.category.getLsbD 8 = false → clearedNow s 8 = true →
          (∀ j, (u.target j).pend.getLsbD 393 = (s.target j).pend.getLsbD 393) ∧
          ∀ x ∈ SMap.get u.dict.notes 2 [], x ∈ SMap.get s.dict.notes 2 [] ∧ (x.code ≠ 0x8008 ∨ x.tick ≠ s.tick)) ∧
        Only ([.safety, .dict] ++ signalParts) s u) ∧
    (p ∉ s.safety.pllOut → exec (.pllLockRegained p) s = .next s) ∧
    (p ∈ s.safety.pllOut →
      ∃ t, exec (.pllLockRegained p) s = .next t ∧ t.safety.pllOut = s.safety.pllOut.erase p ∧
        (p, s.tick) ∈ t.safety.pllBack ∧ t.safety.category = s.safety.category ∧ Only [.safety] s t)) ∧
  (∀ (s : State) (src : Source) (cats : BitVec 11), Served s src →
    (carriesSafety s src = true →
      ∃ t, exec (.faultClear src cats) s = .next t ∧
        (∀ c, c < 11 → t.safety.category.getLsbD c = (s.safety.category.getLsbD c && !(cats.getLsbD c && mayClearFault s c))) ∧
        Only ([.safety, .dict] ++ signalParts) s t) ∧
    (carriesSafety s src = false →
      ∃ t, exec (.faultClear src cats) s = .next t ∧ (∀ f, src = .fn f → (t.errRec f.val).accessErr = true) ∧
        Only (.err :: signalParts) s t)) ∧
  (∀ (s : State), s.power = .on →
    (∃ t, exec .heartbeat s = .next t ∧ t.safety = { s.safety with refreshed := s.tick } ∧ Only [.safety] s t) ∧
    (∃ t, exec .safetyManagerLoss s = .next t ∧ t.safety = { s.safety with managerLost := true } ∧
      t.tick = max s.tick (s.safety.refreshed + 3200000) ∧ Only ([.tick, .corePhase, .safety] ++ signalParts) s t))

/-! ### Resets and starts (R427 to R443) -/

/-- RESET_ASSERTED, POWER_ON_RESET, SYSTEM_RESET, RESET_GLITCH, VDD_AON_REMOVAL and a VDD_AON fault (R427, R430, R432, R434, R457, R458,
R476, R478, R480): PORST_N low resets everything but the NOR, the OTP and the SHUTDOWN_CAUSE cell, SYSRST_N everything but the always-on
domain; a release starts S1 to S11, with the straps captured by PORST_N alone; a pulse of 1 µs never resets and one of 10 µs always does;
without VDD_AON the cause is gone too, and FAULT_N is released. Whether a pulse between them resets is a free value of the model. That a
start is one command, what a fault of VDD_AON leaves, and what stays over SYSTEM_RESET beside the always-on domain are the model's choices
(log entries 32 and 1). -/
def Obligations.ResetsStart : Prop :=
  (∀ (s : State), s.power ≠ .off →
    (∃ t, exec (.resetAsserted .porst) s = .next t ∧ ResetTo .inReset s t ∧ t.aon.porstLow = true ∧
      t.aon.shutdownCause = s.aon.shutdownCause ∧ t.aon.nor = s.aon.nor) ∧
    (s.aon.porstLow = false → s.power ≠ .shutdown →
      ∃ t, exec (.resetAsserted .sysrst) s = .next t ∧ ResetTo .inReset s t ∧
        t.aon = { s.aon with sysrstLow := true, faultnLow := true }) ∧
    (s.power = .shutdown → ∃ t, exec (.resetAsserted .sysrst) s = .next t ∧ t.power = .shutdown ∧ t.regs = s.regs)) ∧
  (∀ (s : State) (straps : Straps) (env : StartEnv),
    (s.aon.sysrstLow = false →
      ∃ t, exec (.powerOnReset straps env) s = .next t ∧ Started env t ∧ OtpKept s t ∧ t.aon.straps = straps ∧ t.aon.porstLow = false ∧
        t.aon.shutdownCause = s.aon.shutdownCause ∧ t.pending = s.pending) ∧
    (s.aon.sysrstLow = true →
      ∃ t, exec (.powerOnReset straps env) s = .next t ∧ ResetTo .inReset s t ∧ t.aon.straps = straps) ∧
    (s.aon.porstLow = false → s.power ≠ .shutdown → s.power ≠ .off →
      ∃ t, exec (.systemReset env) s = .next t ∧ Started env t ∧ OtpKept s t ∧ t.aon.straps = s.aon.straps ∧ t.aon.sysrstLow = false ∧
        t.aon.shutdownCause = s.aon.shutdownCause ∧ t.pending = s.pending) ∧
    (s.power = .shutdown ∨ s.power = .off → ∃ t, exec (.systemReset env) s = .next t ∧ t.power = s.power ∧ t.regs = s.regs)) ∧
  (∀ (s : State) (pin : ResetPin) (ns : Nat) (straps : Straps) (env : StartEnv),
    (ns ≤ 1000 → exec (.resetGlitch pin ns straps env) s = .next s) ∧
    (10000 ≤ ns → s.power ≠ .off → s.aon.porstLow = false → s.aon.sysrstLow = false → (pin = .sysrst → s.power ≠ .shutdown) →
      ∃ t, exec (.resetGlitch pin ns straps env) s = .next t ∧ Started env t ∧ OtpKept s t ∧
        t.aon.straps = (match pin with | .porst => straps | .sysrst => s.aon.straps) ∧ t.pending = s.pending)) ∧
  (∀ (s : State),
    (∃ t, exec .vddAonRemoval s = .next t ∧ ResetTo .off s t ∧ t.aon.nor = s.aon.nor ∧ t.aon.shutdownCause = 0 ∧
      faultNLow t = false) ∧
    (∀ rail : Fin 11, s.power ≠ .off → s.dict.spireAnswers = [] → rail.val = 2 →
      ∃ t, exec (.supplyExcursion rail true) s = .next t ∧ t.power = (if s.aon.porstLow then .inReset else .starting) ∧
        (∀ r, t.reg r = r.resetValue) ∧ t.mem = [] ∧ t.aon.nor = s.aon.nor ∧ t.aon.shutdownCause = s.aon.shutdownCause ∧
        rail.val ∈ t.aon.railsOut))

/-- WATCHDOG_EXPIRY, MC_LOCKSTEP_FAULT, NETWORK_LINK_UP and LINK_OUTCOME_TIMEOUT (R431, R432, R461): firmware that runs is started again, with
the straps it had, and after a lockstep fault category 4 stays set where the start ends before S8; firmware that does not run has neither; the
outcome of an enabled interface is recorded; 1 s after S5 or S6 the links that have not come up are recorded in the step's CODE, which is then
FAILED. -/
def Obligations.WatchdogsAndLinks : Prop :=
  (∀ (s : State) (env : StartEnv),
    (firmwareRuns s = false → exec (.watchdogExpiry env) s = .next s ∧ exec (.mcLockstepFault env) s = .next s) ∧
    (firmwareRuns s = true →
      (∃ t, exec (.watchdogExpiry env) s = .next t ∧ Started env t ∧ OtpKept s t ∧ t.aon.straps = s.aon.straps ∧
        t.pending = s.pending) ∧
      (∃ t, exec (.mcLockstepFault env) s = .next t ∧ Started env t ∧ OtpKept s t ∧ t.aon.straps = s.aon.straps ∧
        t.pending = s.pending ∧ (∀ k, t.power = .halted k → t.safety.category.getLsbD 4 = true)))) ∧
  (∀ (s : State) (i : Fin 4), s.power = .on →
    ((SMap.get s.dict.ifaces i.val {}).on = true →
      ∃ t, exec (.networkLinkUp i) s = .next t ∧ t.start = { s.start with netUp := setBit s.start.netUp i.val true } ∧
        Only [.start] s t) ∧
    ((SMap.get s.dict.ifaces i.val {}).on = false → exec (.networkLinkUp i) s = .next s)) ∧
  (∀ (s : State) (k : Fin 2), s.power = .on →
    (s.start.linksDue.getLsbD k.val = false → exec (.linkOutcomeTimeout k) s = .next s) ∧
    (s.start.linksDue.getLsbD k.val = true →
      ∃ t, exec (.linkOutcomeTimeout k) s = .next t ∧ t.tick = max s.tick (SMap.get s.start.ends (5 + k.val) 0 + 1600000000) ∧
        t.start.linksDue.getLsbD k.val = false ∧
        (linksMissing s k.val = 0 → t.start.steps = s.start.steps) ∧
        (linksMissing s k.val ≠ 0 →
          SMap.get t.start.steps (5 + k.val) 0 =
            withFld (withFld (SMap.get s.start.steps (5 + k.val) 0) 16 8 (linksMissing s k.val)) 30 2 2) ∧
        Only ([.tick, .corePhase, .start] ++ signalParts) s t))

/-! ### The whole block -/

/-- A step takes the command at the front of the queue and answers what exec makes of it on the state with the rest of the queue; on an empty
queue a device that does not run stays as it is (log entry 2). -/
def Obligations.StepRunsFront : Prop :=
  (∀ (c : Instr) (q : List Instr) (s : State), s.pending = c :: q → step s = exec c { s with pending := q }) ∧
  (∀ (s : State), s.pending = [] → s.power ≠ .on → step s = .next s)

/-- The invariant holds after reset: memory is canonical, the layer queues, also of slots that have left a head, and claim stacks are within
their bounds, and the wear count is within its fuses. -/
def Obligations.ResetMeetsInvariant : Prop := Inv State.reset

/-- Every step from a state that meets the invariant ends in one that meets it (R129, R351, R452, R482): memory stays canonical, no layer queue,
nor that of a slot which its old head still shows, exceeds four entries, no claim stack eight, and the wear count its 300 fuses. -/
def Obligations.StepsKeepInvariant : Prop := ∀ (s t : State), Inv s → step s = .next t → Inv t

/-- No step unburns a fuse (R312, R452), and every step takes the front of the queue and nothing else from it: the wear count never falls,
a revoked key slot stays revoked, and what waited behind the front waits in the same order. -/
def Obligations.FusesStayBurnt : Prop :=
  ∀ (s t : State), step s = .next t →
    s.aon.otpWear ≤ t.aon.otpWear ∧ (∀ j, s.aon.fuseRevoked.getLsbD j = true → t.aon.fuseRevoked.getLsbD j = true) ∧
    t.pending = s.pending.tail
end

