-- ==== Sys2Proof/Laws/SMap.lean ====
section
/-! SUPPORT. Reading after writing a sparse map, and the canonical form kept by every write. -/

namespace Sys2Proof.Machine

variable {α : Type}

/-! ### Reading after writing -/

@[simp] theorem SMap.get_nil (k : Nat) (d : α) : SMap.get [] k d = d := rfl

@[simp] theorem SMap.get_erase (m : SMap α) (k : Nat) (d : α) : SMap.get (SMap.erase m k) k d = d := by
  induction m with
  | nil => rfl
  | cons e t ih => obtain ⟨k', v⟩ := e; by_cases h : k' = k <;> simp [SMap.erase, SMap.get, h, ih]

theorem SMap.get_erase_ne (m : SMap α) (d : α) {j k : Nat} (h : j ≠ k) : SMap.get (SMap.erase m k) j d = SMap.get m j d := by
  induction m with
  | nil => rfl
  | cons e t ih =>
    obtain ⟨k', v⟩ := e
    by_cases hk : k' = k
    · subst hk; simp [SMap.erase, SMap.get, ih, Ne.symm h]
    · rw [SMap.erase, if_neg hk, SMap.get, SMap.get, ih]

@[simp] theorem SMap.get_ins (m : SMap α) (k : Nat) (v d : α) : SMap.get (SMap.ins m k v) k d = v := by
  induction m with
  | nil => simp [SMap.ins, SMap.get]
  | cons e t ih =>
    obtain ⟨k', w⟩ := e
    unfold SMap.ins
    split
    · simp [SMap.get]
    · split
      · simp [SMap.get]
      · rename_i h; simp [SMap.get, h, ih]

theorem SMap.get_ins_ne (m : SMap α) (v d : α) {j k : Nat} (h : j ≠ k) : SMap.get (SMap.ins m k v) j d = SMap.get m j d := by
  induction m with
  | nil => simp [SMap.ins, SMap.get, Ne.symm h]
  | cons e t ih =>
    obtain ⟨k', w⟩ := e
    unfold SMap.ins
    split
    · simp [SMap.get, Ne.symm h]
    · split
      · rename_i hk; subst hk; simp [SMap.get, Ne.symm h]
      · simp [SMap.get, ih]

/-- What a key reads after it is written. -/
@[simp] theorem SMap.get_set [DecidableEq α] (m : SMap α) (k : Nat) (v d : α) : SMap.get (SMap.set m k v d) k d = v := by
  unfold SMap.set; split <;> simp_all

/-- Another key reads as before. -/
theorem SMap.get_set_ne [DecidableEq α] (m : SMap α) (v d e : α) {j k : Nat} (h : j ≠ k) :
    SMap.get (SMap.set m k v d) j e = SMap.get m j e := by
  unfold SMap.set; split
  · exact SMap.get_erase_ne m e h
  · exact SMap.get_ins_ne m v e h

@[simp] theorem SMap.get_upd [DecidableEq α] (m : SMap α) (k : Nat) (d : α) (f : α → α) :
    SMap.get (SMap.upd m k d f) k d = f (SMap.get m k d) := SMap.get_set _ _ _ _

/-! ### The canonical form -/

theorem SMap.wfFrom_mono [DecidableEq α] {d : α} {m : SMap α} {a b : Nat} (h : a ≤ b) (hm : SMap.wfFrom b d m = true) :
    SMap.wfFrom a d m = true := by
  cases m with
  | nil => rfl
  | cons e t => obtain ⟨k, v⟩ := e; simp only [SMap.wfFrom, Bool.and_eq_true, decide_eq_true_eq] at *; exact ⟨⟨by omega, hm.1.2⟩, hm.2⟩

theorem SMap.wfFrom_erase [DecidableEq α] {d : α} (m : SMap α) (k : Nat) : ∀ {lo : Nat}, SMap.wfFrom lo d m = true →
    SMap.wfFrom lo d (SMap.erase m k) = true := by
  induction m with
  | nil => intro lo _; rfl
  | cons e t ih =>
    obtain ⟨k', v⟩ := e
    intro lo h
    simp only [SMap.wfFrom, Bool.and_eq_true, decide_eq_true_eq] at h
    simp only [SMap.erase]
    split
    · exact SMap.wfFrom_mono (by omega) (ih h.2)
    · simp only [SMap.wfFrom, Bool.and_eq_true, decide_eq_true_eq]; exact ⟨h.1, ih h.2⟩

theorem SMap.wfFrom_ins [DecidableEq α] {d : α} (m : SMap α) {k : Nat} {v : α} (hv : v ≠ d) : ∀ {lo : Nat}, lo ≤ k →
    SMap.wfFrom lo d m = true → SMap.wfFrom lo d (SMap.ins m k v) = true := by
  induction m with
  | nil => intro lo hl _; simp [SMap.ins, SMap.wfFrom, hl, hv]
  | cons e t ih =>
    obtain ⟨k', w⟩ := e
    intro lo hl h
    simp only [SMap.wfFrom, Bool.and_eq_true, decide_eq_true_eq] at h
    unfold SMap.ins
    split
    · simp only [SMap.wfFrom, Bool.and_eq_true, decide_eq_true_eq, Bool.not_eq_true', decide_eq_false_iff_not]
      exact ⟨⟨hl, hv⟩, ⟨by omega, by simpa using h.1.2⟩, h.2⟩
    · split
      · rename_i hk; subst hk
        simp only [SMap.wfFrom, Bool.and_eq_true, decide_eq_true_eq, Bool.not_eq_true', decide_eq_false_iff_not]
        exact ⟨⟨hl, hv⟩, h.2⟩
      · simp only [SMap.wfFrom, Bool.and_eq_true, decide_eq_true_eq]
        exact ⟨h.1, ih (by omega) h.2⟩

/-- A write keeps the canonical form. -/
theorem SMap.wf_set [DecidableEq α] {m : SMap α} {d : α} (k : Nat) (v : α) (h : SMap.wf m d = true) :
    SMap.wf (SMap.set m k v d) d = true := by
  unfold SMap.set; split
  · exact SMap.wfFrom_erase m k h
  · rename_i hv; exact SMap.wfFrom_ins m hv (Nat.zero_le k) h

theorem SMap.wf_erase [DecidableEq α] {m : SMap α} {d : α} (k : Nat) (h : SMap.wf m d = true) :
    SMap.wf (SMap.erase m k) d = true := SMap.wfFrom_erase m k h

end Sys2Proof.Machine
end

