-- ==== Sys2Proof/Laws/State.lean ====
section
/-! SUPPORT. One law per update and field: what an update of the state leaves as it was, and what it makes its own field read. -/

namespace Sys2Proof.Machine

/-! ### setReg -/

@[simp] theorem State.setReg_pending (s : State) (r : RegId) (v : Word) : (s.setReg r v).pending = s.pending := rfl
@[simp] theorem State.setReg_power (s : State) (r : RegId) (v : Word) : (s.setReg r v).power = s.power := rfl
@[simp] theorem State.setReg_aon (s : State) (r : RegId) (v : Word) : (s.setReg r v).aon = s.aon := rfl
@[simp] theorem State.setReg_tick (s : State) (r : RegId) (v : Word) : (s.setReg r v).tick = s.tick := rfl
@[simp] theorem State.setReg_corePhase (s : State) (r : RegId) (v : Word) : (s.setReg r v).corePhase = s.corePhase := rfl
@[simp] theorem State.setReg_fresh (s : State) (r : RegId) (v : Word) : (s.setReg r v).fresh = s.fresh := rfl
@[simp] theorem State.setReg_outbox (s : State) (r : RegId) (v : Word) : (s.setReg r v).outbox = s.outbox := rfl
@[simp] theorem State.setReg_reply (s : State) (r : RegId) (v : Word) : (s.setReg r v).reply = s.reply := rfl
@[simp] theorem State.setReg_held (s : State) (r : RegId) (v : Word) : (s.setReg r v).held = s.held := rfl
@[simp] theorem State.setReg_pendGroups (s : State) (r : RegId) (v : Word) : (s.setReg r v).pendGroups = s.pendGroups := rfl
@[simp] theorem State.setReg_items (s : State) (r : RegId) (v : Word) : (s.setReg r v).items = s.items := rfl
@[simp] theorem State.setReg_posted (s : State) (r : RegId) (v : Word) : (s.setReg r v).posted = s.posted := rfl
@[simp] theorem State.setReg_dropped (s : State) (r : RegId) (v : Word) : (s.setReg r v).dropped = s.dropped := rfl
@[simp] theorem State.setReg_mem (s : State) (r : RegId) (v : Word) : (s.setReg r v).mem = s.mem := rfl
@[simp] theorem State.setReg_wo1 (s : State) (r : RegId) (v : Word) : (s.setReg r v).wo1 = s.wo1 := rfl
@[simp] theorem State.setReg_lastReject (s : State) (r : RegId) (v : Word) : (s.setReg r v).lastReject = s.lastReject := rfl
@[simp] theorem State.setReg_hl (s : State) (r : RegId) (v : Word) : (s.setReg r v).hl = s.hl := rfl
@[simp] theorem State.setReg_heads (s : State) (r : RegId) (v : Word) : (s.setReg r v).heads = s.heads := rfl
@[simp] theorem State.setReg_groups (s : State) (r : RegId) (v : Word) : (s.setReg r v).groups = s.groups := rfl
@[simp] theorem State.setReg_flares (s : State) (r : RegId) (v : Word) : (s.setReg r v).flares = s.flares := rfl
@[simp] theorem State.setReg_sched (s : State) (r : RegId) (v : Word) : (s.setReg r v).sched = s.sched := rfl
@[simp] theorem State.setReg_fabric (s : State) (r : RegId) (v : Word) : (s.setReg r v).fabric = s.fabric := rfl
@[simp] theorem State.setReg_fa (s : State) (r : RegId) (v : Word) : (s.setReg r v).fa = s.fa := rfl
@[simp] theorem State.setReg_tap (s : State) (r : RegId) (v : Word) : (s.setReg r v).tap = s.tap := rfl
@[simp] theorem State.setReg_keep (s : State) (r : RegId) (v : Word) : (s.setReg r v).keep = s.keep := rfl
@[simp] theorem State.setReg_lanterns (s : State) (r : RegId) (v : Word) : (s.setReg r v).lanterns = s.lanterns := rfl
@[simp] theorem State.setReg_si (s : State) (r : RegId) (v : Word) : (s.setReg r v).si = s.si := rfl
@[simp] theorem State.setReg_oq (s : State) (r : RegId) (v : Word) : (s.setReg r v).oq = s.oq := rfl
@[simp] theorem State.setReg_tx (s : State) (r : RegId) (v : Word) : (s.setReg r v).tx = s.tx := rfl
@[simp] theorem State.setReg_dict (s : State) (r : RegId) (v : Word) : (s.setReg r v).dict = s.dict := rfl
@[simp] theorem State.setReg_ic (s : State) (r : RegId) (v : Word) : (s.setReg r v).ic = s.ic := rfl
@[simp] theorem State.setReg_cv (s : State) (r : RegId) (v : Word) : (s.setReg r v).cv = s.cv := rfl
@[simp] theorem State.setReg_bl (s : State) (r : RegId) (v : Word) : (s.setReg r v).bl = s.bl := rfl
@[simp] theorem State.setReg_pm (s : State) (r : RegId) (v : Word) : (s.setReg r v).pm = s.pm := rfl
@[simp] theorem State.setReg_casc (s : State) (r : RegId) (v : Word) : (s.setReg r v).casc = s.casc := rfl
@[simp] theorem State.setReg_start (s : State) (r : RegId) (v : Word) : (s.setReg r v).start = s.start := rfl
@[simp] theorem State.setReg_therm (s : State) (r : RegId) (v : Word) : (s.setReg r v).therm = s.therm := rfl
@[simp] theorem State.setReg_safety (s : State) (r : RegId) (v : Word) : (s.setReg r v).safety = s.safety := rfl

/-! ### setKey -/

@[simp] theorem State.setKey_pending (s : State) (a : Nat) (v : Word) : (s.setKey a v).pending = s.pending := rfl
@[simp] theorem State.setKey_power (s : State) (a : Nat) (v : Word) : (s.setKey a v).power = s.power := rfl
@[simp] theorem State.setKey_aon (s : State) (a : Nat) (v : Word) : (s.setKey a v).aon = s.aon := rfl
@[simp] theorem State.setKey_tick (s : State) (a : Nat) (v : Word) : (s.setKey a v).tick = s.tick := rfl
@[simp] theorem State.setKey_corePhase (s : State) (a : Nat) (v : Word) : (s.setKey a v).corePhase = s.corePhase := rfl
@[simp] theorem State.setKey_fresh (s : State) (a : Nat) (v : Word) : (s.setKey a v).fresh = s.fresh := rfl
@[simp] theorem State.setKey_outbox (s : State) (a : Nat) (v : Word) : (s.setKey a v).outbox = s.outbox := rfl
@[simp] theorem State.setKey_reply (s : State) (a : Nat) (v : Word) : (s.setKey a v).reply = s.reply := rfl
@[simp] theorem State.setKey_held (s : State) (a : Nat) (v : Word) : (s.setKey a v).held = s.held := rfl
@[simp] theorem State.setKey_pendGroups (s : State) (a : Nat) (v : Word) : (s.setKey a v).pendGroups = s.pendGroups := rfl
@[simp] theorem State.setKey_items (s : State) (a : Nat) (v : Word) : (s.setKey a v).items = s.items := rfl
@[simp] theorem State.setKey_posted (s : State) (a : Nat) (v : Word) : (s.setKey a v).posted = s.posted := rfl
@[simp] theorem State.setKey_dropped (s : State) (a : Nat) (v : Word) : (s.setKey a v).dropped = s.dropped := rfl
@[simp] theorem State.setKey_mem (s : State) (a : Nat) (v : Word) : (s.setKey a v).mem = s.mem := rfl
@[simp] theorem State.setKey_wo1 (s : State) (a : Nat) (v : Word) : (s.setKey a v).wo1 = s.wo1 := rfl
@[simp] theorem State.setKey_lastReject (s : State) (a : Nat) (v : Word) : (s.setKey a v).lastReject = s.lastReject := rfl
@[simp] theorem State.setKey_hl (s : State) (a : Nat) (v : Word) : (s.setKey a v).hl = s.hl := rfl
@[simp] theorem State.setKey_heads (s : State) (a : Nat) (v : Word) : (s.setKey a v).heads = s.heads := rfl
@[simp] theorem State.setKey_groups (s : State) (a : Nat) (v : Word) : (s.setKey a v).groups = s.groups := rfl
@[simp] theorem State.setKey_flares (s : State) (a : Nat) (v : Word) : (s.setKey a v).flares = s.flares := rfl
@[simp] theorem State.setKey_sched (s : State) (a : Nat) (v : Word) : (s.setKey a v).sched = s.sched := rfl
@[simp] theorem State.setKey_fabric (s : State) (a : Nat) (v : Word) : (s.setKey a v).fabric = s.fabric := rfl
@[simp] theorem State.setKey_fa (s : State) (a : Nat) (v : Word) : (s.setKey a v).fa = s.fa := rfl
@[simp] theorem State.setKey_tap (s : State) (a : Nat) (v : Word) : (s.setKey a v).tap = s.tap := rfl
@[simp] theorem State.setKey_keep (s : State) (a : Nat) (v : Word) : (s.setKey a v).keep = s.keep := rfl
@[simp] theorem State.setKey_lanterns (s : State) (a : Nat) (v : Word) : (s.setKey a v).lanterns = s.lanterns := rfl
@[simp] theorem State.setKey_si (s : State) (a : Nat) (v : Word) : (s.setKey a v).si = s.si := rfl
@[simp] theorem State.setKey_oq (s : State) (a : Nat) (v : Word) : (s.setKey a v).oq = s.oq := rfl
@[simp] theorem State.setKey_tx (s : State) (a : Nat) (v : Word) : (s.setKey a v).tx = s.tx := rfl
@[simp] theorem State.setKey_dict (s : State) (a : Nat) (v : Word) : (s.setKey a v).dict = s.dict := rfl
@[simp] theorem State.setKey_ic (s : State) (a : Nat) (v : Word) : (s.setKey a v).ic = s.ic := rfl
@[simp] theorem State.setKey_cv (s : State) (a : Nat) (v : Word) : (s.setKey a v).cv = s.cv := rfl
@[simp] theorem State.setKey_bl (s : State) (a : Nat) (v : Word) : (s.setKey a v).bl = s.bl := rfl
@[simp] theorem State.setKey_pm (s : State) (a : Nat) (v : Word) : (s.setKey a v).pm = s.pm := rfl
@[simp] theorem State.setKey_casc (s : State) (a : Nat) (v : Word) : (s.setKey a v).casc = s.casc := rfl
@[simp] theorem State.setKey_start (s : State) (a : Nat) (v : Word) : (s.setKey a v).start = s.start := rfl
@[simp] theorem State.setKey_therm (s : State) (a : Nat) (v : Word) : (s.setKey a v).therm = s.therm := rfl
@[simp] theorem State.setKey_safety (s : State) (a : Nat) (v : Word) : (s.setKey a v).safety = s.safety := rfl

/-! ### bump -/

@[simp] theorem State.bump_pending (s : State) (r : RegId) (lo w n : Nat) : (s.bump r lo w n).pending = s.pending := rfl
@[simp] theorem State.bump_power (s : State) (r : RegId) (lo w n : Nat) : (s.bump r lo w n).power = s.power := rfl
@[simp] theorem State.bump_aon (s : State) (r : RegId) (lo w n : Nat) : (s.bump r lo w n).aon = s.aon := rfl
@[simp] theorem State.bump_tick (s : State) (r : RegId) (lo w n : Nat) : (s.bump r lo w n).tick = s.tick := rfl
@[simp] theorem State.bump_corePhase (s : State) (r : RegId) (lo w n : Nat) : (s.bump r lo w n).corePhase = s.corePhase := rfl
@[simp] theorem State.bump_fresh (s : State) (r : RegId) (lo w n : Nat) : (s.bump r lo w n).fresh = s.fresh := rfl
@[simp] theorem State.bump_outbox (s : State) (r : RegId) (lo w n : Nat) : (s.bump r lo w n).outbox = s.outbox := rfl
@[simp] theorem State.bump_reply (s : State) (r : RegId) (lo w n : Nat) : (s.bump r lo w n).reply = s.reply := rfl
@[simp] theorem State.bump_held (s : State) (r : RegId) (lo w n : Nat) : (s.bump r lo w n).held = s.held := rfl
@[simp] theorem State.bump_pendGroups (s : State) (r : RegId) (lo w n : Nat) : (s.bump r lo w n).pendGroups = s.pendGroups := rfl
@[simp] theorem State.bump_items (s : State) (r : RegId) (lo w n : Nat) : (s.bump r lo w n).items = s.items := rfl
@[simp] theorem State.bump_posted (s : State) (r : RegId) (lo w n : Nat) : (s.bump r lo w n).posted = s.posted := rfl
@[simp] theorem State.bump_dropped (s : State) (r : RegId) (lo w n : Nat) : (s.bump r lo w n).dropped = s.dropped := rfl
@[simp] theorem State.bump_mem (s : State) (r : RegId) (lo w n : Nat) : (s.bump r lo w n).mem = s.mem := rfl
@[simp] theorem State.bump_wo1 (s : State) (r : RegId) (lo w n : Nat) : (s.bump r lo w n).wo1 = s.wo1 := rfl
@[simp] theorem State.bump_lastReject (s : State) (r : RegId) (lo w n : Nat) : (s.bump r lo w n).lastReject = s.lastReject := rfl
@[simp] theorem State.bump_hl (s : State) (r : RegId) (lo w n : Nat) : (s.bump r lo w n).hl = s.hl := rfl
@[simp] theorem State.bump_heads (s : State) (r : RegId) (lo w n : Nat) : (s.bump r lo w n).heads = s.heads := rfl
@[simp] theorem State.bump_groups (s : State) (r : RegId) (lo w n : Nat) : (s.bump r lo w n).groups = s.groups := rfl
@[simp] theorem State.bump_flares (s : State) (r : RegId) (lo w n : Nat) : (s.bump r lo w n).flares = s.flares := rfl
@[simp] theorem State.bump_sched (s : State) (r : RegId) (lo w n : Nat) : (s.bump r lo w n).sched = s.sched := rfl
@[simp] theorem State.bump_fabric (s : State) (r : RegId) (lo w n : Nat) : (s.bump r lo w n).fabric = s.fabric := rfl
@[simp] theorem State.bump_fa (s : State) (r : RegId) (lo w n : Nat) : (s.bump r lo w n).fa = s.fa := rfl
@[simp] theorem State.bump_tap (s : State) (r : RegId) (lo w n : Nat) : (s.bump r lo w n).tap = s.tap := rfl
@[simp] theorem State.bump_keep (s : State) (r : RegId) (lo w n : Nat) : (s.bump r lo w n).keep = s.keep := rfl
@[simp] theorem State.bump_lanterns (s : State) (r : RegId) (lo w n : Nat) : (s.bump r lo w n).lanterns = s.lanterns := rfl
@[simp] theorem State.bump_si (s : State) (r : RegId) (lo w n : Nat) : (s.bump r lo w n).si = s.si := rfl
@[simp] theorem State.bump_oq (s : State) (r : RegId) (lo w n : Nat) : (s.bump r lo w n).oq = s.oq := rfl
@[simp] theorem State.bump_tx (s : State) (r : RegId) (lo w n : Nat) : (s.bump r lo w n).tx = s.tx := rfl
@[simp] theorem State.bump_dict (s : State) (r : RegId) (lo w n : Nat) : (s.bump r lo w n).dict = s.dict := rfl
@[simp] theorem State.bump_ic (s : State) (r : RegId) (lo w n : Nat) : (s.bump r lo w n).ic = s.ic := rfl
@[simp] theorem State.bump_cv (s : State) (r : RegId) (lo w n : Nat) : (s.bump r lo w n).cv = s.cv := rfl
@[simp] theorem State.bump_bl (s : State) (r : RegId) (lo w n : Nat) : (s.bump r lo w n).bl = s.bl := rfl
@[simp] theorem State.bump_pm (s : State) (r : RegId) (lo w n : Nat) : (s.bump r lo w n).pm = s.pm := rfl
@[simp] theorem State.bump_casc (s : State) (r : RegId) (lo w n : Nat) : (s.bump r lo w n).casc = s.casc := rfl
@[simp] theorem State.bump_start (s : State) (r : RegId) (lo w n : Nat) : (s.bump r lo w n).start = s.start := rfl
@[simp] theorem State.bump_therm (s : State) (r : RegId) (lo w n : Nat) : (s.bump r lo w n).therm = s.therm := rfl
@[simp] theorem State.bump_safety (s : State) (r : RegId) (lo w n : Nat) : (s.bump r lo w n).safety = s.safety := rfl

/-! ### setHead -/

@[simp] theorem State.setHead_pending (s : State) (n : Nat) (h : Head) : (s.setHead n h).pending = s.pending := rfl
@[simp] theorem State.setHead_power (s : State) (n : Nat) (h : Head) : (s.setHead n h).power = s.power := rfl
@[simp] theorem State.setHead_aon (s : State) (n : Nat) (h : Head) : (s.setHead n h).aon = s.aon := rfl
@[simp] theorem State.setHead_tick (s : State) (n : Nat) (h : Head) : (s.setHead n h).tick = s.tick := rfl
@[simp] theorem State.setHead_corePhase (s : State) (n : Nat) (h : Head) : (s.setHead n h).corePhase = s.corePhase := rfl
@[simp] theorem State.setHead_fresh (s : State) (n : Nat) (h : Head) : (s.setHead n h).fresh = s.fresh := rfl
@[simp] theorem State.setHead_outbox (s : State) (n : Nat) (h : Head) : (s.setHead n h).outbox = s.outbox := rfl
@[simp] theorem State.setHead_reply (s : State) (n : Nat) (h : Head) : (s.setHead n h).reply = s.reply := rfl
@[simp] theorem State.setHead_regs (s : State) (n : Nat) (h : Head) : (s.setHead n h).regs = s.regs := rfl
@[simp] theorem State.setHead_held (s : State) (n : Nat) (h : Head) : (s.setHead n h).held = s.held := rfl
@[simp] theorem State.setHead_pendGroups (s : State) (n : Nat) (h : Head) : (s.setHead n h).pendGroups = s.pendGroups := rfl
@[simp] theorem State.setHead_items (s : State) (n : Nat) (h : Head) : (s.setHead n h).items = s.items := rfl
@[simp] theorem State.setHead_posted (s : State) (n : Nat) (h : Head) : (s.setHead n h).posted = s.posted := rfl
@[simp] theorem State.setHead_dropped (s : State) (n : Nat) (h : Head) : (s.setHead n h).dropped = s.dropped := rfl
@[simp] theorem State.setHead_mem (s : State) (n : Nat) (h : Head) : (s.setHead n h).mem = s.mem := rfl
@[simp] theorem State.setHead_wo1 (s : State) (n : Nat) (h : Head) : (s.setHead n h).wo1 = s.wo1 := rfl
@[simp] theorem State.setHead_lastReject (s : State) (n : Nat) (h : Head) : (s.setHead n h).lastReject = s.lastReject := rfl
@[simp] theorem State.setHead_hl (s : State) (n : Nat) (h : Head) : (s.setHead n h).hl = s.hl := rfl
@[simp] theorem State.setHead_groups (s : State) (n : Nat) (h : Head) : (s.setHead n h).groups = s.groups := rfl
@[simp] theorem State.setHead_flares (s : State) (n : Nat) (h : Head) : (s.setHead n h).flares = s.flares := rfl
@[simp] theorem State.setHead_sched (s : State) (n : Nat) (h : Head) : (s.setHead n h).sched = s.sched := rfl
@[simp] theorem State.setHead_fabric (s : State) (n : Nat) (h : Head) : (s.setHead n h).fabric = s.fabric := rfl
@[simp] theorem State.setHead_fa (s : State) (n : Nat) (h : Head) : (s.setHead n h).fa = s.fa := rfl
@[simp] theorem State.setHead_tap (s : State) (n : Nat) (h : Head) : (s.setHead n h).tap = s.tap := rfl
@[simp] theorem State.setHead_keep (s : State) (n : Nat) (h : Head) : (s.setHead n h).keep = s.keep := rfl
@[simp] theorem State.setHead_lanterns (s : State) (n : Nat) (h : Head) : (s.setHead n h).lanterns = s.lanterns := rfl
@[simp] theorem State.setHead_si (s : State) (n : Nat) (h : Head) : (s.setHead n h).si = s.si := rfl
@[simp] theorem State.setHead_oq (s : State) (n : Nat) (h : Head) : (s.setHead n h).oq = s.oq := rfl
@[simp] theorem State.setHead_tx (s : State) (n : Nat) (h : Head) : (s.setHead n h).tx = s.tx := rfl
@[simp] theorem State.setHead_dict (s : State) (n : Nat) (h : Head) : (s.setHead n h).dict = s.dict := rfl
@[simp] theorem State.setHead_ic (s : State) (n : Nat) (h : Head) : (s.setHead n h).ic = s.ic := rfl
@[simp] theorem State.setHead_cv (s : State) (n : Nat) (h : Head) : (s.setHead n h).cv = s.cv := rfl
@[simp] theorem State.setHead_bl (s : State) (n : Nat) (h : Head) : (s.setHead n h).bl = s.bl := rfl
@[simp] theorem State.setHead_pm (s : State) (n : Nat) (h : Head) : (s.setHead n h).pm = s.pm := rfl
@[simp] theorem State.setHead_casc (s : State) (n : Nat) (h : Head) : (s.setHead n h).casc = s.casc := rfl
@[simp] theorem State.setHead_start (s : State) (n : Nat) (h : Head) : (s.setHead n h).start = s.start := rfl
@[simp] theorem State.setHead_therm (s : State) (n : Nat) (h : Head) : (s.setHead n h).therm = s.therm := rfl
@[simp] theorem State.setHead_safety (s : State) (n : Nat) (h : Head) : (s.setHead n h).safety = s.safety := rfl

/-! ### setPgroup -/

@[simp] theorem State.setPgroup_pending (s : State) (g : Nat) (p : PGroup) : (s.setPgroup g p).pending = s.pending := rfl
@[simp] theorem State.setPgroup_power (s : State) (g : Nat) (p : PGroup) : (s.setPgroup g p).power = s.power := rfl
@[simp] theorem State.setPgroup_aon (s : State) (g : Nat) (p : PGroup) : (s.setPgroup g p).aon = s.aon := rfl
@[simp] theorem State.setPgroup_tick (s : State) (g : Nat) (p : PGroup) : (s.setPgroup g p).tick = s.tick := rfl
@[simp] theorem State.setPgroup_corePhase (s : State) (g : Nat) (p : PGroup) : (s.setPgroup g p).corePhase = s.corePhase := rfl
@[simp] theorem State.setPgroup_fresh (s : State) (g : Nat) (p : PGroup) : (s.setPgroup g p).fresh = s.fresh := rfl
@[simp] theorem State.setPgroup_outbox (s : State) (g : Nat) (p : PGroup) : (s.setPgroup g p).outbox = s.outbox := rfl
@[simp] theorem State.setPgroup_reply (s : State) (g : Nat) (p : PGroup) : (s.setPgroup g p).reply = s.reply := rfl
@[simp] theorem State.setPgroup_regs (s : State) (g : Nat) (p : PGroup) : (s.setPgroup g p).regs = s.regs := rfl
@[simp] theorem State.setPgroup_held (s : State) (g : Nat) (p : PGroup) : (s.setPgroup g p).held = s.held := rfl
@[simp] theorem State.setPgroup_pendGroups (s : State) (g : Nat) (p : PGroup) : (s.setPgroup g p).pendGroups = s.pendGroups := rfl
@[simp] theorem State.setPgroup_items (s : State) (g : Nat) (p : PGroup) : (s.setPgroup g p).items = s.items := rfl
@[simp] theorem State.setPgroup_posted (s : State) (g : Nat) (p : PGroup) : (s.setPgroup g p).posted = s.posted := rfl
@[simp] theorem State.setPgroup_dropped (s : State) (g : Nat) (p : PGroup) : (s.setPgroup g p).dropped = s.dropped := rfl
@[simp] theorem State.setPgroup_mem (s : State) (g : Nat) (p : PGroup) : (s.setPgroup g p).mem = s.mem := rfl
@[simp] theorem State.setPgroup_wo1 (s : State) (g : Nat) (p : PGroup) : (s.setPgroup g p).wo1 = s.wo1 := rfl
@[simp] theorem State.setPgroup_lastReject (s : State) (g : Nat) (p : PGroup) : (s.setPgroup g p).lastReject = s.lastReject := rfl
@[simp] theorem State.setPgroup_hl (s : State) (g : Nat) (p : PGroup) : (s.setPgroup g p).hl = s.hl := rfl
@[simp] theorem State.setPgroup_heads (s : State) (g : Nat) (p : PGroup) : (s.setPgroup g p).heads = s.heads := rfl
@[simp] theorem State.setPgroup_flares (s : State) (g : Nat) (p : PGroup) : (s.setPgroup g p).flares = s.flares := rfl
@[simp] theorem State.setPgroup_sched (s : State) (g : Nat) (p : PGroup) : (s.setPgroup g p).sched = s.sched := rfl
@[simp] theorem State.setPgroup_fabric (s : State) (g : Nat) (p : PGroup) : (s.setPgroup g p).fabric = s.fabric := rfl
@[simp] theorem State.setPgroup_fa (s : State) (g : Nat) (p : PGroup) : (s.setPgroup g p).fa = s.fa := rfl
@[simp] theorem State.setPgroup_tap (s : State) (g : Nat) (p : PGroup) : (s.setPgroup g p).tap = s.tap := rfl
@[simp] theorem State.setPgroup_keep (s : State) (g : Nat) (p : PGroup) : (s.setPgroup g p).keep = s.keep := rfl
@[simp] theorem State.setPgroup_lanterns (s : State) (g : Nat) (p : PGroup) : (s.setPgroup g p).lanterns = s.lanterns := rfl
@[simp] theorem State.setPgroup_si (s : State) (g : Nat) (p : PGroup) : (s.setPgroup g p).si = s.si := rfl
@[simp] theorem State.setPgroup_oq (s : State) (g : Nat) (p : PGroup) : (s.setPgroup g p).oq = s.oq := rfl
@[simp] theorem State.setPgroup_tx (s : State) (g : Nat) (p : PGroup) : (s.setPgroup g p).tx = s.tx := rfl
@[simp] theorem State.setPgroup_dict (s : State) (g : Nat) (p : PGroup) : (s.setPgroup g p).dict = s.dict := rfl
@[simp] theorem State.setPgroup_ic (s : State) (g : Nat) (p : PGroup) : (s.setPgroup g p).ic = s.ic := rfl
@[simp] theorem State.setPgroup_cv (s : State) (g : Nat) (p : PGroup) : (s.setPgroup g p).cv = s.cv := rfl
@[simp] theorem State.setPgroup_bl (s : State) (g : Nat) (p : PGroup) : (s.setPgroup g p).bl = s.bl := rfl
@[simp] theorem State.setPgroup_pm (s : State) (g : Nat) (p : PGroup) : (s.setPgroup g p).pm = s.pm := rfl
@[simp] theorem State.setPgroup_casc (s : State) (g : Nat) (p : PGroup) : (s.setPgroup g p).casc = s.casc := rfl
@[simp] theorem State.setPgroup_start (s : State) (g : Nat) (p : PGroup) : (s.setPgroup g p).start = s.start := rfl
@[simp] theorem State.setPgroup_therm (s : State) (g : Nat) (p : PGroup) : (s.setPgroup g p).therm = s.therm := rfl
@[simp] theorem State.setPgroup_safety (s : State) (g : Nat) (p : PGroup) : (s.setPgroup g p).safety = s.safety := rfl

/-! ### setLayer -/

@[simp] theorem State.setLayer_pending (s : State) (i : Nat) (l : Layer) : (s.setLayer i l).pending = s.pending := rfl
@[simp] theorem State.setLayer_power (s : State) (i : Nat) (l : Layer) : (s.setLayer i l).power = s.power := rfl
@[simp] theorem State.setLayer_aon (s : State) (i : Nat) (l : Layer) : (s.setLayer i l).aon = s.aon := rfl
@[simp] theorem State.setLayer_tick (s : State) (i : Nat) (l : Layer) : (s.setLayer i l).tick = s.tick := rfl
@[simp] theorem State.setLayer_corePhase (s : State) (i : Nat) (l : Layer) : (s.setLayer i l).corePhase = s.corePhase := rfl
@[simp] theorem State.setLayer_fresh (s : State) (i : Nat) (l : Layer) : (s.setLayer i l).fresh = s.fresh := rfl
@[simp] theorem State.setLayer_outbox (s : State) (i : Nat) (l : Layer) : (s.setLayer i l).outbox = s.outbox := rfl
@[simp] theorem State.setLayer_reply (s : State) (i : Nat) (l : Layer) : (s.setLayer i l).reply = s.reply := rfl
@[simp] theorem State.setLayer_regs (s : State) (i : Nat) (l : Layer) : (s.setLayer i l).regs = s.regs := rfl
@[simp] theorem State.setLayer_held (s : State) (i : Nat) (l : Layer) : (s.setLayer i l).held = s.held := rfl
@[simp] theorem State.setLayer_pendGroups (s : State) (i : Nat) (l : Layer) : (s.setLayer i l).pendGroups = s.pendGroups := rfl
@[simp] theorem State.setLayer_items (s : State) (i : Nat) (l : Layer) : (s.setLayer i l).items = s.items := rfl
@[simp] theorem State.setLayer_posted (s : State) (i : Nat) (l : Layer) : (s.setLayer i l).posted = s.posted := rfl
@[simp] theorem State.setLayer_dropped (s : State) (i : Nat) (l : Layer) : (s.setLayer i l).dropped = s.dropped := rfl
@[simp] theorem State.setLayer_mem (s : State) (i : Nat) (l : Layer) : (s.setLayer i l).mem = s.mem := rfl
@[simp] theorem State.setLayer_wo1 (s : State) (i : Nat) (l : Layer) : (s.setLayer i l).wo1 = s.wo1 := rfl
@[simp] theorem State.setLayer_lastReject (s : State) (i : Nat) (l : Layer) : (s.setLayer i l).lastReject = s.lastReject := rfl
@[simp] theorem State.setLayer_hl (s : State) (i : Nat) (l : Layer) : (s.setLayer i l).hl = s.hl := rfl
@[simp] theorem State.setLayer_heads (s : State) (i : Nat) (l : Layer) : (s.setLayer i l).heads = s.heads := rfl
@[simp] theorem State.setLayer_groups (s : State) (i : Nat) (l : Layer) : (s.setLayer i l).groups = s.groups := rfl
@[simp] theorem State.setLayer_flares (s : State) (i : Nat) (l : Layer) : (s.setLayer i l).flares = s.flares := rfl
@[simp] theorem State.setLayer_sched (s : State) (i : Nat) (l : Layer) : (s.setLayer i l).sched = s.sched := rfl
@[simp] theorem State.setLayer_fabric (s : State) (i : Nat) (l : Layer) : (s.setLayer i l).fabric = s.fabric := rfl
@[simp] theorem State.setLayer_tap (s : State) (i : Nat) (l : Layer) : (s.setLayer i l).tap = s.tap := rfl
@[simp] theorem State.setLayer_keep (s : State) (i : Nat) (l : Layer) : (s.setLayer i l).keep = s.keep := rfl
@[simp] theorem State.setLayer_lanterns (s : State) (i : Nat) (l : Layer) : (s.setLayer i l).lanterns = s.lanterns := rfl
@[simp] theorem State.setLayer_si (s : State) (i : Nat) (l : Layer) : (s.setLayer i l).si = s.si := rfl
@[simp] theorem State.setLayer_oq (s : State) (i : Nat) (l : Layer) : (s.setLayer i l).oq = s.oq := rfl
@[simp] theorem State.setLayer_tx (s : State) (i : Nat) (l : Layer) : (s.setLayer i l).tx = s.tx := rfl
@[simp] theorem State.setLayer_dict (s : State) (i : Nat) (l : Layer) : (s.setLayer i l).dict = s.dict := rfl
@[simp] theorem State.setLayer_ic (s : State) (i : Nat) (l : Layer) : (s.setLayer i l).ic = s.ic := rfl
@[simp] theorem State.setLayer_cv (s : State) (i : Nat) (l : Layer) : (s.setLayer i l).cv = s.cv := rfl
@[simp] theorem State.setLayer_bl (s : State) (i : Nat) (l : Layer) : (s.setLayer i l).bl = s.bl := rfl
@[simp] theorem State.setLayer_pm (s : State) (i : Nat) (l : Layer) : (s.setLayer i l).pm = s.pm := rfl
@[simp] theorem State.setLayer_casc (s : State) (i : Nat) (l : Layer) : (s.setLayer i l).casc = s.casc := rfl
@[simp] theorem State.setLayer_start (s : State) (i : Nat) (l : Layer) : (s.setLayer i l).start = s.start := rfl
@[simp] theorem State.setLayer_therm (s : State) (i : Nat) (l : Layer) : (s.setLayer i l).therm = s.therm := rfl
@[simp] theorem State.setLayer_safety (s : State) (i : Nat) (l : Layer) : (s.setLayer i l).safety = s.safety := rfl

/-! ### setBank -/

@[simp] theorem State.setBank_pending (s : State) (b : Nat) (x : Bank) : (s.setBank b x).pending = s.pending := rfl
@[simp] theorem State.setBank_power (s : State) (b : Nat) (x : Bank) : (s.setBank b x).power = s.power := rfl
@[simp] theorem State.setBank_aon (s : State) (b : Nat) (x : Bank) : (s.setBank b x).aon = s.aon := rfl
@[simp] theorem State.setBank_tick (s : State) (b : Nat) (x : Bank) : (s.setBank b x).tick = s.tick := rfl
@[simp] theorem State.setBank_corePhase (s : State) (b : Nat) (x : Bank) : (s.setBank b x).corePhase = s.corePhase := rfl
@[simp] theorem State.setBank_fresh (s : State) (b : Nat) (x : Bank) : (s.setBank b x).fresh = s.fresh := rfl
@[simp] theorem State.setBank_outbox (s : State) (b : Nat) (x : Bank) : (s.setBank b x).outbox = s.outbox := rfl
@[simp] theorem State.setBank_reply (s : State) (b : Nat) (x : Bank) : (s.setBank b x).reply = s.reply := rfl
@[simp] theorem State.setBank_regs (s : State) (b : Nat) (x : Bank) : (s.setBank b x).regs = s.regs := rfl
@[simp] theorem State.setBank_held (s : State) (b : Nat) (x : Bank) : (s.setBank b x).held = s.held := rfl
@[simp] theorem State.setBank_pendGroups (s : State) (b : Nat) (x : Bank) : (s.setBank b x).pendGroups = s.pendGroups := rfl
@[simp] theorem State.setBank_items (s : State) (b : Nat) (x : Bank) : (s.setBank b x).items = s.items := rfl
@[simp] theorem State.setBank_posted (s : State) (b : Nat) (x : Bank) : (s.setBank b x).posted = s.posted := rfl
@[simp] theorem State.setBank_dropped (s : State) (b : Nat) (x : Bank) : (s.setBank b x).dropped = s.dropped := rfl
@[simp] theorem State.setBank_mem (s : State) (b : Nat) (x : Bank) : (s.setBank b x).mem = s.mem := rfl
@[simp] theorem State.setBank_wo1 (s : State) (b : Nat) (x : Bank) : (s.setBank b x).wo1 = s.wo1 := rfl
@[simp] theorem State.setBank_lastReject (s : State) (b : Nat) (x : Bank) : (s.setBank b x).lastReject = s.lastReject := rfl
@[simp] theorem State.setBank_hl (s : State) (b : Nat) (x : Bank) : (s.setBank b x).hl = s.hl := rfl
@[simp] theorem State.setBank_heads (s : State) (b : Nat) (x : Bank) : (s.setBank b x).heads = s.heads := rfl
@[simp] theorem State.setBank_groups (s : State) (b : Nat) (x : Bank) : (s.setBank b x).groups = s.groups := rfl
@[simp] theorem State.setBank_flares (s : State) (b : Nat) (x : Bank) : (s.setBank b x).flares = s.flares := rfl
@[simp] theorem State.setBank_fabric (s : State) (b : Nat) (x : Bank) : (s.setBank b x).fabric = s.fabric := rfl
@[simp] theorem State.setBank_fa (s : State) (b : Nat) (x : Bank) : (s.setBank b x).fa = s.fa := rfl
@[simp] theorem State.setBank_tap (s : State) (b : Nat) (x : Bank) : (s.setBank b x).tap = s.tap := rfl
@[simp] theorem State.setBank_keep (s : State) (b : Nat) (x : Bank) : (s.setBank b x).keep = s.keep := rfl
@[simp] theorem State.setBank_lanterns (s : State) (b : Nat) (x : Bank) : (s.setBank b x).lanterns = s.lanterns := rfl
@[simp] theorem State.setBank_si (s : State) (b : Nat) (x : Bank) : (s.setBank b x).si = s.si := rfl
@[simp] theorem State.setBank_oq (s : State) (b : Nat) (x : Bank) : (s.setBank b x).oq = s.oq := rfl
@[simp] theorem State.setBank_tx (s : State) (b : Nat) (x : Bank) : (s.setBank b x).tx = s.tx := rfl
@[simp] theorem State.setBank_dict (s : State) (b : Nat) (x : Bank) : (s.setBank b x).dict = s.dict := rfl
@[simp] theorem State.setBank_ic (s : State) (b : Nat) (x : Bank) : (s.setBank b x).ic = s.ic := rfl
@[simp] theorem State.setBank_cv (s : State) (b : Nat) (x : Bank) : (s.setBank b x).cv = s.cv := rfl
@[simp] theorem State.setBank_bl (s : State) (b : Nat) (x : Bank) : (s.setBank b x).bl = s.bl := rfl
@[simp] theorem State.setBank_pm (s : State) (b : Nat) (x : Bank) : (s.setBank b x).pm = s.pm := rfl
@[simp] theorem State.setBank_casc (s : State) (b : Nat) (x : Bank) : (s.setBank b x).casc = s.casc := rfl
@[simp] theorem State.setBank_start (s : State) (b : Nat) (x : Bank) : (s.setBank b x).start = s.start := rfl
@[simp] theorem State.setBank_therm (s : State) (b : Nat) (x : Bank) : (s.setBank b x).therm = s.therm := rfl
@[simp] theorem State.setBank_safety (s : State) (b : Nat) (x : Bank) : (s.setBank b x).safety = s.safety := rfl

/-! ### setChannel -/

@[simp] theorem State.setChannel_pending (s : State) (m : Nat) (c : Channel) : (s.setChannel m c).pending = s.pending := rfl
@[simp] theorem State.setChannel_power (s : State) (m : Nat) (c : Channel) : (s.setChannel m c).power = s.power := rfl
@[simp] theorem State.setChannel_aon (s : State) (m : Nat) (c : Channel) : (s.setChannel m c).aon = s.aon := rfl
@[simp] theorem State.setChannel_tick (s : State) (m : Nat) (c : Channel) : (s.setChannel m c).tick = s.tick := rfl
@[simp] theorem State.setChannel_corePhase (s : State) (m : Nat) (c : Channel) : (s.setChannel m c).corePhase = s.corePhase := rfl
@[simp] theorem State.setChannel_fresh (s : State) (m : Nat) (c : Channel) : (s.setChannel m c).fresh = s.fresh := rfl
@[simp] theorem State.setChannel_outbox (s : State) (m : Nat) (c : Channel) : (s.setChannel m c).outbox = s.outbox := rfl
@[simp] theorem State.setChannel_reply (s : State) (m : Nat) (c : Channel) : (s.setChannel m c).reply = s.reply := rfl
@[simp] theorem State.setChannel_regs (s : State) (m : Nat) (c : Channel) : (s.setChannel m c).regs = s.regs := rfl
@[simp] theorem State.setChannel_held (s : State) (m : Nat) (c : Channel) : (s.setChannel m c).held = s.held := rfl
@[simp] theorem State.setChannel_pendGroups (s : State) (m : Nat) (c : Channel) : (s.setChannel m c).pendGroups = s.pendGroups := rfl
@[simp] theorem State.setChannel_items (s : State) (m : Nat) (c : Channel) : (s.setChannel m c).items = s.items := rfl
@[simp] theorem State.setChannel_posted (s : State) (m : Nat) (c : Channel) : (s.setChannel m c).posted = s.posted := rfl
@[simp] theorem State.setChannel_dropped (s : State) (m : Nat) (c : Channel) : (s.setChannel m c).dropped = s.dropped := rfl
@[simp] theorem State.setChannel_mem (s : State) (m : Nat) (c : Channel) : (s.setChannel m c).mem = s.mem := rfl
@[simp] theorem State.setChannel_wo1 (s : State) (m : Nat) (c : Channel) : (s.setChannel m c).wo1 = s.wo1 := rfl
@[simp] theorem State.setChannel_lastReject (s : State) (m : Nat) (c : Channel) : (s.setChannel m c).lastReject = s.lastReject := rfl
@[simp] theorem State.setChannel_hl (s : State) (m : Nat) (c : Channel) : (s.setChannel m c).hl = s.hl := rfl
@[simp] theorem State.setChannel_heads (s : State) (m : Nat) (c : Channel) : (s.setChannel m c).heads = s.heads := rfl
@[simp] theorem State.setChannel_groups (s : State) (m : Nat) (c : Channel) : (s.setChannel m c).groups = s.groups := rfl
@[simp] theorem State.setChannel_flares (s : State) (m : Nat) (c : Channel) : (s.setChannel m c).flares = s.flares := rfl
@[simp] theorem State.setChannel_sched (s : State) (m : Nat) (c : Channel) : (s.setChannel m c).sched = s.sched := rfl
@[simp] theorem State.setChannel_fa (s : State) (m : Nat) (c : Channel) : (s.setChannel m c).fa = s.fa := rfl
@[simp] theorem State.setChannel_tap (s : State) (m : Nat) (c : Channel) : (s.setChannel m c).tap = s.tap := rfl
@[simp] theorem State.setChannel_keep (s : State) (m : Nat) (c : Channel) : (s.setChannel m c).keep = s.keep := rfl
@[simp] theorem State.setChannel_lanterns (s : State) (m : Nat) (c : Channel) : (s.setChannel m c).lanterns = s.lanterns := rfl
@[simp] theorem State.setChannel_si (s : State) (m : Nat) (c : Channel) : (s.setChannel m c).si = s.si := rfl
@[simp] theorem State.setChannel_oq (s : State) (m : Nat) (c : Channel) : (s.setChannel m c).oq = s.oq := rfl
@[simp] theorem State.setChannel_tx (s : State) (m : Nat) (c : Channel) : (s.setChannel m c).tx = s.tx := rfl
@[simp] theorem State.setChannel_dict (s : State) (m : Nat) (c : Channel) : (s.setChannel m c).dict = s.dict := rfl
@[simp] theorem State.setChannel_ic (s : State) (m : Nat) (c : Channel) : (s.setChannel m c).ic = s.ic := rfl
@[simp] theorem State.setChannel_cv (s : State) (m : Nat) (c : Channel) : (s.setChannel m c).cv = s.cv := rfl
@[simp] theorem State.setChannel_bl (s : State) (m : Nat) (c : Channel) : (s.setChannel m c).bl = s.bl := rfl
@[simp] theorem State.setChannel_pm (s : State) (m : Nat) (c : Channel) : (s.setChannel m c).pm = s.pm := rfl
@[simp] theorem State.setChannel_casc (s : State) (m : Nat) (c : Channel) : (s.setChannel m c).casc = s.casc := rfl
@[simp] theorem State.setChannel_start (s : State) (m : Nat) (c : Channel) : (s.setChannel m c).start = s.start := rfl
@[simp] theorem State.setChannel_therm (s : State) (m : Nat) (c : Channel) : (s.setChannel m c).therm = s.therm := rfl
@[simp] theorem State.setChannel_safety (s : State) (m : Nat) (c : Channel) : (s.setChannel m c).safety = s.safety := rfl

/-! ### setKeepHead -/

@[simp] theorem State.setKeepHead_pending (s : State) (n : Nat) (k : KeepHead) : (s.setKeepHead n k).pending = s.pending := rfl
@[simp] theorem State.setKeepHead_power (s : State) (n : Nat) (k : KeepHead) : (s.setKeepHead n k).power = s.power := rfl
@[simp] theorem State.setKeepHead_aon (s : State) (n : Nat) (k : KeepHead) : (s.setKeepHead n k).aon = s.aon := rfl
@[simp] theorem State.setKeepHead_tick (s : State) (n : Nat) (k : KeepHead) : (s.setKeepHead n k).tick = s.tick := rfl
@[simp] theorem State.setKeepHead_corePhase (s : State) (n : Nat) (k : KeepHead) : (s.setKeepHead n k).corePhase = s.corePhase := rfl
@[simp] theorem State.setKeepHead_fresh (s : State) (n : Nat) (k : KeepHead) : (s.setKeepHead n k).fresh = s.fresh := rfl
@[simp] theorem State.setKeepHead_outbox (s : State) (n : Nat) (k : KeepHead) : (s.setKeepHead n k).outbox = s.outbox := rfl
@[simp] theorem State.setKeepHead_reply (s : State) (n : Nat) (k : KeepHead) : (s.setKeepHead n k).reply = s.reply := rfl
@[simp] theorem State.setKeepHead_regs (s : State) (n : Nat) (k : KeepHead) : (s.setKeepHead n k).regs = s.regs := rfl
@[simp] theorem State.setKeepHead_held (s : State) (n : Nat) (k : KeepHead) : (s.setKeepHead n k).held = s.held := rfl
@[simp] theorem State.setKeepHead_pendGroups (s : State) (n : Nat) (k : KeepHead) : (s.setKeepHead n k).pendGroups = s.pendGroups := rfl
@[simp] theorem State.setKeepHead_items (s : State) (n : Nat) (k : KeepHead) : (s.setKeepHead n k).items = s.items := rfl
@[simp] theorem State.setKeepHead_posted (s : State) (n : Nat) (k : KeepHead) : (s.setKeepHead n k).posted = s.posted := rfl
@[simp] theorem State.setKeepHead_dropped (s : State) (n : Nat) (k : KeepHead) : (s.setKeepHead n k).dropped = s.dropped := rfl
@[simp] theorem State.setKeepHead_mem (s : State) (n : Nat) (k : KeepHead) : (s.setKeepHead n k).mem = s.mem := rfl
@[simp] theorem State.setKeepHead_wo1 (s : State) (n : Nat) (k : KeepHead) : (s.setKeepHead n k).wo1 = s.wo1 := rfl
@[simp] theorem State.setKeepHead_lastReject (s : State) (n : Nat) (k : KeepHead) : (s.setKeepHead n k).lastReject = s.lastReject := rfl
@[simp] theorem State.setKeepHead_hl (s : State) (n : Nat) (k : KeepHead) : (s.setKeepHead n k).hl = s.hl := rfl
@[simp] theorem State.setKeepHead_heads (s : State) (n : Nat) (k : KeepHead) : (s.setKeepHead n k).heads = s.heads := rfl
@[simp] theorem State.setKeepHead_groups (s : State) (n : Nat) (k : KeepHead) : (s.setKeepHead n k).groups = s.groups := rfl
@[simp] theorem State.setKeepHead_flares (s : State) (n : Nat) (k : KeepHead) : (s.setKeepHead n k).flares = s.flares := rfl
@[simp] theorem State.setKeepHead_sched (s : State) (n : Nat) (k : KeepHead) : (s.setKeepHead n k).sched = s.sched := rfl
@[simp] theorem State.setKeepHead_fabric (s : State) (n : Nat) (k : KeepHead) : (s.setKeepHead n k).fabric = s.fabric := rfl
@[simp] theorem State.setKeepHead_fa (s : State) (n : Nat) (k : KeepHead) : (s.setKeepHead n k).fa = s.fa := rfl
@[simp] theorem State.setKeepHead_tap (s : State) (n : Nat) (k : KeepHead) : (s.setKeepHead n k).tap = s.tap := rfl
@[simp] theorem State.setKeepHead_lanterns (s : State) (n : Nat) (k : KeepHead) : (s.setKeepHead n k).lanterns = s.lanterns := rfl
@[simp] theorem State.setKeepHead_si (s : State) (n : Nat) (k : KeepHead) : (s.setKeepHead n k).si = s.si := rfl
@[simp] theorem State.setKeepHead_oq (s : State) (n : Nat) (k : KeepHead) : (s.setKeepHead n k).oq = s.oq := rfl
@[simp] theorem State.setKeepHead_tx (s : State) (n : Nat) (k : KeepHead) : (s.setKeepHead n k).tx = s.tx := rfl
@[simp] theorem State.setKeepHead_dict (s : State) (n : Nat) (k : KeepHead) : (s.setKeepHead n k).dict = s.dict := rfl
@[simp] theorem State.setKeepHead_ic (s : State) (n : Nat) (k : KeepHead) : (s.setKeepHead n k).ic = s.ic := rfl
@[simp] theorem State.setKeepHead_cv (s : State) (n : Nat) (k : KeepHead) : (s.setKeepHead n k).cv = s.cv := rfl
@[simp] theorem State.setKeepHead_bl (s : State) (n : Nat) (k : KeepHead) : (s.setKeepHead n k).bl = s.bl := rfl
@[simp] theorem State.setKeepHead_pm (s : State) (n : Nat) (k : KeepHead) : (s.setKeepHead n k).pm = s.pm := rfl
@[simp] theorem State.setKeepHead_casc (s : State) (n : Nat) (k : KeepHead) : (s.setKeepHead n k).casc = s.casc := rfl
@[simp] theorem State.setKeepHead_start (s : State) (n : Nat) (k : KeepHead) : (s.setKeepHead n k).start = s.start := rfl
@[simp] theorem State.setKeepHead_therm (s : State) (n : Nat) (k : KeepHead) : (s.setKeepHead n k).therm = s.therm := rfl
@[simp] theorem State.setKeepHead_safety (s : State) (n : Nat) (k : KeepHead) : (s.setKeepHead n k).safety = s.safety := rfl

/-! ### setSig -/

@[simp] theorem State.setSig_pending (s : State) (n r : Nat) (k : SigRun) : (s.setSig n r k).pending = s.pending := rfl
@[simp] theorem State.setSig_power (s : State) (n r : Nat) (k : SigRun) : (s.setSig n r k).power = s.power := rfl
@[simp] theorem State.setSig_aon (s : State) (n r : Nat) (k : SigRun) : (s.setSig n r k).aon = s.aon := rfl
@[simp] theorem State.setSig_tick (s : State) (n r : Nat) (k : SigRun) : (s.setSig n r k).tick = s.tick := rfl
@[simp] theorem State.setSig_corePhase (s : State) (n r : Nat) (k : SigRun) : (s.setSig n r k).corePhase = s.corePhase := rfl
@[simp] theorem State.setSig_fresh (s : State) (n r : Nat) (k : SigRun) : (s.setSig n r k).fresh = s.fresh := rfl
@[simp] theorem State.setSig_outbox (s : State) (n r : Nat) (k : SigRun) : (s.setSig n r k).outbox = s.outbox := rfl
@[simp] theorem State.setSig_reply (s : State) (n r : Nat) (k : SigRun) : (s.setSig n r k).reply = s.reply := rfl
@[simp] theorem State.setSig_regs (s : State) (n r : Nat) (k : SigRun) : (s.setSig n r k).regs = s.regs := rfl
@[simp] theorem State.setSig_held (s : State) (n r : Nat) (k : SigRun) : (s.setSig n r k).held = s.held := rfl
@[simp] theorem State.setSig_pendGroups (s : State) (n r : Nat) (k : SigRun) : (s.setSig n r k).pendGroups = s.pendGroups := rfl
@[simp] theorem State.setSig_items (s : State) (n r : Nat) (k : SigRun) : (s.setSig n r k).items = s.items := rfl
@[simp] theorem State.setSig_posted (s : State) (n r : Nat) (k : SigRun) : (s.setSig n r k).posted = s.posted := rfl
@[simp] theorem State.setSig_dropped (s : State) (n r : Nat) (k : SigRun) : (s.setSig n r k).dropped = s.dropped := rfl
@[simp] theorem State.setSig_mem (s : State) (n r : Nat) (k : SigRun) : (s.setSig n r k).mem = s.mem := rfl
@[simp] theorem State.setSig_wo1 (s : State) (n r : Nat) (k : SigRun) : (s.setSig n r k).wo1 = s.wo1 := rfl
@[simp] theorem State.setSig_lastReject (s : State) (n r : Nat) (k : SigRun) : (s.setSig n r k).lastReject = s.lastReject := rfl
@[simp] theorem State.setSig_hl (s : State) (n r : Nat) (k : SigRun) : (s.setSig n r k).hl = s.hl := rfl
@[simp] theorem State.setSig_heads (s : State) (n r : Nat) (k : SigRun) : (s.setSig n r k).heads = s.heads := rfl
@[simp] theorem State.setSig_groups (s : State) (n r : Nat) (k : SigRun) : (s.setSig n r k).groups = s.groups := rfl
@[simp] theorem State.setSig_flares (s : State) (n r : Nat) (k : SigRun) : (s.setSig n r k).flares = s.flares := rfl
@[simp] theorem State.setSig_sched (s : State) (n r : Nat) (k : SigRun) : (s.setSig n r k).sched = s.sched := rfl
@[simp] theorem State.setSig_fabric (s : State) (n r : Nat) (k : SigRun) : (s.setSig n r k).fabric = s.fabric := rfl
@[simp] theorem State.setSig_fa (s : State) (n r : Nat) (k : SigRun) : (s.setSig n r k).fa = s.fa := rfl
@[simp] theorem State.setSig_tap (s : State) (n r : Nat) (k : SigRun) : (s.setSig n r k).tap = s.tap := rfl
@[simp] theorem State.setSig_lanterns (s : State) (n r : Nat) (k : SigRun) : (s.setSig n r k).lanterns = s.lanterns := rfl
@[simp] theorem State.setSig_si (s : State) (n r : Nat) (k : SigRun) : (s.setSig n r k).si = s.si := rfl
@[simp] theorem State.setSig_oq (s : State) (n r : Nat) (k : SigRun) : (s.setSig n r k).oq = s.oq := rfl
@[simp] theorem State.setSig_tx (s : State) (n r : Nat) (k : SigRun) : (s.setSig n r k).tx = s.tx := rfl
@[simp] theorem State.setSig_dict (s : State) (n r : Nat) (k : SigRun) : (s.setSig n r k).dict = s.dict := rfl
@[simp] theorem State.setSig_ic (s : State) (n r : Nat) (k : SigRun) : (s.setSig n r k).ic = s.ic := rfl
@[simp] theorem State.setSig_cv (s : State) (n r : Nat) (k : SigRun) : (s.setSig n r k).cv = s.cv := rfl
@[simp] theorem State.setSig_bl (s : State) (n r : Nat) (k : SigRun) : (s.setSig n r k).bl = s.bl := rfl
@[simp] theorem State.setSig_pm (s : State) (n r : Nat) (k : SigRun) : (s.setSig n r k).pm = s.pm := rfl
@[simp] theorem State.setSig_casc (s : State) (n r : Nat) (k : SigRun) : (s.setSig n r k).casc = s.casc := rfl
@[simp] theorem State.setSig_start (s : State) (n r : Nat) (k : SigRun) : (s.setSig n r k).start = s.start := rfl
@[simp] theorem State.setSig_therm (s : State) (n r : Nat) (k : SigRun) : (s.setSig n r k).therm = s.therm := rfl
@[simp] theorem State.setSig_safety (s : State) (n r : Nat) (k : SigRun) : (s.setSig n r k).safety = s.safety := rfl

/-! ### setLantern -/

@[simp] theorem State.setLantern_pending (s : State) (l : Nat) (x : Lantern) : (s.setLantern l x).pending = s.pending := rfl
@[simp] theorem State.setLantern_power (s : State) (l : Nat) (x : Lantern) : (s.setLantern l x).power = s.power := rfl
@[simp] theorem State.setLantern_aon (s : State) (l : Nat) (x : Lantern) : (s.setLantern l x).aon = s.aon := rfl
@[simp] theorem State.setLantern_tick (s : State) (l : Nat) (x : Lantern) : (s.setLantern l x).tick = s.tick := rfl
@[simp] theorem State.setLantern_corePhase (s : State) (l : Nat) (x : Lantern) : (s.setLantern l x).corePhase = s.corePhase := rfl
@[simp] theorem State.setLantern_fresh (s : State) (l : Nat) (x : Lantern) : (s.setLantern l x).fresh = s.fresh := rfl
@[simp] theorem State.setLantern_outbox (s : State) (l : Nat) (x : Lantern) : (s.setLantern l x).outbox = s.outbox := rfl
@[simp] theorem State.setLantern_reply (s : State) (l : Nat) (x : Lantern) : (s.setLantern l x).reply = s.reply := rfl
@[simp] theorem State.setLantern_regs (s : State) (l : Nat) (x : Lantern) : (s.setLantern l x).regs = s.regs := rfl
@[simp] theorem State.setLantern_held (s : State) (l : Nat) (x : Lantern) : (s.setLantern l x).held = s.held := rfl
@[simp] theorem State.setLantern_pendGroups (s : State) (l : Nat) (x : Lantern) : (s.setLantern l x).pendGroups = s.pendGroups := rfl
@[simp] theorem State.setLantern_items (s : State) (l : Nat) (x : Lantern) : (s.setLantern l x).items = s.items := rfl
@[simp] theorem State.setLantern_posted (s : State) (l : Nat) (x : Lantern) : (s.setLantern l x).posted = s.posted := rfl
@[simp] theorem State.setLantern_dropped (s : State) (l : Nat) (x : Lantern) : (s.setLantern l x).dropped = s.dropped := rfl
@[simp] theorem State.setLantern_mem (s : State) (l : Nat) (x : Lantern) : (s.setLantern l x).mem = s.mem := rfl
@[simp] theorem State.setLantern_wo1 (s : State) (l : Nat) (x : Lantern) : (s.setLantern l x).wo1 = s.wo1 := rfl
@[simp] theorem State.setLantern_lastReject (s : State) (l : Nat) (x : Lantern) : (s.setLantern l x).lastReject = s.lastReject := rfl
@[simp] theorem State.setLantern_hl (s : State) (l : Nat) (x : Lantern) : (s.setLantern l x).hl = s.hl := rfl
@[simp] theorem State.setLantern_heads (s : State) (l : Nat) (x : Lantern) : (s.setLantern l x).heads = s.heads := rfl
@[simp] theorem State.setLantern_groups (s : State) (l : Nat) (x : Lantern) : (s.setLantern l x).groups = s.groups := rfl
@[simp] theorem State.setLantern_flares (s : State) (l : Nat) (x : Lantern) : (s.setLantern l x).flares = s.flares := rfl
@[simp] theorem State.setLantern_sched (s : State) (l : Nat) (x : Lantern) : (s.setLantern l x).sched = s.sched := rfl
@[simp] theorem State.setLantern_fabric (s : State) (l : Nat) (x : Lantern) : (s.setLantern l x).fabric = s.fabric := rfl
@[simp] theorem State.setLantern_fa (s : State) (l : Nat) (x : Lantern) : (s.setLantern l x).fa = s.fa := rfl
@[simp] theorem State.setLantern_tap (s : State) (l : Nat) (x : Lantern) : (s.setLantern l x).tap = s.tap := rfl
@[simp] theorem State.setLantern_keep (s : State) (l : Nat) (x : Lantern) : (s.setLantern l x).keep = s.keep := rfl
@[simp] theorem State.setLantern_si (s : State) (l : Nat) (x : Lantern) : (s.setLantern l x).si = s.si := rfl
@[simp] theorem State.setLantern_oq (s : State) (l : Nat) (x : Lantern) : (s.setLantern l x).oq = s.oq := rfl
@[simp] theorem State.setLantern_tx (s : State) (l : Nat) (x : Lantern) : (s.setLantern l x).tx = s.tx := rfl
@[simp] theorem State.setLantern_dict (s : State) (l : Nat) (x : Lantern) : (s.setLantern l x).dict = s.dict := rfl
@[simp] theorem State.setLantern_ic (s : State) (l : Nat) (x : Lantern) : (s.setLantern l x).ic = s.ic := rfl
@[simp] theorem State.setLantern_cv (s : State) (l : Nat) (x : Lantern) : (s.setLantern l x).cv = s.cv := rfl
@[simp] theorem State.setLantern_bl (s : State) (l : Nat) (x : Lantern) : (s.setLantern l x).bl = s.bl := rfl
@[simp] theorem State.setLantern_pm (s : State) (l : Nat) (x : Lantern) : (s.setLantern l x).pm = s.pm := rfl
@[simp] theorem State.setLantern_casc (s : State) (l : Nat) (x : Lantern) : (s.setLantern l x).casc = s.casc := rfl
@[simp] theorem State.setLantern_start (s : State) (l : Nat) (x : Lantern) : (s.setLantern l x).start = s.start := rfl
@[simp] theorem State.setLantern_therm (s : State) (l : Nat) (x : Lantern) : (s.setLantern l x).therm = s.therm := rfl
@[simp] theorem State.setLantern_safety (s : State) (l : Nat) (x : Lantern) : (s.setLantern l x).safety = s.safety := rfl

/-! ### setStream -/

@[simp] theorem State.setStream_pending (s : State) (i : Nat) (x : Stream) : (s.setStream i x).pending = s.pending := rfl
@[simp] theorem State.setStream_power (s : State) (i : Nat) (x : Stream) : (s.setStream i x).power = s.power := rfl
@[simp] theorem State.setStream_aon (s : State) (i : Nat) (x : Stream) : (s.setStream i x).aon = s.aon := rfl
@[simp] theorem State.setStream_tick (s : State) (i : Nat) (x : Stream) : (s.setStream i x).tick = s.tick := rfl
@[simp] theorem State.setStream_corePhase (s : State) (i : Nat) (x : Stream) : (s.setStream i x).corePhase = s.corePhase := rfl
@[simp] theorem State.setStream_fresh (s : State) (i : Nat) (x : Stream) : (s.setStream i x).fresh = s.fresh := rfl
@[simp] theorem State.setStream_outbox (s : State) (i : Nat) (x : Stream) : (s.setStream i x).outbox = s.outbox := rfl
@[simp] theorem State.setStream_reply (s : State) (i : Nat) (x : Stream) : (s.setStream i x).reply = s.reply := rfl
@[simp] theorem State.setStream_regs (s : State) (i : Nat) (x : Stream) : (s.setStream i x).regs = s.regs := rfl
@[simp] theorem State.setStream_held (s : State) (i : Nat) (x : Stream) : (s.setStream i x).held = s.held := rfl
@[simp] theorem State.setStream_pendGroups (s : State) (i : Nat) (x : Stream) : (s.setStream i x).pendGroups = s.pendGroups := rfl
@[simp] theorem State.setStream_items (s : State) (i : Nat) (x : Stream) : (s.setStream i x).items = s.items := rfl
@[simp] theorem State.setStream_posted (s : State) (i : Nat) (x : Stream) : (s.setStream i x).posted = s.posted := rfl
@[simp] theorem State.setStream_dropped (s : State) (i : Nat) (x : Stream) : (s.setStream i x).dropped = s.dropped := rfl
@[simp] theorem State.setStream_mem (s : State) (i : Nat) (x : Stream) : (s.setStream i x).mem = s.mem := rfl
@[simp] theorem State.setStream_wo1 (s : State) (i : Nat) (x : Stream) : (s.setStream i x).wo1 = s.wo1 := rfl
@[simp] theorem State.setStream_lastReject (s : State) (i : Nat) (x : Stream) : (s.setStream i x).lastReject = s.lastReject := rfl
@[simp] theorem State.setStream_hl (s : State) (i : Nat) (x : Stream) : (s.setStream i x).hl = s.hl := rfl
@[simp] theorem State.setStream_heads (s : State) (i : Nat) (x : Stream) : (s.setStream i x).heads = s.heads := rfl
@[simp] theorem State.setStream_groups (s : State) (i : Nat) (x : Stream) : (s.setStream i x).groups = s.groups := rfl
@[simp] theorem State.setStream_flares (s : State) (i : Nat) (x : Stream) : (s.setStream i x).flares = s.flares := rfl
@[simp] theorem State.setStream_sched (s : State) (i : Nat) (x : Stream) : (s.setStream i x).sched = s.sched := rfl
@[simp] theorem State.setStream_fabric (s : State) (i : Nat) (x : Stream) : (s.setStream i x).fabric = s.fabric := rfl
@[simp] theorem State.setStream_fa (s : State) (i : Nat) (x : Stream) : (s.setStream i x).fa = s.fa := rfl
@[simp] theorem State.setStream_tap (s : State) (i : Nat) (x : Stream) : (s.setStream i x).tap = s.tap := rfl
@[simp] theorem State.setStream_keep (s : State) (i : Nat) (x : Stream) : (s.setStream i x).keep = s.keep := rfl
@[simp] theorem State.setStream_lanterns (s : State) (i : Nat) (x : Stream) : (s.setStream i x).lanterns = s.lanterns := rfl
@[simp] theorem State.setStream_oq (s : State) (i : Nat) (x : Stream) : (s.setStream i x).oq = s.oq := rfl
@[simp] theorem State.setStream_tx (s : State) (i : Nat) (x : Stream) : (s.setStream i x).tx = s.tx := rfl
@[simp] theorem State.setStream_dict (s : State) (i : Nat) (x : Stream) : (s.setStream i x).dict = s.dict := rfl
@[simp] theorem State.setStream_ic (s : State) (i : Nat) (x : Stream) : (s.setStream i x).ic = s.ic := rfl
@[simp] theorem State.setStream_cv (s : State) (i : Nat) (x : Stream) : (s.setStream i x).cv = s.cv := rfl
@[simp] theorem State.setStream_bl (s : State) (i : Nat) (x : Stream) : (s.setStream i x).bl = s.bl := rfl
@[simp] theorem State.setStream_pm (s : State) (i : Nat) (x : Stream) : (s.setStream i x).pm = s.pm := rfl
@[simp] theorem State.setStream_casc (s : State) (i : Nat) (x : Stream) : (s.setStream i x).casc = s.casc := rfl
@[simp] theorem State.setStream_start (s : State) (i : Nat) (x : Stream) : (s.setStream i x).start = s.start := rfl
@[simp] theorem State.setStream_therm (s : State) (i : Nat) (x : Stream) : (s.setStream i x).therm = s.therm := rfl
@[simp] theorem State.setStream_safety (s : State) (i : Nat) (x : Stream) : (s.setStream i x).safety = s.safety := rfl

/-! ### setRx -/

@[simp] theorem State.setRx_pending (s : State) (p : Nat) (x : RxPort) : (s.setRx p x).pending = s.pending := rfl
@[simp] theorem State.setRx_power (s : State) (p : Nat) (x : RxPort) : (s.setRx p x).power = s.power := rfl
@[simp] theorem State.setRx_aon (s : State) (p : Nat) (x : RxPort) : (s.setRx p x).aon = s.aon := rfl
@[simp] theorem State.setRx_tick (s : State) (p : Nat) (x : RxPort) : (s.setRx p x).tick = s.tick := rfl
@[simp] theorem State.setRx_corePhase (s : State) (p : Nat) (x : RxPort) : (s.setRx p x).corePhase = s.corePhase := rfl
@[simp] theorem State.setRx_fresh (s : State) (p : Nat) (x : RxPort) : (s.setRx p x).fresh = s.fresh := rfl
@[simp] theorem State.setRx_outbox (s : State) (p : Nat) (x : RxPort) : (s.setRx p x).outbox = s.outbox := rfl
@[simp] theorem State.setRx_reply (s : State) (p : Nat) (x : RxPort) : (s.setRx p x).reply = s.reply := rfl
@[simp] theorem State.setRx_regs (s : State) (p : Nat) (x : RxPort) : (s.setRx p x).regs = s.regs := rfl
@[simp] theorem State.setRx_held (s : State) (p : Nat) (x : RxPort) : (s.setRx p x).held = s.held := rfl
@[simp] theorem State.setRx_pendGroups (s : State) (p : Nat) (x : RxPort) : (s.setRx p x).pendGroups = s.pendGroups := rfl
@[simp] theorem State.setRx_items (s : State) (p : Nat) (x : RxPort) : (s.setRx p x).items = s.items := rfl
@[simp] theorem State.setRx_posted (s : State) (p : Nat) (x : RxPort) : (s.setRx p x).posted = s.posted := rfl
@[simp] theorem State.setRx_dropped (s : State) (p : Nat) (x : RxPort) : (s.setRx p x).dropped = s.dropped := rfl
@[simp] theorem State.setRx_mem (s : State) (p : Nat) (x : RxPort) : (s.setRx p x).mem = s.mem := rfl
@[simp] theorem State.setRx_wo1 (s : State) (p : Nat) (x : RxPort) : (s.setRx p x).wo1 = s.wo1 := rfl
@[simp] theorem State.setRx_lastReject (s : State) (p : Nat) (x : RxPort) : (s.setRx p x).lastReject = s.lastReject := rfl
@[simp] theorem State.setRx_hl (s : State) (p : Nat) (x : RxPort) : (s.setRx p x).hl = s.hl := rfl
@[simp] theorem State.setRx_heads (s : State) (p : Nat) (x : RxPort) : (s.setRx p x).heads = s.heads := rfl
@[simp] theorem State.setRx_groups (s : State) (p : Nat) (x : RxPort) : (s.setRx p x).groups = s.groups := rfl
@[simp] theorem State.setRx_flares (s : State) (p : Nat) (x : RxPort) : (s.setRx p x).flares = s.flares := rfl
@[simp] theorem State.setRx_sched (s : State) (p : Nat) (x : RxPort) : (s.setRx p x).sched = s.sched := rfl
@[simp] theorem State.setRx_fabric (s : State) (p : Nat) (x : RxPort) : (s.setRx p x).fabric = s.fabric := rfl
@[simp] theorem State.setRx_fa (s : State) (p : Nat) (x : RxPort) : (s.setRx p x).fa = s.fa := rfl
@[simp] theorem State.setRx_tap (s : State) (p : Nat) (x : RxPort) : (s.setRx p x).tap = s.tap := rfl
@[simp] theorem State.setRx_keep (s : State) (p : Nat) (x : RxPort) : (s.setRx p x).keep = s.keep := rfl
@[simp] theorem State.setRx_lanterns (s : State) (p : Nat) (x : RxPort) : (s.setRx p x).lanterns = s.lanterns := rfl
@[simp] theorem State.setRx_oq (s : State) (p : Nat) (x : RxPort) : (s.setRx p x).oq = s.oq := rfl
@[simp] theorem State.setRx_tx (s : State) (p : Nat) (x : RxPort) : (s.setRx p x).tx = s.tx := rfl
@[simp] theorem State.setRx_dict (s : State) (p : Nat) (x : RxPort) : (s.setRx p x).dict = s.dict := rfl
@[simp] theorem State.setRx_ic (s : State) (p : Nat) (x : RxPort) : (s.setRx p x).ic = s.ic := rfl
@[simp] theorem State.setRx_cv (s : State) (p : Nat) (x : RxPort) : (s.setRx p x).cv = s.cv := rfl
@[simp] theorem State.setRx_bl (s : State) (p : Nat) (x : RxPort) : (s.setRx p x).bl = s.bl := rfl
@[simp] theorem State.setRx_pm (s : State) (p : Nat) (x : RxPort) : (s.setRx p x).pm = s.pm := rfl
@[simp] theorem State.setRx_casc (s : State) (p : Nat) (x : RxPort) : (s.setRx p x).casc = s.casc := rfl
@[simp] theorem State.setRx_start (s : State) (p : Nat) (x : RxPort) : (s.setRx p x).start = s.start := rfl
@[simp] theorem State.setRx_therm (s : State) (p : Nat) (x : RxPort) : (s.setRx p x).therm = s.therm := rfl
@[simp] theorem State.setRx_safety (s : State) (p : Nat) (x : RxPort) : (s.setRx p x).safety = s.safety := rfl

/-! ### setRace -/

@[simp] theorem State.setRace_pending (s : State) (n : Nat) (x : Race) : (s.setRace n x).pending = s.pending := rfl
@[simp] theorem State.setRace_power (s : State) (n : Nat) (x : Race) : (s.setRace n x).power = s.power := rfl
@[simp] theorem State.setRace_aon (s : State) (n : Nat) (x : Race) : (s.setRace n x).aon = s.aon := rfl
@[simp] theorem State.setRace_tick (s : State) (n : Nat) (x : Race) : (s.setRace n x).tick = s.tick := rfl
@[simp] theorem State.setRace_corePhase (s : State) (n : Nat) (x : Race) : (s.setRace n x).corePhase = s.corePhase := rfl
@[simp] theorem State.setRace_fresh (s : State) (n : Nat) (x : Race) : (s.setRace n x).fresh = s.fresh := rfl
@[simp] theorem State.setRace_outbox (s : State) (n : Nat) (x : Race) : (s.setRace n x).outbox = s.outbox := rfl
@[simp] theorem State.setRace_reply (s : State) (n : Nat) (x : Race) : (s.setRace n x).reply = s.reply := rfl
@[simp] theorem State.setRace_regs (s : State) (n : Nat) (x : Race) : (s.setRace n x).regs = s.regs := rfl
@[simp] theorem State.setRace_held (s : State) (n : Nat) (x : Race) : (s.setRace n x).held = s.held := rfl
@[simp] theorem State.setRace_pendGroups (s : State) (n : Nat) (x : Race) : (s.setRace n x).pendGroups = s.pendGroups := rfl
@[simp] theorem State.setRace_items (s : State) (n : Nat) (x : Race) : (s.setRace n x).items = s.items := rfl
@[simp] theorem State.setRace_posted (s : State) (n : Nat) (x : Race) : (s.setRace n x).posted = s.posted := rfl
@[simp] theorem State.setRace_dropped (s : State) (n : Nat) (x : Race) : (s.setRace n x).dropped = s.dropped := rfl
@[simp] theorem State.setRace_mem (s : State) (n : Nat) (x : Race) : (s.setRace n x).mem = s.mem := rfl
@[simp] theorem State.setRace_wo1 (s : State) (n : Nat) (x : Race) : (s.setRace n x).wo1 = s.wo1 := rfl
@[simp] theorem State.setRace_lastReject (s : State) (n : Nat) (x : Race) : (s.setRace n x).lastReject = s.lastReject := rfl
@[simp] theorem State.setRace_hl (s : State) (n : Nat) (x : Race) : (s.setRace n x).hl = s.hl := rfl
@[simp] theorem State.setRace_heads (s : State) (n : Nat) (x : Race) : (s.setRace n x).heads = s.heads := rfl
@[simp] theorem State.setRace_groups (s : State) (n : Nat) (x : Race) : (s.setRace n x).groups = s.groups := rfl
@[simp] theorem State.setRace_flares (s : State) (n : Nat) (x : Race) : (s.setRace n x).flares = s.flares := rfl
@[simp] theorem State.setRace_sched (s : State) (n : Nat) (x : Race) : (s.setRace n x).sched = s.sched := rfl
@[simp] theorem State.setRace_fabric (s : State) (n : Nat) (x : Race) : (s.setRace n x).fabric = s.fabric := rfl
@[simp] theorem State.setRace_fa (s : State) (n : Nat) (x : Race) : (s.setRace n x).fa = s.fa := rfl
@[simp] theorem State.setRace_tap (s : State) (n : Nat) (x : Race) : (s.setRace n x).tap = s.tap := rfl
@[simp] theorem State.setRace_keep (s : State) (n : Nat) (x : Race) : (s.setRace n x).keep = s.keep := rfl
@[simp] theorem State.setRace_lanterns (s : State) (n : Nat) (x : Race) : (s.setRace n x).lanterns = s.lanterns := rfl
@[simp] theorem State.setRace_oq (s : State) (n : Nat) (x : Race) : (s.setRace n x).oq = s.oq := rfl
@[simp] theorem State.setRace_tx (s : State) (n : Nat) (x : Race) : (s.setRace n x).tx = s.tx := rfl
@[simp] theorem State.setRace_dict (s : State) (n : Nat) (x : Race) : (s.setRace n x).dict = s.dict := rfl
@[simp] theorem State.setRace_ic (s : State) (n : Nat) (x : Race) : (s.setRace n x).ic = s.ic := rfl
@[simp] theorem State.setRace_cv (s : State) (n : Nat) (x : Race) : (s.setRace n x).cv = s.cv := rfl
@[simp] theorem State.setRace_bl (s : State) (n : Nat) (x : Race) : (s.setRace n x).bl = s.bl := rfl
@[simp] theorem State.setRace_pm (s : State) (n : Nat) (x : Race) : (s.setRace n x).pm = s.pm := rfl
@[simp] theorem State.setRace_casc (s : State) (n : Nat) (x : Race) : (s.setRace n x).casc = s.casc := rfl
@[simp] theorem State.setRace_start (s : State) (n : Nat) (x : Race) : (s.setRace n x).start = s.start := rfl
@[simp] theorem State.setRace_therm (s : State) (n : Nat) (x : Race) : (s.setRace n x).therm = s.therm := rfl
@[simp] theorem State.setRace_safety (s : State) (n : Nat) (x : Race) : (s.setRace n x).safety = s.safety := rfl

/-! ### setTxPort -/

@[simp] theorem State.setTxPort_pending (s : State) (q t : Nat) (x : TxPort) : (s.setTxPort q t x).pending = s.pending := rfl
@[simp] theorem State.setTxPort_power (s : State) (q t : Nat) (x : TxPort) : (s.setTxPort q t x).power = s.power := rfl
@[simp] theorem State.setTxPort_aon (s : State) (q t : Nat) (x : TxPort) : (s.setTxPort q t x).aon = s.aon := rfl
@[simp] theorem State.setTxPort_tick (s : State) (q t : Nat) (x : TxPort) : (s.setTxPort q t x).tick = s.tick := rfl
@[simp] theorem State.setTxPort_corePhase (s : State) (q t : Nat) (x : TxPort) : (s.setTxPort q t x).corePhase = s.corePhase := rfl
@[simp] theorem State.setTxPort_fresh (s : State) (q t : Nat) (x : TxPort) : (s.setTxPort q t x).fresh = s.fresh := rfl
@[simp] theorem State.setTxPort_outbox (s : State) (q t : Nat) (x : TxPort) : (s.setTxPort q t x).outbox = s.outbox := rfl
@[simp] theorem State.setTxPort_reply (s : State) (q t : Nat) (x : TxPort) : (s.setTxPort q t x).reply = s.reply := rfl
@[simp] theorem State.setTxPort_regs (s : State) (q t : Nat) (x : TxPort) : (s.setTxPort q t x).regs = s.regs := rfl
@[simp] theorem State.setTxPort_held (s : State) (q t : Nat) (x : TxPort) : (s.setTxPort q t x).held = s.held := rfl
@[simp] theorem State.setTxPort_pendGroups (s : State) (q t : Nat) (x : TxPort) : (s.setTxPort q t x).pendGroups = s.pendGroups := rfl
@[simp] theorem State.setTxPort_items (s : State) (q t : Nat) (x : TxPort) : (s.setTxPort q t x).items = s.items := rfl
@[simp] theorem State.setTxPort_posted (s : State) (q t : Nat) (x : TxPort) : (s.setTxPort q t x).posted = s.posted := rfl
@[simp] theorem State.setTxPort_dropped (s : State) (q t : Nat) (x : TxPort) : (s.setTxPort q t x).dropped = s.dropped := rfl
@[simp] theorem State.setTxPort_mem (s : State) (q t : Nat) (x : TxPort) : (s.setTxPort q t x).mem = s.mem := rfl
@[simp] theorem State.setTxPort_wo1 (s : State) (q t : Nat) (x : TxPort) : (s.setTxPort q t x).wo1 = s.wo1 := rfl
@[simp] theorem State.setTxPort_lastReject (s : State) (q t : Nat) (x : TxPort) : (s.setTxPort q t x).lastReject = s.lastReject := rfl
@[simp] theorem State.setTxPort_hl (s : State) (q t : Nat) (x : TxPort) : (s.setTxPort q t x).hl = s.hl := rfl
@[simp] theorem State.setTxPort_heads (s : State) (q t : Nat) (x : TxPort) : (s.setTxPort q t x).heads = s.heads := rfl
@[simp] theorem State.setTxPort_groups (s : State) (q t : Nat) (x : TxPort) : (s.setTxPort q t x).groups = s.groups := rfl
@[simp] theorem State.setTxPort_flares (s : State) (q t : Nat) (x : TxPort) : (s.setTxPort q t x).flares = s.flares := rfl
@[simp] theorem State.setTxPort_sched (s : State) (q t : Nat) (x : TxPort) : (s.setTxPort q t x).sched = s.sched := rfl
@[simp] theorem State.setTxPort_fabric (s : State) (q t : Nat) (x : TxPort) : (s.setTxPort q t x).fabric = s.fabric := rfl
@[simp] theorem State.setTxPort_fa (s : State) (q t : Nat) (x : TxPort) : (s.setTxPort q t x).fa = s.fa := rfl
@[simp] theorem State.setTxPort_tap (s : State) (q t : Nat) (x : TxPort) : (s.setTxPort q t x).tap = s.tap := rfl
@[simp] theorem State.setTxPort_keep (s : State) (q t : Nat) (x : TxPort) : (s.setTxPort q t x).keep = s.keep := rfl
@[simp] theorem State.setTxPort_lanterns (s : State) (q t : Nat) (x : TxPort) : (s.setTxPort q t x).lanterns = s.lanterns := rfl
@[simp] theorem State.setTxPort_si (s : State) (q t : Nat) (x : TxPort) : (s.setTxPort q t x).si = s.si := rfl
@[simp] theorem State.setTxPort_tx (s : State) (q t : Nat) (x : TxPort) : (s.setTxPort q t x).tx = s.tx := rfl
@[simp] theorem State.setTxPort_dict (s : State) (q t : Nat) (x : TxPort) : (s.setTxPort q t x).dict = s.dict := rfl
@[simp] theorem State.setTxPort_ic (s : State) (q t : Nat) (x : TxPort) : (s.setTxPort q t x).ic = s.ic := rfl
@[simp] theorem State.setTxPort_cv (s : State) (q t : Nat) (x : TxPort) : (s.setTxPort q t x).cv = s.cv := rfl
@[simp] theorem State.setTxPort_bl (s : State) (q t : Nat) (x : TxPort) : (s.setTxPort q t x).bl = s.bl := rfl
@[simp] theorem State.setTxPort_pm (s : State) (q t : Nat) (x : TxPort) : (s.setTxPort q t x).pm = s.pm := rfl
@[simp] theorem State.setTxPort_casc (s : State) (q t : Nat) (x : TxPort) : (s.setTxPort q t x).casc = s.casc := rfl
@[simp] theorem State.setTxPort_start (s : State) (q t : Nat) (x : TxPort) : (s.setTxPort q t x).start = s.start := rfl
@[simp] theorem State.setTxPort_therm (s : State) (q t : Nat) (x : TxPort) : (s.setTxPort q t x).therm = s.therm := rfl
@[simp] theorem State.setTxPort_safety (s : State) (q t : Nat) (x : TxPort) : (s.setTxPort q t x).safety = s.safety := rfl

/-! ### setEgress -/

@[simp] theorem State.setEgress_pending (s : State) (e : Nat) (x : Egress) : (s.setEgress e x).pending = s.pending := rfl
@[simp] theorem State.setEgress_power (s : State) (e : Nat) (x : Egress) : (s.setEgress e x).power = s.power := rfl
@[simp] theorem State.setEgress_aon (s : State) (e : Nat) (x : Egress) : (s.setEgress e x).aon = s.aon := rfl
@[simp] theorem State.setEgress_tick (s : State) (e : Nat) (x : Egress) : (s.setEgress e x).tick = s.tick := rfl
@[simp] theorem State.setEgress_corePhase (s : State) (e : Nat) (x : Egress) : (s.setEgress e x).corePhase = s.corePhase := rfl
@[simp] theorem State.setEgress_fresh (s : State) (e : Nat) (x : Egress) : (s.setEgress e x).fresh = s.fresh := rfl
@[simp] theorem State.setEgress_outbox (s : State) (e : Nat) (x : Egress) : (s.setEgress e x).outbox = s.outbox := rfl
@[simp] theorem State.setEgress_reply (s : State) (e : Nat) (x : Egress) : (s.setEgress e x).reply = s.reply := rfl
@[simp] theorem State.setEgress_regs (s : State) (e : Nat) (x : Egress) : (s.setEgress e x).regs = s.regs := rfl
@[simp] theorem State.setEgress_held (s : State) (e : Nat) (x : Egress) : (s.setEgress e x).held = s.held := rfl
@[simp] theorem State.setEgress_pendGroups (s : State) (e : Nat) (x : Egress) : (s.setEgress e x).pendGroups = s.pendGroups := rfl
@[simp] theorem State.setEgress_items (s : State) (e : Nat) (x : Egress) : (s.setEgress e x).items = s.items := rfl
@[simp] theorem State.setEgress_posted (s : State) (e : Nat) (x : Egress) : (s.setEgress e x).posted = s.posted := rfl
@[simp] theorem State.setEgress_dropped (s : State) (e : Nat) (x : Egress) : (s.setEgress e x).dropped = s.dropped := rfl
@[simp] theorem State.setEgress_mem (s : State) (e : Nat) (x : Egress) : (s.setEgress e x).mem = s.mem := rfl
@[simp] theorem State.setEgress_wo1 (s : State) (e : Nat) (x : Egress) : (s.setEgress e x).wo1 = s.wo1 := rfl
@[simp] theorem State.setEgress_lastReject (s : State) (e : Nat) (x : Egress) : (s.setEgress e x).lastReject = s.lastReject := rfl
@[simp] theorem State.setEgress_hl (s : State) (e : Nat) (x : Egress) : (s.setEgress e x).hl = s.hl := rfl
@[simp] theorem State.setEgress_heads (s : State) (e : Nat) (x : Egress) : (s.setEgress e x).heads = s.heads := rfl
@[simp] theorem State.setEgress_groups (s : State) (e : Nat) (x : Egress) : (s.setEgress e x).groups = s.groups := rfl
@[simp] theorem State.setEgress_flares (s : State) (e : Nat) (x : Egress) : (s.setEgress e x).flares = s.flares := rfl
@[simp] theorem State.setEgress_sched (s : State) (e : Nat) (x : Egress) : (s.setEgress e x).sched = s.sched := rfl
@[simp] theorem State.setEgress_fabric (s : State) (e : Nat) (x : Egress) : (s.setEgress e x).fabric = s.fabric := rfl
@[simp] theorem State.setEgress_fa (s : State) (e : Nat) (x : Egress) : (s.setEgress e x).fa = s.fa := rfl
@[simp] theorem State.setEgress_tap (s : State) (e : Nat) (x : Egress) : (s.setEgress e x).tap = s.tap := rfl
@[simp] theorem State.setEgress_keep (s : State) (e : Nat) (x : Egress) : (s.setEgress e x).keep = s.keep := rfl
@[simp] theorem State.setEgress_lanterns (s : State) (e : Nat) (x : Egress) : (s.setEgress e x).lanterns = s.lanterns := rfl
@[simp] theorem State.setEgress_si (s : State) (e : Nat) (x : Egress) : (s.setEgress e x).si = s.si := rfl
@[simp] theorem State.setEgress_tx (s : State) (e : Nat) (x : Egress) : (s.setEgress e x).tx = s.tx := rfl
@[simp] theorem State.setEgress_dict (s : State) (e : Nat) (x : Egress) : (s.setEgress e x).dict = s.dict := rfl
@[simp] theorem State.setEgress_ic (s : State) (e : Nat) (x : Egress) : (s.setEgress e x).ic = s.ic := rfl
@[simp] theorem State.setEgress_cv (s : State) (e : Nat) (x : Egress) : (s.setEgress e x).cv = s.cv := rfl
@[simp] theorem State.setEgress_bl (s : State) (e : Nat) (x : Egress) : (s.setEgress e x).bl = s.bl := rfl
@[simp] theorem State.setEgress_pm (s : State) (e : Nat) (x : Egress) : (s.setEgress e x).pm = s.pm := rfl
@[simp] theorem State.setEgress_casc (s : State) (e : Nat) (x : Egress) : (s.setEgress e x).casc = s.casc := rfl
@[simp] theorem State.setEgress_start (s : State) (e : Nat) (x : Egress) : (s.setEgress e x).start = s.start := rfl
@[simp] theorem State.setEgress_therm (s : State) (e : Nat) (x : Egress) : (s.setEgress e x).therm = s.therm := rfl
@[simp] theorem State.setEgress_safety (s : State) (e : Nat) (x : Egress) : (s.setEgress e x).safety = s.safety := rfl

/-! ### setTicket -/

@[simp] theorem State.setTicket_pending (s : State) (t : Nat) (x : Ticket) : (s.setTicket t x).pending = s.pending := rfl
@[simp] theorem State.setTicket_power (s : State) (t : Nat) (x : Ticket) : (s.setTicket t x).power = s.power := rfl
@[simp] theorem State.setTicket_aon (s : State) (t : Nat) (x : Ticket) : (s.setTicket t x).aon = s.aon := rfl
@[simp] theorem State.setTicket_tick (s : State) (t : Nat) (x : Ticket) : (s.setTicket t x).tick = s.tick := rfl
@[simp] theorem State.setTicket_corePhase (s : State) (t : Nat) (x : Ticket) : (s.setTicket t x).corePhase = s.corePhase := rfl
@[simp] theorem State.setTicket_fresh (s : State) (t : Nat) (x : Ticket) : (s.setTicket t x).fresh = s.fresh := rfl
@[simp] theorem State.setTicket_outbox (s : State) (t : Nat) (x : Ticket) : (s.setTicket t x).outbox = s.outbox := rfl
@[simp] theorem State.setTicket_reply (s : State) (t : Nat) (x : Ticket) : (s.setTicket t x).reply = s.reply := rfl
@[simp] theorem State.setTicket_regs (s : State) (t : Nat) (x : Ticket) : (s.setTicket t x).regs = s.regs := rfl
@[simp] theorem State.setTicket_held (s : State) (t : Nat) (x : Ticket) : (s.setTicket t x).held = s.held := rfl
@[simp] theorem State.setTicket_pendGroups (s : State) (t : Nat) (x : Ticket) : (s.setTicket t x).pendGroups = s.pendGroups := rfl
@[simp] theorem State.setTicket_items (s : State) (t : Nat) (x : Ticket) : (s.setTicket t x).items = s.items := rfl
@[simp] theorem State.setTicket_posted (s : State) (t : Nat) (x : Ticket) : (s.setTicket t x).posted = s.posted := rfl
@[simp] theorem State.setTicket_dropped (s : State) (t : Nat) (x : Ticket) : (s.setTicket t x).dropped = s.dropped := rfl
@[simp] theorem State.setTicket_mem (s : State) (t : Nat) (x : Ticket) : (s.setTicket t x).mem = s.mem := rfl
@[simp] theorem State.setTicket_wo1 (s : State) (t : Nat) (x : Ticket) : (s.setTicket t x).wo1 = s.wo1 := rfl
@[simp] theorem State.setTicket_lastReject (s : State) (t : Nat) (x : Ticket) : (s.setTicket t x).lastReject = s.lastReject := rfl
@[simp] theorem State.setTicket_hl (s : State) (t : Nat) (x : Ticket) : (s.setTicket t x).hl = s.hl := rfl
@[simp] theorem State.setTicket_heads (s : State) (t : Nat) (x : Ticket) : (s.setTicket t x).heads = s.heads := rfl
@[simp] theorem State.setTicket_groups (s : State) (t : Nat) (x : Ticket) : (s.setTicket t x).groups = s.groups := rfl
@[simp] theorem State.setTicket_flares (s : State) (t : Nat) (x : Ticket) : (s.setTicket t x).flares = s.flares := rfl
@[simp] theorem State.setTicket_sched (s : State) (t : Nat) (x : Ticket) : (s.setTicket t x).sched = s.sched := rfl
@[simp] theorem State.setTicket_fabric (s : State) (t : Nat) (x : Ticket) : (s.setTicket t x).fabric = s.fabric := rfl
@[simp] theorem State.setTicket_fa (s : State) (t : Nat) (x : Ticket) : (s.setTicket t x).fa = s.fa := rfl
@[simp] theorem State.setTicket_tap (s : State) (t : Nat) (x : Ticket) : (s.setTicket t x).tap = s.tap := rfl
@[simp] theorem State.setTicket_keep (s : State) (t : Nat) (x : Ticket) : (s.setTicket t x).keep = s.keep := rfl
@[simp] theorem State.setTicket_lanterns (s : State) (t : Nat) (x : Ticket) : (s.setTicket t x).lanterns = s.lanterns := rfl
@[simp] theorem State.setTicket_si (s : State) (t : Nat) (x : Ticket) : (s.setTicket t x).si = s.si := rfl
@[simp] theorem State.setTicket_oq (s : State) (t : Nat) (x : Ticket) : (s.setTicket t x).oq = s.oq := rfl
@[simp] theorem State.setTicket_dict (s : State) (t : Nat) (x : Ticket) : (s.setTicket t x).dict = s.dict := rfl
@[simp] theorem State.setTicket_ic (s : State) (t : Nat) (x : Ticket) : (s.setTicket t x).ic = s.ic := rfl
@[simp] theorem State.setTicket_cv (s : State) (t : Nat) (x : Ticket) : (s.setTicket t x).cv = s.cv := rfl
@[simp] theorem State.setTicket_bl (s : State) (t : Nat) (x : Ticket) : (s.setTicket t x).bl = s.bl := rfl
@[simp] theorem State.setTicket_pm (s : State) (t : Nat) (x : Ticket) : (s.setTicket t x).pm = s.pm := rfl
@[simp] theorem State.setTicket_casc (s : State) (t : Nat) (x : Ticket) : (s.setTicket t x).casc = s.casc := rfl
@[simp] theorem State.setTicket_start (s : State) (t : Nat) (x : Ticket) : (s.setTicket t x).start = s.start := rfl
@[simp] theorem State.setTicket_therm (s : State) (t : Nat) (x : Ticket) : (s.setTicket t x).therm = s.therm := rfl
@[simp] theorem State.setTicket_safety (s : State) (t : Nat) (x : Ticket) : (s.setTicket t x).safety = s.safety := rfl

/-! ### setWin -/

@[simp] theorem State.setWin_pending (s : State) (f : Nat) (x : Win) : (s.setWin f x).pending = s.pending := rfl
@[simp] theorem State.setWin_power (s : State) (f : Nat) (x : Win) : (s.setWin f x).power = s.power := rfl
@[simp] theorem State.setWin_aon (s : State) (f : Nat) (x : Win) : (s.setWin f x).aon = s.aon := rfl
@[simp] theorem State.setWin_tick (s : State) (f : Nat) (x : Win) : (s.setWin f x).tick = s.tick := rfl
@[simp] theorem State.setWin_corePhase (s : State) (f : Nat) (x : Win) : (s.setWin f x).corePhase = s.corePhase := rfl
@[simp] theorem State.setWin_fresh (s : State) (f : Nat) (x : Win) : (s.setWin f x).fresh = s.fresh := rfl
@[simp] theorem State.setWin_outbox (s : State) (f : Nat) (x : Win) : (s.setWin f x).outbox = s.outbox := rfl
@[simp] theorem State.setWin_reply (s : State) (f : Nat) (x : Win) : (s.setWin f x).reply = s.reply := rfl
@[simp] theorem State.setWin_regs (s : State) (f : Nat) (x : Win) : (s.setWin f x).regs = s.regs := rfl
@[simp] theorem State.setWin_held (s : State) (f : Nat) (x : Win) : (s.setWin f x).held = s.held := rfl
@[simp] theorem State.setWin_pendGroups (s : State) (f : Nat) (x : Win) : (s.setWin f x).pendGroups = s.pendGroups := rfl
@[simp] theorem State.setWin_items (s : State) (f : Nat) (x : Win) : (s.setWin f x).items = s.items := rfl
@[simp] theorem State.setWin_posted (s : State) (f : Nat) (x : Win) : (s.setWin f x).posted = s.posted := rfl
@[simp] theorem State.setWin_dropped (s : State) (f : Nat) (x : Win) : (s.setWin f x).dropped = s.dropped := rfl
@[simp] theorem State.setWin_mem (s : State) (f : Nat) (x : Win) : (s.setWin f x).mem = s.mem := rfl
@[simp] theorem State.setWin_wo1 (s : State) (f : Nat) (x : Win) : (s.setWin f x).wo1 = s.wo1 := rfl
@[simp] theorem State.setWin_lastReject (s : State) (f : Nat) (x : Win) : (s.setWin f x).lastReject = s.lastReject := rfl
@[simp] theorem State.setWin_hl (s : State) (f : Nat) (x : Win) : (s.setWin f x).hl = s.hl := rfl
@[simp] theorem State.setWin_heads (s : State) (f : Nat) (x : Win) : (s.setWin f x).heads = s.heads := rfl
@[simp] theorem State.setWin_groups (s : State) (f : Nat) (x : Win) : (s.setWin f x).groups = s.groups := rfl
@[simp] theorem State.setWin_flares (s : State) (f : Nat) (x : Win) : (s.setWin f x).flares = s.flares := rfl
@[simp] theorem State.setWin_sched (s : State) (f : Nat) (x : Win) : (s.setWin f x).sched = s.sched := rfl
@[simp] theorem State.setWin_fabric (s : State) (f : Nat) (x : Win) : (s.setWin f x).fabric = s.fabric := rfl
@[simp] theorem State.setWin_fa (s : State) (f : Nat) (x : Win) : (s.setWin f x).fa = s.fa := rfl
@[simp] theorem State.setWin_tap (s : State) (f : Nat) (x : Win) : (s.setWin f x).tap = s.tap := rfl
@[simp] theorem State.setWin_keep (s : State) (f : Nat) (x : Win) : (s.setWin f x).keep = s.keep := rfl
@[simp] theorem State.setWin_lanterns (s : State) (f : Nat) (x : Win) : (s.setWin f x).lanterns = s.lanterns := rfl
@[simp] theorem State.setWin_si (s : State) (f : Nat) (x : Win) : (s.setWin f x).si = s.si := rfl
@[simp] theorem State.setWin_oq (s : State) (f : Nat) (x : Win) : (s.setWin f x).oq = s.oq := rfl
@[simp] theorem State.setWin_tx (s : State) (f : Nat) (x : Win) : (s.setWin f x).tx = s.tx := rfl
@[simp] theorem State.setWin_ic (s : State) (f : Nat) (x : Win) : (s.setWin f x).ic = s.ic := rfl
@[simp] theorem State.setWin_cv (s : State) (f : Nat) (x : Win) : (s.setWin f x).cv = s.cv := rfl
@[simp] theorem State.setWin_bl (s : State) (f : Nat) (x : Win) : (s.setWin f x).bl = s.bl := rfl
@[simp] theorem State.setWin_pm (s : State) (f : Nat) (x : Win) : (s.setWin f x).pm = s.pm := rfl
@[simp] theorem State.setWin_casc (s : State) (f : Nat) (x : Win) : (s.setWin f x).casc = s.casc := rfl
@[simp] theorem State.setWin_start (s : State) (f : Nat) (x : Win) : (s.setWin f x).start = s.start := rfl
@[simp] theorem State.setWin_therm (s : State) (f : Nat) (x : Win) : (s.setWin f x).therm = s.therm := rfl
@[simp] theorem State.setWin_safety (s : State) (f : Nat) (x : Win) : (s.setWin f x).safety = s.safety := rfl

/-! ### setTarget -/

@[simp] theorem State.setTarget_pending (s : State) (t : Nat) (x : Target) : (s.setTarget t x).pending = s.pending := rfl
@[simp] theorem State.setTarget_power (s : State) (t : Nat) (x : Target) : (s.setTarget t x).power = s.power := rfl
@[simp] theorem State.setTarget_aon (s : State) (t : Nat) (x : Target) : (s.setTarget t x).aon = s.aon := rfl
@[simp] theorem State.setTarget_tick (s : State) (t : Nat) (x : Target) : (s.setTarget t x).tick = s.tick := rfl
@[simp] theorem State.setTarget_corePhase (s : State) (t : Nat) (x : Target) : (s.setTarget t x).corePhase = s.corePhase := rfl
@[simp] theorem State.setTarget_fresh (s : State) (t : Nat) (x : Target) : (s.setTarget t x).fresh = s.fresh := rfl
@[simp] theorem State.setTarget_outbox (s : State) (t : Nat) (x : Target) : (s.setTarget t x).outbox = s.outbox := rfl
@[simp] theorem State.setTarget_reply (s : State) (t : Nat) (x : Target) : (s.setTarget t x).reply = s.reply := rfl
@[simp] theorem State.setTarget_regs (s : State) (t : Nat) (x : Target) : (s.setTarget t x).regs = s.regs := rfl
@[simp] theorem State.setTarget_held (s : State) (t : Nat) (x : Target) : (s.setTarget t x).held = s.held := rfl
@[simp] theorem State.setTarget_pendGroups (s : State) (t : Nat) (x : Target) : (s.setTarget t x).pendGroups = s.pendGroups := rfl
@[simp] theorem State.setTarget_items (s : State) (t : Nat) (x : Target) : (s.setTarget t x).items = s.items := rfl
@[simp] theorem State.setTarget_posted (s : State) (t : Nat) (x : Target) : (s.setTarget t x).posted = s.posted := rfl
@[simp] theorem State.setTarget_dropped (s : State) (t : Nat) (x : Target) : (s.setTarget t x).dropped = s.dropped := rfl
@[simp] theorem State.setTarget_mem (s : State) (t : Nat) (x : Target) : (s.setTarget t x).mem = s.mem := rfl
@[simp] theorem State.setTarget_wo1 (s : State) (t : Nat) (x : Target) : (s.setTarget t x).wo1 = s.wo1 := rfl
@[simp] theorem State.setTarget_lastReject (s : State) (t : Nat) (x : Target) : (s.setTarget t x).lastReject = s.lastReject := rfl
@[simp] theorem State.setTarget_hl (s : State) (t : Nat) (x : Target) : (s.setTarget t x).hl = s.hl := rfl
@[simp] theorem State.setTarget_heads (s : State) (t : Nat) (x : Target) : (s.setTarget t x).heads = s.heads := rfl
@[simp] theorem State.setTarget_groups (s : State) (t : Nat) (x : Target) : (s.setTarget t x).groups = s.groups := rfl
@[simp] theorem State.setTarget_flares (s : State) (t : Nat) (x : Target) : (s.setTarget t x).flares = s.flares := rfl
@[simp] theorem State.setTarget_sched (s : State) (t : Nat) (x : Target) : (s.setTarget t x).sched = s.sched := rfl
@[simp] theorem State.setTarget_fabric (s : State) (t : Nat) (x : Target) : (s.setTarget t x).fabric = s.fabric := rfl
@[simp] theorem State.setTarget_fa (s : State) (t : Nat) (x : Target) : (s.setTarget t x).fa = s.fa := rfl
@[simp] theorem State.setTarget_tap (s : State) (t : Nat) (x : Target) : (s.setTarget t x).tap = s.tap := rfl
@[simp] theorem State.setTarget_keep (s : State) (t : Nat) (x : Target) : (s.setTarget t x).keep = s.keep := rfl
@[simp] theorem State.setTarget_lanterns (s : State) (t : Nat) (x : Target) : (s.setTarget t x).lanterns = s.lanterns := rfl
@[simp] theorem State.setTarget_si (s : State) (t : Nat) (x : Target) : (s.setTarget t x).si = s.si := rfl
@[simp] theorem State.setTarget_oq (s : State) (t : Nat) (x : Target) : (s.setTarget t x).oq = s.oq := rfl
@[simp] theorem State.setTarget_tx (s : State) (t : Nat) (x : Target) : (s.setTarget t x).tx = s.tx := rfl
@[simp] theorem State.setTarget_dict (s : State) (t : Nat) (x : Target) : (s.setTarget t x).dict = s.dict := rfl
@[simp] theorem State.setTarget_cv (s : State) (t : Nat) (x : Target) : (s.setTarget t x).cv = s.cv := rfl
@[simp] theorem State.setTarget_bl (s : State) (t : Nat) (x : Target) : (s.setTarget t x).bl = s.bl := rfl
@[simp] theorem State.setTarget_pm (s : State) (t : Nat) (x : Target) : (s.setTarget t x).pm = s.pm := rfl
@[simp] theorem State.setTarget_casc (s : State) (t : Nat) (x : Target) : (s.setTarget t x).casc = s.casc := rfl
@[simp] theorem State.setTarget_start (s : State) (t : Nat) (x : Target) : (s.setTarget t x).start = s.start := rfl
@[simp] theorem State.setTarget_therm (s : State) (t : Nat) (x : Target) : (s.setTarget t x).therm = s.therm := rfl
@[simp] theorem State.setTarget_safety (s : State) (t : Nat) (x : Target) : (s.setTarget t x).safety = s.safety := rfl

/-! ### setCgroup -/

@[simp] theorem State.setCgroup_pending (s : State) (g : Nat) (x : CGroup) : (s.setCgroup g x).pending = s.pending := rfl
@[simp] theorem State.setCgroup_power (s : State) (g : Nat) (x : CGroup) : (s.setCgroup g x).power = s.power := rfl
@[simp] theorem State.setCgroup_aon (s : State) (g : Nat) (x : CGroup) : (s.setCgroup g x).aon = s.aon := rfl
@[simp] theorem State.setCgroup_tick (s : State) (g : Nat) (x : CGroup) : (s.setCgroup g x).tick = s.tick := rfl
@[simp] theorem State.setCgroup_corePhase (s : State) (g : Nat) (x : CGroup) : (s.setCgroup g x).corePhase = s.corePhase := rfl
@[simp] theorem State.setCgroup_fresh (s : State) (g : Nat) (x : CGroup) : (s.setCgroup g x).fresh = s.fresh := rfl
@[simp] theorem State.setCgroup_outbox (s : State) (g : Nat) (x : CGroup) : (s.setCgroup g x).outbox = s.outbox := rfl
@[simp] theorem State.setCgroup_reply (s : State) (g : Nat) (x : CGroup) : (s.setCgroup g x).reply = s.reply := rfl
@[simp] theorem State.setCgroup_regs (s : State) (g : Nat) (x : CGroup) : (s.setCgroup g x).regs = s.regs := rfl
@[simp] theorem State.setCgroup_held (s : State) (g : Nat) (x : CGroup) : (s.setCgroup g x).held = s.held := rfl
@[simp] theorem State.setCgroup_pendGroups (s : State) (g : Nat) (x : CGroup) : (s.setCgroup g x).pendGroups = s.pendGroups := rfl
@[simp] theorem State.setCgroup_items (s : State) (g : Nat) (x : CGroup) : (s.setCgroup g x).items = s.items := rfl
@[simp] theorem State.setCgroup_posted (s : State) (g : Nat) (x : CGroup) : (s.setCgroup g x).posted = s.posted := rfl
@[simp] theorem State.setCgroup_dropped (s : State) (g : Nat) (x : CGroup) : (s.setCgroup g x).dropped = s.dropped := rfl
@[simp] theorem State.setCgroup_mem (s : State) (g : Nat) (x : CGroup) : (s.setCgroup g x).mem = s.mem := rfl
@[simp] theorem State.setCgroup_wo1 (s : State) (g : Nat) (x : CGroup) : (s.setCgroup g x).wo1 = s.wo1 := rfl
@[simp] theorem State.setCgroup_lastReject (s : State) (g : Nat) (x : CGroup) : (s.setCgroup g x).lastReject = s.lastReject := rfl
@[simp] theorem State.setCgroup_hl (s : State) (g : Nat) (x : CGroup) : (s.setCgroup g x).hl = s.hl := rfl
@[simp] theorem State.setCgroup_heads (s : State) (g : Nat) (x : CGroup) : (s.setCgroup g x).heads = s.heads := rfl
@[simp] theorem State.setCgroup_groups (s : State) (g : Nat) (x : CGroup) : (s.setCgroup g x).groups = s.groups := rfl
@[simp] theorem State.setCgroup_flares (s : State) (g : Nat) (x : CGroup) : (s.setCgroup g x).flares = s.flares := rfl
@[simp] theorem State.setCgroup_sched (s : State) (g : Nat) (x : CGroup) : (s.setCgroup g x).sched = s.sched := rfl
@[simp] theorem State.setCgroup_fabric (s : State) (g : Nat) (x : CGroup) : (s.setCgroup g x).fabric = s.fabric := rfl
@[simp] theorem State.setCgroup_fa (s : State) (g : Nat) (x : CGroup) : (s.setCgroup g x).fa = s.fa := rfl
@[simp] theorem State.setCgroup_tap (s : State) (g : Nat) (x : CGroup) : (s.setCgroup g x).tap = s.tap := rfl
@[simp] theorem State.setCgroup_keep (s : State) (g : Nat) (x : CGroup) : (s.setCgroup g x).keep = s.keep := rfl
@[simp] theorem State.setCgroup_lanterns (s : State) (g : Nat) (x : CGroup) : (s.setCgroup g x).lanterns = s.lanterns := rfl
@[simp] theorem State.setCgroup_si (s : State) (g : Nat) (x : CGroup) : (s.setCgroup g x).si = s.si := rfl
@[simp] theorem State.setCgroup_oq (s : State) (g : Nat) (x : CGroup) : (s.setCgroup g x).oq = s.oq := rfl
@[simp] theorem State.setCgroup_tx (s : State) (g : Nat) (x : CGroup) : (s.setCgroup g x).tx = s.tx := rfl
@[simp] theorem State.setCgroup_dict (s : State) (g : Nat) (x : CGroup) : (s.setCgroup g x).dict = s.dict := rfl
@[simp] theorem State.setCgroup_cv (s : State) (g : Nat) (x : CGroup) : (s.setCgroup g x).cv = s.cv := rfl
@[simp] theorem State.setCgroup_bl (s : State) (g : Nat) (x : CGroup) : (s.setCgroup g x).bl = s.bl := rfl
@[simp] theorem State.setCgroup_pm (s : State) (g : Nat) (x : CGroup) : (s.setCgroup g x).pm = s.pm := rfl
@[simp] theorem State.setCgroup_casc (s : State) (g : Nat) (x : CGroup) : (s.setCgroup g x).casc = s.casc := rfl
@[simp] theorem State.setCgroup_start (s : State) (g : Nat) (x : CGroup) : (s.setCgroup g x).start = s.start := rfl
@[simp] theorem State.setCgroup_therm (s : State) (g : Nat) (x : CGroup) : (s.setCgroup g x).therm = s.therm := rfl
@[simp] theorem State.setCgroup_safety (s : State) (g : Nat) (x : CGroup) : (s.setCgroup g x).safety = s.safety := rfl

/-! ### setCvUnit -/

@[simp] theorem State.setCvUnit_pending (s : State) (u : Nat) (x : CvUnit) : (s.setCvUnit u x).pending = s.pending := rfl
@[simp] theorem State.setCvUnit_power (s : State) (u : Nat) (x : CvUnit) : (s.setCvUnit u x).power = s.power := rfl
@[simp] theorem State.setCvUnit_aon (s : State) (u : Nat) (x : CvUnit) : (s.setCvUnit u x).aon = s.aon := rfl
@[simp] theorem State.setCvUnit_tick (s : State) (u : Nat) (x : CvUnit) : (s.setCvUnit u x).tick = s.tick := rfl
@[simp] theorem State.setCvUnit_corePhase (s : State) (u : Nat) (x : CvUnit) : (s.setCvUnit u x).corePhase = s.corePhase := rfl
@[simp] theorem State.setCvUnit_fresh (s : State) (u : Nat) (x : CvUnit) : (s.setCvUnit u x).fresh = s.fresh := rfl
@[simp] theorem State.setCvUnit_outbox (s : State) (u : Nat) (x : CvUnit) : (s.setCvUnit u x).outbox = s.outbox := rfl
@[simp] theorem State.setCvUnit_reply (s : State) (u : Nat) (x : CvUnit) : (s.setCvUnit u x).reply = s.reply := rfl
@[simp] theorem State.setCvUnit_regs (s : State) (u : Nat) (x : CvUnit) : (s.setCvUnit u x).regs = s.regs := rfl
@[simp] theorem State.setCvUnit_held (s : State) (u : Nat) (x : CvUnit) : (s.setCvUnit u x).held = s.held := rfl
@[simp] theorem State.setCvUnit_pendGroups (s : State) (u : Nat) (x : CvUnit) : (s.setCvUnit u x).pendGroups = s.pendGroups := rfl
@[simp] theorem State.setCvUnit_items (s : State) (u : Nat) (x : CvUnit) : (s.setCvUnit u x).items = s.items := rfl
@[simp] theorem State.setCvUnit_posted (s : State) (u : Nat) (x : CvUnit) : (s.setCvUnit u x).posted = s.posted := rfl
@[simp] theorem State.setCvUnit_dropped (s : State) (u : Nat) (x : CvUnit) : (s.setCvUnit u x).dropped = s.dropped := rfl
@[simp] theorem State.setCvUnit_mem (s : State) (u : Nat) (x : CvUnit) : (s.setCvUnit u x).mem = s.mem := rfl
@[simp] theorem State.setCvUnit_wo1 (s : State) (u : Nat) (x : CvUnit) : (s.setCvUnit u x).wo1 = s.wo1 := rfl
@[simp] theorem State.setCvUnit_lastReject (s : State) (u : Nat) (x : CvUnit) : (s.setCvUnit u x).lastReject = s.lastReject := rfl
@[simp] theorem State.setCvUnit_hl (s : State) (u : Nat) (x : CvUnit) : (s.setCvUnit u x).hl = s.hl := rfl
@[simp] theorem State.setCvUnit_heads (s : State) (u : Nat) (x : CvUnit) : (s.setCvUnit u x).heads = s.heads := rfl
@[simp] theorem State.setCvUnit_groups (s : State) (u : Nat) (x : CvUnit) : (s.setCvUnit u x).groups = s.groups := rfl
@[simp] theorem State.setCvUnit_flares (s : State) (u : Nat) (x : CvUnit) : (s.setCvUnit u x).flares = s.flares := rfl
@[simp] theorem State.setCvUnit_sched (s : State) (u : Nat) (x : CvUnit) : (s.setCvUnit u x).sched = s.sched := rfl
@[simp] theorem State.setCvUnit_fabric (s : State) (u : Nat) (x : CvUnit) : (s.setCvUnit u x).fabric = s.fabric := rfl
@[simp] theorem State.setCvUnit_fa (s : State) (u : Nat) (x : CvUnit) : (s.setCvUnit u x).fa = s.fa := rfl
@[simp] theorem State.setCvUnit_tap (s : State) (u : Nat) (x : CvUnit) : (s.setCvUnit u x).tap = s.tap := rfl
@[simp] theorem State.setCvUnit_keep (s : State) (u : Nat) (x : CvUnit) : (s.setCvUnit u x).keep = s.keep := rfl
@[simp] theorem State.setCvUnit_lanterns (s : State) (u : Nat) (x : CvUnit) : (s.setCvUnit u x).lanterns = s.lanterns := rfl
@[simp] theorem State.setCvUnit_si (s : State) (u : Nat) (x : CvUnit) : (s.setCvUnit u x).si = s.si := rfl
@[simp] theorem State.setCvUnit_oq (s : State) (u : Nat) (x : CvUnit) : (s.setCvUnit u x).oq = s.oq := rfl
@[simp] theorem State.setCvUnit_tx (s : State) (u : Nat) (x : CvUnit) : (s.setCvUnit u x).tx = s.tx := rfl
@[simp] theorem State.setCvUnit_dict (s : State) (u : Nat) (x : CvUnit) : (s.setCvUnit u x).dict = s.dict := rfl
@[simp] theorem State.setCvUnit_ic (s : State) (u : Nat) (x : CvUnit) : (s.setCvUnit u x).ic = s.ic := rfl
@[simp] theorem State.setCvUnit_bl (s : State) (u : Nat) (x : CvUnit) : (s.setCvUnit u x).bl = s.bl := rfl
@[simp] theorem State.setCvUnit_pm (s : State) (u : Nat) (x : CvUnit) : (s.setCvUnit u x).pm = s.pm := rfl
@[simp] theorem State.setCvUnit_casc (s : State) (u : Nat) (x : CvUnit) : (s.setCvUnit u x).casc = s.casc := rfl
@[simp] theorem State.setCvUnit_start (s : State) (u : Nat) (x : CvUnit) : (s.setCvUnit u x).start = s.start := rfl
@[simp] theorem State.setCvUnit_therm (s : State) (u : Nat) (x : CvUnit) : (s.setCvUnit u x).therm = s.therm := rfl
@[simp] theorem State.setCvUnit_safety (s : State) (u : Nat) (x : CvUnit) : (s.setCvUnit u x).safety = s.safety := rfl

/-! ### setEngine -/

@[simp] theorem State.setEngine_pending (s : State) (e : Nat) (x : BlitEng) : (s.setEngine e x).pending = s.pending := rfl
@[simp] theorem State.setEngine_power (s : State) (e : Nat) (x : BlitEng) : (s.setEngine e x).power = s.power := rfl
@[simp] theorem State.setEngine_aon (s : State) (e : Nat) (x : BlitEng) : (s.setEngine e x).aon = s.aon := rfl
@[simp] theorem State.setEngine_tick (s : State) (e : Nat) (x : BlitEng) : (s.setEngine e x).tick = s.tick := rfl
@[simp] theorem State.setEngine_corePhase (s : State) (e : Nat) (x : BlitEng) : (s.setEngine e x).corePhase = s.corePhase := rfl
@[simp] theorem State.setEngine_fresh (s : State) (e : Nat) (x : BlitEng) : (s.setEngine e x).fresh = s.fresh := rfl
@[simp] theorem State.setEngine_outbox (s : State) (e : Nat) (x : BlitEng) : (s.setEngine e x).outbox = s.outbox := rfl
@[simp] theorem State.setEngine_reply (s : State) (e : Nat) (x : BlitEng) : (s.setEngine e x).reply = s.reply := rfl
@[simp] theorem State.setEngine_regs (s : State) (e : Nat) (x : BlitEng) : (s.setEngine e x).regs = s.regs := rfl
@[simp] theorem State.setEngine_held (s : State) (e : Nat) (x : BlitEng) : (s.setEngine e x).held = s.held := rfl
@[simp] theorem State.setEngine_pendGroups (s : State) (e : Nat) (x : BlitEng) : (s.setEngine e x).pendGroups = s.pendGroups := rfl
@[simp] theorem State.setEngine_items (s : State) (e : Nat) (x : BlitEng) : (s.setEngine e x).items = s.items := rfl
@[simp] theorem State.setEngine_posted (s : State) (e : Nat) (x : BlitEng) : (s.setEngine e x).posted = s.posted := rfl
@[simp] theorem State.setEngine_dropped (s : State) (e : Nat) (x : BlitEng) : (s.setEngine e x).dropped = s.dropped := rfl
@[simp] theorem State.setEngine_mem (s : State) (e : Nat) (x : BlitEng) : (s.setEngine e x).mem = s.mem := rfl
@[simp] theorem State.setEngine_wo1 (s : State) (e : Nat) (x : BlitEng) : (s.setEngine e x).wo1 = s.wo1 := rfl
@[simp] theorem State.setEngine_lastReject (s : State) (e : Nat) (x : BlitEng) : (s.setEngine e x).lastReject = s.lastReject := rfl
@[simp] theorem State.setEngine_hl (s : State) (e : Nat) (x : BlitEng) : (s.setEngine e x).hl = s.hl := rfl
@[simp] theorem State.setEngine_heads (s : State) (e : Nat) (x : BlitEng) : (s.setEngine e x).heads = s.heads := rfl
@[simp] theorem State.setEngine_groups (s : State) (e : Nat) (x : BlitEng) : (s.setEngine e x).groups = s.groups := rfl
@[simp] theorem State.setEngine_flares (s : State) (e : Nat) (x : BlitEng) : (s.setEngine e x).flares = s.flares := rfl
@[simp] theorem State.setEngine_sched (s : State) (e : Nat) (x : BlitEng) : (s.setEngine e x).sched = s.sched := rfl
@[simp] theorem State.setEngine_fabric (s : State) (e : Nat) (x : BlitEng) : (s.setEngine e x).fabric = s.fabric := rfl
@[simp] theorem State.setEngine_fa (s : State) (e : Nat) (x : BlitEng) : (s.setEngine e x).fa = s.fa := rfl
@[simp] theorem State.setEngine_tap (s : State) (e : Nat) (x : BlitEng) : (s.setEngine e x).tap = s.tap := rfl
@[simp] theorem State.setEngine_keep (s : State) (e : Nat) (x : BlitEng) : (s.setEngine e x).keep = s.keep := rfl
@[simp] theorem State.setEngine_lanterns (s : State) (e : Nat) (x : BlitEng) : (s.setEngine e x).lanterns = s.lanterns := rfl
@[simp] theorem State.setEngine_si (s : State) (e : Nat) (x : BlitEng) : (s.setEngine e x).si = s.si := rfl
@[simp] theorem State.setEngine_oq (s : State) (e : Nat) (x : BlitEng) : (s.setEngine e x).oq = s.oq := rfl
@[simp] theorem State.setEngine_tx (s : State) (e : Nat) (x : BlitEng) : (s.setEngine e x).tx = s.tx := rfl
@[simp] theorem State.setEngine_dict (s : State) (e : Nat) (x : BlitEng) : (s.setEngine e x).dict = s.dict := rfl
@[simp] theorem State.setEngine_ic (s : State) (e : Nat) (x : BlitEng) : (s.setEngine e x).ic = s.ic := rfl
@[simp] theorem State.setEngine_cv (s : State) (e : Nat) (x : BlitEng) : (s.setEngine e x).cv = s.cv := rfl
@[simp] theorem State.setEngine_pm (s : State) (e : Nat) (x : BlitEng) : (s.setEngine e x).pm = s.pm := rfl
@[simp] theorem State.setEngine_casc (s : State) (e : Nat) (x : BlitEng) : (s.setEngine e x).casc = s.casc := rfl
@[simp] theorem State.setEngine_start (s : State) (e : Nat) (x : BlitEng) : (s.setEngine e x).start = s.start := rfl
@[simp] theorem State.setEngine_therm (s : State) (e : Nat) (x : BlitEng) : (s.setEngine e x).therm = s.therm := rfl
@[simp] theorem State.setEngine_safety (s : State) (e : Nat) (x : BlitEng) : (s.setEngine e x).safety = s.safety := rfl

/-! ### setShare -/

@[simp] theorem State.setShare_pending (s : State) (e f : Nat) (x : BlitShare) : (s.setShare e f x).pending = s.pending := rfl
@[simp] theorem State.setShare_power (s : State) (e f : Nat) (x : BlitShare) : (s.setShare e f x).power = s.power := rfl
@[simp] theorem State.setShare_aon (s : State) (e f : Nat) (x : BlitShare) : (s.setShare e f x).aon = s.aon := rfl
@[simp] theorem State.setShare_tick (s : State) (e f : Nat) (x : BlitShare) : (s.setShare e f x).tick = s.tick := rfl
@[simp] theorem State.setShare_corePhase (s : State) (e f : Nat) (x : BlitShare) : (s.setShare e f x).corePhase = s.corePhase := rfl
@[simp] theorem State.setShare_fresh (s : State) (e f : Nat) (x : BlitShare) : (s.setShare e f x).fresh = s.fresh := rfl
@[simp] theorem State.setShare_outbox (s : State) (e f : Nat) (x : BlitShare) : (s.setShare e f x).outbox = s.outbox := rfl
@[simp] theorem State.setShare_reply (s : State) (e f : Nat) (x : BlitShare) : (s.setShare e f x).reply = s.reply := rfl
@[simp] theorem State.setShare_regs (s : State) (e f : Nat) (x : BlitShare) : (s.setShare e f x).regs = s.regs := rfl
@[simp] theorem State.setShare_held (s : State) (e f : Nat) (x : BlitShare) : (s.setShare e f x).held = s.held := rfl
@[simp] theorem State.setShare_pendGroups (s : State) (e f : Nat) (x : BlitShare) : (s.setShare e f x).pendGroups = s.pendGroups := rfl
@[simp] theorem State.setShare_items (s : State) (e f : Nat) (x : BlitShare) : (s.setShare e f x).items = s.items := rfl
@[simp] theorem State.setShare_posted (s : State) (e f : Nat) (x : BlitShare) : (s.setShare e f x).posted = s.posted := rfl
@[simp] theorem State.setShare_dropped (s : State) (e f : Nat) (x : BlitShare) : (s.setShare e f x).dropped = s.dropped := rfl
@[simp] theorem State.setShare_mem (s : State) (e f : Nat) (x : BlitShare) : (s.setShare e f x).mem = s.mem := rfl
@[simp] theorem State.setShare_wo1 (s : State) (e f : Nat) (x : BlitShare) : (s.setShare e f x).wo1 = s.wo1 := rfl
@[simp] theorem State.setShare_lastReject (s : State) (e f : Nat) (x : BlitShare) : (s.setShare e f x).lastReject = s.lastReject := rfl
@[simp] theorem State.setShare_hl (s : State) (e f : Nat) (x : BlitShare) : (s.setShare e f x).hl = s.hl := rfl
@[simp] theorem State.setShare_heads (s : State) (e f : Nat) (x : BlitShare) : (s.setShare e f x).heads = s.heads := rfl
@[simp] theorem State.setShare_groups (s : State) (e f : Nat) (x : BlitShare) : (s.setShare e f x).groups = s.groups := rfl
@[simp] theorem State.setShare_flares (s : State) (e f : Nat) (x : BlitShare) : (s.setShare e f x).flares = s.flares := rfl
@[simp] theorem State.setShare_sched (s : State) (e f : Nat) (x : BlitShare) : (s.setShare e f x).sched = s.sched := rfl
@[simp] theorem State.setShare_fabric (s : State) (e f : Nat) (x : BlitShare) : (s.setShare e f x).fabric = s.fabric := rfl
@[simp] theorem State.setShare_fa (s : State) (e f : Nat) (x : BlitShare) : (s.setShare e f x).fa = s.fa := rfl
@[simp] theorem State.setShare_tap (s : State) (e f : Nat) (x : BlitShare) : (s.setShare e f x).tap = s.tap := rfl
@[simp] theorem State.setShare_keep (s : State) (e f : Nat) (x : BlitShare) : (s.setShare e f x).keep = s.keep := rfl
@[simp] theorem State.setShare_lanterns (s : State) (e f : Nat) (x : BlitShare) : (s.setShare e f x).lanterns = s.lanterns := rfl
@[simp] theorem State.setShare_si (s : State) (e f : Nat) (x : BlitShare) : (s.setShare e f x).si = s.si := rfl
@[simp] theorem State.setShare_oq (s : State) (e f : Nat) (x : BlitShare) : (s.setShare e f x).oq = s.oq := rfl
@[simp] theorem State.setShare_tx (s : State) (e f : Nat) (x : BlitShare) : (s.setShare e f x).tx = s.tx := rfl
@[simp] theorem State.setShare_dict (s : State) (e f : Nat) (x : BlitShare) : (s.setShare e f x).dict = s.dict := rfl
@[simp] theorem State.setShare_ic (s : State) (e f : Nat) (x : BlitShare) : (s.setShare e f x).ic = s.ic := rfl
@[simp] theorem State.setShare_cv (s : State) (e f : Nat) (x : BlitShare) : (s.setShare e f x).cv = s.cv := rfl
@[simp] theorem State.setShare_pm (s : State) (e f : Nat) (x : BlitShare) : (s.setShare e f x).pm = s.pm := rfl
@[simp] theorem State.setShare_casc (s : State) (e f : Nat) (x : BlitShare) : (s.setShare e f x).casc = s.casc := rfl
@[simp] theorem State.setShare_start (s : State) (e f : Nat) (x : BlitShare) : (s.setShare e f x).start = s.start := rfl
@[simp] theorem State.setShare_therm (s : State) (e f : Nat) (x : BlitShare) : (s.setShare e f x).therm = s.therm := rfl
@[simp] theorem State.setShare_safety (s : State) (e f : Nat) (x : BlitShare) : (s.setShare e f x).safety = s.safety := rfl

/-! ### setOsl -/

@[simp] theorem State.setOsl_pending (s : State) (u : Nat) (x : Osleig) : (s.setOsl u x).pending = s.pending := rfl
@[simp] theorem State.setOsl_power (s : State) (u : Nat) (x : Osleig) : (s.setOsl u x).power = s.power := rfl
@[simp] theorem State.setOsl_aon (s : State) (u : Nat) (x : Osleig) : (s.setOsl u x).aon = s.aon := rfl
@[simp] theorem State.setOsl_tick (s : State) (u : Nat) (x : Osleig) : (s.setOsl u x).tick = s.tick := rfl
@[simp] theorem State.setOsl_corePhase (s : State) (u : Nat) (x : Osleig) : (s.setOsl u x).corePhase = s.corePhase := rfl
@[simp] theorem State.setOsl_fresh (s : State) (u : Nat) (x : Osleig) : (s.setOsl u x).fresh = s.fresh := rfl
@[simp] theorem State.setOsl_outbox (s : State) (u : Nat) (x : Osleig) : (s.setOsl u x).outbox = s.outbox := rfl
@[simp] theorem State.setOsl_reply (s : State) (u : Nat) (x : Osleig) : (s.setOsl u x).reply = s.reply := rfl
@[simp] theorem State.setOsl_regs (s : State) (u : Nat) (x : Osleig) : (s.setOsl u x).regs = s.regs := rfl
@[simp] theorem State.setOsl_held (s : State) (u : Nat) (x : Osleig) : (s.setOsl u x).held = s.held := rfl
@[simp] theorem State.setOsl_pendGroups (s : State) (u : Nat) (x : Osleig) : (s.setOsl u x).pendGroups = s.pendGroups := rfl
@[simp] theorem State.setOsl_items (s : State) (u : Nat) (x : Osleig) : (s.setOsl u x).items = s.items := rfl
@[simp] theorem State.setOsl_posted (s : State) (u : Nat) (x : Osleig) : (s.setOsl u x).posted = s.posted := rfl
@[simp] theorem State.setOsl_dropped (s : State) (u : Nat) (x : Osleig) : (s.setOsl u x).dropped = s.dropped := rfl
@[simp] theorem State.setOsl_mem (s : State) (u : Nat) (x : Osleig) : (s.setOsl u x).mem = s.mem := rfl
@[simp] theorem State.setOsl_wo1 (s : State) (u : Nat) (x : Osleig) : (s.setOsl u x).wo1 = s.wo1 := rfl
@[simp] theorem State.setOsl_lastReject (s : State) (u : Nat) (x : Osleig) : (s.setOsl u x).lastReject = s.lastReject := rfl
@[simp] theorem State.setOsl_hl (s : State) (u : Nat) (x : Osleig) : (s.setOsl u x).hl = s.hl := rfl
@[simp] theorem State.setOsl_heads (s : State) (u : Nat) (x : Osleig) : (s.setOsl u x).heads = s.heads := rfl
@[simp] theorem State.setOsl_groups (s : State) (u : Nat) (x : Osleig) : (s.setOsl u x).groups = s.groups := rfl
@[simp] theorem State.setOsl_flares (s : State) (u : Nat) (x : Osleig) : (s.setOsl u x).flares = s.flares := rfl
@[simp] theorem State.setOsl_sched (s : State) (u : Nat) (x : Osleig) : (s.setOsl u x).sched = s.sched := rfl
@[simp] theorem State.setOsl_fabric (s : State) (u : Nat) (x : Osleig) : (s.setOsl u x).fabric = s.fabric := rfl
@[simp] theorem State.setOsl_fa (s : State) (u : Nat) (x : Osleig) : (s.setOsl u x).fa = s.fa := rfl
@[simp] theorem State.setOsl_tap (s : State) (u : Nat) (x : Osleig) : (s.setOsl u x).tap = s.tap := rfl
@[simp] theorem State.setOsl_keep (s : State) (u : Nat) (x : Osleig) : (s.setOsl u x).keep = s.keep := rfl
@[simp] theorem State.setOsl_lanterns (s : State) (u : Nat) (x : Osleig) : (s.setOsl u x).lanterns = s.lanterns := rfl
@[simp] theorem State.setOsl_si (s : State) (u : Nat) (x : Osleig) : (s.setOsl u x).si = s.si := rfl
@[simp] theorem State.setOsl_oq (s : State) (u : Nat) (x : Osleig) : (s.setOsl u x).oq = s.oq := rfl
@[simp] theorem State.setOsl_tx (s : State) (u : Nat) (x : Osleig) : (s.setOsl u x).tx = s.tx := rfl
@[simp] theorem State.setOsl_dict (s : State) (u : Nat) (x : Osleig) : (s.setOsl u x).dict = s.dict := rfl
@[simp] theorem State.setOsl_ic (s : State) (u : Nat) (x : Osleig) : (s.setOsl u x).ic = s.ic := rfl
@[simp] theorem State.setOsl_cv (s : State) (u : Nat) (x : Osleig) : (s.setOsl u x).cv = s.cv := rfl
@[simp] theorem State.setOsl_bl (s : State) (u : Nat) (x : Osleig) : (s.setOsl u x).bl = s.bl := rfl
@[simp] theorem State.setOsl_pm (s : State) (u : Nat) (x : Osleig) : (s.setOsl u x).pm = s.pm := rfl
@[simp] theorem State.setOsl_start (s : State) (u : Nat) (x : Osleig) : (s.setOsl u x).start = s.start := rfl
@[simp] theorem State.setOsl_therm (s : State) (u : Nat) (x : Osleig) : (s.setOsl u x).therm = s.therm := rfl
@[simp] theorem State.setOsl_safety (s : State) (u : Nat) (x : Osleig) : (s.setOsl u x).safety = s.safety := rfl

/-! ### setSeg -/

@[simp] theorem State.setSeg_pending (s : State) (k : Nat) (x : SegBuf) : (s.setSeg k x).pending = s.pending := rfl
@[simp] theorem State.setSeg_power (s : State) (k : Nat) (x : SegBuf) : (s.setSeg k x).power = s.power := rfl
@[simp] theorem State.setSeg_aon (s : State) (k : Nat) (x : SegBuf) : (s.setSeg k x).aon = s.aon := rfl
@[simp] theorem State.setSeg_tick (s : State) (k : Nat) (x : SegBuf) : (s.setSeg k x).tick = s.tick := rfl
@[simp] theorem State.setSeg_corePhase (s : State) (k : Nat) (x : SegBuf) : (s.setSeg k x).corePhase = s.corePhase := rfl
@[simp] theorem State.setSeg_fresh (s : State) (k : Nat) (x : SegBuf) : (s.setSeg k x).fresh = s.fresh := rfl
@[simp] theorem State.setSeg_outbox (s : State) (k : Nat) (x : SegBuf) : (s.setSeg k x).outbox = s.outbox := rfl
@[simp] theorem State.setSeg_reply (s : State) (k : Nat) (x : SegBuf) : (s.setSeg k x).reply = s.reply := rfl
@[simp] theorem State.setSeg_regs (s : State) (k : Nat) (x : SegBuf) : (s.setSeg k x).regs = s.regs := rfl
@[simp] theorem State.setSeg_held (s : State) (k : Nat) (x : SegBuf) : (s.setSeg k x).held = s.held := rfl
@[simp] theorem State.setSeg_pendGroups (s : State) (k : Nat) (x : SegBuf) : (s.setSeg k x).pendGroups = s.pendGroups := rfl
@[simp] theorem State.setSeg_items (s : State) (k : Nat) (x : SegBuf) : (s.setSeg k x).items = s.items := rfl
@[simp] theorem State.setSeg_posted (s : State) (k : Nat) (x : SegBuf) : (s.setSeg k x).posted = s.posted := rfl
@[simp] theorem State.setSeg_dropped (s : State) (k : Nat) (x : SegBuf) : (s.setSeg k x).dropped = s.dropped := rfl
@[simp] theorem State.setSeg_mem (s : State) (k : Nat) (x : SegBuf) : (s.setSeg k x).mem = s.mem := rfl
@[simp] theorem State.setSeg_wo1 (s : State) (k : Nat) (x : SegBuf) : (s.setSeg k x).wo1 = s.wo1 := rfl
@[simp] theorem State.setSeg_lastReject (s : State) (k : Nat) (x : SegBuf) : (s.setSeg k x).lastReject = s.lastReject := rfl
@[simp] theorem State.setSeg_hl (s : State) (k : Nat) (x : SegBuf) : (s.setSeg k x).hl = s.hl := rfl
@[simp] theorem State.setSeg_heads (s : State) (k : Nat) (x : SegBuf) : (s.setSeg k x).heads = s.heads := rfl
@[simp] theorem State.setSeg_groups (s : State) (k : Nat) (x : SegBuf) : (s.setSeg k x).groups = s.groups := rfl
@[simp] theorem State.setSeg_flares (s : State) (k : Nat) (x : SegBuf) : (s.setSeg k x).flares = s.flares := rfl
@[simp] theorem State.setSeg_sched (s : State) (k : Nat) (x : SegBuf) : (s.setSeg k x).sched = s.sched := rfl
@[simp] theorem State.setSeg_fabric (s : State) (k : Nat) (x : SegBuf) : (s.setSeg k x).fabric = s.fabric := rfl
@[simp] theorem State.setSeg_fa (s : State) (k : Nat) (x : SegBuf) : (s.setSeg k x).fa = s.fa := rfl
@[simp] theorem State.setSeg_tap (s : State) (k : Nat) (x : SegBuf) : (s.setSeg k x).tap = s.tap := rfl
@[simp] theorem State.setSeg_keep (s : State) (k : Nat) (x : SegBuf) : (s.setSeg k x).keep = s.keep := rfl
@[simp] theorem State.setSeg_lanterns (s : State) (k : Nat) (x : SegBuf) : (s.setSeg k x).lanterns = s.lanterns := rfl
@[simp] theorem State.setSeg_si (s : State) (k : Nat) (x : SegBuf) : (s.setSeg k x).si = s.si := rfl
@[simp] theorem State.setSeg_oq (s : State) (k : Nat) (x : SegBuf) : (s.setSeg k x).oq = s.oq := rfl
@[simp] theorem State.setSeg_tx (s : State) (k : Nat) (x : SegBuf) : (s.setSeg k x).tx = s.tx := rfl
@[simp] theorem State.setSeg_dict (s : State) (k : Nat) (x : SegBuf) : (s.setSeg k x).dict = s.dict := rfl
@[simp] theorem State.setSeg_ic (s : State) (k : Nat) (x : SegBuf) : (s.setSeg k x).ic = s.ic := rfl
@[simp] theorem State.setSeg_cv (s : State) (k : Nat) (x : SegBuf) : (s.setSeg k x).cv = s.cv := rfl
@[simp] theorem State.setSeg_bl (s : State) (k : Nat) (x : SegBuf) : (s.setSeg k x).bl = s.bl := rfl
@[simp] theorem State.setSeg_pm (s : State) (k : Nat) (x : SegBuf) : (s.setSeg k x).pm = s.pm := rfl
@[simp] theorem State.setSeg_start (s : State) (k : Nat) (x : SegBuf) : (s.setSeg k x).start = s.start := rfl
@[simp] theorem State.setSeg_therm (s : State) (k : Nat) (x : SegBuf) : (s.setSeg k x).therm = s.therm := rfl
@[simp] theorem State.setSeg_safety (s : State) (k : Nat) (x : SegBuf) : (s.setSeg k x).safety = s.safety := rfl

/-! ### setErrRec -/

@[simp] theorem State.setErrRec_pending (s : State) (f : Nat) (x : ErrRec) : (s.setErrRec f x).pending = s.pending := rfl
@[simp] theorem State.setErrRec_power (s : State) (f : Nat) (x : ErrRec) : (s.setErrRec f x).power = s.power := rfl
@[simp] theorem State.setErrRec_aon (s : State) (f : Nat) (x : ErrRec) : (s.setErrRec f x).aon = s.aon := rfl
@[simp] theorem State.setErrRec_tick (s : State) (f : Nat) (x : ErrRec) : (s.setErrRec f x).tick = s.tick := rfl
@[simp] theorem State.setErrRec_corePhase (s : State) (f : Nat) (x : ErrRec) : (s.setErrRec f x).corePhase = s.corePhase := rfl
@[simp] theorem State.setErrRec_fresh (s : State) (f : Nat) (x : ErrRec) : (s.setErrRec f x).fresh = s.fresh := rfl
@[simp] theorem State.setErrRec_outbox (s : State) (f : Nat) (x : ErrRec) : (s.setErrRec f x).outbox = s.outbox := rfl
@[simp] theorem State.setErrRec_reply (s : State) (f : Nat) (x : ErrRec) : (s.setErrRec f x).reply = s.reply := rfl
@[simp] theorem State.setErrRec_regs (s : State) (f : Nat) (x : ErrRec) : (s.setErrRec f x).regs = s.regs := rfl
@[simp] theorem State.setErrRec_held (s : State) (f : Nat) (x : ErrRec) : (s.setErrRec f x).held = s.held := rfl
@[simp] theorem State.setErrRec_pendGroups (s : State) (f : Nat) (x : ErrRec) : (s.setErrRec f x).pendGroups = s.pendGroups := rfl
@[simp] theorem State.setErrRec_items (s : State) (f : Nat) (x : ErrRec) : (s.setErrRec f x).items = s.items := rfl
@[simp] theorem State.setErrRec_posted (s : State) (f : Nat) (x : ErrRec) : (s.setErrRec f x).posted = s.posted := rfl
@[simp] theorem State.setErrRec_dropped (s : State) (f : Nat) (x : ErrRec) : (s.setErrRec f x).dropped = s.dropped := rfl
@[simp] theorem State.setErrRec_mem (s : State) (f : Nat) (x : ErrRec) : (s.setErrRec f x).mem = s.mem := rfl
@[simp] theorem State.setErrRec_wo1 (s : State) (f : Nat) (x : ErrRec) : (s.setErrRec f x).wo1 = s.wo1 := rfl
@[simp] theorem State.setErrRec_lastReject (s : State) (f : Nat) (x : ErrRec) : (s.setErrRec f x).lastReject = s.lastReject := rfl
@[simp] theorem State.setErrRec_heads (s : State) (f : Nat) (x : ErrRec) : (s.setErrRec f x).heads = s.heads := rfl
@[simp] theorem State.setErrRec_groups (s : State) (f : Nat) (x : ErrRec) : (s.setErrRec f x).groups = s.groups := rfl
@[simp] theorem State.setErrRec_flares (s : State) (f : Nat) (x : ErrRec) : (s.setErrRec f x).flares = s.flares := rfl
@[simp] theorem State.setErrRec_sched (s : State) (f : Nat) (x : ErrRec) : (s.setErrRec f x).sched = s.sched := rfl
@[simp] theorem State.setErrRec_fabric (s : State) (f : Nat) (x : ErrRec) : (s.setErrRec f x).fabric = s.fabric := rfl
@[simp] theorem State.setErrRec_fa (s : State) (f : Nat) (x : ErrRec) : (s.setErrRec f x).fa = s.fa := rfl
@[simp] theorem State.setErrRec_tap (s : State) (f : Nat) (x : ErrRec) : (s.setErrRec f x).tap = s.tap := rfl
@[simp] theorem State.setErrRec_keep (s : State) (f : Nat) (x : ErrRec) : (s.setErrRec f x).keep = s.keep := rfl
@[simp] theorem State.setErrRec_lanterns (s : State) (f : Nat) (x : ErrRec) : (s.setErrRec f x).lanterns = s.lanterns := rfl
@[simp] theorem State.setErrRec_si (s : State) (f : Nat) (x : ErrRec) : (s.setErrRec f x).si = s.si := rfl
@[simp] theorem State.setErrRec_oq (s : State) (f : Nat) (x : ErrRec) : (s.setErrRec f x).oq = s.oq := rfl
@[simp] theorem State.setErrRec_tx (s : State) (f : Nat) (x : ErrRec) : (s.setErrRec f x).tx = s.tx := rfl
@[simp] theorem State.setErrRec_dict (s : State) (f : Nat) (x : ErrRec) : (s.setErrRec f x).dict = s.dict := rfl
@[simp] theorem State.setErrRec_ic (s : State) (f : Nat) (x : ErrRec) : (s.setErrRec f x).ic = s.ic := rfl
@[simp] theorem State.setErrRec_cv (s : State) (f : Nat) (x : ErrRec) : (s.setErrRec f x).cv = s.cv := rfl
@[simp] theorem State.setErrRec_bl (s : State) (f : Nat) (x : ErrRec) : (s.setErrRec f x).bl = s.bl := rfl
@[simp] theorem State.setErrRec_pm (s : State) (f : Nat) (x : ErrRec) : (s.setErrRec f x).pm = s.pm := rfl
@[simp] theorem State.setErrRec_casc (s : State) (f : Nat) (x : ErrRec) : (s.setErrRec f x).casc = s.casc := rfl
@[simp] theorem State.setErrRec_start (s : State) (f : Nat) (x : ErrRec) : (s.setErrRec f x).start = s.start := rfl
@[simp] theorem State.setErrRec_therm (s : State) (f : Nat) (x : ErrRec) : (s.setErrRec f x).therm = s.therm := rfl
@[simp] theorem State.setErrRec_safety (s : State) (f : Nat) (x : ErrRec) : (s.setErrRec f x).safety = s.safety := rfl

/-! ### setLink -/

@[simp] theorem State.setLink_pending (s : State) (k : Nat) (x : PLink) : (s.setLink k x).pending = s.pending := rfl
@[simp] theorem State.setLink_power (s : State) (k : Nat) (x : PLink) : (s.setLink k x).power = s.power := rfl
@[simp] theorem State.setLink_aon (s : State) (k : Nat) (x : PLink) : (s.setLink k x).aon = s.aon := rfl
@[simp] theorem State.setLink_tick (s : State) (k : Nat) (x : PLink) : (s.setLink k x).tick = s.tick := rfl
@[simp] theorem State.setLink_corePhase (s : State) (k : Nat) (x : PLink) : (s.setLink k x).corePhase = s.corePhase := rfl
@[simp] theorem State.setLink_fresh (s : State) (k : Nat) (x : PLink) : (s.setLink k x).fresh = s.fresh := rfl
@[simp] theorem State.setLink_outbox (s : State) (k : Nat) (x : PLink) : (s.setLink k x).outbox = s.outbox := rfl
@[simp] theorem State.setLink_reply (s : State) (k : Nat) (x : PLink) : (s.setLink k x).reply = s.reply := rfl
@[simp] theorem State.setLink_regs (s : State) (k : Nat) (x : PLink) : (s.setLink k x).regs = s.regs := rfl
@[simp] theorem State.setLink_held (s : State) (k : Nat) (x : PLink) : (s.setLink k x).held = s.held := rfl
@[simp] theorem State.setLink_pendGroups (s : State) (k : Nat) (x : PLink) : (s.setLink k x).pendGroups = s.pendGroups := rfl
@[simp] theorem State.setLink_items (s : State) (k : Nat) (x : PLink) : (s.setLink k x).items = s.items := rfl
@[simp] theorem State.setLink_posted (s : State) (k : Nat) (x : PLink) : (s.setLink k x).posted = s.posted := rfl
@[simp] theorem State.setLink_dropped (s : State) (k : Nat) (x : PLink) : (s.setLink k x).dropped = s.dropped := rfl
@[simp] theorem State.setLink_mem (s : State) (k : Nat) (x : PLink) : (s.setLink k x).mem = s.mem := rfl
@[simp] theorem State.setLink_wo1 (s : State) (k : Nat) (x : PLink) : (s.setLink k x).wo1 = s.wo1 := rfl
@[simp] theorem State.setLink_lastReject (s : State) (k : Nat) (x : PLink) : (s.setLink k x).lastReject = s.lastReject := rfl
@[simp] theorem State.setLink_heads (s : State) (k : Nat) (x : PLink) : (s.setLink k x).heads = s.heads := rfl
@[simp] theorem State.setLink_groups (s : State) (k : Nat) (x : PLink) : (s.setLink k x).groups = s.groups := rfl
@[simp] theorem State.setLink_flares (s : State) (k : Nat) (x : PLink) : (s.setLink k x).flares = s.flares := rfl
@[simp] theorem State.setLink_sched (s : State) (k : Nat) (x : PLink) : (s.setLink k x).sched = s.sched := rfl
@[simp] theorem State.setLink_fabric (s : State) (k : Nat) (x : PLink) : (s.setLink k x).fabric = s.fabric := rfl
@[simp] theorem State.setLink_fa (s : State) (k : Nat) (x : PLink) : (s.setLink k x).fa = s.fa := rfl
@[simp] theorem State.setLink_tap (s : State) (k : Nat) (x : PLink) : (s.setLink k x).tap = s.tap := rfl
@[simp] theorem State.setLink_keep (s : State) (k : Nat) (x : PLink) : (s.setLink k x).keep = s.keep := rfl
@[simp] theorem State.setLink_lanterns (s : State) (k : Nat) (x : PLink) : (s.setLink k x).lanterns = s.lanterns := rfl
@[simp] theorem State.setLink_si (s : State) (k : Nat) (x : PLink) : (s.setLink k x).si = s.si := rfl
@[simp] theorem State.setLink_oq (s : State) (k : Nat) (x : PLink) : (s.setLink k x).oq = s.oq := rfl
@[simp] theorem State.setLink_tx (s : State) (k : Nat) (x : PLink) : (s.setLink k x).tx = s.tx := rfl
@[simp] theorem State.setLink_dict (s : State) (k : Nat) (x : PLink) : (s.setLink k x).dict = s.dict := rfl
@[simp] theorem State.setLink_ic (s : State) (k : Nat) (x : PLink) : (s.setLink k x).ic = s.ic := rfl
@[simp] theorem State.setLink_cv (s : State) (k : Nat) (x : PLink) : (s.setLink k x).cv = s.cv := rfl
@[simp] theorem State.setLink_bl (s : State) (k : Nat) (x : PLink) : (s.setLink k x).bl = s.bl := rfl
@[simp] theorem State.setLink_pm (s : State) (k : Nat) (x : PLink) : (s.setLink k x).pm = s.pm := rfl
@[simp] theorem State.setLink_casc (s : State) (k : Nat) (x : PLink) : (s.setLink k x).casc = s.casc := rfl
@[simp] theorem State.setLink_start (s : State) (k : Nat) (x : PLink) : (s.setLink k x).start = s.start := rfl
@[simp] theorem State.setLink_therm (s : State) (k : Nat) (x : PLink) : (s.setLink k x).therm = s.therm := rfl
@[simp] theorem State.setLink_safety (s : State) (k : Nat) (x : PLink) : (s.setLink k x).safety = s.safety := rfl

/-! ### send -/

@[simp] theorem State.send_pending (s : State) (m : OutMsg) : (s.send m).pending = s.pending := rfl
@[simp] theorem State.send_power (s : State) (m : OutMsg) : (s.send m).power = s.power := rfl
@[simp] theorem State.send_aon (s : State) (m : OutMsg) : (s.send m).aon = s.aon := rfl
@[simp] theorem State.send_tick (s : State) (m : OutMsg) : (s.send m).tick = s.tick := rfl
@[simp] theorem State.send_corePhase (s : State) (m : OutMsg) : (s.send m).corePhase = s.corePhase := rfl
@[simp] theorem State.send_fresh (s : State) (m : OutMsg) : (s.send m).fresh = s.fresh := rfl
@[simp] theorem State.send_reply (s : State) (m : OutMsg) : (s.send m).reply = s.reply := rfl
@[simp] theorem State.send_regs (s : State) (m : OutMsg) : (s.send m).regs = s.regs := rfl
@[simp] theorem State.send_held (s : State) (m : OutMsg) : (s.send m).held = s.held := rfl
@[simp] theorem State.send_pendGroups (s : State) (m : OutMsg) : (s.send m).pendGroups = s.pendGroups := rfl
@[simp] theorem State.send_items (s : State) (m : OutMsg) : (s.send m).items = s.items := rfl
@[simp] theorem State.send_posted (s : State) (m : OutMsg) : (s.send m).posted = s.posted := rfl
@[simp] theorem State.send_dropped (s : State) (m : OutMsg) : (s.send m).dropped = s.dropped := rfl
@[simp] theorem State.send_mem (s : State) (m : OutMsg) : (s.send m).mem = s.mem := rfl
@[simp] theorem State.send_wo1 (s : State) (m : OutMsg) : (s.send m).wo1 = s.wo1 := rfl
@[simp] theorem State.send_lastReject (s : State) (m : OutMsg) : (s.send m).lastReject = s.lastReject := rfl
@[simp] theorem State.send_hl (s : State) (m : OutMsg) : (s.send m).hl = s.hl := rfl
@[simp] theorem State.send_heads (s : State) (m : OutMsg) : (s.send m).heads = s.heads := rfl
@[simp] theorem State.send_groups (s : State) (m : OutMsg) : (s.send m).groups = s.groups := rfl
@[simp] theorem State.send_flares (s : State) (m : OutMsg) : (s.send m).flares = s.flares := rfl
@[simp] theorem State.send_sched (s : State) (m : OutMsg) : (s.send m).sched = s.sched := rfl
@[simp] theorem State.send_fabric (s : State) (m : OutMsg) : (s.send m).fabric = s.fabric := rfl
@[simp] theorem State.send_fa (s : State) (m : OutMsg) : (s.send m).fa = s.fa := rfl
@[simp] theorem State.send_tap (s : State) (m : OutMsg) : (s.send m).tap = s.tap := rfl
@[simp] theorem State.send_keep (s : State) (m : OutMsg) : (s.send m).keep = s.keep := rfl
@[simp] theorem State.send_lanterns (s : State) (m : OutMsg) : (s.send m).lanterns = s.lanterns := rfl
@[simp] theorem State.send_si (s : State) (m : OutMsg) : (s.send m).si = s.si := rfl
@[simp] theorem State.send_oq (s : State) (m : OutMsg) : (s.send m).oq = s.oq := rfl
@[simp] theorem State.send_tx (s : State) (m : OutMsg) : (s.send m).tx = s.tx := rfl
@[simp] theorem State.send_dict (s : State) (m : OutMsg) : (s.send m).dict = s.dict := rfl
@[simp] theorem State.send_ic (s : State) (m : OutMsg) : (s.send m).ic = s.ic := rfl
@[simp] theorem State.send_cv (s : State) (m : OutMsg) : (s.send m).cv = s.cv := rfl
@[simp] theorem State.send_bl (s : State) (m : OutMsg) : (s.send m).bl = s.bl := rfl
@[simp] theorem State.send_pm (s : State) (m : OutMsg) : (s.send m).pm = s.pm := rfl
@[simp] theorem State.send_casc (s : State) (m : OutMsg) : (s.send m).casc = s.casc := rfl
@[simp] theorem State.send_start (s : State) (m : OutMsg) : (s.send m).start = s.start := rfl
@[simp] theorem State.send_therm (s : State) (m : OutMsg) : (s.send m).therm = s.therm := rfl
@[simp] theorem State.send_safety (s : State) (m : OutMsg) : (s.send m).safety = s.safety := rfl

/-! ### answer -/

@[simp] theorem State.answer_pending (s : State) (r : Reply) : (s.answer r).pending = s.pending := rfl
@[simp] theorem State.answer_power (s : State) (r : Reply) : (s.answer r).power = s.power := rfl
@[simp] theorem State.answer_aon (s : State) (r : Reply) : (s.answer r).aon = s.aon := rfl
@[simp] theorem State.answer_tick (s : State) (r : Reply) : (s.answer r).tick = s.tick := rfl
@[simp] theorem State.answer_corePhase (s : State) (r : Reply) : (s.answer r).corePhase = s.corePhase := rfl
@[simp] theorem State.answer_fresh (s : State) (r : Reply) : (s.answer r).fresh = s.fresh := rfl
@[simp] theorem State.answer_outbox (s : State) (r : Reply) : (s.answer r).outbox = s.outbox := rfl
@[simp] theorem State.answer_regs (s : State) (r : Reply) : (s.answer r).regs = s.regs := rfl
@[simp] theorem State.answer_held (s : State) (r : Reply) : (s.answer r).held = s.held := rfl
@[simp] theorem State.answer_pendGroups (s : State) (r : Reply) : (s.answer r).pendGroups = s.pendGroups := rfl
@[simp] theorem State.answer_items (s : State) (r : Reply) : (s.answer r).items = s.items := rfl
@[simp] theorem State.answer_posted (s : State) (r : Reply) : (s.answer r).posted = s.posted := rfl
@[simp] theorem State.answer_dropped (s : State) (r : Reply) : (s.answer r).dropped = s.dropped := rfl
@[simp] theorem State.answer_mem (s : State) (r : Reply) : (s.answer r).mem = s.mem := rfl
@[simp] theorem State.answer_wo1 (s : State) (r : Reply) : (s.answer r).wo1 = s.wo1 := rfl
@[simp] theorem State.answer_lastReject (s : State) (r : Reply) : (s.answer r).lastReject = s.lastReject := rfl
@[simp] theorem State.answer_hl (s : State) (r : Reply) : (s.answer r).hl = s.hl := rfl
@[simp] theorem State.answer_heads (s : State) (r : Reply) : (s.answer r).heads = s.heads := rfl
@[simp] theorem State.answer_groups (s : State) (r : Reply) : (s.answer r).groups = s.groups := rfl
@[simp] theorem State.answer_flares (s : State) (r : Reply) : (s.answer r).flares = s.flares := rfl
@[simp] theorem State.answer_sched (s : State) (r : Reply) : (s.answer r).sched = s.sched := rfl
@[simp] theorem State.answer_fabric (s : State) (r : Reply) : (s.answer r).fabric = s.fabric := rfl
@[simp] theorem State.answer_fa (s : State) (r : Reply) : (s.answer r).fa = s.fa := rfl
@[simp] theorem State.answer_tap (s : State) (r : Reply) : (s.answer r).tap = s.tap := rfl
@[simp] theorem State.answer_keep (s : State) (r : Reply) : (s.answer r).keep = s.keep := rfl
@[simp] theorem State.answer_lanterns (s : State) (r : Reply) : (s.answer r).lanterns = s.lanterns := rfl
@[simp] theorem State.answer_si (s : State) (r : Reply) : (s.answer r).si = s.si := rfl
@[simp] theorem State.answer_oq (s : State) (r : Reply) : (s.answer r).oq = s.oq := rfl
@[simp] theorem State.answer_tx (s : State) (r : Reply) : (s.answer r).tx = s.tx := rfl
@[simp] theorem State.answer_dict (s : State) (r : Reply) : (s.answer r).dict = s.dict := rfl
@[simp] theorem State.answer_ic (s : State) (r : Reply) : (s.answer r).ic = s.ic := rfl
@[simp] theorem State.answer_cv (s : State) (r : Reply) : (s.answer r).cv = s.cv := rfl
@[simp] theorem State.answer_bl (s : State) (r : Reply) : (s.answer r).bl = s.bl := rfl
@[simp] theorem State.answer_pm (s : State) (r : Reply) : (s.answer r).pm = s.pm := rfl
@[simp] theorem State.answer_casc (s : State) (r : Reply) : (s.answer r).casc = s.casc := rfl
@[simp] theorem State.answer_start (s : State) (r : Reply) : (s.answer r).start = s.start := rfl
@[simp] theorem State.answer_therm (s : State) (r : Reply) : (s.answer r).therm = s.therm := rfl
@[simp] theorem State.answer_safety (s : State) (r : Reply) : (s.answer r).safety = s.safety := rfl

/-! ### draw -/

@[simp] theorem State.draw_pending (s : State) (n : Nat) : (s.draw n).pending = s.pending := rfl
@[simp] theorem State.draw_power (s : State) (n : Nat) : (s.draw n).power = s.power := rfl
@[simp] theorem State.draw_aon (s : State) (n : Nat) : (s.draw n).aon = s.aon := rfl
@[simp] theorem State.draw_tick (s : State) (n : Nat) : (s.draw n).tick = s.tick := rfl
@[simp] theorem State.draw_corePhase (s : State) (n : Nat) : (s.draw n).corePhase = s.corePhase := rfl
@[simp] theorem State.draw_outbox (s : State) (n : Nat) : (s.draw n).outbox = s.outbox := rfl
@[simp] theorem State.draw_reply (s : State) (n : Nat) : (s.draw n).reply = s.reply := rfl
@[simp] theorem State.draw_regs (s : State) (n : Nat) : (s.draw n).regs = s.regs := rfl
@[simp] theorem State.draw_held (s : State) (n : Nat) : (s.draw n).held = s.held := rfl
@[simp] theorem State.draw_pendGroups (s : State) (n : Nat) : (s.draw n).pendGroups = s.pendGroups := rfl
@[simp] theorem State.draw_items (s : State) (n : Nat) : (s.draw n).items = s.items := rfl
@[simp] theorem State.draw_posted (s : State) (n : Nat) : (s.draw n).posted = s.posted := rfl
@[simp] theorem State.draw_dropped (s : State) (n : Nat) : (s.draw n).dropped = s.dropped := rfl
@[simp] theorem State.draw_mem (s : State) (n : Nat) : (s.draw n).mem = s.mem := rfl
@[simp] theorem State.draw_wo1 (s : State) (n : Nat) : (s.draw n).wo1 = s.wo1 := rfl
@[simp] theorem State.draw_lastReject (s : State) (n : Nat) : (s.draw n).lastReject = s.lastReject := rfl
@[simp] theorem State.draw_hl (s : State) (n : Nat) : (s.draw n).hl = s.hl := rfl
@[simp] theorem State.draw_heads (s : State) (n : Nat) : (s.draw n).heads = s.heads := rfl
@[simp] theorem State.draw_groups (s : State) (n : Nat) : (s.draw n).groups = s.groups := rfl
@[simp] theorem State.draw_flares (s : State) (n : Nat) : (s.draw n).flares = s.flares := rfl
@[simp] theorem State.draw_sched (s : State) (n : Nat) : (s.draw n).sched = s.sched := rfl
@[simp] theorem State.draw_fabric (s : State) (n : Nat) : (s.draw n).fabric = s.fabric := rfl
@[simp] theorem State.draw_fa (s : State) (n : Nat) : (s.draw n).fa = s.fa := rfl
@[simp] theorem State.draw_tap (s : State) (n : Nat) : (s.draw n).tap = s.tap := rfl
@[simp] theorem State.draw_keep (s : State) (n : Nat) : (s.draw n).keep = s.keep := rfl
@[simp] theorem State.draw_lanterns (s : State) (n : Nat) : (s.draw n).lanterns = s.lanterns := rfl
@[simp] theorem State.draw_si (s : State) (n : Nat) : (s.draw n).si = s.si := rfl
@[simp] theorem State.draw_oq (s : State) (n : Nat) : (s.draw n).oq = s.oq := rfl
@[simp] theorem State.draw_tx (s : State) (n : Nat) : (s.draw n).tx = s.tx := rfl
@[simp] theorem State.draw_dict (s : State) (n : Nat) : (s.draw n).dict = s.dict := rfl
@[simp] theorem State.draw_ic (s : State) (n : Nat) : (s.draw n).ic = s.ic := rfl
@[simp] theorem State.draw_cv (s : State) (n : Nat) : (s.draw n).cv = s.cv := rfl
@[simp] theorem State.draw_bl (s : State) (n : Nat) : (s.draw n).bl = s.bl := rfl
@[simp] theorem State.draw_pm (s : State) (n : Nat) : (s.draw n).pm = s.pm := rfl
@[simp] theorem State.draw_casc (s : State) (n : Nat) : (s.draw n).casc = s.casc := rfl
@[simp] theorem State.draw_start (s : State) (n : Nat) : (s.draw n).start = s.start := rfl
@[simp] theorem State.draw_therm (s : State) (n : Nat) : (s.draw n).therm = s.therm := rfl
@[simp] theorem State.draw_safety (s : State) (n : Nat) : (s.draw n).safety = s.safety := rfl

/-! ### writeMem -/

@[simp] theorem State.writeMem_pending (s : State) (dpa : Nat) (l : List Byte) : (s.writeMem dpa l).pending = s.pending := rfl
@[simp] theorem State.writeMem_power (s : State) (dpa : Nat) (l : List Byte) : (s.writeMem dpa l).power = s.power := rfl
@[simp] theorem State.writeMem_aon (s : State) (dpa : Nat) (l : List Byte) : (s.writeMem dpa l).aon = s.aon := rfl
@[simp] theorem State.writeMem_tick (s : State) (dpa : Nat) (l : List Byte) : (s.writeMem dpa l).tick = s.tick := rfl
@[simp] theorem State.writeMem_corePhase (s : State) (dpa : Nat) (l : List Byte) : (s.writeMem dpa l).corePhase = s.corePhase := rfl
@[simp] theorem State.writeMem_fresh (s : State) (dpa : Nat) (l : List Byte) : (s.writeMem dpa l).fresh = s.fresh := rfl
@[simp] theorem State.writeMem_outbox (s : State) (dpa : Nat) (l : List Byte) : (s.writeMem dpa l).outbox = s.outbox := rfl
@[simp] theorem State.writeMem_reply (s : State) (dpa : Nat) (l : List Byte) : (s.writeMem dpa l).reply = s.reply := rfl
@[simp] theorem State.writeMem_regs (s : State) (dpa : Nat) (l : List Byte) : (s.writeMem dpa l).regs = s.regs := rfl
@[simp] theorem State.writeMem_held (s : State) (dpa : Nat) (l : List Byte) : (s.writeMem dpa l).held = s.held := rfl
@[simp] theorem State.writeMem_pendGroups (s : State) (dpa : Nat) (l : List Byte) : (s.writeMem dpa l).pendGroups = s.pendGroups := rfl
@[simp] theorem State.writeMem_items (s : State) (dpa : Nat) (l : List Byte) : (s.writeMem dpa l).items = s.items := rfl
@[simp] theorem State.writeMem_posted (s : State) (dpa : Nat) (l : List Byte) : (s.writeMem dpa l).posted = s.posted := rfl
@[simp] theorem State.writeMem_dropped (s : State) (dpa : Nat) (l : List Byte) : (s.writeMem dpa l).dropped = s.dropped := rfl
@[simp] theorem State.writeMem_wo1 (s : State) (dpa : Nat) (l : List Byte) : (s.writeMem dpa l).wo1 = s.wo1 := rfl
@[simp] theorem State.writeMem_lastReject (s : State) (dpa : Nat) (l : List Byte) : (s.writeMem dpa l).lastReject = s.lastReject := rfl
@[simp] theorem State.writeMem_hl (s : State) (dpa : Nat) (l : List Byte) : (s.writeMem dpa l).hl = s.hl := rfl
@[simp] theorem State.writeMem_heads (s : State) (dpa : Nat) (l : List Byte) : (s.writeMem dpa l).heads = s.heads := rfl
@[simp] theorem State.writeMem_groups (s : State) (dpa : Nat) (l : List Byte) : (s.writeMem dpa l).groups = s.groups := rfl
@[simp] theorem State.writeMem_flares (s : State) (dpa : Nat) (l : List Byte) : (s.writeMem dpa l).flares = s.flares := rfl
@[simp] theorem State.writeMem_sched (s : State) (dpa : Nat) (l : List Byte) : (s.writeMem dpa l).sched = s.sched := rfl
@[simp] theorem State.writeMem_fa (s : State) (dpa : Nat) (l : List Byte) : (s.writeMem dpa l).fa = s.fa := rfl
@[simp] theorem State.writeMem_tap (s : State) (dpa : Nat) (l : List Byte) : (s.writeMem dpa l).tap = s.tap := rfl
@[simp] theorem State.writeMem_keep (s : State) (dpa : Nat) (l : List Byte) : (s.writeMem dpa l).keep = s.keep := rfl
@[simp] theorem State.writeMem_lanterns (s : State) (dpa : Nat) (l : List Byte) : (s.writeMem dpa l).lanterns = s.lanterns := rfl
@[simp] theorem State.writeMem_si (s : State) (dpa : Nat) (l : List Byte) : (s.writeMem dpa l).si = s.si := rfl
@[simp] theorem State.writeMem_oq (s : State) (dpa : Nat) (l : List Byte) : (s.writeMem dpa l).oq = s.oq := rfl
@[simp] theorem State.writeMem_tx (s : State) (dpa : Nat) (l : List Byte) : (s.writeMem dpa l).tx = s.tx := rfl
@[simp] theorem State.writeMem_dict (s : State) (dpa : Nat) (l : List Byte) : (s.writeMem dpa l).dict = s.dict := rfl
@[simp] theorem State.writeMem_ic (s : State) (dpa : Nat) (l : List Byte) : (s.writeMem dpa l).ic = s.ic := rfl
@[simp] theorem State.writeMem_cv (s : State) (dpa : Nat) (l : List Byte) : (s.writeMem dpa l).cv = s.cv := rfl
@[simp] theorem State.writeMem_bl (s : State) (dpa : Nat) (l : List Byte) : (s.writeMem dpa l).bl = s.bl := rfl
@[simp] theorem State.writeMem_pm (s : State) (dpa : Nat) (l : List Byte) : (s.writeMem dpa l).pm = s.pm := rfl
@[simp] theorem State.writeMem_casc (s : State) (dpa : Nat) (l : List Byte) : (s.writeMem dpa l).casc = s.casc := rfl
@[simp] theorem State.writeMem_start (s : State) (dpa : Nat) (l : List Byte) : (s.writeMem dpa l).start = s.start := rfl
@[simp] theorem State.writeMem_therm (s : State) (dpa : Nat) (l : List Byte) : (s.writeMem dpa l).therm = s.therm := rfl
@[simp] theorem State.writeMem_safety (s : State) (dpa : Nat) (l : List Byte) : (s.writeMem dpa l).safety = s.safety := rfl

/-! ### Reading what was written -/

@[simp] theorem State.head_setHead (s : State) (k : Nat) (v : Head) : (s.setHead k v).head k = v := SMap.get_set _ _ _ _
theorem State.head_setHead_ne (s : State) (v : Head) {j k : Nat} (h : j ≠ k) : (s.setHead k v).head j = s.head j := SMap.get_set_ne _ _ _ _ h
@[simp] theorem State.pgroup_setPgroup (s : State) (k : Nat) (v : PGroup) : (s.setPgroup k v).pgroup k = v := SMap.get_set _ _ _ _
theorem State.pgroup_setPgroup_ne (s : State) (v : PGroup) {j k : Nat} (h : j ≠ k) : (s.setPgroup k v).pgroup j = s.pgroup j := SMap.get_set_ne _ _ _ _ h
@[simp] theorem State.layer_setLayer (s : State) (k : Nat) (v : Layer) : (s.setLayer k v).layer k = v := SMap.get_set _ _ _ _
theorem State.layer_setLayer_ne (s : State) (v : Layer) {j k : Nat} (h : j ≠ k) : (s.setLayer k v).layer j = s.layer j := SMap.get_set_ne _ _ _ _ h
@[simp] theorem State.bank_setBank (s : State) (k : Nat) (v : Bank) : (s.setBank k v).bank k = v := SMap.get_set _ _ _ _
theorem State.bank_setBank_ne (s : State) (v : Bank) {j k : Nat} (h : j ≠ k) : (s.setBank k v).bank j = s.bank j := SMap.get_set_ne _ _ _ _ h
@[simp] theorem State.channel_setChannel (s : State) (k : Nat) (v : Channel) : (s.setChannel k v).channel k = v := SMap.get_set _ _ _ _
theorem State.channel_setChannel_ne (s : State) (v : Channel) {j k : Nat} (h : j ≠ k) : (s.setChannel k v).channel j = s.channel j := SMap.get_set_ne _ _ _ _ h
@[simp] theorem State.keepHead_setKeepHead (s : State) (k : Nat) (v : KeepHead) : (s.setKeepHead k v).keepHead k = v := SMap.get_set _ _ _ _
theorem State.keepHead_setKeepHead_ne (s : State) (v : KeepHead) {j k : Nat} (h : j ≠ k) : (s.setKeepHead k v).keepHead j = s.keepHead j := SMap.get_set_ne _ _ _ _ h
@[simp] theorem State.lantern_setLantern (s : State) (k : Nat) (v : Lantern) : (s.setLantern k v).lantern k = v := SMap.get_set _ _ _ _
theorem State.lantern_setLantern_ne (s : State) (v : Lantern) {j k : Nat} (h : j ≠ k) : (s.setLantern k v).lantern j = s.lantern j := SMap.get_set_ne _ _ _ _ h
@[simp] theorem State.stream_setStream (s : State) (k : Nat) (v : Stream) : (s.setStream k v).stream k = v := SMap.get_set _ _ _ _
theorem State.stream_setStream_ne (s : State) (v : Stream) {j k : Nat} (h : j ≠ k) : (s.setStream k v).stream j = s.stream j := SMap.get_set_ne _ _ _ _ h
@[simp] theorem State.rx_setRx (s : State) (k : Nat) (v : RxPort) : (s.setRx k v).rx k = v := SMap.get_set _ _ _ _
theorem State.rx_setRx_ne (s : State) (v : RxPort) {j k : Nat} (h : j ≠ k) : (s.setRx k v).rx j = s.rx j := SMap.get_set_ne _ _ _ _ h
@[simp] theorem State.race_setRace (s : State) (k : Nat) (v : Race) : (s.setRace k v).race k = v := SMap.get_set _ _ _ _
theorem State.race_setRace_ne (s : State) (v : Race) {j k : Nat} (h : j ≠ k) : (s.setRace k v).race j = s.race j := SMap.get_set_ne _ _ _ _ h
@[simp] theorem State.egress_setEgress (s : State) (k : Nat) (v : Egress) : (s.setEgress k v).egress k = v := SMap.get_set _ _ _ _
theorem State.egress_setEgress_ne (s : State) (v : Egress) {j k : Nat} (h : j ≠ k) : (s.setEgress k v).egress j = s.egress j := SMap.get_set_ne _ _ _ _ h
@[simp] theorem State.ticket_setTicket (s : State) (k : Nat) (v : Ticket) : (s.setTicket k v).ticket k = v := SMap.get_set _ _ _ _
theorem State.ticket_setTicket_ne (s : State) (v : Ticket) {j k : Nat} (h : j ≠ k) : (s.setTicket k v).ticket j = s.ticket j := SMap.get_set_ne _ _ _ _ h
@[simp] theorem State.win_setWin (s : State) (k : Nat) (v : Win) : (s.setWin k v).win k = v := SMap.get_set _ _ _ _
theorem State.win_setWin_ne (s : State) (v : Win) {j k : Nat} (h : j ≠ k) : (s.setWin k v).win j = s.win j := SMap.get_set_ne _ _ _ _ h
@[simp] theorem State.target_setTarget (s : State) (k : Nat) (v : Target) : (s.setTarget k v).target k = v := SMap.get_set _ _ _ _
theorem State.target_setTarget_ne (s : State) (v : Target) {j k : Nat} (h : j ≠ k) : (s.setTarget k v).target j = s.target j := SMap.get_set_ne _ _ _ _ h
@[simp] theorem State.cgroup_setCgroup (s : State) (k : Nat) (v : CGroup) : (s.setCgroup k v).cgroup k = v := SMap.get_set _ _ _ _
theorem State.cgroup_setCgroup_ne (s : State) (v : CGroup) {j k : Nat} (h : j ≠ k) : (s.setCgroup k v).cgroup j = s.cgroup j := SMap.get_set_ne _ _ _ _ h
@[simp] theorem State.cvUnit_setCvUnit (s : State) (k : Nat) (v : CvUnit) : (s.setCvUnit k v).cvUnit k = v := SMap.get_set _ _ _ _
theorem State.cvUnit_setCvUnit_ne (s : State) (v : CvUnit) {j k : Nat} (h : j ≠ k) : (s.setCvUnit k v).cvUnit j = s.cvUnit j := SMap.get_set_ne _ _ _ _ h
@[simp] theorem State.engine_setEngine (s : State) (k : Nat) (v : BlitEng) : (s.setEngine k v).engine k = v := SMap.get_set _ _ _ _
theorem State.engine_setEngine_ne (s : State) (v : BlitEng) {j k : Nat} (h : j ≠ k) : (s.setEngine k v).engine j = s.engine j := SMap.get_set_ne _ _ _ _ h
@[simp] theorem State.osl_setOsl (s : State) (k : Nat) (v : Osleig) : (s.setOsl k v).osl k = v := SMap.get_set _ _ _ _
theorem State.osl_setOsl_ne (s : State) (v : Osleig) {j k : Nat} (h : j ≠ k) : (s.setOsl k v).osl j = s.osl j := SMap.get_set_ne _ _ _ _ h
@[simp] theorem State.seg_setSeg (s : State) (k : Nat) (v : SegBuf) : (s.setSeg k v).seg k = v := SMap.get_set _ _ _ _
theorem State.seg_setSeg_ne (s : State) (v : SegBuf) {j k : Nat} (h : j ≠ k) : (s.setSeg k v).seg j = s.seg j := SMap.get_set_ne _ _ _ _ h
@[simp] theorem State.errRec_setErrRec (s : State) (k : Nat) (v : ErrRec) : (s.setErrRec k v).errRec k = v := SMap.get_set _ _ _ _
theorem State.errRec_setErrRec_ne (s : State) (v : ErrRec) {j k : Nat} (h : j ≠ k) : (s.setErrRec k v).errRec j = s.errRec j := SMap.get_set_ne _ _ _ _ h
@[simp] theorem State.link_setLink (s : State) (k : Nat) (v : PLink) : (s.setLink k v).link k = v := SMap.get_set _ _ _ _
theorem State.link_setLink_ne (s : State) (v : PLink) {j k : Nat} (h : j ≠ k) : (s.setLink k v).link j = s.link j := SMap.get_set_ne _ _ _ _ h
@[simp] theorem State.reg_setReg (s : State) (r : RegId) (v : Word) : (s.setReg r v).reg r = v := SMap.get_set _ _ _ _
theorem State.reg_setReg_ne (s : State) (v : Word) {r t : RegId} (h : t.addr ≠ r.addr) : (s.setReg r v).reg t = s.reg t :=
  SMap.get_set_ne _ _ _ _ h
@[simp] theorem State.txPort_setTxPort (s : State) (q t : Nat) (x : TxPort) : (s.setTxPort q t x).txPort q t = x := SMap.get_set _ _ _ _
@[simp] theorem State.share_setShare (s : State) (e f : Nat) (x : BlitShare) : (s.setShare e f x).share e f = x := SMap.get_set _ _ _ _
@[simp] theorem State.sig_setSig (s : State) (n r : Nat) (x : SigRun) : (s.setSig n r x).sig n r = x := SMap.get_set _ _ _ _

end Sys2Proof.Machine
end

