-- ==== Sys2Proof/Laws/Sound.lean ====
section
/-! SUPPORT. What every operation of the model keeps, as one relation between the states before and after: each operation has one
law, and the law of a composition follows by citing the laws of its parts. -/

set_option linter.all false

namespace Sys2Proof.Machine

/-- No layer queue holds more than four entries, nor that of a slot which an old head still shows. -/
def QueuesShort (s : State) : Prop := (∀ i, (s.layer i).queue.length ≤ 4) ∧ ∀ x ∈ s.fa.linger, x.layer.queue.length ≤ 4

/-- What an operation keeps: the invariants, the queue of commands, and what is burnt into the device. -/
structure Sound (s t : State) : Prop where
  mem : SMap.wf s.mem 0 = true → SMap.wf t.mem 0 = true
  queue : QueuesShort s → QueuesShort t
  stack : (∀ i, (s.target i).stack.length ≤ 8) → ∀ i, (t.target i).stack.length ≤ 8
  wear : s.aon.otpWear ≤ 300 → t.aon.otpWear ≤ 300
  burnt : s.aon.otpWear ≤ t.aon.otpWear
  revoked : ∀ j, s.aon.fuseRevoked.getLsbD j = true → t.aon.fuseRevoked.getLsbD j = true
  pending : t.pending = s.pending

theorem Sound.refl (s : State) : Sound s s := ⟨id, id, id, id, Nat.le_refl _, fun _ h => h, rfl⟩

theorem Sound.trans {s t u : State} (h : Sound s t) (k : Sound t u) : Sound s u :=
  ⟨fun x => k.mem (h.mem x), fun x => k.queue (h.queue x), fun x => k.stack (h.stack x), fun x => k.wear (h.wear x),
   Nat.le_trans h.burnt k.burnt, fun j x => k.revoked j (h.revoked j x), k.pending.trans h.pending⟩

/-- An update of none of the fields that matter. -/
theorem Sound.same {s t u : State} (h : Sound s t) (hm : u.mem = t.mem) (hl : u.fa.layers = t.fa.layers)
    (hg : u.fa.linger = t.fa.linger)
    (ht : u.ic.targets = t.ic.targets) (hw : u.aon.otpWear = t.aon.otpWear) (hr : u.aon.fuseRevoked = t.aon.fuseRevoked)
    (hp : u.pending = t.pending) : Sound s u :=
  ⟨fun x => hm ▸ h.mem x, fun x => by unfold QueuesShort State.layer; rw [hl, hg]; exact h.queue x,
   fun x i => by unfold State.target; rw [ht]; exact h.stack x i, fun x => hw ▸ h.wear x, hw ▸ h.burnt,
   fun j x => hr ▸ h.revoked j x, hp.trans h.pending⟩

/-- The same, for an update written field by field. -/
theorem Sound.update {s t : State} (h : Sound s t)
    {power' : Power} {tick' : Nat} {corePhase' : Nat} {fresh' : Nat} {outbox' : List OutMsg} {reply' : Reply}
    {regs' : SMap Word} {held' : SMap Held} {pendGroups' : PendGroups} {items' : List Item} {posted' : List Landing}
    {dropped' : List PBlock} {wo1' : List Nat} {lastReject' : SMap Nat} {hl' : Hl} {heads' : SMap Head}
    {groups' : SMap PGroup} {flares' : Flares} {sched' : Sched} {fabric' : Fabric} {tap' : SMap (List Word)} {keep' : Keep}
    {lanterns' : SMap Lantern} {si' : Ingress} {oq' : Output} {tx' : Tx} {dict' : Dict} {cv' : SMap CvUnit} {bl' : Blitter}
    {pm' : Perf} {casc' : Cascade} {start' : Start} {therm' : Thermal} {safety' : Safety} :
    Sound s { t with
      power := power', tick := tick', corePhase := corePhase', fresh := fresh', outbox := outbox', reply := reply',
      regs := regs', held := held', pendGroups := pendGroups', items := items', posted := posted', dropped := dropped',
      wo1 := wo1', lastReject := lastReject', hl := hl', heads := heads', groups := groups', flares := flares',
      sched := sched', fabric := fabric', tap := tap', keep := keep', lanterns := lanterns', si := si', oq := oq',
      tx := tx', dict := dict', cv := cv', bl := bl', pm := pm', casc := casc', start := start', therm := therm',
      safety := safety' } :=
  h.same rfl rfl rfl rfl rfl rfl rfl

/-- The same, with fields of the fabric of layers that are not the layers. -/
theorem Sound.updateFa {s t : State} (h : Sound s t)
    {power' : Power} {tick' : Nat} {corePhase' : Nat} {fresh' : Nat} {outbox' : List OutMsg} {reply' : Reply}
    {regs' : SMap Word} {held' : SMap Held} {pendGroups' : PendGroups} {items' : List Item} {posted' : List Landing}
    {dropped' : List PBlock} {wo1' : List Nat} {lastReject' : SMap Nat} {hl' : Hl} {heads' : SMap Head}
    {groups' : SMap PGroup} {flares' : Flares} {sched' : Sched} {fabric' : Fabric} {tap' : SMap (List Word)} {keep' : Keep}
    {lanterns' : SMap Lantern} {si' : Ingress} {oq' : Output} {tx' : Tx} {dict' : Dict} {cv' : SMap CvUnit} {bl' : Blitter}
    {pm' : Perf} {casc' : Cascade} {start' : Start} {therm' : Thermal} {safety' : Safety} {f_fences : SMap Word}
    {f_recs : SMap DoneRec} {f_doneWr : SMap Nat} {f_doneRd : SMap Nat} {f_result : SMap Nat} {f_seq : Nat}
    {f_due : List (Nat × DoneRec)} :
    Sound s { t with
      power := power', tick := tick', corePhase := corePhase', fresh := fresh', outbox := outbox', reply := reply',
      regs := regs', held := held', pendGroups := pendGroups', items := items', posted := posted', dropped := dropped',
      wo1 := wo1', lastReject := lastReject', hl := hl', heads := heads', groups := groups', flares := flares',
      sched := sched', fabric := fabric', tap := tap', keep := keep', lanterns := lanterns', si := si', oq := oq',
      tx := tx', dict := dict', cv := cv', bl := bl', pm := pm', casc := casc', start := start', therm := therm',
      safety := safety',
      fa := { t.fa with
        fences := f_fences, recs := f_recs, doneWr := f_doneWr, doneRd := f_doneRd, result := f_result, seq := f_seq, due := f_due } } :=
  h.same rfl rfl rfl rfl rfl rfl rfl

/-- The same, with the coalescing groups. -/
theorem Sound.updateIc {s t : State} (h : Sound s t)
    {power' : Power} {tick' : Nat} {corePhase' : Nat} {fresh' : Nat} {outbox' : List OutMsg} {reply' : Reply}
    {regs' : SMap Word} {held' : SMap Held} {pendGroups' : PendGroups} {items' : List Item} {posted' : List Landing}
    {dropped' : List PBlock} {wo1' : List Nat} {lastReject' : SMap Nat} {hl' : Hl} {heads' : SMap Head}
    {groups' : SMap PGroup} {flares' : Flares} {sched' : Sched} {fabric' : Fabric} {tap' : SMap (List Word)} {keep' : Keep}
    {lanterns' : SMap Lantern} {si' : Ingress} {oq' : Output} {tx' : Tx} {dict' : Dict} {cv' : SMap CvUnit} {bl' : Blitter}
    {pm' : Perf} {casc' : Cascade} {start' : Start} {therm' : Thermal} {safety' : Safety} {i_groups : SMap CGroup} :
    Sound s { t with
      power := power', tick := tick', corePhase := corePhase', fresh := fresh', outbox := outbox', reply := reply',
      regs := regs', held := held', pendGroups := pendGroups', items := items', posted := posted', dropped := dropped',
      wo1 := wo1', lastReject := lastReject', hl := hl', heads := heads', groups := groups', flares := flares',
      sched := sched', fabric := fabric', tap := tap', keep := keep', lanterns := lanterns', si := si', oq := oq',
      tx := tx', dict := dict', cv := cv', bl := bl', pm := pm', casc := casc', start := start', therm := therm',
      safety := safety',
      ic := { t.ic with groups := i_groups } } :=
  h.same rfl rfl rfl rfl rfl rfl rfl

/-- The same, with fields of the always-on domain that are not burnt. -/
theorem Sound.updateAon {s t : State} (h : Sound s t)
    {power' : Power} {tick' : Nat} {corePhase' : Nat} {fresh' : Nat} {outbox' : List OutMsg} {reply' : Reply}
    {regs' : SMap Word} {held' : SMap Held} {pendGroups' : PendGroups} {items' : List Item} {posted' : List Landing}
    {dropped' : List PBlock} {wo1' : List Nat} {lastReject' : SMap Nat} {hl' : Hl} {heads' : SMap Head}
    {groups' : SMap PGroup} {flares' : Flares} {sched' : Sched} {fabric' : Fabric} {tap' : SMap (List Word)} {keep' : Keep}
    {lanterns' : SMap Lantern} {si' : Ingress} {oq' : Output} {tx' : Tx} {dict' : Dict} {cv' : SMap CvUnit} {bl' : Blitter}
    {pm' : Perf} {casc' : Cascade} {start' : Start} {therm' : Thermal} {safety' : Safety} {a_straps : Straps}
    {a_porstLow : Bool} {a_sysrstLow : Bool} {a_shutdownCause : Byte} {a_faultnLow : Bool} {a_nor : Nor}
    {a_railsWarn a_railsOut : List Nat} :
    Sound s { t with
      power := power', tick := tick', corePhase := corePhase', fresh := fresh', outbox := outbox', reply := reply',
      regs := regs', held := held', pendGroups := pendGroups', items := items', posted := posted', dropped := dropped',
      wo1 := wo1', lastReject := lastReject', hl := hl', heads := heads', groups := groups', flares := flares',
      sched := sched', fabric := fabric', tap := tap', keep := keep', lanterns := lanterns', si := si', oq := oq',
      tx := tx', dict := dict', cv := cv', bl := bl', pm := pm', casc := casc', start := start', therm := therm',
      safety := safety',
      aon := { t.aon with
        straps := a_straps, porstLow := a_porstLow, sysrstLow := a_sysrstLow, shutdownCause := a_shutdownCause,
        faultnLow := a_faultnLow, nor := a_nor, railsWarn := a_railsWarn, railsOut := a_railsOut } } :=
  h.same rfl rfl rfl rfl rfl rfl rfl

/-- A fact shown first and then used. -/
theorem Sound.cut (p : Prop) {q : Prop} (h : p) (k : p → q) : q := k h

/-- A goal kept as it is written. -/
theorem Sound.hold {p : Prop} (h : p) : p := h

/-- The state of an answer taken apart. -/
theorem Sound.fst {α : Type _} {s t : State} {p : State × α} {a : α} (e : p = (t, a)) (h : Sound s p.1) : Sound s t := by
  rw [e] at h; exact h

/-- A state bound by `let`. -/
theorem Sound.bind {s v : State} {b : State → State} (hv : Sound s v) (hb : ∀ x, Sound s x → Sound s (b x)) :
    Sound s (let x := v; b x) := hb v hv

/-- A value bound by `let`, whatever it is. -/
theorem Sound.value {α : Sort _} {s : State} (v : α) {b : α → State} (hb : ∀ x, Sound s (b x)) : Sound s (let x := v; b x) := hb v

/-- A fold of an operation that keeps them. -/
theorem Sound.fold {α : Type _} {s t : State} {f : State → α → State} (l : List α) (h : Sound s t)
    (hf : ∀ x a, Sound s x → Sound s (f x a)) : Sound s (l.foldl f t) := by
  induction l generalizing t with
  | nil => exact h
  | cons a l ih => exact ih (hf t a h)

/-- A fold that carries the state with something else. -/
theorem Sound.foldP {α β : Type _} {s : State} {p : State × β} {f : State × β → α → State × β} (l : List α) (h : Sound s p.1)
    (hf : ∀ x a, Sound s x.1 → Sound s (f x a).1) : Sound s (l.foldl f p).1 := by
  induction l generalizing p with
  | nil => exact h
  | cons a l ih => exact ih (hf p a h)

/-- Bytes stored: the canonical form stays. -/
theorem wf_storeBytes (l : List Byte) (m : SMap Byte) (d : Nat) (h : SMap.wf m 0 = true) :
    SMap.wf (storeBytes m d l) 0 = true := by
  induction l generalizing m d with
  | nil => exact h
  | cons b l ih => exact ih _ _ (SMap.wf_set d b h)

/-- Bytes stored through byte enables: the canonical form stays. -/
theorem wf_storeMasked (l : List (Option Byte)) (m : SMap Byte) (d : Nat) (h : SMap.wf m 0 = true) :
    SMap.wf (storeMasked m d l) 0 = true := by
  induction l generalizing m d with
  | nil => exact h
  | cons b l ih =>
    cases b with
    | none => exact ih _ _ h
    | some b => exact ih _ _ (SMap.wf_set d b h)

/-- A layer written: its queue holds no more than four entries where every queue did. -/
theorem Sound.setLayer {s t : State} (h : Sound s t) (i : Nat) (l : Layer)
    (hl : (t.layer i).queue.length ≤ 4 → l.queue.length ≤ 4) : Sound s (t.setLayer i l) :=
  { h with
    queue := fun x => ⟨fun j => by
      by_cases e : j = i
      · subst e; rw [State.layer_setLayer]; exact hl ((h.queue x).1 j)
      · rw [State.layer_setLayer_ne _ _ e]; exact (h.queue x).1 j, (h.queue x).2⟩ }

/-- A layer written with a queue of its own. -/
theorem Sound.setLayerOf {s t : State} (h : Sound s t) (i : Nat) (l : Layer)
    (hl : QueuesShort s → l.queue.length ≤ 4) : Sound s (t.setLayer i l) :=
  { h with
    queue := fun x => ⟨fun j => by
      by_cases e : j = i
      · subst e; rw [State.layer_setLayer]; exact hl x
      · rw [State.layer_setLayer_ne _ _ e]; exact (h.queue x).1 j, (h.queue x).2⟩ }

/-- The slots that old heads still show replaced. -/
theorem Sound.setLinger {s t : State} (h : Sound s t) (l : List Linger)
    (hl : QueuesShort s → ∀ x ∈ l, x.layer.queue.length ≤ 4) : Sound s { t with fa := { t.fa with linger := l } } :=
  { h with queue := fun x => ⟨(h.queue x).1, hl x⟩ }

/-- A target written: its stack holds no more than eight entries where every stack did. -/
theorem Sound.setTarget {s t : State} (h : Sound s t) (i : Nat) (v : Target)
    (hv : (t.target i).stack.length ≤ 8 → v.stack.length ≤ 8) : Sound s (t.setTarget i v) :=
  { h with
    stack := fun x j => by
      by_cases e : j = i
      · subst e; rw [State.target_setTarget]; exact hv (h.stack x j)
      · rw [State.target_setTarget_ne _ _ e]; exact h.stack x j }

/-- A target written with a stack of its own. -/
theorem Sound.setTargetOf {s t : State} (h : Sound s t) (i : Nat) (v : Target)
    (hv : (∀ j, (s.target j).stack.length ≤ 8) → v.stack.length ≤ 8) : Sound s (t.setTarget i v) :=
  { h with
    stack := fun x j => by
      by_cases e : j = i
      · subst e; rw [State.target_setTarget]; exact hv x
      · rw [State.target_setTarget_ne _ _ e]; exact h.stack x j }

end Sys2Proof.Machine
end

