-- ==== Sys2Proof/Laws/KeepOps.lean ====
section
/-! SUPPORT. What the operations of Ops keep. -/

set_option linter.all false

namespace Sys2Proof.Machine

theorem State.setReg_sound {org : State} (s : State) (r : RegId) (v : Word) (sk : Sound org s) : Sound org (State.setReg s r v) := by
  unfold State.setReg
  repeat' first
    | with_reducible assumption
    | (extract_lets +onlyGivenNames b; first | (unfold b; clear b) | clear b)
    | exact Sound.update (by assumption)

theorem State.setKey_sound {org : State} (s : State) (a : Nat) (v : Word) (sk : Sound org s) : Sound org (State.setKey s a v) := by
  unfold State.setKey
  repeat' first
    | with_reducible assumption
    | (extract_lets +onlyGivenNames b; first | (unfold b; clear b) | clear b)
    | exact Sound.update (by assumption)

theorem State.bump_sound {org : State} (s : State) (r : RegId) (lo : Nat) (w : Nat) (n : Nat) (sk : Sound org s) : Sound org (State.bump s r lo w n) := by
  unfold State.bump
  repeat' first
    | with_reducible assumption
    | with_reducible apply State.setReg_sound

theorem State.setHead_sound {org : State} (s : State) (n : Nat) (h : Head) (sk : Sound org s) : Sound org (State.setHead s n h) := by
  unfold State.setHead
  repeat' first
    | with_reducible assumption
    | (extract_lets +onlyGivenNames b; first | (unfold b; clear b) | clear b)
    | exact Sound.update (by assumption)

theorem State.setPgroup_sound {org : State} (s : State) (g : Nat) (p : PGroup) (sk : Sound org s) : Sound org (State.setPgroup s g p) := by
  unfold State.setPgroup
  repeat' first
    | with_reducible assumption
    | (extract_lets +onlyGivenNames b; first | (unfold b; clear b) | clear b)
    | exact Sound.update (by assumption)



theorem State.setBank_sound {org : State} (s : State) (b : Nat) (x : Bank) (sk : Sound org s) : Sound org (State.setBank s b x) := by
  unfold State.setBank
  repeat' first
    | with_reducible assumption
    | (extract_lets +onlyGivenNames b; first | (unfold b; clear b) | clear b)
    | exact Sound.update (by assumption)

theorem State.setChannel_sound {org : State} (s : State) (m : Nat) (c : Channel) (sk : Sound org s) : Sound org (State.setChannel s m c) := by
  unfold State.setChannel
  repeat' first
    | with_reducible assumption
    | (extract_lets +onlyGivenNames b; first | (unfold b; clear b) | clear b)
    | exact Sound.update (by assumption)
    | exact Sound.updateIc (by assumption)

theorem State.setKeepHead_sound {org : State} (s : State) (n : Nat) (k : KeepHead) (sk : Sound org s) : Sound org (State.setKeepHead s n k) := by
  unfold State.setKeepHead
  repeat' first
    | with_reducible assumption
    | (extract_lets +onlyGivenNames b; first | (unfold b; clear b) | clear b)
    | exact Sound.update (by assumption)

theorem State.setSig_sound {org : State} (s : State) (n : Nat) (r : Nat) (k : SigRun) (sk : Sound org s) : Sound org (State.setSig s n r k) := by
  unfold State.setSig
  repeat' first
    | with_reducible assumption
    | (extract_lets +onlyGivenNames b; first | (unfold b; clear b) | clear b)
    | exact Sound.update (by assumption)

theorem State.setLantern_sound {org : State} (s : State) (l : Nat) (x : Lantern) (sk : Sound org s) : Sound org (State.setLantern s l x) := by
  unfold State.setLantern
  repeat' first
    | with_reducible assumption
    | (extract_lets +onlyGivenNames b; first | (unfold b; clear b) | clear b)
    | exact Sound.update (by assumption)

theorem State.setStream_sound {org : State} (s : State) (i : Nat) (x : Stream) (sk : Sound org s) : Sound org (State.setStream s i x) := by
  unfold State.setStream
  repeat' first
    | with_reducible assumption
    | (extract_lets +onlyGivenNames b; first | (unfold b; clear b) | clear b)
    | exact Sound.update (by assumption)

theorem State.setRx_sound {org : State} (s : State) (p : Nat) (x : RxPort) (sk : Sound org s) : Sound org (State.setRx s p x) := by
  unfold State.setRx
  repeat' first
    | with_reducible assumption
    | (extract_lets +onlyGivenNames b; first | (unfold b; clear b) | clear b)
    | exact Sound.update (by assumption)

theorem State.setRace_sound {org : State} (s : State) (n : Nat) (x : Race) (sk : Sound org s) : Sound org (State.setRace s n x) := by
  unfold State.setRace
  repeat' first
    | with_reducible assumption
    | (extract_lets +onlyGivenNames b; first | (unfold b; clear b) | clear b)
    | exact Sound.update (by assumption)

theorem State.setTxPort_sound {org : State} (s : State) (q : Nat) (t : Nat) (x : TxPort) (sk : Sound org s) : Sound org (State.setTxPort s q t x) := by
  unfold State.setTxPort
  repeat' first
    | with_reducible assumption
    | (extract_lets +onlyGivenNames b; first | (unfold b; clear b) | clear b)
    | exact Sound.update (by assumption)

theorem State.setEgress_sound {org : State} (s : State) (e : Nat) (x : Egress) (sk : Sound org s) : Sound org (State.setEgress s e x) := by
  unfold State.setEgress
  repeat' first
    | with_reducible assumption
    | (extract_lets +onlyGivenNames b; first | (unfold b; clear b) | clear b)
    | exact Sound.update (by assumption)

theorem State.setTicket_sound {org : State} (s : State) (t : Nat) (x : Ticket) (sk : Sound org s) : Sound org (State.setTicket s t x) := by
  unfold State.setTicket
  repeat' first
    | with_reducible assumption
    | (extract_lets +onlyGivenNames b; first | (unfold b; clear b) | clear b)
    | exact Sound.update (by assumption)

theorem State.setWin_sound {org : State} (s : State) (f : Nat) (x : Win) (sk : Sound org s) : Sound org (State.setWin s f x) := by
  unfold State.setWin
  repeat' first
    | with_reducible assumption
    | (extract_lets +onlyGivenNames b; first | (unfold b; clear b) | clear b)
    | exact Sound.update (by assumption)



theorem State.setCgroup_sound {org : State} (s : State) (g : Nat) (x : CGroup) (sk : Sound org s) : Sound org (State.setCgroup s g x) := by
  unfold State.setCgroup
  repeat' first
    | with_reducible assumption
    | (extract_lets +onlyGivenNames b; first | (unfold b; clear b) | clear b)
    | exact Sound.update (by assumption)
    | exact Sound.updateIc (by assumption)

theorem State.setCvUnit_sound {org : State} (s : State) (u : Nat) (x : CvUnit) (sk : Sound org s) : Sound org (State.setCvUnit s u x) := by
  unfold State.setCvUnit
  repeat' first
    | with_reducible assumption
    | (extract_lets +onlyGivenNames b; first | (unfold b; clear b) | clear b)
    | exact Sound.update (by assumption)

theorem State.setEngine_sound {org : State} (s : State) (e : Nat) (x : BlitEng) (sk : Sound org s) : Sound org (State.setEngine s e x) := by
  unfold State.setEngine
  repeat' first
    | with_reducible assumption
    | (extract_lets +onlyGivenNames b; first | (unfold b; clear b) | clear b)
    | exact Sound.update (by assumption)

theorem State.setShare_sound {org : State} (s : State) (e : Nat) (f : Nat) (x : BlitShare) (sk : Sound org s) : Sound org (State.setShare s e f x) := by
  unfold State.setShare
  repeat' first
    | with_reducible assumption
    | (extract_lets +onlyGivenNames b; first | (unfold b; clear b) | clear b)
    | exact Sound.update (by assumption)

theorem State.setOsl_sound {org : State} (s : State) (u : Nat) (x : Osleig) (sk : Sound org s) : Sound org (State.setOsl s u x) := by
  unfold State.setOsl
  repeat' first
    | with_reducible assumption
    | (extract_lets +onlyGivenNames b; first | (unfold b; clear b) | clear b)
    | exact Sound.update (by assumption)

theorem State.setSeg_sound {org : State} (s : State) (k : Nat) (x : SegBuf) (sk : Sound org s) : Sound org (State.setSeg s k x) := by
  unfold State.setSeg
  repeat' first
    | with_reducible assumption
    | (extract_lets +onlyGivenNames b; first | (unfold b; clear b) | clear b)
    | exact Sound.update (by assumption)

theorem State.setErrRec_sound {org : State} (s : State) (f : Nat) (x : ErrRec) (sk : Sound org s) : Sound org (State.setErrRec s f x) := by
  unfold State.setErrRec
  repeat' first
    | with_reducible assumption
    | (extract_lets +onlyGivenNames b; first | (unfold b; clear b) | clear b)
    | exact Sound.update (by assumption)

theorem State.setLink_sound {org : State} (s : State) (k : Nat) (x : PLink) (sk : Sound org s) : Sound org (State.setLink s k x) := by
  unfold State.setLink
  repeat' first
    | with_reducible assumption
    | (extract_lets +onlyGivenNames b; first | (unfold b; clear b) | clear b)
    | exact Sound.update (by assumption)

theorem State.wakeLink_sound {org : State} (k : Nat) (s : State) (sk : Sound org s) : Sound org (State.wakeLink k s) := by
  unfold State.wakeLink
  repeat' first
    | with_reducible assumption
    | (extract_lets +onlyGivenNames b; first | (unfold b; clear b) | clear b)
    | with_reducible apply State.setLink_sound
    | split
    | exact Sound.update (by assumption)

theorem State.send_sound {org : State} (s : State) (m : OutMsg) (sk : Sound org s) : Sound org (State.send s m) := by
  unfold State.send
  repeat' first
    | with_reducible assumption
    | (extract_lets +onlyGivenNames b; first | (unfold b; clear b) | clear b)
    | exact Sound.update (by assumption)

theorem State.sendTlp_sound {org : State} (s : State) (k : Nat) (m : OutMsg) (sk : Sound org s) : Sound org (State.sendTlp s k m) := by
  unfold State.sendTlp
  repeat' first
    | with_reducible assumption
    | with_reducible apply State.wakeLink_sound
    | with_reducible apply State.send_sound

theorem State.answer_sound {org : State} (s : State) (r : Reply) (sk : Sound org s) : Sound org (State.answer s r) := by
  unfold State.answer
  repeat' first
    | with_reducible assumption
    | (extract_lets +onlyGivenNames b; first | (unfold b; clear b) | clear b)
    | exact Sound.update (by assumption)

theorem State.draw_sound {org : State} (s : State) (n : Nat) (sk : Sound org s) : Sound org (State.draw s n) := by
  unfold State.draw
  repeat' first
    | with_reducible assumption
    | (extract_lets +onlyGivenNames b; first | (unfold b; clear b) | clear b)
    | exact Sound.update (by assumption)

theorem idleGroups_sound {org : State} (t : Nat) (s : State) (sk : Sound org s) : Sound org (idleGroups t s) := by
  unfold idleGroups
  repeat' first
    | with_reducible assumption
    | with_reducible apply State.setCgroup_sound
    | ((with_reducible refine Sound.fold _ ?_ ?_) <;> try intro x a hb)
    | split

theorem sendRequest_sound {org : State} (t : Nat) (s : State) (sk : Sound org s) : Sound org (sendRequest t s) := by
  unfold sendRequest
  repeat' first
    | with_reducible assumption
    | (extract_lets +onlyGivenNames b; first | (unfold b; clear b) | clear b)
    | ((with_reducible refine Sound.setTargetOf ?_ _ _ ?_) <;> try (intro hq; first | exact sk.stack hq _))
    | with_reducible apply State.sendTlp_sound
    | split
    | exact Sound.update (by assumption)

theorem stopSleeping_sound {org : State} (t : Nat) (s : State) (sk : Sound org s) : Sound org (stopSleeping t s) := by
  unfold stopSleeping
  repeat' first
    | with_reducible assumption
    | (extract_lets +onlyGivenNames b; first | (refine Sound.cut (Sound org b) ?_ ?_ <;> first | (intro hb; clear_value b; refine Sound.hold ?_) | intro hb | (unfold b; clear b)) | ((first | (have h0 : Nat := b; clear h0) | (have h0 : Bool := b; clear h0) | (have h0 : BitVec _ := b; clear h0) | (have h0 : List _ := b; clear h0)); clear_value b) | (unfold b; clear b) | clear b)
    | ((with_reducible refine Sound.setTargetOf ?_ _ _ ?_) <;> try (intro hq; first | exact hb.stack hq _ | exact sk.stack hq _))
    | with_reducible apply State.setCgroup_sound
    | with_reducible apply idleGroups_sound
    | with_reducible apply sendRequest_sound
    | ((with_reducible refine Sound.fold _ ?_ ?_) <;> try intro x a hb)
    | split
    | exact Sound.update (by assumption)

theorem wake_sound {org : State} (t : Nat) (s : State) (sk : Sound org s) : Sound org (wake t s) := by
  unfold wake
  repeat' first
    | with_reducible assumption
    | (extract_lets +onlyGivenNames b; first | (unfold b; clear b) | clear b)
    | ((with_reducible refine Sound.setTargetOf ?_ _ _ ?_) <;> try (intro hq; first | exact sk.stack hq _))
    | with_reducible apply State.sendTlp_sound
    | with_reducible apply stopSleeping_sound
    | split
    | exact Sound.update (by assumption)

theorem settleCore_sound {org : State} (t : Nat) (before : State) (s : State) (sk : Sound org s) : Sound org (settleCore t before s) := by
  unfold settleCore
  repeat' first
    | with_reducible assumption
    | (extract_lets +onlyGivenNames b; first | (refine Sound.cut (Sound org b) ?_ ?_ <;> first | (intro hb; clear_value b; refine Sound.hold ?_) | intro hb | (unfold b; clear b)) | ((first | (have h0 : Nat := b; clear h0) | (have h0 : Bool := b; clear h0) | (have h0 : BitVec _ := b; clear h0) | (have h0 : List _ := b; clear h0)); clear_value b) | (unfold b; clear b) | clear b)
    | with_reducible apply idleGroups_sound
    | with_reducible apply sendRequest_sound
    | with_reducible apply wake_sound
    | split

theorem releaseGroup_sound {org : State} (t : Nat) (g : Nat) (count : Nat) (since : Nat) (s : State) (sk : Sound org s) : Sound org (releaseGroup t g count since s) := by
  unfold releaseGroup
  repeat' first
    | with_reducible assumption
    | (extract_lets +onlyGivenNames b; first | (refine Sound.cut (Sound org b) ?_ ?_ <;> first | (intro hb; clear_value b; refine Sound.hold ?_) | intro hb | (unfold b; clear b)) | ((first | (have h0 : Nat := b; clear h0) | (have h0 : Bool := b; clear h0) | (have h0 : BitVec _ := b; clear h0) | (have h0 : List _ := b; clear h0)); clear_value b) | (unfold b; clear b) | clear b)
    | with_reducible apply State.setCgroup_sound
    | with_reducible apply wake_sound
    | split

theorem groupEvent_sound {org : State} (t : Nat) (g : Nat) (s : State) (sk : Sound org s) : Sound org (groupEvent t g s) := by
  unfold groupEvent
  repeat' first
    | with_reducible assumption
    | (extract_lets +onlyGivenNames b; first | (refine Sound.cut (Sound org b) ?_ ?_ <;> first | (intro hb; clear_value b; refine Sound.hold ?_) | intro hb | (unfold b; clear b)) | ((first | (have h0 : Nat := b; clear h0) | (have h0 : Bool := b; clear h0) | (have h0 : BitVec _ := b; clear h0) | (have h0 : List _ := b; clear h0)); clear_value b) | (unfold b; clear b) | clear b)
    | with_reducible apply State.setCgroup_sound
    | with_reducible apply releaseGroup_sound
    | split
    | exact Sound.update (by assumption)

theorem pendAt_sound {org : State} (t : Nat) (src : Nat) (s : State) (sk : Sound org s) : Sound org (pendAt t src s) := by
  unfold pendAt
  repeat' first
    | with_reducible assumption
    | (extract_lets +onlyGivenNames b; first | (refine Sound.cut (Sound org b) ?_ ?_ <;> first | (intro hb; clear_value b; refine Sound.hold ?_) | intro hb | (unfold b; clear b)) | ((first | (have h0 : Nat := b; clear h0) | (have h0 : Bool := b; clear h0) | (have h0 : BitVec _ := b; clear h0) | (have h0 : List _ := b; clear h0)); clear_value b) | (unfold b; clear b) | clear b)
    | ((with_reducible refine Sound.setTargetOf ?_ _ _ ?_) <;> try (intro hq; first | exact hb.stack hq _ | exact sk.stack hq _))
    | with_reducible apply groupEvent_sound
    | split
    | exact Sound.update (by assumption)

theorem holdPm_sound {org : State} (r : RegId) (s : State) (sk : Sound org s) : Sound org (holdPm r s) := by
  unfold holdPm
  repeat' first
    | with_reducible assumption
    | (extract_lets +onlyGivenNames b; first | (unfold b; clear b) | clear b)
    | split
    | exact Sound.update (by assumption)

theorem setOvf_sound {org : State} (k : Nat) (j : Nat) (s : State) (sk : Sound org s) : Sound org (setOvf k j s) := by
  unfold setOvf
  repeat' first
    | with_reducible assumption
    | (extract_lets +onlyGivenNames b; first | (unfold b; clear b) | clear b)
    | exact Sound.update (by assumption)

theorem addCtr_sound {org : State} (k : Nat) (j : Nat) (n : Nat) (s : State) (sk : Sound org s) : Sound org (addCtr k j n s).1 := by
  unfold addCtr
  repeat' first
    | with_reducible assumption
    | (extract_lets +onlyGivenNames b; first | (refine Sound.cut (Sound org b) ?_ ?_ <;> first | (intro hb; clear_value b; refine Sound.hold ?_) | intro hb | (unfold b; clear b)) | ((first | (have h0 : Nat := b; clear h0) | (have h0 : Bool := b; clear h0) | (have h0 : BitVec _ := b; clear h0) | (have h0 : List _ := b; clear h0)); clear_value b) | (unfold b; clear b) | clear b)
    | exact Sound.update (by assumption)

theorem countEvent_sound {org : State} (k : Nat) (inst : Nat) (ev : Nat) (n : Nat) (s : State) (sk : Sound org s) : Sound org (countEvent k inst ev n s).1 := by
  unfold countEvent
  repeat' first
    | with_reducible assumption
    | with_reducible apply addCtr_sound
    | with_reducible refine Sound.fst (by assumption) ?_
    | ((with_reducible refine Sound.fold _ ?_ ?_) <;> try intro x a hb)
    | ((with_reducible refine Sound.foldP _ ?_ ?_) <;> try (intro x a hb; rcases x with ⟨x, xr⟩))
    | split

/-- A way of counting that keeps what is kept. -/
def Counting.Sound (count : Counting) : Prop :=
  ∀ (org : State) (k i e n : Nat) (s : State), Machine.Sound org s → Machine.Sound org (count k i e n s)

theorem tallyWith_sound {count : Counting} (hc : Counting.Sound count) {org : State} (t : Nat) (before after : State)
    (sk : Sound org after) : Sound org (tallyWith count t before after) := hc _ _ _ _ _ _ (hc _ _ _ _ _ _ sk)

theorem settleWith_sound {count : Counting} (hc : Counting.Sound count) {org : State} (t : Nat) (before s : State)
    (sk : Sound org s) : Sound org (settleWith count t before s) := tallyWith_sound hc _ _ _ (settleCore_sound _ _ _ sk)

theorem raiseAtWith_sound {count : Counting} (hc : Counting.Sound count) {org : State} (t src : Nat) (s : State)
    (sk : Sound org s) : Sound org (raiseAtWith count t src s) := by
  unfold raiseAtWith
  split
  · exact settleWith_sound hc _ _ _ (pendAt_sound _ _ _ sk)
  · exact sk

theorem raiseWith_sound {count : Counting} (hc : Counting.Sound count) {org : State} (src : Nat) (s : State)
    (sk : Sound org s) : Sound org (raiseWith count src s) :=
  Sound.fold _ sk (fun x _ hx => raiseAtWith_sound hc _ _ x hx)

theorem wrapWith_sound {count : Counting} (hc : Counting.Sound count) {org : State} (k j : Nat) (s : State)
    (sk : Sound org s) : Sound org (wrapWith count k j s) := by
  unfold wrapWith
  refine hc _ _ _ _ _ _ ?_
  split
  · exact setOvf_sound _ _ _ sk
  · exact raiseWith_sound hc _ _ (setOvf_sound _ _ _ sk)

theorem countFuel_sound (fuel : Nat) : Counting.Sound (countFuel fuel) := by
  induction fuel with
  | zero => exact fun _ _ _ _ _ _ sk => sk
  | succ fuel ih =>
    intro org k i e n s sk
    unfold countFuel
    split
    · exact sk
    · exact Sound.fold _ (countEvent_sound _ _ _ _ _ sk) (fun x _ hx => wrapWith_sound ih _ _ x hx)

theorem perfEvent_sound {org : State} (k inst ev n : Nat) (s : State) (sk : Sound org s) : Sound org (perfEvent k inst ev n s) :=
  countFuel_sound 130 _ _ _ _ _ _ sk

/-- A counter that wraps counted as every event is. -/
theorem wrapWith_perfEvent_sound {org : State} (k j : Nat) (s : State) (sk : Sound org s) : Sound org (wrapWith perfEvent k j s) :=
  wrapWith_sound (count := perfEvent) (fun _ _ _ _ _ _ h => perfEvent_sound _ _ _ _ _ h) _ _ _ sk

theorem settle_sound {org : State} (t : Nat) (before s : State) (sk : Sound org s) : Sound org (settle t before s) :=
  settleWith_sound (count := perfEvent) (fun _ _ _ _ _ _ h => perfEvent_sound _ _ _ _ _ h) _ _ _ sk

theorem raiseAt_sound {org : State} (t src : Nat) (s : State) (sk : Sound org s) : Sound org (raiseAt t src s) :=
  raiseAtWith_sound (count := perfEvent) (fun _ _ _ _ _ _ h => perfEvent_sound _ _ _ _ _ h) _ _ _ sk

theorem raise_sound {org : State} (src : Nat) (s : State) (sk : Sound org s) : Sound org (raise src s) :=
  raiseWith_sound (count := perfEvent) (fun _ _ _ _ _ _ h => perfEvent_sound _ _ _ _ _ h) _ _ sk

theorem countClocks_sound {org : State} (c : Nat) (wraps : List Nat) (s : State) (sk : Sound org s) : Sound org (countClocks c wraps s) := by
  unfold countClocks
  repeat' first
    | with_reducible assumption
    | (extract_lets +onlyGivenNames b; first | (refine Sound.cut (Sound org b) ?_ ?_ <;> first | (intro hb; clear_value b; refine Sound.hold ?_) | intro hb | (unfold b; clear b)) | (refine Sound.cut (Sound org b.1) ?_ ?_ <;> first | (intro hb; clear_value b; refine Sound.hold ?_) | intro hb | (unfold b; clear b)) | ((first | (have h0 : Nat := b; clear h0) | (have h0 : Bool := b; clear h0) | (have h0 : BitVec _ := b; clear h0) | (have h0 : List _ := b; clear h0)); clear_value b) | (unfold b; clear b) | clear b)
    | with_reducible apply wrapWith_perfEvent_sound
    | with_reducible apply perfEvent_sound
    | with_reducible refine Sound.fst (by assumption) ?_
    | ((with_reducible refine Sound.fold _ ?_ ?_) <;> try intro x a hb)
    | ((with_reducible refine Sound.foldP _ ?_ ?_) <;> try (intro x a hb; rcases x with ⟨x, xr⟩))
    | split
    | exact Sound.update (by assumption)
    | exact Sound.updateFa (by assumption)
    | exact Sound.updateIc (by assumption)
    | exact Sound.updateAon (by assumption)
    | (refine Sound.update ?_; with_reducible refine Sound.fst (by assumption) ?_)
    | exact hb.same rfl rfl rfl rfl rfl rfl rfl
    | exact sk.same rfl rfl rfl rfl rfl rfl rfl

theorem runClocks_sound {org : State} (c : Nat) (s : State) (sk : Sound org s) : Sound org (runClocks c s) := by
  unfold runClocks
  repeat' first
    | with_reducible assumption
    | (extract_lets +onlyGivenNames b; first | (unfold b; clear b) | clear b)
    | with_reducible apply countClocks_sound
    | exact Sound.update (by assumption)

theorem loadCounter_sound {org : State} (k : Nat) (j : Nat) (v : Nat) (s : State) (sk : Sound org s) : Sound org (loadCounter k j v s) := by
  unfold loadCounter
  repeat' first
    | with_reducible assumption
    | (extract_lets +onlyGivenNames b; first | (unfold b; clear b) | clear b)
    | split
    | exact Sound.update (by assumption)

theorem endClock_sound {org : State} (s : State) (sk : Sound org s) : Sound org (endClock s) := by
  unfold endClock
  repeat' first
    | with_reducible assumption
    | (extract_lets +onlyGivenNames b; first | (refine Sound.cut (Sound org b) ?_ ?_ <;> first | (intro hb; clear_value b; refine Sound.hold ?_) | intro hb | (unfold b; clear b)) | ((first | (have h0 : Nat := b; clear h0) | (have h0 : Bool := b; clear h0) | (have h0 : BitVec _ := b; clear h0) | (have h0 : List _ := b; clear h0)); clear_value b) | (unfold b; clear b) | clear b)
    | with_reducible apply loadCounter_sound
    | ((with_reducible refine Sound.fold _ ?_ ?_) <;> try intro x a hb)
    | exact Sound.update (by assumption)

theorem sendMarkers_sound {org : State} (since : Nat) (s : State) (sk : Sound org s) : Sound org (sendMarkers since s) := by
  unfold sendMarkers
  repeat' first
    | with_reducible assumption
    | (extract_lets +onlyGivenNames b; first | (refine Sound.cut (Sound org b) ?_ ?_ <;> first | (intro hb; clear_value b; refine Sound.hold ?_) | intro hb | (unfold b; clear b)) | ((first | (have h0 : Nat := b; clear h0) | (have h0 : Bool := b; clear h0) | (have h0 : BitVec _ := b; clear h0) | (have h0 : List _ := b; clear h0)); clear_value b) | (unfold b; clear b) | clear b)
    | with_reducible apply State.send_sound
    | split

theorem passTicks_sound {org : State} (n : Nat) (s : State) (sk : Sound org s) : Sound org (passTicks n s) := by
  unfold passTicks
  repeat' first
    | with_reducible assumption
    | (extract_lets +onlyGivenNames b; first | (refine Sound.cut (Sound org b) ?_ ?_ <;> first | (intro hb; clear_value b; refine Sound.hold ?_) | intro hb | (unfold b; clear b)) | ((first | (have h0 : Nat := b; clear h0) | (have h0 : Bool := b; clear h0) | (have h0 : BitVec _ := b; clear h0) | (have h0 : List _ := b; clear h0)); clear_value b) | (unfold b; clear b) | clear b)
    | with_reducible apply runClocks_sound
    | with_reducible apply endClock_sound
    | with_reducible apply sendMarkers_sound
    | split
    | exact Sound.update (by assumption)

theorem toTick_sound {org : State} (t : Nat) (s : State) (sk : Sound org s) : Sound org (toTick t s) := by
  unfold toTick
  repeat' first
    | with_reducible assumption
    | with_reducible apply passTicks_sound
    | split

theorem idle_sound {org : State} (s : State) (sk : Sound org s) : Sound org (idle s) := by
  unfold idle
  repeat' first
    | with_reducible assumption
    | (extract_lets +onlyGivenNames b; first | (unfold b; clear b) | clear b)
    | with_reducible apply passTicks_sound
    | split
    | exact Sound.update (by assumption)

theorem errEvent_sound {org : State} (f : Nat) (kind : Nat) (cause : Nat) (a : Access) (s : State) (sk : Sound org s) : Sound org (errEvent f kind cause a s) := by
  unfold errEvent
  repeat' first
    | with_reducible assumption
    | (extract_lets +onlyGivenNames b; first | (refine Sound.cut (Sound org b) ?_ ?_ <;> first | (intro hb; clear_value b; refine Sound.hold ?_) | intro hb | (unfold b; clear b)) | ((first | (have h0 : Nat := b; clear h0) | (have h0 : Bool := b; clear h0) | (have h0 : BitVec _ := b; clear h0) | (have h0 : List _ := b; clear h0)); clear_value b) | (unfold b; clear b) | clear b)
    | with_reducible apply State.setErrRec_sound
    | with_reducible apply raiseAt_sound
    | split
    | exact Sound.update (by assumption)

theorem refuse_sound {org : State} (src : Source) (cause : Nat) (a : Access) (s : State) (sk : Sound org s) : Sound org (refuse src cause a s) := by
  unfold refuse
  repeat' first
    | with_reducible assumption
    | (extract_lets +onlyGivenNames b; first | (unfold b; clear b) | clear b)
    | with_reducible apply errEvent_sound
    | split
    | exact Sound.update (by assumption)

theorem lockViolation_sound {org : State} (src : Source) (a : Access) (s : State) (sk : Sound org s) : Sound org (lockViolation src a s) := by
  unfold lockViolation
  repeat' first
    | with_reducible assumption
    | (extract_lets +onlyGivenNames b; first | (unfold b; clear b) | clear b)
    | with_reducible apply errEvent_sound
    | split
    | exact Sound.update (by assumption)

theorem countReserved_sound {org : State} (f : Nat) (s : State) (sk : Sound org s) : Sound org (countReserved f s) := by
  unfold countReserved
  repeat' first
    | with_reducible assumption
    | (extract_lets +onlyGivenNames b; first | (unfold b; clear b) | clear b)
    | with_reducible apply State.setErrRec_sound
    | exact Sound.update (by assumption)

theorem aerLog_sound {org : State} (k : Nat) (what : AerKind) (s : State) (sk : Sound org s) : Sound org (aerLog k what s) := by
  unfold aerLog
  repeat' first
    | with_reducible assumption
    | with_reducible apply State.sendTlp_sound
    | with_reducible apply raise_sound

theorem State.writeMem_sound {org : State} (s : State) (dpa : Nat) (l : List Byte) (sk : Sound org s) :
    Sound org (s.writeMem dpa l) :=
  { sk with mem := fun x => wf_storeBytes l _ dpa (sk.mem x) }

theorem eccCorrect_sound {org : State} (m : Nat) (burst : Nat) (req : Nat) (s : State) (sk : Sound org s) : Sound org (eccCorrect m burst req s) := by
  unfold eccCorrect
  repeat' first
    | with_reducible assumption
    | (extract_lets +onlyGivenNames b; first | (refine Sound.cut (Sound org b) ?_ ?_ <;> first | (intro hb; clear_value b; refine Sound.hold ?_) | intro hb | (unfold b; clear b)) | ((first | (have h0 : Nat := b; clear h0) | (have h0 : Bool := b; clear h0) | (have h0 : BitVec _ := b; clear h0) | (have h0 : List _ := b; clear h0)); clear_value b) | (unfold b; clear b) | clear b)
    | with_reducible apply State.bump_sound
    | with_reducible apply State.setChannel_sound
    | with_reducible apply perfEvent_sound
    | with_reducible apply raise_sound
    | split
    | exact Sound.update (by assumption)
    | exact Sound.updateIc (by assumption)

theorem eccUncorrect_sound {org : State} (m : Nat) (burst : Nat) (req : Nat) (s : State) (sk : Sound org s) : Sound org (eccUncorrect m burst req s) := by
  unfold eccUncorrect
  repeat' first
    | with_reducible assumption
    | (extract_lets +onlyGivenNames b; first | (refine Sound.cut (Sound org b) ?_ ?_ <;> first | (intro hb; clear_value b; refine Sound.hold ?_) | intro hb | (unfold b; clear b)) | ((first | (have h0 : Nat := b; clear h0) | (have h0 : Bool := b; clear h0) | (have h0 : BitVec _ := b; clear h0) | (have h0 : List _ := b; clear h0)); clear_value b) | (unfold b; clear b) | clear b)
    | with_reducible apply State.bump_sound
    | with_reducible apply State.setChannel_sound
    | with_reducible apply raise_sound

theorem eccReads_sound {org : State} (dpa : Nat) (n : Nat) (req : Nat) (s : State) (sk : Sound org s) : Sound org (eccReads dpa n req s) := by
  unfold eccReads
  repeat' first
    | with_reducible assumption
    | with_reducible apply eccUncorrect_sound
    | ((with_reducible refine Sound.fold _ ?_ ?_) <;> try intro x a hb)

theorem reloadCredits_sound {org : State} (m : Nat) (s : State) (sk : Sound org s) : Sound org (reloadCredits m s) := by
  unfold reloadCredits
  repeat' first
    | with_reducible assumption
    | (extract_lets +onlyGivenNames b; first | (unfold b; clear b) | clear b)
    | ((with_reducible refine Sound.fold _ ?_ ?_) <;> try intro x a hb)
    | exact Sound.update (by assumption)
    | exact Sound.updateIc (by assumption)

theorem spendCredit_sound {org : State} (m : Nat) (r : Nat) (s : State) (sk : Sound org s) : Sound org (spendCredit m r s) := by
  unfold spendCredit
  repeat' first
    | with_reducible assumption
    | (extract_lets +onlyGivenNames b; first | (unfold b; clear b) | clear b)
    | with_reducible apply perfEvent_sound
    | exact Sound.update (by assumption)
    | exact Sound.updateIc (by assumption)

theorem openSlots_sound {org : State} (m r n : Nat) (s : State) (sk : Sound org s) : Sound org (openSlots m r n s) := by
  induction n generalizing s with
  | zero => exact sk
  | succ n ih =>
    unfold openSlots
    repeat' first
      | with_reducible assumption
      | (extract_lets +onlyGivenNames b; first | (refine Sound.cut (Sound org b) ?_ ?_ <;> first | (intro hb; clear_value b; refine Sound.hold ?_) | intro hb | (unfold b; clear b)) | (refine Sound.cut (Sound org b.1) ?_ ?_ <;> first | (intro hb; clear_value b; refine Sound.hold ?_) | intro hb | (unfold b; clear b)) | ((first | (have h0 : Nat := b; clear h0) | (have h0 : Bool := b; clear h0) | (have h0 : BitVec _ := b; clear h0) | (have h0 : List _ := b; clear h0)); clear_value b) | (unfold b; clear b) | clear b)
      | with_reducible apply ih
      | with_reducible apply reloadCredits_sound
      | with_reducible apply spendCredit_sound
      | with_reducible refine Sound.fst (by assumption) ?_
      | ((with_reducible refine Sound.fold _ ?_ ?_) <;> try intro x a hb)
      | ((with_reducible refine Sound.foldP _ ?_ ?_) <;> try (intro x a hb; rcases x with ⟨x, xr⟩))
      | split
      | exact Sound.update (by assumption)
      | exact Sound.updateFa (by assumption)
      | exact Sound.updateIc (by assumption)
      | exact Sound.updateAon (by assumption)
      | (refine Sound.update ?_; with_reducible refine Sound.fst (by assumption) ?_)
      | exact hb.same rfl rfl rfl rfl rfl rfl rfl
      | exact sk.same rfl rfl rfl rfl rfl rfl rfl

theorem serveBurst_sound {org : State} (r : Nat) (s : State) (burst : Nat) (sk : Sound org s) : Sound org (serveBurst r s burst) := by
  unfold serveBurst
  repeat' first
    | with_reducible assumption
    | (extract_lets +onlyGivenNames b; first | (refine Sound.cut (Sound org b) ?_ ?_ <;> first | (intro hb; clear_value b; refine Sound.hold ?_) | intro hb | (unfold b; clear b)) | (refine Sound.cut (Sound org b.1) ?_ ?_ <;> first | (intro hb; clear_value b; refine Sound.hold ?_) | intro hb | (unfold b; clear b)) | ((first | (have h0 : Nat := b; clear h0) | (have h0 : Bool := b; clear h0) | (have h0 : BitVec _ := b; clear h0) | (have h0 : List _ := b; clear h0)); clear_value b) | (unfold b; clear b) | clear b)
    | with_reducible apply openSlots_sound
    | with_reducible refine Sound.fst (by assumption) ?_
    | ((with_reducible refine Sound.fold _ ?_ ?_) <;> try intro x a hb)
    | ((with_reducible refine Sound.foldP _ ?_ ?_) <;> try (intro x a hb; rcases x with ⟨x, xr⟩))
    | split
    | exact Sound.update (by assumption)
    | exact Sound.updateFa (by assumption)
    | exact Sound.updateIc (by assumption)
    | exact Sound.updateAon (by assumption)
    | (refine Sound.update ?_; with_reducible refine Sound.fst (by assumption) ?_)
    | exact hb.same rfl rfl rfl rfl rfl rfl rfl
    | exact sk.same rfl rfl rfl rfl rfl rfl rfl

theorem serve_sound {org : State} (r : Nat) (dpa : Nat) (n : Nat) (s : State) (sk : Sound org s) : Sound org (serve r dpa n s) := by
  unfold serve
  repeat' first
    | with_reducible assumption
    | with_reducible apply perfEvent_sound
    | with_reducible apply serveBurst_sound
    | ((with_reducible refine Sound.fold _ ?_ ?_) <;> try intro x a hb)
    | split

theorem walkTraffic_sound {org : State} (ctx : Nat) (va : Nat) (write : Bool) (s : State) (sk : Sound org s) : Sound org (walkTraffic ctx va write s) := by
  unfold walkTraffic
  repeat' first
    | with_reducible assumption
    | with_reducible apply eccReads_sound
    | with_reducible apply serve_sound
    | ((with_reducible refine Sound.fold _ ?_ ?_) <;> try intro x a hb)

theorem xlatFault_sound {org : State} (ctx : Nat) (va : Nat) (level : Nat) (req : Nat) (write : Bool) (s : State) (sk : Sound org s) : Sound org (xlatFault ctx va level req write s) := by
  unfold xlatFault
  repeat' first
    | with_reducible assumption
    | (extract_lets +onlyGivenNames b; first | (refine Sound.cut (Sound org b) ?_ ?_ <;> first | (intro hb; clear_value b; refine Sound.hold ?_) | intro hb | (unfold b; clear b)) | ((first | (have h0 : Nat := b; clear h0) | (have h0 : Bool := b; clear h0) | (have h0 : BitVec _ := b; clear h0) | (have h0 : List _ := b; clear h0)); clear_value b) | (unfold b; clear b) | clear b)
    | with_reducible apply raise_sound
    | split
    | exact Sound.update (by assumption)
    | exact Sound.updateIc (by assumption)

theorem xlat_sound {org : State} (s : State) (ctx : Nat) (va : Nat) (req : Nat) (write : Bool) (sk : Sound org s) : Sound org (xlat s ctx va req write).1 := by
  unfold xlat
  repeat' first
    | with_reducible assumption
    | (extract_lets +onlyGivenNames b; first | (refine Sound.cut (Sound org b) ?_ ?_ <;> first | (intro hb; clear_value b; refine Sound.hold ?_) | intro hb | (unfold b; clear b)) | ((first | (have h0 : Nat := b; clear h0) | (have h0 : Bool := b; clear h0) | (have h0 : BitVec _ := b; clear h0) | (have h0 : List _ := b; clear h0)); clear_value b) | (unfold b; clear b) | clear b)
    | with_reducible apply walkTraffic_sound
    | with_reducible apply xlatFault_sound
    | split
    | exact Sound.update (by assumption)
    | exact Sound.updateIc (by assumption)

theorem putBytes_sound {org : State} (req d : Nat) (l : List (Option Byte)) (s : State) (sk : Sound org s) :
    Sound org (putBytes req d l s) := by
  unfold putBytes
  extract_lets hurt t
  have ht : Sound org t := by
    unfold t
    repeat' first
      | with_reducible assumption
      | (extract_lets +onlyGivenNames b; first | (refine Sound.cut (Sound org b) ?_ ?_ <;> first | (intro hb; clear_value b; refine Sound.hold ?_) | intro hb | (unfold b; clear b)) | (refine Sound.cut (Sound org b.1) ?_ ?_ <;> first | (intro hb; clear_value b; refine Sound.hold ?_) | intro hb | (unfold b; clear b)) | ((first | (have h0 : Nat := b; clear h0) | (have h0 : Bool := b; clear h0) | (have h0 : BitVec _ := b; clear h0) | (have h0 : List _ := b; clear h0)); clear_value b) | (unfold b; clear b) | clear b)
      | with_reducible apply eccUncorrect_sound
      | with_reducible refine Sound.fst (by assumption) ?_
      | ((with_reducible refine Sound.fold _ ?_ ?_) <;> try intro x a hb)
      | ((with_reducible refine Sound.foldP _ ?_ ?_) <;> try (intro x a hb; rcases x with ⟨x, xr⟩))
      | split
      | exact Sound.update (by assumption)
      | exact Sound.updateFa (by assumption)
      | exact Sound.updateIc (by assumption)
      | exact Sound.updateAon (by assumption)
      | (refine Sound.update ?_; with_reducible refine Sound.fst (by assumption) ?_)
      | exact hb.same rfl rfl rfl rfl rfl rfl rfl
      | exact sk.same rfl rfl rfl rfl rfl rfl rfl
  exact { ht with mem := fun x => wf_storeMasked l _ d (ht.mem x) }

theorem storeOpen_sound {org : State} (req : Nat) (ctx : Nat) (p : Page) (va : Nat) (l : List (Option Byte)) (s : State) (sk : Sound org s) : Sound org (storeOpen req ctx p va l s) := by
  unfold storeOpen
  repeat' first
    | with_reducible assumption
    | (extract_lets +onlyGivenNames b; first | (refine Sound.cut (Sound org b) ?_ ?_ <;> first | (intro hb; clear_value b; refine Sound.hold ?_) | intro hb | (unfold b; clear b)) | ((first | (have h0 : Nat := b; clear h0) | (have h0 : Bool := b; clear h0) | (have h0 : BitVec _ := b; clear h0) | (have h0 : List _ := b; clear h0)); clear_value b) | (unfold b; clear b) | clear b)
    | with_reducible apply State.bump_sound
    | with_reducible apply raise_sound
    | with_reducible apply serve_sound
    | with_reducible apply putBytes_sound
    | split
    | exact Sound.update (by assumption)

theorem openWrite_sound {org : State} (ctx : Nat) (va : Nat) (req : Nat) (l : List (Option Byte)) (s : State) (sk : Sound org s) : Sound org (openWrite ctx va req l s).1 := by
  unfold openWrite
  repeat' first
    | with_reducible assumption
    | (extract_lets +onlyGivenNames b; first | (unfold b; clear b) | clear b)
    | with_reducible apply xlat_sound
    | with_reducible apply storeOpen_sound
    | with_reducible refine Sound.fst (by assumption) ?_
    | ((with_reducible refine Sound.fold _ ?_ ?_) <;> try intro x a hb)
    | ((with_reducible refine Sound.foldP _ ?_ ?_) <;> try (intro x a hb; rcases x with ⟨x, xr⟩))
    | split
    | exact Sound.update (by assumption)
    | (refine Sound.update ?_; with_reducible refine Sound.fst (by assumption) ?_)

theorem openRead_sound {org : State} (ctx : Nat) (va : Nat) (req : Nat) (n : Nat) (s : State) (sk : Sound org s) : Sound org (openRead ctx va req n s).1 := by
  unfold openRead
  repeat' first
    | with_reducible assumption
    | (extract_lets +onlyGivenNames b; first | (refine Sound.cut (Sound org b) ?_ ?_ <;> first | (intro hb; clear_value b; refine Sound.hold ?_) | intro hb | (unfold b; clear b)) | (refine Sound.cut (Sound org b.1) ?_ ?_ <;> first | (intro hb; clear_value b; refine Sound.hold ?_) | intro hb | (unfold b; clear b)) | ((first | (have h0 : Nat := b; clear h0) | (have h0 : Bool := b; clear h0) | (have h0 : BitVec _ := b; clear h0) | (have h0 : List _ := b; clear h0)); clear_value b) | (unfold b; clear b) | clear b)
    | with_reducible apply eccReads_sound
    | with_reducible apply serve_sound
    | with_reducible apply xlat_sound
    | with_reducible refine Sound.fst (by assumption) ?_
    | ((with_reducible refine Sound.fold _ ?_ ?_) <;> try intro x a hb)
    | ((with_reducible refine Sound.foldP _ ?_ ?_) <;> try (intro x a hb; rcases x with ⟨x, xr⟩))
    | split
    | exact Sound.update (by assumption)
    | (refine Sound.update ?_; with_reducible refine Sound.fst (by assumption) ?_)

theorem readPiece_sound {org : State} (req : Nat) (d : Nat) (n : Nat) (s : State) (sk : Sound org s) : Sound org (readPiece req d n s).1 := by
  unfold readPiece
  repeat' first
    | with_reducible assumption
    | (extract_lets +onlyGivenNames b; first | (unfold b; clear b) | clear b)
    | with_reducible apply eccUncorrect_sound
    | with_reducible apply serve_sound
    | split
    | exact Sound.update (by assumption)

theorem readPieces_sound {org : State} (req ctx : Nat) (l : List (Nat × Nat × Nat)) (s : State) (sk : Sound org s) :
    Sound org (readPieces req ctx l s).1 := by
  induction l generalizing s with
  | nil => exact sk
  | cons a l ih =>
    unfold readPieces
    repeat' first
      | with_reducible assumption
      | (extract_lets +onlyGivenNames b; first | (refine Sound.cut (Sound org b) ?_ ?_ <;> first | (intro hb; clear_value b; refine Sound.hold ?_) | intro hb | (unfold b; clear b)) | (refine Sound.cut (Sound org b.1) ?_ ?_ <;> first | (intro hb; clear_value b; refine Sound.hold ?_) | intro hb | (unfold b; clear b)) | ((first | (have h0 : Nat := b; clear h0) | (have h0 : Bool := b; clear h0) | (have h0 : BitVec _ := b; clear h0) | (have h0 : List _ := b; clear h0)); clear_value b) | (unfold b; clear b) | clear b)
      | with_reducible apply ih
      | with_reducible apply xlat_sound
      | with_reducible apply readPiece_sound
      | with_reducible refine Sound.fst (by assumption) ?_
      | ((with_reducible refine Sound.fold _ ?_ ?_) <;> try intro x a hb)
      | ((with_reducible refine Sound.foldP _ ?_ ?_) <;> try (intro x a hb; rcases x with ⟨x, xr⟩))
      | split
      | exact Sound.update (by assumption)
      | exact Sound.updateFa (by assumption)
      | exact Sound.updateIc (by assumption)
      | exact Sound.updateAon (by assumption)
      | (refine Sound.update ?_; with_reducible refine Sound.fst (by assumption) ?_)
      | exact hb.same rfl rfl rfl rfl rfl rfl rfl
      | exact sk.same rfl rfl rfl rfl rfl rfl rfl

theorem readRange_sound {org : State} (req : Nat) (ctx : Nat) (va : Nat) (n : Nat) (s : State) (sk : Sound org s) : Sound org (readRange req ctx va n s).1 := by
  unfold readRange
  repeat' first
    | with_reducible assumption
    | with_reducible apply readPieces_sound
    | with_reducible refine Sound.fst (by assumption) ?_

theorem writePieces_sound {org : State} (req ctx : Nat) (l : List Byte) (ps : List (Nat × Nat × Nat)) (s : State)
    (sk : Sound org s) : Sound org (writePieces req ctx l ps s).1 := by
  induction ps generalizing s with
  | nil => exact sk
  | cons a ps ih =>
    unfold writePieces
    repeat' first
      | with_reducible assumption
      | (extract_lets +onlyGivenNames b; first | (refine Sound.cut (Sound org b) ?_ ?_ <;> first | (intro hb; clear_value b; refine Sound.hold ?_) | intro hb | (unfold b; clear b)) | (refine Sound.cut (Sound org b.1) ?_ ?_ <;> first | (intro hb; clear_value b; refine Sound.hold ?_) | intro hb | (unfold b; clear b)) | ((first | (have h0 : Nat := b; clear h0) | (have h0 : Bool := b; clear h0) | (have h0 : BitVec _ := b; clear h0) | (have h0 : List _ := b; clear h0)); clear_value b) | (unfold b; clear b) | clear b)
      | with_reducible apply ih
      | with_reducible apply xlat_sound
      | with_reducible apply storeOpen_sound
      | with_reducible refine Sound.fst (by assumption) ?_
      | ((with_reducible refine Sound.fold _ ?_ ?_) <;> try intro x a hb)
      | ((with_reducible refine Sound.foldP _ ?_ ?_) <;> try (intro x a hb; rcases x with ⟨x, xr⟩))
      | split
      | exact Sound.update (by assumption)
      | exact Sound.updateFa (by assumption)
      | exact Sound.updateIc (by assumption)
      | exact Sound.updateAon (by assumption)
      | (refine Sound.update ?_; with_reducible refine Sound.fst (by assumption) ?_)
      | exact hb.same rfl rfl rfl rfl rfl rfl rfl
      | exact sk.same rfl rfl rfl rfl rfl rfl rfl

theorem writeRange_sound {org : State} (req : Nat) (ctx : Nat) (va : Nat) (l : List Byte) (s : State) (sk : Sound org s) : Sound org (writeRange req ctx va l s).1 := by
  unfold writeRange
  repeat' first
    | with_reducible assumption
    | with_reducible apply writePieces_sound
    | with_reducible refine Sound.fst (by assumption) ?_

theorem reportWalks_sound {org : State} (old : Nat → Option Page) (req : Nat) (ctx : Nat) (l : List (Nat × Walk)) (s : State) (sk : Sound org s) : Sound org (reportWalks old req ctx l s) := by
  unfold reportWalks
  repeat' first
    | with_reducible assumption
    | (extract_lets +onlyGivenNames b; first | (refine Sound.cut (Sound org b) ?_ ?_ <;> first | (intro hb; clear_value b; refine Sound.hold ?_) | intro hb | (unfold b; clear b)) | ((first | (have h0 : Nat := b; clear h0) | (have h0 : Bool := b; clear h0) | (have h0 : BitVec _ := b; clear h0) | (have h0 : List _ := b; clear h0)); clear_value b) | (unfold b; clear b) | clear b)
    | with_reducible apply walkTraffic_sound
    | with_reducible apply xlatFault_sound
    | ((with_reducible refine Sound.fold _ ?_ ?_) <;> try intro x a hb)
    | split
    | exact Sound.update (by assumption)

theorem requestPin_sound {org : State} (u : PinUse) (ctx : Nat) (base : Nat) (len : Nat) (s : State) (sk : Sound org s) : Sound org (requestPin u ctx base len s) := by
  unfold requestPin
  repeat' first
    | with_reducible assumption
    | (extract_lets +onlyGivenNames b; first | (unfold b; clear b) | clear b)
    | exact Sound.update (by assumption)
    | exact Sound.updateIc (by assumption)

theorem dropPin_sound {org : State} (u : PinUse) (s : State) (sk : Sound org s) : Sound org (dropPin u s) := by
  unfold dropPin
  repeat' first
    | with_reducible assumption
    | (extract_lets +onlyGivenNames b; first | (unfold b; clear b) | clear b)
    | exact Sound.update (by assumption)
    | exact Sound.updateIc (by assumption)

theorem shadowPin_sound {org : State} (p : Pin) (s : State) (sk : Sound org s) : Sound org (shadowPin p s).1 := by
  unfold shadowPin
  repeat' first
    | with_reducible assumption
    | (extract_lets +onlyGivenNames b; first | (refine Sound.cut (Sound org b) ?_ ?_ <;> first | (intro hb; clear_value b; refine Sound.hold ?_) | intro hb | (unfold b; clear b)) | ((first | (have h0 : Nat := b; clear h0) | (have h0 : Bool := b; clear h0) | (have h0 : BitVec _ := b; clear h0) | (have h0 : List _ := b; clear h0)); clear_value b) | (unfold b; clear b) | clear b)
    | with_reducible apply reportWalks_sound
    | split

theorem completePin_sound {org : State} (i : Nat) (s : State) (sk : Sound org s) : Sound org (completePin i s) := by
  unfold completePin
  repeat' first
    | with_reducible assumption
    | (extract_lets +onlyGivenNames b; first | (refine Sound.cut (Sound org b) ?_ ?_ <;> first | (intro hb; clear_value b; refine Sound.hold ?_) | intro hb | (unfold b; clear b)) | (refine Sound.cut (Sound org b.1) ?_ ?_ <;> first | (intro hb; clear_value b; refine Sound.hold ?_) | intro hb | (unfold b; clear b)) | ((first | (have h0 : Nat := b; clear h0) | (have h0 : Bool := b; clear h0) | (have h0 : BitVec _ := b; clear h0) | (have h0 : List _ := b; clear h0)); clear_value b) | (unfold b; clear b) | clear b)
    | with_reducible apply State.bump_sound
    | with_reducible apply raise_sound
    | with_reducible apply reportWalks_sound
    | with_reducible apply shadowPin_sound
    | with_reducible refine Sound.fst (by assumption) ?_
    | split
    | exact Sound.update (by assumption)
    | exact Sound.updateIc (by assumption)
    | (refine Sound.update ?_; with_reducible refine Sound.fst (by assumption) ?_)

end Sys2Proof.Machine
end

