-- ==== Sys2Proof/Laws/KeepLantern.lean ====
section
/-! SUPPORT. What the operations of Lantern keep. -/

set_option linter.all false

namespace Sys2Proof.Machine

theorem stopLantern_sound {org : State} (l : Nat) (s : State) (sk : Sound org s) : Sound org (stopLantern l s) := by
  unfold stopLantern
  repeat' first
    | with_reducible assumption
    | (extract_lets +onlyGivenNames b; first | (refine Sound.cut (Sound org b) ?_ ?_ <;> first | (intro hb; clear_value b; refine Sound.hold ?_) | intro hb | (unfold b; clear b)) | ((first | (have h0 : Nat := b; clear h0) | (have h0 : Bool := b; clear h0) | (have h0 : BitVec _ := b; clear h0) | (have h0 : List _ := b; clear h0)); clear_value b) | (unfold b; clear b) | clear b)
    | with_reducible apply State.setLantern_sound
    | split
    | exact Sound.update (by assumption)

theorem haltLantern_sound {org : State} (l : Nat) (s : State) (sk : Sound org s) : Sound org (haltLantern l s) := by
  unfold haltLantern
  repeat' first
    | with_reducible assumption
    | (extract_lets +onlyGivenNames b; first | (refine Sound.cut (Sound org b) ?_ ?_ <;> first | (intro hb; clear_value b; refine Sound.hold ?_) | intro hb | (unfold b; clear b)) | ((first | (have h0 : Nat := b; clear h0) | (have h0 : Bool := b; clear h0) | (have h0 : BitVec _ := b; clear h0) | (have h0 : List _ := b; clear h0)); clear_value b) | (unfold b; clear b) | clear b)
    | with_reducible apply State.setLantern_sound
    | with_reducible apply stopLantern_sound
    | exact Sound.update (by assumption)

theorem lanternFault_sound {org : State} (l : Nat) (code : Nat) (s : State) (sk : Sound org s) : Sound org (lanternFault l code s) := by
  unfold lanternFault
  repeat' first
    | with_reducible assumption
    | (extract_lets +onlyGivenNames b; first | (refine Sound.cut (Sound org b) ?_ ?_ <;> first | (intro hb; clear_value b; refine Sound.hold ?_) | intro hb | (unfold b; clear b)) | ((first | (have h0 : Nat := b; clear h0) | (have h0 : Bool := b; clear h0) | (have h0 : BitVec _ := b; clear h0) | (have h0 : List _ := b; clear h0)); clear_value b) | (unfold b; clear b) | clear b)
    | with_reducible apply State.setLantern_sound
    | with_reducible apply raise_sound
    | exact Sound.update (by assumption)

theorem settlePace_sound {org : State} (l : Nat) (s : State) (sk : Sound org s) : Sound org (settlePace l s) := by
  unfold settlePace
  repeat' first
    | with_reducible assumption
    | (extract_lets +onlyGivenNames b; first | (refine Sound.cut (Sound org b) ?_ ?_ <;> first | (intro hb; clear_value b; refine Sound.hold ?_) | intro hb | (unfold b; clear b)) | ((first | (have h0 : Nat := b; clear h0) | (have h0 : Bool := b; clear h0) | (have h0 : BitVec _ := b; clear h0) | (have h0 : List _ := b; clear h0)); clear_value b) | (unfold b; clear b) | clear b)
    | with_reducible apply State.setLantern_sound
    | exact Sound.update (by assumption)

theorem lanternLine_sound {org : State} (n : Nat) (y : Nat) (at_ : Nat) (s : State) (sk : Sound org s) : Sound org (lanternLine n y at_ s) := by
  unfold lanternLine
  repeat' first
    | with_reducible assumption
    | (extract_lets +onlyGivenNames b; first | (refine Sound.cut (Sound org b) ?_ ?_ <;> first | (intro hb; clear_value b; refine Sound.hold ?_) | intro hb | (unfold b; clear b)) | ((first | (have h0 : Nat := b; clear h0) | (have h0 : Bool := b; clear h0) | (have h0 : BitVec _ := b; clear h0) | (have h0 : List _ := b; clear h0)); clear_value b) | (unfold b; clear b) | clear b)
    | with_reducible apply State.setLantern_sound
    | split
    | exact Sound.update (by assumption)

theorem lanternOmitted_sound {org : State} (n : Nat) (last : Nat) (at_ : Nat) (s : State) (sk : Sound org s) : Sound org (lanternOmitted n last at_ s) := by
  unfold lanternOmitted
  repeat' first
    | with_reducible assumption
    | (extract_lets +onlyGivenNames b; first | (refine Sound.cut (Sound org b) ?_ ?_ <;> first | (intro hb; clear_value b; refine Sound.hold ?_) | intro hb | (unfold b; clear b)) | ((first | (have h0 : Nat := b; clear h0) | (have h0 : Bool := b; clear h0) | (have h0 : BitVec _ := b; clear h0) | (have h0 : List _ := b; clear h0)); clear_value b) | (unfold b; clear b) | clear b)
    | with_reducible apply State.setLantern_sound
    | split
    | exact Sound.update (by assumption)

theorem faultLostWait_sound {org : State} (n : Nat) (s : State) (sk : Sound org s) : Sound org (faultLostWait n s) := by
  unfold faultLostWait
  repeat' first
    | with_reducible assumption
    | (extract_lets +onlyGivenNames b; first | (unfold b; clear b) | clear b)
    | with_reducible apply lanternFault_sound
    | split
    | exact Sound.update (by assumption)

theorem lanternStream_sound {org : State} (stream : Nat) (count : Nat) (at_ : Nat) (s : State) (sk : Sound org s) : Sound org (lanternStream stream count at_ s) := by
  unfold lanternStream
  repeat' first
    | with_reducible assumption
    | (extract_lets +onlyGivenNames b; first | (refine Sound.cut (Sound org b) ?_ ?_ <;> first | (intro hb; clear_value b; refine Sound.hold ?_) | intro hb | (unfold b; clear b)) | ((first | (have h0 : Nat := b; clear h0) | (have h0 : Bool := b; clear h0) | (have h0 : BitVec _ := b; clear h0) | (have h0 : List _ := b; clear h0)); clear_value b) | (unfold b; clear b) | clear b)
    | with_reducible apply State.setLantern_sound
    | ((with_reducible refine Sound.fold _ ?_ ?_) <;> try intro x a hb)
    | split
    | exact Sound.update (by assumption)

theorem setFence_sound {org : State} (i : Nat) (v : Word) (s : State) (sk : Sound org s) : Sound org (setFence i v s) := by
  unfold setFence
  repeat' first
    | with_reducible assumption
    | (extract_lets +onlyGivenNames b; first | (refine Sound.cut (Sound org b) ?_ ?_ <;> first | (intro hb; clear_value b; refine Sound.hold ?_) | intro hb | (unfold b; clear b)) | ((first | (have h0 : Nat := b; clear h0) | (have h0 : Bool := b; clear h0) | (have h0 : BitVec _ := b; clear h0) | (have h0 : List _ := b; clear h0)); clear_value b) | (unfold b; clear b) | clear b)
    | with_reducible apply State.setLantern_sound
    | ((with_reducible refine Sound.fold _ ?_ ?_) <;> try intro x a hb)
    | split
    | exact Sound.update (by assumption)
    | exact Sound.updateFa (by assumption)

end Sys2Proof.Machine
end

