-- ==== Sys2Proof/Laws/KeepOperands.lean ====
section
/-! SUPPORT. What the operations of Operands keep. -/

set_option linter.all false

namespace Sys2Proof.Machine

theorem turnAway_sound {org : State} (src : Source) (s : State) (sk : Sound org s) : Sound org (turnAway src s) := by
  unfold turnAway
  repeat' first
    | with_reducible assumption
    | (extract_lets +onlyGivenNames b; first | (unfold b; clear b) | clear b)
    | with_reducible apply State.answer_sound
    | with_reducible apply aerLog_sound
    | split
    | exact Sound.update (by assumption)

theorem countBar0_sound {org : State} (src : Source) (ev : Nat) (s : State) (sk : Sound org s) : Sound org (countBar0 src ev s) := by
  unfold countBar0
  repeat' first
    | with_reducible assumption
    | (extract_lets +onlyGivenNames b; first | (refine Sound.cut (Sound org b) ?_ ?_ <;> first | (intro hb; clear_value b; refine Sound.hold ?_) | intro hb | (unfold b; clear b)) | (refine Sound.cut (Sound org b.1) ?_ ?_ <;> first | (intro hb; clear_value b; refine Sound.hold ?_) | intro hb | (unfold b; clear b)) | ((first | (have h0 : Nat := b; clear h0) | (have h0 : Bool := b; clear h0) | (have h0 : BitVec _ := b; clear h0) | (have h0 : List _ := b; clear h0)); clear_value b) | (unfold b; clear b) | clear b)
    | with_reducible apply State.wakeLink_sound
    | with_reducible apply perfEvent_sound
    | with_reducible refine Sound.fst (by assumption) ?_
    | ((with_reducible refine Sound.fold _ ?_ ?_) <;> try intro x a hb)
    | ((with_reducible refine Sound.foldP _ ?_ ?_) <;> try (intro x a hb; rcases x with ⟨x, xr⟩))
    | split
    | exact Sound.update (by assumption)
    | exact Sound.updateFa (by assumption)
    | exact Sound.updateIc (by assumption)
    | exact Sound.updateAon (by assumption)
    | (refine Sound.update ?_; with_reducible refine Sound.fst (by assumption) ?_)
    | exact hb.same rfl rfl rfl rfl rfl rfl rfl
    | exact sk.same rfl rfl rfl rfl rfl rfl rfl

end Sys2Proof.Machine
end

