-- ==== Sys2Proof/Laws/KeepIrq.lean ====
section
/-! SUPPORT. What the operations of Irq keep. -/

set_option linter.all false

namespace Sys2Proof.Machine

theorem changeTarget_sound {org : State} (t : Nat) (f : Target → Target) (s : State) (sk : Sound org s)
    (hf : (s.target t).stack.length ≤ 8 → (f (s.target t)).stack.length ≤ 8) : Sound org (changeTarget t f s) := by
  unfold changeTarget
  exact settle_sound _ _ _ (Sound.setTarget sk _ _ hf)

theorem claimAt_sound {org : State} (t : Nat) (s : State) (sk : Sound org s) : Sound org (claimAt t s).1 := by
  unfold claimAt
  extract_lets x b
  clear_value b
  split
  · with_reducible refine changeTarget_sound t _ s sk ?_
    exact fun h => h
  · rename_i hn
    split
    · with_reducible refine changeTarget_sound t _ s sk ?_
      exact fun h => h
    · refine perfEvent_sound _ _ _ _ _ ?_
      with_reducible refine changeTarget_sound t _ s sk ?_
      exact fun _ => Nat.lt_of_not_le hn

theorem claim_sound {org : State} (src : Source) (selected : Bool) (full : Bool) (s : State) (sk : Sound org s) : Sound org (claim src selected full s) := by
  unfold claim
  repeat' first
    | with_reducible assumption
    | (extract_lets +onlyGivenNames b; first | (refine Sound.cut (Sound org b) ?_ ?_ <;> first | (intro hb; clear_value b; refine Sound.hold ?_) | intro hb | (unfold b; clear b)) | (refine Sound.cut (Sound org b.1) ?_ ?_ <;> first | (intro hb; clear_value b; refine Sound.hold ?_) | intro hb | (unfold b; clear b)) | ((first | (have h0 : Nat := b; clear h0) | (have h0 : Bool := b; clear h0) | (have h0 : BitVec _ := b; clear h0) | (have h0 : List _ := b; clear h0)); clear_value b) | (unfold b; clear b) | clear b)
    | with_reducible apply State.answer_sound
    | with_reducible apply claimAt_sound
    | with_reducible refine Sound.fst (by assumption) ?_
    | split

theorem eoiAt_sound {org : State} (src : Source) (t : Nat) (a : Access) (source : Nat) (s : State) (sk : Sound org s) :
    Sound org (eoiAt src t a source s) := by
  unfold eoiAt
  split
  · exact refuse_sound _ _ _ _ sk
  · split
    · exact refuse_sound _ _ _ _ sk
    · rename_i hc
      split
      · exact changeTarget_sound _ _ _ sk (fun h => by rw [hc] at h; exact Nat.le_of_succ_le h)
      · exact refuse_sound _ _ _ _ sk

theorem pendSetAt_sound {org : State} (src : Source) (t : Nat) (k : Nat) (a : Access) (w : Word) (s : State) (sk : Sound org s) : Sound org (pendSetAt src t k a w s) := by
  unfold pendSetAt
  repeat' first
    | with_reducible assumption
    | (extract_lets +onlyGivenNames b; first | (refine Sound.cut (Sound org b) ?_ ?_ <;> first | (intro hb; clear_value b; refine Sound.hold ?_) | intro hb | (unfold b; clear b)) | ((first | (have h0 : Nat := b; clear h0) | (have h0 : Bool := b; clear h0) | (have h0 : BitVec _ := b; clear h0) | (have h0 : List _ := b; clear h0)); clear_value b) | (unfold b; clear b) | clear b)
    | with_reducible apply pendAt_sound
    | with_reducible apply settle_sound
    | with_reducible apply refuse_sound
    | ((with_reducible refine Sound.fold _ ?_ ?_) <;> try intro x a hb)
    | split
    | exact Sound.update (by assumption)

theorem pendClrAt_sound {org : State} (src : Source) (t : Nat) (k : Nat) (a : Access) (w : Word) (s : State) (sk : Sound org s) : Sound org (pendClrAt src t k a w s) := by
  unfold pendClrAt
  repeat' first
    | with_reducible assumption
    | (extract_lets +onlyGivenNames b; first | (unfold b; clear b) | clear b)
    | with_reducible apply refuse_sound
    | ((with_reducible refine changeTarget_sound _ _ _ ?_ ?_) <;> try (intro hq; first | exact hq | exact Nat.zero_le _))
    | split
    | exact Sound.update (by assumption)

theorem maskSetAt_sound {org : State} (src : Source) (t : Nat) (k : Nat) (a : Access) (w : Word) (s : State) (sk : Sound org s) : Sound org (maskSetAt src t k a w s) := by
  unfold maskSetAt
  repeat' first
    | with_reducible assumption
    | (extract_lets +onlyGivenNames b; first | (unfold b; clear b) | clear b)
    | with_reducible apply refuse_sound
    | ((with_reducible refine changeTarget_sound _ _ _ ?_ ?_) <;> try (intro hq; first | exact hq | exact Nat.zero_le _))
    | split
    | exact Sound.update (by assumption)

theorem maskClrAt_sound {org : State} (src : Source) (t : Nat) (k : Nat) (a : Access) (w : Word) (s : State) (sk : Sound org s) : Sound org (maskClrAt src t k a w s) := by
  unfold maskClrAt
  repeat' first
    | with_reducible assumption
    | (extract_lets +onlyGivenNames b; first | (unfold b; clear b) | clear b)
    | with_reducible apply refuse_sound
    | ((with_reducible refine changeTarget_sound _ _ _ ?_ ?_) <;> try (intro hq; first | exact hq | exact Nat.zero_le _))
    | split
    | exact Sound.update (by assumption)

theorem coalesceTimeout_sound {org : State} (g : Nat) (s : State) (sk : Sound org s) : Sound org (coalesceTimeout g s) := by
  unfold coalesceTimeout
  repeat' first
    | with_reducible assumption
    | (extract_lets +onlyGivenNames b; first | (refine Sound.cut (Sound org b) ?_ ?_ <;> first | (intro hb; clear_value b; refine Sound.hold ?_) | intro hb | (unfold b; clear b)) | ((first | (have h0 : Nat := b; clear h0) | (have h0 : Bool := b; clear h0) | (have h0 : BitVec _ := b; clear h0) | (have h0 : List _ := b; clear h0)); clear_value b) | (unfold b; clear b) | clear b)
    | with_reducible apply releaseGroup_sound
    | with_reducible apply settle_sound
    | with_reducible apply toTick_sound
    | split

theorem targetWrite_sound {org : State} (t : Nat) (r : RegId) (v : Word) (s : State) (sk : Sound org s) : Sound org (targetWrite t r v s) := by
  unfold targetWrite
  repeat' first
    | with_reducible assumption
    | (extract_lets +onlyGivenNames b; first | (refine Sound.cut (Sound org b) ?_ ?_ <;> first | (intro hb; clear_value b; refine Sound.hold ?_) | intro hb | (unfold b; clear b)) | ((first | (have h0 : Nat := b; clear h0) | (have h0 : Bool := b; clear h0) | (have h0 : BitVec _ := b; clear h0) | (have h0 : List _ := b; clear h0)); clear_value b) | (unfold b; clear b) | clear b)
    | ((with_reducible refine Sound.setTargetOf ?_ _ _ ?_) <;> try (intro hq; first | exact hb.stack hq _ | exact sk.stack hq _))
    | with_reducible apply stopSleeping_sound
    | with_reducible apply settle_sound
    | ((with_reducible refine changeTarget_sound _ _ _ ?_ ?_) <;> try (intro hq; first | exact hq | exact Nat.zero_le _))
    | split
    | exact Sound.update (by assumption)

theorem resetTarget_sound {org : State} (f : Nat) (s : State) (sk : Sound org s) : Sound org (resetTarget f s) := by
  unfold resetTarget
  repeat' first
    | with_reducible assumption
    | (extract_lets +onlyGivenNames b; first | (refine Sound.cut (Sound org b) ?_ ?_ <;> first | (intro hb; clear_value b; refine Sound.hold ?_) | intro hb | (unfold b; clear b)) | ((first | (have h0 : Nat := b; clear h0) | (have h0 : Bool := b; clear h0) | (have h0 : BitVec _ := b; clear h0) | (have h0 : List _ := b; clear h0)); clear_value b) | (unfold b; clear b) | clear b)
    | ((with_reducible refine Sound.setTargetOf ?_ _ _ ?_) <;> try (intro hq; first | exact hb.stack hq _ | exact sk.stack hq _ | exact Nat.zero_le _))
    | with_reducible apply State.setCgroup_sound
    | ((with_reducible refine Sound.fold _ ?_ ?_) <;> try intro x a hb)
    | split
    | exact Sound.update (by assumption)

theorem keepSources_sound {org : State} (t : Nat) (s : State) (sk : Sound org s) : Sound org (keepSources t s) := by
  unfold keepSources
  repeat' first
    | with_reducible assumption
    | (extract_lets +onlyGivenNames b; first | (unfold b; clear b) | clear b)
    | ((with_reducible refine changeTarget_sound _ _ _ ?_ ?_) <;> try (intro hq; first | exact hq | exact Nat.zero_le _))
    | ((with_reducible refine Sound.fold _ ?_ ?_) <;> try intro x a hb)
    | exact Sound.update (by assumption)

end Sys2Proof.Machine
end

