-- ==== Sys2Proof/Laws/KeepNotify.lean ====
section
/-! SUPPORT. What the operations of Notify keep. -/

set_option linter.all false

namespace Sys2Proof.Machine

theorem noteEvent_sound {org : State} (cls : Nat) (code : Nat) (item : Nat) (detail : Word) (only : Option Nat) (s : State) (sk : Sound org s) : Sound org (noteEvent cls code item detail only s) := by
  unfold noteEvent
  repeat' first
    | with_reducible assumption
    | (extract_lets +onlyGivenNames b; first | (refine Sound.cut (Sound org b) ?_ ?_ <;> first | (intro hb; clear_value b; refine Sound.hold ?_) | intro hb | (unfold b; clear b)) | ((first | (have h0 : Nat := b; clear h0) | (have h0 : Bool := b; clear h0) | (have h0 : BitVec _ := b; clear h0) | (have h0 : List _ := b; clear h0)); clear_value b) | (unfold b; clear b) | clear b)
    | exact Sound.update (by assumption)

theorem withdrawNote_sound {org : State} (code : Nat) (s : State) (sk : Sound org s) : Sound org (withdrawNote code s) := by
  unfold withdrawNote
  repeat' first
    | with_reducible assumption
    | (extract_lets +onlyGivenNames b; first | (unfold b; clear b) | clear b)
    | exact Sound.update (by assumption)

theorem setCategory_sound {org : State} (c : Nat) (item : Nat) (s : State) (sk : Sound org s) : Sound org (setCategory c item s) := by
  unfold setCategory
  repeat' first
    | with_reducible assumption
    | (extract_lets +onlyGivenNames b; first | (refine Sound.cut (Sound org b) ?_ ?_ <;> first | (intro hb; clear_value b; refine Sound.hold ?_) | intro hb | (unfold b; clear b)) | ((first | (have h0 : Nat := b; clear h0) | (have h0 : Bool := b; clear h0) | (have h0 : BitVec _ := b; clear h0) | (have h0 : List _ := b; clear h0)); clear_value b) | (unfold b; clear b) | clear b)
    | with_reducible apply raise_sound
    | with_reducible apply noteEvent_sound
    | with_reducible apply withdrawNote_sound
    | split
    | exact Sound.update (by assumption)

theorem clearCategory_sound {org : State} (c : Nat) (s : State) (sk : Sound org s) : Sound org (clearCategory c s) := by
  unfold clearCategory
  repeat' first
    | with_reducible assumption
    | (extract_lets +onlyGivenNames b; first | (refine Sound.cut (Sound org b) ?_ ?_ <;> first | (intro hb; clear_value b; refine Sound.hold ?_) | intro hb | (unfold b; clear b)) | ((first | (have h0 : Nat := b; clear h0) | (have h0 : Bool := b; clear h0) | (have h0 : BitVec _ := b; clear h0) | (have h0 : List _ := b; clear h0)); clear_value b) | (unfold b; clear b) | clear b)
    | with_reducible apply noteEvent_sound
    | split
    | exact Sound.update (by assumption)

theorem settleQuad_sound {org : State} (s : State) (q : Nat) (sk : Sound org s) : Sound org (settleQuad s q) := by
  unfold settleQuad
  repeat' first
    | with_reducible assumption
    | (extract_lets +onlyGivenNames b; first | (refine Sound.cut (Sound org b) ?_ ?_ <;> first | (intro hb; clear_value b; refine Sound.hold ?_) | intro hb | (unfold b; clear b)) | ((first | (have h0 : Nat := b; clear h0) | (have h0 : Bool := b; clear h0) | (have h0 : BitVec _ := b; clear h0) | (have h0 : List _ := b; clear h0)); clear_value b) | (unfold b; clear b) | clear b)
    | with_reducible apply State.send_sound
    | split
    | exact Sound.update (by assumption)

theorem forgetQuad_sound {org : State} (q : Nat) (t : Nat) (s : State) (sk : Sound org s) : Sound org (forgetQuad q t s) := by
  unfold forgetQuad
  repeat' first
    | with_reducible assumption
    | (extract_lets +onlyGivenNames b; first | (refine Sound.cut (Sound org b) ?_ ?_ <;> first | (intro hb; clear_value b; refine Sound.hold ?_) | intro hb | (unfold b; clear b)) | ((first | (have h0 : Nat := b; clear h0) | (have h0 : Bool := b; clear h0) | (have h0 : BitVec _ := b; clear h0) | (have h0 : List _ := b; clear h0)); clear_value b) | (unfold b; clear b) | clear b)
    | split
    | exact Sound.update (by assumption)

theorem updateBlanked_sound {org : State} (n : Nat) (s : State) (sk : Sound org s) : Sound org (updateBlanked n s) := by
  unfold updateBlanked
  repeat' first
    | with_reducible assumption
    | (extract_lets +onlyGivenNames b; first | (unfold b; clear b) | clear b)
    | with_reducible apply State.setKeepHead_sound
    | exact Sound.update (by assumption)

theorem faultRegion_sound {org : State} (n : Nat) (s : State) (r : Nat) (sk : Sound org s) : Sound org (faultRegion n s r) := by
  unfold faultRegion
  repeat' first
    | with_reducible assumption
    | (extract_lets +onlyGivenNames b; first | (refine Sound.cut (Sound org b) ?_ ?_ <;> first | (intro hb; clear_value b; refine Sound.hold ?_) | intro hb | (unfold b; clear b)) | ((first | (have h0 : Nat := b; clear h0) | (have h0 : Bool := b; clear h0) | (have h0 : BitVec _ := b; clear h0) | (have h0 : List _ := b; clear h0)); clear_value b) | (unfold b; clear b) | clear b)
    | with_reducible apply State.setKeepHead_sound
    | split
    | exact Sound.update (by assumption)

theorem noteRegions_sound {org : State} (n : Nat) (kind : Nat) (rs : List Nat) (s : State) (sk : Sound org s) : Sound org (noteRegions n kind rs s) := by
  unfold noteRegions
  repeat' first
    | with_reducible assumption
    | with_reducible apply noteEvent_sound
    | ((with_reducible refine Sound.fold _ ?_ ?_) <;> try intro x a hb)

theorem keepFault_sound {org : State} (n : Nat) (kind : Nat) (rs : List Nat) (s : State) (sk : Sound org s) : Sound org (keepFault n kind rs s) := by
  unfold keepFault
  repeat' first
    | with_reducible assumption
    | (extract_lets +onlyGivenNames b; first | (refine Sound.cut (Sound org b) ?_ ?_ <;> first | (intro hb; clear_value b; refine Sound.hold ?_) | intro hb | (unfold b; clear b)) | ((first | (have h0 : Nat := b; clear h0) | (have h0 : Bool := b; clear h0) | (have h0 : BitVec _ := b; clear h0) | (have h0 : List _ := b; clear h0)); clear_value b) | (unfold b; clear b) | clear b)
    | with_reducible apply State.setKeepHead_sound
    | with_reducible apply raise_sound
    | with_reducible apply setCategory_sound
    | with_reducible apply updateBlanked_sound
    | with_reducible apply faultRegion_sound
    | with_reducible apply noteRegions_sound
    | ((with_reducible refine Sound.fold _ ?_ ?_) <;> try intro x a hb)
    | split
    | exact Sound.update (by assumption)

theorem settleKeep_sound {org : State} (s : State) (sk : Sound org s) : Sound org (settleKeep s) := by
  unfold settleKeep
  repeat' first
    | with_reducible assumption
    | with_reducible apply clearCategory_sound
    | split

theorem leaveFault_sound {org : State} (n : Nat) (s : State) (r : Nat) (sk : Sound org s) : Sound org (leaveFault n s r) := by
  unfold leaveFault
  repeat' first
    | with_reducible assumption
    | (extract_lets +onlyGivenNames b; first | (refine Sound.cut (Sound org b) ?_ ?_ <;> first | (intro hb; clear_value b; refine Sound.hold ?_) | intro hb | (unfold b; clear b)) | ((first | (have h0 : Nat := b; clear h0) | (have h0 : Bool := b; clear h0) | (have h0 : BitVec _ := b; clear h0) | (have h0 : List _ := b; clear h0)); clear_value b) | (unfold b; clear b) | clear b)
    | ((with_reducible refine Sound.setLayerOf ?_ _ _ ?_) <;> try (intro hq; first | exact (hb.queue hq).1 _ | exact (sk.queue hq).1 _))
    | with_reducible apply State.setKeepHead_sound
    | with_reducible apply noteEvent_sound
    | with_reducible apply updateBlanked_sound
    | ((with_reducible refine Sound.fold _ ?_ ?_) <;> try intro x a hb)
    | exact Sound.update (by assumption)

theorem enforceUnavailable_sound {org : State} (n : Nat) (s : State) (sk : Sound org s) : Sound org (enforceUnavailable n s) := by
  unfold enforceUnavailable
  repeat' first
    | with_reducible assumption
    | (extract_lets +onlyGivenNames b; first | (refine Sound.cut (Sound org b) ?_ ?_ <;> first | (intro hb; clear_value b; refine Sound.hold ?_) | intro hb | (unfold b; clear b)) | ((first | (have h0 : Nat := b; clear h0) | (have h0 : Bool := b; clear h0) | (have h0 : BitVec _ := b; clear h0) | (have h0 : List _ := b; clear h0)); clear_value b) | (unfold b; clear b) | clear b)
    | with_reducible apply State.setKeepHead_sound
    | with_reducible apply State.draw_sound
    | with_reducible apply noteRegions_sound
    | ((with_reducible refine Sound.fold _ ?_ ?_) <;> try intro x a hb)
    | split
    | exact Sound.update (by assumption)

end Sys2Proof.Machine
end

