-- ==== Sys2Proof/Laws/KeepLedger.lean ====
section
/-! SUPPORT. What the operations of Ledger keep. -/

set_option linter.all false

namespace Sys2Proof.Machine

theorem State.setNor_sound {org : State} (s : State) (f : Nor → Nor) (sk : Sound org s) : Sound org (State.setNor s f) := by
  unfold State.setNor
  repeat' first
    | with_reducible assumption
    | (extract_lets +onlyGivenNames b; first | (unfold b; clear b) | clear b)
    | exact Sound.update (by assumption)
    | exact Sound.updateAon (by assumption)

theorem writeLedger_sound {org : State} (ok : Bool) (s : State) (sk : Sound org s) : Sound org (writeLedger ok s) := by
  unfold writeLedger
  repeat' first
    | with_reducible assumption
    | (extract_lets +onlyGivenNames b; first | (refine Sound.cut (Sound org b) ?_ ?_ <;> first | (intro hb; clear_value b; refine Sound.hold ?_) | intro hb | (unfold b; clear b)) | ((first | (have h0 : Nat := b; clear h0) | (have h0 : Bool := b; clear h0) | (have h0 : BitVec _ := b; clear h0) | (have h0 : List _ := b; clear h0)); clear_value b) | (unfold b; clear b) | clear b)
    | with_reducible apply State.draw_sound
    | with_reducible apply State.setNor_sound
    | split
    | exact Sound.update (by assumption)

theorem writeStore_sound {org : State} (ok : Bool) (vals : List (Nat × List Byte)) (s : State) (sk : Sound org s) : Sound org (writeStore ok vals s) := by
  unfold writeStore
  repeat' first
    | with_reducible assumption
    | (extract_lets +onlyGivenNames b; first | (refine Sound.cut (Sound org b) ?_ ?_ <;> first | (intro hb; clear_value b; refine Sound.hold ?_) | intro hb | (unfold b; clear b)) | ((first | (have h0 : Nat := b; clear h0) | (have h0 : Bool := b; clear h0) | (have h0 : BitVec _ := b; clear h0) | (have h0 : List _ := b; clear h0)); clear_value b) | (unfold b; clear b) | clear b)
    | with_reducible apply State.draw_sound
    | with_reducible apply perfEvent_sound
    | with_reducible apply raise_sound
    | with_reducible apply State.setNor_sound
    | ((with_reducible refine Sound.fold _ ?_ ?_) <;> try intro x a hb)
    | split
    | exact Sound.update (by assumption)

theorem State.setLedger_sound {org : State} (s : State) (f : Ledger → Ledger) (sk : Sound org s) : Sound org (State.setLedger s f) := by
  unfold State.setLedger
  repeat' first
    | with_reducible assumption
    | (extract_lets +onlyGivenNames b; first | (unfold b; clear b) | clear b)
    | exact Sound.update (by assumption)

theorem noteEntry_sound {org : State} (f : LedgerEntry → LedgerEntry) (s : State) (sk : Sound org s) : Sound org (noteEntry f s) := by
  unfold noteEntry
  repeat' first
    | with_reducible assumption
    | (extract_lets +onlyGivenNames b; first | (unfold b; clear b) | clear b)
    | with_reducible apply State.setLedger_sound
    | split
    | exact Sound.update (by assumption)

theorem noteCopy_sound {org : State} (place : Nat) (o : Outcome) (s : State) (sk : Sound org s) : Sound org (noteCopy place o s) := by
  unfold noteCopy
  repeat' first
    | with_reducible assumption
    | (extract_lets +onlyGivenNames b; first | (refine Sound.cut (Sound org b) ?_ ?_ <;> first | (intro hb; clear_value b; refine Sound.hold ?_) | intro hb | (unfold b; clear b)) | ((first | (have h0 : Nat := b; clear h0) | (have h0 : Bool := b; clear h0) | (have h0 : BitVec _ := b; clear h0) | (have h0 : List _ := b; clear h0)); clear_value b) | (unfold b; clear b) | clear b)
    | with_reducible apply State.setLedger_sound
    | with_reducible apply noteEntry_sound
    | split
    | exact Sound.update (by assumption)

theorem noteFree_sound {org : State} (cls : Nat) (item : Nat) (detail : Word) (only : Option Nat) (s : State) (sk : Sound org s) : Sound org (noteFree cls item detail only s) := by
  unfold noteFree
  repeat' first
    | with_reducible assumption
    | with_reducible apply State.draw_sound
    | with_reducible apply noteEvent_sound

end Sys2Proof.Machine
end

