-- ==== Sys2Proof/Laws/KeepCompose.lean ====
section
/-! SUPPORT. What the operations of Compose keep. -/

set_option linter.all false

namespace Sys2Proof.Machine

theorem raceDecide_sound {org : State} (v : LayerView) (e : Envelope) (s : State) (y : Nat) (sk : Sound org s) : Sound org (raceDecide v e s y) := by
  unfold raceDecide
  repeat' first
    | with_reducible assumption
    | (extract_lets +onlyGivenNames b; first | (refine Sound.cut (Sound org b) ?_ ?_ <;> first | (intro hb; clear_value b; refine Sound.hold ?_) | intro hb | (unfold b; clear b)) | ((first | (have h0 : Nat := b; clear h0) | (have h0 : Bool := b; clear h0) | (have h0 : BitVec _ := b; clear h0) | (have h0 : List _ := b; clear h0)); clear_value b) | (unfold b; clear b) | clear b)
    | with_reducible apply State.bump_sound
    | with_reducible apply State.setRace_sound
    | split
    | exact Sound.update (by assumption)

theorem countBursts_sound {org : State} (f : Feed) (req : Nat) (l : List (Nat × Nat)) (s : State) (sk : Sound org s) : Sound org (countBursts f req l s) := by
  unfold countBursts
  repeat' first
    | with_reducible assumption
    | (extract_lets +onlyGivenNames b; first | (refine Sound.cut (Sound org b) ?_ ?_ <;> first | (intro hb; clear_value b; refine Sound.hold ?_) | intro hb | (unfold b; clear b)) | ((first | (have h0 : Nat := b; clear h0) | (have h0 : Bool := b; clear h0) | (have h0 : BitVec _ := b; clear h0) | (have h0 : List _ := b; clear h0)); clear_value b) | (unfold b; clear b) | clear b)
    | with_reducible apply perfEvent_sound
    | split

theorem reportBursts_sound {org : State} (f : Feed) (req : Nat) (ranges : List (Nat × Nat)) (s : State) (sk : Sound org s) : Sound org (reportBursts f req ranges s) := by
  unfold reportBursts
  repeat' first
    | with_reducible assumption
    | (extract_lets +onlyGivenNames b; first | (refine Sound.cut (Sound org b) ?_ ?_ <;> first | (intro hb; clear_value b; refine Sound.hold ?_) | intro hb | (unfold b; clear b)) | ((first | (have h0 : Nat := b; clear h0) | (have h0 : Bool := b; clear h0) | (have h0 : BitVec _ := b; clear h0) | (have h0 : List _ := b; clear h0)); clear_value b) | (unfold b; clear b) | clear b)
    | with_reducible apply eccUncorrect_sound
    | with_reducible apply xlatFault_sound
    | with_reducible apply setCategory_sound
    | with_reducible apply countBursts_sound
    | ((with_reducible refine Sound.fold _ ?_ ?_) <;> try intro x a hb)
    | split

theorem keepTile_sound {org : State} (v : LayerView) (r : Nat) (c : Nat) (t : Got Tile) (s : State) (sk : Sound org s) : Sound org (keepTile v r c t s) := by
  unfold keepTile
  repeat' first
    | with_reducible assumption
    | (extract_lets +onlyGivenNames b; first | (refine Sound.cut (Sound org b) ?_ ?_ <;> first | (intro hb; clear_value b; refine Sound.hold ?_) | intro hb | (unfold b; clear b)) | ((first | (have h0 : Nat := b; clear h0) | (have h0 : Bool := b; clear h0) | (have h0 : BitVec _ := b; clear h0) | (have h0 : List _ := b; clear h0)); clear_value b) | (unfold b; clear b) | clear b)
    | with_reducible apply State.bump_sound
    | ((with_reducible refine Sound.setLayerOf ?_ _ _ ?_) <;> try (intro hq; first | exact (hb.queue hq).1 _ | exact (sk.queue hq).1 _))
    | with_reducible apply perfEvent_sound
    | split
    | exact Sound.update (by assumption)

theorem takeBurst_sound {org : State} (v : LayerView) (e : Envelope) (lost : List Nat) (r : Nat) (s : State) (b : RowBurst) (sk : Sound org s) : Sound org (takeBurst v e lost r s b) := by
  unfold takeBurst
  repeat' first
    | with_reducible assumption
    | (extract_lets +onlyGivenNames b; first | (refine Sound.cut (Sound org b) ?_ ?_ <;> first | (intro hb; clear_value b; refine Sound.hold ?_) | intro hb | (unfold b; clear b)) | ((first | (have h0 : Nat := b; clear h0) | (have h0 : Bool := b; clear h0) | (have h0 : BitVec _ := b; clear h0) | (have h0 : List _ := b; clear h0)); clear_value b) | (unfold b; clear b) | clear b)
    | with_reducible apply reportBursts_sound
    | with_reducible apply keepTile_sound
    | ((with_reducible refine Sound.fold _ ?_ ?_) <;> try intro x a hb)
    | split
    | exact Sound.update (by assumption)

theorem takeSlice_sound {org : State} (v : LayerView) (e : Envelope) (lead : Nat) (lost : List Nat) (s : State) (p : Nat × Nat) (sk : Sound org s) : Sound org (takeSlice v e lead lost s p) := by
  unfold takeSlice
  repeat' first
    | with_reducible assumption
    | with_reducible apply takeBurst_sound
    | ((with_reducible refine Sound.fold _ ?_ ?_) <;> try intro x a hb)

theorem bringLine_sound {org : State} (v : LayerView) (e : Envelope) (lost : List Nat) (s : State) (y : Nat) (sk : Sound org s) : Sound org (bringLine v e lost s y) := by
  unfold bringLine
  repeat' first
    | with_reducible assumption
    | (extract_lets +onlyGivenNames b; first | (refine Sound.cut (Sound org b) ?_ ?_ <;> first | (intro hb; clear_value b; refine Sound.hold ?_) | intro hb | (unfold b; clear b)) | ((first | (have h0 : Nat := b; clear h0) | (have h0 : Bool := b; clear h0) | (have h0 : BitVec _ := b; clear h0) | (have h0 : List _ := b; clear h0)); clear_value b) | (unfold b; clear b) | clear b)
    | ((with_reducible refine Sound.setLayerOf ?_ _ _ ?_) <;> try (intro hq; first | exact (hb.queue hq).1 _ | exact (sk.queue hq).1 _))
    | with_reducible apply raceDecide_sound
    | with_reducible apply reportBursts_sound
    | split
    | exact Sound.update (by assumption)

theorem startLayerFrame_sound {org : State} (v : LayerView) (e : Envelope) (s : State) (sk : Sound org s) : Sound org (startLayerFrame v e s) := by
  unfold startLayerFrame
  repeat' first
    | with_reducible assumption
    | (extract_lets +onlyGivenNames b; first | (refine Sound.cut (Sound org b) ?_ ?_ <;> first | (intro hb; clear_value b; refine Sound.hold ?_) | intro hb | (unfold b; clear b)) | ((first | (have h0 : Nat := b; clear h0) | (have h0 : Bool := b; clear h0) | (have h0 : BitVec _ := b; clear h0) | (have h0 : List _ := b; clear h0)); clear_value b) | (unfold b; clear b) | clear b)
    | ((with_reducible refine Sound.setLayerOf ?_ _ _ ?_) <;> try (intro hq; first | exact (hb.queue hq).1 _ | exact (sk.queue hq).1 _))
    | with_reducible apply State.setRace_sound
    | split
    | exact Sound.update (by assumption)

theorem makeLine_sound {org : State} (v : LayerView) (d : Nat) (s : State) (sk : Sound org s) : Sound org (makeLine v d s) := by
  unfold makeLine
  repeat' first
    | with_reducible assumption
    | (extract_lets +onlyGivenNames b; first | (refine Sound.cut (Sound org b) ?_ ?_ <;> first | (intro hb; clear_value b; refine Sound.hold ?_) | intro hb | (unfold b; clear b)) | ((first | (have h0 : Nat := b; clear h0) | (have h0 : Bool := b; clear h0) | (have h0 : BitVec _ := b; clear h0) | (have h0 : List _ := b; clear h0)); clear_value b) | (unfold b; clear b) | clear b)
    | ((with_reducible refine Sound.setLayerOf ?_ _ _ ?_) <;> try (intro hq; first | exact (hb.queue hq).1 _ | exact (sk.queue hq).1 _ | exact Nat.le_trans (List.length_filter_le _ _) ((hb.queue hq).1 _) | exact Nat.le_trans (List.length_filter_le _ _) ((sk.queue hq).1 _)))
    | ((with_reducible refine Sound.fold _ ?_ ?_) <;> try intro x a hb)
    | exact Sound.update (by assumption)

theorem shadowFetch_sound {org : State} (v : LayerView) (e : Envelope) (d : Nat) (s : State) (sk : Sound org s) : Sound org (shadowFetch v e d s) := by
  unfold shadowFetch
  repeat' first
    | with_reducible assumption
    | (extract_lets +onlyGivenNames b; first | (refine Sound.cut (Sound org b) ?_ ?_ <;> first | (intro hb; clear_value b; refine Sound.hold ?_) | intro hb | (unfold b; clear b)) | ((first | (have h0 : Nat := b; clear h0) | (have h0 : Bool := b; clear h0) | (have h0 : BitVec _ := b; clear h0) | (have h0 : List _ := b; clear h0)); clear_value b) | (unfold b; clear b) | clear b)
    | with_reducible apply reportBursts_sound
    | split

theorem windowLayer_sound {org : State} (y : Nat) (lead : Nat) (vTotal : Nat) (lost : List LostBurst) (s : State) (p : LayerView × Envelope) (sk : Sound org s) : Sound org (windowLayer y lead vTotal lost s p) := by
  unfold windowLayer
  repeat' first
    | with_reducible assumption
    | (extract_lets +onlyGivenNames b; first | (refine Sound.cut (Sound org b) ?_ ?_ <;> first | (intro hb; clear_value b; refine Sound.hold ?_) | intro hb | (unfold b; clear b)) | ((first | (have h0 : Nat := b; clear h0) | (have h0 : Bool := b; clear h0) | (have h0 : BitVec _ := b; clear h0) | (have h0 : List _ := b; clear h0)); clear_value b) | (unfold b; clear b) | clear b)
    | ((with_reducible refine Sound.setLayerOf ?_ _ _ ?_) <;> try (intro hq; first | exact (hb.queue hq).1 _ | exact (sk.queue hq).1 _ | exact Nat.le_trans (List.length_filter_le _ _) ((hb.queue hq).1 _) | exact Nat.le_trans (List.length_filter_le _ _) ((sk.queue hq).1 _)))
    | with_reducible apply perfEvent_sound
    | with_reducible apply takeSlice_sound
    | with_reducible apply bringLine_sound
    | with_reducible apply startLayerFrame_sound
    | with_reducible apply makeLine_sound
    | with_reducible apply shadowFetch_sound
    | ((with_reducible refine Sound.fold _ ?_ ?_) <;> try intro x a hb)
    | split
    | exact Sound.update (by assumption)

theorem countShort_sound {org : State} (n : Nat) (y : Nat) (s : State) (sk : Sound org s) : Sound org (countShort n y s) := by
  unfold countShort
  repeat' first
    | with_reducible assumption
    | (extract_lets +onlyGivenNames b; first | (refine Sound.cut (Sound org b) ?_ ?_ <;> first | (intro hb; clear_value b; refine Sound.hold ?_) | intro hb | (unfold b; clear b)) | ((first | (have h0 : Nat := b; clear h0) | (have h0 : Bool := b; clear h0) | (have h0 : BitVec _ := b; clear h0) | (have h0 : List _ := b; clear h0)); clear_value b) | (unfold b; clear b) | clear b)
    | with_reducible apply State.bump_sound
    | with_reducible apply perfEvent_sound
    | with_reducible apply raise_sound
    | ((with_reducible refine Sound.fold _ ?_ ?_) <;> try intro x a hb)
    | split

theorem signRegion_sound {org : State} (n : Nat) (y : Nat) (line : List Word) (shadow : List Word) (s : State) (r : Nat) (sk : Sound org s) : Sound org (signRegion n y line shadow s r) := by
  unfold signRegion
  repeat' first
    | with_reducible assumption
    | (extract_lets +onlyGivenNames b; first | (refine Sound.cut (Sound org b) ?_ ?_ <;> first | (intro hb; clear_value b; refine Sound.hold ?_) | intro hb | (unfold b; clear b)) | ((first | (have h0 : Nat := b; clear h0) | (have h0 : Bool := b; clear h0) | (have h0 : BitVec _ := b; clear h0) | (have h0 : List _ := b; clear h0)); clear_value b) | (unfold b; clear b) | clear b)
    | with_reducible apply State.setSig_sound
    | split
    | exact Sound.update (by assumption)

theorem signHead_sound {org : State} (n : Nat) (y : Nat) (line : List Word) (shadow : List (Option Word)) (s : State) (sk : Sound org s) : Sound org (signHead n y line shadow s) := by
  unfold signHead
  repeat' first
    | with_reducible assumption
    | (extract_lets +onlyGivenNames b; first | (refine Sound.cut (Sound org b) ?_ ?_ <;> first | (intro hb; clear_value b; refine Sound.hold ?_) | intro hb | (unfold b; clear b)) | ((first | (have h0 : Nat := b; clear h0) | (have h0 : Bool := b; clear h0) | (have h0 : BitVec _ := b; clear h0) | (have h0 : List _ := b; clear h0)); clear_value b) | (unfold b; clear b) | clear b)
    | with_reducible apply State.draw_sound
    | with_reducible apply signRegion_sound
    | ((with_reducible refine Sound.fold _ ?_ ?_) <;> try intro x a hb)
    | split

theorem countLine_sound {org : State} (n : Nat) (y : Nat) (r : Raster) (s : State) (sk : Sound org s) : Sound org (countLine n y r s) := by
  unfold countLine
  repeat' first
    | with_reducible assumption
    | (extract_lets +onlyGivenNames b; first | (refine Sound.cut (Sound org b) ?_ ?_ <;> first | (intro hb; clear_value b; refine Sound.hold ?_) | intro hb | (unfold b; clear b)) | ((first | (have h0 : Nat := b; clear h0) | (have h0 : Bool := b; clear h0) | (have h0 : BitVec _ := b; clear h0) | (have h0 : List _ := b; clear h0)); clear_value b) | (unfold b; clear b) | clear b)
    | with_reducible apply perfEvent_sound
    | ((with_reducible refine Sound.fold _ ?_ ?_) <;> try intro x a hb)
    | split

theorem showLine_sound {org : State} (n : Nat) (y : Nat) (next : Bool) (s : State) (sk : Sound org s) : Sound org (showLine n y next s) := by
  unfold showLine
  repeat' first
    | with_reducible assumption
    | (extract_lets +onlyGivenNames b; first | (refine Sound.cut (Sound org b) ?_ ?_ <;> first | (intro hb; clear_value b; refine Sound.hold ?_) | intro hb | (unfold b; clear b)) | ((first | (have h0 : Nat := b; clear h0) | (have h0 : Bool := b; clear h0) | (have h0 : BitVec _ := b; clear h0) | (have h0 : List _ := b; clear h0)); clear_value b) | (unfold b; clear b) | clear b)
    | with_reducible apply State.setKeepHead_sound
    | with_reducible apply countShort_sound
    | with_reducible apply signHead_sound
    | with_reducible apply countLine_sound
    | split
    | exact Sound.update (by assumption)

theorem openWindow_sound {org : State} (n : Nat) (y : Nat) (next : Bool) (lost : List LostBurst) (s : State) (sk : Sound org s) : Sound org (openWindow n y next lost s) := by
  unfold openWindow
  repeat' first
    | with_reducible assumption
    | (extract_lets +onlyGivenNames b; first | (refine Sound.cut (Sound org b) ?_ ?_ <;> first | (intro hb; clear_value b; refine Sound.hold ?_) | intro hb | (unfold b; clear b)) | ((first | (have h0 : Nat := b; clear h0) | (have h0 : Bool := b; clear h0) | (have h0 : BitVec _ := b; clear h0) | (have h0 : List _ := b; clear h0)); clear_value b) | (unfold b; clear b) | clear b)
    | with_reducible apply windowLayer_sound
    | with_reducible apply showLine_sound
    | ((with_reducible refine Sound.fold _ ?_ ?_) <;> try intro x a hb)
    | split

end Sys2Proof.Machine
end

