-- ==== Sys2Proof/Laws/KeepApply.lean ====
section
/-! SUPPORT. What the operations of Apply keep. -/

set_option linter.all false

namespace Sys2Proof.Machine

theorem putRec_sound {org : State} (f : Nat) (wr : Nat) (rd : Nat) (r : DoneRec) (s : State) (sk : Sound org s) : Sound org (putRec f wr rd r s) := by
  unfold putRec
  repeat' first
    | with_reducible assumption
    | (extract_lets +onlyGivenNames b; first | (unfold b; clear b) | clear b)
    | exact Sound.update (by assumption)
    | exact Sound.updateFa (by assumption)

theorem storeRec_sound {org : State} (f : Nat) (r : DoneRec) (s : State) (sk : Sound org s) : Sound org (storeRec f r s) := by
  unfold storeRec
  repeat' first
    | with_reducible assumption
    | (extract_lets +onlyGivenNames b; first | (refine Sound.cut (Sound org b) ?_ ?_ <;> first | (intro hb; clear_value b; refine Sound.hold ?_) | intro hb | (unfold b; clear b)) | ((first | (have h0 : Nat := b; clear h0) | (have h0 : Bool := b; clear h0) | (have h0 : BitVec _ := b; clear h0) | (have h0 : List _ := b; clear h0)); clear_value b) | (unfold b; clear b) | clear b)
    | with_reducible apply State.bump_sound
    | with_reducible apply putRec_sound
    | split

theorem makeRec_sound {org : State} (ev : Nat) (detail : Nat) (port : Nat) (tag : Word) (head : Nat) (frame : Nat) (s : State) (sk : Sound org s) : Sound org (makeRec ev detail port tag head frame s) := by
  unfold makeRec
  repeat' first
    | with_reducible assumption
    | (extract_lets +onlyGivenNames b; first | (refine Sound.cut (Sound org b) ?_ ?_ <;> first | (intro hb; clear_value b; refine Sound.hold ?_) | intro hb | (unfold b; clear b)) | ((first | (have h0 : Nat := b; clear h0) | (have h0 : Bool := b; clear h0) | (have h0 : BitVec _ := b; clear h0) | (have h0 : List _ := b; clear h0)); clear_value b) | (unfold b; clear b) | clear b)
    | exact Sound.update (by assumption)
    | exact Sound.updateFa (by assumption)

theorem flushRecs_sound {org : State} (s : State) (sk : Sound org s) : Sound org (flushRecs s) := by
  unfold flushRecs
  repeat' first
    | with_reducible assumption
    | (extract_lets +onlyGivenNames b; first | (refine Sound.cut (Sound org b) ?_ ?_ <;> first | (intro hb; clear_value b; refine Sound.hold ?_) | intro hb | (unfold b; clear b)) | ((first | (have h0 : Nat := b; clear h0) | (have h0 : Bool := b; clear h0) | (have h0 : BitVec _ := b; clear h0) | (have h0 : List _ := b; clear h0)); clear_value b) | (unfold b; clear b) | clear b)
    | with_reducible apply storeRec_sound
    | ((with_reducible refine Sound.fold _ ?_ ?_) <;> try intro x a hb)
    | exact Sound.update (by assumption)
    | exact Sound.updateFa (by assumption)

theorem leaveQueue_sound {org : State} (ev : Nat) (detail : Nat) (slot : Nat) (n : Nat) (e : QEntry) (s : State) (sk : Sound org s) : Sound org (leaveQueue ev detail slot n e s) := by
  unfold leaveQueue
  repeat' first
    | with_reducible assumption
    | with_reducible apply dropPin_sound
    | with_reducible apply makeRec_sound

theorem emptyQueue_sound {org : State} (slot : Nat) (n : Nat) (s : State) (sk : Sound org s) : Sound org (emptyQueue slot n s) := by
  unfold emptyQueue
  repeat' first
    | with_reducible assumption
    | (extract_lets +onlyGivenNames b; first | (refine Sound.cut (Sound org b) ?_ ?_ <;> first | (intro hb; clear_value b; refine Sound.hold ?_) | intro hb | (unfold b; clear b)) | ((first | (have h0 : Nat := b; clear h0) | (have h0 : Bool := b; clear h0) | (have h0 : BitVec _ := b; clear h0) | (have h0 : List _ := b; clear h0)); clear_value b) | (unfold b; clear b) | clear b)
    | ((with_reducible refine Sound.setLayerOf ?_ _ _ ?_) <;> try (intro hq; first | exact (hb.queue hq).1 _ | exact (sk.queue hq).1 _ | exact Nat.zero_le _))
    | with_reducible apply leaveQueue_sound
    | ((with_reducible refine Sound.fold _ ?_ ?_) <;> try intro x a hb)
    | exact Sound.update (by assumption)

theorem unpinShown_sound {org : State} (b : Shown) (s : State) (sk : Sound org s) : Sound org (unpinShown b s) := by
  unfold unpinShown
  repeat' first
    | with_reducible assumption
    | (extract_lets +onlyGivenNames b; first | (unfold b; clear b) | clear b)
    | with_reducible apply dropPin_sound
    | split
    | exact Sound.update (by assumption)

theorem retireShown_sound {org : State} (slot : Nat) (n : Nat) (s : State) (sk : Sound org s) : Sound org (retireShown slot n s) := by
  unfold retireShown
  repeat' first
    | with_reducible assumption
    | (extract_lets +onlyGivenNames b; first | (refine Sound.cut (Sound org b) ?_ ?_ <;> first | (intro hb; clear_value b; refine Sound.hold ?_) | intro hb | (unfold b; clear b)) | ((first | (have h0 : Nat := b; clear h0) | (have h0 : Bool := b; clear h0) | (have h0 : BitVec _ := b; clear h0) | (have h0 : List _ := b; clear h0)); clear_value b) | (unfold b; clear b) | clear b)
    | ((with_reducible refine Sound.setLayerOf ?_ _ _ ?_) <;> try (intro hq; first | exact (hb.queue hq).1 _ | exact (sk.queue hq).1 _))
    | with_reducible apply makeRec_sound
    | with_reducible apply unpinShown_sound
    | split
    | exact Sound.update (by assumption)

theorem resetSlot_sound {org : State} (slot : Nat) (n : Nat) (s : State) (sk : Sound org s) : Sound org (resetSlot slot n s) := by
  unfold resetSlot
  repeat' first
    | with_reducible assumption
    | (extract_lets +onlyGivenNames b; first | (refine Sound.cut (Sound org b) ?_ ?_ <;> first | (intro hb; clear_value b; refine Sound.hold ?_) | intro hb | (unfold b; clear b)) | ((first | (have h0 : Nat := b; clear h0) | (have h0 : Bool := b; clear h0) | (have h0 : BitVec _ := b; clear h0) | (have h0 : List _ := b; clear h0)); clear_value b) | (unfold b; clear b) | clear b)
    | ((with_reducible refine Sound.setLayerOf ?_ _ _ ?_) <;> try (intro hq; first | exact (hb.queue hq).1 _ | exact (sk.queue hq).1 _ | exact Nat.zero_le _))
    | with_reducible apply State.setRace_sound
    | with_reducible apply emptyQueue_sound
    | with_reducible apply retireShown_sound
    | split
    | exact Sound.update (by assumption)

theorem dropFirstPin_sound {org : State} (old : Pin → Bool) (s : State) (sk : Sound org s) : Sound org (dropFirstPin old s) := by
  unfold dropFirstPin
  repeat' first
    | with_reducible assumption
    | (extract_lets +onlyGivenNames b; first | (unfold b; clear b) | clear b)
    | exact Sound.update (by assumption)
    | exact Sound.updateIc (by assumption)

theorem State.newSeq_sound {org : State} (s : State) (sk : Sound org s) : Sound org (State.newSeq s) := by
  unfold State.newSeq
  repeat' first
    | with_reducible assumption
    | (extract_lets +onlyGivenNames b; first | (unfold b; clear b) | clear b)
    | exact Sound.update (by assumption)
    | exact Sound.updateFa (by assumption)

theorem showDirect_sound {org : State} (slot : Nat) (s : State) (sk : Sound org s) : Sound org (showDirect slot s) := by
  unfold showDirect
  repeat' first
    | with_reducible assumption
    | (extract_lets +onlyGivenNames b; first | (refine Sound.cut (Sound org b) ?_ ?_ <;> first | (intro hb; clear_value b; refine Sound.hold ?_) | intro hb | (unfold b; clear b)) | ((first | (have h0 : Nat := b; clear h0) | (have h0 : Bool := b; clear h0) | (have h0 : BitVec _ := b; clear h0) | (have h0 : List _ := b; clear h0)); clear_value b) | (unfold b; clear b) | clear b)
    | ((with_reducible refine Sound.setLayerOf ?_ _ _ ?_) <;> try (intro hq; first | exact (hb.queue hq).1 _ | exact (sk.queue hq).1 _))
    | with_reducible apply unpinShown_sound
    | with_reducible apply State.newSeq_sound
    | split
    | exact Sound.update (by assumption)
    | exact Sound.updateIc (by assumption)

theorem repinFallback_sound {org : State} (k : Nat) (s : State) (sk : Sound org s) : Sound org (repinFallback k s) := by
  unfold repinFallback
  repeat' first
    | with_reducible assumption
    | (extract_lets +onlyGivenNames b; first | (refine Sound.cut (Sound org b) ?_ ?_ <;> first | (intro hb; clear_value b; refine Sound.hold ?_) | intro hb | (unfold b; clear b)) | ((first | (have h0 : Nat := b; clear h0) | (have h0 : Bool := b; clear h0) | (have h0 : BitVec _ := b; clear h0) | (have h0 : List _ := b; clear h0)); clear_value b) | (unfold b; clear b) | clear b)
    | ((with_reducible refine Sound.setLayerOf ?_ _ _ ?_) <;> try (intro hq; first | exact (hb.queue hq).1 _ | exact (sk.queue hq).1 _))
    | with_reducible apply requestPin_sound
    | with_reducible apply dropPin_sound
    | with_reducible apply State.newSeq_sound
    | split
    | exact Sound.update (by assumption)
    | exact Sound.updateIc (by assumption)

theorem retryPins_sound {org : State} (p : PinUse → Bool) (s : State) (sk : Sound org s) : Sound org (retryPins p s) := by
  unfold retryPins
  repeat' first
    | with_reducible assumption
    | (extract_lets +onlyGivenNames b; first | (unfold b; clear b) | clear b)
    | split
    | exact Sound.update (by assumption)
    | exact Sound.updateIc (by assumption)

theorem setGState_sound {org : State} (g : Nat) (x : GState) (s : State) (sk : Sound org s) : Sound org (setGState g x s) := by
  unfold setGState
  repeat' first
    | with_reducible assumption
    | (extract_lets +onlyGivenNames b; first | (refine Sound.cut (Sound org b) ?_ ?_ <;> first | (intro hb; clear_value b; refine Sound.hold ?_) | intro hb | (unfold b; clear b)) | ((first | (have h0 : Nat := b; clear h0) | (have h0 : Bool := b; clear h0) | (have h0 : BitVec _ := b; clear h0) | (have h0 : List _ := b; clear h0)); clear_value b) | (unfold b; clear b) | clear b)
    | with_reducible apply State.setPgroup_sound
    | with_reducible apply raise_sound
    | split
    | exact Sound.update (by assumption)

theorem sendGroupStart_sound {org : State} (g : Nat) (at_ : Nat) (s : State) (sk : Sound org s) : Sound org (sendGroupStart g at_ s) := by
  unfold sendGroupStart
  repeat' first
    | with_reducible assumption
    | with_reducible apply State.send_sound
    | split

theorem groupAnchored_sound {org : State} (g : Nat) (a : Nat) (gf : DWord) (s : State) (sk : Sound org s) : Sound org (groupAnchored g a gf s) := by
  unfold groupAnchored
  repeat' first
    | with_reducible assumption
    | (extract_lets +onlyGivenNames b; first | (refine Sound.cut (Sound org b) ?_ ?_ <;> first | (intro hb; clear_value b; refine Sound.hold ?_) | intro hb | (unfold b; clear b)) | ((first | (have h0 : Nat := b; clear h0) | (have h0 : Bool := b; clear h0) | (have h0 : BitVec _ := b; clear h0) | (have h0 : List _ := b; clear h0)); clear_value b) | (unfold b; clear b) | clear b)
    | with_reducible apply State.setPgroup_sound
    | with_reducible apply sendGroupStart_sound
    | exact Sound.update (by assumption)

theorem groupStarts_sound {org : State} (g : Nat) (first : Nat) (f : Nat) (count : Nat) (s : State) (sk : Sound org s) : Sound org (groupStarts g first f count s) := by
  unfold groupStarts
  repeat' first
    | with_reducible assumption
    | with_reducible apply sendGroupStart_sound
    | ((with_reducible refine Sound.fold _ ?_ ?_) <;> try intro x a hb)

theorem advanceGroup_sound {org : State} (s : State) (g : Nat) (sk : Sound org s) : Sound org (advanceGroup s g) := by
  unfold advanceGroup
  repeat' first
    | with_reducible assumption
    | (extract_lets +onlyGivenNames b; first | (refine Sound.cut (Sound org b) ?_ ?_ <;> first | (intro hb; clear_value b; refine Sound.hold ?_) | intro hb | (unfold b; clear b)) | ((first | (have h0 : Nat := b; clear h0) | (have h0 : Bool := b; clear h0) | (have h0 : BitVec _ := b; clear h0) | (have h0 : List _ := b; clear h0)); clear_value b) | (unfold b; clear b) | clear b)
    | with_reducible apply State.setPgroup_sound
    | with_reducible apply groupAnchored_sound
    | with_reducible apply groupStarts_sound
    | split
    | exact Sound.update (by assumption)

theorem advanceGroups_sound {org : State} (s : State) (sk : Sound org s) : Sound org (advanceGroups s) := by
  unfold advanceGroups
  repeat' first
    | with_reducible assumption
    | with_reducible apply advanceGroup_sound
    | ((with_reducible refine Sound.fold _ ?_ ?_) <;> try intro x a hb)

theorem originGroup_sound {org : State} (s : State) (g : Nat) (sk : Sound org s) : Sound org (originGroup s g) := by
  unfold originGroup
  repeat' first
    | with_reducible assumption
    | with_reducible apply groupAnchored_sound
    | split

theorem originGroups_sound {org : State} (s : State) (sk : Sound org s) : Sound org (originGroups s) := by
  unfold originGroups
  repeat' first
    | with_reducible assumption
    | with_reducible apply originGroup_sound
    | ((with_reducible refine Sound.fold _ ?_ ?_) <;> try intro x a hb)

theorem applyRef_sound {org : State} (g : Nat) (s : State) (sk : Sound org s) : Sound org (applyRef g s) := by
  unfold applyRef
  repeat' first
    | with_reducible assumption
    | (extract_lets +onlyGivenNames b; first | (refine Sound.cut (Sound org b) ?_ ?_ <;> first | (intro hb; clear_value b; refine Sound.hold ?_) | intro hb | (unfold b; clear b)) | ((first | (have h0 : Nat := b; clear h0) | (have h0 : Bool := b; clear h0) | (have h0 : BitVec _ := b; clear h0) | (have h0 : List _ := b; clear h0)); clear_value b) | (unfold b; clear b) | clear b)
    | with_reducible apply State.setPgroup_sound
    | with_reducible apply setGState_sound
    | split
    | exact Sound.update (by assumption)

theorem putSlot_sound {org : State} (s : State) (x : Linger) (sk : Sound org s) (hx : QueuesShort org → x.layer.queue.length ≤ 4) :
    Sound org (putSlot s x) := by
  unfold putSlot
  refine Sound.setLayerOf ?_ _ _ hx
  refine Sound.fold _ ?_ (fun a b h => State.setKey_sound _ _ _ h)
  exact Sound.fold _ sk (fun a b h => State.setKey_sound _ _ _ h)

/-- Slots put back one after another. -/
theorem putSlots_sound {org : State} (l : List Linger) (s : State) (sk : Sound org s)
    (hl : QueuesShort org → ∀ x ∈ l, x.layer.queue.length ≤ 4) : Sound org (l.foldl putSlot s) := by
  induction l generalizing s with
  | nil => exact sk
  | cons a l ih =>
    exact ih _ (putSlot_sound _ _ sk (fun h => hl h a (List.mem_cons_self ..))) (fun h x hx => hl h x (List.mem_cons_of_mem _ hx))

theorem seenBy_sound {org : State} (n : Nat) (f : State → State) (hf : ∀ x, Sound org x → Sound org (f x)) (s : State) (sk : Sound org s) :
    Sound org (seenBy n f s) := by
  unfold seenBy
  extract_lets now t u
  have ht : Sound org t := hf _ (putSlots_sound _ _ sk (fun h x hx => (sk.queue h).2 x (List.mem_filter.mp hx).1))
  refine putSlots_sound _ _ (Sound.setLinger ht _ ?_) ?_
  · intro h x hx
    obtain ⟨y, hy, rfl⟩ := List.mem_map.mp hx
    split
    · exact (ht.queue h).1 _
    · exact (ht.queue h).2 y hy
  · intro h x hx
    obtain ⟨y, _, rfl⟩ := List.mem_map.mp hx
    exact (sk.queue h).1 _

theorem lingerSlot_sound {org : State} (before : State) (slot : Nat) (s : State) (sk : Sound org s) (hb : Sound org before) :
    Sound org (lingerSlot before slot s) := by
  refine Sound.setLayerOf (Sound.setLinger sk _ ?_) _ _ (fun _ => Nat.zero_le 4)
  intro h x hx
  rcases List.mem_append.mp hx with hx | hx
  · exact (sk.queue h).2 x hx
  · rw [List.mem_singleton.mp hx]; exact (hb.queue h).1 _

theorem endLinger_sound {org : State} (n : Nat) (s : State) (sk : Sound org s) : Sound org (endLinger n s) := by
  unfold endLinger
  have key : ∀ (l : List Linger) (t : State), Sound org t → (QueuesShort org → ∀ x ∈ l, x.layer.queue.length ≤ 4) →
      Sound org (l.foldl (fun s x => (resetSlot x.slot n (s.setLayer x.slot x.layer)).setLayer x.slot { s.layer x.slot with hidden := false }) t) := by
    intro l
    induction l with
    | nil => intro t ht _; exact ht
    | cons a l ih =>
      intro t ht hl
      refine ih _ ?_ (fun h x hx => hl h x (List.mem_cons_of_mem _ hx))
      refine Sound.setLayerOf ?_ _ _ (fun h => (ht.queue h).1 _)
      exact resetSlot_sound _ _ _ (Sound.setLayerOf ht _ _ (fun h => hl h a (List.mem_cons_self ..)))
  refine key _ _ (Sound.setLinger sk _ ?_) (fun h x hx => (sk.queue h).2 x (List.mem_filter.mp hx).1)
  exact fun h x hx => (sk.queue h).2 x (List.mem_filter.mp hx).1

theorem leaveHead_sound {org : State} (before : State) (slot : Nat) (s : State) (hb : Sound org before) (sk : Sound org s) :
    Sound org (leaveHead before slot s) := by
  unfold leaveHead
  split
  · exact lingerSlot_sound _ _ _ sk hb
  · extract_lets t
    have ht : Sound org t := resetSlot_sound _ _ _ sk
    exact Sound.setLayerOf ht _ _ (fun h => (ht.queue h).1 _)

theorem applyEffect_sound {org : State} (before : State) (s : State) (w : Wr) (hb : Sound org before) (sk : Sound org s) :
    Sound org (applyEffect before s w) := by
  unfold applyEffect
  repeat' first
    | with_reducible assumption
    | (extract_lets +onlyGivenNames b; first | (refine Sound.cut (Sound org b) ?_ ?_ <;> first | (intro hb; clear_value b; refine Sound.hold ?_) | intro hb | (unfold b; clear b)) | (refine Sound.cut (Sound org b.1) ?_ ?_ <;> first | (intro hb; clear_value b; refine Sound.hold ?_) | intro hb | (unfold b; clear b)) | ((first | (have h0 : Nat := b; clear h0) | (have h0 : Bool := b; clear h0) | (have h0 : BitVec _ := b; clear h0) | (have h0 : List _ := b; clear h0)); clear_value b) | (unfold b; clear b) | clear b)
    | with_reducible refine leaveHead_sound _ _ _ hb ?_
    | with_reducible apply State.setHead_sound
    | ((with_reducible refine Sound.setLayerOf ?_ _ _ ?_) <;> try (intro hq; first | exact (hb.queue hq).1 _ | exact (sk.queue hq).1 _ | exact Nat.zero_le _ | exact Nat.le_trans (List.length_filter_le _ _) ((hb.queue hq).1 _) | exact Nat.le_trans (List.length_filter_le _ _) ((sk.queue hq).1 _)))
    | with_reducible apply State.setSig_sound
    | with_reducible apply showDirect_sound
    | with_reducible apply repinFallback_sound
    | with_reducible apply applyRef_sound
    | with_reducible refine Sound.fst (by assumption) ?_
    | ((with_reducible refine Sound.fold _ ?_ ?_) <;> try intro x a hb)
    | ((with_reducible refine Sound.foldP _ ?_ ?_) <;> try (intro x a hb; rcases x with ⟨x, xr⟩))
    | split
    | exact Sound.update (by assumption)
    | exact Sound.updateFa (by assumption)
    | exact Sound.updateIc (by assumption)
    | exact Sound.updateAon (by assumption)
    | (refine Sound.update ?_; with_reducible refine Sound.fst (by assumption) ?_)
    | exact hb.same rfl rfl rfl rfl rfl rfl rfl
    | exact sk.same rfl rfl rfl rfl rfl rfl rfl

theorem overlay_sound {org : State} (ws : List Wr) (s : State) (sk : Sound org s) : Sound org (overlay ws s) := by
  unfold overlay
  repeat' first
    | with_reducible assumption
    | with_reducible apply State.setKey_sound
    | ((with_reducible refine Sound.fold _ ?_ ?_) <;> try intro x a hb)

theorem settleQuads_sound {org : State} (s : State) (sk : Sound org s) : Sound org (settleQuads s) := by
  unfold settleQuads
  repeat' first
    | with_reducible assumption
    | with_reducible apply settleQuad_sound
    | ((with_reducible refine Sound.fold _ ?_ ?_) <;> try intro x a hb)

theorem repinSlot_sound {org : State} (s : State) (slot : Nat) (sk : Sound org s) : Sound org (repinSlot s slot) := by
  unfold repinSlot
  repeat' first
    | with_reducible assumption
    | (extract_lets +onlyGivenNames b; first | (unfold b; clear b) | clear b)
    | split
    | exact Sound.update (by assumption)
    | exact Sound.updateIc (by assumption)

theorem applyWrites_sound {org : State} (n : Nat) (ws : List Wr) (before : State) (sk : Sound org before) :
    Sound org (applyWrites n ws before) := by
  unfold applyWrites
  repeat' first
    | with_reducible assumption
    | (extract_lets +onlyGivenNames b; first | (refine Sound.cut (Sound org b) ?_ ?_ <;> first | (intro hb; clear_value b; refine Sound.hold ?_) | intro hb | (unfold b; clear b)) | (refine Sound.cut (Sound org b.1) ?_ ?_ <;> first | (intro hb; clear_value b; refine Sound.hold ?_) | intro hb | (unfold b; clear b)) | ((first | (have h0 : Nat := b; clear h0) | (have h0 : Bool := b; clear h0) | (have h0 : BitVec _ := b; clear h0) | (have h0 : List _ := b; clear h0)); clear_value b) | (unfold b; clear b) | clear b)
    | with_reducible refine applyEffect_sound _ _ _ sk ?_
    | with_reducible apply enforceUnavailable_sound
    | with_reducible apply originGroups_sound
    | with_reducible apply overlay_sound
    | with_reducible apply settleQuads_sound
    | with_reducible apply repinSlot_sound
    | with_reducible refine Sound.fst (by assumption) ?_
    | ((with_reducible refine Sound.fold _ ?_ ?_) <;> try intro x a hb)
    | ((with_reducible refine Sound.foldP _ ?_ ?_) <;> try (intro x a hb; rcases x with ⟨x, xr⟩))
    | split
    | exact Sound.update (by assumption)
    | exact Sound.updateFa (by assumption)
    | exact Sound.updateIc (by assumption)
    | exact Sound.updateAon (by assumption)
    | (refine Sound.update ?_; with_reducible refine Sound.fst (by assumption) ?_)
    | exact hb.same rfl rfl rfl rfl rfl rfl rfl
    | exact sk.same rfl rfl rfl rfl rfl rfl rfl

theorem tryWith_sound {org t : State} {images : List (Option Image)} {n : Nat} {ws : List Wr} {s : State}
    (e : tryWith images n ws s = .ok t) (sk : Sound org s) : Sound org t := by
  unfold tryWith at e
  extract_lets b at e
  have hb : Sound org b := advanceGroups_sound _ sk
  clear_value b
  split at e
  · cases e
  · cases e; exact applyWrites_sound _ _ _ hb

theorem tryItem_sound {org t : State} {n : Nat} {ws : List Wr} {s : State} (e : tryItem n ws s = .ok t) (sk : Sound org s) :
    Sound org t := tryWith_sound e sk

theorem recordReject_sound {org : State} (n : Nat) (code : Nat) (ws : List Wr) (s : State) (sk : Sound org s) : Sound org (recordReject n code ws s) := by
  unfold recordReject
  repeat' first
    | with_reducible assumption
    | (extract_lets +onlyGivenNames b; first | (refine Sound.cut (Sound org b) ?_ ?_ <;> first | (intro hb; clear_value b; refine Sound.hold ?_) | intro hb | (unfold b; clear b)) | ((first | (have h0 : Nat := b; clear h0) | (have h0 : Bool := b; clear h0) | (have h0 : BitVec _ := b; clear h0) | (have h0 : List _ := b; clear h0)); clear_value b) | (unfold b; clear b) | clear b)
    | with_reducible apply State.setEgress_sound
    | ((with_reducible refine Sound.fold _ ?_ ?_) <;> try intro x a hb)
    | split
    | exact Sound.update (by assumption)

theorem dropDirect_sound {org : State} (ws : List Wr) (s : State) (sk : Sound org s) : Sound org (dropDirect ws s) := by
  unfold dropDirect
  repeat' first
    | with_reducible assumption
    | (extract_lets +onlyGivenNames b; first | (unfold b; clear b) | clear b)
    | with_reducible apply dropFirstPin_sound
    | with_reducible apply overlay_sound
    | ((with_reducible refine Sound.fold _ ?_ ?_) <;> try intro x a hb)
    | split
    | exact Sound.update (by assumption)

theorem showAgain_sound {org : State} (slots : List Nat) (s : State) (sk : Sound org s) : Sound org (showAgain slots s) := by
  unfold showAgain
  repeat' first
    | with_reducible assumption
    | (extract_lets +onlyGivenNames b; first | (refine Sound.cut (Sound org b) ?_ ?_ <;> first | (intro hb; clear_value b; refine Sound.hold ?_) | intro hb | (unfold b; clear b)) | (refine Sound.cut (Sound org b.1) ?_ ?_ <;> first | (intro hb; clear_value b; refine Sound.hold ?_) | intro hb | (unfold b; clear b)) | ((first | (have h0 : Nat := b; clear h0) | (have h0 : Bool := b; clear h0) | (have h0 : BitVec _ := b; clear h0) | (have h0 : List _ := b; clear h0)); clear_value b) | (unfold b; clear b) | clear b)
    | ((with_reducible refine Sound.setLayerOf ?_ _ _ ?_) <;> try (intro hq; first | exact (hb.queue hq).1 _ | exact (sk.queue hq).1 _ | exact Nat.zero_le _ | exact Nat.le_trans (List.length_filter_le _ _) ((hb.queue hq).1 _) | exact Nat.le_trans (List.length_filter_le _ _) ((sk.queue hq).1 _)))
    | with_reducible refine Sound.fst (by assumption) ?_
    | ((with_reducible refine Sound.fold _ ?_ ?_) <;> try intro x a hb)
    | ((with_reducible refine Sound.foldP _ ?_ ?_) <;> try (intro x a hb; rcases x with ⟨x, xr⟩))
    | split
    | exact Sound.update (by assumption)
    | exact Sound.updateFa (by assumption)
    | exact Sound.updateIc (by assumption)
    | exact Sound.updateAon (by assumption)
    | (refine Sound.update ?_; with_reducible refine Sound.fst (by assumption) ?_)
    | exact hb.same rfl rfl rfl rfl rfl rfl rfl
    | exact sk.same rfl rfl rfl rfl rfl rfl rfl

theorem applyDirect_sound {org : State} (n : Nat) (ws : List Wr) (s : State) (sk : Sound org s) : Sound org (applyDirect n ws s) := by
  unfold applyDirect
  repeat' first
    | with_reducible assumption
    | (extract_lets +onlyGivenNames b; first | (unfold b; clear b) | clear b)
    | with_reducible refine tryItem_sound (by assumption) ?_
    | with_reducible apply recordReject_sound
    | with_reducible apply dropDirect_sound
    | with_reducible apply showAgain_sound
    | split
    | exact Sound.update (by assumption)

end Sys2Proof.Machine
end

