-- ==== Sys2Proof/Laws/KeepSwitch.lean ====
section
/-! SUPPORT. What the operations of Switch keep. -/

set_option linter.all false

namespace Sys2Proof.Machine

theorem writeProgram_sound {org : State} (l : Nat) (ws : List Word) (s : State) (sk : Sound org s) : Sound org (writeProgram l ws s) := by
  unfold writeProgram
  repeat' first
    | with_reducible assumption
    | with_reducible apply State.setReg_sound
    | ((with_reducible refine Sound.fold _ ?_ ?_) <;> try intro x a hb)

theorem loadLantern_sound {org : State} (l : Nat) (ws : List Word) (tick : Nat) (s : State) (sk : Sound org s) : Sound org (loadLantern l ws tick s) := by
  unfold loadLantern
  repeat' first
    | with_reducible assumption
    | (extract_lets +onlyGivenNames b; first | (unfold b; clear b) | clear b)
    | with_reducible apply State.setLantern_sound
    | with_reducible apply writeProgram_sound
    | exact Sound.update (by assumption)

theorem placeLantern_sound {org : State} (i : Image) (tick : Nat) (l : Nat) (s : State) (sk : Sound org s) : Sound org (placeLantern i tick l s) := by
  unfold placeLantern
  repeat' first
    | with_reducible assumption
    | (extract_lets +onlyGivenNames b; first | (unfold b; clear b) | clear b)
    | with_reducible apply haltLantern_sound
    | with_reducible apply loadLantern_sound
    | split
    | exact Sound.update (by assumption)

theorem placeIdle_sound {org : State} (i : Image) (n : Nat) (s : State) (sk : Sound org s) : Sound org (placeIdle i n s) := by
  unfold placeIdle
  repeat' first
    | with_reducible assumption
    | (extract_lets +onlyGivenNames b; first | (refine Sound.cut (Sound org b) ?_ ?_ <;> first | (intro hb; clear_value b; refine Sound.hold ?_) | intro hb | (unfold b; clear b)) | ((first | (have h0 : Nat := b; clear h0) | (have h0 : Bool := b; clear h0) | (have h0 : BitVec _ := b; clear h0) | (have h0 : List _ := b; clear h0)); clear_value b) | (unfold b; clear b) | clear b)
    | with_reducible apply haltLantern_sound
    | split
    | exact Sound.update (by assumption)

theorem placeDue_sound {org : State} (i : Image) (n : Nat) (tick : Nat) (s : State) (sk : Sound org s) : Sound org (placeDue i n tick s) := by
  unfold placeDue
  repeat' first
    | with_reducible assumption
    | (extract_lets +onlyGivenNames b; first | (refine Sound.cut (Sound org b) ?_ ?_ <;> first | (intro hb; clear_value b; refine Sound.hold ?_) | intro hb | (unfold b; clear b)) | ((first | (have h0 : Nat := b; clear h0) | (have h0 : Bool := b; clear h0) | (have h0 : BitVec _ := b; clear h0) | (have h0 : List _ := b; clear h0)); clear_value b) | (unfold b; clear b) | clear b)
    | with_reducible apply placeLantern_sound
    | ((with_reducible refine Sound.fold _ ?_ ?_) <;> try intro x a hb)
    | split
    | exact Sound.update (by assumption)

theorem restartLantern_sound {org : State} (tick : Nat) (s : State) (l : Nat) (sk : Sound org s) : Sound org (restartLantern tick s l) := by
  unfold restartLantern
  repeat' first
    | with_reducible assumption
    | with_reducible apply loadLantern_sound
    | split

theorem placeLanterns_sound {org : State} (n : Nat) (tick : Nat) (s : State) (sk : Sound org s) : Sound org (placeLanterns n tick s) := by
  unfold placeLanterns
  repeat' first
    | with_reducible assumption
    | (extract_lets +onlyGivenNames b; first | (unfold b; clear b) | clear b)
    | with_reducible apply placeDue_sound
    | with_reducible apply restartLantern_sound
    | ((with_reducible refine Sound.fold _ ?_ ?_) <;> try intro x a hb)
    | split
    | exact Sound.update (by assumption)

theorem rejudgeRing_sound {org : State} (s : State) (x : Nat) (sk : Sound org s) : Sound org (rejudgeRing s x) := by
  unfold rejudgeRing
  repeat' first
    | with_reducible assumption
    | (extract_lets +onlyGivenNames b; first | (refine Sound.cut (Sound org b) ?_ ?_ <;> first | (intro hb; clear_value b; refine Sound.hold ?_) | intro hb | (unfold b; clear b)) | ((first | (have h0 : Nat := b; clear h0) | (have h0 : Bool := b; clear h0) | (have h0 : BitVec _ := b; clear h0) | (have h0 : List _ := b; clear h0)); clear_value b) | (unfold b; clear b) | clear b)
    | with_reducible apply State.setStream_sound
    | exact Sound.update (by assumption)

theorem rejudgeRings_sound {org : State} (s : State) (sk : Sound org s) : Sound org (rejudgeRings s) := by
  unfold rejudgeRings
  repeat' first
    | with_reducible assumption
    | with_reducible apply rejudgeRing_sound
    | ((with_reducible refine Sound.fold _ ?_ ?_) <;> try intro x a hb)

theorem applyEntry_sound {org : State} (n : Nat) (i : Image) (s : State) (sk : Sound org s) : Sound org (applyEntry n i s) := by
  unfold applyEntry
  repeat' first
    | with_reducible assumption
    | with_reducible apply advanceGroups_sound
    | with_reducible apply applyWrites_sound
    | split

theorem hideMoved_sound {org : State} (old : Image) (new : Image) (done : BitVec 16) (n : Nat) (s : State) (sk : Sound org s) : Sound org (hideMoved old new done n s) := by
  unfold hideMoved
  repeat' first
    | with_reducible assumption
    | (extract_lets +onlyGivenNames b; first | (refine Sound.cut (Sound org b) ?_ ?_ <;> first | (intro hb; clear_value b; refine Sound.hold ?_) | intro hb | (unfold b; clear b)) | ((first | (have h0 : Nat := b; clear h0) | (have h0 : Bool := b; clear h0) | (have h0 : BitVec _ := b; clear h0) | (have h0 : List _ := b; clear h0)); clear_value b) | (unfold b; clear b) | clear b)
    | ((with_reducible refine Sound.setLayerOf ?_ _ _ ?_) <;> try (intro hq; first | exact (hb.queue hq).1 _ | exact (sk.queue hq).1 _))
    | ((with_reducible refine Sound.fold _ ?_ ?_) <;> try intro x a hb)
    | split
    | exact Sound.update (by assumption)

theorem queueStore_sound {org : State} (key : Nat) (l : List Byte) (s : State) (sk : Sound org s) : Sound org (queueStore key l s) := by
  unfold queueStore
  repeat' first
    | with_reducible assumption
    | (extract_lets +onlyGivenNames b; first | (unfold b; clear b) | clear b)
    | exact Sound.update (by assumption)

theorem storeWear_sound {org : State} (s : State) (sk : Sound org s) : Sound org (storeWear s) := by
  unfold storeWear
  repeat' first
    | with_reducible assumption
    | with_reducible apply queueStore_sound

theorem spireSwitched_sound {org : State} (s : State) (sk : Sound org s) : Sound org (spireSwitched s) := by
  unfold spireSwitched
  repeat' first
    | with_reducible assumption
    | (extract_lets +onlyGivenNames b; first | (unfold b; clear b) | clear b)
    | with_reducible apply raise_sound
    | with_reducible apply storeWear_sound
    | split
    | exact Sound.update (by assumption)

theorem completeSwitch_sound {org : State} (w : Switch) (s : State) (sk : Sound org s) : Sound org (completeSwitch w s) := by
  unfold completeSwitch
  repeat' first
    | with_reducible assumption
    | (extract_lets +onlyGivenNames b; first | (refine Sound.cut (Sound org b) ?_ ?_ <;> first | (intro hb; clear_value b; refine Sound.hold ?_) | intro hb | (unfold b; clear b)) | ((first | (have h0 : Nat := b; clear h0) | (have h0 : Bool := b; clear h0) | (have h0 : BitVec _ := b; clear h0) | (have h0 : List _ := b; clear h0)); clear_value b) | (unfold b; clear b) | clear b)
    | with_reducible apply State.setBank_sound
    | with_reducible apply placeIdle_sound
    | with_reducible apply spireSwitched_sound
    | ((with_reducible refine Sound.fold _ ?_ ?_) <;> try intro x a hb)
    | split
    | exact Sound.update (by assumption)

theorem applySwitch_sound {org : State} (n : Nat) (s : State) (sk : Sound org s) : Sound org (applySwitch n s) := by
  unfold applySwitch
  repeat' first
    | with_reducible assumption
    | (extract_lets +onlyGivenNames b; first | (refine Sound.cut (Sound org b) ?_ ?_ <;> first | (intro hb; clear_value b; refine Sound.hold ?_) | intro hb | (unfold b; clear b)) | ((first | (have h0 : Nat := b; clear h0) | (have h0 : Bool := b; clear h0) | (have h0 : BitVec _ := b; clear h0) | (have h0 : List _ := b; clear h0)); clear_value b) | (unfold b; clear b) | clear b)
    | with_reducible apply State.setHead_sound
    | with_reducible apply rejudgeRings_sound
    | with_reducible apply applyEntry_sound
    | with_reducible apply hideMoved_sound
    | with_reducible apply completeSwitch_sound
    | split
    | exact Sound.update (by assumption)

theorem applyFirstEntry_sound {org : State} (n : Nat) (s : State) (sk : Sound org s) : Sound org (applyFirstEntry n s) := by
  unfold applyFirstEntry
  repeat' first
    | with_reducible assumption
    | (extract_lets +onlyGivenNames b; first | (refine Sound.cut (Sound org b) ?_ ?_ <;> first | (intro hb; clear_value b; refine Sound.hold ?_) | intro hb | (unfold b; clear b)) | ((first | (have h0 : Nat := b; clear h0) | (have h0 : Bool := b; clear h0) | (have h0 : BitVec _ := b; clear h0) | (have h0 : List _ := b; clear h0)); clear_value b) | (unfold b; clear b) | clear b)
    | with_reducible apply applyEntry_sound
    | split
    | exact Sound.update (by assumption)

theorem noteFinal_sound {org : State} (t : Nat) (s : State) (sk : Sound org s) : Sound org (noteFinal t s) := by
  unfold noteFinal
  repeat' first
    | with_reducible assumption
    | (extract_lets +onlyGivenNames b; first | (unfold b; clear b) | clear b)
    | with_reducible apply noteFree_sound
    | split
    | exact Sound.update (by assumption)

theorem finishTicket_sound {org : State} (t : Nat) (s : State) (sk : Sound org s) : Sound org (finishTicket t s) := by
  unfold finishTicket
  repeat' first
    | with_reducible assumption
    | (extract_lets +onlyGivenNames b; first | (refine Sound.cut (Sound org b) ?_ ?_ <;> first | (intro hb; clear_value b; refine Sound.hold ?_) | intro hb | (unfold b; clear b)) | ((first | (have h0 : Nat := b; clear h0) | (have h0 : Bool := b; clear h0) | (have h0 : BitVec _ := b; clear h0) | (have h0 : List _ := b; clear h0)); clear_value b) | (unfold b; clear b) | clear b)
    | with_reducible apply State.setTicket_sound
    | with_reducible apply raise_sound
    | with_reducible apply noteFinal_sound
    | split
    | exact Sound.update (by assumption)

theorem shareResult_sound {org : State} (t : Nat) (n : Nat) (code : Nat) (frame : DWord) (s : State) (sk : Sound org s) : Sound org (shareResult t n code frame s) := by
  unfold shareResult
  repeat' first
    | with_reducible assumption
    | (extract_lets +onlyGivenNames b; first | (refine Sound.cut (Sound org b) ?_ ?_ <;> first | (intro hb; clear_value b; refine Sound.hold ?_) | intro hb | (unfold b; clear b)) | ((first | (have h0 : Nat := b; clear h0) | (have h0 : Bool := b; clear h0) | (have h0 : BitVec _ := b; clear h0) | (have h0 : List _ := b; clear h0)); clear_value b) | (unfold b; clear b) | clear b)
    | with_reducible apply State.setTicket_sound
    | with_reducible apply finishTicket_sound
    | split
    | exact Sound.update (by assumption)

theorem tryShare_sound {org t' : State} {t n : Nat} {ws : List Wr} {s : State} (e : tryShare t n ws s = .ok t') (sk : Sound org s) :
    Sound org t' := by
  unfold tryShare at e
  split at e
  · split at e
    · exact tryWith_sound e sk
    · exact tryItem_sound e sk
  · exact tryItem_sound e sk

theorem applyShare_sound {org : State} (t : Nat) (y : Share) (s : State) (sk : Sound org s) : Sound org (applyShare t y s) := by
  unfold applyShare
  repeat' first
    | with_reducible assumption
    | (extract_lets +onlyGivenNames b; first | (refine Sound.cut (Sound org b) ?_ ?_ <;> first | (intro hb; clear_value b; refine Sound.hold ?_) | intro hb | (unfold b; clear b)) | (refine Sound.cut (Sound org b.1) ?_ ?_ <;> first | (intro hb; clear_value b; refine Sound.hold ?_) | intro hb | (unfold b; clear b)) | ((first | (have h0 : Nat := b; clear h0) | (have h0 : Bool := b; clear h0) | (have h0 : BitVec _ := b; clear h0) | (have h0 : List _ := b; clear h0)); clear_value b) | (unfold b; clear b) | clear b)
    | with_reducible apply dropDirect_sound
    | with_reducible apply showAgain_sound
    | with_reducible apply shareResult_sound
    | with_reducible refine tryShare_sound (by assumption) ?_
    | with_reducible refine Sound.fst (by assumption) ?_
    | ((with_reducible refine Sound.fold _ ?_ ?_) <;> try intro x a hb)
    | ((with_reducible refine Sound.foldP _ ?_ ?_) <;> try (intro x a hb; rcases x with ⟨x, xr⟩))
    | split
    | exact Sound.update (by assumption)
    | exact Sound.updateFa (by assumption)
    | exact Sound.updateIc (by assumption)
    | exact Sound.updateAon (by assumption)
    | (refine Sound.update ?_; with_reducible refine Sound.fst (by assumption) ?_)
    | exact hb.same rfl rfl rfl rfl rfl rfl rfl
    | exact sk.same rfl rfl rfl rfl rfl rfl rfl

end Sys2Proof.Machine
end

