-- ==== Sys2Proof/Laws/KeepLatch.lean ====
section
/-! SUPPORT. What the operations of Latch keep. -/

set_option linter.all false

namespace Sys2Proof.Machine

theorem pinSurfaces_sound {org : State} (ws : List Wr) (s : State) (sk : Sound org s) : Sound org (pinSurfaces ws s) := by
  unfold pinSurfaces
  repeat' first
    | with_reducible assumption
    | with_reducible apply requestPin_sound
    | ((with_reducible refine Sound.fold _ ?_ ?_) <;> try intro x a hb)

theorem latchItems_sound {org : State} (n : Nat) (at_ : Nat) (cut : Nat) (s : State) (sk : Sound org s) : Sound org (latchItems n at_ cut s) := by
  unfold latchItems
  repeat' first
    | with_reducible assumption
    | (extract_lets +onlyGivenNames b; first | (refine Sound.cut (Sound org b) ?_ ?_ <;> first | (intro hb; clear_value b; refine Sound.hold ?_) | intro hb | (unfold b; clear b)) | ((first | (have h0 : Nat := b; clear h0) | (have h0 : Bool := b; clear h0) | (have h0 : BitVec _ := b; clear h0) | (have h0 : List _ := b; clear h0)); clear_value b) | (unfold b; clear b) | clear b)
    | with_reducible apply applyDirect_sound
    | with_reducible apply applySwitch_sound
    | with_reducible apply applyFirstEntry_sound
    | with_reducible apply applyShare_sound
    | ((with_reducible refine Sound.fold _ ?_ ?_) <;> try intro x a hb)
    | split
    | exact Sound.update (by assumption)

theorem reshowSlots_sound {org : State} (n : Nat) (s : State) (sk : Sound org s) : Sound org (reshowSlots n s) := by
  unfold reshowSlots
  repeat' first
    | with_reducible assumption
    | (extract_lets +onlyGivenNames b; first | (refine Sound.cut (Sound org b) ?_ ?_ <;> first | (intro hb; clear_value b; refine Sound.hold ?_) | intro hb | (unfold b; clear b)) | (refine Sound.cut (Sound org b.1) ?_ ?_ <;> first | (intro hb; clear_value b; refine Sound.hold ?_) | intro hb | (unfold b; clear b)) | ((first | (have h0 : Nat := b; clear h0) | (have h0 : Bool := b; clear h0) | (have h0 : BitVec _ := b; clear h0) | (have h0 : List _ := b; clear h0)); clear_value b) | (unfold b; clear b) | clear b)
    | ((with_reducible refine Sound.setLayerOf ?_ _ _ ?_) <;> try (intro hq; first | exact (hb.queue hq).1 _ | exact (sk.queue hq).1 _ | exact Nat.zero_le _ | exact Nat.le_trans (List.length_filter_le _ _) ((hb.queue hq).1 _) | exact Nat.le_trans (List.length_filter_le _ _) ((sk.queue hq).1 _)))
    | with_reducible refine Sound.fst (by assumption) ?_
    | ((with_reducible refine Sound.fold _ ?_ ?_) <;> try intro x a hb)
    | ((with_reducible refine Sound.foldP _ ?_ ?_) <;> try (intro x a hb; rcases x with ⟨x, xr⟩))
    | split
    | exact Sound.update (by assumption)
    | exact Sound.updateFa (by assumption)
    | exact Sound.updateIc (by assumption)
    | exact Sound.updateAon (by assumption)
    | (refine Sound.update ?_; with_reducible refine Sound.fst (by assumption) ?_)
    | exact hb.same rfl rfl rfl rfl rfl rfl rfl
    | exact sk.same rfl rfl rfl rfl rfl rfl rfl

theorem hideLeaving_sound {org : State} (n : Nat) (at_ : Nat) (s : State) (sk : Sound org s) : Sound org (hideLeaving n at_ s) := by
  unfold hideLeaving
  repeat' first
    | with_reducible assumption
    | (extract_lets +onlyGivenNames b; first | (refine Sound.cut (Sound org b) ?_ ?_ <;> first | (intro hb; clear_value b; refine Sound.hold ?_) | intro hb | (unfold b; clear b)) | ((first | (have h0 : Nat := b; clear h0) | (have h0 : Bool := b; clear h0) | (have h0 : BitVec _ := b; clear h0) | (have h0 : List _ := b; clear h0)); clear_value b) | (unfold b; clear b) | clear b)
    | ((with_reducible refine Sound.setLayerOf ?_ _ _ ?_) <;> try (intro hq; first | exact (hb.queue hq).1 _ | exact (sk.queue hq).1 _ | exact Nat.le_trans (List.length_filter_le _ _) ((hb.queue hq).1 _) | exact Nat.le_trans (List.length_filter_le _ _) ((sk.queue hq).1 _)))
    | with_reducible apply endLinger_sound
    | with_reducible apply reshowSlots_sound
    | ((with_reducible refine Sound.fold _ ?_ ?_) <;> try intro x a hb)
    | split
    | exact Sound.update (by assumption)

theorem selectSlot_sound {org : State} (n : Nat) (after : State) (s : State) (slot : Nat) (sk : Sound org s) : Sound org (selectSlot n after s slot) := by
  unfold selectSlot
  repeat' first
    | with_reducible assumption
    | (extract_lets +onlyGivenNames b; first | (refine Sound.cut (Sound org b) ?_ ?_ <;> first | (intro hb; clear_value b; refine Sound.hold ?_) | intro hb | (unfold b; clear b)) | ((first | (have h0 : Nat := b; clear h0) | (have h0 : Bool := b; clear h0) | (have h0 : BitVec _ := b; clear h0) | (have h0 : List _ := b; clear h0)); clear_value b) | (unfold b; clear b) | clear b)
    | ((with_reducible refine Sound.setLayerOf ?_ _ _ ?_) <;> try (intro hq; first | exact (hb.queue hq).1 _ | exact (sk.queue hq).1 _ | exact Nat.zero_le _ | exact Nat.le_trans (List.length_filter_le _ _) ((hb.queue hq).1 _) | exact Nat.le_trans (List.length_filter_le _ _) ((sk.queue hq).1 _)))
    | with_reducible apply leaveQueue_sound
    | with_reducible apply retryPins_sound
    | ((with_reducible refine Sound.fold _ ?_ ?_) <;> try intro x a hb)
    | split
    | exact Sound.update (by assumption)

theorem selectHead_sound {org : State} (n : Nat) (s : State) (sk : Sound org s) : Sound org (selectHead n s) := by
  unfold selectHead
  repeat' first
    | with_reducible assumption
    | (extract_lets +onlyGivenNames b; first | (refine Sound.cut (Sound org b) ?_ ?_ <;> first | (intro hb; clear_value b; refine Sound.hold ?_) | intro hb | (unfold b; clear b)) | ((first | (have h0 : Nat := b; clear h0) | (have h0 : Bool := b; clear h0) | (have h0 : BitVec _ := b; clear h0) | (have h0 : List _ := b; clear h0)); clear_value b) | (unfold b; clear b) | clear b)
    | with_reducible apply State.setHead_sound
    | with_reducible apply flushRecs_sound
    | with_reducible apply latchItems_sound
    | with_reducible apply selectSlot_sound
    | ((with_reducible refine Sound.fold _ ?_ ?_) <;> try intro x a hb)
    | exact Sound.update (by assumption)

theorem takeEntry_sound {org : State} (n slot : Nat) (e : QEntry) (s : State) (sk : Sound org s) :
    Sound org (takeEntry n slot e s) := by
  unfold takeEntry
  extract_lets q ahead a b c
  have ha : Sound org a := Sound.fold _ sk (fun x e hx => leaveQueue_sound _ _ _ _ _ _ hx)
  have hb : Sound org b := retireShown_sound _ _ _ ha
  have hc : Sound org c := perfEvent_sound _ _ _ _ _ (makeRec_sound _ _ _ _ _ _ _ hb)
  refine State.setReg_sound _ _ _ (State.setReg_sound _ _ _ (State.setReg_sound _ _ _ (Sound.setLayerOf hc _ _ ?_)))
  intro hq
  show (q.drop _).length ≤ 4
  rw [List.length_drop]
  exact Nat.le_trans (Nat.sub_le _ _) ((sk.queue hq).1 _)

theorem queueStep_sound {org : State} (n : Nat) (s : State) (slot : Nat) (sk : Sound org s) : Sound org (queueStep n s slot) := by
  unfold queueStep
  repeat' first
    | with_reducible assumption
    | (extract_lets +onlyGivenNames b; first | (refine Sound.cut (Sound org b) ?_ ?_ <;> first | (intro hb; clear_value b; refine Sound.hold ?_) | intro hb | (unfold b; clear b)) | ((first | (have h0 : Nat := b; clear h0) | (have h0 : Bool := b; clear h0) | (have h0 : BitVec _ := b; clear h0) | (have h0 : List _ := b; clear h0)); clear_value b) | (unfold b; clear b) | clear b)
    | with_reducible apply State.bump_sound
    | ((with_reducible refine Sound.setLayerOf ?_ _ _ ?_) <;> try (intro hq; first | exact (hb.queue hq).1 _ | exact (sk.queue hq).1 _))
    | with_reducible apply perfEvent_sound
    | with_reducible apply makeRec_sound
    | with_reducible apply takeEntry_sound
    | split
    | exact Sound.update (by assumption)

theorem countAges_sound {org : State} (n : Nat) (s : State) (sk : Sound org s) : Sound org (countAges n s) := by
  unfold countAges
  repeat' first
    | with_reducible assumption
    | (extract_lets +onlyGivenNames b; first | (refine Sound.cut (Sound org b) ?_ ?_ <;> first | (intro hb; clear_value b; refine Sound.hold ?_) | intro hb | (unfold b; clear b)) | (refine Sound.cut (Sound org b.1) ?_ ?_ <;> first | (intro hb; clear_value b; refine Sound.hold ?_) | intro hb | (unfold b; clear b)) | ((first | (have h0 : Nat := b; clear h0) | (have h0 : Bool := b; clear h0) | (have h0 : BitVec _ := b; clear h0) | (have h0 : List _ := b; clear h0)); clear_value b) | (unfold b; clear b) | clear b)
    | ((with_reducible refine Sound.setLayerOf ?_ _ _ ?_) <;> try (intro hq; first | exact (hb.queue hq).1 _ | exact (sk.queue hq).1 _ | exact Nat.zero_le _ | exact Nat.le_trans (List.length_filter_le _ _) ((hb.queue hq).1 _) | exact Nat.le_trans (List.length_filter_le _ _) ((sk.queue hq).1 _)))
    | with_reducible refine Sound.fst (by assumption) ?_
    | ((with_reducible refine Sound.fold _ ?_ ?_) <;> try intro x a hb)
    | ((with_reducible refine Sound.foldP _ ?_ ?_) <;> try (intro x a hb; rcases x with ⟨x, xr⟩))
    | split
    | exact Sound.update (by assumption)
    | exact Sound.updateFa (by assumption)
    | exact Sound.updateIc (by assumption)
    | exact Sound.updateAon (by assumption)
    | (refine Sound.update ?_; with_reducible refine Sound.fst (by assumption) ?_)
    | exact hb.same rfl rfl rfl rfl rfl rfl rfl
    | exact sk.same rfl rfl rfl rfl rfl rfl rfl

theorem staleCheck_sound {org : State} (n : Nat) (s : State) (sk : Sound org s) : Sound org (staleCheck n s) := by
  unfold staleCheck
  repeat' first
    | with_reducible assumption
    | (extract_lets +onlyGivenNames b; first | (refine Sound.cut (Sound org b) ?_ ?_ <;> first | (intro hb; clear_value b; refine Sound.hold ?_) | intro hb | (unfold b; clear b)) | ((first | (have h0 : Nat := b; clear h0) | (have h0 : Bool := b; clear h0) | (have h0 : BitVec _ := b; clear h0) | (have h0 : List _ := b; clear h0)); clear_value b) | (unfold b; clear b) | clear b)
    | with_reducible apply keepFault_sound
    | ((with_reducible refine Sound.fold _ ?_ ?_) <;> try intro x a hb)
    | split

theorem showFallback_sound {org : State} (n : Nat) (s : State) (slot : Nat) (sk : Sound org s) : Sound org (showFallback n s slot) := by
  unfold showFallback
  repeat' first
    | with_reducible assumption
    | (extract_lets +onlyGivenNames b; first | (refine Sound.cut (Sound org b) ?_ ?_ <;> first | (intro hb; clear_value b; refine Sound.hold ?_) | intro hb | (unfold b; clear b)) | ((first | (have h0 : Nat := b; clear h0) | (have h0 : Bool := b; clear h0) | (have h0 : BitVec _ := b; clear h0) | (have h0 : List _ := b; clear h0)); clear_value b) | (unfold b; clear b) | clear b)
    | with_reducible apply State.setReg_sound
    | ((with_reducible refine Sound.setLayerOf ?_ _ _ ?_) <;> try (intro hq; first | exact (hb.queue hq).1 _ | exact (sk.queue hq).1 _))
    | with_reducible apply emptyQueue_sound
    | with_reducible apply retireShown_sound
    | exact Sound.update (by assumption)

theorem applyFallback_sound {org : State} (n : Nat) (at_ : Nat) (s : State) (sk : Sound org s) : Sound org (applyFallback n at_ s) := by
  unfold applyFallback
  repeat' first
    | with_reducible assumption
    | (extract_lets +onlyGivenNames b; first | (refine Sound.cut (Sound org b) ?_ ?_ <;> first | (intro hb; clear_value b; refine Sound.hold ?_) | intro hb | (unfold b; clear b)) | ((first | (have h0 : Nat := b; clear h0) | (have h0 : Bool := b; clear h0) | (have h0 : BitVec _ := b; clear h0) | (have h0 : List _ := b; clear h0)); clear_value b) | (unfold b; clear b) | clear b)
    | with_reducible apply State.setKeepHead_sound
    | with_reducible apply showFallback_sound
    | ((with_reducible refine Sound.fold _ ?_ ?_) <;> try intro x a hb)
    | exact Sound.update (by assumption)

theorem judgeClear_sound {org : State} (n : Nat) (s : State) (sk : Sound org s) : Sound org (judgeClear n s) := by
  unfold judgeClear
  repeat' first
    | with_reducible assumption
    | (extract_lets +onlyGivenNames b; first | (refine Sound.cut (Sound org b) ?_ ?_ <;> first | (intro hb; clear_value b; refine Sound.hold ?_) | intro hb | (unfold b; clear b)) | ((first | (have h0 : Nat := b; clear h0) | (have h0 : Bool := b; clear h0) | (have h0 : BitVec _ := b; clear h0) | (have h0 : List _ := b; clear h0)); clear_value b) | (unfold b; clear b) | clear b)
    | with_reducible apply State.setKeepHead_sound
    | with_reducible apply settleKeep_sound
    | with_reducible apply leaveFault_sound
    | ((with_reducible refine Sound.fold _ ?_ ?_) <;> try intro x a hb)
    | split
    | exact Sound.update (by assumption)

theorem postSignatures_sound {org : State} (n : Nat) (s : State) (sk : Sound org s) : Sound org (postSignatures n s).1 := by
  unfold postSignatures
  repeat' first
    | with_reducible assumption
    | (extract_lets +onlyGivenNames b; first | (refine Sound.cut (Sound org b) ?_ ?_ <;> first | (intro hb; clear_value b; refine Sound.hold ?_) | intro hb | (unfold b; clear b)) | ((first | (have h0 : Nat := b; clear h0) | (have h0 : Bool := b; clear h0) | (have h0 : BitVec _ := b; clear h0) | (have h0 : List _ := b; clear h0)); clear_value b) | (unfold b; clear b) | clear b)
    | with_reducible apply State.setReg_sound
    | with_reducible apply State.setSig_sound
    | with_reducible apply perfEvent_sound
    | ((with_reducible refine Sound.fold _ ?_ ?_) <;> try intro x a hb)
    | ((with_reducible refine Sound.foldP _ ?_ ?_) <;> try (intro x a hb; rcases x with ⟨x, xr⟩))
    | split
    | exact Sound.update (by assumption)

theorem signatureAction_sound {org : State} (n : Nat) (s : State) (a : Nat × Nat) (sk : Sound org s) : Sound org (signatureAction n s a) := by
  unfold signatureAction
  repeat' first
    | with_reducible assumption
    | (extract_lets +onlyGivenNames b; first | (refine Sound.cut (Sound org b) ?_ ?_ <;> first | (intro hb; clear_value b; refine Sound.hold ?_) | intro hb | (unfold b; clear b)) | ((first | (have h0 : Nat := b; clear h0) | (have h0 : Bool := b; clear h0) | (have h0 : BitVec _ := b; clear h0) | (have h0 : List _ := b; clear h0)); clear_value b) | (unfold b; clear b) | clear b)
    | with_reducible apply raise_sound
    | with_reducible apply setCategory_sound
    | with_reducible apply keepFault_sound
    | split
    | exact Sound.update (by assumption)

theorem raceSources_sound {org : State} (planes : List Nat) (s : State) (sk : Sound org s) : Sound org (raceSources planes s) := by
  unfold raceSources
  repeat' first
    | with_reducible assumption
    | (extract_lets +onlyGivenNames b; first | (unfold b; clear b) | clear b)
    | with_reducible apply State.setRace_sound
    | with_reducible apply raise_sound
    | ((with_reducible refine Sound.fold _ ?_ ?_) <;> try intro x a hb)
    | exact Sound.update (by assumption)

theorem forgetLost_sound {org : State} (n : Nat) (s : State) (sk : Sound org s) : Sound org (forgetLost n s) := by
  unfold forgetLost
  repeat' first
    | with_reducible assumption
    | (extract_lets +onlyGivenNames b; first | (unfold b; clear b) | clear b)
    | with_reducible apply State.setRace_sound
    | ((with_reducible refine Sound.fold _ ?_ ?_) <;> try intro x a hb)
    | exact Sound.update (by assumption)

theorem autoLatch_sound {org : State} (n : Nat) (s : State) (sk : Sound org s) : Sound org (autoLatch n s) := by
  unfold autoLatch
  repeat' first
    | with_reducible assumption
    | (extract_lets +onlyGivenNames b; first | (unfold b; clear b) | clear b)
    | with_reducible apply State.setHead_sound
    | split
    | exact Sound.update (by assumption)

theorem retryAtLatch_sound {org : State} (n : Nat) (s : State) (sk : Sound org s) : Sound org (retryAtLatch n s) := by
  unfold retryAtLatch
  repeat' first
    | with_reducible assumption
    | (extract_lets +onlyGivenNames b; first | (unfold b; clear b) | clear b)
    | with_reducible apply retryPins_sound
    | split
    | exact Sound.update (by assumption)

theorem latchHead_sound {org : State} (n : Nat) (at_ : Nat) (s : State) (sk : Sound org s) : Sound org (latchHead n at_ s) := by
  unfold latchHead
  repeat' first
    | with_reducible assumption
    | (extract_lets +onlyGivenNames b; first | (refine Sound.cut (Sound org b) ?_ ?_ <;> first | (intro hb; clear_value b; refine Sound.hold ?_) | intro hb | (unfold b; clear b)) | (refine Sound.cut (Sound org b.1) ?_ ?_ <;> first | (intro hb; clear_value b; refine Sound.hold ?_) | intro hb | (unfold b; clear b)) | ((first | (have h0 : Nat := b; clear h0) | (have h0 : Bool := b; clear h0) | (have h0 : BitVec _ := b; clear h0) | (have h0 : List _ := b; clear h0)); clear_value b) | (unfold b; clear b) | clear b)
    | with_reducible apply State.setHead_sound
    | with_reducible apply perfEvent_sound
    | with_reducible apply raise_sound
    | with_reducible apply faultLostWait_sound
    | with_reducible apply flushRecs_sound
    | with_reducible apply placeLanterns_sound
    | with_reducible apply latchItems_sound
    | with_reducible apply hideLeaving_sound
    | with_reducible apply queueStep_sound
    | with_reducible apply countAges_sound
    | with_reducible apply staleCheck_sound
    | with_reducible apply applyFallback_sound
    | with_reducible apply judgeClear_sound
    | with_reducible apply postSignatures_sound
    | with_reducible apply signatureAction_sound
    | with_reducible apply raceSources_sound
    | with_reducible apply autoLatch_sound
    | with_reducible apply retryAtLatch_sound
    | with_reducible refine Sound.fst (by assumption) ?_
    | ((with_reducible refine Sound.fold _ ?_ ?_) <;> try intro x a hb)
    | ((with_reducible refine Sound.foldP _ ?_ ?_) <;> try (intro x a hb; rcases x with ⟨x, xr⟩))
    | exact Sound.update (by assumption)
    | (refine Sound.update ?_; with_reducible refine Sound.fst (by assumption) ?_)

theorem applyAtOnce_sound {org : State} (n : Nat) (ws : List Wr) (s : State) (sk : Sound org s) : Sound org (applyAtOnce n ws s) := by
  unfold applyAtOnce
  repeat' first
    | with_reducible assumption
    | with_reducible apply flushRecs_sound
    | with_reducible apply applyDirect_sound

end Sys2Proof.Machine
end

