-- ==== Sys2Proof/Laws/KeepHeadCmds.lean ====
section
/-! SUPPORT. What the operations of HeadCmds keep. -/

set_option linter.all false

namespace Sys2Proof.Machine

theorem settleStopped_sound {org : State} (n : Nat) (s : State) (sk : Sound org s) : Sound org (settleStopped n s) := by
  unfold settleStopped
  repeat' first
    | with_reducible assumption
    | (extract_lets +onlyGivenNames b; first | (refine Sound.cut (Sound org b) ?_ ?_ <;> first | (intro hb; clear_value b; refine Sound.hold ?_) | intro hb | (unfold b; clear b)) | ((first | (have h0 : Nat := b; clear h0) | (have h0 : Bool := b; clear h0) | (have h0 : BitVec _ := b; clear h0) | (have h0 : List _ := b; clear h0)); clear_value b) | (unfold b; clear b) | clear b)
    | with_reducible apply flushRecs_sound
    | with_reducible apply applyDirect_sound
    | with_reducible apply applySwitch_sound
    | with_reducible apply applyFirstEntry_sound
    | with_reducible apply applyShare_sound
    | with_reducible apply hideLeaving_sound
    | ((with_reducible refine Sound.fold _ ?_ ?_) <;> try intro x a hb)
    | split
    | exact Sound.update (by assumption)

theorem waitToBegin_sound {org : State} (n : Nat) (s : State) (sk : Sound org s) : Sound org (waitToBegin n s) := by
  unfold waitToBegin
  repeat' first
    | with_reducible assumption
    | (extract_lets +onlyGivenNames b; first | (refine Sound.cut (Sound org b) ?_ ?_ <;> first | (intro hb; clear_value b; refine Sound.hold ?_) | intro hb | (unfold b; clear b)) | ((first | (have h0 : Nat := b; clear h0) | (have h0 : Bool := b; clear h0) | (have h0 : BitVec _ := b; clear h0) | (have h0 : List _ := b; clear h0)); clear_value b) | (unfold b; clear b) | clear b)
    | with_reducible apply State.setHead_sound
    | with_reducible apply selectHead_sound
    | split
    | exact Sound.update (by assumption)

theorem startHead_sound {org : State} (n : Nat) (s : State) (sk : Sound org s) : Sound org (startHead n s) := by
  unfold startHead
  repeat' first
    | with_reducible assumption
    | (extract_lets +onlyGivenNames b; first | (refine Sound.cut (Sound org b) ?_ ?_ <;> first | (intro hb; clear_value b; refine Sound.hold ?_) | intro hb | (unfold b; clear b)) | ((first | (have h0 : Nat := b; clear h0) | (have h0 : Bool := b; clear h0) | (have h0 : BitVec _ := b; clear h0) | (have h0 : List _ := b; clear h0)); clear_value b) | (unfold b; clear b) | clear b)
    | with_reducible apply State.setHead_sound
    | with_reducible apply advanceGroups_sound
    | with_reducible apply originGroups_sound
    | with_reducible apply waitToBegin_sound
    | split
    | exact Sound.update (by assumption)

theorem stopHead_sound {org : State} (n : Nat) (s : State) (sk : Sound org s) : Sound org (stopHead n s) := by
  unfold stopHead
  repeat' first
    | with_reducible assumption
    | (extract_lets +onlyGivenNames b; first | (unfold b; clear b) | clear b)
    | with_reducible apply State.setHead_sound
    | split
    | exact Sound.update (by assumption)

theorem landHeadCtrl_sound {org : State} (n : Nat) (pg : Nat) (enable : Bool) (s : State) (sk : Sound org s) : Sound org (landHeadCtrl n pg enable s) := by
  unfold landHeadCtrl
  repeat' first
    | with_reducible assumption
    | (extract_lets +onlyGivenNames b; first | (refine Sound.cut (Sound org b) ?_ ?_ <;> first | (intro hb; clear_value b; refine Sound.hold ?_) | intro hb | (unfold b; clear b)) | ((first | (have h0 : Nat := b; clear h0) | (have h0 : Bool := b; clear h0) | (have h0 : BitVec _ := b; clear h0) | (have h0 : List _ := b; clear h0)); clear_value b) | (unfold b; clear b) | clear b)
    | with_reducible apply State.setHead_sound
    | with_reducible apply startHead_sound
    | with_reducible apply stopHead_sound
    | split
    | exact Sound.update (by assumption)

theorem clearShed_sound {org : State} (n : Nat) (s : State) (sk : Sound org s) : Sound org (clearShed n s) := by
  unfold clearShed
  repeat' first
    | with_reducible assumption
    | (extract_lets +onlyGivenNames b; first | (refine Sound.cut (Sound org b) ?_ ?_ <;> first | (intro hb; clear_value b; refine Sound.hold ?_) | intro hb | (unfold b; clear b)) | ((first | (have h0 : Nat := b; clear h0) | (have h0 : Bool := b; clear h0) | (have h0 : BitVec _ := b; clear h0) | (have h0 : List _ := b; clear h0)); clear_value b) | (unfold b; clear b) | clear b)
    | with_reducible apply State.setLantern_sound
    | with_reducible apply clearCategory_sound
    | split
    | exact Sound.update (by assumption)

theorem chargeOsl_sound {org : State} (u : Nat) (ticks : Nat) (s : State) (sk : Sound org s) : Sound org (chargeOsl u ticks s) := by
  unfold chargeOsl
  repeat' first
    | with_reducible assumption
    | (extract_lets +onlyGivenNames b; first | (unfold b; clear b) | clear b)
    | with_reducible apply State.setOsl_sound
    | exact Sound.update (by assumption)

theorem sendStreams_sound {org : State} (n : Nat) (y : Nat) (line : List Word) (s : State) (sk : Sound org s) : Sound org (sendStreams n y line s) := by
  unfold sendStreams
  repeat' first
    | with_reducible assumption
    | (extract_lets +onlyGivenNames b; first | (refine Sound.cut (Sound org b) ?_ ?_ <;> first | (intro hb; clear_value b; refine Sound.hold ?_) | intro hb | (unfold b; clear b)) | ((first | (have h0 : Nat := b; clear h0) | (have h0 : Bool := b; clear h0) | (have h0 : BitVec _ := b; clear h0) | (have h0 : List _ := b; clear h0)); clear_value b) | (unfold b; clear b) | clear b)
    | with_reducible apply State.send_sound
    | with_reducible apply chargeOsl_sound
    | ((with_reducible refine Sound.fold _ ?_ ?_) <;> try intro x a hb)
    | split

theorem segColumns_sound {org : State} (y : Nat) (x : State × List Word) (g : Seg) (sk : Sound org x.1) :
    Sound org (segColumns y x g).1 := by
  unfold segColumns
  repeat' first
    | with_reducible assumption
    | (extract_lets +onlyGivenNames b; first | (refine Sound.cut (Sound org b) ?_ ?_ <;> first | (intro hb; clear_value b; refine Sound.hold ?_) | intro hb | (unfold b; clear b)) | (refine Sound.cut (Sound org b.1) ?_ ?_ <;> first | (intro hb; clear_value b; refine Sound.hold ?_) | intro hb | (unfold b; clear b)) | ((first | (have h0 : Nat := b; clear h0) | (have h0 : Bool := b; clear h0) | (have h0 : BitVec _ := b; clear h0) | (have h0 : List _ := b; clear h0)); clear_value b) | (unfold b; clear b) | clear b)
    | with_reducible apply State.draw_sound
    | with_reducible refine Sound.fst (by assumption) ?_
    | ((with_reducible refine Sound.fold _ ?_ ?_) <;> try intro x a hb)
    | ((with_reducible refine Sound.foldP _ ?_ ?_) <;> try (intro x a hb; rcases x with ⟨x, xr⟩))
    | split
    | exact Sound.update (by assumption)
    | exact Sound.updateFa (by assumption)
    | exact Sound.updateIc (by assumption)
    | exact Sound.updateAon (by assumption)
    | (refine Sound.update ?_; with_reducible refine Sound.fst (by assumption) ?_)
    | exact hb.same rfl rfl rfl rfl rfl rfl rfl
    | exact sk.same rfl rfl rfl rfl rfl rfl rfl

theorem mergeSegments_sound {org : State} (s : State) (n : Nat) (y : Nat) (line : List Word) (sk : Sound org s) : Sound org (mergeSegments s n y line).1 := by
  unfold mergeSegments
  repeat' first
    | with_reducible assumption
    | with_reducible apply segColumns_sound
    | with_reducible refine Sound.fst (by assumption) ?_
    | ((with_reducible refine Sound.fold _ ?_ ?_) <;> try intro x a hb)
    | ((with_reducible refine Sound.foldP _ ?_ ?_) <;> try (intro x a hb; rcases x with ⟨x, xr⟩))

theorem missLine_sound {org : State} (k : Nat) (y : Nat) (s : State) (sk : Sound org s) : Sound org (missLine k y s) := by
  unfold missLine
  repeat' first
    | with_reducible assumption
    | (extract_lets +onlyGivenNames b; first | (refine Sound.cut (Sound org b) ?_ ?_ <;> first | (intro hb; clear_value b; refine Sound.hold ?_) | intro hb | (unfold b; clear b)) | ((first | (have h0 : Nat := b; clear h0) | (have h0 : Bool := b; clear h0) | (have h0 : BitVec _ := b; clear h0) | (have h0 : List _ := b; clear h0)); clear_value b) | (unfold b; clear b) | clear b)
    | with_reducible apply State.setSeg_sound
    | with_reducible apply raise_sound
    | split
    | exact Sound.update (by assumption)

theorem missedSegments_sound {org : State} (n : Nat) (y : Nat) (s : State) (sk : Sound org s) : Sound org (missedSegments n y s) := by
  unfold missedSegments
  repeat' first
    | with_reducible assumption
    | with_reducible apply missLine_sound
    | ((with_reducible refine Sound.fold _ ?_ ?_) <;> try intro x a hb)
    | split

theorem passSegments_sound {org : State} (n : Nat) (y : Nat) (s : State) (sk : Sound org s) : Sound org (passSegments n y s) := by
  unfold passSegments
  repeat' first
    | with_reducible assumption
    | (extract_lets +onlyGivenNames b; first | (refine Sound.cut (Sound org b) ?_ ?_ <;> first | (intro hb; clear_value b; refine Sound.hold ?_) | intro hb | (unfold b; clear b)) | ((first | (have h0 : Nat := b; clear h0) | (have h0 : Bool := b; clear h0) | (have h0 : BitVec _ := b; clear h0) | (have h0 : List _ := b; clear h0)); clear_value b) | (unfold b; clear b) | clear b)
    | with_reducible apply State.setSeg_sound
    | ((with_reducible refine Sound.fold _ ?_ ?_) <;> try intro x a hb)
    | split
    | exact Sound.update (by assumption)

theorem countSent_sound {org : State} (n : Nat) (s : State) (sk : Sound org s) : Sound org (countSent n s) := by
  unfold countSent
  repeat' first
    | with_reducible assumption
    | with_reducible apply perfEvent_sound
    | ((with_reducible refine Sound.fold _ ?_ ?_) <;> try intro x a hb)

theorem sendPixelLine_sound {org : State} (n : Nat) (y : Nat) (line : List Word) (s : State) (e : Nat) (sk : Sound org s) : Sound org (sendPixelLine n y line s e) := by
  unfold sendPixelLine
  repeat' first
    | with_reducible assumption
    | (extract_lets +onlyGivenNames b; first | (unfold b; clear b) | clear b)
    | with_reducible apply State.send_sound
    | with_reducible apply State.draw_sound
    | split
    | exact Sound.update (by assumption)

theorem noteFirstPixel_sound {org : State} (l : List Nat) (s : State) (sk : Sound org s) : Sound org (noteFirstPixel l s) := by
  unfold noteFirstPixel
  repeat' first
    | with_reducible assumption
    | (extract_lets +onlyGivenNames b; first | (unfold b; clear b) | clear b)
    | split
    | exact Sound.update (by assumption)

theorem sendPixels_sound {org : State} (n : Nat) (y : Nat) (line : List Word) (s : State) (sk : Sound org s) : Sound org (sendPixels n y line s) := by
  unfold sendPixels
  repeat' first
    | with_reducible assumption
    | (extract_lets +onlyGivenNames b; first | (refine Sound.cut (Sound org b) ?_ ?_ <;> first | (intro hb; clear_value b; refine Sound.hold ?_) | intro hb | (unfold b; clear b)) | ((first | (have h0 : Nat := b; clear h0) | (have h0 : Bool := b; clear h0) | (have h0 : BitVec _ := b; clear h0) | (have h0 : List _ := b; clear h0)); clear_value b) | (unfold b; clear b) | clear b)
    | with_reducible apply countSent_sound
    | with_reducible apply sendPixelLine_sound
    | with_reducible apply noteFirstPixel_sound
    | ((with_reducible refine Sound.fold _ ?_ ?_) <;> try intro x a hb)

theorem sendBlank_sound {org : State} (n : Nat) (y : Nat) (s : State) (sk : Sound org s) : Sound org (sendBlank n y s) := by
  unfold sendBlank
  repeat' first
    | with_reducible assumption
    | with_reducible apply State.send_sound
    | ((with_reducible refine Sound.fold _ ?_ ?_) <;> try intro x a hb)

theorem countTile_sound {org : State} (n : Nat) (r : Nat) (col : Nat) (row : Nat) (s : State) (sk : Sound org s) : Sound org (countTile n r col row s) := by
  unfold countTile
  repeat' first
    | with_reducible assumption
    | (extract_lets +onlyGivenNames b; first | (refine Sound.cut (Sound org b) ?_ ?_ <;> first | (intro hb; clear_value b; refine Sound.hold ?_) | intro hb | (unfold b; clear b)) | ((first | (have h0 : Nat := b; clear h0) | (have h0 : Bool := b; clear h0) | (have h0 : BitVec _ := b; clear h0) | (have h0 : List _ := b; clear h0)); clear_value b) | (unfold b; clear b) | clear b)
    | with_reducible apply State.bump_sound
    | with_reducible apply State.setKeepHead_sound
    | with_reducible apply perfEvent_sound
    | split
    | exact Sound.update (by assumption)

theorem tileFault_sound {org : State} (n : Nat) (col : Nat) (row : Nat) (x : Nat) (y : Nat) (kind : Nat) (s : State) (sk : Sound org s) : Sound org (tileFault n col row x y kind s) := by
  unfold tileFault
  repeat' first
    | with_reducible assumption
    | (extract_lets +onlyGivenNames b; first | (unfold b; clear b) | clear b)
    | with_reducible apply keepFault_sound
    | with_reducible apply countTile_sound
    | split
    | exact Sound.update (by assumption)

theorem judgeLine_sound {org : State} (n : Nat) (y : Nat) (s : State) (sk : Sound org s) : Sound org (judgeLine n y s) := by
  unfold judgeLine
  repeat' first
    | with_reducible assumption
    | (extract_lets +onlyGivenNames b; first | (refine Sound.cut (Sound org b) ?_ ?_ <;> first | (intro hb; clear_value b; refine Sound.hold ?_) | intro hb | (unfold b; clear b)) | ((first | (have h0 : Nat := b; clear h0) | (have h0 : Bool := b; clear h0) | (have h0 : BitVec _ := b; clear h0) | (have h0 : List _ := b; clear h0)); clear_value b) | (unfold b; clear b) | clear b)
    | with_reducible apply State.setKeepHead_sound
    | with_reducible apply tileFault_sound
    | ((with_reducible refine Sound.fold _ ?_ ?_) <;> try intro x a hb)
    | exact Sound.update (by assumption)

theorem leaveLine_sound {org : State} (n : Nat) (s : State) (sk : Sound org s) : Sound org (leaveLine n s) := by
  unfold leaveLine
  repeat' first
    | with_reducible assumption
    | (extract_lets +onlyGivenNames b; first | (refine Sound.cut (Sound org b) ?_ ?_ <;> first | (intro hb; clear_value b; refine Sound.hold ?_) | intro hb | (unfold b; clear b)) | (refine Sound.cut (Sound org b.1) ?_ ?_ <;> first | (intro hb; clear_value b; refine Sound.hold ?_) | intro hb | (unfold b; clear b)) | ((first | (have h0 : Nat := b; clear h0) | (have h0 : Bool := b; clear h0) | (have h0 : BitVec _ := b; clear h0) | (have h0 : List _ := b; clear h0)); clear_value b) | (unfold b; clear b) | clear b)
    | with_reducible apply mergeSegments_sound
    | with_reducible apply missedSegments_sound
    | with_reducible apply passSegments_sound
    | with_reducible apply sendPixels_sound
    | with_reducible apply sendBlank_sound
    | with_reducible apply judgeLine_sound
    | with_reducible refine Sound.fst (by assumption) ?_
    | split
    | exact Sound.update (by assumption)
    | (refine Sound.update ?_; with_reducible refine Sound.fst (by assumption) ?_)

theorem enterLine_sound {org : State} (n : Nat) (y : Nat) (s : State) (sk : Sound org s) : Sound org (enterLine n y s) := by
  unfold enterLine
  repeat' first
    | with_reducible assumption
    | (extract_lets +onlyGivenNames b; first | (refine Sound.cut (Sound org b) ?_ ?_ <;> first | (intro hb; clear_value b; refine Sound.hold ?_) | intro hb | (unfold b; clear b)) | ((first | (have h0 : Nat := b; clear h0) | (have h0 : Bool := b; clear h0) | (have h0 : BitVec _ := b; clear h0) | (have h0 : List _ := b; clear h0)); clear_value b) | (unfold b; clear b) | clear b)
    | with_reducible apply State.setHead_sound
    | with_reducible apply perfEvent_sound
    | with_reducible apply lanternLine_sound
    | with_reducible apply sendStreams_sound
    | split
    | exact Sound.update (by assumption)

theorem headBegin_sound {org : State} (n : Nat) (s : State) (sk : Sound org s) : Sound org (headBegin n s) := by
  unfold headBegin
  repeat' first
    | with_reducible assumption
    | (extract_lets +onlyGivenNames b; first | (refine Sound.cut (Sound org b) ?_ ?_ <;> first | (intro hb; clear_value b; refine Sound.hold ?_) | intro hb | (unfold b; clear b)) | ((first | (have h0 : Nat := b; clear h0) | (have h0 : Bool := b; clear h0) | (have h0 : BitVec _ := b; clear h0) | (have h0 : List _ := b; clear h0)); clear_value b) | (unfold b; clear b) | clear b)
    | with_reducible apply State.setHead_sound
    | with_reducible apply perfEvent_sound
    | with_reducible apply toTick_sound
    | with_reducible apply settlePace_sound
    | with_reducible apply lanternLine_sound
    | with_reducible apply advanceGroups_sound
    | with_reducible apply selectHead_sound
    | with_reducible apply forgetLost_sound
    | split
    | exact Sound.update (by assumption)

theorem idlePort_sound {org : State} (s : State) (e : Nat) (sk : Sound org s) : Sound org (idlePort s e) := by
  unfold idlePort
  repeat' first
    | with_reducible assumption
    | (extract_lets +onlyGivenNames b; first | (refine Sound.cut (Sound org b) ?_ ?_ <;> first | (intro hb; clear_value b; refine Sound.hold ?_) | intro hb | (unfold b; clear b)) | ((first | (have h0 : Nat := b; clear h0) | (have h0 : Bool := b; clear h0) | (have h0 : BitVec _ := b; clear h0) | (have h0 : List _ := b; clear h0)); clear_value b) | (unfold b; clear b) | clear b)
    | with_reducible apply State.setEgress_sound
    | with_reducible apply State.send_sound
    | split
    | exact Sound.update (by assumption)

theorem idlePorts_sound {org : State} (n : Nat) (s : State) (sk : Sound org s) : Sound org (idlePorts n s) := by
  unfold idlePorts
  repeat' first
    | with_reducible assumption
    | with_reducible apply idlePort_sound
    | ((with_reducible refine Sound.fold _ ?_ ?_) <;> try intro x a hb)

theorem headStop_sound {org : State} (n : Nat) (s : State) (sk : Sound org s) : Sound org (headStop n s) := by
  unfold headStop
  repeat' first
    | with_reducible assumption
    | (extract_lets +onlyGivenNames b; first | (refine Sound.cut (Sound org b) ?_ ?_ <;> first | (intro hb; clear_value b; refine Sound.hold ?_) | intro hb | (unfold b; clear b)) | ((first | (have h0 : Nat := b; clear h0) | (have h0 : Bool := b; clear h0) | (have h0 : BitVec _ := b; clear h0) | (have h0 : List _ := b; clear h0)); clear_value b) | (unfold b; clear b) | clear b)
    | with_reducible apply State.setHead_sound
    | with_reducible apply State.setPgroup_sound
    | with_reducible apply State.setLantern_sound
    | with_reducible apply toTick_sound
    | with_reducible apply settleStopped_sound
    | with_reducible apply leaveLine_sound
    | with_reducible apply idlePorts_sound
    | ((with_reducible refine Sound.fold _ ?_ ?_) <;> try intro x a hb)
    | split
    | exact Sound.update (by assumption)

theorem beginPort_sound {org : State} (n : Nat) (s : State) (e : Nat) (sk : Sound org s) : Sound org (beginPort n s e) := by
  unfold beginPort
  repeat' first
    | with_reducible assumption
    | (extract_lets +onlyGivenNames b; first | (refine Sound.cut (Sound org b) ?_ ?_ <;> first | (intro hb; clear_value b; refine Sound.hold ?_) | intro hb | (unfold b; clear b)) | ((first | (have h0 : Nat := b; clear h0) | (have h0 : Bool := b; clear h0) | (have h0 : BitVec _ := b; clear h0) | (have h0 : List _ := b; clear h0)); clear_value b) | (unfold b; clear b) | clear b)
    | with_reducible apply State.setEgress_sound
    | with_reducible apply State.send_sound
    | split
    | exact Sound.update (by assumption)

theorem anchorPorts_sound {org : State} (n : Nat) (s : State) (sk : Sound org s) : Sound org (anchorPorts n s) := by
  unfold anchorPorts
  repeat' first
    | with_reducible assumption
    | (extract_lets +onlyGivenNames b; first | (refine Sound.cut (Sound org b) ?_ ?_ <;> first | (intro hb; clear_value b; refine Sound.hold ?_) | intro hb | (unfold b; clear b)) | ((first | (have h0 : Nat := b; clear h0) | (have h0 : Bool := b; clear h0) | (have h0 : BitVec _ := b; clear h0) | (have h0 : List _ := b; clear h0)); clear_value b) | (unfold b; clear b) | clear b)
    | with_reducible apply idlePort_sound
    | with_reducible apply beginPort_sound
    | ((with_reducible refine Sound.fold _ ?_ ?_) <;> try intro x a hb)
    | split

theorem newSegFrame_sound {org : State} (n : Nat) (s : State) (sk : Sound org s) : Sound org (newSegFrame n s) := by
  unfold newSegFrame
  repeat' first
    | with_reducible assumption
    | (extract_lets +onlyGivenNames b; first | (unfold b; clear b) | clear b)
    | with_reducible apply State.setSeg_sound
    | ((with_reducible refine Sound.fold _ ?_ ?_) <;> try intro x a hb)
    | exact Sound.update (by assumption)

theorem openExtra_sound {org : State} (n : Nat) (lost : List LostBurst) (s : State) (sk : Sound org s) : Sound org (openExtra n lost s) := by
  unfold openExtra
  repeat' first
    | with_reducible assumption
    | (extract_lets +onlyGivenNames b; first | (refine Sound.cut (Sound org b) ?_ ?_ <;> first | (intro hb; clear_value b; refine Sound.hold ?_) | intro hb | (unfold b; clear b)) | ((first | (have h0 : Nat := b; clear h0) | (have h0 : Bool := b; clear h0) | (have h0 : BitVec _ := b; clear h0) | (have h0 : List _ := b; clear h0)); clear_value b) | (unfold b; clear b) | clear b)
    | with_reducible apply State.setHead_sound
    | with_reducible apply toTick_sound
    | with_reducible apply openWindow_sound
    | ((with_reducible apply seenBy_sound) <;> try intro x hb)
    | exact Sound.update (by assumption)

theorem frameAnchor_sound {org : State} (n : Nat) (s : State) (sk : Sound org s) : Sound org (frameAnchor n s) := by
  unfold frameAnchor
  repeat' first
    | with_reducible assumption
    | (extract_lets +onlyGivenNames b; first | (refine Sound.cut (Sound org b) ?_ ?_ <;> first | (intro hb; clear_value b; refine Sound.hold ?_) | intro hb | (unfold b; clear b)) | ((first | (have h0 : Nat := b; clear h0) | (have h0 : Bool := b; clear h0) | (have h0 : BitVec _ := b; clear h0) | (have h0 : List _ := b; clear h0)); clear_value b) | (unfold b; clear b) | clear b)
    | with_reducible apply State.setHead_sound
    | with_reducible apply State.setKeepHead_sound
    | with_reducible apply toTick_sound
    | with_reducible apply lanternOmitted_sound
    | with_reducible apply groupAnchored_sound
    | with_reducible apply advanceGroups_sound
    | with_reducible apply leaveLine_sound
    | with_reducible apply enterLine_sound
    | with_reducible apply anchorPorts_sound
    | with_reducible apply newSegFrame_sound
    | with_reducible apply openExtra_sound
    | ((with_reducible refine Sound.fold _ ?_ ?_) <;> try intro x a hb)
    | split
    | exact Sound.update (by assumption)

theorem openLine_sound {org : State} (n : Nat) (lost : List LostBurst) (s : State) (sk : Sound org s) : Sound org (openLine n lost s) := by
  unfold openLine
  repeat' first
    | with_reducible assumption
    | (extract_lets +onlyGivenNames b; first | (refine Sound.cut (Sound org b) ?_ ?_ <;> first | (intro hb; clear_value b; refine Sound.hold ?_) | intro hb | (unfold b; clear b)) | ((first | (have h0 : Nat := b; clear h0) | (have h0 : Bool := b; clear h0) | (have h0 : BitVec _ := b; clear h0) | (have h0 : List _ := b; clear h0)); clear_value b) | (unfold b; clear b) | clear b)
    | with_reducible apply State.setHead_sound
    | with_reducible apply openWindow_sound
    | ((with_reducible apply seenBy_sound) <;> try intro x hb)
    | split
    | exact Sound.update (by assumption)

theorem fetchWindowOpen_sound {org : State} (n : Nat) (lost : List LostBurst) (s : State) (sk : Sound org s) : Sound org (fetchWindowOpen n lost s) := by
  unfold fetchWindowOpen
  repeat' first
    | with_reducible assumption
    | (extract_lets +onlyGivenNames b; first | (refine Sound.cut (Sound org b) ?_ ?_ <;> first | (intro hb; clear_value b; refine Sound.hold ?_) | intro hb | (unfold b; clear b)) | ((first | (have h0 : Nat := b; clear h0) | (have h0 : Bool := b; clear h0) | (have h0 : BitVec _ := b; clear h0) | (have h0 : List _ := b; clear h0)); clear_value b) | (unfold b; clear b) | clear b)
    | with_reducible apply toTick_sound
    | with_reducible apply leaveLine_sound
    | with_reducible apply enterLine_sound
    | with_reducible apply openExtra_sound
    | with_reducible apply openLine_sound
    | split

theorem selection_sound {org : State} (n : Nat) (s : State) (sk : Sound org s) : Sound org (selection n s) := by
  unfold selection
  repeat' first
    | with_reducible assumption
    | (extract_lets +onlyGivenNames b; first | (refine Sound.cut (Sound org b) ?_ ?_ <;> first | (intro hb; clear_value b; refine Sound.hold ?_) | intro hb | (unfold b; clear b)) | ((first | (have h0 : Nat := b; clear h0) | (have h0 : Bool := b; clear h0) | (have h0 : BitVec _ := b; clear h0) | (have h0 : List _ := b; clear h0)); clear_value b) | (unfold b; clear b) | clear b)
    | with_reducible apply toTick_sound
    | with_reducible apply selectHead_sound
    | split
    | exact Sound.update (by assumption)

theorem headLatch_sound {org : State} (n : Nat) (s : State) (sk : Sound org s) : Sound org (headLatch n s) := by
  unfold headLatch
  repeat' first
    | with_reducible assumption
    | (extract_lets +onlyGivenNames b; first | (refine Sound.cut (Sound org b) ?_ ?_ <;> first | (intro hb; clear_value b; refine Sound.hold ?_) | intro hb | (unfold b; clear b)) | ((first | (have h0 : Nat := b; clear h0) | (have h0 : Bool := b; clear h0) | (have h0 : BitVec _ := b; clear h0) | (have h0 : List _ := b; clear h0)); clear_value b) | (unfold b; clear b) | clear b)
    | with_reducible apply toTick_sound
    | with_reducible apply selectHead_sound
    | with_reducible apply latchHead_sound
    | split

theorem giveSlew_sound {org : State} (g : Nat) (a : Nat) (f : Nat) (x : Int) (s : State) (sk : Sound org s) : Sound org (giveSlew g a f x s) := by
  unfold giveSlew
  repeat' first
    | with_reducible assumption
    | (extract_lets +onlyGivenNames b; first | (refine Sound.cut (Sound org b) ?_ ?_ <;> first | (intro hb; clear_value b; refine Sound.hold ?_) | intro hb | (unfold b; clear b)) | ((first | (have h0 : Nat := b; clear h0) | (have h0 : Bool := b; clear h0) | (have h0 : BitVec _ := b; clear h0) | (have h0 : List _ := b; clear h0)); clear_value b) | (unfold b; clear b) | clear b)
    | with_reducible apply State.setHead_sound
    | with_reducible apply State.setPgroup_sound
    | ((with_reducible refine Sound.fold _ ?_ ?_) <;> try intro x a hb)
    | split
    | exact Sound.update (by assumption)

theorem decide__sound {org : State} (g : Nat) (a : Nat) (f : Nat) (s : State) (sk : Sound org s) : Sound org (decide_ g a f s) := by
  unfold decide_
  repeat' first
    | with_reducible assumption
    | (extract_lets +onlyGivenNames b; first | (refine Sound.cut (Sound org b) ?_ ?_ <;> first | (intro hb; clear_value b; refine Sound.hold ?_) | intro hb | (unfold b; clear b)) | ((first | (have h0 : Nat := b; clear h0) | (have h0 : Bool := b; clear h0) | (have h0 : BitVec _ := b; clear h0) | (have h0 : List _ := b; clear h0)); clear_value b) | (unfold b; clear b) | clear b)
    | with_reducible apply State.setPgroup_sound
    | with_reducible apply perfEvent_sound
    | with_reducible apply toTick_sound
    | with_reducible apply setGState_sound
    | with_reducible apply giveSlew_sound
    | split
    | exact Sound.update (by assumption)

theorem slewDecision_sound {org : State} (g : Nat) (s : State) (sk : Sound org s) : Sound org (slewDecision g s) := by
  unfold slewDecision
  repeat' first
    | with_reducible assumption
    | (extract_lets +onlyGivenNames b; first | (refine Sound.cut (Sound org b) ?_ ?_ <;> first | (intro hb; clear_value b; refine Sound.hold ?_) | intro hb | (unfold b; clear b)) | ((first | (have h0 : Nat := b; clear h0) | (have h0 : Bool := b; clear h0) | (have h0 : BitVec _ := b; clear h0) | (have h0 : List _ := b; clear h0)); clear_value b) | (unfold b; clear b) | clear b)
    | with_reducible apply advanceGroups_sound
    | with_reducible apply giveSlew_sound
    | with_reducible apply decide__sound
    | split
    | exact Sound.update (by assumption)

theorem refEvent_sound {org : State} (g : Nat) (at_ : Nat) (s : State) (sk : Sound org s) : Sound org (refEvent g at_ s) := by
  unfold refEvent
  repeat' first
    | with_reducible assumption
    | (extract_lets +onlyGivenNames b; first | (unfold b; clear b) | clear b)
    | with_reducible apply State.setPgroup_sound
    | exact Sound.update (by assumption)

theorem genlockEdge_sound {org : State} (rising : Bool) (s : State) (sk : Sound org s) : Sound org (genlockEdge rising s) := by
  unfold genlockEdge
  repeat' first
    | with_reducible assumption
    | with_reducible apply refEvent_sound
    | ((with_reducible refine Sound.fold _ ?_ ?_) <;> try intro x a hb)
    | split

theorem holdoverTimeout_sound {org : State} (g : Nat) (s : State) (sk : Sound org s) : Sound org (holdoverTimeout g s) := by
  unfold holdoverTimeout
  repeat' first
    | with_reducible assumption
    | (extract_lets +onlyGivenNames b; first | (refine Sound.cut (Sound org b) ?_ ?_ <;> first | (intro hb; clear_value b; refine Sound.hold ?_) | intro hb | (unfold b; clear b)) | ((first | (have h0 : Nat := b; clear h0) | (have h0 : Bool := b; clear h0) | (have h0 : BitVec _ := b; clear h0) | (have h0 : List _ := b; clear h0)); clear_value b) | (unfold b; clear b) | clear b)
    | with_reducible apply toTick_sound
    | with_reducible apply setGState_sound
    | split
    | exact Sound.update (by assumption)

end Sys2Proof.Machine
end

