-- ==== Sys2Proof/Laws/KeepSchedCmds.lean ====
section
/-! SUPPORT. What the operations of SchedCmds keep. -/

set_option linter.all false

namespace Sys2Proof.Machine

theorem startLoad_sound {org : State} (b : Nat) (record : List Byte) (s : State) (sk : Sound org s) : Sound org (startLoad b record s) := by
  unfold startLoad
  repeat' first
    | with_reducible assumption
    | (extract_lets +onlyGivenNames b; first | (refine Sound.cut (Sound org b) ?_ ?_ <;> first | (intro hb; clear_value b; refine Sound.hold ?_) | intro hb | (unfold b; clear b)) | ((first | (have h0 : Nat := b; clear h0) | (have h0 : Bool := b; clear h0) | (have h0 : BitVec _ := b; clear h0) | (have h0 : List _ := b; clear h0)); clear_value b) | (unfold b; clear b) | clear b)
    | with_reducible apply State.setBank_sound
    | split
    | exact Sound.update (by assumption)

theorem sbResult_sound {org : State} (b : Nat) (r : LoadReport) (s : State) (sk : Sound org s) : Sound org (sbResult b r s) := by
  unfold sbResult
  repeat' first
    | with_reducible assumption
    | (extract_lets +onlyGivenNames b; first | (unfold b; clear b) | clear b)
    | exact Sound.update (by assumption)

theorem unload_sound {org : State} (b : Nat) (s : State) (sk : Sound org s) : Sound org (unload b s) := by
  unfold unload
  repeat' first
    | with_reducible assumption
    | with_reducible apply State.setBank_sound
    | with_reducible apply sbResult_sound
    | split

theorem sbCommand_sound {org : State} (src : Source) (b : Nat) (op : Nat) (s : State) (sk : Sound org s) : Sound org (sbCommand src b op s) := by
  unfold sbCommand
  repeat' first
    | with_reducible assumption
    | (extract_lets +onlyGivenNames b; first | (refine Sound.cut (Sound org b) ?_ ?_ <;> first | (intro hb; clear_value b; refine Sound.hold ?_) | intro hb | (unfold b; clear b)) | ((first | (have h0 : Nat := b; clear h0) | (have h0 : Bool := b; clear h0) | (have h0 : BitVec _ := b; clear h0) | (have h0 : List _ := b; clear h0)); clear_value b) | (unfold b; clear b) | clear b)
    | with_reducible apply State.setReg_sound
    | with_reducible apply refuse_sound
    | with_reducible apply startLoad_sound
    | with_reducible apply unload_sound
    | split
    | exact Sound.update (by assumption)

theorem firstLive_sound {org : State} (b : Nat) (i : Image) (s : State) (sk : Sound org s) : Sound org (firstLive b i s) := by
  unfold firstLive
  repeat' first
    | with_reducible assumption
    | (extract_lets +onlyGivenNames b; first | (refine Sound.cut (Sound org b) ?_ ?_ <;> first | (intro hb; clear_value b; refine Sound.hold ?_) | intro hb | (unfold b; clear b)) | ((first | (have h0 : Nat := b; clear h0) | (have h0 : Bool := b; clear h0) | (have h0 : BitVec _ := b; clear h0) | (have h0 : List _ := b; clear h0)); clear_value b) | (unfold b; clear b) | clear b)
    | with_reducible apply State.setBank_sound
    | with_reducible apply flushRecs_sound
    | with_reducible apply placeIdle_sound
    | with_reducible apply rejudgeRings_sound
    | with_reducible apply applyEntry_sound
    | ((with_reducible refine Sound.fold _ ?_ ?_) <;> try intro x a hb)
    | split
    | exact Sound.update (by assumption)

theorem finishLoad_sound {org : State} (l : Load) (s : State) (sk : Sound org s) : Sound org (finishLoad l s) := by
  unfold finishLoad
  repeat' first
    | with_reducible assumption
    | (extract_lets +onlyGivenNames b; first | (refine Sound.cut (Sound org b) ?_ ?_ <;> first | (intro hb; clear_value b; refine Sound.hold ?_) | intro hb | (unfold b; clear b)) | ((first | (have h0 : Nat := b; clear h0) | (have h0 : Bool := b; clear h0) | (have h0 : BitVec _ := b; clear h0) | (have h0 : List _ := b; clear h0)); clear_value b) | (unfold b; clear b) | clear b)
    | with_reducible apply State.setBank_sound
    | with_reducible apply sbResult_sound
    | with_reducible apply firstLive_sound
    | split
    | exact Sound.update (by assumption)

theorem loadComplete_sound {org : State} (s : State) (sk : Sound org s) : Sound org (loadComplete s) := by
  unfold loadComplete
  repeat' first
    | with_reducible assumption
    | (extract_lets +onlyGivenNames b; first | (unfold b; clear b) | clear b)
    | with_reducible apply raise_sound
    | with_reducible apply finishLoad_sound
    | split
    | exact Sound.update (by assumption)

end Sys2Proof.Machine
end

