-- ==== Sys2Proof/Laws/KeepFabricCmds.lean ====
section
/-! SUPPORT. What the operations of FabricCmds keep. -/

set_option linter.all false

namespace Sys2Proof.Machine

theorem damageBurst_sound {org : State} (burst : Nat) (s : State) (sk : Sound org s) : Sound org (damageBurst burst s) := by
  unfold damageBurst
  repeat' first
    | with_reducible assumption
    | (extract_lets +onlyGivenNames b; first | (unfold b; clear b) | clear b)
    | split
    | exact Sound.update (by assumption)
    | exact Sound.updateIc (by assumption)

theorem damageMeta_sound {org : State} (burst : Nat) (s : State) (sk : Sound org s) : Sound org (damageMeta burst s) := by
  unfold damageMeta
  repeat' first
    | with_reducible assumption
    | (extract_lets +onlyGivenNames b; first | (unfold b; clear b) | clear b)
    | split
    | exact Sound.update (by assumption)
    | exact Sound.updateIc (by assumption)

theorem shadowLost_sound {org : State} (n : Nat) (s : State) (y : Nat) (sk : Sound org s) : Sound org (shadowLost n s y) := by
  unfold shadowLost
  repeat' first
    | with_reducible assumption
    | (extract_lets +onlyGivenNames b; first | (refine Sound.cut (Sound org b) ?_ ?_ <;> first | (intro hb; clear_value b; refine Sound.hold ?_) | intro hb | (unfold b; clear b)) | ((first | (have h0 : Nat := b; clear h0) | (have h0 : Bool := b; clear h0) | (have h0 : BitVec _ := b; clear h0) | (have h0 : List _ := b; clear h0)); clear_value b) | (unfold b; clear b) | clear b)
    | with_reducible apply State.setKeepHead_sound
    | exact Sound.update (by assumption)

theorem shadowHit_sound {org : State} (s : State) (sk : Sound org s) : Sound org (shadowHit s) := by
  unfold shadowHit
  repeat' first
    | with_reducible assumption
    | with_reducible apply shadowLost_sound
    | ((with_reducible refine Sound.fold _ ?_ ?_) <;> try intro x a hb)
    | split

theorem eccUncorrectable_sound {org : State} (m : Nat) (burst : Nat) (req : Nat) (partialWrite : Bool) (metadata : Bool) (s : State) (sk : Sound org s) : Sound org (eccUncorrectable m burst req partialWrite metadata s) := by
  unfold eccUncorrectable
  repeat' first
    | with_reducible assumption
    | (extract_lets +onlyGivenNames b; first | (refine Sound.cut (Sound org b) ?_ ?_ <;> first | (intro hb; clear_value b; refine Sound.hold ?_) | intro hb | (unfold b; clear b)) | ((first | (have h0 : Nat := b; clear h0) | (have h0 : Bool := b; clear h0) | (have h0 : BitVec _ := b; clear h0) | (have h0 : List _ := b; clear h0)); clear_value b) | (unfold b; clear b) | clear b)
    | with_reducible apply eccUncorrect_sound
    | with_reducible apply setCategory_sound
    | with_reducible apply damageBurst_sound
    | with_reducible apply damageMeta_sound
    | with_reducible apply shadowHit_sound
    | split

theorem eccWriteback_sound {org : State} (m : Nat) (s : State) (sk : Sound org s) : Sound org (eccWriteback m s) := by
  unfold eccWriteback
  repeat' first
    | with_reducible assumption
    | (extract_lets +onlyGivenNames b; first | (unfold b; clear b) | clear b)
    | with_reducible apply serveBurst_sound
    | split
    | exact Sound.update (by assumption)
    | exact Sound.updateIc (by assumption)

theorem patrolScrub_sound {org : State} (m : Nat) (burst : Nat) (single : Bool) (s : State) (sk : Sound org s) : Sound org (patrolScrub m burst single s) := by
  unfold patrolScrub
  repeat' first
    | with_reducible assumption
    | (extract_lets +onlyGivenNames b; first | (refine Sound.cut (Sound org b) ?_ ?_ <;> first | (intro hb; clear_value b; refine Sound.hold ?_) | intro hb | (unfold b; clear b)) | ((first | (have h0 : Nat := b; clear h0) | (have h0 : Bool := b; clear h0) | (have h0 : BitVec _ := b; clear h0) | (have h0 : List _ := b; clear h0)); clear_value b) | (unfold b; clear b) | clear b)
    | with_reducible apply eccCorrect_sound
    | with_reducible apply eccUncorrect_sound
    | with_reducible apply serve_sound
    | split

theorem pinComplete_sound {org : State} (i : Nat) (s : State) (sk : Sound org s) : Sound org (pinComplete i s) := by
  unfold pinComplete
  repeat' first
    | with_reducible assumption
    | (extract_lets +onlyGivenNames b; first | (unfold b; clear b) | clear b)
    | with_reducible apply completePin_sound
    | split
    | exact Sound.update (by assumption)

theorem invalidate_sound {org : State} (ctx : Nat) (va : Nat) (all : Bool) (s : State) (sk : Sound org s) : Sound org (invalidate ctx va all s) := by
  unfold invalidate
  repeat' first
    | with_reducible assumption
    | (extract_lets +onlyGivenNames b; first | (unfold b; clear b) | clear b)
    | exact Sound.update (by assumption)
    | exact Sound.updateIc (by assumption)

theorem tlbInv_sound {org : State} (src : Source) (ctx : Nat) (all : Bool) (s : State) (sk : Sound org s) : Sound org (tlbInv src ctx all s) := by
  unfold tlbInv
  repeat' first
    | with_reducible assumption
    | with_reducible apply refuse_sound
    | with_reducible apply invalidate_sound
    | split

theorem rewalkShadow_sound {org : State} (r : Rewalk) (s : State) (sk : Sound org s) : Sound org (rewalkShadow r s).1 := by
  unfold rewalkShadow
  repeat' first
    | with_reducible assumption
    | (extract_lets +onlyGivenNames b; first | (refine Sound.cut (Sound org b) ?_ ?_ <;> first | (intro hb; clear_value b; refine Sound.hold ?_) | intro hb | (unfold b; clear b)) | (refine Sound.cut (Sound org b.1) ?_ ?_ <;> first | (intro hb; clear_value b; refine Sound.hold ?_) | intro hb | (unfold b; clear b)) | ((first | (have h0 : Nat := b; clear h0) | (have h0 : Bool := b; clear h0) | (have h0 : BitVec _ := b; clear h0) | (have h0 : List _ := b; clear h0)); clear_value b) | (unfold b; clear b) | clear b)
    | with_reducible apply reportWalks_sound
    | with_reducible refine Sound.fst (by assumption) ?_
    | ((with_reducible refine Sound.fold _ ?_ ?_) <;> try intro x a hb)
    | ((with_reducible refine Sound.foldP _ ?_ ?_) <;> try (intro x a hb; rcases x with ⟨x, xr⟩))
    | split
    | exact Sound.update (by assumption)
    | exact Sound.updateFa (by assumption)
    | exact Sound.updateIc (by assumption)
    | exact Sound.updateAon (by assumption)
    | (refine Sound.update ?_; with_reducible refine Sound.fst (by assumption) ?_)
    | exact hb.same rfl rfl rfl rfl rfl rfl rfl
    | exact sk.same rfl rfl rfl rfl rfl rfl rfl

theorem rewalk_sound {org : State} (r : Rewalk) (s : State) (sk : Sound org s) : Sound org (rewalk r s) := by
  unfold rewalk
  repeat' first
    | with_reducible assumption
    | (extract_lets +onlyGivenNames b; first | (refine Sound.cut (Sound org b) ?_ ?_ <;> first | (intro hb; clear_value b; refine Sound.hold ?_) | intro hb | (unfold b; clear b)) | (refine Sound.cut (Sound org b.1) ?_ ?_ <;> first | (intro hb; clear_value b; refine Sound.hold ?_) | intro hb | (unfold b; clear b)) | ((first | (have h0 : Nat := b; clear h0) | (have h0 : Bool := b; clear h0) | (have h0 : BitVec _ := b; clear h0) | (have h0 : List _ := b; clear h0)); clear_value b) | (unfold b; clear b) | clear b)
    | with_reducible apply State.bump_sound
    | with_reducible apply raise_sound
    | with_reducible apply reportWalks_sound
    | with_reducible apply rewalkShadow_sound
    | with_reducible refine Sound.fst (by assumption) ?_
    | ((with_reducible refine Sound.fold _ ?_ ?_) <;> try intro x a hb)
    | ((with_reducible refine Sound.foldP _ ?_ ?_) <;> try (intro x a hb; rcases x with ⟨x, xr⟩))
    | split
    | exact Sound.update (by assumption)
    | exact Sound.updateFa (by assumption)
    | exact Sound.updateIc (by assumption)
    | exact Sound.updateAon (by assumption)
    | (refine Sound.update ?_; with_reducible refine Sound.fst (by assumption) ?_)
    | exact hb.same rfl rfl rfl rfl rfl rfl rfl
    | exact sk.same rfl rfl rfl rfl rfl rfl rfl

theorem rewalkComplete_sound {org : State} (i : Nat) (s : State) (sk : Sound org s) : Sound org (rewalkComplete i s) := by
  unfold rewalkComplete
  repeat' first
    | with_reducible assumption
    | (extract_lets +onlyGivenNames b; first | (unfold b; clear b) | clear b)
    | with_reducible apply rewalk_sound
    | split
    | exact Sound.update (by assumption)
    | exact Sound.updateIc (by assumption)

theorem mr4Poll_sound {org : State} (m : Nat) (mult : Nat) (hot : Bool) (s : State) (sk : Sound org s) : Sound org (mr4Poll m mult hot s) := by
  unfold mr4Poll
  repeat' first
    | with_reducible assumption
    | (extract_lets +onlyGivenNames b; first | (refine Sound.cut (Sound org b) ?_ ?_ <;> first | (intro hb; clear_value b; refine Sound.hold ?_) | intro hb | (unfold b; clear b)) | ((first | (have h0 : Nat := b; clear h0) | (have h0 : Bool := b; clear h0) | (have h0 : BitVec _ := b; clear h0) | (have h0 : List _ := b; clear h0)); clear_value b) | (unfold b; clear b) | clear b)
    | with_reducible apply State.setChannel_sound
    | with_reducible apply raise_sound
    | split
    | exact Sound.update (by assumption)

theorem bar2Read_sound {org : State} (f : Nat) (off : Nat) (len : Nat) (s : State) (sk : Sound org s) : Sound org (bar2Read f off len s) := by
  unfold bar2Read
  repeat' first
    | with_reducible assumption
    | (extract_lets +onlyGivenNames b; first | (refine Sound.cut (Sound org b) ?_ ?_ <;> first | (intro hb; clear_value b; refine Sound.hold ?_) | intro hb | (unfold b; clear b)) | (refine Sound.cut (Sound org b.1) ?_ ?_ <;> first | (intro hb; clear_value b; refine Sound.hold ?_) | intro hb | (unfold b; clear b)) | ((first | (have h0 : Nat := b; clear h0) | (have h0 : Bool := b; clear h0) | (have h0 : BitVec _ := b; clear h0) | (have h0 : List _ := b; clear h0)); clear_value b) | (unfold b; clear b) | clear b)
    | with_reducible apply State.wakeLink_sound
    | with_reducible apply State.answer_sound
    | with_reducible apply aerLog_sound
    | with_reducible apply openRead_sound
    | with_reducible refine Sound.fst (by assumption) ?_
    | ((with_reducible refine Sound.fold _ ?_ ?_) <;> try intro x a hb)
    | ((with_reducible refine Sound.foldP _ ?_ ?_) <;> try (intro x a hb; rcases x with ⟨x, xr⟩))
    | split
    | exact Sound.update (by assumption)
    | exact Sound.updateFa (by assumption)
    | exact Sound.updateIc (by assumption)
    | exact Sound.updateAon (by assumption)
    | (refine Sound.update ?_; with_reducible refine Sound.fst (by assumption) ?_)
    | exact hb.same rfl rfl rfl rfl rfl rfl rfl
    | exact sk.same rfl rfl rfl rfl rfl rfl rfl

theorem bar2Write_sound {org : State} (f : Nat) (off : Nat) (bytes : List (Option Byte)) (poisoned : Bool) (s : State) (sk : Sound org s) : Sound org (bar2Write f off bytes poisoned s) := by
  unfold bar2Write
  repeat' first
    | with_reducible assumption
    | (extract_lets +onlyGivenNames b; first | (refine Sound.cut (Sound org b) ?_ ?_ <;> first | (intro hb; clear_value b; refine Sound.hold ?_) | intro hb | (unfold b; clear b)) | (refine Sound.cut (Sound org b.1) ?_ ?_ <;> first | (intro hb; clear_value b; refine Sound.hold ?_) | intro hb | (unfold b; clear b)) | ((first | (have h0 : Nat := b; clear h0) | (have h0 : Bool := b; clear h0) | (have h0 : BitVec _ := b; clear h0) | (have h0 : List _ := b; clear h0)); clear_value b) | (unfold b; clear b) | clear b)
    | with_reducible apply State.wakeLink_sound
    | with_reducible apply aerLog_sound
    | with_reducible apply openWrite_sound
    | with_reducible refine Sound.fst (by assumption) ?_
    | ((with_reducible refine Sound.fold _ ?_ ?_) <;> try intro x a hb)
    | ((with_reducible refine Sound.foldP _ ?_ ?_) <;> try (intro x a hb; rcases x with ⟨x, xr⟩))
    | split
    | exact Sound.update (by assumption)
    | exact Sound.updateFa (by assumption)
    | exact Sound.updateIc (by assumption)
    | exact Sound.updateAon (by assumption)
    | (refine Sound.update ?_; with_reducible refine Sound.fst (by assumption) ?_)
    | exact hb.same rfl rfl rfl rfl rfl rfl rfl
    | exact sk.same rfl rfl rfl rfl rfl rfl rfl

end Sys2Proof.Machine
end

