-- ==== Sys2Proof/Laws/KeepLayerCmds.lean ====
section
/-! SUPPORT. What the operations of LayerCmds keep. -/

set_option linter.all false

namespace Sys2Proof.Machine

theorem portResult_sound {org : State} (p : Nat) (code : Nat) (s : State) (sk : Sound org s) : Sound org (portResult p code s) := by
  unfold portResult
  repeat' first
    | with_reducible assumption
    | (extract_lets +onlyGivenNames b; first | (unfold b; clear b) | clear b)
    | exact Sound.update (by assumption)
    | exact Sound.updateFa (by assumption)

theorem doorbell_sound {org : State} (f p : Nat) (op : State → State) (s : State)
    (hop : ∀ x, Sound org x → Sound org (op x)) (sk : Sound org s) : Sound org (doorbell f p op s) := by
  unfold doorbell
  repeat' first
    | with_reducible assumption
    | (extract_lets +onlyGivenNames b; first | (refine Sound.cut (Sound org b) ?_ ?_ <;> first | (intro hb; clear_value b; refine Sound.hold ?_) | intro hb | (unfold b; clear b)) | (refine Sound.cut (Sound org b.1) ?_ ?_ <;> first | (intro hb; clear_value b; refine Sound.hold ?_) | intro hb | (unfold b; clear b)) | ((first | (have h0 : Nat := b; clear h0) | (have h0 : Bool := b; clear h0) | (have h0 : BitVec _ := b; clear h0) | (have h0 : List _ := b; clear h0)); clear_value b) | (unfold b; clear b) | clear b)
    | with_reducible apply hop
    | with_reducible apply State.bump_sound
    | with_reducible refine Sound.fst (by assumption) ?_
    | ((with_reducible refine Sound.fold _ ?_ ?_) <;> try intro x a hb)
    | ((with_reducible refine Sound.foldP _ ?_ ?_) <;> try (intro x a hb; rcases x with ⟨x, xr⟩))
    | split
    | exact Sound.update (by assumption)
    | exact Sound.updateFa (by assumption)
    | exact Sound.updateIc (by assumption)
    | exact Sound.updateAon (by assumption)
    | (refine Sound.update ?_; with_reducible refine Sound.fst (by assumption) ?_)
    | exact hb.same rfl rfl rfl rfl rfl rfl rfl
    | exact sk.same rfl rfl rfl rfl rfl rfl rfl

theorem appendEntry_sound {org : State} (f p : Nat) (staged : Bool) (s : State)
    (hq : (s.layer (portSlot s p)).queue.length < 4) (sk : Sound org s) : Sound org (appendEntry f p staged s) := by
  unfold appendEntry
  extract_lets slot v seq buf plane1 e b
  refine requestPin_sound _ _ _ _ _ (Sound.setLayerOf (State.newSeq_sound _ sk) _ _ ?_)
  intro _
  show ((s.layer slot).queue ++ [e]).length ≤ 4
  rw [List.length_append]
  exact hq

theorem updEntry_sound {org : State} (slot k : Nat) (g : QEntry → QEntry) (s : State) (sk : Sound org s) :
    Sound org (updEntry slot k g s) := by
  unfold updEntry
  extract_lets l
  split
  · refine Sound.setLayerOf sk _ _ ?_
    intro hq
    show (l.queue.set k _).length ≤ 4
    rw [List.length_set]
    exact (sk.queue hq).1 _
  · exact sk

theorem nextCopy_sound {org : State} (s : State) (sk : Sound org s) : Sound org (nextCopy s) := by
  unfold nextCopy
  repeat' first
    | with_reducible assumption
    | (extract_lets +onlyGivenNames b; first | (refine Sound.cut (Sound org b) ?_ ?_ <;> first | (intro hb; clear_value b; refine Sound.hold ?_) | intro hb | (unfold b; clear b)) | ((first | (have h0 : Nat := b; clear h0) | (have h0 : Bool := b; clear h0) | (have h0 : BitVec _ := b; clear h0) | (have h0 : List _ := b; clear h0)); clear_value b) | (unfold b; clear b) | clear b)
    | with_reducible apply State.wakeLink_sound
    | with_reducible apply updEntry_sound
    | ((with_reducible refine Sound.fold _ ?_ ?_) <;> try intro x a hb)
    | split
    | exact Sound.update (by assumption)

theorem queueOp_sound {org : State} (f p : Nat) (staged : Bool) (s : State) (sk : Sound org s) :
    Sound org (queueOp f p staged s) := by
  unfold queueOp
  extract_lets code
  refine portResult_sound _ _ _ ?_
  split
  · rename_i h
    refine nextCopy_sound _ (appendEntry_sound _ _ _ _ ?_ sk)
    refine Nat.lt_of_not_le (fun h4 => ?_)
    have hr : queueResult s p staged = 1 := by
      unfold queueResult
      extract_lets slot v
      exact if_pos h4
    exact absurd (hr.symm.trans h) (by decide)
  · exact sk

theorem signalOp_sound {org : State} (f : Nat) (p : Nat) (s : State) (sk : Sound org s) : Sound org (signalOp f p s) := by
  unfold signalOp
  repeat' first
    | with_reducible assumption
    | (extract_lets +onlyGivenNames b; first | (refine Sound.cut (Sound org b) ?_ ?_ <;> first | (intro hb; clear_value b; refine Sound.hold ?_) | intro hb | (unfold b; clear b)) | ((first | (have h0 : Nat := b; clear h0) | (have h0 : Bool := b; clear h0) | (have h0 : BitVec _ := b; clear h0) | (have h0 : List _ := b; clear h0)); clear_value b) | (unfold b; clear b) | clear b)
    | with_reducible apply setFence_sound
    | with_reducible apply portResult_sound
    | split

theorem cancelSlot_sound {org : State} (p : Nat) (s : State) (slot : Nat) (sk : Sound org s) : Sound org (cancelSlot p s slot) := by
  unfold cancelSlot
  repeat' first
    | with_reducible assumption
    | (extract_lets +onlyGivenNames b; first | (refine Sound.cut (Sound org b) ?_ ?_ <;> first | (intro hb; clear_value b; refine Sound.hold ?_) | intro hb | (unfold b; clear b)) | ((first | (have h0 : Nat := b; clear h0) | (have h0 : Bool := b; clear h0) | (have h0 : BitVec _ := b; clear h0) | (have h0 : List _ := b; clear h0)); clear_value b) | (unfold b; clear b) | clear b)
    | ((with_reducible refine Sound.setLayerOf ?_ _ _ ?_) <;> try (intro hq; first | exact (hb.queue hq).1 _ | exact (sk.queue hq).1 _ | exact Nat.le_trans (List.length_filter_le _ _) ((hb.queue hq).1 _) | exact Nat.le_trans (List.length_filter_le _ _) ((sk.queue hq).1 _)))
    | with_reducible apply leaveQueue_sound
    | ((with_reducible refine Sound.fold _ ?_ ?_) <;> try intro x a hb)
    | exact Sound.update (by assumption)

theorem cancelOp_sound {org : State} (p : Nat) (s : State) (sk : Sound org s) : Sound org (cancelOp p s) := by
  unfold cancelOp
  repeat' first
    | with_reducible assumption
    | with_reducible apply flushRecs_sound
    | with_reducible apply portResult_sound
    | with_reducible apply nextCopy_sound
    | with_reducible apply cancelSlot_sound
    | ((with_reducible refine Sound.fold _ ?_ ?_) <;> try intro x a hb)

theorem badOp_sound {org : State} (f : Nat) (p : Nat) (op : Nat) (s : State) (sk : Sound org s) : Sound org (badOp f p op s) := by
  unfold badOp
  repeat' first
    | with_reducible assumption
    | (extract_lets +onlyGivenNames b; first | (refine Sound.cut (Sound org b) ?_ ?_ <;> first | (intro hb; clear_value b; refine Sound.hold ?_) | intro hb | (unfold b; clear b)) | (refine Sound.cut (Sound org b.1) ?_ ?_ <;> first | (intro hb; clear_value b; refine Sound.hold ?_) | intro hb | (unfold b; clear b)) | ((first | (have h0 : Nat := b; clear h0) | (have h0 : Bool := b; clear h0) | (have h0 : BitVec _ := b; clear h0) | (have h0 : List _ := b; clear h0)); clear_value b) | (unfold b; clear b) | clear b)
    | with_reducible apply portResult_sound
    | with_reducible apply queueOp_sound
    | with_reducible apply signalOp_sound
    | with_reducible apply cancelOp_sound
    | with_reducible refine Sound.fst (by assumption) ?_
    | ((with_reducible refine Sound.fold _ ?_ ?_) <;> try intro x a hb)
    | ((with_reducible refine Sound.foldP _ ?_ ?_) <;> try (intro x a hb; rcases x with ⟨x, xr⟩))
    | split
    | exact Sound.update (by assumption)
    | exact Sound.updateFa (by assumption)
    | exact Sound.updateIc (by assumption)
    | exact Sound.updateAon (by assumption)
    | (refine Sound.update ?_; with_reducible refine Sound.fst (by assumption) ?_)
    | exact hb.same rfl rfl rfl rfl rfl rfl rfl
    | exact sk.same rfl rfl rfl rfl rfl rfl rfl

theorem copyLines_sound {org : State} (e : QEntry) (c : Stage) (ls : List (Nat × List Byte)) (s : State) (sk : Sound org s) : Sound org (copyLines e c ls s).1 := by
  induction ls generalizing s with
  | nil => exact sk
  | cons a l ih =>
    unfold copyLines
    repeat' first
      | with_reducible assumption
      | (extract_lets +onlyGivenNames b; first | (refine Sound.cut (Sound org b) ?_ ?_ <;> first | (intro hb; clear_value b; refine Sound.hold ?_) | intro hb | (unfold b; clear b)) | (refine Sound.cut (Sound org b.1) ?_ ?_ <;> first | (intro hb; clear_value b; refine Sound.hold ?_) | intro hb | (unfold b; clear b)) | ((first | (have h0 : Nat := b; clear h0) | (have h0 : Bool := b; clear h0) | (have h0 : BitVec _ := b; clear h0) | (have h0 : List _ := b; clear h0)); clear_value b) | (unfold b; clear b) | clear b)
      | with_reducible apply ih
      | with_reducible apply perfEvent_sound
      | with_reducible apply openWrite_sound
      | with_reducible refine Sound.fst (by assumption) ?_
      | ((with_reducible refine Sound.fold _ ?_ ?_) <;> try intro x a hb)
      | ((with_reducible refine Sound.foldP _ ?_ ?_) <;> try (intro x a hb; rcases x with ⟨x, xr⟩))
      | split
      | exact Sound.update (by assumption)
      | exact Sound.updateFa (by assumption)
      | exact Sound.updateIc (by assumption)
      | exact Sound.updateAon (by assumption)
      | (refine Sound.update ?_; with_reducible refine Sound.fst (by assumption) ?_)
      | exact hb.same rfl rfl rfl rfl rfl rfl rfl
      | exact sk.same rfl rfl rfl rfl rfl rfl rfl

theorem endStage_sound {org : State} (slot : Nat) (k : Nat) (failed : Option Nat) (s : State) (sk : Sound org s) : Sound org (endStage slot k failed s) := by
  unfold endStage
  repeat' first
    | with_reducible assumption
    | (extract_lets +onlyGivenNames b; first | (unfold b; clear b) | clear b)
    | with_reducible apply updEntry_sound
    | with_reducible apply nextCopy_sound
    | exact Sound.update (by assumption)

theorem stageCopyDone_sound {org : State} (slot : Nat) (k : Nat) (lines : List (List Byte)) (s : State) (sk : Sound org s) : Sound org (stageCopyDone slot k lines s) := by
  unfold stageCopyDone
  repeat' first
    | with_reducible assumption
    | (extract_lets +onlyGivenNames b; first | (refine Sound.cut (Sound org b) ?_ ?_ <;> first | (intro hb; clear_value b; refine Sound.hold ?_) | intro hb | (unfold b; clear b)) | (refine Sound.cut (Sound org b.1) ?_ ?_ <;> first | (intro hb; clear_value b; refine Sound.hold ?_) | intro hb | (unfold b; clear b)) | ((first | (have h0 : Nat := b; clear h0) | (have h0 : Bool := b; clear h0) | (have h0 : BitVec _ := b; clear h0) | (have h0 : List _ := b; clear h0)); clear_value b) | (unfold b; clear b) | clear b)
    | with_reducible apply State.wakeLink_sound
    | with_reducible apply copyLines_sound
    | with_reducible apply endStage_sound
    | with_reducible refine Sound.fst (by assumption) ?_
    | split
    | exact Sound.update (by assumption)
    | (refine Sound.update ?_; with_reducible refine Sound.fst (by assumption) ?_)

theorem stageCopyFail_sound {org : State} (slot : Nat) (k : Nat) (detail : Nat) (lines : List (List Byte)) (s : State) (sk : Sound org s) : Sound org (stageCopyFail slot k detail lines s) := by
  unfold stageCopyFail
  repeat' first
    | with_reducible assumption
    | (extract_lets +onlyGivenNames b; first | (refine Sound.cut (Sound org b) ?_ ?_ <;> first | (intro hb; clear_value b; refine Sound.hold ?_) | intro hb | (unfold b; clear b)) | (refine Sound.cut (Sound org b.1) ?_ ?_ <;> first | (intro hb; clear_value b; refine Sound.hold ?_) | intro hb | (unfold b; clear b)) | ((first | (have h0 : Nat := b; clear h0) | (have h0 : Bool := b; clear h0) | (have h0 : BitVec _ := b; clear h0) | (have h0 : List _ := b; clear h0)); clear_value b) | (unfold b; clear b) | clear b)
    | with_reducible apply State.wakeLink_sound
    | with_reducible apply copyLines_sound
    | with_reducible apply endStage_sound
    | with_reducible refine Sound.fst (by assumption) ?_
    | split
    | exact Sound.update (by assumption)
    | (refine Sound.update ?_; with_reducible refine Sound.fst (by assumption) ?_)

end Sys2Proof.Machine
end

