-- ==== Sys2Proof/Laws/KeepKeepCmds.lean ====
section
/-! SUPPORT. What the operations of KeepCmds keep. -/

set_option linter.all false

namespace Sys2Proof.Machine

theorem keepMismatch_sound {org : State} (n : Nat) (col : Nat) (row : Nat) (unknown : Bool) (s : State) (sk : Sound org s) : Sound org (keepMismatch n col row unknown s) := by
  unfold keepMismatch
  repeat' first
    | with_reducible assumption
    | with_reducible apply tileFault_sound
    | split

theorem shadowLate_sound {org : State} (n : Nat) (x : Nat) (y : Nat) (s : State) (sk : Sound org s) : Sound org (shadowLate n x y s) := by
  unfold shadowLate
  repeat' first
    | with_reducible assumption
    | (extract_lets +onlyGivenNames b; first | (unfold b; clear b) | clear b)
    | with_reducible apply keepFault_sound
    | split
    | exact Sound.update (by assumption)

theorem keepClockFault_sound {org : State} (t : ClockTarget) (s : State) (sk : Sound org s) : Sound org (keepClockFault t s) := by
  unfold keepClockFault
  repeat' first
    | with_reducible assumption
    | (extract_lets +onlyGivenNames b; first | (refine Sound.cut (Sound org b) ?_ ?_ <;> first | (intro hb; clear_value b; refine Sound.hold ?_) | intro hb | (unfold b; clear b)) | ((first | (have h0 : Nat := b; clear h0) | (have h0 : Bool := b; clear h0) | (have h0 : BitVec _ := b; clear h0) | (have h0 : List _ := b; clear h0)); clear_value b) | (unfold b; clear b) | clear b)
    | with_reducible apply keepFault_sound
    | ((with_reducible refine Sound.fold _ ?_ ?_) <;> try intro x a hb)
    | split
    | exact Sound.update (by assumption)

theorem keepClockRestored_sound {org : State} (t : ClockTarget) (s : State) (sk : Sound org s) : Sound org (keepClockRestored t s) := by
  unfold keepClockRestored
  repeat' first
    | with_reducible assumption
    | (extract_lets +onlyGivenNames b; first | (unfold b; clear b) | clear b)
    | exact Sound.update (by assumption)

theorem selftestLine_sound {org : State} (n : Nat) (pass : Bool) (s : State) (sk : Sound org s) : Sound org (selftestLine n pass s) := by
  unfold selftestLine
  repeat' first
    | with_reducible assumption
    | (extract_lets +onlyGivenNames b; first | (refine Sound.cut (Sound org b) ?_ ?_ <;> first | (intro hb; clear_value b; refine Sound.hold ?_) | intro hb | (unfold b; clear b)) | ((first | (have h0 : Nat := b; clear h0) | (have h0 : Bool := b; clear h0) | (have h0 : BitVec _ := b; clear h0) | (have h0 : List _ := b; clear h0)); clear_value b) | (unfold b; clear b) | clear b)
    | with_reducible apply State.setKeepHead_sound
    | with_reducible apply keepFault_sound
    | split
    | exact Sound.update (by assumption)

theorem keepClear_sound {org : State} (src : Source) (n : Nat) (regions : BitVec 4) (s : State) (sk : Sound org s) : Sound org (keepClear src n regions s) := by
  unfold keepClear
  repeat' first
    | with_reducible assumption
    | (extract_lets +onlyGivenNames b; first | (unfold b; clear b) | clear b)
    | with_reducible apply State.setKeepHead_sound
    | with_reducible apply refuse_sound
    | split
    | exact Sound.update (by assumption)

end Sys2Proof.Machine
end

