-- ==== Sys2Proof/Laws/KeepCvCmds.lean ====
section
/-! SUPPORT. What the operations of CvCmds keep. -/

set_option linter.all false

namespace Sys2Proof.Machine

theorem scanRange_sound {org : State} (u : Nat) (ctx : Nat) (va : Nat) (n : Nat) (s : State) (sk : Sound org s) : Sound org (scanRange u ctx va n s).1 := by
  unfold scanRange
  repeat' first
    | with_reducible assumption
    | (extract_lets +onlyGivenNames b; first | (unfold b; clear b) | clear b)
    | with_reducible apply perfEvent_sound
    | with_reducible apply readRange_sound
    | with_reducible refine Sound.fst (by assumption) ?_
    | split
    | exact Sound.update (by assumption)
    | (refine Sound.update ?_; with_reducible refine Sound.fst (by assumption) ?_)

theorem scanLines_sound {org : State} (u : Nat) (x : CvDesc) (ls : List Nat) (s : State) (sk : Sound org s) : Sound org (scanLines u x ls s).1 := by
  induction ls generalizing s with
  | nil => exact sk
  | cons a l ih =>
    unfold scanLines
    repeat' first
      | with_reducible assumption
      | (extract_lets +onlyGivenNames b; first | (refine Sound.cut (Sound org b) ?_ ?_ <;> first | (intro hb; clear_value b; refine Sound.hold ?_) | intro hb | (unfold b; clear b)) | (refine Sound.cut (Sound org b.1) ?_ ?_ <;> first | (intro hb; clear_value b; refine Sound.hold ?_) | intro hb | (unfold b; clear b)) | ((first | (have h0 : Nat := b; clear h0) | (have h0 : Bool := b; clear h0) | (have h0 : BitVec _ := b; clear h0) | (have h0 : List _ := b; clear h0)); clear_value b) | (unfold b; clear b) | clear b)
      | with_reducible apply ih
      | with_reducible apply scanRange_sound
      | with_reducible refine Sound.fst (by assumption) ?_
      | ((with_reducible refine Sound.fold _ ?_ ?_) <;> try intro x a hb)
      | ((with_reducible refine Sound.foldP _ ?_ ?_) <;> try (intro x a hb; rcases x with ⟨x, xr⟩))
      | split
      | exact Sound.update (by assumption)
      | exact Sound.updateFa (by assumption)
      | exact Sound.updateIc (by assumption)
      | exact Sound.updateAon (by assumption)
      | (refine Sound.update ?_; with_reducible refine Sound.fst (by assumption) ?_)
      | exact hb.same rfl rfl rfl rfl rfl rfl rfl
      | exact sk.same rfl rfl rfl rfl rfl rfl rfl

theorem setRes_sound {org : State} (u : Nat) (d : Nat) (v : DWord) (s : State) (sk : Sound org s) : Sound org (setRes u d v s) := by
  unfold setRes
  repeat' first
    | with_reducible assumption
    | (extract_lets +onlyGivenNames b; first | (unfold b; clear b) | clear b)
    | with_reducible apply State.setCvUnit_sound
    | exact Sound.update (by assumption)

theorem noteMismatch_sound {org : State} (u : Nat) (d : Nat) (s : State) (sk : Sound org s) : Sound org (noteMismatch u d s) := by
  unfold noteMismatch
  repeat' first
    | with_reducible assumption
    | (extract_lets +onlyGivenNames b; first | (refine Sound.cut (Sound org b) ?_ ?_ <;> first | (intro hb; clear_value b; refine Sound.hold ?_) | intro hb | (unfold b; clear b)) | ((first | (have h0 : Nat := b; clear h0) | (have h0 : Bool := b; clear h0) | (have h0 : BitVec _ := b; clear h0) | (have h0 : List _ := b; clear h0)); clear_value b) | (unfold b; clear b) | clear b)
    | with_reducible apply State.setCvUnit_sound
    | split
    | exact Sound.update (by assumption)

theorem enterBytes_sound {org : State} (u : Nat) (d : Nat) (x : CvDesc) (r : CvRun) (l : List Byte) (s : State) (sk : Sound org s) : Sound org (enterBytes u d x r l s).1 := by
  unfold enterBytes
  repeat' first
    | with_reducible assumption
    | (extract_lets +onlyGivenNames b; first | (refine Sound.cut (Sound org b) ?_ ?_ <;> first | (intro hb; clear_value b; refine Sound.hold ?_) | intro hb | (unfold b; clear b)) | ((first | (have h0 : Nat := b; clear h0) | (have h0 : Bool := b; clear h0) | (have h0 : BitVec _ := b; clear h0) | (have h0 : List _ := b; clear h0)); clear_value b) | (unfold b; clear b) | clear b)
    | with_reducible apply setRes_sound
    | with_reducible apply noteMismatch_sound
    | split

theorem enterRecord_sound {org : State} (u : Nat) (d : Nat) (o : Outcome) (header : List Byte) (s : State) (sk : Sound org s) : Sound org (enterRecord u d o header s).1 := by
  unfold enterRecord
  repeat' first
    | with_reducible assumption
    | (extract_lets +onlyGivenNames b; first | (refine Sound.cut (Sound org b) ?_ ?_ <;> first | (intro hb; clear_value b; refine Sound.hold ?_) | intro hb | (unfold b; clear b)) | ((first | (have h0 : Nat := b; clear h0) | (have h0 : Bool := b; clear h0) | (have h0 : BitVec _ := b; clear h0) | (have h0 : List _ := b; clear h0)); clear_value b) | (unfold b; clear b) | clear b)
    | with_reducible apply setRes_sound
    | with_reducible apply noteMismatch_sound
    | split

theorem runRecord_sound {org : State} (u : Nat) (d : Nat) (x : CvDesc) (s : State) (sk : Sound org s) : Sound org (runRecord u d x s).1 := by
  unfold runRecord
  repeat' first
    | with_reducible assumption
    | (extract_lets +onlyGivenNames b; first | (refine Sound.cut (Sound org b) ?_ ?_ <;> first | (intro hb; clear_value b; refine Sound.hold ?_) | intro hb | (unfold b; clear b)) | (refine Sound.cut (Sound org b.1) ?_ ?_ <;> first | (intro hb; clear_value b; refine Sound.hold ?_) | intro hb | (unfold b; clear b)) | ((first | (have h0 : Nat := b; clear h0) | (have h0 : Bool := b; clear h0) | (have h0 : BitVec _ := b; clear h0) | (have h0 : List _ := b; clear h0)); clear_value b) | (unfold b; clear b) | clear b)
    | with_reducible apply scanRange_sound
    | with_reducible apply enterRecord_sound
    | with_reducible refine Sound.fst (by assumption) ?_
    | split
    | exact Sound.update (by assumption)
    | (refine Sound.update ?_; with_reducible refine Sound.fst (by assumption) ?_)

theorem runDesc_sound {org : State} (u : Nat) (d : Nat) (x : CvDesc) (r : CvRun) (s : State) (sk : Sound org s) : Sound org (runDesc u d x r s).1 := by
  unfold runDesc
  repeat' first
    | with_reducible assumption
    | (extract_lets +onlyGivenNames b; first | (refine Sound.cut (Sound org b) ?_ ?_ <;> first | (intro hb; clear_value b; refine Sound.hold ?_) | intro hb | (unfold b; clear b)) | (refine Sound.cut (Sound org b.1) ?_ ?_ <;> first | (intro hb; clear_value b; refine Sound.hold ?_) | intro hb | (unfold b; clear b)) | ((first | (have h0 : Nat := b; clear h0) | (have h0 : Bool := b; clear h0) | (have h0 : BitVec _ := b; clear h0) | (have h0 : List _ := b; clear h0)); clear_value b) | (unfold b; clear b) | clear b)
    | with_reducible apply scanRange_sound
    | with_reducible apply scanLines_sound
    | with_reducible apply enterBytes_sound
    | with_reducible apply runRecord_sound
    | with_reducible refine Sound.fst (by assumption) ?_
    | split
    | exact Sound.update (by assumption)
    | (refine Sound.update ?_; with_reducible refine Sound.fst (by assumption) ?_)

theorem clearRest_sound {org : State} (u : Nat) (l : List (Nat × CvDesc)) (s : State) (sk : Sound org s) : Sound org (clearRest u l s) := by
  unfold clearRest
  repeat' first
    | with_reducible assumption
    | with_reducible apply setRes_sound
    | ((with_reducible refine Sound.fold _ ?_ ?_) <;> try intro x a hb)

theorem runDescs_sound {org : State} (u : Nat) (ls : List (Nat × CvDesc)) (r : CvRun) (s : State) (sk : Sound org s) : Sound org (runDescs u ls r s).1 := by
  induction ls generalizing r s with
  | nil => exact sk
  | cons a l ih =>
    unfold runDescs
    repeat' first
      | with_reducible assumption
      | (extract_lets +onlyGivenNames b; first | (refine Sound.cut (Sound org b) ?_ ?_ <;> first | (intro hb; clear_value b; refine Sound.hold ?_) | intro hb | (unfold b; clear b)) | (refine Sound.cut (Sound org b.1) ?_ ?_ <;> first | (intro hb; clear_value b; refine Sound.hold ?_) | intro hb | (unfold b; clear b)) | ((first | (have h0 : Nat := b; clear h0) | (have h0 : Bool := b; clear h0) | (have h0 : BitVec _ := b; clear h0) | (have h0 : List _ := b; clear h0)); clear_value b) | (unfold b; clear b) | clear b)
      | with_reducible apply ih
      | with_reducible apply runDesc_sound
      | with_reducible apply clearRest_sound
      | with_reducible refine Sound.fst (by assumption) ?_
      | ((with_reducible refine Sound.fold _ ?_ ?_) <;> try intro x a hb)
      | ((with_reducible refine Sound.foldP _ ?_ ?_) <;> try (intro x a hb; rcases x with ⟨x, xr⟩))
      | split
      | exact Sound.update (by assumption)
      | exact Sound.updateFa (by assumption)
      | exact Sound.updateIc (by assumption)
      | exact Sound.updateAon (by assumption)
      | (refine Sound.update ?_; with_reducible refine Sound.fst (by assumption) ?_)
      | exact hb.same rfl rfl rfl rfl rfl rfl rfl
      | exact sk.same rfl rfl rfl rfl rfl rfl rfl

theorem cvFinish_sound {org : State} (u : Nat) (err : Nat) (index : Nat) (empty : Bool) (s : State) (sk : Sound org s) : Sound org (cvFinish u err index empty s) := by
  unfold cvFinish
  repeat' first
    | with_reducible assumption
    | (extract_lets +onlyGivenNames b; first | (refine Sound.cut (Sound org b) ?_ ?_ <;> first | (intro hb; clear_value b; refine Sound.hold ?_) | intro hb | (unfold b; clear b)) | ((first | (have h0 : Nat := b; clear h0) | (have h0 : Bool := b; clear h0) | (have h0 : BitVec _ := b; clear h0) | (have h0 : List _ := b; clear h0)); clear_value b) | (unfold b; clear b) | clear b)
    | with_reducible apply State.setCvUnit_sound
    | with_reducible apply perfEvent_sound
    | with_reducible apply raise_sound
    | split
    | exact Sound.update (by assumption)

theorem cvBegin_sound {org : State} (u : Nat) (entry : Nat) (s : State) (sk : Sound org s) : Sound org (cvBegin u entry s) := by
  unfold cvBegin
  repeat' first
    | with_reducible assumption
    | (extract_lets +onlyGivenNames b; first | (refine Sound.cut (Sound org b) ?_ ?_ <;> first | (intro hb; clear_value b; refine Sound.hold ?_) | intro hb | (unfold b; clear b)) | ((first | (have h0 : Nat := b; clear h0) | (have h0 : Bool := b; clear h0) | (have h0 : BitVec _ := b; clear h0) | (have h0 : List _ := b; clear h0)); clear_value b) | (unfold b; clear b) | clear b)
    | with_reducible apply State.setCvUnit_sound
    | with_reducible apply cvFinish_sound
    | split
    | exact Sound.update (by assumption)

theorem cvProgramEnd_sound {org : State} (u : Nat) (s : State) (sk : Sound org s) : Sound org (cvProgramEnd u s) := by
  unfold cvProgramEnd
  repeat' first
    | with_reducible assumption
    | (extract_lets +onlyGivenNames b; first | (refine Sound.cut (Sound org b) ?_ ?_ <;> first | (intro hb; clear_value b; refine Sound.hold ?_) | intro hb | (unfold b; clear b)) | (refine Sound.cut (Sound org b.1) ?_ ?_ <;> first | (intro hb; clear_value b; refine Sound.hold ?_) | intro hb | (unfold b; clear b)) | ((first | (have h0 : Nat := b; clear h0) | (have h0 : Bool := b; clear h0) | (have h0 : BitVec _ := b; clear h0) | (have h0 : List _ := b; clear h0)); clear_value b) | (unfold b; clear b) | clear b)
    | with_reducible apply runDescs_sound
    | with_reducible apply cvFinish_sound
    | with_reducible refine Sound.fst (by assumption) ?_
    | split
    | exact Sound.update (by assumption)
    | (refine Sound.update ?_; with_reducible refine Sound.fst (by assumption) ?_)

theorem cvAbortRun_sound {org : State} (u : Nat) (s : State) (sk : Sound org s) : Sound org (cvAbortRun u s) := by
  unfold cvAbortRun
  repeat' first
    | with_reducible assumption
    | (extract_lets +onlyGivenNames b; first | (refine Sound.cut (Sound org b) ?_ ?_ <;> first | (intro hb; clear_value b; refine Sound.hold ?_) | intro hb | (unfold b; clear b)) | (refine Sound.cut (Sound org b.1) ?_ ?_ <;> first | (intro hb; clear_value b; refine Sound.hold ?_) | intro hb | (unfold b; clear b)) | ((first | (have h0 : Nat := b; clear h0) | (have h0 : Bool := b; clear h0) | (have h0 : BitVec _ := b; clear h0) | (have h0 : List _ := b; clear h0)); clear_value b) | (unfold b; clear b) | clear b)
    | with_reducible apply State.draw_sound
    | with_reducible apply clearRest_sound
    | with_reducible apply runDescs_sound
    | with_reducible apply cvFinish_sound
    | with_reducible refine Sound.fst (by assumption) ?_
    | split
    | exact Sound.update (by assumption)
    | (refine Sound.update ?_; with_reducible refine Sound.fst (by assumption) ?_)

theorem cvCtrlBusy_sound {org : State} (src : Source) (u : Nat) (v : Word) (s : State) (sk : Sound org s) : Sound org (cvCtrlBusy src u v s) := by
  unfold cvCtrlBusy
  repeat' first
    | with_reducible assumption
    | (extract_lets +onlyGivenNames b; first | (refine Sound.cut (Sound org b) ?_ ?_ <;> first | (intro hb; clear_value b; refine Sound.hold ?_) | intro hb | (unfold b; clear b)) | ((first | (have h0 : Nat := b; clear h0) | (have h0 : Bool := b; clear h0) | (have h0 : BitVec _ := b; clear h0) | (have h0 : List _ := b; clear h0)); clear_value b) | (unfold b; clear b) | clear b)
    | with_reducible apply State.setReg_sound
    | with_reducible apply refuse_sound
    | with_reducible apply cvAbortRun_sound
    | split

theorem cvCtrl_sound {org : State} (src : Source) (u : Nat) (v : Word) (s : State) (sk : Sound org s) : Sound org (cvCtrl src u v s) := by
  unfold cvCtrl
  repeat' first
    | with_reducible assumption
    | with_reducible apply State.setReg_sound
    | with_reducible apply refuse_sound
    | with_reducible apply cvBegin_sound
    | with_reducible apply cvCtrlBusy_sound
    | split

theorem landCvStatus_sound {org : State} (u : Nat) (v : Word) (s : State) (sk : Sound org s) : Sound org (landCvStatus u v s) := by
  unfold landCvStatus
  repeat' first
    | with_reducible assumption
    | (extract_lets +onlyGivenNames b; first | (unfold b; clear b) | clear b)
    | with_reducible apply State.setCvUnit_sound
    | split
    | exact Sound.update (by assumption)

end Sys2Proof.Machine
end

