-- ==== Sys2Proof/Laws/KeepLanternCmds.lean ====
section
/-! SUPPORT. What the operations of LanternCmds keep. -/

set_option linter.all false

namespace Sys2Proof.Machine

theorem beginPace_sound {org : State} (l : Nat) (s : State) (sk : Sound org s) : Sound org (beginPace l s) := by
  unfold beginPace
  repeat' first
    | with_reducible assumption
    | (extract_lets +onlyGivenNames b; first | (refine Sound.cut (Sound org b) ?_ ?_ <;> first | (intro hb; clear_value b; refine Sound.hold ?_) | intro hb | (unfold b; clear b)) | ((first | (have h0 : Nat := b; clear h0) | (have h0 : Bool := b; clear h0) | (have h0 : BitVec _ := b; clear h0) | (have h0 : List _ := b; clear h0)); clear_value b) | (unfold b; clear b) | clear b)
    | with_reducible apply State.setLantern_sound
    | with_reducible apply toTick_sound
    | split
    | exact Sound.update (by assumption)

theorem freshBudget_sound {org : State} (l : Nat) (s : State) (sk : Sound org s) : Sound org (freshBudget l s) := by
  unfold freshBudget
  repeat' first
    | with_reducible assumption
    | (extract_lets +onlyGivenNames b; first | (refine Sound.cut (Sound org b) ?_ ?_ <;> first | (intro hb; clear_value b; refine Sound.hold ?_) | intro hb | (unfold b; clear b)) | ((first | (have h0 : Nat := b; clear h0) | (have h0 : Bool := b; clear h0) | (have h0 : BitVec _ := b; clear h0) | (have h0 : List _ := b; clear h0)); clear_value b) | (unfold b; clear b) | clear b)
    | with_reducible apply State.setLantern_sound
    | split
    | exact Sound.update (by assumption)

theorem advancePc_sound {org : State} (l : Nat) (s : State) (sk : Sound org s) : Sound org (advancePc l s) := by
  unfold advancePc
  repeat' first
    | with_reducible assumption
    | (extract_lets +onlyGivenNames b; first | (refine Sound.cut (Sound org b) ?_ ?_ <;> first | (intro hb; clear_value b; refine Sound.hold ?_) | intro hb | (unfold b; clear b)) | ((first | (have h0 : Nat := b; clear h0) | (have h0 : Bool := b; clear h0) | (have h0 : BitVec _ := b; clear h0) | (have h0 : List _ := b; clear h0)); clear_value b) | (unfold b; clear b) | clear b)
    | with_reducible apply State.setLantern_sound
    | with_reducible apply lanternFault_sound
    | split
    | exact Sound.update (by assumption)

theorem issue_sound {org : State} (l op : Nat) (body : Word → State → State) (s : State)
    (hop : ∀ w x, Sound org x → Sound org (body w x)) (sk : Sound org s) : Sound org (issue l op body s) := by
  unfold issue
  repeat' first
    | with_reducible assumption
    | (extract_lets +onlyGivenNames b; first | (refine Sound.cut (Sound org b) ?_ ?_ <;> first | (intro hb; clear_value b; refine Sound.hold ?_) | intro hb | (unfold b; clear b)) | (refine Sound.cut (Sound org b.1) ?_ ?_ <;> first | (intro hb; clear_value b; refine Sound.hold ?_) | intro hb | (unfold b; clear b)) | ((first | (have h0 : Nat := b; clear h0) | (have h0 : Bool := b; clear h0) | (have h0 : BitVec _ := b; clear h0) | (have h0 : List _ := b; clear h0)); clear_value b) | (unfold b; clear b) | clear b)
    | with_reducible apply hop
    | with_reducible apply State.setLantern_sound
    | with_reducible apply perfEvent_sound
    | with_reducible apply lanternFault_sound
    | with_reducible apply beginPace_sound
    | with_reducible apply freshBudget_sound
    | with_reducible refine Sound.fst (by assumption) ?_
    | ((with_reducible refine Sound.fold _ ?_ ?_) <;> try intro x a hb)
    | ((with_reducible refine Sound.foldP _ ?_ ?_) <;> try (intro x a hb; rcases x with ⟨x, xr⟩))
    | split
    | exact Sound.update (by assumption)
    | exact Sound.updateFa (by assumption)
    | exact Sound.updateIc (by assumption)
    | exact Sound.updateAon (by assumption)
    | (refine Sound.update ?_; with_reducible refine Sound.fst (by assumption) ?_)
    | exact hb.same rfl rfl rfl rfl rfl rfl rfl
    | exact sk.same rfl rfl rfl rfl rfl rfl rfl

theorem setLg_sound {org : State} (l : Nat) (r : Nat) (v : Word) (s : State) (sk : Sound org s) : Sound org (setLg l r v s) := by
  unfold setLg
  repeat' first
    | with_reducible assumption
    | (extract_lets +onlyGivenNames b; first | (unfold b; clear b) | clear b)
    | with_reducible apply State.setLantern_sound
    | exact Sound.update (by assumption)

theorem setFlag_sound {org : State} (l : Nat) (b : Bool) (s : State) (sk : Sound org s) : Sound org (setFlag l b s) := by
  unfold setFlag
  repeat' first
    | with_reducible assumption
    | (extract_lets +onlyGivenNames b; first | (unfold b; clear b) | clear b)
    | with_reducible apply State.setLantern_sound
    | exact Sound.update (by assumption)

theorem writeRd_sound {org : State} (l : Nat) (w : Word) (v : Word) (s : State) (sk : Sound org s) : Sound org (writeRd l w v s) := by
  unfold writeRd
  repeat' first
    | with_reducible assumption
    | with_reducible apply advancePc_sound
    | with_reducible apply setLg_sound

theorem beginWait_sound {org : State} (l : Nat) (wt : LWait) (hit : Option Nat) (s : State) (sk : Sound org s) : Sound org (beginWait l wt hit s) := by
  unfold beginWait
  repeat' first
    | with_reducible assumption
    | (extract_lets +onlyGivenNames b; first | (unfold b; clear b) | clear b)
    | with_reducible apply State.setLantern_sound
    | exact Sound.update (by assumption)

theorem endWait_sound {org : State} (l : Nat) (s : State) (sk : Sound org s) : Sound org (endWait l s) := by
  unfold endWait
  repeat' first
    | with_reducible assumption
    | (extract_lets +onlyGivenNames b; first | (unfold b; clear b) | clear b)
    | with_reducible apply State.setLantern_sound
    | with_reducible apply advancePc_sound
    | exact Sound.update (by assumption)

theorem haltIssue_sound {org : State} (l : Nat) (s : State) (sk : Sound org s) : Sound org (haltIssue l s) := by
  unfold haltIssue
  repeat' first
    | with_reducible assumption
    | with_reducible apply stopLantern_sound
    | with_reducible apply advancePc_sound

theorem jumpTo_sound {org : State} (l : Nat) (t : Nat) (s : State) (sk : Sound org s) : Sound org (jumpTo l t s) := by
  unfold jumpTo
  repeat' first
    | with_reducible assumption
    | (extract_lets +onlyGivenNames b; first | (unfold b; clear b) | clear b)
    | with_reducible apply State.setLantern_sound
    | exact Sound.update (by assumption)

theorem waitlIssue_sound {org : State} (l : Nat) (w : Word) (s : State) (sk : Sound org s) : Sound org (waitlIssue l w s) := by
  unfold waitlIssue
  repeat' first
    | with_reducible assumption
    | (extract_lets +onlyGivenNames b; first | (refine Sound.cut (Sound org b) ?_ ?_ <;> first | (intro hb; clear_value b; refine Sound.hold ?_) | intro hb | (unfold b; clear b)) | ((first | (have h0 : Nat := b; clear h0) | (have h0 : Bool := b; clear h0) | (have h0 : BitVec _ := b; clear h0) | (have h0 : List _ := b; clear h0)); clear_value b) | (unfold b; clear b) | clear b)
    | with_reducible apply lanternFault_sound
    | with_reducible apply beginWait_sound
    | split

theorem markAndGo_sound {org : State} (l : Nat) (at_ : Nat) (s : State) (sk : Sound org s) : Sound org (markAndGo l at_ s) := by
  unfold markAndGo
  repeat' first
    | with_reducible assumption
    | (extract_lets +onlyGivenNames b; first | (unfold b; clear b) | clear b)
    | with_reducible apply State.setLantern_sound
    | with_reducible apply endWait_sound
    | exact Sound.update (by assumption)

theorem waitlDone_sound {org : State} (l : Nat) (s : State) (sk : Sound org s) : Sound org (waitlDone l s) := by
  unfold waitlDone
  repeat' first
    | with_reducible assumption
    | (extract_lets +onlyGivenNames b; first | (unfold b; clear b) | clear b)
    | with_reducible apply markAndGo_sound
    | split
    | exact Sound.update (by assumption)

theorem waitpIssue_sound {org : State} (l : Nat) (w : Word) (s : State) (sk : Sound org s) : Sound org (waitpIssue l w s) := by
  unfold waitpIssue
  repeat' first
    | with_reducible assumption
    | (extract_lets +onlyGivenNames b; first | (refine Sound.cut (Sound org b) ?_ ?_ <;> first | (intro hb; clear_value b; refine Sound.hold ?_) | intro hb | (unfold b; clear b)) | ((first | (have h0 : Nat := b; clear h0) | (have h0 : Bool := b; clear h0) | (have h0 : BitVec _ := b; clear h0) | (have h0 : List _ := b; clear h0)); clear_value b) | (unfold b; clear b) | clear b)
    | with_reducible apply lanternFault_sound
    | with_reducible apply beginWait_sound
    | with_reducible apply markAndGo_sound
    | split

theorem waitpDone_sound {org : State} (l : Nat) (s : State) (sk : Sound org s) : Sound org (waitpDone l s) := by
  unfold waitpDone
  repeat' first
    | with_reducible assumption
    | (extract_lets +onlyGivenNames b; first | (unfold b; clear b) | clear b)
    | with_reducible apply toTick_sound
    | with_reducible apply markAndGo_sound
    | split
    | exact Sound.update (by assumption)

theorem waitfIssue_sound {org : State} (l : Nat) (w : Word) (s : State) (sk : Sound org s) : Sound org (waitfIssue l w s) := by
  unfold waitfIssue
  repeat' first
    | with_reducible assumption
    | (extract_lets +onlyGivenNames b; first | (refine Sound.cut (Sound org b) ?_ ?_ <;> first | (intro hb; clear_value b; refine Sound.hold ?_) | intro hb | (unfold b; clear b)) | ((first | (have h0 : Nat := b; clear h0) | (have h0 : Bool := b; clear h0) | (have h0 : BitVec _ := b; clear h0) | (have h0 : List _ := b; clear h0)); clear_value b) | (unfold b; clear b) | clear b)
    | with_reducible apply setFlag_sound
    | with_reducible apply beginWait_sound
    | with_reducible apply endWait_sound
    | split

theorem timedOut_sound {org : State} (l : Nat) (left : Nat) (s : State) (sk : Sound org s) : Sound org (timedOut l left s).1 := by
  unfold timedOut
  repeat' first
    | with_reducible assumption
    | with_reducible apply toTick_sound
    | split

theorem waitfDone_sound {org : State} (l : Nat) (s : State) (sk : Sound org s) : Sound org (waitfDone l s) := by
  unfold waitfDone
  repeat' first
    | with_reducible assumption
    | (extract_lets +onlyGivenNames b; first | (refine Sound.cut (Sound org b) ?_ ?_ <;> first | (intro hb; clear_value b; refine Sound.hold ?_) | intro hb | (unfold b; clear b)) | (refine Sound.cut (Sound org b.1) ?_ ?_ <;> first | (intro hb; clear_value b; refine Sound.hold ?_) | intro hb | (unfold b; clear b)) | ((first | (have h0 : Nat := b; clear h0) | (have h0 : Bool := b; clear h0) | (have h0 : BitVec _ := b; clear h0) | (have h0 : List _ := b; clear h0)); clear_value b) | (unfold b; clear b) | clear b)
    | with_reducible apply setFlag_sound
    | with_reducible apply endWait_sound
    | with_reducible apply timedOut_sound
    | with_reducible refine Sound.fst (by assumption) ?_
    | split
    | exact Sound.update (by assumption)
    | (refine Sound.update ?_; with_reducible refine Sound.fst (by assumption) ?_)

theorem countMiss_sound {org : State} (l : Nat) (s : State) (sk : Sound org s) : Sound org (countMiss l s) := by
  unfold countMiss
  repeat' first
    | with_reducible assumption
    | with_reducible apply State.bump_sound

theorem signalIssue_sound {org : State} (l : Nat) (w : Word) (s : State) (sk : Sound org s) : Sound org (signalIssue l w s) := by
  unfold signalIssue
  repeat' first
    | with_reducible assumption
    | with_reducible apply setFence_sound
    | with_reducible apply advancePc_sound
    | with_reducible apply setFlag_sound
    | with_reducible apply countMiss_sound
    | split

theorem latchIssue_sound {org : State} (n : Nat) (s : State) (sk : Sound org s) : Sound org (latchIssue n s) := by
  unfold latchIssue
  repeat' first
    | with_reducible assumption
    | (extract_lets +onlyGivenNames b; first | (refine Sound.cut (Sound org b) ?_ ?_ <;> first | (intro hb; clear_value b; refine Sound.hold ?_) | intro hb | (unfold b; clear b)) | ((first | (have h0 : Nat := b; clear h0) | (have h0 : Bool := b; clear h0) | (have h0 : BitVec _ := b; clear h0) | (have h0 : List _ := b; clear h0)); clear_value b) | (unfold b; clear b) | clear b)
    | with_reducible apply State.setHead_sound
    | with_reducible apply selectHead_sound
    | with_reducible apply advancePc_sound
    | split
    | exact Sound.update (by assumption)

theorem startUnit_sound {org : State} (u : Nat) (s : State) (sk : Sound org s) : Sound org (startUnit u s).1 := by
  unfold startUnit
  repeat' first
    | with_reducible assumption
    | with_reducible apply cvBegin_sound
    | with_reducible apply cvCtrl_sound
    | split

theorem stampIssue_sound {org : State} (l : Nat) (w : Word) (s : State) (sk : Sound org s) : Sound org (stampIssue l w s) := by
  unfold stampIssue
  repeat' first
    | with_reducible assumption
    | (extract_lets +onlyGivenNames b; first | (refine Sound.cut (Sound org b) ?_ ?_ <;> first | (intro hb; clear_value b; refine Sound.hold ?_) | intro hb | (unfold b; clear b)) | ((first | (have h0 : Nat := b; clear h0) | (have h0 : Bool := b; clear h0) | (have h0 : BitVec _ := b; clear h0) | (have h0 : List _ := b; clear h0)); clear_value b) | (unfold b; clear b) | clear b)
    | with_reducible apply State.setLantern_sound
    | with_reducible apply writeRd_sound
    | split
    | exact Sound.update (by assumption)

theorem syncIssue_sound {org : State} (l : Nat) (w : Word) (s : State) (sk : Sound org s) : Sound org (syncIssue l w s) := by
  unfold syncIssue
  repeat' first
    | with_reducible assumption
    | (extract_lets +onlyGivenNames b; first | (unfold b; clear b) | clear b)
    | with_reducible apply State.send_sound
    | with_reducible apply advancePc_sound
    | with_reducible apply setFlag_sound
    | with_reducible apply beginWait_sound
    | split
    | exact Sound.update (by assumption)

theorem relaySync_sound {org : State} (ch : Nat) (t : Nat) (s : State) (sk : Sound org s) : Sound org (relaySync ch t s) := by
  unfold relaySync
  repeat' first
    | with_reducible assumption
    | (extract_lets +onlyGivenNames b; first | (refine Sound.cut (Sound org b) ?_ ?_ <;> first | (intro hb; clear_value b; refine Sound.hold ?_) | intro hb | (unfold b; clear b)) | ((first | (have h0 : Nat := b; clear h0) | (have h0 : Bool := b; clear h0) | (have h0 : BitVec _ := b; clear h0) | (have h0 : List _ := b; clear h0)); clear_value b) | (unfold b; clear b) | clear b)
    | with_reducible apply State.send_sound
    | split
    | exact Sound.update (by assumption)

theorem syncMarker_sound {org : State} (l : Nat) (marker : Option Nat) (s : State) (sk : Sound org s) : Sound org (syncMarker l marker s) := by
  unfold syncMarker
  repeat' first
    | with_reducible assumption
    | (extract_lets +onlyGivenNames b; first | (refine Sound.cut (Sound org b) ?_ ?_ <;> first | (intro hb; clear_value b; refine Sound.hold ?_) | intro hb | (unfold b; clear b)) | (refine Sound.cut (Sound org b.1) ?_ ?_ <;> first | (intro hb; clear_value b; refine Sound.hold ?_) | intro hb | (unfold b; clear b)) | ((first | (have h0 : Nat := b; clear h0) | (have h0 : Bool := b; clear h0) | (have h0 : BitVec _ := b; clear h0) | (have h0 : List _ := b; clear h0)); clear_value b) | (unfold b; clear b) | clear b)
    | with_reducible apply State.setLantern_sound
    | with_reducible apply setFlag_sound
    | with_reducible apply endWait_sound
    | with_reducible apply timedOut_sound
    | with_reducible apply relaySync_sound
    | with_reducible refine Sound.fst (by assumption) ?_
    | split
    | exact Sound.update (by assumption)
    | (refine Sound.update ?_; with_reducible refine Sound.fst (by assumption) ?_)

theorem setFlareBank_sound {org : State} (l : Nat) (b : List FlareEntry) (s : State) (sk : Sound org s) : Sound org (setFlareBank l b s) := by
  unfold setFlareBank
  repeat' first
    | with_reducible assumption
    | (extract_lets +onlyGivenNames b; first | (unfold b; clear b) | clear b)
    | exact Sound.update (by assumption)

theorem drivePins_sound {org : State} (l : Nat) (mask : Word) (high : Bool) (s : State) (sk : Sound org s) : Sound org (drivePins l mask high s) := by
  unfold drivePins
  repeat' first
    | with_reducible assumption
    | (extract_lets +onlyGivenNames b; first | (refine Sound.cut (Sound org b) ?_ ?_ <;> first | (intro hb; clear_value b; refine Sound.hold ?_) | intro hb | (unfold b; clear b)) | ((first | (have h0 : Nat := b; clear h0) | (have h0 : Bool := b; clear h0) | (have h0 : BitVec _ := b; clear h0) | (have h0 : List _ := b; clear h0)); clear_value b) | (unfold b; clear b) | clear b)
    | split
    | exact Sound.update (by assumption)

theorem fireEntry_sound {org : State} (l : Nat) (e : FlareEntry) (rest : List FlareEntry) (s : State) (sk : Sound org s) : Sound org (fireEntry l e rest s) := by
  unfold fireEntry
  repeat' first
    | with_reducible assumption
    | (extract_lets +onlyGivenNames b; first | (refine Sound.cut (Sound org b) ?_ ?_ <;> first | (intro hb; clear_value b; refine Sound.hold ?_) | intro hb | (unfold b; clear b)) | (refine Sound.cut (Sound org b.1) ?_ ?_ <;> first | (intro hb; clear_value b; refine Sound.hold ?_) | intro hb | (unfold b; clear b)) | ((first | (have h0 : Nat := b; clear h0) | (have h0 : Bool := b; clear h0) | (have h0 : BitVec _ := b; clear h0) | (have h0 : List _ := b; clear h0)); clear_value b) | (unfold b; clear b) | clear b)
    | with_reducible apply perfEvent_sound
    | with_reducible apply raise_sound
    | with_reducible apply countMiss_sound
    | with_reducible apply startUnit_sound
    | with_reducible apply setFlareBank_sound
    | with_reducible apply drivePins_sound
    | with_reducible refine Sound.fst (by assumption) ?_
    | split
    | exact Sound.update (by assumption)
    | (refine Sound.update ?_; with_reducible refine Sound.fst (by assumption) ?_)

theorem fireUntil_sound {org : State} (l : Nat) (fall : Bool) (n : Nat) (s : State) (sk : Sound org s) : Sound org (fireUntil l fall n s) := by
  induction n generalizing s with
  | zero => exact sk
  | succ n ih =>
    unfold fireUntil
    repeat' first
      | with_reducible assumption
      | (extract_lets +onlyGivenNames b; first | (refine Sound.cut (Sound org b) ?_ ?_ <;> first | (intro hb; clear_value b; refine Sound.hold ?_) | intro hb | (unfold b; clear b)) | (refine Sound.cut (Sound org b.1) ?_ ?_ <;> first | (intro hb; clear_value b; refine Sound.hold ?_) | intro hb | (unfold b; clear b)) | ((first | (have h0 : Nat := b; clear h0) | (have h0 : Bool := b; clear h0) | (have h0 : BitVec _ := b; clear h0) | (have h0 : List _ := b; clear h0)); clear_value b) | (unfold b; clear b) | clear b)
      | with_reducible apply ih
      | with_reducible apply toTick_sound
      | with_reducible apply fireEntry_sound
      | with_reducible refine Sound.fst (by assumption) ?_
      | ((with_reducible refine Sound.fold _ ?_ ?_) <;> try intro x a hb)
      | ((with_reducible refine Sound.foldP _ ?_ ?_) <;> try (intro x a hb; rcases x with ⟨x, xr⟩))
      | split
      | exact Sound.update (by assumption)
      | exact Sound.updateFa (by assumption)
      | exact Sound.updateIc (by assumption)
      | exact Sound.updateAon (by assumption)
      | (refine Sound.update ?_; with_reducible refine Sound.fst (by assumption) ?_)
      | exact hb.same rfl rfl rfl rfl rfl rfl rfl
      | exact sk.same rfl rfl rfl rfl rfl rfl rfl

theorem flareFire_sound {org : State} (l : Nat) (s : State) (sk : Sound org s) : Sound org (flareFire l s) := by
  unfold flareFire
  repeat' first
    | with_reducible assumption
    | with_reducible apply fireUntil_sound
    | split

theorem pulseEnd_sound {org : State} (l : Nat) (s : State) (sk : Sound org s) : Sound org (pulseEnd l s) := by
  unfold pulseEnd
  repeat' first
    | with_reducible assumption
    | with_reducible apply fireUntil_sound
    | split

theorem enterBank_sound {org : State} (l : Nat) (e : FlareEntry) (s : State) (sk : Sound org s) : Sound org (enterBank l e s) := by
  unfold enterBank
  repeat' first
    | with_reducible assumption
    | (extract_lets +onlyGivenNames b; first | (refine Sound.cut (Sound org b) ?_ ?_ <;> first | (intro hb; clear_value b; refine Sound.hold ?_) | intro hb | (unfold b; clear b)) | ((first | (have h0 : Nat := b; clear h0) | (have h0 : Bool := b; clear h0) | (have h0 : BitVec _ := b; clear h0) | (have h0 : List _ := b; clear h0)); clear_value b) | (unfold b; clear b) | clear b)
    | with_reducible apply State.bump_sound
    | with_reducible apply perfEvent_sound
    | with_reducible apply setFlareBank_sound
    | with_reducible apply fireEntry_sound
    | split
    | exact Sound.update (by assumption)

theorem flareIssue_sound {org : State} (l : Nat) (w : Word) (s : State) (sk : Sound org s) : Sound org (flareIssue l w s) := by
  unfold flareIssue
  repeat' first
    | with_reducible assumption
    | (extract_lets +onlyGivenNames b; first | (refine Sound.cut (Sound org b) ?_ ?_ <;> first | (intro hb; clear_value b; refine Sound.hold ?_) | intro hb | (unfold b; clear b)) | ((first | (have h0 : Nat := b; clear h0) | (have h0 : Bool := b; clear h0) | (have h0 : BitVec _ := b; clear h0) | (have h0 : List _ := b; clear h0)); clear_value b) | (unfold b; clear b) | clear b)
    | with_reducible apply lanternFault_sound
    | with_reducible apply advancePc_sound
    | with_reducible apply enterBank_sound
    | split
    | exact Sound.update (by assumption)

theorem startFails_sound {org : State} (l : Nat) (pc : Nat) (bad : Option Nat) (s : State) (sk : Sound org s) : Sound org (startFails l pc bad s) := by
  unfold startFails
  repeat' first
    | with_reducible assumption
    | (extract_lets +onlyGivenNames b; first | (refine Sound.cut (Sound org b) ?_ ?_ <;> first | (intro hb; clear_value b; refine Sound.hold ?_) | intro hb | (unfold b; clear b)) | ((first | (have h0 : Nat := b; clear h0) | (have h0 : Bool := b; clear h0) | (have h0 : BitVec _ := b; clear h0) | (have h0 : List _ := b; clear h0)); clear_value b) | (unfold b; clear b) | clear b)
    | with_reducible apply State.setLantern_sound
    | split
    | exact Sound.update (by assumption)

theorem acceptStart_sound {org : State} (l : Nat) (entry : Nat) (len : Nat) (s : State) (sk : Sound org s) : Sound org (acceptStart l entry len s) := by
  unfold acceptStart
  repeat' first
    | with_reducible assumption
    | (extract_lets +onlyGivenNames b; first | (refine Sound.cut (Sound org b) ?_ ?_ <;> first | (intro hb; clear_value b; refine Sound.hold ?_) | intro hb | (unfold b; clear b)) | ((first | (have h0 : Nat := b; clear h0) | (have h0 : Bool := b; clear h0) | (have h0 : BitVec _ := b; clear h0) | (have h0 : List _ := b; clear h0)); clear_value b) | (unfold b; clear b) | clear b)
    | with_reducible apply State.setLantern_sound
    | with_reducible apply freshBudget_sound
    | split
    | exact Sound.update (by assumption)

theorem judgeStart_sound {org : State} (l : Nat) (s : State) (sk : Sound org s) : Sound org (judgeStart l s) := by
  unfold judgeStart
  repeat' first
    | with_reducible assumption
    | (extract_lets +onlyGivenNames b; first | (refine Sound.cut (Sound org b) ?_ ?_ <;> first | (intro hb; clear_value b; refine Sound.hold ?_) | intro hb | (unfold b; clear b)) | ((first | (have h0 : Nat := b; clear h0) | (have h0 : Bool := b; clear h0) | (have h0 : BitVec _ := b; clear h0) | (have h0 : List _ := b; clear h0)); clear_value b) | (unfold b; clear b) | clear b)
    | with_reducible apply startFails_sound
    | with_reducible apply acceptStart_sound
    | split
    | exact Sound.update (by assumption)

theorem storeLctrl_sound {org : State} (l : Nat) (v : Word) (s : State) (sk : Sound org s) : Sound org (storeLctrl l v s) := by
  unfold storeLctrl
  repeat' first
    | with_reducible assumption
    | with_reducible apply State.setReg_sound

theorem landLctrl_sound {org : State} (l : Nat) (v : Word) (isLocal : Bool) (s : State) (sk : Sound org s) : Sound org (landLctrl l v isLocal s) := by
  unfold landLctrl
  repeat' first
    | with_reducible assumption
    | (extract_lets +onlyGivenNames b; first | (refine Sound.cut (Sound org b) ?_ ?_ <;> first | (intro hb; clear_value b; refine Sound.hold ?_) | intro hb | (unfold b; clear b)) | ((first | (have h0 : Nat := b; clear h0) | (have h0 : Bool := b; clear h0) | (have h0 : BitVec _ := b; clear h0) | (have h0 : List _ := b; clear h0)); clear_value b) | (unfold b; clear b) | clear b)
    | with_reducible apply State.setLantern_sound
    | with_reducible apply stopLantern_sound
    | with_reducible apply judgeStart_sound
    | with_reducible apply storeLctrl_sound
    | split
    | exact Sound.update (by assumption)

end Sys2Proof.Machine
end

