-- ==== Sys2Proof/Laws/KeepIngressCmds.lean ====
section
/-! SUPPORT. What the operations of IngressCmds keep. -/

set_option linter.all false

namespace Sys2Proof.Machine

theorem bindRing_sound {org : State} (x : Nat) (s : State) (sk : Sound org s) : Sound org (bindRing x s) := by
  unfold bindRing
  repeat' first
    | with_reducible assumption
    | (extract_lets +onlyGivenNames b; first | (refine Sound.cut (Sound org b) ?_ ?_ <;> first | (intro hb; clear_value b; refine Sound.hold ?_) | intro hb | (unfold b; clear b)) | ((first | (have h0 : Nat := b; clear h0) | (have h0 : Bool := b; clear h0) | (have h0 : BitVec _ := b; clear h0) | (have h0 : List _ := b; clear h0)); clear_value b) | (unfold b; clear b) | clear b)
    | with_reducible apply State.setStream_sound
    | with_reducible apply requestPin_sound
    | with_reducible apply dropPin_sound
    | with_reducible apply rejudgeRing_sound
    | exact Sound.update (by assumption)

theorem applyStream_sound {org : State} (x : Nat) (s : State) (sk : Sound org s) : Sound org (applyStream x s) := by
  unfold applyStream
  repeat' first
    | with_reducible assumption
    | (extract_lets +onlyGivenNames b; first | (refine Sound.cut (Sound org b) ?_ ?_ <;> first | (intro hb; clear_value b; refine Sound.hold ?_) | intro hb | (unfold b; clear b)) | ((first | (have h0 : Nat := b; clear h0) | (have h0 : Bool := b; clear h0) | (have h0 : BitVec _ := b; clear h0) | (have h0 : List _ := b; clear h0)); clear_value b) | (unfold b; clear b) | clear b)
    | with_reducible apply State.setStream_sound
    | with_reducible apply overlay_sound
    | with_reducible apply bindRing_sound
    | split
    | exact Sound.update (by assumption)

theorem writeStream_sound {org : State} (x : Nat) (ws : List Wr) (s : State) (sk : Sound org s) : Sound org (writeStream x ws s) := by
  unfold writeStream
  repeat' first
    | with_reducible assumption
    | (extract_lets +onlyGivenNames b; first | (refine Sound.cut (Sound org b) ?_ ?_ <;> first | (intro hb; clear_value b; refine Sound.hold ?_) | intro hb | (unfold b; clear b)) | ((first | (have h0 : Nat := b; clear h0) | (have h0 : Bool := b; clear h0) | (have h0 : BitVec _ := b; clear h0) | (have h0 : List _ := b; clear h0)); clear_value b) | (unfold b; clear b) | clear b)
    | with_reducible apply State.setStream_sound
    | with_reducible apply applyStream_sound
    | split
    | exact Sound.update (by assumption)

theorem endFrame_sound {org : State} (x : Nat) (s : State) (sk : Sound org s) : Sound org (endFrame x s) := by
  unfold endFrame
  repeat' first
    | with_reducible assumption
    | (extract_lets +onlyGivenNames b; first | (refine Sound.cut (Sound org b) ?_ ?_ <;> first | (intro hb; clear_value b; refine Sound.hold ?_) | intro hb | (unfold b; clear b)) | ((first | (have h0 : Nat := b; clear h0) | (have h0 : Bool := b; clear h0) | (have h0 : BitVec _ := b; clear h0) | (have h0 : List _ := b; clear h0)); clear_value b) | (unfold b; clear b) | clear b)
    | with_reducible apply State.setStream_sound
    | with_reducible apply applyStream_sound
    | split
    | exact Sound.update (by assumption)

theorem startFrame_sound {org : State} (x : Nat) (s : State) (sk : Sound org s) : Sound org (startFrame x s) := by
  unfold startFrame
  repeat' first
    | with_reducible assumption
    | (extract_lets +onlyGivenNames b; first | (refine Sound.cut (Sound org b) ?_ ?_ <;> first | (intro hb; clear_value b; refine Sound.hold ?_) | intro hb | (unfold b; clear b)) | ((first | (have h0 : Nat := b; clear h0) | (have h0 : Bool := b; clear h0) | (have h0 : BitVec _ := b; clear h0) | (have h0 : List _ := b; clear h0)); clear_value b) | (unfold b; clear b) | clear b)
    | with_reducible apply State.setStream_sound
    | with_reducible apply perfEvent_sound
    | with_reducible apply lanternStream_sound
    | with_reducible apply retryPins_sound
    | with_reducible apply refEvent_sound
    | ((with_reducible refine Sound.fold _ ?_ ?_) <;> try intro x a hb)
    | split
    | exact Sound.update (by assumption)

theorem csiFs_sound {org : State} (p : Nat) (vc : Nat) (s : State) (sk : Sound org s) : Sound org (csiFs p vc s) := by
  unfold csiFs
  repeat' first
    | with_reducible assumption
    | (extract_lets +onlyGivenNames b; first | (refine Sound.cut (Sound org b) ?_ ?_ <;> first | (intro hb; clear_value b; refine Sound.hold ?_) | intro hb | (unfold b; clear b)) | ((first | (have h0 : Nat := b; clear h0) | (have h0 : Bool := b; clear h0) | (have h0 : BitVec _ := b; clear h0) | (have h0 : List _ := b; clear h0)); clear_value b) | (unfold b; clear b) | clear b)
    | with_reducible apply endFrame_sound
    | with_reducible apply startFrame_sound
    | ((with_reducible refine Sound.fold _ ?_ ?_) <;> try intro x a hb)
    | split

theorem csiFe_sound {org : State} (p : Nat) (vc : Nat) (s : State) (sk : Sound org s) : Sound org (csiFe p vc s) := by
  unfold csiFe
  repeat' first
    | with_reducible assumption
    | with_reducible apply endFrame_sound
    | ((with_reducible refine Sound.fold _ ?_ ?_) <;> try intro x a hb)
    | split

theorem countInput_sound {org : State} (x : Nat) (lo : Nat) (s : State) (sk : Sound org s) : Sound org (countInput x lo s) := by
  unfold countInput
  repeat' first
    | with_reducible assumption
    | with_reducible apply State.bump_sound
    | with_reducible apply raise_sound

theorem ringWrite_sound {org : State} (x : Nat) (ctx : Nat) (channel : Nat) (va : Nat) (l : List Byte) (s : State) (sk : Sound org s) : Sound org (ringWrite x ctx channel va l s) := by
  unfold ringWrite
  repeat' first
    | with_reducible assumption
    | (extract_lets +onlyGivenNames b; first | (unfold b; clear b) | clear b)
    | with_reducible apply State.bump_sound
    | with_reducible apply raise_sound
    | with_reducible apply serve_sound
    | with_reducible apply xlatFault_sound
    | with_reducible apply putBytes_sound
    | split
    | exact Sound.update (by assumption)

theorem writeLine_sound {org : State} (x : Nat) (l : List Byte) (s : State) (sk : Sound org s) : Sound org (writeLine x l s) := by
  unfold writeLine
  repeat' first
    | with_reducible assumption
    | (extract_lets +onlyGivenNames b; first | (refine Sound.cut (Sound org b) ?_ ?_ <;> first | (intro hb; clear_value b; refine Sound.hold ?_) | intro hb | (unfold b; clear b)) | ((first | (have h0 : Nat := b; clear h0) | (have h0 : Bool := b; clear h0) | (have h0 : BitVec _ := b; clear h0) | (have h0 : List _ := b; clear h0)); clear_value b) | (unfold b; clear b) | clear b)
    | with_reducible apply State.setStream_sound
    | with_reducible apply perfEvent_sound
    | with_reducible apply lanternStream_sound
    | with_reducible apply ringWrite_sound
    | ((with_reducible refine Sound.fold _ ?_ ?_) <;> try intro x a hb)
    | exact Sound.update (by assumption)

theorem dropLine_sound {org : State} (x : Nat) (s : State) (sk : Sound org s) : Sound org (dropLine x s) := by
  unfold dropLine
  repeat' first
    | with_reducible assumption
    | (extract_lets +onlyGivenNames b; first | (refine Sound.cut (Sound org b) ?_ ?_ <;> first | (intro hb; clear_value b; refine Sound.hold ?_) | intro hb | (unfold b; clear b)) | ((first | (have h0 : Nat := b; clear h0) | (have h0 : Bool := b; clear h0) | (have h0 : BitVec _ := b; clear h0) | (have h0 : List _ := b; clear h0)); clear_value b) | (unfold b; clear b) | clear b)
    | with_reducible apply State.bump_sound
    | with_reducible apply State.setStream_sound
    | with_reducible apply perfEvent_sound
    | with_reducible apply raise_sound
    | split
    | exact Sound.update (by assumption)

theorem takeLine_sound {org : State} (x : Nat) (payload : List Byte) (crcOk : Bool) (s : State) (sk : Sound org s) : Sound org (takeLine x payload crcOk s) := by
  unfold takeLine
  repeat' first
    | with_reducible assumption
    | (extract_lets +onlyGivenNames b; first | (refine Sound.cut (Sound org b) ?_ ?_ <;> first | (intro hb; clear_value b; refine Sound.hold ?_) | intro hb | (unfold b; clear b)) | ((first | (have h0 : Nat := b; clear h0) | (have h0 : Bool := b; clear h0) | (have h0 : BitVec _ := b; clear h0) | (have h0 : List _ := b; clear h0)); clear_value b) | (unfold b; clear b) | clear b)
    | with_reducible apply perfEvent_sound
    | with_reducible apply countInput_sound
    | with_reducible apply writeLine_sound
    | with_reducible apply dropLine_sound
    | split

theorem csiLongPacket_sound {org : State} (p : Nat) (vc : Nat) (dt : Nat) (payload : List Byte) (crcOk : Bool) (s : State) (sk : Sound org s) : Sound org (csiLongPacket p vc dt payload crcOk s) := by
  unfold csiLongPacket
  repeat' first
    | with_reducible assumption
    | (extract_lets +onlyGivenNames b; first | (unfold b; clear b) | clear b)
    | with_reducible apply takeLine_sound
    | split
    | exact Sound.update (by assumption)

theorem headerEccError_sound {org : State} (p : Nat) (s : State) (sk : Sound org s) : Sound org (headerEccError p s) := by
  unfold headerEccError
  repeat' first
    | with_reducible assumption
    | with_reducible apply State.bump_sound
    | with_reducible apply raise_sound
    | ((with_reducible refine Sound.fold _ ?_ ?_) <;> try intro x a hb)
    | split

theorem portLockGain_sound {org : State} (p : Nat) (gear : Nat) (rate : Nat) (s : State) (sk : Sound org s) : Sound org (portLockGain p gear rate s) := by
  unfold portLockGain
  repeat' first
    | with_reducible assumption
    | with_reducible apply State.setRx_sound
    | with_reducible apply raise_sound
    | split

theorem channelArrives_sound {org : State} (u : Nat) (p : Nat) (s : State) (sk : Sound org s) : Sound org (channelArrives u p s) := by
  unfold channelArrives
  repeat' first
    | with_reducible assumption
    | (extract_lets +onlyGivenNames b; first | (refine Sound.cut (Sound org b) ?_ ?_ <;> first | (intro hb; clear_value b; refine Sound.hold ?_) | intro hb | (unfold b; clear b)) | ((first | (have h0 : Nat := b; clear h0) | (have h0 : Bool := b; clear h0) | (have h0 : BitVec _ := b; clear h0) | (have h0 : List _ := b; clear h0)); clear_value b) | (unfold b; clear b) | clear b)
    | with_reducible apply State.setRx_sound
    | with_reducible apply portLockGain_sound
    | split
    | exact Sound.update (by assumption)

theorem loseLock_sound {org : State} (p : Nat) (s : State) (sk : Sound org s) : Sound org (loseLock p s) := by
  unfold loseLock
  repeat' first
    | with_reducible assumption
    | with_reducible apply State.setRx_sound
    | with_reducible apply raise_sound
    | with_reducible apply endFrame_sound
    | ((with_reducible refine Sound.fold _ ?_ ?_) <;> try intro x a hb)
    | split

theorem landPctrl_sound {org : State} (p : Nat) (on : Bool) (s : State) (sk : Sound org s) : Sound org (landPctrl p on s) := by
  unfold landPctrl
  repeat' first
    | with_reducible assumption
    | (extract_lets +onlyGivenNames b; first | (refine Sound.cut (Sound org b) ?_ ?_ <;> first | (intro hb; clear_value b; refine Sound.hold ?_) | intro hb | (unfold b; clear b)) | ((first | (have h0 : Nat := b; clear h0) | (have h0 : Bool := b; clear h0) | (have h0 : BitVec _ := b; clear h0) | (have h0 : List _ := b; clear h0)); clear_value b) | (unfold b; clear b) | clear b)
    | with_reducible apply State.setReg_sound
    | with_reducible apply loseLock_sound
    | split

end Sys2Proof.Machine
end

