-- ==== Sys2Proof/Laws/KeepOutputCmds.lean ====
section
/-! SUPPORT. What the operations of OutputCmds keep. -/

set_option linter.all false

namespace Sys2Proof.Machine

theorem linkEvent_sound {org : State} (q : Nat) (s : State) (sk : Sound org s) : Sound org (linkEvent q s) := by
  unfold linkEvent
  repeat' first
    | with_reducible assumption
    | with_reducible apply raise_sound
    | with_reducible apply noteFree_sound
    | ((with_reducible refine Sound.fold _ ?_ ?_) <;> try intro x a hb)

theorem setLink_sound {org : State} (q : Nat) (t : Nat) (x : LinkState) (rate : Nat) (s : State) (sk : Sound org s) : Sound org (setLink q t x rate s) := by
  unfold setLink
  repeat' first
    | with_reducible assumption
    | (extract_lets +onlyGivenNames b; first | (refine Sound.cut (Sound org b) ?_ ?_ <;> first | (intro hb; clear_value b; refine Sound.hold ?_) | intro hb | (unfold b; clear b)) | ((first | (have h0 : Nat := b; clear h0) | (have h0 : Bool := b; clear h0) | (have h0 : BitVec _ := b; clear h0) | (have h0 : List _ := b; clear h0)); clear_value b) | (unfold b; clear b) | clear b)
    | with_reducible apply State.setTxPort_sound
    | with_reducible apply State.setEgress_sound
    | with_reducible apply settleQuad_sound
    | with_reducible apply forgetQuad_sound
    | with_reducible apply linkEvent_sound
    | ((with_reducible refine Sound.fold _ ?_ ?_) <;> try intro x a hb)
    | split
    | exact Sound.update (by assumption)

theorem trainPort_sound {org : State} (q : Nat) (t : Nat) (rate : Nat) (s : State) (sk : Sound org s) : Sound org (trainPort q t rate s) := by
  unfold trainPort
  repeat' first
    | with_reducible assumption
    | (extract_lets +onlyGivenNames b; first | (refine Sound.cut (Sound org b) ?_ ?_ <;> first | (intro hb; clear_value b; refine Sound.hold ?_) | intro hb | (unfold b; clear b)) | ((first | (have h0 : Nat := b; clear h0) | (have h0 : Bool := b; clear h0) | (have h0 : BitVec _ := b; clear h0) | (have h0 : List _ := b; clear h0)); clear_value b) | (unfold b; clear b) | clear b)
    | with_reducible apply State.setTxPort_sound
    | with_reducible apply State.setLink_sound
    | with_reducible apply State.send_sound
    | with_reducible apply setLink_sound
    | split
    | exact Sound.update (by assumption)

theorem trainQuad_sound {org : State} (q : Nat) (rate : Nat) (s : State) (sk : Sound org s) : Sound org (trainQuad q rate s) := by
  unfold trainQuad
  repeat' first
    | with_reducible assumption
    | with_reducible apply trainPort_sound
    | ((with_reducible refine Sound.fold _ ?_ ?_) <;> try intro x a hb)

theorem retrainQuad_sound {org : State} (q : Nat) (rate : Nat) (s : State) (sk : Sound org s) : Sound org (retrainQuad q rate s) := by
  unfold retrainQuad
  repeat' first
    | with_reducible assumption
    | with_reducible apply trainPort_sound
    | ((with_reducible refine Sound.fold _ ?_ ?_) <;> try intro x a hb)

theorem landQctrlAt_sound {org : State} (q : Nat) (v : Word) (rate : Option Nat) (s : State) (sk : Sound org s) : Sound org (landQctrlAt q v rate s) := by
  unfold landQctrlAt
  repeat' first
    | with_reducible assumption
    | (extract_lets +onlyGivenNames b; first | (refine Sound.cut (Sound org b) ?_ ?_ <;> first | (intro hb; clear_value b; refine Sound.hold ?_) | intro hb | (unfold b; clear b)) | ((first | (have h0 : Nat := b; clear h0) | (have h0 : Bool := b; clear h0) | (have h0 : BitVec _ := b; clear h0) | (have h0 : List _ := b; clear h0)); clear_value b) | (unfold b; clear b) | clear b)
    | with_reducible apply State.setReg_sound
    | with_reducible apply State.setLink_sound
    | with_reducible apply settleQuad_sound
    | with_reducible apply setLink_sound
    | with_reducible apply trainQuad_sound
    | with_reducible apply retrainQuad_sound
    | ((with_reducible refine Sound.fold _ ?_ ?_) <;> try intro x a hb)
    | split

theorem landQctrl_sound {org : State} (q : Nat) (v : Word) (s : State) (sk : Sound org s) : Sound org (landQctrl q v s) := by
  unfold landQctrl
  repeat' first
    | with_reducible assumption
    | with_reducible apply landQctrlAt_sound

theorem quadUp_sound {org : State} (q : Nat) (rate : Nat) (s : State) (sk : Sound org s) : Sound org (quadUp q rate s) := by
  unfold quadUp
  repeat' first
    | with_reducible assumption
    | (extract_lets +onlyGivenNames b; first | (refine Sound.cut (Sound org b) ?_ ?_ <;> first | (intro hb; clear_value b; refine Sound.hold ?_) | intro hb | (unfold b; clear b)) | ((first | (have h0 : Nat := b; clear h0) | (have h0 : Bool := b; clear h0) | (have h0 : BitVec _ := b; clear h0) | (have h0 : List _ := b; clear h0)); clear_value b) | (unfold b; clear b) | clear b)
    | with_reducible apply State.setNor_sound
    | with_reducible apply writeLedger_sound
    | with_reducible apply State.setLedger_sound
    | split
    | exact Sound.update (by assumption)

theorem trainingComplete_sound {org : State} (q : Nat) (t : Nat) (rate : Option Nat) (s : State) (sk : Sound org s) : Sound org (trainingComplete q t rate s) := by
  unfold trainingComplete
  repeat' first
    | with_reducible assumption
    | (extract_lets +onlyGivenNames b; first | (unfold b; clear b) | clear b)
    | with_reducible apply State.setLink_sound
    | with_reducible apply setLink_sound
    | with_reducible apply quadUp_sound
    | split
    | exact Sound.update (by assumption)

theorem loseLink_sound {org : State} (q : Nat) (t : Nat) (s : State) (sk : Sound org s) : Sound org (loseLink q t s) := by
  unfold loseLink
  repeat' first
    | with_reducible assumption
    | (extract_lets +onlyGivenNames b; first | (refine Sound.cut (Sound org b) ?_ ?_ <;> first | (intro hb; clear_value b; refine Sound.hold ?_) | intro hb | (unfold b; clear b)) | ((first | (have h0 : Nat := b; clear h0) | (have h0 : Bool := b; clear h0) | (have h0 : BitVec _ := b; clear h0) | (have h0 : List _ := b; clear h0)); clear_value b) | (unfold b; clear b) | clear b)
    | with_reducible apply State.setTxPort_sound
    | with_reducible apply State.setLink_sound
    | with_reducible apply perfEvent_sound
    | with_reducible apply setLink_sound
    | with_reducible apply trainPort_sound
    | split
    | exact Sound.update (by assumption)

theorem hpdPlug_sound {org : State} (q : Nat) (t : Nat) (level : Bool) (s : State) (sk : Sound org s) : Sound org (hpdPlug q t level s) := by
  unfold hpdPlug
  repeat' first
    | with_reducible assumption
    | (extract_lets +onlyGivenNames b; first | (unfold b; clear b) | clear b)
    | with_reducible apply State.setTxPort_sound
    | with_reducible apply linkEvent_sound
    | split
    | exact Sound.update (by assumption)

theorem hpdIrq_sound {org : State} (q : Nat) (t : Nat) (fault : Bool) (s : State) (sk : Sound org s) : Sound org (hpdIrq q t fault s) := by
  unfold hpdIrq
  repeat' first
    | with_reducible assumption
    | (extract_lets +onlyGivenNames b; first | (refine Sound.cut (Sound org b) ?_ ?_ <;> first | (intro hb; clear_value b; refine Sound.hold ?_) | intro hb | (unfold b; clear b)) | ((first | (have h0 : Nat := b; clear h0) | (have h0 : Bool := b; clear h0) | (have h0 : BitVec _ := b; clear h0) | (have h0 : List _ := b; clear h0)); clear_value b) | (unfold b; clear b) | clear b)
    | with_reducible apply linkEvent_sound
    | with_reducible apply loseLink_sound
    | split

theorem setAuxData_sound {org : State} (q : Nat) (t : Nat) (l : List Byte) (s : State) (sk : Sound org s) : Sound org (setAuxData q t l s) := by
  unfold setAuxData
  repeat' first
    | with_reducible assumption
    | (extract_lets +onlyGivenNames b; first | (refine Sound.cut (Sound org b) ?_ ?_ <;> first | (intro hb; clear_value b; refine Sound.hold ?_) | intro hb | (unfold b; clear b)) | ((first | (have h0 : Nat := b; clear h0) | (have h0 : Bool := b; clear h0) | (have h0 : BitVec _ := b; clear h0) | (have h0 : List _ := b; clear h0)); clear_value b) | (unfold b; clear b) | clear b)
    | with_reducible apply State.setReg_sound
    | ((with_reducible refine Sound.fold _ ?_ ?_) <;> try intro x a hb)

theorem startAux_sound {org : State} (q : Nat) (t : Nat) (op : Nat) (lenM1 : Nat) (s : State) (sk : Sound org s) : Sound org (startAux q t op lenM1 s) := by
  unfold startAux
  repeat' first
    | with_reducible assumption
    | (extract_lets +onlyGivenNames b; first | (refine Sound.cut (Sound org b) ?_ ?_ <;> first | (intro hb; clear_value b; refine Sound.hold ?_) | intro hb | (unfold b; clear b)) | ((first | (have h0 : Nat := b; clear h0) | (have h0 : Bool := b; clear h0) | (have h0 : BitVec _ := b; clear h0) | (have h0 : List _ := b; clear h0)); clear_value b) | (unfold b; clear b) | clear b)
    | with_reducible apply State.setTxPort_sound
    | with_reducible apply State.send_sound
    | split
    | exact Sound.update (by assumption)

theorem auxComplete_sound {org : State} (q : Nat) (t : Nat) (result : Nat) (count : Nat) (bytes : List Byte) (s : State) (sk : Sound org s) : Sound org (auxComplete q t result count bytes s) := by
  unfold auxComplete
  repeat' first
    | with_reducible assumption
    | (extract_lets +onlyGivenNames b; first | (refine Sound.cut (Sound org b) ?_ ?_ <;> first | (intro hb; clear_value b; refine Sound.hold ?_) | intro hb | (unfold b; clear b)) | ((first | (have h0 : Nat := b; clear h0) | (have h0 : Bool := b; clear h0) | (have h0 : BitVec _ := b; clear h0) | (have h0 : List _ := b; clear h0)); clear_value b) | (unfold b; clear b) | clear b)
    | with_reducible apply State.setTxPort_sound
    | with_reducible apply setAuxData_sound
    | split
    | exact Sound.update (by assumption)

end Sys2Proof.Machine
end

