-- ==== Sys2Proof/Laws/KeepTxCmds.lean ====
section
/-! SUPPORT. What the operations of TxCmds keep. -/

set_option linter.all false

namespace Sys2Proof.Machine

theorem openTicket_sound {org : State} (src : Source) (t : Nat) (s : State) (sk : Sound org s) : Sound org (openTicket src t s) := by
  unfold openTicket
  repeat' first
    | with_reducible assumption
    | with_reducible apply State.setTicket_sound

theorem openTx_sound {org : State} (src : Source) (full : Bool) (s : State) (sk : Sound org s) : Sound org (openTx src full s) := by
  unfold openTx
  repeat' first
    | with_reducible assumption
    | (extract_lets +onlyGivenNames b; first | (unfold b; clear b) | clear b)
    | with_reducible apply State.answer_sound
    | with_reducible apply openTicket_sound
    | split
    | exact Sound.update (by assumption)

theorem enterDraft_sound {org : State} (t : Nat) (w : Wr) (s : State) (sk : Sound org s) : Sound org (enterDraft t w s) := by
  unfold enterDraft
  repeat' first
    | with_reducible assumption
    | (extract_lets +onlyGivenNames b; first | (refine Sound.cut (Sound org b) ?_ ?_ <;> first | (intro hb; clear_value b; refine Sound.hold ?_) | intro hb | (unfold b; clear b)) | ((first | (have h0 : Nat := b; clear h0) | (have h0 : Bool := b; clear h0) | (have h0 : BitVec _ := b; clear h0) | (have h0 : List _ := b; clear h0)); clear_value b) | (unfold b; clear b) | clear b)
    | with_reducible apply State.setTicket_sound
    | split
    | exact Sound.update (by assumption)

theorem takeCommit_sound {org : State} (src : Source) (t : Nat) (mask : BitVec 16) (answer : Option Msg) (s : State) (sk : Sound org s) : Sound org (takeCommit src t mask answer s) := by
  unfold takeCommit
  repeat' first
    | with_reducible assumption
    | (extract_lets +onlyGivenNames b; first | (unfold b; clear b) | clear b)
    | with_reducible apply State.setTicket_sound
    | with_reducible apply State.answer_sound
    | exact Sound.update (by assumption)

theorem commit_sound {org : State} (src : Source) (t : Nat) (mask : BitVec 16) (s : State) (sk : Sound org s) : Sound org (commit src t mask s) := by
  unfold commit
  repeat' first
    | with_reducible assumption
    | (extract_lets +onlyGivenNames b; first | (unfold b; clear b) | clear b)
    | with_reducible apply refuse_sound
    | with_reducible apply takeCommit_sound
    | split
    | exact Sound.update (by assumption)

theorem freeTicket_sound {org : State} (t : Nat) (s : State) (sk : Sound org s) : Sound org (freeTicket t s) := by
  unfold freeTicket
  repeat' first
    | with_reducible assumption
    | with_reducible apply State.setTicket_sound

theorem rollback_sound {org : State} (src : Source) (t : Nat) (s : State) (sk : Sound org s) : Sound org (rollback src t s) := by
  unfold rollback
  repeat' first
    | with_reducible assumption
    | (extract_lets +onlyGivenNames b; first | (unfold b; clear b) | clear b)
    | with_reducible apply refuse_sound
    | with_reducible apply freeTicket_sound
    | split
    | exact Sound.update (by assumption)

theorem rollTicket_sound {org : State} (t : Nat) (detail : Nat) (s : State) (sk : Sound org s) : Sound org (rollTicket t detail s) := by
  unfold rollTicket
  repeat' first
    | with_reducible assumption
    | (extract_lets +onlyGivenNames b; first | (unfold b; clear b) | clear b)
    | with_reducible apply State.setTicket_sound
    | with_reducible apply raise_sound
    | with_reducible apply noteFinal_sound
    | split
    | exact Sound.update (by assumption)

theorem ticketTimeout_sound {org : State} (t : Nat) (s : State) (sk : Sound org s) : Sound org (ticketTimeout t s) := by
  unfold ticketTimeout
  repeat' first
    | with_reducible assumption
    | (extract_lets +onlyGivenNames b; first | (refine Sound.cut (Sound org b) ?_ ?_ <;> first | (intro hb; clear_value b; refine Sound.hold ?_) | intro hb | (unfold b; clear b)) | ((first | (have h0 : Nat := b; clear h0) | (have h0 : Bool := b; clear h0) | (have h0 : BitVec _ := b; clear h0) | (have h0 : List _ := b; clear h0)); clear_value b) | (unfold b; clear b) | clear b)
    | with_reducible apply toTick_sound
    | with_reducible apply rollTicket_sound
    | split
    | exact Sound.update (by assumption)

theorem loseHolder_sound {org : State} (code : Nat) (s : State) (sk : Sound org s) : Sound org (loseHolder code s) := by
  unfold loseHolder
  repeat' first
    | with_reducible assumption
    | with_reducible apply rollTicket_sound
    | ((with_reducible refine Sound.fold _ ?_ ?_) <;> try intro x a hb)

theorem project_sound {org : State} (ws : List Wr) (s : State) (sk : Sound org s) : Sound org (project ws s) := by
  unfold project
  repeat' first
    | with_reducible assumption
    | (extract_lets +onlyGivenNames b; first | (unfold b; clear b) | clear b)
    | with_reducible apply State.setHead_sound
    | with_reducible apply overlay_sound
    | ((with_reducible refine Sound.fold _ ?_ ?_) <;> try intro x a hb)
    | split
    | exact Sound.update (by assumption)

theorem projected_sound {org : State} (s : State) (sk : Sound org s) : Sound org (projected s) := by
  unfold projected
  repeat' first
    | with_reducible assumption
    | with_reducible apply project_sound
    | ((with_reducible refine Sound.fold _ ?_ ?_) <;> try intro x a hb)

theorem projectSwitch_sound {org : State} (s : State) (dst : Nat) (p : State) (sk : Sound org p) : Sound org (projectSwitch s dst p) := by
  unfold projectSwitch
  repeat' first
    | with_reducible assumption
    | with_reducible apply project_sound

theorem projectCommit_sound {org : State} (s : State) (ws : List Wr) (sk : Sound org s) : Sound org (projectCommit s ws) := by
  unfold projectCommit
  repeat' first
    | with_reducible assumption
    | (extract_lets +onlyGivenNames b; first | (refine Sound.cut (Sound org b) ?_ ?_ <;> first | (intro hb; clear_value b; refine Sound.hold ?_) | intro hb | (unfold b; clear b)) | ((first | (have h0 : Nat := b; clear h0) | (have h0 : Bool := b; clear h0) | (have h0 : BitVec _ := b; clear h0) | (have h0 : List _ := b; clear h0)); clear_value b) | (unfold b; clear b) | clear b)
    | with_reducible apply project_sound
    | with_reducible apply projected_sound
    | with_reducible apply projectSwitch_sound
    | split
    | exact Sound.update (by assumption)

theorem acceptSwitch_sound {org : State} (dst : Nat) (spire : Bool) (ticket : Option Nat) (s : State) (sk : Sound org s) : Sound org (acceptSwitch dst spire ticket s) := by
  unfold acceptSwitch
  repeat' first
    | with_reducible assumption
    | (extract_lets +onlyGivenNames b; first | (refine Sound.cut (Sound org b) ?_ ?_ <;> first | (intro hb; clear_value b; refine Sound.hold ?_) | intro hb | (unfold b; clear b)) | ((first | (have h0 : Nat := b; clear h0) | (have h0 : Bool := b; clear h0) | (have h0 : BitVec _ := b; clear h0) | (have h0 : List _ := b; clear h0)); clear_value b) | (unfold b; clear b) | clear b)
    | with_reducible apply State.setBank_sound
    | split
    | exact Sound.update (by assumption)

theorem settleSwitch_sound {org : State} (s : State) (sk : Sound org s) : Sound org (settleSwitch s) := by
  unfold settleSwitch
  repeat' first
    | with_reducible assumption
    | (extract_lets +onlyGivenNames b; first | (unfold b; clear b) | clear b)
    | with_reducible apply completeSwitch_sound
    | split
    | exact Sound.update (by assumption)

theorem hideIdle_sound {org : State} (moves : List (Nat × Nat)) (s : State) (sk : Sound org s) : Sound org (hideIdle moves s) := by
  unfold hideIdle
  repeat' first
    | with_reducible assumption
    | (extract_lets +onlyGivenNames b; first | (refine Sound.cut (Sound org b) ?_ ?_ <;> first | (intro hb; clear_value b; refine Sound.hold ?_) | intro hb | (unfold b; clear b)) | (refine Sound.cut (Sound org b.1) ?_ ?_ <;> first | (intro hb; clear_value b; refine Sound.hold ?_) | intro hb | (unfold b; clear b)) | ((first | (have h0 : Nat := b; clear h0) | (have h0 : Bool := b; clear h0) | (have h0 : BitVec _ := b; clear h0) | (have h0 : List _ := b; clear h0)); clear_value b) | (unfold b; clear b) | clear b)
    | ((with_reducible refine Sound.setLayerOf ?_ _ _ ?_) <;> try (intro hq; first | exact (hb.queue hq).1 _ | exact (sk.queue hq).1 _ | exact Nat.zero_le _ | exact Nat.le_trans (List.length_filter_le _ _) ((hb.queue hq).1 _) | exact Nat.le_trans (List.length_filter_le _ _) ((sk.queue hq).1 _)))
    | with_reducible refine Sound.fst (by assumption) ?_
    | ((with_reducible refine Sound.fold _ ?_ ?_) <;> try intro x a hb)
    | ((with_reducible refine Sound.foldP _ ?_ ?_) <;> try (intro x a hb; rcases x with ⟨x, xr⟩))
    | split
    | exact Sound.update (by assumption)
    | exact Sound.updateFa (by assumption)
    | exact Sound.updateIc (by assumption)
    | exact Sound.updateAon (by assumption)
    | (refine Sound.update ?_; with_reducible refine Sound.fst (by assumption) ?_)
    | exact hb.same rfl rfl rfl rfl rfl rfl rfl
    | exact sk.same rfl rfl rfl rfl rfl rfl rfl

theorem spreadUnits_sound {org : State} (t : Nat) (units : List Nat) (s : State) (sk : Sound org s) : Sound org (spreadUnits t units s) := by
  unfold spreadUnits
  repeat' first
    | with_reducible assumption
    | (extract_lets +onlyGivenNames b; first | (unfold b; clear b) | clear b)
    | with_reducible apply State.setTicket_sound
    | ((with_reducible refine Sound.fold _ ?_ ?_) <;> try intro x a hb)
    | exact Sound.update (by assumption)

theorem applyIdle_sound {org : State} (t : Nat) (s : State) (sk : Sound org s) : Sound org (applyIdle t s) := by
  unfold applyIdle
  repeat' first
    | with_reducible assumption
    | with_reducible apply flushRecs_sound
    | with_reducible apply applySwitch_sound
    | with_reducible apply applyShare_sound
    | ((with_reducible refine Sound.fold _ ?_ ?_) <;> try intro x a hb)
    | split

theorem acceptTicket_sound {org : State} (t : Nat) (s : State) (sk : Sound org s) : Sound org (acceptTicket t s) := by
  unfold acceptTicket
  repeat' first
    | with_reducible assumption
    | (extract_lets +onlyGivenNames b; first | (refine Sound.cut (Sound org b) ?_ ?_ <;> first | (intro hb; clear_value b; refine Sound.hold ?_) | intro hb | (unfold b; clear b)) | ((first | (have h0 : Nat := b; clear h0) | (have h0 : Bool := b; clear h0) | (have h0 : BitVec _ := b; clear h0) | (have h0 : List _ := b; clear h0)); clear_value b) | (unfold b; clear b) | clear b)
    | with_reducible apply State.setTicket_sound
    | with_reducible apply State.answer_sound
    | with_reducible apply raise_sound
    | with_reducible apply noteFinal_sound
    | with_reducible apply finishTicket_sound
    | with_reducible apply pinSurfaces_sound
    | with_reducible apply acceptSwitch_sound
    | with_reducible apply settleSwitch_sound
    | with_reducible apply hideIdle_sound
    | with_reducible apply spreadUnits_sound
    | with_reducible apply applyIdle_sound
    | ((with_reducible refine Sound.fold _ ?_ ?_) <;> try intro x a hb)
    | split
    | exact Sound.update (by assumption)

theorem rejectTicket_sound {org : State} (t : Nat) (code : Nat) (detail : Nat) (s : State) (sk : Sound org s) : Sound org (rejectTicket t code detail s) := by
  unfold rejectTicket
  repeat' first
    | with_reducible assumption
    | (extract_lets +onlyGivenNames b; first | (unfold b; clear b) | clear b)
    | with_reducible apply State.setTicket_sound
    | with_reducible apply State.answer_sound
    | with_reducible apply raise_sound
    | with_reducible apply noteFinal_sound
    | exact Sound.update (by assumption)

theorem verifyTicket_sound {org : State} (t : Nat) (s : State) (sk : Sound org s) : Sound org (verifyTicket t s) := by
  unfold verifyTicket
  repeat' first
    | with_reducible assumption
    | (extract_lets +onlyGivenNames b; first | (refine Sound.cut (Sound org b) ?_ ?_ <;> first | (intro hb; clear_value b; refine Sound.hold ?_) | intro hb | (unfold b; clear b)) | ((first | (have h0 : Nat := b; clear h0) | (have h0 : Bool := b; clear h0) | (have h0 : BitVec _ := b; clear h0) | (have h0 : List _ := b; clear h0)); clear_value b) | (unfold b; clear b) | clear b)
    | with_reducible apply advanceGroups_sound
    | with_reducible apply acceptTicket_sound
    | with_reducible apply rejectTicket_sound
    | split
    | exact Sound.update (by assumption)

theorem mcSwitch_sound {org t : State} {dst : Nat} {s : State} (e : mcSwitch dst s = some t) (sk : Sound org s) : Sound org t := by
  unfold mcSwitch at e
  extract_lets mask at e
  split at e
  · cases e
  · split at e
    · cases e
    · cases e
      repeat' first
        | with_reducible assumption
        | (extract_lets +onlyGivenNames b; first | (refine Sound.cut (Sound org b) ?_ ?_ <;> first | (intro hb; clear_value b; refine Sound.hold ?_) | intro hb | (unfold b; clear b)) | (refine Sound.cut (Sound org b.1) ?_ ?_ <;> first | (intro hb; clear_value b; refine Sound.hold ?_) | intro hb | (unfold b; clear b)) | ((first | (have h0 : Nat := b; clear h0) | (have h0 : Bool := b; clear h0) | (have h0 : BitVec _ := b; clear h0) | (have h0 : List _ := b; clear h0)); clear_value b) | (unfold b; clear b) | clear b)
        | with_reducible apply flushRecs_sound
        | with_reducible apply applySwitch_sound
        | with_reducible apply projected_sound
        | with_reducible apply projectSwitch_sound
        | with_reducible apply acceptSwitch_sound
        | with_reducible apply settleSwitch_sound
        | with_reducible refine Sound.fst (by assumption) ?_
        | ((with_reducible refine Sound.fold _ ?_ ?_) <;> try intro x a hb)
        | ((with_reducible refine Sound.foldP _ ?_ ?_) <;> try (intro x a hb; rcases x with ⟨x, xr⟩))
        | split
        | exact Sound.update (by assumption)
        | exact Sound.updateFa (by assumption)
        | exact Sound.updateIc (by assumption)
        | exact Sound.updateAon (by assumption)
        | (refine Sound.update ?_; with_reducible refine Sound.fst (by assumption) ?_)
        | exact hb.same rfl rfl rfl rfl rfl rfl rfl
        | exact sk.same rfl rfl rfl rfl rfl rfl rfl

end Sys2Proof.Machine
end

