-- ==== Sys2Proof/Laws/KeepBlitCmds.lean ====
section
/-! SUPPORT. What the operations of BlitCmds keep. -/

set_option linter.all false

namespace Sys2Proof.Machine

theorem writeRanges_sound {org : State} (req ctx : Nat) (ls : List (Nat × List Byte)) (s : State) (sk : Sound org s) : Sound org (writeRanges req ctx ls s).1 := by
  induction ls generalizing s with
  | nil => exact sk
  | cons a l ih =>
    unfold writeRanges
    repeat' first
      | with_reducible assumption
      | (extract_lets +onlyGivenNames b; first | (refine Sound.cut (Sound org b) ?_ ?_ <;> first | (intro hb; clear_value b; refine Sound.hold ?_) | intro hb | (unfold b; clear b)) | (refine Sound.cut (Sound org b.1) ?_ ?_ <;> first | (intro hb; clear_value b; refine Sound.hold ?_) | intro hb | (unfold b; clear b)) | ((first | (have h0 : Nat := b; clear h0) | (have h0 : Bool := b; clear h0) | (have h0 : BitVec _ := b; clear h0) | (have h0 : List _ := b; clear h0)); clear_value b) | (unfold b; clear b) | clear b)
      | with_reducible apply ih
      | with_reducible apply writeRange_sound
      | with_reducible refine Sound.fst (by assumption) ?_
      | ((with_reducible refine Sound.fold _ ?_ ?_) <;> try intro x a hb)
      | ((with_reducible refine Sound.foldP _ ?_ ?_) <;> try (intro x a hb; rcases x with ⟨x, xr⟩))
      | split
      | exact Sound.update (by assumption)
      | exact Sound.updateFa (by assumption)
      | exact Sound.updateIc (by assumption)
      | exact Sound.updateAon (by assumption)
      | (refine Sound.update ?_; with_reducible refine Sound.fst (by assumption) ?_)
      | exact hb.same rfl rfl rfl rfl rfl rfl rfl
      | exact sk.same rfl rfl rfl rfl rfl rfl rfl

theorem copyRanges_sound {org : State} (req ctx : Nat) (ls : List ((Nat × Nat) × (Nat × Nat))) (s : State) (sk : Sound org s) : Sound org (copyRanges req ctx ls s).1 := by
  induction ls generalizing s with
  | nil => exact sk
  | cons a l ih =>
    unfold copyRanges
    repeat' first
      | with_reducible assumption
      | (extract_lets +onlyGivenNames b; first | (refine Sound.cut (Sound org b) ?_ ?_ <;> first | (intro hb; clear_value b; refine Sound.hold ?_) | intro hb | (unfold b; clear b)) | (refine Sound.cut (Sound org b.1) ?_ ?_ <;> first | (intro hb; clear_value b; refine Sound.hold ?_) | intro hb | (unfold b; clear b)) | ((first | (have h0 : Nat := b; clear h0) | (have h0 : Bool := b; clear h0) | (have h0 : BitVec _ := b; clear h0) | (have h0 : List _ := b; clear h0)); clear_value b) | (unfold b; clear b) | clear b)
      | with_reducible apply ih
      | with_reducible apply readRange_sound
      | with_reducible apply writeRange_sound
      | with_reducible refine Sound.fst (by assumption) ?_
      | ((with_reducible refine Sound.fold _ ?_ ?_) <;> try intro x a hb)
      | ((with_reducible refine Sound.foldP _ ?_ ?_) <;> try (intro x a hb; rcases x with ⟨x, xr⟩))
      | split
      | exact Sound.update (by assumption)
      | exact Sound.updateFa (by assumption)
      | exact Sound.updateIc (by assumption)
      | exact Sound.updateAon (by assumption)
      | (refine Sound.update ?_; with_reducible refine Sound.fst (by assumption) ?_)
      | exact hb.same rfl rfl rfl rfl rfl rfl rfl
      | exact sk.same rfl rfl rfl rfl rfl rfl rfl

theorem readUnder_sound {org : State} (req : Nat) (c : BlitCmd) (i : Nat) (s : State) (sk : Sound org s) : Sound org (readUnder req c i s).1 := by
  unfold readUnder
  repeat' first
    | with_reducible assumption
    | (extract_lets +onlyGivenNames b; first | (unfold b; clear b) | clear b)
    | with_reducible apply readRange_sound
    | with_reducible refine Sound.fst (by assumption) ?_
    | split
    | exact Sound.update (by assumption)
    | (refine Sound.update ?_; with_reducible refine Sound.fst (by assumption) ?_)

theorem computeLine_sound {org : State} (req : Nat) (c : BlitCmd) (i : Nat) (s : State) (sk : Sound org s) : Sound org (computeLine req c i s).1 := by
  unfold computeLine
  repeat' first
    | with_reducible assumption
    | (extract_lets +onlyGivenNames b; first | (refine Sound.cut (Sound org b) ?_ ?_ <;> first | (intro hb; clear_value b; refine Sound.hold ?_) | intro hb | (unfold b; clear b)) | (refine Sound.cut (Sound org b.1) ?_ ?_ <;> first | (intro hb; clear_value b; refine Sound.hold ?_) | intro hb | (unfold b; clear b)) | ((first | (have h0 : Nat := b; clear h0) | (have h0 : Bool := b; clear h0) | (have h0 : BitVec _ := b; clear h0) | (have h0 : List _ := b; clear h0)); clear_value b) | (unfold b; clear b) | clear b)
    | with_reducible apply readRange_sound
    | with_reducible apply writeRanges_sound
    | with_reducible apply readUnder_sound
    | with_reducible refine Sound.fst (by assumption) ?_
    | split
    | exact Sound.update (by assumption)
    | (refine Sound.update ?_; with_reducible refine Sound.fst (by assumption) ?_)

theorem blitLine_sound {org : State} (req : Nat) (c : BlitCmd) (i : Nat) (s : State) (sk : Sound org s) : Sound org (blitLine req c i s).1 := by
  unfold blitLine
  repeat' first
    | with_reducible assumption
    | (extract_lets +onlyGivenNames b; first | (unfold b; clear b) | clear b)
    | with_reducible apply writeRanges_sound
    | with_reducible apply copyRanges_sound
    | with_reducible apply computeLine_sound
    | with_reducible refine Sound.fst (by assumption) ?_
    | split
    | exact Sound.update (by assumption)
    | (refine Sound.update ?_; with_reducible refine Sound.fst (by assumption) ?_)

theorem blitLines_sound {org : State} (req : Nat) (c : BlitCmd) (ls : List Nat) (s : State) (sk : Sound org s) : Sound org (blitLines req c ls s).1 := by
  induction ls generalizing s with
  | nil => exact sk
  | cons a l ih =>
    unfold blitLines
    repeat' first
      | with_reducible assumption
      | (extract_lets +onlyGivenNames b; first | (refine Sound.cut (Sound org b) ?_ ?_ <;> first | (intro hb; clear_value b; refine Sound.hold ?_) | intro hb | (unfold b; clear b)) | (refine Sound.cut (Sound org b.1) ?_ ?_ <;> first | (intro hb; clear_value b; refine Sound.hold ?_) | intro hb | (unfold b; clear b)) | ((first | (have h0 : Nat := b; clear h0) | (have h0 : Bool := b; clear h0) | (have h0 : BitVec _ := b; clear h0) | (have h0 : List _ := b; clear h0)); clear_value b) | (unfold b; clear b) | clear b)
      | with_reducible apply ih
      | with_reducible apply blitLine_sound
      | with_reducible refine Sound.fst (by assumption) ?_
      | ((with_reducible refine Sound.fold _ ?_ ?_) <;> try intro x a hb)
      | ((with_reducible refine Sound.foldP _ ?_ ?_) <;> try (intro x a hb; rcases x with ⟨x, xr⟩))
      | split
      | exact Sound.update (by assumption)
      | exact Sound.updateFa (by assumption)
      | exact Sound.updateIc (by assumption)
      | exact Sound.updateAon (by assumption)
      | (refine Sound.update ?_; with_reducible refine Sound.fst (by assumption) ?_)
      | exact hb.same rfl rfl rfl rfl rfl rfl rfl
      | exact sk.same rfl rfl rfl rfl rfl rfl rfl

theorem scramble_sound {org : State} (req : Nat) (l : List (Nat × Nat)) (s : State) (sk : Sound org s) : Sound org (scramble req l s) := by
  unfold scramble
  repeat' first
    | with_reducible assumption
    | with_reducible apply State.draw_sound
    | with_reducible apply putBytes_sound
    | ((with_reducible refine Sound.fold _ ?_ ?_) <;> try intro x a hb)

theorem writeRecord_sound {org : State} (e : Nat) (c : BlitCmd) (result : Nat) (lines : Nat) (s : State) (sk : Sound org s) : Sound org (writeRecord e c result lines s) := by
  unfold writeRecord
  repeat' first
    | with_reducible assumption
    | (extract_lets +onlyGivenNames b; first | (refine Sound.cut (Sound org b) ?_ ?_ <;> first | (intro hb; clear_value b; refine Sound.hold ?_) | intro hb | (unfold b; clear b)) | (refine Sound.cut (Sound org b.1) ?_ ?_ <;> first | (intro hb; clear_value b; refine Sound.hold ?_) | intro hb | (unfold b; clear b)) | ((first | (have h0 : Nat := b; clear h0) | (have h0 : Bool := b; clear h0) | (have h0 : BitVec _ := b; clear h0) | (have h0 : List _ := b; clear h0)); clear_value b) | (unfold b; clear b) | clear b)
    | with_reducible apply State.setShare_sound
    | with_reducible apply State.sendTlp_sound
    | with_reducible refine Sound.fst (by assumption) ?_
    | ((with_reducible refine Sound.fold _ ?_ ?_) <;> try intro x a hb)
    | ((with_reducible refine Sound.foldP _ ?_ ?_) <;> try (intro x a hb; rcases x with ⟨x, xr⟩))
    | split
    | exact Sound.update (by assumption)
    | exact Sound.updateFa (by assumption)
    | exact Sound.updateIc (by assumption)
    | exact Sound.updateAon (by assumption)
    | (refine Sound.update ?_; with_reducible refine Sound.fst (by assumption) ?_)
    | exact hb.same rfl rfl rfl rfl rfl rfl rfl
    | exact sk.same rfl rfl rfl rfl rfl rfl rfl

theorem endCommand_sound {org : State} (e : Nat) (c : BlitCmd) (result : Nat) (s : State) (sk : Sound org s) : Sound org (endCommand e c result s) := by
  unfold endCommand
  repeat' first
    | with_reducible assumption
    | (extract_lets +onlyGivenNames b; first | (refine Sound.cut (Sound org b) ?_ ?_ <;> first | (intro hb; clear_value b; refine Sound.hold ?_) | intro hb | (unfold b; clear b)) | ((first | (have h0 : Nat := b; clear h0) | (have h0 : Bool := b; clear h0) | (have h0 : BitVec _ := b; clear h0) | (have h0 : List _ := b; clear h0)); clear_value b) | (unfold b; clear b) | clear b)
    | with_reducible apply State.setEngine_sound
    | with_reducible apply State.setShare_sound
    | with_reducible apply perfEvent_sound
    | exact Sound.update (by assumption)

theorem completeCommand_sound {org : State} (e : Nat) (s : State) (sk : Sound org s) : Sound org (completeCommand e s) := by
  unfold completeCommand
  repeat' first
    | with_reducible assumption
    | (extract_lets +onlyGivenNames b; first | (unfold b; clear b) | clear b)
    | with_reducible apply State.setEngine_sound
    | with_reducible apply writeRecord_sound
    | with_reducible apply endCommand_sound
    | split
    | exact Sound.update (by assumption)

theorem retryStall_sound {org : State} (e : Nat) (f : Nat) (s : State) (sk : Sound org s) : Sound org (retryStall e f s) := by
  unfold retryStall
  repeat' first
    | with_reducible assumption
    | with_reducible apply completeCommand_sound
    | split

theorem logFault_sound {org : State} (e : Nat) (c : BlitCmd) (result : Nat) (lines : Nat) (s : State) (sk : Sound org s) : Sound org (logFault e c result lines s) := by
  unfold logFault
  repeat' first
    | with_reducible assumption
    | (extract_lets +onlyGivenNames b; first | (refine Sound.cut (Sound org b) ?_ ?_ <;> first | (intro hb; clear_value b; refine Sound.hold ?_) | intro hb | (unfold b; clear b)) | ((first | (have h0 : Nat := b; clear h0) | (have h0 : Bool := b; clear h0) | (have h0 : BitVec _ := b; clear h0) | (have h0 : List _ := b; clear h0)); clear_value b) | (unfold b; clear b) | clear b)
    | with_reducible apply State.setEngine_sound
    | split
    | exact Sound.update (by assumption)

theorem runCommand_sound {org : State} (e : Nat) (c : BlitCmd) (s : State) (sk : Sound org s) : Sound org (runCommand e c s) := by
  unfold runCommand
  repeat' first
    | with_reducible assumption
    | (extract_lets +onlyGivenNames b; first | (refine Sound.cut (Sound org b) ?_ ?_ <;> first | (intro hb; clear_value b; refine Sound.hold ?_) | intro hb | (unfold b; clear b)) | (refine Sound.cut (Sound org b.1) ?_ ?_ <;> first | (intro hb; clear_value b; refine Sound.hold ?_) | intro hb | (unfold b; clear b)) | ((first | (have h0 : Nat := b; clear h0) | (have h0 : Bool := b; clear h0) | (have h0 : BitVec _ := b; clear h0) | (have h0 : List _ := b; clear h0)); clear_value b) | (unfold b; clear b) | clear b)
    | with_reducible apply State.setEngine_sound
    | with_reducible apply perfEvent_sound
    | with_reducible apply blitLines_sound
    | with_reducible apply scramble_sound
    | with_reducible apply logFault_sound
    | with_reducible refine Sound.fst (by assumption) ?_
    | exact Sound.update (by assumption)
    | (refine Sound.update ?_; with_reducible refine Sound.fst (by assumption) ?_)

theorem blitStart_sound {org : State} (e : Nat) (s : State) (sk : Sound org s) : Sound org (blitStart e s) := by
  unfold blitStart
  repeat' first
    | with_reducible assumption
    | (extract_lets +onlyGivenNames b; first | (refine Sound.cut (Sound org b) ?_ ?_ <;> first | (intro hb; clear_value b; refine Sound.hold ?_) | intro hb | (unfold b; clear b)) | ((first | (have h0 : Nat := b; clear h0) | (have h0 : Bool := b; clear h0) | (have h0 : BitVec _ := b; clear h0) | (have h0 : List _ := b; clear h0)); clear_value b) | (unfold b; clear b) | clear b)
    | with_reducible apply State.setEngine_sound
    | with_reducible apply completeCommand_sound
    | with_reducible apply runCommand_sound
    | split
    | exact Sound.update (by assumption)

theorem submit_sound {org : State} (f : Nat) (e : Nat) (s : State) (sk : Sound org s) : Sound org (submit f e s) := by
  unfold submit
  repeat' first
    | with_reducible assumption
    | (extract_lets +onlyGivenNames b; first | (refine Sound.cut (Sound org b) ?_ ?_ <;> first | (intro hb; clear_value b; refine Sound.hold ?_) | intro hb | (unfold b; clear b)) | ((first | (have h0 : Nat := b; clear h0) | (have h0 : Bool := b; clear h0) | (have h0 : BitVec _ := b; clear h0) | (have h0 : List _ := b; clear h0)); clear_value b) | (unfold b; clear b) | clear b)
    | with_reducible apply State.setEngine_sound
    | with_reducible apply State.setShare_sound
    | split
    | exact Sound.update (by assumption)

theorem cringRdWrite_sound {org : State} (f : Nat) (e : Nat) (v : Nat) (s : State) (sk : Sound org s) : Sound org (cringRdWrite f e v s) := by
  unfold cringRdWrite
  repeat' first
    | with_reducible assumption
    | (extract_lets +onlyGivenNames b; first | (unfold b; clear b) | clear b)
    | with_reducible apply State.setShare_sound
    | with_reducible apply retryStall_sound
    | exact Sound.update (by assumption)

theorem resetRing_sound {org : State} (e : Nat) (f : Nat) (s : State) (sk : Sound org s) : Sound org (resetRing e f s) := by
  unfold resetRing
  repeat' first
    | with_reducible assumption
    | (extract_lets +onlyGivenNames b; first | (unfold b; clear b) | clear b)
    | with_reducible apply State.setShare_sound
    | with_reducible apply retryStall_sound
    | exact Sound.update (by assumption)

theorem discardCommands_sound {org : State} (e : Nat) (f : Nat) (s : State) (sk : Sound org s) : Sound org (discardCommands e f s) := by
  unfold discardCommands
  repeat' first
    | with_reducible assumption
    | (extract_lets +onlyGivenNames b; first | (refine Sound.cut (Sound org b) ?_ ?_ <;> first | (intro hb; clear_value b; refine Sound.hold ?_) | intro hb | (unfold b; clear b)) | ((first | (have h0 : Nat := b; clear h0) | (have h0 : Bool := b; clear h0) | (have h0 : BitVec _ := b; clear h0) | (have h0 : List _ := b; clear h0)); clear_value b) | (unfold b; clear b) | clear b)
    | with_reducible apply State.setEngine_sound
    | with_reducible apply endCommand_sound
    | split
    | exact Sound.update (by assumption)

theorem resetShares_sound {org : State} (f : Nat) (s : State) (sk : Sound org s) : Sound org (resetShares f s) := by
  unfold resetShares
  repeat' first
    | with_reducible assumption
    | (extract_lets +onlyGivenNames b; first | (refine Sound.cut (Sound org b) ?_ ?_ <;> first | (intro hb; clear_value b; refine Sound.hold ?_) | intro hb | (unfold b; clear b)) | ((first | (have h0 : Nat := b; clear h0) | (have h0 : Bool := b; clear h0) | (have h0 : BitVec _ := b; clear h0) | (have h0 : List _ := b; clear h0)); clear_value b) | (unfold b; clear b) | clear b)
    | with_reducible apply State.setReg_sound
    | with_reducible apply State.setShare_sound
    | with_reducible apply discardCommands_sound
    | ((with_reducible refine Sound.fold _ ?_ ?_) <;> try intro x a hb)
    | exact Sound.update (by assumption)

end Sys2Proof.Machine
end

