-- ==== Sys2Proof/Laws/KeepPerfCmds.lean ====
section
/-! SUPPORT. What the operations of PerfCmds keep. -/

set_option linter.all false

namespace Sys2Proof.Machine

theorem presetCounter_sound {org : State} (src : Source) (k : Nat) (j : Nat) (v : Word) (s : State) (sk : Sound org s) : Sound org (presetCounter src k j v s) := by
  unfold presetCounter
  repeat' first
    | with_reducible assumption
    | (extract_lets +onlyGivenNames b; first | (unfold b; clear b) | clear b)
    | with_reducible apply refuse_sound
    | split
    | exact Sound.update (by assumption)

theorem writePm_sound {org : State} (r : RegId) (v : Word) (s : State) (sk : Sound org s) : Sound org (writePm r v s) := by
  unfold writePm
  repeat' first
    | with_reducible assumption
    | with_reducible apply State.setReg_sound
    | with_reducible apply holdPm_sound

theorem freeze_sound {org : State} (src : Source) (on : Bool) (s : State) (sk : Sound org s) : Sound org (freeze src on s) := by
  unfold freeze
  repeat' first
    | with_reducible assumption
    | with_reducible apply refuse_sound
    | with_reducible apply writePm_sound
    | split

theorem cycWrap_sound {org : State} (k : Nat) (s : State) (sk : Sound org s) : Sound org (cycWrap k s) := by
  unfold cycWrap
  repeat' first
    | with_reducible assumption
    | (extract_lets +onlyGivenNames b; first | (refine Sound.cut (Sound org b) ?_ ?_ <;> first | (intro hb; clear_value b; refine Sound.hold ?_) | intro hb | (unfold b; clear b)) | ((first | (have h0 : Nat := b; clear h0) | (have h0 : Bool := b; clear h0) | (have h0 : BitVec _ := b; clear h0) | (have h0 : List _ := b; clear h0)); clear_value b) | (unfold b; clear b) | clear b)
    | with_reducible apply toTick_sound
    | split

theorem counterWrap_sound {org : State} (k j n : Nat) (s : State) (sk : Sound org s) : Sound org (counterWrap k j n s) := by
  unfold counterWrap
  repeat' first
    | with_reducible assumption
    | (extract_lets +onlyGivenNames b; first | (refine Sound.cut (Sound org b) ?_ ?_ <;> first | (intro hb; clear_value b; refine Sound.hold ?_) | intro hb | (unfold b; clear b)) | (refine Sound.cut (Sound org b.1) ?_ ?_ <;> first | (intro hb; clear_value b; refine Sound.hold ?_) | intro hb | (unfold b; clear b)) | ((first | (have h0 : Nat := b; clear h0) | (have h0 : Bool := b; clear h0) | (have h0 : BitVec _ := b; clear h0) | (have h0 : List _ := b; clear h0)); clear_value b) | (unfold b; clear b) | clear b)
    | with_reducible apply wrapWith_perfEvent_sound
    | with_reducible apply addCtr_sound
    | with_reducible apply perfEvent_sound
    | with_reducible apply cycWrap_sound
    | with_reducible refine Sound.fst (by assumption) ?_
    | ((with_reducible refine Sound.fold _ ?_ ?_) <;> try intro x a hb)
    | ((with_reducible refine Sound.foldP _ ?_ ?_) <;> try (intro x a hb; rcases x with ⟨x, xr⟩))
    | split
    | exact Sound.update (by assumption)
    | exact Sound.updateFa (by assumption)
    | exact Sound.updateIc (by assumption)
    | exact Sound.updateAon (by assumption)
    | (refine Sound.update ?_; with_reducible refine Sound.fst (by assumption) ?_)
    | exact hb.same rfl rfl rfl rfl rfl rfl rfl
    | exact sk.same rfl rfl rfl rfl rfl rfl rfl

theorem clearOvf_sound {org : State} (k : Nat) (v : Word) (s : State) (sk : Sound org s) : Sound org (clearOvf k v s) := by
  unfold clearOvf
  repeat' first
    | with_reducible assumption
    | (extract_lets +onlyGivenNames b; first | (refine Sound.cut (Sound org b) ?_ ?_ <;> first | (intro hb; clear_value b; refine Sound.hold ?_) | intro hb | (unfold b; clear b)) | ((first | (have h0 : Nat := b; clear h0) | (have h0 : Bool := b; clear h0) | (have h0 : BitVec _ := b; clear h0) | (have h0 : List _ := b; clear h0)); clear_value b) | (unfold b; clear b) | clear b)
    | with_reducible apply raise_sound
    | ((with_reducible refine Sound.fold _ ?_ ?_) <;> try intro x a hb)
    | split
    | exact Sound.update (by assumption)

end Sys2Proof.Machine
end

