-- ==== Sys2Proof/Laws/KeepCascadeCmds.lean ====
section
/-! SUPPORT. What the operations of CascadeCmds keep. -/

set_option linter.all false

namespace Sys2Proof.Machine

theorem shiftTicks_sound {org : State} (d : Nat) (s : State) (sk : Sound org s) : Sound org (shiftTicks d s) := by
  unfold shiftTicks
  repeat' first
    | with_reducible assumption
    | (extract_lets +onlyGivenNames b; first | (refine Sound.cut (Sound org b) ?_ ?_ <;> first | (intro hb; clear_value b; refine Sound.hold ?_) | intro hb | (unfold b; clear b)) | ((first | (have h0 : Nat := b; clear h0) | (have h0 : Bool := b; clear h0) | (have h0 : BitVec _ := b; clear h0) | (have h0 : List _ := b; clear h0)); clear_value b) | (unfold b; clear b) | clear b)
    | exact Sound.update (by assumption)
    | exact Sound.updateIc (by assumption)

theorem setCasc_sound {org : State} (x : CascState) (s : State) (sk : Sound org s) : Sound org (setCasc x s) := by
  unfold setCasc
  repeat' first
    | with_reducible assumption
    | (extract_lets +onlyGivenNames b; first | (unfold b; clear b) | clear b)
    | exact Sound.update (by assumption)

theorem join_sound {org : State} (position : Nat) (devices : BitVec 2) (highest : Nat) (secondBelfry : Bool) (s : State) (sk : Sound org s) : Sound org (join position devices highest secondBelfry s) := by
  unfold join
  repeat' first
    | with_reducible assumption
    | (extract_lets +onlyGivenNames b; first | (refine Sound.cut (Sound org b) ?_ ?_ <;> first | (intro hb; clear_value b; refine Sound.hold ?_) | intro hb | (unfold b; clear b)) | ((first | (have h0 : Nat := b; clear h0) | (have h0 : Bool := b; clear h0) | (have h0 : BitVec _ := b; clear h0) | (have h0 : List _ := b; clear h0)); clear_value b) | (unfold b; clear b) | clear b)
    | with_reducible apply raise_sound
    | with_reducible apply shiftTicks_sound
    | split
    | exact Sound.update (by assumption)

theorem joinTimeout_sound {org : State} (s : State) (sk : Sound org s) : Sound org (joinTimeout s) := by
  unfold joinTimeout
  repeat' first
    | with_reducible assumption
    | with_reducible apply setCasc_sound
    | split

theorem belfryLoss_sound {org : State} (s : State) (sk : Sound org s) : Sound org (belfryLoss s) := by
  unfold belfryLoss
  repeat' first
    | with_reducible assumption
    | with_reducible apply raise_sound
    | with_reducible apply setCasc_sound
    | split

theorem delayProbe_sound {org : State} (u : Nat) (delay : Nat) (s : State) (sk : Sound org s) : Sound org (delayProbe u delay s) := by
  unfold delayProbe
  repeat' first
    | with_reducible assumption
    | (extract_lets +onlyGivenNames b; first | (unfold b; clear b) | clear b)
    | with_reducible apply State.setOsl_sound
    | with_reducible apply State.send_sound
    | split
    | exact Sound.update (by assumption)

theorem oslLink_sound {org : State} (u : Nat) (up : Bool) (s : State) (sk : Sound org s) : Sound org (oslLink u up s) := by
  unfold oslLink
  repeat' first
    | with_reducible assumption
    | (extract_lets +onlyGivenNames b; first | (refine Sound.cut (Sound org b) ?_ ?_ <;> first | (intro hb; clear_value b; refine Sound.hold ?_) | intro hb | (unfold b; clear b)) | ((first | (have h0 : Nat := b; clear h0) | (have h0 : Bool := b; clear h0) | (have h0 : BitVec _ := b; clear h0) | (have h0 : List _ := b; clear h0)); clear_value b) | (unfold b; clear b) | clear b)
    | with_reducible apply State.bump_sound
    | with_reducible apply State.setOsl_sound
    | with_reducible apply raise_sound
    | with_reducible apply loseLock_sound
    | ((with_reducible refine Sound.fold _ ?_ ?_) <;> try intro x a hb)
    | split

theorem pgFrameStart_sound {org : State} (g : Nat) (tick : Nat) (s : State) (sk : Sound org s) : Sound org (pgFrameStart g tick s) := by
  unfold pgFrameStart
  repeat' first
    | with_reducible assumption
    | (extract_lets +onlyGivenNames b; first | (refine Sound.cut (Sound org b) ?_ ?_ <;> first | (intro hb; clear_value b; refine Sound.hold ?_) | intro hb | (unfold b; clear b)) | ((first | (have h0 : Nat := b; clear h0) | (have h0 : Bool := b; clear h0) | (have h0 : BitVec _ := b; clear h0) | (have h0 : List _ := b; clear h0)); clear_value b) | (unfold b; clear b) | clear b)
    | with_reducible apply State.send_sound
    | with_reducible apply refEvent_sound
    | split

theorem setRelay_sound {org : State} (u : Nat) (ch : Nat) (l : List (Nat × SegPacket)) (s : State) (sk : Sound org s) : Sound org (setRelay u ch l s) := by
  unfold setRelay
  repeat' first
    | with_reducible assumption
    | (extract_lets +onlyGivenNames b; first | (unfold b; clear b) | clear b)
    | exact Sound.update (by assumption)

theorem drainRelay_sound {org : State} (u n : Nat) (s : State) (sk : Sound org s) : Sound org (drainRelay u n s) := by
  induction n generalizing s with
  | zero => exact sk
  | succ n ih =>
    unfold drainRelay
    repeat' first
      | with_reducible assumption
      | (extract_lets +onlyGivenNames b; first | (refine Sound.cut (Sound org b) ?_ ?_ <;> first | (intro hb; clear_value b; refine Sound.hold ?_) | intro hb | (unfold b; clear b)) | (refine Sound.cut (Sound org b.1) ?_ ?_ <;> first | (intro hb; clear_value b; refine Sound.hold ?_) | intro hb | (unfold b; clear b)) | ((first | (have h0 : Nat := b; clear h0) | (have h0 : Bool := b; clear h0) | (have h0 : BitVec _ := b; clear h0) | (have h0 : List _ := b; clear h0)); clear_value b) | (unfold b; clear b) | clear b)
      | with_reducible apply ih
      | with_reducible apply State.setOsl_sound
      | with_reducible apply State.send_sound
      | with_reducible apply setRelay_sound
      | with_reducible refine Sound.fst (by assumption) ?_
      | ((with_reducible refine Sound.fold _ ?_ ?_) <;> try intro x a hb)
      | ((with_reducible refine Sound.foldP _ ?_ ?_) <;> try (intro x a hb; rcases x with ⟨x, xr⟩))
      | split
      | exact Sound.update (by assumption)
      | exact Sound.updateFa (by assumption)
      | exact Sound.updateIc (by assumption)
      | exact Sound.updateAon (by assumption)
      | (refine Sound.update ?_; with_reducible refine Sound.fst (by assumption) ?_)
      | exact hb.same rfl rfl rfl rfl rfl rfl rfl
      | exact sk.same rfl rfl rfl rfl rfl rfl rfl

theorem relayLine_sound {org : State} (u : Nat) (ch : Nat) (p : SegPacket) (s : State) (sk : Sound org s) : Sound org (relayLine u ch p s) := by
  unfold relayLine
  repeat' first
    | with_reducible assumption
    | (extract_lets +onlyGivenNames b; first | (refine Sound.cut (Sound org b) ?_ ?_ <;> first | (intro hb; clear_value b; refine Sound.hold ?_) | intro hb | (unfold b; clear b)) | ((first | (have h0 : Nat := b; clear h0) | (have h0 : Bool := b; clear h0) | (have h0 : BitVec _ := b; clear h0) | (have h0 : List _ := b; clear h0)); clear_value b) | (unfold b; clear b) | clear b)
    | with_reducible apply State.bump_sound
    | with_reducible apply raise_sound
    | with_reducible apply setRelay_sound
    | with_reducible apply drainRelay_sound
    | split
    | exact Sound.update (by assumption)

theorem relayAhead_sound {org : State} (u : Nat) (ch : Nat) (starts : Bool) (p : SegPacket) (s : State) (sk : Sound org s) : Sound org (relayAhead u ch starts p s) := by
  unfold relayAhead
  repeat' first
    | with_reducible assumption
    | (extract_lets +onlyGivenNames b; first | (refine Sound.cut (Sound org b) ?_ ?_ <;> first | (intro hb; clear_value b; refine Sound.hold ?_) | intro hb | (unfold b; clear b)) | ((first | (have h0 : Nat := b; clear h0) | (have h0 : Bool := b; clear h0) | (have h0 : BitVec _ := b; clear h0) | (have h0 : List _ := b; clear h0)); clear_value b) | (unfold b; clear b) | clear b)
    | with_reducible apply State.send_sound
    | split
    | exact Sound.update (by assumption)

theorem relayPacket_sound {org : State} (u : Nat) (ch : Nat) (p : SegPacket) (s : State) (sk : Sound org s) : Sound org (relayPacket u ch p s) := by
  unfold relayPacket
  repeat' first
    | with_reducible assumption
    | (extract_lets +onlyGivenNames b; first | (unfold b; clear b) | clear b)
    | with_reducible apply relayLine_sound
    | with_reducible apply relayAhead_sound
    | split
    | exact Sound.update (by assumption)

theorem rest_sound {org : State} (s : State) (sk : Sound org s) : Sound org (rest s) := by
  unfold rest
  repeat' first
    | with_reducible assumption
    | (extract_lets +onlyGivenNames b; first | (unfold b; clear b) | clear b)
    | with_reducible apply idle_sound
    | with_reducible apply drainRelay_sound
    | split
    | exact Sound.update (by assumption)

theorem segHeader_sound {org : State} (width : Nat) (height : Nat) (depth : Nat) (frame : DWord) (s : State) (g : Seg) (sk : Sound org s) : Sound org (segHeader width height depth frame s g) := by
  unfold segHeader
  repeat' first
    | with_reducible assumption
    | (extract_lets +onlyGivenNames b; first | (refine Sound.cut (Sound org b) ?_ ?_ <;> first | (intro hb; clear_value b; refine Sound.hold ?_) | intro hb | (unfold b; clear b)) | ((first | (have h0 : Nat := b; clear h0) | (have h0 : Bool := b; clear h0) | (have h0 : BitVec _ := b; clear h0) | (have h0 : List _ := b; clear h0)); clear_value b) | (unfold b; clear b) | clear b)
    | with_reducible apply State.setSeg_sound
    | exact Sound.update (by assumption)

theorem segStore_sound {org : State} (y : Nat) (l : List Word) (s : State) (g : Seg) (sk : Sound org s) : Sound org (segStore y l s g) := by
  unfold segStore
  repeat' first
    | with_reducible assumption
    | (extract_lets +onlyGivenNames b; first | (refine Sound.cut (Sound org b) ?_ ?_ <;> first | (intro hb; clear_value b; refine Sound.hold ?_) | intro hb | (unfold b; clear b)) | ((first | (have h0 : Nat := b; clear h0) | (have h0 : Bool := b; clear h0) | (have h0 : BitVec _ := b; clear h0) | (have h0 : List _ := b; clear h0)); clear_value b) | (unfold b; clear b) | clear b)
    | with_reducible apply State.setSeg_sound
    | split
    | exact Sound.update (by assumption)

theorem forwardPacket_sound {org : State} (u : Nat) (p : SegPacket) (s : State) (r : Nat) (sk : Sound org s) : Sound org (forwardPacket u p s r) := by
  unfold forwardPacket
  repeat' first
    | with_reducible assumption
    | (extract_lets +onlyGivenNames b; first | (refine Sound.cut (Sound org b) ?_ ?_ <;> first | (intro hb; clear_value b; refine Sound.hold ?_) | intro hb | (unfold b; clear b)) | ((first | (have h0 : Nat := b; clear h0) | (have h0 : Bool := b; clear h0) | (have h0 : BitVec _ := b; clear h0) | (have h0 : List _ := b; clear h0)); clear_value b) | (unfold b; clear b) | clear b)
    | with_reducible apply csiFs_sound
    | with_reducible apply csiFe_sound
    | with_reducible apply csiLongPacket_sound
    | with_reducible apply channelArrives_sound
    | split
    | exact Sound.update (by assumption)

theorem segTake_sound {org : State} (p : SegPacket) (s : State) (g : Seg) (sk : Sound org s) : Sound org (segTake p s g) := by
  unfold segTake
  repeat' first
    | with_reducible assumption
    | (extract_lets +onlyGivenNames b; first | (unfold b; clear b) | clear b)
    | with_reducible apply segHeader_sound
    | with_reducible apply segStore_sound
    | split
    | exact Sound.update (by assumption)

theorem segmentLine_sound {org : State} (u : Nat) (ch : Nat) (last : Bool) (p : SegPacket) (s : State) (sk : Sound org s) : Sound org (segmentLine u ch last p s) := by
  unfold segmentLine
  repeat' first
    | with_reducible assumption
    | (extract_lets +onlyGivenNames b; first | (refine Sound.cut (Sound org b) ?_ ?_ <;> first | (intro hb; clear_value b; refine Sound.hold ?_) | intro hb | (unfold b; clear b)) | ((first | (have h0 : Nat := b; clear h0) | (have h0 : Bool := b; clear h0) | (have h0 : BitVec _ := b; clear h0) | (have h0 : List _ := b; clear h0)); clear_value b) | (unfold b; clear b) | clear b)
    | with_reducible apply relayPacket_sound
    | with_reducible apply forwardPacket_sound
    | with_reducible apply segTake_sound
    | ((with_reducible refine Sound.fold _ ?_ ?_) <;> try intro x a hb)
    | split

theorem segmentUnusable_sound {org : State} (k : Nat) (line : Nat) (s : State) (sk : Sound org s) : Sound org (segmentUnusable k line s) := by
  unfold segmentUnusable
  repeat' first
    | with_reducible assumption
    | (extract_lets +onlyGivenNames b; first | (refine Sound.cut (Sound org b) ?_ ?_ <;> first | (intro hb; clear_value b; refine Sound.hold ?_) | intro hb | (unfold b; clear b)) | ((first | (have h0 : Nat := b; clear h0) | (have h0 : Bool := b; clear h0) | (have h0 : BitVec _ := b; clear h0) | (have h0 : List _ := b; clear h0)); clear_value b) | (unfold b; clear b) | clear b)
    | with_reducible apply missLine_sound
    | split

theorem clearLate_sound {org : State} (k : Nat) (v : Word) (s : State) (sk : Sound org s) : Sound org (clearLate k v s) := by
  unfold clearLate
  repeat' first
    | with_reducible assumption
    | (extract_lets +onlyGivenNames b; first | (unfold b; clear b) | clear b)
    | with_reducible apply State.setSeg_sound
    | exact Sound.update (by assumption)

end Sys2Proof.Machine
end

