-- ==== Sys2Proof/Laws/KeepThermalCmds.lean ====
section
/-! SUPPORT. What the operations of ThermalCmds keep. -/

set_option linter.all false

namespace Sys2Proof.Machine

theorem excludeSensor_sound {org : State} (i : Nat) (s : State) (sk : Sound org s) : Sound org (excludeSensor i s) := by
  unfold excludeSensor
  repeat' first
    | with_reducible assumption
    | (extract_lets +onlyGivenNames b; first | (refine Sound.cut (Sound org b) ?_ ?_ <;> first | (intro hb; clear_value b; refine Sound.hold ?_) | intro hb | (unfold b; clear b)) | ((first | (have h0 : Nat := b; clear h0) | (have h0 : Bool := b; clear h0) | (have h0 : BitVec _ := b; clear h0) | (have h0 : List _ := b; clear h0)); clear_value b) | (unfold b; clear b) | clear b)
    | with_reducible apply raise_sound
    | with_reducible apply setCategory_sound
    | split
    | exact Sound.update (by assumption)

theorem countApart_sound {org : State} (m2 : Int) (s : State) (i : Nat) (sk : Sound org s) : Sound org (countApart m2 s i) := by
  unfold countApart
  repeat' first
    | with_reducible assumption
    | (extract_lets +onlyGivenNames b; first | (refine Sound.cut (Sound org b) ?_ ?_ <;> first | (intro hb; clear_value b; refine Sound.hold ?_) | intro hb | (unfold b; clear b)) | ((first | (have h0 : Nat := b; clear h0) | (have h0 : Bool := b; clear h0) | (have h0 : BitVec _ := b; clear h0) | (have h0 : List _ := b; clear h0)); clear_value b) | (unfold b; clear b) | clear b)
    | split
    | exact Sound.update (by assumption)

theorem sensorSample_sound {org : State} (temps : List Int) (s : State) (sk : Sound org s) : Sound org (sensorSample temps s) := by
  unfold sensorSample
  repeat' first
    | with_reducible assumption
    | (extract_lets +onlyGivenNames b; first | (refine Sound.cut (Sound org b) ?_ ?_ <;> first | (intro hb; clear_value b; refine Sound.hold ?_) | intro hb | (unfold b; clear b)) | ((first | (have h0 : Nat := b; clear h0) | (have h0 : Bool := b; clear h0) | (have h0 : BitVec _ := b; clear h0) | (have h0 : List _ := b; clear h0)); clear_value b) | (unfold b; clear b) | clear b)
    | with_reducible apply excludeSensor_sound
    | with_reducible apply countApart_sound
    | ((with_reducible refine Sound.fold _ ?_ ?_) <;> try intro x a hb)
    | exact Sound.update (by assumption)

theorem computeTmax_sound {org : State} (s : State) (sk : Sound org s) : Sound org (computeTmax s) := by
  unfold computeTmax
  repeat' first
    | with_reducible assumption
    | (extract_lets +onlyGivenNames b; first | (refine Sound.cut (Sound org b) ?_ ?_ <;> first | (intro hb; clear_value b; refine Sound.hold ?_) | intro hb | (unfold b; clear b)) | ((first | (have h0 : Nat := b; clear h0) | (have h0 : Bool := b; clear h0) | (have h0 : BitVec _ := b; clear h0) | (have h0 : List _ := b; clear h0)); clear_value b) | (unfold b; clear b) | clear b)
    | with_reducible apply State.draw_sound
    | ((with_reducible refine Sound.fold _ ?_ ?_) <;> try intro x a hb)
    | split
    | exact Sound.update (by assumption)

theorem oldTmax_sound {org : State} (s : State) (sk : Sound org s) : Sound org (oldTmax s).1 := by
  unfold oldTmax
  repeat' first
    | with_reducible assumption
    | (extract_lets +onlyGivenNames b; first | (unfold b; clear b) | clear b)
    | with_reducible apply State.draw_sound
    | split
    | exact Sound.update (by assumption)

theorem computePred_sound {org : State} (s : State) (sk : Sound org s) : Sound org (computePred s) := by
  unfold computePred
  repeat' first
    | with_reducible assumption
    | (extract_lets +onlyGivenNames b; first | (refine Sound.cut (Sound org b) ?_ ?_ <;> first | (intro hb; clear_value b; refine Sound.hold ?_) | intro hb | (unfold b; clear b)) | (refine Sound.cut (Sound org b.1) ?_ ?_ <;> first | (intro hb; clear_value b; refine Sound.hold ?_) | intro hb | (unfold b; clear b)) | ((first | (have h0 : Nat := b; clear h0) | (have h0 : Bool := b; clear h0) | (have h0 : BitVec _ := b; clear h0) | (have h0 : List _ := b; clear h0)); clear_value b) | (unfold b; clear b) | clear b)
    | with_reducible apply computeTmax_sound
    | with_reducible apply oldTmax_sound
    | with_reducible refine Sound.fst (by assumption) ?_
    | ((with_reducible refine Sound.fold _ ?_ ?_) <;> try intro x a hb)
    | ((with_reducible refine Sound.foldP _ ?_ ?_) <;> try (intro x a hb; rcases x with ⟨x, xr⟩))
    | split
    | exact Sound.update (by assumption)
    | exact Sound.updateFa (by assumption)
    | exact Sound.updateIc (by assumption)
    | exact Sound.updateAon (by assumption)
    | (refine Sound.update ?_; with_reducible refine Sound.fst (by assumption) ?_)
    | exact hb.same rfl rfl rfl rfl rfl rfl rfl
    | exact sk.same rfl rfl rfl rfl rfl rfl rfl

theorem setTherState_sound {org : State} (x : TherState) (s : State) (sk : Sound org s) : Sound org (setTherState x s) := by
  unfold setTherState
  repeat' first
    | with_reducible assumption
    | (extract_lets +onlyGivenNames b; first | (refine Sound.cut (Sound org b) ?_ ?_ <;> first | (intro hb; clear_value b; refine Sound.hold ?_) | intro hb | (unfold b; clear b)) | ((first | (have h0 : Nat := b; clear h0) | (have h0 : Bool := b; clear h0) | (have h0 : BitVec _ := b; clear h0) | (have h0 : List _ := b; clear h0)); clear_value b) | (unfold b; clear b) | clear b)
    | with_reducible apply raise_sound
    | with_reducible apply noteEvent_sound
    | split
    | exact Sound.update (by assumption)

theorem shedNext_sound {org : State} (s : State) (sk : Sound org s) : Sound org (shedNext s) := by
  unfold shedNext
  repeat' first
    | with_reducible assumption
    | (extract_lets +onlyGivenNames b; first | (refine Sound.cut (Sound org b) ?_ ?_ <;> first | (intro hb; clear_value b; refine Sound.hold ?_) | intro hb | (unfold b; clear b)) | ((first | (have h0 : Nat := b; clear h0) | (have h0 : Bool := b; clear h0) | (have h0 : BitVec _ := b; clear h0) | (have h0 : List _ := b; clear h0)); clear_value b) | (unfold b; clear b) | clear b)
    | with_reducible apply raise_sound
    | with_reducible apply setCategory_sound
    | with_reducible apply stopHead_sound
    | split
    | exact Sound.update (by assumption)

theorem shedTimer_sound {org : State} (s : State) (sk : Sound org s) : Sound org (shedTimer s) := by
  unfold shedTimer
  repeat' first
    | with_reducible assumption
    | with_reducible apply toTick_sound
    | with_reducible apply shedNext_sound
    | split

theorem spireReason_sound {org : State} (r : Nat) (s : State) (sk : Sound org s) : Sound org (spireReason r s) := by
  unfold spireReason
  repeat' first
    | with_reducible assumption
    | (extract_lets +onlyGivenNames b; first | (unfold b; clear b) | clear b)
    | with_reducible apply raise_sound
    | exact Sound.update (by assumption)

theorem abandonEntry_sound {org : State} (r : Nat) (s : State) (sk : Sound org s) : Sound org (abandonEntry r s) := by
  unfold abandonEntry
  repeat' first
    | with_reducible assumption
    | (extract_lets +onlyGivenNames b; first | (refine Sound.cut (Sound org b) ?_ ?_ <;> first | (intro hb; clear_value b; refine Sound.hold ?_) | intro hb | (unfold b; clear b)) | ((first | (have h0 : Nat := b; clear h0) | (have h0 : Bool := b; clear h0) | (have h0 : BitVec _ := b; clear h0) | (have h0 : List _ := b; clear h0)); clear_value b) | (unfold b; clear b) | clear b)
    | with_reducible apply storeWear_sound
    | with_reducible apply spireReason_sound
    | split
    | exact Sound.update (by assumption)

theorem commitExit_sound {org : State} (s : State) (sk : Sound org s) : Sound org (commitExit s) := by
  unfold commitExit
  split
  · rename_i b _
    cases h : mcSwitch b s with
    | none => exact sk
    | some t => exact mcSwitch_sound h sk
  · exact sk

theorem leaveSpire_sound {org : State} (code : Nat) (s : State) (sk : Sound org s) : Sound org (leaveSpire code s) := by
  unfold leaveSpire
  repeat' first
    | with_reducible assumption
    | (extract_lets +onlyGivenNames b; first | (unfold b; clear b) | clear b)
    | with_reducible apply commitExit_sound
    | exact Sound.update (by assumption)

theorem followSpire_sound {org : State} (s : State) (sk : Sound org s) : Sound org (followSpire s) := by
  unfold followSpire
  repeat' first
    | with_reducible assumption
    | with_reducible apply leaveSpire_sound
    | split

theorem spireCause_sound {org : State} (code : Nat) (s : State) (sk : Sound org s) : Sound org (spireCause code s) := by
  unfold spireCause
  repeat' first
    | with_reducible assumption
    | (extract_lets +onlyGivenNames b; first | (unfold b; clear b) | clear b)
    | with_reducible apply abandonEntry_sound
    | with_reducible apply leaveSpire_sound
    | split
    | exact Sound.update (by assumption)

theorem judgeSpire_sound {org : State} (s : State) (sk : Sound org s) : Sound org (judgeSpire s) := by
  unfold judgeSpire
  repeat' first
    | with_reducible assumption
    | (extract_lets +onlyGivenNames b; first | (refine Sound.cut (Sound org b) ?_ ?_ <;> first | (intro hb; clear_value b; refine Sound.hold ?_) | intro hb | (unfold b; clear b)) | ((first | (have h0 : Nat := b; clear h0) | (have h0 : Bool := b; clear h0) | (have h0 : BitVec _ := b; clear h0) | (have h0 : List _ := b; clear h0)); clear_value b) | (unfold b; clear b) | clear b)
    | with_reducible apply commitExit_sound
    | with_reducible apply spireCause_sound
    | split
    | exact Sound.update (by assumption)

theorem spireEnter_sound {org : State} (s : State) (sk : Sound org s) : Sound org (spireEnter s).1 := by
  unfold spireEnter
  repeat' first
    | with_reducible assumption
    | (extract_lets +onlyGivenNames b; first | (unfold b; clear b) | clear b)
    | with_reducible apply State.setReg_sound
    | with_reducible apply spireReason_sound
    | split
    | exact Sound.update (by assumption)

theorem spireExit_sound {org : State} (s : State) (sk : Sound org s) : Sound org (spireExit s).1 := by
  unfold spireExit
  repeat' first
    | with_reducible assumption
    | (extract_lets +onlyGivenNames b; first | (unfold b; clear b) | clear b)
    | with_reducible apply State.setReg_sound
    | with_reducible apply leaveSpire_sound
    | split
    | exact Sound.update (by assumption)

theorem spireRequest_sound {org : State} (src : Source) (on : Bool) (s : State) (sk : Sound org s) : Sound org (spireRequest src on s) := by
  unfold spireRequest
  repeat' first
    | with_reducible assumption
    | (extract_lets +onlyGivenNames b; first | (refine Sound.cut (Sound org b) ?_ ?_ <;> first | (intro hb; clear_value b; refine Sound.hold ?_) | intro hb | (unfold b; clear b)) | (refine Sound.cut (Sound org b.1) ?_ ?_ <;> first | (intro hb; clear_value b; refine Sound.hold ?_) | intro hb | (unfold b; clear b)) | ((first | (have h0 : Nat := b; clear h0) | (have h0 : Bool := b; clear h0) | (have h0 : BitVec _ := b; clear h0) | (have h0 : List _ := b; clear h0)); clear_value b) | (unfold b; clear b) | clear b)
    | with_reducible apply refuse_sound
    | with_reducible apply spireEnter_sound
    | with_reducible apply spireExit_sound
    | with_reducible refine Sound.fst (by assumption) ?_
    | split
    | exact Sound.update (by assumption)
    | (refine Sound.update ?_; with_reducible refine Sound.fst (by assumption) ?_)

theorem spireReady_sound {org : State} (s : State) (sk : Sound org s) : Sound org (spireReady s) := by
  unfold spireReady
  split
  · exact sk
  · split
    · exact spireCause_sound _ _ sk
    · extract_lets +onlyGivenNames _ b
      have hb : Sound org b := Sound.update sk
      clear_value b
      refine Sound.hold ?_
      split
      · rename_i t e
        obtain ⟨d, -, e⟩ := Option.bind_eq_some_iff.mp e
        exact followSpire_sound _ (mcSwitch_sound e hb)
      · exact abandonEntry_sound _ _ hb

theorem spireSupplyTimeout_sound {org : State} (s : State) (sk : Sound org s) : Sound org (spireSupplyTimeout s) := by
  unfold spireSupplyTimeout
  repeat' first
    | with_reducible assumption
    | (extract_lets +onlyGivenNames b; first | (refine Sound.cut (Sound org b) ?_ ?_ <;> first | (intro hb; clear_value b; refine Sound.hold ?_) | intro hb | (unfold b; clear b)) | ((first | (have h0 : Nat := b; clear h0) | (have h0 : Bool := b; clear h0) | (have h0 : BitVec _ := b; clear h0) | (have h0 : List _ := b; clear h0)); clear_value b) | (unfold b; clear b) | clear b)
    | with_reducible apply State.setReg_sound
    | with_reducible apply refuse_sound
    | with_reducible apply abandonEntry_sound
    | split
    | exact Sound.update (by assumption)

theorem thermalEvaluation_sound {org : State} (s : State) (sk : Sound org s) : Sound org (thermalEvaluation s) := by
  unfold thermalEvaluation
  repeat' first
    | with_reducible assumption
    | (extract_lets +onlyGivenNames b; first | (refine Sound.cut (Sound org b) ?_ ?_ <;> first | (intro hb; clear_value b; refine Sound.hold ?_) | intro hb | (unfold b; clear b)) | ((first | (have h0 : Nat := b; clear h0) | (have h0 : Bool := b; clear h0) | (have h0 : BitVec _ := b; clear h0) | (have h0 : List _ := b; clear h0)); clear_value b) | (unfold b; clear b) | clear b)
    | with_reducible apply computePred_sound
    | with_reducible apply setTherState_sound
    | with_reducible apply shedNext_sound
    | with_reducible apply judgeSpire_sound
    | split
    | exact Sound.update (by assumption)

theorem spireSecond_sound {org : State} (ok : Bool) (s : State) (sk : Sound org s) : Sound org (spireSecond ok s) := by
  unfold spireSecond
  split
  · exact sk
  · extract_lets n x y b c
    have hb : Sound org b :=
      { sk with
        wear := fun h => Nat.max_le.mpr ⟨sk.wear h, Nat.min_le_right _ _⟩
        burnt := Nat.le_trans sk.burnt (Nat.le_max_left _ _) }
    have hc : Sound org c := by
      unfold c
      split
      · exact writeStore_sound _ _ _ hb
      · exact hb
    clear_value c
    refine Sound.hold ?_
    split
    · exact spireCause_sound _ _ (raise_sound _ _ hc)
    · exact hc

theorem wearStore_sound {org : State} (ok : Bool) (s : State) (sk : Sound org s) : Sound org (wearStore ok s) := by
  unfold wearStore
  repeat' first
    | with_reducible assumption
    | with_reducible apply writeStore_sound

theorem shutDown_sound {org : State} (cause : Byte) (s : State) (sk : Sound org s) : Sound org (shutDown cause s) := by
  unfold shutDown
  repeat' first
    | with_reducible assumption
    | (extract_lets +onlyGivenNames b; first | (refine Sound.cut (Sound org b) ?_ ?_ <;> first | (intro hb; clear_value b; refine Sound.hold ?_) | intro hb | (unfold b; clear b)) | ((first | (have h0 : Nat := b; clear h0) | (have h0 : Bool := b; clear h0) | (have h0 : BitVec _ := b; clear h0) | (have h0 : List _ := b; clear h0)); clear_value b) | (unfold b; clear b) | clear b)
    | with_reducible apply setCategory_sound
    | exact Sound.update (by assumption)
    | exact Sound.updateAon (by assumption)

theorem thermalShutdown_sound {org : State} (s : State) (sk : Sound org s) : Sound org (thermalShutdown s) := by
  unfold thermalShutdown
  repeat' first
    | with_reducible assumption
    | with_reducible apply shutDown_sound
    | split

theorem takeCause_sound {org : State} (s : State) (sk : Sound org s) : Sound org (takeCause s) := by
  unfold takeCause
  repeat' first
    | with_reducible assumption
    | (extract_lets +onlyGivenNames b; first | (refine Sound.cut (Sound org b) ?_ ?_ <;> first | (intro hb; clear_value b; refine Sound.hold ?_) | intro hb | (unfold b; clear b)) | ((first | (have h0 : Nat := b; clear h0) | (have h0 : Bool := b; clear h0) | (have h0 : BitVec _ := b; clear h0) | (have h0 : List _ := b; clear h0)); clear_value b) | (unfold b; clear b) | clear b)
    | with_reducible apply noteEntry_sound
    | split
    | exact Sound.update (by assumption)
    | exact Sound.updateAon (by assumption)

theorem shutdownCauseRead_sound {org : State} (src : Source) (s : State) (sk : Sound org s) : Sound org (shutdownCauseRead src s) := by
  unfold shutdownCauseRead
  repeat' first
    | with_reducible assumption
    | (extract_lets +onlyGivenNames b; first | (refine Sound.cut (Sound org b) ?_ ?_ <;> first | (intro hb; clear_value b; refine Sound.hold ?_) | intro hb | (unfold b; clear b)) | ((first | (have h0 : Nat := b; clear h0) | (have h0 : Bool := b; clear h0) | (have h0 : BitVec _ := b; clear h0) | (have h0 : List _ := b; clear h0)); clear_value b) | (unfold b; clear b) | clear b)
    | with_reducible apply State.answer_sound
    | with_reducible apply takeCause_sound
    | split

theorem noteRail_sound {org : State} (rail : Nat) (fault : Bool) (s : State) (sk : Sound org s) : Sound org (noteRail rail fault s) := by
  unfold noteRail
  repeat' first
    | with_reducible assumption
    | (extract_lets +onlyGivenNames b; first | (refine Sound.cut (Sound org b) ?_ ?_ <;> first | (intro hb; clear_value b; refine Sound.hold ?_) | intro hb | (unfold b; clear b)) | ((first | (have h0 : Nat := b; clear h0) | (have h0 : Bool := b; clear h0) | (have h0 : BitVec _ := b; clear h0) | (have h0 : List _ := b; clear h0)); clear_value b) | (unfold b; clear b) | clear b)
    | split
    | exact Sound.update (by assumption)
    | exact Sound.updateAon (by assumption)

theorem railOut_sound {org : State} (rail : Nat) (fault : Bool) (s : State) (sk : Sound org s) : Sound org (railOut rail fault s) := by
  unfold railOut
  repeat' first
    | with_reducible assumption
    | (extract_lets +onlyGivenNames b; first | (refine Sound.cut (Sound org b) ?_ ?_ <;> first | (intro hb; clear_value b; refine Sound.hold ?_) | intro hb | (unfold b; clear b)) | ((first | (have h0 : Nat := b; clear h0) | (have h0 : Bool := b; clear h0) | (have h0 : BitVec _ := b; clear h0) | (have h0 : List _ := b; clear h0)); clear_value b) | (unfold b; clear b) | clear b)
    | with_reducible apply raise_sound
    | with_reducible apply setCategory_sound
    | with_reducible apply judgeSpire_sound
    | with_reducible apply noteRail_sound
    | split

theorem monitorRails_sound {org : State} (s : State) (sk : Sound org s) : Sound org (monitorRails s) := by
  unfold monitorRails
  repeat' first
    | with_reducible assumption
    | with_reducible apply raise_sound
    | with_reducible apply setCategory_sound
    | ((with_reducible refine Sound.fold _ ?_ ?_) <;> try intro x a hb)

theorem railIn_sound {org : State} (rail : Nat) (s : State) (sk : Sound org s) : Sound org (railIn rail s) := by
  unfold railIn
  repeat' first
    | with_reducible assumption
    | (extract_lets +onlyGivenNames b; first | (unfold b; clear b) | clear b)
    | exact Sound.update (by assumption)
    | exact Sound.updateAon (by assumption)

theorem pllLost_sound {org : State} (p : Pll) (s : State) (sk : Sound org s) : Sound org (pllLost p s) := by
  unfold pllLost
  repeat' first
    | with_reducible assumption
    | (extract_lets +onlyGivenNames b; first | (unfold b; clear b) | clear b)
    | with_reducible apply raise_sound
    | with_reducible apply setCategory_sound
    | with_reducible apply judgeSpire_sound
    | split
    | exact Sound.update (by assumption)

theorem pllRegained_sound {org : State} (p : Pll) (s : State) (sk : Sound org s) : Sound org (pllRegained p s) := by
  unfold pllRegained
  repeat' first
    | with_reducible assumption
    | (extract_lets +onlyGivenNames b; first | (unfold b; clear b) | clear b)
    | split
    | exact Sound.update (by assumption)

theorem clearFaults_sound {org : State} (cats : BitVec 11) (s : State) (sk : Sound org s) : Sound org (clearFaults cats s) := by
  unfold clearFaults
  repeat' first
    | with_reducible assumption
    | with_reducible apply clearCategory_sound
    | ((with_reducible refine Sound.fold _ ?_ ?_) <;> try intro x a hb)

theorem faultClear_sound {org : State} (src : Source) (cats : BitVec 11) (s : State) (sk : Sound org s) : Sound org (faultClear src cats s) := by
  unfold faultClear
  repeat' first
    | with_reducible assumption
    | with_reducible apply refuse_sound
    | with_reducible apply clearFaults_sound
    | split

end Sys2Proof.Machine
end

