-- ==== Sys2Proof/Laws/KeepReadReg.lean ====
section
/-! SUPPORT. What the operations of ReadReg keep. -/

set_option linter.all false

namespace Sys2Proof.Machine

theorem readEffect_sound {org : State} (r : RegId) (s : State) (sk : Sound org s) : Sound org (readEffect r s) := by
  unfold readEffect
  repeat' first
    | with_reducible assumption
    | (extract_lets +onlyGivenNames b; first | (unfold b; clear b) | clear b)
    | with_reducible apply State.setLantern_sound
    | split
    | exact Sound.update (by assumption)

theorem afterBar0Read_sound {org : State} (src : Source) (a : Nat) (n : Nat) (s : State) (sk : Sound org s) : Sound org (afterBar0Read src a n s) := by
  unfold afterBar0Read
  repeat' first
    | with_reducible assumption
    | (extract_lets +onlyGivenNames b; first | (unfold b; clear b) | clear b)
    | with_reducible apply turnAway_sound
    | with_reducible apply countBar0_sound
    | with_reducible apply readEffect_sound
    | ((with_reducible refine Sound.fold _ ?_ ?_) <;> try intro x a hb)
    | split
    | exact Sound.update (by assumption)

end Sys2Proof.Machine
end

