-- ==== Sys2Proof/Laws/KeepRegWrite.lean ====
section
/-! SUPPORT. What the operations of RegWrite keep. -/

set_option linter.all false

namespace Sys2Proof.Machine

theorem report_sound {org : State} (src : Source) (a : Access) (x : Reject) (s : State) (sk : Sound org s) : Sound org (report src a x s) := by
  unfold report
  repeat' first
    | with_reducible assumption
    | (extract_lets +onlyGivenNames b; first | (unfold b; clear b) | clear b)
    | with_reducible apply refuse_sound
    | with_reducible apply lockViolation_sound
    | split
    | exact Sound.update (by assumption)

theorem landItem_sound {org : State} (unit : Nat) (group : Bool) (ws : List Wr) (s : State) (sk : Sound org s) : Sound org (landItem unit group ws s) := by
  unfold landItem
  repeat' first
    | with_reducible assumption
    | (extract_lets +onlyGivenNames b; first | (refine Sound.cut (Sound org b) ?_ ?_ <;> first | (intro hb; clear_value b; refine Sound.hold ?_) | intro hb | (unfold b; clear b)) | ((first | (have h0 : Nat := b; clear h0) | (have h0 : Bool := b; clear h0) | (have h0 : BitVec _ := b; clear h0) | (have h0 : List _ := b; clear h0)); clear_value b) | (unfold b; clear b) | clear b)
    | ((with_reducible refine Sound.setLayerOf ?_ _ _ ?_) <;> try (intro hq; first | exact (hb.queue hq).1 _ | exact (sk.queue hq).1 _))
    | with_reducible apply overlay_sound
    | with_reducible apply pinSurfaces_sound
    | with_reducible apply applyAtOnce_sound
    | split
    | exact Sound.update (by assumption)

theorem hold_sound {org : State} (r : RegId) (v : Word) (safety : Bool) (s : State) (sk : Sound org s) : Sound org (hold r v safety s) := by
  unfold hold
  repeat' first
    | with_reducible assumption
    | (extract_lets +onlyGivenNames b; first | (refine Sound.cut (Sound org b) ?_ ?_ <;> first | (intro hb; clear_value b; refine Sound.hold ?_) | intro hb | (unfold b; clear b)) | ((first | (have h0 : Nat := b; clear h0) | (have h0 : Bool := b; clear h0) | (have h0 : BitVec _ := b; clear h0) | (have h0 : List _ := b; clear h0)); clear_value b) | (unfold b; clear b) | clear b)
    | split
    | exact Sound.update (by assumption)

theorem clearPending_sound {org : State} (g : Grp) (i : Nat) (j : Nat) (s : State) (sk : Sound org s) : Sound org (clearPending g i j s) := by
  unfold clearPending
  repeat' first
    | with_reducible assumption
    | (extract_lets +onlyGivenNames b; first | (refine Sound.cut (Sound org b) ?_ ?_ <;> first | (intro hb; clear_value b; refine Sound.hold ?_) | intro hb | (unfold b; clear b)) | ((first | (have h0 : Nat := b; clear h0) | (have h0 : Bool := b; clear h0) | (have h0 : BitVec _ := b; clear h0) | (have h0 : List _ := b; clear h0)); clear_value b) | (unfold b; clear b) | clear b)
    | with_reducible apply State.setHead_sound
    | split
    | exact Sound.update (by assumption)

theorem dropHeld_sound {org : State} (g : Grp) (i : Nat) (j : Nat) (s : State) (sk : Sound org s) : Sound org (dropHeld g i j s) := by
  unfold dropHeld
  repeat' first
    | with_reducible assumption
    | (extract_lets +onlyGivenNames b; first | (unfold b; clear b) | clear b)
    | ((with_reducible refine Sound.fold _ ?_ ?_) <;> try intro x a hb)
    | exact Sound.update (by assumption)

theorem completeGroup_sound {org : State} (g : Grp) (r : RegId) (v : Word) (safety : Bool) (s : State) (sk : Sound org s) : Sound org (completeGroup g r v safety s) := by
  unfold completeGroup
  repeat' first
    | with_reducible assumption
    | (extract_lets +onlyGivenNames b; first | (refine Sound.cut (Sound org b) ?_ ?_ <;> first | (intro hb; clear_value b; refine Sound.hold ?_) | intro hb | (unfold b; clear b)) | ((first | (have h0 : Nat := b; clear h0) | (have h0 : Bool := b; clear h0) | (have h0 : BitVec _ := b; clear h0) | (have h0 : List _ := b; clear h0)); clear_value b) | (unfold b; clear b) | clear b)
    | with_reducible apply overlay_sound
    | with_reducible apply writeStream_sound
    | with_reducible apply resetRing_sound
    | with_reducible apply landItem_sound
    | with_reducible apply clearPending_sound
    | with_reducible apply dropHeld_sound
    | split
    | exact Sound.update (by assumption)

theorem persist_sound {org : State} (src : Source) (r : RegId) (v : Word) (s : State) (sk : Sound org s) : Sound org (persist src r v s) := by
  unfold persist
  repeat' first
    | with_reducible assumption
    | (extract_lets +onlyGivenNames b; first | (unfold b; clear b) | clear b)
    | with_reducible apply queueStore_sound
    | split
    | exact Sound.update (by assumption)

theorem settleSignature_sound {org : State} (s : State) (sk : Sound org s) : Sound org (settleSignature s) := by
  unfold settleSignature
  repeat' first
    | with_reducible assumption
    | with_reducible apply clearCategory_sound
    | split

theorem writeGcfg_sound {org : State} (g : Nat) (v : Word) (s : State) (sk : Sound org s) : Sound org (writeGcfg g v s) := by
  unfold writeGcfg
  repeat' first
    | with_reducible assumption
    | (extract_lets +onlyGivenNames b; first | (refine Sound.cut (Sound org b) ?_ ?_ <;> first | (intro hb; clear_value b; refine Sound.hold ?_) | intro hb | (unfold b; clear b)) | ((first | (have h0 : Nat := b; clear h0) | (have h0 : Bool := b; clear h0) | (have h0 : BitVec _ := b; clear h0) | (have h0 : List _ := b; clear h0)); clear_value b) | (unfold b; clear b) | clear b)
    | with_reducible apply State.setReg_sound
    | with_reducible apply releaseGroup_sound
    | with_reducible apply settle_sound
    | split

theorem sendWindow_sound {org : State} (f : Nat) (len : Nat) (s : State) (sk : Sound org s) : Sound org (sendWindow f len s) := by
  unfold sendWindow
  repeat' first
    | with_reducible assumption
    | (extract_lets +onlyGivenNames b; first | (unfold b; clear b) | clear b)
    | with_reducible apply State.setWin_sound
    | exact Sound.update (by assumption)

theorem clearWindow_sound {org : State} (f : Nat) (s : State) (sk : Sound org s) : Sound org (clearWindow f s) := by
  unfold clearWindow
  repeat' first
    | with_reducible assumption
    | (extract_lets +onlyGivenNames b; first | (unfold b; clear b) | clear b)
    | with_reducible apply State.setWin_sound
    | exact Sound.update (by assumption)

theorem clearErr_sound {org : State} (f : Nat) (v : Word) (s : State) (sk : Sound org s) : Sound org (clearErr f v s) := by
  unfold clearErr
  repeat' first
    | with_reducible assumption
    | (extract_lets +onlyGivenNames b; first | (refine Sound.cut (Sound org b) ?_ ?_ <;> first | (intro hb; clear_value b; refine Sound.hold ?_) | intro hb | (unfold b; clear b)) | ((first | (have h0 : Nat := b; clear h0) | (have h0 : Bool := b; clear h0) | (have h0 : BitVec _ := b; clear h0) | (have h0 : List _ := b; clear h0)); clear_value b) | (unfold b; clear b) | clear b)
    | with_reducible apply State.setErrRec_sound
    | with_reducible apply lockViolation_sound
    | exact Sound.update (by assumption)

theorem freeErr_sound {org : State} (f : Nat) (v : Word) (s : State) (sk : Sound org s) : Sound org (freeErr f v s) := by
  unfold freeErr
  repeat' first
    | with_reducible assumption
    | (extract_lets +onlyGivenNames b; first | (unfold b; clear b) | clear b)
    | with_reducible apply State.setErrRec_sound
    | split
    | exact Sound.update (by assumption)

theorem ringDoorbell_sound {org : State} (src : Source) (p : Nat) (v : Word) (s : State) (sk : Sound org s) : Sound org (ringDoorbell src p v s) := by
  unfold ringDoorbell
  repeat' first
    | with_reducible assumption
    | (extract_lets +onlyGivenNames b; first | (unfold b; clear b) | clear b)
    | with_reducible apply State.bump_sound
    | ((with_reducible apply doorbell_sound) <;> try intro x hb)
    | with_reducible apply badOp_sound
    | split
    | exact Sound.update (by assumption)

theorem writeUserEn_sound {org : State} (src : Source) (k : Nat) (a : Access) (v : Word) (s : State) (sk : Sound org s) : Sound org (writeUserEn src k a v s) := by
  unfold writeUserEn
  repeat' first
    | with_reducible assumption
    | (extract_lets +onlyGivenNames b; first | (refine Sound.cut (Sound org b) ?_ ?_ <;> first | (intro hb; clear_value b; refine Sound.hold ?_) | intro hb | (unfold b; clear b)) | ((first | (have h0 : Nat := b; clear h0) | (have h0 : Bool := b; clear h0) | (have h0 : BitVec _ := b; clear h0) | (have h0 : List _ := b; clear h0)); clear_value b) | (unfold b; clear b) | clear b)
    | with_reducible apply State.setReg_sound
    | with_reducible apply refuse_sound
    | split
    | exact Sound.update (by assumption)

theorem clearDropped_sound {org : State} (b : PBlock) (v : Word) (s : State) (sk : Sound org s) : Sound org (clearDropped b v s) := by
  unfold clearDropped
  repeat' first
    | with_reducible assumption
    | (extract_lets +onlyGivenNames b; first | (unfold b; clear b) | clear b)
    | split
    | exact Sound.update (by assumption)

theorem actTiming_sound {org : State} (src : Source) (r : RegId) (v : Word) (s : State) (sk : Sound org s) : Sound org (actTiming src r v s) := by
  unfold actTiming
  repeat' first
    | with_reducible assumption
    | (extract_lets +onlyGivenNames b; first | (refine Sound.cut (Sound org b) ?_ ?_ <;> first | (intro hb; clear_value b; refine Sound.hold ?_) | intro hb | (unfold b; clear b)) | ((first | (have h0 : Nat := b; clear h0) | (have h0 : Bool := b; clear h0) | (have h0 : BitVec _ := b; clear h0) | (have h0 : List _ := b; clear h0)); clear_value b) | (unfold b; clear b) | clear b)
    | with_reducible apply State.setReg_sound
    | with_reducible apply State.setHead_sound
    | with_reducible apply autoLatch_sound
    | with_reducible apply landHeadCtrl_sound
    | with_reducible apply clearShed_sound
    | with_reducible apply setLg_sound
    | with_reducible apply landLctrl_sound
    | with_reducible apply clearLate_sound
    | with_reducible apply clearDropped_sound
    | split
    | exact Sound.update (by assumption)

theorem actHost_sound {org : State} (src : Source) (a : Access) (r : RegId) (v : Word) (s : State) (sk : Sound org s) : Sound org (actHost src a r v s) := by
  unfold actHost
  repeat' first
    | with_reducible assumption
    | (extract_lets +onlyGivenNames b; first | (unfold b; clear b) | clear b)
    | with_reducible apply State.setReg_sound
    | with_reducible apply refuse_sound
    | ((with_reducible refine changeTarget_sound _ _ _ ?_ ?_) <;> try (intro hq; first | exact hq | exact Nat.zero_le _))
    | with_reducible apply eoiAt_sound
    | with_reducible apply pendSetAt_sound
    | with_reducible apply pendClrAt_sound
    | with_reducible apply maskSetAt_sound
    | with_reducible apply maskClrAt_sound
    | with_reducible apply targetWrite_sound
    | with_reducible apply commit_sound
    | with_reducible apply rollback_sound
    | with_reducible apply writeGcfg_sound
    | with_reducible apply sendWindow_sound
    | with_reducible apply clearWindow_sound
    | with_reducible apply clearErr_sound
    | with_reducible apply freeErr_sound
    | split
    | exact Sound.update (by assumption)

theorem actUnits_sound {org : State} (src : Source) (a : Access) (r : RegId) (v : Word) (s : State) (sk : Sound org s) : Sound org (actUnits src a r v s) := by
  unfold actUnits
  repeat' first
    | with_reducible assumption
    | (extract_lets +onlyGivenNames b; first | (unfold b; clear b) | clear b)
    | with_reducible apply State.setChannel_sound
    | with_reducible apply State.setKeepHead_sound
    | with_reducible apply State.setEngine_sound
    | with_reducible apply sbCommand_sound
    | with_reducible apply tlbInv_sound
    | with_reducible apply keepClear_sound
    | with_reducible apply cvCtrl_sound
    | with_reducible apply landCvStatus_sound
    | with_reducible apply writeStream_sound
    | with_reducible apply landPctrl_sound
    | with_reducible apply landQctrl_sound
    | with_reducible apply startAux_sound
    | with_reducible apply submit_sound
    | with_reducible apply cringRdWrite_sound
    | with_reducible apply presetCounter_sound
    | with_reducible apply freeze_sound
    | with_reducible apply spireRequest_sound
    | with_reducible apply faultClear_sound
    | with_reducible apply ringDoorbell_sound
    | with_reducible apply writeUserEn_sound
    | with_reducible apply clearDropped_sound
    | split
    | exact Sound.update (by assumption)
    | exact Sound.updateFa (by assumption)
    | exact Sound.updateIc (by assumption)

theorem storeReg_sound {org : State} (r : RegId) (v : Word) (s : State) (sk : Sound org s) : Sound org (storeReg r v s) := by
  unfold storeReg
  repeat' first
    | with_reducible assumption
    | (extract_lets +onlyGivenNames b; first | (unfold b; clear b) | clear b)
    | with_reducible apply State.setReg_sound
    | with_reducible apply resetRing_sound
    | split
    | exact Sound.update (by assumption)

theorem clearBits_sound {org : State} (r : RegId) (v : Word) (s : State) (sk : Sound org s) : Sound org (clearBits r v s) := by
  unfold clearBits
  repeat' first
    | with_reducible assumption
    | (extract_lets +onlyGivenNames b; first | (unfold b; clear b) | clear b)
    | with_reducible apply State.setReg_sound
    | with_reducible apply clearOvf_sound
    | with_reducible apply settleSignature_sound
    | split
    | exact Sound.update (by assumption)

theorem landReg_sound {org : State} (src : Source) (safety : Bool) (a : Access) (r : RegId) (v : Word) (s : State) (sk : Sound org s) : Sound org (landReg src safety a r v s) := by
  unfold landReg
  repeat' first
    | with_reducible assumption
    | (extract_lets +onlyGivenNames b; first | (refine Sound.cut (Sound org b) ?_ ?_ <;> first | (intro hb; clear_value b; refine Sound.hold ?_) | intro hb | (unfold b; clear b)) | (refine Sound.cut (Sound org b.1) ?_ ?_ <;> first | (intro hb; clear_value b; refine Sound.hold ?_) | intro hb | (unfold b; clear b)) | ((first | (have h0 : Nat := b; clear h0) | (have h0 : Bool := b; clear h0) | (have h0 : BitVec _ := b; clear h0) | (have h0 : List _ := b; clear h0)); clear_value b) | (unfold b; clear b) | clear b)
    | with_reducible apply State.setReg_sound
    | with_reducible apply holdPm_sound
    | with_reducible apply landItem_sound
    | with_reducible apply hold_sound
    | with_reducible apply completeGroup_sound
    | with_reducible apply persist_sound
    | with_reducible apply actTiming_sound
    | with_reducible apply actHost_sound
    | with_reducible apply actUnits_sound
    | with_reducible apply storeReg_sound
    | with_reducible apply clearBits_sound
    | with_reducible refine Sound.fst (by assumption) ?_
    | ((with_reducible refine Sound.fold _ ?_ ?_) <;> try intro x a hb)
    | ((with_reducible refine Sound.foldP _ ?_ ?_) <;> try (intro x a hb; rcases x with ⟨x, xr⟩))
    | split
    | exact Sound.update (by assumption)
    | exact Sound.updateFa (by assumption)
    | exact Sound.updateIc (by assumption)
    | exact Sound.updateAon (by assumption)
    | (refine Sound.update ?_; with_reducible refine Sound.fst (by assumption) ?_)
    | exact hb.same rfl rfl rfl rfl rfl rfl rfl
    | exact sk.same rfl rfl rfl rfl rfl rfl rfl

theorem dropWrite_sound {org : State} (src : Source) (b : PBlock) (a : Access) (s : State) (sk : Sound org s) : Sound org (dropWrite src b a s) := by
  unfold dropWrite
  repeat' first
    | with_reducible assumption
    | (extract_lets +onlyGivenNames b; first | (refine Sound.cut (Sound org b) ?_ ?_ <;> first | (intro hb; clear_value b; refine Sound.hold ?_) | intro hb | (unfold b; clear b)) | ((first | (have h0 : Nat := b; clear h0) | (have h0 : Bool := b; clear h0) | (have h0 : BitVec _ := b; clear h0) | (have h0 : List _ := b; clear h0)); clear_value b) | (unfold b; clear b) | clear b)
    | with_reducible apply errEvent_sound
    | split
    | exact Sound.update (by assumption)

theorem deliver_sound {org : State} (src : Source) (a : Access) (r : RegId) (v : Word) (s : State) (mine : List PBlock) (sk : Sound org s) : Sound org (deliver src a r v s mine).1 := by
  unfold deliver
  repeat' first
    | with_reducible assumption
    | (extract_lets +onlyGivenNames b; first | (refine Sound.cut (Sound org b) ?_ ?_ <;> first | (intro hb; clear_value b; refine Sound.hold ?_) | intro hb | (unfold b; clear b)) | ((first | (have h0 : Nat := b; clear h0) | (have h0 : Bool := b; clear h0) | (have h0 : BitVec _ := b; clear h0) | (have h0 : List _ := b; clear h0)); clear_value b) | (unfold b; clear b) | clear b)
    | with_reducible apply landReg_sound
    | with_reducible apply dropWrite_sound
    | split
    | exact Sound.update (by assumption)

theorem writeReg_sound {org : State} (src : Source) (a : Access) (r : RegId) (v : Word) (s : State) (mine : List PBlock) (sk : Sound org s) : Sound org (writeReg src a r v s mine).1 := by
  unfold writeReg
  repeat' first
    | with_reducible assumption
    | (extract_lets +onlyGivenNames b; first | (unfold b; clear b) | clear b)
    | with_reducible apply State.bump_sound
    | with_reducible apply report_sound
    | with_reducible apply landReg_sound
    | with_reducible apply deliver_sound
    | with_reducible refine Sound.fst (by assumption) ?_
    | split
    | exact Sound.update (by assumption)
    | (refine Sound.update ?_; with_reducible refine Sound.fst (by assumption) ?_)

theorem writeAlias_sound {org : State} (src : Source) (a : Access) (r : RegId) (v : Word) (s : State) (mine : List PBlock) (sk : Sound org s) : Sound org (writeAlias src a r v s mine).1 := by
  unfold writeAlias
  repeat' first
    | with_reducible assumption
    | (extract_lets +onlyGivenNames b; first | (unfold b; clear b) | clear b)
    | with_reducible apply refuse_sound
    | with_reducible apply enterDraft_sound
    | with_reducible apply report_sound
    | with_reducible apply writeReg_sound
    | with_reducible refine Sound.fst (by assumption) ?_
    | split
    | exact Sound.update (by assumption)
    | (refine Sound.update ?_; with_reducible refine Sound.fst (by assumption) ?_)

theorem writeWindow_sound {org : State} (src : Source) (a : Access) (off : Nat) (d : WDword) (s : State) (sk : Sound org s) : Sound org (writeWindow src a off d s) := by
  unfold writeWindow
  repeat' first
    | with_reducible assumption
    | (extract_lets +onlyGivenNames b; first | (unfold b; clear b) | clear b)
    | with_reducible apply refuse_sound
    | ((with_reducible refine Sound.fold _ ?_ ?_) <;> try intro x a hb)
    | split
    | exact Sound.update (by assumption)

theorem writeReserved_sound {org : State} (src : Source) (s : State) (sk : Sound org s) : Sound org (writeReserved src s) := by
  unfold writeReserved
  repeat' first
    | with_reducible assumption
    | (extract_lets +onlyGivenNames b; first | (unfold b; clear b) | clear b)
    | with_reducible apply countReserved_sound
    | split
    | exact Sound.update (by assumption)

theorem writeDword_sound {org : State} (src : Source) (off : Nat) (d : WDword) (s : State) (mine : List PBlock) (sk : Sound org s) : Sound org (writeDword src off d s mine).1 := by
  unfold writeDword
  repeat' first
    | with_reducible assumption
    | (extract_lets +onlyGivenNames b; first | (refine Sound.cut (Sound org b) ?_ ?_ <;> first | (intro hb; clear_value b; refine Sound.hold ?_) | intro hb | (unfold b; clear b)) | (refine Sound.cut (Sound org b.1) ?_ ?_ <;> first | (intro hb; clear_value b; refine Sound.hold ?_) | intro hb | (unfold b; clear b)) | ((first | (have h0 : Nat := b; clear h0) | (have h0 : Bool := b; clear h0) | (have h0 : BitVec _ := b; clear h0) | (have h0 : List _ := b; clear h0)); clear_value b) | (unfold b; clear b) | clear b)
    | with_reducible apply refuse_sound
    | with_reducible apply writeReg_sound
    | with_reducible apply writeAlias_sound
    | with_reducible apply writeWindow_sound
    | with_reducible apply writeReserved_sound
    | with_reducible refine Sound.fst (by assumption) ?_
    | split
    | exact Sound.update (by assumption)
    | (refine Sound.update ?_; with_reducible refine Sound.fst (by assumption) ?_)

theorem writeDwords_sound {org : State} (src : Source) (off : Nat) (l : List WDword) (s : State) (mine : List PBlock)
    (sk : Sound org s) : Sound org (writeDwords src off l s mine) := by
  induction l generalizing off s mine with
  | nil => exact sk
  | cons d l ih =>
    unfold writeDwords
    repeat' first
      | with_reducible assumption
      | (extract_lets +onlyGivenNames b; first | (refine Sound.cut (Sound org b) ?_ ?_ <;> first | (intro hb; clear_value b; refine Sound.hold ?_) | intro hb | (unfold b; clear b)) | (refine Sound.cut (Sound org b.1) ?_ ?_ <;> first | (intro hb; clear_value b; refine Sound.hold ?_) | intro hb | (unfold b; clear b)) | ((first | (have h0 : Nat := b; clear h0) | (have h0 : Bool := b; clear h0) | (have h0 : BitVec _ := b; clear h0) | (have h0 : List _ := b; clear h0)); clear_value b) | (unfold b; clear b) | clear b)
      | with_reducible apply ih
      | with_reducible apply turnAway_sound
      | with_reducible apply writeDword_sound
      | with_reducible refine Sound.fst (by assumption) ?_
      | ((with_reducible refine Sound.fold _ ?_ ?_) <;> try intro x a hb)
      | ((with_reducible refine Sound.foldP _ ?_ ?_) <;> try (intro x a hb; rcases x with ⟨x, xr⟩))
      | split
      | exact Sound.update (by assumption)
      | exact Sound.updateFa (by assumption)
      | exact Sound.updateIc (by assumption)
      | exact Sound.updateAon (by assumption)
      | (refine Sound.update ?_; with_reducible refine Sound.fst (by assumption) ?_)
      | exact hb.same rfl rfl rfl rfl rfl rfl rfl
      | exact sk.same rfl rfl rfl rfl rfl rfl rfl

theorem groupKeyWrite_sound {org : State} (src : Source) (addr : Nat) (v : Word) (s : State) (sk : Sound org s) : Sound org (groupKeyWrite src addr v s) := by
  unfold groupKeyWrite
  repeat' first
    | with_reducible assumption
    | (extract_lets +onlyGivenNames b; first | (unfold b; clear b) | clear b)
    | with_reducible apply writeReg_sound
    | with_reducible refine Sound.fst (by assumption) ?_
    | split
    | exact Sound.update (by assumption)
    | (refine Sound.update ?_; with_reducible refine Sound.fst (by assumption) ?_)

theorem draftWrite_sound {org : State} (src : Source) (off : Nat) (v : Word) (s : State) (sk : Sound org s) : Sound org (draftWrite src off v s) := by
  unfold draftWrite
  repeat' first
    | with_reducible assumption
    | (extract_lets +onlyGivenNames b; first | (refine Sound.cut (Sound org b) ?_ ?_ <;> first | (intro hb; clear_value b; refine Sound.hold ?_) | intro hb | (unfold b; clear b)) | (refine Sound.cut (Sound org b.1) ?_ ?_ <;> first | (intro hb; clear_value b; refine Sound.hold ?_) | intro hb | (unfold b; clear b)) | ((first | (have h0 : Nat := b; clear h0) | (have h0 : Bool := b; clear h0) | (have h0 : BitVec _ := b; clear h0) | (have h0 : List _ := b; clear h0)); clear_value b) | (unfold b; clear b) | clear b)
    | with_reducible apply turnAway_sound
    | with_reducible apply writeAlias_sound
    | with_reducible apply writeReserved_sound
    | with_reducible refine Sound.fst (by assumption) ?_
    | split
    | exact Sound.update (by assumption)
    | (refine Sound.update ?_; with_reducible refine Sound.fst (by assumption) ?_)

theorem writeOne_sound {org : State} (src : Source) (a : Access) (r : RegId) (v : Word) (s : State) (sk : Sound org s) : Sound org (writeOne src a r v s) := by
  unfold writeOne
  repeat' first
    | with_reducible assumption
    | with_reducible apply writeReg_sound
    | with_reducible refine Sound.fst (by assumption) ?_

theorem headCtrlWrite_sound {org : State} (src : Source) (n : Nat) (pg : Nat) (enable : Bool) (s : State) (sk : Sound org s) : Sound org (headCtrlWrite src n pg enable s) := by
  unfold headCtrlWrite
  repeat' first
    | with_reducible assumption
    | with_reducible apply writeOne_sound

theorem qctrlWrite_sound {org : State} (src : Source) (q : Nat) (v : Word) (s : State) (sk : Sound org s) : Sound org (qctrlWrite src q v s) := by
  unfold qctrlWrite
  repeat' first
    | with_reducible assumption
    | with_reducible apply writeOne_sound

theorem auxWrite_sound {org : State} (src : Source) (q : Nat) (t : Nat) (op : Nat) (lenM1 : Nat) (s : State) (sk : Sound org s) : Sound org (auxWrite src q t op lenM1 s) := by
  unfold auxWrite
  repeat' first
    | with_reducible assumption
    | with_reducible apply writeOne_sound

theorem pctrlWrite_sound {org : State} (src : Source) (p : Nat) (on : Bool) (s : State) (sk : Sound org s) : Sound org (pctrlWrite src p on s) := by
  unfold pctrlWrite
  repeat' first
    | with_reducible assumption
    | with_reducible apply writeOne_sound

theorem lctrlWrite_sound {org : State} (src : Source) (l : Nat) (v : Word) (s : State) (sk : Sound org s) : Sound org (lctrlWrite src l v s) := by
  unfold lctrlWrite
  repeat' first
    | with_reducible assumption
    | with_reducible apply writeOne_sound

theorem writeLand_sound {org : State} (b : PBlock) (s : State) (sk : Sound org s) : Sound org (writeLand b s) := by
  unfold writeLand
  repeat' first
    | with_reducible assumption
    | (extract_lets +onlyGivenNames b; first | (refine Sound.cut (Sound org b) ?_ ?_ <;> first | (intro hb; clear_value b; refine Sound.hold ?_) | intro hb | (unfold b; clear b)) | ((first | (have h0 : Nat := b; clear h0) | (have h0 : Bool := b; clear h0) | (have h0 : BitVec _ := b; clear h0) | (have h0 : List _ := b; clear h0)); clear_value b) | (unfold b; clear b) | clear b)
    | with_reducible apply landReg_sound
    | ((with_reducible refine Sound.fold _ ?_ ?_) <;> try intro x a hb)
    | exact Sound.update (by assumption)

theorem groupPending_sound {org : State} (key : Nat) (s : State) (sk : Sound org s) : Sound org (groupPending key s) := by
  unfold groupPending
  repeat' first
    | with_reducible assumption
    | (extract_lets +onlyGivenNames b; first | (refine Sound.cut (Sound org b) ?_ ?_ <;> first | (intro hb; clear_value b; refine Sound.hold ?_) | intro hb | (unfold b; clear b)) | ((first | (have h0 : Nat := b; clear h0) | (have h0 : Bool := b; clear h0) | (have h0 : BitVec _ := b; clear h0) | (have h0 : List _ := b; clear h0)); clear_value b) | (unfold b; clear b) | clear b)
    | with_reducible apply State.bump_sound
    | with_reducible apply State.setHead_sound
    | with_reducible apply raise_sound
    | with_reducible apply toTick_sound
    | split
    | exact Sound.update (by assumption)

end Sys2Proof.Machine
end

