-- ==== Sys2Proof/Laws/KeepDictOps.lean ====
section
/-! SUPPORT. What the operations of DictOps keep. -/

set_option linter.all false

namespace Sys2Proof.Machine

theorem afterRead_sound {org : State} (o : Own) (s : State) (sk : Sound org s) : Sound org (afterRead o s) := by
  unfold afterRead
  repeat' first
    | with_reducible assumption
    | (extract_lets +onlyGivenNames b; first | (refine Sound.cut (Sound org b) ?_ ?_ <;> first | (intro hb; clear_value b; refine Sound.hold ?_) | intro hb | (unfold b; clear b)) | (refine Sound.cut (Sound org b.1) ?_ ?_ <;> first | (intro hb; clear_value b; refine Sound.hold ?_) | intro hb | (unfold b; clear b)) | ((first | (have h0 : Nat := b; clear h0) | (have h0 : Bool := b; clear h0) | (have h0 : BitVec _ := b; clear h0) | (have h0 : List _ := b; clear h0)); clear_value b) | (unfold b; clear b) | clear b)
    | with_reducible apply State.draw_sound
    | with_reducible apply takeCause_sound
    | with_reducible refine Sound.fst (by assumption) ?_
    | ((with_reducible refine Sound.fold _ ?_ ?_) <;> try intro x a hb)
    | ((with_reducible refine Sound.foldP _ ?_ ?_) <;> try (intro x a hb; rcases x with ⟨x, xr⟩))
    | split
    | exact Sound.update (by assumption)
    | exact Sound.updateFa (by assumption)
    | exact Sound.updateIc (by assumption)
    | exact Sound.updateAon (by assumption)
    | (refine Sound.update ?_; with_reducible refine Sound.fst (by assumption) ?_)
    | exact hb.same rfl rfl rfl rfl rfl rfl rfl
    | exact sk.same rfl rfl rfl rfl rfl rfl rfl

theorem objValue_sound {org : State} (src : Source) (index : Nat) (sub : Nat) (txn : Bool) (d : ObjDef) (s : State) (sk : Sound org s) : Sound org (objValue src index sub txn d s).1 := by
  unfold objValue
  repeat' first
    | with_reducible assumption
    | (extract_lets +onlyGivenNames b; first | (refine Sound.cut (Sound org b) ?_ ?_ <;> first | (intro hb; clear_value b; refine Sound.hold ?_) | intro hb | (unfold b; clear b)) | ((first | (have h0 : Nat := b; clear h0) | (have h0 : Bool := b; clear h0) | (have h0 : BitVec _ := b; clear h0) | (have h0 : List _ := b; clear h0)); clear_value b) | (unfold b; clear b) | clear b)
    | with_reducible apply afterRead_sound
    | split
    | exact Sound.update (by assumption)

theorem readObject_sound {org : State} (src : Source) (index : Nat) (sub : Nat) (txn : Bool) (s : State) (sk : Sound org s) : Sound org (readObject src index sub txn s).1 := by
  unfold readObject
  repeat' first
    | with_reducible assumption
    | (extract_lets +onlyGivenNames b; first | (unfold b; clear b) | clear b)
    | with_reducible apply objValue_sound
    | with_reducible refine Sound.fst (by assumption) ?_
    | split
    | exact Sound.update (by assumption)
    | (refine Sound.update ?_; with_reducible refine Sound.fst (by assumption) ?_)

theorem setIface_sound {org : State} (i : Nat) (on : Bool) (s : State) (sk : Sound org s) : Sound org (setIface i on s) := by
  unfold setIface
  repeat' first
    | with_reducible assumption
    | (extract_lets +onlyGivenNames b; first | (refine Sound.cut (Sound org b) ?_ ?_ <;> first | (intro hb; clear_value b; refine Sound.hold ?_) | intro hb | (unfold b; clear b)) | ((first | (have h0 : Nat := b; clear h0) | (have h0 : Bool := b; clear h0) | (have h0 : BitVec _ := b; clear h0) | (have h0 : List _ := b; clear h0)); clear_value b) | (unfold b; clear b) | clear b)
    | ((with_reducible refine Sound.fold _ ?_ ?_) <;> try intro x a hb)
    | split
    | exact Sound.update (by assumption)

theorem setKept_sound {org : State} (index : Nat) (sub : Nat) (l : List Byte) (s : State) (sk : Sound org s) : Sound org (setKept index sub l s) := by
  unfold setKept
  repeat' first
    | with_reducible assumption
    | (extract_lets +onlyGivenNames b; first | (refine Sound.cut (Sound org b) ?_ ?_ <;> first | (intro hb; clear_value b; refine Sound.hold ?_) | intro hb | (unfold b; clear b)) | ((first | (have h0 : Nat := b; clear h0) | (have h0 : Bool := b; clear h0) | (have h0 : BitVec _ := b; clear h0) | (have h0 : List _ := b; clear h0)); clear_value b) | (unfold b; clear b) | clear b)
    | with_reducible apply setIface_sound
    | split
    | exact Sound.update (by assumption)

theorem endSession_sound {org : State} (s : State) (sk : Sound org s) : Sound org (endSession s) := by
  unfold endSession
  repeat' first
    | with_reducible assumption
    | (extract_lets +onlyGivenNames b; first | (refine Sound.cut (Sound org b) ?_ ?_ <;> first | (intro hb; clear_value b; refine Sound.hold ?_) | intro hb | (unfold b; clear b)) | ((first | (have h0 : Nat := b; clear h0) | (have h0 : Bool := b; clear h0) | (have h0 : BitVec _ := b; clear h0) | (have h0 : List _ := b; clear h0)); clear_value b) | (unfold b; clear b) | clear b)
    | with_reducible apply raise_sound
    | with_reducible apply loseHolder_sound
    | split
    | exact Sound.update (by assumption)

theorem openSession_sound {org : State} (who : Option Source) (s : State) (sk : Sound org s) : Sound org (openSession who s) := by
  unfold openSession
  repeat' first
    | with_reducible assumption
    | (extract_lets +onlyGivenNames b; first | (refine Sound.cut (Sound org b) ?_ ?_ <;> first | (intro hb; clear_value b; refine Sound.hold ?_) | intro hb | (unfold b; clear b)) | ((first | (have h0 : Nat := b; clear h0) | (have h0 : Bool := b; clear h0) | (have h0 : BitVec _ := b; clear h0) | (have h0 : List _ := b; clear h0)); clear_value b) | (unfold b; clear b) | clear b)
    | with_reducible apply raise_sound
    | with_reducible apply endSession_sound
    | exact Sound.update (by assumption)

theorem diagRespond_sound {org : State} (who : Option Source) (l : List Byte) (s : State) (sk : Sound org s) : Sound org (diagRespond who l s).1 := by
  unfold diagRespond
  repeat' first
    | with_reducible assumption
    | (extract_lets +onlyGivenNames b; first | (refine Sound.cut (Sound org b) ?_ ?_ <;> first | (intro hb; clear_value b; refine Sound.hold ?_) | intro hb | (unfold b; clear b)) | ((first | (have h0 : Nat := b; clear h0) | (have h0 : Bool := b; clear h0) | (have h0 : BitVec _ := b; clear h0) | (have h0 : List _ := b; clear h0)); clear_value b) | (unfold b; clear b) | clear b)
    | with_reducible apply openSession_sound
    | split
    | exact Sound.update (by assumption)

theorem revokeKey_sound {org : State} (j : Nat) (s : State) (sk : Sound org s) : Sound org (revokeKey j s) := by
  unfold revokeKey
  extract_lets x b c
  have hb : Sound org b :=
    { sk with
      revoked := fun i h => by
        show (setBit s.aon.fuseRevoked j true).getLsbD i = true
        have := sk.revoked i h
        simp [setBit, this] }
  have hc : Sound org c := loseHolder_sound _ _ hb
  clear_value c
  replace hb := hc
  repeat' first
    | with_reducible assumption
    | (extract_lets +onlyGivenNames b; first | (refine Sound.cut (Sound org b) ?_ ?_ <;> first | (intro hb; clear_value b; refine Sound.hold ?_) | intro hb | (unfold b; clear b)) | (refine Sound.cut (Sound org b.1) ?_ ?_ <;> first | (intro hb; clear_value b; refine Sound.hold ?_) | intro hb | (unfold b; clear b)) | ((first | (have h0 : Nat := b; clear h0) | (have h0 : Bool := b; clear h0) | (have h0 : BitVec _ := b; clear h0) | (have h0 : List _ := b; clear h0)); clear_value b) | (unfold b; clear b) | clear b)
    | with_reducible apply loseHolder_sound
    | with_reducible apply endSession_sound
    | with_reducible refine Sound.fst (by assumption) ?_
    | ((with_reducible refine Sound.fold _ ?_ ?_) <;> try intro x a hb)
    | ((with_reducible refine Sound.foldP _ ?_ ?_) <;> try (intro x a hb; rcases x with ⟨x, xr⟩))
    | split
    | exact Sound.update (by assumption)
    | exact Sound.updateFa (by assumption)
    | exact Sound.updateIc (by assumption)
    | exact Sound.updateAon (by assumption)
    | (refine Sound.update ?_; with_reducible refine Sound.fst (by assumption) ?_)
    | exact hb.same rfl rfl rfl rfl rfl rfl rfl
    | exact sk.same rfl rfl rfl rfl rfl rfl rfl

theorem clearLedger_sound {org : State} (s : State) (sk : Sound org s) : Sound org (clearLedger s) := by
  unfold clearLedger
  repeat' first
    | with_reducible assumption
    | (extract_lets +onlyGivenNames b; first | (unfold b; clear b) | clear b)
    | with_reducible apply State.setLedger_sound
    | ((with_reducible refine Sound.fold _ ?_ ?_) <;> try intro x a hb)
    | exact Sound.update (by assumption)

theorem writeCv_sound {org : State} (src : Source) (u : Nat) (v : Word) (s : State) (sk : Sound org s) : Sound org (writeCv src u v s).1 := by
  unfold writeCv
  repeat' first
    | with_reducible assumption
    | (extract_lets +onlyGivenNames b; first | (refine Sound.cut (Sound org b) ?_ ?_ <;> first | (intro hb; clear_value b; refine Sound.hold ?_) | intro hb | (unfold b; clear b)) | ((first | (have h0 : Nat := b; clear h0) | (have h0 : Bool := b; clear h0) | (have h0 : BitVec _ := b; clear h0) | (have h0 : List _ := b; clear h0)); clear_value b) | (unfold b; clear b) | clear b)
    | with_reducible apply cvCtrl_sound
    | split

theorem clearFails_sound {org : State} (n : Nat) (v : Nat) (s : State) (sk : Sound org s) : Sound org (clearFails n v s) := by
  unfold clearFails
  repeat' first
    | with_reducible assumption
    | with_reducible apply clearBits_sound
    | ((with_reducible refine Sound.fold _ ?_ ?_) <;> try intro x a hb)

theorem writeUser_sound {org : State} (src : Source) (k : Nat) (v : Word) (s : State) (sk : Sound org s) : Sound org (writeUser src k v s) := by
  unfold writeUser
  repeat' first
    | with_reducible assumption
    | (extract_lets +onlyGivenNames b; first | (unfold b; clear b) | clear b)
    | with_reducible apply State.setReg_sound
    | split
    | exact Sound.update (by assumption)

theorem writeSpire_sound {org : State} (on : Bool) (s : State) (sk : Sound org s) : Sound org (writeSpire on s).1 := by
  unfold writeSpire
  repeat' first
    | with_reducible assumption
    | (extract_lets +onlyGivenNames b; first | (unfold b; clear b) | clear b)
    | with_reducible apply spireEnter_sound
    | with_reducible apply spireExit_sound
    | with_reducible refine Sound.fst (by assumption) ?_
    | split
    | exact Sound.update (by assumption)
    | (refine Sound.update ?_; with_reducible refine Sound.fst (by assumption) ?_)

theorem writeFaultMask_sound {org : State} (v : Nat) (s : State) (sk : Sound org s) : Sound org (writeFaultMask v s) := by
  unfold writeFaultMask
  repeat' first
    | with_reducible assumption
    | with_reducible apply State.setReg_sound

theorem ownWrite_sound {org : State} (src : Source) (o : Own) (l : List Byte) (s : State) (sk : Sound org s) : Sound org (ownWrite src o l s).1 := by
  unfold ownWrite
  repeat' first
    | with_reducible assumption
    | (extract_lets +onlyGivenNames b; first | (refine Sound.cut (Sound org b) ?_ ?_ <;> first | (intro hb; clear_value b; refine Sound.hold ?_) | intro hb | (unfold b; clear b)) | (refine Sound.cut (Sound org b.1) ?_ ?_ <;> first | (intro hb; clear_value b; refine Sound.hold ?_) | intro hb | (unfold b; clear b)) | ((first | (have h0 : Nat := b; clear h0) | (have h0 : Bool := b; clear h0) | (have h0 : BitVec _ := b; clear h0) | (have h0 : List _ := b; clear h0)); clear_value b) | (unfold b; clear b) | clear b)
    | with_reducible apply State.setKeepHead_sound
    | with_reducible apply startLoad_sound
    | with_reducible apply keepClear_sound
    | with_reducible apply cvCtrl_sound
    | with_reducible apply landCvStatus_sound
    | with_reducible apply writePm_sound
    | with_reducible apply freeze_sound
    | with_reducible apply clearOvf_sound
    | with_reducible apply clearFaults_sound
    | with_reducible apply faultClear_sound
    | with_reducible apply endSession_sound
    | with_reducible apply diagRespond_sound
    | with_reducible apply revokeKey_sound
    | with_reducible apply clearLedger_sound
    | with_reducible apply writeCv_sound
    | with_reducible apply clearFails_sound
    | with_reducible apply writeUser_sound
    | with_reducible apply writeSpire_sound
    | with_reducible apply writeFaultMask_sound
    | with_reducible refine Sound.fst (by assumption) ?_
    | split
    | exact Sound.update (by assumption)
    | (refine Sound.update ?_; with_reducible refine Sound.fst (by assumption) ?_)

theorem agentWrite_sound {org : State} (src : Source) (s : State) (w : RegId × Word) (sk : Sound org s) : Sound org (agentWrite src s w) := by
  unfold agentWrite
  repeat' first
    | with_reducible assumption
    | (extract_lets +onlyGivenNames b; first | (unfold b; clear b) | clear b)
    | with_reducible apply landReg_sound
    | split
    | exact Sound.update (by assumption)

theorem draftWords_sound {org : State} (src : Source) (t : Nat) (ws : List (RegId × Word)) (s : State) (sk : Sound org s) : Sound org (draftWords src t ws s) := by
  unfold draftWords
  repeat' first
    | with_reducible assumption
    | with_reducible apply enterDraft_sound
    | ((with_reducible refine Sound.fold _ ?_ ?_) <;> try intro x a hb)

theorem writeMirror_sound {org : State} (src : Source) (txn : Bool) (rwt : Bool) (ws : List (RegId × Word)) (s : State) (sk : Sound org s) : Sound org (writeMirror src txn rwt ws s).1 := by
  unfold writeMirror
  repeat' first
    | with_reducible assumption
    | (extract_lets +onlyGivenNames b; first | (unfold b; clear b) | clear b)
    | with_reducible apply agentWrite_sound
    | with_reducible apply draftWords_sound
    | ((with_reducible refine Sound.fold _ ?_ ?_) <;> try intro x a hb)
    | ((with_reducible refine Sound.foldP _ ?_ ?_) <;> try (intro x a hb; rcases x with ⟨x, xr⟩))
    | split
    | exact Sound.update (by assumption)

theorem draftSelect_sound {org : State} (src : Source) (t : Nat) (v : Nat) (s : State) (sk : Sound org s) : Sound org (draftSelect src t v s) := by
  unfold draftSelect
  repeat' first
    | with_reducible assumption
    | with_reducible apply enterDraft_sound

theorem performWrite_sound {org : State} (src : Source) (index : Nat) (sub : Nat) (txn : Bool) (d : ObjDef) (l : List Byte) (s : State) (sk : Sound org s) : Sound org (performWrite src index sub txn d l s).1 := by
  unfold performWrite
  repeat' first
    | with_reducible assumption
    | (extract_lets +onlyGivenNames b; first | (refine Sound.cut (Sound org b) ?_ ?_ <;> first | (intro hb; clear_value b; refine Sound.hold ?_) | intro hb | (unfold b; clear b)) | (refine Sound.cut (Sound org b.1) ?_ ?_ <;> first | (intro hb; clear_value b; refine Sound.hold ?_) | intro hb | (unfold b; clear b)) | ((first | (have h0 : Nat := b; clear h0) | (have h0 : Bool := b; clear h0) | (have h0 : BitVec _ := b; clear h0) | (have h0 : List _ := b; clear h0)); clear_value b) | (unfold b; clear b) | clear b)
    | with_reducible apply setKept_sound
    | with_reducible apply ownWrite_sound
    | with_reducible apply writeMirror_sound
    | with_reducible apply draftSelect_sound
    | with_reducible refine Sound.fst (by assumption) ?_
    | split
    | exact Sound.update (by assumption)
    | (refine Sound.update ?_; with_reducible refine Sound.fst (by assumption) ?_)

theorem writeObject_sound {org : State} (src : Source) (index : Nat) (sub : Nat) (txn : Bool) (l : List Byte) (s : State) (sk : Sound org s) : Sound org (writeObject src index sub txn l s).1 := by
  unfold writeObject
  repeat' first
    | with_reducible assumption
    | (extract_lets +onlyGivenNames b; first | (unfold b; clear b) | clear b)
    | with_reducible apply queueStore_sound
    | with_reducible apply performWrite_sound
    | with_reducible refine Sound.fst (by assumption) ?_
    | split
    | exact Sound.update (by assumption)
    | (refine Sound.update ?_; with_reducible refine Sound.fst (by assumption) ?_)

end Sys2Proof.Machine
end

