-- ==== Sys2Proof/Laws/KeepDictCmds.lean ====
section
/-! SUPPORT. What the operations of DictCmds keep. -/

set_option linter.all false

namespace Sys2Proof.Machine

theorem raiseFloor_sound {org : State} (j : Nat) (v : Nat) (s : State) (sk : Sound org s) : Sound org (raiseFloor j v s) := by
  unfold raiseFloor
  repeat' first
    | with_reducible assumption
    | (extract_lets +onlyGivenNames b; first | (refine Sound.cut (Sound org b) ?_ ?_ <;> first | (intro hb; clear_value b; refine Sound.hold ?_) | intro hb | (unfold b; clear b)) | ((first | (have h0 : Nat := b; clear h0) | (have h0 : Bool := b; clear h0) | (have h0 : BitVec _ := b; clear h0) | (have h0 : List _ := b; clear h0)); clear_value b) | (unfold b; clear b) | clear b)
    | with_reducible apply writeStore_sound
    | split
    | exact Sound.update (by assumption)

theorem nextCounter_sound {org : State} (j : Nat) (s : State) (sk : Sound org s) : Sound org (nextCounter j s).1 := by
  unfold nextCounter
  repeat' first
    | with_reducible assumption
    | (extract_lets +onlyGivenNames b; first | (refine Sound.cut (Sound org b) ?_ ?_ <;> first | (intro hb; clear_value b; refine Sound.hold ?_) | intro hb | (unfold b; clear b)) | ((first | (have h0 : Nat := b; clear h0) | (have h0 : Bool := b; clear h0) | (have h0 : BitVec _ := b; clear h0) | (have h0 : List _ := b; clear h0)); clear_value b) | (unfold b; clear b) | clear b)
    | with_reducible apply writeStore_sound
    | split
    | exact Sound.update (by assumption)

theorem sendResponse_sound {org : State} (v : Via) (key : Option Nat) (l : List Byte) (s : State) (sk : Sound org s) : Sound org (sendResponse v key l s) := by
  unfold sendResponse
  repeat' first
    | with_reducible assumption
    | (extract_lets +onlyGivenNames b; first | (unfold b; clear b) | clear b)
    | with_reducible apply State.send_sound
    | with_reducible apply State.answer_sound
    | split
    | exact Sound.update (by assumption)

theorem respond_sound {org : State} (m : Msg) (slot : Option Nat) (a : Abort) (data : List Byte) (last : Bool) (s : State) (sk : Sound org s) : Sound org (respond m slot a data last s) := by
  unfold respond
  repeat' first
    | with_reducible assumption
    | (extract_lets +onlyGivenNames b; first | (refine Sound.cut (Sound org b) ?_ ?_ <;> first | (intro hb; clear_value b; refine Sound.hold ?_) | intro hb | (unfold b; clear b)) | (refine Sound.cut (Sound org b.1) ?_ ?_ <;> first | (intro hb; clear_value b; refine Sound.hold ?_) | intro hb | (unfold b; clear b)) | ((first | (have h0 : Nat := b; clear h0) | (have h0 : Bool := b; clear h0) | (have h0 : BitVec _ := b; clear h0) | (have h0 : List _ := b; clear h0)); clear_value b) | (unfold b; clear b) | clear b)
    | with_reducible apply State.setWin_sound
    | with_reducible apply State.answer_sound
    | with_reducible apply perfEvent_sound
    | with_reducible apply nextCounter_sound
    | with_reducible apply sendResponse_sound
    | with_reducible refine Sound.fst (by assumption) ?_
    | split
    | exact Sound.update (by assumption)
    | (refine Sound.update ?_; with_reducible refine Sound.fst (by assumption) ?_)

theorem serveRead_sound {org : State} (m : Msg) (s : State) (sk : Sound org s) : Sound org (serveRead m s).1 := by
  unfold serveRead
  repeat' first
    | with_reducible assumption
    | (extract_lets +onlyGivenNames b; first | (unfold b; clear b) | clear b)
    | with_reducible apply readObject_sound
    | with_reducible refine Sound.fst (by assumption) ?_
    | split
    | exact Sound.update (by assumption)
    | (refine Sound.update ?_; with_reducible refine Sound.fst (by assumption) ?_)

theorem awaitStore_sound {org : State} (m : Msg) (s : State) (sk : Sound org s) : Sound org (awaitStore m s) := by
  unfold awaitStore
  repeat' first
    | with_reducible assumption
    | (extract_lets +onlyGivenNames b; first | (unfold b; clear b) | clear b)
    | exact Sound.update (by assumption)

theorem awaitSpire_sound {org : State} (m : Msg) (s : State) (sk : Sound org s) : Sound org (awaitSpire m s) := by
  unfold awaitSpire
  repeat' first
    | with_reducible assumption
    | (extract_lets +onlyGivenNames b; first | (unfold b; clear b) | clear b)
    | exact Sound.update (by assumption)

theorem awaitBlock_sound {org : State} (m : Msg) (s : State) (sk : Sound org s) : Sound org (awaitBlock m s) := by
  unfold awaitBlock
  repeat' first
    | with_reducible assumption
    | (extract_lets +onlyGivenNames b; first | (unfold b; clear b) | clear b)
    | exact Sound.update (by assumption)

theorem serveWrite_sound {org : State} (m : Msg) (s : State) (sk : Sound org s) : Sound org (serveWrite m s).1 := by
  unfold serveWrite
  repeat' first
    | with_reducible assumption
    | (extract_lets +onlyGivenNames b; first | (unfold b; clear b) | clear b)
    | with_reducible apply writeObject_sound
    | with_reducible apply awaitStore_sound
    | with_reducible apply awaitSpire_sound
    | with_reducible apply awaitBlock_sound
    | with_reducible refine Sound.fst (by assumption) ?_
    | split
    | exact Sound.update (by assumption)
    | (refine Sound.update ?_; with_reducible refine Sound.fst (by assumption) ?_)

theorem serveReadSeg_sound {org : State} (m : Msg) (s : State) (sk : Sound org s) : Sound org (serveReadSeg m s).1 := by
  unfold serveReadSeg
  repeat' first
    | with_reducible assumption
    | (extract_lets +onlyGivenNames b; first | (refine Sound.cut (Sound org b) ?_ ?_ <;> first | (intro hb; clear_value b; refine Sound.hold ?_) | intro hb | (unfold b; clear b)) | (refine Sound.cut (Sound org b.1) ?_ ?_ <;> first | (intro hb; clear_value b; refine Sound.hold ?_) | intro hb | (unfold b; clear b)) | ((first | (have h0 : Nat := b; clear h0) | (have h0 : Bool := b; clear h0) | (have h0 : BitVec _ := b; clear h0) | (have h0 : List _ := b; clear h0)); clear_value b) | (unfold b; clear b) | clear b)
    | with_reducible apply readObject_sound
    | with_reducible refine Sound.fst (by assumption) ?_
    | split
    | exact Sound.update (by assumption)
    | (refine Sound.update ?_; with_reducible refine Sound.fst (by assumption) ?_)

theorem serveWriteSeg_sound {org : State} (m : Msg) (s : State) (sk : Sound org s) : Sound org (serveWriteSeg m s).1 := by
  unfold serveWriteSeg
  repeat' first
    | with_reducible assumption
    | (extract_lets +onlyGivenNames b; first | (refine Sound.cut (Sound org b) ?_ ?_ <;> first | (intro hb; clear_value b; refine Sound.hold ?_) | intro hb | (unfold b; clear b)) | (refine Sound.cut (Sound org b.1) ?_ ?_ <;> first | (intro hb; clear_value b; refine Sound.hold ?_) | intro hb | (unfold b; clear b)) | ((first | (have h0 : Nat := b; clear h0) | (have h0 : Bool := b; clear h0) | (have h0 : BitVec _ := b; clear h0) | (have h0 : List _ := b; clear h0)); clear_value b) | (unfold b; clear b) | clear b)
    | with_reducible apply writeObject_sound
    | with_reducible apply awaitStore_sound
    | with_reducible apply awaitSpire_sound
    | with_reducible apply awaitBlock_sound
    | with_reducible refine Sound.fst (by assumption) ?_
    | split
    | exact Sound.update (by assumption)
    | (refine Sound.update ?_; with_reducible refine Sound.fst (by assumption) ?_)

theorem serveBegin_sound {org : State} (m : Msg) (s : State) (sk : Sound org s) : Sound org (serveBegin m s).1 := by
  unfold serveBegin
  repeat' first
    | with_reducible assumption
    | (extract_lets +onlyGivenNames b; first | (unfold b; clear b) | clear b)
    | with_reducible apply openTicket_sound
    | split
    | exact Sound.update (by assumption)

theorem serveCommit_sound {org : State} (m : Msg) (s : State) (sk : Sound org s) : Sound org (serveCommit m s).1 := by
  unfold serveCommit
  repeat' first
    | with_reducible assumption
    | (extract_lets +onlyGivenNames b; first | (refine Sound.cut (Sound org b) ?_ ?_ <;> first | (intro hb; clear_value b; refine Sound.hold ?_) | intro hb | (unfold b; clear b)) | ((first | (have h0 : Nat := b; clear h0) | (have h0 : Bool := b; clear h0) | (have h0 : BitVec _ := b; clear h0) | (have h0 : List _ := b; clear h0)); clear_value b) | (unfold b; clear b) | clear b)
    | with_reducible apply takeCommit_sound
    | split
    | exact Sound.update (by assumption)

theorem serveRollback_sound {org : State} (m : Msg) (s : State) (sk : Sound org s) : Sound org (serveRollback m s).1 := by
  unfold serveRollback
  repeat' first
    | with_reducible assumption
    | (extract_lets +onlyGivenNames b; first | (refine Sound.cut (Sound org b) ?_ ?_ <;> first | (intro hb; clear_value b; refine Sound.hold ?_) | intro hb | (unfold b; clear b)) | ((first | (have h0 : Nat := b; clear h0) | (have h0 : Bool := b; clear h0) | (have h0 : BitVec _ := b; clear h0) | (have h0 : List _ := b; clear h0)); clear_value b) | (unfold b; clear b) | clear b)
    | with_reducible apply freeTicket_sound
    | split
    | exact Sound.update (by assumption)

theorem serveOp_sound {org : State} (op : Nat) (m : Msg) (s : State) (sk : Sound org s) : Sound org (serveOp op m s).1 := by
  unfold serveOp
  repeat' first
    | with_reducible assumption
    | (extract_lets +onlyGivenNames b; first | (unfold b; clear b) | clear b)
    | with_reducible apply serveRead_sound
    | with_reducible apply serveWrite_sound
    | with_reducible apply serveReadSeg_sound
    | with_reducible apply serveWriteSeg_sound
    | with_reducible apply serveBegin_sound
    | with_reducible apply serveCommit_sound
    | with_reducible apply serveRollback_sound
    | with_reducible refine Sound.fst (by assumption) ?_
    | split
    | exact Sound.update (by assumption)
    | (refine Sound.update ?_; with_reducible refine Sound.fst (by assumption) ?_)

theorem touchSession_sound {org : State} (src : Source) (s : State) (sk : Sound org s) : Sound org (touchSession src s) := by
  unfold touchSession
  repeat' first
    | with_reducible assumption
    | (extract_lets +onlyGivenNames b; first | (unfold b; clear b) | clear b)
    | split
    | exact Sound.update (by assumption)

theorem conclude_sound {org : State} (op : Nat) (m : Msg) (s : State) (sk : Sound org s) : Sound org (conclude op m s) := by
  unfold conclude
  repeat' first
    | with_reducible assumption
    | (extract_lets +onlyGivenNames b; first | (unfold b; clear b) | clear b)
    | with_reducible apply respond_sound
    | with_reducible apply serveOp_sound
    | with_reducible refine Sound.fst (by assumption) ?_
    | split
    | exact Sound.update (by assumption)
    | (refine Sound.update ?_; with_reducible refine Sound.fst (by assumption) ?_)

theorem process_sound {org : State} (op : Nat) (m : Msg) (s : State) (sk : Sound org s) : Sound org (process op m s) := by
  unfold process
  repeat' first
    | with_reducible assumption
    | (extract_lets +onlyGivenNames b; first | (unfold b; clear b) | clear b)
    | with_reducible apply perfEvent_sound
    | with_reducible apply touchSession_sound
    | with_reducible apply conclude_sound
    | exact Sound.update (by assumption)

theorem drain_sound {org : State} (n : Nat) (s : State) (sk : Sound org s) : Sound org (drain n s) := by
  induction n generalizing s with
  | zero => exact sk
  | succ n ih =>
    unfold drain
    repeat' first
      | with_reducible assumption
      | (extract_lets +onlyGivenNames b; first | (refine Sound.cut (Sound org b) ?_ ?_ <;> first | (intro hb; clear_value b; refine Sound.hold ?_) | intro hb | (unfold b; clear b)) | (refine Sound.cut (Sound org b.1) ?_ ?_ <;> first | (intro hb; clear_value b; refine Sound.hold ?_) | intro hb | (unfold b; clear b)) | ((first | (have h0 : Nat := b; clear h0) | (have h0 : Bool := b; clear h0) | (have h0 : BitVec _ := b; clear h0) | (have h0 : List _ := b; clear h0)); clear_value b) | (unfold b; clear b) | clear b)
      | with_reducible apply ih
      | with_reducible apply process_sound
      | with_reducible refine Sound.fst (by assumption) ?_
      | ((with_reducible refine Sound.fold _ ?_ ?_) <;> try intro x a hb)
      | ((with_reducible refine Sound.foldP _ ?_ ?_) <;> try (intro x a hb; rcases x with ⟨x, xr⟩))
      | split
      | exact Sound.update (by assumption)
      | exact Sound.updateFa (by assumption)
      | exact Sound.updateIc (by assumption)
      | exact Sound.updateAon (by assumption)
      | (refine Sound.update ?_; with_reducible refine Sound.fst (by assumption) ?_)
      | exact hb.same rfl rfl rfl rfl rfl rfl rfl
      | exact sk.same rfl rfl rfl rfl rfl rfl rfl

theorem drainAll_sound {org : State} (s : State) (sk : Sound org s) : Sound org (drainAll s) := by
  unfold drainAll
  repeat' first
    | with_reducible assumption
    | with_reducible apply drain_sound

theorem arrive_sound {org : State} (op : Nat) (m : Msg) (s : State) (sk : Sound org s) : Sound org (arrive op m s) := by
  unfold arrive
  repeat' first
    | with_reducible assumption
    | (extract_lets +onlyGivenNames b; first | (refine Sound.cut (Sound org b) ?_ ?_ <;> first | (intro hb; clear_value b; refine Sound.hold ?_) | intro hb | (unfold b; clear b)) | ((first | (have h0 : Nat := b; clear h0) | (have h0 : Bool := b; clear h0) | (have h0 : BitVec _ := b; clear h0) | (have h0 : List _ := b; clear h0)); clear_value b) | (unfold b; clear b) | clear b)
    | with_reducible apply perfEvent_sound
    | with_reducible apply respond_sound
    | with_reducible apply process_sound
    | split
    | exact Sound.update (by assumption)

theorem turnDown_sound {org : State} (m : Msg) (a : Auth) (s : State) (sk : Sound org s) : Sound org (turnDown m a s) := by
  unfold turnDown
  repeat' first
    | with_reducible assumption
    | (extract_lets +onlyGivenNames b; first | (refine Sound.cut (Sound org b) ?_ ?_ <;> first | (intro hb; clear_value b; refine Sound.hold ?_) | intro hb | (unfold b; clear b)) | ((first | (have h0 : Nat := b; clear h0) | (have h0 : Bool := b; clear h0) | (have h0 : BitVec _ := b; clear h0) | (have h0 : List _ := b; clear h0)); clear_value b) | (unfold b; clear b) | clear b)
    | with_reducible apply perfEvent_sound
    | with_reducible apply raise_sound
    | with_reducible apply respond_sound
    | split
    | exact Sound.update (by assumption)

theorem authenticated_sound {org : State} (op : Nat) (m : Msg) (s : State) (sk : Sound org s) : Sound org (authenticated op m s) := by
  unfold authenticated
  repeat' first
    | with_reducible assumption
    | (extract_lets +onlyGivenNames b; first | (refine Sound.cut (Sound org b) ?_ ?_ <;> first | (intro hb; clear_value b; refine Sound.hold ?_) | intro hb | (unfold b; clear b)) | ((first | (have h0 : Nat := b; clear h0) | (have h0 : Bool := b; clear h0) | (have h0 : BitVec _ := b; clear h0) | (have h0 : List _ := b; clear h0)); clear_value b) | (unfold b; clear b) | clear b)
    | with_reducible apply raiseFloor_sound
    | with_reducible apply arrive_sound
    | with_reducible apply turnDown_sound
    | split
    | exact Sound.update (by assumption)

theorem countRxErr_sound {org : State} (i : Nat) (s : State) (sk : Sound org s) : Sound org (countRxErr i s) := by
  unfold countRxErr
  repeat' first
    | with_reducible assumption
    | (extract_lets +onlyGivenNames b; first | (unfold b; clear b) | clear b)
    | exact Sound.update (by assumption)

theorem receiveNet_sound {org : State} (op : Nat) (m : Msg) (s : State) (sk : Sound org s) : Sound org (receiveNet op m s) := by
  unfold receiveNet
  repeat' first
    | with_reducible assumption
    | (extract_lets +onlyGivenNames b; first | (refine Sound.cut (Sound org b) ?_ ?_ <;> first | (intro hb; clear_value b; refine Sound.hold ?_) | intro hb | (unfold b; clear b)) | ((first | (have h0 : Nat := b; clear h0) | (have h0 : Bool := b; clear h0) | (have h0 : BitVec _ := b; clear h0) | (have h0 : List _ := b; clear h0)); clear_value b) | (unfold b; clear b) | clear b)
    | with_reducible apply authenticated_sound
    | with_reducible apply countRxErr_sound
    | split
    | exact Sound.update (by assumption)

theorem takeWindow_sound {org : State} (op : Nat) (f : Fin 32) (s : State) (sk : Sound org s) : Sound org (takeWindow op f s) := by
  unfold takeWindow
  repeat' first
    | with_reducible assumption
    | (extract_lets +onlyGivenNames b; first | (refine Sound.cut (Sound org b) ?_ ?_ <;> first | (intro hb; clear_value b; refine Sound.hold ?_) | intro hb | (unfold b; clear b)) | ((first | (have h0 : Nat := b; clear h0) | (have h0 : Bool := b; clear h0) | (have h0 : BitVec _ := b; clear h0) | (have h0 : List _ := b; clear h0)); clear_value b) | (unfold b; clear b) | clear b)
    | with_reducible apply State.setWin_sound
    | with_reducible apply process_sound
    | exact Sound.update (by assumption)

theorem receive_sound {org : State} (op : Nat) (m : Msg) (s : State) (sk : Sound org s) : Sound org (receive op m s) := by
  unfold receive
  repeat' first
    | with_reducible assumption
    | (extract_lets +onlyGivenNames b; first | (unfold b; clear b) | clear b)
    | with_reducible apply receiveNet_sound
    | with_reducible apply takeWindow_sound
    | split
    | exact Sound.update (by assumption)

theorem sendLen_sound {org : State} (f : Fin 32) (len : Nat) (s : State) (sk : Sound org s) : Sound org (sendLen f len s) := by
  unfold sendLen
  repeat' first
    | with_reducible assumption
    | (extract_lets +onlyGivenNames b; first | (refine Sound.cut (Sound org b) ?_ ?_ <;> first | (intro hb; clear_value b; refine Sound.hold ?_) | intro hb | (unfold b; clear b)) | ((first | (have h0 : Nat := b; clear h0) | (have h0 : Bool := b; clear h0) | (have h0 : BitVec _ := b; clear h0) | (have h0 : List _ := b; clear h0)); clear_value b) | (unfold b; clear b) | clear b)
    | with_reducible apply report_sound
    | with_reducible apply sendWindow_sound
    | split
    | exact Sound.update (by assumption)

theorem postWindow_sound {org : State} (f : Nat) (l : List Byte) (s : State) (sk : Sound org s) : Sound org (postWindow f l s) := by
  unfold postWindow
  repeat' first
    | with_reducible assumption
    | (extract_lets +onlyGivenNames b; first | (unfold b; clear b) | clear b)
    | with_reducible apply State.setWin_sound
    | with_reducible apply raiseAt_sound
    | exact Sound.update (by assumption)

theorem windowResponse_sound {org : State} (f : Fin 32) (s : State) (sk : Sound org s) : Sound org (windowResponse f s) := by
  unfold windowResponse
  repeat' first
    | with_reducible assumption
    | (extract_lets +onlyGivenNames b; first | (refine Sound.cut (Sound org b) ?_ ?_ <;> first | (intro hb; clear_value b; refine Sound.hold ?_) | intro hb | (unfold b; clear b)) | ((first | (have h0 : Nat := b; clear h0) | (have h0 : Bool := b; clear h0) | (have h0 : BitVec _ := b; clear h0) | (have h0 : List _ := b; clear h0)); clear_value b) | (unfold b; clear b) | clear b)
    | with_reducible apply takeWindow_sound
    | with_reducible apply postWindow_sound
    | split
    | exact Sound.update (by assumption)

theorem answerHeld_sound {org : State} (a : Abort) (s : State) (m : Msg) (sk : Sound org s) : Sound org (answerHeld a s m) := by
  unfold answerHeld
  repeat' first
    | with_reducible assumption
    | with_reducible apply respond_sound
    | split

theorem answerStored_sound {org : State} (ok : Bool) (s : State) (m : Msg) (sk : Sound org s) : Sound org (answerStored ok s m) := by
  unfold answerStored
  repeat' first
    | with_reducible assumption
    | with_reducible apply answerHeld_sound
    | split

theorem storeWrite_sound {org : State} (ok : Bool) (s : State) (sk : Sound org s) : Sound org (storeWrite ok s) := by
  unfold storeWrite
  repeat' first
    | with_reducible assumption
    | (extract_lets +onlyGivenNames b; first | (refine Sound.cut (Sound org b) ?_ ?_ <;> first | (intro hb; clear_value b; refine Sound.hold ?_) | intro hb | (unfold b; clear b)) | ((first | (have h0 : Nat := b; clear h0) | (have h0 : Bool := b; clear h0) | (have h0 : BitVec _ := b; clear h0) | (have h0 : List _ := b; clear h0)); clear_value b) | (unfold b; clear b) | clear b)
    | with_reducible apply writeLedger_sound
    | with_reducible apply writeStore_sound
    | with_reducible apply drainAll_sound
    | with_reducible apply answerStored_sound
    | ((with_reducible refine Sound.fold _ ?_ ?_) <;> try intro x a hb)
    | split
    | exact Sound.update (by assumption)

theorem settleSpire_sound {org : State} (a : Abort) (s : State) (sk : Sound org s) : Sound org (settleSpire a s) := by
  unfold settleSpire
  repeat' first
    | with_reducible assumption
    | (extract_lets +onlyGivenNames b; first | (refine Sound.cut (Sound org b) ?_ ?_ <;> first | (intro hb; clear_value b; refine Sound.hold ?_) | intro hb | (unfold b; clear b)) | ((first | (have h0 : Nat := b; clear h0) | (have h0 : Bool := b; clear h0) | (have h0 : BitVec _ := b; clear h0) | (have h0 : List _ := b; clear h0)); clear_value b) | (unfold b; clear b) | clear b)
    | with_reducible apply drainAll_sound
    | with_reducible apply answerHeld_sound
    | ((with_reducible refine Sound.fold _ ?_ ?_) <;> try intro x a hb)
    | split
    | exact Sound.update (by assumption)

theorem resumeBlocked_sound {org : State} (s : State) (sk : Sound org s) : Sound org (resumeBlocked s) := by
  unfold resumeBlocked
  repeat' first
    | with_reducible assumption
    | (extract_lets +onlyGivenNames b; first | (refine Sound.cut (Sound org b) ?_ ?_ <;> first | (intro hb; clear_value b; refine Sound.hold ?_) | intro hb | (unfold b; clear b)) | ((first | (have h0 : Nat := b; clear h0) | (have h0 : Bool := b; clear h0) | (have h0 : BitVec _ := b; clear h0) | (have h0 : List _ := b; clear h0)); clear_value b) | (unfold b; clear b) | clear b)
    | with_reducible apply conclude_sound
    | with_reducible apply drainAll_sound
    | ((with_reducible refine Sound.fold _ ?_ ?_) <;> try intro x a hb)
    | exact Sound.update (by assumption)

theorem answerCommit_sound {org : State} (t : Nat) (m : Msg) (empty : Bool) (s : State) (sk : Sound org s) : Sound org (answerCommit t m empty s) := by
  unfold answerCommit
  repeat' first
    | with_reducible assumption
    | (extract_lets +onlyGivenNames b; first | (refine Sound.cut (Sound org b) ?_ ?_ <;> first | (intro hb; clear_value b; refine Sound.hold ?_) | intro hb | (unfold b; clear b)) | ((first | (have h0 : Nat := b; clear h0) | (have h0 : Bool := b; clear h0) | (have h0 : BitVec _ := b; clear h0) | (have h0 : List _ := b; clear h0)); clear_value b) | (unfold b; clear b) | clear b)
    | with_reducible apply respond_sound
    | split

theorem verificationComplete_sound {org : State} (s : State) (sk : Sound org s) : Sound org (verificationComplete s) := by
  unfold verificationComplete
  repeat' first
    | with_reducible assumption
    | (extract_lets +onlyGivenNames b; first | (refine Sound.cut (Sound org b) ?_ ?_ <;> first | (intro hb; clear_value b; refine Sound.hold ?_) | intro hb | (unfold b; clear b)) | ((first | (have h0 : Nat := b; clear h0) | (have h0 : Bool := b; clear h0) | (have h0 : BitVec _ := b; clear h0) | (have h0 : List _ := b; clear h0)); clear_value b) | (unfold b; clear b) | clear b)
    | with_reducible apply State.answer_sound
    | with_reducible apply verifyTicket_sound
    | with_reducible apply drainAll_sound
    | with_reducible apply answerCommit_sound
    | split
    | exact Sound.update (by assumption)

theorem segmentTimeout_sound {org : State} (src : Source) (udp : Bool) (s : State) (sk : Sound org s) :
    Sound org (segmentTimeout src udp s) := by
  unfold segmentTimeout
  extract_lets +onlyGivenNames l
  clear_value l
  cases l
  · exact sk
  · exact Sound.update (toTick_sound _ _ sk)

theorem takeDirect_sound {org : State} (src : Source) (s : State) (sk : Sound org s) : Sound org (takeDirect src s).1 := by
  unfold takeDirect
  repeat' first
    | with_reducible assumption
    | (extract_lets +onlyGivenNames b; first | (refine Sound.cut (Sound org b) ?_ ?_ <;> first | (intro hb; clear_value b; refine Sound.hold ?_) | intro hb | (unfold b; clear b)) | ((first | (have h0 : Nat := b; clear h0) | (have h0 : Bool := b; clear h0) | (have h0 : BitVec _ := b; clear h0) | (have h0 : List _ := b; clear h0)); clear_value b) | (unfold b; clear b) | clear b)
    | with_reducible apply raise_sound
    | with_reducible apply raiseFloor_sound
    | split
    | exact Sound.update (by assumption)

theorem direct_sound {org : State} (src : Source) (f : State → State × Abort × List Byte) (s : State) (sk : Sound org s)
    (hf : ∀ x, Sound org x → Sound org (f x).1) : Sound org (direct src f s) := by
  unfold direct
  extract_lets o
  have ho : Sound org o.1 := by
    unfold o
    have h := takeDirect_sound src (perfEvent 15 anyInst 1 1 s) (perfEvent_sound _ _ _ _ _ sk)
    split
    · rename_i t e
      rw [e] at h
      exact hf _ (touchSession_sound _ _ h)
    · rename_i t a _ e
      rw [e] at h
      exact h
  refine State.answer_sound _ _ ?_
  split
  · exact ho
  · exact perfEvent_sound _ _ _ _ _ ho

theorem directWrite_sound {org : State} (src : Source) (index : Nat) (sub : Nat) (l : List Byte) (s : State) (sk : Sound org s) : Sound org (directWrite src index sub l s) := by
  unfold directWrite
  repeat' first
    | with_reducible assumption
    | (extract_lets +onlyGivenNames b; first | (unfold b; clear b) | clear b)
    | with_reducible apply writeObject_sound
    | ((with_reducible apply direct_sound) <;> try intro x hb)
    | with_reducible refine Sound.fst (by assumption) ?_
    | split
    | exact Sound.update (by assumption)
    | (refine Sound.update ?_; with_reducible refine Sound.fst (by assumption) ?_)

theorem diagChallenge_sound {org : State} (src : Source) (s : State) (sk : Sound org s) : Sound org (diagChallenge src s) := by
  unfold diagChallenge
  repeat' first
    | with_reducible assumption
    | with_reducible apply readObject_sound
    | ((with_reducible apply direct_sound) <;> try intro x hb)
    | with_reducible refine Sound.fst (by assumption) ?_

theorem diagSessionTimeout_sound {org : State} (s : State) (sk : Sound org s) : Sound org (diagSessionTimeout s) := by
  unfold diagSessionTimeout
  repeat' first
    | with_reducible assumption
    | with_reducible apply toTick_sound
    | with_reducible apply endSession_sound
    | split

theorem diagLockoutEnd_sound {org : State} (s : State) (sk : Sound org s) : Sound org (diagLockoutEnd s) := by
  unfold diagLockoutEnd
  split
  · exact sk
  · exact Sound.update (toTick_sound _ _ sk)

theorem ledgerClear_sound {org : State} (src : Source) (value : Byte) (ok : Bool) (s : State) (sk : Sound org s) : Sound org (ledgerClear src value ok s) := by
  unfold ledgerClear
  repeat' first
    | with_reducible assumption
    | (extract_lets +onlyGivenNames b; first | (refine Sound.cut (Sound org b) ?_ ?_ <;> first | (intro hb; clear_value b; refine Sound.hold ?_) | intro hb | (unfold b; clear b)) | ((first | (have h0 : Nat := b; clear h0) | (have h0 : Bool := b; clear h0) | (have h0 : BitVec _ := b; clear h0) | (have h0 : List _ := b; clear h0)); clear_value b) | (unfold b; clear b) | clear b)
    | with_reducible apply writeLedger_sound
    | with_reducible apply directWrite_sound
    | split
    | exact Sound.update (by assumption)

theorem sendCopy_sound {org : State} (cls : Nat) (number : Nat) (lost : Nat) (x : Note) (s : State) (d : Dest × Nat) (sk : Sound org s) : Sound org (sendCopy cls number lost x s d) := by
  unfold sendCopy
  repeat' first
    | with_reducible assumption
    | (extract_lets +onlyGivenNames b; first | (refine Sound.cut (Sound org b) ?_ ?_ <;> first | (intro hb; clear_value b; refine Sound.hold ?_) | intro hb | (unfold b; clear b)) | (refine Sound.cut (Sound org b.1) ?_ ?_ <;> first | (intro hb; clear_value b; refine Sound.hold ?_) | intro hb | (unfold b; clear b)) | ((first | (have h0 : Nat := b; clear h0) | (have h0 : Bool := b; clear h0) | (have h0 : BitVec _ := b; clear h0) | (have h0 : List _ := b; clear h0)); clear_value b) | (unfold b; clear b) | clear b)
    | with_reducible apply State.send_sound
    | with_reducible apply nextCounter_sound
    | with_reducible refine Sound.fst (by assumption) ?_
    | split
    | exact Sound.update (by assumption)
    | (refine Sound.update ?_; with_reducible refine Sound.fst (by assumption) ?_)

theorem sendNote_sound {org : State} (cls : Nat) (s : State) (sk : Sound org s) : Sound org (sendNote cls s) := by
  unfold sendNote
  repeat' first
    | with_reducible assumption
    | (extract_lets +onlyGivenNames b; first | (refine Sound.cut (Sound org b) ?_ ?_ <;> first | (intro hb; clear_value b; refine Sound.hold ?_) | intro hb | (unfold b; clear b)) | ((first | (have h0 : Nat := b; clear h0) | (have h0 : Bool := b; clear h0) | (have h0 : BitVec _ := b; clear h0) | (have h0 : List _ := b; clear h0)); clear_value b) | (unfold b; clear b) | clear b)
    | with_reducible apply sendCopy_sound
    | ((with_reducible refine Sound.fold _ ?_ ?_) <;> try intro x a hb)
    | split
    | exact Sound.update (by assumption)

theorem notifyClass_sound {org : State} (cls : Nat) (s : State) (sk : Sound org s) : Sound org (notifyClass cls s) := by
  unfold notifyClass
  repeat' first
    | with_reducible assumption
    | with_reducible apply sendNote_sound
    | split

end Sys2Proof.Machine
end

