-- ==== Sys2Proof/Laws/KeepHostCmds.lean ====
section
/-! SUPPORT. What the operations of HostCmds keep. -/

set_option linter.all false

namespace Sys2Proof.Machine

theorem beyondBar_sound {org : State} (f : Nat) (bar : Nat) (off : Nat) (write : Bool) (s : State) (sk : Sound org s) : Sound org (beyondBar f bar off write s) := by
  unfold beyondBar
  repeat' first
    | with_reducible assumption
    | (extract_lets +onlyGivenNames b; first | (refine Sound.cut (Sound org b) ?_ ?_ <;> first | (intro hb; clear_value b; refine Sound.hold ?_) | intro hb | (unfold b; clear b)) | ((first | (have h0 : Nat := b; clear h0) | (have h0 : Bool := b; clear h0) | (have h0 : BitVec _ := b; clear h0) | (have h0 : List _ := b; clear h0)); clear_value b) | (unfold b; clear b) | clear b)
    | with_reducible apply State.answer_sound
    | with_reducible apply aerLog_sound
    | split

theorem removeEntries_sound {org : State} (f : Nat) (slot : Nat) (s : State) (sk : Sound org s) : Sound org (removeEntries f slot s) := by
  unfold removeEntries
  repeat' first
    | with_reducible assumption
    | (extract_lets +onlyGivenNames b; first | (refine Sound.cut (Sound org b) ?_ ?_ <;> first | (intro hb; clear_value b; refine Sound.hold ?_) | intro hb | (unfold b; clear b)) | ((first | (have h0 : Nat := b; clear h0) | (have h0 : Bool := b; clear h0) | (have h0 : BitVec _ := b; clear h0) | (have h0 : List _ := b; clear h0)); clear_value b) | (unfold b; clear b) | clear b)
    | ((with_reducible refine Sound.setLayerOf ?_ _ _ ?_) <;> try (intro hq; first | exact (hb.queue hq).1 _ | exact (sk.queue hq).1 _ | exact Nat.le_trans (List.length_filter_le _ _) ((hb.queue hq).1 _) | exact Nat.le_trans (List.length_filter_le _ _) ((sk.queue hq).1 _)))
    | with_reducible apply dropPin_sound
    | ((with_reducible refine Sound.fold _ ?_ ?_) <;> try intro x a hb)
    | exact Sound.update (by assumption)

theorem clearRecs_sound {org : State} (f : Nat) (s : State) (sk : Sound org s) : Sound org (clearRecs f s) := by
  unfold clearRecs
  repeat' first
    | with_reducible assumption
    | (extract_lets +onlyGivenNames b; first | (refine Sound.cut (Sound org b) ?_ ?_ <;> first | (intro hb; clear_value b; refine Sound.hold ?_) | intro hb | (unfold b; clear b)) | ((first | (have h0 : Nat := b; clear h0) | (have h0 : Bool := b; clear h0) | (have h0 : BitVec _ := b; clear h0) | (have h0 : List _ := b; clear h0)); clear_value b) | (unfold b; clear b) | clear b)
    | with_reducible apply State.setReg_sound
    | exact Sound.update (by assumption)
    | exact Sound.updateFa (by assumption)

theorem resetWindow_sound {org : State} (f : Nat) (s : State) (sk : Sound org s) : Sound org (resetWindow f s) := by
  unfold resetWindow
  repeat' first
    | with_reducible assumption
    | (extract_lets +onlyGivenNames b; first | (refine Sound.cut (Sound org b) ?_ ?_ <;> first | (intro hb; clear_value b; refine Sound.hold ?_) | intro hb | (unfold b; clear b)) | ((first | (have h0 : Nat := b; clear h0) | (have h0 : Bool := b; clear h0) | (have h0 : BitVec _ := b; clear h0) | (have h0 : List _ := b; clear h0)); clear_value b) | (unfold b; clear b) | clear b)
    | with_reducible apply State.setTicket_sound
    | with_reducible apply State.setWin_sound
    | with_reducible apply State.answer_sound
    | ((with_reducible refine Sound.fold _ ?_ ?_) <;> try intro x a hb)
    | split
    | exact Sound.update (by assumption)

theorem endSessionOf_sound {org : State} (f : Nat) (s : State) (sk : Sound org s) : Sound org (endSessionOf f s) := by
  unfold endSessionOf
  repeat' first
    | with_reducible assumption
    | (extract_lets +onlyGivenNames b; first | (unfold b; clear b) | clear b)
    | with_reducible apply endSession_sound
    | split
    | exact Sound.update (by assumption)

theorem resetOne_sound {org : State} (f : Nat) (s : State) (sk : Sound org s) : Sound org (resetOne f s) := by
  unfold resetOne
  repeat' first
    | with_reducible assumption
    | (extract_lets +onlyGivenNames b; first | (refine Sound.cut (Sound org b) ?_ ?_ <;> first | (intro hb; clear_value b; refine Sound.hold ?_) | intro hb | (unfold b; clear b)) | ((first | (have h0 : Nat := b; clear h0) | (have h0 : Bool := b; clear h0) | (have h0 : BitVec _ := b; clear h0) | (have h0 : List _ := b; clear h0)); clear_value b) | (unfold b; clear b) | clear b)
    | with_reducible apply State.setErrRec_sound
    | with_reducible apply resetTarget_sound
    | with_reducible apply keepSources_sound
    | with_reducible apply loseHolder_sound
    | with_reducible apply resetShares_sound
    | with_reducible apply removeEntries_sound
    | with_reducible apply clearRecs_sound
    | with_reducible apply resetWindow_sound
    | with_reducible apply endSessionOf_sound
    | ((with_reducible refine Sound.fold _ ?_ ?_) <;> try intro x a hb)
    | split

theorem resetFunction_sound {org : State} (f : Nat) (s : State) (sk : Sound org s) : Sound org (resetFunction f s) := by
  unfold resetFunction
  extract_lets a
  have ha : Sound org a := resetOne_sound _ _ sk
  clear_value a
  split
  · refine Sound.update ?_
    exact Sound.fold _ ha (fun x i hx => resetOne_sound _ _ hx)
  · exact ha

theorem pcieLinkDown_sound {org : State} (k : Nat) (s : State) (sk : Sound org s) : Sound org (pcieLinkDown k s) := by
  unfold pcieLinkDown
  repeat' first
    | with_reducible assumption
    | (extract_lets +onlyGivenNames b; first | (refine Sound.cut (Sound org b) ?_ ?_ <;> first | (intro hb; clear_value b; refine Sound.hold ?_) | intro hb | (unfold b; clear b)) | ((first | (have h0 : Nat := b; clear h0) | (have h0 : Bool := b; clear h0) | (have h0 : BitVec _ := b; clear h0) | (have h0 : List _ := b; clear h0)); clear_value b) | (unfold b; clear b) | clear b)
    | with_reducible apply State.setLink_sound
    | with_reducible apply raise_sound
    | with_reducible apply resetFunction_sound
    | split

theorem d3hotEntry_sound {org : State} (f : Nat) (l12 : Bool) (s : State) (sk : Sound org s) : Sound org (d3hotEntry f l12 s) := by
  unfold d3hotEntry
  repeat' first
    | with_reducible assumption
    | (extract_lets +onlyGivenNames b; first | (refine Sound.cut (Sound org b) ?_ ?_ <;> first | (intro hb; clear_value b; refine Sound.hold ?_) | intro hb | (unfold b; clear b)) | ((first | (have h0 : Nat := b; clear h0) | (have h0 : Bool := b; clear h0) | (have h0 : BitVec _ := b; clear h0) | (have h0 : List _ := b; clear h0)); clear_value b) | (unfold b; clear b) | clear b)
    | with_reducible apply State.setLink_sound
    | split
    | exact Sound.update (by assumption)

theorem d0Return_sound {org : State} (f : Nat) (s : State) (sk : Sound org s) : Sound org (d0Return f s) := by
  unfold d0Return
  repeat' first
    | with_reducible assumption
    | (extract_lets +onlyGivenNames b; first | (refine Sound.cut (Sound org b) ?_ ?_ <;> first | (intro hb; clear_value b; refine Sound.hold ?_) | intro hb | (unfold b; clear b)) | (refine Sound.cut (Sound org b.1) ?_ ?_ <;> first | (intro hb; clear_value b; refine Sound.hold ?_) | intro hb | (unfold b; clear b)) | ((first | (have h0 : Nat := b; clear h0) | (have h0 : Bool := b; clear h0) | (have h0 : BitVec _ := b; clear h0) | (have h0 : List _ := b; clear h0)); clear_value b) | (unfold b; clear b) | clear b)
    | with_reducible apply State.wakeLink_sound
    | with_reducible apply stopSleeping_sound
    | with_reducible apply settle_sound
    | with_reducible refine Sound.fst (by assumption) ?_
    | ((with_reducible refine Sound.fold _ ?_ ?_) <;> try intro x a hb)
    | ((with_reducible refine Sound.foldP _ ?_ ?_) <;> try (intro x a hb; rcases x with ⟨x, xr⟩))
    | split
    | exact Sound.update (by assumption)
    | exact Sound.updateFa (by assumption)
    | exact Sound.updateIc (by assumption)
    | exact Sound.updateAon (by assumption)
    | (refine Sound.update ?_; with_reducible refine Sound.fst (by assumption) ?_)
    | exact hb.same rfl rfl rfl rfl rfl rfl rfl
    | exact sk.same rfl rfl rfl rfl rfl rfl rfl

theorem touchJtag_sound {org : State} (s : State) (sk : Sound org s) : Sound org (touchJtag s) := by
  unfold touchJtag
  repeat' first
    | with_reducible assumption
    | (extract_lets +onlyGivenNames b; first | (unfold b; clear b) | clear b)
    | split
    | exact Sound.update (by assumption)

theorem jtagIdle_sound {org : State} (op : JtagOp) (s : State) (sk : Sound org s) : Sound org (jtagIdle op s) := by
  unfold jtagIdle
  repeat' first
    | with_reducible assumption
    | (extract_lets +onlyGivenNames b; first | (unfold b; clear b) | clear b)
    | with_reducible apply State.send_sound
    | split
    | exact Sound.update (by assumption)

end Sys2Proof.Machine
end

