-- ==== Sys2Proof/Laws/KeepBootScene.lean ====
section
/-! SUPPORT. What the operations of BootScene keep. -/

set_option linter.all false

namespace Sys2Proof.Machine

theorem noteBootCopies_sound {org : State} (k : Nat) (s : State) (sk : Sound org s) : Sound org (noteBootCopies k s) := by
  unfold noteBootCopies
  repeat' first
    | with_reducible assumption
    | with_reducible apply noteCopy_sound

theorem mapMc_sound {org : State} (s : State) (sk : Sound org s) : Sound org (mapMc s) := by
  unfold mapMc
  repeat' first
    | with_reducible assumption
    | (extract_lets +onlyGivenNames b; first | (refine Sound.cut (Sound org b) ?_ ?_ <;> first | (intro hb; clear_value b; refine Sound.hold ?_) | intro hb | (unfold b; clear b)) | ((first | (have h0 : Nat := b; clear h0) | (have h0 : Bool := b; clear h0) | (have h0 : BitVec _ := b; clear h0) | (have h0 : List _ := b; clear h0)); clear_value b) | (unfold b; clear b) | clear b)
    | with_reducible apply State.setReg_sound
    | with_reducible apply State.writeMem_sound

theorem tryItems_sound {org t : State} {n : Nat} {l : List (List Wr)} {s : State} (e : tryItems n l s = some t) (sk : Sound org s) :
    Sound org t := by
  induction l generalizing s with
  | nil => cases e; exact sk
  | cons a l ih =>
    unfold tryItems at e
    split at e
    · rename_i h
      exact ih e (tryItem_sound h (pinSurfaces_sound _ _ sk))
    · cases e

theorem completePins_sound {org : State} (s : State) (sk : Sound org s) : Sound org (completePins s) := by
  unfold completePins
  repeat' first
    | with_reducible assumption
    | with_reducible apply completePin_sound
    | ((with_reducible refine Sound.fold _ ?_ ?_) <;> try intro x a hb)
    | split

theorem setSplash_sound {org t : State} {k n : Nat} {i : Image} {s : State} (e : setSplash k n i s = some t) (sk : Sound org s) :
    Sound org t := by
  unfold setSplash at e
  extract_lets slot l at e
  split at e
  · cases e
  · split at e
    · cases e
    · exact tryItems_sound e (State.writeMem_sound _ _ _ sk)

theorem setCamera_sound {org t : State} {k n : Nat} {i : Image} {s : State} (e : setCamera k n i s = some t) (sk : Sound org s) :
    Sound org t := by
  unfold setCamera at e
  extract_lets cam at e
  split at e
  · cases e; exact sk
  · split at e
    · cases e
    · split at e
      · cases e
      · split at e
        · cases e
        · extract_lets pitch base b at e
          have hb : Sound org b := writeStream_sound _ _ _ (landPctrl_sound _ _ _ sk)
          split at e
          · exact tryItems_sound e hb
          · cases e

theorem bindAll_sound {α : Type} {org t : State} {f : State → α → Option State} (l : List α) (o : Option State)
    (ho : ∀ s, o = some s → Sound org s) (hf : ∀ s a u, f s a = some u → Sound org s → Sound org u)
    (e : l.foldl (fun o a => o.bind (fun s => f s a)) o = some t) : Sound org t := by
  induction l generalizing o with
  | nil => exact ho t e
  | cons a l ih =>
    refine ih _ (fun s hs => ?_) e
    obtain ⟨u, hu, hs⟩ := Option.bind_eq_some_iff.mp hs
    exact hf _ _ _ hs (ho u hu)

theorem setGenlock_sound {org t : State} {k n : Nat} {i : Image} {s : State} (e : setGenlock k n i s = some t) (sk : Sound org s) :
    Sound org t := by
  unfold setGenlock at e
  split at e
  · cases e; exact sk
  · split at e
    · cases e; exact sk
    · exact bindAll_sound _ _ (fun s hs => by cases hs; exact sk) (fun _ _ _ hu hs => tryItems_sound hu hs) e

theorem setScene_sound {org t : State} {k : Nat} {i : Image} {s : State} (e : setScene k i s = some t) (sk : Sound org s) :
    Sound org t := by
  unfold setScene at e
  extract_lets n a at e
  have ha : Sound org a := mapMc_sound _ (firstLive_sound _ _ _ sk)
  clear_value a
  obtain ⟨b, hb, e⟩ := Option.bind_eq_some_iff.mp e
  obtain ⟨c, hc, e⟩ := Option.bind_eq_some_iff.mp e
  obtain ⟨d, hd, e⟩ := Option.bind_eq_some_iff.mp e
  obtain ⟨f, hf, e⟩ := Option.map_eq_some_iff.mp e
  cases e
  exact completePins_sound _ (tryItems_sound hf (setGenlock_sound hd (setSplash_sound hc (setCamera_sound hb ha))))

theorem loadBoot_sound {org : State} (r : List Byte) (s : State) (sk : Sound org s) : Sound org (loadBoot r s).1 := by
  unfold loadBoot
  repeat' first
    | with_reducible assumption
    | (extract_lets +onlyGivenNames b; first | (refine Sound.cut (Sound org b) ?_ ?_ <;> first | (intro hb; clear_value b; refine Sound.hold ?_) | intro hb | (unfold b; clear b)) | ((first | (have h0 : Nat := b; clear h0) | (have h0 : Bool := b; clear h0) | (have h0 : BitVec _ := b; clear h0) | (have h0 : List _ := b; clear h0)); clear_value b) | (unfold b; clear b) | clear b)
    | with_reducible apply State.setBank_sound
    | with_reducible apply raise_sound
    | with_reducible apply sbResult_sound
    | split
    | exact Sound.update (by assumption)

theorem judgeEntry_sound {org : State} (k : Nat) (s : State) (sk : Sound org s) : Sound org (judgeEntry k s).1 := by
  unfold judgeEntry
  split
  · exact sk
  · split
    · exact sk
    · rename_i r _ _
      have hl := loadBoot_sound r s sk
      split
      · exact Sound.fst (by assumption) hl
      · rename_i b i h
        have hb : Sound org b := Sound.fst h hl
        split
        · split
          · exact setScene_sound (by assumption) hb
          · exact hb
        · exact hb

theorem judgeStep_sound {org : State} (x : State × Option Nat × Nat) (k : Nat) (sk : Sound org x.1) :
    Sound org (judgeStep x k).1 := by
  unfold judgeStep
  split
  · exact sk
  · have h : Sound org (judgeEntry k (noteBootCopies k x.1)).1 := judgeEntry_sound _ _ (noteBootCopies_sound _ _ sk)
    split
    · rename_i e; rw [e] at h; exact h
    · rename_i e; rw [e] at h; exact noteEntry_sound _ _ h

theorem judgeEntries_sound {org : State} (l : List Nat) (s : State) (sk : Sound org s) : Sound org (judgeEntries l s).1 :=
  Sound.foldP l sk (fun x k h => judgeStep_sound x k h)

end Sys2Proof.Machine
end

