-- ==== Sys2Proof/Laws/KeepStartCmds.lean ====
section
/-! SUPPORT. What the operations of StartCmds keep. -/

set_option linter.all false

namespace Sys2Proof.Machine

theorem coldState_sound {org : State} (p : Power) (aon : AlwaysOn) (s : State) (hw : aon.otpWear = s.aon.otpWear)
    (hr : aon.fuseRevoked = s.aon.fuseRevoked) (sk : Sound org s) : Sound org (coldState p aon s) where
  mem _ := by show SMap.wf [] (0 : Byte) = true; decide
  queue _ := ⟨fun i => Nat.zero_le 4, fun x h => absurd h (List.not_mem_nil)⟩
  stack _ i := Nat.zero_le 8
  wear h := by show aon.otpWear ≤ 300; rw [hw]; exact sk.wear h
  burnt := by show _ ≤ aon.otpWear; rw [hw]; exact sk.burnt
  revoked j h := by show aon.fuseRevoked.getLsbD j = true; rw [hr]; exact sk.revoked j h
  pending := sk.pending

theorem sysState_sound {org : State} (p : Power) (s : State) (sk : Sound org s) : Sound org (sysState p s) := by
  unfold sysState
  repeat' first
    | with_reducible assumption
    | (extract_lets +onlyGivenNames b; first | (refine Sound.cut (Sound org b) ?_ ?_ <;> first | (intro hb; clear_value b; refine Sound.hold ?_) | intro hb | (unfold b; clear b)) | (refine Sound.cut (Sound org b.1) ?_ ?_ <;> first | (intro hb; clear_value b; refine Sound.hold ?_) | intro hb | (unfold b; clear b)) | ((first | (have h0 : Nat := b; clear h0) | (have h0 : Bool := b; clear h0) | (have h0 : BitVec _ := b; clear h0) | (have h0 : List _ := b; clear h0)); clear_value b) | (unfold b; clear b) | clear b)
    | with_reducible refine coldState_sound _ _ _ rfl rfl ?_
    | with_reducible refine Sound.fst (by assumption) ?_
    | ((with_reducible refine Sound.fold _ ?_ ?_) <;> try intro x a hb)
    | ((with_reducible refine Sound.foldP _ ?_ ?_) <;> try (intro x a hb; rcases x with ⟨x, xr⟩))
    | split
    | exact Sound.update (by assumption)
    | exact Sound.updateFa (by assumption)
    | exact Sound.updateIc (by assumption)
    | exact Sound.updateAon (by assumption)
    | (refine Sound.update ?_; with_reducible refine Sound.fst (by assumption) ?_)
    | exact hb.same rfl rfl rfl rfl rfl rfl rfl
    | exact sk.same rfl rfl rfl rfl rfl rfl rfl

theorem setStep_sound {org : State} (k : Nat) (w : Word) (s : State) (sk : Sound org s) : Sound org (setStep k w s) := by
  unfold setStep
  repeat' first
    | with_reducible assumption
    | (extract_lets +onlyGivenNames b; first | (unfold b; clear b) | clear b)
    | with_reducible apply noteEntry_sound
    | exact Sound.update (by assumption)

theorem endStep_sound {org : State} (env : StartEnv) (k outcome attempts code : Nat) (s : State) (sk : Sound org s) :
    Sound org (endStep env k outcome attempts code s) := by
  unfold endStep
  extract_lets b
  have hb : Sound org b := toTick_sound _ _ sk
  clear_value b
  exact setStep_sound _ _ _ (Sound.update hb)

theorem skipStep_sound {org : State} (env : StartEnv) (k : Nat) (code : Nat) (s : State) (sk : Sound org s) : Sound org (skipStep env k code s) := by
  unfold skipStep
  repeat' first
    | with_reducible assumption
    | with_reducible apply setStep_sound

theorem loadMirror_sound {org : State} (m : SMap (List Byte)) (s : State) (r : RegId) (sk : Sound org s) : Sound org (loadMirror m s r) := by
  unfold loadMirror
  repeat' first
    | with_reducible assumption
    | (extract_lets +onlyGivenNames b; first | (refine Sound.cut (Sound org b) ?_ ?_ <;> first | (intro hb; clear_value b; refine Sound.hold ?_) | intro hb | (unfold b; clear b)) | ((first | (have h0 : Nat := b; clear h0) | (have h0 : Bool := b; clear h0) | (have h0 : BitVec _ := b; clear h0) | (have h0 : List _ := b; clear h0)); clear_value b) | (unfold b; clear b) | clear b)
    | with_reducible apply State.setReg_sound
    | split
    | exact Sound.update (by assumption)

theorem loadStore_sound {org : State} (s : State) (sk : Sound org s) : Sound org (loadStore s) := by
  unfold loadStore
  repeat' first
    | with_reducible assumption
    | (extract_lets +onlyGivenNames b; first | (refine Sound.cut (Sound org b) ?_ ?_ <;> first | (intro hb; clear_value b; refine Sound.hold ?_) | intro hb | (unfold b; clear b)) | ((first | (have h0 : Nat := b; clear h0) | (have h0 : Bool := b; clear h0) | (have h0 : BitVec _ := b; clear h0) | (have h0 : List _ := b; clear h0)); clear_value b) | (unfold b; clear b) | clear b)
    | with_reducible apply writeFaultMask_sound
    | with_reducible apply loadMirror_sound
    | ((with_reducible refine Sound.fold _ ?_ ?_) <;> try intro x a hb)
    | split
    | exact Sound.update (by assumption)

theorem openEntry_sound {org : State} (interrupted : Bool) (s : State) (sk : Sound org s) : Sound org (openEntry interrupted s) := by
  unfold openEntry
  repeat' first
    | with_reducible assumption
    | (extract_lets +onlyGivenNames b; first | (refine Sound.cut (Sound org b) ?_ ?_ <;> first | (intro hb; clear_value b; refine Sound.hold ?_) | intro hb | (unfold b; clear b)) | ((first | (have h0 : Nat := b; clear h0) | (have h0 : Bool := b; clear h0) | (have h0 : BitVec _ := b; clear h0) | (have h0 : List _ := b; clear h0)); clear_value b) | (unfold b; clear b) | clear b)
    | with_reducible apply noteCopy_sound
    | ((with_reducible refine Sound.fold _ ?_ ?_) <;> try intro x a hb)
    | exact Sound.update (by assumption)

theorem setResult_sound {org : State} (r : Nat) (s : State) (sk : Sound org s) : Sound org (setResult r s) := by
  unfold setResult
  repeat' first
    | with_reducible assumption
    | (extract_lets +onlyGivenNames b; first | (unfold b; clear b) | clear b)
    | with_reducible apply noteEntry_sound
    | exact Sound.update (by assumption)

theorem ledgerPoint_sound {org : State} (env : StartEnv) (point : Nat) (s : State) (sk : Sound org s) : Sound org (ledgerPoint env point s) := by
  unfold ledgerPoint
  repeat' first
    | with_reducible assumption
    | (extract_lets +onlyGivenNames b; first | (refine Sound.cut (Sound org b) ?_ ?_ <;> first | (intro hb; clear_value b; refine Sound.hold ?_) | intro hb | (unfold b; clear b)) | ((first | (have h0 : Nat := b; clear h0) | (have h0 : Bool := b; clear h0) | (have h0 : BitVec _ := b; clear h0) | (have h0 : List _ := b; clear h0)); clear_value b) | (unfold b; clear b) | clear b)
    | with_reducible apply writeLedger_sound
    | exact Sound.update (by assumption)

theorem recordChannel_sound {org : State} (common : Nat) (m : Nat) (c : ChannelRun) (s : State) (sk : Sound org s) : Sound org (recordChannel common m c s) := by
  unfold recordChannel
  repeat' first
    | with_reducible assumption
    | (extract_lets +onlyGivenNames b; first | (refine Sound.cut (Sound org b) ?_ ?_ <;> first | (intro hb; clear_value b; refine Sound.hold ?_) | intro hb | (unfold b; clear b)) | ((first | (have h0 : Nat := b; clear h0) | (have h0 : Bool := b; clear h0) | (have h0 : BitVec _ := b; clear h0) | (have h0 : List _ := b; clear h0)); clear_value b) | (unfold b; clear b) | clear b)
    | with_reducible apply State.setChannel_sound
    | with_reducible apply State.setLedger_sound
    | with_reducible apply noteEntry_sound
    | split
    | exact Sound.update (by assumption)

theorem writeTraining_sound {org : State} (ok : Bool) (l : List ChannelRun) (s : State) (sk : Sound org s) : Sound org (writeTraining ok l s) := by
  unfold writeTraining
  repeat' first
    | with_reducible assumption
    | (extract_lets +onlyGivenNames b; first | (refine Sound.cut (Sound org b) ?_ ?_ <;> first | (intro hb; clear_value b; refine Sound.hold ?_) | intro hb | (unfold b; clear b)) | ((first | (have h0 : Nat := b; clear h0) | (have h0 : Bool := b; clear h0) | (have h0 : BitVec _ := b; clear h0) | (have h0 : List _ := b; clear h0)); clear_value b) | (unfold b; clear b) | clear b)
    | with_reducible apply State.draw_sound
    | with_reducible apply State.setNor_sound
    | split
    | exact Sound.update (by assumption)

theorem stepDram_sound {org : State} (env : StartEnv) (s : State) (sk : Sound org s) : Sound org (stepDram env s) := by
  unfold stepDram
  repeat' first
    | with_reducible assumption
    | (extract_lets +onlyGivenNames b; first | (refine Sound.cut (Sound org b) ?_ ?_ <;> first | (intro hb; clear_value b; refine Sound.hold ?_) | intro hb | (unfold b; clear b)) | ((first | (have h0 : Nat := b; clear h0) | (have h0 : Bool := b; clear h0) | (have h0 : BitVec _ := b; clear h0) | (have h0 : List _ := b; clear h0)); clear_value b) | (unfold b; clear b) | clear b)
    | with_reducible apply noteEntry_sound
    | with_reducible apply queueStore_sound
    | with_reducible apply endStep_sound
    | with_reducible apply recordChannel_sound
    | with_reducible apply writeTraining_sound
    | ((with_reducible refine Sound.fold _ ?_ ?_) <;> try intro x a hb)
    | split
    | exact Sound.update (by assumption)

theorem hostConfig_sound {org : State} (k : Nat) (c : HostConfig) (s : State) (sk : Sound org s) : Sound org (hostConfig k c s) := by
  unfold hostConfig
  repeat' first
    | with_reducible assumption
    | (extract_lets +onlyGivenNames b; first | (refine Sound.cut (Sound org b) ?_ ?_ <;> first | (intro hb; clear_value b; refine Sound.hold ?_) | intro hb | (unfold b; clear b)) | ((first | (have h0 : Nat := b; clear h0) | (have h0 : Bool := b; clear h0) | (have h0 : BitVec _ := b; clear h0) | (have h0 : List _ := b; clear h0)); clear_value b) | (unfold b; clear b) | clear b)
    | with_reducible apply settle_sound
    | ((with_reducible refine Sound.fold _ ?_ ?_) <;> try intro x a hb)
    | exact Sound.update (by assumption)

theorem pcieLinkUp_sound {org : State} (k : Nat) (speed : Nat) (width : Nat) (cfg : HostConfig) (l12 : Bool) (s : State) (sk : Sound org s) : Sound org (pcieLinkUp k speed width cfg l12 s) := by
  unfold pcieLinkUp
  repeat' first
    | with_reducible assumption
    | (extract_lets +onlyGivenNames b; first | (refine Sound.cut (Sound org b) ?_ ?_ <;> first | (intro hb; clear_value b; refine Sound.hold ?_) | intro hb | (unfold b; clear b)) | ((first | (have h0 : Nat := b; clear h0) | (have h0 : Bool := b; clear h0) | (have h0 : BitVec _ := b; clear h0) | (have h0 : List _ := b; clear h0)); clear_value b) | (unfold b; clear b) | clear b)
    | with_reducible apply State.setLink_sound
    | with_reducible apply raise_sound
    | with_reducible apply hostConfig_sound
    | split
    | exact Sound.update (by assumption)

theorem stepPcie_sound {org : State} (env : StartEnv) (s : State) (sk : Sound org s) : Sound org (stepPcie env s) := by
  unfold stepPcie
  repeat' first
    | with_reducible assumption
    | (extract_lets +onlyGivenNames b; first | (unfold b; clear b) | clear b)
    | with_reducible apply endStep_sound
    | exact Sound.update (by assumption)

theorem stepNetwork_sound {org : State} (env : StartEnv) (s : State) (sk : Sound org s) : Sound org (stepNetwork env s) := by
  unfold stepNetwork
  repeat' first
    | with_reducible assumption
    | (extract_lets +onlyGivenNames b; first | (refine Sound.cut (Sound org b) ?_ ?_ <;> first | (intro hb; clear_value b; refine Sound.hold ?_) | intro hb | (unfold b; clear b)) | ((first | (have h0 : Nat := b; clear h0) | (have h0 : Bool := b; clear h0) | (have h0 : BitVec _ := b; clear h0) | (have h0 : List _ := b; clear h0)); clear_value b) | (unfold b; clear b) | clear b)
    | with_reducible apply setIface_sound
    | with_reducible apply endStep_sound
    | ((with_reducible refine Sound.fold _ ?_ ?_) <;> try intro x a hb)
    | exact Sound.update (by assumption)

theorem stepBoot_sound {org : State} (env : StartEnv) (s : State) (sk : Sound org s) : Sound org (stepBoot env s) := by
  unfold stepBoot
  have hj := judgeEntries_sound [0, 1, 2, 3] s sk
  split
  rename_i h
  exact endStep_sound _ _ _ _ _ _ (noteEntry_sound _ _ (Sound.update (Sound.fst h hj)))

theorem stepKeep_sound {org : State} (env : StartEnv) (s : State) (sk : Sound org s) : Sound org (stepKeep env s) := by
  unfold stepKeep
  repeat' first
    | with_reducible assumption
    | (extract_lets +onlyGivenNames b; first | (refine Sound.cut (Sound org b) ?_ ?_ <;> first | (intro hb; clear_value b; refine Sound.hold ?_) | intro hb | (unfold b; clear b)) | ((first | (have h0 : Nat := b; clear h0) | (have h0 : Bool := b; clear h0) | (have h0 : BitVec _ := b; clear h0) | (have h0 : List _ := b; clear h0)); clear_value b) | (unfold b; clear b) | clear b)
    | with_reducible apply keepSources_sound
    | with_reducible apply setCategory_sound
    | with_reducible apply clearCategory_sound
    | with_reducible apply landHeadCtrl_sound
    | with_reducible apply endStep_sound
    | split
    | exact Sound.update (by assumption)
    | exact Sound.updateAon (by assumption)

theorem trainBootQuad_sound {org : State} (env : StartEnv) (s : State) (q : Nat) (sk : Sound org s) : Sound org (trainBootQuad env s q) := by
  unfold trainBootQuad
  repeat' first
    | with_reducible assumption
    | (extract_lets +onlyGivenNames b; first | (refine Sound.cut (Sound org b) ?_ ?_ <;> first | (intro hb; clear_value b; refine Sound.hold ?_) | intro hb | (unfold b; clear b)) | ((first | (have h0 : Nat := b; clear h0) | (have h0 : Bool := b; clear h0) | (have h0 : BitVec _ := b; clear h0) | (have h0 : List _ := b; clear h0)); clear_value b) | (unfold b; clear b) | clear b)
    | with_reducible apply State.setLedger_sound
    | with_reducible apply noteEntry_sound
    | with_reducible apply landQctrlAt_sound
    | with_reducible apply trainingComplete_sound
    | ((with_reducible refine Sound.fold _ ?_ ?_) <;> try intro x a hb)
    | split
    | exact Sound.update (by assumption)

theorem stepQuads_sound {org : State} (env : StartEnv) (s : State) (sk : Sound org s) : Sound org (stepQuads env s) := by
  unfold stepQuads
  repeat' first
    | with_reducible assumption
    | (extract_lets +onlyGivenNames b; first | (refine Sound.cut (Sound org b) ?_ ?_ <;> first | (intro hb; clear_value b; refine Sound.hold ?_) | intro hb | (unfold b; clear b)) | ((first | (have h0 : Nat := b; clear h0) | (have h0 : Bool := b; clear h0) | (have h0 : BitVec _ := b; clear h0) | (have h0 : List _ := b; clear h0)); clear_value b) | (unfold b; clear b) | clear b)
    | with_reducible apply noteEntry_sound
    | with_reducible apply endStep_sound
    | with_reducible apply trainBootQuad_sound
    | ((with_reducible refine Sound.fold _ ?_ ?_) <;> try intro x a hb)
    | split
    | exact Sound.update (by assumption)

theorem trainOsl_sound {org : State} (env : StartEnv) (s : State) (sk : Sound org s) : Sound org (trainOsl env s) := by
  unfold trainOsl
  repeat' first
    | with_reducible assumption
    | with_reducible apply oslLink_sound
    | ((with_reducible refine Sound.fold _ ?_ ?_) <;> try intro x a hb)

theorem stepJoin_sound {org : State} (env : StartEnv) (s : State) (sk : Sound org s) : Sound org (stepJoin env s) := by
  unfold stepJoin
  repeat' first
    | with_reducible assumption
    | (extract_lets +onlyGivenNames b; first | (refine Sound.cut (Sound org b) ?_ ?_ <;> first | (intro hb; clear_value b; refine Sound.hold ?_) | intro hb | (unfold b; clear b)) | ((first | (have h0 : Nat := b; clear h0) | (have h0 : Bool := b; clear h0) | (have h0 : BitVec _ := b; clear h0) | (have h0 : List _ := b; clear h0)); clear_value b) | (unfold b; clear b) | clear b)
    | with_reducible apply setCasc_sound
    | with_reducible apply join_sound
    | with_reducible apply joinTimeout_sound
    | split
    | exact Sound.update (by assumption)

theorem stepCascade_sound {org : State} (env : StartEnv) (s : State) (sk : Sound org s) : Sound org (stepCascade env s) := by
  unfold stepCascade
  repeat' first
    | with_reducible assumption
    | (extract_lets +onlyGivenNames b; first | (refine Sound.cut (Sound org b) ?_ ?_ <;> first | (intro hb; clear_value b; refine Sound.hold ?_) | intro hb | (unfold b; clear b)) | ((first | (have h0 : Nat := b; clear h0) | (have h0 : Bool := b; clear h0) | (have h0 : BitVec _ := b; clear h0) | (have h0 : List _ := b; clear h0)); clear_value b) | (unfold b; clear b) | clear b)
    | with_reducible apply endStep_sound
    | with_reducible apply skipStep_sound
    | with_reducible apply trainOsl_sound
    | with_reducible apply stepJoin_sound
    | split
    | exact Sound.update (by assumption)

theorem stepReady_sound {org : State} (env : StartEnv) (s : State) (sk : Sound org s) : Sound org (stepReady env s) := by
  unfold stepReady
  extract_lets failed result a b c _ d
  have ha : Sound org a := by
    unfold a
    split
    · exact sk
    · exact State.setLedger_sound _ _ sk
  clear_value a
  have hb : Sound org b := by
    refine ledgerPoint_sound _ _ _ ?_
    split
    · exact ha
    · exact setResult_sound _ _ ha
  clear_value b
  have hc : Sound org c := endStep_sound _ _ _ _ _ _ hb
  clear_value c
  have hd : Sound org d := noteFree_sound _ _ _ _ _ (Sound.update hc)
  clear_value d
  refine Sound.hold ?_
  split
  · exact ledgerPoint_sound _ _ _ (setResult_sound _ _ hd)
  · exact hd

theorem runFirmware_sound {org : State} (env : StartEnv) (s : State) (sk : Sound org s) : Sound org (runFirmware env s) := by
  unfold runFirmware
  repeat' first
    | with_reducible assumption
    | (extract_lets +onlyGivenNames b; first | (refine Sound.cut (Sound org b) ?_ ?_ <;> first | (intro hb; clear_value b; refine Sound.hold ?_) | intro hb | (unfold b; clear b)) | ((first | (have h0 : Nat := b; clear h0) | (have h0 : Bool := b; clear h0) | (have h0 : BitVec _ := b; clear h0) | (have h0 : List _ := b; clear h0)); clear_value b) | (unfold b; clear b) | clear b)
    | with_reducible apply skipStep_sound
    | with_reducible apply setResult_sound
    | with_reducible apply ledgerPoint_sound
    | with_reducible apply stepDram_sound
    | with_reducible apply stepPcie_sound
    | with_reducible apply stepNetwork_sound
    | with_reducible apply stepBoot_sound
    | with_reducible apply stepKeep_sound
    | with_reducible apply stepQuads_sound
    | with_reducible apply stepCascade_sound
    | with_reducible apply stepReady_sound
    | split
    | exact Sound.update (by assumption)

theorem recoveryLaunch_sound {org : State} (env : StartEnv) (s : State) (sk : Sound org s) : Sound org (recoveryLaunch env s) := by
  unfold recoveryLaunch
  repeat' first
    | with_reducible assumption
    | (extract_lets +onlyGivenNames b; first | (refine Sound.cut (Sound org b) ?_ ?_ <;> first | (intro hb; clear_value b; refine Sound.hold ?_) | intro hb | (unfold b; clear b)) | ((first | (have h0 : Nat := b; clear h0) | (have h0 : Bool := b; clear h0) | (have h0 : BitVec _ := b; clear h0) | (have h0 : List _ := b; clear h0)); clear_value b) | (unfold b; clear b) | clear b)
    | with_reducible apply pcieLinkUp_sound
    | with_reducible apply stepPcie_sound
    | split
    | exact Sound.update (by assumption)

theorem runStart_sound {org : State} (env : StartEnv) (change interrupted : Bool) (s : State) (sk : Sound org s) :
    Sound org (runStart env change interrupted s) := by
  unfold runStart
  extract_lets +onlyGivenNames _ a
  have ha : Sound org a := monitorRails_sound _ (Sound.update sk)
  clear_value a
  refine Sound.hold ?_
  split
  · exact Sound.update (endStep_sound _ _ _ _ _ _ ha)
  · extract_lets +onlyGivenNames b
    have hb : Sound org b := endStep_sound _ _ _ _ _ _ ha
    clear_value b
    refine Sound.hold ?_
    split
    · exact Sound.update (endStep_sound _ _ _ _ _ _ hb)
    · extract_lets +onlyGivenNames c
      have hc : Sound org c := endStep_sound _ _ _ _ _ _ hb
      clear_value c
      refine Sound.hold ?_
      split
      · extract_lets +onlyGivenNames d
        have hd : Sound org d := recoveryLaunch_sound _ _ hc
        clear_value d
        refine Sound.hold ?_
        split
        · exact Sound.update (endStep_sound _ _ _ _ _ _ hd)
        · refine runFirmware_sound _ _ (openEntry_sound _ _ (endStep_sound _ _ _ _ _ _ (loadStore_sound _ ?_)))
          exact Sound.update (State.draw_sound _ _ hd)
      · extract_lets +onlyGivenNames first good
        split
        · exact Sound.update (endStep_sound _ _ _ _ _ _ hc)
        · refine runFirmware_sound _ _ (openEntry_sound _ _ (endStep_sound _ _ _ _ _ _ (loadStore_sound _ ?_)))
          exact Sound.update hc

theorem restart_sound {org : State} (env : StartEnv) (s : State) (sk : Sound org s) : Sound org (restart env s) := by
  unfold restart
  repeat' first
    | with_reducible assumption
    | with_reducible apply sysState_sound
    | with_reducible apply runStart_sound

theorem watchdogStart_sound {org : State} (env : StartEnv) (s : State) (sk : Sound org s) : Sound org (watchdogStart env s) := by
  unfold watchdogStart
  repeat' first
    | with_reducible assumption
    | with_reducible apply sysState_sound
    | with_reducible apply runStart_sound

theorem assertPorst_sound {org : State} (s : State) (sk : Sound org s) : Sound org (assertPorst s) := by
  unfold assertPorst
  repeat' first
    | with_reducible assumption
    | (extract_lets +onlyGivenNames b; first | (unfold b; clear b) | clear b)
    | with_reducible refine coldState_sound _ _ _ rfl rfl ?_
    | exact Sound.update (by assumption)

theorem releasePorst_sound {org : State} (straps : Straps) (env : StartEnv) (s : State) (sk : Sound org s) : Sound org (releasePorst straps env s) := by
  unfold releasePorst
  repeat' first
    | with_reducible assumption
    | (extract_lets +onlyGivenNames b; first | (refine Sound.cut (Sound org b) ?_ ?_ <;> first | (intro hb; clear_value b; refine Sound.hold ?_) | intro hb | (unfold b; clear b)) | ((first | (have h0 : Nat := b; clear h0) | (have h0 : Bool := b; clear h0) | (have h0 : BitVec _ := b; clear h0) | (have h0 : List _ := b; clear h0)); clear_value b) | (unfold b; clear b) | clear b)
    | with_reducible refine coldState_sound _ _ _ rfl rfl ?_
    | with_reducible apply runStart_sound
    | split
    | exact Sound.update (by assumption)

theorem assertSysrst_sound {org : State} (s : State) (sk : Sound org s) : Sound org (assertSysrst s) := by
  unfold assertSysrst
  repeat' first
    | with_reducible assumption
    | (extract_lets +onlyGivenNames b; first | (refine Sound.cut (Sound org b) ?_ ?_ <;> first | (intro hb; clear_value b; refine Sound.hold ?_) | intro hb | (unfold b; clear b)) | ((first | (have h0 : Nat := b; clear h0) | (have h0 : Bool := b; clear h0) | (have h0 : BitVec _ := b; clear h0) | (have h0 : List _ := b; clear h0)); clear_value b) | (unfold b; clear b) | clear b)
    | with_reducible apply sysState_sound
    | split
    | exact Sound.update (by assumption)
    | exact Sound.updateAon (by assumption)

theorem releaseSysrst_sound {org : State} (env : StartEnv) (s : State) (sk : Sound org s) : Sound org (releaseSysrst env s) := by
  unfold releaseSysrst
  repeat' first
    | with_reducible assumption
    | (extract_lets +onlyGivenNames b; first | (refine Sound.cut (Sound org b) ?_ ?_ <;> first | (intro hb; clear_value b; refine Sound.hold ?_) | intro hb | (unfold b; clear b)) | ((first | (have h0 : Nat := b; clear h0) | (have h0 : Bool := b; clear h0) | (have h0 : BitVec _ := b; clear h0) | (have h0 : List _ := b; clear h0)); clear_value b) | (unfold b; clear b) | clear b)
    | with_reducible apply restart_sound
    | split
    | exact Sound.update (by assumption)
    | exact Sound.updateAon (by assumption)

theorem resetGlitch_sound {org : State} (pin : ResetPin) (ns : Nat) (straps : Straps) (env : StartEnv) (s : State) (sk : Sound org s) : Sound org (resetGlitch pin ns straps env s) := by
  unfold resetGlitch
  repeat' first
    | with_reducible assumption
    | (extract_lets +onlyGivenNames b; first | (unfold b; clear b) | clear b)
    | with_reducible apply assertPorst_sound
    | with_reducible apply releasePorst_sound
    | with_reducible apply assertSysrst_sound
    | with_reducible apply releaseSysrst_sound
    | split
    | exact Sound.update (by assumption)

theorem lockstepFault_sound {org : State} (env : StartEnv) (s : State) (sk : Sound org s) : Sound org (lockstepFault env s) := by
  unfold lockstepFault
  repeat' first
    | with_reducible assumption
    | (extract_lets +onlyGivenNames b; first | (refine Sound.cut (Sound org b) ?_ ?_ <;> first | (intro hb; clear_value b; refine Sound.hold ?_) | intro hb | (unfold b; clear b)) | ((first | (have h0 : Nat := b; clear h0) | (have h0 : Bool := b; clear h0) | (have h0 : BitVec _ := b; clear h0) | (have h0 : List _ := b; clear h0)); clear_value b) | (unfold b; clear b) | clear b)
    | with_reducible apply setCategory_sound
    | with_reducible apply sysState_sound
    | with_reducible apply runStart_sound
    | exact Sound.update (by assumption)

theorem aonFault_sound {org : State} (s : State) (sk : Sound org s) : Sound org (aonFault s) := by
  unfold aonFault
  repeat' first
    | with_reducible assumption
    | (extract_lets +onlyGivenNames b; first | (unfold b; clear b) | clear b)
    | with_reducible refine coldState_sound _ _ _ rfl rfl ?_
    | split
    | exact Sound.update (by assumption)

theorem supplyExcursion_sound {org : State} (rail : Nat) (fault : Bool) (s : State) (sk : Sound org s) :
    Sound org (supplyExcursion rail fault s) := by
  unfold supplyExcursion
  split
  · exact sk
  · extract_lets b
    have hb : Sound org b := settleSpire_sound _ _ (railOut_sound _ _ _ sk)
    split
    · exact aonFault_sound _ hb
    · exact hb

theorem networkLinkUp_sound {org : State} (i : Nat) (s : State) (sk : Sound org s) : Sound org (networkLinkUp i s) := by
  unfold networkLinkUp
  repeat' first
    | with_reducible assumption
    | (extract_lets +onlyGivenNames b; first | (unfold b; clear b) | clear b)
    | split
    | exact Sound.update (by assumption)

theorem linkOutcome_sound {org : State} (step : Nat) (s : State) (sk : Sound org s) : Sound org (linkOutcome step s) := by
  unfold linkOutcome
  split
  · exact sk
  · extract_lets k a _ b w miss
    have ha : Sound org a := toTick_sound _ _ sk
    clear_value a
    have hb : Sound org b := Sound.update ha
    split
    · exact hb
    · exact setStep_sound _ _ _ hb

end Sys2Proof.Machine
end

