-- ==== Sys2Proof/Laws/Only.lean ====
section
/-! SUPPORT. Composing frames: what an operation leaves alone follows from what its parts leave alone. -/

set_option linter.all false

namespace Sys2Proof

open Sys2Proof.Machine

/-- Every part of one list is in the other. -/
def Part.within (a b : List Part) : Bool := a.all (fun p => b.contains p)

theorem SameOn.refl (p : Part) (s : State) : SameOn p s s := by cases p <;> rfl

theorem SameOn.trans {p : Part} {s t u : State} (h : SameOn p s t) (k : SameOn p t u) : SameOn p s u := by
  cases p
  case hl =>
    unfold SameOn at *
    dsimp only at *
    rw [← h, ← k]
  all_goals exact Eq.trans k h

theorem Only.refl (l : List Part) (s : State) : Only l s s := ⟨fun p => .inr (SameOn.refl p s)⟩

theorem Only.trans {l : List Part} {s t u : State} (h : Only l s t) (k : Only l t u) : Only l s u := ⟨fun p =>
  match h.part p, k.part p with
  | .inl a, _ => .inl a
  | _, .inl a => .inl a
  | .inr a, .inr b => .inr (a.trans b)⟩

theorem Part.within_mem {a b : List Part} (h : Part.within a b = true) {p : Part} (hp : a.contains p = true) : b.contains p = true := by
  unfold Part.within at h
  rw [List.all_eq_true] at h
  exact h p (List.contains_iff_mem.mp hp)

theorem Part.within_trans {a b c : List Part} (h : Part.within a b = true) (k : Part.within b c = true) : Part.within a c = true := by
  unfold Part.within at h ⊢
  rw [List.all_eq_true] at h ⊢
  exact fun p hp => Part.within_mem k (h p hp)

/-- A frame that names more parts. -/
theorem Only.mono {a b : List Part} {s t : State} (h : Only a s t) (hab : Part.within a b = true) : Only b s t :=
  ⟨fun p => (h.part p).imp (Part.within_mem hab) id⟩

/-- An operation whose frame is known, after a frame. -/
theorem Only.after {a l : List Part} {s t u : State} (k : Only a t u) (hal : Part.within a l = true) (h : Only l s t) : Only l s u :=
  h.trans (k.mono hal)

/-- An update of fields. -/
theorem Only.update {l : List Part} {s t : State} (h : Only l s t)
    {power' : Power} {aon' : AlwaysOn} {tick' : Nat} {corePhase' : Nat} {fresh' : Nat} {outbox' : List OutMsg} {reply' :
    Reply} {regs' : SMap Word} {held' : SMap Held} {pendGroups' : PendGroups} {items' : List Item} {posted' : List
    Landing} {dropped' : List PBlock} {mem' : SMap Byte} {wo1' : List Nat} {lastReject' : SMap Nat} {hl' : Hl} {heads' :
    SMap Head} {groups' : SMap PGroup} {flares' : Flares} {sched' : Sched} {fabric' : Fabric} {fa' : Fa} {tap' : SMap
    (List Word)} {keep' : Keep} {lanterns' : SMap Lantern} {si' : Ingress} {oq' : Output} {tx' : Tx} {dict' : Dict} {ic' :
    Ic} {cv' : SMap CvUnit} {bl' : Blitter} {pm' : Perf} {casc' : Cascade} {start' : Start} {therm' : Thermal} {safety' :
    Safety}
    (k : ∀ p, l.contains p = true ∨ SameOn p t
      { t with
        power := power', aon := aon', tick := tick', corePhase := corePhase', fresh := fresh', outbox := outbox',
        reply := reply', regs := regs', held := held', pendGroups := pendGroups', items := items', posted := posted',
        dropped := dropped', mem := mem', wo1 := wo1', lastReject := lastReject', hl := hl', heads := heads',
        groups := groups', flares := flares', sched := sched', fabric := fabric', fa := fa', tap := tap',
        keep := keep', lanterns := lanterns', si := si', oq := oq', tx := tx', dict := dict', ic := ic', cv := cv',
        bl := bl', pm := pm', casc := casc', start := start', therm := therm', safety := safety' }) :
    Only l s
      { t with
        power := power', aon := aon', tick := tick', corePhase := corePhase', fresh := fresh', outbox := outbox',
        reply := reply', regs := regs', held := held', pendGroups := pendGroups', items := items', posted := posted',
        dropped := dropped', mem := mem', wo1 := wo1', lastReject := lastReject', hl := hl', heads := heads',
        groups := groups', flares := flares', sched := sched', fabric := fabric', fa := fa', tap := tap',
        keep := keep', lanterns := lanterns', si := si', oq := oq', tx := tx', dict := dict', ic := ic', cv := cv',
        bl := bl', pm := pm', casc := casc', start := start', therm := therm', safety := safety' } :=
  h.trans ⟨k⟩

/-- An update of the dictionary alone. -/
theorem Only.dict {l : List Part} {s t : State} {d : Dict} (h : Only l s t) (hd : l.contains .dict = true) :
    Only l s { t with dict := d } := by
  refine Only.update h ?_
  intro p; cases p <;> first | exact .inl hd | exact .inr rfl

/-- An update of the host link alone. -/
theorem Only.hl {l : List Part} {s t : State} {x : Hl} (h : Only l s t) (he : l.contains .err = true)
    (hd : l.contains .hl = true) : Only l s { t with hl := x } := by
  refine Only.update h ?_
  intro p; cases p <;> first | exact .inl hd | exact .inl he | exact .inr rfl

/-- An update of the start-up state alone. -/
theorem Only.start {l : List Part} {s t : State} {d : Start} (h : Only l s t) (hd : l.contains .start = true) :
    Only l s { t with start := d } := by
  refine Only.update h ?_
  intro p; cases p <;> first | exact .inl hd | exact .inr rfl

/-- A part that the frame does not name. -/
theorem Only.same {l : List Part} {s t : State} (h : Only l s t) (p : Part) (hp : l.contains p = false) : SameOn p s t :=
  (h.part p).resolve_left (by rw [hp]; exact Bool.false_ne_true)

/-- A fact shown first and then used. -/
theorem Only.cut (p : Prop) {q : Prop} (h : p) (k : p → q) : q := k h

/-- A goal kept as it is written. -/
theorem Only.hold {p : Prop} (h : p) : p := h

theorem Only.fst {α : Type _} {l : List Part} {s t : State} {p : State × α} {a : α} (e : p = (t, a)) (h : Only l s p.1) :
    Only l s t := by
  rw [e] at h; exact h

theorem Only.fold {α : Type _} {l : List Part} {s t : State} {f : State → α → State} (w : List α) (h : Only l s t)
    (hf : ∀ x a, Only l s x → Only l s (f x a)) : Only l s (w.foldl f t) := by
  induction w generalizing t with
  | nil => exact h
  | cons a w ih => exact ih (hf t a h)

theorem Only.foldP {α β : Type _} {l : List Part} {s : State} {p : State × β} {f : State × β → α → State × β} (w : List α)
    (h : Only l s p.1) (hf : ∀ x a, Only l s x.1 → Only l s (f x a).1) : Only l s (w.foldl f p).1 := by
  induction w generalizing p with
  | nil => exact h
  | cons a w ih => exact ih (hf p a h)

end Sys2Proof
end

