-- ==== Sys2Proof/Laws/OnlyOps.lean ====
section
/-! SUPPORT. The parts of the state that the operations of Ops may change. -/

set_option linter.all false

namespace Sys2Proof.Machine

theorem State.setReg_only (s : State) (r : RegId) (v : Word) : Only [.regs] s (State.setReg s r v) := by
  have sk := Only.refl [.regs] s
  unfold State.setReg
  repeat' first
    | with_reducible assumption
    | (extract_lets +onlyGivenNames b; first | (refine Only.cut (Only [.regs] s b) ?_ ?_ <;> first | (intro hb; clear_value b; refine Only.hold ?_) | intro hb | (unfold b; clear b)) | (refine Only.cut (Only [.regs] s b.1) ?_ ?_ <;> first | (intro hb; clear_value b; refine Only.hold ?_) | intro hb | (unfold b; clear b)) | (((first | (have h0 : Nat := b; clear h0) | (have h0 : Bool := b; clear h0) | (have h0 : BitVec _ := b; clear h0) | (have h0 : List _ := b; clear h0)); clear_value b)) | (unfold b; clear b) | clear b)
    | with_reducible refine Only.fst (by assumption) ?_
    | ((with_reducible refine Only.fold _ ?_ ?_) <;> try intro x a hb)
    | ((with_reducible refine Only.foldP _ ?_ ?_) <;> try (intro x a hb; rcases x with ⟨x, xr⟩))
    | split
    | (refine Only.update (by assumption) ?_; intro p; cases p <;> first | exact .inl rfl | exact .inr rfl)
    | (refine Only.update ?_ ?_; (with_reducible refine Only.fst (by assumption) ?_); rotate_left; intro p; cases p <;> first | exact .inl rfl | exact .inr rfl)

theorem State.setKey_only (s : State) (a : Nat) (v : Word) : Only [.regs] s (State.setKey s a v) := by
  have sk := Only.refl [.regs] s
  unfold State.setKey
  repeat' first
    | with_reducible assumption
    | (extract_lets +onlyGivenNames b; first | (refine Only.cut (Only [.regs] s b) ?_ ?_ <;> first | (intro hb; clear_value b; refine Only.hold ?_) | intro hb | (unfold b; clear b)) | (refine Only.cut (Only [.regs] s b.1) ?_ ?_ <;> first | (intro hb; clear_value b; refine Only.hold ?_) | intro hb | (unfold b; clear b)) | (((first | (have h0 : Nat := b; clear h0) | (have h0 : Bool := b; clear h0) | (have h0 : BitVec _ := b; clear h0) | (have h0 : List _ := b; clear h0)); clear_value b)) | (unfold b; clear b) | clear b)
    | with_reducible refine Only.fst (by assumption) ?_
    | ((with_reducible refine Only.fold _ ?_ ?_) <;> try intro x a hb)
    | ((with_reducible refine Only.foldP _ ?_ ?_) <;> try (intro x a hb; rcases x with ⟨x, xr⟩))
    | split
    | (refine Only.update (by assumption) ?_; intro p; cases p <;> first | exact .inl rfl | exact .inr rfl)
    | (refine Only.update ?_ ?_; (with_reducible refine Only.fst (by assumption) ?_); rotate_left; intro p; cases p <;> first | exact .inl rfl | exact .inr rfl)

theorem State.bump_only (s : State) (r : RegId) (lo : Nat) (w : Nat) (n : Nat) : Only [.regs] s (State.bump s r lo w n) := by
  have sk := Only.refl [.regs] s
  unfold State.bump
  repeat' first
    | with_reducible assumption
    | ((with_reducible apply Only.after (State.setReg_only _ _ _)); · rfl)

theorem State.setHead_only (s : State) (n : Nat) (h : Head) : Only [.heads] s (State.setHead s n h) := by
  have sk := Only.refl [.heads] s
  unfold State.setHead
  repeat' first
    | with_reducible assumption
    | (extract_lets +onlyGivenNames b; first | (refine Only.cut (Only [.heads] s b) ?_ ?_ <;> first | (intro hb; clear_value b; refine Only.hold ?_) | intro hb | (unfold b; clear b)) | (refine Only.cut (Only [.heads] s b.1) ?_ ?_ <;> first | (intro hb; clear_value b; refine Only.hold ?_) | intro hb | (unfold b; clear b)) | (((first | (have h0 : Nat := b; clear h0) | (have h0 : Bool := b; clear h0) | (have h0 : BitVec _ := b; clear h0) | (have h0 : List _ := b; clear h0)); clear_value b)) | (unfold b; clear b) | clear b)
    | with_reducible refine Only.fst (by assumption) ?_
    | ((with_reducible refine Only.fold _ ?_ ?_) <;> try intro x a hb)
    | ((with_reducible refine Only.foldP _ ?_ ?_) <;> try (intro x a hb; rcases x with ⟨x, xr⟩))
    | split
    | (refine Only.update (by assumption) ?_; intro p; cases p <;> first | exact .inl rfl | exact .inr rfl)
    | (refine Only.update ?_ ?_; (with_reducible refine Only.fst (by assumption) ?_); rotate_left; intro p; cases p <;> first | exact .inl rfl | exact .inr rfl)

theorem State.setPgroup_only (s : State) (g : Nat) (p : PGroup) : Only [.groups] s (State.setPgroup s g p) := by
  have sk := Only.refl [.groups] s
  unfold State.setPgroup
  repeat' first
    | with_reducible assumption
    | (extract_lets +onlyGivenNames b; first | (refine Only.cut (Only [.groups] s b) ?_ ?_ <;> first | (intro hb; clear_value b; refine Only.hold ?_) | intro hb | (unfold b; clear b)) | (refine Only.cut (Only [.groups] s b.1) ?_ ?_ <;> first | (intro hb; clear_value b; refine Only.hold ?_) | intro hb | (unfold b; clear b)) | (((first | (have h0 : Nat := b; clear h0) | (have h0 : Bool := b; clear h0) | (have h0 : BitVec _ := b; clear h0) | (have h0 : List _ := b; clear h0)); clear_value b)) | (unfold b; clear b) | clear b)
    | with_reducible refine Only.fst (by assumption) ?_
    | ((with_reducible refine Only.fold _ ?_ ?_) <;> try intro x a hb)
    | ((with_reducible refine Only.foldP _ ?_ ?_) <;> try (intro x a hb; rcases x with ⟨x, xr⟩))
    | split
    | (refine Only.update (by assumption) ?_; intro p; cases p <;> first | exact .inl rfl | exact .inr rfl)
    | (refine Only.update ?_ ?_; (with_reducible refine Only.fst (by assumption) ?_); rotate_left; intro p; cases p <;> first | exact .inl rfl | exact .inr rfl)

theorem State.setLayer_only (s : State) (i : Nat) (l : Layer) : Only [.fa] s (State.setLayer s i l) := by
  have sk := Only.refl [.fa] s
  unfold State.setLayer
  repeat' first
    | with_reducible assumption
    | (extract_lets +onlyGivenNames b; first | (refine Only.cut (Only [.fa] s b) ?_ ?_ <;> first | (intro hb; clear_value b; refine Only.hold ?_) | intro hb | (unfold b; clear b)) | (refine Only.cut (Only [.fa] s b.1) ?_ ?_ <;> first | (intro hb; clear_value b; refine Only.hold ?_) | intro hb | (unfold b; clear b)) | (((first | (have h0 : Nat := b; clear h0) | (have h0 : Bool := b; clear h0) | (have h0 : BitVec _ := b; clear h0) | (have h0 : List _ := b; clear h0)); clear_value b)) | (unfold b; clear b) | clear b)
    | with_reducible refine Only.fst (by assumption) ?_
    | ((with_reducible refine Only.fold _ ?_ ?_) <;> try intro x a hb)
    | ((with_reducible refine Only.foldP _ ?_ ?_) <;> try (intro x a hb; rcases x with ⟨x, xr⟩))
    | split
    | (refine Only.update (by assumption) ?_; intro p; cases p <;> first | exact .inl rfl | exact .inr rfl)
    | (refine Only.update ?_ ?_; (with_reducible refine Only.fst (by assumption) ?_); rotate_left; intro p; cases p <;> first | exact .inl rfl | exact .inr rfl)

theorem State.setBank_only (s : State) (b : Nat) (x : Bank) : Only [.sched] s (State.setBank s b x) := by
  have sk := Only.refl [.sched] s
  unfold State.setBank
  repeat' first
    | with_reducible assumption
    | (extract_lets +onlyGivenNames b; first | (refine Only.cut (Only [.sched] s b) ?_ ?_ <;> first | (intro hb; clear_value b; refine Only.hold ?_) | intro hb | (unfold b; clear b)) | (refine Only.cut (Only [.sched] s b.1) ?_ ?_ <;> first | (intro hb; clear_value b; refine Only.hold ?_) | intro hb | (unfold b; clear b)) | (((first | (have h0 : Nat := b; clear h0) | (have h0 : Bool := b; clear h0) | (have h0 : BitVec _ := b; clear h0) | (have h0 : List _ := b; clear h0)); clear_value b)) | (unfold b; clear b) | clear b)
    | with_reducible refine Only.fst (by assumption) ?_
    | ((with_reducible refine Only.fold _ ?_ ?_) <;> try intro x a hb)
    | ((with_reducible refine Only.foldP _ ?_ ?_) <;> try (intro x a hb; rcases x with ⟨x, xr⟩))
    | split
    | (refine Only.update (by assumption) ?_; intro p; cases p <;> first | exact .inl rfl | exact .inr rfl)
    | (refine Only.update ?_ ?_; (with_reducible refine Only.fst (by assumption) ?_); rotate_left; intro p; cases p <;> first | exact .inl rfl | exact .inr rfl)

theorem State.setChannel_only (s : State) (m : Nat) (c : Channel) : Only [.fabric] s (State.setChannel s m c) := by
  have sk := Only.refl [.fabric] s
  unfold State.setChannel
  repeat' first
    | with_reducible assumption
    | (extract_lets +onlyGivenNames b; first | (refine Only.cut (Only [.fabric] s b) ?_ ?_ <;> first | (intro hb; clear_value b; refine Only.hold ?_) | intro hb | (unfold b; clear b)) | (refine Only.cut (Only [.fabric] s b.1) ?_ ?_ <;> first | (intro hb; clear_value b; refine Only.hold ?_) | intro hb | (unfold b; clear b)) | (((first | (have h0 : Nat := b; clear h0) | (have h0 : Bool := b; clear h0) | (have h0 : BitVec _ := b; clear h0) | (have h0 : List _ := b; clear h0)); clear_value b)) | (unfold b; clear b) | clear b)
    | with_reducible refine Only.fst (by assumption) ?_
    | ((with_reducible refine Only.fold _ ?_ ?_) <;> try intro x a hb)
    | ((with_reducible refine Only.foldP _ ?_ ?_) <;> try (intro x a hb; rcases x with ⟨x, xr⟩))
    | split
    | (refine Only.update (by assumption) ?_; intro p; cases p <;> first | exact .inl rfl | exact .inr rfl)
    | (refine Only.update ?_ ?_; (with_reducible refine Only.fst (by assumption) ?_); rotate_left; intro p; cases p <;> first | exact .inl rfl | exact .inr rfl)

theorem State.setKeepHead_only (s : State) (n : Nat) (k : KeepHead) : Only [.keep] s (State.setKeepHead s n k) := by
  have sk := Only.refl [.keep] s
  unfold State.setKeepHead
  repeat' first
    | with_reducible assumption
    | (extract_lets +onlyGivenNames b; first | (refine Only.cut (Only [.keep] s b) ?_ ?_ <;> first | (intro hb; clear_value b; refine Only.hold ?_) | intro hb | (unfold b; clear b)) | (refine Only.cut (Only [.keep] s b.1) ?_ ?_ <;> first | (intro hb; clear_value b; refine Only.hold ?_) | intro hb | (unfold b; clear b)) | (((first | (have h0 : Nat := b; clear h0) | (have h0 : Bool := b; clear h0) | (have h0 : BitVec _ := b; clear h0) | (have h0 : List _ := b; clear h0)); clear_value b)) | (unfold b; clear b) | clear b)
    | with_reducible refine Only.fst (by assumption) ?_
    | ((with_reducible refine Only.fold _ ?_ ?_) <;> try intro x a hb)
    | ((with_reducible refine Only.foldP _ ?_ ?_) <;> try (intro x a hb; rcases x with ⟨x, xr⟩))
    | split
    | (refine Only.update (by assumption) ?_; intro p; cases p <;> first | exact .inl rfl | exact .inr rfl)
    | (refine Only.update ?_ ?_; (with_reducible refine Only.fst (by assumption) ?_); rotate_left; intro p; cases p <;> first | exact .inl rfl | exact .inr rfl)

theorem State.setSig_only (s : State) (n : Nat) (r : Nat) (k : SigRun) : Only [.keep] s (State.setSig s n r k) := by
  have sk := Only.refl [.keep] s
  unfold State.setSig
  repeat' first
    | with_reducible assumption
    | (extract_lets +onlyGivenNames b; first | (refine Only.cut (Only [.keep] s b) ?_ ?_ <;> first | (intro hb; clear_value b; refine Only.hold ?_) | intro hb | (unfold b; clear b)) | (refine Only.cut (Only [.keep] s b.1) ?_ ?_ <;> first | (intro hb; clear_value b; refine Only.hold ?_) | intro hb | (unfold b; clear b)) | (((first | (have h0 : Nat := b; clear h0) | (have h0 : Bool := b; clear h0) | (have h0 : BitVec _ := b; clear h0) | (have h0 : List _ := b; clear h0)); clear_value b)) | (unfold b; clear b) | clear b)
    | with_reducible refine Only.fst (by assumption) ?_
    | ((with_reducible refine Only.fold _ ?_ ?_) <;> try intro x a hb)
    | ((with_reducible refine Only.foldP _ ?_ ?_) <;> try (intro x a hb; rcases x with ⟨x, xr⟩))
    | split
    | (refine Only.update (by assumption) ?_; intro p; cases p <;> first | exact .inl rfl | exact .inr rfl)
    | (refine Only.update ?_ ?_; (with_reducible refine Only.fst (by assumption) ?_); rotate_left; intro p; cases p <;> first | exact .inl rfl | exact .inr rfl)

theorem State.setLantern_only (s : State) (l : Nat) (x : Lantern) : Only [.lanterns] s (State.setLantern s l x) := by
  have sk := Only.refl [.lanterns] s
  unfold State.setLantern
  repeat' first
    | with_reducible assumption
    | (extract_lets +onlyGivenNames b; first | (refine Only.cut (Only [.lanterns] s b) ?_ ?_ <;> first | (intro hb; clear_value b; refine Only.hold ?_) | intro hb | (unfold b; clear b)) | (refine Only.cut (Only [.lanterns] s b.1) ?_ ?_ <;> first | (intro hb; clear_value b; refine Only.hold ?_) | intro hb | (unfold b; clear b)) | (((first | (have h0 : Nat := b; clear h0) | (have h0 : Bool := b; clear h0) | (have h0 : BitVec _ := b; clear h0) | (have h0 : List _ := b; clear h0)); clear_value b)) | (unfold b; clear b) | clear b)
    | with_reducible refine Only.fst (by assumption) ?_
    | ((with_reducible refine Only.fold _ ?_ ?_) <;> try intro x a hb)
    | ((with_reducible refine Only.foldP _ ?_ ?_) <;> try (intro x a hb; rcases x with ⟨x, xr⟩))
    | split
    | (refine Only.update (by assumption) ?_; intro p; cases p <;> first | exact .inl rfl | exact .inr rfl)
    | (refine Only.update ?_ ?_; (with_reducible refine Only.fst (by assumption) ?_); rotate_left; intro p; cases p <;> first | exact .inl rfl | exact .inr rfl)

theorem State.setStream_only (s : State) (i : Nat) (x : Stream) : Only [.si] s (State.setStream s i x) := by
  have sk := Only.refl [.si] s
  unfold State.setStream
  repeat' first
    | with_reducible assumption
    | (extract_lets +onlyGivenNames b; first | (refine Only.cut (Only [.si] s b) ?_ ?_ <;> first | (intro hb; clear_value b; refine Only.hold ?_) | intro hb | (unfold b; clear b)) | (refine Only.cut (Only [.si] s b.1) ?_ ?_ <;> first | (intro hb; clear_value b; refine Only.hold ?_) | intro hb | (unfold b; clear b)) | (((first | (have h0 : Nat := b; clear h0) | (have h0 : Bool := b; clear h0) | (have h0 : BitVec _ := b; clear h0) | (have h0 : List _ := b; clear h0)); clear_value b)) | (unfold b; clear b) | clear b)
    | with_reducible refine Only.fst (by assumption) ?_
    | ((with_reducible refine Only.fold _ ?_ ?_) <;> try intro x a hb)
    | ((with_reducible refine Only.foldP _ ?_ ?_) <;> try (intro x a hb; rcases x with ⟨x, xr⟩))
    | split
    | (refine Only.update (by assumption) ?_; intro p; cases p <;> first | exact .inl rfl | exact .inr rfl)
    | (refine Only.update ?_ ?_; (with_reducible refine Only.fst (by assumption) ?_); rotate_left; intro p; cases p <;> first | exact .inl rfl | exact .inr rfl)

theorem State.setRx_only (s : State) (p : Nat) (x : RxPort) : Only [.si] s (State.setRx s p x) := by
  have sk := Only.refl [.si] s
  unfold State.setRx
  repeat' first
    | with_reducible assumption
    | (extract_lets +onlyGivenNames b; first | (refine Only.cut (Only [.si] s b) ?_ ?_ <;> first | (intro hb; clear_value b; refine Only.hold ?_) | intro hb | (unfold b; clear b)) | (refine Only.cut (Only [.si] s b.1) ?_ ?_ <;> first | (intro hb; clear_value b; refine Only.hold ?_) | intro hb | (unfold b; clear b)) | (((first | (have h0 : Nat := b; clear h0) | (have h0 : Bool := b; clear h0) | (have h0 : BitVec _ := b; clear h0) | (have h0 : List _ := b; clear h0)); clear_value b)) | (unfold b; clear b) | clear b)
    | with_reducible refine Only.fst (by assumption) ?_
    | ((with_reducible refine Only.fold _ ?_ ?_) <;> try intro x a hb)
    | ((with_reducible refine Only.foldP _ ?_ ?_) <;> try (intro x a hb; rcases x with ⟨x, xr⟩))
    | split
    | (refine Only.update (by assumption) ?_; intro p; cases p <;> first | exact .inl rfl | exact .inr rfl)
    | (refine Only.update ?_ ?_; (with_reducible refine Only.fst (by assumption) ?_); rotate_left; intro p; cases p <;> first | exact .inl rfl | exact .inr rfl)

theorem State.setRace_only (s : State) (n : Nat) (x : Race) : Only [.si] s (State.setRace s n x) := by
  have sk := Only.refl [.si] s
  unfold State.setRace
  repeat' first
    | with_reducible assumption
    | (extract_lets +onlyGivenNames b; first | (refine Only.cut (Only [.si] s b) ?_ ?_ <;> first | (intro hb; clear_value b; refine Only.hold ?_) | intro hb | (unfold b; clear b)) | (refine Only.cut (Only [.si] s b.1) ?_ ?_ <;> first | (intro hb; clear_value b; refine Only.hold ?_) | intro hb | (unfold b; clear b)) | (((first | (have h0 : Nat := b; clear h0) | (have h0 : Bool := b; clear h0) | (have h0 : BitVec _ := b; clear h0) | (have h0 : List _ := b; clear h0)); clear_value b)) | (unfold b; clear b) | clear b)
    | with_reducible refine Only.fst (by assumption) ?_
    | ((with_reducible refine Only.fold _ ?_ ?_) <;> try intro x a hb)
    | ((with_reducible refine Only.foldP _ ?_ ?_) <;> try (intro x a hb; rcases x with ⟨x, xr⟩))
    | split
    | (refine Only.update (by assumption) ?_; intro p; cases p <;> first | exact .inl rfl | exact .inr rfl)
    | (refine Only.update ?_ ?_; (with_reducible refine Only.fst (by assumption) ?_); rotate_left; intro p; cases p <;> first | exact .inl rfl | exact .inr rfl)

theorem State.setTxPort_only (s : State) (q : Nat) (t : Nat) (x : TxPort) : Only [.oq] s (State.setTxPort s q t x) := by
  have sk := Only.refl [.oq] s
  unfold State.setTxPort
  repeat' first
    | with_reducible assumption
    | (extract_lets +onlyGivenNames b; first | (refine Only.cut (Only [.oq] s b) ?_ ?_ <;> first | (intro hb; clear_value b; refine Only.hold ?_) | intro hb | (unfold b; clear b)) | (refine Only.cut (Only [.oq] s b.1) ?_ ?_ <;> first | (intro hb; clear_value b; refine Only.hold ?_) | intro hb | (unfold b; clear b)) | (((first | (have h0 : Nat := b; clear h0) | (have h0 : Bool := b; clear h0) | (have h0 : BitVec _ := b; clear h0) | (have h0 : List _ := b; clear h0)); clear_value b)) | (unfold b; clear b) | clear b)
    | with_reducible refine Only.fst (by assumption) ?_
    | ((with_reducible refine Only.fold _ ?_ ?_) <;> try intro x a hb)
    | ((with_reducible refine Only.foldP _ ?_ ?_) <;> try (intro x a hb; rcases x with ⟨x, xr⟩))
    | split
    | (refine Only.update (by assumption) ?_; intro p; cases p <;> first | exact .inl rfl | exact .inr rfl)
    | (refine Only.update ?_ ?_; (with_reducible refine Only.fst (by assumption) ?_); rotate_left; intro p; cases p <;> first | exact .inl rfl | exact .inr rfl)

theorem State.setEgress_only (s : State) (e : Nat) (x : Egress) : Only [.oq] s (State.setEgress s e x) := by
  have sk := Only.refl [.oq] s
  unfold State.setEgress
  repeat' first
    | with_reducible assumption
    | (extract_lets +onlyGivenNames b; first | (refine Only.cut (Only [.oq] s b) ?_ ?_ <;> first | (intro hb; clear_value b; refine Only.hold ?_) | intro hb | (unfold b; clear b)) | (refine Only.cut (Only [.oq] s b.1) ?_ ?_ <;> first | (intro hb; clear_value b; refine Only.hold ?_) | intro hb | (unfold b; clear b)) | (((first | (have h0 : Nat := b; clear h0) | (have h0 : Bool := b; clear h0) | (have h0 : BitVec _ := b; clear h0) | (have h0 : List _ := b; clear h0)); clear_value b)) | (unfold b; clear b) | clear b)
    | with_reducible refine Only.fst (by assumption) ?_
    | ((with_reducible refine Only.fold _ ?_ ?_) <;> try intro x a hb)
    | ((with_reducible refine Only.foldP _ ?_ ?_) <;> try (intro x a hb; rcases x with ⟨x, xr⟩))
    | split
    | (refine Only.update (by assumption) ?_; intro p; cases p <;> first | exact .inl rfl | exact .inr rfl)
    | (refine Only.update ?_ ?_; (with_reducible refine Only.fst (by assumption) ?_); rotate_left; intro p; cases p <;> first | exact .inl rfl | exact .inr rfl)

theorem State.setTicket_only (s : State) (t : Nat) (x : Ticket) : Only [.tx] s (State.setTicket s t x) := by
  have sk := Only.refl [.tx] s
  unfold State.setTicket
  repeat' first
    | with_reducible assumption
    | (extract_lets +onlyGivenNames b; first | (refine Only.cut (Only [.tx] s b) ?_ ?_ <;> first | (intro hb; clear_value b; refine Only.hold ?_) | intro hb | (unfold b; clear b)) | (refine Only.cut (Only [.tx] s b.1) ?_ ?_ <;> first | (intro hb; clear_value b; refine Only.hold ?_) | intro hb | (unfold b; clear b)) | (((first | (have h0 : Nat := b; clear h0) | (have h0 : Bool := b; clear h0) | (have h0 : BitVec _ := b; clear h0) | (have h0 : List _ := b; clear h0)); clear_value b)) | (unfold b; clear b) | clear b)
    | with_reducible refine Only.fst (by assumption) ?_
    | ((with_reducible refine Only.fold _ ?_ ?_) <;> try intro x a hb)
    | ((with_reducible refine Only.foldP _ ?_ ?_) <;> try (intro x a hb; rcases x with ⟨x, xr⟩))
    | split
    | (refine Only.update (by assumption) ?_; intro p; cases p <;> first | exact .inl rfl | exact .inr rfl)
    | (refine Only.update ?_ ?_; (with_reducible refine Only.fst (by assumption) ?_); rotate_left; intro p; cases p <;> first | exact .inl rfl | exact .inr rfl)

theorem State.setWin_only (s : State) (f : Nat) (x : Win) : Only [.dict] s (State.setWin s f x) := by
  have sk := Only.refl [.dict] s
  unfold State.setWin
  repeat' first
    | with_reducible assumption
    | (extract_lets +onlyGivenNames b; first | (refine Only.cut (Only [.dict] s b) ?_ ?_ <;> first | (intro hb; clear_value b; refine Only.hold ?_) | intro hb | (unfold b; clear b)) | (refine Only.cut (Only [.dict] s b.1) ?_ ?_ <;> first | (intro hb; clear_value b; refine Only.hold ?_) | intro hb | (unfold b; clear b)) | (((first | (have h0 : Nat := b; clear h0) | (have h0 : Bool := b; clear h0) | (have h0 : BitVec _ := b; clear h0) | (have h0 : List _ := b; clear h0)); clear_value b)) | (unfold b; clear b) | clear b)
    | with_reducible refine Only.fst (by assumption) ?_
    | ((with_reducible refine Only.fold _ ?_ ?_) <;> try intro x a hb)
    | ((with_reducible refine Only.foldP _ ?_ ?_) <;> try (intro x a hb; rcases x with ⟨x, xr⟩))
    | split
    | (refine Only.update (by assumption) ?_; intro p; cases p <;> first | exact .inl rfl | exact .inr rfl)
    | (refine Only.update ?_ ?_; (with_reducible refine Only.fst (by assumption) ?_); rotate_left; intro p; cases p <;> first | exact .inl rfl | exact .inr rfl)

theorem State.setTarget_only (s : State) (t : Nat) (x : Target) : Only [.ic] s (State.setTarget s t x) := by
  have sk := Only.refl [.ic] s
  unfold State.setTarget
  repeat' first
    | with_reducible assumption
    | (extract_lets +onlyGivenNames b; first | (refine Only.cut (Only [.ic] s b) ?_ ?_ <;> first | (intro hb; clear_value b; refine Only.hold ?_) | intro hb | (unfold b; clear b)) | (refine Only.cut (Only [.ic] s b.1) ?_ ?_ <;> first | (intro hb; clear_value b; refine Only.hold ?_) | intro hb | (unfold b; clear b)) | (((first | (have h0 : Nat := b; clear h0) | (have h0 : Bool := b; clear h0) | (have h0 : BitVec _ := b; clear h0) | (have h0 : List _ := b; clear h0)); clear_value b)) | (unfold b; clear b) | clear b)
    | with_reducible refine Only.fst (by assumption) ?_
    | ((with_reducible refine Only.fold _ ?_ ?_) <;> try intro x a hb)
    | ((with_reducible refine Only.foldP _ ?_ ?_) <;> try (intro x a hb; rcases x with ⟨x, xr⟩))
    | split
    | (refine Only.update (by assumption) ?_; intro p; cases p <;> first | exact .inl rfl | exact .inr rfl)
    | (refine Only.update ?_ ?_; (with_reducible refine Only.fst (by assumption) ?_); rotate_left; intro p; cases p <;> first | exact .inl rfl | exact .inr rfl)

theorem State.setCgroup_only (s : State) (g : Nat) (x : CGroup) : Only [.ic] s (State.setCgroup s g x) := by
  have sk := Only.refl [.ic] s
  unfold State.setCgroup
  repeat' first
    | with_reducible assumption
    | (extract_lets +onlyGivenNames b; first | (refine Only.cut (Only [.ic] s b) ?_ ?_ <;> first | (intro hb; clear_value b; refine Only.hold ?_) | intro hb | (unfold b; clear b)) | (refine Only.cut (Only [.ic] s b.1) ?_ ?_ <;> first | (intro hb; clear_value b; refine Only.hold ?_) | intro hb | (unfold b; clear b)) | (((first | (have h0 : Nat := b; clear h0) | (have h0 : Bool := b; clear h0) | (have h0 : BitVec _ := b; clear h0) | (have h0 : List _ := b; clear h0)); clear_value b)) | (unfold b; clear b) | clear b)
    | with_reducible refine Only.fst (by assumption) ?_
    | ((with_reducible refine Only.fold _ ?_ ?_) <;> try intro x a hb)
    | ((with_reducible refine Only.foldP _ ?_ ?_) <;> try (intro x a hb; rcases x with ⟨x, xr⟩))
    | split
    | (refine Only.update (by assumption) ?_; intro p; cases p <;> first | exact .inl rfl | exact .inr rfl)
    | (refine Only.update ?_ ?_; (with_reducible refine Only.fst (by assumption) ?_); rotate_left; intro p; cases p <;> first | exact .inl rfl | exact .inr rfl)

theorem State.setCvUnit_only (s : State) (u : Nat) (x : CvUnit) : Only [.cv] s (State.setCvUnit s u x) := by
  have sk := Only.refl [.cv] s
  unfold State.setCvUnit
  repeat' first
    | with_reducible assumption
    | (extract_lets +onlyGivenNames b; first | (refine Only.cut (Only [.cv] s b) ?_ ?_ <;> first | (intro hb; clear_value b; refine Only.hold ?_) | intro hb | (unfold b; clear b)) | (refine Only.cut (Only [.cv] s b.1) ?_ ?_ <;> first | (intro hb; clear_value b; refine Only.hold ?_) | intro hb | (unfold b; clear b)) | (((first | (have h0 : Nat := b; clear h0) | (have h0 : Bool := b; clear h0) | (have h0 : BitVec _ := b; clear h0) | (have h0 : List _ := b; clear h0)); clear_value b)) | (unfold b; clear b) | clear b)
    | with_reducible refine Only.fst (by assumption) ?_
    | ((with_reducible refine Only.fold _ ?_ ?_) <;> try intro x a hb)
    | ((with_reducible refine Only.foldP _ ?_ ?_) <;> try (intro x a hb; rcases x with ⟨x, xr⟩))
    | split
    | (refine Only.update (by assumption) ?_; intro p; cases p <;> first | exact .inl rfl | exact .inr rfl)
    | (refine Only.update ?_ ?_; (with_reducible refine Only.fst (by assumption) ?_); rotate_left; intro p; cases p <;> first | exact .inl rfl | exact .inr rfl)

theorem State.setEngine_only (s : State) (e : Nat) (x : BlitEng) : Only [.bl] s (State.setEngine s e x) := by
  have sk := Only.refl [.bl] s
  unfold State.setEngine
  repeat' first
    | with_reducible assumption
    | (extract_lets +onlyGivenNames b; first | (refine Only.cut (Only [.bl] s b) ?_ ?_ <;> first | (intro hb; clear_value b; refine Only.hold ?_) | intro hb | (unfold b; clear b)) | (refine Only.cut (Only [.bl] s b.1) ?_ ?_ <;> first | (intro hb; clear_value b; refine Only.hold ?_) | intro hb | (unfold b; clear b)) | (((first | (have h0 : Nat := b; clear h0) | (have h0 : Bool := b; clear h0) | (have h0 : BitVec _ := b; clear h0) | (have h0 : List _ := b; clear h0)); clear_value b)) | (unfold b; clear b) | clear b)
    | with_reducible refine Only.fst (by assumption) ?_
    | ((with_reducible refine Only.fold _ ?_ ?_) <;> try intro x a hb)
    | ((with_reducible refine Only.foldP _ ?_ ?_) <;> try (intro x a hb; rcases x with ⟨x, xr⟩))
    | split
    | (refine Only.update (by assumption) ?_; intro p; cases p <;> first | exact .inl rfl | exact .inr rfl)
    | (refine Only.update ?_ ?_; (with_reducible refine Only.fst (by assumption) ?_); rotate_left; intro p; cases p <;> first | exact .inl rfl | exact .inr rfl)

theorem State.setShare_only (s : State) (e : Nat) (f : Nat) (x : BlitShare) : Only [.bl] s (State.setShare s e f x) := by
  have sk := Only.refl [.bl] s
  unfold State.setShare
  repeat' first
    | with_reducible assumption
    | (extract_lets +onlyGivenNames b; first | (refine Only.cut (Only [.bl] s b) ?_ ?_ <;> first | (intro hb; clear_value b; refine Only.hold ?_) | intro hb | (unfold b; clear b)) | (refine Only.cut (Only [.bl] s b.1) ?_ ?_ <;> first | (intro hb; clear_value b; refine Only.hold ?_) | intro hb | (unfold b; clear b)) | (((first | (have h0 : Nat := b; clear h0) | (have h0 : Bool := b; clear h0) | (have h0 : BitVec _ := b; clear h0) | (have h0 : List _ := b; clear h0)); clear_value b)) | (unfold b; clear b) | clear b)
    | with_reducible refine Only.fst (by assumption) ?_
    | ((with_reducible refine Only.fold _ ?_ ?_) <;> try intro x a hb)
    | ((with_reducible refine Only.foldP _ ?_ ?_) <;> try (intro x a hb; rcases x with ⟨x, xr⟩))
    | split
    | (refine Only.update (by assumption) ?_; intro p; cases p <;> first | exact .inl rfl | exact .inr rfl)
    | (refine Only.update ?_ ?_; (with_reducible refine Only.fst (by assumption) ?_); rotate_left; intro p; cases p <;> first | exact .inl rfl | exact .inr rfl)

theorem State.setOsl_only (s : State) (u : Nat) (x : Osleig) : Only [.casc] s (State.setOsl s u x) := by
  have sk := Only.refl [.casc] s
  unfold State.setOsl
  repeat' first
    | with_reducible assumption
    | (extract_lets +onlyGivenNames b; first | (refine Only.cut (Only [.casc] s b) ?_ ?_ <;> first | (intro hb; clear_value b; refine Only.hold ?_) | intro hb | (unfold b; clear b)) | (refine Only.cut (Only [.casc] s b.1) ?_ ?_ <;> first | (intro hb; clear_value b; refine Only.hold ?_) | intro hb | (unfold b; clear b)) | (((first | (have h0 : Nat := b; clear h0) | (have h0 : Bool := b; clear h0) | (have h0 : BitVec _ := b; clear h0) | (have h0 : List _ := b; clear h0)); clear_value b)) | (unfold b; clear b) | clear b)
    | with_reducible refine Only.fst (by assumption) ?_
    | ((with_reducible refine Only.fold _ ?_ ?_) <;> try intro x a hb)
    | ((with_reducible refine Only.foldP _ ?_ ?_) <;> try (intro x a hb; rcases x with ⟨x, xr⟩))
    | split
    | (refine Only.update (by assumption) ?_; intro p; cases p <;> first | exact .inl rfl | exact .inr rfl)
    | (refine Only.update ?_ ?_; (with_reducible refine Only.fst (by assumption) ?_); rotate_left; intro p; cases p <;> first | exact .inl rfl | exact .inr rfl)

theorem State.setSeg_only (s : State) (k : Nat) (x : SegBuf) : Only [.casc] s (State.setSeg s k x) := by
  have sk := Only.refl [.casc] s
  unfold State.setSeg
  repeat' first
    | with_reducible assumption
    | (extract_lets +onlyGivenNames b; first | (refine Only.cut (Only [.casc] s b) ?_ ?_ <;> first | (intro hb; clear_value b; refine Only.hold ?_) | intro hb | (unfold b; clear b)) | (refine Only.cut (Only [.casc] s b.1) ?_ ?_ <;> first | (intro hb; clear_value b; refine Only.hold ?_) | intro hb | (unfold b; clear b)) | (((first | (have h0 : Nat := b; clear h0) | (have h0 : Bool := b; clear h0) | (have h0 : BitVec _ := b; clear h0) | (have h0 : List _ := b; clear h0)); clear_value b)) | (unfold b; clear b) | clear b)
    | with_reducible refine Only.fst (by assumption) ?_
    | ((with_reducible refine Only.fold _ ?_ ?_) <;> try intro x a hb)
    | ((with_reducible refine Only.foldP _ ?_ ?_) <;> try (intro x a hb; rcases x with ⟨x, xr⟩))
    | split
    | (refine Only.update (by assumption) ?_; intro p; cases p <;> first | exact .inl rfl | exact .inr rfl)
    | (refine Only.update ?_ ?_; (with_reducible refine Only.fst (by assumption) ?_); rotate_left; intro p; cases p <;> first | exact .inl rfl | exact .inr rfl)

theorem State.setErrRec_only (s : State) (f : Nat) (x : ErrRec) : Only [.err] s (State.setErrRec s f x) := by
  have sk := Only.refl [.err] s
  unfold State.setErrRec
  repeat' first
    | with_reducible assumption
    | (extract_lets +onlyGivenNames b; first | (refine Only.cut (Only [.err] s b) ?_ ?_ <;> first | (intro hb; clear_value b; refine Only.hold ?_) | intro hb | (unfold b; clear b)) | (refine Only.cut (Only [.err] s b.1) ?_ ?_ <;> first | (intro hb; clear_value b; refine Only.hold ?_) | intro hb | (unfold b; clear b)) | (((first | (have h0 : Nat := b; clear h0) | (have h0 : Bool := b; clear h0) | (have h0 : BitVec _ := b; clear h0) | (have h0 : List _ := b; clear h0)); clear_value b)) | (unfold b; clear b) | clear b)
    | with_reducible refine Only.fst (by assumption) ?_
    | ((with_reducible refine Only.fold _ ?_ ?_) <;> try intro x a hb)
    | ((with_reducible refine Only.foldP _ ?_ ?_) <;> try (intro x a hb; rcases x with ⟨x, xr⟩))
    | split
    | (refine Only.update (by assumption) ?_; intro p; cases p <;> first | exact .inl rfl | exact .inr rfl)
    | (refine Only.update ?_ ?_; (with_reducible refine Only.fst (by assumption) ?_); rotate_left; intro p; cases p <;> first | exact .inl rfl | exact .inr rfl)

theorem State.setLink_only (s : State) (k : Nat) (x : PLink) : Only [.hl] s (State.setLink s k x) := by
  have sk := Only.refl [.hl] s
  unfold State.setLink
  repeat' first
    | with_reducible assumption
    | (extract_lets +onlyGivenNames b; first | (unfold b; clear b) | clear b)
    | (refine Only.update (by assumption) ?_; intro p; cases p <;> first | exact .inl rfl | exact .inr rfl)

theorem State.wakeLink_only (k : Nat) (s : State) : Only [.hl] s (State.wakeLink k s) := by
  have sk := Only.refl [.hl] s
  unfold State.wakeLink
  repeat' first
    | with_reducible assumption
    | (extract_lets +onlyGivenNames b; first | (unfold b; clear b) | clear b)
    | ((with_reducible apply Only.after (State.setLink_only _ _ _)); · rfl)
    | split
    | (refine Only.update (by assumption) ?_; intro p; cases p <;> first | exact .inl rfl | exact .inr rfl)

theorem State.send_only (s : State) (m : OutMsg) : Only [.outbox] s (State.send s m) := by
  have sk := Only.refl [.outbox] s
  unfold State.send
  repeat' first
    | with_reducible assumption
    | (extract_lets +onlyGivenNames b; first | (refine Only.cut (Only [.outbox] s b) ?_ ?_ <;> first | (intro hb; clear_value b; refine Only.hold ?_) | intro hb | (unfold b; clear b)) | (refine Only.cut (Only [.outbox] s b.1) ?_ ?_ <;> first | (intro hb; clear_value b; refine Only.hold ?_) | intro hb | (unfold b; clear b)) | (((first | (have h0 : Nat := b; clear h0) | (have h0 : Bool := b; clear h0) | (have h0 : BitVec _ := b; clear h0) | (have h0 : List _ := b; clear h0)); clear_value b)) | (unfold b; clear b) | clear b)
    | with_reducible refine Only.fst (by assumption) ?_
    | ((with_reducible refine Only.fold _ ?_ ?_) <;> try intro x a hb)
    | ((with_reducible refine Only.foldP _ ?_ ?_) <;> try (intro x a hb; rcases x with ⟨x, xr⟩))
    | split
    | (refine Only.update (by assumption) ?_; intro p; cases p <;> first | exact .inl rfl | exact .inr rfl)
    | (refine Only.update ?_ ?_; (with_reducible refine Only.fst (by assumption) ?_); rotate_left; intro p; cases p <;> first | exact .inl rfl | exact .inr rfl)

theorem State.sendTlp_only (s : State) (k : Nat) (m : OutMsg) : Only [.outbox, .hl] s (State.sendTlp s k m) := by
  have sk := Only.refl [.outbox, .hl] s
  unfold State.sendTlp
  repeat' first
    | with_reducible assumption
    | ((with_reducible apply Only.after (State.wakeLink_only _ _)); · rfl)
    | ((with_reducible apply Only.after (State.send_only _ _)); · rfl)

theorem State.answer_only (s : State) (r : Reply) : Only [.reply] s (State.answer s r) := by
  have sk := Only.refl [.reply] s
  unfold State.answer
  repeat' first
    | with_reducible assumption
    | (extract_lets +onlyGivenNames b; first | (refine Only.cut (Only [.reply] s b) ?_ ?_ <;> first | (intro hb; clear_value b; refine Only.hold ?_) | intro hb | (unfold b; clear b)) | (refine Only.cut (Only [.reply] s b.1) ?_ ?_ <;> first | (intro hb; clear_value b; refine Only.hold ?_) | intro hb | (unfold b; clear b)) | (((first | (have h0 : Nat := b; clear h0) | (have h0 : Bool := b; clear h0) | (have h0 : BitVec _ := b; clear h0) | (have h0 : List _ := b; clear h0)); clear_value b)) | (unfold b; clear b) | clear b)
    | with_reducible refine Only.fst (by assumption) ?_
    | ((with_reducible refine Only.fold _ ?_ ?_) <;> try intro x a hb)
    | ((with_reducible refine Only.foldP _ ?_ ?_) <;> try (intro x a hb; rcases x with ⟨x, xr⟩))
    | split
    | (refine Only.update (by assumption) ?_; intro p; cases p <;> first | exact .inl rfl | exact .inr rfl)
    | (refine Only.update ?_ ?_; (with_reducible refine Only.fst (by assumption) ?_); rotate_left; intro p; cases p <;> first | exact .inl rfl | exact .inr rfl)

theorem State.draw_only (s : State) (n : Nat) : Only [.fresh] s (State.draw s n) := by
  have sk := Only.refl [.fresh] s
  unfold State.draw
  repeat' first
    | with_reducible assumption
    | (extract_lets +onlyGivenNames b; first | (refine Only.cut (Only [.fresh] s b) ?_ ?_ <;> first | (intro hb; clear_value b; refine Only.hold ?_) | intro hb | (unfold b; clear b)) | (refine Only.cut (Only [.fresh] s b.1) ?_ ?_ <;> first | (intro hb; clear_value b; refine Only.hold ?_) | intro hb | (unfold b; clear b)) | (((first | (have h0 : Nat := b; clear h0) | (have h0 : Bool := b; clear h0) | (have h0 : BitVec _ := b; clear h0) | (have h0 : List _ := b; clear h0)); clear_value b)) | (unfold b; clear b) | clear b)
    | with_reducible refine Only.fst (by assumption) ?_
    | ((with_reducible refine Only.fold _ ?_ ?_) <;> try intro x a hb)
    | ((with_reducible refine Only.foldP _ ?_ ?_) <;> try (intro x a hb; rcases x with ⟨x, xr⟩))
    | split
    | (refine Only.update (by assumption) ?_; intro p; cases p <;> first | exact .inl rfl | exact .inr rfl)
    | (refine Only.update ?_ ?_; (with_reducible refine Only.fst (by assumption) ?_); rotate_left; intro p; cases p <;> first | exact .inl rfl | exact .inr rfl)

theorem idleGroups_only (t : Nat) (s : State) : Only [.ic] s (idleGroups t s) := by
  have sk := Only.refl [.ic] s
  unfold idleGroups
  repeat' first
    | with_reducible assumption
    | ((with_reducible apply Only.after (State.setCgroup_only _ _ _)); · rfl)
    | ((with_reducible refine Only.fold _ ?_ ?_) <;> try intro x a hb)
    | split

theorem sendRequest_only (t : Nat) (s : State) : Only [.outbox, .hl, .ic] s (sendRequest t s) := by
  have sk := Only.refl [.outbox, .hl, .ic] s
  unfold sendRequest
  repeat' first
    | with_reducible assumption
    | (extract_lets +onlyGivenNames b; first | (refine Only.cut (Only [.outbox, .hl, .ic] s b) ?_ ?_ <;> first | (intro hb; clear_value b; refine Only.hold ?_) | intro hb | (unfold b; clear b)) | (refine Only.cut (Only [.outbox, .hl, .ic] s b.1) ?_ ?_ <;> first | (intro hb; clear_value b; refine Only.hold ?_) | intro hb | (unfold b; clear b)) | (((first | (have h0 : Nat := b; clear h0) | (have h0 : Bool := b; clear h0) | (have h0 : BitVec _ := b; clear h0) | (have h0 : List _ := b; clear h0)); clear_value b)) | (unfold b; clear b) | clear b)
    | ((with_reducible apply Only.after (State.setTarget_only _ _ _)); · rfl)
    | ((with_reducible apply Only.after (State.sendTlp_only _ _ _)); · rfl)
    | with_reducible refine Only.fst (by assumption) ?_
    | ((with_reducible refine Only.fold _ ?_ ?_) <;> try intro x a hb)
    | ((with_reducible refine Only.foldP _ ?_ ?_) <;> try (intro x a hb; rcases x with ⟨x, xr⟩))
    | split
    | (refine Only.update (by assumption) ?_; intro p; cases p <;> first | exact .inl rfl | exact .inr rfl)
    | (refine Only.update ?_ ?_; (with_reducible refine Only.fst (by assumption) ?_); rotate_left; intro p; cases p <;> first | exact .inl rfl | exact .inr rfl)

theorem stopSleeping_only (t : Nat) (s : State) : Only [.outbox, .hl, .ic] s (stopSleeping t s) := by
  have sk := Only.refl [.outbox, .hl, .ic] s
  unfold stopSleeping
  repeat' first
    | with_reducible assumption
    | (extract_lets +onlyGivenNames b; first | (refine Only.cut (Only [.outbox, .hl, .ic] s b) ?_ ?_ <;> first | (intro hb; clear_value b; refine Only.hold ?_) | intro hb | (unfold b; clear b)) | (((first | (have h0 : Nat := b; clear h0) | (have h0 : Bool := b; clear h0) | (have h0 : BitVec _ := b; clear h0) | (have h0 : List _ := b; clear h0)); clear_value b)) | (unfold b; clear b) | clear b)
    | ((with_reducible apply Only.after (State.setTarget_only _ _ _)); · rfl)
    | ((with_reducible apply Only.after (State.setCgroup_only _ _ _)); · rfl)
    | ((with_reducible apply Only.after (idleGroups_only _ _)); · rfl)
    | ((with_reducible apply Only.after (sendRequest_only _ _)); · rfl)
    | ((with_reducible refine Only.fold _ ?_ ?_) <;> try intro x a hb)
    | split
    | (refine Only.update (by assumption) ?_; intro p; cases p <;> first | exact .inl rfl | exact .inr rfl)

theorem wake_only (t : Nat) (s : State) : Only [.outbox, .hl, .ic] s (wake t s) := by
  have sk := Only.refl [.outbox, .hl, .ic] s
  unfold wake
  repeat' first
    | with_reducible assumption
    | (extract_lets +onlyGivenNames b; first | (refine Only.cut (Only [.outbox, .hl, .ic] s b) ?_ ?_ <;> first | (intro hb; clear_value b; refine Only.hold ?_) | intro hb | (unfold b; clear b)) | (refine Only.cut (Only [.outbox, .hl, .ic] s b.1) ?_ ?_ <;> first | (intro hb; clear_value b; refine Only.hold ?_) | intro hb | (unfold b; clear b)) | (((first | (have h0 : Nat := b; clear h0) | (have h0 : Bool := b; clear h0) | (have h0 : BitVec _ := b; clear h0) | (have h0 : List _ := b; clear h0)); clear_value b)) | (unfold b; clear b) | clear b)
    | ((with_reducible apply Only.after (State.setTarget_only _ _ _)); · rfl)
    | ((with_reducible apply Only.after (State.sendTlp_only _ _ _)); · rfl)
    | ((with_reducible apply Only.after (stopSleeping_only _ _)); · rfl)
    | with_reducible refine Only.fst (by assumption) ?_
    | ((with_reducible refine Only.fold _ ?_ ?_) <;> try intro x a hb)
    | ((with_reducible refine Only.foldP _ ?_ ?_) <;> try (intro x a hb; rcases x with ⟨x, xr⟩))
    | split
    | (refine Only.update (by assumption) ?_; intro p; cases p <;> first | exact .inl rfl | exact .inr rfl)
    | (refine Only.update ?_ ?_; (with_reducible refine Only.fst (by assumption) ?_); rotate_left; intro p; cases p <;> first | exact .inl rfl | exact .inr rfl)

theorem settleCore_only (t : Nat) (before : State) (s : State) : Only [.outbox, .hl, .ic] s (settleCore t before s) := by
  have sk := Only.refl [.outbox, .hl, .ic] s
  unfold settleCore
  repeat' first
    | with_reducible assumption
    | (extract_lets +onlyGivenNames b; first | (refine Only.cut (Only [.outbox, .hl, .ic] s b) ?_ ?_ <;> first | (intro hb; clear_value b; refine Only.hold ?_) | intro hb | (unfold b; clear b)) | (((first | (have h0 : Nat := b; clear h0) | (have h0 : Bool := b; clear h0) | (have h0 : BitVec _ := b; clear h0) | (have h0 : List _ := b; clear h0)); clear_value b)) | (unfold b; clear b) | clear b)
    | ((with_reducible apply Only.after (idleGroups_only _ _)); · rfl)
    | ((with_reducible apply Only.after (sendRequest_only _ _)); · rfl)
    | ((with_reducible apply Only.after (wake_only _ _)); · rfl)
    | split

theorem releaseGroup_only (t : Nat) (g : Nat) (count : Nat) (since : Nat) (s : State) : Only [.outbox, .hl, .ic] s (releaseGroup t g count since s) := by
  have sk := Only.refl [.outbox, .hl, .ic] s
  unfold releaseGroup
  repeat' first
    | with_reducible assumption
    | (extract_lets +onlyGivenNames b; first | (refine Only.cut (Only [.outbox, .hl, .ic] s b) ?_ ?_ <;> first | (intro hb; clear_value b; refine Only.hold ?_) | intro hb | (unfold b; clear b)) | (((first | (have h0 : Nat := b; clear h0) | (have h0 : Bool := b; clear h0) | (have h0 : BitVec _ := b; clear h0) | (have h0 : List _ := b; clear h0)); clear_value b)) | (unfold b; clear b) | clear b)
    | ((with_reducible apply Only.after (State.setCgroup_only _ _ _)); · rfl)
    | ((with_reducible apply Only.after (wake_only _ _)); · rfl)
    | split

theorem groupEvent_only (t : Nat) (g : Nat) (s : State) : Only [.outbox, .hl, .ic] s (groupEvent t g s) := by
  have sk := Only.refl [.outbox, .hl, .ic] s
  unfold groupEvent
  repeat' first
    | with_reducible assumption
    | (extract_lets +onlyGivenNames b; first | (refine Only.cut (Only [.outbox, .hl, .ic] s b) ?_ ?_ <;> first | (intro hb; clear_value b; refine Only.hold ?_) | intro hb | (unfold b; clear b)) | (((first | (have h0 : Nat := b; clear h0) | (have h0 : Bool := b; clear h0) | (have h0 : BitVec _ := b; clear h0) | (have h0 : List _ := b; clear h0)); clear_value b)) | (unfold b; clear b) | clear b)
    | ((with_reducible apply Only.after (State.setCgroup_only _ _ _)); · rfl)
    | ((with_reducible apply Only.after (releaseGroup_only _ _ _ _ _)); · rfl)
    | split
    | (refine Only.update (by assumption) ?_; intro p; cases p <;> first | exact .inl rfl | exact .inr rfl)

theorem pendAt_only (t : Nat) (src : Nat) (s : State) : Only [.outbox, .hl, .ic] s (pendAt t src s) := by
  have sk := Only.refl [.outbox, .hl, .ic] s
  unfold pendAt
  repeat' first
    | with_reducible assumption
    | (extract_lets +onlyGivenNames b; first | (refine Only.cut (Only [.outbox, .hl, .ic] s b) ?_ ?_ <;> first | (intro hb; clear_value b; refine Only.hold ?_) | intro hb | (unfold b; clear b)) | (((first | (have h0 : Nat := b; clear h0) | (have h0 : Bool := b; clear h0) | (have h0 : BitVec _ := b; clear h0) | (have h0 : List _ := b; clear h0)); clear_value b)) | (unfold b; clear b) | clear b)
    | ((with_reducible apply Only.after (State.setTarget_only _ _ _)); · rfl)
    | ((with_reducible apply Only.after (groupEvent_only _ _ _)); · rfl)
    | split
    | (refine Only.update (by assumption) ?_; intro p; cases p <;> first | exact .inl rfl | exact .inr rfl)

theorem holdPm_only (r : RegId) (s : State) : Only [.pm] s (holdPm r s) := by
  have sk := Only.refl [.pm] s
  unfold holdPm
  repeat' first
    | with_reducible assumption
    | (extract_lets +onlyGivenNames b; first | (unfold b; clear b) | clear b)
    | split
    | (refine Only.update (by assumption) ?_; intro p; cases p <;> first | exact .inl rfl | exact .inr rfl)

theorem setOvf_only (k : Nat) (j : Nat) (s : State) : Only [.pm] s (setOvf k j s) := by
  have sk := Only.refl [.pm] s
  unfold setOvf
  repeat' first
    | with_reducible assumption
    | (extract_lets +onlyGivenNames b; first | (unfold b; clear b) | clear b)
    | (refine Only.update (by assumption) ?_; intro p; cases p <;> first | exact .inl rfl | exact .inr rfl)

theorem addCtr_only (k : Nat) (j : Nat) (n : Nat) (s : State) : Only [.pm] s (addCtr k j n s).1 := by
  have sk := Only.refl [.pm] s
  unfold addCtr
  repeat' first
    | with_reducible assumption
    | (extract_lets +onlyGivenNames b; first | (refine Only.cut (Only [.pm] s b) ?_ ?_ <;> first | (intro hb; clear_value b; refine Only.hold ?_) | intro hb | (unfold b; clear b)) | (((first | (have h0 : Nat := b; clear h0) | (have h0 : Bool := b; clear h0) | (have h0 : BitVec _ := b; clear h0) | (have h0 : List _ := b; clear h0)); clear_value b)) | (unfold b; clear b) | clear b)
    | (refine Only.update (by assumption) ?_; intro p; cases p <;> first | exact .inl rfl | exact .inr rfl)

theorem countEvent_only (k : Nat) (inst : Nat) (ev : Nat) (n : Nat) (s : State) : Only [.pm] s (countEvent k inst ev n s).1 := by
  have sk := Only.refl [.pm] s
  unfold countEvent
  repeat' first
    | with_reducible assumption
    | ((with_reducible apply Only.after (addCtr_only _ _ _ _)); · rfl)
    | with_reducible refine Only.fst (by assumption) ?_
    | ((with_reducible refine Only.fold _ ?_ ?_) <;> try intro x a hb)
    | ((with_reducible refine Only.foldP _ ?_ ?_) <;> try (intro x a hb; rcases x with ⟨x, xr⟩))
    | split

/-- A way of counting that changes only what an event may change. -/
def Counting.Only (count : Counting) : Prop :=
  ∀ (k i e n : Nat) (s : State), Sys2Proof.Only [.outbox, .hl, .ic, .pm] s (count k i e n s)

theorem tallyWith_only {count : Counting} (hc : Counting.Only count) (t : Nat) (before after : State) :
    Only [.outbox, .hl, .ic, .pm] after (tallyWith count t before after) := (hc _ _ _ _ _).trans (hc _ _ _ _ _)

theorem settleWith_only {count : Counting} (hc : Counting.Only count) (t : Nat) (before s : State) :
    Only [.outbox, .hl, .ic, .pm] s (settleWith count t before s) :=
  Only.trans ((settleCore_only _ _ _).mono rfl) (tallyWith_only hc _ _ _)

theorem raiseAtWith_only {count : Counting} (hc : Counting.Only count) (t src : Nat) (s : State) :
    Only [.outbox, .hl, .ic, .pm] s (raiseAtWith count t src s) := by
  unfold raiseAtWith
  split
  · exact Only.trans ((pendAt_only _ _ _).mono rfl) (settleWith_only hc _ _ _)
  · exact Only.refl _ s

theorem raiseWith_only {count : Counting} (hc : Counting.Only count) (src : Nat) (s : State) :
    Only [.outbox, .hl, .ic, .pm] s (raiseWith count src s) :=
  Only.fold _ (Only.refl _ s) (fun x _ hx => hx.trans (raiseAtWith_only hc _ _ x))

theorem wrapWith_only {count : Counting} (hc : Counting.Only count) (k j : Nat) (s : State) :
    Only [.outbox, .hl, .ic, .pm] s (wrapWith count k j s) := by
  unfold wrapWith
  refine Only.trans ?_ (hc _ _ _ _ _)
  split
  · exact (setOvf_only _ _ _).mono rfl
  · exact Only.trans ((setOvf_only _ _ _).mono rfl) (raiseWith_only hc _ _)

theorem countFuel_events (fuel : Nat) : Counting.Only (countFuel fuel) := by
  induction fuel with
  | zero => exact fun _ _ _ _ _ => Only.refl _ _
  | succ fuel ih =>
    intro k i e n s
    unfold countFuel
    split
    · exact Only.refl _ s
    · exact Only.fold _ ((countEvent_only _ _ _ _ _).mono rfl) (fun x _ hx => hx.trans (wrapWith_only ih _ _ x))

theorem perfEvent_only (k inst ev n : Nat) (s : State) : Only [.outbox, .hl, .ic, .pm] s (perfEvent k inst ev n s) := countFuel_events 130 _ _ _ _ _

/-- A counter that wraps counted as every event is. -/
theorem wrapWith_perfEvent_only (k j : Nat) (s : State) : Only [.outbox, .hl, .ic, .pm] s (wrapWith perfEvent k j s) :=
  wrapWith_only (count := perfEvent) perfEvent_only _ _ _

theorem settle_only (t : Nat) (before s : State) : Only [.outbox, .hl, .ic, .pm] s (settle t before s) :=
  settleWith_only (count := perfEvent) perfEvent_only _ _ _

theorem raiseAt_only (t src : Nat) (s : State) : Only [.outbox, .hl, .ic, .pm] s (raiseAt t src s) :=
  raiseAtWith_only (count := perfEvent) perfEvent_only _ _ _

theorem raise_only (src : Nat) (s : State) : Only [.outbox, .hl, .ic, .pm] s (raise src s) :=
  raiseWith_only (count := perfEvent) perfEvent_only _ _

theorem countClocks_only (c : Nat) (wraps : List Nat) (s : State) : Only [.outbox, .hl, .ic, .pm] s (countClocks c wraps s) := by
  have sk := Only.refl [.outbox, .hl, .ic, .pm] s
  unfold countClocks
  repeat' first
    | with_reducible assumption
    | (extract_lets +onlyGivenNames b; first | (refine Only.cut (Only [.outbox, .hl, .ic, .pm] s b) ?_ ?_ <;> first | (intro hb; clear_value b; refine Only.hold ?_) | intro hb | (unfold b; clear b)) | (refine Only.cut (Only [.outbox, .hl, .ic, .pm] s b.1) ?_ ?_ <;> first | (intro hb; clear_value b; refine Only.hold ?_) | intro hb | (unfold b; clear b)) | (((first | (have h0 : Nat := b; clear h0) | (have h0 : Bool := b; clear h0) | (have h0 : BitVec _ := b; clear h0) | (have h0 : List _ := b; clear h0)); clear_value b)) | (unfold b; clear b) | clear b)
    | ((with_reducible apply Only.after (wrapWith_perfEvent_only _ _ _)); · rfl)
    | ((with_reducible apply Only.after (perfEvent_only _ _ _ _ _)); · rfl)
    | with_reducible refine Only.fst (by assumption) ?_
    | ((with_reducible refine Only.fold _ ?_ ?_) <;> try intro x a hb)
    | ((with_reducible refine Only.foldP _ ?_ ?_) <;> try (intro x a hb; rcases x with ⟨x, xr⟩))
    | split
    | (refine Only.update (by assumption) ?_; intro p; cases p <;> first | exact .inl rfl | exact .inr rfl)
    | (refine Only.update ?_ ?_; (with_reducible refine Only.fst (by assumption) ?_); rotate_left; intro p; cases p <;> first | exact .inl rfl | exact .inr rfl)

theorem runClocks_only (c : Nat) (s : State) : Only [.outbox, .hl, .ic, .pm] s (runClocks c s) := by
  have sk := Only.refl [.outbox, .hl, .ic, .pm] s
  unfold runClocks
  repeat' first
    | with_reducible assumption
    | (extract_lets +onlyGivenNames b; first | (unfold b; clear b) | clear b)
    | ((with_reducible apply Only.after (countClocks_only _ _ _)); · rfl)
    | (refine Only.update (by assumption) ?_; intro p; cases p <;> first | exact .inl rfl | exact .inr rfl)

theorem loadCounter_only (k : Nat) (j : Nat) (v : Nat) (s : State) : Only [.pm] s (loadCounter k j v s) := by
  have sk := Only.refl [.pm] s
  unfold loadCounter
  repeat' first
    | with_reducible assumption
    | (extract_lets +onlyGivenNames b; first | (unfold b; clear b) | clear b)
    | split
    | (refine Only.update (by assumption) ?_; intro p; cases p <;> first | exact .inl rfl | exact .inr rfl)

theorem endClock_only (s : State) : Only [.pm] s (endClock s) := by
  have sk := Only.refl [.pm] s
  unfold endClock
  repeat' first
    | with_reducible assumption
    | (extract_lets +onlyGivenNames b; first | (refine Only.cut (Only [.pm] s b) ?_ ?_ <;> first | (intro hb; clear_value b; refine Only.hold ?_) | intro hb | (unfold b; clear b)) | (((first | (have h0 : Nat := b; clear h0) | (have h0 : Bool := b; clear h0) | (have h0 : BitVec _ := b; clear h0) | (have h0 : List _ := b; clear h0)); clear_value b)) | (unfold b; clear b) | clear b)
    | ((with_reducible apply Only.after (loadCounter_only _ _ _ _)); · rfl)
    | ((with_reducible refine Only.fold _ ?_ ?_) <;> try intro x a hb)
    | (refine Only.update (by assumption) ?_; intro p; cases p <;> first | exact .inl rfl | exact .inr rfl)

theorem sendMarkers_only (since : Nat) (s : State) : Only [.outbox] s (sendMarkers since s) := by
  have sk := Only.refl [.outbox] s
  unfold sendMarkers
  repeat' first
    | with_reducible assumption
    | (extract_lets +onlyGivenNames b; first | (refine Only.cut (Only [.outbox] s b) ?_ ?_ <;> first | (intro hb; clear_value b; refine Only.hold ?_) | intro hb | (unfold b; clear b)) | (((first | (have h0 : Nat := b; clear h0) | (have h0 : Bool := b; clear h0) | (have h0 : BitVec _ := b; clear h0) | (have h0 : List _ := b; clear h0)); clear_value b)) | (unfold b; clear b) | clear b)
    | ((with_reducible apply Only.after (State.send_only _ _)); · rfl)
    | split

theorem passTicks_only (n : Nat) (s : State) : Only [.tick, .corePhase, .outbox, .hl, .ic, .pm] s (passTicks n s) := by
  have sk := Only.refl [.tick, .corePhase, .outbox, .hl, .ic, .pm] s
  unfold passTicks
  repeat' first
    | with_reducible assumption
    | (extract_lets +onlyGivenNames b; first | (refine Only.cut (Only [.tick, .corePhase, .outbox, .hl, .ic, .pm] s b) ?_ ?_ <;> first | (intro hb; clear_value b; refine Only.hold ?_) | intro hb | (unfold b; clear b)) | (((first | (have h0 : Nat := b; clear h0) | (have h0 : Bool := b; clear h0) | (have h0 : BitVec _ := b; clear h0) | (have h0 : List _ := b; clear h0)); clear_value b)) | (unfold b; clear b) | clear b)
    | ((with_reducible apply Only.after (runClocks_only _ _)); · rfl)
    | ((with_reducible apply Only.after (endClock_only _)); · rfl)
    | ((with_reducible apply Only.after (sendMarkers_only _ _)); · rfl)
    | split
    | (refine Only.update (by assumption) ?_; intro p; cases p <;> first | exact .inl rfl | exact .inr rfl)

theorem toTick_only (t : Nat) (s : State) : Only [.tick, .corePhase, .outbox, .hl, .ic, .pm] s (toTick t s) := by
  have sk := Only.refl [.tick, .corePhase, .outbox, .hl, .ic, .pm] s
  unfold toTick
  repeat' first
    | with_reducible assumption
    | ((with_reducible apply Only.after (passTicks_only _ _)); · rfl)
    | split

theorem idle_only (s : State) : Only [.tick, .corePhase, .outbox, .hl, .ic, .pm] s (idle s) := by
  have sk := Only.refl [.tick, .corePhase, .outbox, .hl, .ic, .pm] s
  unfold idle
  repeat' first
    | with_reducible assumption
    | (extract_lets +onlyGivenNames b; first | (unfold b; clear b) | clear b)
    | ((with_reducible apply Only.after (passTicks_only _ _)); · rfl)
    | split
    | (refine Only.update (by assumption) ?_; intro p; cases p <;> first | exact .inl rfl | exact .inr rfl)

theorem errEvent_only (f : Nat) (kind : Nat) (cause : Nat) (a : Access) (s : State) : Only [.outbox, .err, .hl, .ic, .pm] s (errEvent f kind cause a s) := by
  have sk := Only.refl [.outbox, .err, .hl, .ic, .pm] s
  unfold errEvent
  repeat' first
    | with_reducible assumption
    | (extract_lets +onlyGivenNames b; first | (refine Only.cut (Only [.outbox, .err, .hl, .ic, .pm] s b) ?_ ?_ <;> first | (intro hb; clear_value b; refine Only.hold ?_) | intro hb | (unfold b; clear b)) | (((first | (have h0 : Nat := b; clear h0) | (have h0 : Bool := b; clear h0) | (have h0 : BitVec _ := b; clear h0) | (have h0 : List _ := b; clear h0)); clear_value b)) | (unfold b; clear b) | clear b)
    | ((with_reducible apply Only.after (State.setErrRec_only _ _ _)); · rfl)
    | ((with_reducible apply Only.after (raiseAt_only _ _ _)); · rfl)
    | split
    | (refine Only.update (by assumption) ?_; intro p; cases p <;> first | exact .inl rfl | exact .inr rfl)

theorem refuse_only (src : Source) (cause : Nat) (a : Access) (s : State) : Only [.outbox, .err, .hl, .ic, .pm] s (refuse src cause a s) := by
  have sk := Only.refl [.outbox, .err, .hl, .ic, .pm] s
  unfold refuse
  repeat' first
    | with_reducible assumption
    | (extract_lets +onlyGivenNames b; first | (unfold b; clear b) | clear b)
    | ((with_reducible apply Only.after (errEvent_only _ _ _ _ _)); · rfl)
    | split
    | (refine Only.update (by assumption) ?_; intro p; cases p <;> first | exact .inl rfl | exact .inr rfl)

theorem lockViolation_only (src : Source) (a : Access) (s : State) : Only [.outbox, .err, .hl, .ic, .pm] s (lockViolation src a s) := by
  have sk := Only.refl [.outbox, .err, .hl, .ic, .pm] s
  unfold lockViolation
  repeat' first
    | with_reducible assumption
    | (extract_lets +onlyGivenNames b; first | (unfold b; clear b) | clear b)
    | ((with_reducible apply Only.after (errEvent_only _ _ _ _ _)); · rfl)
    | split
    | (refine Only.update (by assumption) ?_; intro p; cases p <;> first | exact .inl rfl | exact .inr rfl)

theorem countReserved_only (f : Nat) (s : State) : Only [.err] s (countReserved f s) := by
  have sk := Only.refl [.err] s
  unfold countReserved
  repeat' first
    | with_reducible assumption
    | (extract_lets +onlyGivenNames b; first | (unfold b; clear b) | clear b)
    | ((with_reducible apply Only.after (State.setErrRec_only _ _ _)); · rfl)
    | (refine Only.update (by assumption) ?_; intro p; cases p <;> first | exact .inl rfl | exact .inr rfl)

theorem aerLog_only (k : Nat) (what : AerKind) (s : State) : Only [.outbox, .hl, .ic, .pm] s (aerLog k what s) := by
  have sk := Only.refl [.outbox, .hl, .ic, .pm] s
  unfold aerLog
  repeat' first
    | with_reducible assumption
    | (extract_lets +onlyGivenNames b; first | (refine Only.cut (Only [.outbox, .hl, .ic, .pm] s b) ?_ ?_ <;> first | (intro hb; clear_value b; refine Only.hold ?_) | intro hb | (unfold b; clear b)) | (refine Only.cut (Only [.outbox, .hl, .ic, .pm] s b.1) ?_ ?_ <;> first | (intro hb; clear_value b; refine Only.hold ?_) | intro hb | (unfold b; clear b)) | (((first | (have h0 : Nat := b; clear h0) | (have h0 : Bool := b; clear h0) | (have h0 : BitVec _ := b; clear h0) | (have h0 : List _ := b; clear h0)); clear_value b)) | (unfold b; clear b) | clear b)
    | ((with_reducible apply Only.after (State.sendTlp_only _ _ _)); · rfl)
    | ((with_reducible apply Only.after (raise_only _ _)); · rfl)
    | with_reducible refine Only.fst (by assumption) ?_
    | ((with_reducible refine Only.fold _ ?_ ?_) <;> try intro x a hb)
    | ((with_reducible refine Only.foldP _ ?_ ?_) <;> try (intro x a hb; rcases x with ⟨x, xr⟩))
    | split
    | (refine Only.update (by assumption) ?_; intro p; cases p <;> first | exact .inl rfl | exact .inr rfl)
    | (refine Only.update ?_ ?_; (with_reducible refine Only.fst (by assumption) ?_); rotate_left; intro p; cases p <;> first | exact .inl rfl | exact .inr rfl)

theorem State.writeMem_only (s : State) (dpa : Nat) (l : List Byte) : Only [.mem, .fabric] s (State.writeMem s dpa l) := by
  have sk := Only.refl [.mem, .fabric] s
  unfold State.writeMem
  repeat' first
    | with_reducible assumption
    | (extract_lets +onlyGivenNames b; first | (refine Only.cut (Only [.mem, .fabric] s b) ?_ ?_ <;> first | (intro hb; clear_value b; refine Only.hold ?_) | intro hb | (unfold b; clear b)) | (refine Only.cut (Only [.mem, .fabric] s b.1) ?_ ?_ <;> first | (intro hb; clear_value b; refine Only.hold ?_) | intro hb | (unfold b; clear b)) | (((first | (have h0 : Nat := b; clear h0) | (have h0 : Bool := b; clear h0) | (have h0 : BitVec _ := b; clear h0) | (have h0 : List _ := b; clear h0)); clear_value b)) | (unfold b; clear b) | clear b)
    | with_reducible refine Only.fst (by assumption) ?_
    | ((with_reducible refine Only.fold _ ?_ ?_) <;> try intro x a hb)
    | ((with_reducible refine Only.foldP _ ?_ ?_) <;> try (intro x a hb; rcases x with ⟨x, xr⟩))
    | split
    | (refine Only.update (by assumption) ?_; intro p; cases p <;> first | exact .inl rfl | exact .inr rfl)
    | (refine Only.update ?_ ?_; (with_reducible refine Only.fst (by assumption) ?_); rotate_left; intro p; cases p <;> first | exact .inl rfl | exact .inr rfl)

theorem eccCorrect_only (m : Nat) (burst : Nat) (req : Nat) (s : State) : Only [.outbox, .regs, .hl, .fabric, .ic, .pm] s (eccCorrect m burst req s) := by
  have sk := Only.refl [.outbox, .regs, .hl, .fabric, .ic, .pm] s
  unfold eccCorrect
  repeat' first
    | with_reducible assumption
    | (extract_lets +onlyGivenNames b; first | (refine Only.cut (Only [.outbox, .regs, .hl, .fabric, .ic, .pm] s b) ?_ ?_ <;> first | (intro hb; clear_value b; refine Only.hold ?_) | intro hb | (unfold b; clear b)) | (((first | (have h0 : Nat := b; clear h0) | (have h0 : Bool := b; clear h0) | (have h0 : BitVec _ := b; clear h0) | (have h0 : List _ := b; clear h0)); clear_value b)) | (unfold b; clear b) | clear b)
    | ((with_reducible apply Only.after (State.bump_only _ _ _ _ _)); · rfl)
    | ((with_reducible apply Only.after (State.setChannel_only _ _ _)); · rfl)
    | ((with_reducible apply Only.after (perfEvent_only _ _ _ _ _)); · rfl)
    | ((with_reducible apply Only.after (raise_only _ _)); · rfl)
    | split
    | (refine Only.update (by assumption) ?_; intro p; cases p <;> first | exact .inl rfl | exact .inr rfl)

theorem eccUncorrect_only (m : Nat) (burst : Nat) (req : Nat) (s : State) : Only [.outbox, .regs, .hl, .fabric, .ic, .pm] s (eccUncorrect m burst req s) := by
  have sk := Only.refl [.outbox, .regs, .hl, .fabric, .ic, .pm] s
  unfold eccUncorrect
  repeat' first
    | with_reducible assumption
    | (extract_lets +onlyGivenNames b; first | (refine Only.cut (Only [.outbox, .regs, .hl, .fabric, .ic, .pm] s b) ?_ ?_ <;> first | (intro hb; clear_value b; refine Only.hold ?_) | intro hb | (unfold b; clear b)) | (((first | (have h0 : Nat := b; clear h0) | (have h0 : Bool := b; clear h0) | (have h0 : BitVec _ := b; clear h0) | (have h0 : List _ := b; clear h0)); clear_value b)) | (unfold b; clear b) | clear b)
    | ((with_reducible apply Only.after (State.bump_only _ _ _ _ _)); · rfl)
    | ((with_reducible apply Only.after (State.setChannel_only _ _ _)); · rfl)
    | ((with_reducible apply Only.after (raise_only _ _)); · rfl)

theorem eccReads_only (dpa : Nat) (n : Nat) (req : Nat) (s : State) : Only [.outbox, .regs, .hl, .fabric, .ic, .pm] s (eccReads dpa n req s) := by
  have sk := Only.refl [.outbox, .regs, .hl, .fabric, .ic, .pm] s
  unfold eccReads
  repeat' first
    | with_reducible assumption
    | ((with_reducible apply Only.after (eccUncorrect_only _ _ _ _)); · rfl)
    | ((with_reducible refine Only.fold _ ?_ ?_) <;> try intro x a hb)

theorem reloadCredits_only (m : Nat) (s : State) : Only [.fabric] s (reloadCredits m s) := by
  have sk := Only.refl [.fabric] s
  unfold reloadCredits
  repeat' first
    | with_reducible assumption
    | (extract_lets +onlyGivenNames b; first | (refine Only.cut (Only [.fabric] s b) ?_ ?_ <;> first | (intro hb; clear_value b; refine Only.hold ?_) | intro hb | (unfold b; clear b)) | (refine Only.cut (Only [.fabric] s b.1) ?_ ?_ <;> first | (intro hb; clear_value b; refine Only.hold ?_) | intro hb | (unfold b; clear b)) | (((first | (have h0 : Nat := b; clear h0) | (have h0 : Bool := b; clear h0) | (have h0 : BitVec _ := b; clear h0) | (have h0 : List _ := b; clear h0)); clear_value b)) | (unfold b; clear b) | clear b)
    | with_reducible refine Only.fst (by assumption) ?_
    | ((with_reducible refine Only.fold _ ?_ ?_) <;> try intro x a hb)
    | ((with_reducible refine Only.foldP _ ?_ ?_) <;> try (intro x a hb; rcases x with ⟨x, xr⟩))
    | split
    | (refine Only.update (by assumption) ?_; intro p; cases p <;> first | exact .inl rfl | exact .inr rfl)
    | (refine Only.update ?_ ?_; (with_reducible refine Only.fst (by assumption) ?_); rotate_left; intro p; cases p <;> first | exact .inl rfl | exact .inr rfl)

theorem spendCredit_only (m : Nat) (r : Nat) (s : State) : Only [.outbox, .hl, .fabric, .ic, .pm] s (spendCredit m r s) := by
  have sk := Only.refl [.outbox, .hl, .fabric, .ic, .pm] s
  unfold spendCredit
  repeat' first
    | with_reducible assumption
    | (extract_lets +onlyGivenNames b; first | (unfold b; clear b) | clear b)
    | ((with_reducible apply Only.after (perfEvent_only _ _ _ _ _)); · rfl)
    | (refine Only.update (by assumption) ?_; intro p; cases p <;> first | exact .inl rfl | exact .inr rfl)

theorem openSlots_only (m r n : Nat) (s : State) : Only [.outbox, .hl, .fabric, .ic, .pm] s (openSlots m r n s) := by
  induction n generalizing s with
  | zero => exact Only.refl _ s
  | succ n ih =>
    have sk := Only.refl [.outbox, .hl, .fabric, .ic, .pm] s
    unfold openSlots
    repeat' first
      | with_reducible assumption
      | (extract_lets +onlyGivenNames b; first | (refine Only.cut (Only [.outbox, .hl, .fabric, .ic, .pm] s b) ?_ ?_ <;> first | (intro hb; clear_value b; refine Only.hold ?_) | intro hb | (unfold b; clear b)) | (refine Only.cut (Only [.outbox, .hl, .fabric, .ic, .pm] s b.1) ?_ ?_ <;> first | (intro hb; clear_value b; refine Only.hold ?_) | intro hb | (unfold b; clear b)) | (((first | (have h0 : Nat := b; clear h0) | (have h0 : Bool := b; clear h0) | (have h0 : BitVec _ := b; clear h0) | (have h0 : List _ := b; clear h0)); clear_value b)) | (unfold b; clear b) | clear b)
      | ((with_reducible apply Only.after (ih _)); · rfl)
      | ((with_reducible apply Only.after (reloadCredits_only _ _)); · rfl)
      | ((with_reducible apply Only.after (spendCredit_only _ _ _)); · rfl)
      | with_reducible refine Only.fst (by assumption) ?_
      | ((with_reducible refine Only.fold _ ?_ ?_) <;> try intro x a hb)
      | ((with_reducible refine Only.foldP _ ?_ ?_) <;> try (intro x a hb; rcases x with ⟨x, xr⟩))
      | split
      | (refine Only.update (by assumption) ?_; intro p; cases p <;> first | exact .inl rfl | exact .inr rfl)
      | (refine Only.update ?_ ?_; (with_reducible refine Only.fst (by assumption) ?_); rotate_left; intro p; cases p <;> first | exact .inl rfl | exact .inr rfl)

theorem serveBurst_only (r : Nat) (s : State) (burst : Nat) : Only [.outbox, .hl, .fabric, .ic, .pm] s (serveBurst r s burst) := by
  have sk := Only.refl [.outbox, .hl, .fabric, .ic, .pm] s
  unfold serveBurst
  repeat' first
    | with_reducible assumption
    | (extract_lets +onlyGivenNames b; first | (refine Only.cut (Only [.outbox, .hl, .fabric, .ic, .pm] s b) ?_ ?_ <;> first | (intro hb; clear_value b; refine Only.hold ?_) | intro hb | (unfold b; clear b)) | (refine Only.cut (Only [.outbox, .hl, .fabric, .ic, .pm] s b.1) ?_ ?_ <;> first | (intro hb; clear_value b; refine Only.hold ?_) | intro hb | (unfold b; clear b)) | (((first | (have h0 : Nat := b; clear h0) | (have h0 : Bool := b; clear h0) | (have h0 : BitVec _ := b; clear h0) | (have h0 : List _ := b; clear h0)); clear_value b)) | (unfold b; clear b) | clear b)
    | ((with_reducible apply Only.after (openSlots_only _ _ _ _)); · rfl)
    | with_reducible refine Only.fst (by assumption) ?_
    | ((with_reducible refine Only.fold _ ?_ ?_) <;> try intro x a hb)
    | ((with_reducible refine Only.foldP _ ?_ ?_) <;> try (intro x a hb; rcases x with ⟨x, xr⟩))
    | split
    | (refine Only.update (by assumption) ?_; intro p; cases p <;> first | exact .inl rfl | exact .inr rfl)
    | (refine Only.update ?_ ?_; (with_reducible refine Only.fst (by assumption) ?_); rotate_left; intro p; cases p <;> first | exact .inl rfl | exact .inr rfl)

theorem serve_only (r : Nat) (dpa : Nat) (n : Nat) (s : State) : Only [.outbox, .hl, .fabric, .ic, .pm] s (serve r dpa n s) := by
  have sk := Only.refl [.outbox, .hl, .fabric, .ic, .pm] s
  unfold serve
  repeat' first
    | with_reducible assumption
    | ((with_reducible apply Only.after (perfEvent_only _ _ _ _ _)); · rfl)
    | ((with_reducible apply Only.after (serveBurst_only _ _ _)); · rfl)
    | ((with_reducible refine Only.fold _ ?_ ?_) <;> try intro x a hb)
    | split

theorem walkTraffic_only (ctx : Nat) (va : Nat) (write : Bool) (s : State) : Only [.outbox, .regs, .hl, .fabric, .ic, .pm] s (walkTraffic ctx va write s) := by
  have sk := Only.refl [.outbox, .regs, .hl, .fabric, .ic, .pm] s
  unfold walkTraffic
  repeat' first
    | with_reducible assumption
    | ((with_reducible apply Only.after (eccReads_only _ _ _ _)); · rfl)
    | ((with_reducible apply Only.after (serve_only _ _ _ _)); · rfl)
    | ((with_reducible refine Only.fold _ ?_ ?_) <;> try intro x a hb)

theorem xlatFault_only (ctx : Nat) (va : Nat) (level : Nat) (req : Nat) (write : Bool) (s : State) : Only [.outbox, .hl, .fabric, .ic, .pm] s (xlatFault ctx va level req write s) := by
  have sk := Only.refl [.outbox, .hl, .fabric, .ic, .pm] s
  unfold xlatFault
  repeat' first
    | with_reducible assumption
    | (extract_lets +onlyGivenNames b; first | (refine Only.cut (Only [.outbox, .hl, .fabric, .ic, .pm] s b) ?_ ?_ <;> first | (intro hb; clear_value b; refine Only.hold ?_) | intro hb | (unfold b; clear b)) | (((first | (have h0 : Nat := b; clear h0) | (have h0 : Bool := b; clear h0) | (have h0 : BitVec _ := b; clear h0) | (have h0 : List _ := b; clear h0)); clear_value b)) | (unfold b; clear b) | clear b)
    | ((with_reducible apply Only.after (raise_only _ _)); · rfl)
    | split
    | (refine Only.update (by assumption) ?_; intro p; cases p <;> first | exact .inl rfl | exact .inr rfl)

theorem xlat_only (s : State) (ctx : Nat) (va : Nat) (req : Nat) (write : Bool) : Only [.outbox, .regs, .hl, .fabric, .ic, .pm] s (xlat s ctx va req write).1 := by
  have sk := Only.refl [.outbox, .regs, .hl, .fabric, .ic, .pm] s
  unfold xlat
  repeat' first
    | with_reducible assumption
    | (extract_lets +onlyGivenNames b; first | (refine Only.cut (Only [.outbox, .regs, .hl, .fabric, .ic, .pm] s b) ?_ ?_ <;> first | (intro hb; clear_value b; refine Only.hold ?_) | intro hb | (unfold b; clear b)) | (refine Only.cut (Only [.outbox, .regs, .hl, .fabric, .ic, .pm] s b.1) ?_ ?_ <;> first | (intro hb; clear_value b; refine Only.hold ?_) | intro hb | (unfold b; clear b)) | (((first | (have h0 : Nat := b; clear h0) | (have h0 : Bool := b; clear h0) | (have h0 : BitVec _ := b; clear h0) | (have h0 : List _ := b; clear h0)); clear_value b)) | (unfold b; clear b) | clear b)
    | ((with_reducible apply Only.after (walkTraffic_only _ _ _ _)); · rfl)
    | ((with_reducible apply Only.after (xlatFault_only _ _ _ _ _ _)); · rfl)
    | with_reducible refine Only.fst (by assumption) ?_
    | ((with_reducible refine Only.fold _ ?_ ?_) <;> try intro x a hb)
    | ((with_reducible refine Only.foldP _ ?_ ?_) <;> try (intro x a hb; rcases x with ⟨x, xr⟩))
    | split
    | (refine Only.update (by assumption) ?_; intro p; cases p <;> first | exact .inl rfl | exact .inr rfl)
    | (refine Only.update ?_ ?_; (with_reducible refine Only.fst (by assumption) ?_); rotate_left; intro p; cases p <;> first | exact .inl rfl | exact .inr rfl)

theorem putBytes_only (req : Nat) (d : Nat) (l : List (Option Byte)) (s : State) : Only [.outbox, .regs, .mem, .hl, .fabric, .ic, .pm] s (putBytes req d l s) := by
  have sk := Only.refl [.outbox, .regs, .mem, .hl, .fabric, .ic, .pm] s
  unfold putBytes
  repeat' first
    | with_reducible assumption
    | (extract_lets +onlyGivenNames b; first | (refine Only.cut (Only [.outbox, .regs, .mem, .hl, .fabric, .ic, .pm] s b) ?_ ?_ <;> first | (intro hb; clear_value b; refine Only.hold ?_) | intro hb | (unfold b; clear b)) | (((first | (have h0 : Nat := b; clear h0) | (have h0 : Bool := b; clear h0) | (have h0 : BitVec _ := b; clear h0) | (have h0 : List _ := b; clear h0)); clear_value b)) | (unfold b; clear b) | clear b)
    | ((with_reducible apply Only.after (eccUncorrect_only _ _ _ _)); · rfl)
    | ((with_reducible refine Only.fold _ ?_ ?_) <;> try intro x a hb)
    | (refine Only.update (by assumption) ?_; intro p; cases p <;> first | exact .inl rfl | exact .inr rfl)

theorem storeOpen_only (req : Nat) (ctx : Nat) (p : Page) (va : Nat) (l : List (Option Byte)) (s : State) : Only [.outbox, .regs, .mem, .hl, .fabric, .ic, .pm] s (storeOpen req ctx p va l s) := by
  have sk := Only.refl [.outbox, .regs, .mem, .hl, .fabric, .ic, .pm] s
  unfold storeOpen
  repeat' first
    | with_reducible assumption
    | (extract_lets +onlyGivenNames b; first | (refine Only.cut (Only [.outbox, .regs, .mem, .hl, .fabric, .ic, .pm] s b) ?_ ?_ <;> first | (intro hb; clear_value b; refine Only.hold ?_) | intro hb | (unfold b; clear b)) | (((first | (have h0 : Nat := b; clear h0) | (have h0 : Bool := b; clear h0) | (have h0 : BitVec _ := b; clear h0) | (have h0 : List _ := b; clear h0)); clear_value b)) | (unfold b; clear b) | clear b)
    | ((with_reducible apply Only.after (State.bump_only _ _ _ _ _)); · rfl)
    | ((with_reducible apply Only.after (raise_only _ _)); · rfl)
    | ((with_reducible apply Only.after (serve_only _ _ _ _)); · rfl)
    | ((with_reducible apply Only.after (putBytes_only _ _ _ _)); · rfl)
    | split
    | (refine Only.update (by assumption) ?_; intro p; cases p <;> first | exact .inl rfl | exact .inr rfl)

theorem openWrite_only (ctx : Nat) (va : Nat) (req : Nat) (l : List (Option Byte)) (s : State) : Only [.outbox, .regs, .mem, .hl, .fabric, .ic, .pm] s (openWrite ctx va req l s).1 := by
  have sk := Only.refl [.outbox, .regs, .mem, .hl, .fabric, .ic, .pm] s
  unfold openWrite
  repeat' first
    | with_reducible assumption
    | (extract_lets +onlyGivenNames b; first | (unfold b; clear b) | clear b)
    | ((with_reducible apply Only.after (xlat_only _ _ _ _ _)); · rfl)
    | ((with_reducible apply Only.after (storeOpen_only _ _ _ _ _ _)); · rfl)
    | with_reducible refine Only.fst (by assumption) ?_
    | ((with_reducible refine Only.fold _ ?_ ?_) <;> try intro x a hb)
    | ((with_reducible refine Only.foldP _ ?_ ?_) <;> try (intro x a hb; rcases x with ⟨x, xr⟩))
    | split
    | (refine Only.update (by assumption) ?_; intro p; cases p <;> first | exact .inl rfl | exact .inr rfl)
    | (refine Only.update ?_ ?_; (with_reducible refine Only.fst (by assumption) ?_); rotate_left; intro p; cases p <;> first | exact .inl rfl | exact .inr rfl)

theorem openRead_only (ctx : Nat) (va : Nat) (req : Nat) (n : Nat) (s : State) : Only [.outbox, .regs, .hl, .fabric, .ic, .pm] s (openRead ctx va req n s).1 := by
  have sk := Only.refl [.outbox, .regs, .hl, .fabric, .ic, .pm] s
  unfold openRead
  repeat' first
    | with_reducible assumption
    | (extract_lets +onlyGivenNames b; first | (refine Only.cut (Only [.outbox, .regs, .hl, .fabric, .ic, .pm] s b) ?_ ?_ <;> first | (intro hb; clear_value b; refine Only.hold ?_) | intro hb | (unfold b; clear b)) | (refine Only.cut (Only [.outbox, .regs, .hl, .fabric, .ic, .pm] s b.1) ?_ ?_ <;> first | (intro hb; clear_value b; refine Only.hold ?_) | intro hb | (unfold b; clear b)) | (((first | (have h0 : Nat := b; clear h0) | (have h0 : Bool := b; clear h0) | (have h0 : BitVec _ := b; clear h0) | (have h0 : List _ := b; clear h0)); clear_value b)) | (unfold b; clear b) | clear b)
    | ((with_reducible apply Only.after (eccReads_only _ _ _ _)); · rfl)
    | ((with_reducible apply Only.after (serve_only _ _ _ _)); · rfl)
    | ((with_reducible apply Only.after (xlat_only _ _ _ _ _)); · rfl)
    | with_reducible refine Only.fst (by assumption) ?_
    | ((with_reducible refine Only.fold _ ?_ ?_) <;> try intro x a hb)
    | ((with_reducible refine Only.foldP _ ?_ ?_) <;> try (intro x a hb; rcases x with ⟨x, xr⟩))
    | split
    | (refine Only.update (by assumption) ?_; intro p; cases p <;> first | exact .inl rfl | exact .inr rfl)
    | (refine Only.update ?_ ?_; (with_reducible refine Only.fst (by assumption) ?_); rotate_left; intro p; cases p <;> first | exact .inl rfl | exact .inr rfl)

theorem readPiece_only (req : Nat) (d : Nat) (n : Nat) (s : State) : Only [.outbox, .regs, .hl, .fabric, .ic, .pm] s (readPiece req d n s).1 := by
  have sk := Only.refl [.outbox, .regs, .hl, .fabric, .ic, .pm] s
  unfold readPiece
  repeat' first
    | with_reducible assumption
    | (extract_lets +onlyGivenNames b; first | (unfold b; clear b) | clear b)
    | ((with_reducible apply Only.after (eccUncorrect_only _ _ _ _)); · rfl)
    | ((with_reducible apply Only.after (serve_only _ _ _ _)); · rfl)
    | split
    | (refine Only.update (by assumption) ?_; intro p; cases p <;> first | exact .inl rfl | exact .inr rfl)

theorem readPieces_only (req ctx : Nat) (l : List (Nat × Nat × Nat)) (s : State) : Only [.outbox, .regs, .hl, .fabric, .ic, .pm] s (readPieces req ctx l s).1 := by
  induction l generalizing s with
  | nil => exact Only.refl _ s
  | cons a l ih =>
    have sk := Only.refl [.outbox, .regs, .hl, .fabric, .ic, .pm] s
    unfold readPieces
    repeat' first
      | with_reducible assumption
      | (extract_lets +onlyGivenNames b; first | (refine Only.cut (Only [.outbox, .regs, .hl, .fabric, .ic, .pm] s b) ?_ ?_ <;> first | (intro hb; clear_value b; refine Only.hold ?_) | intro hb | (unfold b; clear b)) | (refine Only.cut (Only [.outbox, .regs, .hl, .fabric, .ic, .pm] s b.1) ?_ ?_ <;> first | (intro hb; clear_value b; refine Only.hold ?_) | intro hb | (unfold b; clear b)) | (((first | (have h0 : Nat := b; clear h0) | (have h0 : Bool := b; clear h0) | (have h0 : BitVec _ := b; clear h0) | (have h0 : List _ := b; clear h0)); clear_value b)) | (unfold b; clear b) | clear b)
      | ((with_reducible apply Only.after (ih _)); · rfl)
      | ((with_reducible apply Only.after (xlat_only _ _ _ _ _)); · rfl)
      | ((with_reducible apply Only.after (readPiece_only _ _ _ _)); · rfl)
      | with_reducible refine Only.fst (by assumption) ?_
      | ((with_reducible refine Only.fold _ ?_ ?_) <;> try intro x a hb)
      | ((with_reducible refine Only.foldP _ ?_ ?_) <;> try (intro x a hb; rcases x with ⟨x, xr⟩))
      | split
      | (refine Only.update (by assumption) ?_; intro p; cases p <;> first | exact .inl rfl | exact .inr rfl)
      | (refine Only.update ?_ ?_; (with_reducible refine Only.fst (by assumption) ?_); rotate_left; intro p; cases p <;> first | exact .inl rfl | exact .inr rfl)

theorem readRange_only (req : Nat) (ctx : Nat) (va : Nat) (n : Nat) (s : State) : Only [.outbox, .regs, .hl, .fabric, .ic, .pm] s (readRange req ctx va n s).1 := by
  have sk := Only.refl [.outbox, .regs, .hl, .fabric, .ic, .pm] s
  unfold readRange
  repeat' first
    | with_reducible assumption
    | ((with_reducible apply Only.after (readPieces_only _ _ _ _)); · rfl)
    | with_reducible refine Only.fst (by assumption) ?_

theorem writePieces_only (req ctx : Nat) (l : List Byte) (ps : List (Nat × Nat × Nat)) (s : State) : Only [.outbox, .regs, .mem, .hl, .fabric, .ic, .pm] s (writePieces req ctx l ps s).1 := by
  induction ps generalizing s with
  | nil => exact Only.refl _ s
  | cons a l ih =>
    have sk := Only.refl [.outbox, .regs, .mem, .hl, .fabric, .ic, .pm] s
    unfold writePieces
    repeat' first
      | with_reducible assumption
      | (extract_lets +onlyGivenNames b; first | (refine Only.cut (Only [.outbox, .regs, .mem, .hl, .fabric, .ic, .pm] s b) ?_ ?_ <;> first | (intro hb; clear_value b; refine Only.hold ?_) | intro hb | (unfold b; clear b)) | (refine Only.cut (Only [.outbox, .regs, .mem, .hl, .fabric, .ic, .pm] s b.1) ?_ ?_ <;> first | (intro hb; clear_value b; refine Only.hold ?_) | intro hb | (unfold b; clear b)) | (((first | (have h0 : Nat := b; clear h0) | (have h0 : Bool := b; clear h0) | (have h0 : BitVec _ := b; clear h0) | (have h0 : List _ := b; clear h0)); clear_value b)) | (unfold b; clear b) | clear b)
      | ((with_reducible apply Only.after (ih _)); · rfl)
      | ((with_reducible apply Only.after (xlat_only _ _ _ _ _)); · rfl)
      | ((with_reducible apply Only.after (storeOpen_only _ _ _ _ _ _)); · rfl)
      | with_reducible refine Only.fst (by assumption) ?_
      | ((with_reducible refine Only.fold _ ?_ ?_) <;> try intro x a hb)
      | ((with_reducible refine Only.foldP _ ?_ ?_) <;> try (intro x a hb; rcases x with ⟨x, xr⟩))
      | split
      | (refine Only.update (by assumption) ?_; intro p; cases p <;> first | exact .inl rfl | exact .inr rfl)
      | (refine Only.update ?_ ?_; (with_reducible refine Only.fst (by assumption) ?_); rotate_left; intro p; cases p <;> first | exact .inl rfl | exact .inr rfl)

theorem writeRange_only (req : Nat) (ctx : Nat) (va : Nat) (l : List Byte) (s : State) : Only [.outbox, .regs, .mem, .hl, .fabric, .ic, .pm] s (writeRange req ctx va l s).1 := by
  have sk := Only.refl [.outbox, .regs, .mem, .hl, .fabric, .ic, .pm] s
  unfold writeRange
  repeat' first
    | with_reducible assumption
    | ((with_reducible apply Only.after (writePieces_only _ _ _ _ _)); · rfl)
    | with_reducible refine Only.fst (by assumption) ?_

theorem reportWalks_only (old : Nat → Option Page) (req : Nat) (ctx : Nat) (l : List (Nat × Walk)) (s : State) : Only [.outbox, .regs, .hl, .fabric, .ic, .pm] s (reportWalks old req ctx l s) := by
  have sk := Only.refl [.outbox, .regs, .hl, .fabric, .ic, .pm] s
  unfold reportWalks
  repeat' first
    | with_reducible assumption
    | (extract_lets +onlyGivenNames b; first | (refine Only.cut (Only [.outbox, .regs, .hl, .fabric, .ic, .pm] s b) ?_ ?_ <;> first | (intro hb; clear_value b; refine Only.hold ?_) | intro hb | (unfold b; clear b)) | (refine Only.cut (Only [.outbox, .regs, .hl, .fabric, .ic, .pm] s b.1) ?_ ?_ <;> first | (intro hb; clear_value b; refine Only.hold ?_) | intro hb | (unfold b; clear b)) | (((first | (have h0 : Nat := b; clear h0) | (have h0 : Bool := b; clear h0) | (have h0 : BitVec _ := b; clear h0) | (have h0 : List _ := b; clear h0)); clear_value b)) | (unfold b; clear b) | clear b)
    | ((with_reducible apply Only.after (walkTraffic_only _ _ _ _)); · rfl)
    | ((with_reducible apply Only.after (xlatFault_only _ _ _ _ _ _)); · rfl)
    | with_reducible refine Only.fst (by assumption) ?_
    | ((with_reducible refine Only.fold _ ?_ ?_) <;> try intro x a hb)
    | ((with_reducible refine Only.foldP _ ?_ ?_) <;> try (intro x a hb; rcases x with ⟨x, xr⟩))
    | split
    | (refine Only.update (by assumption) ?_; intro p; cases p <;> first | exact .inl rfl | exact .inr rfl)
    | (refine Only.update ?_ ?_; (with_reducible refine Only.fst (by assumption) ?_); rotate_left; intro p; cases p <;> first | exact .inl rfl | exact .inr rfl)

theorem requestPin_only (u : PinUse) (ctx : Nat) (base : Nat) (len : Nat) (s : State) : Only [.fabric] s (requestPin u ctx base len s) := by
  have sk := Only.refl [.fabric] s
  unfold requestPin
  repeat' first
    | with_reducible assumption
    | (extract_lets +onlyGivenNames b; first | (refine Only.cut (Only [.fabric] s b) ?_ ?_ <;> first | (intro hb; clear_value b; refine Only.hold ?_) | intro hb | (unfold b; clear b)) | (refine Only.cut (Only [.fabric] s b.1) ?_ ?_ <;> first | (intro hb; clear_value b; refine Only.hold ?_) | intro hb | (unfold b; clear b)) | (((first | (have h0 : Nat := b; clear h0) | (have h0 : Bool := b; clear h0) | (have h0 : BitVec _ := b; clear h0) | (have h0 : List _ := b; clear h0)); clear_value b)) | (unfold b; clear b) | clear b)
    | with_reducible refine Only.fst (by assumption) ?_
    | ((with_reducible refine Only.fold _ ?_ ?_) <;> try intro x a hb)
    | ((with_reducible refine Only.foldP _ ?_ ?_) <;> try (intro x a hb; rcases x with ⟨x, xr⟩))
    | split
    | (refine Only.update (by assumption) ?_; intro p; cases p <;> first | exact .inl rfl | exact .inr rfl)
    | (refine Only.update ?_ ?_; (with_reducible refine Only.fst (by assumption) ?_); rotate_left; intro p; cases p <;> first | exact .inl rfl | exact .inr rfl)

theorem dropPin_only (u : PinUse) (s : State) : Only [.fabric] s (dropPin u s) := by
  have sk := Only.refl [.fabric] s
  unfold dropPin
  repeat' first
    | with_reducible assumption
    | (extract_lets +onlyGivenNames b; first | (refine Only.cut (Only [.fabric] s b) ?_ ?_ <;> first | (intro hb; clear_value b; refine Only.hold ?_) | intro hb | (unfold b; clear b)) | (refine Only.cut (Only [.fabric] s b.1) ?_ ?_ <;> first | (intro hb; clear_value b; refine Only.hold ?_) | intro hb | (unfold b; clear b)) | (((first | (have h0 : Nat := b; clear h0) | (have h0 : Bool := b; clear h0) | (have h0 : BitVec _ := b; clear h0) | (have h0 : List _ := b; clear h0)); clear_value b)) | (unfold b; clear b) | clear b)
    | with_reducible refine Only.fst (by assumption) ?_
    | ((with_reducible refine Only.fold _ ?_ ?_) <;> try intro x a hb)
    | ((with_reducible refine Only.foldP _ ?_ ?_) <;> try (intro x a hb; rcases x with ⟨x, xr⟩))
    | split
    | (refine Only.update (by assumption) ?_; intro p; cases p <;> first | exact .inl rfl | exact .inr rfl)
    | (refine Only.update ?_ ?_; (with_reducible refine Only.fst (by assumption) ?_); rotate_left; intro p; cases p <;> first | exact .inl rfl | exact .inr rfl)

theorem shadowPin_only (p : Pin) (s : State) : Only [.outbox, .regs, .hl, .fabric, .ic, .pm] s (shadowPin p s).1 := by
  have sk := Only.refl [.outbox, .regs, .hl, .fabric, .ic, .pm] s
  unfold shadowPin
  repeat' first
    | with_reducible assumption
    | (extract_lets +onlyGivenNames b; first | (refine Only.cut (Only [.outbox, .regs, .hl, .fabric, .ic, .pm] s b) ?_ ?_ <;> first | (intro hb; clear_value b; refine Only.hold ?_) | intro hb | (unfold b; clear b)) | (((first | (have h0 : Nat := b; clear h0) | (have h0 : Bool := b; clear h0) | (have h0 : BitVec _ := b; clear h0) | (have h0 : List _ := b; clear h0)); clear_value b)) | (unfold b; clear b) | clear b)
    | ((with_reducible apply Only.after (reportWalks_only _ _ _ _ _)); · rfl)
    | split

theorem completePin_only (i : Nat) (s : State) : Only [.outbox, .regs, .hl, .fabric, .ic, .pm] s (completePin i s) := by
  have sk := Only.refl [.outbox, .regs, .hl, .fabric, .ic, .pm] s
  unfold completePin
  repeat' first
    | with_reducible assumption
    | (extract_lets +onlyGivenNames b; first | (refine Only.cut (Only [.outbox, .regs, .hl, .fabric, .ic, .pm] s b) ?_ ?_ <;> first | (intro hb; clear_value b; refine Only.hold ?_) | intro hb | (unfold b; clear b)) | (refine Only.cut (Only [.outbox, .regs, .hl, .fabric, .ic, .pm] s b.1) ?_ ?_ <;> first | (intro hb; clear_value b; refine Only.hold ?_) | intro hb | (unfold b; clear b)) | (((first | (have h0 : Nat := b; clear h0) | (have h0 : Bool := b; clear h0) | (have h0 : BitVec _ := b; clear h0) | (have h0 : List _ := b; clear h0)); clear_value b)) | (unfold b; clear b) | clear b)
    | ((with_reducible apply Only.after (State.bump_only _ _ _ _ _)); · rfl)
    | ((with_reducible apply Only.after (raise_only _ _)); · rfl)
    | ((with_reducible apply Only.after (reportWalks_only _ _ _ _ _)); · rfl)
    | ((with_reducible apply Only.after (shadowPin_only _ _)); · rfl)
    | with_reducible refine Only.fst (by assumption) ?_
    | ((with_reducible refine Only.fold _ ?_ ?_) <;> try intro x a hb)
    | ((with_reducible refine Only.foldP _ ?_ ?_) <;> try (intro x a hb; rcases x with ⟨x, xr⟩))
    | split
    | (refine Only.update (by assumption) ?_; intro p; cases p <;> first | exact .inl rfl | exact .inr rfl)
    | (refine Only.update ?_ ?_; (with_reducible refine Only.fst (by assumption) ?_); rotate_left; intro p; cases p <;> first | exact .inl rfl | exact .inr rfl)

end Sys2Proof.Machine
end

