-- ==== Sys2Proof/Laws/OnlyLantern.lean ====
section
/-! SUPPORT. The parts of the state that the operations of Lantern may change. -/

set_option linter.all false

namespace Sys2Proof.Machine

theorem stopLantern_only (l : Nat) (s : State) : Only [.lanterns] s (stopLantern l s) := by
  have sk := Only.refl [.lanterns] s
  unfold stopLantern
  repeat' first
    | with_reducible assumption
    | (extract_lets +onlyGivenNames b; first | (refine Only.cut (Only [.lanterns] s b) ?_ ?_ <;> first | (intro hb; clear_value b; refine Only.hold ?_) | intro hb | (unfold b; clear b)) | (((first | (have h0 : Nat := b; clear h0) | (have h0 : Bool := b; clear h0) | (have h0 : BitVec _ := b; clear h0) | (have h0 : List _ := b; clear h0)); clear_value b)) | (unfold b; clear b) | clear b)
    | ((with_reducible apply Only.after (State.setLantern_only _ _ _)); · rfl)
    | split
    | (refine Only.update (by assumption) ?_; intro p; cases p <;> first | exact .inl rfl | exact .inr rfl)

theorem haltLantern_only (l : Nat) (s : State) : Only [.lanterns] s (haltLantern l s) := by
  have sk := Only.refl [.lanterns] s
  unfold haltLantern
  repeat' first
    | with_reducible assumption
    | (extract_lets +onlyGivenNames b; first | (refine Only.cut (Only [.lanterns] s b) ?_ ?_ <;> first | (intro hb; clear_value b; refine Only.hold ?_) | intro hb | (unfold b; clear b)) | (((first | (have h0 : Nat := b; clear h0) | (have h0 : Bool := b; clear h0) | (have h0 : BitVec _ := b; clear h0) | (have h0 : List _ := b; clear h0)); clear_value b)) | (unfold b; clear b) | clear b)
    | ((with_reducible apply Only.after (State.setLantern_only _ _ _)); · rfl)
    | ((with_reducible apply Only.after (stopLantern_only _ _)); · rfl)
    | (refine Only.update (by assumption) ?_; intro p; cases p <;> first | exact .inl rfl | exact .inr rfl)

theorem lanternFault_only (l : Nat) (code : Nat) (s : State) : Only [.outbox, .hl, .flares, .lanterns, .ic, .pm] s (lanternFault l code s) := by
  have sk := Only.refl [.outbox, .hl, .flares, .lanterns, .ic, .pm] s
  unfold lanternFault
  repeat' first
    | with_reducible assumption
    | (extract_lets +onlyGivenNames b; first | (refine Only.cut (Only [.outbox, .hl, .flares, .lanterns, .ic, .pm] s b) ?_ ?_ <;> first | (intro hb; clear_value b; refine Only.hold ?_) | intro hb | (unfold b; clear b)) | (((first | (have h0 : Nat := b; clear h0) | (have h0 : Bool := b; clear h0) | (have h0 : BitVec _ := b; clear h0) | (have h0 : List _ := b; clear h0)); clear_value b)) | (unfold b; clear b) | clear b)
    | ((with_reducible apply Only.after (State.setLantern_only _ _ _)); · rfl)
    | ((with_reducible apply Only.after (raise_only _ _)); · rfl)
    | (refine Only.update (by assumption) ?_; intro p; cases p <;> first | exact .inl rfl | exact .inr rfl)

theorem settlePace_only (l : Nat) (s : State) : Only [.lanterns] s (settlePace l s) := by
  have sk := Only.refl [.lanterns] s
  unfold settlePace
  repeat' first
    | with_reducible assumption
    | (extract_lets +onlyGivenNames b; first | (refine Only.cut (Only [.lanterns] s b) ?_ ?_ <;> first | (intro hb; clear_value b; refine Only.hold ?_) | intro hb | (unfold b; clear b)) | (((first | (have h0 : Nat := b; clear h0) | (have h0 : Bool := b; clear h0) | (have h0 : BitVec _ := b; clear h0) | (have h0 : List _ := b; clear h0)); clear_value b)) | (unfold b; clear b) | clear b)
    | ((with_reducible apply Only.after (State.setLantern_only _ _ _)); · rfl)
    | (refine Only.update (by assumption) ?_; intro p; cases p <;> first | exact .inl rfl | exact .inr rfl)

theorem lanternLine_only (n : Nat) (y : Nat) (at_ : Nat) (s : State) : Only [.lanterns] s (lanternLine n y at_ s) := by
  have sk := Only.refl [.lanterns] s
  unfold lanternLine
  repeat' first
    | with_reducible assumption
    | (extract_lets +onlyGivenNames b; first | (refine Only.cut (Only [.lanterns] s b) ?_ ?_ <;> first | (intro hb; clear_value b; refine Only.hold ?_) | intro hb | (unfold b; clear b)) | (((first | (have h0 : Nat := b; clear h0) | (have h0 : Bool := b; clear h0) | (have h0 : BitVec _ := b; clear h0) | (have h0 : List _ := b; clear h0)); clear_value b)) | (unfold b; clear b) | clear b)
    | ((with_reducible apply Only.after (State.setLantern_only _ _ _)); · rfl)
    | split
    | (refine Only.update (by assumption) ?_; intro p; cases p <;> first | exact .inl rfl | exact .inr rfl)

theorem lanternOmitted_only (n : Nat) (last : Nat) (at_ : Nat) (s : State) : Only [.lanterns] s (lanternOmitted n last at_ s) := by
  have sk := Only.refl [.lanterns] s
  unfold lanternOmitted
  repeat' first
    | with_reducible assumption
    | (extract_lets +onlyGivenNames b; first | (refine Only.cut (Only [.lanterns] s b) ?_ ?_ <;> first | (intro hb; clear_value b; refine Only.hold ?_) | intro hb | (unfold b; clear b)) | (((first | (have h0 : Nat := b; clear h0) | (have h0 : Bool := b; clear h0) | (have h0 : BitVec _ := b; clear h0) | (have h0 : List _ := b; clear h0)); clear_value b)) | (unfold b; clear b) | clear b)
    | ((with_reducible apply Only.after (State.setLantern_only _ _ _)); · rfl)
    | split
    | (refine Only.update (by assumption) ?_; intro p; cases p <;> first | exact .inl rfl | exact .inr rfl)

theorem faultLostWait_only (n : Nat) (s : State) : Only [.outbox, .hl, .flares, .lanterns, .ic, .pm] s (faultLostWait n s) := by
  have sk := Only.refl [.outbox, .hl, .flares, .lanterns, .ic, .pm] s
  unfold faultLostWait
  repeat' first
    | with_reducible assumption
    | (extract_lets +onlyGivenNames b; first | (unfold b; clear b) | clear b)
    | ((with_reducible apply Only.after (lanternFault_only _ _ _)); · rfl)
    | split
    | (refine Only.update (by assumption) ?_; intro p; cases p <;> first | exact .inl rfl | exact .inr rfl)

theorem lanternStream_only (stream : Nat) (count : Nat) (at_ : Nat) (s : State) : Only [.lanterns] s (lanternStream stream count at_ s) := by
  have sk := Only.refl [.lanterns] s
  unfold lanternStream
  repeat' first
    | with_reducible assumption
    | (extract_lets +onlyGivenNames b; first | (refine Only.cut (Only [.lanterns] s b) ?_ ?_ <;> first | (intro hb; clear_value b; refine Only.hold ?_) | intro hb | (unfold b; clear b)) | (((first | (have h0 : Nat := b; clear h0) | (have h0 : Bool := b; clear h0) | (have h0 : BitVec _ := b; clear h0) | (have h0 : List _ := b; clear h0)); clear_value b)) | (unfold b; clear b) | clear b)
    | ((with_reducible apply Only.after (State.setLantern_only _ _ _)); · rfl)
    | ((with_reducible refine Only.fold _ ?_ ?_) <;> try intro x a hb)
    | split
    | (refine Only.update (by assumption) ?_; intro p; cases p <;> first | exact .inl rfl | exact .inr rfl)

theorem setFence_only (i : Nat) (v : Word) (s : State) : Only [.fa, .lanterns] s (setFence i v s) := by
  have sk := Only.refl [.fa, .lanterns] s
  unfold setFence
  repeat' first
    | with_reducible assumption
    | (extract_lets +onlyGivenNames b; first | (refine Only.cut (Only [.fa, .lanterns] s b) ?_ ?_ <;> first | (intro hb; clear_value b; refine Only.hold ?_) | intro hb | (unfold b; clear b)) | (((first | (have h0 : Nat := b; clear h0) | (have h0 : Bool := b; clear h0) | (have h0 : BitVec _ := b; clear h0) | (have h0 : List _ := b; clear h0)); clear_value b)) | (unfold b; clear b) | clear b)
    | ((with_reducible apply Only.after (State.setLantern_only _ _ _)); · rfl)
    | ((with_reducible refine Only.fold _ ?_ ?_) <;> try intro x a hb)
    | split
    | (refine Only.update (by assumption) ?_; intro p; cases p <;> first | exact .inl rfl | exact .inr rfl)

end Sys2Proof.Machine
end

