-- ==== Sys2Proof/Laws/OnlyOperands.lean ====
section
/-! SUPPORT. The parts of the state that the operations of Operands may change. -/

set_option linter.all false

namespace Sys2Proof.Machine

theorem turnAway_only (src : Source) (s : State) : Only [.outbox, .reply, .hl, .ic, .pm] s (turnAway src s) := by
  have sk := Only.refl [.outbox, .reply, .hl, .ic, .pm] s
  unfold turnAway
  repeat' first
    | with_reducible assumption
    | (extract_lets +onlyGivenNames b; first | (unfold b; clear b) | clear b)
    | ((with_reducible apply Only.after (State.answer_only _ _)); · rfl)
    | ((with_reducible apply Only.after (aerLog_only _ _ _)); · rfl)
    | split
    | (refine Only.update (by assumption) ?_; intro p; cases p <;> first | exact .inl rfl | exact .inr rfl)

theorem countBar0_only (src : Source) (ev : Nat) (s : State) : Only [.outbox, .hl, .ic, .pm] s (countBar0 src ev s) := by
  have sk := Only.refl [.outbox, .hl, .ic, .pm] s
  unfold countBar0
  repeat' first
    | with_reducible assumption
    | (extract_lets +onlyGivenNames b; first | (unfold b; clear b) | clear b)
    | ((with_reducible apply Only.after (State.wakeLink_only _ _)); · rfl)
    | ((with_reducible apply Only.after (perfEvent_only _ _ _ _ _)); · rfl)
    | split
    | (refine Only.update (by assumption) ?_; intro p; cases p <;> first | exact .inl rfl | exact .inr rfl)

end Sys2Proof.Machine
end

