-- ==== Sys2Proof/Laws/OnlyIrq.lean ====
section
/-! SUPPORT. The parts of the state that the operations of Irq may change. -/

set_option linter.all false

namespace Sys2Proof.Machine

theorem changeTarget_only (t : Nat) (f : Target → Target) (s : State) : Only [.outbox, .hl, .ic, .pm] s (changeTarget t f s) := by
  have sk := Only.refl [.outbox, .hl, .ic, .pm] s
  unfold changeTarget
  repeat' first
    | with_reducible assumption
    | ((with_reducible apply Only.after (State.setTarget_only _ _ _)); · rfl)
    | ((with_reducible apply Only.after (settle_only _ _ _)); · rfl)

theorem claimAt_only (t : Nat) (s : State) : Only [.outbox, .hl, .ic, .pm] s (claimAt t s).1 := by
  have sk := Only.refl [.outbox, .hl, .ic, .pm] s
  unfold claimAt
  repeat' first
    | with_reducible assumption
    | (extract_lets +onlyGivenNames b; first | (refine Only.cut (Only [.outbox, .hl, .ic, .pm] s b) ?_ ?_ <;> first | (intro hb; clear_value b; refine Only.hold ?_) | intro hb | (unfold b; clear b)) | (((first | (have h0 : Nat := b; clear h0) | (have h0 : Bool := b; clear h0) | (have h0 : BitVec _ := b; clear h0) | (have h0 : List _ := b; clear h0)); clear_value b)) | (unfold b; clear b) | clear b)
    | ((with_reducible apply Only.after (perfEvent_only _ _ _ _ _)); · rfl)
    | ((with_reducible apply Only.after (changeTarget_only _ _ _)); · rfl)
    | split
    | (refine Only.update (by assumption) ?_; intro p; cases p <;> first | exact .inl rfl | exact .inr rfl)

theorem claim_only (src : Source) (selected : Bool) (full : Bool) (s : State) : Only [.outbox, .reply, .hl, .ic, .pm] s (claim src selected full s) := by
  have sk := Only.refl [.outbox, .reply, .hl, .ic, .pm] s
  unfold claim
  repeat' first
    | with_reducible assumption
    | (extract_lets +onlyGivenNames b; first | (refine Only.cut (Only [.outbox, .reply, .hl, .ic, .pm] s b) ?_ ?_ <;> first | (intro hb; clear_value b; refine Only.hold ?_) | intro hb | (unfold b; clear b)) | (refine Only.cut (Only [.outbox, .reply, .hl, .ic, .pm] s b.1) ?_ ?_ <;> first | (intro hb; clear_value b; refine Only.hold ?_) | intro hb | (unfold b; clear b)) | (((first | (have h0 : Nat := b; clear h0) | (have h0 : Bool := b; clear h0) | (have h0 : BitVec _ := b; clear h0) | (have h0 : List _ := b; clear h0)); clear_value b)) | (unfold b; clear b) | clear b)
    | ((with_reducible apply Only.after (State.answer_only _ _)); · rfl)
    | ((with_reducible apply Only.after (claimAt_only _ _)); · rfl)
    | with_reducible refine Only.fst (by assumption) ?_
    | split

theorem eoiAt_only (src : Source) (t : Nat) (a : Access) (source : Nat) (s : State) : Only [.outbox, .err, .hl, .ic, .pm] s (eoiAt src t a source s) := by
  have sk := Only.refl [.outbox, .err, .hl, .ic, .pm] s
  unfold eoiAt
  repeat' first
    | with_reducible assumption
    | (extract_lets +onlyGivenNames b; first | (unfold b; clear b) | clear b)
    | ((with_reducible apply Only.after (refuse_only _ _ _ _)); · rfl)
    | ((with_reducible apply Only.after (changeTarget_only _ _ _)); · rfl)
    | split
    | (refine Only.update (by assumption) ?_; intro p; cases p <;> first | exact .inl rfl | exact .inr rfl)

theorem pendSetAt_only (src : Source) (t : Nat) (k : Nat) (a : Access) (w : Word) (s : State) : Only [.outbox, .err, .hl, .ic, .pm] s (pendSetAt src t k a w s) := by
  have sk := Only.refl [.outbox, .err, .hl, .ic, .pm] s
  unfold pendSetAt
  repeat' first
    | with_reducible assumption
    | (extract_lets +onlyGivenNames b; first | (refine Only.cut (Only [.outbox, .err, .hl, .ic, .pm] s b) ?_ ?_ <;> first | (intro hb; clear_value b; refine Only.hold ?_) | intro hb | (unfold b; clear b)) | (((first | (have h0 : Nat := b; clear h0) | (have h0 : Bool := b; clear h0) | (have h0 : BitVec _ := b; clear h0) | (have h0 : List _ := b; clear h0)); clear_value b)) | (unfold b; clear b) | clear b)
    | ((with_reducible apply Only.after (pendAt_only _ _ _)); · rfl)
    | ((with_reducible apply Only.after (settle_only _ _ _)); · rfl)
    | ((with_reducible apply Only.after (refuse_only _ _ _ _)); · rfl)
    | ((with_reducible refine Only.fold _ ?_ ?_) <;> try intro x a hb)
    | split
    | (refine Only.update (by assumption) ?_; intro p; cases p <;> first | exact .inl rfl | exact .inr rfl)

theorem pendClrAt_only (src : Source) (t : Nat) (k : Nat) (a : Access) (w : Word) (s : State) : Only [.outbox, .err, .hl, .ic, .pm] s (pendClrAt src t k a w s) := by
  have sk := Only.refl [.outbox, .err, .hl, .ic, .pm] s
  unfold pendClrAt
  repeat' first
    | with_reducible assumption
    | (extract_lets +onlyGivenNames b; first | (unfold b; clear b) | clear b)
    | ((with_reducible apply Only.after (refuse_only _ _ _ _)); · rfl)
    | ((with_reducible apply Only.after (changeTarget_only _ _ _)); · rfl)
    | split
    | (refine Only.update (by assumption) ?_; intro p; cases p <;> first | exact .inl rfl | exact .inr rfl)

theorem maskSetAt_only (src : Source) (t : Nat) (k : Nat) (a : Access) (w : Word) (s : State) : Only [.outbox, .err, .hl, .ic, .pm] s (maskSetAt src t k a w s) := by
  have sk := Only.refl [.outbox, .err, .hl, .ic, .pm] s
  unfold maskSetAt
  repeat' first
    | with_reducible assumption
    | (extract_lets +onlyGivenNames b; first | (unfold b; clear b) | clear b)
    | ((with_reducible apply Only.after (refuse_only _ _ _ _)); · rfl)
    | ((with_reducible apply Only.after (changeTarget_only _ _ _)); · rfl)
    | split
    | (refine Only.update (by assumption) ?_; intro p; cases p <;> first | exact .inl rfl | exact .inr rfl)

theorem maskClrAt_only (src : Source) (t : Nat) (k : Nat) (a : Access) (w : Word) (s : State) : Only [.outbox, .err, .hl, .ic, .pm] s (maskClrAt src t k a w s) := by
  have sk := Only.refl [.outbox, .err, .hl, .ic, .pm] s
  unfold maskClrAt
  repeat' first
    | with_reducible assumption
    | (extract_lets +onlyGivenNames b; first | (unfold b; clear b) | clear b)
    | ((with_reducible apply Only.after (refuse_only _ _ _ _)); · rfl)
    | ((with_reducible apply Only.after (changeTarget_only _ _ _)); · rfl)
    | split
    | (refine Only.update (by assumption) ?_; intro p; cases p <;> first | exact .inl rfl | exact .inr rfl)

theorem coalesceTimeout_only (g : Nat) (s : State) : Only [.tick, .corePhase, .outbox, .hl, .ic, .pm] s (coalesceTimeout g s) := by
  have sk := Only.refl [.tick, .corePhase, .outbox, .hl, .ic, .pm] s
  unfold coalesceTimeout
  repeat' first
    | with_reducible assumption
    | (extract_lets +onlyGivenNames b; first | (refine Only.cut (Only [.tick, .corePhase, .outbox, .hl, .ic, .pm] s b) ?_ ?_ <;> first | (intro hb; clear_value b; refine Only.hold ?_) | intro hb | (unfold b; clear b)) | (((first | (have h0 : Nat := b; clear h0) | (have h0 : Bool := b; clear h0) | (have h0 : BitVec _ := b; clear h0) | (have h0 : List _ := b; clear h0)); clear_value b)) | (unfold b; clear b) | clear b)
    | ((with_reducible apply Only.after (releaseGroup_only _ _ _ _ _)); · rfl)
    | ((with_reducible apply Only.after (settle_only _ _ _)); · rfl)
    | ((with_reducible apply Only.after (toTick_only _ _)); · rfl)
    | split

theorem targetWrite_only (t : Nat) (r : RegId) (v : Word) (s : State) : Only [.outbox, .hl, .ic, .pm] s (targetWrite t r v s) := by
  have sk := Only.refl [.outbox, .hl, .ic, .pm] s
  unfold targetWrite
  repeat' first
    | with_reducible assumption
    | (extract_lets +onlyGivenNames b; first | (refine Only.cut (Only [.outbox, .hl, .ic, .pm] s b) ?_ ?_ <;> first | (intro hb; clear_value b; refine Only.hold ?_) | intro hb | (unfold b; clear b)) | (((first | (have h0 : Nat := b; clear h0) | (have h0 : Bool := b; clear h0) | (have h0 : BitVec _ := b; clear h0) | (have h0 : List _ := b; clear h0)); clear_value b)) | (unfold b; clear b) | clear b)
    | ((with_reducible apply Only.after (State.setTarget_only _ _ _)); · rfl)
    | ((with_reducible apply Only.after (stopSleeping_only _ _)); · rfl)
    | ((with_reducible apply Only.after (settle_only _ _ _)); · rfl)
    | ((with_reducible apply Only.after (changeTarget_only _ _ _)); · rfl)
    | split
    | (refine Only.update (by assumption) ?_; intro p; cases p <;> first | exact .inl rfl | exact .inr rfl)

theorem resetTarget_only (f : Nat) (s : State) : Only [.hl, .ic] s (resetTarget f s) := by
  have sk := Only.refl [.hl, .ic] s
  unfold resetTarget
  repeat' first
    | with_reducible assumption
    | (extract_lets +onlyGivenNames b; first | (refine Only.cut (Only [.hl, .ic] s b) ?_ ?_ <;> first | (intro hb; clear_value b; refine Only.hold ?_) | intro hb | (unfold b; clear b)) | (((first | (have h0 : Nat := b; clear h0) | (have h0 : Bool := b; clear h0) | (have h0 : BitVec _ := b; clear h0) | (have h0 : List _ := b; clear h0)); clear_value b)) | (unfold b; clear b) | clear b)
    | ((with_reducible apply Only.after (State.setTarget_only _ _ _)); · rfl)
    | ((with_reducible apply Only.after (State.setCgroup_only _ _ _)); · rfl)
    | ((with_reducible refine Only.fold _ ?_ ?_) <;> try intro x a hb)
    | split
    | (refine Only.update (by assumption) ?_; intro p; cases p <;> first | exact .inl rfl | exact .inr rfl)

theorem keepSources_only (t : Nat) (s : State) : Only [.outbox, .hl, .ic, .pm] s (keepSources t s) := by
  have sk := Only.refl [.outbox, .hl, .ic, .pm] s
  unfold keepSources
  repeat' first
    | with_reducible assumption
    | (extract_lets +onlyGivenNames b; first | (unfold b; clear b) | clear b)
    | ((with_reducible apply Only.after (changeTarget_only _ _ _)); · rfl)
    | ((with_reducible refine Only.fold _ ?_ ?_) <;> try intro x a hb)
    | (refine Only.update (by assumption) ?_; intro p; cases p <;> first | exact .inl rfl | exact .inr rfl)

end Sys2Proof.Machine
end

