-- ==== Sys2Proof/Laws/OnlyNotify.lean ====
section
/-! SUPPORT. The parts of the state that the operations of Notify may change. -/

set_option linter.all false

namespace Sys2Proof.Machine

theorem noteEvent_only (cls : Nat) (code : Nat) (item : Nat) (detail : Word) (only : Option Nat) (s : State) : Only [.dict] s (noteEvent cls code item detail only s) := by
  have sk := Only.refl [.dict] s
  unfold noteEvent
  repeat' first
    | with_reducible assumption
    | (extract_lets +onlyGivenNames b; first | (refine Only.cut (Only [.dict] s b) ?_ ?_ <;> first | (intro hb; clear_value b; refine Only.hold ?_) | intro hb | (unfold b; clear b)) | (((first | (have h0 : Nat := b; clear h0) | (have h0 : Bool := b; clear h0) | (have h0 : BitVec _ := b; clear h0) | (have h0 : List _ := b; clear h0)); clear_value b)) | (unfold b; clear b) | clear b)
    | (refine Only.update (by assumption) ?_; intro p; cases p <;> first | exact .inl rfl | exact .inr rfl)

theorem withdrawNote_only (code : Nat) (s : State) : Only [.dict] s (withdrawNote code s) := by
  have sk := Only.refl [.dict] s
  unfold withdrawNote
  repeat' first
    | with_reducible assumption
    | (extract_lets +onlyGivenNames b; first | (unfold b; clear b) | clear b)
    | (refine Only.update (by assumption) ?_; intro p; cases p <;> first | exact .inl rfl | exact .inr rfl)

theorem setCategory_only (c : Nat) (item : Nat) (s : State) : Only [.outbox, .hl, .dict, .ic, .pm, .safety] s (setCategory c item s) := by
  have sk := Only.refl [.outbox, .hl, .dict, .ic, .pm, .safety] s
  unfold setCategory
  repeat' first
    | with_reducible assumption
    | (extract_lets +onlyGivenNames b; first | (refine Only.cut (Only [.outbox, .hl, .dict, .ic, .pm, .safety] s b) ?_ ?_ <;> first | (intro hb; clear_value b; refine Only.hold ?_) | intro hb | (unfold b; clear b)) | (((first | (have h0 : Nat := b; clear h0) | (have h0 : Bool := b; clear h0) | (have h0 : BitVec _ := b; clear h0) | (have h0 : List _ := b; clear h0)); clear_value b)) | (unfold b; clear b) | clear b)
    | ((with_reducible apply Only.after (raise_only _ _)); · rfl)
    | ((with_reducible apply Only.after (noteEvent_only _ _ _ _ _ _)); · rfl)
    | ((with_reducible apply Only.after (withdrawNote_only _ _)); · rfl)
    | split
    | (refine Only.update (by assumption) ?_; intro p; cases p <;> first | exact .inl rfl | exact .inr rfl)

theorem clearCategory_only (c : Nat) (s : State) : Only [.dict, .safety] s (clearCategory c s) := by
  have sk := Only.refl [.dict, .safety] s
  unfold clearCategory
  repeat' first
    | with_reducible assumption
    | (extract_lets +onlyGivenNames b; first | (refine Only.cut (Only [.dict, .safety] s b) ?_ ?_ <;> first | (intro hb; clear_value b; refine Only.hold ?_) | intro hb | (unfold b; clear b)) | (((first | (have h0 : Nat := b; clear h0) | (have h0 : Bool := b; clear h0) | (have h0 : BitVec _ := b; clear h0) | (have h0 : List _ := b; clear h0)); clear_value b)) | (unfold b; clear b) | clear b)
    | ((with_reducible apply Only.after (noteEvent_only _ _ _ _ _ _)); · rfl)
    | split
    | (refine Only.update (by assumption) ?_; intro p; cases p <;> first | exact .inl rfl | exact .inr rfl)

theorem settleQuad_only (s : State) (q : Nat) : Only [.outbox, .oq] s (settleQuad s q) := by
  have sk := Only.refl [.outbox, .oq] s
  unfold settleQuad
  repeat' first
    | with_reducible assumption
    | (extract_lets +onlyGivenNames b; first | (refine Only.cut (Only [.outbox, .oq] s b) ?_ ?_ <;> first | (intro hb; clear_value b; refine Only.hold ?_) | intro hb | (unfold b; clear b)) | (((first | (have h0 : Nat := b; clear h0) | (have h0 : Bool := b; clear h0) | (have h0 : BitVec _ := b; clear h0) | (have h0 : List _ := b; clear h0)); clear_value b)) | (unfold b; clear b) | clear b)
    | ((with_reducible apply Only.after (State.send_only _ _)); · rfl)
    | split
    | (refine Only.update (by assumption) ?_; intro p; cases p <;> first | exact .inl rfl | exact .inr rfl)

theorem forgetQuad_only (q : Nat) (t : Nat) (s : State) : Only [.oq] s (forgetQuad q t s) := by
  have sk := Only.refl [.oq] s
  unfold forgetQuad
  repeat' first
    | with_reducible assumption
    | (extract_lets +onlyGivenNames b; first | (refine Only.cut (Only [.oq] s b) ?_ ?_ <;> first | (intro hb; clear_value b; refine Only.hold ?_) | intro hb | (unfold b; clear b)) | (((first | (have h0 : Nat := b; clear h0) | (have h0 : Bool := b; clear h0) | (have h0 : BitVec _ := b; clear h0) | (have h0 : List _ := b; clear h0)); clear_value b)) | (unfold b; clear b) | clear b)
    | split
    | (refine Only.update (by assumption) ?_; intro p; cases p <;> first | exact .inl rfl | exact .inr rfl)

theorem updateBlanked_only (n : Nat) (s : State) : Only [.keep] s (updateBlanked n s) := by
  have sk := Only.refl [.keep] s
  unfold updateBlanked
  repeat' first
    | with_reducible assumption
    | (extract_lets +onlyGivenNames b; first | (unfold b; clear b) | clear b)
    | ((with_reducible apply Only.after (State.setKeepHead_only _ _ _)); · rfl)
    | (refine Only.update (by assumption) ?_; intro p; cases p <;> first | exact .inl rfl | exact .inr rfl)

theorem faultRegion_only (n : Nat) (s : State) (r : Nat) : Only [.keep] s (faultRegion n s r) := by
  have sk := Only.refl [.keep] s
  unfold faultRegion
  repeat' first
    | with_reducible assumption
    | (extract_lets +onlyGivenNames b; first | (refine Only.cut (Only [.keep] s b) ?_ ?_ <;> first | (intro hb; clear_value b; refine Only.hold ?_) | intro hb | (unfold b; clear b)) | (((first | (have h0 : Nat := b; clear h0) | (have h0 : Bool := b; clear h0) | (have h0 : BitVec _ := b; clear h0) | (have h0 : List _ := b; clear h0)); clear_value b)) | (unfold b; clear b) | clear b)
    | ((with_reducible apply Only.after (State.setKeepHead_only _ _ _)); · rfl)
    | split
    | (refine Only.update (by assumption) ?_; intro p; cases p <;> first | exact .inl rfl | exact .inr rfl)

theorem noteRegions_only (n : Nat) (kind : Nat) (rs : List Nat) (s : State) : Only [.dict] s (noteRegions n kind rs s) := by
  have sk := Only.refl [.dict] s
  unfold noteRegions
  repeat' first
    | with_reducible assumption
    | ((with_reducible apply Only.after (noteEvent_only _ _ _ _ _ _)); · rfl)
    | ((with_reducible refine Only.fold _ ?_ ?_) <;> try intro x a hb)

theorem keepFault_only (n : Nat) (kind : Nat) (rs : List Nat) (s : State) : Only [.outbox, .hl, .keep, .dict, .ic, .pm, .safety] s (keepFault n kind rs s) := by
  have sk := Only.refl [.outbox, .hl, .keep, .dict, .ic, .pm, .safety] s
  unfold keepFault
  repeat' first
    | with_reducible assumption
    | (extract_lets +onlyGivenNames b; first | (refine Only.cut (Only [.outbox, .hl, .keep, .dict, .ic, .pm, .safety] s b) ?_ ?_ <;> first | (intro hb; clear_value b; refine Only.hold ?_) | intro hb | (unfold b; clear b)) | (((first | (have h0 : Nat := b; clear h0) | (have h0 : Bool := b; clear h0) | (have h0 : BitVec _ := b; clear h0) | (have h0 : List _ := b; clear h0)); clear_value b)) | (unfold b; clear b) | clear b)
    | ((with_reducible apply Only.after (State.setKeepHead_only _ _ _)); · rfl)
    | ((with_reducible apply Only.after (raise_only _ _)); · rfl)
    | ((with_reducible apply Only.after (setCategory_only _ _ _)); · rfl)
    | ((with_reducible apply Only.after (updateBlanked_only _ _)); · rfl)
    | ((with_reducible apply Only.after (faultRegion_only _ _ _)); · rfl)
    | ((with_reducible apply Only.after (noteRegions_only _ _ _ _)); · rfl)
    | ((with_reducible refine Only.fold _ ?_ ?_) <;> try intro x a hb)
    | split
    | (refine Only.update (by assumption) ?_; intro p; cases p <;> first | exact .inl rfl | exact .inr rfl)

theorem settleKeep_only (s : State) : Only [.dict, .safety] s (settleKeep s) := by
  have sk := Only.refl [.dict, .safety] s
  unfold settleKeep
  repeat' first
    | with_reducible assumption
    | ((with_reducible apply Only.after (clearCategory_only _ _)); · rfl)
    | split

theorem leaveFault_only (n : Nat) (s : State) (r : Nat) : Only [.fa, .keep, .dict] s (leaveFault n s r) := by
  have sk := Only.refl [.fa, .keep, .dict] s
  unfold leaveFault
  repeat' first
    | with_reducible assumption
    | (extract_lets +onlyGivenNames b; first | (refine Only.cut (Only [.fa, .keep, .dict] s b) ?_ ?_ <;> first | (intro hb; clear_value b; refine Only.hold ?_) | intro hb | (unfold b; clear b)) | (((first | (have h0 : Nat := b; clear h0) | (have h0 : Bool := b; clear h0) | (have h0 : BitVec _ := b; clear h0) | (have h0 : List _ := b; clear h0)); clear_value b)) | (unfold b; clear b) | clear b)
    | ((with_reducible apply Only.after (State.setLayer_only _ _ _)); · rfl)
    | ((with_reducible apply Only.after (State.setKeepHead_only _ _ _)); · rfl)
    | ((with_reducible apply Only.after (noteEvent_only _ _ _ _ _ _)); · rfl)
    | ((with_reducible apply Only.after (updateBlanked_only _ _)); · rfl)
    | ((with_reducible refine Only.fold _ ?_ ?_) <;> try intro x a hb)
    | (refine Only.update (by assumption) ?_; intro p; cases p <;> first | exact .inl rfl | exact .inr rfl)

theorem enforceUnavailable_only (n : Nat) (s : State) : Only [.fresh, .keep, .dict] s (enforceUnavailable n s) := by
  have sk := Only.refl [.fresh, .keep, .dict] s
  unfold enforceUnavailable
  repeat' first
    | with_reducible assumption
    | (extract_lets +onlyGivenNames b; first | (refine Only.cut (Only [.fresh, .keep, .dict] s b) ?_ ?_ <;> first | (intro hb; clear_value b; refine Only.hold ?_) | intro hb | (unfold b; clear b)) | (((first | (have h0 : Nat := b; clear h0) | (have h0 : Bool := b; clear h0) | (have h0 : BitVec _ := b; clear h0) | (have h0 : List _ := b; clear h0)); clear_value b)) | (unfold b; clear b) | clear b)
    | ((with_reducible apply Only.after (State.setKeepHead_only _ _ _)); · rfl)
    | ((with_reducible apply Only.after (State.draw_only _ _)); · rfl)
    | ((with_reducible apply Only.after (noteRegions_only _ _ _ _)); · rfl)
    | ((with_reducible refine Only.fold _ ?_ ?_) <;> try intro x a hb)
    | split
    | (refine Only.update (by assumption) ?_; intro p; cases p <;> first | exact .inl rfl | exact .inr rfl)

end Sys2Proof.Machine
end

