-- ==== Sys2Proof/Laws/OnlyLedger.lean ====
section
/-! SUPPORT. The parts of the state that the operations of Ledger may change. -/

set_option linter.all false

namespace Sys2Proof.Machine

theorem State.setNor_only (s : State) (f : Nor → Nor) : Only [.aon] s (State.setNor s f) := by
  have sk := Only.refl [.aon] s
  unfold State.setNor
  repeat' first
    | with_reducible assumption
    | (extract_lets +onlyGivenNames b; first | (unfold b; clear b) | clear b)
    | (refine Only.update (by assumption) ?_; intro p; cases p <;> first | exact .inl rfl | exact .inr rfl)

theorem writeLedger_only (ok : Bool) (s : State) : Only [.aon, .fresh, .start] s (writeLedger ok s) := by
  have sk := Only.refl [.aon, .fresh, .start] s
  unfold writeLedger
  repeat' first
    | with_reducible assumption
    | (extract_lets +onlyGivenNames b; first | (refine Only.cut (Only [.aon, .fresh, .start] s b) ?_ ?_ <;> first | (intro hb; clear_value b; refine Only.hold ?_) | intro hb | (unfold b; clear b)) | (((first | (have h0 : Nat := b; clear h0) | (have h0 : Bool := b; clear h0) | (have h0 : BitVec _ := b; clear h0) | (have h0 : List _ := b; clear h0)); clear_value b)) | (unfold b; clear b) | clear b)
    | ((with_reducible apply Only.after (State.draw_only _ _)); · rfl)
    | ((with_reducible apply Only.after (State.setNor_only _ _)); · rfl)
    | split
    | (refine Only.update (by assumption) ?_; intro p; cases p <;> first | exact .inl rfl | exact .inr rfl)

theorem writeStore_only (ok : Bool) (vals : List (Nat × List Byte)) (s : State) : Only [.aon, .fresh, .outbox, .hl, .ic, .pm] s (writeStore ok vals s) := by
  have sk := Only.refl [.aon, .fresh, .outbox, .hl, .ic, .pm] s
  unfold writeStore
  repeat' first
    | with_reducible assumption
    | (extract_lets +onlyGivenNames b; first | (refine Only.cut (Only [.aon, .fresh, .outbox, .hl, .ic, .pm] s b) ?_ ?_ <;> first | (intro hb; clear_value b; refine Only.hold ?_) | intro hb | (unfold b; clear b)) | (((first | (have h0 : Nat := b; clear h0) | (have h0 : Bool := b; clear h0) | (have h0 : BitVec _ := b; clear h0) | (have h0 : List _ := b; clear h0)); clear_value b)) | (unfold b; clear b) | clear b)
    | ((with_reducible apply Only.after (State.draw_only _ _)); · rfl)
    | ((with_reducible apply Only.after (perfEvent_only _ _ _ _ _)); · rfl)
    | ((with_reducible apply Only.after (raise_only _ _)); · rfl)
    | ((with_reducible apply Only.after (State.setNor_only _ _)); · rfl)
    | ((with_reducible refine Only.fold _ ?_ ?_) <;> try intro x a hb)
    | split
    | (refine Only.update (by assumption) ?_; intro p; cases p <;> first | exact .inl rfl | exact .inr rfl)

theorem State.setLedger_only (s : State) (f : Ledger → Ledger) : Only [.start] s (State.setLedger s f) := by
  have sk := Only.refl [.start] s
  unfold State.setLedger
  repeat' first
    | with_reducible assumption
    | (extract_lets +onlyGivenNames b; first | (unfold b; clear b) | clear b)
    | (refine Only.update (by assumption) ?_; intro p; cases p <;> first | exact .inl rfl | exact .inr rfl)

theorem noteEntry_only (f : LedgerEntry → LedgerEntry) (s : State) : Only [.start] s (noteEntry f s) := by
  have sk := Only.refl [.start] s
  unfold noteEntry
  repeat' first
    | with_reducible assumption
    | (extract_lets +onlyGivenNames b; first | (unfold b; clear b) | clear b)
    | ((with_reducible apply Only.after (State.setLedger_only _ _)); · rfl)
    | split
    | (refine Only.update (by assumption) ?_; intro p; cases p <;> first | exact .inl rfl | exact .inr rfl)

theorem noteCopy_only (place : Nat) (o : Outcome) (s : State) : Only [.start] s (noteCopy place o s) := by
  have sk := Only.refl [.start] s
  unfold noteCopy
  repeat' first
    | with_reducible assumption
    | (extract_lets +onlyGivenNames b; first | (refine Only.cut (Only [.start] s b) ?_ ?_ <;> first | (intro hb; clear_value b; refine Only.hold ?_) | intro hb | (unfold b; clear b)) | (((first | (have h0 : Nat := b; clear h0) | (have h0 : Bool := b; clear h0) | (have h0 : BitVec _ := b; clear h0) | (have h0 : List _ := b; clear h0)); clear_value b)) | (unfold b; clear b) | clear b)
    | ((with_reducible apply Only.after (State.setLedger_only _ _)); · rfl)
    | ((with_reducible apply Only.after (noteEntry_only _ _)); · rfl)
    | split
    | (refine Only.update (by assumption) ?_; intro p; cases p <;> first | exact .inl rfl | exact .inr rfl)

theorem noteFree_only (cls : Nat) (item : Nat) (detail : Word) (only : Option Nat) (s : State) : Only [.fresh, .dict] s (noteFree cls item detail only s) := by
  have sk := Only.refl [.fresh, .dict] s
  unfold noteFree
  repeat' first
    | with_reducible assumption
    | ((with_reducible apply Only.after (State.draw_only _ _)); · rfl)
    | ((with_reducible apply Only.after (noteEvent_only _ _ _ _ _ _)); · rfl)

end Sys2Proof.Machine
end

