-- ==== Sys2Proof/Laws/OnlyCompose.lean ====
section
/-! SUPPORT. The parts of the state that the operations of Compose may change. -/

set_option linter.all false

namespace Sys2Proof.Machine

theorem raceDecide_only (v : LayerView) (e : Envelope) (s : State) (y : Nat) : Only [.regs, .si] s (raceDecide v e s y) := by
  have sk := Only.refl [.regs, .si] s
  unfold raceDecide
  repeat' first
    | with_reducible assumption
    | (extract_lets +onlyGivenNames b; first | (refine Only.cut (Only [.regs, .si] s b) ?_ ?_ <;> first | (intro hb; clear_value b; refine Only.hold ?_) | intro hb | (unfold b; clear b)) | (((first | (have h0 : Nat := b; clear h0) | (have h0 : Bool := b; clear h0) | (have h0 : BitVec _ := b; clear h0) | (have h0 : List _ := b; clear h0)); clear_value b)) | (unfold b; clear b) | clear b)
    | ((with_reducible apply Only.after (State.bump_only _ _ _ _ _)); · rfl)
    | ((with_reducible apply Only.after (State.setRace_only _ _ _)); · rfl)
    | split
    | (refine Only.update (by assumption) ?_; intro p; cases p <;> first | exact .inl rfl | exact .inr rfl)

theorem countBursts_only (f : Feed) (req : Nat) (l : List (Nat × Nat)) (s : State) : Only [.outbox, .hl, .ic, .pm] s (countBursts f req l s) := by
  have sk := Only.refl [.outbox, .hl, .ic, .pm] s
  unfold countBursts
  repeat' first
    | with_reducible assumption
    | (extract_lets +onlyGivenNames b; first | (refine Only.cut (Only [.outbox, .hl, .ic, .pm] s b) ?_ ?_ <;> first | (intro hb; clear_value b; refine Only.hold ?_) | intro hb | (unfold b; clear b)) | (((first | (have h0 : Nat := b; clear h0) | (have h0 : Bool := b; clear h0) | (have h0 : BitVec _ := b; clear h0) | (have h0 : List _ := b; clear h0)); clear_value b)) | (unfold b; clear b) | clear b)
    | ((with_reducible apply Only.after (perfEvent_only _ _ _ _ _)); · rfl)
    | split

theorem reportBursts_only (f : Feed) (req : Nat) (ranges : List (Nat × Nat)) (s : State) : Only [.outbox, .regs, .hl, .fabric, .dict, .ic, .pm, .safety] s (reportBursts f req ranges s) := by
  have sk := Only.refl [.outbox, .regs, .hl, .fabric, .dict, .ic, .pm, .safety] s
  unfold reportBursts
  repeat' first
    | with_reducible assumption
    | (extract_lets +onlyGivenNames b; first | (refine Only.cut (Only [.outbox, .regs, .hl, .fabric, .dict, .ic, .pm, .safety] s b) ?_ ?_ <;> first | (intro hb; clear_value b; refine Only.hold ?_) | intro hb | (unfold b; clear b)) | (((first | (have h0 : Nat := b; clear h0) | (have h0 : Bool := b; clear h0) | (have h0 : BitVec _ := b; clear h0) | (have h0 : List _ := b; clear h0)); clear_value b)) | (unfold b; clear b) | clear b)
    | ((with_reducible apply Only.after (eccUncorrect_only _ _ _ _)); · rfl)
    | ((with_reducible apply Only.after (xlatFault_only _ _ _ _ _ _)); · rfl)
    | ((with_reducible apply Only.after (setCategory_only _ _ _)); · rfl)
    | ((with_reducible apply Only.after (countBursts_only _ _ _ _)); · rfl)
    | ((with_reducible refine Only.fold _ ?_ ?_) <;> try intro x a hb)
    | split

theorem keepTile_only (v : LayerView) (r : Nat) (c : Nat) (t : Got Tile) (s : State) : Only [.outbox, .regs, .hl, .fa, .ic, .pm] s (keepTile v r c t s) := by
  have sk := Only.refl [.outbox, .regs, .hl, .fa, .ic, .pm] s
  unfold keepTile
  repeat' first
    | with_reducible assumption
    | (extract_lets +onlyGivenNames b; first | (refine Only.cut (Only [.outbox, .regs, .hl, .fa, .ic, .pm] s b) ?_ ?_ <;> first | (intro hb; clear_value b; refine Only.hold ?_) | intro hb | (unfold b; clear b)) | (((first | (have h0 : Nat := b; clear h0) | (have h0 : Bool := b; clear h0) | (have h0 : BitVec _ := b; clear h0) | (have h0 : List _ := b; clear h0)); clear_value b)) | (unfold b; clear b) | clear b)
    | ((with_reducible apply Only.after (State.bump_only _ _ _ _ _)); · rfl)
    | ((with_reducible apply Only.after (State.setLayer_only _ _ _)); · rfl)
    | ((with_reducible apply Only.after (perfEvent_only _ _ _ _ _)); · rfl)
    | split
    | (refine Only.update (by assumption) ?_; intro p; cases p <;> first | exact .inl rfl | exact .inr rfl)

theorem takeBurst_only (v : LayerView) (e : Envelope) (lost : List Nat) (r : Nat) (s : State) (b : RowBurst) : Only [.outbox, .regs, .hl, .fabric, .fa, .dict, .ic, .pm, .safety] s (takeBurst v e lost r s b) := by
  have sk := Only.refl [.outbox, .regs, .hl, .fabric, .fa, .dict, .ic, .pm, .safety] s
  unfold takeBurst
  repeat' first
    | with_reducible assumption
    | (extract_lets +onlyGivenNames b; first | (refine Only.cut (Only [.outbox, .regs, .hl, .fabric, .fa, .dict, .ic, .pm, .safety] s b) ?_ ?_ <;> first | (intro hb; clear_value b; refine Only.hold ?_) | intro hb | (unfold b; clear b)) | (((first | (have h0 : Nat := b; clear h0) | (have h0 : Bool := b; clear h0) | (have h0 : BitVec _ := b; clear h0) | (have h0 : List _ := b; clear h0)); clear_value b)) | (unfold b; clear b) | clear b)
    | ((with_reducible apply Only.after (reportBursts_only _ _ _ _)); · rfl)
    | ((with_reducible apply Only.after (keepTile_only _ _ _ _ _)); · rfl)
    | ((with_reducible refine Only.fold _ ?_ ?_) <;> try intro x a hb)
    | split
    | (refine Only.update (by assumption) ?_; intro p; cases p <;> first | exact .inl rfl | exact .inr rfl)

theorem takeSlice_only (v : LayerView) (e : Envelope) (lead : Nat) (lost : List Nat) (s : State) (p : Nat × Nat) : Only [.outbox, .regs, .hl, .fabric, .fa, .dict, .ic, .pm, .safety] s (takeSlice v e lead lost s p) := by
  have sk := Only.refl [.outbox, .regs, .hl, .fabric, .fa, .dict, .ic, .pm, .safety] s
  unfold takeSlice
  repeat' first
    | with_reducible assumption
    | ((with_reducible apply Only.after (takeBurst_only _ _ _ _ _ _)); · rfl)
    | ((with_reducible refine Only.fold _ ?_ ?_) <;> try intro x a hb)

theorem bringLine_only (v : LayerView) (e : Envelope) (lost : List Nat) (s : State) (y : Nat) : Only [.outbox, .regs, .hl, .fabric, .fa, .si, .dict, .ic, .pm, .safety] s (bringLine v e lost s y) := by
  have sk := Only.refl [.outbox, .regs, .hl, .fabric, .fa, .si, .dict, .ic, .pm, .safety] s
  unfold bringLine
  repeat' first
    | with_reducible assumption
    | (extract_lets +onlyGivenNames b; first | (refine Only.cut (Only [.outbox, .regs, .hl, .fabric, .fa, .si, .dict, .ic, .pm, .safety] s b) ?_ ?_ <;> first | (intro hb; clear_value b; refine Only.hold ?_) | intro hb | (unfold b; clear b)) | (((first | (have h0 : Nat := b; clear h0) | (have h0 : Bool := b; clear h0) | (have h0 : BitVec _ := b; clear h0) | (have h0 : List _ := b; clear h0)); clear_value b)) | (unfold b; clear b) | clear b)
    | ((with_reducible apply Only.after (State.setLayer_only _ _ _)); · rfl)
    | ((with_reducible apply Only.after (raceDecide_only _ _ _ _)); · rfl)
    | ((with_reducible apply Only.after (reportBursts_only _ _ _ _)); · rfl)
    | split
    | (refine Only.update (by assumption) ?_; intro p; cases p <;> first | exact .inl rfl | exact .inr rfl)

theorem startLayerFrame_only (v : LayerView) (e : Envelope) (s : State) : Only [.fa, .si] s (startLayerFrame v e s) := by
  have sk := Only.refl [.fa, .si] s
  unfold startLayerFrame
  repeat' first
    | with_reducible assumption
    | (extract_lets +onlyGivenNames b; first | (refine Only.cut (Only [.fa, .si] s b) ?_ ?_ <;> first | (intro hb; clear_value b; refine Only.hold ?_) | intro hb | (unfold b; clear b)) | (((first | (have h0 : Nat := b; clear h0) | (have h0 : Bool := b; clear h0) | (have h0 : BitVec _ := b; clear h0) | (have h0 : List _ := b; clear h0)); clear_value b)) | (unfold b; clear b) | clear b)
    | ((with_reducible apply Only.after (State.setLayer_only _ _ _)); · rfl)
    | ((with_reducible apply Only.after (State.setRace_only _ _ _)); · rfl)
    | split
    | (refine Only.update (by assumption) ?_; intro p; cases p <;> first | exact .inl rfl | exact .inr rfl)

theorem makeLine_only (v : LayerView) (d : Nat) (s : State) : Only [.fa] s (makeLine v d s) := by
  have sk := Only.refl [.fa] s
  unfold makeLine
  repeat' first
    | with_reducible assumption
    | (extract_lets +onlyGivenNames b; first | (refine Only.cut (Only [.fa] s b) ?_ ?_ <;> first | (intro hb; clear_value b; refine Only.hold ?_) | intro hb | (unfold b; clear b)) | (((first | (have h0 : Nat := b; clear h0) | (have h0 : Bool := b; clear h0) | (have h0 : BitVec _ := b; clear h0) | (have h0 : List _ := b; clear h0)); clear_value b)) | (unfold b; clear b) | clear b)
    | ((with_reducible apply Only.after (State.setLayer_only _ _ _)); · rfl)
    | ((with_reducible refine Only.fold _ ?_ ?_) <;> try intro x a hb)
    | (refine Only.update (by assumption) ?_; intro p; cases p <;> first | exact .inl rfl | exact .inr rfl)

theorem shadowFetch_only (v : LayerView) (e : Envelope) (d : Nat) (s : State) : Only [.outbox, .regs, .hl, .fabric, .dict, .ic, .pm, .safety] s (shadowFetch v e d s) := by
  have sk := Only.refl [.outbox, .regs, .hl, .fabric, .dict, .ic, .pm, .safety] s
  unfold shadowFetch
  repeat' first
    | with_reducible assumption
    | (extract_lets +onlyGivenNames b; first | (refine Only.cut (Only [.outbox, .regs, .hl, .fabric, .dict, .ic, .pm, .safety] s b) ?_ ?_ <;> first | (intro hb; clear_value b; refine Only.hold ?_) | intro hb | (unfold b; clear b)) | (((first | (have h0 : Nat := b; clear h0) | (have h0 : Bool := b; clear h0) | (have h0 : BitVec _ := b; clear h0) | (have h0 : List _ := b; clear h0)); clear_value b)) | (unfold b; clear b) | clear b)
    | ((with_reducible apply Only.after (reportBursts_only _ _ _ _)); · rfl)
    | split

theorem windowLayer_only (y : Nat) (lead : Nat) (vTotal : Nat) (lost : List LostBurst) (s : State) (p : LayerView × Envelope) : Only [.outbox, .regs, .hl, .fabric, .fa, .si, .dict, .ic, .pm, .safety] s (windowLayer y lead vTotal lost s p) := by
  have sk := Only.refl [.outbox, .regs, .hl, .fabric, .fa, .si, .dict, .ic, .pm, .safety] s
  unfold windowLayer
  repeat' first
    | with_reducible assumption
    | (extract_lets +onlyGivenNames b; first | (refine Only.cut (Only [.outbox, .regs, .hl, .fabric, .fa, .si, .dict, .ic, .pm, .safety] s b) ?_ ?_ <;> first | (intro hb; clear_value b; refine Only.hold ?_) | intro hb | (unfold b; clear b)) | (((first | (have h0 : Nat := b; clear h0) | (have h0 : Bool := b; clear h0) | (have h0 : BitVec _ := b; clear h0) | (have h0 : List _ := b; clear h0)); clear_value b)) | (unfold b; clear b) | clear b)
    | ((with_reducible apply Only.after (State.setLayer_only _ _ _)); · rfl)
    | ((with_reducible apply Only.after (perfEvent_only _ _ _ _ _)); · rfl)
    | ((with_reducible apply Only.after (takeSlice_only _ _ _ _ _ _)); · rfl)
    | ((with_reducible apply Only.after (bringLine_only _ _ _ _ _)); · rfl)
    | ((with_reducible apply Only.after (startLayerFrame_only _ _ _)); · rfl)
    | ((with_reducible apply Only.after (makeLine_only _ _ _)); · rfl)
    | ((with_reducible apply Only.after (shadowFetch_only _ _ _ _)); · rfl)
    | ((with_reducible refine Only.fold _ ?_ ?_) <;> try intro x a hb)
    | split
    | (refine Only.update (by assumption) ?_; intro p; cases p <;> first | exact .inl rfl | exact .inr rfl)

theorem countShort_only (n : Nat) (y : Nat) (s : State) : Only [.outbox, .regs, .hl, .ic, .pm] s (countShort n y s) := by
  have sk := Only.refl [.outbox, .regs, .hl, .ic, .pm] s
  unfold countShort
  repeat' first
    | with_reducible assumption
    | (extract_lets +onlyGivenNames b; first | (refine Only.cut (Only [.outbox, .regs, .hl, .ic, .pm] s b) ?_ ?_ <;> first | (intro hb; clear_value b; refine Only.hold ?_) | intro hb | (unfold b; clear b)) | (((first | (have h0 : Nat := b; clear h0) | (have h0 : Bool := b; clear h0) | (have h0 : BitVec _ := b; clear h0) | (have h0 : List _ := b; clear h0)); clear_value b)) | (unfold b; clear b) | clear b)
    | ((with_reducible apply Only.after (State.bump_only _ _ _ _ _)); · rfl)
    | ((with_reducible apply Only.after (perfEvent_only _ _ _ _ _)); · rfl)
    | ((with_reducible apply Only.after (raise_only _ _)); · rfl)
    | ((with_reducible refine Only.fold _ ?_ ?_) <;> try intro x a hb)
    | split

theorem signRegion_only (n : Nat) (y : Nat) (line : List Word) (shadow : List Word) (s : State) (r : Nat) : Only [.keep] s (signRegion n y line shadow s r) := by
  have sk := Only.refl [.keep] s
  unfold signRegion
  repeat' first
    | with_reducible assumption
    | (extract_lets +onlyGivenNames b; first | (refine Only.cut (Only [.keep] s b) ?_ ?_ <;> first | (intro hb; clear_value b; refine Only.hold ?_) | intro hb | (unfold b; clear b)) | (((first | (have h0 : Nat := b; clear h0) | (have h0 : Bool := b; clear h0) | (have h0 : BitVec _ := b; clear h0) | (have h0 : List _ := b; clear h0)); clear_value b)) | (unfold b; clear b) | clear b)
    | ((with_reducible apply Only.after (State.setSig_only _ _ _ _)); · rfl)
    | split
    | (refine Only.update (by assumption) ?_; intro p; cases p <;> first | exact .inl rfl | exact .inr rfl)

theorem signHead_only (n : Nat) (y : Nat) (line : List Word) (shadow : List (Option Word)) (s : State) : Only [.fresh, .keep] s (signHead n y line shadow s) := by
  have sk := Only.refl [.fresh, .keep] s
  unfold signHead
  repeat' first
    | with_reducible assumption
    | (extract_lets +onlyGivenNames b; first | (refine Only.cut (Only [.fresh, .keep] s b) ?_ ?_ <;> first | (intro hb; clear_value b; refine Only.hold ?_) | intro hb | (unfold b; clear b)) | (((first | (have h0 : Nat := b; clear h0) | (have h0 : Bool := b; clear h0) | (have h0 : BitVec _ := b; clear h0) | (have h0 : List _ := b; clear h0)); clear_value b)) | (unfold b; clear b) | clear b)
    | ((with_reducible apply Only.after (State.draw_only _ _)); · rfl)
    | ((with_reducible apply Only.after (signRegion_only _ _ _ _ _ _)); · rfl)
    | ((with_reducible refine Only.fold _ ?_ ?_) <;> try intro x a hb)
    | split

theorem countLine_only (n : Nat) (y : Nat) (r : Raster) (s : State) : Only [.outbox, .hl, .ic, .pm] s (countLine n y r s) := by
  have sk := Only.refl [.outbox, .hl, .ic, .pm] s
  unfold countLine
  repeat' first
    | with_reducible assumption
    | (extract_lets +onlyGivenNames b; first | (refine Only.cut (Only [.outbox, .hl, .ic, .pm] s b) ?_ ?_ <;> first | (intro hb; clear_value b; refine Only.hold ?_) | intro hb | (unfold b; clear b)) | (((first | (have h0 : Nat := b; clear h0) | (have h0 : Bool := b; clear h0) | (have h0 : BitVec _ := b; clear h0) | (have h0 : List _ := b; clear h0)); clear_value b)) | (unfold b; clear b) | clear b)
    | ((with_reducible apply Only.after (perfEvent_only _ _ _ _ _)); · rfl)
    | ((with_reducible refine Only.fold _ ?_ ?_) <;> try intro x a hb)
    | split

theorem showLine_only (n : Nat) (y : Nat) (next : Bool) (s : State) : Only [.fresh, .outbox, .regs, .hl, .tap, .keep, .ic, .pm] s (showLine n y next s) := by
  have sk := Only.refl [.fresh, .outbox, .regs, .hl, .tap, .keep, .ic, .pm] s
  unfold showLine
  repeat' first
    | with_reducible assumption
    | (extract_lets +onlyGivenNames b; first | (refine Only.cut (Only [.fresh, .outbox, .regs, .hl, .tap, .keep, .ic, .pm] s b) ?_ ?_ <;> first | (intro hb; clear_value b; refine Only.hold ?_) | intro hb | (unfold b; clear b)) | (((first | (have h0 : Nat := b; clear h0) | (have h0 : Bool := b; clear h0) | (have h0 : BitVec _ := b; clear h0) | (have h0 : List _ := b; clear h0)); clear_value b)) | (unfold b; clear b) | clear b)
    | ((with_reducible apply Only.after (State.setKeepHead_only _ _ _)); · rfl)
    | ((with_reducible apply Only.after (countShort_only _ _ _)); · rfl)
    | ((with_reducible apply Only.after (signHead_only _ _ _ _ _)); · rfl)
    | ((with_reducible apply Only.after (countLine_only _ _ _ _)); · rfl)
    | split
    | (refine Only.update (by assumption) ?_; intro p; cases p <;> first | exact .inl rfl | exact .inr rfl)

theorem openWindow_only (n : Nat) (y : Nat) (next : Bool) (lost : List LostBurst) (s : State) : Only [.fresh, .outbox, .regs, .hl, .fabric, .fa, .tap, .keep, .si, .dict, .ic, .pm, .safety] s (openWindow n y next lost s) := by
  have sk := Only.refl [.fresh, .outbox, .regs, .hl, .fabric, .fa, .tap, .keep, .si, .dict, .ic, .pm, .safety] s
  unfold openWindow
  repeat' first
    | with_reducible assumption
    | (extract_lets +onlyGivenNames b; first | (refine Only.cut (Only [.fresh, .outbox, .regs, .hl, .fabric, .fa, .tap, .keep, .si, .dict, .ic, .pm, .safety] s b) ?_ ?_ <;> first | (intro hb; clear_value b; refine Only.hold ?_) | intro hb | (unfold b; clear b)) | (((first | (have h0 : Nat := b; clear h0) | (have h0 : Bool := b; clear h0) | (have h0 : BitVec _ := b; clear h0) | (have h0 : List _ := b; clear h0)); clear_value b)) | (unfold b; clear b) | clear b)
    | ((with_reducible apply Only.after (windowLayer_only _ _ _ _ _ _)); · rfl)
    | ((with_reducible apply Only.after (showLine_only _ _ _ _)); · rfl)
    | ((with_reducible refine Only.fold _ ?_ ?_) <;> try intro x a hb)
    | split

end Sys2Proof.Machine
end

