-- ==== Sys2Proof/Laws/OnlyApply.lean ====
section
/-! SUPPORT. The parts of the state that the operations of Apply may change. -/

set_option linter.all false

namespace Sys2Proof.Machine

theorem putRec_only (f : Nat) (wr : Nat) (rd : Nat) (r : DoneRec) (s : State) : Only [.fa] s (putRec f wr rd r s) := by
  have sk := Only.refl [.fa] s
  unfold putRec
  repeat' first
    | with_reducible assumption
    | (extract_lets +onlyGivenNames b; first | (unfold b; clear b) | clear b)
    | (refine Only.update (by assumption) ?_; intro p; cases p <;> first | exact .inl rfl | exact .inr rfl)

theorem storeRec_only (f : Nat) (r : DoneRec) (s : State) : Only [.regs, .fa] s (storeRec f r s) := by
  have sk := Only.refl [.regs, .fa] s
  unfold storeRec
  repeat' first
    | with_reducible assumption
    | (extract_lets +onlyGivenNames b; first | (refine Only.cut (Only [.regs, .fa] s b) ?_ ?_ <;> first | (intro hb; clear_value b; refine Only.hold ?_) | intro hb | (unfold b; clear b)) | (((first | (have h0 : Nat := b; clear h0) | (have h0 : Bool := b; clear h0) | (have h0 : BitVec _ := b; clear h0) | (have h0 : List _ := b; clear h0)); clear_value b)) | (unfold b; clear b) | clear b)
    | ((with_reducible apply Only.after (State.bump_only _ _ _ _ _)); · rfl)
    | ((with_reducible apply Only.after (putRec_only _ _ _ _ _)); · rfl)
    | split

theorem makeRec_only (ev : Nat) (detail : Nat) (port : Nat) (tag : Word) (head : Nat) (frame : Nat) (s : State) : Only [.fa] s (makeRec ev detail port tag head frame s) := by
  have sk := Only.refl [.fa] s
  unfold makeRec
  repeat' first
    | with_reducible assumption
    | (extract_lets +onlyGivenNames b; first | (refine Only.cut (Only [.fa] s b) ?_ ?_ <;> first | (intro hb; clear_value b; refine Only.hold ?_) | intro hb | (unfold b; clear b)) | (((first | (have h0 : Nat := b; clear h0) | (have h0 : Bool := b; clear h0) | (have h0 : BitVec _ := b; clear h0) | (have h0 : List _ := b; clear h0)); clear_value b)) | (unfold b; clear b) | clear b)
    | (refine Only.update (by assumption) ?_; intro p; cases p <;> first | exact .inl rfl | exact .inr rfl)

theorem flushRecs_only (s : State) : Only [.regs, .fa] s (flushRecs s) := by
  have sk := Only.refl [.regs, .fa] s
  unfold flushRecs
  repeat' first
    | with_reducible assumption
    | (extract_lets +onlyGivenNames b; first | (refine Only.cut (Only [.regs, .fa] s b) ?_ ?_ <;> first | (intro hb; clear_value b; refine Only.hold ?_) | intro hb | (unfold b; clear b)) | (((first | (have h0 : Nat := b; clear h0) | (have h0 : Bool := b; clear h0) | (have h0 : BitVec _ := b; clear h0) | (have h0 : List _ := b; clear h0)); clear_value b)) | (unfold b; clear b) | clear b)
    | ((with_reducible apply Only.after (storeRec_only _ _ _)); · rfl)
    | ((with_reducible refine Only.fold _ ?_ ?_) <;> try intro x a hb)
    | (refine Only.update (by assumption) ?_; intro p; cases p <;> first | exact .inl rfl | exact .inr rfl)

theorem leaveQueue_only (ev : Nat) (detail : Nat) (slot : Nat) (n : Nat) (e : QEntry) (s : State) : Only [.fabric, .fa] s (leaveQueue ev detail slot n e s) := by
  have sk := Only.refl [.fabric, .fa] s
  unfold leaveQueue
  repeat' first
    | with_reducible assumption
    | ((with_reducible apply Only.after (dropPin_only _ _)); · rfl)
    | ((with_reducible apply Only.after (makeRec_only _ _ _ _ _ _ _)); · rfl)

theorem emptyQueue_only (slot : Nat) (n : Nat) (s : State) : Only [.fabric, .fa] s (emptyQueue slot n s) := by
  have sk := Only.refl [.fabric, .fa] s
  unfold emptyQueue
  repeat' first
    | with_reducible assumption
    | (extract_lets +onlyGivenNames b; first | (refine Only.cut (Only [.fabric, .fa] s b) ?_ ?_ <;> first | (intro hb; clear_value b; refine Only.hold ?_) | intro hb | (unfold b; clear b)) | (((first | (have h0 : Nat := b; clear h0) | (have h0 : Bool := b; clear h0) | (have h0 : BitVec _ := b; clear h0) | (have h0 : List _ := b; clear h0)); clear_value b)) | (unfold b; clear b) | clear b)
    | ((with_reducible apply Only.after (State.setLayer_only _ _ _)); · rfl)
    | ((with_reducible apply Only.after (leaveQueue_only _ _ _ _ _ _)); · rfl)
    | ((with_reducible refine Only.fold _ ?_ ?_) <;> try intro x a hb)
    | (refine Only.update (by assumption) ?_; intro p; cases p <;> first | exact .inl rfl | exact .inr rfl)

theorem unpinShown_only (b : Shown) (s : State) : Only [.fabric] s (unpinShown b s) := by
  have sk := Only.refl [.fabric] s
  unfold unpinShown
  repeat' first
    | with_reducible assumption
    | (extract_lets +onlyGivenNames b; first | (unfold b; clear b) | clear b)
    | ((with_reducible apply Only.after (dropPin_only _ _)); · rfl)
    | split
    | (refine Only.update (by assumption) ?_; intro p; cases p <;> first | exact .inl rfl | exact .inr rfl)

theorem retireShown_only (slot : Nat) (n : Nat) (s : State) : Only [.fabric, .fa] s (retireShown slot n s) := by
  have sk := Only.refl [.fabric, .fa] s
  unfold retireShown
  repeat' first
    | with_reducible assumption
    | (extract_lets +onlyGivenNames b; first | (refine Only.cut (Only [.fabric, .fa] s b) ?_ ?_ <;> first | (intro hb; clear_value b; refine Only.hold ?_) | intro hb | (unfold b; clear b)) | (((first | (have h0 : Nat := b; clear h0) | (have h0 : Bool := b; clear h0) | (have h0 : BitVec _ := b; clear h0) | (have h0 : List _ := b; clear h0)); clear_value b)) | (unfold b; clear b) | clear b)
    | ((with_reducible apply Only.after (State.setLayer_only _ _ _)); · rfl)
    | ((with_reducible apply Only.after (makeRec_only _ _ _ _ _ _ _)); · rfl)
    | ((with_reducible apply Only.after (unpinShown_only _ _)); · rfl)
    | split
    | (refine Only.update (by assumption) ?_; intro p; cases p <;> first | exact .inl rfl | exact .inr rfl)

theorem resetSlot_only (slot : Nat) (n : Nat) (s : State) : Only [.fabric, .fa, .si] s (resetSlot slot n s) := by
  have sk := Only.refl [.fabric, .fa, .si] s
  unfold resetSlot
  repeat' first
    | with_reducible assumption
    | (extract_lets +onlyGivenNames b; first | (refine Only.cut (Only [.fabric, .fa, .si] s b) ?_ ?_ <;> first | (intro hb; clear_value b; refine Only.hold ?_) | intro hb | (unfold b; clear b)) | (((first | (have h0 : Nat := b; clear h0) | (have h0 : Bool := b; clear h0) | (have h0 : BitVec _ := b; clear h0) | (have h0 : List _ := b; clear h0)); clear_value b)) | (unfold b; clear b) | clear b)
    | ((with_reducible apply Only.after (State.setLayer_only _ _ _)); · rfl)
    | ((with_reducible apply Only.after (State.setRace_only _ _ _)); · rfl)
    | ((with_reducible apply Only.after (emptyQueue_only _ _ _)); · rfl)
    | ((with_reducible apply Only.after (retireShown_only _ _ _)); · rfl)
    | split
    | (refine Only.update (by assumption) ?_; intro p; cases p <;> first | exact .inl rfl | exact .inr rfl)

theorem dropFirstPin_only (old : Pin → Bool) (s : State) : Only [.fabric] s (dropFirstPin old s) := by
  have sk := Only.refl [.fabric] s
  unfold dropFirstPin
  repeat' first
    | with_reducible assumption
    | (extract_lets +onlyGivenNames b; first | (unfold b; clear b) | clear b)
    | (refine Only.update (by assumption) ?_; intro p; cases p <;> first | exact .inl rfl | exact .inr rfl)

theorem State.newSeq_only (s : State) : Only [.fa] s (State.newSeq s) := by
  have sk := Only.refl [.fa] s
  unfold State.newSeq
  repeat' first
    | with_reducible assumption
    | (extract_lets +onlyGivenNames b; first | (unfold b; clear b) | clear b)
    | (refine Only.update (by assumption) ?_; intro p; cases p <;> first | exact .inl rfl | exact .inr rfl)

theorem showDirect_only (slot : Nat) (s : State) : Only [.fabric, .fa] s (showDirect slot s) := by
  have sk := Only.refl [.fabric, .fa] s
  unfold showDirect
  repeat' first
    | with_reducible assumption
    | (extract_lets +onlyGivenNames b; first | (refine Only.cut (Only [.fabric, .fa] s b) ?_ ?_ <;> first | (intro hb; clear_value b; refine Only.hold ?_) | intro hb | (unfold b; clear b)) | (((first | (have h0 : Nat := b; clear h0) | (have h0 : Bool := b; clear h0) | (have h0 : BitVec _ := b; clear h0) | (have h0 : List _ := b; clear h0)); clear_value b)) | (unfold b; clear b) | clear b)
    | ((with_reducible apply Only.after (State.setLayer_only _ _ _)); · rfl)
    | ((with_reducible apply Only.after (unpinShown_only _ _)); · rfl)
    | ((with_reducible apply Only.after (State.newSeq_only _)); · rfl)
    | split
    | (refine Only.update (by assumption) ?_; intro p; cases p <;> first | exact .inl rfl | exact .inr rfl)

theorem repinFallback_only (k : Nat) (s : State) : Only [.fabric, .fa] s (repinFallback k s) := by
  have sk := Only.refl [.fabric, .fa] s
  unfold repinFallback
  repeat' first
    | with_reducible assumption
    | (extract_lets +onlyGivenNames b; first | (refine Only.cut (Only [.fabric, .fa] s b) ?_ ?_ <;> first | (intro hb; clear_value b; refine Only.hold ?_) | intro hb | (unfold b; clear b)) | (((first | (have h0 : Nat := b; clear h0) | (have h0 : Bool := b; clear h0) | (have h0 : BitVec _ := b; clear h0) | (have h0 : List _ := b; clear h0)); clear_value b)) | (unfold b; clear b) | clear b)
    | ((with_reducible apply Only.after (State.setLayer_only _ _ _)); · rfl)
    | ((with_reducible apply Only.after (requestPin_only _ _ _ _ _)); · rfl)
    | ((with_reducible apply Only.after (dropPin_only _ _)); · rfl)
    | ((with_reducible apply Only.after (State.newSeq_only _)); · rfl)
    | split
    | (refine Only.update (by assumption) ?_; intro p; cases p <;> first | exact .inl rfl | exact .inr rfl)

theorem retryPins_only (p : PinUse → Bool) (s : State) : Only [.fabric] s (retryPins p s) := by
  have sk := Only.refl [.fabric] s
  unfold retryPins
  repeat' first
    | with_reducible assumption
    | (extract_lets +onlyGivenNames b; first | (unfold b; clear b) | clear b)
    | split
    | (refine Only.update (by assumption) ?_; intro p; cases p <;> first | exact .inl rfl | exact .inr rfl)

theorem setGState_only (g : Nat) (x : GState) (s : State) : Only [.outbox, .hl, .groups, .ic, .pm] s (setGState g x s) := by
  have sk := Only.refl [.outbox, .hl, .groups, .ic, .pm] s
  unfold setGState
  repeat' first
    | with_reducible assumption
    | (extract_lets +onlyGivenNames b; first | (refine Only.cut (Only [.outbox, .hl, .groups, .ic, .pm] s b) ?_ ?_ <;> first | (intro hb; clear_value b; refine Only.hold ?_) | intro hb | (unfold b; clear b)) | (((first | (have h0 : Nat := b; clear h0) | (have h0 : Bool := b; clear h0) | (have h0 : BitVec _ := b; clear h0) | (have h0 : List _ := b; clear h0)); clear_value b)) | (unfold b; clear b) | clear b)
    | ((with_reducible apply Only.after (State.setPgroup_only _ _ _)); · rfl)
    | ((with_reducible apply Only.after (raise_only _ _)); · rfl)
    | split
    | (refine Only.update (by assumption) ?_; intro p; cases p <;> first | exact .inl rfl | exact .inr rfl)

theorem sendGroupStart_only (g : Nat) (at_ : Nat) (s : State) : Only [.outbox] s (sendGroupStart g at_ s) := by
  have sk := Only.refl [.outbox] s
  unfold sendGroupStart
  repeat' first
    | with_reducible assumption
    | ((with_reducible apply Only.after (State.send_only _ _)); · rfl)
    | split

theorem groupAnchored_only (g : Nat) (a : Nat) (gf : DWord) (s : State) : Only [.outbox, .groups] s (groupAnchored g a gf s) := by
  have sk := Only.refl [.outbox, .groups] s
  unfold groupAnchored
  repeat' first
    | with_reducible assumption
    | (extract_lets +onlyGivenNames b; first | (refine Only.cut (Only [.outbox, .groups] s b) ?_ ?_ <;> first | (intro hb; clear_value b; refine Only.hold ?_) | intro hb | (unfold b; clear b)) | (((first | (have h0 : Nat := b; clear h0) | (have h0 : Bool := b; clear h0) | (have h0 : BitVec _ := b; clear h0) | (have h0 : List _ := b; clear h0)); clear_value b)) | (unfold b; clear b) | clear b)
    | ((with_reducible apply Only.after (State.setPgroup_only _ _ _)); · rfl)
    | ((with_reducible apply Only.after (sendGroupStart_only _ _ _)); · rfl)
    | (refine Only.update (by assumption) ?_; intro p; cases p <;> first | exact .inl rfl | exact .inr rfl)

theorem groupStarts_only (g : Nat) (first : Nat) (f : Nat) (count : Nat) (s : State) : Only [.outbox] s (groupStarts g first f count s) := by
  have sk := Only.refl [.outbox] s
  unfold groupStarts
  repeat' first
    | with_reducible assumption
    | ((with_reducible apply Only.after (sendGroupStart_only _ _ _)); · rfl)
    | ((with_reducible refine Only.fold _ ?_ ?_) <;> try intro x a hb)

theorem advanceGroup_only (s : State) (g : Nat) : Only [.outbox, .groups] s (advanceGroup s g) := by
  have sk := Only.refl [.outbox, .groups] s
  unfold advanceGroup
  repeat' first
    | with_reducible assumption
    | (extract_lets +onlyGivenNames b; first | (refine Only.cut (Only [.outbox, .groups] s b) ?_ ?_ <;> first | (intro hb; clear_value b; refine Only.hold ?_) | intro hb | (unfold b; clear b)) | (((first | (have h0 : Nat := b; clear h0) | (have h0 : Bool := b; clear h0) | (have h0 : BitVec _ := b; clear h0) | (have h0 : List _ := b; clear h0)); clear_value b)) | (unfold b; clear b) | clear b)
    | ((with_reducible apply Only.after (State.setPgroup_only _ _ _)); · rfl)
    | ((with_reducible apply Only.after (groupAnchored_only _ _ _ _)); · rfl)
    | ((with_reducible apply Only.after (groupStarts_only _ _ _ _ _)); · rfl)
    | split
    | (refine Only.update (by assumption) ?_; intro p; cases p <;> first | exact .inl rfl | exact .inr rfl)

theorem advanceGroups_only (s : State) : Only [.outbox, .groups] s (advanceGroups s) := by
  have sk := Only.refl [.outbox, .groups] s
  unfold advanceGroups
  repeat' first
    | with_reducible assumption
    | ((with_reducible apply Only.after (advanceGroup_only _ _)); · rfl)
    | ((with_reducible refine Only.fold _ ?_ ?_) <;> try intro x a hb)

theorem originGroup_only (s : State) (g : Nat) : Only [.outbox, .groups] s (originGroup s g) := by
  have sk := Only.refl [.outbox, .groups] s
  unfold originGroup
  repeat' first
    | with_reducible assumption
    | ((with_reducible apply Only.after (groupAnchored_only _ _ _ _)); · rfl)
    | split

theorem originGroups_only (s : State) : Only [.outbox, .groups] s (originGroups s) := by
  have sk := Only.refl [.outbox, .groups] s
  unfold originGroups
  repeat' first
    | with_reducible assumption
    | ((with_reducible apply Only.after (originGroup_only _ _)); · rfl)
    | ((with_reducible refine Only.fold _ ?_ ?_) <;> try intro x a hb)

theorem applyRef_only (g : Nat) (s : State) : Only [.outbox, .hl, .groups, .ic, .pm] s (applyRef g s) := by
  have sk := Only.refl [.outbox, .hl, .groups, .ic, .pm] s
  unfold applyRef
  repeat' first
    | with_reducible assumption
    | (extract_lets +onlyGivenNames b; first | (refine Only.cut (Only [.outbox, .hl, .groups, .ic, .pm] s b) ?_ ?_ <;> first | (intro hb; clear_value b; refine Only.hold ?_) | intro hb | (unfold b; clear b)) | (((first | (have h0 : Nat := b; clear h0) | (have h0 : Bool := b; clear h0) | (have h0 : BitVec _ := b; clear h0) | (have h0 : List _ := b; clear h0)); clear_value b)) | (unfold b; clear b) | clear b)
    | ((with_reducible apply Only.after (State.setPgroup_only _ _ _)); · rfl)
    | ((with_reducible apply Only.after (setGState_only _ _ _)); · rfl)
    | split
    | (refine Only.update (by assumption) ?_; intro p; cases p <;> first | exact .inl rfl | exact .inr rfl)

theorem putSlot_only (s : State) (x : Linger) : Only [.regs, .fa] s (putSlot s x) := by
  have sk := Only.refl [.regs, .fa] s
  unfold putSlot
  repeat' first
    | with_reducible assumption
    | (extract_lets +onlyGivenNames b; first | (refine Only.cut (Only [.regs, .fa] s b) ?_ ?_ <;> first | (intro hb; clear_value b; refine Only.hold ?_) | intro hb | (unfold b; clear b)) | (((first | (have h0 : Nat := b; clear h0) | (have h0 : Bool := b; clear h0) | (have h0 : BitVec _ := b; clear h0) | (have h0 : List _ := b; clear h0)); clear_value b)) | (unfold b; clear b) | clear b)
    | ((with_reducible apply Only.after (State.setKey_only _ _ _)); · rfl)
    | ((with_reducible apply Only.after (State.setLayer_only _ _ _)); · rfl)
    | ((with_reducible refine Only.fold _ ?_ ?_) <;> try intro x a hb)

theorem seenBy_only {l : List Part} {o s : State} {n : Nat} {f : State → State} (hl : Part.within [.regs, .fa] l = true)
    (hf : ∀ x, Only l o x → Only l o (f x)) (h : Only l o s) : Only l o (seenBy n f s) := by
  have hfa : l.contains .fa = true := Part.within_mem hl rfl
  have put : ∀ (w : List Linger) (t : State), Only l o t → Only l o (w.foldl putSlot t) :=
    fun w t ht => Only.fold w ht (fun x a hx => hx.trans ((putSlot_only x a).mono hl))
  unfold seenBy
  extract_lets now t u
  refine put _ _ (Only.update (hf _ (put _ _ h)) ?_)
  intro p; cases p <;> first | exact .inl hfa | exact .inr rfl

theorem lingerSlot_only (before : State) (slot : Nat) (s : State) : Only [.fa] s (lingerSlot before slot s) := by
  have sk := Only.refl [.fa] s
  unfold lingerSlot
  repeat' first
    | with_reducible assumption
    | (extract_lets +onlyGivenNames b; first | (unfold b; clear b) | clear b)
    | ((with_reducible apply Only.after (State.setLayer_only _ _ _)); · rfl)
    | (refine Only.update (by assumption) ?_; intro p; cases p <;> first | exact .inl rfl | exact .inr rfl)

theorem endLinger_only (n : Nat) (s : State) : Only [.fabric, .fa, .si] s (endLinger n s) := by
  have sk := Only.refl [.fabric, .fa, .si] s
  unfold endLinger
  repeat' first
    | with_reducible assumption
    | (extract_lets +onlyGivenNames b; first | (refine Only.cut (Only [.fabric, .fa, .si] s b) ?_ ?_ <;> first | (intro hb; clear_value b; refine Only.hold ?_) | intro hb | (unfold b; clear b)) | (((first | (have h0 : Nat := b; clear h0) | (have h0 : Bool := b; clear h0) | (have h0 : BitVec _ := b; clear h0) | (have h0 : List _ := b; clear h0)); clear_value b)) | (unfold b; clear b) | clear b)
    | ((with_reducible apply Only.after (State.setLayer_only _ _ _)); · rfl)
    | ((with_reducible apply Only.after (resetSlot_only _ _ _)); · rfl)
    | ((with_reducible refine Only.fold _ ?_ ?_) <;> try intro x a hb)
    | (refine Only.update (by assumption) ?_; intro p; cases p <;> first | exact .inl rfl | exact .inr rfl)

theorem leaveHead_only (before : State) (slot : Nat) (s : State) : Only [.fabric, .fa, .si] s (leaveHead before slot s) := by
  have sk := Only.refl [.fabric, .fa, .si] s
  unfold leaveHead
  repeat' first
    | with_reducible assumption
    | (extract_lets +onlyGivenNames b; first | (refine Only.cut (Only [.fabric, .fa, .si] s b) ?_ ?_ <;> first | (intro hb; clear_value b; refine Only.hold ?_) | intro hb | (unfold b; clear b)) | (((first | (have h0 : Nat := b; clear h0) | (have h0 : Bool := b; clear h0) | (have h0 : BitVec _ := b; clear h0) | (have h0 : List _ := b; clear h0)); clear_value b)) | (unfold b; clear b) | clear b)
    | ((with_reducible apply Only.after (State.setLayer_only _ _ _)); · rfl)
    | ((with_reducible apply Only.after (resetSlot_only _ _ _)); · rfl)
    | ((with_reducible apply Only.after (lingerSlot_only _ _ _)); · rfl)
    | split
    | (refine Only.update (by assumption) ?_; intro p; cases p <;> first | exact .inl rfl | exact .inr rfl)

theorem applyEffect_only (before : State) (s : State) (w : Wr) : Only [.outbox, .hl, .heads, .groups, .fabric, .fa, .keep, .si, .ic, .pm] s (applyEffect before s w) := by
  have sk := Only.refl [.outbox, .hl, .heads, .groups, .fabric, .fa, .keep, .si, .ic, .pm] s
  unfold applyEffect
  repeat' first
    | with_reducible assumption
    | (extract_lets +onlyGivenNames b; first | (refine Only.cut (Only [.outbox, .hl, .heads, .groups, .fabric, .fa, .keep, .si, .ic, .pm] s b) ?_ ?_ <;> first | (intro hb; clear_value b; refine Only.hold ?_) | intro hb | (unfold b; clear b)) | (((first | (have h0 : Nat := b; clear h0) | (have h0 : Bool := b; clear h0) | (have h0 : BitVec _ := b; clear h0) | (have h0 : List _ := b; clear h0)); clear_value b)) | (unfold b; clear b) | clear b)
    | ((with_reducible apply Only.after (State.setHead_only _ _ _)); · rfl)
    | ((with_reducible apply Only.after (State.setLayer_only _ _ _)); · rfl)
    | ((with_reducible apply Only.after (State.setSig_only _ _ _ _)); · rfl)
    | ((with_reducible apply Only.after (showDirect_only _ _)); · rfl)
    | ((with_reducible apply Only.after (repinFallback_only _ _)); · rfl)
    | ((with_reducible apply Only.after (applyRef_only _ _)); · rfl)
    | ((with_reducible apply Only.after (leaveHead_only _ _ _)); · rfl)
    | split
    | (refine Only.update (by assumption) ?_; intro p; cases p <;> first | exact .inl rfl | exact .inr rfl)

theorem overlay_only (ws : List Wr) (s : State) : Only [.regs] s (overlay ws s) := by
  have sk := Only.refl [.regs] s
  unfold overlay
  repeat' first
    | with_reducible assumption
    | ((with_reducible apply Only.after (State.setKey_only _ _ _)); · rfl)
    | ((with_reducible refine Only.fold _ ?_ ?_) <;> try intro x a hb)

theorem settleQuads_only (s : State) : Only [.outbox, .oq] s (settleQuads s) := by
  have sk := Only.refl [.outbox, .oq] s
  unfold settleQuads
  repeat' first
    | with_reducible assumption
    | ((with_reducible apply Only.after (settleQuad_only _ _)); · rfl)
    | ((with_reducible refine Only.fold _ ?_ ?_) <;> try intro x a hb)

theorem repinSlot_only (s : State) (slot : Nat) : Only [.fabric] s (repinSlot s slot) := by
  have sk := Only.refl [.fabric] s
  unfold repinSlot
  repeat' first
    | with_reducible assumption
    | (extract_lets +onlyGivenNames b; first | (unfold b; clear b) | clear b)
    | split
    | (refine Only.update (by assumption) ?_; intro p; cases p <;> first | exact .inl rfl | exact .inr rfl)

theorem applyWrites_only (n : Nat) (ws : List Wr) (before : State) : Only [.fresh, .outbox, .regs, .hl, .heads, .groups, .fabric, .fa, .keep, .si, .oq, .dict, .ic, .pm] before (applyWrites n ws before) := by
  have sk := Only.refl [.fresh, .outbox, .regs, .hl, .heads, .groups, .fabric, .fa, .keep, .si, .oq, .dict, .ic, .pm] before
  unfold applyWrites
  repeat' first
    | with_reducible assumption
    | (extract_lets +onlyGivenNames b; first | (refine Only.cut (Only [.fresh, .outbox, .regs, .hl, .heads, .groups, .fabric, .fa, .keep, .si, .oq, .dict, .ic, .pm] before b) ?_ ?_ <;> first | (intro hb; clear_value b; refine Only.hold ?_) | intro hb | (unfold b; clear b)) | (((first | (have h0 : Nat := b; clear h0) | (have h0 : Bool := b; clear h0) | (have h0 : BitVec _ := b; clear h0) | (have h0 : List _ := b; clear h0)); clear_value b)) | (unfold b; clear b) | clear b)
    | ((with_reducible apply Only.after (enforceUnavailable_only _ _)); · rfl)
    | ((with_reducible apply Only.after (originGroups_only _)); · rfl)
    | ((with_reducible apply Only.after (applyEffect_only _ _ _)); · rfl)
    | ((with_reducible apply Only.after (overlay_only _ _)); · rfl)
    | ((with_reducible apply Only.after (settleQuads_only _)); · rfl)
    | ((with_reducible apply Only.after (repinSlot_only _ _)); · rfl)
    | ((with_reducible refine Only.fold _ ?_ ?_) <;> try intro x a hb)
    | split

theorem tryWith_only {t : State} {images : List (Option Image)} {n : Nat} {ws : List Wr} {s : State} (e : tryWith images n ws s = .ok t) : Only [.fresh, .outbox, .regs, .hl, .heads, .groups, .fabric, .fa, .keep, .si, .oq, .dict, .ic, .pm] s t := by
  have sk := Only.refl [.fresh, .outbox, .regs, .hl, .heads, .groups, .fabric, .fa, .keep, .si, .oq, .dict, .ic, .pm] s
  unfold tryWith at e
  extract_lets b at e
  have hb : Only [.fresh, .outbox, .regs, .hl, .heads, .groups, .fabric, .fa, .keep, .si, .oq, .dict, .ic, .pm] s b := (advanceGroups_only _).mono rfl
  clear_value b
  split at e
  · cases e
  · cases e
    repeat' first
      | with_reducible assumption
      | (extract_lets +onlyGivenNames b; first | (refine Only.cut (Only [.fresh, .outbox, .regs, .hl, .heads, .groups, .fabric, .fa, .keep, .si, .oq, .dict, .ic, .pm] s b) ?_ ?_ <;> first | (intro hb; clear_value b; refine Only.hold ?_) | intro hb | (unfold b; clear b)) | (refine Only.cut (Only [.fresh, .outbox, .regs, .hl, .heads, .groups, .fabric, .fa, .keep, .si, .oq, .dict, .ic, .pm] s b.1) ?_ ?_ <;> first | (intro hb; clear_value b; refine Only.hold ?_) | intro hb | (unfold b; clear b)) | (((first | (have h0 : Nat := b; clear h0) | (have h0 : Bool := b; clear h0) | (have h0 : BitVec _ := b; clear h0) | (have h0 : List _ := b; clear h0)); clear_value b)) | (unfold b; clear b) | clear b)
      | ((with_reducible apply Only.after (advanceGroups_only _)); · rfl)
      | ((with_reducible apply Only.after (overlay_only _ _)); · rfl)
      | ((with_reducible apply Only.after (applyWrites_only _ _ _)); · rfl)
      | with_reducible refine Only.fst (by assumption) ?_
      | ((with_reducible refine Only.fold _ ?_ ?_) <;> try intro x a hb)
      | ((with_reducible refine Only.foldP _ ?_ ?_) <;> try (intro x a hb; rcases x with ⟨x, xr⟩))
      | split
      | (refine Only.update (by assumption) ?_; intro p; cases p <;> first | exact .inl rfl | exact .inr rfl)
      | (refine Only.update ?_ ?_; (with_reducible refine Only.fst (by assumption) ?_); rotate_left; intro p; cases p <;> first | exact .inl rfl | exact .inr rfl)

theorem tryItem_only {t : State} {n : Nat} {ws : List Wr} {s : State} (e : tryItem n ws s = .ok t) : Only [.fresh, .outbox, .regs, .hl, .heads, .groups, .fabric, .fa, .keep, .si, .oq, .dict, .ic, .pm] s t :=
  tryWith_only e

theorem recordReject_only (n : Nat) (code : Nat) (ws : List Wr) (s : State) : Only [.lastReject, .oq] s (recordReject n code ws s) := by
  have sk := Only.refl [.lastReject, .oq] s
  unfold recordReject
  repeat' first
    | with_reducible assumption
    | (extract_lets +onlyGivenNames b; first | (refine Only.cut (Only [.lastReject, .oq] s b) ?_ ?_ <;> first | (intro hb; clear_value b; refine Only.hold ?_) | intro hb | (unfold b; clear b)) | (((first | (have h0 : Nat := b; clear h0) | (have h0 : Bool := b; clear h0) | (have h0 : BitVec _ := b; clear h0) | (have h0 : List _ := b; clear h0)); clear_value b)) | (unfold b; clear b) | clear b)
    | ((with_reducible apply Only.after (State.setEgress_only _ _ _)); · rfl)
    | ((with_reducible refine Only.fold _ ?_ ?_) <;> try intro x a hb)
    | split
    | (refine Only.update (by assumption) ?_; intro p; cases p <;> first | exact .inl rfl | exact .inr rfl)

theorem dropDirect_only (ws : List Wr) (s : State) : Only [.regs, .fabric] s (dropDirect ws s) := by
  have sk := Only.refl [.regs, .fabric] s
  unfold dropDirect
  repeat' first
    | with_reducible assumption
    | (extract_lets +onlyGivenNames b; first | (unfold b; clear b) | clear b)
    | ((with_reducible apply Only.after (dropFirstPin_only _ _)); · rfl)
    | ((with_reducible apply Only.after (overlay_only _ _)); · rfl)
    | ((with_reducible refine Only.fold _ ?_ ?_) <;> try intro x a hb)
    | split
    | (refine Only.update (by assumption) ?_; intro p; cases p <;> first | exact .inl rfl | exact .inr rfl)

theorem showAgain_only (slots : List Nat) (s : State) : Only [.fa] s (showAgain slots s) := by
  have sk := Only.refl [.fa] s
  unfold showAgain
  repeat' first
    | with_reducible assumption
    | (extract_lets +onlyGivenNames b; first | (unfold b; clear b) | clear b)
    | ((with_reducible apply Only.after (State.setLayer_only _ _ _)); · rfl)
    | ((with_reducible refine Only.fold _ ?_ ?_) <;> try intro x a hb)
    | split
    | (refine Only.update (by assumption) ?_; intro p; cases p <;> first | exact .inl rfl | exact .inr rfl)

theorem applyDirect_only (n : Nat) (ws : List Wr) (s : State) : Only [.fresh, .outbox, .regs, .lastReject, .hl, .heads, .groups, .fabric, .fa, .keep, .si, .oq, .dict, .ic, .pm] s (applyDirect n ws s) := by
  have sk := Only.refl [.fresh, .outbox, .regs, .lastReject, .hl, .heads, .groups, .fabric, .fa, .keep, .si, .oq, .dict, .ic, .pm] s
  unfold applyDirect
  repeat' first
    | with_reducible assumption
    | (extract_lets +onlyGivenNames b; first | (unfold b; clear b) | clear b)
    | ((with_reducible apply Only.after (tryItem_only (by assumption))); · rfl)
    | ((with_reducible apply Only.after (recordReject_only _ _ _ _)); · rfl)
    | ((with_reducible apply Only.after (dropDirect_only _ _)); · rfl)
    | ((with_reducible apply Only.after (showAgain_only _ _)); · rfl)
    | split
    | (refine Only.update (by assumption) ?_; intro p; cases p <;> first | exact .inl rfl | exact .inr rfl)

end Sys2Proof.Machine
end

