-- ==== Sys2Proof/Laws/OnlySwitch.lean ====
section
/-! SUPPORT. The parts of the state that the operations of Switch may change. -/

set_option linter.all false

namespace Sys2Proof.Machine

theorem writeProgram_only (l : Nat) (ws : List Word) (s : State) : Only [.regs] s (writeProgram l ws s) := by
  have sk := Only.refl [.regs] s
  unfold writeProgram
  repeat' first
    | with_reducible assumption
    | ((with_reducible apply Only.after (State.setReg_only _ _ _)); · rfl)
    | ((with_reducible refine Only.fold _ ?_ ?_) <;> try intro x a hb)

theorem loadLantern_only (l : Nat) (ws : List Word) (tick : Nat) (s : State) : Only [.regs, .lanterns] s (loadLantern l ws tick s) := by
  have sk := Only.refl [.regs, .lanterns] s
  unfold loadLantern
  repeat' first
    | with_reducible assumption
    | (extract_lets +onlyGivenNames b; first | (unfold b; clear b) | clear b)
    | ((with_reducible apply Only.after (State.setLantern_only _ _ _)); · rfl)
    | ((with_reducible apply Only.after (writeProgram_only _ _ _)); · rfl)
    | (refine Only.update (by assumption) ?_; intro p; cases p <;> first | exact .inl rfl | exact .inr rfl)

theorem placeLantern_only (i : Image) (tick : Nat) (l : Nat) (s : State) : Only [.regs, .lanterns] s (placeLantern i tick l s) := by
  have sk := Only.refl [.regs, .lanterns] s
  unfold placeLantern
  repeat' first
    | with_reducible assumption
    | (extract_lets +onlyGivenNames b; first | (unfold b; clear b) | clear b)
    | ((with_reducible apply Only.after (haltLantern_only _ _)); · rfl)
    | ((with_reducible apply Only.after (loadLantern_only _ _ _ _)); · rfl)
    | split
    | (refine Only.update (by assumption) ?_; intro p; cases p <;> first | exact .inl rfl | exact .inr rfl)

theorem placeIdle_only (i : Image) (n : Nat) (s : State) : Only [.sched, .lanterns] s (placeIdle i n s) := by
  have sk := Only.refl [.sched, .lanterns] s
  unfold placeIdle
  repeat' first
    | with_reducible assumption
    | (extract_lets +onlyGivenNames b; first | (refine Only.cut (Only [.sched, .lanterns] s b) ?_ ?_ <;> first | (intro hb; clear_value b; refine Only.hold ?_) | intro hb | (unfold b; clear b)) | (((first | (have h0 : Nat := b; clear h0) | (have h0 : Bool := b; clear h0) | (have h0 : BitVec _ := b; clear h0) | (have h0 : List _ := b; clear h0)); clear_value b)) | (unfold b; clear b) | clear b)
    | ((with_reducible apply Only.after (haltLantern_only _ _)); · rfl)
    | split
    | (refine Only.update (by assumption) ?_; intro p; cases p <;> first | exact .inl rfl | exact .inr rfl)

theorem placeDue_only (i : Image) (n : Nat) (tick : Nat) (s : State) : Only [.regs, .sched, .lanterns] s (placeDue i n tick s) := by
  have sk := Only.refl [.regs, .sched, .lanterns] s
  unfold placeDue
  repeat' first
    | with_reducible assumption
    | (extract_lets +onlyGivenNames b; first | (refine Only.cut (Only [.regs, .sched, .lanterns] s b) ?_ ?_ <;> first | (intro hb; clear_value b; refine Only.hold ?_) | intro hb | (unfold b; clear b)) | (((first | (have h0 : Nat := b; clear h0) | (have h0 : Bool := b; clear h0) | (have h0 : BitVec _ := b; clear h0) | (have h0 : List _ := b; clear h0)); clear_value b)) | (unfold b; clear b) | clear b)
    | ((with_reducible apply Only.after (placeLantern_only _ _ _ _)); · rfl)
    | ((with_reducible refine Only.fold _ ?_ ?_) <;> try intro x a hb)
    | split
    | (refine Only.update (by assumption) ?_; intro p; cases p <;> first | exact .inl rfl | exact .inr rfl)

theorem restartLantern_only (tick : Nat) (s : State) (l : Nat) : Only [.regs, .lanterns] s (restartLantern tick s l) := by
  have sk := Only.refl [.regs, .lanterns] s
  unfold restartLantern
  repeat' first
    | with_reducible assumption
    | ((with_reducible apply Only.after (loadLantern_only _ _ _ _)); · rfl)
    | split

theorem placeLanterns_only (n : Nat) (tick : Nat) (s : State) : Only [.regs, .sched, .lanterns] s (placeLanterns n tick s) := by
  have sk := Only.refl [.regs, .sched, .lanterns] s
  unfold placeLanterns
  repeat' first
    | with_reducible assumption
    | (extract_lets +onlyGivenNames b; first | (unfold b; clear b) | clear b)
    | ((with_reducible apply Only.after (placeDue_only _ _ _ _)); · rfl)
    | ((with_reducible apply Only.after (restartLantern_only _ _ _)); · rfl)
    | ((with_reducible refine Only.fold _ ?_ ?_) <;> try intro x a hb)
    | split
    | (refine Only.update (by assumption) ?_; intro p; cases p <;> first | exact .inl rfl | exact .inr rfl)

theorem rejudgeRing_only (s : State) (x : Nat) : Only [.si] s (rejudgeRing s x) := by
  have sk := Only.refl [.si] s
  unfold rejudgeRing
  repeat' first
    | with_reducible assumption
    | (extract_lets +onlyGivenNames b; first | (refine Only.cut (Only [.si] s b) ?_ ?_ <;> first | (intro hb; clear_value b; refine Only.hold ?_) | intro hb | (unfold b; clear b)) | (((first | (have h0 : Nat := b; clear h0) | (have h0 : Bool := b; clear h0) | (have h0 : BitVec _ := b; clear h0) | (have h0 : List _ := b; clear h0)); clear_value b)) | (unfold b; clear b) | clear b)
    | ((with_reducible apply Only.after (State.setStream_only _ _ _)); · rfl)
    | (refine Only.update (by assumption) ?_; intro p; cases p <;> first | exact .inl rfl | exact .inr rfl)

theorem rejudgeRings_only (s : State) : Only [.si] s (rejudgeRings s) := by
  have sk := Only.refl [.si] s
  unfold rejudgeRings
  repeat' first
    | with_reducible assumption
    | ((with_reducible apply Only.after (rejudgeRing_only _ _)); · rfl)
    | ((with_reducible refine Only.fold _ ?_ ?_) <;> try intro x a hb)

theorem applyEntry_only (n : Nat) (i : Image) (s : State) : Only [.fresh, .outbox, .regs, .hl, .heads, .groups, .fabric, .fa, .keep, .si, .oq, .dict, .ic, .pm] s (applyEntry n i s) := by
  have sk := Only.refl [.fresh, .outbox, .regs, .hl, .heads, .groups, .fabric, .fa, .keep, .si, .oq, .dict, .ic, .pm] s
  unfold applyEntry
  repeat' first
    | with_reducible assumption
    | ((with_reducible apply Only.after (advanceGroups_only _)); · rfl)
    | ((with_reducible apply Only.after (applyWrites_only _ _ _)); · rfl)
    | split

theorem hideMoved_only (old : Image) (new : Image) (done : BitVec 16) (n : Nat) (s : State) : Only [.fa] s (hideMoved old new done n s) := by
  have sk := Only.refl [.fa] s
  unfold hideMoved
  repeat' first
    | with_reducible assumption
    | (extract_lets +onlyGivenNames b; first | (refine Only.cut (Only [.fa] s b) ?_ ?_ <;> first | (intro hb; clear_value b; refine Only.hold ?_) | intro hb | (unfold b; clear b)) | (((first | (have h0 : Nat := b; clear h0) | (have h0 : Bool := b; clear h0) | (have h0 : BitVec _ := b; clear h0) | (have h0 : List _ := b; clear h0)); clear_value b)) | (unfold b; clear b) | clear b)
    | ((with_reducible apply Only.after (State.setLayer_only _ _ _)); · rfl)
    | ((with_reducible refine Only.fold _ ?_ ?_) <;> try intro x a hb)
    | split
    | (refine Only.update (by assumption) ?_; intro p; cases p <;> first | exact .inl rfl | exact .inr rfl)

theorem queueStore_only (key : Nat) (l : List Byte) (s : State) : Only [.dict] s (queueStore key l s) := by
  have sk := Only.refl [.dict] s
  unfold queueStore
  repeat' first
    | with_reducible assumption
    | (extract_lets +onlyGivenNames b; first | (unfold b; clear b) | clear b)
    | (refine Only.update (by assumption) ?_; intro p; cases p <;> first | exact .inl rfl | exact .inr rfl)

theorem storeWear_only (s : State) : Only [.dict] s (storeWear s) := by
  have sk := Only.refl [.dict] s
  unfold storeWear
  repeat' first
    | with_reducible assumption
    | ((with_reducible apply Only.after (queueStore_only _ _ _)); · rfl)

theorem spireSwitched_only (s : State) : Only [.outbox, .hl, .dict, .ic, .pm, .therm] s (spireSwitched s) := by
  have sk := Only.refl [.outbox, .hl, .dict, .ic, .pm, .therm] s
  unfold spireSwitched
  repeat' first
    | with_reducible assumption
    | (extract_lets +onlyGivenNames b; first | (unfold b; clear b) | clear b)
    | ((with_reducible apply Only.after (raise_only _ _)); · rfl)
    | ((with_reducible apply Only.after (storeWear_only _)); · rfl)
    | split
    | (refine Only.update (by assumption) ?_; intro p; cases p <;> first | exact .inl rfl | exact .inr rfl)

theorem completeSwitch_only (w : Switch) (s : State) : Only [.outbox, .hl, .sched, .lanterns, .dict, .ic, .pm, .therm] s (completeSwitch w s) := by
  have sk := Only.refl [.outbox, .hl, .sched, .lanterns, .dict, .ic, .pm, .therm] s
  unfold completeSwitch
  repeat' first
    | with_reducible assumption
    | (extract_lets +onlyGivenNames b; first | (refine Only.cut (Only [.outbox, .hl, .sched, .lanterns, .dict, .ic, .pm, .therm] s b) ?_ ?_ <;> first | (intro hb; clear_value b; refine Only.hold ?_) | intro hb | (unfold b; clear b)) | (((first | (have h0 : Nat := b; clear h0) | (have h0 : Bool := b; clear h0) | (have h0 : BitVec _ := b; clear h0) | (have h0 : List _ := b; clear h0)); clear_value b)) | (unfold b; clear b) | clear b)
    | ((with_reducible apply Only.after (State.setBank_only _ _ _)); · rfl)
    | ((with_reducible apply Only.after (placeIdle_only _ _ _)); · rfl)
    | ((with_reducible apply Only.after (spireSwitched_only _)); · rfl)
    | ((with_reducible refine Only.fold _ ?_ ?_) <;> try intro x a hb)
    | split
    | (refine Only.update (by assumption) ?_; intro p; cases p <;> first | exact .inl rfl | exact .inr rfl)

theorem applySwitch_only (n : Nat) (s : State) : Only [.fresh, .outbox, .regs, .hl, .heads, .groups, .sched, .fabric, .fa, .keep, .lanterns, .si, .oq, .dict, .ic, .pm, .therm] s (applySwitch n s) := by
  have sk := Only.refl [.fresh, .outbox, .regs, .hl, .heads, .groups, .sched, .fabric, .fa, .keep, .lanterns, .si, .oq, .dict, .ic, .pm, .therm] s
  unfold applySwitch
  repeat' first
    | with_reducible assumption
    | (extract_lets +onlyGivenNames b; first | (refine Only.cut (Only [.fresh, .outbox, .regs, .hl, .heads, .groups, .sched, .fabric, .fa, .keep, .lanterns, .si, .oq, .dict, .ic, .pm, .therm] s b) ?_ ?_ <;> first | (intro hb; clear_value b; refine Only.hold ?_) | intro hb | (unfold b; clear b)) | (((first | (have h0 : Nat := b; clear h0) | (have h0 : Bool := b; clear h0) | (have h0 : BitVec _ := b; clear h0) | (have h0 : List _ := b; clear h0)); clear_value b)) | (unfold b; clear b) | clear b)
    | ((with_reducible apply Only.after (State.setHead_only _ _ _)); · rfl)
    | ((with_reducible apply Only.after (rejudgeRings_only _)); · rfl)
    | ((with_reducible apply Only.after (applyEntry_only _ _ _)); · rfl)
    | ((with_reducible apply Only.after (hideMoved_only _ _ _ _ _)); · rfl)
    | ((with_reducible apply Only.after (completeSwitch_only _ _)); · rfl)
    | split
    | (refine Only.update (by assumption) ?_; intro p; cases p <;> first | exact .inl rfl | exact .inr rfl)

theorem applyFirstEntry_only (n : Nat) (s : State) : Only [.fresh, .outbox, .regs, .hl, .heads, .groups, .sched, .fabric, .fa, .keep, .si, .oq, .dict, .ic, .pm] s (applyFirstEntry n s) := by
  have sk := Only.refl [.fresh, .outbox, .regs, .hl, .heads, .groups, .sched, .fabric, .fa, .keep, .si, .oq, .dict, .ic, .pm] s
  unfold applyFirstEntry
  repeat' first
    | with_reducible assumption
    | (extract_lets +onlyGivenNames b; first | (refine Only.cut (Only [.fresh, .outbox, .regs, .hl, .heads, .groups, .sched, .fabric, .fa, .keep, .si, .oq, .dict, .ic, .pm] s b) ?_ ?_ <;> first | (intro hb; clear_value b; refine Only.hold ?_) | intro hb | (unfold b; clear b)) | (((first | (have h0 : Nat := b; clear h0) | (have h0 : Bool := b; clear h0) | (have h0 : BitVec _ := b; clear h0) | (have h0 : List _ := b; clear h0)); clear_value b)) | (unfold b; clear b) | clear b)
    | ((with_reducible apply Only.after (applyEntry_only _ _ _)); · rfl)
    | split
    | (refine Only.update (by assumption) ?_; intro p; cases p <;> first | exact .inl rfl | exact .inr rfl)

theorem noteFinal_only (t : Nat) (s : State) : Only [.fresh, .dict] s (noteFinal t s) := by
  have sk := Only.refl [.fresh, .dict] s
  unfold noteFinal
  repeat' first
    | with_reducible assumption
    | (extract_lets +onlyGivenNames b; first | (unfold b; clear b) | clear b)
    | ((with_reducible apply Only.after (noteFree_only _ _ _ _ _)); · rfl)
    | split
    | (refine Only.update (by assumption) ?_; intro p; cases p <;> first | exact .inl rfl | exact .inr rfl)

theorem finishTicket_only (t : Nat) (s : State) : Only [.fresh, .outbox, .hl, .tx, .dict, .ic, .pm] s (finishTicket t s) := by
  have sk := Only.refl [.fresh, .outbox, .hl, .tx, .dict, .ic, .pm] s
  unfold finishTicket
  repeat' first
    | with_reducible assumption
    | (extract_lets +onlyGivenNames b; first | (refine Only.cut (Only [.fresh, .outbox, .hl, .tx, .dict, .ic, .pm] s b) ?_ ?_ <;> first | (intro hb; clear_value b; refine Only.hold ?_) | intro hb | (unfold b; clear b)) | (((first | (have h0 : Nat := b; clear h0) | (have h0 : Bool := b; clear h0) | (have h0 : BitVec _ := b; clear h0) | (have h0 : List _ := b; clear h0)); clear_value b)) | (unfold b; clear b) | clear b)
    | ((with_reducible apply Only.after (State.setTicket_only _ _ _)); · rfl)
    | ((with_reducible apply Only.after (raise_only _ _)); · rfl)
    | ((with_reducible apply Only.after (noteFinal_only _ _)); · rfl)
    | split
    | (refine Only.update (by assumption) ?_; intro p; cases p <;> first | exact .inl rfl | exact .inr rfl)

theorem shareResult_only (t : Nat) (n : Nat) (code : Nat) (frame : DWord) (s : State) : Only [.fresh, .outbox, .hl, .tx, .dict, .ic, .pm] s (shareResult t n code frame s) := by
  have sk := Only.refl [.fresh, .outbox, .hl, .tx, .dict, .ic, .pm] s
  unfold shareResult
  repeat' first
    | with_reducible assumption
    | (extract_lets +onlyGivenNames b; first | (refine Only.cut (Only [.fresh, .outbox, .hl, .tx, .dict, .ic, .pm] s b) ?_ ?_ <;> first | (intro hb; clear_value b; refine Only.hold ?_) | intro hb | (unfold b; clear b)) | (((first | (have h0 : Nat := b; clear h0) | (have h0 : Bool := b; clear h0) | (have h0 : BitVec _ := b; clear h0) | (have h0 : List _ := b; clear h0)); clear_value b)) | (unfold b; clear b) | clear b)
    | ((with_reducible apply Only.after (State.setTicket_only _ _ _)); · rfl)
    | ((with_reducible apply Only.after (finishTicket_only _ _)); · rfl)
    | split
    | (refine Only.update (by assumption) ?_; intro p; cases p <;> first | exact .inl rfl | exact .inr rfl)

theorem tryShare_only {t' : State} {t n : Nat} {ws : List Wr} {s : State} (e : tryShare t n ws s = .ok t') : Only [.fresh, .outbox, .regs, .hl, .heads, .groups, .fabric, .fa, .keep, .si, .oq, .dict, .ic, .pm] s t' := by
  unfold tryShare at e
  split at e
  · split at e
    · exact tryWith_only e
    · exact tryItem_only e
  · exact tryItem_only e

theorem applyShare_only (t : Nat) (y : Share) (s : State) : Only [.fresh, .outbox, .regs, .hl, .heads, .groups, .fabric, .fa, .keep, .si, .oq, .tx, .dict, .ic, .pm] s (applyShare t y s) := by
  have sk := Only.refl [.fresh, .outbox, .regs, .hl, .heads, .groups, .fabric, .fa, .keep, .si, .oq, .tx, .dict, .ic, .pm] s
  unfold applyShare
  repeat' first
    | with_reducible assumption
    | (extract_lets +onlyGivenNames b; first | (refine Only.cut (Only [.fresh, .outbox, .regs, .hl, .heads, .groups, .fabric, .fa, .keep, .si, .oq, .tx, .dict, .ic, .pm] s b) ?_ ?_ <;> first | (intro hb; clear_value b; refine Only.hold ?_) | intro hb | (unfold b; clear b)) | (((first | (have h0 : Nat := b; clear h0) | (have h0 : Bool := b; clear h0) | (have h0 : BitVec _ := b; clear h0) | (have h0 : List _ := b; clear h0)); clear_value b)) | (unfold b; clear b) | clear b)
    | ((with_reducible apply Only.after (dropDirect_only _ _)); · rfl)
    | ((with_reducible apply Only.after (showAgain_only _ _)); · rfl)
    | ((with_reducible apply Only.after (shareResult_only _ _ _ _ _)); · rfl)
    | ((with_reducible apply Only.after (tryShare_only (by assumption))); · rfl)
    | split
    | (refine Only.update (by assumption) ?_; intro p; cases p <;> first | exact .inl rfl | exact .inr rfl)

end Sys2Proof.Machine
end

