-- ==== Sys2Proof/Laws/OnlyLatch.lean ====
section
/-! SUPPORT. The parts of the state that the operations of Latch may change. -/

set_option linter.all false

namespace Sys2Proof.Machine

theorem pinSurfaces_only (ws : List Wr) (s : State) : Only [.fabric] s (pinSurfaces ws s) := by
  have sk := Only.refl [.fabric] s
  unfold pinSurfaces
  repeat' first
    | with_reducible assumption
    | ((with_reducible apply Only.after (requestPin_only _ _ _ _ _)); · rfl)
    | ((with_reducible refine Only.fold _ ?_ ?_) <;> try intro x a hb)

theorem latchItems_only (n : Nat) (at_ : Nat) (cut : Nat) (s : State) : Only [.fresh, .outbox, .regs, .items, .lastReject, .hl, .heads, .groups, .sched, .fabric, .fa, .keep, .lanterns, .si, .oq, .tx, .dict, .ic, .pm, .therm] s (latchItems n at_ cut s) := by
  have sk := Only.refl [.fresh, .outbox, .regs, .items, .lastReject, .hl, .heads, .groups, .sched, .fabric, .fa, .keep, .lanterns, .si, .oq, .tx, .dict, .ic, .pm, .therm] s
  unfold latchItems
  repeat' first
    | with_reducible assumption
    | (extract_lets +onlyGivenNames b; first | (refine Only.cut (Only [.fresh, .outbox, .regs, .items, .lastReject, .hl, .heads, .groups, .sched, .fabric, .fa, .keep, .lanterns, .si, .oq, .tx, .dict, .ic, .pm, .therm] s b) ?_ ?_ <;> first | (intro hb; clear_value b; refine Only.hold ?_) | intro hb | (unfold b; clear b)) | (((first | (have h0 : Nat := b; clear h0) | (have h0 : Bool := b; clear h0) | (have h0 : BitVec _ := b; clear h0) | (have h0 : List _ := b; clear h0)); clear_value b)) | (unfold b; clear b) | clear b)
    | ((with_reducible apply Only.after (applyDirect_only _ _ _)); · rfl)
    | ((with_reducible apply Only.after (applySwitch_only _ _)); · rfl)
    | ((with_reducible apply Only.after (applyFirstEntry_only _ _)); · rfl)
    | ((with_reducible apply Only.after (applyShare_only _ _ _)); · rfl)
    | ((with_reducible refine Only.fold _ ?_ ?_) <;> try intro x a hb)
    | split
    | (refine Only.update (by assumption) ?_; intro p; cases p <;> first | exact .inl rfl | exact .inr rfl)

theorem reshowSlots_only (n : Nat) (s : State) : Only [.fa] s (reshowSlots n s) := by
  have sk := Only.refl [.fa] s
  unfold reshowSlots
  repeat' first
    | with_reducible assumption
    | (extract_lets +onlyGivenNames b; first | (unfold b; clear b) | clear b)
    | ((with_reducible apply Only.after (State.setLayer_only _ _ _)); · rfl)
    | ((with_reducible refine Only.fold _ ?_ ?_) <;> try intro x a hb)
    | (refine Only.update (by assumption) ?_; intro p; cases p <;> first | exact .inl rfl | exact .inr rfl)

theorem hideLeaving_only (n : Nat) (at_ : Nat) (s : State) : Only [.items, .fabric, .fa, .si] s (hideLeaving n at_ s) := by
  have sk := Only.refl [.items, .fabric, .fa, .si] s
  unfold hideLeaving
  repeat' first
    | with_reducible assumption
    | (extract_lets +onlyGivenNames b; first | (refine Only.cut (Only [.items, .fabric, .fa, .si] s b) ?_ ?_ <;> first | (intro hb; clear_value b; refine Only.hold ?_) | intro hb | (unfold b; clear b)) | (((first | (have h0 : Nat := b; clear h0) | (have h0 : Bool := b; clear h0) | (have h0 : BitVec _ := b; clear h0) | (have h0 : List _ := b; clear h0)); clear_value b)) | (unfold b; clear b) | clear b)
    | ((with_reducible apply Only.after (State.setLayer_only _ _ _)); · rfl)
    | ((with_reducible apply Only.after (endLinger_only _ _)); · rfl)
    | ((with_reducible apply Only.after (reshowSlots_only _ _)); · rfl)
    | ((with_reducible refine Only.fold _ ?_ ?_) <;> try intro x a hb)
    | split
    | (refine Only.update (by assumption) ?_; intro p; cases p <;> first | exact .inl rfl | exact .inr rfl)

theorem selectSlot_only (n : Nat) (after : State) (s : State) (slot : Nat) : Only [.fabric, .fa] s (selectSlot n after s slot) := by
  have sk := Only.refl [.fabric, .fa] s
  unfold selectSlot
  repeat' first
    | with_reducible assumption
    | (extract_lets +onlyGivenNames b; first | (refine Only.cut (Only [.fabric, .fa] s b) ?_ ?_ <;> first | (intro hb; clear_value b; refine Only.hold ?_) | intro hb | (unfold b; clear b)) | (((first | (have h0 : Nat := b; clear h0) | (have h0 : Bool := b; clear h0) | (have h0 : BitVec _ := b; clear h0) | (have h0 : List _ := b; clear h0)); clear_value b)) | (unfold b; clear b) | clear b)
    | ((with_reducible apply Only.after (State.setLayer_only _ _ _)); · rfl)
    | ((with_reducible apply Only.after (leaveQueue_only _ _ _ _ _ _)); · rfl)
    | ((with_reducible apply Only.after (retryPins_only _ _)); · rfl)
    | ((with_reducible refine Only.fold _ ?_ ?_) <;> try intro x a hb)
    | split
    | (refine Only.update (by assumption) ?_; intro p; cases p <;> first | exact .inl rfl | exact .inr rfl)

theorem selectHead_only (n : Nat) (s : State) : Only [.regs, .heads, .fabric, .fa] s (selectHead n s) := by
  have sk := Only.refl [.regs, .heads, .fabric, .fa] s
  unfold selectHead
  extract_lets after a
  have ha : Only [.regs, .heads, .fabric, .fa] s a := Only.fold _ sk (fun x i hx => hx.trans ((selectSlot_only _ _ _ _).mono rfl))
  clear_value a
  exact Only.after (flushRecs_only _) rfl (Only.after (State.setHead_only _ _ _) rfl ha)

theorem takeEntry_only (n : Nat) (slot : Nat) (e : QEntry) (s : State) : Only [.outbox, .regs, .hl, .fabric, .fa, .ic, .pm] s (takeEntry n slot e s) := by
  have sk := Only.refl [.outbox, .regs, .hl, .fabric, .fa, .ic, .pm] s
  unfold takeEntry
  repeat' first
    | with_reducible assumption
    | (extract_lets +onlyGivenNames b; first | (refine Only.cut (Only [.outbox, .regs, .hl, .fabric, .fa, .ic, .pm] s b) ?_ ?_ <;> first | (intro hb; clear_value b; refine Only.hold ?_) | intro hb | (unfold b; clear b)) | (((first | (have h0 : Nat := b; clear h0) | (have h0 : Bool := b; clear h0) | (have h0 : BitVec _ := b; clear h0) | (have h0 : List _ := b; clear h0)); clear_value b)) | (unfold b; clear b) | clear b)
    | ((with_reducible apply Only.after (State.setReg_only _ _ _)); · rfl)
    | ((with_reducible apply Only.after (State.setLayer_only _ _ _)); · rfl)
    | ((with_reducible apply Only.after (perfEvent_only _ _ _ _ _)); · rfl)
    | ((with_reducible apply Only.after (makeRec_only _ _ _ _ _ _ _)); · rfl)
    | ((with_reducible apply Only.after (leaveQueue_only _ _ _ _ _ _)); · rfl)
    | ((with_reducible apply Only.after (retireShown_only _ _ _)); · rfl)
    | ((with_reducible refine Only.fold _ ?_ ?_) <;> try intro x a hb)
    | (refine Only.update (by assumption) ?_; intro p; cases p <;> first | exact .inl rfl | exact .inr rfl)

theorem queueStep_only (n : Nat) (s : State) (slot : Nat) : Only [.outbox, .regs, .hl, .fabric, .fa, .ic, .pm] s (queueStep n s slot) := by
  have sk := Only.refl [.outbox, .regs, .hl, .fabric, .fa, .ic, .pm] s
  unfold queueStep
  repeat' first
    | with_reducible assumption
    | (extract_lets +onlyGivenNames b; first | (refine Only.cut (Only [.outbox, .regs, .hl, .fabric, .fa, .ic, .pm] s b) ?_ ?_ <;> first | (intro hb; clear_value b; refine Only.hold ?_) | intro hb | (unfold b; clear b)) | (((first | (have h0 : Nat := b; clear h0) | (have h0 : Bool := b; clear h0) | (have h0 : BitVec _ := b; clear h0) | (have h0 : List _ := b; clear h0)); clear_value b)) | (unfold b; clear b) | clear b)
    | ((with_reducible apply Only.after (State.bump_only _ _ _ _ _)); · rfl)
    | ((with_reducible apply Only.after (State.setLayer_only _ _ _)); · rfl)
    | ((with_reducible apply Only.after (perfEvent_only _ _ _ _ _)); · rfl)
    | ((with_reducible apply Only.after (makeRec_only _ _ _ _ _ _ _)); · rfl)
    | ((with_reducible apply Only.after (takeEntry_only _ _ _ _)); · rfl)
    | split
    | (refine Only.update (by assumption) ?_; intro p; cases p <;> first | exact .inl rfl | exact .inr rfl)

theorem countAges_only (n : Nat) (s : State) : Only [.fa] s (countAges n s) := by
  have sk := Only.refl [.fa] s
  unfold countAges
  repeat' first
    | with_reducible assumption
    | (extract_lets +onlyGivenNames b; first | (unfold b; clear b) | clear b)
    | ((with_reducible apply Only.after (State.setLayer_only _ _ _)); · rfl)
    | ((with_reducible refine Only.fold _ ?_ ?_) <;> try intro x a hb)
    | split
    | (refine Only.update (by assumption) ?_; intro p; cases p <;> first | exact .inl rfl | exact .inr rfl)

theorem staleCheck_only (n : Nat) (s : State) : Only [.outbox, .hl, .keep, .dict, .ic, .pm, .safety] s (staleCheck n s) := by
  have sk := Only.refl [.outbox, .hl, .keep, .dict, .ic, .pm, .safety] s
  unfold staleCheck
  repeat' first
    | with_reducible assumption
    | (extract_lets +onlyGivenNames b; first | (refine Only.cut (Only [.outbox, .hl, .keep, .dict, .ic, .pm, .safety] s b) ?_ ?_ <;> first | (intro hb; clear_value b; refine Only.hold ?_) | intro hb | (unfold b; clear b)) | (((first | (have h0 : Nat := b; clear h0) | (have h0 : Bool := b; clear h0) | (have h0 : BitVec _ := b; clear h0) | (have h0 : List _ := b; clear h0)); clear_value b)) | (unfold b; clear b) | clear b)
    | ((with_reducible apply Only.after (keepFault_only _ _ _ _)); · rfl)
    | ((with_reducible refine Only.fold _ ?_ ?_) <;> try intro x a hb)
    | split

theorem showFallback_only (n : Nat) (s : State) (slot : Nat) : Only [.regs, .fabric, .fa] s (showFallback n s slot) := by
  have sk := Only.refl [.regs, .fabric, .fa] s
  unfold showFallback
  repeat' first
    | with_reducible assumption
    | (extract_lets +onlyGivenNames b; first | (refine Only.cut (Only [.regs, .fabric, .fa] s b) ?_ ?_ <;> first | (intro hb; clear_value b; refine Only.hold ?_) | intro hb | (unfold b; clear b)) | (((first | (have h0 : Nat := b; clear h0) | (have h0 : Bool := b; clear h0) | (have h0 : BitVec _ := b; clear h0) | (have h0 : List _ := b; clear h0)); clear_value b)) | (unfold b; clear b) | clear b)
    | ((with_reducible apply Only.after (State.setReg_only _ _ _)); · rfl)
    | ((with_reducible apply Only.after (State.setLayer_only _ _ _)); · rfl)
    | ((with_reducible apply Only.after (emptyQueue_only _ _ _)); · rfl)
    | ((with_reducible apply Only.after (retireShown_only _ _ _)); · rfl)
    | (refine Only.update (by assumption) ?_; intro p; cases p <;> first | exact .inl rfl | exact .inr rfl)

theorem applyFallback_only (n : Nat) (at_ : Nat) (s : State) : Only [.regs, .fabric, .fa, .keep] s (applyFallback n at_ s) := by
  have sk := Only.refl [.regs, .fabric, .fa, .keep] s
  unfold applyFallback
  repeat' first
    | with_reducible assumption
    | (extract_lets +onlyGivenNames b; first | (refine Only.cut (Only [.regs, .fabric, .fa, .keep] s b) ?_ ?_ <;> first | (intro hb; clear_value b; refine Only.hold ?_) | intro hb | (unfold b; clear b)) | (((first | (have h0 : Nat := b; clear h0) | (have h0 : Bool := b; clear h0) | (have h0 : BitVec _ := b; clear h0) | (have h0 : List _ := b; clear h0)); clear_value b)) | (unfold b; clear b) | clear b)
    | ((with_reducible apply Only.after (State.setKeepHead_only _ _ _)); · rfl)
    | ((with_reducible apply Only.after (showFallback_only _ _ _)); · rfl)
    | ((with_reducible refine Only.fold _ ?_ ?_) <;> try intro x a hb)
    | (refine Only.update (by assumption) ?_; intro p; cases p <;> first | exact .inl rfl | exact .inr rfl)

theorem judgeClear_only (n : Nat) (s : State) : Only [.fa, .keep, .dict, .safety] s (judgeClear n s) := by
  have sk := Only.refl [.fa, .keep, .dict, .safety] s
  unfold judgeClear
  repeat' first
    | with_reducible assumption
    | (extract_lets +onlyGivenNames b; first | (refine Only.cut (Only [.fa, .keep, .dict, .safety] s b) ?_ ?_ <;> first | (intro hb; clear_value b; refine Only.hold ?_) | intro hb | (unfold b; clear b)) | (((first | (have h0 : Nat := b; clear h0) | (have h0 : Bool := b; clear h0) | (have h0 : BitVec _ := b; clear h0) | (have h0 : List _ := b; clear h0)); clear_value b)) | (unfold b; clear b) | clear b)
    | ((with_reducible apply Only.after (State.setKeepHead_only _ _ _)); · rfl)
    | ((with_reducible apply Only.after (settleKeep_only _)); · rfl)
    | ((with_reducible apply Only.after (leaveFault_only _ _ _)); · rfl)
    | ((with_reducible refine Only.fold _ ?_ ?_) <;> try intro x a hb)
    | split
    | (refine Only.update (by assumption) ?_; intro p; cases p <;> first | exact .inl rfl | exact .inr rfl)

theorem postSignatures_only (n : Nat) (s : State) : Only [.outbox, .regs, .hl, .keep, .ic, .pm] s (postSignatures n s).1 := by
  have sk := Only.refl [.outbox, .regs, .hl, .keep, .ic, .pm] s
  unfold postSignatures
  repeat' first
    | with_reducible assumption
    | (extract_lets +onlyGivenNames b; first | (refine Only.cut (Only [.outbox, .regs, .hl, .keep, .ic, .pm] s b) ?_ ?_ <;> first | (intro hb; clear_value b; refine Only.hold ?_) | intro hb | (unfold b; clear b)) | (((first | (have h0 : Nat := b; clear h0) | (have h0 : Bool := b; clear h0) | (have h0 : BitVec _ := b; clear h0) | (have h0 : List _ := b; clear h0)); clear_value b)) | (unfold b; clear b) | clear b)
    | ((with_reducible apply Only.after (State.setReg_only _ _ _)); · rfl)
    | ((with_reducible apply Only.after (State.setSig_only _ _ _ _)); · rfl)
    | ((with_reducible apply Only.after (perfEvent_only _ _ _ _ _)); · rfl)
    | ((with_reducible refine Only.fold _ ?_ ?_) <;> try intro x a hb)
    | ((with_reducible refine Only.foldP _ ?_ ?_) <;> try (intro x a hb; rcases x with ⟨x, xr⟩))
    | split
    | (refine Only.update (by assumption) ?_; intro p; cases p <;> first | exact .inl rfl | exact .inr rfl)

theorem signatureAction_only (n : Nat) (s : State) (a : Nat × Nat) : Only [.outbox, .hl, .keep, .dict, .ic, .pm, .safety] s (signatureAction n s a) := by
  have sk := Only.refl [.outbox, .hl, .keep, .dict, .ic, .pm, .safety] s
  unfold signatureAction
  repeat' first
    | with_reducible assumption
    | (extract_lets +onlyGivenNames b; first | (refine Only.cut (Only [.outbox, .hl, .keep, .dict, .ic, .pm, .safety] s b) ?_ ?_ <;> first | (intro hb; clear_value b; refine Only.hold ?_) | intro hb | (unfold b; clear b)) | (((first | (have h0 : Nat := b; clear h0) | (have h0 : Bool := b; clear h0) | (have h0 : BitVec _ := b; clear h0) | (have h0 : List _ := b; clear h0)); clear_value b)) | (unfold b; clear b) | clear b)
    | ((with_reducible apply Only.after (raise_only _ _)); · rfl)
    | ((with_reducible apply Only.after (setCategory_only _ _ _)); · rfl)
    | ((with_reducible apply Only.after (keepFault_only _ _ _ _)); · rfl)
    | split
    | (refine Only.update (by assumption) ?_; intro p; cases p <;> first | exact .inl rfl | exact .inr rfl)

theorem raceSources_only (planes : List Nat) (s : State) : Only [.outbox, .hl, .si, .ic, .pm] s (raceSources planes s) := by
  have sk := Only.refl [.outbox, .hl, .si, .ic, .pm] s
  unfold raceSources
  repeat' first
    | with_reducible assumption
    | (extract_lets +onlyGivenNames b; first | (unfold b; clear b) | clear b)
    | ((with_reducible apply Only.after (State.setRace_only _ _ _)); · rfl)
    | ((with_reducible apply Only.after (raise_only _ _)); · rfl)
    | ((with_reducible refine Only.fold _ ?_ ?_) <;> try intro x a hb)
    | (refine Only.update (by assumption) ?_; intro p; cases p <;> first | exact .inl rfl | exact .inr rfl)

theorem forgetLost_only (n : Nat) (s : State) : Only [.si] s (forgetLost n s) := by
  have sk := Only.refl [.si] s
  unfold forgetLost
  repeat' first
    | with_reducible assumption
    | (extract_lets +onlyGivenNames b; first | (unfold b; clear b) | clear b)
    | ((with_reducible apply Only.after (State.setRace_only _ _ _)); · rfl)
    | ((with_reducible refine Only.fold _ ?_ ?_) <;> try intro x a hb)
    | (refine Only.update (by assumption) ?_; intro p; cases p <;> first | exact .inl rfl | exact .inr rfl)

theorem autoLatch_only (n : Nat) (s : State) : Only [.heads] s (autoLatch n s) := by
  have sk := Only.refl [.heads] s
  unfold autoLatch
  repeat' first
    | with_reducible assumption
    | (extract_lets +onlyGivenNames b; first | (unfold b; clear b) | clear b)
    | ((with_reducible apply Only.after (State.setHead_only _ _ _)); · rfl)
    | split
    | (refine Only.update (by assumption) ?_; intro p; cases p <;> first | exact .inl rfl | exact .inr rfl)

theorem retryAtLatch_only (n : Nat) (s : State) : Only [.fabric] s (retryAtLatch n s) := by
  have sk := Only.refl [.fabric] s
  unfold retryAtLatch
  repeat' first
    | with_reducible assumption
    | (extract_lets +onlyGivenNames b; first | (unfold b; clear b) | clear b)
    | ((with_reducible apply Only.after (retryPins_only _ _)); · rfl)
    | split
    | (refine Only.update (by assumption) ?_; intro p; cases p <;> first | exact .inl rfl | exact .inr rfl)

theorem latchHead_only (n : Nat) (at_ : Nat) (s : State) : Only [.fresh, .outbox, .regs, .items, .lastReject, .hl, .heads, .groups, .flares, .sched, .fabric, .fa, .keep, .lanterns, .si, .oq, .tx, .dict, .ic, .pm, .therm, .safety] s (latchHead n at_ s) := by
  have sk := Only.refl [.fresh, .outbox, .regs, .items, .lastReject, .hl, .heads, .groups, .flares, .sched, .fabric, .fa, .keep, .lanterns, .si, .oq, .tx, .dict, .ic, .pm, .therm, .safety] s
  unfold latchHead
  repeat' first
    | with_reducible assumption
    | (extract_lets +onlyGivenNames b; first | (refine Only.cut (Only [.fresh, .outbox, .regs, .items, .lastReject, .hl, .heads, .groups, .flares, .sched, .fabric, .fa, .keep, .lanterns, .si, .oq, .tx, .dict, .ic, .pm, .therm, .safety] s b) ?_ ?_ <;> first | (intro hb; clear_value b; refine Only.hold ?_) | intro hb | (unfold b; clear b)) | (refine Only.cut (Only [.fresh, .outbox, .regs, .items, .lastReject, .hl, .heads, .groups, .flares, .sched, .fabric, .fa, .keep, .lanterns, .si, .oq, .tx, .dict, .ic, .pm, .therm, .safety] s b.1) ?_ ?_ <;> first | (intro hb; clear_value b; refine Only.hold ?_) | intro hb | (unfold b; clear b)) | (((first | (have h0 : Nat := b; clear h0) | (have h0 : Bool := b; clear h0) | (have h0 : BitVec _ := b; clear h0) | (have h0 : List _ := b; clear h0)); clear_value b)) | (unfold b; clear b) | clear b)
    | ((with_reducible apply Only.after (State.setHead_only _ _ _)); · rfl)
    | ((with_reducible apply Only.after (perfEvent_only _ _ _ _ _)); · rfl)
    | ((with_reducible apply Only.after (raise_only _ _)); · rfl)
    | ((with_reducible apply Only.after (faultLostWait_only _ _)); · rfl)
    | ((with_reducible apply Only.after (flushRecs_only _)); · rfl)
    | ((with_reducible apply Only.after (placeLanterns_only _ _ _)); · rfl)
    | ((with_reducible apply Only.after (latchItems_only _ _ _ _)); · rfl)
    | ((with_reducible apply Only.after (hideLeaving_only _ _ _)); · rfl)
    | ((with_reducible apply Only.after (queueStep_only _ _ _)); · rfl)
    | ((with_reducible apply Only.after (countAges_only _ _)); · rfl)
    | ((with_reducible apply Only.after (staleCheck_only _ _)); · rfl)
    | ((with_reducible apply Only.after (applyFallback_only _ _ _)); · rfl)
    | ((with_reducible apply Only.after (judgeClear_only _ _)); · rfl)
    | ((with_reducible apply Only.after (postSignatures_only _ _)); · rfl)
    | ((with_reducible apply Only.after (signatureAction_only _ _ _)); · rfl)
    | ((with_reducible apply Only.after (raceSources_only _ _)); · rfl)
    | ((with_reducible apply Only.after (autoLatch_only _ _)); · rfl)
    | ((with_reducible apply Only.after (retryAtLatch_only _ _)); · rfl)
    | with_reducible refine Only.fst (by assumption) ?_
    | ((with_reducible refine Only.fold _ ?_ ?_) <;> try intro x a hb)
    | ((with_reducible refine Only.foldP _ ?_ ?_) <;> try (intro x a hb; rcases x with ⟨x, xr⟩))
    | (refine Only.update (by assumption) ?_; intro p; cases p <;> first | exact .inl rfl | exact .inr rfl)
    | (refine Only.update ?_ ?_; (with_reducible refine Only.fst (by assumption) ?_); rotate_left; intro p; cases p <;> first | exact .inl rfl | exact .inr rfl)

theorem applyAtOnce_only (n : Nat) (ws : List Wr) (s : State) : Only [.fresh, .outbox, .regs, .lastReject, .hl, .heads, .groups, .fabric, .fa, .keep, .si, .oq, .dict, .ic, .pm] s (applyAtOnce n ws s) := by
  have sk := Only.refl [.fresh, .outbox, .regs, .lastReject, .hl, .heads, .groups, .fabric, .fa, .keep, .si, .oq, .dict, .ic, .pm] s
  unfold applyAtOnce
  repeat' first
    | with_reducible assumption
    | ((with_reducible apply Only.after (flushRecs_only _)); · rfl)
    | ((with_reducible apply Only.after (applyDirect_only _ _ _)); · rfl)

end Sys2Proof.Machine
end

