-- ==== Sys2Proof/Laws/OnlyHeadCmds.lean ====
section
/-! SUPPORT. The parts of the state that the operations of HeadCmds may change. -/

set_option linter.all false

namespace Sys2Proof.Machine

theorem settleStopped_only (n : Nat) (s : State) : Only [.fresh, .outbox, .regs, .items, .lastReject, .hl, .heads, .groups, .sched, .fabric, .fa, .keep, .lanterns, .si, .oq, .tx, .dict, .ic, .pm, .therm] s (settleStopped n s) := by
  have sk := Only.refl [.fresh, .outbox, .regs, .items, .lastReject, .hl, .heads, .groups, .sched, .fabric, .fa, .keep, .lanterns, .si, .oq, .tx, .dict, .ic, .pm, .therm] s
  unfold settleStopped
  repeat' first
    | with_reducible assumption
    | (extract_lets +onlyGivenNames b; first | (refine Only.cut (Only [.fresh, .outbox, .regs, .items, .lastReject, .hl, .heads, .groups, .sched, .fabric, .fa, .keep, .lanterns, .si, .oq, .tx, .dict, .ic, .pm, .therm] s b) ?_ ?_ <;> first | (intro hb; clear_value b; refine Only.hold ?_) | intro hb | (unfold b; clear b)) | (((first | (have h0 : Nat := b; clear h0) | (have h0 : Bool := b; clear h0) | (have h0 : BitVec _ := b; clear h0) | (have h0 : List _ := b; clear h0)); clear_value b)) | (unfold b; clear b) | clear b)
    | ((with_reducible apply Only.after (flushRecs_only _)); · rfl)
    | ((with_reducible apply Only.after (applyDirect_only _ _ _)); · rfl)
    | ((with_reducible apply Only.after (applySwitch_only _ _)); · rfl)
    | ((with_reducible apply Only.after (applyFirstEntry_only _ _)); · rfl)
    | ((with_reducible apply Only.after (applyShare_only _ _ _)); · rfl)
    | ((with_reducible apply Only.after (hideLeaving_only _ _ _)); · rfl)
    | ((with_reducible refine Only.fold _ ?_ ?_) <;> try intro x a hb)
    | split
    | (refine Only.update (by assumption) ?_; intro p; cases p <;> first | exact .inl rfl | exact .inr rfl)

theorem waitToBegin_only (n : Nat) (s : State) : Only [.regs, .heads, .fabric, .fa] s (waitToBegin n s) := by
  have sk := Only.refl [.regs, .heads, .fabric, .fa] s
  unfold waitToBegin
  repeat' first
    | with_reducible assumption
    | (extract_lets +onlyGivenNames b; first | (refine Only.cut (Only [.regs, .heads, .fabric, .fa] s b) ?_ ?_ <;> first | (intro hb; clear_value b; refine Only.hold ?_) | intro hb | (unfold b; clear b)) | (((first | (have h0 : Nat := b; clear h0) | (have h0 : Bool := b; clear h0) | (have h0 : BitVec _ := b; clear h0) | (have h0 : List _ := b; clear h0)); clear_value b)) | (unfold b; clear b) | clear b)
    | ((with_reducible apply Only.after (State.setHead_only _ _ _)); · rfl)
    | ((with_reducible apply Only.after (selectHead_only _ _)); · rfl)
    | split
    | (refine Only.update (by assumption) ?_; intro p; cases p <;> first | exact .inl rfl | exact .inr rfl)

theorem startHead_only (n : Nat) (s : State) : Only [.outbox, .regs, .heads, .groups, .fabric, .fa] s (startHead n s) := by
  have sk := Only.refl [.outbox, .regs, .heads, .groups, .fabric, .fa] s
  unfold startHead
  repeat' first
    | with_reducible assumption
    | (extract_lets +onlyGivenNames b; first | (refine Only.cut (Only [.outbox, .regs, .heads, .groups, .fabric, .fa] s b) ?_ ?_ <;> first | (intro hb; clear_value b; refine Only.hold ?_) | intro hb | (unfold b; clear b)) | (((first | (have h0 : Nat := b; clear h0) | (have h0 : Bool := b; clear h0) | (have h0 : BitVec _ := b; clear h0) | (have h0 : List _ := b; clear h0)); clear_value b)) | (unfold b; clear b) | clear b)
    | ((with_reducible apply Only.after (State.setHead_only _ _ _)); · rfl)
    | ((with_reducible apply Only.after (advanceGroups_only _)); · rfl)
    | ((with_reducible apply Only.after (originGroups_only _)); · rfl)
    | ((with_reducible apply Only.after (waitToBegin_only _ _)); · rfl)
    | split
    | (refine Only.update (by assumption) ?_; intro p; cases p <;> first | exact .inl rfl | exact .inr rfl)

theorem stopHead_only (n : Nat) (s : State) : Only [.heads] s (stopHead n s) := by
  have sk := Only.refl [.heads] s
  unfold stopHead
  repeat' first
    | with_reducible assumption
    | (extract_lets +onlyGivenNames b; first | (unfold b; clear b) | clear b)
    | ((with_reducible apply Only.after (State.setHead_only _ _ _)); · rfl)
    | split
    | (refine Only.update (by assumption) ?_; intro p; cases p <;> first | exact .inl rfl | exact .inr rfl)

theorem landHeadCtrl_only (n : Nat) (pg : Nat) (enable : Bool) (s : State) : Only [.outbox, .regs, .heads, .groups, .fabric, .fa] s (landHeadCtrl n pg enable s) := by
  have sk := Only.refl [.outbox, .regs, .heads, .groups, .fabric, .fa] s
  unfold landHeadCtrl
  repeat' first
    | with_reducible assumption
    | (extract_lets +onlyGivenNames b; first | (refine Only.cut (Only [.outbox, .regs, .heads, .groups, .fabric, .fa] s b) ?_ ?_ <;> first | (intro hb; clear_value b; refine Only.hold ?_) | intro hb | (unfold b; clear b)) | (((first | (have h0 : Nat := b; clear h0) | (have h0 : Bool := b; clear h0) | (have h0 : BitVec _ := b; clear h0) | (have h0 : List _ := b; clear h0)); clear_value b)) | (unfold b; clear b) | clear b)
    | ((with_reducible apply Only.after (State.setHead_only _ _ _)); · rfl)
    | ((with_reducible apply Only.after (startHead_only _ _)); · rfl)
    | ((with_reducible apply Only.after (stopHead_only _ _)); · rfl)
    | split
    | (refine Only.update (by assumption) ?_; intro p; cases p <;> first | exact .inl rfl | exact .inr rfl)

theorem clearShed_only (n : Nat) (s : State) : Only [.lanterns, .dict, .therm, .safety] s (clearShed n s) := by
  have sk := Only.refl [.lanterns, .dict, .therm, .safety] s
  unfold clearShed
  repeat' first
    | with_reducible assumption
    | (extract_lets +onlyGivenNames b; first | (refine Only.cut (Only [.lanterns, .dict, .therm, .safety] s b) ?_ ?_ <;> first | (intro hb; clear_value b; refine Only.hold ?_) | intro hb | (unfold b; clear b)) | (((first | (have h0 : Nat := b; clear h0) | (have h0 : Bool := b; clear h0) | (have h0 : BitVec _ := b; clear h0) | (have h0 : List _ := b; clear h0)); clear_value b)) | (unfold b; clear b) | clear b)
    | ((with_reducible apply Only.after (State.setLantern_only _ _ _)); · rfl)
    | ((with_reducible apply Only.after (clearCategory_only _ _)); · rfl)
    | split
    | (refine Only.update (by assumption) ?_; intro p; cases p <;> first | exact .inl rfl | exact .inr rfl)

theorem chargeOsl_only (u : Nat) (ticks : Nat) (s : State) : Only [.casc] s (chargeOsl u ticks s) := by
  have sk := Only.refl [.casc] s
  unfold chargeOsl
  repeat' first
    | with_reducible assumption
    | (extract_lets +onlyGivenNames b; first | (unfold b; clear b) | clear b)
    | ((with_reducible apply Only.after (State.setOsl_only _ _ _)); · rfl)
    | (refine Only.update (by assumption) ?_; intro p; cases p <;> first | exact .inl rfl | exact .inr rfl)

theorem sendStreams_only (n : Nat) (y : Nat) (line : List Word) (s : State) : Only [.outbox, .casc] s (sendStreams n y line s) := by
  have sk := Only.refl [.outbox, .casc] s
  unfold sendStreams
  repeat' first
    | with_reducible assumption
    | (extract_lets +onlyGivenNames b; first | (refine Only.cut (Only [.outbox, .casc] s b) ?_ ?_ <;> first | (intro hb; clear_value b; refine Only.hold ?_) | intro hb | (unfold b; clear b)) | (((first | (have h0 : Nat := b; clear h0) | (have h0 : Bool := b; clear h0) | (have h0 : BitVec _ := b; clear h0) | (have h0 : List _ := b; clear h0)); clear_value b)) | (unfold b; clear b) | clear b)
    | ((with_reducible apply Only.after (State.send_only _ _)); · rfl)
    | ((with_reducible apply Only.after (chargeOsl_only _ _ _)); · rfl)
    | ((with_reducible refine Only.fold _ ?_ ?_) <;> try intro x a hb)
    | split

theorem segColumns_only (y : Nat) (x : State × List Word) (g : Seg) : Only [.fresh] x.1 (segColumns y x g).1 := by
  have sk := Only.refl [.fresh] x.1
  unfold segColumns
  repeat' first
    | with_reducible assumption
    | (extract_lets +onlyGivenNames b; first | (refine Only.cut (Only [.fresh] s b) ?_ ?_ <;> first | (intro hb; clear_value b; refine Only.hold ?_) | intro hb | (unfold b; clear b)) | (refine Only.cut (Only [.fresh] s b.1) ?_ ?_ <;> first | (intro hb; clear_value b; refine Only.hold ?_) | intro hb | (unfold b; clear b)) | (((first | (have h0 : Nat := b; clear h0) | (have h0 : Bool := b; clear h0) | (have h0 : BitVec _ := b; clear h0) | (have h0 : List _ := b; clear h0)); clear_value b)) | (unfold b; clear b) | clear b)
    | ((with_reducible apply Only.after (State.draw_only _ _)); · rfl)
    | with_reducible refine Only.fst (by assumption) ?_
    | ((with_reducible refine Only.fold _ ?_ ?_) <;> try intro x a hb)
    | ((with_reducible refine Only.foldP _ ?_ ?_) <;> try (intro x a hb; rcases x with ⟨x, xr⟩))
    | split
    | (refine Only.update (by assumption) ?_; intro p; cases p <;> first | exact .inl rfl | exact .inr rfl)
    | (refine Only.update ?_ ?_; (with_reducible refine Only.fst (by assumption) ?_); rotate_left; intro p; cases p <;> first | exact .inl rfl | exact .inr rfl)

theorem mergeSegments_only (s : State) (n : Nat) (y : Nat) (line : List Word) : Only [.fresh] s (mergeSegments s n y line).1 := by
  have sk := Only.refl [.fresh] s
  unfold mergeSegments
  repeat' first
    | with_reducible assumption
    | ((with_reducible apply Only.after (segColumns_only _ _ _)); · rfl)
    | with_reducible refine Only.fst (by assumption) ?_
    | ((with_reducible refine Only.fold _ ?_ ?_) <;> try intro x a hb)
    | ((with_reducible refine Only.foldP _ ?_ ?_) <;> try (intro x a hb; rcases x with ⟨x, xr⟩))

theorem missLine_only (k : Nat) (y : Nat) (s : State) : Only [.outbox, .hl, .ic, .pm, .casc] s (missLine k y s) := by
  have sk := Only.refl [.outbox, .hl, .ic, .pm, .casc] s
  unfold missLine
  repeat' first
    | with_reducible assumption
    | (extract_lets +onlyGivenNames b; first | (refine Only.cut (Only [.outbox, .hl, .ic, .pm, .casc] s b) ?_ ?_ <;> first | (intro hb; clear_value b; refine Only.hold ?_) | intro hb | (unfold b; clear b)) | (((first | (have h0 : Nat := b; clear h0) | (have h0 : Bool := b; clear h0) | (have h0 : BitVec _ := b; clear h0) | (have h0 : List _ := b; clear h0)); clear_value b)) | (unfold b; clear b) | clear b)
    | ((with_reducible apply Only.after (State.setSeg_only _ _ _)); · rfl)
    | ((with_reducible apply Only.after (raise_only _ _)); · rfl)
    | split
    | (refine Only.update (by assumption) ?_; intro p; cases p <;> first | exact .inl rfl | exact .inr rfl)

theorem missedSegments_only (n : Nat) (y : Nat) (s : State) : Only [.outbox, .hl, .ic, .pm, .casc] s (missedSegments n y s) := by
  have sk := Only.refl [.outbox, .hl, .ic, .pm, .casc] s
  unfold missedSegments
  repeat' first
    | with_reducible assumption
    | ((with_reducible apply Only.after (missLine_only _ _ _)); · rfl)
    | ((with_reducible refine Only.fold _ ?_ ?_) <;> try intro x a hb)
    | split

theorem passSegments_only (n : Nat) (y : Nat) (s : State) : Only [.casc] s (passSegments n y s) := by
  have sk := Only.refl [.casc] s
  unfold passSegments
  repeat' first
    | with_reducible assumption
    | (extract_lets +onlyGivenNames b; first | (refine Only.cut (Only [.casc] s b) ?_ ?_ <;> first | (intro hb; clear_value b; refine Only.hold ?_) | intro hb | (unfold b; clear b)) | (((first | (have h0 : Nat := b; clear h0) | (have h0 : Bool := b; clear h0) | (have h0 : BitVec _ := b; clear h0) | (have h0 : List _ := b; clear h0)); clear_value b)) | (unfold b; clear b) | clear b)
    | ((with_reducible apply Only.after (State.setSeg_only _ _ _)); · rfl)
    | ((with_reducible refine Only.fold _ ?_ ?_) <;> try intro x a hb)
    | split
    | (refine Only.update (by assumption) ?_; intro p; cases p <;> first | exact .inl rfl | exact .inr rfl)

theorem countSent_only (n : Nat) (s : State) : Only [.outbox, .hl, .ic, .pm] s (countSent n s) := by
  have sk := Only.refl [.outbox, .hl, .ic, .pm] s
  unfold countSent
  repeat' first
    | with_reducible assumption
    | ((with_reducible apply Only.after (perfEvent_only _ _ _ _ _)); · rfl)
    | ((with_reducible refine Only.fold _ ?_ ?_) <;> try intro x a hb)

theorem sendPixelLine_only (n : Nat) (y : Nat) (line : List Word) (s : State) (e : Nat) : Only [.fresh, .outbox] s (sendPixelLine n y line s e) := by
  have sk := Only.refl [.fresh, .outbox] s
  unfold sendPixelLine
  repeat' first
    | with_reducible assumption
    | (extract_lets +onlyGivenNames b; first | (unfold b; clear b) | clear b)
    | ((with_reducible apply Only.after (State.send_only _ _)); · rfl)
    | ((with_reducible apply Only.after (State.draw_only _ _)); · rfl)
    | split
    | (refine Only.update (by assumption) ?_; intro p; cases p <;> first | exact .inl rfl | exact .inr rfl)

theorem noteFirstPixel_only (l : List Nat) (s : State) : Only [.start] s (noteFirstPixel l s) := by
  have sk := Only.refl [.start] s
  unfold noteFirstPixel
  repeat' first
    | with_reducible assumption
    | (extract_lets +onlyGivenNames b; first | (unfold b; clear b) | clear b)
    | split
    | (refine Only.update (by assumption) ?_; intro p; cases p <;> first | exact .inl rfl | exact .inr rfl)

theorem sendPixels_only (n : Nat) (y : Nat) (line : List Word) (s : State) : Only [.fresh, .outbox, .hl, .ic, .pm, .start] s (sendPixels n y line s) := by
  have sk := Only.refl [.fresh, .outbox, .hl, .ic, .pm, .start] s
  unfold sendPixels
  repeat' first
    | with_reducible assumption
    | (extract_lets +onlyGivenNames b; first | (refine Only.cut (Only [.fresh, .outbox, .hl, .ic, .pm, .start] s b) ?_ ?_ <;> first | (intro hb; clear_value b; refine Only.hold ?_) | intro hb | (unfold b; clear b)) | (((first | (have h0 : Nat := b; clear h0) | (have h0 : Bool := b; clear h0) | (have h0 : BitVec _ := b; clear h0) | (have h0 : List _ := b; clear h0)); clear_value b)) | (unfold b; clear b) | clear b)
    | ((with_reducible apply Only.after (countSent_only _ _)); · rfl)
    | ((with_reducible apply Only.after (sendPixelLine_only _ _ _ _ _)); · rfl)
    | ((with_reducible apply Only.after (noteFirstPixel_only _ _)); · rfl)
    | ((with_reducible refine Only.fold _ ?_ ?_) <;> try intro x a hb)

theorem sendBlank_only (n : Nat) (y : Nat) (s : State) : Only [.outbox] s (sendBlank n y s) := by
  have sk := Only.refl [.outbox] s
  unfold sendBlank
  repeat' first
    | with_reducible assumption
    | ((with_reducible apply Only.after (State.send_only _ _)); · rfl)
    | ((with_reducible refine Only.fold _ ?_ ?_) <;> try intro x a hb)

theorem countTile_only (n : Nat) (r : Nat) (col : Nat) (row : Nat) (s : State) : Only [.outbox, .regs, .hl, .keep, .ic, .pm] s (countTile n r col row s) := by
  have sk := Only.refl [.outbox, .regs, .hl, .keep, .ic, .pm] s
  unfold countTile
  repeat' first
    | with_reducible assumption
    | (extract_lets +onlyGivenNames b; first | (refine Only.cut (Only [.outbox, .regs, .hl, .keep, .ic, .pm] s b) ?_ ?_ <;> first | (intro hb; clear_value b; refine Only.hold ?_) | intro hb | (unfold b; clear b)) | (((first | (have h0 : Nat := b; clear h0) | (have h0 : Bool := b; clear h0) | (have h0 : BitVec _ := b; clear h0) | (have h0 : List _ := b; clear h0)); clear_value b)) | (unfold b; clear b) | clear b)
    | ((with_reducible apply Only.after (State.bump_only _ _ _ _ _)); · rfl)
    | ((with_reducible apply Only.after (State.setKeepHead_only _ _ _)); · rfl)
    | ((with_reducible apply Only.after (perfEvent_only _ _ _ _ _)); · rfl)
    | split
    | (refine Only.update (by assumption) ?_; intro p; cases p <;> first | exact .inl rfl | exact .inr rfl)

theorem tileFault_only (n : Nat) (col : Nat) (row : Nat) (x : Nat) (y : Nat) (kind : Nat) (s : State) : Only [.outbox, .regs, .hl, .keep, .dict, .ic, .pm, .safety] s (tileFault n col row x y kind s) := by
  have sk := Only.refl [.outbox, .regs, .hl, .keep, .dict, .ic, .pm, .safety] s
  unfold tileFault
  repeat' first
    | with_reducible assumption
    | (extract_lets +onlyGivenNames b; first | (unfold b; clear b) | clear b)
    | ((with_reducible apply Only.after (keepFault_only _ _ _ _)); · rfl)
    | ((with_reducible apply Only.after (countTile_only _ _ _ _ _)); · rfl)
    | split
    | (refine Only.update (by assumption) ?_; intro p; cases p <;> first | exact .inl rfl | exact .inr rfl)

theorem judgeLine_only (n : Nat) (y : Nat) (s : State) : Only [.outbox, .regs, .hl, .keep, .dict, .ic, .pm, .safety] s (judgeLine n y s) := by
  have sk := Only.refl [.outbox, .regs, .hl, .keep, .dict, .ic, .pm, .safety] s
  unfold judgeLine
  repeat' first
    | with_reducible assumption
    | (extract_lets +onlyGivenNames b; first | (refine Only.cut (Only [.outbox, .regs, .hl, .keep, .dict, .ic, .pm, .safety] s b) ?_ ?_ <;> first | (intro hb; clear_value b; refine Only.hold ?_) | intro hb | (unfold b; clear b)) | (((first | (have h0 : Nat := b; clear h0) | (have h0 : Bool := b; clear h0) | (have h0 : BitVec _ := b; clear h0) | (have h0 : List _ := b; clear h0)); clear_value b)) | (unfold b; clear b) | clear b)
    | ((with_reducible apply Only.after (State.setKeepHead_only _ _ _)); · rfl)
    | ((with_reducible apply Only.after (tileFault_only _ _ _ _ _ _ _)); · rfl)
    | ((with_reducible refine Only.fold _ ?_ ?_) <;> try intro x a hb)
    | (refine Only.update (by assumption) ?_; intro p; cases p <;> first | exact .inl rfl | exact .inr rfl)

theorem leaveLine_only (n : Nat) (s : State) : Only [.fresh, .outbox, .regs, .hl, .tap, .keep, .dict, .ic, .pm, .casc, .start, .safety] s (leaveLine n s) := by
  have sk := Only.refl [.fresh, .outbox, .regs, .hl, .tap, .keep, .dict, .ic, .pm, .casc, .start, .safety] s
  unfold leaveLine
  repeat' first
    | with_reducible assumption
    | (extract_lets +onlyGivenNames b; first | (refine Only.cut (Only [.fresh, .outbox, .regs, .hl, .tap, .keep, .dict, .ic, .pm, .casc, .start, .safety] s b) ?_ ?_ <;> first | (intro hb; clear_value b; refine Only.hold ?_) | intro hb | (unfold b; clear b)) | (refine Only.cut (Only [.fresh, .outbox, .regs, .hl, .tap, .keep, .dict, .ic, .pm, .casc, .start, .safety] s b.1) ?_ ?_ <;> first | (intro hb; clear_value b; refine Only.hold ?_) | intro hb | (unfold b; clear b)) | (((first | (have h0 : Nat := b; clear h0) | (have h0 : Bool := b; clear h0) | (have h0 : BitVec _ := b; clear h0) | (have h0 : List _ := b; clear h0)); clear_value b)) | (unfold b; clear b) | clear b)
    | ((with_reducible apply Only.after (mergeSegments_only _ _ _ _)); · rfl)
    | ((with_reducible apply Only.after (missedSegments_only _ _ _)); · rfl)
    | ((with_reducible apply Only.after (passSegments_only _ _ _)); · rfl)
    | ((with_reducible apply Only.after (sendPixels_only _ _ _ _)); · rfl)
    | ((with_reducible apply Only.after (sendBlank_only _ _ _)); · rfl)
    | ((with_reducible apply Only.after (judgeLine_only _ _ _)); · rfl)
    | with_reducible refine Only.fst (by assumption) ?_
    | split
    | (refine Only.update (by assumption) ?_; intro p; cases p <;> first | exact .inl rfl | exact .inr rfl)
    | (refine Only.update ?_ ?_; (with_reducible refine Only.fst (by assumption) ?_); rotate_left; intro p; cases p <;> first | exact .inl rfl | exact .inr rfl)

theorem enterLine_only (n : Nat) (y : Nat) (s : State) : Only [.outbox, .hl, .heads, .tap, .lanterns, .ic, .pm, .casc] s (enterLine n y s) := by
  have sk := Only.refl [.outbox, .hl, .heads, .tap, .lanterns, .ic, .pm, .casc] s
  unfold enterLine
  repeat' first
    | with_reducible assumption
    | (extract_lets +onlyGivenNames b; first | (refine Only.cut (Only [.outbox, .hl, .heads, .tap, .lanterns, .ic, .pm, .casc] s b) ?_ ?_ <;> first | (intro hb; clear_value b; refine Only.hold ?_) | intro hb | (unfold b; clear b)) | (((first | (have h0 : Nat := b; clear h0) | (have h0 : Bool := b; clear h0) | (have h0 : BitVec _ := b; clear h0) | (have h0 : List _ := b; clear h0)); clear_value b)) | (unfold b; clear b) | clear b)
    | ((with_reducible apply Only.after (State.setHead_only _ _ _)); · rfl)
    | ((with_reducible apply Only.after (perfEvent_only _ _ _ _ _)); · rfl)
    | ((with_reducible apply Only.after (lanternLine_only _ _ _ _)); · rfl)
    | ((with_reducible apply Only.after (sendStreams_only _ _ _ _)); · rfl)
    | split
    | (refine Only.update (by assumption) ?_; intro p; cases p <;> first | exact .inl rfl | exact .inr rfl)

theorem headBegin_only (n : Nat) (s : State) : Only [.tick, .corePhase, .outbox, .regs, .hl, .heads, .groups, .fabric, .fa, .lanterns, .si, .ic, .pm] s (headBegin n s) := by
  have sk := Only.refl [.tick, .corePhase, .outbox, .regs, .hl, .heads, .groups, .fabric, .fa, .lanterns, .si, .ic, .pm] s
  unfold headBegin
  repeat' first
    | with_reducible assumption
    | (extract_lets +onlyGivenNames b; first | (refine Only.cut (Only [.tick, .corePhase, .outbox, .regs, .hl, .heads, .groups, .fabric, .fa, .lanterns, .si, .ic, .pm] s b) ?_ ?_ <;> first | (intro hb; clear_value b; refine Only.hold ?_) | intro hb | (unfold b; clear b)) | (((first | (have h0 : Nat := b; clear h0) | (have h0 : Bool := b; clear h0) | (have h0 : BitVec _ := b; clear h0) | (have h0 : List _ := b; clear h0)); clear_value b)) | (unfold b; clear b) | clear b)
    | ((with_reducible apply Only.after (State.setHead_only _ _ _)); · rfl)
    | ((with_reducible apply Only.after (perfEvent_only _ _ _ _ _)); · rfl)
    | ((with_reducible apply Only.after (toTick_only _ _)); · rfl)
    | ((with_reducible apply Only.after (settlePace_only _ _)); · rfl)
    | ((with_reducible apply Only.after (lanternLine_only _ _ _ _)); · rfl)
    | ((with_reducible apply Only.after (advanceGroups_only _)); · rfl)
    | ((with_reducible apply Only.after (selectHead_only _ _)); · rfl)
    | ((with_reducible apply Only.after (forgetLost_only _ _)); · rfl)
    | split
    | (refine Only.update (by assumption) ?_; intro p; cases p <;> first | exact .inl rfl | exact .inr rfl)

theorem idlePort_only (s : State) (e : Nat) : Only [.outbox, .oq] s (idlePort s e) := by
  have sk := Only.refl [.outbox, .oq] s
  unfold idlePort
  repeat' first
    | with_reducible assumption
    | (extract_lets +onlyGivenNames b; first | (refine Only.cut (Only [.outbox, .oq] s b) ?_ ?_ <;> first | (intro hb; clear_value b; refine Only.hold ?_) | intro hb | (unfold b; clear b)) | (((first | (have h0 : Nat := b; clear h0) | (have h0 : Bool := b; clear h0) | (have h0 : BitVec _ := b; clear h0) | (have h0 : List _ := b; clear h0)); clear_value b)) | (unfold b; clear b) | clear b)
    | ((with_reducible apply Only.after (State.setEgress_only _ _ _)); · rfl)
    | ((with_reducible apply Only.after (State.send_only _ _)); · rfl)
    | split
    | (refine Only.update (by assumption) ?_; intro p; cases p <;> first | exact .inl rfl | exact .inr rfl)

theorem idlePorts_only (n : Nat) (s : State) : Only [.outbox, .oq] s (idlePorts n s) := by
  have sk := Only.refl [.outbox, .oq] s
  unfold idlePorts
  repeat' first
    | with_reducible assumption
    | ((with_reducible apply Only.after (idlePort_only _ _)); · rfl)
    | ((with_reducible refine Only.fold _ ?_ ?_) <;> try intro x a hb)

theorem headStop_only (n : Nat) (s : State) : Only [.tick, .corePhase, .fresh, .outbox, .regs, .items, .lastReject, .hl, .heads, .groups, .sched, .fabric, .fa, .tap, .keep, .lanterns, .si, .oq, .tx, .dict, .ic, .pm, .casc, .start, .therm, .safety] s (headStop n s) := by
  have sk := Only.refl [.tick, .corePhase, .fresh, .outbox, .regs, .items, .lastReject, .hl, .heads, .groups, .sched, .fabric, .fa, .tap, .keep, .lanterns, .si, .oq, .tx, .dict, .ic, .pm, .casc, .start, .therm, .safety] s
  unfold headStop
  repeat' first
    | with_reducible assumption
    | (extract_lets +onlyGivenNames b; first | (refine Only.cut (Only [.tick, .corePhase, .fresh, .outbox, .regs, .items, .lastReject, .hl, .heads, .groups, .sched, .fabric, .fa, .tap, .keep, .lanterns, .si, .oq, .tx, .dict, .ic, .pm, .casc, .start, .therm, .safety] s b) ?_ ?_ <;> first | (intro hb; clear_value b; refine Only.hold ?_) | intro hb | (unfold b; clear b)) | (((first | (have h0 : Nat := b; clear h0) | (have h0 : Bool := b; clear h0) | (have h0 : BitVec _ := b; clear h0) | (have h0 : List _ := b; clear h0)); clear_value b)) | (unfold b; clear b) | clear b)
    | ((with_reducible apply Only.after (State.setHead_only _ _ _)); · rfl)
    | ((with_reducible apply Only.after (State.setPgroup_only _ _ _)); · rfl)
    | ((with_reducible apply Only.after (State.setLantern_only _ _ _)); · rfl)
    | ((with_reducible apply Only.after (toTick_only _ _)); · rfl)
    | ((with_reducible apply Only.after (settleStopped_only _ _)); · rfl)
    | ((with_reducible apply Only.after (leaveLine_only _ _)); · rfl)
    | ((with_reducible apply Only.after (idlePorts_only _ _)); · rfl)
    | ((with_reducible refine Only.fold _ ?_ ?_) <;> try intro x a hb)
    | split
    | (refine Only.update (by assumption) ?_; intro p; cases p <;> first | exact .inl rfl | exact .inr rfl)

theorem beginPort_only (n : Nat) (s : State) (e : Nat) : Only [.outbox, .oq] s (beginPort n s e) := by
  have sk := Only.refl [.outbox, .oq] s
  unfold beginPort
  repeat' first
    | with_reducible assumption
    | (extract_lets +onlyGivenNames b; first | (refine Only.cut (Only [.outbox, .oq] s b) ?_ ?_ <;> first | (intro hb; clear_value b; refine Only.hold ?_) | intro hb | (unfold b; clear b)) | (((first | (have h0 : Nat := b; clear h0) | (have h0 : Bool := b; clear h0) | (have h0 : BitVec _ := b; clear h0) | (have h0 : List _ := b; clear h0)); clear_value b)) | (unfold b; clear b) | clear b)
    | ((with_reducible apply Only.after (State.setEgress_only _ _ _)); · rfl)
    | ((with_reducible apply Only.after (State.send_only _ _)); · rfl)
    | split
    | (refine Only.update (by assumption) ?_; intro p; cases p <;> first | exact .inl rfl | exact .inr rfl)

theorem anchorPorts_only (n : Nat) (s : State) : Only [.outbox, .oq] s (anchorPorts n s) := by
  have sk := Only.refl [.outbox, .oq] s
  unfold anchorPorts
  repeat' first
    | with_reducible assumption
    | (extract_lets +onlyGivenNames b; first | (refine Only.cut (Only [.outbox, .oq] s b) ?_ ?_ <;> first | (intro hb; clear_value b; refine Only.hold ?_) | intro hb | (unfold b; clear b)) | (((first | (have h0 : Nat := b; clear h0) | (have h0 : Bool := b; clear h0) | (have h0 : BitVec _ := b; clear h0) | (have h0 : List _ := b; clear h0)); clear_value b)) | (unfold b; clear b) | clear b)
    | ((with_reducible apply Only.after (idlePort_only _ _)); · rfl)
    | ((with_reducible apply Only.after (beginPort_only _ _ _)); · rfl)
    | ((with_reducible refine Only.fold _ ?_ ?_) <;> try intro x a hb)
    | split

theorem newSegFrame_only (n : Nat) (s : State) : Only [.casc] s (newSegFrame n s) := by
  have sk := Only.refl [.casc] s
  unfold newSegFrame
  repeat' first
    | with_reducible assumption
    | (extract_lets +onlyGivenNames b; first | (unfold b; clear b) | clear b)
    | ((with_reducible apply Only.after (State.setSeg_only _ _ _)); · rfl)
    | ((with_reducible refine Only.fold _ ?_ ?_) <;> try intro x a hb)
    | (refine Only.update (by assumption) ?_; intro p; cases p <;> first | exact .inl rfl | exact .inr rfl)

theorem openExtra_only (n : Nat) (lost : List LostBurst) (s : State) : Only [.tick, .corePhase, .fresh, .outbox, .regs, .hl, .heads, .fabric, .fa, .tap, .keep, .si, .dict, .ic, .pm, .safety] s (openExtra n lost s) := by
  have sk := Only.refl [.tick, .corePhase, .fresh, .outbox, .regs, .hl, .heads, .fabric, .fa, .tap, .keep, .si, .dict, .ic, .pm, .safety] s
  unfold openExtra
  repeat' first
    | with_reducible assumption
    | (extract_lets +onlyGivenNames b; first | (refine Only.cut (Only [.tick, .corePhase, .fresh, .outbox, .regs, .hl, .heads, .fabric, .fa, .tap, .keep, .si, .dict, .ic, .pm, .safety] s b) ?_ ?_ <;> first | (intro hb; clear_value b; refine Only.hold ?_) | intro hb | (unfold b; clear b)) | (((first | (have h0 : Nat := b; clear h0) | (have h0 : Bool := b; clear h0) | (have h0 : BitVec _ := b; clear h0) | (have h0 : List _ := b; clear h0)); clear_value b)) | (unfold b; clear b) | clear b)
    | ((with_reducible apply Only.after (State.setHead_only _ _ _)); · rfl)
    | ((with_reducible apply Only.after (toTick_only _ _)); · rfl)
    | ((with_reducible apply Only.after (openWindow_only _ _ _ _ _)); · rfl)
    | ((with_reducible refine seenBy_only (l := [.tick, .corePhase, .fresh, .outbox, .regs, .hl, .heads, .fabric, .fa, .tap, .keep, .si, .dict, .ic, .pm, .safety]) rfl ?_ ?_) <;> try intro x hb)
    | (refine Only.update (by assumption) ?_; intro p; cases p <;> first | exact .inl rfl | exact .inr rfl)

theorem frameAnchor_only (n : Nat) (s : State) : Only [.tick, .corePhase, .fresh, .outbox, .regs, .hl, .heads, .groups, .fabric, .fa, .tap, .keep, .lanterns, .si, .oq, .dict, .ic, .pm, .casc, .start, .safety] s (frameAnchor n s) := by
  have sk := Only.refl [.tick, .corePhase, .fresh, .outbox, .regs, .hl, .heads, .groups, .fabric, .fa, .tap, .keep, .lanterns, .si, .oq, .dict, .ic, .pm, .casc, .start, .safety] s
  unfold frameAnchor
  repeat' first
    | with_reducible assumption
    | (extract_lets +onlyGivenNames b; first | (refine Only.cut (Only [.tick, .corePhase, .fresh, .outbox, .regs, .hl, .heads, .groups, .fabric, .fa, .tap, .keep, .lanterns, .si, .oq, .dict, .ic, .pm, .casc, .start, .safety] s b) ?_ ?_ <;> first | (intro hb; clear_value b; refine Only.hold ?_) | intro hb | (unfold b; clear b)) | (((first | (have h0 : Nat := b; clear h0) | (have h0 : Bool := b; clear h0) | (have h0 : BitVec _ := b; clear h0) | (have h0 : List _ := b; clear h0)); clear_value b)) | (unfold b; clear b) | clear b)
    | ((with_reducible apply Only.after (State.setHead_only _ _ _)); · rfl)
    | ((with_reducible apply Only.after (State.setKeepHead_only _ _ _)); · rfl)
    | ((with_reducible apply Only.after (toTick_only _ _)); · rfl)
    | ((with_reducible apply Only.after (lanternOmitted_only _ _ _ _)); · rfl)
    | ((with_reducible apply Only.after (groupAnchored_only _ _ _ _)); · rfl)
    | ((with_reducible apply Only.after (advanceGroups_only _)); · rfl)
    | ((with_reducible apply Only.after (leaveLine_only _ _)); · rfl)
    | ((with_reducible apply Only.after (enterLine_only _ _ _)); · rfl)
    | ((with_reducible apply Only.after (anchorPorts_only _ _)); · rfl)
    | ((with_reducible apply Only.after (newSegFrame_only _ _)); · rfl)
    | ((with_reducible apply Only.after (openExtra_only _ _ _)); · rfl)
    | ((with_reducible refine Only.fold _ ?_ ?_) <;> try intro x a hb)
    | split
    | (refine Only.update (by assumption) ?_; intro p; cases p <;> first | exact .inl rfl | exact .inr rfl)

theorem openLine_only (n : Nat) (lost : List LostBurst) (s : State) : Only [.fresh, .outbox, .regs, .hl, .heads, .fabric, .fa, .tap, .keep, .si, .dict, .ic, .pm, .safety] s (openLine n lost s) := by
  have sk := Only.refl [.fresh, .outbox, .regs, .hl, .heads, .fabric, .fa, .tap, .keep, .si, .dict, .ic, .pm, .safety] s
  unfold openLine
  repeat' first
    | with_reducible assumption
    | (extract_lets +onlyGivenNames b; first | (refine Only.cut (Only [.fresh, .outbox, .regs, .hl, .heads, .fabric, .fa, .tap, .keep, .si, .dict, .ic, .pm, .safety] s b) ?_ ?_ <;> first | (intro hb; clear_value b; refine Only.hold ?_) | intro hb | (unfold b; clear b)) | (((first | (have h0 : Nat := b; clear h0) | (have h0 : Bool := b; clear h0) | (have h0 : BitVec _ := b; clear h0) | (have h0 : List _ := b; clear h0)); clear_value b)) | (unfold b; clear b) | clear b)
    | ((with_reducible apply Only.after (State.setHead_only _ _ _)); · rfl)
    | ((with_reducible apply Only.after (openWindow_only _ _ _ _ _)); · rfl)
    | ((with_reducible refine seenBy_only (l := [.fresh, .outbox, .regs, .hl, .heads, .fabric, .fa, .tap, .keep, .si, .dict, .ic, .pm, .safety]) rfl ?_ ?_) <;> try intro x hb)
    | split
    | (refine Only.update (by assumption) ?_; intro p; cases p <;> first | exact .inl rfl | exact .inr rfl)

theorem fetchWindowOpen_only (n : Nat) (lost : List LostBurst) (s : State) : Only [.tick, .corePhase, .fresh, .outbox, .regs, .hl, .heads, .fabric, .fa, .tap, .keep, .lanterns, .si, .dict, .ic, .pm, .casc, .start, .safety] s (fetchWindowOpen n lost s) := by
  have sk := Only.refl [.tick, .corePhase, .fresh, .outbox, .regs, .hl, .heads, .fabric, .fa, .tap, .keep, .lanterns, .si, .dict, .ic, .pm, .casc, .start, .safety] s
  unfold fetchWindowOpen
  repeat' first
    | with_reducible assumption
    | (extract_lets +onlyGivenNames b; first | (refine Only.cut (Only [.tick, .corePhase, .fresh, .outbox, .regs, .hl, .heads, .fabric, .fa, .tap, .keep, .lanterns, .si, .dict, .ic, .pm, .casc, .start, .safety] s b) ?_ ?_ <;> first | (intro hb; clear_value b; refine Only.hold ?_) | intro hb | (unfold b; clear b)) | (((first | (have h0 : Nat := b; clear h0) | (have h0 : Bool := b; clear h0) | (have h0 : BitVec _ := b; clear h0) | (have h0 : List _ := b; clear h0)); clear_value b)) | (unfold b; clear b) | clear b)
    | ((with_reducible apply Only.after (toTick_only _ _)); · rfl)
    | ((with_reducible apply Only.after (leaveLine_only _ _)); · rfl)
    | ((with_reducible apply Only.after (enterLine_only _ _ _)); · rfl)
    | ((with_reducible apply Only.after (openExtra_only _ _ _)); · rfl)
    | ((with_reducible apply Only.after (openLine_only _ _ _)); · rfl)
    | split

theorem selection_only (n : Nat) (s : State) : Only [.tick, .corePhase, .outbox, .regs, .hl, .heads, .fabric, .fa, .ic, .pm] s (selection n s) := by
  have sk := Only.refl [.tick, .corePhase, .outbox, .regs, .hl, .heads, .fabric, .fa, .ic, .pm] s
  unfold selection
  repeat' first
    | with_reducible assumption
    | (extract_lets +onlyGivenNames b; first | (refine Only.cut (Only [.tick, .corePhase, .outbox, .regs, .hl, .heads, .fabric, .fa, .ic, .pm] s b) ?_ ?_ <;> first | (intro hb; clear_value b; refine Only.hold ?_) | intro hb | (unfold b; clear b)) | (((first | (have h0 : Nat := b; clear h0) | (have h0 : Bool := b; clear h0) | (have h0 : BitVec _ := b; clear h0) | (have h0 : List _ := b; clear h0)); clear_value b)) | (unfold b; clear b) | clear b)
    | ((with_reducible apply Only.after (toTick_only _ _)); · rfl)
    | ((with_reducible apply Only.after (selectHead_only _ _)); · rfl)
    | split
    | (refine Only.update (by assumption) ?_; intro p; cases p <;> first | exact .inl rfl | exact .inr rfl)

theorem headLatch_only (n : Nat) (s : State) : Only [.tick, .corePhase, .fresh, .outbox, .regs, .items, .lastReject, .hl, .heads, .groups, .flares, .sched, .fabric, .fa, .keep, .lanterns, .si, .oq, .tx, .dict, .ic, .pm, .therm, .safety] s (headLatch n s) := by
  have sk := Only.refl [.tick, .corePhase, .fresh, .outbox, .regs, .items, .lastReject, .hl, .heads, .groups, .flares, .sched, .fabric, .fa, .keep, .lanterns, .si, .oq, .tx, .dict, .ic, .pm, .therm, .safety] s
  unfold headLatch
  repeat' first
    | with_reducible assumption
    | (extract_lets +onlyGivenNames b; first | (refine Only.cut (Only [.tick, .corePhase, .fresh, .outbox, .regs, .items, .lastReject, .hl, .heads, .groups, .flares, .sched, .fabric, .fa, .keep, .lanterns, .si, .oq, .tx, .dict, .ic, .pm, .therm, .safety] s b) ?_ ?_ <;> first | (intro hb; clear_value b; refine Only.hold ?_) | intro hb | (unfold b; clear b)) | (((first | (have h0 : Nat := b; clear h0) | (have h0 : Bool := b; clear h0) | (have h0 : BitVec _ := b; clear h0) | (have h0 : List _ := b; clear h0)); clear_value b)) | (unfold b; clear b) | clear b)
    | ((with_reducible apply Only.after (toTick_only _ _)); · rfl)
    | ((with_reducible apply Only.after (selectHead_only _ _)); · rfl)
    | ((with_reducible apply Only.after (latchHead_only _ _ _)); · rfl)
    | split

theorem giveSlew_only (g : Nat) (a : Nat) (f : Nat) (x : Int) (s : State) : Only [.heads, .groups] s (giveSlew g a f x s) := by
  have sk := Only.refl [.heads, .groups] s
  unfold giveSlew
  repeat' first
    | with_reducible assumption
    | (extract_lets +onlyGivenNames b; first | (refine Only.cut (Only [.heads, .groups] s b) ?_ ?_ <;> first | (intro hb; clear_value b; refine Only.hold ?_) | intro hb | (unfold b; clear b)) | (((first | (have h0 : Nat := b; clear h0) | (have h0 : Bool := b; clear h0) | (have h0 : BitVec _ := b; clear h0) | (have h0 : List _ := b; clear h0)); clear_value b)) | (unfold b; clear b) | clear b)
    | ((with_reducible apply Only.after (State.setHead_only _ _ _)); · rfl)
    | ((with_reducible apply Only.after (State.setPgroup_only _ _ _)); · rfl)
    | ((with_reducible refine Only.fold _ ?_ ?_) <;> try intro x a hb)
    | split
    | (refine Only.update (by assumption) ?_; intro p; cases p <;> first | exact .inl rfl | exact .inr rfl)

theorem decide__only (g : Nat) (a : Nat) (f : Nat) (s : State) : Only [.tick, .corePhase, .outbox, .hl, .heads, .groups, .ic, .pm] s (decide_ g a f s) := by
  have sk := Only.refl [.tick, .corePhase, .outbox, .hl, .heads, .groups, .ic, .pm] s
  unfold decide_
  repeat' first
    | with_reducible assumption
    | (extract_lets +onlyGivenNames b; first | (refine Only.cut (Only [.tick, .corePhase, .outbox, .hl, .heads, .groups, .ic, .pm] s b) ?_ ?_ <;> first | (intro hb; clear_value b; refine Only.hold ?_) | intro hb | (unfold b; clear b)) | (((first | (have h0 : Nat := b; clear h0) | (have h0 : Bool := b; clear h0) | (have h0 : BitVec _ := b; clear h0) | (have h0 : List _ := b; clear h0)); clear_value b)) | (unfold b; clear b) | clear b)
    | ((with_reducible apply Only.after (State.setPgroup_only _ _ _)); · rfl)
    | ((with_reducible apply Only.after (perfEvent_only _ _ _ _ _)); · rfl)
    | ((with_reducible apply Only.after (toTick_only _ _)); · rfl)
    | ((with_reducible apply Only.after (setGState_only _ _ _)); · rfl)
    | ((with_reducible apply Only.after (giveSlew_only _ _ _ _ _)); · rfl)
    | split
    | (refine Only.update (by assumption) ?_; intro p; cases p <;> first | exact .inl rfl | exact .inr rfl)

theorem slewDecision_only (g : Nat) (s : State) : Only [.tick, .corePhase, .outbox, .hl, .heads, .groups, .ic, .pm] s (slewDecision g s) := by
  have sk := Only.refl [.tick, .corePhase, .outbox, .hl, .heads, .groups, .ic, .pm] s
  unfold slewDecision
  repeat' first
    | with_reducible assumption
    | (extract_lets +onlyGivenNames b; first | (refine Only.cut (Only [.tick, .corePhase, .outbox, .hl, .heads, .groups, .ic, .pm] s b) ?_ ?_ <;> first | (intro hb; clear_value b; refine Only.hold ?_) | intro hb | (unfold b; clear b)) | (((first | (have h0 : Nat := b; clear h0) | (have h0 : Bool := b; clear h0) | (have h0 : BitVec _ := b; clear h0) | (have h0 : List _ := b; clear h0)); clear_value b)) | (unfold b; clear b) | clear b)
    | ((with_reducible apply Only.after (advanceGroups_only _)); · rfl)
    | ((with_reducible apply Only.after (giveSlew_only _ _ _ _ _)); · rfl)
    | ((with_reducible apply Only.after (decide__only _ _ _ _)); · rfl)
    | split
    | (refine Only.update (by assumption) ?_; intro p; cases p <;> first | exact .inl rfl | exact .inr rfl)

theorem refEvent_only (g : Nat) (at_ : Nat) (s : State) : Only [.groups] s (refEvent g at_ s) := by
  have sk := Only.refl [.groups] s
  unfold refEvent
  repeat' first
    | with_reducible assumption
    | (extract_lets +onlyGivenNames b; first | (unfold b; clear b) | clear b)
    | ((with_reducible apply Only.after (State.setPgroup_only _ _ _)); · rfl)
    | (refine Only.update (by assumption) ?_; intro p; cases p <;> first | exact .inl rfl | exact .inr rfl)

theorem genlockEdge_only (rising : Bool) (s : State) : Only [.groups] s (genlockEdge rising s) := by
  have sk := Only.refl [.groups] s
  unfold genlockEdge
  repeat' first
    | with_reducible assumption
    | ((with_reducible apply Only.after (refEvent_only _ _ _)); · rfl)
    | ((with_reducible refine Only.fold _ ?_ ?_) <;> try intro x a hb)
    | split

theorem holdoverTimeout_only (g : Nat) (s : State) : Only [.tick, .corePhase, .outbox, .hl, .groups, .ic, .pm] s (holdoverTimeout g s) := by
  have sk := Only.refl [.tick, .corePhase, .outbox, .hl, .groups, .ic, .pm] s
  unfold holdoverTimeout
  repeat' first
    | with_reducible assumption
    | (extract_lets +onlyGivenNames b; first | (refine Only.cut (Only [.tick, .corePhase, .outbox, .hl, .groups, .ic, .pm] s b) ?_ ?_ <;> first | (intro hb; clear_value b; refine Only.hold ?_) | intro hb | (unfold b; clear b)) | (((first | (have h0 : Nat := b; clear h0) | (have h0 : Bool := b; clear h0) | (have h0 : BitVec _ := b; clear h0) | (have h0 : List _ := b; clear h0)); clear_value b)) | (unfold b; clear b) | clear b)
    | ((with_reducible apply Only.after (toTick_only _ _)); · rfl)
    | ((with_reducible apply Only.after (setGState_only _ _ _)); · rfl)
    | split
    | (refine Only.update (by assumption) ?_; intro p; cases p <;> first | exact .inl rfl | exact .inr rfl)

end Sys2Proof.Machine
end

