-- ==== Sys2Proof/Laws/OnlySchedCmds.lean ====
section
/-! SUPPORT. The parts of the state that the operations of SchedCmds may change. -/

set_option linter.all false

namespace Sys2Proof.Machine

theorem startLoad_only (b : Nat) (record : List Byte) (s : State) : Only [.sched] s (startLoad b record s) := by
  have sk := Only.refl [.sched] s
  unfold startLoad
  repeat' first
    | with_reducible assumption
    | (extract_lets +onlyGivenNames b; first | (refine Only.cut (Only [.sched] s b) ?_ ?_ <;> first | (intro hb; clear_value b; refine Only.hold ?_) | intro hb | (unfold b; clear b)) | (((first | (have h0 : Nat := b; clear h0) | (have h0 : Bool := b; clear h0) | (have h0 : BitVec _ := b; clear h0) | (have h0 : List _ := b; clear h0)); clear_value b)) | (unfold b; clear b) | clear b)
    | ((with_reducible apply Only.after (State.setBank_only _ _ _)); · rfl)
    | split
    | (refine Only.update (by assumption) ?_; intro p; cases p <;> first | exact .inl rfl | exact .inr rfl)

theorem sbResult_only (b : Nat) (r : LoadReport) (s : State) : Only [.sched] s (sbResult b r s) := by
  have sk := Only.refl [.sched] s
  unfold sbResult
  repeat' first
    | with_reducible assumption
    | (extract_lets +onlyGivenNames b; first | (unfold b; clear b) | clear b)
    | (refine Only.update (by assumption) ?_; intro p; cases p <;> first | exact .inl rfl | exact .inr rfl)

theorem unload_only (b : Nat) (s : State) : Only [.sched] s (unload b s) := by
  have sk := Only.refl [.sched] s
  unfold unload
  repeat' first
    | with_reducible assumption
    | ((with_reducible apply Only.after (State.setBank_only _ _ _)); · rfl)
    | ((with_reducible apply Only.after (sbResult_only _ _ _)); · rfl)
    | split

theorem sbCommand_only (src : Source) (b : Nat) (op : Nat) (s : State) : Only [.outbox, .regs, .err, .hl, .sched, .ic, .pm] s (sbCommand src b op s) := by
  have sk := Only.refl [.outbox, .regs, .err, .hl, .sched, .ic, .pm] s
  unfold sbCommand
  repeat' first
    | with_reducible assumption
    | (extract_lets +onlyGivenNames b; first | (refine Only.cut (Only [.outbox, .regs, .err, .hl, .sched, .ic, .pm] s b) ?_ ?_ <;> first | (intro hb; clear_value b; refine Only.hold ?_) | intro hb | (unfold b; clear b)) | (((first | (have h0 : Nat := b; clear h0) | (have h0 : Bool := b; clear h0) | (have h0 : BitVec _ := b; clear h0) | (have h0 : List _ := b; clear h0)); clear_value b)) | (unfold b; clear b) | clear b)
    | ((with_reducible apply Only.after (State.setReg_only _ _ _)); · rfl)
    | ((with_reducible apply Only.after (refuse_only _ _ _ _)); · rfl)
    | ((with_reducible apply Only.after (startLoad_only _ _ _)); · rfl)
    | ((with_reducible apply Only.after (unload_only _ _)); · rfl)
    | split
    | (refine Only.update (by assumption) ?_; intro p; cases p <;> first | exact .inl rfl | exact .inr rfl)

theorem firstLive_only (b : Nat) (i : Image) (s : State) : Only [.fresh, .outbox, .regs, .hl, .heads, .groups, .sched, .fabric, .fa, .keep, .lanterns, .si, .oq, .dict, .ic, .pm] s (firstLive b i s) := by
  have sk := Only.refl [.fresh, .outbox, .regs, .hl, .heads, .groups, .sched, .fabric, .fa, .keep, .lanterns, .si, .oq, .dict, .ic, .pm] s
  unfold firstLive
  repeat' first
    | with_reducible assumption
    | (extract_lets +onlyGivenNames b; first | (refine Only.cut (Only [.fresh, .outbox, .regs, .hl, .heads, .groups, .sched, .fabric, .fa, .keep, .lanterns, .si, .oq, .dict, .ic, .pm] s b) ?_ ?_ <;> first | (intro hb; clear_value b; refine Only.hold ?_) | intro hb | (unfold b; clear b)) | (((first | (have h0 : Nat := b; clear h0) | (have h0 : Bool := b; clear h0) | (have h0 : BitVec _ := b; clear h0) | (have h0 : List _ := b; clear h0)); clear_value b)) | (unfold b; clear b) | clear b)
    | ((with_reducible apply Only.after (State.setBank_only _ _ _)); · rfl)
    | ((with_reducible apply Only.after (flushRecs_only _)); · rfl)
    | ((with_reducible apply Only.after (placeIdle_only _ _ _)); · rfl)
    | ((with_reducible apply Only.after (rejudgeRings_only _)); · rfl)
    | ((with_reducible apply Only.after (applyEntry_only _ _ _)); · rfl)
    | ((with_reducible refine Only.fold _ ?_ ?_) <;> try intro x a hb)
    | split
    | (refine Only.update (by assumption) ?_; intro p; cases p <;> first | exact .inl rfl | exact .inr rfl)

theorem finishLoad_only (l : Load) (s : State) : Only [.fresh, .outbox, .regs, .hl, .heads, .groups, .sched, .fabric, .fa, .keep, .lanterns, .si, .oq, .dict, .ic, .pm] s (finishLoad l s) := by
  have sk := Only.refl [.fresh, .outbox, .regs, .hl, .heads, .groups, .sched, .fabric, .fa, .keep, .lanterns, .si, .oq, .dict, .ic, .pm] s
  unfold finishLoad
  repeat' first
    | with_reducible assumption
    | (extract_lets +onlyGivenNames b; first | (refine Only.cut (Only [.fresh, .outbox, .regs, .hl, .heads, .groups, .sched, .fabric, .fa, .keep, .lanterns, .si, .oq, .dict, .ic, .pm] s b) ?_ ?_ <;> first | (intro hb; clear_value b; refine Only.hold ?_) | intro hb | (unfold b; clear b)) | (((first | (have h0 : Nat := b; clear h0) | (have h0 : Bool := b; clear h0) | (have h0 : BitVec _ := b; clear h0) | (have h0 : List _ := b; clear h0)); clear_value b)) | (unfold b; clear b) | clear b)
    | ((with_reducible apply Only.after (State.setBank_only _ _ _)); · rfl)
    | ((with_reducible apply Only.after (sbResult_only _ _ _)); · rfl)
    | ((with_reducible apply Only.after (firstLive_only _ _ _)); · rfl)
    | split
    | (refine Only.update (by assumption) ?_; intro p; cases p <;> first | exact .inl rfl | exact .inr rfl)

theorem loadComplete_only (s : State) : Only [.fresh, .outbox, .regs, .hl, .heads, .groups, .sched, .fabric, .fa, .keep, .lanterns, .si, .oq, .dict, .ic, .pm] s (loadComplete s) := by
  have sk := Only.refl [.fresh, .outbox, .regs, .hl, .heads, .groups, .sched, .fabric, .fa, .keep, .lanterns, .si, .oq, .dict, .ic, .pm] s
  unfold loadComplete
  repeat' first
    | with_reducible assumption
    | (extract_lets +onlyGivenNames b; first | (unfold b; clear b) | clear b)
    | ((with_reducible apply Only.after (raise_only _ _)); · rfl)
    | ((with_reducible apply Only.after (finishLoad_only _ _)); · rfl)
    | split
    | (refine Only.update (by assumption) ?_; intro p; cases p <;> first | exact .inl rfl | exact .inr rfl)

end Sys2Proof.Machine
end

