-- ==== Sys2Proof/Laws/OnlyFabricCmds.lean ====
section
/-! SUPPORT. The parts of the state that the operations of FabricCmds may change. -/

set_option linter.all false

namespace Sys2Proof.Machine

theorem damageBurst_only (burst : Nat) (s : State) : Only [.fabric] s (damageBurst burst s) := by
  have sk := Only.refl [.fabric] s
  unfold damageBurst
  repeat' first
    | with_reducible assumption
    | (extract_lets +onlyGivenNames b; first | (unfold b; clear b) | clear b)
    | split
    | (refine Only.update (by assumption) ?_; intro p; cases p <;> first | exact .inl rfl | exact .inr rfl)

theorem damageMeta_only (burst : Nat) (s : State) : Only [.fabric] s (damageMeta burst s) := by
  have sk := Only.refl [.fabric] s
  unfold damageMeta
  repeat' first
    | with_reducible assumption
    | (extract_lets +onlyGivenNames b; first | (unfold b; clear b) | clear b)
    | split
    | (refine Only.update (by assumption) ?_; intro p; cases p <;> first | exact .inl rfl | exact .inr rfl)

theorem shadowLost_only (n : Nat) (s : State) (y : Nat) : Only [.keep] s (shadowLost n s y) := by
  have sk := Only.refl [.keep] s
  unfold shadowLost
  repeat' first
    | with_reducible assumption
    | (extract_lets +onlyGivenNames b; first | (refine Only.cut (Only [.keep] s b) ?_ ?_ <;> first | (intro hb; clear_value b; refine Only.hold ?_) | intro hb | (unfold b; clear b)) | (((first | (have h0 : Nat := b; clear h0) | (have h0 : Bool := b; clear h0) | (have h0 : BitVec _ := b; clear h0) | (have h0 : List _ := b; clear h0)); clear_value b)) | (unfold b; clear b) | clear b)
    | ((with_reducible apply Only.after (State.setKeepHead_only _ _ _)); · rfl)
    | (refine Only.update (by assumption) ?_; intro p; cases p <;> first | exact .inl rfl | exact .inr rfl)

theorem shadowHit_only (s : State) : Only [.keep] s (shadowHit s) := by
  have sk := Only.refl [.keep] s
  unfold shadowHit
  repeat' first
    | with_reducible assumption
    | ((with_reducible apply Only.after (shadowLost_only _ _ _)); · rfl)
    | ((with_reducible refine Only.fold _ ?_ ?_) <;> try intro x a hb)
    | split

theorem eccUncorrectable_only (m : Nat) (burst : Nat) (req : Nat) (partialWrite : Bool) (metadata : Bool) (s : State) : Only [.outbox, .regs, .hl, .fabric, .keep, .dict, .ic, .pm, .safety] s (eccUncorrectable m burst req partialWrite metadata s) := by
  have sk := Only.refl [.outbox, .regs, .hl, .fabric, .keep, .dict, .ic, .pm, .safety] s
  unfold eccUncorrectable
  repeat' first
    | with_reducible assumption
    | (extract_lets +onlyGivenNames b; first | (refine Only.cut (Only [.outbox, .regs, .hl, .fabric, .keep, .dict, .ic, .pm, .safety] s b) ?_ ?_ <;> first | (intro hb; clear_value b; refine Only.hold ?_) | intro hb | (unfold b; clear b)) | (((first | (have h0 : Nat := b; clear h0) | (have h0 : Bool := b; clear h0) | (have h0 : BitVec _ := b; clear h0) | (have h0 : List _ := b; clear h0)); clear_value b)) | (unfold b; clear b) | clear b)
    | ((with_reducible apply Only.after (eccUncorrect_only _ _ _ _)); · rfl)
    | ((with_reducible apply Only.after (setCategory_only _ _ _)); · rfl)
    | ((with_reducible apply Only.after (damageBurst_only _ _)); · rfl)
    | ((with_reducible apply Only.after (damageMeta_only _ _)); · rfl)
    | ((with_reducible apply Only.after (shadowHit_only _)); · rfl)
    | split

theorem eccWriteback_only (m : Nat) (s : State) : Only [.outbox, .hl, .fabric, .ic, .pm] s (eccWriteback m s) := by
  have sk := Only.refl [.outbox, .hl, .fabric, .ic, .pm] s
  unfold eccWriteback
  repeat' first
    | with_reducible assumption
    | (extract_lets +onlyGivenNames b; first | (unfold b; clear b) | clear b)
    | ((with_reducible apply Only.after (serveBurst_only _ _ _)); · rfl)
    | split
    | (refine Only.update (by assumption) ?_; intro p; cases p <;> first | exact .inl rfl | exact .inr rfl)

theorem patrolScrub_only (m : Nat) (burst : Nat) (single : Bool) (s : State) : Only [.outbox, .regs, .hl, .fabric, .ic, .pm] s (patrolScrub m burst single s) := by
  have sk := Only.refl [.outbox, .regs, .hl, .fabric, .ic, .pm] s
  unfold patrolScrub
  repeat' first
    | with_reducible assumption
    | (extract_lets +onlyGivenNames b; first | (refine Only.cut (Only [.outbox, .regs, .hl, .fabric, .ic, .pm] s b) ?_ ?_ <;> first | (intro hb; clear_value b; refine Only.hold ?_) | intro hb | (unfold b; clear b)) | (((first | (have h0 : Nat := b; clear h0) | (have h0 : Bool := b; clear h0) | (have h0 : BitVec _ := b; clear h0) | (have h0 : List _ := b; clear h0)); clear_value b)) | (unfold b; clear b) | clear b)
    | ((with_reducible apply Only.after (eccCorrect_only _ _ _ _)); · rfl)
    | ((with_reducible apply Only.after (eccUncorrect_only _ _ _ _)); · rfl)
    | ((with_reducible apply Only.after (serve_only _ _ _ _)); · rfl)
    | split

theorem pinComplete_only (i : Nat) (s : State) : Only [.outbox, .regs, .hl, .fabric, .ic, .pm] s (pinComplete i s) := by
  have sk := Only.refl [.outbox, .regs, .hl, .fabric, .ic, .pm] s
  unfold pinComplete
  repeat' first
    | with_reducible assumption
    | (extract_lets +onlyGivenNames b; first | (unfold b; clear b) | clear b)
    | ((with_reducible apply Only.after (completePin_only _ _)); · rfl)
    | split
    | (refine Only.update (by assumption) ?_; intro p; cases p <;> first | exact .inl rfl | exact .inr rfl)

theorem invalidate_only (ctx : Nat) (va : Nat) (all : Bool) (s : State) : Only [.fabric] s (invalidate ctx va all s) := by
  have sk := Only.refl [.fabric] s
  unfold invalidate
  repeat' first
    | with_reducible assumption
    | (extract_lets +onlyGivenNames b; first | (unfold b; clear b) | clear b)
    | (refine Only.update (by assumption) ?_; intro p; cases p <;> first | exact .inl rfl | exact .inr rfl)

theorem tlbInv_only (src : Source) (ctx : Nat) (all : Bool) (s : State) : Only [.outbox, .err, .hl, .fabric, .ic, .pm] s (tlbInv src ctx all s) := by
  have sk := Only.refl [.outbox, .err, .hl, .fabric, .ic, .pm] s
  unfold tlbInv
  repeat' first
    | with_reducible assumption
    | ((with_reducible apply Only.after (refuse_only _ _ _ _)); · rfl)
    | ((with_reducible apply Only.after (invalidate_only _ _ _ _)); · rfl)
    | split

theorem rewalkShadow_only (r : Rewalk) (s : State) : Only [.outbox, .regs, .hl, .fabric, .ic, .pm] s (rewalkShadow r s).1 := by
  have sk := Only.refl [.outbox, .regs, .hl, .fabric, .ic, .pm] s
  unfold rewalkShadow
  repeat' first
    | with_reducible assumption
    | (extract_lets +onlyGivenNames b; first | (refine Only.cut (Only [.outbox, .regs, .hl, .fabric, .ic, .pm] s b) ?_ ?_ <;> first | (intro hb; clear_value b; refine Only.hold ?_) | intro hb | (unfold b; clear b)) | (((first | (have h0 : Nat := b; clear h0) | (have h0 : Bool := b; clear h0) | (have h0 : BitVec _ := b; clear h0) | (have h0 : List _ := b; clear h0)); clear_value b)) | (unfold b; clear b) | clear b)
    | ((with_reducible apply Only.after (reportWalks_only _ _ _ _ _)); · rfl)
    | split

theorem rewalk_only (r : Rewalk) (s : State) : Only [.outbox, .regs, .hl, .fabric, .ic, .pm] s (rewalk r s) := by
  have sk := Only.refl [.outbox, .regs, .hl, .fabric, .ic, .pm] s
  unfold rewalk
  repeat' first
    | with_reducible assumption
    | (extract_lets +onlyGivenNames b; first | (refine Only.cut (Only [.outbox, .regs, .hl, .fabric, .ic, .pm] s b) ?_ ?_ <;> first | (intro hb; clear_value b; refine Only.hold ?_) | intro hb | (unfold b; clear b)) | (refine Only.cut (Only [.outbox, .regs, .hl, .fabric, .ic, .pm] s b.1) ?_ ?_ <;> first | (intro hb; clear_value b; refine Only.hold ?_) | intro hb | (unfold b; clear b)) | (((first | (have h0 : Nat := b; clear h0) | (have h0 : Bool := b; clear h0) | (have h0 : BitVec _ := b; clear h0) | (have h0 : List _ := b; clear h0)); clear_value b)) | (unfold b; clear b) | clear b)
    | ((with_reducible apply Only.after (State.bump_only _ _ _ _ _)); · rfl)
    | ((with_reducible apply Only.after (raise_only _ _)); · rfl)
    | ((with_reducible apply Only.after (reportWalks_only _ _ _ _ _)); · rfl)
    | ((with_reducible apply Only.after (rewalkShadow_only _ _)); · rfl)
    | with_reducible refine Only.fst (by assumption) ?_
    | split
    | (refine Only.update (by assumption) ?_; intro p; cases p <;> first | exact .inl rfl | exact .inr rfl)
    | (refine Only.update ?_ ?_; (with_reducible refine Only.fst (by assumption) ?_); rotate_left; intro p; cases p <;> first | exact .inl rfl | exact .inr rfl)

theorem rewalkComplete_only (i : Nat) (s : State) : Only [.outbox, .regs, .hl, .fabric, .ic, .pm] s (rewalkComplete i s) := by
  have sk := Only.refl [.outbox, .regs, .hl, .fabric, .ic, .pm] s
  unfold rewalkComplete
  repeat' first
    | with_reducible assumption
    | (extract_lets +onlyGivenNames b; first | (unfold b; clear b) | clear b)
    | ((with_reducible apply Only.after (rewalk_only _ _)); · rfl)
    | split
    | (refine Only.update (by assumption) ?_; intro p; cases p <;> first | exact .inl rfl | exact .inr rfl)

theorem mr4Poll_only (m : Nat) (mult : Nat) (hot : Bool) (s : State) : Only [.outbox, .hl, .fabric, .ic, .pm] s (mr4Poll m mult hot s) := by
  have sk := Only.refl [.outbox, .hl, .fabric, .ic, .pm] s
  unfold mr4Poll
  repeat' first
    | with_reducible assumption
    | (extract_lets +onlyGivenNames b; first | (refine Only.cut (Only [.outbox, .hl, .fabric, .ic, .pm] s b) ?_ ?_ <;> first | (intro hb; clear_value b; refine Only.hold ?_) | intro hb | (unfold b; clear b)) | (((first | (have h0 : Nat := b; clear h0) | (have h0 : Bool := b; clear h0) | (have h0 : BitVec _ := b; clear h0) | (have h0 : List _ := b; clear h0)); clear_value b)) | (unfold b; clear b) | clear b)
    | ((with_reducible apply Only.after (State.setChannel_only _ _ _)); · rfl)
    | ((with_reducible apply Only.after (raise_only _ _)); · rfl)
    | split
    | (refine Only.update (by assumption) ?_; intro p; cases p <;> first | exact .inl rfl | exact .inr rfl)

theorem bar2Read_only (f : Nat) (off : Nat) (len : Nat) (s : State) : Only [.outbox, .reply, .regs, .hl, .fabric, .ic, .pm] s (bar2Read f off len s) := by
  have sk := Only.refl [.outbox, .reply, .regs, .hl, .fabric, .ic, .pm] s
  unfold bar2Read
  repeat' first
    | with_reducible assumption
    | (extract_lets +onlyGivenNames b; first | (refine Only.cut (Only [.outbox, .reply, .regs, .hl, .fabric, .ic, .pm] s b) ?_ ?_ <;> first | (intro hb; clear_value b; refine Only.hold ?_) | intro hb | (unfold b; clear b)) | (refine Only.cut (Only [.outbox, .reply, .regs, .hl, .fabric, .ic, .pm] s b.1) ?_ ?_ <;> first | (intro hb; clear_value b; refine Only.hold ?_) | intro hb | (unfold b; clear b)) | (((first | (have h0 : Nat := b; clear h0) | (have h0 : Bool := b; clear h0) | (have h0 : BitVec _ := b; clear h0) | (have h0 : List _ := b; clear h0)); clear_value b)) | (unfold b; clear b) | clear b)
    | ((with_reducible apply Only.after (State.wakeLink_only _ _)); · rfl)
    | ((with_reducible apply Only.after (State.answer_only _ _)); · rfl)
    | ((with_reducible apply Only.after (aerLog_only _ _ _)); · rfl)
    | ((with_reducible apply Only.after (openRead_only _ _ _ _ _)); · rfl)
    | with_reducible refine Only.fst (by assumption) ?_
    | split

theorem bar2Write_only (f : Nat) (off : Nat) (bytes : List (Option Byte)) (poisoned : Bool) (s : State) : Only [.outbox, .regs, .mem, .hl, .fabric, .ic, .pm] s (bar2Write f off bytes poisoned s) := by
  have sk := Only.refl [.outbox, .regs, .mem, .hl, .fabric, .ic, .pm] s
  unfold bar2Write
  repeat' first
    | with_reducible assumption
    | (extract_lets +onlyGivenNames b; first | (refine Only.cut (Only [.outbox, .regs, .mem, .hl, .fabric, .ic, .pm] s b) ?_ ?_ <;> first | (intro hb; clear_value b; refine Only.hold ?_) | intro hb | (unfold b; clear b)) | (refine Only.cut (Only [.outbox, .regs, .mem, .hl, .fabric, .ic, .pm] s b.1) ?_ ?_ <;> first | (intro hb; clear_value b; refine Only.hold ?_) | intro hb | (unfold b; clear b)) | (((first | (have h0 : Nat := b; clear h0) | (have h0 : Bool := b; clear h0) | (have h0 : BitVec _ := b; clear h0) | (have h0 : List _ := b; clear h0)); clear_value b)) | (unfold b; clear b) | clear b)
    | ((with_reducible apply Only.after (State.wakeLink_only _ _)); · rfl)
    | ((with_reducible apply Only.after (aerLog_only _ _ _)); · rfl)
    | ((with_reducible apply Only.after (openWrite_only _ _ _ _ _)); · rfl)
    | with_reducible refine Only.fst (by assumption) ?_
    | split

end Sys2Proof.Machine
end

