-- ==== Sys2Proof/Laws/OnlyLayerCmds.lean ====
section
/-! SUPPORT. The parts of the state that the operations of LayerCmds may change. -/

set_option linter.all false

namespace Sys2Proof.Machine

theorem portResult_only (p : Nat) (code : Nat) (s : State) : Only [.fa] s (portResult p code s) := by
  have sk := Only.refl [.fa] s
  unfold portResult
  repeat' first
    | with_reducible assumption
    | (extract_lets +onlyGivenNames b; first | (unfold b; clear b) | clear b)
    | (refine Only.update (by assumption) ?_; intro p; cases p <;> first | exact .inl rfl | exact .inr rfl)

theorem appendEntry_only (f : Nat) (p : Nat) (staged : Bool) (s : State) : Only [.fabric, .fa] s (appendEntry f p staged s) := by
  have sk := Only.refl [.fabric, .fa] s
  unfold appendEntry
  repeat' first
    | with_reducible assumption
    | (extract_lets +onlyGivenNames b; first | (refine Only.cut (Only [.fabric, .fa] s b) ?_ ?_ <;> first | (intro hb; clear_value b; refine Only.hold ?_) | intro hb | (unfold b; clear b)) | (((first | (have h0 : Nat := b; clear h0) | (have h0 : Bool := b; clear h0) | (have h0 : BitVec _ := b; clear h0) | (have h0 : List _ := b; clear h0)); clear_value b)) | (unfold b; clear b) | clear b)
    | ((with_reducible apply Only.after (State.setLayer_only _ _ _)); · rfl)
    | ((with_reducible apply Only.after (requestPin_only _ _ _ _ _)); · rfl)
    | split
    | (refine Only.update (by assumption) ?_; intro p; cases p <;> first | exact .inl rfl | exact .inr rfl)

theorem updEntry_only (slot : Nat) (k : Nat) (g : QEntry → QEntry) (s : State) : Only [.fa] s (updEntry slot k g s) := by
  have sk := Only.refl [.fa] s
  unfold updEntry
  repeat' first
    | with_reducible assumption
    | (extract_lets +onlyGivenNames b; first | (refine Only.cut (Only [.fa] s b) ?_ ?_ <;> first | (intro hb; clear_value b; refine Only.hold ?_) | intro hb | (unfold b; clear b)) | (((first | (have h0 : Nat := b; clear h0) | (have h0 : Bool := b; clear h0) | (have h0 : BitVec _ := b; clear h0) | (have h0 : List _ := b; clear h0)); clear_value b)) | (unfold b; clear b) | clear b)
    | ((with_reducible apply Only.after (State.setLayer_only _ _ _)); · rfl)
    | split
    | (refine Only.update (by assumption) ?_; intro p; cases p <;> first | exact .inl rfl | exact .inr rfl)

theorem nextCopy_only (s : State) : Only [.hl, .fa] s (nextCopy s) := by
  have sk := Only.refl [.hl, .fa] s
  unfold nextCopy
  repeat' first
    | with_reducible assumption
    | (extract_lets +onlyGivenNames b; first | (refine Only.cut (Only [.hl, .fa] s b) ?_ ?_ <;> first | (intro hb; clear_value b; refine Only.hold ?_) | intro hb | (unfold b; clear b)) | (((first | (have h0 : Nat := b; clear h0) | (have h0 : Bool := b; clear h0) | (have h0 : BitVec _ := b; clear h0) | (have h0 : List _ := b; clear h0)); clear_value b)) | (unfold b; clear b) | clear b)
    | ((with_reducible apply Only.after (State.wakeLink_only _ _)); · rfl)
    | ((with_reducible apply Only.after (updEntry_only _ _ _ _)); · rfl)
    | ((with_reducible refine Only.fold _ ?_ ?_) <;> try intro x a hb)
    | split
    | (refine Only.update (by assumption) ?_; intro p; cases p <;> first | exact .inl rfl | exact .inr rfl)

theorem queueOp_only (f : Nat) (p : Nat) (staged : Bool) (s : State) : Only [.hl, .fabric, .fa] s (queueOp f p staged s) := by
  have sk := Only.refl [.hl, .fabric, .fa] s
  unfold queueOp
  repeat' first
    | with_reducible assumption
    | (extract_lets +onlyGivenNames b; first | (refine Only.cut (Only [.hl, .fabric, .fa] s b) ?_ ?_ <;> first | (intro hb; clear_value b; refine Only.hold ?_) | intro hb | (unfold b; clear b)) | (((first | (have h0 : Nat := b; clear h0) | (have h0 : Bool := b; clear h0) | (have h0 : BitVec _ := b; clear h0) | (have h0 : List _ := b; clear h0)); clear_value b)) | (unfold b; clear b) | clear b)
    | ((with_reducible apply Only.after (portResult_only _ _ _)); · rfl)
    | ((with_reducible apply Only.after (appendEntry_only _ _ _ _)); · rfl)
    | ((with_reducible apply Only.after (nextCopy_only _)); · rfl)
    | split

theorem signalOp_only (f : Nat) (p : Nat) (s : State) : Only [.fa, .lanterns] s (signalOp f p s) := by
  have sk := Only.refl [.fa, .lanterns] s
  unfold signalOp
  repeat' first
    | with_reducible assumption
    | (extract_lets +onlyGivenNames b; first | (refine Only.cut (Only [.fa, .lanterns] s b) ?_ ?_ <;> first | (intro hb; clear_value b; refine Only.hold ?_) | intro hb | (unfold b; clear b)) | (((first | (have h0 : Nat := b; clear h0) | (have h0 : Bool := b; clear h0) | (have h0 : BitVec _ := b; clear h0) | (have h0 : List _ := b; clear h0)); clear_value b)) | (unfold b; clear b) | clear b)
    | ((with_reducible apply Only.after (setFence_only _ _ _)); · rfl)
    | ((with_reducible apply Only.after (portResult_only _ _ _)); · rfl)
    | split

theorem cancelSlot_only (p : Nat) (s : State) (slot : Nat) : Only [.fabric, .fa] s (cancelSlot p s slot) := by
  have sk := Only.refl [.fabric, .fa] s
  unfold cancelSlot
  repeat' first
    | with_reducible assumption
    | (extract_lets +onlyGivenNames b; first | (refine Only.cut (Only [.fabric, .fa] s b) ?_ ?_ <;> first | (intro hb; clear_value b; refine Only.hold ?_) | intro hb | (unfold b; clear b)) | (((first | (have h0 : Nat := b; clear h0) | (have h0 : Bool := b; clear h0) | (have h0 : BitVec _ := b; clear h0) | (have h0 : List _ := b; clear h0)); clear_value b)) | (unfold b; clear b) | clear b)
    | ((with_reducible apply Only.after (State.setLayer_only _ _ _)); · rfl)
    | ((with_reducible apply Only.after (leaveQueue_only _ _ _ _ _ _)); · rfl)
    | ((with_reducible refine Only.fold _ ?_ ?_) <;> try intro x a hb)
    | (refine Only.update (by assumption) ?_; intro p; cases p <;> first | exact .inl rfl | exact .inr rfl)

theorem cancelOp_only (p : Nat) (s : State) : Only [.regs, .hl, .fabric, .fa] s (cancelOp p s) := by
  have sk := Only.refl [.regs, .hl, .fabric, .fa] s
  unfold cancelOp
  repeat' first
    | with_reducible assumption
    | ((with_reducible apply Only.after (flushRecs_only _)); · rfl)
    | ((with_reducible apply Only.after (portResult_only _ _ _)); · rfl)
    | ((with_reducible apply Only.after (nextCopy_only _)); · rfl)
    | ((with_reducible apply Only.after (cancelSlot_only _ _ _)); · rfl)
    | ((with_reducible refine Only.fold _ ?_ ?_) <;> try intro x a hb)

theorem badOp_only (f : Nat) (p : Nat) (op : Nat) (s : State) : Only [.regs, .hl, .fabric, .fa, .lanterns] s (badOp f p op s) := by
  have sk := Only.refl [.regs, .hl, .fabric, .fa, .lanterns] s
  unfold badOp
  repeat' first
    | with_reducible assumption
    | (extract_lets +onlyGivenNames b; first | (unfold b; clear b) | clear b)
    | ((with_reducible apply Only.after (portResult_only _ _ _)); · rfl)
    | ((with_reducible apply Only.after (queueOp_only _ _ _ _)); · rfl)
    | ((with_reducible apply Only.after (signalOp_only _ _ _)); · rfl)
    | ((with_reducible apply Only.after (cancelOp_only _ _)); · rfl)
    | split
    | (refine Only.update (by assumption) ?_; intro p; cases p <;> first | exact .inl rfl | exact .inr rfl)

theorem copyLines_only (e : QEntry) (c : Stage) (ls : List (Nat × List Byte)) (s : State) : Only [.outbox, .regs, .mem, .hl, .fabric, .ic, .pm] s (copyLines e c ls s).1 := by
  induction ls generalizing s with
  | nil => exact Only.refl _ s
  | cons a l ih =>
    have sk := Only.refl [.outbox, .regs, .mem, .hl, .fabric, .ic, .pm] s
    unfold copyLines
    repeat' first
      | with_reducible assumption
      | (extract_lets +onlyGivenNames b; first | (refine Only.cut (Only [.outbox, .regs, .mem, .hl, .fabric, .ic, .pm] s b) ?_ ?_ <;> first | (intro hb; clear_value b; refine Only.hold ?_) | intro hb | (unfold b; clear b)) | (refine Only.cut (Only [.outbox, .regs, .mem, .hl, .fabric, .ic, .pm] s b.1) ?_ ?_ <;> first | (intro hb; clear_value b; refine Only.hold ?_) | intro hb | (unfold b; clear b)) | (((first | (have h0 : Nat := b; clear h0) | (have h0 : Bool := b; clear h0) | (have h0 : BitVec _ := b; clear h0) | (have h0 : List _ := b; clear h0)); clear_value b)) | (unfold b; clear b) | clear b)
      | ((with_reducible apply Only.after (ih _)); · rfl)
      | ((with_reducible apply Only.after (perfEvent_only _ _ _ _ _)); · rfl)
      | ((with_reducible apply Only.after (openWrite_only _ _ _ _ _)); · rfl)
      | with_reducible refine Only.fst (by assumption) ?_
      | ((with_reducible refine Only.fold _ ?_ ?_) <;> try intro x a hb)
      | ((with_reducible refine Only.foldP _ ?_ ?_) <;> try (intro x a hb; rcases x with ⟨x, xr⟩))
      | split
      | (refine Only.update (by assumption) ?_; intro p; cases p <;> first | exact .inl rfl | exact .inr rfl)
      | (refine Only.update ?_ ?_; (with_reducible refine Only.fst (by assumption) ?_); rotate_left; intro p; cases p <;> first | exact .inl rfl | exact .inr rfl)

theorem endStage_only (slot : Nat) (k : Nat) (failed : Option Nat) (s : State) : Only [.hl, .fa] s (endStage slot k failed s) := by
  have sk := Only.refl [.hl, .fa] s
  unfold endStage
  repeat' first
    | with_reducible assumption
    | (extract_lets +onlyGivenNames b; first | (unfold b; clear b) | clear b)
    | ((with_reducible apply Only.after (updEntry_only _ _ _ _)); · rfl)
    | ((with_reducible apply Only.after (nextCopy_only _)); · rfl)
    | (refine Only.update (by assumption) ?_; intro p; cases p <;> first | exact .inl rfl | exact .inr rfl)

theorem stageCopyDone_only (slot : Nat) (k : Nat) (lines : List (List Byte)) (s : State) : Only [.outbox, .regs, .mem, .hl, .fabric, .fa, .ic, .pm] s (stageCopyDone slot k lines s) := by
  have sk := Only.refl [.outbox, .regs, .mem, .hl, .fabric, .fa, .ic, .pm] s
  unfold stageCopyDone
  repeat' first
    | with_reducible assumption
    | (extract_lets +onlyGivenNames b; first | (refine Only.cut (Only [.outbox, .regs, .mem, .hl, .fabric, .fa, .ic, .pm] s b) ?_ ?_ <;> first | (intro hb; clear_value b; refine Only.hold ?_) | intro hb | (unfold b; clear b)) | (refine Only.cut (Only [.outbox, .regs, .mem, .hl, .fabric, .fa, .ic, .pm] s b.1) ?_ ?_ <;> first | (intro hb; clear_value b; refine Only.hold ?_) | intro hb | (unfold b; clear b)) | (((first | (have h0 : Nat := b; clear h0) | (have h0 : Bool := b; clear h0) | (have h0 : BitVec _ := b; clear h0) | (have h0 : List _ := b; clear h0)); clear_value b)) | (unfold b; clear b) | clear b)
    | ((with_reducible apply Only.after (State.wakeLink_only _ _)); · rfl)
    | ((with_reducible apply Only.after (copyLines_only _ _ _ _)); · rfl)
    | ((with_reducible apply Only.after (endStage_only _ _ _ _)); · rfl)
    | with_reducible refine Only.fst (by assumption) ?_
    | split
    | (refine Only.update (by assumption) ?_; intro p; cases p <;> first | exact .inl rfl | exact .inr rfl)
    | (refine Only.update ?_ ?_; (with_reducible refine Only.fst (by assumption) ?_); rotate_left; intro p; cases p <;> first | exact .inl rfl | exact .inr rfl)

theorem stageCopyFail_only (slot : Nat) (k : Nat) (detail : Nat) (lines : List (List Byte)) (s : State) : Only [.outbox, .regs, .mem, .hl, .fabric, .fa, .ic, .pm] s (stageCopyFail slot k detail lines s) := by
  have sk := Only.refl [.outbox, .regs, .mem, .hl, .fabric, .fa, .ic, .pm] s
  unfold stageCopyFail
  repeat' first
    | with_reducible assumption
    | (extract_lets +onlyGivenNames b; first | (refine Only.cut (Only [.outbox, .regs, .mem, .hl, .fabric, .fa, .ic, .pm] s b) ?_ ?_ <;> first | (intro hb; clear_value b; refine Only.hold ?_) | intro hb | (unfold b; clear b)) | (refine Only.cut (Only [.outbox, .regs, .mem, .hl, .fabric, .fa, .ic, .pm] s b.1) ?_ ?_ <;> first | (intro hb; clear_value b; refine Only.hold ?_) | intro hb | (unfold b; clear b)) | (((first | (have h0 : Nat := b; clear h0) | (have h0 : Bool := b; clear h0) | (have h0 : BitVec _ := b; clear h0) | (have h0 : List _ := b; clear h0)); clear_value b)) | (unfold b; clear b) | clear b)
    | ((with_reducible apply Only.after (State.wakeLink_only _ _)); · rfl)
    | ((with_reducible apply Only.after (copyLines_only _ _ _ _)); · rfl)
    | ((with_reducible apply Only.after (endStage_only _ _ _ _)); · rfl)
    | with_reducible refine Only.fst (by assumption) ?_
    | split
    | (refine Only.update (by assumption) ?_; intro p; cases p <;> first | exact .inl rfl | exact .inr rfl)
    | (refine Only.update ?_ ?_; (with_reducible refine Only.fst (by assumption) ?_); rotate_left; intro p; cases p <;> first | exact .inl rfl | exact .inr rfl)

end Sys2Proof.Machine
end

