-- ==== Sys2Proof/Laws/OnlyKeepCmds.lean ====
section
/-! SUPPORT. The parts of the state that the operations of KeepCmds may change. -/

set_option linter.all false

namespace Sys2Proof.Machine

theorem keepMismatch_only (n : Nat) (col : Nat) (row : Nat) (unknown : Bool) (s : State) : Only [.outbox, .regs, .hl, .keep, .dict, .ic, .pm, .safety] s (keepMismatch n col row unknown s) := by
  have sk := Only.refl [.outbox, .regs, .hl, .keep, .dict, .ic, .pm, .safety] s
  unfold keepMismatch
  repeat' first
    | with_reducible assumption
    | ((with_reducible apply Only.after (tileFault_only _ _ _ _ _ _ _)); · rfl)
    | split

theorem shadowLate_only (n : Nat) (x : Nat) (y : Nat) (s : State) : Only [.outbox, .hl, .keep, .dict, .ic, .pm, .safety] s (shadowLate n x y s) := by
  have sk := Only.refl [.outbox, .hl, .keep, .dict, .ic, .pm, .safety] s
  unfold shadowLate
  repeat' first
    | with_reducible assumption
    | (extract_lets +onlyGivenNames b; first | (unfold b; clear b) | clear b)
    | ((with_reducible apply Only.after (keepFault_only _ _ _ _)); · rfl)
    | split
    | (refine Only.update (by assumption) ?_; intro p; cases p <;> first | exact .inl rfl | exact .inr rfl)

theorem keepClockFault_only (t : ClockTarget) (s : State) : Only [.outbox, .hl, .keep, .dict, .ic, .pm, .safety] s (keepClockFault t s) := by
  have sk := Only.refl [.outbox, .hl, .keep, .dict, .ic, .pm, .safety] s
  unfold keepClockFault
  repeat' first
    | with_reducible assumption
    | (extract_lets +onlyGivenNames b; first | (refine Only.cut (Only [.outbox, .hl, .keep, .dict, .ic, .pm, .safety] s b) ?_ ?_ <;> first | (intro hb; clear_value b; refine Only.hold ?_) | intro hb | (unfold b; clear b)) | (((first | (have h0 : Nat := b; clear h0) | (have h0 : Bool := b; clear h0) | (have h0 : BitVec _ := b; clear h0) | (have h0 : List _ := b; clear h0)); clear_value b)) | (unfold b; clear b) | clear b)
    | ((with_reducible apply Only.after (keepFault_only _ _ _ _)); · rfl)
    | ((with_reducible refine Only.fold _ ?_ ?_) <;> try intro x a hb)
    | split
    | (refine Only.update (by assumption) ?_; intro p; cases p <;> first | exact .inl rfl | exact .inr rfl)

theorem keepClockRestored_only (t : ClockTarget) (s : State) : Only [.keep] s (keepClockRestored t s) := by
  have sk := Only.refl [.keep] s
  unfold keepClockRestored
  repeat' first
    | with_reducible assumption
    | (extract_lets +onlyGivenNames b; first | (unfold b; clear b) | clear b)
    | (refine Only.update (by assumption) ?_; intro p; cases p <;> first | exact .inl rfl | exact .inr rfl)

theorem selftestLine_only (n : Nat) (pass : Bool) (s : State) : Only [.outbox, .hl, .keep, .dict, .ic, .pm, .safety] s (selftestLine n pass s) := by
  have sk := Only.refl [.outbox, .hl, .keep, .dict, .ic, .pm, .safety] s
  unfold selftestLine
  repeat' first
    | with_reducible assumption
    | (extract_lets +onlyGivenNames b; first | (refine Only.cut (Only [.outbox, .hl, .keep, .dict, .ic, .pm, .safety] s b) ?_ ?_ <;> first | (intro hb; clear_value b; refine Only.hold ?_) | intro hb | (unfold b; clear b)) | (((first | (have h0 : Nat := b; clear h0) | (have h0 : Bool := b; clear h0) | (have h0 : BitVec _ := b; clear h0) | (have h0 : List _ := b; clear h0)); clear_value b)) | (unfold b; clear b) | clear b)
    | ((with_reducible apply Only.after (State.setKeepHead_only _ _ _)); · rfl)
    | ((with_reducible apply Only.after (keepFault_only _ _ _ _)); · rfl)
    | split
    | (refine Only.update (by assumption) ?_; intro p; cases p <;> first | exact .inl rfl | exact .inr rfl)

theorem keepClear_only (src : Source) (n : Nat) (regions : BitVec 4) (s : State) : Only [.outbox, .err, .hl, .keep, .ic, .pm] s (keepClear src n regions s) := by
  have sk := Only.refl [.outbox, .err, .hl, .keep, .ic, .pm] s
  unfold keepClear
  repeat' first
    | with_reducible assumption
    | (extract_lets +onlyGivenNames b; first | (unfold b; clear b) | clear b)
    | ((with_reducible apply Only.after (State.setKeepHead_only _ _ _)); · rfl)
    | ((with_reducible apply Only.after (refuse_only _ _ _ _)); · rfl)
    | split
    | (refine Only.update (by assumption) ?_; intro p; cases p <;> first | exact .inl rfl | exact .inr rfl)

end Sys2Proof.Machine
end

