-- ==== Sys2Proof/Laws/OnlyCvCmds.lean ====
section
/-! SUPPORT. The parts of the state that the operations of CvCmds may change. -/

set_option linter.all false

namespace Sys2Proof.Machine

theorem scanRange_only (u : Nat) (ctx : Nat) (va : Nat) (n : Nat) (s : State) : Only [.outbox, .regs, .hl, .fabric, .ic, .pm] s (scanRange u ctx va n s).1 := by
  have sk := Only.refl [.outbox, .regs, .hl, .fabric, .ic, .pm] s
  unfold scanRange
  repeat' first
    | with_reducible assumption
    | (extract_lets +onlyGivenNames b; first | (unfold b; clear b) | clear b)
    | ((with_reducible apply Only.after (perfEvent_only _ _ _ _ _)); · rfl)
    | ((with_reducible apply Only.after (readRange_only _ _ _ _ _)); · rfl)
    | with_reducible refine Only.fst (by assumption) ?_
    | split
    | (refine Only.update (by assumption) ?_; intro p; cases p <;> first | exact .inl rfl | exact .inr rfl)
    | (refine Only.update ?_ ?_; (with_reducible refine Only.fst (by assumption) ?_); rotate_left; intro p; cases p <;> first | exact .inl rfl | exact .inr rfl)

theorem scanLines_only (u : Nat) (x : CvDesc) (ls : List Nat) (s : State) : Only [.outbox, .regs, .hl, .fabric, .ic, .pm] s (scanLines u x ls s).1 := by
  induction ls generalizing s with
  | nil => exact Only.refl _ s
  | cons a l ih =>
    have sk := Only.refl [.outbox, .regs, .hl, .fabric, .ic, .pm] s
    unfold scanLines
    repeat' first
      | with_reducible assumption
      | (extract_lets +onlyGivenNames b; first | (refine Only.cut (Only [.outbox, .regs, .hl, .fabric, .ic, .pm] s b) ?_ ?_ <;> first | (intro hb; clear_value b; refine Only.hold ?_) | intro hb | (unfold b; clear b)) | (refine Only.cut (Only [.outbox, .regs, .hl, .fabric, .ic, .pm] s b.1) ?_ ?_ <;> first | (intro hb; clear_value b; refine Only.hold ?_) | intro hb | (unfold b; clear b)) | (((first | (have h0 : Nat := b; clear h0) | (have h0 : Bool := b; clear h0) | (have h0 : BitVec _ := b; clear h0) | (have h0 : List _ := b; clear h0)); clear_value b)) | (unfold b; clear b) | clear b)
      | ((with_reducible apply Only.after (ih _)); · rfl)
      | ((with_reducible apply Only.after (scanRange_only _ _ _ _ _)); · rfl)
      | with_reducible refine Only.fst (by assumption) ?_
      | ((with_reducible refine Only.fold _ ?_ ?_) <;> try intro x a hb)
      | ((with_reducible refine Only.foldP _ ?_ ?_) <;> try (intro x a hb; rcases x with ⟨x, xr⟩))
      | split
      | (refine Only.update (by assumption) ?_; intro p; cases p <;> first | exact .inl rfl | exact .inr rfl)
      | (refine Only.update ?_ ?_; (with_reducible refine Only.fst (by assumption) ?_); rotate_left; intro p; cases p <;> first | exact .inl rfl | exact .inr rfl)

theorem setRes_only (u : Nat) (d : Nat) (v : DWord) (s : State) : Only [.cv] s (setRes u d v s) := by
  have sk := Only.refl [.cv] s
  unfold setRes
  repeat' first
    | with_reducible assumption
    | (extract_lets +onlyGivenNames b; first | (unfold b; clear b) | clear b)
    | ((with_reducible apply Only.after (State.setCvUnit_only _ _ _)); · rfl)
    | (refine Only.update (by assumption) ?_; intro p; cases p <;> first | exact .inl rfl | exact .inr rfl)

theorem noteMismatch_only (u : Nat) (d : Nat) (s : State) : Only [.cv] s (noteMismatch u d s) := by
  have sk := Only.refl [.cv] s
  unfold noteMismatch
  repeat' first
    | with_reducible assumption
    | (extract_lets +onlyGivenNames b; first | (refine Only.cut (Only [.cv] s b) ?_ ?_ <;> first | (intro hb; clear_value b; refine Only.hold ?_) | intro hb | (unfold b; clear b)) | (((first | (have h0 : Nat := b; clear h0) | (have h0 : Bool := b; clear h0) | (have h0 : BitVec _ := b; clear h0) | (have h0 : List _ := b; clear h0)); clear_value b)) | (unfold b; clear b) | clear b)
    | ((with_reducible apply Only.after (State.setCvUnit_only _ _ _)); · rfl)
    | split
    | (refine Only.update (by assumption) ?_; intro p; cases p <;> first | exact .inl rfl | exact .inr rfl)

theorem enterBytes_only (u : Nat) (d : Nat) (x : CvDesc) (r : CvRun) (l : List Byte) (s : State) : Only [.cv] s (enterBytes u d x r l s).1 := by
  have sk := Only.refl [.cv] s
  unfold enterBytes
  repeat' first
    | with_reducible assumption
    | (extract_lets +onlyGivenNames b; first | (refine Only.cut (Only [.cv] s b) ?_ ?_ <;> first | (intro hb; clear_value b; refine Only.hold ?_) | intro hb | (unfold b; clear b)) | (((first | (have h0 : Nat := b; clear h0) | (have h0 : Bool := b; clear h0) | (have h0 : BitVec _ := b; clear h0) | (have h0 : List _ := b; clear h0)); clear_value b)) | (unfold b; clear b) | clear b)
    | ((with_reducible apply Only.after (setRes_only _ _ _ _)); · rfl)
    | ((with_reducible apply Only.after (noteMismatch_only _ _ _)); · rfl)
    | split

theorem enterRecord_only (u : Nat) (d : Nat) (o : Outcome) (header : List Byte) (s : State) : Only [.cv] s (enterRecord u d o header s).1 := by
  have sk := Only.refl [.cv] s
  unfold enterRecord
  repeat' first
    | with_reducible assumption
    | (extract_lets +onlyGivenNames b; first | (refine Only.cut (Only [.cv] s b) ?_ ?_ <;> first | (intro hb; clear_value b; refine Only.hold ?_) | intro hb | (unfold b; clear b)) | (((first | (have h0 : Nat := b; clear h0) | (have h0 : Bool := b; clear h0) | (have h0 : BitVec _ := b; clear h0) | (have h0 : List _ := b; clear h0)); clear_value b)) | (unfold b; clear b) | clear b)
    | ((with_reducible apply Only.after (setRes_only _ _ _ _)); · rfl)
    | ((with_reducible apply Only.after (noteMismatch_only _ _ _)); · rfl)
    | split

theorem runRecord_only (u : Nat) (d : Nat) (x : CvDesc) (s : State) : Only [.outbox, .regs, .hl, .fabric, .ic, .cv, .pm] s (runRecord u d x s).1 := by
  have sk := Only.refl [.outbox, .regs, .hl, .fabric, .ic, .cv, .pm] s
  unfold runRecord
  repeat' first
    | with_reducible assumption
    | (extract_lets +onlyGivenNames b; first | (refine Only.cut (Only [.outbox, .regs, .hl, .fabric, .ic, .cv, .pm] s b) ?_ ?_ <;> first | (intro hb; clear_value b; refine Only.hold ?_) | intro hb | (unfold b; clear b)) | (refine Only.cut (Only [.outbox, .regs, .hl, .fabric, .ic, .cv, .pm] s b.1) ?_ ?_ <;> first | (intro hb; clear_value b; refine Only.hold ?_) | intro hb | (unfold b; clear b)) | (((first | (have h0 : Nat := b; clear h0) | (have h0 : Bool := b; clear h0) | (have h0 : BitVec _ := b; clear h0) | (have h0 : List _ := b; clear h0)); clear_value b)) | (unfold b; clear b) | clear b)
    | ((with_reducible apply Only.after (scanRange_only _ _ _ _ _)); · rfl)
    | ((with_reducible apply Only.after (enterRecord_only _ _ _ _ _)); · rfl)
    | with_reducible refine Only.fst (by assumption) ?_
    | split
    | (refine Only.update (by assumption) ?_; intro p; cases p <;> first | exact .inl rfl | exact .inr rfl)
    | (refine Only.update ?_ ?_; (with_reducible refine Only.fst (by assumption) ?_); rotate_left; intro p; cases p <;> first | exact .inl rfl | exact .inr rfl)

theorem runDesc_only (u : Nat) (d : Nat) (x : CvDesc) (r : CvRun) (s : State) : Only [.outbox, .regs, .hl, .fabric, .ic, .cv, .pm] s (runDesc u d x r s).1 := by
  have sk := Only.refl [.outbox, .regs, .hl, .fabric, .ic, .cv, .pm] s
  unfold runDesc
  repeat' first
    | with_reducible assumption
    | (extract_lets +onlyGivenNames b; first | (refine Only.cut (Only [.outbox, .regs, .hl, .fabric, .ic, .cv, .pm] s b) ?_ ?_ <;> first | (intro hb; clear_value b; refine Only.hold ?_) | intro hb | (unfold b; clear b)) | (refine Only.cut (Only [.outbox, .regs, .hl, .fabric, .ic, .cv, .pm] s b.1) ?_ ?_ <;> first | (intro hb; clear_value b; refine Only.hold ?_) | intro hb | (unfold b; clear b)) | (((first | (have h0 : Nat := b; clear h0) | (have h0 : Bool := b; clear h0) | (have h0 : BitVec _ := b; clear h0) | (have h0 : List _ := b; clear h0)); clear_value b)) | (unfold b; clear b) | clear b)
    | ((with_reducible apply Only.after (scanRange_only _ _ _ _ _)); · rfl)
    | ((with_reducible apply Only.after (scanLines_only _ _ _ _)); · rfl)
    | ((with_reducible apply Only.after (enterBytes_only _ _ _ _ _ _)); · rfl)
    | ((with_reducible apply Only.after (runRecord_only _ _ _ _)); · rfl)
    | with_reducible refine Only.fst (by assumption) ?_
    | split
    | (refine Only.update (by assumption) ?_; intro p; cases p <;> first | exact .inl rfl | exact .inr rfl)
    | (refine Only.update ?_ ?_; (with_reducible refine Only.fst (by assumption) ?_); rotate_left; intro p; cases p <;> first | exact .inl rfl | exact .inr rfl)

theorem clearRest_only (u : Nat) (l : List (Nat × CvDesc)) (s : State) : Only [.cv] s (clearRest u l s) := by
  have sk := Only.refl [.cv] s
  unfold clearRest
  repeat' first
    | with_reducible assumption
    | ((with_reducible apply Only.after (setRes_only _ _ _ _)); · rfl)
    | ((with_reducible refine Only.fold _ ?_ ?_) <;> try intro x a hb)

theorem runDescs_only (u : Nat) (ls : List (Nat × CvDesc)) (r : CvRun) (s : State) : Only [.outbox, .regs, .hl, .fabric, .ic, .cv, .pm] s (runDescs u ls r s).1 := by
  induction ls generalizing r s with
  | nil => exact Only.refl _ s
  | cons a l ih =>
    have sk := Only.refl [.outbox, .regs, .hl, .fabric, .ic, .cv, .pm] s
    unfold runDescs
    repeat' first
      | with_reducible assumption
      | (extract_lets +onlyGivenNames b; first | (refine Only.cut (Only [.outbox, .regs, .hl, .fabric, .ic, .cv, .pm] s b) ?_ ?_ <;> first | (intro hb; clear_value b; refine Only.hold ?_) | intro hb | (unfold b; clear b)) | (refine Only.cut (Only [.outbox, .regs, .hl, .fabric, .ic, .cv, .pm] s b.1) ?_ ?_ <;> first | (intro hb; clear_value b; refine Only.hold ?_) | intro hb | (unfold b; clear b)) | (((first | (have h0 : Nat := b; clear h0) | (have h0 : Bool := b; clear h0) | (have h0 : BitVec _ := b; clear h0) | (have h0 : List _ := b; clear h0)); clear_value b)) | (unfold b; clear b) | clear b)
      | ((with_reducible apply Only.after (ih _ _)); · rfl)
      | ((with_reducible apply Only.after (runDesc_only _ _ _ _ _)); · rfl)
      | ((with_reducible apply Only.after (clearRest_only _ _ _)); · rfl)
      | with_reducible refine Only.fst (by assumption) ?_
      | ((with_reducible refine Only.fold _ ?_ ?_) <;> try intro x a hb)
      | ((with_reducible refine Only.foldP _ ?_ ?_) <;> try (intro x a hb; rcases x with ⟨x, xr⟩))
      | split
      | (refine Only.update (by assumption) ?_; intro p; cases p <;> first | exact .inl rfl | exact .inr rfl)
      | (refine Only.update ?_ ?_; (with_reducible refine Only.fst (by assumption) ?_); rotate_left; intro p; cases p <;> first | exact .inl rfl | exact .inr rfl)

theorem cvFinish_only (u : Nat) (err : Nat) (index : Nat) (empty : Bool) (s : State) : Only [.outbox, .hl, .ic, .cv, .pm] s (cvFinish u err index empty s) := by
  have sk := Only.refl [.outbox, .hl, .ic, .cv, .pm] s
  unfold cvFinish
  repeat' first
    | with_reducible assumption
    | (extract_lets +onlyGivenNames b; first | (refine Only.cut (Only [.outbox, .hl, .ic, .cv, .pm] s b) ?_ ?_ <;> first | (intro hb; clear_value b; refine Only.hold ?_) | intro hb | (unfold b; clear b)) | (((first | (have h0 : Nat := b; clear h0) | (have h0 : Bool := b; clear h0) | (have h0 : BitVec _ := b; clear h0) | (have h0 : List _ := b; clear h0)); clear_value b)) | (unfold b; clear b) | clear b)
    | ((with_reducible apply Only.after (State.setCvUnit_only _ _ _)); · rfl)
    | ((with_reducible apply Only.after (perfEvent_only _ _ _ _ _)); · rfl)
    | ((with_reducible apply Only.after (raise_only _ _)); · rfl)
    | split
    | (refine Only.update (by assumption) ?_; intro p; cases p <;> first | exact .inl rfl | exact .inr rfl)

theorem cvBegin_only (u : Nat) (entry : Nat) (s : State) : Only [.outbox, .hl, .ic, .cv, .pm] s (cvBegin u entry s) := by
  have sk := Only.refl [.outbox, .hl, .ic, .cv, .pm] s
  unfold cvBegin
  repeat' first
    | with_reducible assumption
    | (extract_lets +onlyGivenNames b; first | (refine Only.cut (Only [.outbox, .hl, .ic, .cv, .pm] s b) ?_ ?_ <;> first | (intro hb; clear_value b; refine Only.hold ?_) | intro hb | (unfold b; clear b)) | (((first | (have h0 : Nat := b; clear h0) | (have h0 : Bool := b; clear h0) | (have h0 : BitVec _ := b; clear h0) | (have h0 : List _ := b; clear h0)); clear_value b)) | (unfold b; clear b) | clear b)
    | ((with_reducible apply Only.after (State.setCvUnit_only _ _ _)); · rfl)
    | ((with_reducible apply Only.after (cvFinish_only _ _ _ _ _)); · rfl)
    | split
    | (refine Only.update (by assumption) ?_; intro p; cases p <;> first | exact .inl rfl | exact .inr rfl)

theorem cvProgramEnd_only (u : Nat) (s : State) : Only [.outbox, .regs, .hl, .fabric, .ic, .cv, .pm] s (cvProgramEnd u s) := by
  have sk := Only.refl [.outbox, .regs, .hl, .fabric, .ic, .cv, .pm] s
  unfold cvProgramEnd
  repeat' first
    | with_reducible assumption
    | (extract_lets +onlyGivenNames b; first | (refine Only.cut (Only [.outbox, .regs, .hl, .fabric, .ic, .cv, .pm] s b) ?_ ?_ <;> first | (intro hb; clear_value b; refine Only.hold ?_) | intro hb | (unfold b; clear b)) | (refine Only.cut (Only [.outbox, .regs, .hl, .fabric, .ic, .cv, .pm] s b.1) ?_ ?_ <;> first | (intro hb; clear_value b; refine Only.hold ?_) | intro hb | (unfold b; clear b)) | (((first | (have h0 : Nat := b; clear h0) | (have h0 : Bool := b; clear h0) | (have h0 : BitVec _ := b; clear h0) | (have h0 : List _ := b; clear h0)); clear_value b)) | (unfold b; clear b) | clear b)
    | ((with_reducible apply Only.after (runDescs_only _ _ _ _)); · rfl)
    | ((with_reducible apply Only.after (cvFinish_only _ _ _ _ _)); · rfl)
    | with_reducible refine Only.fst (by assumption) ?_
    | split
    | (refine Only.update (by assumption) ?_; intro p; cases p <;> first | exact .inl rfl | exact .inr rfl)
    | (refine Only.update ?_ ?_; (with_reducible refine Only.fst (by assumption) ?_); rotate_left; intro p; cases p <;> first | exact .inl rfl | exact .inr rfl)

theorem cvAbortRun_only (u : Nat) (s : State) : Only [.fresh, .outbox, .regs, .hl, .fabric, .ic, .cv, .pm] s (cvAbortRun u s) := by
  have sk := Only.refl [.fresh, .outbox, .regs, .hl, .fabric, .ic, .cv, .pm] s
  unfold cvAbortRun
  repeat' first
    | with_reducible assumption
    | (extract_lets +onlyGivenNames b; first | (refine Only.cut (Only [.fresh, .outbox, .regs, .hl, .fabric, .ic, .cv, .pm] s b) ?_ ?_ <;> first | (intro hb; clear_value b; refine Only.hold ?_) | intro hb | (unfold b; clear b)) | (refine Only.cut (Only [.fresh, .outbox, .regs, .hl, .fabric, .ic, .cv, .pm] s b.1) ?_ ?_ <;> first | (intro hb; clear_value b; refine Only.hold ?_) | intro hb | (unfold b; clear b)) | (((first | (have h0 : Nat := b; clear h0) | (have h0 : Bool := b; clear h0) | (have h0 : BitVec _ := b; clear h0) | (have h0 : List _ := b; clear h0)); clear_value b)) | (unfold b; clear b) | clear b)
    | ((with_reducible apply Only.after (State.draw_only _ _)); · rfl)
    | ((with_reducible apply Only.after (clearRest_only _ _ _)); · rfl)
    | ((with_reducible apply Only.after (runDescs_only _ _ _ _)); · rfl)
    | ((with_reducible apply Only.after (cvFinish_only _ _ _ _ _)); · rfl)
    | with_reducible refine Only.fst (by assumption) ?_
    | split
    | (refine Only.update (by assumption) ?_; intro p; cases p <;> first | exact .inl rfl | exact .inr rfl)
    | (refine Only.update ?_ ?_; (with_reducible refine Only.fst (by assumption) ?_); rotate_left; intro p; cases p <;> first | exact .inl rfl | exact .inr rfl)

theorem cvCtrlBusy_only (src : Source) (u : Nat) (v : Word) (s : State) : Only [.fresh, .outbox, .regs, .err, .hl, .fabric, .ic, .cv, .pm] s (cvCtrlBusy src u v s) := by
  have sk := Only.refl [.fresh, .outbox, .regs, .err, .hl, .fabric, .ic, .cv, .pm] s
  unfold cvCtrlBusy
  repeat' first
    | with_reducible assumption
    | (extract_lets +onlyGivenNames b; first | (refine Only.cut (Only [.fresh, .outbox, .regs, .err, .hl, .fabric, .ic, .cv, .pm] s b) ?_ ?_ <;> first | (intro hb; clear_value b; refine Only.hold ?_) | intro hb | (unfold b; clear b)) | (((first | (have h0 : Nat := b; clear h0) | (have h0 : Bool := b; clear h0) | (have h0 : BitVec _ := b; clear h0) | (have h0 : List _ := b; clear h0)); clear_value b)) | (unfold b; clear b) | clear b)
    | ((with_reducible apply Only.after (State.setReg_only _ _ _)); · rfl)
    | ((with_reducible apply Only.after (refuse_only _ _ _ _)); · rfl)
    | ((with_reducible apply Only.after (cvAbortRun_only _ _)); · rfl)
    | split

theorem cvCtrl_only (src : Source) (u : Nat) (v : Word) (s : State) : Only [.fresh, .outbox, .regs, .err, .hl, .fabric, .ic, .cv, .pm] s (cvCtrl src u v s) := by
  have sk := Only.refl [.fresh, .outbox, .regs, .err, .hl, .fabric, .ic, .cv, .pm] s
  unfold cvCtrl
  repeat' first
    | with_reducible assumption
    | ((with_reducible apply Only.after (State.setReg_only _ _ _)); · rfl)
    | ((with_reducible apply Only.after (refuse_only _ _ _ _)); · rfl)
    | ((with_reducible apply Only.after (cvBegin_only _ _ _)); · rfl)
    | ((with_reducible apply Only.after (cvCtrlBusy_only _ _ _ _)); · rfl)
    | split

theorem landCvStatus_only (u : Nat) (v : Word) (s : State) : Only [.cv] s (landCvStatus u v s) := by
  have sk := Only.refl [.cv] s
  unfold landCvStatus
  repeat' first
    | with_reducible assumption
    | (extract_lets +onlyGivenNames b; first | (unfold b; clear b) | clear b)
    | ((with_reducible apply Only.after (State.setCvUnit_only _ _ _)); · rfl)
    | split
    | (refine Only.update (by assumption) ?_; intro p; cases p <;> first | exact .inl rfl | exact .inr rfl)

end Sys2Proof.Machine
end

