-- ==== Sys2Proof/Laws/OnlyLanternCmds.lean ====
section
/-! SUPPORT. The parts of the state that the operations of LanternCmds may change. -/

set_option linter.all false

namespace Sys2Proof.Machine

theorem beginPace_only (l : Nat) (s : State) : Only [.tick, .corePhase, .outbox, .hl, .lanterns, .ic, .pm] s (beginPace l s) := by
  have sk := Only.refl [.tick, .corePhase, .outbox, .hl, .lanterns, .ic, .pm] s
  unfold beginPace
  repeat' first
    | with_reducible assumption
    | (extract_lets +onlyGivenNames b; first | (refine Only.cut (Only [.tick, .corePhase, .outbox, .hl, .lanterns, .ic, .pm] s b) ?_ ?_ <;> first | (intro hb; clear_value b; refine Only.hold ?_) | intro hb | (unfold b; clear b)) | (((first | (have h0 : Nat := b; clear h0) | (have h0 : Bool := b; clear h0) | (have h0 : BitVec _ := b; clear h0) | (have h0 : List _ := b; clear h0)); clear_value b)) | (unfold b; clear b) | clear b)
    | ((with_reducible apply Only.after (State.setLantern_only _ _ _)); · rfl)
    | ((with_reducible apply Only.after (toTick_only _ _)); · rfl)
    | split
    | (refine Only.update (by assumption) ?_; intro p; cases p <;> first | exact .inl rfl | exact .inr rfl)

theorem freshBudget_only (l : Nat) (s : State) : Only [.lanterns] s (freshBudget l s) := by
  have sk := Only.refl [.lanterns] s
  unfold freshBudget
  repeat' first
    | with_reducible assumption
    | (extract_lets +onlyGivenNames b; first | (refine Only.cut (Only [.lanterns] s b) ?_ ?_ <;> first | (intro hb; clear_value b; refine Only.hold ?_) | intro hb | (unfold b; clear b)) | (((first | (have h0 : Nat := b; clear h0) | (have h0 : Bool := b; clear h0) | (have h0 : BitVec _ := b; clear h0) | (have h0 : List _ := b; clear h0)); clear_value b)) | (unfold b; clear b) | clear b)
    | ((with_reducible apply Only.after (State.setLantern_only _ _ _)); · rfl)
    | split
    | (refine Only.update (by assumption) ?_; intro p; cases p <;> first | exact .inl rfl | exact .inr rfl)

theorem advancePc_only (l : Nat) (s : State) : Only [.outbox, .hl, .flares, .lanterns, .ic, .pm] s (advancePc l s) := by
  have sk := Only.refl [.outbox, .hl, .flares, .lanterns, .ic, .pm] s
  unfold advancePc
  repeat' first
    | with_reducible assumption
    | (extract_lets +onlyGivenNames b; first | (refine Only.cut (Only [.outbox, .hl, .flares, .lanterns, .ic, .pm] s b) ?_ ?_ <;> first | (intro hb; clear_value b; refine Only.hold ?_) | intro hb | (unfold b; clear b)) | (((first | (have h0 : Nat := b; clear h0) | (have h0 : Bool := b; clear h0) | (have h0 : BitVec _ := b; clear h0) | (have h0 : List _ := b; clear h0)); clear_value b)) | (unfold b; clear b) | clear b)
    | ((with_reducible apply Only.after (State.setLantern_only _ _ _)); · rfl)
    | ((with_reducible apply Only.after (lanternFault_only _ _ _)); · rfl)
    | split
    | (refine Only.update (by assumption) ?_; intro p; cases p <;> first | exact .inl rfl | exact .inr rfl)

theorem setLg_only (l : Nat) (r : Nat) (v : Word) (s : State) : Only [.lanterns] s (setLg l r v s) := by
  have sk := Only.refl [.lanterns] s
  unfold setLg
  repeat' first
    | with_reducible assumption
    | (extract_lets +onlyGivenNames b; first | (unfold b; clear b) | clear b)
    | ((with_reducible apply Only.after (State.setLantern_only _ _ _)); · rfl)
    | (refine Only.update (by assumption) ?_; intro p; cases p <;> first | exact .inl rfl | exact .inr rfl)

theorem setFlag_only (l : Nat) (b : Bool) (s : State) : Only [.lanterns] s (setFlag l b s) := by
  have sk := Only.refl [.lanterns] s
  unfold setFlag
  repeat' first
    | with_reducible assumption
    | (extract_lets +onlyGivenNames b; first | (unfold b; clear b) | clear b)
    | ((with_reducible apply Only.after (State.setLantern_only _ _ _)); · rfl)
    | (refine Only.update (by assumption) ?_; intro p; cases p <;> first | exact .inl rfl | exact .inr rfl)

theorem writeRd_only (l : Nat) (w : Word) (v : Word) (s : State) : Only [.outbox, .hl, .flares, .lanterns, .ic, .pm] s (writeRd l w v s) := by
  have sk := Only.refl [.outbox, .hl, .flares, .lanterns, .ic, .pm] s
  unfold writeRd
  repeat' first
    | with_reducible assumption
    | ((with_reducible apply Only.after (advancePc_only _ _)); · rfl)
    | ((with_reducible apply Only.after (setLg_only _ _ _ _)); · rfl)

theorem beginWait_only (l : Nat) (wt : LWait) (hit : Option Nat) (s : State) : Only [.lanterns] s (beginWait l wt hit s) := by
  have sk := Only.refl [.lanterns] s
  unfold beginWait
  repeat' first
    | with_reducible assumption
    | (extract_lets +onlyGivenNames b; first | (unfold b; clear b) | clear b)
    | ((with_reducible apply Only.after (State.setLantern_only _ _ _)); · rfl)
    | (refine Only.update (by assumption) ?_; intro p; cases p <;> first | exact .inl rfl | exact .inr rfl)

theorem endWait_only (l : Nat) (s : State) : Only [.outbox, .hl, .flares, .lanterns, .ic, .pm] s (endWait l s) := by
  have sk := Only.refl [.outbox, .hl, .flares, .lanterns, .ic, .pm] s
  unfold endWait
  repeat' first
    | with_reducible assumption
    | (extract_lets +onlyGivenNames b; first | (unfold b; clear b) | clear b)
    | ((with_reducible apply Only.after (State.setLantern_only _ _ _)); · rfl)
    | ((with_reducible apply Only.after (advancePc_only _ _)); · rfl)
    | (refine Only.update (by assumption) ?_; intro p; cases p <;> first | exact .inl rfl | exact .inr rfl)

theorem haltIssue_only (l : Nat) (s : State) : Only [.outbox, .hl, .flares, .lanterns, .ic, .pm] s (haltIssue l s) := by
  have sk := Only.refl [.outbox, .hl, .flares, .lanterns, .ic, .pm] s
  unfold haltIssue
  repeat' first
    | with_reducible assumption
    | ((with_reducible apply Only.after (stopLantern_only _ _)); · rfl)
    | ((with_reducible apply Only.after (advancePc_only _ _)); · rfl)

theorem jumpTo_only (l : Nat) (t : Nat) (s : State) : Only [.lanterns] s (jumpTo l t s) := by
  have sk := Only.refl [.lanterns] s
  unfold jumpTo
  repeat' first
    | with_reducible assumption
    | (extract_lets +onlyGivenNames b; first | (unfold b; clear b) | clear b)
    | ((with_reducible apply Only.after (State.setLantern_only _ _ _)); · rfl)
    | (refine Only.update (by assumption) ?_; intro p; cases p <;> first | exact .inl rfl | exact .inr rfl)

theorem waitlIssue_only (l : Nat) (w : Word) (s : State) : Only [.outbox, .hl, .flares, .lanterns, .ic, .pm] s (waitlIssue l w s) := by
  have sk := Only.refl [.outbox, .hl, .flares, .lanterns, .ic, .pm] s
  unfold waitlIssue
  repeat' first
    | with_reducible assumption
    | (extract_lets +onlyGivenNames b; first | (refine Only.cut (Only [.outbox, .hl, .flares, .lanterns, .ic, .pm] s b) ?_ ?_ <;> first | (intro hb; clear_value b; refine Only.hold ?_) | intro hb | (unfold b; clear b)) | (((first | (have h0 : Nat := b; clear h0) | (have h0 : Bool := b; clear h0) | (have h0 : BitVec _ := b; clear h0) | (have h0 : List _ := b; clear h0)); clear_value b)) | (unfold b; clear b) | clear b)
    | ((with_reducible apply Only.after (lanternFault_only _ _ _)); · rfl)
    | ((with_reducible apply Only.after (beginWait_only _ _ _ _)); · rfl)
    | split

theorem markAndGo_only (l : Nat) (at_ : Nat) (s : State) : Only [.outbox, .hl, .flares, .lanterns, .ic, .pm] s (markAndGo l at_ s) := by
  have sk := Only.refl [.outbox, .hl, .flares, .lanterns, .ic, .pm] s
  unfold markAndGo
  repeat' first
    | with_reducible assumption
    | (extract_lets +onlyGivenNames b; first | (unfold b; clear b) | clear b)
    | ((with_reducible apply Only.after (State.setLantern_only _ _ _)); · rfl)
    | ((with_reducible apply Only.after (endWait_only _ _)); · rfl)
    | (refine Only.update (by assumption) ?_; intro p; cases p <;> first | exact .inl rfl | exact .inr rfl)

theorem waitlDone_only (l : Nat) (s : State) : Only [.outbox, .hl, .flares, .lanterns, .ic, .pm] s (waitlDone l s) := by
  have sk := Only.refl [.outbox, .hl, .flares, .lanterns, .ic, .pm] s
  unfold waitlDone
  repeat' first
    | with_reducible assumption
    | (extract_lets +onlyGivenNames b; first | (unfold b; clear b) | clear b)
    | ((with_reducible apply Only.after (markAndGo_only _ _ _)); · rfl)
    | split
    | (refine Only.update (by assumption) ?_; intro p; cases p <;> first | exact .inl rfl | exact .inr rfl)

theorem waitpIssue_only (l : Nat) (w : Word) (s : State) : Only [.outbox, .hl, .flares, .lanterns, .ic, .pm] s (waitpIssue l w s) := by
  have sk := Only.refl [.outbox, .hl, .flares, .lanterns, .ic, .pm] s
  unfold waitpIssue
  repeat' first
    | with_reducible assumption
    | (extract_lets +onlyGivenNames b; first | (refine Only.cut (Only [.outbox, .hl, .flares, .lanterns, .ic, .pm] s b) ?_ ?_ <;> first | (intro hb; clear_value b; refine Only.hold ?_) | intro hb | (unfold b; clear b)) | (((first | (have h0 : Nat := b; clear h0) | (have h0 : Bool := b; clear h0) | (have h0 : BitVec _ := b; clear h0) | (have h0 : List _ := b; clear h0)); clear_value b)) | (unfold b; clear b) | clear b)
    | ((with_reducible apply Only.after (lanternFault_only _ _ _)); · rfl)
    | ((with_reducible apply Only.after (beginWait_only _ _ _ _)); · rfl)
    | ((with_reducible apply Only.after (markAndGo_only _ _ _)); · rfl)
    | split

theorem waitpDone_only (l : Nat) (s : State) : Only [.tick, .corePhase, .outbox, .hl, .flares, .lanterns, .ic, .pm] s (waitpDone l s) := by
  have sk := Only.refl [.tick, .corePhase, .outbox, .hl, .flares, .lanterns, .ic, .pm] s
  unfold waitpDone
  repeat' first
    | with_reducible assumption
    | (extract_lets +onlyGivenNames b; first | (unfold b; clear b) | clear b)
    | ((with_reducible apply Only.after (toTick_only _ _)); · rfl)
    | ((with_reducible apply Only.after (markAndGo_only _ _ _)); · rfl)
    | split
    | (refine Only.update (by assumption) ?_; intro p; cases p <;> first | exact .inl rfl | exact .inr rfl)

theorem waitfIssue_only (l : Nat) (w : Word) (s : State) : Only [.outbox, .hl, .flares, .lanterns, .ic, .pm] s (waitfIssue l w s) := by
  have sk := Only.refl [.outbox, .hl, .flares, .lanterns, .ic, .pm] s
  unfold waitfIssue
  repeat' first
    | with_reducible assumption
    | (extract_lets +onlyGivenNames b; first | (refine Only.cut (Only [.outbox, .hl, .flares, .lanterns, .ic, .pm] s b) ?_ ?_ <;> first | (intro hb; clear_value b; refine Only.hold ?_) | intro hb | (unfold b; clear b)) | (((first | (have h0 : Nat := b; clear h0) | (have h0 : Bool := b; clear h0) | (have h0 : BitVec _ := b; clear h0) | (have h0 : List _ := b; clear h0)); clear_value b)) | (unfold b; clear b) | clear b)
    | ((with_reducible apply Only.after (setFlag_only _ _ _)); · rfl)
    | ((with_reducible apply Only.after (beginWait_only _ _ _ _)); · rfl)
    | ((with_reducible apply Only.after (endWait_only _ _)); · rfl)
    | split

theorem timedOut_only (l : Nat) (left : Nat) (s : State) : Only [.tick, .corePhase, .outbox, .hl, .ic, .pm] s (timedOut l left s).1 := by
  have sk := Only.refl [.tick, .corePhase, .outbox, .hl, .ic, .pm] s
  unfold timedOut
  repeat' first
    | with_reducible assumption
    | ((with_reducible apply Only.after (toTick_only _ _)); · rfl)
    | split

theorem waitfDone_only (l : Nat) (s : State) : Only [.tick, .corePhase, .outbox, .hl, .flares, .lanterns, .ic, .pm] s (waitfDone l s) := by
  have sk := Only.refl [.tick, .corePhase, .outbox, .hl, .flares, .lanterns, .ic, .pm] s
  unfold waitfDone
  repeat' first
    | with_reducible assumption
    | (extract_lets +onlyGivenNames b; first | (refine Only.cut (Only [.tick, .corePhase, .outbox, .hl, .flares, .lanterns, .ic, .pm] s b) ?_ ?_ <;> first | (intro hb; clear_value b; refine Only.hold ?_) | intro hb | (unfold b; clear b)) | (refine Only.cut (Only [.tick, .corePhase, .outbox, .hl, .flares, .lanterns, .ic, .pm] s b.1) ?_ ?_ <;> first | (intro hb; clear_value b; refine Only.hold ?_) | intro hb | (unfold b; clear b)) | (((first | (have h0 : Nat := b; clear h0) | (have h0 : Bool := b; clear h0) | (have h0 : BitVec _ := b; clear h0) | (have h0 : List _ := b; clear h0)); clear_value b)) | (unfold b; clear b) | clear b)
    | ((with_reducible apply Only.after (setFlag_only _ _ _)); · rfl)
    | ((with_reducible apply Only.after (endWait_only _ _)); · rfl)
    | ((with_reducible apply Only.after (timedOut_only _ _ _)); · rfl)
    | with_reducible refine Only.fst (by assumption) ?_
    | split
    | (refine Only.update (by assumption) ?_; intro p; cases p <;> first | exact .inl rfl | exact .inr rfl)
    | (refine Only.update ?_ ?_; (with_reducible refine Only.fst (by assumption) ?_); rotate_left; intro p; cases p <;> first | exact .inl rfl | exact .inr rfl)

theorem countMiss_only (l : Nat) (s : State) : Only [.regs] s (countMiss l s) := by
  have sk := Only.refl [.regs] s
  unfold countMiss
  repeat' first
    | with_reducible assumption
    | ((with_reducible apply Only.after (State.bump_only _ _ _ _ _)); · rfl)

theorem signalIssue_only (l : Nat) (w : Word) (s : State) : Only [.outbox, .regs, .hl, .flares, .fa, .lanterns, .ic, .pm] s (signalIssue l w s) := by
  have sk := Only.refl [.outbox, .regs, .hl, .flares, .fa, .lanterns, .ic, .pm] s
  unfold signalIssue
  repeat' first
    | with_reducible assumption
    | ((with_reducible apply Only.after (setFence_only _ _ _)); · rfl)
    | ((with_reducible apply Only.after (advancePc_only _ _)); · rfl)
    | ((with_reducible apply Only.after (setFlag_only _ _ _)); · rfl)
    | ((with_reducible apply Only.after (countMiss_only _ _)); · rfl)
    | split

theorem latchIssue_only (n : Nat) (s : State) : Only [.outbox, .regs, .hl, .heads, .flares, .fabric, .fa, .lanterns, .ic, .pm] s (latchIssue n s) := by
  have sk := Only.refl [.outbox, .regs, .hl, .heads, .flares, .fabric, .fa, .lanterns, .ic, .pm] s
  unfold latchIssue
  repeat' first
    | with_reducible assumption
    | (extract_lets +onlyGivenNames b; first | (refine Only.cut (Only [.outbox, .regs, .hl, .heads, .flares, .fabric, .fa, .lanterns, .ic, .pm] s b) ?_ ?_ <;> first | (intro hb; clear_value b; refine Only.hold ?_) | intro hb | (unfold b; clear b)) | (((first | (have h0 : Nat := b; clear h0) | (have h0 : Bool := b; clear h0) | (have h0 : BitVec _ := b; clear h0) | (have h0 : List _ := b; clear h0)); clear_value b)) | (unfold b; clear b) | clear b)
    | ((with_reducible apply Only.after (State.setHead_only _ _ _)); · rfl)
    | ((with_reducible apply Only.after (selectHead_only _ _)); · rfl)
    | ((with_reducible apply Only.after (advancePc_only _ _)); · rfl)
    | split
    | (refine Only.update (by assumption) ?_; intro p; cases p <;> first | exact .inl rfl | exact .inr rfl)

theorem startUnit_only (u : Nat) (s : State) : Only [.outbox, .hl, .ic, .cv, .pm] s (startUnit u s).1 := by
  have sk := Only.refl [.outbox, .hl, .ic, .cv, .pm] s
  unfold startUnit
  repeat' first
    | with_reducible assumption
    | ((with_reducible apply Only.after (cvBegin_only _ _ _)); · rfl)
    | ((with_reducible apply Only.after (cvCtrl_only _ _ _ _)); · rfl)
    | split

theorem stampIssue_only (l : Nat) (w : Word) (s : State) : Only [.outbox, .hl, .flares, .lanterns, .ic, .pm] s (stampIssue l w s) := by
  have sk := Only.refl [.outbox, .hl, .flares, .lanterns, .ic, .pm] s
  unfold stampIssue
  repeat' first
    | with_reducible assumption
    | (extract_lets +onlyGivenNames b; first | (refine Only.cut (Only [.outbox, .hl, .flares, .lanterns, .ic, .pm] s b) ?_ ?_ <;> first | (intro hb; clear_value b; refine Only.hold ?_) | intro hb | (unfold b; clear b)) | (((first | (have h0 : Nat := b; clear h0) | (have h0 : Bool := b; clear h0) | (have h0 : BitVec _ := b; clear h0) | (have h0 : List _ := b; clear h0)); clear_value b)) | (unfold b; clear b) | clear b)
    | ((with_reducible apply Only.after (State.setLantern_only _ _ _)); · rfl)
    | ((with_reducible apply Only.after (writeRd_only _ _ _ _)); · rfl)
    | split
    | (refine Only.update (by assumption) ?_; intro p; cases p <;> first | exact .inl rfl | exact .inr rfl)

theorem syncIssue_only (l : Nat) (w : Word) (s : State) : Only [.outbox, .hl, .flares, .lanterns, .ic, .pm] s (syncIssue l w s) := by
  have sk := Only.refl [.outbox, .hl, .flares, .lanterns, .ic, .pm] s
  unfold syncIssue
  repeat' first
    | with_reducible assumption
    | (extract_lets +onlyGivenNames b; first | (unfold b; clear b) | clear b)
    | ((with_reducible apply Only.after (State.send_only _ _)); · rfl)
    | ((with_reducible apply Only.after (advancePc_only _ _)); · rfl)
    | ((with_reducible apply Only.after (setFlag_only _ _ _)); · rfl)
    | ((with_reducible apply Only.after (beginWait_only _ _ _ _)); · rfl)
    | split
    | (refine Only.update (by assumption) ?_; intro p; cases p <;> first | exact .inl rfl | exact .inr rfl)

theorem relaySync_only (ch : Nat) (t : Nat) (s : State) : Only [.outbox, .casc] s (relaySync ch t s) := by
  have sk := Only.refl [.outbox, .casc] s
  unfold relaySync
  repeat' first
    | with_reducible assumption
    | (extract_lets +onlyGivenNames b; first | (refine Only.cut (Only [.outbox, .casc] s b) ?_ ?_ <;> first | (intro hb; clear_value b; refine Only.hold ?_) | intro hb | (unfold b; clear b)) | (((first | (have h0 : Nat := b; clear h0) | (have h0 : Bool := b; clear h0) | (have h0 : BitVec _ := b; clear h0) | (have h0 : List _ := b; clear h0)); clear_value b)) | (unfold b; clear b) | clear b)
    | ((with_reducible apply Only.after (State.send_only _ _)); · rfl)
    | split
    | (refine Only.update (by assumption) ?_; intro p; cases p <;> first | exact .inl rfl | exact .inr rfl)

theorem syncMarker_only (l : Nat) (marker : Option Nat) (s : State) : Only [.tick, .corePhase, .outbox, .hl, .flares, .lanterns, .ic, .pm, .casc] s (syncMarker l marker s) := by
  have sk := Only.refl [.tick, .corePhase, .outbox, .hl, .flares, .lanterns, .ic, .pm, .casc] s
  unfold syncMarker
  repeat' first
    | with_reducible assumption
    | (extract_lets +onlyGivenNames b; first | (refine Only.cut (Only [.tick, .corePhase, .outbox, .hl, .flares, .lanterns, .ic, .pm, .casc] s b) ?_ ?_ <;> first | (intro hb; clear_value b; refine Only.hold ?_) | intro hb | (unfold b; clear b)) | (refine Only.cut (Only [.tick, .corePhase, .outbox, .hl, .flares, .lanterns, .ic, .pm, .casc] s b.1) ?_ ?_ <;> first | (intro hb; clear_value b; refine Only.hold ?_) | intro hb | (unfold b; clear b)) | (((first | (have h0 : Nat := b; clear h0) | (have h0 : Bool := b; clear h0) | (have h0 : BitVec _ := b; clear h0) | (have h0 : List _ := b; clear h0)); clear_value b)) | (unfold b; clear b) | clear b)
    | ((with_reducible apply Only.after (State.setLantern_only _ _ _)); · rfl)
    | ((with_reducible apply Only.after (setFlag_only _ _ _)); · rfl)
    | ((with_reducible apply Only.after (endWait_only _ _)); · rfl)
    | ((with_reducible apply Only.after (timedOut_only _ _ _)); · rfl)
    | ((with_reducible apply Only.after (relaySync_only _ _ _)); · rfl)
    | with_reducible refine Only.fst (by assumption) ?_
    | split
    | (refine Only.update (by assumption) ?_; intro p; cases p <;> first | exact .inl rfl | exact .inr rfl)
    | (refine Only.update ?_ ?_; (with_reducible refine Only.fst (by assumption) ?_); rotate_left; intro p; cases p <;> first | exact .inl rfl | exact .inr rfl)

theorem setFlareBank_only (l : Nat) (b : List FlareEntry) (s : State) : Only [.flares] s (setFlareBank l b s) := by
  have sk := Only.refl [.flares] s
  unfold setFlareBank
  repeat' first
    | with_reducible assumption
    | (extract_lets +onlyGivenNames b; first | (unfold b; clear b) | clear b)
    | (refine Only.update (by assumption) ?_; intro p; cases p <;> first | exact .inl rfl | exact .inr rfl)

theorem drivePins_only (l : Nat) (mask : Word) (high : Bool) (s : State) : Only [.flares] s (drivePins l mask high s) := by
  have sk := Only.refl [.flares] s
  unfold drivePins
  repeat' first
    | with_reducible assumption
    | (extract_lets +onlyGivenNames b; first | (refine Only.cut (Only [.flares] s b) ?_ ?_ <;> first | (intro hb; clear_value b; refine Only.hold ?_) | intro hb | (unfold b; clear b)) | (((first | (have h0 : Nat := b; clear h0) | (have h0 : Bool := b; clear h0) | (have h0 : BitVec _ := b; clear h0) | (have h0 : List _ := b; clear h0)); clear_value b)) | (unfold b; clear b) | clear b)
    | split
    | (refine Only.update (by assumption) ?_; intro p; cases p <;> first | exact .inl rfl | exact .inr rfl)

theorem fireEntry_only (l : Nat) (e : FlareEntry) (rest : List FlareEntry) (s : State) : Only [.outbox, .regs, .hl, .flares, .ic, .cv, .pm] s (fireEntry l e rest s) := by
  have sk := Only.refl [.outbox, .regs, .hl, .flares, .ic, .cv, .pm] s
  unfold fireEntry
  repeat' first
    | with_reducible assumption
    | (extract_lets +onlyGivenNames b; first | (refine Only.cut (Only [.outbox, .regs, .hl, .flares, .ic, .cv, .pm] s b) ?_ ?_ <;> first | (intro hb; clear_value b; refine Only.hold ?_) | intro hb | (unfold b; clear b)) | (refine Only.cut (Only [.outbox, .regs, .hl, .flares, .ic, .cv, .pm] s b.1) ?_ ?_ <;> first | (intro hb; clear_value b; refine Only.hold ?_) | intro hb | (unfold b; clear b)) | (((first | (have h0 : Nat := b; clear h0) | (have h0 : Bool := b; clear h0) | (have h0 : BitVec _ := b; clear h0) | (have h0 : List _ := b; clear h0)); clear_value b)) | (unfold b; clear b) | clear b)
    | ((with_reducible apply Only.after (perfEvent_only _ _ _ _ _)); · rfl)
    | ((with_reducible apply Only.after (raise_only _ _)); · rfl)
    | ((with_reducible apply Only.after (countMiss_only _ _)); · rfl)
    | ((with_reducible apply Only.after (startUnit_only _ _)); · rfl)
    | ((with_reducible apply Only.after (setFlareBank_only _ _ _)); · rfl)
    | ((with_reducible apply Only.after (drivePins_only _ _ _ _)); · rfl)
    | with_reducible refine Only.fst (by assumption) ?_
    | split
    | (refine Only.update (by assumption) ?_; intro p; cases p <;> first | exact .inl rfl | exact .inr rfl)
    | (refine Only.update ?_ ?_; (with_reducible refine Only.fst (by assumption) ?_); rotate_left; intro p; cases p <;> first | exact .inl rfl | exact .inr rfl)

theorem fireUntil_only (l : Nat) (fall : Bool) (n : Nat) (s : State) : Only [.tick, .corePhase, .outbox, .regs, .hl, .flares, .ic, .cv, .pm] s (fireUntil l fall n s) := by
  induction n generalizing s with
  | zero => exact Only.refl _ s
  | succ n ih =>
    have sk := Only.refl [.tick, .corePhase, .outbox, .regs, .hl, .flares, .ic, .cv, .pm] s
    unfold fireUntil
    repeat' first
      | with_reducible assumption
      | (extract_lets +onlyGivenNames b; first | (refine Only.cut (Only [.tick, .corePhase, .outbox, .regs, .hl, .flares, .ic, .cv, .pm] s b) ?_ ?_ <;> first | (intro hb; clear_value b; refine Only.hold ?_) | intro hb | (unfold b; clear b)) | (refine Only.cut (Only [.tick, .corePhase, .outbox, .regs, .hl, .flares, .ic, .cv, .pm] s b.1) ?_ ?_ <;> first | (intro hb; clear_value b; refine Only.hold ?_) | intro hb | (unfold b; clear b)) | (((first | (have h0 : Nat := b; clear h0) | (have h0 : Bool := b; clear h0) | (have h0 : BitVec _ := b; clear h0) | (have h0 : List _ := b; clear h0)); clear_value b)) | (unfold b; clear b) | clear b)
      | ((with_reducible apply Only.after (ih _)); · rfl)
      | ((with_reducible apply Only.after (toTick_only _ _)); · rfl)
      | ((with_reducible apply Only.after (fireEntry_only _ _ _ _)); · rfl)
      | with_reducible refine Only.fst (by assumption) ?_
      | ((with_reducible refine Only.fold _ ?_ ?_) <;> try intro x a hb)
      | ((with_reducible refine Only.foldP _ ?_ ?_) <;> try (intro x a hb; rcases x with ⟨x, xr⟩))
      | split
      | (refine Only.update (by assumption) ?_; intro p; cases p <;> first | exact .inl rfl | exact .inr rfl)
      | (refine Only.update ?_ ?_; (with_reducible refine Only.fst (by assumption) ?_); rotate_left; intro p; cases p <;> first | exact .inl rfl | exact .inr rfl)

theorem flareFire_only (l : Nat) (s : State) : Only [.tick, .corePhase, .outbox, .regs, .hl, .flares, .ic, .cv, .pm] s (flareFire l s) := by
  have sk := Only.refl [.tick, .corePhase, .outbox, .regs, .hl, .flares, .ic, .cv, .pm] s
  unfold flareFire
  repeat' first
    | with_reducible assumption
    | ((with_reducible apply Only.after (fireUntil_only _ _ _ _)); · rfl)
    | split

theorem pulseEnd_only (l : Nat) (s : State) : Only [.tick, .corePhase, .outbox, .regs, .hl, .flares, .ic, .cv, .pm] s (pulseEnd l s) := by
  have sk := Only.refl [.tick, .corePhase, .outbox, .regs, .hl, .flares, .ic, .cv, .pm] s
  unfold pulseEnd
  repeat' first
    | with_reducible assumption
    | ((with_reducible apply Only.after (fireUntil_only _ _ _ _)); · rfl)
    | split

theorem enterBank_only (l : Nat) (e : FlareEntry) (s : State) : Only [.outbox, .regs, .hl, .flares, .ic, .cv, .pm] s (enterBank l e s) := by
  have sk := Only.refl [.outbox, .regs, .hl, .flares, .ic, .cv, .pm] s
  unfold enterBank
  repeat' first
    | with_reducible assumption
    | (extract_lets +onlyGivenNames b; first | (refine Only.cut (Only [.outbox, .regs, .hl, .flares, .ic, .cv, .pm] s b) ?_ ?_ <;> first | (intro hb; clear_value b; refine Only.hold ?_) | intro hb | (unfold b; clear b)) | (((first | (have h0 : Nat := b; clear h0) | (have h0 : Bool := b; clear h0) | (have h0 : BitVec _ := b; clear h0) | (have h0 : List _ := b; clear h0)); clear_value b)) | (unfold b; clear b) | clear b)
    | ((with_reducible apply Only.after (State.bump_only _ _ _ _ _)); · rfl)
    | ((with_reducible apply Only.after (perfEvent_only _ _ _ _ _)); · rfl)
    | ((with_reducible apply Only.after (setFlareBank_only _ _ _)); · rfl)
    | ((with_reducible apply Only.after (fireEntry_only _ _ _ _)); · rfl)
    | split
    | (refine Only.update (by assumption) ?_; intro p; cases p <;> first | exact .inl rfl | exact .inr rfl)

theorem flareIssue_only (l : Nat) (w : Word) (s : State) : Only [.outbox, .regs, .hl, .flares, .lanterns, .ic, .cv, .pm] s (flareIssue l w s) := by
  have sk := Only.refl [.outbox, .regs, .hl, .flares, .lanterns, .ic, .cv, .pm] s
  unfold flareIssue
  repeat' first
    | with_reducible assumption
    | (extract_lets +onlyGivenNames b; first | (refine Only.cut (Only [.outbox, .regs, .hl, .flares, .lanterns, .ic, .cv, .pm] s b) ?_ ?_ <;> first | (intro hb; clear_value b; refine Only.hold ?_) | intro hb | (unfold b; clear b)) | (((first | (have h0 : Nat := b; clear h0) | (have h0 : Bool := b; clear h0) | (have h0 : BitVec _ := b; clear h0) | (have h0 : List _ := b; clear h0)); clear_value b)) | (unfold b; clear b) | clear b)
    | ((with_reducible apply Only.after (lanternFault_only _ _ _)); · rfl)
    | ((with_reducible apply Only.after (advancePc_only _ _)); · rfl)
    | ((with_reducible apply Only.after (enterBank_only _ _ _)); · rfl)
    | split
    | (refine Only.update (by assumption) ?_; intro p; cases p <;> first | exact .inl rfl | exact .inr rfl)

theorem startFails_only (l : Nat) (pc : Nat) (bad : Option Nat) (s : State) : Only [.lanterns] s (startFails l pc bad s) := by
  have sk := Only.refl [.lanterns] s
  unfold startFails
  repeat' first
    | with_reducible assumption
    | (extract_lets +onlyGivenNames b; first | (refine Only.cut (Only [.lanterns] s b) ?_ ?_ <;> first | (intro hb; clear_value b; refine Only.hold ?_) | intro hb | (unfold b; clear b)) | (((first | (have h0 : Nat := b; clear h0) | (have h0 : Bool := b; clear h0) | (have h0 : BitVec _ := b; clear h0) | (have h0 : List _ := b; clear h0)); clear_value b)) | (unfold b; clear b) | clear b)
    | ((with_reducible apply Only.after (State.setLantern_only _ _ _)); · rfl)
    | split
    | (refine Only.update (by assumption) ?_; intro p; cases p <;> first | exact .inl rfl | exact .inr rfl)

theorem acceptStart_only (l : Nat) (entry : Nat) (len : Nat) (s : State) : Only [.lanterns] s (acceptStart l entry len s) := by
  have sk := Only.refl [.lanterns] s
  unfold acceptStart
  repeat' first
    | with_reducible assumption
    | (extract_lets +onlyGivenNames b; first | (refine Only.cut (Only [.lanterns] s b) ?_ ?_ <;> first | (intro hb; clear_value b; refine Only.hold ?_) | intro hb | (unfold b; clear b)) | (((first | (have h0 : Nat := b; clear h0) | (have h0 : Bool := b; clear h0) | (have h0 : BitVec _ := b; clear h0) | (have h0 : List _ := b; clear h0)); clear_value b)) | (unfold b; clear b) | clear b)
    | ((with_reducible apply Only.after (State.setLantern_only _ _ _)); · rfl)
    | ((with_reducible apply Only.after (freshBudget_only _ _)); · rfl)
    | split
    | (refine Only.update (by assumption) ?_; intro p; cases p <;> first | exact .inl rfl | exact .inr rfl)

theorem judgeStart_only (l : Nat) (s : State) : Only [.lanterns] s (judgeStart l s) := by
  have sk := Only.refl [.lanterns] s
  unfold judgeStart
  repeat' first
    | with_reducible assumption
    | (extract_lets +onlyGivenNames b; first | (refine Only.cut (Only [.lanterns] s b) ?_ ?_ <;> first | (intro hb; clear_value b; refine Only.hold ?_) | intro hb | (unfold b; clear b)) | (((first | (have h0 : Nat := b; clear h0) | (have h0 : Bool := b; clear h0) | (have h0 : BitVec _ := b; clear h0) | (have h0 : List _ := b; clear h0)); clear_value b)) | (unfold b; clear b) | clear b)
    | ((with_reducible apply Only.after (startFails_only _ _ _ _)); · rfl)
    | ((with_reducible apply Only.after (acceptStart_only _ _ _ _)); · rfl)
    | split
    | (refine Only.update (by assumption) ?_; intro p; cases p <;> first | exact .inl rfl | exact .inr rfl)

theorem storeLctrl_only (l : Nat) (v : Word) (s : State) : Only [.regs] s (storeLctrl l v s) := by
  have sk := Only.refl [.regs] s
  unfold storeLctrl
  repeat' first
    | with_reducible assumption
    | ((with_reducible apply Only.after (State.setReg_only _ _ _)); · rfl)

theorem landLctrl_only (l : Nat) (v : Word) (isLocal : Bool) (s : State) : Only [.regs, .lanterns] s (landLctrl l v isLocal s) := by
  have sk := Only.refl [.regs, .lanterns] s
  unfold landLctrl
  repeat' first
    | with_reducible assumption
    | (extract_lets +onlyGivenNames b; first | (refine Only.cut (Only [.regs, .lanterns] s b) ?_ ?_ <;> first | (intro hb; clear_value b; refine Only.hold ?_) | intro hb | (unfold b; clear b)) | (((first | (have h0 : Nat := b; clear h0) | (have h0 : Bool := b; clear h0) | (have h0 : BitVec _ := b; clear h0) | (have h0 : List _ := b; clear h0)); clear_value b)) | (unfold b; clear b) | clear b)
    | ((with_reducible apply Only.after (State.setLantern_only _ _ _)); · rfl)
    | ((with_reducible apply Only.after (stopLantern_only _ _)); · rfl)
    | ((with_reducible apply Only.after (judgeStart_only _ _)); · rfl)
    | ((with_reducible apply Only.after (storeLctrl_only _ _ _)); · rfl)
    | split
    | (refine Only.update (by assumption) ?_; intro p; cases p <;> first | exact .inl rfl | exact .inr rfl)

end Sys2Proof.Machine
end

