-- ==== Sys2Proof/Laws/OnlyIngressCmds.lean ====
section
/-! SUPPORT. The parts of the state that the operations of IngressCmds may change. -/

set_option linter.all false

namespace Sys2Proof.Machine

theorem bindRing_only (x : Nat) (s : State) : Only [.fabric, .si] s (bindRing x s) := by
  have sk := Only.refl [.fabric, .si] s
  unfold bindRing
  repeat' first
    | with_reducible assumption
    | (extract_lets +onlyGivenNames b; first | (refine Only.cut (Only [.fabric, .si] s b) ?_ ?_ <;> first | (intro hb; clear_value b; refine Only.hold ?_) | intro hb | (unfold b; clear b)) | (((first | (have h0 : Nat := b; clear h0) | (have h0 : Bool := b; clear h0) | (have h0 : BitVec _ := b; clear h0) | (have h0 : List _ := b; clear h0)); clear_value b)) | (unfold b; clear b) | clear b)
    | ((with_reducible apply Only.after (State.setStream_only _ _ _)); · rfl)
    | ((with_reducible apply Only.after (requestPin_only _ _ _ _ _)); · rfl)
    | ((with_reducible apply Only.after (dropPin_only _ _)); · rfl)
    | ((with_reducible apply Only.after (rejudgeRing_only _ _)); · rfl)
    | (refine Only.update (by assumption) ?_; intro p; cases p <;> first | exact .inl rfl | exact .inr rfl)

theorem applyStream_only (x : Nat) (s : State) : Only [.regs, .fabric, .si] s (applyStream x s) := by
  have sk := Only.refl [.regs, .fabric, .si] s
  unfold applyStream
  repeat' first
    | with_reducible assumption
    | (extract_lets +onlyGivenNames b; first | (refine Only.cut (Only [.regs, .fabric, .si] s b) ?_ ?_ <;> first | (intro hb; clear_value b; refine Only.hold ?_) | intro hb | (unfold b; clear b)) | (((first | (have h0 : Nat := b; clear h0) | (have h0 : Bool := b; clear h0) | (have h0 : BitVec _ := b; clear h0) | (have h0 : List _ := b; clear h0)); clear_value b)) | (unfold b; clear b) | clear b)
    | ((with_reducible apply Only.after (State.setStream_only _ _ _)); · rfl)
    | ((with_reducible apply Only.after (overlay_only _ _)); · rfl)
    | ((with_reducible apply Only.after (bindRing_only _ _)); · rfl)
    | split
    | (refine Only.update (by assumption) ?_; intro p; cases p <;> first | exact .inl rfl | exact .inr rfl)

theorem writeStream_only (x : Nat) (ws : List Wr) (s : State) : Only [.regs, .fabric, .si] s (writeStream x ws s) := by
  have sk := Only.refl [.regs, .fabric, .si] s
  unfold writeStream
  repeat' first
    | with_reducible assumption
    | (extract_lets +onlyGivenNames b; first | (refine Only.cut (Only [.regs, .fabric, .si] s b) ?_ ?_ <;> first | (intro hb; clear_value b; refine Only.hold ?_) | intro hb | (unfold b; clear b)) | (((first | (have h0 : Nat := b; clear h0) | (have h0 : Bool := b; clear h0) | (have h0 : BitVec _ := b; clear h0) | (have h0 : List _ := b; clear h0)); clear_value b)) | (unfold b; clear b) | clear b)
    | ((with_reducible apply Only.after (State.setStream_only _ _ _)); · rfl)
    | ((with_reducible apply Only.after (applyStream_only _ _)); · rfl)
    | split
    | (refine Only.update (by assumption) ?_; intro p; cases p <;> first | exact .inl rfl | exact .inr rfl)

theorem endFrame_only (x : Nat) (s : State) : Only [.regs, .fabric, .si] s (endFrame x s) := by
  have sk := Only.refl [.regs, .fabric, .si] s
  unfold endFrame
  repeat' first
    | with_reducible assumption
    | (extract_lets +onlyGivenNames b; first | (refine Only.cut (Only [.regs, .fabric, .si] s b) ?_ ?_ <;> first | (intro hb; clear_value b; refine Only.hold ?_) | intro hb | (unfold b; clear b)) | (((first | (have h0 : Nat := b; clear h0) | (have h0 : Bool := b; clear h0) | (have h0 : BitVec _ := b; clear h0) | (have h0 : List _ := b; clear h0)); clear_value b)) | (unfold b; clear b) | clear b)
    | ((with_reducible apply Only.after (State.setStream_only _ _ _)); · rfl)
    | ((with_reducible apply Only.after (applyStream_only _ _)); · rfl)
    | split
    | (refine Only.update (by assumption) ?_; intro p; cases p <;> first | exact .inl rfl | exact .inr rfl)

theorem startFrame_only (x : Nat) (s : State) : Only [.outbox, .hl, .groups, .fabric, .lanterns, .si, .ic, .pm] s (startFrame x s) := by
  have sk := Only.refl [.outbox, .hl, .groups, .fabric, .lanterns, .si, .ic, .pm] s
  unfold startFrame
  repeat' first
    | with_reducible assumption
    | (extract_lets +onlyGivenNames b; first | (refine Only.cut (Only [.outbox, .hl, .groups, .fabric, .lanterns, .si, .ic, .pm] s b) ?_ ?_ <;> first | (intro hb; clear_value b; refine Only.hold ?_) | intro hb | (unfold b; clear b)) | (((first | (have h0 : Nat := b; clear h0) | (have h0 : Bool := b; clear h0) | (have h0 : BitVec _ := b; clear h0) | (have h0 : List _ := b; clear h0)); clear_value b)) | (unfold b; clear b) | clear b)
    | ((with_reducible apply Only.after (State.setStream_only _ _ _)); · rfl)
    | ((with_reducible apply Only.after (perfEvent_only _ _ _ _ _)); · rfl)
    | ((with_reducible apply Only.after (lanternStream_only _ _ _ _)); · rfl)
    | ((with_reducible apply Only.after (retryPins_only _ _)); · rfl)
    | ((with_reducible apply Only.after (refEvent_only _ _ _)); · rfl)
    | ((with_reducible refine Only.fold _ ?_ ?_) <;> try intro x a hb)
    | split
    | (refine Only.update (by assumption) ?_; intro p; cases p <;> first | exact .inl rfl | exact .inr rfl)

theorem csiFs_only (p : Nat) (vc : Nat) (s : State) : Only [.outbox, .regs, .hl, .groups, .fabric, .lanterns, .si, .ic, .pm] s (csiFs p vc s) := by
  have sk := Only.refl [.outbox, .regs, .hl, .groups, .fabric, .lanterns, .si, .ic, .pm] s
  unfold csiFs
  repeat' first
    | with_reducible assumption
    | (extract_lets +onlyGivenNames b; first | (refine Only.cut (Only [.outbox, .regs, .hl, .groups, .fabric, .lanterns, .si, .ic, .pm] s b) ?_ ?_ <;> first | (intro hb; clear_value b; refine Only.hold ?_) | intro hb | (unfold b; clear b)) | (((first | (have h0 : Nat := b; clear h0) | (have h0 : Bool := b; clear h0) | (have h0 : BitVec _ := b; clear h0) | (have h0 : List _ := b; clear h0)); clear_value b)) | (unfold b; clear b) | clear b)
    | ((with_reducible apply Only.after (endFrame_only _ _)); · rfl)
    | ((with_reducible apply Only.after (startFrame_only _ _)); · rfl)
    | ((with_reducible refine Only.fold _ ?_ ?_) <;> try intro x a hb)
    | split

theorem csiFe_only (p : Nat) (vc : Nat) (s : State) : Only [.regs, .fabric, .si] s (csiFe p vc s) := by
  have sk := Only.refl [.regs, .fabric, .si] s
  unfold csiFe
  repeat' first
    | with_reducible assumption
    | ((with_reducible apply Only.after (endFrame_only _ _)); · rfl)
    | ((with_reducible refine Only.fold _ ?_ ?_) <;> try intro x a hb)
    | split

theorem countInput_only (x : Nat) (lo : Nat) (s : State) : Only [.outbox, .regs, .hl, .ic, .pm] s (countInput x lo s) := by
  have sk := Only.refl [.outbox, .regs, .hl, .ic, .pm] s
  unfold countInput
  repeat' first
    | with_reducible assumption
    | ((with_reducible apply Only.after (State.bump_only _ _ _ _ _)); · rfl)
    | ((with_reducible apply Only.after (raise_only _ _)); · rfl)

theorem ringWrite_only (x : Nat) (ctx : Nat) (channel : Nat) (va : Nat) (l : List Byte) (s : State) : Only [.outbox, .regs, .mem, .hl, .fabric, .ic, .pm] s (ringWrite x ctx channel va l s) := by
  have sk := Only.refl [.outbox, .regs, .mem, .hl, .fabric, .ic, .pm] s
  unfold ringWrite
  repeat' first
    | with_reducible assumption
    | (extract_lets +onlyGivenNames b; first | (unfold b; clear b) | clear b)
    | ((with_reducible apply Only.after (State.bump_only _ _ _ _ _)); · rfl)
    | ((with_reducible apply Only.after (raise_only _ _)); · rfl)
    | ((with_reducible apply Only.after (serve_only _ _ _ _)); · rfl)
    | ((with_reducible apply Only.after (xlatFault_only _ _ _ _ _ _)); · rfl)
    | ((with_reducible apply Only.after (putBytes_only _ _ _ _)); · rfl)
    | split
    | (refine Only.update (by assumption) ?_; intro p; cases p <;> first | exact .inl rfl | exact .inr rfl)

theorem writeLine_only (x : Nat) (l : List Byte) (s : State) : Only [.outbox, .regs, .mem, .hl, .fabric, .lanterns, .si, .ic, .pm] s (writeLine x l s) := by
  have sk := Only.refl [.outbox, .regs, .mem, .hl, .fabric, .lanterns, .si, .ic, .pm] s
  unfold writeLine
  repeat' first
    | with_reducible assumption
    | (extract_lets +onlyGivenNames b; first | (refine Only.cut (Only [.outbox, .regs, .mem, .hl, .fabric, .lanterns, .si, .ic, .pm] s b) ?_ ?_ <;> first | (intro hb; clear_value b; refine Only.hold ?_) | intro hb | (unfold b; clear b)) | (((first | (have h0 : Nat := b; clear h0) | (have h0 : Bool := b; clear h0) | (have h0 : BitVec _ := b; clear h0) | (have h0 : List _ := b; clear h0)); clear_value b)) | (unfold b; clear b) | clear b)
    | ((with_reducible apply Only.after (State.setStream_only _ _ _)); · rfl)
    | ((with_reducible apply Only.after (perfEvent_only _ _ _ _ _)); · rfl)
    | ((with_reducible apply Only.after (lanternStream_only _ _ _ _)); · rfl)
    | ((with_reducible apply Only.after (ringWrite_only _ _ _ _ _ _)); · rfl)
    | ((with_reducible refine Only.fold _ ?_ ?_) <;> try intro x a hb)
    | (refine Only.update (by assumption) ?_; intro p; cases p <;> first | exact .inl rfl | exact .inr rfl)

theorem dropLine_only (x : Nat) (s : State) : Only [.outbox, .regs, .hl, .si, .ic, .pm] s (dropLine x s) := by
  have sk := Only.refl [.outbox, .regs, .hl, .si, .ic, .pm] s
  unfold dropLine
  repeat' first
    | with_reducible assumption
    | (extract_lets +onlyGivenNames b; first | (refine Only.cut (Only [.outbox, .regs, .hl, .si, .ic, .pm] s b) ?_ ?_ <;> first | (intro hb; clear_value b; refine Only.hold ?_) | intro hb | (unfold b; clear b)) | (((first | (have h0 : Nat := b; clear h0) | (have h0 : Bool := b; clear h0) | (have h0 : BitVec _ := b; clear h0) | (have h0 : List _ := b; clear h0)); clear_value b)) | (unfold b; clear b) | clear b)
    | ((with_reducible apply Only.after (State.bump_only _ _ _ _ _)); · rfl)
    | ((with_reducible apply Only.after (State.setStream_only _ _ _)); · rfl)
    | ((with_reducible apply Only.after (perfEvent_only _ _ _ _ _)); · rfl)
    | ((with_reducible apply Only.after (raise_only _ _)); · rfl)
    | split
    | (refine Only.update (by assumption) ?_; intro p; cases p <;> first | exact .inl rfl | exact .inr rfl)

theorem takeLine_only (x : Nat) (payload : List Byte) (crcOk : Bool) (s : State) : Only [.outbox, .regs, .mem, .hl, .fabric, .lanterns, .si, .ic, .pm] s (takeLine x payload crcOk s) := by
  have sk := Only.refl [.outbox, .regs, .mem, .hl, .fabric, .lanterns, .si, .ic, .pm] s
  unfold takeLine
  repeat' first
    | with_reducible assumption
    | (extract_lets +onlyGivenNames b; first | (refine Only.cut (Only [.outbox, .regs, .mem, .hl, .fabric, .lanterns, .si, .ic, .pm] s b) ?_ ?_ <;> first | (intro hb; clear_value b; refine Only.hold ?_) | intro hb | (unfold b; clear b)) | (((first | (have h0 : Nat := b; clear h0) | (have h0 : Bool := b; clear h0) | (have h0 : BitVec _ := b; clear h0) | (have h0 : List _ := b; clear h0)); clear_value b)) | (unfold b; clear b) | clear b)
    | ((with_reducible apply Only.after (perfEvent_only _ _ _ _ _)); · rfl)
    | ((with_reducible apply Only.after (countInput_only _ _ _)); · rfl)
    | ((with_reducible apply Only.after (writeLine_only _ _ _)); · rfl)
    | ((with_reducible apply Only.after (dropLine_only _ _)); · rfl)
    | split

theorem csiLongPacket_only (p : Nat) (vc : Nat) (dt : Nat) (payload : List Byte) (crcOk : Bool) (s : State) : Only [.outbox, .regs, .mem, .hl, .fabric, .lanterns, .si, .ic, .pm] s (csiLongPacket p vc dt payload crcOk s) := by
  have sk := Only.refl [.outbox, .regs, .mem, .hl, .fabric, .lanterns, .si, .ic, .pm] s
  unfold csiLongPacket
  repeat' first
    | with_reducible assumption
    | (extract_lets +onlyGivenNames b; first | (unfold b; clear b) | clear b)
    | ((with_reducible apply Only.after (takeLine_only _ _ _ _)); · rfl)
    | split
    | (refine Only.update (by assumption) ?_; intro p; cases p <;> first | exact .inl rfl | exact .inr rfl)

theorem headerEccError_only (p : Nat) (s : State) : Only [.outbox, .regs, .hl, .ic, .pm] s (headerEccError p s) := by
  have sk := Only.refl [.outbox, .regs, .hl, .ic, .pm] s
  unfold headerEccError
  repeat' first
    | with_reducible assumption
    | ((with_reducible apply Only.after (State.bump_only _ _ _ _ _)); · rfl)
    | ((with_reducible apply Only.after (raise_only _ _)); · rfl)
    | ((with_reducible refine Only.fold _ ?_ ?_) <;> try intro x a hb)
    | split

theorem portLockGain_only (p : Nat) (gear : Nat) (rate : Nat) (s : State) : Only [.outbox, .hl, .si, .ic, .pm] s (portLockGain p gear rate s) := by
  have sk := Only.refl [.outbox, .hl, .si, .ic, .pm] s
  unfold portLockGain
  repeat' first
    | with_reducible assumption
    | ((with_reducible apply Only.after (State.setRx_only _ _ _)); · rfl)
    | ((with_reducible apply Only.after (raise_only _ _)); · rfl)
    | split

theorem channelArrives_only (u : Nat) (p : Nat) (s : State) : Only [.outbox, .hl, .si, .ic, .pm] s (channelArrives u p s) := by
  have sk := Only.refl [.outbox, .hl, .si, .ic, .pm] s
  unfold channelArrives
  repeat' first
    | with_reducible assumption
    | (extract_lets +onlyGivenNames b; first | (refine Only.cut (Only [.outbox, .hl, .si, .ic, .pm] s b) ?_ ?_ <;> first | (intro hb; clear_value b; refine Only.hold ?_) | intro hb | (unfold b; clear b)) | (((first | (have h0 : Nat := b; clear h0) | (have h0 : Bool := b; clear h0) | (have h0 : BitVec _ := b; clear h0) | (have h0 : List _ := b; clear h0)); clear_value b)) | (unfold b; clear b) | clear b)
    | ((with_reducible apply Only.after (State.setRx_only _ _ _)); · rfl)
    | ((with_reducible apply Only.after (portLockGain_only _ _ _ _)); · rfl)
    | split
    | (refine Only.update (by assumption) ?_; intro p; cases p <;> first | exact .inl rfl | exact .inr rfl)

theorem loseLock_only (p : Nat) (s : State) : Only [.outbox, .regs, .hl, .fabric, .si, .ic, .pm] s (loseLock p s) := by
  have sk := Only.refl [.outbox, .regs, .hl, .fabric, .si, .ic, .pm] s
  unfold loseLock
  repeat' first
    | with_reducible assumption
    | ((with_reducible apply Only.after (State.setRx_only _ _ _)); · rfl)
    | ((with_reducible apply Only.after (raise_only _ _)); · rfl)
    | ((with_reducible apply Only.after (endFrame_only _ _)); · rfl)
    | ((with_reducible refine Only.fold _ ?_ ?_) <;> try intro x a hb)
    | split

theorem landPctrl_only (p : Nat) (on : Bool) (s : State) : Only [.outbox, .regs, .hl, .fabric, .si, .ic, .pm] s (landPctrl p on s) := by
  have sk := Only.refl [.outbox, .regs, .hl, .fabric, .si, .ic, .pm] s
  unfold landPctrl
  repeat' first
    | with_reducible assumption
    | (extract_lets +onlyGivenNames b; first | (refine Only.cut (Only [.outbox, .regs, .hl, .fabric, .si, .ic, .pm] s b) ?_ ?_ <;> first | (intro hb; clear_value b; refine Only.hold ?_) | intro hb | (unfold b; clear b)) | (((first | (have h0 : Nat := b; clear h0) | (have h0 : Bool := b; clear h0) | (have h0 : BitVec _ := b; clear h0) | (have h0 : List _ := b; clear h0)); clear_value b)) | (unfold b; clear b) | clear b)
    | ((with_reducible apply Only.after (State.setReg_only _ _ _)); · rfl)
    | ((with_reducible apply Only.after (loseLock_only _ _)); · rfl)
    | split

end Sys2Proof.Machine
end

