-- ==== Sys2Proof/Laws/OnlyOutputCmds.lean ====
section
/-! SUPPORT. The parts of the state that the operations of OutputCmds may change. -/

set_option linter.all false

namespace Sys2Proof.Machine

theorem linkEvent_only (q : Nat) (s : State) : Only [.fresh, .outbox, .hl, .dict, .ic, .pm] s (linkEvent q s) := by
  have sk := Only.refl [.fresh, .outbox, .hl, .dict, .ic, .pm] s
  unfold linkEvent
  repeat' first
    | with_reducible assumption
    | ((with_reducible apply Only.after (raise_only _ _)); · rfl)
    | ((with_reducible apply Only.after (noteFree_only _ _ _ _ _)); · rfl)
    | ((with_reducible refine Only.fold _ ?_ ?_) <;> try intro x a hb)

theorem setLink_only (q : Nat) (t : Nat) (x : LinkState) (rate : Nat) (s : State) : Only [.fresh, .outbox, .hl, .oq, .dict, .ic, .pm] s (setLink q t x rate s) := by
  have sk := Only.refl [.fresh, .outbox, .hl, .oq, .dict, .ic, .pm] s
  unfold setLink
  repeat' first
    | with_reducible assumption
    | (extract_lets +onlyGivenNames b; first | (refine Only.cut (Only [.fresh, .outbox, .hl, .oq, .dict, .ic, .pm] s b) ?_ ?_ <;> first | (intro hb; clear_value b; refine Only.hold ?_) | intro hb | (unfold b; clear b)) | (((first | (have h0 : Nat := b; clear h0) | (have h0 : Bool := b; clear h0) | (have h0 : BitVec _ := b; clear h0) | (have h0 : List _ := b; clear h0)); clear_value b)) | (unfold b; clear b) | clear b)
    | ((with_reducible apply Only.after (State.setTxPort_only _ _ _ _)); · rfl)
    | ((with_reducible apply Only.after (State.setEgress_only _ _ _)); · rfl)
    | ((with_reducible apply Only.after (settleQuad_only _ _)); · rfl)
    | ((with_reducible apply Only.after (forgetQuad_only _ _ _)); · rfl)
    | ((with_reducible apply Only.after (linkEvent_only _ _)); · rfl)
    | ((with_reducible refine Only.fold _ ?_ ?_) <;> try intro x a hb)
    | split
    | (refine Only.update (by assumption) ?_; intro p; cases p <;> first | exact .inl rfl | exact .inr rfl)

theorem trainPort_only (q : Nat) (t : Nat) (rate : Nat) (s : State) : Only [.fresh, .outbox, .hl, .oq, .dict, .ic, .pm] s (trainPort q t rate s) := by
  have sk := Only.refl [.fresh, .outbox, .hl, .oq, .dict, .ic, .pm] s
  unfold trainPort
  repeat' first
    | with_reducible assumption
    | (extract_lets +onlyGivenNames b; first | (refine Only.cut (Only [.fresh, .outbox, .hl, .oq, .dict, .ic, .pm] s b) ?_ ?_ <;> first | (intro hb; clear_value b; refine Only.hold ?_) | intro hb | (unfold b; clear b)) | (((first | (have h0 : Nat := b; clear h0) | (have h0 : Bool := b; clear h0) | (have h0 : BitVec _ := b; clear h0) | (have h0 : List _ := b; clear h0)); clear_value b)) | (unfold b; clear b) | clear b)
    | ((with_reducible apply Only.after (State.setTxPort_only _ _ _ _)); · rfl)
    | ((with_reducible apply Only.after (State.setLink_only _ _ _)); · rfl)
    | ((with_reducible apply Only.after (State.send_only _ _)); · rfl)
    | ((with_reducible apply Only.after (setLink_only _ _ _ _ _)); · rfl)
    | split
    | (refine Only.update (by assumption) ?_; intro p; cases p <;> first | exact .inl rfl | exact .inr rfl)

theorem trainQuad_only (q : Nat) (rate : Nat) (s : State) : Only [.fresh, .outbox, .hl, .oq, .dict, .ic, .pm] s (trainQuad q rate s) := by
  have sk := Only.refl [.fresh, .outbox, .hl, .oq, .dict, .ic, .pm] s
  unfold trainQuad
  repeat' first
    | with_reducible assumption
    | ((with_reducible apply Only.after (trainPort_only _ _ _ _)); · rfl)
    | ((with_reducible refine Only.fold _ ?_ ?_) <;> try intro x a hb)

theorem retrainQuad_only (q : Nat) (rate : Nat) (s : State) : Only [.fresh, .outbox, .hl, .oq, .dict, .ic, .pm] s (retrainQuad q rate s) := by
  have sk := Only.refl [.fresh, .outbox, .hl, .oq, .dict, .ic, .pm] s
  unfold retrainQuad
  repeat' first
    | with_reducible assumption
    | ((with_reducible apply Only.after (trainPort_only _ _ _ _)); · rfl)
    | ((with_reducible refine Only.fold _ ?_ ?_) <;> try intro x a hb)

theorem landQctrlAt_only (q : Nat) (v : Word) (rate : Option Nat) (s : State) : Only [.fresh, .outbox, .regs, .hl, .oq, .dict, .ic, .pm] s (landQctrlAt q v rate s) := by
  have sk := Only.refl [.fresh, .outbox, .regs, .hl, .oq, .dict, .ic, .pm] s
  unfold landQctrlAt
  repeat' first
    | with_reducible assumption
    | (extract_lets +onlyGivenNames b; first | (refine Only.cut (Only [.fresh, .outbox, .regs, .hl, .oq, .dict, .ic, .pm] s b) ?_ ?_ <;> first | (intro hb; clear_value b; refine Only.hold ?_) | intro hb | (unfold b; clear b)) | (((first | (have h0 : Nat := b; clear h0) | (have h0 : Bool := b; clear h0) | (have h0 : BitVec _ := b; clear h0) | (have h0 : List _ := b; clear h0)); clear_value b)) | (unfold b; clear b) | clear b)
    | ((with_reducible apply Only.after (State.setReg_only _ _ _)); · rfl)
    | ((with_reducible apply Only.after (State.setLink_only _ _ _)); · rfl)
    | ((with_reducible apply Only.after (settleQuad_only _ _)); · rfl)
    | ((with_reducible apply Only.after (setLink_only _ _ _ _ _)); · rfl)
    | ((with_reducible apply Only.after (trainQuad_only _ _ _)); · rfl)
    | ((with_reducible apply Only.after (retrainQuad_only _ _ _)); · rfl)
    | ((with_reducible refine Only.fold _ ?_ ?_) <;> try intro x a hb)
    | split

theorem landQctrl_only (q : Nat) (v : Word) (s : State) : Only [.fresh, .outbox, .regs, .hl, .oq, .dict, .ic, .pm] s (landQctrl q v s) := by
  have sk := Only.refl [.fresh, .outbox, .regs, .hl, .oq, .dict, .ic, .pm] s
  unfold landQctrl
  repeat' first
    | with_reducible assumption
    | ((with_reducible apply Only.after (landQctrlAt_only _ _ _ _)); · rfl)

theorem quadUp_only (q : Nat) (rate : Nat) (s : State) : Only [.aon, .fresh, .start] s (quadUp q rate s) := by
  have sk := Only.refl [.aon, .fresh, .start] s
  unfold quadUp
  repeat' first
    | with_reducible assumption
    | (extract_lets +onlyGivenNames b; first | (refine Only.cut (Only [.aon, .fresh, .start] s b) ?_ ?_ <;> first | (intro hb; clear_value b; refine Only.hold ?_) | intro hb | (unfold b; clear b)) | (((first | (have h0 : Nat := b; clear h0) | (have h0 : Bool := b; clear h0) | (have h0 : BitVec _ := b; clear h0) | (have h0 : List _ := b; clear h0)); clear_value b)) | (unfold b; clear b) | clear b)
    | ((with_reducible apply Only.after (State.setNor_only _ _)); · rfl)
    | ((with_reducible apply Only.after (writeLedger_only _ _)); · rfl)
    | ((with_reducible apply Only.after (State.setLedger_only _ _)); · rfl)
    | split
    | (refine Only.update (by assumption) ?_; intro p; cases p <;> first | exact .inl rfl | exact .inr rfl)

theorem trainingComplete_only (q : Nat) (t : Nat) (rate : Option Nat) (s : State) : Only [.aon, .fresh, .outbox, .hl, .oq, .dict, .ic, .pm, .start] s (trainingComplete q t rate s) := by
  have sk := Only.refl [.aon, .fresh, .outbox, .hl, .oq, .dict, .ic, .pm, .start] s
  unfold trainingComplete
  repeat' first
    | with_reducible assumption
    | (extract_lets +onlyGivenNames b; first | (unfold b; clear b) | clear b)
    | ((with_reducible apply Only.after (State.setLink_only _ _ _)); · rfl)
    | ((with_reducible apply Only.after (setLink_only _ _ _ _ _)); · rfl)
    | ((with_reducible apply Only.after (quadUp_only _ _ _)); · rfl)
    | split
    | (refine Only.update (by assumption) ?_; intro p; cases p <;> first | exact .inl rfl | exact .inr rfl)

theorem loseLink_only (q : Nat) (t : Nat) (s : State) : Only [.fresh, .outbox, .hl, .oq, .dict, .ic, .pm] s (loseLink q t s) := by
  have sk := Only.refl [.fresh, .outbox, .hl, .oq, .dict, .ic, .pm] s
  unfold loseLink
  repeat' first
    | with_reducible assumption
    | (extract_lets +onlyGivenNames b; first | (refine Only.cut (Only [.fresh, .outbox, .hl, .oq, .dict, .ic, .pm] s b) ?_ ?_ <;> first | (intro hb; clear_value b; refine Only.hold ?_) | intro hb | (unfold b; clear b)) | (((first | (have h0 : Nat := b; clear h0) | (have h0 : Bool := b; clear h0) | (have h0 : BitVec _ := b; clear h0) | (have h0 : List _ := b; clear h0)); clear_value b)) | (unfold b; clear b) | clear b)
    | ((with_reducible apply Only.after (State.setTxPort_only _ _ _ _)); · rfl)
    | ((with_reducible apply Only.after (State.setLink_only _ _ _)); · rfl)
    | ((with_reducible apply Only.after (perfEvent_only _ _ _ _ _)); · rfl)
    | ((with_reducible apply Only.after (setLink_only _ _ _ _ _)); · rfl)
    | ((with_reducible apply Only.after (trainPort_only _ _ _ _)); · rfl)
    | split
    | (refine Only.update (by assumption) ?_; intro p; cases p <;> first | exact .inl rfl | exact .inr rfl)

theorem hpdPlug_only (q : Nat) (t : Nat) (level : Bool) (s : State) : Only [.fresh, .outbox, .hl, .oq, .dict, .ic, .pm] s (hpdPlug q t level s) := by
  have sk := Only.refl [.fresh, .outbox, .hl, .oq, .dict, .ic, .pm] s
  unfold hpdPlug
  repeat' first
    | with_reducible assumption
    | (extract_lets +onlyGivenNames b; first | (unfold b; clear b) | clear b)
    | ((with_reducible apply Only.after (State.setTxPort_only _ _ _ _)); · rfl)
    | ((with_reducible apply Only.after (linkEvent_only _ _)); · rfl)
    | split
    | (refine Only.update (by assumption) ?_; intro p; cases p <;> first | exact .inl rfl | exact .inr rfl)

theorem hpdIrq_only (q : Nat) (t : Nat) (fault : Bool) (s : State) : Only [.fresh, .outbox, .hl, .oq, .dict, .ic, .pm] s (hpdIrq q t fault s) := by
  have sk := Only.refl [.fresh, .outbox, .hl, .oq, .dict, .ic, .pm] s
  unfold hpdIrq
  repeat' first
    | with_reducible assumption
    | (extract_lets +onlyGivenNames b; first | (refine Only.cut (Only [.fresh, .outbox, .hl, .oq, .dict, .ic, .pm] s b) ?_ ?_ <;> first | (intro hb; clear_value b; refine Only.hold ?_) | intro hb | (unfold b; clear b)) | (((first | (have h0 : Nat := b; clear h0) | (have h0 : Bool := b; clear h0) | (have h0 : BitVec _ := b; clear h0) | (have h0 : List _ := b; clear h0)); clear_value b)) | (unfold b; clear b) | clear b)
    | ((with_reducible apply Only.after (linkEvent_only _ _)); · rfl)
    | ((with_reducible apply Only.after (loseLink_only _ _ _)); · rfl)
    | split

theorem setAuxData_only (q : Nat) (t : Nat) (l : List Byte) (s : State) : Only [.regs] s (setAuxData q t l s) := by
  have sk := Only.refl [.regs] s
  unfold setAuxData
  repeat' first
    | with_reducible assumption
    | (extract_lets +onlyGivenNames b; first | (refine Only.cut (Only [.regs] s b) ?_ ?_ <;> first | (intro hb; clear_value b; refine Only.hold ?_) | intro hb | (unfold b; clear b)) | (((first | (have h0 : Nat := b; clear h0) | (have h0 : Bool := b; clear h0) | (have h0 : BitVec _ := b; clear h0) | (have h0 : List _ := b; clear h0)); clear_value b)) | (unfold b; clear b) | clear b)
    | ((with_reducible apply Only.after (State.setReg_only _ _ _)); · rfl)
    | ((with_reducible refine Only.fold _ ?_ ?_) <;> try intro x a hb)

theorem startAux_only (q : Nat) (t : Nat) (op : Nat) (lenM1 : Nat) (s : State) : Only [.outbox, .oq] s (startAux q t op lenM1 s) := by
  have sk := Only.refl [.outbox, .oq] s
  unfold startAux
  repeat' first
    | with_reducible assumption
    | (extract_lets +onlyGivenNames b; first | (refine Only.cut (Only [.outbox, .oq] s b) ?_ ?_ <;> first | (intro hb; clear_value b; refine Only.hold ?_) | intro hb | (unfold b; clear b)) | (((first | (have h0 : Nat := b; clear h0) | (have h0 : Bool := b; clear h0) | (have h0 : BitVec _ := b; clear h0) | (have h0 : List _ := b; clear h0)); clear_value b)) | (unfold b; clear b) | clear b)
    | ((with_reducible apply Only.after (State.setTxPort_only _ _ _ _)); · rfl)
    | ((with_reducible apply Only.after (State.send_only _ _)); · rfl)
    | split
    | (refine Only.update (by assumption) ?_; intro p; cases p <;> first | exact .inl rfl | exact .inr rfl)

theorem auxComplete_only (q : Nat) (t : Nat) (result : Nat) (count : Nat) (bytes : List Byte) (s : State) : Only [.regs, .oq] s (auxComplete q t result count bytes s) := by
  have sk := Only.refl [.regs, .oq] s
  unfold auxComplete
  repeat' first
    | with_reducible assumption
    | (extract_lets +onlyGivenNames b; first | (refine Only.cut (Only [.regs, .oq] s b) ?_ ?_ <;> first | (intro hb; clear_value b; refine Only.hold ?_) | intro hb | (unfold b; clear b)) | (((first | (have h0 : Nat := b; clear h0) | (have h0 : Bool := b; clear h0) | (have h0 : BitVec _ := b; clear h0) | (have h0 : List _ := b; clear h0)); clear_value b)) | (unfold b; clear b) | clear b)
    | ((with_reducible apply Only.after (State.setTxPort_only _ _ _ _)); · rfl)
    | ((with_reducible apply Only.after (setAuxData_only _ _ _ _)); · rfl)
    | split
    | (refine Only.update (by assumption) ?_; intro p; cases p <;> first | exact .inl rfl | exact .inr rfl)

end Sys2Proof.Machine
end

