-- ==== Sys2Proof/Laws/OnlyTxCmds.lean ====
section
/-! SUPPORT. The parts of the state that the operations of TxCmds may change. -/

set_option linter.all false

namespace Sys2Proof.Machine

theorem openTicket_only (src : Source) (t : Nat) (s : State) : Only [.tx] s (openTicket src t s) := by
  have sk := Only.refl [.tx] s
  unfold openTicket
  repeat' first
    | with_reducible assumption
    | ((with_reducible apply Only.after (State.setTicket_only _ _ _)); · rfl)

theorem openTx_only (src : Source) (full : Bool) (s : State) : Only [.reply, .tx] s (openTx src full s) := by
  have sk := Only.refl [.reply, .tx] s
  unfold openTx
  repeat' first
    | with_reducible assumption
    | (extract_lets +onlyGivenNames b; first | (unfold b; clear b) | clear b)
    | ((with_reducible apply Only.after (State.answer_only _ _)); · rfl)
    | ((with_reducible apply Only.after (openTicket_only _ _ _)); · rfl)
    | split
    | (refine Only.update (by assumption) ?_; intro p; cases p <;> first | exact .inl rfl | exact .inr rfl)

theorem enterDraft_only (t : Nat) (w : Wr) (s : State) : Only [.tx] s (enterDraft t w s) := by
  have sk := Only.refl [.tx] s
  unfold enterDraft
  repeat' first
    | with_reducible assumption
    | (extract_lets +onlyGivenNames b; first | (refine Only.cut (Only [.tx] s b) ?_ ?_ <;> first | (intro hb; clear_value b; refine Only.hold ?_) | intro hb | (unfold b; clear b)) | (((first | (have h0 : Nat := b; clear h0) | (have h0 : Bool := b; clear h0) | (have h0 : BitVec _ := b; clear h0) | (have h0 : List _ := b; clear h0)); clear_value b)) | (unfold b; clear b) | clear b)
    | ((with_reducible apply Only.after (State.setTicket_only _ _ _)); · rfl)
    | split
    | (refine Only.update (by assumption) ?_; intro p; cases p <;> first | exact .inl rfl | exact .inr rfl)

theorem takeCommit_only (src : Source) (t : Nat) (mask : BitVec 16) (answer : Option Msg) (s : State) : Only [.tx] s (takeCommit src t mask answer s) := by
  have sk := Only.refl [.tx] s
  unfold takeCommit
  repeat' first
    | with_reducible assumption
    | (extract_lets +onlyGivenNames b; first | (unfold b; clear b) | clear b)
    | ((with_reducible apply Only.after (State.setTicket_only _ _ _)); · rfl)
    | ((with_reducible apply Only.after (State.answer_only _ _)); · rfl)
    | (refine Only.update (by assumption) ?_; intro p; cases p <;> first | exact .inl rfl | exact .inr rfl)

theorem commit_only (src : Source) (t : Nat) (mask : BitVec 16) (s : State) : Only [.outbox, .err, .hl, .tx, .ic, .pm] s (commit src t mask s) := by
  have sk := Only.refl [.outbox, .err, .hl, .tx, .ic, .pm] s
  unfold commit
  repeat' first
    | with_reducible assumption
    | (extract_lets +onlyGivenNames b; first | (unfold b; clear b) | clear b)
    | ((with_reducible apply Only.after (refuse_only _ _ _ _)); · rfl)
    | ((with_reducible apply Only.after (takeCommit_only _ _ _ _ _)); · rfl)
    | split
    | (refine Only.update (by assumption) ?_; intro p; cases p <;> first | exact .inl rfl | exact .inr rfl)

theorem freeTicket_only (t : Nat) (s : State) : Only [.tx] s (freeTicket t s) := by
  have sk := Only.refl [.tx] s
  unfold freeTicket
  repeat' first
    | with_reducible assumption
    | ((with_reducible apply Only.after (State.setTicket_only _ _ _)); · rfl)

theorem rollback_only (src : Source) (t : Nat) (s : State) : Only [.outbox, .err, .hl, .tx, .ic, .pm] s (rollback src t s) := by
  have sk := Only.refl [.outbox, .err, .hl, .tx, .ic, .pm] s
  unfold rollback
  repeat' first
    | with_reducible assumption
    | (extract_lets +onlyGivenNames b; first | (unfold b; clear b) | clear b)
    | ((with_reducible apply Only.after (refuse_only _ _ _ _)); · rfl)
    | ((with_reducible apply Only.after (freeTicket_only _ _)); · rfl)
    | split
    | (refine Only.update (by assumption) ?_; intro p; cases p <;> first | exact .inl rfl | exact .inr rfl)

theorem rollTicket_only (t : Nat) (detail : Nat) (s : State) : Only [.fresh, .outbox, .hl, .tx, .dict, .ic, .pm] s (rollTicket t detail s) := by
  have sk := Only.refl [.fresh, .outbox, .hl, .tx, .dict, .ic, .pm] s
  unfold rollTicket
  repeat' first
    | with_reducible assumption
    | (extract_lets +onlyGivenNames b; first | (unfold b; clear b) | clear b)
    | ((with_reducible apply Only.after (State.setTicket_only _ _ _)); · rfl)
    | ((with_reducible apply Only.after (raise_only _ _)); · rfl)
    | ((with_reducible apply Only.after (noteFinal_only _ _)); · rfl)
    | split
    | (refine Only.update (by assumption) ?_; intro p; cases p <;> first | exact .inl rfl | exact .inr rfl)

theorem ticketTimeout_only (t : Nat) (s : State) : Only [.tick, .corePhase, .fresh, .outbox, .hl, .tx, .dict, .ic, .pm] s (ticketTimeout t s) := by
  have sk := Only.refl [.tick, .corePhase, .fresh, .outbox, .hl, .tx, .dict, .ic, .pm] s
  unfold ticketTimeout
  repeat' first
    | with_reducible assumption
    | (extract_lets +onlyGivenNames b; first | (refine Only.cut (Only [.tick, .corePhase, .fresh, .outbox, .hl, .tx, .dict, .ic, .pm] s b) ?_ ?_ <;> first | (intro hb; clear_value b; refine Only.hold ?_) | intro hb | (unfold b; clear b)) | (((first | (have h0 : Nat := b; clear h0) | (have h0 : Bool := b; clear h0) | (have h0 : BitVec _ := b; clear h0) | (have h0 : List _ := b; clear h0)); clear_value b)) | (unfold b; clear b) | clear b)
    | ((with_reducible apply Only.after (toTick_only _ _)); · rfl)
    | ((with_reducible apply Only.after (rollTicket_only _ _ _)); · rfl)
    | split
    | (refine Only.update (by assumption) ?_; intro p; cases p <;> first | exact .inl rfl | exact .inr rfl)

theorem loseHolder_only (code : Nat) (s : State) : Only [.fresh, .outbox, .hl, .tx, .dict, .ic, .pm] s (loseHolder code s) := by
  have sk := Only.refl [.fresh, .outbox, .hl, .tx, .dict, .ic, .pm] s
  unfold loseHolder
  repeat' first
    | with_reducible assumption
    | ((with_reducible apply Only.after (rollTicket_only _ _ _)); · rfl)
    | ((with_reducible refine Only.fold _ ?_ ?_) <;> try intro x a hb)

theorem project_only (ws : List Wr) (s : State) : Only [.regs, .heads] s (project ws s) := by
  have sk := Only.refl [.regs, .heads] s
  unfold project
  repeat' first
    | with_reducible assumption
    | (extract_lets +onlyGivenNames b; first | (unfold b; clear b) | clear b)
    | ((with_reducible apply Only.after (State.setHead_only _ _ _)); · rfl)
    | ((with_reducible apply Only.after (overlay_only _ _)); · rfl)
    | ((with_reducible refine Only.fold _ ?_ ?_) <;> try intro x a hb)
    | split
    | (refine Only.update (by assumption) ?_; intro p; cases p <;> first | exact .inl rfl | exact .inr rfl)

theorem projected_only (s : State) : Only [.regs, .heads] s (projected s) := by
  have sk := Only.refl [.regs, .heads] s
  unfold projected
  repeat' first
    | with_reducible assumption
    | ((with_reducible apply Only.after (project_only _ _)); · rfl)
    | ((with_reducible refine Only.fold _ ?_ ?_) <;> try intro x a hb)

theorem projectSwitch_only (s : State) (dst : Nat) (p : State) : Only [.regs, .heads] p (projectSwitch s dst p) := by
  have sk := Only.refl [.regs, .heads] p
  unfold projectSwitch
  repeat' first
    | with_reducible assumption
    | ((with_reducible apply Only.after (project_only _ _)); · rfl)

theorem projectCommit_only (s : State) (ws : List Wr) : Only [.regs, .heads] s (projectCommit s ws) := by
  have sk := Only.refl [.regs, .heads] s
  unfold projectCommit
  repeat' first
    | with_reducible assumption
    | (extract_lets +onlyGivenNames b; first | (refine Only.cut (Only [.regs, .heads] s b) ?_ ?_ <;> first | (intro hb; clear_value b; refine Only.hold ?_) | intro hb | (unfold b; clear b)) | (((first | (have h0 : Nat := b; clear h0) | (have h0 : Bool := b; clear h0) | (have h0 : BitVec _ := b; clear h0) | (have h0 : List _ := b; clear h0)); clear_value b)) | (unfold b; clear b) | clear b)
    | ((with_reducible apply Only.after (project_only _ _)); · rfl)
    | ((with_reducible apply Only.after (projected_only _)); · rfl)
    | ((with_reducible apply Only.after (projectSwitch_only _ _ _)); · rfl)
    | split
    | (refine Only.update (by assumption) ?_; intro p; cases p <;> first | exact .inl rfl | exact .inr rfl)

theorem acceptSwitch_only (dst : Nat) (spire : Bool) (ticket : Option Nat) (s : State) : Only [.sched] s (acceptSwitch dst spire ticket s) := by
  have sk := Only.refl [.sched] s
  unfold acceptSwitch
  repeat' first
    | with_reducible assumption
    | (extract_lets +onlyGivenNames b; first | (refine Only.cut (Only [.sched] s b) ?_ ?_ <;> first | (intro hb; clear_value b; refine Only.hold ?_) | intro hb | (unfold b; clear b)) | (((first | (have h0 : Nat := b; clear h0) | (have h0 : Bool := b; clear h0) | (have h0 : BitVec _ := b; clear h0) | (have h0 : List _ := b; clear h0)); clear_value b)) | (unfold b; clear b) | clear b)
    | ((with_reducible apply Only.after (State.setBank_only _ _ _)); · rfl)
    | split
    | (refine Only.update (by assumption) ?_; intro p; cases p <;> first | exact .inl rfl | exact .inr rfl)

theorem settleSwitch_only (s : State) : Only [.outbox, .hl, .sched, .lanterns, .dict, .ic, .pm, .therm] s (settleSwitch s) := by
  have sk := Only.refl [.outbox, .hl, .sched, .lanterns, .dict, .ic, .pm, .therm] s
  unfold settleSwitch
  repeat' first
    | with_reducible assumption
    | (extract_lets +onlyGivenNames b; first | (unfold b; clear b) | clear b)
    | ((with_reducible apply Only.after (completeSwitch_only _ _)); · rfl)
    | split
    | (refine Only.update (by assumption) ?_; intro p; cases p <;> first | exact .inl rfl | exact .inr rfl)

theorem hideIdle_only (moves : List (Nat × Nat)) (s : State) : Only [.fa] s (hideIdle moves s) := by
  have sk := Only.refl [.fa] s
  unfold hideIdle
  repeat' first
    | with_reducible assumption
    | (extract_lets +onlyGivenNames b; first | (unfold b; clear b) | clear b)
    | ((with_reducible apply Only.after (State.setLayer_only _ _ _)); · rfl)
    | ((with_reducible refine Only.fold _ ?_ ?_) <;> try intro x a hb)
    | (refine Only.update (by assumption) ?_; intro p; cases p <;> first | exact .inl rfl | exact .inr rfl)

theorem spreadUnits_only (t : Nat) (units : List Nat) (s : State) : Only [.tx] s (spreadUnits t units s) := by
  have sk := Only.refl [.tx] s
  unfold spreadUnits
  repeat' first
    | with_reducible assumption
    | (extract_lets +onlyGivenNames b; first | (unfold b; clear b) | clear b)
    | ((with_reducible apply Only.after (State.setTicket_only _ _ _)); · rfl)
    | ((with_reducible refine Only.fold _ ?_ ?_) <;> try intro x a hb)
    | (refine Only.update (by assumption) ?_; intro p; cases p <;> first | exact .inl rfl | exact .inr rfl)

theorem applyIdle_only (t : Nat) (s : State) : Only [.fresh, .outbox, .regs, .hl, .heads, .groups, .sched, .fabric, .fa, .keep, .lanterns, .si, .oq, .tx, .dict, .ic, .pm, .therm] s (applyIdle t s) := by
  have sk := Only.refl [.fresh, .outbox, .regs, .hl, .heads, .groups, .sched, .fabric, .fa, .keep, .lanterns, .si, .oq, .tx, .dict, .ic, .pm, .therm] s
  unfold applyIdle
  repeat' first
    | with_reducible assumption
    | ((with_reducible apply Only.after (flushRecs_only _)); · rfl)
    | ((with_reducible apply Only.after (applySwitch_only _ _)); · rfl)
    | ((with_reducible apply Only.after (applyShare_only _ _ _)); · rfl)
    | ((with_reducible refine Only.fold _ ?_ ?_) <;> try intro x a hb)
    | split

theorem acceptTicket_only (t : Nat) (s : State) : Only [.fresh, .outbox, .regs, .hl, .heads, .groups, .sched, .fabric, .fa, .keep, .lanterns, .si, .oq, .tx, .dict, .ic, .pm, .therm] s (acceptTicket t s) := by
  have sk := Only.refl [.fresh, .outbox, .regs, .hl, .heads, .groups, .sched, .fabric, .fa, .keep, .lanterns, .si, .oq, .tx, .dict, .ic, .pm, .therm] s
  unfold acceptTicket
  repeat' first
    | with_reducible assumption
    | (extract_lets +onlyGivenNames b; first | (refine Only.cut (Only [.fresh, .outbox, .regs, .hl, .heads, .groups, .sched, .fabric, .fa, .keep, .lanterns, .si, .oq, .tx, .dict, .ic, .pm, .therm] s b) ?_ ?_ <;> first | (intro hb; clear_value b; refine Only.hold ?_) | intro hb | (unfold b; clear b)) | (((first | (have h0 : Nat := b; clear h0) | (have h0 : Bool := b; clear h0) | (have h0 : BitVec _ := b; clear h0) | (have h0 : List _ := b; clear h0)); clear_value b)) | (unfold b; clear b) | clear b)
    | ((with_reducible apply Only.after (State.setTicket_only _ _ _)); · rfl)
    | ((with_reducible apply Only.after (State.answer_only _ _)); · rfl)
    | ((with_reducible apply Only.after (raise_only _ _)); · rfl)
    | ((with_reducible apply Only.after (noteFinal_only _ _)); · rfl)
    | ((with_reducible apply Only.after (finishTicket_only _ _)); · rfl)
    | ((with_reducible apply Only.after (pinSurfaces_only _ _)); · rfl)
    | ((with_reducible apply Only.after (acceptSwitch_only _ _ _ _)); · rfl)
    | ((with_reducible apply Only.after (settleSwitch_only _)); · rfl)
    | ((with_reducible apply Only.after (hideIdle_only _ _)); · rfl)
    | ((with_reducible apply Only.after (spreadUnits_only _ _ _)); · rfl)
    | ((with_reducible apply Only.after (applyIdle_only _ _)); · rfl)
    | ((with_reducible refine Only.fold _ ?_ ?_) <;> try intro x a hb)
    | split
    | (refine Only.update (by assumption) ?_; intro p; cases p <;> first | exact .inl rfl | exact .inr rfl)

theorem rejectTicket_only (t : Nat) (code : Nat) (detail : Nat) (s : State) : Only [.fresh, .outbox, .hl, .tx, .dict, .ic, .pm] s (rejectTicket t code detail s) := by
  have sk := Only.refl [.fresh, .outbox, .hl, .tx, .dict, .ic, .pm] s
  unfold rejectTicket
  repeat' first
    | with_reducible assumption
    | (extract_lets +onlyGivenNames b; first | (unfold b; clear b) | clear b)
    | ((with_reducible apply Only.after (State.setTicket_only _ _ _)); · rfl)
    | ((with_reducible apply Only.after (State.answer_only _ _)); · rfl)
    | ((with_reducible apply Only.after (raise_only _ _)); · rfl)
    | ((with_reducible apply Only.after (noteFinal_only _ _)); · rfl)
    | (refine Only.update (by assumption) ?_; intro p; cases p <;> first | exact .inl rfl | exact .inr rfl)

theorem verifyTicket_only (t : Nat) (s : State) : Only [.fresh, .outbox, .regs, .hl, .heads, .groups, .sched, .fabric, .fa, .keep, .lanterns, .si, .oq, .tx, .dict, .ic, .pm, .therm] s (verifyTicket t s) := by
  have sk := Only.refl [.fresh, .outbox, .regs, .hl, .heads, .groups, .sched, .fabric, .fa, .keep, .lanterns, .si, .oq, .tx, .dict, .ic, .pm, .therm] s
  unfold verifyTicket
  repeat' first
    | with_reducible assumption
    | (extract_lets +onlyGivenNames b; first | (refine Only.cut (Only [.fresh, .outbox, .regs, .hl, .heads, .groups, .sched, .fabric, .fa, .keep, .lanterns, .si, .oq, .tx, .dict, .ic, .pm, .therm] s b) ?_ ?_ <;> first | (intro hb; clear_value b; refine Only.hold ?_) | intro hb | (unfold b; clear b)) | (((first | (have h0 : Nat := b; clear h0) | (have h0 : Bool := b; clear h0) | (have h0 : BitVec _ := b; clear h0) | (have h0 : List _ := b; clear h0)); clear_value b)) | (unfold b; clear b) | clear b)
    | ((with_reducible apply Only.after (advanceGroups_only _)); · rfl)
    | ((with_reducible apply Only.after (acceptTicket_only _ _)); · rfl)
    | ((with_reducible apply Only.after (rejectTicket_only _ _ _ _)); · rfl)
    | split
    | (refine Only.update (by assumption) ?_; intro p; cases p <;> first | exact .inl rfl | exact .inr rfl)

theorem mcSwitch_only {t : State} {dst : Nat} {s : State} (e : mcSwitch dst s = some t) : Only [.fresh, .outbox, .regs, .hl, .heads, .groups, .sched, .fabric, .fa, .keep, .lanterns, .si, .oq, .dict, .ic, .pm, .therm] s t := by
  have sk := Only.refl [.fresh, .outbox, .regs, .hl, .heads, .groups, .sched, .fabric, .fa, .keep, .lanterns, .si, .oq, .dict, .ic, .pm, .therm] s
  unfold mcSwitch at e
  extract_lets mask at e
  split at e
  · cases e
  · split at e
    · cases e
    · cases e
      repeat' first
        | with_reducible assumption
        | (extract_lets +onlyGivenNames b; first | (refine Only.cut (Only [.fresh, .outbox, .regs, .hl, .heads, .groups, .sched, .fabric, .fa, .keep, .lanterns, .si, .oq, .dict, .ic, .pm, .therm] s b) ?_ ?_ <;> first | (intro hb; clear_value b; refine Only.hold ?_) | intro hb | (unfold b; clear b)) | (refine Only.cut (Only [.fresh, .outbox, .regs, .hl, .heads, .groups, .sched, .fabric, .fa, .keep, .lanterns, .si, .oq, .dict, .ic, .pm, .therm] s b.1) ?_ ?_ <;> first | (intro hb; clear_value b; refine Only.hold ?_) | intro hb | (unfold b; clear b)) | (((first | (have h0 : Nat := b; clear h0) | (have h0 : Bool := b; clear h0) | (have h0 : BitVec _ := b; clear h0) | (have h0 : List _ := b; clear h0)); clear_value b)) | (unfold b; clear b) | clear b)
        | ((with_reducible apply Only.after (flushRecs_only _)); · rfl)
        | ((with_reducible apply Only.after (applySwitch_only _ _)); · rfl)
        | ((with_reducible apply Only.after (projected_only _)); · rfl)
        | ((with_reducible apply Only.after (projectSwitch_only _ _ _)); · rfl)
        | ((with_reducible apply Only.after (acceptSwitch_only _ _ _ _)); · rfl)
        | ((with_reducible apply Only.after (settleSwitch_only _)); · rfl)
        | with_reducible refine Only.fst (by assumption) ?_
        | ((with_reducible refine Only.fold _ ?_ ?_) <;> try intro x a hb)
        | ((with_reducible refine Only.foldP _ ?_ ?_) <;> try (intro x a hb; rcases x with ⟨x, xr⟩))
        | split
        | (refine Only.update (by assumption) ?_; intro p; cases p <;> first | exact .inl rfl | exact .inr rfl)
        | (refine Only.update ?_ ?_; (with_reducible refine Only.fst (by assumption) ?_); rotate_left; intro p; cases p <;> first | exact .inl rfl | exact .inr rfl)

end Sys2Proof.Machine
end

