-- ==== Sys2Proof/Laws/OnlyBlitCmds.lean ====
section
/-! SUPPORT. The parts of the state that the operations of BlitCmds may change. -/

set_option linter.all false

namespace Sys2Proof.Machine

theorem writeRanges_only (req ctx : Nat) (ls : List (Nat × List Byte)) (s : State) : Only [.outbox, .regs, .mem, .hl, .fabric, .ic, .pm] s (writeRanges req ctx ls s).1 := by
  induction ls generalizing s with
  | nil => exact Only.refl _ s
  | cons a l ih =>
    have sk := Only.refl [.outbox, .regs, .mem, .hl, .fabric, .ic, .pm] s
    unfold writeRanges
    repeat' first
      | with_reducible assumption
      | (extract_lets +onlyGivenNames b; first | (refine Only.cut (Only [.outbox, .regs, .mem, .hl, .fabric, .ic, .pm] s b) ?_ ?_ <;> first | (intro hb; clear_value b; refine Only.hold ?_) | intro hb | (unfold b; clear b)) | (refine Only.cut (Only [.outbox, .regs, .mem, .hl, .fabric, .ic, .pm] s b.1) ?_ ?_ <;> first | (intro hb; clear_value b; refine Only.hold ?_) | intro hb | (unfold b; clear b)) | (((first | (have h0 : Nat := b; clear h0) | (have h0 : Bool := b; clear h0) | (have h0 : BitVec _ := b; clear h0) | (have h0 : List _ := b; clear h0)); clear_value b)) | (unfold b; clear b) | clear b)
      | ((with_reducible apply Only.after (ih _)); · rfl)
      | ((with_reducible apply Only.after (writeRange_only _ _ _ _ _)); · rfl)
      | with_reducible refine Only.fst (by assumption) ?_
      | ((with_reducible refine Only.fold _ ?_ ?_) <;> try intro x a hb)
      | ((with_reducible refine Only.foldP _ ?_ ?_) <;> try (intro x a hb; rcases x with ⟨x, xr⟩))
      | split
      | (refine Only.update (by assumption) ?_; intro p; cases p <;> first | exact .inl rfl | exact .inr rfl)
      | (refine Only.update ?_ ?_; (with_reducible refine Only.fst (by assumption) ?_); rotate_left; intro p; cases p <;> first | exact .inl rfl | exact .inr rfl)

theorem copyRanges_only (req ctx : Nat) (ls : List ((Nat × Nat) × (Nat × Nat))) (s : State) : Only [.outbox, .regs, .mem, .hl, .fabric, .ic, .pm] s (copyRanges req ctx ls s).1 := by
  induction ls generalizing s with
  | nil => exact Only.refl _ s
  | cons a l ih =>
    have sk := Only.refl [.outbox, .regs, .mem, .hl, .fabric, .ic, .pm] s
    unfold copyRanges
    repeat' first
      | with_reducible assumption
      | (extract_lets +onlyGivenNames b; first | (refine Only.cut (Only [.outbox, .regs, .mem, .hl, .fabric, .ic, .pm] s b) ?_ ?_ <;> first | (intro hb; clear_value b; refine Only.hold ?_) | intro hb | (unfold b; clear b)) | (refine Only.cut (Only [.outbox, .regs, .mem, .hl, .fabric, .ic, .pm] s b.1) ?_ ?_ <;> first | (intro hb; clear_value b; refine Only.hold ?_) | intro hb | (unfold b; clear b)) | (((first | (have h0 : Nat := b; clear h0) | (have h0 : Bool := b; clear h0) | (have h0 : BitVec _ := b; clear h0) | (have h0 : List _ := b; clear h0)); clear_value b)) | (unfold b; clear b) | clear b)
      | ((with_reducible apply Only.after (ih _)); · rfl)
      | ((with_reducible apply Only.after (readRange_only _ _ _ _ _)); · rfl)
      | ((with_reducible apply Only.after (writeRange_only _ _ _ _ _)); · rfl)
      | with_reducible refine Only.fst (by assumption) ?_
      | ((with_reducible refine Only.fold _ ?_ ?_) <;> try intro x a hb)
      | ((with_reducible refine Only.foldP _ ?_ ?_) <;> try (intro x a hb; rcases x with ⟨x, xr⟩))
      | split
      | (refine Only.update (by assumption) ?_; intro p; cases p <;> first | exact .inl rfl | exact .inr rfl)
      | (refine Only.update ?_ ?_; (with_reducible refine Only.fst (by assumption) ?_); rotate_left; intro p; cases p <;> first | exact .inl rfl | exact .inr rfl)

theorem readUnder_only (req : Nat) (c : BlitCmd) (i : Nat) (s : State) : Only [.outbox, .regs, .hl, .fabric, .ic, .pm] s (readUnder req c i s).1 := by
  have sk := Only.refl [.outbox, .regs, .hl, .fabric, .ic, .pm] s
  unfold readUnder
  repeat' first
    | with_reducible assumption
    | (extract_lets +onlyGivenNames b; first | (unfold b; clear b) | clear b)
    | ((with_reducible apply Only.after (readRange_only _ _ _ _ _)); · rfl)
    | with_reducible refine Only.fst (by assumption) ?_
    | split
    | (refine Only.update (by assumption) ?_; intro p; cases p <;> first | exact .inl rfl | exact .inr rfl)
    | (refine Only.update ?_ ?_; (with_reducible refine Only.fst (by assumption) ?_); rotate_left; intro p; cases p <;> first | exact .inl rfl | exact .inr rfl)

theorem computeLine_only (req : Nat) (c : BlitCmd) (i : Nat) (s : State) : Only [.outbox, .regs, .mem, .hl, .fabric, .ic, .pm] s (computeLine req c i s).1 := by
  have sk := Only.refl [.outbox, .regs, .mem, .hl, .fabric, .ic, .pm] s
  unfold computeLine
  repeat' first
    | with_reducible assumption
    | (extract_lets +onlyGivenNames b; first | (refine Only.cut (Only [.outbox, .regs, .mem, .hl, .fabric, .ic, .pm] s b) ?_ ?_ <;> first | (intro hb; clear_value b; refine Only.hold ?_) | intro hb | (unfold b; clear b)) | (refine Only.cut (Only [.outbox, .regs, .mem, .hl, .fabric, .ic, .pm] s b.1) ?_ ?_ <;> first | (intro hb; clear_value b; refine Only.hold ?_) | intro hb | (unfold b; clear b)) | (((first | (have h0 : Nat := b; clear h0) | (have h0 : Bool := b; clear h0) | (have h0 : BitVec _ := b; clear h0) | (have h0 : List _ := b; clear h0)); clear_value b)) | (unfold b; clear b) | clear b)
    | ((with_reducible apply Only.after (readRange_only _ _ _ _ _)); · rfl)
    | ((with_reducible apply Only.after (writeRanges_only _ _ _ _)); · rfl)
    | ((with_reducible apply Only.after (readUnder_only _ _ _ _)); · rfl)
    | with_reducible refine Only.fst (by assumption) ?_
    | split
    | (refine Only.update (by assumption) ?_; intro p; cases p <;> first | exact .inl rfl | exact .inr rfl)
    | (refine Only.update ?_ ?_; (with_reducible refine Only.fst (by assumption) ?_); rotate_left; intro p; cases p <;> first | exact .inl rfl | exact .inr rfl)

theorem blitLine_only (req : Nat) (c : BlitCmd) (i : Nat) (s : State) : Only [.outbox, .regs, .mem, .hl, .fabric, .ic, .pm] s (blitLine req c i s).1 := by
  have sk := Only.refl [.outbox, .regs, .mem, .hl, .fabric, .ic, .pm] s
  unfold blitLine
  repeat' first
    | with_reducible assumption
    | (extract_lets +onlyGivenNames b; first | (unfold b; clear b) | clear b)
    | ((with_reducible apply Only.after (writeRanges_only _ _ _ _)); · rfl)
    | ((with_reducible apply Only.after (copyRanges_only _ _ _ _)); · rfl)
    | ((with_reducible apply Only.after (computeLine_only _ _ _ _)); · rfl)
    | with_reducible refine Only.fst (by assumption) ?_
    | split
    | (refine Only.update (by assumption) ?_; intro p; cases p <;> first | exact .inl rfl | exact .inr rfl)
    | (refine Only.update ?_ ?_; (with_reducible refine Only.fst (by assumption) ?_); rotate_left; intro p; cases p <;> first | exact .inl rfl | exact .inr rfl)

theorem blitLines_only (req : Nat) (c : BlitCmd) (ls : List Nat) (s : State) : Only [.outbox, .regs, .mem, .hl, .fabric, .ic, .pm] s (blitLines req c ls s).1 := by
  induction ls generalizing s with
  | nil => exact Only.refl _ s
  | cons a l ih =>
    have sk := Only.refl [.outbox, .regs, .mem, .hl, .fabric, .ic, .pm] s
    unfold blitLines
    repeat' first
      | with_reducible assumption
      | (extract_lets +onlyGivenNames b; first | (refine Only.cut (Only [.outbox, .regs, .mem, .hl, .fabric, .ic, .pm] s b) ?_ ?_ <;> first | (intro hb; clear_value b; refine Only.hold ?_) | intro hb | (unfold b; clear b)) | (refine Only.cut (Only [.outbox, .regs, .mem, .hl, .fabric, .ic, .pm] s b.1) ?_ ?_ <;> first | (intro hb; clear_value b; refine Only.hold ?_) | intro hb | (unfold b; clear b)) | (((first | (have h0 : Nat := b; clear h0) | (have h0 : Bool := b; clear h0) | (have h0 : BitVec _ := b; clear h0) | (have h0 : List _ := b; clear h0)); clear_value b)) | (unfold b; clear b) | clear b)
      | ((with_reducible apply Only.after (ih _)); · rfl)
      | ((with_reducible apply Only.after (blitLine_only _ _ _ _)); · rfl)
      | with_reducible refine Only.fst (by assumption) ?_
      | ((with_reducible refine Only.fold _ ?_ ?_) <;> try intro x a hb)
      | ((with_reducible refine Only.foldP _ ?_ ?_) <;> try (intro x a hb; rcases x with ⟨x, xr⟩))
      | split
      | (refine Only.update (by assumption) ?_; intro p; cases p <;> first | exact .inl rfl | exact .inr rfl)
      | (refine Only.update ?_ ?_; (with_reducible refine Only.fst (by assumption) ?_); rotate_left; intro p; cases p <;> first | exact .inl rfl | exact .inr rfl)

theorem scramble_only (req : Nat) (l : List (Nat × Nat)) (s : State) : Only [.fresh, .outbox, .regs, .mem, .hl, .fabric, .ic, .pm] s (scramble req l s) := by
  have sk := Only.refl [.fresh, .outbox, .regs, .mem, .hl, .fabric, .ic, .pm] s
  unfold scramble
  repeat' first
    | with_reducible assumption
    | ((with_reducible apply Only.after (State.draw_only _ _)); · rfl)
    | ((with_reducible apply Only.after (putBytes_only _ _ _ _)); · rfl)
    | ((with_reducible refine Only.fold _ ?_ ?_) <;> try intro x a hb)

theorem writeRecord_only (e : Nat) (c : BlitCmd) (result : Nat) (lines : Nat) (s : State) : Only [.outbox, .hl, .bl] s (writeRecord e c result lines s) := by
  have sk := Only.refl [.outbox, .hl, .bl] s
  unfold writeRecord
  repeat' first
    | with_reducible assumption
    | (extract_lets +onlyGivenNames b; first | (refine Only.cut (Only [.outbox, .hl, .bl] s b) ?_ ?_ <;> first | (intro hb; clear_value b; refine Only.hold ?_) | intro hb | (unfold b; clear b)) | (((first | (have h0 : Nat := b; clear h0) | (have h0 : Bool := b; clear h0) | (have h0 : BitVec _ := b; clear h0) | (have h0 : List _ := b; clear h0)); clear_value b)) | (unfold b; clear b) | clear b)
    | ((with_reducible apply Only.after (State.setShare_only _ _ _ _)); · rfl)
    | ((with_reducible apply Only.after (State.sendTlp_only _ _ _)); · rfl)
    | (refine Only.update (by assumption) ?_; intro p; cases p <;> first | exact .inl rfl | exact .inr rfl)

theorem endCommand_only (e : Nat) (c : BlitCmd) (result : Nat) (s : State) : Only [.outbox, .hl, .ic, .bl, .pm] s (endCommand e c result s) := by
  have sk := Only.refl [.outbox, .hl, .ic, .bl, .pm] s
  unfold endCommand
  repeat' first
    | with_reducible assumption
    | (extract_lets +onlyGivenNames b; first | (refine Only.cut (Only [.outbox, .hl, .ic, .bl, .pm] s b) ?_ ?_ <;> first | (intro hb; clear_value b; refine Only.hold ?_) | intro hb | (unfold b; clear b)) | (((first | (have h0 : Nat := b; clear h0) | (have h0 : Bool := b; clear h0) | (have h0 : BitVec _ := b; clear h0) | (have h0 : List _ := b; clear h0)); clear_value b)) | (unfold b; clear b) | clear b)
    | ((with_reducible apply Only.after (State.setEngine_only _ _ _)); · rfl)
    | ((with_reducible apply Only.after (State.setShare_only _ _ _ _)); · rfl)
    | ((with_reducible apply Only.after (perfEvent_only _ _ _ _ _)); · rfl)
    | (refine Only.update (by assumption) ?_; intro p; cases p <;> first | exact .inl rfl | exact .inr rfl)

theorem completeCommand_only (e : Nat) (s : State) : Only [.outbox, .hl, .ic, .bl, .pm] s (completeCommand e s) := by
  have sk := Only.refl [.outbox, .hl, .ic, .bl, .pm] s
  unfold completeCommand
  repeat' first
    | with_reducible assumption
    | (extract_lets +onlyGivenNames b; first | (unfold b; clear b) | clear b)
    | ((with_reducible apply Only.after (State.setEngine_only _ _ _)); · rfl)
    | ((with_reducible apply Only.after (writeRecord_only _ _ _ _ _)); · rfl)
    | ((with_reducible apply Only.after (endCommand_only _ _ _ _)); · rfl)
    | split
    | (refine Only.update (by assumption) ?_; intro p; cases p <;> first | exact .inl rfl | exact .inr rfl)

theorem retryStall_only (e : Nat) (f : Nat) (s : State) : Only [.outbox, .hl, .ic, .bl, .pm] s (retryStall e f s) := by
  have sk := Only.refl [.outbox, .hl, .ic, .bl, .pm] s
  unfold retryStall
  repeat' first
    | with_reducible assumption
    | ((with_reducible apply Only.after (completeCommand_only _ _)); · rfl)
    | split

theorem logFault_only (e : Nat) (c : BlitCmd) (result : Nat) (lines : Nat) (s : State) : Only [.bl] s (logFault e c result lines s) := by
  have sk := Only.refl [.bl] s
  unfold logFault
  repeat' first
    | with_reducible assumption
    | (extract_lets +onlyGivenNames b; first | (refine Only.cut (Only [.bl] s b) ?_ ?_ <;> first | (intro hb; clear_value b; refine Only.hold ?_) | intro hb | (unfold b; clear b)) | (((first | (have h0 : Nat := b; clear h0) | (have h0 : Bool := b; clear h0) | (have h0 : BitVec _ := b; clear h0) | (have h0 : List _ := b; clear h0)); clear_value b)) | (unfold b; clear b) | clear b)
    | ((with_reducible apply Only.after (State.setEngine_only _ _ _)); · rfl)
    | split
    | (refine Only.update (by assumption) ?_; intro p; cases p <;> first | exact .inl rfl | exact .inr rfl)

theorem runCommand_only (e : Nat) (c : BlitCmd) (s : State) : Only [.fresh, .outbox, .regs, .mem, .hl, .fabric, .ic, .bl, .pm] s (runCommand e c s) := by
  have sk := Only.refl [.fresh, .outbox, .regs, .mem, .hl, .fabric, .ic, .bl, .pm] s
  unfold runCommand
  repeat' first
    | with_reducible assumption
    | (extract_lets +onlyGivenNames b; first | (refine Only.cut (Only [.fresh, .outbox, .regs, .mem, .hl, .fabric, .ic, .bl, .pm] s b) ?_ ?_ <;> first | (intro hb; clear_value b; refine Only.hold ?_) | intro hb | (unfold b; clear b)) | (refine Only.cut (Only [.fresh, .outbox, .regs, .mem, .hl, .fabric, .ic, .bl, .pm] s b.1) ?_ ?_ <;> first | (intro hb; clear_value b; refine Only.hold ?_) | intro hb | (unfold b; clear b)) | (((first | (have h0 : Nat := b; clear h0) | (have h0 : Bool := b; clear h0) | (have h0 : BitVec _ := b; clear h0) | (have h0 : List _ := b; clear h0)); clear_value b)) | (unfold b; clear b) | clear b)
    | ((with_reducible apply Only.after (State.setEngine_only _ _ _)); · rfl)
    | ((with_reducible apply Only.after (perfEvent_only _ _ _ _ _)); · rfl)
    | ((with_reducible apply Only.after (blitLines_only _ _ _ _)); · rfl)
    | ((with_reducible apply Only.after (scramble_only _ _ _)); · rfl)
    | ((with_reducible apply Only.after (logFault_only _ _ _ _ _)); · rfl)
    | with_reducible refine Only.fst (by assumption) ?_
    | (refine Only.update (by assumption) ?_; intro p; cases p <;> first | exact .inl rfl | exact .inr rfl)
    | (refine Only.update ?_ ?_; (with_reducible refine Only.fst (by assumption) ?_); rotate_left; intro p; cases p <;> first | exact .inl rfl | exact .inr rfl)

theorem blitStart_only (e : Nat) (s : State) : Only [.fresh, .outbox, .regs, .mem, .hl, .fabric, .ic, .bl, .pm] s (blitStart e s) := by
  have sk := Only.refl [.fresh, .outbox, .regs, .mem, .hl, .fabric, .ic, .bl, .pm] s
  unfold blitStart
  repeat' first
    | with_reducible assumption
    | (extract_lets +onlyGivenNames b; first | (refine Only.cut (Only [.fresh, .outbox, .regs, .mem, .hl, .fabric, .ic, .bl, .pm] s b) ?_ ?_ <;> first | (intro hb; clear_value b; refine Only.hold ?_) | intro hb | (unfold b; clear b)) | (((first | (have h0 : Nat := b; clear h0) | (have h0 : Bool := b; clear h0) | (have h0 : BitVec _ := b; clear h0) | (have h0 : List _ := b; clear h0)); clear_value b)) | (unfold b; clear b) | clear b)
    | ((with_reducible apply Only.after (State.setEngine_only _ _ _)); · rfl)
    | ((with_reducible apply Only.after (completeCommand_only _ _)); · rfl)
    | ((with_reducible apply Only.after (runCommand_only _ _ _)); · rfl)
    | split
    | (refine Only.update (by assumption) ?_; intro p; cases p <;> first | exact .inl rfl | exact .inr rfl)

theorem submit_only (f : Nat) (e : Nat) (s : State) : Only [.bl] s (submit f e s) := by
  have sk := Only.refl [.bl] s
  unfold submit
  repeat' first
    | with_reducible assumption
    | (extract_lets +onlyGivenNames b; first | (refine Only.cut (Only [.bl] s b) ?_ ?_ <;> first | (intro hb; clear_value b; refine Only.hold ?_) | intro hb | (unfold b; clear b)) | (((first | (have h0 : Nat := b; clear h0) | (have h0 : Bool := b; clear h0) | (have h0 : BitVec _ := b; clear h0) | (have h0 : List _ := b; clear h0)); clear_value b)) | (unfold b; clear b) | clear b)
    | ((with_reducible apply Only.after (State.setEngine_only _ _ _)); · rfl)
    | ((with_reducible apply Only.after (State.setShare_only _ _ _ _)); · rfl)
    | split
    | (refine Only.update (by assumption) ?_; intro p; cases p <;> first | exact .inl rfl | exact .inr rfl)

theorem cringRdWrite_only (f : Nat) (e : Nat) (v : Nat) (s : State) : Only [.outbox, .hl, .ic, .bl, .pm] s (cringRdWrite f e v s) := by
  have sk := Only.refl [.outbox, .hl, .ic, .bl, .pm] s
  unfold cringRdWrite
  repeat' first
    | with_reducible assumption
    | (extract_lets +onlyGivenNames b; first | (unfold b; clear b) | clear b)
    | ((with_reducible apply Only.after (State.setShare_only _ _ _ _)); · rfl)
    | ((with_reducible apply Only.after (retryStall_only _ _ _)); · rfl)
    | (refine Only.update (by assumption) ?_; intro p; cases p <;> first | exact .inl rfl | exact .inr rfl)

theorem resetRing_only (e : Nat) (f : Nat) (s : State) : Only [.outbox, .hl, .ic, .bl, .pm] s (resetRing e f s) := by
  have sk := Only.refl [.outbox, .hl, .ic, .bl, .pm] s
  unfold resetRing
  repeat' first
    | with_reducible assumption
    | (extract_lets +onlyGivenNames b; first | (unfold b; clear b) | clear b)
    | ((with_reducible apply Only.after (State.setShare_only _ _ _ _)); · rfl)
    | ((with_reducible apply Only.after (retryStall_only _ _ _)); · rfl)
    | (refine Only.update (by assumption) ?_; intro p; cases p <;> first | exact .inl rfl | exact .inr rfl)

theorem discardCommands_only (e : Nat) (f : Nat) (s : State) : Only [.outbox, .hl, .ic, .bl, .pm] s (discardCommands e f s) := by
  have sk := Only.refl [.outbox, .hl, .ic, .bl, .pm] s
  unfold discardCommands
  repeat' first
    | with_reducible assumption
    | (extract_lets +onlyGivenNames b; first | (refine Only.cut (Only [.outbox, .hl, .ic, .bl, .pm] s b) ?_ ?_ <;> first | (intro hb; clear_value b; refine Only.hold ?_) | intro hb | (unfold b; clear b)) | (((first | (have h0 : Nat := b; clear h0) | (have h0 : Bool := b; clear h0) | (have h0 : BitVec _ := b; clear h0) | (have h0 : List _ := b; clear h0)); clear_value b)) | (unfold b; clear b) | clear b)
    | ((with_reducible apply Only.after (State.setEngine_only _ _ _)); · rfl)
    | ((with_reducible apply Only.after (endCommand_only _ _ _ _)); · rfl)
    | split
    | (refine Only.update (by assumption) ?_; intro p; cases p <;> first | exact .inl rfl | exact .inr rfl)

theorem resetShares_only (f : Nat) (s : State) : Only [.outbox, .regs, .held, .hl, .ic, .bl, .pm] s (resetShares f s) := by
  have sk := Only.refl [.outbox, .regs, .held, .hl, .ic, .bl, .pm] s
  unfold resetShares
  repeat' first
    | with_reducible assumption
    | (extract_lets +onlyGivenNames b; first | (refine Only.cut (Only [.outbox, .regs, .held, .hl, .ic, .bl, .pm] s b) ?_ ?_ <;> first | (intro hb; clear_value b; refine Only.hold ?_) | intro hb | (unfold b; clear b)) | (((first | (have h0 : Nat := b; clear h0) | (have h0 : Bool := b; clear h0) | (have h0 : BitVec _ := b; clear h0) | (have h0 : List _ := b; clear h0)); clear_value b)) | (unfold b; clear b) | clear b)
    | ((with_reducible apply Only.after (State.setReg_only _ _ _)); · rfl)
    | ((with_reducible apply Only.after (State.setShare_only _ _ _ _)); · rfl)
    | ((with_reducible apply Only.after (discardCommands_only _ _ _)); · rfl)
    | ((with_reducible refine Only.fold _ ?_ ?_) <;> try intro x a hb)
    | (refine Only.update (by assumption) ?_; intro p; cases p <;> first | exact .inl rfl | exact .inr rfl)

end Sys2Proof.Machine
end

