-- ==== Sys2Proof/Laws/OnlyPerfCmds.lean ====
section
/-! SUPPORT. The parts of the state that the operations of PerfCmds may change. -/

set_option linter.all false

namespace Sys2Proof.Machine

theorem presetCounter_only (src : Source) (k : Nat) (j : Nat) (v : Word) (s : State) : Only [.outbox, .err, .hl, .ic, .pm] s (presetCounter src k j v s) := by
  have sk := Only.refl [.outbox, .err, .hl, .ic, .pm] s
  unfold presetCounter
  repeat' first
    | with_reducible assumption
    | (extract_lets +onlyGivenNames b; first | (unfold b; clear b) | clear b)
    | ((with_reducible apply Only.after (refuse_only _ _ _ _)); · rfl)
    | split
    | (refine Only.update (by assumption) ?_; intro p; cases p <;> first | exact .inl rfl | exact .inr rfl)

theorem writePm_only (r : RegId) (v : Word) (s : State) : Only [.regs, .pm] s (writePm r v s) := by
  have sk := Only.refl [.regs, .pm] s
  unfold writePm
  repeat' first
    | with_reducible assumption
    | ((with_reducible apply Only.after (State.setReg_only _ _ _)); · rfl)
    | ((with_reducible apply Only.after (holdPm_only _ _)); · rfl)

theorem freeze_only (src : Source) (on : Bool) (s : State) : Only [.outbox, .regs, .err, .hl, .ic, .pm] s (freeze src on s) := by
  have sk := Only.refl [.outbox, .regs, .err, .hl, .ic, .pm] s
  unfold freeze
  repeat' first
    | with_reducible assumption
    | ((with_reducible apply Only.after (refuse_only _ _ _ _)); · rfl)
    | ((with_reducible apply Only.after (writePm_only _ _ _)); · rfl)
    | split

theorem cycWrap_only (k : Nat) (s : State) : Only [.tick, .corePhase, .outbox, .hl, .ic, .pm] s (cycWrap k s) := by
  have sk := Only.refl [.tick, .corePhase, .outbox, .hl, .ic, .pm] s
  unfold cycWrap
  repeat' first
    | with_reducible assumption
    | (extract_lets +onlyGivenNames b; first | (refine Only.cut (Only [.tick, .corePhase, .outbox, .hl, .ic, .pm] s b) ?_ ?_ <;> first | (intro hb; clear_value b; refine Only.hold ?_) | intro hb | (unfold b; clear b)) | (((first | (have h0 : Nat := b; clear h0) | (have h0 : Bool := b; clear h0) | (have h0 : BitVec _ := b; clear h0) | (have h0 : List _ := b; clear h0)); clear_value b)) | (unfold b; clear b) | clear b)
    | ((with_reducible apply Only.after (toTick_only _ _)); · rfl)
    | split

theorem counterWrap_only (k j n : Nat) (s : State) : Only [.tick, .corePhase, .outbox, .hl, .ic, .pm] s (counterWrap k j n s) := by
  have sk := Only.refl [.tick, .corePhase, .outbox, .hl, .ic, .pm] s
  unfold counterWrap
  repeat' first
    | with_reducible assumption
    | (extract_lets +onlyGivenNames b; first | (refine Only.cut (Only [.tick, .corePhase, .outbox, .hl, .ic, .pm] s b) ?_ ?_ <;> first | (intro hb; clear_value b; refine Only.hold ?_) | intro hb | (unfold b; clear b)) | (refine Only.cut (Only [.tick, .corePhase, .outbox, .hl, .ic, .pm] s b.1) ?_ ?_ <;> first | (intro hb; clear_value b; refine Only.hold ?_) | intro hb | (unfold b; clear b)) | (((first | (have h0 : Nat := b; clear h0) | (have h0 : Bool := b; clear h0) | (have h0 : BitVec _ := b; clear h0) | (have h0 : List _ := b; clear h0)); clear_value b)) | (unfold b; clear b) | clear b)
    | ((with_reducible apply Only.after (wrapWith_perfEvent_only _ _ _)); · rfl)
    | ((with_reducible apply Only.after (addCtr_only _ _ _ _)); · rfl)
    | ((with_reducible apply Only.after (perfEvent_only _ _ _ _ _)); · rfl)
    | ((with_reducible apply Only.after (cycWrap_only _ _)); · rfl)
    | with_reducible refine Only.fst (by assumption) ?_
    | ((with_reducible refine Only.fold _ ?_ ?_) <;> try intro x a hb)
    | ((with_reducible refine Only.foldP _ ?_ ?_) <;> try (intro x a hb; rcases x with ⟨x, xr⟩))
    | split
    | (refine Only.update (by assumption) ?_; intro p; cases p <;> first | exact .inl rfl | exact .inr rfl)
    | (refine Only.update ?_ ?_; (with_reducible refine Only.fst (by assumption) ?_); rotate_left; intro p; cases p <;> first | exact .inl rfl | exact .inr rfl)

theorem clearOvf_only (k : Nat) (v : Word) (s : State) : Only [.outbox, .hl, .ic, .pm] s (clearOvf k v s) := by
  have sk := Only.refl [.outbox, .hl, .ic, .pm] s
  unfold clearOvf
  repeat' first
    | with_reducible assumption
    | (extract_lets +onlyGivenNames b; first | (refine Only.cut (Only [.outbox, .hl, .ic, .pm] s b) ?_ ?_ <;> first | (intro hb; clear_value b; refine Only.hold ?_) | intro hb | (unfold b; clear b)) | (((first | (have h0 : Nat := b; clear h0) | (have h0 : Bool := b; clear h0) | (have h0 : BitVec _ := b; clear h0) | (have h0 : List _ := b; clear h0)); clear_value b)) | (unfold b; clear b) | clear b)
    | ((with_reducible apply Only.after (raise_only _ _)); · rfl)
    | ((with_reducible refine Only.fold _ ?_ ?_) <;> try intro x a hb)
    | split
    | (refine Only.update (by assumption) ?_; intro p; cases p <;> first | exact .inl rfl | exact .inr rfl)

end Sys2Proof.Machine
end

