-- ==== Sys2Proof/Laws/OnlyCascadeCmds.lean ====
section
/-! SUPPORT. The parts of the state that the operations of CascadeCmds may change. -/

set_option linter.all false

namespace Sys2Proof.Machine

theorem shiftTicks_only (d : Nat) (s : State) : Only [.tick, .held, .items, .heads, .groups, .flares, .sched, .fabric, .keep, .lanterns, .tx, .dict, .ic, .casc, .start, .therm, .safety] s (shiftTicks d s) := by
  have sk := Only.refl [.tick, .held, .items, .heads, .groups, .flares, .sched, .fabric, .keep, .lanterns, .tx, .dict, .ic, .casc, .start, .therm, .safety] s
  unfold shiftTicks
  repeat' first
    | with_reducible assumption
    | (extract_lets +onlyGivenNames b; first | (refine Only.cut (Only [.tick, .held, .items, .heads, .groups, .flares, .sched, .fabric, .keep, .lanterns, .tx, .dict, .ic, .casc, .start, .therm, .safety] s b) ?_ ?_ <;> first | (intro hb; clear_value b; refine Only.hold ?_) | intro hb | (unfold b; clear b)) | (((first | (have h0 : Nat := b; clear h0) | (have h0 : Bool := b; clear h0) | (have h0 : BitVec _ := b; clear h0) | (have h0 : List _ := b; clear h0)); clear_value b)) | (unfold b; clear b) | clear b)
    | (refine Only.update (by assumption) ?_; intro p; cases p <;> first | exact .inl rfl | exact .inr rfl)

theorem setCasc_only (x : CascState) (s : State) : Only [.casc] s (setCasc x s) := by
  have sk := Only.refl [.casc] s
  unfold setCasc
  repeat' first
    | with_reducible assumption
    | (extract_lets +onlyGivenNames b; first | (unfold b; clear b) | clear b)
    | (refine Only.update (by assumption) ?_; intro p; cases p <;> first | exact .inl rfl | exact .inr rfl)

theorem join_only (position : Nat) (devices : BitVec 2) (highest : Nat) (secondBelfry : Bool) (s : State) : Only [.tick, .outbox, .held, .items, .hl, .heads, .groups, .flares, .sched, .fabric, .keep, .lanterns, .tx, .dict, .ic, .pm, .casc, .start, .therm, .safety] s (join position devices highest secondBelfry s) := by
  have sk := Only.refl [.tick, .outbox, .held, .items, .hl, .heads, .groups, .flares, .sched, .fabric, .keep, .lanterns, .tx, .dict, .ic, .pm, .casc, .start, .therm, .safety] s
  unfold join
  repeat' first
    | with_reducible assumption
    | (extract_lets +onlyGivenNames b; first | (refine Only.cut (Only [.tick, .outbox, .held, .items, .hl, .heads, .groups, .flares, .sched, .fabric, .keep, .lanterns, .tx, .dict, .ic, .pm, .casc, .start, .therm, .safety] s b) ?_ ?_ <;> first | (intro hb; clear_value b; refine Only.hold ?_) | intro hb | (unfold b; clear b)) | (((first | (have h0 : Nat := b; clear h0) | (have h0 : Bool := b; clear h0) | (have h0 : BitVec _ := b; clear h0) | (have h0 : List _ := b; clear h0)); clear_value b)) | (unfold b; clear b) | clear b)
    | ((with_reducible apply Only.after (raise_only _ _)); · rfl)
    | ((with_reducible apply Only.after (shiftTicks_only _ _)); · rfl)
    | split
    | (refine Only.update (by assumption) ?_; intro p; cases p <;> first | exact .inl rfl | exact .inr rfl)

theorem joinTimeout_only (s : State) : Only [.casc] s (joinTimeout s) := by
  have sk := Only.refl [.casc] s
  unfold joinTimeout
  repeat' first
    | with_reducible assumption
    | ((with_reducible apply Only.after (setCasc_only _ _)); · rfl)
    | split

theorem belfryLoss_only (s : State) : Only [.outbox, .hl, .ic, .pm, .casc] s (belfryLoss s) := by
  have sk := Only.refl [.outbox, .hl, .ic, .pm, .casc] s
  unfold belfryLoss
  repeat' first
    | with_reducible assumption
    | ((with_reducible apply Only.after (raise_only _ _)); · rfl)
    | ((with_reducible apply Only.after (setCasc_only _ _)); · rfl)
    | split

theorem delayProbe_only (u : Nat) (delay : Nat) (s : State) : Only [.outbox, .casc] s (delayProbe u delay s) := by
  have sk := Only.refl [.outbox, .casc] s
  unfold delayProbe
  repeat' first
    | with_reducible assumption
    | (extract_lets +onlyGivenNames b; first | (unfold b; clear b) | clear b)
    | ((with_reducible apply Only.after (State.setOsl_only _ _ _)); · rfl)
    | ((with_reducible apply Only.after (State.send_only _ _)); · rfl)
    | split
    | (refine Only.update (by assumption) ?_; intro p; cases p <;> first | exact .inl rfl | exact .inr rfl)

theorem oslLink_only (u : Nat) (up : Bool) (s : State) : Only [.outbox, .regs, .hl, .fabric, .si, .ic, .pm, .casc] s (oslLink u up s) := by
  have sk := Only.refl [.outbox, .regs, .hl, .fabric, .si, .ic, .pm, .casc] s
  unfold oslLink
  repeat' first
    | with_reducible assumption
    | (extract_lets +onlyGivenNames b; first | (refine Only.cut (Only [.outbox, .regs, .hl, .fabric, .si, .ic, .pm, .casc] s b) ?_ ?_ <;> first | (intro hb; clear_value b; refine Only.hold ?_) | intro hb | (unfold b; clear b)) | (((first | (have h0 : Nat := b; clear h0) | (have h0 : Bool := b; clear h0) | (have h0 : BitVec _ := b; clear h0) | (have h0 : List _ := b; clear h0)); clear_value b)) | (unfold b; clear b) | clear b)
    | ((with_reducible apply Only.after (State.bump_only _ _ _ _ _)); · rfl)
    | ((with_reducible apply Only.after (State.setOsl_only _ _ _)); · rfl)
    | ((with_reducible apply Only.after (raise_only _ _)); · rfl)
    | ((with_reducible apply Only.after (loseLock_only _ _)); · rfl)
    | ((with_reducible refine Only.fold _ ?_ ?_) <;> try intro x a hb)
    | split

theorem pgFrameStart_only (g : Nat) (tick : Nat) (s : State) : Only [.outbox, .groups] s (pgFrameStart g tick s) := by
  have sk := Only.refl [.outbox, .groups] s
  unfold pgFrameStart
  repeat' first
    | with_reducible assumption
    | (extract_lets +onlyGivenNames b; first | (refine Only.cut (Only [.outbox, .groups] s b) ?_ ?_ <;> first | (intro hb; clear_value b; refine Only.hold ?_) | intro hb | (unfold b; clear b)) | (((first | (have h0 : Nat := b; clear h0) | (have h0 : Bool := b; clear h0) | (have h0 : BitVec _ := b; clear h0) | (have h0 : List _ := b; clear h0)); clear_value b)) | (unfold b; clear b) | clear b)
    | ((with_reducible apply Only.after (State.send_only _ _)); · rfl)
    | ((with_reducible apply Only.after (refEvent_only _ _ _)); · rfl)
    | split

theorem setRelay_only (u : Nat) (ch : Nat) (l : List (Nat × SegPacket)) (s : State) : Only [.casc] s (setRelay u ch l s) := by
  have sk := Only.refl [.casc] s
  unfold setRelay
  repeat' first
    | with_reducible assumption
    | (extract_lets +onlyGivenNames b; first | (unfold b; clear b) | clear b)
    | (refine Only.update (by assumption) ?_; intro p; cases p <;> first | exact .inl rfl | exact .inr rfl)

theorem drainRelay_only (u n : Nat) (s : State) : Only [.outbox, .casc] s (drainRelay u n s) := by
  induction n generalizing s with
  | zero => exact Only.refl _ s
  | succ n ih =>
    have sk := Only.refl [.outbox, .casc] s
    unfold drainRelay
    repeat' first
      | with_reducible assumption
      | (extract_lets +onlyGivenNames b; first | (refine Only.cut (Only [.outbox, .casc] s b) ?_ ?_ <;> first | (intro hb; clear_value b; refine Only.hold ?_) | intro hb | (unfold b; clear b)) | (refine Only.cut (Only [.outbox, .casc] s b.1) ?_ ?_ <;> first | (intro hb; clear_value b; refine Only.hold ?_) | intro hb | (unfold b; clear b)) | (((first | (have h0 : Nat := b; clear h0) | (have h0 : Bool := b; clear h0) | (have h0 : BitVec _ := b; clear h0) | (have h0 : List _ := b; clear h0)); clear_value b)) | (unfold b; clear b) | clear b)
      | ((with_reducible apply Only.after (ih _)); · rfl)
      | ((with_reducible apply Only.after (State.setOsl_only _ _ _)); · rfl)
      | ((with_reducible apply Only.after (State.send_only _ _)); · rfl)
      | ((with_reducible apply Only.after (setRelay_only _ _ _ _)); · rfl)
      | with_reducible refine Only.fst (by assumption) ?_
      | ((with_reducible refine Only.fold _ ?_ ?_) <;> try intro x a hb)
      | ((with_reducible refine Only.foldP _ ?_ ?_) <;> try (intro x a hb; rcases x with ⟨x, xr⟩))
      | split
      | (refine Only.update (by assumption) ?_; intro p; cases p <;> first | exact .inl rfl | exact .inr rfl)
      | (refine Only.update ?_ ?_; (with_reducible refine Only.fst (by assumption) ?_); rotate_left; intro p; cases p <;> first | exact .inl rfl | exact .inr rfl)

theorem relayLine_only (u : Nat) (ch : Nat) (p : SegPacket) (s : State) : Only [.outbox, .regs, .hl, .ic, .pm, .casc] s (relayLine u ch p s) := by
  have sk := Only.refl [.outbox, .regs, .hl, .ic, .pm, .casc] s
  unfold relayLine
  repeat' first
    | with_reducible assumption
    | (extract_lets +onlyGivenNames b; first | (refine Only.cut (Only [.outbox, .regs, .hl, .ic, .pm, .casc] s b) ?_ ?_ <;> first | (intro hb; clear_value b; refine Only.hold ?_) | intro hb | (unfold b; clear b)) | (((first | (have h0 : Nat := b; clear h0) | (have h0 : Bool := b; clear h0) | (have h0 : BitVec _ := b; clear h0) | (have h0 : List _ := b; clear h0)); clear_value b)) | (unfold b; clear b) | clear b)
    | ((with_reducible apply Only.after (State.bump_only _ _ _ _ _)); · rfl)
    | ((with_reducible apply Only.after (raise_only _ _)); · rfl)
    | ((with_reducible apply Only.after (setRelay_only _ _ _ _)); · rfl)
    | ((with_reducible apply Only.after (drainRelay_only _ _ _)); · rfl)
    | split
    | (refine Only.update (by assumption) ?_; intro p; cases p <;> first | exact .inl rfl | exact .inr rfl)

theorem relayAhead_only (u : Nat) (ch : Nat) (starts : Bool) (p : SegPacket) (s : State) : Only [.outbox, .casc] s (relayAhead u ch starts p s) := by
  have sk := Only.refl [.outbox, .casc] s
  unfold relayAhead
  repeat' first
    | with_reducible assumption
    | (extract_lets +onlyGivenNames b; first | (refine Only.cut (Only [.outbox, .casc] s b) ?_ ?_ <;> first | (intro hb; clear_value b; refine Only.hold ?_) | intro hb | (unfold b; clear b)) | (((first | (have h0 : Nat := b; clear h0) | (have h0 : Bool := b; clear h0) | (have h0 : BitVec _ := b; clear h0) | (have h0 : List _ := b; clear h0)); clear_value b)) | (unfold b; clear b) | clear b)
    | ((with_reducible apply Only.after (State.send_only _ _)); · rfl)
    | split
    | (refine Only.update (by assumption) ?_; intro p; cases p <;> first | exact .inl rfl | exact .inr rfl)

theorem relayPacket_only (u : Nat) (ch : Nat) (p : SegPacket) (s : State) : Only [.outbox, .regs, .hl, .ic, .pm, .casc] s (relayPacket u ch p s) := by
  have sk := Only.refl [.outbox, .regs, .hl, .ic, .pm, .casc] s
  unfold relayPacket
  repeat' first
    | with_reducible assumption
    | (extract_lets +onlyGivenNames b; first | (unfold b; clear b) | clear b)
    | ((with_reducible apply Only.after (relayLine_only _ _ _ _)); · rfl)
    | ((with_reducible apply Only.after (relayAhead_only _ _ _ _ _)); · rfl)
    | split
    | (refine Only.update (by assumption) ?_; intro p; cases p <;> first | exact .inl rfl | exact .inr rfl)

theorem rest_only (s : State) : Only [.tick, .corePhase, .outbox, .hl, .ic, .pm, .casc] s (rest s) := by
  have sk := Only.refl [.tick, .corePhase, .outbox, .hl, .ic, .pm, .casc] s
  unfold rest
  repeat' first
    | with_reducible assumption
    | (extract_lets +onlyGivenNames b; first | (unfold b; clear b) | clear b)
    | ((with_reducible apply Only.after (idle_only _)); · rfl)
    | ((with_reducible apply Only.after (drainRelay_only _ _ _)); · rfl)
    | split
    | (refine Only.update (by assumption) ?_; intro p; cases p <;> first | exact .inl rfl | exact .inr rfl)

theorem segHeader_only (width : Nat) (height : Nat) (depth : Nat) (frame : DWord) (s : State) (g : Seg) : Only [.casc] s (segHeader width height depth frame s g) := by
  have sk := Only.refl [.casc] s
  unfold segHeader
  repeat' first
    | with_reducible assumption
    | (extract_lets +onlyGivenNames b; first | (refine Only.cut (Only [.casc] s b) ?_ ?_ <;> first | (intro hb; clear_value b; refine Only.hold ?_) | intro hb | (unfold b; clear b)) | (((first | (have h0 : Nat := b; clear h0) | (have h0 : Bool := b; clear h0) | (have h0 : BitVec _ := b; clear h0) | (have h0 : List _ := b; clear h0)); clear_value b)) | (unfold b; clear b) | clear b)
    | ((with_reducible apply Only.after (State.setSeg_only _ _ _)); · rfl)
    | (refine Only.update (by assumption) ?_; intro p; cases p <;> first | exact .inl rfl | exact .inr rfl)

theorem segStore_only (y : Nat) (l : List Word) (s : State) (g : Seg) : Only [.casc] s (segStore y l s g) := by
  have sk := Only.refl [.casc] s
  unfold segStore
  repeat' first
    | with_reducible assumption
    | (extract_lets +onlyGivenNames b; first | (refine Only.cut (Only [.casc] s b) ?_ ?_ <;> first | (intro hb; clear_value b; refine Only.hold ?_) | intro hb | (unfold b; clear b)) | (((first | (have h0 : Nat := b; clear h0) | (have h0 : Bool := b; clear h0) | (have h0 : BitVec _ := b; clear h0) | (have h0 : List _ := b; clear h0)); clear_value b)) | (unfold b; clear b) | clear b)
    | ((with_reducible apply Only.after (State.setSeg_only _ _ _)); · rfl)
    | split
    | (refine Only.update (by assumption) ?_; intro p; cases p <;> first | exact .inl rfl | exact .inr rfl)

theorem forwardPacket_only (u : Nat) (p : SegPacket) (s : State) (r : Nat) : Only [.outbox, .regs, .mem, .hl, .groups, .fabric, .lanterns, .si, .ic, .pm] s (forwardPacket u p s r) := by
  have sk := Only.refl [.outbox, .regs, .mem, .hl, .groups, .fabric, .lanterns, .si, .ic, .pm] s
  unfold forwardPacket
  repeat' first
    | with_reducible assumption
    | (extract_lets +onlyGivenNames b; first | (refine Only.cut (Only [.outbox, .regs, .mem, .hl, .groups, .fabric, .lanterns, .si, .ic, .pm] s b) ?_ ?_ <;> first | (intro hb; clear_value b; refine Only.hold ?_) | intro hb | (unfold b; clear b)) | (((first | (have h0 : Nat := b; clear h0) | (have h0 : Bool := b; clear h0) | (have h0 : BitVec _ := b; clear h0) | (have h0 : List _ := b; clear h0)); clear_value b)) | (unfold b; clear b) | clear b)
    | ((with_reducible apply Only.after (csiFs_only _ _ _)); · rfl)
    | ((with_reducible apply Only.after (csiFe_only _ _ _)); · rfl)
    | ((with_reducible apply Only.after (csiLongPacket_only _ _ _ _ _ _)); · rfl)
    | ((with_reducible apply Only.after (channelArrives_only _ _ _)); · rfl)
    | split
    | (refine Only.update (by assumption) ?_; intro p; cases p <;> first | exact .inl rfl | exact .inr rfl)

theorem segTake_only (p : SegPacket) (s : State) (g : Seg) : Only [.casc] s (segTake p s g) := by
  have sk := Only.refl [.casc] s
  unfold segTake
  repeat' first
    | with_reducible assumption
    | (extract_lets +onlyGivenNames b; first | (unfold b; clear b) | clear b)
    | ((with_reducible apply Only.after (segHeader_only _ _ _ _ _ _)); · rfl)
    | ((with_reducible apply Only.after (segStore_only _ _ _ _)); · rfl)
    | split
    | (refine Only.update (by assumption) ?_; intro p; cases p <;> first | exact .inl rfl | exact .inr rfl)

theorem segmentLine_only (u : Nat) (ch : Nat) (last : Bool) (p : SegPacket) (s : State) : Only [.outbox, .regs, .mem, .hl, .groups, .fabric, .lanterns, .si, .ic, .pm, .casc] s (segmentLine u ch last p s) := by
  have sk := Only.refl [.outbox, .regs, .mem, .hl, .groups, .fabric, .lanterns, .si, .ic, .pm, .casc] s
  unfold segmentLine
  repeat' first
    | with_reducible assumption
    | (extract_lets +onlyGivenNames b; first | (refine Only.cut (Only [.outbox, .regs, .mem, .hl, .groups, .fabric, .lanterns, .si, .ic, .pm, .casc] s b) ?_ ?_ <;> first | (intro hb; clear_value b; refine Only.hold ?_) | intro hb | (unfold b; clear b)) | (((first | (have h0 : Nat := b; clear h0) | (have h0 : Bool := b; clear h0) | (have h0 : BitVec _ := b; clear h0) | (have h0 : List _ := b; clear h0)); clear_value b)) | (unfold b; clear b) | clear b)
    | ((with_reducible apply Only.after (relayPacket_only _ _ _ _)); · rfl)
    | ((with_reducible apply Only.after (forwardPacket_only _ _ _ _)); · rfl)
    | ((with_reducible apply Only.after (segTake_only _ _ _)); · rfl)
    | ((with_reducible refine Only.fold _ ?_ ?_) <;> try intro x a hb)
    | split

theorem segmentUnusable_only (k : Nat) (line : Nat) (s : State) : Only [.outbox, .hl, .ic, .pm, .casc] s (segmentUnusable k line s) := by
  have sk := Only.refl [.outbox, .hl, .ic, .pm, .casc] s
  unfold segmentUnusable
  repeat' first
    | with_reducible assumption
    | (extract_lets +onlyGivenNames b; first | (refine Only.cut (Only [.outbox, .hl, .ic, .pm, .casc] s b) ?_ ?_ <;> first | (intro hb; clear_value b; refine Only.hold ?_) | intro hb | (unfold b; clear b)) | (((first | (have h0 : Nat := b; clear h0) | (have h0 : Bool := b; clear h0) | (have h0 : BitVec _ := b; clear h0) | (have h0 : List _ := b; clear h0)); clear_value b)) | (unfold b; clear b) | clear b)
    | ((with_reducible apply Only.after (missLine_only _ _ _)); · rfl)
    | split

theorem clearLate_only (k : Nat) (v : Word) (s : State) : Only [.casc] s (clearLate k v s) := by
  have sk := Only.refl [.casc] s
  unfold clearLate
  repeat' first
    | with_reducible assumption
    | (extract_lets +onlyGivenNames b; first | (unfold b; clear b) | clear b)
    | ((with_reducible apply Only.after (State.setSeg_only _ _ _)); · rfl)
    | (refine Only.update (by assumption) ?_; intro p; cases p <;> first | exact .inl rfl | exact .inr rfl)

end Sys2Proof.Machine
end

