-- ==== Sys2Proof/Laws/OnlyThermalCmds.lean ====
section
/-! SUPPORT. The parts of the state that the operations of ThermalCmds may change. -/

set_option linter.all false

namespace Sys2Proof.Machine

theorem excludeSensor_only (i : Nat) (s : State) : Only [.outbox, .hl, .dict, .ic, .pm, .therm, .safety] s (excludeSensor i s) := by
  have sk := Only.refl [.outbox, .hl, .dict, .ic, .pm, .therm, .safety] s
  unfold excludeSensor
  repeat' first
    | with_reducible assumption
    | (extract_lets +onlyGivenNames b; first | (refine Only.cut (Only [.outbox, .hl, .dict, .ic, .pm, .therm, .safety] s b) ?_ ?_ <;> first | (intro hb; clear_value b; refine Only.hold ?_) | intro hb | (unfold b; clear b)) | (((first | (have h0 : Nat := b; clear h0) | (have h0 : Bool := b; clear h0) | (have h0 : BitVec _ := b; clear h0) | (have h0 : List _ := b; clear h0)); clear_value b)) | (unfold b; clear b) | clear b)
    | ((with_reducible apply Only.after (raise_only _ _)); · rfl)
    | ((with_reducible apply Only.after (setCategory_only _ _ _)); · rfl)
    | split
    | (refine Only.update (by assumption) ?_; intro p; cases p <;> first | exact .inl rfl | exact .inr rfl)

theorem countApart_only (m2 : Int) (s : State) (i : Nat) : Only [.therm] s (countApart m2 s i) := by
  have sk := Only.refl [.therm] s
  unfold countApart
  repeat' first
    | with_reducible assumption
    | (extract_lets +onlyGivenNames b; first | (refine Only.cut (Only [.therm] s b) ?_ ?_ <;> first | (intro hb; clear_value b; refine Only.hold ?_) | intro hb | (unfold b; clear b)) | (((first | (have h0 : Nat := b; clear h0) | (have h0 : Bool := b; clear h0) | (have h0 : BitVec _ := b; clear h0) | (have h0 : List _ := b; clear h0)); clear_value b)) | (unfold b; clear b) | clear b)
    | split
    | (refine Only.update (by assumption) ?_; intro p; cases p <;> first | exact .inl rfl | exact .inr rfl)

theorem sensorSample_only (temps : List Int) (s : State) : Only [.outbox, .hl, .dict, .ic, .pm, .therm, .safety] s (sensorSample temps s) := by
  have sk := Only.refl [.outbox, .hl, .dict, .ic, .pm, .therm, .safety] s
  unfold sensorSample
  repeat' first
    | with_reducible assumption
    | (extract_lets +onlyGivenNames b; first | (refine Only.cut (Only [.outbox, .hl, .dict, .ic, .pm, .therm, .safety] s b) ?_ ?_ <;> first | (intro hb; clear_value b; refine Only.hold ?_) | intro hb | (unfold b; clear b)) | (((first | (have h0 : Nat := b; clear h0) | (have h0 : Bool := b; clear h0) | (have h0 : BitVec _ := b; clear h0) | (have h0 : List _ := b; clear h0)); clear_value b)) | (unfold b; clear b) | clear b)
    | ((with_reducible apply Only.after (excludeSensor_only _ _)); · rfl)
    | ((with_reducible apply Only.after (countApart_only _ _ _)); · rfl)
    | ((with_reducible refine Only.fold _ ?_ ?_) <;> try intro x a hb)
    | (refine Only.update (by assumption) ?_; intro p; cases p <;> first | exact .inl rfl | exact .inr rfl)

theorem computeTmax_only (s : State) : Only [.fresh, .therm] s (computeTmax s) := by
  have sk := Only.refl [.fresh, .therm] s
  unfold computeTmax
  repeat' first
    | with_reducible assumption
    | (extract_lets +onlyGivenNames b; first | (refine Only.cut (Only [.fresh, .therm] s b) ?_ ?_ <;> first | (intro hb; clear_value b; refine Only.hold ?_) | intro hb | (unfold b; clear b)) | (((first | (have h0 : Nat := b; clear h0) | (have h0 : Bool := b; clear h0) | (have h0 : BitVec _ := b; clear h0) | (have h0 : List _ := b; clear h0)); clear_value b)) | (unfold b; clear b) | clear b)
    | ((with_reducible apply Only.after (State.draw_only _ _)); · rfl)
    | ((with_reducible refine Only.fold _ ?_ ?_) <;> try intro x a hb)
    | split
    | (refine Only.update (by assumption) ?_; intro p; cases p <;> first | exact .inl rfl | exact .inr rfl)

theorem oldTmax_only (s : State) : Only [.fresh] s (oldTmax s).1 := by
  have sk := Only.refl [.fresh] s
  unfold oldTmax
  repeat' first
    | with_reducible assumption
    | (extract_lets +onlyGivenNames b; first | (unfold b; clear b) | clear b)
    | ((with_reducible apply Only.after (State.draw_only _ _)); · rfl)
    | split
    | (refine Only.update (by assumption) ?_; intro p; cases p <;> first | exact .inl rfl | exact .inr rfl)

theorem computePred_only (s : State) : Only [.fresh, .therm] s (computePred s) := by
  have sk := Only.refl [.fresh, .therm] s
  unfold computePred
  repeat' first
    | with_reducible assumption
    | (extract_lets +onlyGivenNames b; first | (refine Only.cut (Only [.fresh, .therm] s b) ?_ ?_ <;> first | (intro hb; clear_value b; refine Only.hold ?_) | intro hb | (unfold b; clear b)) | (refine Only.cut (Only [.fresh, .therm] s b.1) ?_ ?_ <;> first | (intro hb; clear_value b; refine Only.hold ?_) | intro hb | (unfold b; clear b)) | (((first | (have h0 : Nat := b; clear h0) | (have h0 : Bool := b; clear h0) | (have h0 : BitVec _ := b; clear h0) | (have h0 : List _ := b; clear h0)); clear_value b)) | (unfold b; clear b) | clear b)
    | ((with_reducible apply Only.after (computeTmax_only _)); · rfl)
    | ((with_reducible apply Only.after (oldTmax_only _)); · rfl)
    | with_reducible refine Only.fst (by assumption) ?_
    | ((with_reducible refine Only.fold _ ?_ ?_) <;> try intro x a hb)
    | ((with_reducible refine Only.foldP _ ?_ ?_) <;> try (intro x a hb; rcases x with ⟨x, xr⟩))
    | split
    | (refine Only.update (by assumption) ?_; intro p; cases p <;> first | exact .inl rfl | exact .inr rfl)
    | (refine Only.update ?_ ?_; (with_reducible refine Only.fst (by assumption) ?_); rotate_left; intro p; cases p <;> first | exact .inl rfl | exact .inr rfl)

theorem setTherState_only (x : TherState) (s : State) : Only [.outbox, .hl, .dict, .ic, .pm, .therm] s (setTherState x s) := by
  have sk := Only.refl [.outbox, .hl, .dict, .ic, .pm, .therm] s
  unfold setTherState
  repeat' first
    | with_reducible assumption
    | (extract_lets +onlyGivenNames b; first | (refine Only.cut (Only [.outbox, .hl, .dict, .ic, .pm, .therm] s b) ?_ ?_ <;> first | (intro hb; clear_value b; refine Only.hold ?_) | intro hb | (unfold b; clear b)) | (((first | (have h0 : Nat := b; clear h0) | (have h0 : Bool := b; clear h0) | (have h0 : BitVec _ := b; clear h0) | (have h0 : List _ := b; clear h0)); clear_value b)) | (unfold b; clear b) | clear b)
    | ((with_reducible apply Only.after (raise_only _ _)); · rfl)
    | ((with_reducible apply Only.after (noteEvent_only _ _ _ _ _ _)); · rfl)
    | split
    | (refine Only.update (by assumption) ?_; intro p; cases p <;> first | exact .inl rfl | exact .inr rfl)

theorem shedNext_only (s : State) : Only [.outbox, .hl, .heads, .dict, .ic, .pm, .therm, .safety] s (shedNext s) := by
  have sk := Only.refl [.outbox, .hl, .heads, .dict, .ic, .pm, .therm, .safety] s
  unfold shedNext
  repeat' first
    | with_reducible assumption
    | (extract_lets +onlyGivenNames b; first | (refine Only.cut (Only [.outbox, .hl, .heads, .dict, .ic, .pm, .therm, .safety] s b) ?_ ?_ <;> first | (intro hb; clear_value b; refine Only.hold ?_) | intro hb | (unfold b; clear b)) | (((first | (have h0 : Nat := b; clear h0) | (have h0 : Bool := b; clear h0) | (have h0 : BitVec _ := b; clear h0) | (have h0 : List _ := b; clear h0)); clear_value b)) | (unfold b; clear b) | clear b)
    | ((with_reducible apply Only.after (raise_only _ _)); · rfl)
    | ((with_reducible apply Only.after (setCategory_only _ _ _)); · rfl)
    | ((with_reducible apply Only.after (stopHead_only _ _)); · rfl)
    | split
    | (refine Only.update (by assumption) ?_; intro p; cases p <;> first | exact .inl rfl | exact .inr rfl)

theorem shedTimer_only (s : State) : Only [.tick, .corePhase, .outbox, .hl, .heads, .dict, .ic, .pm, .therm, .safety] s (shedTimer s) := by
  have sk := Only.refl [.tick, .corePhase, .outbox, .hl, .heads, .dict, .ic, .pm, .therm, .safety] s
  unfold shedTimer
  repeat' first
    | with_reducible assumption
    | ((with_reducible apply Only.after (toTick_only _ _)); · rfl)
    | ((with_reducible apply Only.after (shedNext_only _)); · rfl)
    | split

theorem spireReason_only (r : Nat) (s : State) : Only [.outbox, .hl, .ic, .pm, .therm] s (spireReason r s) := by
  have sk := Only.refl [.outbox, .hl, .ic, .pm, .therm] s
  unfold spireReason
  repeat' first
    | with_reducible assumption
    | (extract_lets +onlyGivenNames b; first | (unfold b; clear b) | clear b)
    | ((with_reducible apply Only.after (raise_only _ _)); · rfl)
    | (refine Only.update (by assumption) ?_; intro p; cases p <;> first | exact .inl rfl | exact .inr rfl)

theorem abandonEntry_only (r : Nat) (s : State) : Only [.outbox, .hl, .dict, .ic, .pm, .therm] s (abandonEntry r s) := by
  have sk := Only.refl [.outbox, .hl, .dict, .ic, .pm, .therm] s
  unfold abandonEntry
  repeat' first
    | with_reducible assumption
    | (extract_lets +onlyGivenNames b; first | (refine Only.cut (Only [.outbox, .hl, .dict, .ic, .pm, .therm] s b) ?_ ?_ <;> first | (intro hb; clear_value b; refine Only.hold ?_) | intro hb | (unfold b; clear b)) | (((first | (have h0 : Nat := b; clear h0) | (have h0 : Bool := b; clear h0) | (have h0 : BitVec _ := b; clear h0) | (have h0 : List _ := b; clear h0)); clear_value b)) | (unfold b; clear b) | clear b)
    | ((with_reducible apply Only.after (storeWear_only _)); · rfl)
    | ((with_reducible apply Only.after (spireReason_only _ _)); · rfl)
    | split
    | (refine Only.update (by assumption) ?_; intro p; cases p <;> first | exact .inl rfl | exact .inr rfl)

theorem commitExit_only (s : State) : Only [.fresh, .outbox, .regs, .hl, .heads, .groups, .sched, .fabric, .fa, .keep, .lanterns, .si, .oq, .dict, .ic, .pm, .therm] s (commitExit s) := by
  unfold commitExit
  split
  · rename_i b _
    cases h : mcSwitch b s with
    | none => exact Only.refl _ s
    | some t => exact (mcSwitch_only h).mono rfl
  · exact Only.refl _ s

theorem leaveSpire_only (code : Nat) (s : State) : Only [.fresh, .outbox, .regs, .hl, .heads, .groups, .sched, .fabric, .fa, .keep, .lanterns, .si, .oq, .dict, .ic, .pm, .therm] s (leaveSpire code s) := by
  have sk := Only.refl [.fresh, .outbox, .regs, .hl, .heads, .groups, .sched, .fabric, .fa, .keep, .lanterns, .si, .oq, .dict, .ic, .pm, .therm] s
  unfold leaveSpire
  repeat' first
    | with_reducible assumption
    | (extract_lets +onlyGivenNames b; first | (unfold b; clear b) | clear b)
    | ((with_reducible apply Only.after (commitExit_only _)); · rfl)
    | (refine Only.update (by assumption) ?_; intro p; cases p <;> first | exact .inl rfl | exact .inr rfl)

theorem followSpire_only (s : State) : Only [.fresh, .outbox, .regs, .hl, .heads, .groups, .sched, .fabric, .fa, .keep, .lanterns, .si, .oq, .dict, .ic, .pm, .therm] s (followSpire s) := by
  have sk := Only.refl [.fresh, .outbox, .regs, .hl, .heads, .groups, .sched, .fabric, .fa, .keep, .lanterns, .si, .oq, .dict, .ic, .pm, .therm] s
  unfold followSpire
  repeat' first
    | with_reducible assumption
    | ((with_reducible apply Only.after (leaveSpire_only _ _)); · rfl)
    | split

theorem spireCause_only (code : Nat) (s : State) : Only [.fresh, .outbox, .regs, .hl, .heads, .groups, .sched, .fabric, .fa, .keep, .lanterns, .si, .oq, .dict, .ic, .pm, .therm] s (spireCause code s) := by
  have sk := Only.refl [.fresh, .outbox, .regs, .hl, .heads, .groups, .sched, .fabric, .fa, .keep, .lanterns, .si, .oq, .dict, .ic, .pm, .therm] s
  unfold spireCause
  repeat' first
    | with_reducible assumption
    | (extract_lets +onlyGivenNames b; first | (unfold b; clear b) | clear b)
    | ((with_reducible apply Only.after (abandonEntry_only _ _)); · rfl)
    | ((with_reducible apply Only.after (leaveSpire_only _ _)); · rfl)
    | split
    | (refine Only.update (by assumption) ?_; intro p; cases p <;> first | exact .inl rfl | exact .inr rfl)

theorem judgeSpire_only (s : State) : Only [.fresh, .outbox, .regs, .hl, .heads, .groups, .sched, .fabric, .fa, .keep, .lanterns, .si, .oq, .dict, .ic, .pm, .therm] s (judgeSpire s) := by
  have sk := Only.refl [.fresh, .outbox, .regs, .hl, .heads, .groups, .sched, .fabric, .fa, .keep, .lanterns, .si, .oq, .dict, .ic, .pm, .therm] s
  unfold judgeSpire
  repeat' first
    | with_reducible assumption
    | (extract_lets +onlyGivenNames b; first | (refine Only.cut (Only [.fresh, .outbox, .regs, .hl, .heads, .groups, .sched, .fabric, .fa, .keep, .lanterns, .si, .oq, .dict, .ic, .pm, .therm] s b) ?_ ?_ <;> first | (intro hb; clear_value b; refine Only.hold ?_) | intro hb | (unfold b; clear b)) | (((first | (have h0 : Nat := b; clear h0) | (have h0 : Bool := b; clear h0) | (have h0 : BitVec _ := b; clear h0) | (have h0 : List _ := b; clear h0)); clear_value b)) | (unfold b; clear b) | clear b)
    | ((with_reducible apply Only.after (commitExit_only _)); · rfl)
    | ((with_reducible apply Only.after (spireCause_only _ _)); · rfl)
    | split
    | (refine Only.update (by assumption) ?_; intro p; cases p <;> first | exact .inl rfl | exact .inr rfl)

theorem spireEnter_only (s : State) : Only [.outbox, .regs, .hl, .ic, .pm, .therm] s (spireEnter s).1 := by
  have sk := Only.refl [.outbox, .regs, .hl, .ic, .pm, .therm] s
  unfold spireEnter
  repeat' first
    | with_reducible assumption
    | (extract_lets +onlyGivenNames b; first | (unfold b; clear b) | clear b)
    | ((with_reducible apply Only.after (State.setReg_only _ _ _)); · rfl)
    | ((with_reducible apply Only.after (spireReason_only _ _)); · rfl)
    | split
    | (refine Only.update (by assumption) ?_; intro p; cases p <;> first | exact .inl rfl | exact .inr rfl)

theorem spireExit_only (s : State) : Only [.fresh, .outbox, .regs, .hl, .heads, .groups, .sched, .fabric, .fa, .keep, .lanterns, .si, .oq, .dict, .ic, .pm, .therm] s (spireExit s).1 := by
  have sk := Only.refl [.fresh, .outbox, .regs, .hl, .heads, .groups, .sched, .fabric, .fa, .keep, .lanterns, .si, .oq, .dict, .ic, .pm, .therm] s
  unfold spireExit
  repeat' first
    | with_reducible assumption
    | (extract_lets +onlyGivenNames b; first | (unfold b; clear b) | clear b)
    | ((with_reducible apply Only.after (State.setReg_only _ _ _)); · rfl)
    | ((with_reducible apply Only.after (leaveSpire_only _ _)); · rfl)
    | split
    | (refine Only.update (by assumption) ?_; intro p; cases p <;> first | exact .inl rfl | exact .inr rfl)

theorem spireRequest_only (src : Source) (on : Bool) (s : State) : Only [.fresh, .outbox, .regs, .err, .hl, .heads, .groups, .sched, .fabric, .fa, .keep, .lanterns, .si, .oq, .dict, .ic, .pm, .therm] s (spireRequest src on s) := by
  have sk := Only.refl [.fresh, .outbox, .regs, .err, .hl, .heads, .groups, .sched, .fabric, .fa, .keep, .lanterns, .si, .oq, .dict, .ic, .pm, .therm] s
  unfold spireRequest
  repeat' first
    | with_reducible assumption
    | (extract_lets +onlyGivenNames b; first | (refine Only.cut (Only [.fresh, .outbox, .regs, .err, .hl, .heads, .groups, .sched, .fabric, .fa, .keep, .lanterns, .si, .oq, .dict, .ic, .pm, .therm] s b) ?_ ?_ <;> first | (intro hb; clear_value b; refine Only.hold ?_) | intro hb | (unfold b; clear b)) | (refine Only.cut (Only [.fresh, .outbox, .regs, .err, .hl, .heads, .groups, .sched, .fabric, .fa, .keep, .lanterns, .si, .oq, .dict, .ic, .pm, .therm] s b.1) ?_ ?_ <;> first | (intro hb; clear_value b; refine Only.hold ?_) | intro hb | (unfold b; clear b)) | (((first | (have h0 : Nat := b; clear h0) | (have h0 : Bool := b; clear h0) | (have h0 : BitVec _ := b; clear h0) | (have h0 : List _ := b; clear h0)); clear_value b)) | (unfold b; clear b) | clear b)
    | ((with_reducible apply Only.after (refuse_only _ _ _ _)); · rfl)
    | ((with_reducible apply Only.after (spireEnter_only _)); · rfl)
    | ((with_reducible apply Only.after (spireExit_only _)); · rfl)
    | with_reducible refine Only.fst (by assumption) ?_
    | split
    | (refine Only.update (by assumption) ?_; intro p; cases p <;> first | exact .inl rfl | exact .inr rfl)
    | (refine Only.update ?_ ?_; (with_reducible refine Only.fst (by assumption) ?_); rotate_left; intro p; cases p <;> first | exact .inl rfl | exact .inr rfl)

theorem spireReady_only (s : State) : Only [.fresh, .outbox, .regs, .hl, .heads, .groups, .sched, .fabric, .fa, .keep, .lanterns, .si, .oq, .dict, .ic, .pm, .therm] s (spireReady s) := by
  have sk := Only.refl [.fresh, .outbox, .regs, .hl, .heads, .groups, .sched, .fabric, .fa, .keep, .lanterns, .si, .oq, .dict, .ic, .pm, .therm] s
  unfold spireReady
  split
  · exact sk
  · split
    · exact (spireCause_only _ _).mono rfl
    · extract_lets +onlyGivenNames _ b
      have hb : Only [.fresh, .outbox, .regs, .hl, .heads, .groups, .sched, .fabric, .fa, .keep, .lanterns, .si, .oq, .dict, .ic, .pm, .therm] s b := by
        refine Only.update sk ?_
        intro p; cases p <;> first | exact .inl rfl | exact .inr rfl
      clear_value b
      refine Only.hold ?_
      split
      · rename_i t e
        obtain ⟨d, -, e⟩ := Option.bind_eq_some_iff.mp e
        exact Only.after (followSpire_only _) rfl (hb.trans ((mcSwitch_only e).mono rfl))
      · exact Only.after (abandonEntry_only _ _) rfl hb

theorem spireSupplyTimeout_only (s : State) : Only [.outbox, .regs, .err, .hl, .dict, .ic, .pm, .therm] s (spireSupplyTimeout s) := by
  have sk := Only.refl [.outbox, .regs, .err, .hl, .dict, .ic, .pm, .therm] s
  unfold spireSupplyTimeout
  repeat' first
    | with_reducible assumption
    | (extract_lets +onlyGivenNames b; first | (refine Only.cut (Only [.outbox, .regs, .err, .hl, .dict, .ic, .pm, .therm] s b) ?_ ?_ <;> first | (intro hb; clear_value b; refine Only.hold ?_) | intro hb | (unfold b; clear b)) | (((first | (have h0 : Nat := b; clear h0) | (have h0 : Bool := b; clear h0) | (have h0 : BitVec _ := b; clear h0) | (have h0 : List _ := b; clear h0)); clear_value b)) | (unfold b; clear b) | clear b)
    | ((with_reducible apply Only.after (State.setReg_only _ _ _)); · rfl)
    | ((with_reducible apply Only.after (refuse_only _ _ _ _)); · rfl)
    | ((with_reducible apply Only.after (abandonEntry_only _ _)); · rfl)
    | split
    | (refine Only.update (by assumption) ?_; intro p; cases p <;> first | exact .inl rfl | exact .inr rfl)

theorem thermalEvaluation_only (s : State) : Only [.fresh, .outbox, .regs, .hl, .heads, .groups, .sched, .fabric, .fa, .keep, .lanterns, .si, .oq, .dict, .ic, .pm, .therm, .safety] s (thermalEvaluation s) := by
  have sk := Only.refl [.fresh, .outbox, .regs, .hl, .heads, .groups, .sched, .fabric, .fa, .keep, .lanterns, .si, .oq, .dict, .ic, .pm, .therm, .safety] s
  unfold thermalEvaluation
  repeat' first
    | with_reducible assumption
    | (extract_lets +onlyGivenNames b; first | (refine Only.cut (Only [.fresh, .outbox, .regs, .hl, .heads, .groups, .sched, .fabric, .fa, .keep, .lanterns, .si, .oq, .dict, .ic, .pm, .therm, .safety] s b) ?_ ?_ <;> first | (intro hb; clear_value b; refine Only.hold ?_) | intro hb | (unfold b; clear b)) | (((first | (have h0 : Nat := b; clear h0) | (have h0 : Bool := b; clear h0) | (have h0 : BitVec _ := b; clear h0) | (have h0 : List _ := b; clear h0)); clear_value b)) | (unfold b; clear b) | clear b)
    | ((with_reducible apply Only.after (computePred_only _)); · rfl)
    | ((with_reducible apply Only.after (setTherState_only _ _)); · rfl)
    | ((with_reducible apply Only.after (shedNext_only _)); · rfl)
    | ((with_reducible apply Only.after (judgeSpire_only _)); · rfl)
    | split
    | (refine Only.update (by assumption) ?_; intro p; cases p <;> first | exact .inl rfl | exact .inr rfl)

theorem spireSecond_only (ok : Bool) (s : State) : Only [.aon, .fresh, .outbox, .regs, .hl, .heads, .groups, .sched, .fabric, .fa, .keep, .lanterns, .si, .oq, .dict, .ic, .pm, .therm] s (spireSecond ok s) := by
  have sk := Only.refl [.aon, .fresh, .outbox, .regs, .hl, .heads, .groups, .sched, .fabric, .fa, .keep, .lanterns, .si, .oq, .dict, .ic, .pm, .therm] s
  unfold spireSecond
  repeat' first
    | with_reducible assumption
    | (extract_lets +onlyGivenNames b; first | (refine Only.cut (Only [.aon, .fresh, .outbox, .regs, .hl, .heads, .groups, .sched, .fabric, .fa, .keep, .lanterns, .si, .oq, .dict, .ic, .pm, .therm] s b) ?_ ?_ <;> first | (intro hb; clear_value b; refine Only.hold ?_) | intro hb | (unfold b; clear b)) | (((first | (have h0 : Nat := b; clear h0) | (have h0 : Bool := b; clear h0) | (have h0 : BitVec _ := b; clear h0) | (have h0 : List _ := b; clear h0)); clear_value b)) | (unfold b; clear b) | clear b)
    | ((with_reducible apply Only.after (raise_only _ _)); · rfl)
    | ((with_reducible apply Only.after (writeStore_only _ _ _)); · rfl)
    | ((with_reducible apply Only.after (spireCause_only _ _)); · rfl)
    | split
    | (refine Only.update (by assumption) ?_; intro p; cases p <;> first | exact .inl rfl | exact .inr rfl)

theorem wearStore_only (ok : Bool) (s : State) : Only [.aon, .fresh, .outbox, .hl, .ic, .pm] s (wearStore ok s) := by
  have sk := Only.refl [.aon, .fresh, .outbox, .hl, .ic, .pm] s
  unfold wearStore
  repeat' first
    | with_reducible assumption
    | ((with_reducible apply Only.after (writeStore_only _ _ _)); · rfl)

theorem shutDown_only (cause : Byte) (s : State) : Only [.power, .aon, .outbox, .hl, .dict, .ic, .pm, .safety] s (shutDown cause s) := by
  have sk := Only.refl [.power, .aon, .outbox, .hl, .dict, .ic, .pm, .safety] s
  unfold shutDown
  repeat' first
    | with_reducible assumption
    | (extract_lets +onlyGivenNames b; first | (refine Only.cut (Only [.power, .aon, .outbox, .hl, .dict, .ic, .pm, .safety] s b) ?_ ?_ <;> first | (intro hb; clear_value b; refine Only.hold ?_) | intro hb | (unfold b; clear b)) | (((first | (have h0 : Nat := b; clear h0) | (have h0 : Bool := b; clear h0) | (have h0 : BitVec _ := b; clear h0) | (have h0 : List _ := b; clear h0)); clear_value b)) | (unfold b; clear b) | clear b)
    | ((with_reducible apply Only.after (setCategory_only _ _ _)); · rfl)
    | (refine Only.update (by assumption) ?_; intro p; cases p <;> first | exact .inl rfl | exact .inr rfl)

theorem thermalShutdown_only (s : State) : Only [.power, .aon, .outbox, .hl, .dict, .ic, .pm, .safety] s (thermalShutdown s) := by
  have sk := Only.refl [.power, .aon, .outbox, .hl, .dict, .ic, .pm, .safety] s
  unfold thermalShutdown
  repeat' first
    | with_reducible assumption
    | ((with_reducible apply Only.after (shutDown_only _ _)); · rfl)
    | split

theorem takeCause_only (s : State) : Only [.aon, .start] s (takeCause s) := by
  have sk := Only.refl [.aon, .start] s
  unfold takeCause
  repeat' first
    | with_reducible assumption
    | (extract_lets +onlyGivenNames b; first | (refine Only.cut (Only [.aon, .start] s b) ?_ ?_ <;> first | (intro hb; clear_value b; refine Only.hold ?_) | intro hb | (unfold b; clear b)) | (((first | (have h0 : Nat := b; clear h0) | (have h0 : Bool := b; clear h0) | (have h0 : BitVec _ := b; clear h0) | (have h0 : List _ := b; clear h0)); clear_value b)) | (unfold b; clear b) | clear b)
    | ((with_reducible apply Only.after (noteEntry_only _ _)); · rfl)
    | split
    | (refine Only.update (by assumption) ?_; intro p; cases p <;> first | exact .inl rfl | exact .inr rfl)

theorem shutdownCauseRead_only (src : Source) (s : State) : Only [.aon, .reply, .start] s (shutdownCauseRead src s) := by
  have sk := Only.refl [.aon, .reply, .start] s
  unfold shutdownCauseRead
  repeat' first
    | with_reducible assumption
    | (extract_lets +onlyGivenNames b; first | (refine Only.cut (Only [.aon, .reply, .start] s b) ?_ ?_ <;> first | (intro hb; clear_value b; refine Only.hold ?_) | intro hb | (unfold b; clear b)) | (((first | (have h0 : Nat := b; clear h0) | (have h0 : Bool := b; clear h0) | (have h0 : BitVec _ := b; clear h0) | (have h0 : List _ := b; clear h0)); clear_value b)) | (unfold b; clear b) | clear b)
    | ((with_reducible apply Only.after (State.answer_only _ _)); · rfl)
    | ((with_reducible apply Only.after (takeCause_only _)); · rfl)
    | split

theorem noteRail_only (rail : Nat) (fault : Bool) (s : State) : Only [.aon] s (noteRail rail fault s) := by
  have sk := Only.refl [.aon] s
  unfold noteRail
  repeat' first
    | with_reducible assumption
    | (extract_lets +onlyGivenNames b; first | (refine Only.cut (Only [.aon] s b) ?_ ?_ <;> first | (intro hb; clear_value b; refine Only.hold ?_) | intro hb | (unfold b; clear b)) | (((first | (have h0 : Nat := b; clear h0) | (have h0 : Bool := b; clear h0) | (have h0 : BitVec _ := b; clear h0) | (have h0 : List _ := b; clear h0)); clear_value b)) | (unfold b; clear b) | clear b)
    | split
    | (refine Only.update (by assumption) ?_; intro p; cases p <;> first | exact .inl rfl | exact .inr rfl)

theorem railOut_only (rail : Nat) (fault : Bool) (s : State) : Only [.aon, .fresh, .outbox, .regs, .hl, .heads, .groups, .sched, .fabric, .fa, .keep, .lanterns, .si, .oq, .dict, .ic, .pm, .therm, .safety] s (railOut rail fault s) := by
  have sk := Only.refl [.aon, .fresh, .outbox, .regs, .hl, .heads, .groups, .sched, .fabric, .fa, .keep, .lanterns, .si, .oq, .dict, .ic, .pm, .therm, .safety] s
  unfold railOut
  repeat' first
    | with_reducible assumption
    | (extract_lets +onlyGivenNames b; first | (refine Only.cut (Only [.aon, .fresh, .outbox, .regs, .hl, .heads, .groups, .sched, .fabric, .fa, .keep, .lanterns, .si, .oq, .dict, .ic, .pm, .therm, .safety] s b) ?_ ?_ <;> first | (intro hb; clear_value b; refine Only.hold ?_) | intro hb | (unfold b; clear b)) | (((first | (have h0 : Nat := b; clear h0) | (have h0 : Bool := b; clear h0) | (have h0 : BitVec _ := b; clear h0) | (have h0 : List _ := b; clear h0)); clear_value b)) | (unfold b; clear b) | clear b)
    | ((with_reducible apply Only.after (raise_only _ _)); · rfl)
    | ((with_reducible apply Only.after (setCategory_only _ _ _)); · rfl)
    | ((with_reducible apply Only.after (judgeSpire_only _)); · rfl)
    | ((with_reducible apply Only.after (noteRail_only _ _ _)); · rfl)
    | split

theorem monitorRails_only (s : State) : Only [.outbox, .hl, .dict, .ic, .pm, .safety] s (monitorRails s) := by
  have sk := Only.refl [.outbox, .hl, .dict, .ic, .pm, .safety] s
  unfold monitorRails
  repeat' first
    | with_reducible assumption
    | ((with_reducible apply Only.after (raise_only _ _)); · rfl)
    | ((with_reducible apply Only.after (setCategory_only _ _ _)); · rfl)
    | ((with_reducible refine Only.fold _ ?_ ?_) <;> try intro x a hb)

theorem railIn_only (rail : Nat) (s : State) : Only [.aon] s (railIn rail s) := by
  have sk := Only.refl [.aon] s
  unfold railIn
  repeat' first
    | with_reducible assumption
    | (extract_lets +onlyGivenNames b; first | (unfold b; clear b) | clear b)
    | (refine Only.update (by assumption) ?_; intro p; cases p <;> first | exact .inl rfl | exact .inr rfl)

theorem pllLost_only (p : Pll) (s : State) : Only [.fresh, .outbox, .regs, .hl, .heads, .groups, .sched, .fabric, .fa, .keep, .lanterns, .si, .oq, .dict, .ic, .pm, .therm, .safety] s (pllLost p s) := by
  have sk := Only.refl [.fresh, .outbox, .regs, .hl, .heads, .groups, .sched, .fabric, .fa, .keep, .lanterns, .si, .oq, .dict, .ic, .pm, .therm, .safety] s
  unfold pllLost
  repeat' first
    | with_reducible assumption
    | (extract_lets +onlyGivenNames b; first | (unfold b; clear b) | clear b)
    | ((with_reducible apply Only.after (raise_only _ _)); · rfl)
    | ((with_reducible apply Only.after (setCategory_only _ _ _)); · rfl)
    | ((with_reducible apply Only.after (judgeSpire_only _)); · rfl)
    | split
    | (refine Only.update (by assumption) ?_; intro p; cases p <;> first | exact .inl rfl | exact .inr rfl)

theorem pllRegained_only (p : Pll) (s : State) : Only [.safety] s (pllRegained p s) := by
  have sk := Only.refl [.safety] s
  unfold pllRegained
  repeat' first
    | with_reducible assumption
    | (extract_lets +onlyGivenNames b; first | (unfold b; clear b) | clear b)
    | split
    | (refine Only.update (by assumption) ?_; intro p; cases p <;> first | exact .inl rfl | exact .inr rfl)

theorem clearFaults_only (cats : BitVec 11) (s : State) : Only [.dict, .safety] s (clearFaults cats s) := by
  have sk := Only.refl [.dict, .safety] s
  unfold clearFaults
  repeat' first
    | with_reducible assumption
    | ((with_reducible apply Only.after (clearCategory_only _ _)); · rfl)
    | ((with_reducible refine Only.fold _ ?_ ?_) <;> try intro x a hb)

theorem faultClear_only (src : Source) (cats : BitVec 11) (s : State) : Only [.outbox, .err, .hl, .dict, .ic, .pm, .safety] s (faultClear src cats s) := by
  have sk := Only.refl [.outbox, .err, .hl, .dict, .ic, .pm, .safety] s
  unfold faultClear
  repeat' first
    | with_reducible assumption
    | ((with_reducible apply Only.after (refuse_only _ _ _ _)); · rfl)
    | ((with_reducible apply Only.after (clearFaults_only _ _)); · rfl)
    | split

end Sys2Proof.Machine
end

