-- ==== Sys2Proof/Laws/OnlyReadReg.lean ====
section
/-! SUPPORT. The parts of the state that the operations of ReadReg may change. -/

set_option linter.all false

namespace Sys2Proof.Machine

theorem readEffect_only (r : RegId) (s : State) : Only [.lanterns] s (readEffect r s) := by
  have sk := Only.refl [.lanterns] s
  unfold readEffect
  repeat' first
    | with_reducible assumption
    | (extract_lets +onlyGivenNames b; first | (unfold b; clear b) | clear b)
    | ((with_reducible apply Only.after (State.setLantern_only _ _ _)); · rfl)
    | split
    | (refine Only.update (by assumption) ?_; intro p; cases p <;> first | exact .inl rfl | exact .inr rfl)

theorem afterBar0Read_only (src : Source) (a : Nat) (n : Nat) (s : State) : Only [.outbox, .reply, .hl, .lanterns, .ic, .pm] s (afterBar0Read src a n s) := by
  have sk := Only.refl [.outbox, .reply, .hl, .lanterns, .ic, .pm] s
  unfold afterBar0Read
  repeat' first
    | with_reducible assumption
    | (extract_lets +onlyGivenNames b; first | (unfold b; clear b) | clear b)
    | ((with_reducible apply Only.after (turnAway_only _ _)); · rfl)
    | ((with_reducible apply Only.after (countBar0_only _ _ _)); · rfl)
    | ((with_reducible apply Only.after (readEffect_only _ _)); · rfl)
    | ((with_reducible refine Only.fold _ ?_ ?_) <;> try intro x a hb)
    | split
    | (refine Only.update (by assumption) ?_; intro p; cases p <;> first | exact .inl rfl | exact .inr rfl)

end Sys2Proof.Machine
end

