-- ==== Sys2Proof/Laws/OnlyRegWrite.lean ====
section
/-! SUPPORT. The parts of the state that the operations of RegWrite may change. -/

set_option linter.all false

namespace Sys2Proof.Machine

theorem report_only (src : Source) (a : Access) (x : Reject) (s : State) : Only [.outbox, .err, .hl, .ic, .pm] s (report src a x s) := by
  have sk := Only.refl [.outbox, .err, .hl, .ic, .pm] s
  unfold report
  repeat' first
    | with_reducible assumption
    | (extract_lets +onlyGivenNames b; first | (unfold b; clear b) | clear b)
    | ((with_reducible apply Only.after (refuse_only _ _ _ _)); · rfl)
    | ((with_reducible apply Only.after (lockViolation_only _ _ _)); · rfl)
    | split
    | (refine Only.update (by assumption) ?_; intro p; cases p <;> first | exact .inl rfl | exact .inr rfl)

theorem landItem_only (unit : Nat) (group : Bool) (ws : List Wr) (s : State) : Only [.fresh, .outbox, .regs, .items, .lastReject, .hl, .heads, .groups, .fabric, .fa, .keep, .si, .oq, .dict, .ic, .pm] s (landItem unit group ws s) := by
  have sk := Only.refl [.fresh, .outbox, .regs, .items, .lastReject, .hl, .heads, .groups, .fabric, .fa, .keep, .si, .oq, .dict, .ic, .pm] s
  unfold landItem
  repeat' first
    | with_reducible assumption
    | (extract_lets +onlyGivenNames b; first | (refine Only.cut (Only [.fresh, .outbox, .regs, .items, .lastReject, .hl, .heads, .groups, .fabric, .fa, .keep, .si, .oq, .dict, .ic, .pm] s b) ?_ ?_ <;> first | (intro hb; clear_value b; refine Only.hold ?_) | intro hb | (unfold b; clear b)) | (((first | (have h0 : Nat := b; clear h0) | (have h0 : Bool := b; clear h0) | (have h0 : BitVec _ := b; clear h0) | (have h0 : List _ := b; clear h0)); clear_value b)) | (unfold b; clear b) | clear b)
    | ((with_reducible apply Only.after (State.setLayer_only _ _ _)); · rfl)
    | ((with_reducible apply Only.after (overlay_only _ _)); · rfl)
    | ((with_reducible apply Only.after (pinSurfaces_only _ _)); · rfl)
    | ((with_reducible apply Only.after (applyAtOnce_only _ _ _)); · rfl)
    | split
    | (refine Only.update (by assumption) ?_; intro p; cases p <;> first | exact .inl rfl | exact .inr rfl)

theorem hold_only (r : RegId) (v : Word) (safety : Bool) (s : State) : Only [.held] s (hold r v safety s) := by
  have sk := Only.refl [.held] s
  unfold hold
  repeat' first
    | with_reducible assumption
    | (extract_lets +onlyGivenNames b; first | (refine Only.cut (Only [.held] s b) ?_ ?_ <;> first | (intro hb; clear_value b; refine Only.hold ?_) | intro hb | (unfold b; clear b)) | (((first | (have h0 : Nat := b; clear h0) | (have h0 : Bool := b; clear h0) | (have h0 : BitVec _ := b; clear h0) | (have h0 : List _ := b; clear h0)); clear_value b)) | (unfold b; clear b) | clear b)
    | split
    | (refine Only.update (by assumption) ?_; intro p; cases p <;> first | exact .inl rfl | exact .inr rfl)

theorem clearPending_only (g : Grp) (i : Nat) (j : Nat) (s : State) : Only [.pendGroups, .heads] s (clearPending g i j s) := by
  have sk := Only.refl [.pendGroups, .heads] s
  unfold clearPending
  repeat' first
    | with_reducible assumption
    | (extract_lets +onlyGivenNames b; first | (refine Only.cut (Only [.pendGroups, .heads] s b) ?_ ?_ <;> first | (intro hb; clear_value b; refine Only.hold ?_) | intro hb | (unfold b; clear b)) | (((first | (have h0 : Nat := b; clear h0) | (have h0 : Bool := b; clear h0) | (have h0 : BitVec _ := b; clear h0) | (have h0 : List _ := b; clear h0)); clear_value b)) | (unfold b; clear b) | clear b)
    | ((with_reducible apply Only.after (State.setHead_only _ _ _)); · rfl)
    | split
    | (refine Only.update (by assumption) ?_; intro p; cases p <;> first | exact .inl rfl | exact .inr rfl)

theorem dropHeld_only (g : Grp) (i : Nat) (j : Nat) (s : State) : Only [.held] s (dropHeld g i j s) := by
  have sk := Only.refl [.held] s
  unfold dropHeld
  repeat' first
    | with_reducible assumption
    | (extract_lets +onlyGivenNames b; first | (unfold b; clear b) | clear b)
    | ((with_reducible refine Only.fold _ ?_ ?_) <;> try intro x a hb)
    | (refine Only.update (by assumption) ?_; intro p; cases p <;> first | exact .inl rfl | exact .inr rfl)

theorem completeGroup_only (g : Grp) (r : RegId) (v : Word) (safety : Bool) (s : State) : Only [.fresh, .outbox, .regs, .held, .pendGroups, .items, .lastReject, .hl, .heads, .groups, .fabric, .fa, .keep, .si, .oq, .dict, .ic, .bl, .pm] s (completeGroup g r v safety s) := by
  have sk := Only.refl [.fresh, .outbox, .regs, .held, .pendGroups, .items, .lastReject, .hl, .heads, .groups, .fabric, .fa, .keep, .si, .oq, .dict, .ic, .bl, .pm] s
  unfold completeGroup
  repeat' first
    | with_reducible assumption
    | (extract_lets +onlyGivenNames b; first | (refine Only.cut (Only [.fresh, .outbox, .regs, .held, .pendGroups, .items, .lastReject, .hl, .heads, .groups, .fabric, .fa, .keep, .si, .oq, .dict, .ic, .bl, .pm] s b) ?_ ?_ <;> first | (intro hb; clear_value b; refine Only.hold ?_) | intro hb | (unfold b; clear b)) | (((first | (have h0 : Nat := b; clear h0) | (have h0 : Bool := b; clear h0) | (have h0 : BitVec _ := b; clear h0) | (have h0 : List _ := b; clear h0)); clear_value b)) | (unfold b; clear b) | clear b)
    | ((with_reducible apply Only.after (overlay_only _ _)); · rfl)
    | ((with_reducible apply Only.after (writeStream_only _ _ _)); · rfl)
    | ((with_reducible apply Only.after (resetRing_only _ _ _)); · rfl)
    | ((with_reducible apply Only.after (landItem_only _ _ _ _)); · rfl)
    | ((with_reducible apply Only.after (clearPending_only _ _ _ _)); · rfl)
    | ((with_reducible apply Only.after (dropHeld_only _ _ _ _)); · rfl)
    | split
    | (refine Only.update (by assumption) ?_; intro p; cases p <;> first | exact .inl rfl | exact .inr rfl)

theorem persist_only (src : Source) (r : RegId) (v : Word) (s : State) : Only [.dict] s (persist src r v s) := by
  have sk := Only.refl [.dict] s
  unfold persist
  repeat' first
    | with_reducible assumption
    | (extract_lets +onlyGivenNames b; first | (unfold b; clear b) | clear b)
    | ((with_reducible apply Only.after (queueStore_only _ _ _)); · rfl)
    | split
    | (refine Only.update (by assumption) ?_; intro p; cases p <;> first | exact .inl rfl | exact .inr rfl)

theorem settleSignature_only (s : State) : Only [.dict, .safety] s (settleSignature s) := by
  have sk := Only.refl [.dict, .safety] s
  unfold settleSignature
  repeat' first
    | with_reducible assumption
    | ((with_reducible apply Only.after (clearCategory_only _ _)); · rfl)
    | split

theorem writeGcfg_only (g : Nat) (v : Word) (s : State) : Only [.outbox, .regs, .hl, .ic, .pm] s (writeGcfg g v s) := by
  have sk := Only.refl [.outbox, .regs, .hl, .ic, .pm] s
  unfold writeGcfg
  repeat' first
    | with_reducible assumption
    | (extract_lets +onlyGivenNames b; first | (refine Only.cut (Only [.outbox, .regs, .hl, .ic, .pm] s b) ?_ ?_ <;> first | (intro hb; clear_value b; refine Only.hold ?_) | intro hb | (unfold b; clear b)) | (((first | (have h0 : Nat := b; clear h0) | (have h0 : Bool := b; clear h0) | (have h0 : BitVec _ := b; clear h0) | (have h0 : List _ := b; clear h0)); clear_value b)) | (unfold b; clear b) | clear b)
    | ((with_reducible apply Only.after (State.setReg_only _ _ _)); · rfl)
    | ((with_reducible apply Only.after (releaseGroup_only _ _ _ _ _)); · rfl)
    | ((with_reducible apply Only.after (settle_only _ _ _)); · rfl)
    | split

theorem sendWindow_only (f : Nat) (len : Nat) (s : State) : Only [.dict] s (sendWindow f len s) := by
  have sk := Only.refl [.dict] s
  unfold sendWindow
  repeat' first
    | with_reducible assumption
    | (extract_lets +onlyGivenNames b; first | (unfold b; clear b) | clear b)
    | ((with_reducible apply Only.after (State.setWin_only _ _ _)); · rfl)
    | (refine Only.update (by assumption) ?_; intro p; cases p <;> first | exact .inl rfl | exact .inr rfl)

theorem clearWindow_only (f : Nat) (s : State) : Only [.dict] s (clearWindow f s) := by
  have sk := Only.refl [.dict] s
  unfold clearWindow
  repeat' first
    | with_reducible assumption
    | (extract_lets +onlyGivenNames b; first | (unfold b; clear b) | clear b)
    | ((with_reducible apply Only.after (State.setWin_only _ _ _)); · rfl)
    | (refine Only.update (by assumption) ?_; intro p; cases p <;> first | exact .inl rfl | exact .inr rfl)

theorem clearErr_only (f : Nat) (v : Word) (s : State) : Only [.err] s (clearErr f v s) := by
  have sk := Only.refl [.err] s
  unfold clearErr
  repeat' first
    | with_reducible assumption
    | (extract_lets +onlyGivenNames b; first | (refine Only.cut (Only [.err] s b) ?_ ?_ <;> first | (intro hb; clear_value b; refine Only.hold ?_) | intro hb | (unfold b; clear b)) | (((first | (have h0 : Nat := b; clear h0) | (have h0 : Bool := b; clear h0) | (have h0 : BitVec _ := b; clear h0) | (have h0 : List _ := b; clear h0)); clear_value b)) | (unfold b; clear b) | clear b)
    | ((with_reducible apply Only.after (State.setErrRec_only _ _ _)); · rfl)
    | ((with_reducible apply Only.after (lockViolation_only _ _ _)); · rfl)
    | (refine Only.update (by assumption) ?_; intro p; cases p <;> first | exact .inl rfl | exact .inr rfl)

theorem freeErr_only (f : Nat) (v : Word) (s : State) : Only [.err] s (freeErr f v s) := by
  have sk := Only.refl [.err] s
  unfold freeErr
  repeat' first
    | with_reducible assumption
    | (extract_lets +onlyGivenNames b; first | (unfold b; clear b) | clear b)
    | ((with_reducible apply Only.after (State.setErrRec_only _ _ _)); · rfl)
    | split
    | (refine Only.update (by assumption) ?_; intro p; cases p <;> first | exact .inl rfl | exact .inr rfl)

theorem ringDoorbell_only (src : Source) (p : Nat) (v : Word) (s : State) : Only [.regs, .hl, .fabric, .fa, .lanterns] s (ringDoorbell src p v s) := by
  have sk := Only.refl [.regs, .hl, .fabric, .fa, .lanterns] s
  unfold ringDoorbell doorbell
  repeat' first
    | with_reducible assumption
    | (extract_lets +onlyGivenNames b; first | (refine Only.cut (Only [.regs, .hl, .fabric, .fa, .lanterns] s b) ?_ ?_ <;> first | (intro hb; clear_value b; refine Only.hold ?_) | intro hb | (unfold b; clear b)) | (refine Only.cut (Only [.regs, .hl, .fabric, .fa, .lanterns] s b.1) ?_ ?_ <;> first | (intro hb; clear_value b; refine Only.hold ?_) | intro hb | (unfold b; clear b)) | (((first | (have h0 : Nat := b; clear h0) | (have h0 : Bool := b; clear h0) | (have h0 : BitVec _ := b; clear h0) | (have h0 : List _ := b; clear h0)); clear_value b)) | (unfold b; clear b) | clear b)
    | ((with_reducible apply Only.after (State.bump_only _ _ _ _ _)); · rfl)
    | ((with_reducible apply Only.after (badOp_only _ _ _ _)); · rfl)
    | with_reducible refine Only.fst (by assumption) ?_
    | ((with_reducible refine Only.fold _ ?_ ?_) <;> try intro x a hb)
    | ((with_reducible refine Only.foldP _ ?_ ?_) <;> try (intro x a hb; rcases x with ⟨x, xr⟩))
    | split
    | (refine Only.update (by assumption) ?_; intro p; cases p <;> first | exact .inl rfl | exact .inr rfl)
    | (refine Only.update ?_ ?_; (with_reducible refine Only.fst (by assumption) ?_); rotate_left; intro p; cases p <;> first | exact .inl rfl | exact .inr rfl)

theorem writeUserEn_only (src : Source) (k : Nat) (a : Access) (v : Word) (s : State) : Only [.outbox, .regs, .err, .hl, .ic, .pm] s (writeUserEn src k a v s) := by
  have sk := Only.refl [.outbox, .regs, .err, .hl, .ic, .pm] s
  unfold writeUserEn
  repeat' first
    | with_reducible assumption
    | (extract_lets +onlyGivenNames b; first | (refine Only.cut (Only [.outbox, .regs, .err, .hl, .ic, .pm] s b) ?_ ?_ <;> first | (intro hb; clear_value b; refine Only.hold ?_) | intro hb | (unfold b; clear b)) | (((first | (have h0 : Nat := b; clear h0) | (have h0 : Bool := b; clear h0) | (have h0 : BitVec _ := b; clear h0) | (have h0 : List _ := b; clear h0)); clear_value b)) | (unfold b; clear b) | clear b)
    | ((with_reducible apply Only.after (State.setReg_only _ _ _)); · rfl)
    | ((with_reducible apply Only.after (refuse_only _ _ _ _)); · rfl)
    | split
    | (refine Only.update (by assumption) ?_; intro p; cases p <;> first | exact .inl rfl | exact .inr rfl)

theorem clearDropped_only (b : PBlock) (v : Word) (s : State) : Only [.dropped] s (clearDropped b v s) := by
  have sk := Only.refl [.dropped] s
  unfold clearDropped
  repeat' first
    | with_reducible assumption
    | (extract_lets +onlyGivenNames b; first | (unfold b; clear b) | clear b)
    | split
    | (refine Only.update (by assumption) ?_; intro p; cases p <;> first | exact .inl rfl | exact .inr rfl)

theorem actTiming_only (src : Source) (r : RegId) (v : Word) (s : State) : Only [.outbox, .regs, .dropped, .heads, .groups, .fabric, .fa, .lanterns, .dict, .casc, .therm, .safety] s (actTiming src r v s) := by
  have sk := Only.refl [.outbox, .regs, .dropped, .heads, .groups, .fabric, .fa, .lanterns, .dict, .casc, .therm, .safety] s
  unfold actTiming
  repeat' first
    | with_reducible assumption
    | (extract_lets +onlyGivenNames b; first | (refine Only.cut (Only [.outbox, .regs, .dropped, .heads, .groups, .fabric, .fa, .lanterns, .dict, .casc, .therm, .safety] s b) ?_ ?_ <;> first | (intro hb; clear_value b; refine Only.hold ?_) | intro hb | (unfold b; clear b)) | (((first | (have h0 : Nat := b; clear h0) | (have h0 : Bool := b; clear h0) | (have h0 : BitVec _ := b; clear h0) | (have h0 : List _ := b; clear h0)); clear_value b)) | (unfold b; clear b) | clear b)
    | ((with_reducible apply Only.after (State.setReg_only _ _ _)); · rfl)
    | ((with_reducible apply Only.after (State.setHead_only _ _ _)); · rfl)
    | ((with_reducible apply Only.after (autoLatch_only _ _)); · rfl)
    | ((with_reducible apply Only.after (landHeadCtrl_only _ _ _ _)); · rfl)
    | ((with_reducible apply Only.after (clearShed_only _ _)); · rfl)
    | ((with_reducible apply Only.after (setLg_only _ _ _ _)); · rfl)
    | ((with_reducible apply Only.after (landLctrl_only _ _ _ _)); · rfl)
    | ((with_reducible apply Only.after (clearLate_only _ _ _)); · rfl)
    | ((with_reducible apply Only.after (clearDropped_only _ _ _)); · rfl)
    | split
    | (refine Only.update (by assumption) ?_; intro p; cases p <;> first | exact .inl rfl | exact .inr rfl)

theorem actHost_only (src : Source) (a : Access) (r : RegId) (v : Word) (s : State) : Only [.outbox, .regs, .err, .hl, .tx, .dict, .ic, .pm] s (actHost src a r v s) := by
  have sk := Only.refl [.outbox, .regs, .err, .hl, .tx, .dict, .ic, .pm] s
  unfold actHost
  repeat' first
    | with_reducible assumption
    | (extract_lets +onlyGivenNames b; first | (unfold b; clear b) | clear b)
    | ((with_reducible apply Only.after (State.setReg_only _ _ _)); · rfl)
    | ((with_reducible apply Only.after (refuse_only _ _ _ _)); · rfl)
    | ((with_reducible apply Only.after (changeTarget_only _ _ _)); · rfl)
    | ((with_reducible apply Only.after (eoiAt_only _ _ _ _ _)); · rfl)
    | ((with_reducible apply Only.after (pendSetAt_only _ _ _ _ _ _)); · rfl)
    | ((with_reducible apply Only.after (pendClrAt_only _ _ _ _ _ _)); · rfl)
    | ((with_reducible apply Only.after (maskSetAt_only _ _ _ _ _ _)); · rfl)
    | ((with_reducible apply Only.after (maskClrAt_only _ _ _ _ _ _)); · rfl)
    | ((with_reducible apply Only.after (targetWrite_only _ _ _ _)); · rfl)
    | ((with_reducible apply Only.after (commit_only _ _ _ _)); · rfl)
    | ((with_reducible apply Only.after (rollback_only _ _ _)); · rfl)
    | ((with_reducible apply Only.after (writeGcfg_only _ _ _)); · rfl)
    | ((with_reducible apply Only.after (sendWindow_only _ _ _)); · rfl)
    | ((with_reducible apply Only.after (clearWindow_only _ _)); · rfl)
    | ((with_reducible apply Only.after (clearErr_only _ _ _)); · rfl)
    | ((with_reducible apply Only.after (freeErr_only _ _ _)); · rfl)
    | split
    | (refine Only.update (by assumption) ?_; intro p; cases p <;> first | exact .inl rfl | exact .inr rfl)

theorem actUnits_only (src : Source) (a : Access) (r : RegId) (v : Word) (s : State) : Only [.fresh, .outbox, .regs, .dropped, .err, .hl, .heads, .groups, .sched, .fabric, .fa, .keep, .lanterns, .si, .oq, .dict, .ic, .cv, .bl, .pm, .therm, .safety] s (actUnits src a r v s) := by
  have sk := Only.refl [.fresh, .outbox, .regs, .dropped, .err, .hl, .heads, .groups, .sched, .fabric, .fa, .keep, .lanterns, .si, .oq, .dict, .ic, .cv, .bl, .pm, .therm, .safety] s
  unfold actUnits
  repeat' first
    | with_reducible assumption
    | (extract_lets +onlyGivenNames b; first | (unfold b; clear b) | clear b)
    | ((with_reducible apply Only.after (State.setChannel_only _ _ _)); · rfl)
    | ((with_reducible apply Only.after (State.setKeepHead_only _ _ _)); · rfl)
    | ((with_reducible apply Only.after (State.setEngine_only _ _ _)); · rfl)
    | ((with_reducible apply Only.after (sbCommand_only _ _ _ _)); · rfl)
    | ((with_reducible apply Only.after (tlbInv_only _ _ _ _)); · rfl)
    | ((with_reducible apply Only.after (keepClear_only _ _ _ _)); · rfl)
    | ((with_reducible apply Only.after (cvCtrl_only _ _ _ _)); · rfl)
    | ((with_reducible apply Only.after (landCvStatus_only _ _ _)); · rfl)
    | ((with_reducible apply Only.after (writeStream_only _ _ _)); · rfl)
    | ((with_reducible apply Only.after (landPctrl_only _ _ _)); · rfl)
    | ((with_reducible apply Only.after (landQctrl_only _ _ _)); · rfl)
    | ((with_reducible apply Only.after (startAux_only _ _ _ _ _)); · rfl)
    | ((with_reducible apply Only.after (submit_only _ _ _)); · rfl)
    | ((with_reducible apply Only.after (cringRdWrite_only _ _ _ _)); · rfl)
    | ((with_reducible apply Only.after (presetCounter_only _ _ _ _ _)); · rfl)
    | ((with_reducible apply Only.after (freeze_only _ _ _)); · rfl)
    | ((with_reducible apply Only.after (spireRequest_only _ _ _)); · rfl)
    | ((with_reducible apply Only.after (faultClear_only _ _ _)); · rfl)
    | ((with_reducible apply Only.after (ringDoorbell_only _ _ _ _)); · rfl)
    | ((with_reducible apply Only.after (writeUserEn_only _ _ _ _ _)); · rfl)
    | ((with_reducible apply Only.after (clearDropped_only _ _ _)); · rfl)
    | split
    | (refine Only.update (by assumption) ?_; intro p; cases p <;> first | exact .inl rfl | exact .inr rfl)

theorem storeReg_only (r : RegId) (v : Word) (s : State) : Only [.outbox, .regs, .hl, .ic, .bl, .pm] s (storeReg r v s) := by
  have sk := Only.refl [.outbox, .regs, .hl, .ic, .bl, .pm] s
  unfold storeReg
  repeat' first
    | with_reducible assumption
    | (extract_lets +onlyGivenNames b; first | (unfold b; clear b) | clear b)
    | ((with_reducible apply Only.after (State.setReg_only _ _ _)); · rfl)
    | ((with_reducible apply Only.after (resetRing_only _ _ _)); · rfl)
    | split
    | (refine Only.update (by assumption) ?_; intro p; cases p <;> first | exact .inl rfl | exact .inr rfl)

theorem clearBits_only (r : RegId) (v : Word) (s : State) : Only [.outbox, .regs, .hl, .dict, .ic, .pm, .safety] s (clearBits r v s) := by
  have sk := Only.refl [.outbox, .regs, .hl, .dict, .ic, .pm, .safety] s
  unfold clearBits
  repeat' first
    | with_reducible assumption
    | (extract_lets +onlyGivenNames b; first | (unfold b; clear b) | clear b)
    | ((with_reducible apply Only.after (State.setReg_only _ _ _)); · rfl)
    | ((with_reducible apply Only.after (clearOvf_only _ _ _)); · rfl)
    | ((with_reducible apply Only.after (settleSignature_only _)); · rfl)
    | split
    | (refine Only.update (by assumption) ?_; intro p; cases p <;> first | exact .inl rfl | exact .inr rfl)

theorem dropWrite_only (src : Source) (b : PBlock) (a : Access) (s : State) : Only [.outbox, .dropped, .err, .hl, .ic, .pm] s (dropWrite src b a s) := by
  have sk := Only.refl [.outbox, .dropped, .err, .hl, .ic, .pm] s
  unfold dropWrite
  repeat' first
    | with_reducible assumption
    | (extract_lets +onlyGivenNames b; first | (refine Only.cut (Only [.outbox, .dropped, .err, .hl, .ic, .pm] s b) ?_ ?_ <;> first | (intro hb; clear_value b; refine Only.hold ?_) | intro hb | (unfold b; clear b)) | (((first | (have h0 : Nat := b; clear h0) | (have h0 : Bool := b; clear h0) | (have h0 : BitVec _ := b; clear h0) | (have h0 : List _ := b; clear h0)); clear_value b)) | (unfold b; clear b) | clear b)
    | ((with_reducible apply Only.after (errEvent_only _ _ _ _ _)); · rfl)
    | split
    | (refine Only.update (by assumption) ?_; intro p; cases p <;> first | exact .inl rfl | exact .inr rfl)

theorem writeWindow_only (src : Source) (a : Access) (off : Nat) (d : WDword) (s : State) : Only [.outbox, .err, .hl, .sched, .ic, .pm] s (writeWindow src a off d s) := by
  have sk := Only.refl [.outbox, .err, .hl, .sched, .ic, .pm] s
  unfold writeWindow
  repeat' first
    | with_reducible assumption
    | (extract_lets +onlyGivenNames b; first | (unfold b; clear b) | clear b)
    | ((with_reducible apply Only.after (refuse_only _ _ _ _)); · rfl)
    | ((with_reducible refine Only.fold _ ?_ ?_) <;> try intro x a hb)
    | split
    | (refine Only.update (by assumption) ?_; intro p; cases p <;> first | exact .inl rfl | exact .inr rfl)

theorem writeReserved_only (src : Source) (s : State) : Only [.err] s (writeReserved src s) := by
  have sk := Only.refl [.err] s
  unfold writeReserved
  repeat' first
    | with_reducible assumption
    | (extract_lets +onlyGivenNames b; first | (unfold b; clear b) | clear b)
    | ((with_reducible apply Only.after (countReserved_only _ _)); · rfl)
    | split
    | (refine Only.update (by assumption) ?_; intro p; cases p <;> first | exact .inl rfl | exact .inr rfl)

theorem groupPending_only (key : Nat) (s : State) : Only [.tick, .corePhase, .outbox, .regs, .pendGroups, .hl, .heads, .tx, .ic, .pm] s (groupPending key s) := by
  have sk := Only.refl [.tick, .corePhase, .outbox, .regs, .pendGroups, .hl, .heads, .tx, .ic, .pm] s
  unfold groupPending
  repeat' first
    | with_reducible assumption
    | (extract_lets +onlyGivenNames b; first | (refine Only.cut (Only [.tick, .corePhase, .outbox, .regs, .pendGroups, .hl, .heads, .tx, .ic, .pm] s b) ?_ ?_ <;> first | (intro hb; clear_value b; refine Only.hold ?_) | intro hb | (unfold b; clear b)) | (((first | (have h0 : Nat := b; clear h0) | (have h0 : Bool := b; clear h0) | (have h0 : BitVec _ := b; clear h0) | (have h0 : List _ := b; clear h0)); clear_value b)) | (unfold b; clear b) | clear b)
    | ((with_reducible apply Only.after (State.bump_only _ _ _ _ _)); · rfl)
    | ((with_reducible apply Only.after (State.setHead_only _ _ _)); · rfl)
    | ((with_reducible apply Only.after (raise_only _ _)); · rfl)
    | ((with_reducible apply Only.after (toTick_only _ _)); · rfl)
    | split
    | (refine Only.update (by assumption) ?_; intro p; cases p <;> first | exact .inl rfl | exact .inr rfl)

end Sys2Proof.Machine
end

