-- ==== Sys2Proof/Laws/OnlyDictOps.lean ====
section
/-! SUPPORT. The parts of the state that the operations of DictOps may change. -/

set_option linter.all false

namespace Sys2Proof.Machine

theorem afterRead_only (o : Own) (s : State) : Only [.aon, .fresh, .dict, .start] s (afterRead o s) := by
  have sk := Only.refl [.aon, .fresh, .dict, .start] s
  unfold afterRead
  repeat' first
    | with_reducible assumption
    | (extract_lets +onlyGivenNames b; first | (refine Only.cut (Only [.aon, .fresh, .dict, .start] s b) ?_ ?_ <;> first | (intro hb; clear_value b; refine Only.hold ?_) | intro hb | (unfold b; clear b)) | (refine Only.cut (Only [.aon, .fresh, .dict, .start] s b.1) ?_ ?_ <;> first | (intro hb; clear_value b; refine Only.hold ?_) | intro hb | (unfold b; clear b)) | (((first | (have h0 : Nat := b; clear h0) | (have h0 : Bool := b; clear h0) | (have h0 : BitVec _ := b; clear h0) | (have h0 : List _ := b; clear h0)); clear_value b)) | (unfold b; clear b) | clear b)
    | ((with_reducible apply Only.after (State.draw_only _ _)); · rfl)
    | ((with_reducible apply Only.after (takeCause_only _)); · rfl)
    | with_reducible refine Only.fst (by assumption) ?_
    | ((with_reducible refine Only.fold _ ?_ ?_) <;> try intro x a hb)
    | ((with_reducible refine Only.foldP _ ?_ ?_) <;> try (intro x a hb; rcases x with ⟨x, xr⟩))
    | split
    | (refine Only.update (by assumption) ?_; intro p; cases p <;> first | exact .inl rfl | exact .inr rfl)
    | (refine Only.update ?_ ?_; (with_reducible refine Only.fst (by assumption) ?_); rotate_left; intro p; cases p <;> first | exact .inl rfl | exact .inr rfl)

theorem objValue_only (src : Source) (index : Nat) (sub : Nat) (txn : Bool) (d : ObjDef) (s : State) : Only [.aon, .fresh, .dict, .start] s (objValue src index sub txn d s).1 := by
  have sk := Only.refl [.aon, .fresh, .dict, .start] s
  unfold objValue
  repeat' first
    | with_reducible assumption
    | (extract_lets +onlyGivenNames b; first | (refine Only.cut (Only [.aon, .fresh, .dict, .start] s b) ?_ ?_ <;> first | (intro hb; clear_value b; refine Only.hold ?_) | intro hb | (unfold b; clear b)) | (((first | (have h0 : Nat := b; clear h0) | (have h0 : Bool := b; clear h0) | (have h0 : BitVec _ := b; clear h0) | (have h0 : List _ := b; clear h0)); clear_value b)) | (unfold b; clear b) | clear b)
    | ((with_reducible apply Only.after (afterRead_only _ _)); · rfl)
    | split
    | (refine Only.update (by assumption) ?_; intro p; cases p <;> first | exact .inl rfl | exact .inr rfl)

theorem readObject_only (src : Source) (index : Nat) (sub : Nat) (txn : Bool) (s : State) : Only [.aon, .fresh, .dict, .start] s (readObject src index sub txn s).1 := by
  have sk := Only.refl [.aon, .fresh, .dict, .start] s
  unfold readObject
  repeat' first
    | with_reducible assumption
    | (extract_lets +onlyGivenNames b; first | (unfold b; clear b) | clear b)
    | ((with_reducible apply Only.after (objValue_only _ _ _ _ _ _)); · rfl)
    | with_reducible refine Only.fst (by assumption) ?_
    | split
    | (refine Only.update (by assumption) ?_; intro p; cases p <;> first | exact .inl rfl | exact .inr rfl)
    | (refine Only.update ?_ ?_; (with_reducible refine Only.fst (by assumption) ?_); rotate_left; intro p; cases p <;> first | exact .inl rfl | exact .inr rfl)

theorem setIface_only (i : Nat) (on : Bool) (s : State) : Only [.dict] s (setIface i on s) := by
  have sk := Only.refl [.dict] s
  unfold setIface
  repeat' first
    | with_reducible assumption
    | (extract_lets +onlyGivenNames b; first | (refine Only.cut (Only [.dict] s b) ?_ ?_ <;> first | (intro hb; clear_value b; refine Only.hold ?_) | intro hb | (unfold b; clear b)) | (((first | (have h0 : Nat := b; clear h0) | (have h0 : Bool := b; clear h0) | (have h0 : BitVec _ := b; clear h0) | (have h0 : List _ := b; clear h0)); clear_value b)) | (unfold b; clear b) | clear b)
    | ((with_reducible refine Only.fold _ ?_ ?_) <;> try intro x a hb)
    | split
    | (refine Only.update (by assumption) ?_; intro p; cases p <;> first | exact .inl rfl | exact .inr rfl)

theorem setKept_only (index : Nat) (sub : Nat) (l : List Byte) (s : State) : Only [.dict] s (setKept index sub l s) := by
  have sk := Only.refl [.dict] s
  unfold setKept
  repeat' first
    | with_reducible assumption
    | (extract_lets +onlyGivenNames b; first | (refine Only.cut (Only [.dict] s b) ?_ ?_ <;> first | (intro hb; clear_value b; refine Only.hold ?_) | intro hb | (unfold b; clear b)) | (((first | (have h0 : Nat := b; clear h0) | (have h0 : Bool := b; clear h0) | (have h0 : BitVec _ := b; clear h0) | (have h0 : List _ := b; clear h0)); clear_value b)) | (unfold b; clear b) | clear b)
    | ((with_reducible apply Only.after (setIface_only _ _ _)); · rfl)
    | split
    | (refine Only.update (by assumption) ?_; intro p; cases p <;> first | exact .inl rfl | exact .inr rfl)

theorem endSession_only (s : State) : Only [.fresh, .outbox, .hl, .tx, .dict, .ic, .pm] s (endSession s) := by
  have sk := Only.refl [.fresh, .outbox, .hl, .tx, .dict, .ic, .pm] s
  unfold endSession
  repeat' first
    | with_reducible assumption
    | (extract_lets +onlyGivenNames b; first | (refine Only.cut (Only [.fresh, .outbox, .hl, .tx, .dict, .ic, .pm] s b) ?_ ?_ <;> first | (intro hb; clear_value b; refine Only.hold ?_) | intro hb | (unfold b; clear b)) | (((first | (have h0 : Nat := b; clear h0) | (have h0 : Bool := b; clear h0) | (have h0 : BitVec _ := b; clear h0) | (have h0 : List _ := b; clear h0)); clear_value b)) | (unfold b; clear b) | clear b)
    | ((with_reducible apply Only.after (raise_only _ _)); · rfl)
    | ((with_reducible apply Only.after (loseHolder_only _ _)); · rfl)
    | split
    | (refine Only.update (by assumption) ?_; intro p; cases p <;> first | exact .inl rfl | exact .inr rfl)

theorem openSession_only (who : Option Source) (s : State) : Only [.fresh, .outbox, .hl, .tx, .dict, .ic, .pm] s (openSession who s) := by
  have sk := Only.refl [.fresh, .outbox, .hl, .tx, .dict, .ic, .pm] s
  unfold openSession
  repeat' first
    | with_reducible assumption
    | (extract_lets +onlyGivenNames b; first | (refine Only.cut (Only [.fresh, .outbox, .hl, .tx, .dict, .ic, .pm] s b) ?_ ?_ <;> first | (intro hb; clear_value b; refine Only.hold ?_) | intro hb | (unfold b; clear b)) | (((first | (have h0 : Nat := b; clear h0) | (have h0 : Bool := b; clear h0) | (have h0 : BitVec _ := b; clear h0) | (have h0 : List _ := b; clear h0)); clear_value b)) | (unfold b; clear b) | clear b)
    | ((with_reducible apply Only.after (raise_only _ _)); · rfl)
    | ((with_reducible apply Only.after (endSession_only _)); · rfl)
    | (refine Only.update (by assumption) ?_; intro p; cases p <;> first | exact .inl rfl | exact .inr rfl)

theorem diagRespond_only (who : Option Source) (l : List Byte) (s : State) : Only [.fresh, .outbox, .hl, .tx, .dict, .ic, .pm] s (diagRespond who l s).1 := by
  have sk := Only.refl [.fresh, .outbox, .hl, .tx, .dict, .ic, .pm] s
  unfold diagRespond
  repeat' first
    | with_reducible assumption
    | (extract_lets +onlyGivenNames b; first | (refine Only.cut (Only [.fresh, .outbox, .hl, .tx, .dict, .ic, .pm] s b) ?_ ?_ <;> first | (intro hb; clear_value b; refine Only.hold ?_) | intro hb | (unfold b; clear b)) | (((first | (have h0 : Nat := b; clear h0) | (have h0 : Bool := b; clear h0) | (have h0 : BitVec _ := b; clear h0) | (have h0 : List _ := b; clear h0)); clear_value b)) | (unfold b; clear b) | clear b)
    | ((with_reducible apply Only.after (openSession_only _ _)); · rfl)
    | split
    | (refine Only.update (by assumption) ?_; intro p; cases p <;> first | exact .inl rfl | exact .inr rfl)

theorem revokeKey_only (j : Nat) (s : State) : Only [.aon, .fresh, .outbox, .hl, .tx, .dict, .ic, .pm] s (revokeKey j s) := by
  have sk := Only.refl [.aon, .fresh, .outbox, .hl, .tx, .dict, .ic, .pm] s
  unfold revokeKey
  repeat' first
    | with_reducible assumption
    | (extract_lets +onlyGivenNames b; first | (refine Only.cut (Only [.aon, .fresh, .outbox, .hl, .tx, .dict, .ic, .pm] s b) ?_ ?_ <;> first | (intro hb; clear_value b; refine Only.hold ?_) | intro hb | (unfold b; clear b)) | (((first | (have h0 : Nat := b; clear h0) | (have h0 : Bool := b; clear h0) | (have h0 : BitVec _ := b; clear h0) | (have h0 : List _ := b; clear h0)); clear_value b)) | (unfold b; clear b) | clear b)
    | ((with_reducible apply Only.after (loseHolder_only _ _)); · rfl)
    | ((with_reducible apply Only.after (endSession_only _)); · rfl)
    | split
    | (refine Only.update (by assumption) ?_; intro p; cases p <;> first | exact .inl rfl | exact .inr rfl)

theorem clearLedger_only (s : State) : Only [.start] s (clearLedger s) := by
  have sk := Only.refl [.start] s
  unfold clearLedger
  repeat' first
    | with_reducible assumption
    | (extract_lets +onlyGivenNames b; first | (unfold b; clear b) | clear b)
    | ((with_reducible apply Only.after (State.setLedger_only _ _)); · rfl)
    | ((with_reducible refine Only.fold _ ?_ ?_) <;> try intro x a hb)
    | (refine Only.update (by assumption) ?_; intro p; cases p <;> first | exact .inl rfl | exact .inr rfl)

theorem writeCv_only (src : Source) (u : Nat) (v : Word) (s : State) : Only [.fresh, .outbox, .regs, .err, .hl, .fabric, .ic, .cv, .pm] s (writeCv src u v s).1 := by
  have sk := Only.refl [.fresh, .outbox, .regs, .err, .hl, .fabric, .ic, .cv, .pm] s
  unfold writeCv
  repeat' first
    | with_reducible assumption
    | (extract_lets +onlyGivenNames b; first | (refine Only.cut (Only [.fresh, .outbox, .regs, .err, .hl, .fabric, .ic, .cv, .pm] s b) ?_ ?_ <;> first | (intro hb; clear_value b; refine Only.hold ?_) | intro hb | (unfold b; clear b)) | (((first | (have h0 : Nat := b; clear h0) | (have h0 : Bool := b; clear h0) | (have h0 : BitVec _ := b; clear h0) | (have h0 : List _ := b; clear h0)); clear_value b)) | (unfold b; clear b) | clear b)
    | ((with_reducible apply Only.after (cvCtrl_only _ _ _ _)); · rfl)
    | split

theorem clearFails_only (n : Nat) (v : Nat) (s : State) : Only [.outbox, .regs, .hl, .dict, .ic, .pm, .safety] s (clearFails n v s) := by
  have sk := Only.refl [.outbox, .regs, .hl, .dict, .ic, .pm, .safety] s
  unfold clearFails
  repeat' first
    | with_reducible assumption
    | ((with_reducible apply Only.after (clearBits_only _ _ _)); · rfl)
    | ((with_reducible refine Only.fold _ ?_ ?_) <;> try intro x a hb)

theorem writeUser_only (src : Source) (k : Nat) (v : Word) (s : State) : Only [.regs] s (writeUser src k v s) := by
  have sk := Only.refl [.regs] s
  unfold writeUser
  repeat' first
    | with_reducible assumption
    | (extract_lets +onlyGivenNames b; first | (unfold b; clear b) | clear b)
    | ((with_reducible apply Only.after (State.setReg_only _ _ _)); · rfl)
    | split
    | (refine Only.update (by assumption) ?_; intro p; cases p <;> first | exact .inl rfl | exact .inr rfl)

theorem writeSpire_only (on : Bool) (s : State) : Only [.fresh, .outbox, .regs, .hl, .heads, .groups, .sched, .fabric, .fa, .keep, .lanterns, .si, .oq, .dict, .ic, .pm, .therm] s (writeSpire on s).1 := by
  have sk := Only.refl [.fresh, .outbox, .regs, .hl, .heads, .groups, .sched, .fabric, .fa, .keep, .lanterns, .si, .oq, .dict, .ic, .pm, .therm] s
  unfold writeSpire
  repeat' first
    | with_reducible assumption
    | (extract_lets +onlyGivenNames b; first | (unfold b; clear b) | clear b)
    | ((with_reducible apply Only.after (spireEnter_only _)); · rfl)
    | ((with_reducible apply Only.after (spireExit_only _)); · rfl)
    | with_reducible refine Only.fst (by assumption) ?_
    | split
    | (refine Only.update (by assumption) ?_; intro p; cases p <;> first | exact .inl rfl | exact .inr rfl)
    | (refine Only.update ?_ ?_; (with_reducible refine Only.fst (by assumption) ?_); rotate_left; intro p; cases p <;> first | exact .inl rfl | exact .inr rfl)

theorem writeFaultMask_only (v : Nat) (s : State) : Only [.regs] s (writeFaultMask v s) := by
  have sk := Only.refl [.regs] s
  unfold writeFaultMask
  repeat' first
    | with_reducible assumption
    | ((with_reducible apply Only.after (State.setReg_only _ _ _)); · rfl)

theorem ownWrite_only (src : Source) (o : Own) (l : List Byte) (s : State) : Only [.aon, .fresh, .outbox, .regs, .err, .hl, .heads, .groups, .sched, .fabric, .fa, .keep, .lanterns, .si, .oq, .tx, .dict, .ic, .cv, .pm, .start, .therm, .safety] s (ownWrite src o l s).1 := by
  have sk := Only.refl [.aon, .fresh, .outbox, .regs, .err, .hl, .heads, .groups, .sched, .fabric, .fa, .keep, .lanterns, .si, .oq, .tx, .dict, .ic, .cv, .pm, .start, .therm, .safety] s
  unfold ownWrite
  repeat' first
    | with_reducible assumption
    | (extract_lets +onlyGivenNames b; first | (refine Only.cut (Only [.aon, .fresh, .outbox, .regs, .err, .hl, .heads, .groups, .sched, .fabric, .fa, .keep, .lanterns, .si, .oq, .tx, .dict, .ic, .cv, .pm, .start, .therm, .safety] s b) ?_ ?_ <;> first | (intro hb; clear_value b; refine Only.hold ?_) | intro hb | (unfold b; clear b)) | (refine Only.cut (Only [.aon, .fresh, .outbox, .regs, .err, .hl, .heads, .groups, .sched, .fabric, .fa, .keep, .lanterns, .si, .oq, .tx, .dict, .ic, .cv, .pm, .start, .therm, .safety] s b.1) ?_ ?_ <;> first | (intro hb; clear_value b; refine Only.hold ?_) | intro hb | (unfold b; clear b)) | (((first | (have h0 : Nat := b; clear h0) | (have h0 : Bool := b; clear h0) | (have h0 : BitVec _ := b; clear h0) | (have h0 : List _ := b; clear h0)); clear_value b)) | (unfold b; clear b) | clear b)
    | ((with_reducible apply Only.after (State.setKeepHead_only _ _ _)); · rfl)
    | ((with_reducible apply Only.after (startLoad_only _ _ _)); · rfl)
    | ((with_reducible apply Only.after (keepClear_only _ _ _ _)); · rfl)
    | ((with_reducible apply Only.after (cvCtrl_only _ _ _ _)); · rfl)
    | ((with_reducible apply Only.after (landCvStatus_only _ _ _)); · rfl)
    | ((with_reducible apply Only.after (writePm_only _ _ _)); · rfl)
    | ((with_reducible apply Only.after (freeze_only _ _ _)); · rfl)
    | ((with_reducible apply Only.after (clearOvf_only _ _ _)); · rfl)
    | ((with_reducible apply Only.after (clearFaults_only _ _)); · rfl)
    | ((with_reducible apply Only.after (faultClear_only _ _ _)); · rfl)
    | ((with_reducible apply Only.after (endSession_only _)); · rfl)
    | ((with_reducible apply Only.after (diagRespond_only _ _ _)); · rfl)
    | ((with_reducible apply Only.after (revokeKey_only _ _)); · rfl)
    | ((with_reducible apply Only.after (clearLedger_only _)); · rfl)
    | ((with_reducible apply Only.after (writeCv_only _ _ _ _)); · rfl)
    | ((with_reducible apply Only.after (clearFails_only _ _ _)); · rfl)
    | ((with_reducible apply Only.after (writeUser_only _ _ _ _)); · rfl)
    | ((with_reducible apply Only.after (writeSpire_only _ _)); · rfl)
    | ((with_reducible apply Only.after (writeFaultMask_only _ _)); · rfl)
    | with_reducible refine Only.fst (by assumption) ?_
    | split
    | (refine Only.update (by assumption) ?_; intro p; cases p <;> first | exact .inl rfl | exact .inr rfl)
    | (refine Only.update ?_ ?_; (with_reducible refine Only.fst (by assumption) ?_); rotate_left; intro p; cases p <;> first | exact .inl rfl | exact .inr rfl)

theorem draftWords_only (src : Source) (t : Nat) (ws : List (RegId × Word)) (s : State) : Only [.tx] s (draftWords src t ws s) := by
  have sk := Only.refl [.tx] s
  unfold draftWords
  repeat' first
    | with_reducible assumption
    | ((with_reducible apply Only.after (enterDraft_only _ _ _)); · rfl)
    | ((with_reducible refine Only.fold _ ?_ ?_) <;> try intro x a hb)

theorem draftSelect_only (src : Source) (t : Nat) (v : Nat) (s : State) : Only [.tx] s (draftSelect src t v s) := by
  have sk := Only.refl [.tx] s
  unfold draftSelect
  repeat' first
    | with_reducible assumption
    | ((with_reducible apply Only.after (enterDraft_only _ _ _)); · rfl)

end Sys2Proof.Machine
end

