-- ==== Sys2Proof/Laws/OnlyDictCmds.lean ====
section
/-! SUPPORT. The parts of the state that the operations of DictCmds may change. -/

set_option linter.all false

namespace Sys2Proof.Machine

theorem raiseFloor_only (j : Nat) (v : Nat) (s : State) : Only [.aon, .fresh, .outbox, .hl, .dict, .ic, .pm] s (raiseFloor j v s) := by
  have sk := Only.refl [.aon, .fresh, .outbox, .hl, .dict, .ic, .pm] s
  unfold raiseFloor
  repeat' first
    | with_reducible assumption
    | (extract_lets +onlyGivenNames b; first | (refine Only.cut (Only [.aon, .fresh, .outbox, .hl, .dict, .ic, .pm] s b) ?_ ?_ <;> first | (intro hb; clear_value b; refine Only.hold ?_) | intro hb | (unfold b; clear b)) | (((first | (have h0 : Nat := b; clear h0) | (have h0 : Bool := b; clear h0) | (have h0 : BitVec _ := b; clear h0) | (have h0 : List _ := b; clear h0)); clear_value b)) | (unfold b; clear b) | clear b)
    | ((with_reducible apply Only.after (writeStore_only _ _ _)); · rfl)
    | split
    | (refine Only.update (by assumption) ?_; intro p; cases p <;> first | exact .inl rfl | exact .inr rfl)

theorem nextCounter_only (j : Nat) (s : State) : Only [.aon, .fresh, .outbox, .hl, .dict, .ic, .pm] s (nextCounter j s).1 := by
  have sk := Only.refl [.aon, .fresh, .outbox, .hl, .dict, .ic, .pm] s
  unfold nextCounter
  repeat' first
    | with_reducible assumption
    | (extract_lets +onlyGivenNames b; first | (refine Only.cut (Only [.aon, .fresh, .outbox, .hl, .dict, .ic, .pm] s b) ?_ ?_ <;> first | (intro hb; clear_value b; refine Only.hold ?_) | intro hb | (unfold b; clear b)) | (((first | (have h0 : Nat := b; clear h0) | (have h0 : Bool := b; clear h0) | (have h0 : BitVec _ := b; clear h0) | (have h0 : List _ := b; clear h0)); clear_value b)) | (unfold b; clear b) | clear b)
    | ((with_reducible apply Only.after (writeStore_only _ _ _)); · rfl)
    | split
    | (refine Only.update (by assumption) ?_; intro p; cases p <;> first | exact .inl rfl | exact .inr rfl)

theorem sendResponse_only (v : Via) (key : Option Nat) (l : List Byte) (s : State) : Only [.outbox, .reply] s (sendResponse v key l s) := by
  have sk := Only.refl [.outbox, .reply] s
  unfold sendResponse
  repeat' first
    | with_reducible assumption
    | (extract_lets +onlyGivenNames b; first | (unfold b; clear b) | clear b)
    | ((with_reducible apply Only.after (State.send_only _ _)); · rfl)
    | ((with_reducible apply Only.after (State.answer_only _ _)); · rfl)
    | split
    | (refine Only.update (by assumption) ?_; intro p; cases p <;> first | exact .inl rfl | exact .inr rfl)

theorem respond_only (m : Msg) (slot : Option Nat) (a : Abort) (data : List Byte) (last : Bool) (s : State) : Only [.aon, .fresh, .outbox, .reply, .hl, .dict, .ic, .pm] s (respond m slot a data last s) := by
  have sk := Only.refl [.aon, .fresh, .outbox, .reply, .hl, .dict, .ic, .pm] s
  unfold respond
  repeat' first
    | with_reducible assumption
    | (extract_lets +onlyGivenNames b; first | (refine Only.cut (Only [.aon, .fresh, .outbox, .reply, .hl, .dict, .ic, .pm] s b) ?_ ?_ <;> first | (intro hb; clear_value b; refine Only.hold ?_) | intro hb | (unfold b; clear b)) | (refine Only.cut (Only [.aon, .fresh, .outbox, .reply, .hl, .dict, .ic, .pm] s b.1) ?_ ?_ <;> first | (intro hb; clear_value b; refine Only.hold ?_) | intro hb | (unfold b; clear b)) | (((first | (have h0 : Nat := b; clear h0) | (have h0 : Bool := b; clear h0) | (have h0 : BitVec _ := b; clear h0) | (have h0 : List _ := b; clear h0)); clear_value b)) | (unfold b; clear b) | clear b)
    | ((with_reducible apply Only.after (State.setWin_only _ _ _)); · rfl)
    | ((with_reducible apply Only.after (State.answer_only _ _)); · rfl)
    | ((with_reducible apply Only.after (perfEvent_only _ _ _ _ _)); · rfl)
    | ((with_reducible apply Only.after (nextCounter_only _ _)); · rfl)
    | ((with_reducible apply Only.after (sendResponse_only _ _ _ _)); · rfl)
    | with_reducible refine Only.fst (by assumption) ?_
    | split
    | (refine Only.update (by assumption) ?_; intro p; cases p <;> first | exact .inl rfl | exact .inr rfl)
    | (refine Only.update ?_ ?_; (with_reducible refine Only.fst (by assumption) ?_); rotate_left; intro p; cases p <;> first | exact .inl rfl | exact .inr rfl)

theorem serveRead_only (m : Msg) (s : State) : Only [.aon, .fresh, .dict, .start] s (serveRead m s).1 := by
  have sk := Only.refl [.aon, .fresh, .dict, .start] s
  unfold serveRead
  repeat' first
    | with_reducible assumption
    | (extract_lets +onlyGivenNames b; first | (unfold b; clear b) | clear b)
    | ((with_reducible apply Only.after (readObject_only _ _ _ _ _)); · rfl)
    | with_reducible refine Only.fst (by assumption) ?_
    | split
    | (refine Only.update (by assumption) ?_; intro p; cases p <;> first | exact .inl rfl | exact .inr rfl)
    | (refine Only.update ?_ ?_; (with_reducible refine Only.fst (by assumption) ?_); rotate_left; intro p; cases p <;> first | exact .inl rfl | exact .inr rfl)

theorem awaitStore_only (m : Msg) (s : State) : Only [.dict] s (awaitStore m s) := by
  have sk := Only.refl [.dict] s
  unfold awaitStore
  repeat' first
    | with_reducible assumption
    | (extract_lets +onlyGivenNames b; first | (unfold b; clear b) | clear b)
    | (refine Only.update (by assumption) ?_; intro p; cases p <;> first | exact .inl rfl | exact .inr rfl)

theorem awaitSpire_only (m : Msg) (s : State) : Only [.dict] s (awaitSpire m s) := by
  have sk := Only.refl [.dict] s
  unfold awaitSpire
  repeat' first
    | with_reducible assumption
    | (extract_lets +onlyGivenNames b; first | (unfold b; clear b) | clear b)
    | (refine Only.update (by assumption) ?_; intro p; cases p <;> first | exact .inl rfl | exact .inr rfl)

theorem awaitBlock_only (m : Msg) (s : State) : Only [.dict] s (awaitBlock m s) := by
  have sk := Only.refl [.dict] s
  unfold awaitBlock
  repeat' first
    | with_reducible assumption
    | (extract_lets +onlyGivenNames b; first | (unfold b; clear b) | clear b)
    | (refine Only.update (by assumption) ?_; intro p; cases p <;> first | exact .inl rfl | exact .inr rfl)

theorem serveReadSeg_only (m : Msg) (s : State) : Only [.aon, .fresh, .dict, .start] s (serveReadSeg m s).1 := by
  have sk := Only.refl [.aon, .fresh, .dict, .start] s
  unfold serveReadSeg
  repeat' first
    | with_reducible assumption
    | (extract_lets +onlyGivenNames b; first | (refine Only.cut (Only [.aon, .fresh, .dict, .start] s b) ?_ ?_ <;> first | (intro hb; clear_value b; refine Only.hold ?_) | intro hb | (unfold b; clear b)) | (refine Only.cut (Only [.aon, .fresh, .dict, .start] s b.1) ?_ ?_ <;> first | (intro hb; clear_value b; refine Only.hold ?_) | intro hb | (unfold b; clear b)) | (((first | (have h0 : Nat := b; clear h0) | (have h0 : Bool := b; clear h0) | (have h0 : BitVec _ := b; clear h0) | (have h0 : List _ := b; clear h0)); clear_value b)) | (unfold b; clear b) | clear b)
    | ((with_reducible apply Only.after (readObject_only _ _ _ _ _)); · rfl)
    | with_reducible refine Only.fst (by assumption) ?_
    | split
    | (refine Only.update (by assumption) ?_; intro p; cases p <;> first | exact .inl rfl | exact .inr rfl)
    | (refine Only.update ?_ ?_; (with_reducible refine Only.fst (by assumption) ?_); rotate_left; intro p; cases p <;> first | exact .inl rfl | exact .inr rfl)

theorem serveBegin_only (m : Msg) (s : State) : Only [.tx] s (serveBegin m s).1 := by
  have sk := Only.refl [.tx] s
  unfold serveBegin
  repeat' first
    | with_reducible assumption
    | (extract_lets +onlyGivenNames b; first | (unfold b; clear b) | clear b)
    | ((with_reducible apply Only.after (openTicket_only _ _ _)); · rfl)
    | split
    | (refine Only.update (by assumption) ?_; intro p; cases p <;> first | exact .inl rfl | exact .inr rfl)

theorem serveCommit_only (m : Msg) (s : State) : Only [.tx] s (serveCommit m s).1 := by
  have sk := Only.refl [.tx] s
  unfold serveCommit
  repeat' first
    | with_reducible assumption
    | (extract_lets +onlyGivenNames b; first | (refine Only.cut (Only [.tx] s b) ?_ ?_ <;> first | (intro hb; clear_value b; refine Only.hold ?_) | intro hb | (unfold b; clear b)) | (((first | (have h0 : Nat := b; clear h0) | (have h0 : Bool := b; clear h0) | (have h0 : BitVec _ := b; clear h0) | (have h0 : List _ := b; clear h0)); clear_value b)) | (unfold b; clear b) | clear b)
    | ((with_reducible apply Only.after (takeCommit_only _ _ _ _ _)); · rfl)
    | split
    | (refine Only.update (by assumption) ?_; intro p; cases p <;> first | exact .inl rfl | exact .inr rfl)

theorem serveRollback_only (m : Msg) (s : State) : Only [.tx] s (serveRollback m s).1 := by
  have sk := Only.refl [.tx] s
  unfold serveRollback
  repeat' first
    | with_reducible assumption
    | (extract_lets +onlyGivenNames b; first | (refine Only.cut (Only [.tx] s b) ?_ ?_ <;> first | (intro hb; clear_value b; refine Only.hold ?_) | intro hb | (unfold b; clear b)) | (((first | (have h0 : Nat := b; clear h0) | (have h0 : Bool := b; clear h0) | (have h0 : BitVec _ := b; clear h0) | (have h0 : List _ := b; clear h0)); clear_value b)) | (unfold b; clear b) | clear b)
    | ((with_reducible apply Only.after (freeTicket_only _ _)); · rfl)
    | split
    | (refine Only.update (by assumption) ?_; intro p; cases p <;> first | exact .inl rfl | exact .inr rfl)

theorem touchSession_only (src : Source) (s : State) : Only [.dict] s (touchSession src s) := by
  have sk := Only.refl [.dict] s
  unfold touchSession
  repeat' first
    | with_reducible assumption
    | (extract_lets +onlyGivenNames b; first | (unfold b; clear b) | clear b)
    | split
    | (refine Only.update (by assumption) ?_; intro p; cases p <;> first | exact .inl rfl | exact .inr rfl)

theorem turnDown_only (m : Msg) (a : Auth) (s : State) : Only [.aon, .fresh, .outbox, .reply, .hl, .dict, .ic, .pm] s (turnDown m a s) := by
  have sk := Only.refl [.aon, .fresh, .outbox, .reply, .hl, .dict, .ic, .pm] s
  unfold turnDown
  repeat' first
    | with_reducible assumption
    | (extract_lets +onlyGivenNames b; first | (refine Only.cut (Only [.aon, .fresh, .outbox, .reply, .hl, .dict, .ic, .pm] s b) ?_ ?_ <;> first | (intro hb; clear_value b; refine Only.hold ?_) | intro hb | (unfold b; clear b)) | (((first | (have h0 : Nat := b; clear h0) | (have h0 : Bool := b; clear h0) | (have h0 : BitVec _ := b; clear h0) | (have h0 : List _ := b; clear h0)); clear_value b)) | (unfold b; clear b) | clear b)
    | ((with_reducible apply Only.after (perfEvent_only _ _ _ _ _)); · rfl)
    | ((with_reducible apply Only.after (raise_only _ _)); · rfl)
    | ((with_reducible apply Only.after (respond_only _ _ _ _ _ _)); · rfl)
    | split
    | (refine Only.update (by assumption) ?_; intro p; cases p <;> first | exact .inl rfl | exact .inr rfl)

theorem countRxErr_only (i : Nat) (s : State) : Only [.dict] s (countRxErr i s) := by
  have sk := Only.refl [.dict] s
  unfold countRxErr
  repeat' first
    | with_reducible assumption
    | (extract_lets +onlyGivenNames b; first | (unfold b; clear b) | clear b)
    | (refine Only.update (by assumption) ?_; intro p; cases p <;> first | exact .inl rfl | exact .inr rfl)

theorem sendLen_only (f : Fin 32) (len : Nat) (s : State) : Only [.outbox, .err, .hl, .dict, .ic, .pm] s (sendLen f len s) := by
  have sk := Only.refl [.outbox, .err, .hl, .dict, .ic, .pm] s
  unfold sendLen
  repeat' first
    | with_reducible assumption
    | (extract_lets +onlyGivenNames b; first | (refine Only.cut (Only [.outbox, .err, .hl, .dict, .ic, .pm] s b) ?_ ?_ <;> first | (intro hb; clear_value b; refine Only.hold ?_) | intro hb | (unfold b; clear b)) | (((first | (have h0 : Nat := b; clear h0) | (have h0 : Bool := b; clear h0) | (have h0 : BitVec _ := b; clear h0) | (have h0 : List _ := b; clear h0)); clear_value b)) | (unfold b; clear b) | clear b)
    | ((with_reducible apply Only.after (report_only _ _ _ _)); · rfl)
    | ((with_reducible apply Only.after (sendWindow_only _ _ _)); · rfl)
    | split
    | (refine Only.update (by assumption) ?_; intro p; cases p <;> first | exact .inl rfl | exact .inr rfl)

theorem postWindow_only (f : Nat) (l : List Byte) (s : State) : Only [.outbox, .hl, .dict, .ic, .pm] s (postWindow f l s) := by
  have sk := Only.refl [.outbox, .hl, .dict, .ic, .pm] s
  unfold postWindow
  repeat' first
    | with_reducible assumption
    | (extract_lets +onlyGivenNames b; first | (unfold b; clear b) | clear b)
    | ((with_reducible apply Only.after (State.setWin_only _ _ _)); · rfl)
    | ((with_reducible apply Only.after (raiseAt_only _ _ _)); · rfl)
    | (refine Only.update (by assumption) ?_; intro p; cases p <;> first | exact .inl rfl | exact .inr rfl)

theorem answerHeld_only (a : Abort) (s : State) (m : Msg) : Only [.aon, .fresh, .outbox, .reply, .hl, .dict, .ic, .pm] s (answerHeld a s m) := by
  have sk := Only.refl [.aon, .fresh, .outbox, .reply, .hl, .dict, .ic, .pm] s
  unfold answerHeld
  repeat' first
    | with_reducible assumption
    | ((with_reducible apply Only.after (respond_only _ _ _ _ _ _)); · rfl)
    | split

theorem answerStored_only (ok : Bool) (s : State) (m : Msg) : Only [.aon, .fresh, .outbox, .reply, .hl, .dict, .ic, .pm] s (answerStored ok s m) := by
  have sk := Only.refl [.aon, .fresh, .outbox, .reply, .hl, .dict, .ic, .pm] s
  unfold answerStored
  repeat' first
    | with_reducible assumption
    | ((with_reducible apply Only.after (answerHeld_only _ _ _)); · rfl)
    | split

theorem answerCommit_only (t : Nat) (m : Msg) (empty : Bool) (s : State) : Only [.aon, .fresh, .outbox, .reply, .hl, .dict, .ic, .pm] s (answerCommit t m empty s) := by
  have sk := Only.refl [.aon, .fresh, .outbox, .reply, .hl, .dict, .ic, .pm] s
  unfold answerCommit
  repeat' first
    | with_reducible assumption
    | (extract_lets +onlyGivenNames b; first | (refine Only.cut (Only [.aon, .fresh, .outbox, .reply, .hl, .dict, .ic, .pm] s b) ?_ ?_ <;> first | (intro hb; clear_value b; refine Only.hold ?_) | intro hb | (unfold b; clear b)) | (((first | (have h0 : Nat := b; clear h0) | (have h0 : Bool := b; clear h0) | (have h0 : BitVec _ := b; clear h0) | (have h0 : List _ := b; clear h0)); clear_value b)) | (unfold b; clear b) | clear b)
    | ((with_reducible apply Only.after (respond_only _ _ _ _ _ _)); · rfl)
    | split

theorem segmentTimeout_only (src : Source) (udp : Bool) (s : State) : Only [.tick, .corePhase, .outbox, .hl, .dict, .ic, .pm] s (segmentTimeout src udp s) := by
  unfold segmentTimeout
  extract_lets +onlyGivenNames l
  clear_value l
  cases l
  · exact Only.refl _ s
  · exact Only.dict ((toTick_only _ _).mono rfl) rfl

theorem takeDirect_only (src : Source) (s : State) : Only [.aon, .fresh, .outbox, .hl, .dict, .ic, .pm] s (takeDirect src s).1 := by
  have sk := Only.refl [.aon, .fresh, .outbox, .hl, .dict, .ic, .pm] s
  unfold takeDirect
  repeat' first
    | with_reducible assumption
    | (extract_lets +onlyGivenNames b; first | (refine Only.cut (Only [.aon, .fresh, .outbox, .hl, .dict, .ic, .pm] s b) ?_ ?_ <;> first | (intro hb; clear_value b; refine Only.hold ?_) | intro hb | (unfold b; clear b)) | (((first | (have h0 : Nat := b; clear h0) | (have h0 : Bool := b; clear h0) | (have h0 : BitVec _ := b; clear h0) | (have h0 : List _ := b; clear h0)); clear_value b)) | (unfold b; clear b) | clear b)
    | ((with_reducible apply Only.after (raise_only _ _)); · rfl)
    | ((with_reducible apply Only.after (raiseFloor_only _ _ _)); · rfl)
    | split
    | (refine Only.update (by assumption) ?_; intro p; cases p <;> first | exact .inl rfl | exact .inr rfl)

theorem direct_only {l : List Part} {o s : State} {src : Source} {f : State → State × Abort × List Byte}
    (hl : Part.within [.aon, .fresh, .outbox, .reply, .hl, .dict, .ic, .pm] l = true) (hf : ∀ x, Only l o x → Only l o (f x).1) (h : Only l o s) : Only l o (direct src f s) := by
  unfold direct
  extract_lets p
  have hp : Only l o p.1 := by
    unfold p
    have k : Only l o (takeDirect src (perfEvent 15 anyInst 1 1 s)).1 :=
      Only.after (takeDirect_only _ _) (Part.within_trans rfl hl) (Only.after (perfEvent_only _ _ _ _ _) (Part.within_trans rfl hl) h)
    split
    · rename_i t e
      rw [e] at k
      exact hf _ (Only.after (touchSession_only _ _) (Part.within_trans rfl hl) k)
    · rename_i t a _ e
      rw [e] at k
      exact k
  refine Only.after (State.answer_only _ _) (Part.within_trans rfl hl) ?_
  split
  · exact hp
  · exact Only.after (perfEvent_only _ _ _ _ _) (Part.within_trans rfl hl) hp

theorem diagChallenge_only (src : Source) (s : State) : Only [.aon, .fresh, .outbox, .reply, .hl, .dict, .ic, .pm, .start] s (diagChallenge src s) := by
  have sk := Only.refl [.aon, .fresh, .outbox, .reply, .hl, .dict, .ic, .pm, .start] s
  unfold diagChallenge
  repeat' first
    | with_reducible assumption
    | ((with_reducible apply Only.after (readObject_only _ _ _ _ _)); · rfl)
    | ((with_reducible refine direct_only (l := [.aon, .fresh, .outbox, .reply, .hl, .dict, .ic, .pm, .start]) rfl ?_ ?_) <;> try intro x hb)
    | with_reducible refine Only.fst (by assumption) ?_

theorem diagSessionTimeout_only (s : State) : Only [.tick, .corePhase, .fresh, .outbox, .hl, .tx, .dict, .ic, .pm] s (diagSessionTimeout s) := by
  have sk := Only.refl [.tick, .corePhase, .fresh, .outbox, .hl, .tx, .dict, .ic, .pm] s
  unfold diagSessionTimeout
  repeat' first
    | with_reducible assumption
    | ((with_reducible apply Only.after (toTick_only _ _)); · rfl)
    | ((with_reducible apply Only.after (endSession_only _)); · rfl)
    | split

theorem diagLockoutEnd_only (s : State) : Only [.tick, .corePhase, .outbox, .hl, .dict, .ic, .pm] s (diagLockoutEnd s) := by
  unfold diagLockoutEnd
  split
  · exact Only.refl _ s
  · exact Only.dict ((toTick_only _ _).mono rfl) rfl

theorem sendCopy_only (cls : Nat) (number : Nat) (lost : Nat) (x : Note) (s : State) (d : Dest × Nat) : Only [.aon, .fresh, .outbox, .hl, .dict, .ic, .pm] s (sendCopy cls number lost x s d) := by
  have sk := Only.refl [.aon, .fresh, .outbox, .hl, .dict, .ic, .pm] s
  unfold sendCopy
  repeat' first
    | with_reducible assumption
    | (extract_lets +onlyGivenNames b; first | (refine Only.cut (Only [.aon, .fresh, .outbox, .hl, .dict, .ic, .pm] s b) ?_ ?_ <;> first | (intro hb; clear_value b; refine Only.hold ?_) | intro hb | (unfold b; clear b)) | (refine Only.cut (Only [.aon, .fresh, .outbox, .hl, .dict, .ic, .pm] s b.1) ?_ ?_ <;> first | (intro hb; clear_value b; refine Only.hold ?_) | intro hb | (unfold b; clear b)) | (((first | (have h0 : Nat := b; clear h0) | (have h0 : Bool := b; clear h0) | (have h0 : BitVec _ := b; clear h0) | (have h0 : List _ := b; clear h0)); clear_value b)) | (unfold b; clear b) | clear b)
    | ((with_reducible apply Only.after (State.send_only _ _)); · rfl)
    | ((with_reducible apply Only.after (nextCounter_only _ _)); · rfl)
    | with_reducible refine Only.fst (by assumption) ?_
    | split
    | (refine Only.update (by assumption) ?_; intro p; cases p <;> first | exact .inl rfl | exact .inr rfl)
    | (refine Only.update ?_ ?_; (with_reducible refine Only.fst (by assumption) ?_); rotate_left; intro p; cases p <;> first | exact .inl rfl | exact .inr rfl)

theorem sendNote_only (cls : Nat) (s : State) : Only [.aon, .fresh, .outbox, .hl, .dict, .ic, .pm] s (sendNote cls s) := by
  have sk := Only.refl [.aon, .fresh, .outbox, .hl, .dict, .ic, .pm] s
  unfold sendNote
  repeat' first
    | with_reducible assumption
    | (extract_lets +onlyGivenNames b; first | (refine Only.cut (Only [.aon, .fresh, .outbox, .hl, .dict, .ic, .pm] s b) ?_ ?_ <;> first | (intro hb; clear_value b; refine Only.hold ?_) | intro hb | (unfold b; clear b)) | (((first | (have h0 : Nat := b; clear h0) | (have h0 : Bool := b; clear h0) | (have h0 : BitVec _ := b; clear h0) | (have h0 : List _ := b; clear h0)); clear_value b)) | (unfold b; clear b) | clear b)
    | ((with_reducible apply Only.after (sendCopy_only _ _ _ _ _ _)); · rfl)
    | ((with_reducible refine Only.fold _ ?_ ?_) <;> try intro x a hb)
    | split
    | (refine Only.update (by assumption) ?_; intro p; cases p <;> first | exact .inl rfl | exact .inr rfl)

theorem notifyClass_only (cls : Nat) (s : State) : Only [.aon, .fresh, .outbox, .hl, .dict, .ic, .pm] s (notifyClass cls s) := by
  have sk := Only.refl [.aon, .fresh, .outbox, .hl, .dict, .ic, .pm] s
  unfold notifyClass
  repeat' first
    | with_reducible assumption
    | ((with_reducible apply Only.after (sendNote_only _ _)); · rfl)
    | split

end Sys2Proof.Machine
end

