-- ==== Sys2Proof/Laws/OnlyHostCmds.lean ====
section
/-! SUPPORT. The parts of the state that the operations of HostCmds may change. -/

set_option linter.all false

namespace Sys2Proof.Machine

theorem beyondBar_only (f : Nat) (bar : Nat) (off : Nat) (write : Bool) (s : State) : Only [.outbox, .reply, .hl, .ic, .pm] s (beyondBar f bar off write s) := by
  have sk := Only.refl [.outbox, .reply, .hl, .ic, .pm] s
  unfold beyondBar
  repeat' first
    | with_reducible assumption
    | (extract_lets +onlyGivenNames b; first | (refine Only.cut (Only [.outbox, .reply, .hl, .ic, .pm] s b) ?_ ?_ <;> first | (intro hb; clear_value b; refine Only.hold ?_) | intro hb | (unfold b; clear b)) | (((first | (have h0 : Nat := b; clear h0) | (have h0 : Bool := b; clear h0) | (have h0 : BitVec _ := b; clear h0) | (have h0 : List _ := b; clear h0)); clear_value b)) | (unfold b; clear b) | clear b)
    | ((with_reducible apply Only.after (State.answer_only _ _)); · rfl)
    | ((with_reducible apply Only.after (aerLog_only _ _ _)); · rfl)
    | split

theorem removeEntries_only (f : Nat) (slot : Nat) (s : State) : Only [.fabric, .fa] s (removeEntries f slot s) := by
  have sk := Only.refl [.fabric, .fa] s
  unfold removeEntries
  repeat' first
    | with_reducible assumption
    | (extract_lets +onlyGivenNames b; first | (refine Only.cut (Only [.fabric, .fa] s b) ?_ ?_ <;> first | (intro hb; clear_value b; refine Only.hold ?_) | intro hb | (unfold b; clear b)) | (((first | (have h0 : Nat := b; clear h0) | (have h0 : Bool := b; clear h0) | (have h0 : BitVec _ := b; clear h0) | (have h0 : List _ := b; clear h0)); clear_value b)) | (unfold b; clear b) | clear b)
    | ((with_reducible apply Only.after (State.setLayer_only _ _ _)); · rfl)
    | ((with_reducible apply Only.after (dropPin_only _ _)); · rfl)
    | ((with_reducible refine Only.fold _ ?_ ?_) <;> try intro x a hb)
    | (refine Only.update (by assumption) ?_; intro p; cases p <;> first | exact .inl rfl | exact .inr rfl)

theorem clearRecs_only (f : Nat) (s : State) : Only [.regs, .fa] s (clearRecs f s) := by
  have sk := Only.refl [.regs, .fa] s
  unfold clearRecs
  repeat' first
    | with_reducible assumption
    | (extract_lets +onlyGivenNames b; first | (refine Only.cut (Only [.regs, .fa] s b) ?_ ?_ <;> first | (intro hb; clear_value b; refine Only.hold ?_) | intro hb | (unfold b; clear b)) | (((first | (have h0 : Nat := b; clear h0) | (have h0 : Bool := b; clear h0) | (have h0 : BitVec _ := b; clear h0) | (have h0 : List _ := b; clear h0)); clear_value b)) | (unfold b; clear b) | clear b)
    | ((with_reducible apply Only.after (State.setReg_only _ _ _)); · rfl)
    | (refine Only.update (by assumption) ?_; intro p; cases p <;> first | exact .inl rfl | exact .inr rfl)

theorem resetWindow_only (f : Nat) (s : State) : Only [.tx, .dict] s (resetWindow f s) := by
  have sk := Only.refl [.tx, .dict] s
  unfold resetWindow
  repeat' first
    | with_reducible assumption
    | (extract_lets +onlyGivenNames b; first | (refine Only.cut (Only [.tx, .dict] s b) ?_ ?_ <;> first | (intro hb; clear_value b; refine Only.hold ?_) | intro hb | (unfold b; clear b)) | (((first | (have h0 : Nat := b; clear h0) | (have h0 : Bool := b; clear h0) | (have h0 : BitVec _ := b; clear h0) | (have h0 : List _ := b; clear h0)); clear_value b)) | (unfold b; clear b) | clear b)
    | ((with_reducible apply Only.after (State.setTicket_only _ _ _)); · rfl)
    | ((with_reducible apply Only.after (State.setWin_only _ _ _)); · rfl)
    | ((with_reducible apply Only.after (State.answer_only _ _)); · rfl)
    | ((with_reducible refine Only.fold _ ?_ ?_) <;> try intro x a hb)
    | split
    | (refine Only.update (by assumption) ?_; intro p; cases p <;> first | exact .inl rfl | exact .inr rfl)

theorem endSessionOf_only (f : Nat) (s : State) : Only [.fresh, .outbox, .hl, .tx, .dict, .ic, .pm] s (endSessionOf f s) := by
  have sk := Only.refl [.fresh, .outbox, .hl, .tx, .dict, .ic, .pm] s
  unfold endSessionOf
  repeat' first
    | with_reducible assumption
    | (extract_lets +onlyGivenNames b; first | (unfold b; clear b) | clear b)
    | ((with_reducible apply Only.after (endSession_only _)); · rfl)
    | split
    | (refine Only.update (by assumption) ?_; intro p; cases p <;> first | exact .inl rfl | exact .inr rfl)

theorem resetOne_only (f : Nat) (s : State) : Only [.fresh, .outbox, .regs, .held, .err, .hl, .fabric, .fa, .tx, .dict, .ic, .bl, .pm] s (resetOne f s) := by
  have sk := Only.refl [.fresh, .outbox, .regs, .held, .err, .hl, .fabric, .fa, .tx, .dict, .ic, .bl, .pm] s
  unfold resetOne
  repeat' first
    | with_reducible assumption
    | (extract_lets +onlyGivenNames b; first | (refine Only.cut (Only [.fresh, .outbox, .regs, .held, .err, .hl, .fabric, .fa, .tx, .dict, .ic, .bl, .pm] s b) ?_ ?_ <;> first | (intro hb; clear_value b; refine Only.hold ?_) | intro hb | (unfold b; clear b)) | (((first | (have h0 : Nat := b; clear h0) | (have h0 : Bool := b; clear h0) | (have h0 : BitVec _ := b; clear h0) | (have h0 : List _ := b; clear h0)); clear_value b)) | (unfold b; clear b) | clear b)
    | ((with_reducible apply Only.after (State.setErrRec_only _ _ _)); · rfl)
    | ((with_reducible apply Only.after (resetTarget_only _ _)); · rfl)
    | ((with_reducible apply Only.after (keepSources_only _ _)); · rfl)
    | ((with_reducible apply Only.after (loseHolder_only _ _)); · rfl)
    | ((with_reducible apply Only.after (resetShares_only _ _)); · rfl)
    | ((with_reducible apply Only.after (removeEntries_only _ _ _)); · rfl)
    | ((with_reducible apply Only.after (clearRecs_only _ _)); · rfl)
    | ((with_reducible apply Only.after (resetWindow_only _ _)); · rfl)
    | ((with_reducible apply Only.after (endSessionOf_only _ _)); · rfl)
    | ((with_reducible refine Only.fold _ ?_ ?_) <;> try intro x a hb)
    | split

theorem resetFunction_only (f : Nat) (s : State) : Only [.fresh, .outbox, .regs, .held, .err, .hl, .fabric, .fa, .tx, .dict, .ic, .bl, .pm] s (resetFunction f s) := by
  unfold resetFunction
  extract_lets a
  have ha : Only [.fresh, .outbox, .regs, .held, .err, .hl, .fabric, .fa, .tx, .dict, .ic, .bl, .pm] s a := (resetOne_only _ _).mono rfl
  clear_value a
  split
  · exact Only.hl (Only.fold _ ha (fun x i hx => hx.trans ((resetOne_only _ _).mono rfl))) rfl rfl
  · exact ha

theorem pcieLinkDown_only (k : Nat) (s : State) : Only [.fresh, .outbox, .regs, .held, .err, .hl, .fabric, .fa, .tx, .dict, .ic, .bl, .pm] s (pcieLinkDown k s) := by
  have sk := Only.refl [.fresh, .outbox, .regs, .held, .err, .hl, .fabric, .fa, .tx, .dict, .ic, .bl, .pm] s
  unfold pcieLinkDown
  repeat' first
    | with_reducible assumption
    | (extract_lets +onlyGivenNames b; first | (refine Only.cut (Only [.fresh, .outbox, .regs, .held, .err, .hl, .fabric, .fa, .tx, .dict, .ic, .bl, .pm] s b) ?_ ?_ <;> first | (intro hb; clear_value b; refine Only.hold ?_) | intro hb | (unfold b; clear b)) | (((first | (have h0 : Nat := b; clear h0) | (have h0 : Bool := b; clear h0) | (have h0 : BitVec _ := b; clear h0) | (have h0 : List _ := b; clear h0)); clear_value b)) | (unfold b; clear b) | clear b)
    | ((with_reducible apply Only.after (State.setLink_only _ _ _)); · rfl)
    | ((with_reducible apply Only.after (raise_only _ _)); · rfl)
    | ((with_reducible apply Only.after (resetFunction_only _ _)); · rfl)
    | split

theorem d3hotEntry_only (f : Nat) (l12 : Bool) (s : State) : Only [.hl] s (d3hotEntry f l12 s) := by
  have sk := Only.refl [.hl] s
  unfold d3hotEntry
  repeat' first
    | with_reducible assumption
    | (extract_lets +onlyGivenNames b; first | (refine Only.cut (Only [.hl] s b) ?_ ?_ <;> first | (intro hb; clear_value b; refine Only.hold ?_) | intro hb | (unfold b; clear b)) | (((first | (have h0 : Nat := b; clear h0) | (have h0 : Bool := b; clear h0) | (have h0 : BitVec _ := b; clear h0) | (have h0 : List _ := b; clear h0)); clear_value b)) | (unfold b; clear b) | clear b)
    | ((with_reducible apply Only.after (State.setLink_only _ _ _)); · rfl)
    | split
    | (refine Only.update (by assumption) ?_; intro p; cases p <;> first | exact .inl rfl | exact .inr rfl)

theorem d0Return_only (f : Nat) (s : State) : Only [.outbox, .hl, .ic, .pm] s (d0Return f s) := by
  have sk := Only.refl [.outbox, .hl, .ic, .pm] s
  unfold d0Return
  repeat' first
    | with_reducible assumption
    | (extract_lets +onlyGivenNames b; first | (refine Only.cut (Only [.outbox, .hl, .ic, .pm] s b) ?_ ?_ <;> first | (intro hb; clear_value b; refine Only.hold ?_) | intro hb | (unfold b; clear b)) | (((first | (have h0 : Nat := b; clear h0) | (have h0 : Bool := b; clear h0) | (have h0 : BitVec _ := b; clear h0) | (have h0 : List _ := b; clear h0)); clear_value b)) | (unfold b; clear b) | clear b)
    | ((with_reducible apply Only.after (State.wakeLink_only _ _)); · rfl)
    | ((with_reducible apply Only.after (stopSleeping_only _ _)); · rfl)
    | ((with_reducible apply Only.after (settle_only _ _ _)); · rfl)
    | split
    | (refine Only.update (by assumption) ?_; intro p; cases p <;> first | exact .inl rfl | exact .inr rfl)

theorem touchJtag_only (s : State) : Only [.dict] s (touchJtag s) := by
  have sk := Only.refl [.dict] s
  unfold touchJtag
  repeat' first
    | with_reducible assumption
    | (extract_lets +onlyGivenNames b; first | (unfold b; clear b) | clear b)
    | split
    | (refine Only.update (by assumption) ?_; intro p; cases p <;> first | exact .inl rfl | exact .inr rfl)

theorem jtagIdle_only (op : JtagOp) (s : State) : Only [.outbox] s (jtagIdle op s) := by
  have sk := Only.refl [.outbox] s
  unfold jtagIdle
  repeat' first
    | with_reducible assumption
    | (extract_lets +onlyGivenNames b; first | (unfold b; clear b) | clear b)
    | ((with_reducible apply Only.after (State.send_only _ _)); · rfl)
    | split
    | (refine Only.update (by assumption) ?_; intro p; cases p <;> first | exact .inl rfl | exact .inr rfl)

end Sys2Proof.Machine
end

