-- ==== Sys2Proof/Laws/OnlyBootScene.lean ====
section
/-! SUPPORT. The parts of the state that the operations of BootScene may change. -/

set_option linter.all false

namespace Sys2Proof.Machine

theorem noteBootCopies_only (k : Nat) (s : State) : Only [.start] s (noteBootCopies k s) := by
  have sk := Only.refl [.start] s
  unfold noteBootCopies
  repeat' first
    | with_reducible assumption
    | ((with_reducible apply Only.after (noteCopy_only _ _ _)); · rfl)

theorem mapMc_only (s : State) : Only [.regs, .mem, .fabric] s (mapMc s) := by
  have sk := Only.refl [.regs, .mem, .fabric] s
  unfold mapMc
  repeat' first
    | with_reducible assumption
    | (extract_lets +onlyGivenNames b; first | (refine Only.cut (Only [.regs, .mem, .fabric] s b) ?_ ?_ <;> first | (intro hb; clear_value b; refine Only.hold ?_) | intro hb | (unfold b; clear b)) | (((first | (have h0 : Nat := b; clear h0) | (have h0 : Bool := b; clear h0) | (have h0 : BitVec _ := b; clear h0) | (have h0 : List _ := b; clear h0)); clear_value b)) | (unfold b; clear b) | clear b)
    | ((with_reducible apply Only.after (State.setReg_only _ _ _)); · rfl)
    | ((with_reducible apply Only.after (State.writeMem_only _ _ _)); · rfl)

theorem tryItems_only {t : State} {n : Nat} {l : List (List Wr)} {s : State} (e : tryItems n l s = some t) : Only [.fresh, .outbox, .regs, .hl, .heads, .groups, .fabric, .fa, .keep, .si, .oq, .dict, .ic, .pm] s t := by
  induction l generalizing s with
  | nil => cases e; exact Only.refl _ _
  | cons a l ih =>
    unfold tryItems at e
    split at e
    · rename_i h
      exact (((pinSurfaces_only _ _).mono rfl).trans ((tryItem_only h).mono rfl)).trans (ih e)
    · cases e

theorem completePins_only (s : State) : Only [.outbox, .regs, .hl, .fabric, .ic, .pm] s (completePins s) := by
  have sk := Only.refl [.outbox, .regs, .hl, .fabric, .ic, .pm] s
  unfold completePins
  repeat' first
    | with_reducible assumption
    | ((with_reducible apply Only.after (completePin_only _ _)); · rfl)
    | ((with_reducible refine Only.fold _ ?_ ?_) <;> try intro x a hb)
    | split

theorem loadBoot_only (r : List Byte) (s : State) : Only [.outbox, .hl, .sched, .ic, .pm] s (loadBoot r s).1 := by
  have sk := Only.refl [.outbox, .hl, .sched, .ic, .pm] s
  unfold loadBoot
  repeat' first
    | with_reducible assumption
    | (extract_lets +onlyGivenNames b; first | (refine Only.cut (Only [.outbox, .hl, .sched, .ic, .pm] s b) ?_ ?_ <;> first | (intro hb; clear_value b; refine Only.hold ?_) | intro hb | (unfold b; clear b)) | (((first | (have h0 : Nat := b; clear h0) | (have h0 : Bool := b; clear h0) | (have h0 : BitVec _ := b; clear h0) | (have h0 : List _ := b; clear h0)); clear_value b)) | (unfold b; clear b) | clear b)
    | ((with_reducible apply Only.after (State.setBank_only _ _ _)); · rfl)
    | ((with_reducible apply Only.after (raise_only _ _)); · rfl)
    | ((with_reducible apply Only.after (sbResult_only _ _ _)); · rfl)
    | split
    | (refine Only.update (by assumption) ?_; intro p; cases p <;> first | exact .inl rfl | exact .inr rfl)

end Sys2Proof.Machine
end

