-- ==== Sys2Proof/Laws/OnlyStartCmds.lean ====
section
/-! SUPPORT. The parts of the state that the operations of StartCmds may change. -/

set_option linter.all false

namespace Sys2Proof.Machine

theorem setStep_only (k : Nat) (w : Word) (s : State) : Only [.start] s (setStep k w s) := by
  have sk := Only.refl [.start] s
  unfold setStep
  repeat' first
    | with_reducible assumption
    | (extract_lets +onlyGivenNames b; first | (unfold b; clear b) | clear b)
    | ((with_reducible apply Only.after (noteEntry_only _ _)); · rfl)
    | (refine Only.update (by assumption) ?_; intro p; cases p <;> first | exact .inl rfl | exact .inr rfl)

theorem endStep_only (env : StartEnv) (k outcome attempts code : Nat) (s : State) : Only [.tick, .corePhase, .outbox, .hl, .ic, .pm, .start] s (endStep env k outcome attempts code s) :=
  Only.after (setStep_only _ _ _) rfl (Only.start ((toTick_only _ _).mono rfl) rfl)

theorem skipStep_only (env : StartEnv) (k : Nat) (code : Nat) (s : State) : Only [.start] s (skipStep env k code s) := by
  have sk := Only.refl [.start] s
  unfold skipStep
  repeat' first
    | with_reducible assumption
    | ((with_reducible apply Only.after (setStep_only _ _ _)); · rfl)

theorem loadMirror_only (m : SMap (List Byte)) (s : State) (r : RegId) : Only [.regs] s (loadMirror m s r) := by
  have sk := Only.refl [.regs] s
  unfold loadMirror
  repeat' first
    | with_reducible assumption
    | (extract_lets +onlyGivenNames b; first | (refine Only.cut (Only [.regs] s b) ?_ ?_ <;> first | (intro hb; clear_value b; refine Only.hold ?_) | intro hb | (unfold b; clear b)) | (((first | (have h0 : Nat := b; clear h0) | (have h0 : Bool := b; clear h0) | (have h0 : BitVec _ := b; clear h0) | (have h0 : List _ := b; clear h0)); clear_value b)) | (unfold b; clear b) | clear b)
    | ((with_reducible apply Only.after (State.setReg_only _ _ _)); · rfl)
    | split
    | (refine Only.update (by assumption) ?_; intro p; cases p <;> first | exact .inl rfl | exact .inr rfl)

theorem loadStore_only (s : State) : Only [.regs, .dict, .therm] s (loadStore s) := by
  have sk := Only.refl [.regs, .dict, .therm] s
  unfold loadStore
  repeat' first
    | with_reducible assumption
    | (extract_lets +onlyGivenNames b; first | (refine Only.cut (Only [.regs, .dict, .therm] s b) ?_ ?_ <;> first | (intro hb; clear_value b; refine Only.hold ?_) | intro hb | (unfold b; clear b)) | (((first | (have h0 : Nat := b; clear h0) | (have h0 : Bool := b; clear h0) | (have h0 : BitVec _ := b; clear h0) | (have h0 : List _ := b; clear h0)); clear_value b)) | (unfold b; clear b) | clear b)
    | ((with_reducible apply Only.after (writeFaultMask_only _ _)); · rfl)
    | ((with_reducible apply Only.after (loadMirror_only _ _ _)); · rfl)
    | ((with_reducible refine Only.fold _ ?_ ?_) <;> try intro x a hb)
    | split
    | (refine Only.update (by assumption) ?_; intro p; cases p <;> first | exact .inl rfl | exact .inr rfl)

theorem openEntry_only (interrupted : Bool) (s : State) : Only [.start] s (openEntry interrupted s) := by
  have sk := Only.refl [.start] s
  unfold openEntry
  repeat' first
    | with_reducible assumption
    | (extract_lets +onlyGivenNames b; first | (refine Only.cut (Only [.start] s b) ?_ ?_ <;> first | (intro hb; clear_value b; refine Only.hold ?_) | intro hb | (unfold b; clear b)) | (((first | (have h0 : Nat := b; clear h0) | (have h0 : Bool := b; clear h0) | (have h0 : BitVec _ := b; clear h0) | (have h0 : List _ := b; clear h0)); clear_value b)) | (unfold b; clear b) | clear b)
    | ((with_reducible apply Only.after (noteCopy_only _ _ _)); · rfl)
    | ((with_reducible refine Only.fold _ ?_ ?_) <;> try intro x a hb)
    | (refine Only.update (by assumption) ?_; intro p; cases p <;> first | exact .inl rfl | exact .inr rfl)

theorem setResult_only (r : Nat) (s : State) : Only [.start] s (setResult r s) := by
  have sk := Only.refl [.start] s
  unfold setResult
  repeat' first
    | with_reducible assumption
    | (extract_lets +onlyGivenNames b; first | (unfold b; clear b) | clear b)
    | ((with_reducible apply Only.after (noteEntry_only _ _)); · rfl)
    | (refine Only.update (by assumption) ?_; intro p; cases p <;> first | exact .inl rfl | exact .inr rfl)

theorem ledgerPoint_only (env : StartEnv) (point : Nat) (s : State) : Only [.aon, .fresh, .start] s (ledgerPoint env point s) := by
  have sk := Only.refl [.aon, .fresh, .start] s
  unfold ledgerPoint
  repeat' first
    | with_reducible assumption
    | (extract_lets +onlyGivenNames b; first | (refine Only.cut (Only [.aon, .fresh, .start] s b) ?_ ?_ <;> first | (intro hb; clear_value b; refine Only.hold ?_) | intro hb | (unfold b; clear b)) | (((first | (have h0 : Nat := b; clear h0) | (have h0 : Bool := b; clear h0) | (have h0 : BitVec _ := b; clear h0) | (have h0 : List _ := b; clear h0)); clear_value b)) | (unfold b; clear b) | clear b)
    | ((with_reducible apply Only.after (writeLedger_only _ _)); · rfl)
    | (refine Only.update (by assumption) ?_; intro p; cases p <;> first | exact .inl rfl | exact .inr rfl)

theorem recordChannel_only (common : Nat) (m : Nat) (c : ChannelRun) (s : State) : Only [.fabric, .start] s (recordChannel common m c s) := by
  have sk := Only.refl [.fabric, .start] s
  unfold recordChannel
  repeat' first
    | with_reducible assumption
    | (extract_lets +onlyGivenNames b; first | (refine Only.cut (Only [.fabric, .start] s b) ?_ ?_ <;> first | (intro hb; clear_value b; refine Only.hold ?_) | intro hb | (unfold b; clear b)) | (((first | (have h0 : Nat := b; clear h0) | (have h0 : Bool := b; clear h0) | (have h0 : BitVec _ := b; clear h0) | (have h0 : List _ := b; clear h0)); clear_value b)) | (unfold b; clear b) | clear b)
    | ((with_reducible apply Only.after (State.setChannel_only _ _ _)); · rfl)
    | ((with_reducible apply Only.after (State.setLedger_only _ _)); · rfl)
    | ((with_reducible apply Only.after (noteEntry_only _ _)); · rfl)
    | split
    | (refine Only.update (by assumption) ?_; intro p; cases p <;> first | exact .inl rfl | exact .inr rfl)

theorem writeTraining_only (ok : Bool) (l : List ChannelRun) (s : State) : Only [.aon, .fresh] s (writeTraining ok l s) := by
  have sk := Only.refl [.aon, .fresh] s
  unfold writeTraining
  repeat' first
    | with_reducible assumption
    | (extract_lets +onlyGivenNames b; first | (refine Only.cut (Only [.aon, .fresh] s b) ?_ ?_ <;> first | (intro hb; clear_value b; refine Only.hold ?_) | intro hb | (unfold b; clear b)) | (((first | (have h0 : Nat := b; clear h0) | (have h0 : Bool := b; clear h0) | (have h0 : BitVec _ := b; clear h0) | (have h0 : List _ := b; clear h0)); clear_value b)) | (unfold b; clear b) | clear b)
    | ((with_reducible apply Only.after (State.draw_only _ _)); · rfl)
    | ((with_reducible apply Only.after (State.setNor_only _ _)); · rfl)
    | split
    | (refine Only.update (by assumption) ?_; intro p; cases p <;> first | exact .inl rfl | exact .inr rfl)

theorem stepDram_only (env : StartEnv) (s : State) : Only [.aon, .tick, .corePhase, .fresh, .outbox, .hl, .fabric, .dict, .ic, .pm, .start] s (stepDram env s) := by
  have sk := Only.refl [.aon, .tick, .corePhase, .fresh, .outbox, .hl, .fabric, .dict, .ic, .pm, .start] s
  unfold stepDram
  repeat' first
    | with_reducible assumption
    | (extract_lets +onlyGivenNames b; first | (refine Only.cut (Only [.aon, .tick, .corePhase, .fresh, .outbox, .hl, .fabric, .dict, .ic, .pm, .start] s b) ?_ ?_ <;> first | (intro hb; clear_value b; refine Only.hold ?_) | intro hb | (unfold b; clear b)) | (((first | (have h0 : Nat := b; clear h0) | (have h0 : Bool := b; clear h0) | (have h0 : BitVec _ := b; clear h0) | (have h0 : List _ := b; clear h0)); clear_value b)) | (unfold b; clear b) | clear b)
    | ((with_reducible apply Only.after (noteEntry_only _ _)); · rfl)
    | ((with_reducible apply Only.after (queueStore_only _ _ _)); · rfl)
    | ((with_reducible apply Only.after (endStep_only _ _ _ _ _ _)); · rfl)
    | ((with_reducible apply Only.after (recordChannel_only _ _ _ _)); · rfl)
    | ((with_reducible apply Only.after (writeTraining_only _ _ _)); · rfl)
    | ((with_reducible refine Only.fold _ ?_ ?_) <;> try intro x a hb)
    | split
    | (refine Only.update (by assumption) ?_; intro p; cases p <;> first | exact .inl rfl | exact .inr rfl)

theorem hostConfig_only (k : Nat) (c : HostConfig) (s : State) : Only [.outbox, .hl, .ic, .pm] s (hostConfig k c s) := by
  have sk := Only.refl [.outbox, .hl, .ic, .pm] s
  unfold hostConfig
  repeat' first
    | with_reducible assumption
    | (extract_lets +onlyGivenNames b; first | (refine Only.cut (Only [.outbox, .hl, .ic, .pm] s b) ?_ ?_ <;> first | (intro hb; clear_value b; refine Only.hold ?_) | intro hb | (unfold b; clear b)) | (((first | (have h0 : Nat := b; clear h0) | (have h0 : Bool := b; clear h0) | (have h0 : BitVec _ := b; clear h0) | (have h0 : List _ := b; clear h0)); clear_value b)) | (unfold b; clear b) | clear b)
    | ((with_reducible apply Only.after (settle_only _ _ _)); · rfl)
    | ((with_reducible refine Only.fold _ ?_ ?_) <;> try intro x a hb)
    | (refine Only.update (by assumption) ?_; intro p; cases p <;> first | exact .inl rfl | exact .inr rfl)

theorem pcieLinkUp_only (k : Nat) (speed : Nat) (width : Nat) (cfg : HostConfig) (l12 : Bool) (s : State) : Only [.outbox, .hl, .ic, .pm] s (pcieLinkUp k speed width cfg l12 s) := by
  have sk := Only.refl [.outbox, .hl, .ic, .pm] s
  unfold pcieLinkUp
  repeat' first
    | with_reducible assumption
    | (extract_lets +onlyGivenNames b; first | (refine Only.cut (Only [.outbox, .hl, .ic, .pm] s b) ?_ ?_ <;> first | (intro hb; clear_value b; refine Only.hold ?_) | intro hb | (unfold b; clear b)) | (((first | (have h0 : Nat := b; clear h0) | (have h0 : Bool := b; clear h0) | (have h0 : BitVec _ := b; clear h0) | (have h0 : List _ := b; clear h0)); clear_value b)) | (unfold b; clear b) | clear b)
    | ((with_reducible apply Only.after (State.setLink_only _ _ _)); · rfl)
    | ((with_reducible apply Only.after (raise_only _ _)); · rfl)
    | ((with_reducible apply Only.after (hostConfig_only _ _ _)); · rfl)
    | split
    | (refine Only.update (by assumption) ?_; intro p; cases p <;> first | exact .inl rfl | exact .inr rfl)

theorem stepPcie_only (env : StartEnv) (s : State) : Only [.tick, .corePhase, .outbox, .hl, .ic, .pm, .start] s (stepPcie env s) := by
  have sk := Only.refl [.tick, .corePhase, .outbox, .hl, .ic, .pm, .start] s
  unfold stepPcie
  repeat' first
    | with_reducible assumption
    | (extract_lets +onlyGivenNames b; first | (unfold b; clear b) | clear b)
    | ((with_reducible apply Only.after (endStep_only _ _ _ _ _ _)); · rfl)
    | (refine Only.update (by assumption) ?_; intro p; cases p <;> first | exact .inl rfl | exact .inr rfl)

theorem stepNetwork_only (env : StartEnv) (s : State) : Only [.tick, .corePhase, .outbox, .hl, .dict, .ic, .pm, .start] s (stepNetwork env s) := by
  have sk := Only.refl [.tick, .corePhase, .outbox, .hl, .dict, .ic, .pm, .start] s
  unfold stepNetwork
  repeat' first
    | with_reducible assumption
    | (extract_lets +onlyGivenNames b; first | (refine Only.cut (Only [.tick, .corePhase, .outbox, .hl, .dict, .ic, .pm, .start] s b) ?_ ?_ <;> first | (intro hb; clear_value b; refine Only.hold ?_) | intro hb | (unfold b; clear b)) | (((first | (have h0 : Nat := b; clear h0) | (have h0 : Bool := b; clear h0) | (have h0 : BitVec _ := b; clear h0) | (have h0 : List _ := b; clear h0)); clear_value b)) | (unfold b; clear b) | clear b)
    | ((with_reducible apply Only.after (setIface_only _ _ _)); · rfl)
    | ((with_reducible apply Only.after (endStep_only _ _ _ _ _ _)); · rfl)
    | ((with_reducible refine Only.fold _ ?_ ?_) <;> try intro x a hb)
    | (refine Only.update (by assumption) ?_; intro p; cases p <;> first | exact .inl rfl | exact .inr rfl)

theorem stepKeep_only (env : StartEnv) (s : State) : Only [.aon, .tick, .corePhase, .outbox, .regs, .hl, .heads, .groups, .fabric, .fa, .keep, .dict, .ic, .pm, .start, .safety] s (stepKeep env s) := by
  have sk := Only.refl [.aon, .tick, .corePhase, .outbox, .regs, .hl, .heads, .groups, .fabric, .fa, .keep, .dict, .ic, .pm, .start, .safety] s
  unfold stepKeep
  repeat' first
    | with_reducible assumption
    | (extract_lets +onlyGivenNames b; first | (refine Only.cut (Only [.aon, .tick, .corePhase, .outbox, .regs, .hl, .heads, .groups, .fabric, .fa, .keep, .dict, .ic, .pm, .start, .safety] s b) ?_ ?_ <;> first | (intro hb; clear_value b; refine Only.hold ?_) | intro hb | (unfold b; clear b)) | (((first | (have h0 : Nat := b; clear h0) | (have h0 : Bool := b; clear h0) | (have h0 : BitVec _ := b; clear h0) | (have h0 : List _ := b; clear h0)); clear_value b)) | (unfold b; clear b) | clear b)
    | ((with_reducible apply Only.after (keepSources_only _ _)); · rfl)
    | ((with_reducible apply Only.after (setCategory_only _ _ _)); · rfl)
    | ((with_reducible apply Only.after (clearCategory_only _ _)); · rfl)
    | ((with_reducible apply Only.after (landHeadCtrl_only _ _ _ _)); · rfl)
    | ((with_reducible apply Only.after (endStep_only _ _ _ _ _ _)); · rfl)
    | split
    | (refine Only.update (by assumption) ?_; intro p; cases p <;> first | exact .inl rfl | exact .inr rfl)

theorem trainBootQuad_only (env : StartEnv) (s : State) (q : Nat) : Only [.aon, .fresh, .outbox, .regs, .hl, .oq, .dict, .ic, .pm, .start] s (trainBootQuad env s q) := by
  have sk := Only.refl [.aon, .fresh, .outbox, .regs, .hl, .oq, .dict, .ic, .pm, .start] s
  unfold trainBootQuad
  repeat' first
    | with_reducible assumption
    | (extract_lets +onlyGivenNames b; first | (refine Only.cut (Only [.aon, .fresh, .outbox, .regs, .hl, .oq, .dict, .ic, .pm, .start] s b) ?_ ?_ <;> first | (intro hb; clear_value b; refine Only.hold ?_) | intro hb | (unfold b; clear b)) | (((first | (have h0 : Nat := b; clear h0) | (have h0 : Bool := b; clear h0) | (have h0 : BitVec _ := b; clear h0) | (have h0 : List _ := b; clear h0)); clear_value b)) | (unfold b; clear b) | clear b)
    | ((with_reducible apply Only.after (State.setLedger_only _ _)); · rfl)
    | ((with_reducible apply Only.after (noteEntry_only _ _)); · rfl)
    | ((with_reducible apply Only.after (landQctrlAt_only _ _ _ _)); · rfl)
    | ((with_reducible apply Only.after (trainingComplete_only _ _ _ _)); · rfl)
    | ((with_reducible refine Only.fold _ ?_ ?_) <;> try intro x a hb)
    | split
    | (refine Only.update (by assumption) ?_; intro p; cases p <;> first | exact .inl rfl | exact .inr rfl)

theorem stepQuads_only (env : StartEnv) (s : State) : Only [.aon, .tick, .corePhase, .fresh, .outbox, .regs, .hl, .oq, .dict, .ic, .pm, .start] s (stepQuads env s) := by
  have sk := Only.refl [.aon, .tick, .corePhase, .fresh, .outbox, .regs, .hl, .oq, .dict, .ic, .pm, .start] s
  unfold stepQuads
  repeat' first
    | with_reducible assumption
    | (extract_lets +onlyGivenNames b; first | (refine Only.cut (Only [.aon, .tick, .corePhase, .fresh, .outbox, .regs, .hl, .oq, .dict, .ic, .pm, .start] s b) ?_ ?_ <;> first | (intro hb; clear_value b; refine Only.hold ?_) | intro hb | (unfold b; clear b)) | (((first | (have h0 : Nat := b; clear h0) | (have h0 : Bool := b; clear h0) | (have h0 : BitVec _ := b; clear h0) | (have h0 : List _ := b; clear h0)); clear_value b)) | (unfold b; clear b) | clear b)
    | ((with_reducible apply Only.after (noteEntry_only _ _)); · rfl)
    | ((with_reducible apply Only.after (endStep_only _ _ _ _ _ _)); · rfl)
    | ((with_reducible apply Only.after (trainBootQuad_only _ _ _)); · rfl)
    | ((with_reducible refine Only.fold _ ?_ ?_) <;> try intro x a hb)
    | split
    | (refine Only.update (by assumption) ?_; intro p; cases p <;> first | exact .inl rfl | exact .inr rfl)

theorem trainOsl_only (env : StartEnv) (s : State) : Only [.outbox, .regs, .hl, .fabric, .si, .ic, .pm, .casc] s (trainOsl env s) := by
  have sk := Only.refl [.outbox, .regs, .hl, .fabric, .si, .ic, .pm, .casc] s
  unfold trainOsl
  repeat' first
    | with_reducible assumption
    | ((with_reducible apply Only.after (oslLink_only _ _ _)); · rfl)
    | ((with_reducible refine Only.fold _ ?_ ?_) <;> try intro x a hb)

theorem stepJoin_only (env : StartEnv) (s : State) : Only [.tick, .outbox, .held, .items, .hl, .heads, .groups, .flares, .sched, .fabric, .keep, .lanterns, .tx, .dict, .ic, .pm, .casc, .start, .therm, .safety] s (stepJoin env s) := by
  have sk := Only.refl [.tick, .outbox, .held, .items, .hl, .heads, .groups, .flares, .sched, .fabric, .keep, .lanterns, .tx, .dict, .ic, .pm, .casc, .start, .therm, .safety] s
  unfold stepJoin
  repeat' first
    | with_reducible assumption
    | (extract_lets +onlyGivenNames b; first | (refine Only.cut (Only [.tick, .outbox, .held, .items, .hl, .heads, .groups, .flares, .sched, .fabric, .keep, .lanterns, .tx, .dict, .ic, .pm, .casc, .start, .therm, .safety] s b) ?_ ?_ <;> first | (intro hb; clear_value b; refine Only.hold ?_) | intro hb | (unfold b; clear b)) | (((first | (have h0 : Nat := b; clear h0) | (have h0 : Bool := b; clear h0) | (have h0 : BitVec _ := b; clear h0) | (have h0 : List _ := b; clear h0)); clear_value b)) | (unfold b; clear b) | clear b)
    | ((with_reducible apply Only.after (setCasc_only _ _)); · rfl)
    | ((with_reducible apply Only.after (join_only _ _ _ _ _)); · rfl)
    | ((with_reducible apply Only.after (joinTimeout_only _)); · rfl)
    | split
    | (refine Only.update (by assumption) ?_; intro p; cases p <;> first | exact .inl rfl | exact .inr rfl)

theorem stepCascade_only (env : StartEnv) (s : State) : Only [.tick, .corePhase, .outbox, .regs, .held, .items, .hl, .heads, .groups, .flares, .sched, .fabric, .keep, .lanterns, .si, .tx, .dict, .ic, .pm, .casc, .start, .therm, .safety] s (stepCascade env s) := by
  have sk := Only.refl [.tick, .corePhase, .outbox, .regs, .held, .items, .hl, .heads, .groups, .flares, .sched, .fabric, .keep, .lanterns, .si, .tx, .dict, .ic, .pm, .casc, .start, .therm, .safety] s
  unfold stepCascade
  repeat' first
    | with_reducible assumption
    | (extract_lets +onlyGivenNames b; first | (refine Only.cut (Only [.tick, .corePhase, .outbox, .regs, .held, .items, .hl, .heads, .groups, .flares, .sched, .fabric, .keep, .lanterns, .si, .tx, .dict, .ic, .pm, .casc, .start, .therm, .safety] s b) ?_ ?_ <;> first | (intro hb; clear_value b; refine Only.hold ?_) | intro hb | (unfold b; clear b)) | (((first | (have h0 : Nat := b; clear h0) | (have h0 : Bool := b; clear h0) | (have h0 : BitVec _ := b; clear h0) | (have h0 : List _ := b; clear h0)); clear_value b)) | (unfold b; clear b) | clear b)
    | ((with_reducible apply Only.after (endStep_only _ _ _ _ _ _)); · rfl)
    | ((with_reducible apply Only.after (skipStep_only _ _ _ _)); · rfl)
    | ((with_reducible apply Only.after (trainOsl_only _ _)); · rfl)
    | ((with_reducible apply Only.after (stepJoin_only _ _)); · rfl)
    | split
    | (refine Only.update (by assumption) ?_; intro p; cases p <;> first | exact .inl rfl | exact .inr rfl)

theorem recoveryLaunch_only (env : StartEnv) (s : State) : Only [.tick, .corePhase, .outbox, .hl, .ic, .pm, .start] s (recoveryLaunch env s) := by
  have sk := Only.refl [.tick, .corePhase, .outbox, .hl, .ic, .pm, .start] s
  unfold recoveryLaunch
  repeat' first
    | with_reducible assumption
    | (extract_lets +onlyGivenNames b; first | (refine Only.cut (Only [.tick, .corePhase, .outbox, .hl, .ic, .pm, .start] s b) ?_ ?_ <;> first | (intro hb; clear_value b; refine Only.hold ?_) | intro hb | (unfold b; clear b)) | (((first | (have h0 : Nat := b; clear h0) | (have h0 : Bool := b; clear h0) | (have h0 : BitVec _ := b; clear h0) | (have h0 : List _ := b; clear h0)); clear_value b)) | (unfold b; clear b) | clear b)
    | ((with_reducible apply Only.after (pcieLinkUp_only _ _ _ _ _ _)); · rfl)
    | ((with_reducible apply Only.after (stepPcie_only _ _)); · rfl)
    | split
    | (refine Only.update (by assumption) ?_; intro p; cases p <;> first | exact .inl rfl | exact .inr rfl)

theorem networkLinkUp_only (i : Nat) (s : State) : Only [.start] s (networkLinkUp i s) := by
  have sk := Only.refl [.start] s
  unfold networkLinkUp
  repeat' first
    | with_reducible assumption
    | (extract_lets +onlyGivenNames b; first | (unfold b; clear b) | clear b)
    | split
    | (refine Only.update (by assumption) ?_; intro p; cases p <;> first | exact .inl rfl | exact .inr rfl)

theorem linkOutcome_only (step : Nat) (s : State) : Only [.tick, .corePhase, .outbox, .hl, .ic, .pm, .start] s (linkOutcome step s) := by
  unfold linkOutcome
  split
  · exact Only.refl _ s
  · extract_lets k a _ b w miss
    have hb : Only [.tick, .corePhase, .outbox, .hl, .ic, .pm, .start] s b := Only.start ((toTick_only _ _).mono rfl) rfl
    split
    · exact hb
    · exact hb.trans ((setStep_only _ _ _).mono rfl)

end Sys2Proof.Machine
end

