-- ==== Sys2Proof/Laws/Signals.lean ====
section
/-! SUPPORT. What an event does: it reaches interrupt targets, messages, host-link bits and performance counters, and nothing else. -/

set_option linter.all false

namespace Sys2Proof.Machine

/-- Two states that differ in nothing but what an event may change. -/
structure Signals (s t : State) : Prop where
  pending : t.pending = s.pending
  power : t.power = s.power
  aon : t.aon = s.aon
  tick : t.tick = s.tick
  corePhase : t.corePhase = s.corePhase
  fresh : t.fresh = s.fresh
  reply : t.reply = s.reply
  regs : t.regs = s.regs
  held : t.held = s.held
  pendGroups : t.pendGroups = s.pendGroups
  items : t.items = s.items
  posted : t.posted = s.posted
  dropped : t.dropped = s.dropped
  mem : t.mem = s.mem
  wo1 : t.wo1 = s.wo1
  lastReject : t.lastReject = s.lastReject
  heads : t.heads = s.heads
  groups : t.groups = s.groups
  flares : t.flares = s.flares
  sched : t.sched = s.sched
  fabric : t.fabric = s.fabric
  fa : t.fa = s.fa
  tap : t.tap = s.tap
  keep : t.keep = s.keep
  lanterns : t.lanterns = s.lanterns
  si : t.si = s.si
  oq : t.oq = s.oq
  tx : t.tx = s.tx
  dict : t.dict = s.dict
  cv : t.cv = s.cv
  bl : t.bl = s.bl
  casc : t.casc = s.casc
  start : t.start = s.start
  therm : t.therm = s.therm
  safety : t.safety = s.safety

theorem Signals.refl (s : State) : Signals s s :=
  ⟨rfl, rfl, rfl, rfl, rfl, rfl, rfl, rfl, rfl, rfl, rfl, rfl, rfl, rfl, rfl, rfl, rfl, rfl, rfl, rfl, rfl, rfl, rfl, rfl, rfl, rfl, rfl, rfl, rfl, rfl, rfl, rfl, rfl, rfl, rfl⟩

theorem Signals.trans {s t u : State} (h : Signals s t) (k : Signals t u) : Signals s u :=
  ⟨k.pending.trans h.pending, k.power.trans h.power, k.aon.trans h.aon, k.tick.trans h.tick, k.corePhase.trans h.corePhase,
   k.fresh.trans h.fresh, k.reply.trans h.reply, k.regs.trans h.regs, k.held.trans h.held, k.pendGroups.trans h.pendGroups,
   k.items.trans h.items, k.posted.trans h.posted, k.dropped.trans h.dropped, k.mem.trans h.mem, k.wo1.trans h.wo1,
   k.lastReject.trans h.lastReject, k.heads.trans h.heads, k.groups.trans h.groups, k.flares.trans h.flares, k.sched.trans
   h.sched, k.fabric.trans h.fabric, k.fa.trans h.fa, k.tap.trans h.tap, k.keep.trans h.keep, k.lanterns.trans h.lanterns,
   k.si.trans h.si, k.oq.trans h.oq, k.tx.trans h.tx, k.dict.trans h.dict, k.cv.trans h.cv, k.bl.trans h.bl, k.casc.trans
   h.casc, k.start.trans h.start, k.therm.trans h.therm, k.safety.trans h.safety⟩

/-- An update of those fields alone. -/
theorem Signals.update {s t : State} (h : Signals s t) {outbox' : List OutMsg} {ic' : Ic} {pm' : Perf} {hl' : Hl} :
    Signals s { t with outbox := outbox', ic := ic', pm := pm', hl := hl' } :=
  ⟨h.pending, h.power, h.aon, h.tick, h.corePhase, h.fresh, h.reply, h.regs, h.held, h.pendGroups, h.items, h.posted,
   h.dropped, h.mem, h.wo1, h.lastReject, h.heads, h.groups, h.flares, h.sched, h.fabric, h.fa, h.tap, h.keep, h.lanterns,
   h.si, h.oq, h.tx, h.dict, h.cv, h.bl, h.casc, h.start, h.therm, h.safety⟩

theorem Signals.cut (p : Prop) {q : Prop} (h : p) (k : p → q) : q := k h

theorem Signals.hold {p : Prop} (h : p) : p := h

theorem Signals.fst {α : Type _} {s t : State} {p : State × α} {a : α} (e : p = (t, a)) (h : Signals s p.1) : Signals s t := by
  rw [e] at h; exact h

theorem Signals.fold {α : Type _} {s t : State} {f : State → α → State} (l : List α) (h : Signals s t)
    (hf : ∀ x a, Signals s x → Signals s (f x a)) : Signals s (l.foldl f t) := by
  induction l generalizing t with
  | nil => exact h
  | cons a l ih => exact ih (hf t a h)

theorem Signals.foldP {α β : Type _} {s : State} {p : State × β} {f : State × β → α → State × β} (l : List α)
    (h : Signals s p.1) (hf : ∀ x a, Signals s x.1 → Signals s (f x a).1) : Signals s (l.foldl f p).1 := by
  induction l generalizing p with
  | nil => exact h
  | cons a l ih => exact ih (hf p a h)

theorem State.setTarget_signals {org : State} (s : State) (t : Nat) (x : Target) (sk : Signals org s) : Signals org (State.setTarget s t x) := by
  unfold State.setTarget
  repeat' first
    | with_reducible assumption
    | (extract_lets +onlyGivenNames b; first | (unfold b; clear b) | clear b)
    | exact Signals.update (by assumption)

theorem State.setCgroup_signals {org : State} (s : State) (g : Nat) (x : CGroup) (sk : Signals org s) : Signals org (State.setCgroup s g x) := by
  unfold State.setCgroup
  repeat' first
    | with_reducible assumption
    | (extract_lets +onlyGivenNames b; first | (unfold b; clear b) | clear b)
    | exact Signals.update (by assumption)

theorem State.setLink_signals {org : State} (s : State) (k : Nat) (x : PLink) (sk : Signals org s) : Signals org (State.setLink s k x) := by
  unfold State.setLink
  repeat' first
    | with_reducible assumption
    | (extract_lets +onlyGivenNames b; first | (unfold b; clear b) | clear b)
    | exact Signals.update (by assumption)

theorem State.send_signals {org : State} (s : State) (m : OutMsg) (sk : Signals org s) : Signals org (State.send s m) := by
  unfold State.send
  repeat' first
    | with_reducible assumption
    | (extract_lets +onlyGivenNames b; first | (unfold b; clear b) | clear b)
    | exact Signals.update (by assumption)

theorem State.wakeLink_signals {org : State} (k : Nat) (s : State) (sk : Signals org s) : Signals org (State.wakeLink k s) := by
  unfold State.wakeLink
  split
  · exact State.setLink_signals _ _ _ sk
  · exact sk

theorem State.sendTlp_signals {org : State} (s : State) (k : Nat) (m : OutMsg) (sk : Signals org s) :
    Signals org (State.sendTlp s k m) := State.send_signals _ _ (State.wakeLink_signals _ _ sk)

theorem idleGroups_signals {org : State} (t : Nat) (s : State) (sk : Signals org s) : Signals org (idleGroups t s) := by
  unfold idleGroups
  repeat' first
    | with_reducible assumption
    | with_reducible apply State.setCgroup_signals
    | ((with_reducible refine Signals.fold _ ?_ ?_) <;> try intro x a hb)
    | split

theorem sendRequest_signals {org : State} (t : Nat) (s : State) (sk : Signals org s) : Signals org (sendRequest t s) := by
  unfold sendRequest
  repeat' first
    | with_reducible assumption
    | (extract_lets +onlyGivenNames b; first | (unfold b; clear b) | clear b)
    | with_reducible apply State.setTarget_signals
    | with_reducible apply State.send_signals
    | with_reducible apply State.sendTlp_signals
    | with_reducible apply State.wakeLink_signals
    | split
    | exact Signals.update (by assumption)

theorem stopSleeping_signals {org : State} (t : Nat) (s : State) (sk : Signals org s) : Signals org (stopSleeping t s) := by
  unfold stopSleeping
  repeat' first
    | with_reducible assumption
    | (extract_lets +onlyGivenNames b; first | (refine Signals.cut (Signals org b) ?_ ?_ <;> first | (intro hb; clear_value b; refine Signals.hold ?_) | intro hb | (unfold b; clear b)) | ((first | (have h0 : Nat := b; clear h0) | (have h0 : Bool := b; clear h0) | (have h0 : BitVec _ := b; clear h0) | (have h0 : List _ := b; clear h0)); clear_value b) | (unfold b; clear b) | clear b)
    | with_reducible apply State.setTarget_signals
    | with_reducible apply State.setCgroup_signals
    | with_reducible apply sendRequest_signals
    | with_reducible apply idleGroups_signals
    | ((with_reducible refine Signals.fold _ ?_ ?_) <;> try intro x a hb)
    | split
    | exact Signals.update (by assumption)

theorem wake_signals {org : State} (t : Nat) (s : State) (sk : Signals org s) : Signals org (wake t s) := by
  unfold wake
  repeat' first
    | with_reducible assumption
    | (extract_lets +onlyGivenNames b; first | (unfold b; clear b) | clear b)
    | with_reducible apply State.setTarget_signals
    | with_reducible apply State.setLink_signals
    | with_reducible apply State.send_signals
    | with_reducible apply State.sendTlp_signals
    | with_reducible apply State.wakeLink_signals
    | with_reducible apply stopSleeping_signals
    | split
    | exact Signals.update (by assumption)

theorem settleCore_signals {org : State} (t : Nat) (before : State) (s : State) (sk : Signals org s) : Signals org (settleCore t before s) := by
  unfold settleCore
  repeat' first
    | with_reducible assumption
    | (extract_lets +onlyGivenNames b; first | (refine Signals.cut (Signals org b) ?_ ?_ <;> first | (intro hb; clear_value b; refine Signals.hold ?_) | intro hb | (unfold b; clear b)) | ((first | (have h0 : Nat := b; clear h0) | (have h0 : Bool := b; clear h0) | (have h0 : BitVec _ := b; clear h0) | (have h0 : List _ := b; clear h0)); clear_value b) | (unfold b; clear b) | clear b)
    | with_reducible apply idleGroups_signals
    | with_reducible apply sendRequest_signals
    | with_reducible apply wake_signals
    | split

theorem releaseGroup_signals {org : State} (t : Nat) (g : Nat) (count : Nat) (since : Nat) (s : State) (sk : Signals org s) : Signals org (releaseGroup t g count since s) := by
  unfold releaseGroup
  repeat' first
    | with_reducible assumption
    | (extract_lets +onlyGivenNames b; first | (refine Signals.cut (Signals org b) ?_ ?_ <;> first | (intro hb; clear_value b; refine Signals.hold ?_) | intro hb | (unfold b; clear b)) | ((first | (have h0 : Nat := b; clear h0) | (have h0 : Bool := b; clear h0) | (have h0 : BitVec _ := b; clear h0) | (have h0 : List _ := b; clear h0)); clear_value b) | (unfold b; clear b) | clear b)
    | with_reducible apply State.setCgroup_signals
    | with_reducible apply wake_signals
    | split

theorem groupEvent_signals {org : State} (t : Nat) (g : Nat) (s : State) (sk : Signals org s) : Signals org (groupEvent t g s) := by
  unfold groupEvent
  repeat' first
    | with_reducible assumption
    | (extract_lets +onlyGivenNames b; first | (refine Signals.cut (Signals org b) ?_ ?_ <;> first | (intro hb; clear_value b; refine Signals.hold ?_) | intro hb | (unfold b; clear b)) | ((first | (have h0 : Nat := b; clear h0) | (have h0 : Bool := b; clear h0) | (have h0 : BitVec _ := b; clear h0) | (have h0 : List _ := b; clear h0)); clear_value b) | (unfold b; clear b) | clear b)
    | with_reducible apply State.setCgroup_signals
    | with_reducible apply releaseGroup_signals
    | split
    | exact Signals.update (by assumption)

theorem pendAt_signals {org : State} (t : Nat) (src : Nat) (s : State) (sk : Signals org s) : Signals org (pendAt t src s) := by
  unfold pendAt
  repeat' first
    | with_reducible assumption
    | (extract_lets +onlyGivenNames b; first | (refine Signals.cut (Signals org b) ?_ ?_ <;> first | (intro hb; clear_value b; refine Signals.hold ?_) | intro hb | (unfold b; clear b)) | ((first | (have h0 : Nat := b; clear h0) | (have h0 : Bool := b; clear h0) | (have h0 : BitVec _ := b; clear h0) | (have h0 : List _ := b; clear h0)); clear_value b) | (unfold b; clear b) | clear b)
    | with_reducible apply State.setTarget_signals
    | with_reducible apply groupEvent_signals
    | split
    | exact Signals.update (by assumption)

theorem setOvf_signals {org : State} (k : Nat) (j : Nat) (s : State) (sk : Signals org s) : Signals org (setOvf k j s) := by
  unfold setOvf
  repeat' first
    | with_reducible assumption
    | (extract_lets +onlyGivenNames b; first | (unfold b; clear b) | clear b)
    | split
    | exact Signals.update (by assumption)

theorem addCtr_signals {org : State} (k : Nat) (j : Nat) (n : Nat) (s : State) (sk : Signals org s) : Signals org (addCtr k j n s).1 := by
  unfold addCtr
  repeat' first
    | with_reducible assumption
    | (extract_lets +onlyGivenNames b; first | (refine Signals.cut (Signals org b) ?_ ?_ <;> first | (intro hb; clear_value b; refine Signals.hold ?_) | intro hb | (unfold b; clear b)) | ((first | (have h0 : Nat := b; clear h0) | (have h0 : Bool := b; clear h0) | (have h0 : BitVec _ := b; clear h0) | (have h0 : List _ := b; clear h0)); clear_value b) | (unfold b; clear b) | clear b)
    | with_reducible apply setOvf_signals
    | split
    | exact Signals.update (by assumption)

theorem countEvent_signals {org : State} (k : Nat) (inst : Nat) (ev : Nat) (n : Nat) (s : State) (sk : Signals org s) : Signals org (countEvent k inst ev n s).1 := by
  unfold countEvent
  repeat' first
    | with_reducible assumption
    | (extract_lets +onlyGivenNames b; first | (unfold b; clear b) | clear b)
    | with_reducible apply addCtr_signals
    | with_reducible refine Signals.fst (by assumption) ?_
    | ((with_reducible refine Signals.fold _ ?_ ?_) <;> try intro x a hb)
    | ((with_reducible refine Signals.foldP _ ?_ ?_) <;> try (intro x a hb; rcases x with ⟨x, xr⟩))
    | split
    | exact Signals.update (by assumption)
    | (refine Signals.update ?_; with_reducible refine Signals.fst (by assumption) ?_)

/-- A way of counting that changes only what an event may change. -/
def Counting.Signals (count : Counting) : Prop :=
  ∀ (org : State) (k i e n : Nat) (s : State), Machine.Signals org s → Machine.Signals org (count k i e n s)

theorem tallyWith_signals {count : Counting} (hc : Counting.Signals count) {org : State} (t : Nat) (before after : State)
    (sk : Signals org after) : Signals org (tallyWith count t before after) := hc _ _ _ _ _ _ (hc _ _ _ _ _ _ sk)

theorem settleWith_signals {count : Counting} (hc : Counting.Signals count) {org : State} (t : Nat) (before s : State)
    (sk : Signals org s) : Signals org (settleWith count t before s) :=
  tallyWith_signals hc _ _ _ (settleCore_signals _ _ _ sk)

theorem raiseAtWith_signals {count : Counting} (hc : Counting.Signals count) {org : State} (t src : Nat) (s : State)
    (sk : Signals org s) : Signals org (raiseAtWith count t src s) := by
  unfold raiseAtWith
  split
  · exact settleWith_signals hc _ _ _ (pendAt_signals _ _ _ sk)
  · exact sk

theorem raiseWith_signals {count : Counting} (hc : Counting.Signals count) {org : State} (src : Nat) (s : State)
    (sk : Signals org s) : Signals org (raiseWith count src s) :=
  Signals.fold _ sk (fun x _ hx => raiseAtWith_signals hc _ _ x hx)

theorem wrapWith_signals {count : Counting} (hc : Counting.Signals count) {org : State} (k j : Nat) (s : State)
    (sk : Signals org s) : Signals org (wrapWith count k j s) := by
  unfold wrapWith
  refine hc _ _ _ _ _ _ ?_
  split
  · exact setOvf_signals _ _ _ sk
  · exact raiseWith_signals hc _ _ (setOvf_signals _ _ _ sk)

theorem countFuel_signals (fuel : Nat) : Counting.Signals (countFuel fuel) := by
  induction fuel with
  | zero => exact fun _ _ _ _ _ _ sk => sk
  | succ fuel ih =>
    intro org k i e n s sk
    unfold countFuel
    split
    · exact sk
    · exact Signals.fold _ (countEvent_signals _ _ _ _ _ sk) (fun x _ hx => wrapWith_signals ih _ _ x hx)

theorem perfEvent_signals {org : State} (k inst ev n : Nat) (s : State) (sk : Signals org s) :
    Signals org (perfEvent k inst ev n s) := countFuel_signals 130 _ _ _ _ _ _ sk

/-- The counting of every event keeps what an event keeps. -/
theorem perfEvent_counts : Counting.Signals perfEvent := fun _ _ _ _ _ _ sk => perfEvent_signals _ _ _ _ _ sk

theorem settle_signals {org : State} (t : Nat) (before s : State) (sk : Signals org s) : Signals org (settle t before s) :=
  settleWith_signals perfEvent_counts _ _ _ sk

theorem raiseAt_signals {org : State} (t src : Nat) (s : State) (sk : Signals org s) : Signals org (raiseAt t src s) :=
  raiseAtWith_signals perfEvent_counts _ _ _ sk

theorem raise_signals {org : State} (src : Nat) (s : State) (sk : Signals org s) : Signals org (raise src s) :=
  raiseWith_signals perfEvent_counts _ _ sk

theorem countBar0_signals {org : State} (src : Source) (ev : Nat) (s : State) (sk : Signals org s) : Signals org (countBar0 src ev s) := by
  unfold countBar0
  repeat' first
    | with_reducible assumption
    | with_reducible apply State.wakeLink_signals
    | (extract_lets +onlyGivenNames b; first | (unfold b; clear b) | clear b)
    | with_reducible apply perfEvent_signals
    | split
    | exact Signals.update (by assumption)

/-- What an event of a source may change. -/
theorem raise_keeps (src : Nat) (s : State) : Signals s (raise src s) := raise_signals src s (Signals.refl s)

/-- What an event of the performance monitor may change. -/
theorem perfEvent_keeps (k inst ev n : Nat) (s : State) : Signals s (perfEvent k inst ev n s) :=
  perfEvent_signals k inst ev n s (Signals.refl s)

/-- What the counting of a register access may change. -/
theorem countBar0_keeps (src : Source) (ev : Nat) (s : State) : Signals s (countBar0 src ev s) :=
  countBar0_signals src ev s (Signals.refl s)

/-! ### What the accessors read -/

theorem Signals.at_head {s t : State} (h : Signals s t) (n : Nat) : t.head n = s.head n := by unfold State.head; rw [h.heads]
theorem Signals.at_pgroup {s t : State} (h : Signals s t) (g : Nat) : t.pgroup g = s.pgroup g := by unfold State.pgroup; rw [h.groups]
theorem Signals.at_layer {s t : State} (h : Signals s t) (i : Nat) : t.layer i = s.layer i := by unfold State.layer; rw [h.fa]
theorem Signals.at_bank {s t : State} (h : Signals s t) (b : Nat) : t.bank b = s.bank b := by unfold State.bank; rw [h.sched]
theorem Signals.at_channel {s t : State} (h : Signals s t) (m : Nat) : t.channel m = s.channel m := by unfold State.channel; rw [h.fabric]
theorem Signals.at_keepHead {s t : State} (h : Signals s t) (n : Nat) : t.keepHead n = s.keepHead n := by unfold State.keepHead; rw [h.keep]
theorem Signals.at_sig {s t : State} (h : Signals s t) (n r : Nat) : t.sig n r = s.sig n r := by unfold State.sig; rw [h.keep]
theorem Signals.at_lantern {s t : State} (h : Signals s t) (l : Nat) : t.lantern l = s.lantern l := by unfold State.lantern; rw [h.lanterns]
theorem Signals.at_stream {s t : State} (h : Signals s t) (i : Nat) : t.stream i = s.stream i := by unfold State.stream; rw [h.si]
theorem Signals.at_rx {s t : State} (h : Signals s t) (p : Nat) : t.rx p = s.rx p := by unfold State.rx; rw [h.si]
theorem Signals.at_race {s t : State} (h : Signals s t) (n : Nat) : t.race n = s.race n := by unfold State.race; rw [h.si]
theorem Signals.at_txPort {s t : State} (h : Signals s t) (q u : Nat) : t.txPort q u = s.txPort q u := by unfold State.txPort; rw [h.oq]
theorem Signals.at_egress {s t : State} (h : Signals s t) (e : Nat) : t.egress e = s.egress e := by unfold State.egress; rw [h.oq]
theorem Signals.at_ticket {s t : State} (h : Signals s t) (u : Nat) : t.ticket u = s.ticket u := by unfold State.ticket; rw [h.tx]
theorem Signals.at_win {s t : State} (h : Signals s t) (f : Nat) : t.win f = s.win f := by unfold State.win; rw [h.dict]
theorem Signals.at_cvUnit {s t : State} (h : Signals s t) (u : Nat) : t.cvUnit u = s.cvUnit u := by unfold State.cvUnit; rw [h.cv]
theorem Signals.at_engine {s t : State} (h : Signals s t) (e : Nat) : t.engine e = s.engine e := by unfold State.engine; rw [h.bl]
theorem Signals.at_share {s t : State} (h : Signals s t) (e f : Nat) : t.share e f = s.share e f := by unfold State.share; rw [h.bl]
theorem Signals.at_osl {s t : State} (h : Signals s t) (u : Nat) : t.osl u = s.osl u := by unfold State.osl; rw [h.casc]
theorem Signals.at_seg {s t : State} (h : Signals s t) (k : Nat) : t.seg k = s.seg k := by unfold State.seg; rw [h.casc]
theorem Signals.at_reg {s t : State} (h : Signals s t) (r : RegId) : t.reg r = s.reg r := by unfold State.reg; rw [h.regs]
theorem Signals.at_regKey {s t : State} (h : Signals s t) (a : Nat) : t.regKey a = s.regKey a := by unfold State.regKey; rw [h.regs]

end Sys2Proof.Machine
end

