-- ==== Sys2Proof/Laws/Outcome.lean ====
section
/-! SUPPORT. What a command comes to: on a device that runs, for a source that is answered, and from an empty queue. -/

set_option linter.all false

namespace Sys2Proof.Machine

/-- A device that runs carries the command out. -/
theorem powered_on {s : State} (f : State → State) (h : s.power = .on) : powered s f = .next (f s) := by
  unfold powered; rw [if_pos h]

/-- A device that does not run keeps its state. -/
theorem powered_off {s : State} (f : State → State) (h : s.power ≠ .on) : powered s f = .next s := by
  unfold powered; rw [if_neg h]

/-- A write request of a source that is answered. -/
theorem request_on {s : State} {src : Source} (f : State → State) (h : s.power = .on) (hd : unreached s src = false) :
    request src s f = .next (f (countBar0 src 2 s)) := by
  unfold request; rw [powered_on _ h, if_neg (by simp [hd])]

/-- A read request of a source that is answered. -/
theorem readRequest_on {s : State} {src : Source} (f : State → State) (h : s.power = .on) (hd : unreached s src = false) :
    readRequest src s f = .next (f (countBar0 src 1 s)) := by
  unfold readRequest; rw [powered_on _ h, if_neg (by simp [hd])]

/-- A command of a function that is answered. -/
theorem byFunction_on {s : State} {f : Fin 32} (g : State → State) (h : s.power = .on) (hd : unreached s (.fn f) = false) :
    byFunction f s g = .next (g (countBar0 (.fn f) 2 s)) := request_on g h hd

/-- What a command keeps, through the switch that asks whether the device runs. -/
theorem powered_sound {s t : State} {f : State → State} (e : powered s f = .next t) (hf : Sound s (f s)) : Sound s t := by
  unfold powered at e
  injection e with e
  subst e
  split
  · exact hf
  · exact Sound.refl s

/-- What a write request keeps. -/
theorem request_sound {s t : State} {src : Source} {f : State → State} (e : request src s f = .next t)
    (hf : ∀ x, Sound s x → Sound s (f x)) : Sound s t := by
  refine powered_sound e ?_
  split
  · exact turnAway_sound _ _ (Sound.refl s)
  · exact hf _ (countBar0_sound _ _ _ (Sound.refl s))

/-- What a read request keeps. -/
theorem readRequest_sound {s t : State} {src : Source} {f : State → State} (e : readRequest src s f = .next t)
    (hf : ∀ x, Sound s x → Sound s (f x)) : Sound s t := by
  refine powered_sound e ?_
  split
  · exact turnAway_sound _ _ (Sound.refl s)
  · exact hf _ (countBar0_sound _ _ _ (Sound.refl s))

/-- What a command of a function keeps. -/
theorem byFunction_sound {s t : State} {f : Fin 32} {g : State → State} (e : byFunction f s g = .next t)
    (hg : ∀ x, Sound s x → Sound s (g x)) : Sound s t := request_sound e hg

end Sys2Proof.Machine
end

