-- ==== Sys2Proof/Laws/Quiet.lean ====
section
/-! SUPPORT. What events leave of every interrupt target: its settings and its claims stay, and a source's pending bit rises only
where that source, or the wrap of an event counter, is raised. -/

namespace Sys2Proof.Machine

/-- One bit of a set. -/
theorem setBit_getLsbD {w : Nat} (m : BitVec w) (i j : Nat) (b : Bool) :
    (setBit m i b).getLsbD j = if j = i ∧ i < w then b else m.getLsbD j := by
  by_cases hw : i < w
  · have h1 : (BitVec.ofNat w 1 <<< i) = BitVec.twoPow w i := by
      rw [BitVec.twoPow]
    unfold setBit
    rw [h1]
    have h2 : (BitVec.twoPow w i).getLsbD j = decide (j = i) := by
      rw [BitVec.getLsbD_twoPow]
      by_cases h : j = i
      · subst h; simp [hw]
      · simp [h, Ne.symm h]
    by_cases h : j = i
    · subst h; cases b <;> simp [h2, hw]
    · cases b <;> simp [h2, h, BitVec.getLsbD_not] <;> exact fun hm => BitVec.lt_of_getLsbD hm
  · have h1 : (BitVec.ofNat w 1 <<< i) = 0 := by
      ext k hk
      simp only [BitVec.getElem_shiftLeft]
      have : k < i := by omega
      simp [this]
    unfold setBit
    rw [h1]
    cases b <;> simp [hw]

/-- Two states whose targets differ in nothing but what events change; pending bits rise, and only those of `p`. -/
structure Quiet (p : Nat → Prop) (s t : State) : Prop where
  set : ∀ k, let x := s.target k; let y := t.target k
    y.mask = x.mask ∧ y.prio = x.prio ∧ y.coal = x.coal ∧ y.threshold = x.threshold ∧ y.stack = x.stack ∧ y.nestFull = x.nestFull
  rise : ∀ k b, (s.target k).pend.getLsbD b = true → (t.target k).pend.getLsbD b = true
  stay : ∀ k b, ¬ p b → (t.target k).pend.getLsbD b = (s.target k).pend.getLsbD b

theorem Quiet.refl (p : Nat → Prop) (s : State) : Quiet p s s :=
  ⟨fun _ => ⟨rfl, rfl, rfl, rfl, rfl, rfl⟩, fun _ _ h => h, fun _ _ _ => rfl⟩

theorem Quiet.trans {p : Nat → Prop} {s t u : State} (h : Quiet p s t) (k : Quiet p t u) : Quiet p s u where
  set i := by
    obtain ⟨a, b, c, d, e, f⟩ := h.set i
    obtain ⟨a', b', c', d', e', f'⟩ := k.set i
    exact ⟨a'.trans a, b'.trans b, c'.trans c, d'.trans d, e'.trans e, f'.trans f⟩
  rise i b x := k.rise i b (h.rise i b x)
  stay i b x := (k.stay i b x).trans (h.stay i b x)

/-- An update that leaves the targets alone. -/
theorem Quiet.update {p : Nat → Prop} {s t : State} (h : Quiet p s t) {tick' corePhase' : Nat} {outbox' : List OutMsg} {hl' : Hl}
    {pm' : Perf} {groups' : SMap CGroup} :
    Quiet p s { t with
      tick := tick', corePhase := corePhase', outbox := outbox', hl := hl', pm := pm',
      ic := { targets := t.ic.targets, groups := groups' } } :=
  ⟨h.set, h.rise, h.stay⟩

/-- A target written: its settings as they were, its pending bits only risen. -/
theorem Quiet.setTarget {p : Nat → Prop} {s t : State} (h : Quiet p s t) (k : Nat) (y : Target)
    (hs : (y.mask, y.prio, y.coal, y.threshold, y.stack, y.nestFull) = ((t.target k).mask, (t.target k).prio, (t.target k).coal,
      (t.target k).threshold, (t.target k).stack, (t.target k).nestFull))
    (hr : ∀ b, (t.target k).pend.getLsbD b = true → y.pend.getLsbD b = true)
    (hp : ∀ b, ¬ p b → y.pend.getLsbD b = (t.target k).pend.getLsbD b) : Quiet p s (t.setTarget k y) := by
  refine h.trans ⟨fun i => ?_, fun i b x => ?_, fun i b x => ?_⟩ <;> by_cases e : i = k
  · subst e
    rw [State.target_setTarget]
    injection hs with h1 hs
    injection hs with h2 hs
    injection hs with h3 hs
    injection hs with h4 hs
    injection hs with h5 h6
    exact ⟨h1, h2, h3, h4, h5, h6⟩
  · rw [State.target_setTarget_ne _ _ e]; exact ⟨rfl, rfl, rfl, rfl, rfl, rfl⟩
  · subst e; rw [State.target_setTarget]; exact hr b x
  · rw [State.target_setTarget_ne _ _ e]; exact x
  · subst e; rw [State.target_setTarget]; exact hp b x
  · rw [State.target_setTarget_ne _ _ e]

theorem Quiet.fst {α : Type _} {p : Nat → Prop} {s t : State} {q : State × α} {a : α} (e : q = (t, a)) (h : Quiet p s q.1) :
    Quiet p s t := by
  rw [e] at h; exact h

theorem Quiet.fold {α : Type _} {p : Nat → Prop} {s t : State} {f : State → α → State} (l : List α) (h : Quiet p s t)
    (hf : ∀ x a, Quiet p s x → Quiet p s (f x a)) : Quiet p s (l.foldl f t) := by
  induction l generalizing t with
  | nil => exact h
  | cons a l ih => exact ih (hf t a h)

theorem Quiet.foldP {α β : Type _} {p : Nat → Prop} {s : State} {q : State × β} {f : State × β → α → State × β} (l : List α)
    (h : Quiet p s q.1) (hf : ∀ x a, Quiet p s x.1 → Quiet p s (f x a).1) : Quiet p s (l.foldl f q).1 := by
  induction l generalizing q with
  | nil => exact h
  | cons a l ih => exact ih (hf q a h)

theorem State.setCgroup_quiet {p : Nat → Prop} {org : State} (s : State) (g : Nat) (x : CGroup) (sk : Quiet p org s) : Quiet p org (State.setCgroup s g x) := by
  unfold State.setCgroup
  repeat' first
    | with_reducible assumption
    | with_reducible exact hk
    | with_reducible exact h14
    | (extract_lets +onlyGivenNames b; first | (refine Only.cut (Quiet p org b) ?_ ?_ <;> first | (intro hb; clear_value b; refine Only.hold ?_) | intro hb | (unfold b; clear b)) | ((first | (have h0 : Nat := b; clear h0) | (have h0 : Bool := b; clear h0) | (have h0 : BitVec _ := b; clear h0) | (have h0 : List _ := b; clear h0)); clear_value b) | (unfold b; clear b) | clear b)
    | with_reducible refine Quiet.fst (by assumption) ?_
    | ((with_reducible refine Quiet.fold _ ?_ ?_) <;> try intro x a hb)
    | ((with_reducible refine Quiet.foldP _ ?_ ?_) <;> try (intro x a hb; rcases x with ⟨x, xr⟩))
    | split
    | exact Quiet.update (by assumption)
    | (refine Quiet.update ?_; with_reducible refine Quiet.fst (by assumption) ?_)

theorem State.setLink_quiet {p : Nat → Prop} {org : State} (s : State) (k : Nat) (x : PLink) (sk : Quiet p org s) : Quiet p org (State.setLink s k x) := by
  unfold State.setLink
  repeat' first
    | with_reducible assumption
    | with_reducible exact hk
    | with_reducible exact h14
    | (extract_lets +onlyGivenNames b; first | (refine Only.cut (Quiet p org b) ?_ ?_ <;> first | (intro hb; clear_value b; refine Only.hold ?_) | intro hb | (unfold b; clear b)) | ((first | (have h0 : Nat := b; clear h0) | (have h0 : Bool := b; clear h0) | (have h0 : BitVec _ := b; clear h0) | (have h0 : List _ := b; clear h0)); clear_value b) | (unfold b; clear b) | clear b)
    | with_reducible refine Quiet.fst (by assumption) ?_
    | ((with_reducible refine Quiet.fold _ ?_ ?_) <;> try intro x a hb)
    | ((with_reducible refine Quiet.foldP _ ?_ ?_) <;> try (intro x a hb; rcases x with ⟨x, xr⟩))
    | split
    | exact Quiet.update (by assumption)
    | (refine Quiet.update ?_; with_reducible refine Quiet.fst (by assumption) ?_)

theorem State.send_quiet {p : Nat → Prop} {org : State} (s : State) (m : OutMsg) (sk : Quiet p org s) : Quiet p org (State.send s m) := by
  unfold State.send
  repeat' first
    | with_reducible assumption
    | with_reducible exact hk
    | with_reducible exact h14
    | (extract_lets +onlyGivenNames b; first | (refine Only.cut (Quiet p org b) ?_ ?_ <;> first | (intro hb; clear_value b; refine Only.hold ?_) | intro hb | (unfold b; clear b)) | ((first | (have h0 : Nat := b; clear h0) | (have h0 : Bool := b; clear h0) | (have h0 : BitVec _ := b; clear h0) | (have h0 : List _ := b; clear h0)); clear_value b) | (unfold b; clear b) | clear b)
    | with_reducible refine Quiet.fst (by assumption) ?_
    | ((with_reducible refine Quiet.fold _ ?_ ?_) <;> try intro x a hb)
    | ((with_reducible refine Quiet.foldP _ ?_ ?_) <;> try (intro x a hb; rcases x with ⟨x, xr⟩))
    | split
    | exact Quiet.update (by assumption)
    | (refine Quiet.update ?_; with_reducible refine Quiet.fst (by assumption) ?_)

theorem State.wakeLink_quiet {p : Nat → Prop} {org : State} (k : Nat) (s : State) (sk : Quiet p org s) : Quiet p org (State.wakeLink k s) := by
  unfold State.wakeLink
  repeat' first
    | with_reducible assumption
    | with_reducible exact hk
    | with_reducible exact h14
    | (extract_lets +onlyGivenNames b; first | (refine Only.cut (Quiet p org b) ?_ ?_ <;> first | (intro hb; clear_value b; refine Only.hold ?_) | intro hb | (unfold b; clear b)) | ((first | (have h0 : Nat := b; clear h0) | (have h0 : Bool := b; clear h0) | (have h0 : BitVec _ := b; clear h0) | (have h0 : List _ := b; clear h0)); clear_value b) | (unfold b; clear b) | clear b)
    | with_reducible apply State.setLink_quiet
    | with_reducible refine Quiet.fst (by assumption) ?_
    | ((with_reducible refine Quiet.fold _ ?_ ?_) <;> try intro x a hb)
    | ((with_reducible refine Quiet.foldP _ ?_ ?_) <;> try (intro x a hb; rcases x with ⟨x, xr⟩))
    | split
    | exact Quiet.update (by assumption)
    | (refine Quiet.update ?_; with_reducible refine Quiet.fst (by assumption) ?_)

theorem State.sendTlp_quiet {p : Nat → Prop} {org : State} (s : State) (k : Nat) (m : OutMsg) (sk : Quiet p org s) : Quiet p org (State.sendTlp s k m) := by
  unfold State.sendTlp
  repeat' first
    | with_reducible assumption
    | with_reducible exact hk
    | with_reducible exact h14
    | (extract_lets +onlyGivenNames b; first | (refine Only.cut (Quiet p org b) ?_ ?_ <;> first | (intro hb; clear_value b; refine Only.hold ?_) | intro hb | (unfold b; clear b)) | ((first | (have h0 : Nat := b; clear h0) | (have h0 : Bool := b; clear h0) | (have h0 : BitVec _ := b; clear h0) | (have h0 : List _ := b; clear h0)); clear_value b) | (unfold b; clear b) | clear b)
    | with_reducible apply State.send_quiet
    | with_reducible apply State.wakeLink_quiet
    | with_reducible refine Quiet.fst (by assumption) ?_
    | ((with_reducible refine Quiet.fold _ ?_ ?_) <;> try intro x a hb)
    | ((with_reducible refine Quiet.foldP _ ?_ ?_) <;> try (intro x a hb; rcases x with ⟨x, xr⟩))
    | split
    | exact Quiet.update (by assumption)
    | (refine Quiet.update ?_; with_reducible refine Quiet.fst (by assumption) ?_)

theorem idleGroups_quiet {p : Nat → Prop} {org : State} (t : Nat) (s : State) (sk : Quiet p org s) : Quiet p org (idleGroups t s) := by
  unfold idleGroups
  repeat' first
    | with_reducible assumption
    | with_reducible exact hk
    | with_reducible exact h14
    | (extract_lets +onlyGivenNames b; first | (refine Only.cut (Quiet p org b) ?_ ?_ <;> first | (intro hb; clear_value b; refine Only.hold ?_) | intro hb | (unfold b; clear b)) | ((first | (have h0 : Nat := b; clear h0) | (have h0 : Bool := b; clear h0) | (have h0 : BitVec _ := b; clear h0) | (have h0 : List _ := b; clear h0)); clear_value b) | (unfold b; clear b) | clear b)
    | with_reducible apply State.setCgroup_quiet
    | with_reducible refine Quiet.fst (by assumption) ?_
    | ((with_reducible refine Quiet.fold _ ?_ ?_) <;> try intro x a hb)
    | ((with_reducible refine Quiet.foldP _ ?_ ?_) <;> try (intro x a hb; rcases x with ⟨x, xr⟩))
    | split
    | exact Quiet.update (by assumption)
    | (refine Quiet.update ?_; with_reducible refine Quiet.fst (by assumption) ?_)

theorem sendRequest_quiet {p : Nat → Prop} {org : State} (t : Nat) (s : State) (sk : Quiet p org s) : Quiet p org (sendRequest t s) := by
  unfold sendRequest
  repeat' first
    | with_reducible assumption
    | with_reducible exact hk
    | with_reducible exact h14
    | (extract_lets +onlyGivenNames b; first | (refine Only.cut (Quiet p org b) ?_ ?_ <;> first | (intro hb; clear_value b; refine Only.hold ?_) | intro hb | (unfold b; clear b)) | ((first | (have h0 : Nat := b; clear h0) | (have h0 : Bool := b; clear h0) | (have h0 : BitVec _ := b; clear h0) | (have h0 : List _ := b; clear h0)); clear_value b) | (unfold b; clear b) | clear b)
    | ((with_reducible refine Quiet.setTarget ?_ _ _ ?_ ?_ ?_) <;> first | rfl | exact fun _ h => h | exact fun _ _ => rfl | skip)
    | with_reducible apply State.sendTlp_quiet
    | with_reducible refine Quiet.fst (by assumption) ?_
    | ((with_reducible refine Quiet.fold _ ?_ ?_) <;> try intro x a hb)
    | ((with_reducible refine Quiet.foldP _ ?_ ?_) <;> try (intro x a hb; rcases x with ⟨x, xr⟩))
    | split
    | exact Quiet.update (by assumption)
    | (refine Quiet.update ?_; with_reducible refine Quiet.fst (by assumption) ?_)

theorem stopSleeping_quiet {p : Nat → Prop} {org : State} (t : Nat) (s : State) (sk : Quiet p org s) : Quiet p org (stopSleeping t s) := by
  unfold stopSleeping
  repeat' first
    | with_reducible assumption
    | with_reducible exact hk
    | with_reducible exact h14
    | (extract_lets +onlyGivenNames b; first | (refine Only.cut (Quiet p org b) ?_ ?_ <;> first | (intro hb; clear_value b; refine Only.hold ?_) | intro hb | (unfold b; clear b)) | ((first | (have h0 : Nat := b; clear h0) | (have h0 : Bool := b; clear h0) | (have h0 : BitVec _ := b; clear h0) | (have h0 : List _ := b; clear h0)); clear_value b) | (unfold b; clear b) | clear b)
    | with_reducible apply sendRequest_quiet
    | with_reducible apply idleGroups_quiet
    | ((with_reducible refine Quiet.setTarget ?_ _ _ ?_ ?_ ?_) <;> first | rfl | exact fun _ h => h | exact fun _ _ => rfl | skip)
    | with_reducible apply State.setCgroup_quiet
    | with_reducible refine Quiet.fst (by assumption) ?_
    | ((with_reducible refine Quiet.fold _ ?_ ?_) <;> try intro x a hb)
    | ((with_reducible refine Quiet.foldP _ ?_ ?_) <;> try (intro x a hb; rcases x with ⟨x, xr⟩))
    | split
    | exact Quiet.update (by assumption)
    | (refine Quiet.update ?_; with_reducible refine Quiet.fst (by assumption) ?_)

theorem wake_quiet {p : Nat → Prop} {org : State} (t : Nat) (s : State) (sk : Quiet p org s) : Quiet p org (wake t s) := by
  unfold wake
  repeat' first
    | with_reducible assumption
    | with_reducible exact hk
    | with_reducible exact h14
    | (extract_lets +onlyGivenNames b; first | (refine Only.cut (Quiet p org b) ?_ ?_ <;> first | (intro hb; clear_value b; refine Only.hold ?_) | intro hb | (unfold b; clear b)) | ((first | (have h0 : Nat := b; clear h0) | (have h0 : Bool := b; clear h0) | (have h0 : BitVec _ := b; clear h0) | (have h0 : List _ := b; clear h0)); clear_value b) | (unfold b; clear b) | clear b)
    | with_reducible apply stopSleeping_quiet
    | ((with_reducible refine Quiet.setTarget ?_ _ _ ?_ ?_ ?_) <;> first | rfl | exact fun _ h => h | exact fun _ _ => rfl | skip)
    | with_reducible apply State.wakeLink_quiet
    | with_reducible apply State.sendTlp_quiet
    | with_reducible refine Quiet.fst (by assumption) ?_
    | ((with_reducible refine Quiet.fold _ ?_ ?_) <;> try intro x a hb)
    | ((with_reducible refine Quiet.foldP _ ?_ ?_) <;> try (intro x a hb; rcases x with ⟨x, xr⟩))
    | split
    | exact Quiet.update (by assumption)
    | (refine Quiet.update ?_; with_reducible refine Quiet.fst (by assumption) ?_)

theorem settleCore_quiet {p : Nat → Prop} {org : State} (t : Nat) (before s : State) (sk : Quiet p org s) : Quiet p org (settleCore t before s) := by
  unfold settleCore
  repeat' first
    | with_reducible assumption
    | with_reducible exact hk
    | with_reducible exact h14
    | (extract_lets +onlyGivenNames b; first | (refine Only.cut (Quiet p org b) ?_ ?_ <;> first | (intro hb; clear_value b; refine Only.hold ?_) | intro hb | (unfold b; clear b)) | ((first | (have h0 : Nat := b; clear h0) | (have h0 : Bool := b; clear h0) | (have h0 : BitVec _ := b; clear h0) | (have h0 : List _ := b; clear h0)); clear_value b) | (unfold b; clear b) | clear b)
    | with_reducible apply idleGroups_quiet
    | with_reducible apply sendRequest_quiet
    | with_reducible apply wake_quiet
    | with_reducible refine Quiet.fst (by assumption) ?_
    | ((with_reducible refine Quiet.fold _ ?_ ?_) <;> try intro x a hb)
    | ((with_reducible refine Quiet.foldP _ ?_ ?_) <;> try (intro x a hb; rcases x with ⟨x, xr⟩))
    | split
    | exact Quiet.update (by assumption)
    | (refine Quiet.update ?_; with_reducible refine Quiet.fst (by assumption) ?_)

theorem releaseGroup_quiet {p : Nat → Prop} {org : State} (t g count since : Nat) (s : State) (sk : Quiet p org s) : Quiet p org (releaseGroup t g count since s) := by
  unfold releaseGroup
  repeat' first
    | with_reducible assumption
    | with_reducible exact hk
    | with_reducible exact h14
    | (extract_lets +onlyGivenNames b; first | (refine Only.cut (Quiet p org b) ?_ ?_ <;> first | (intro hb; clear_value b; refine Only.hold ?_) | intro hb | (unfold b; clear b)) | ((first | (have h0 : Nat := b; clear h0) | (have h0 : Bool := b; clear h0) | (have h0 : BitVec _ := b; clear h0) | (have h0 : List _ := b; clear h0)); clear_value b) | (unfold b; clear b) | clear b)
    | with_reducible apply wake_quiet
    | with_reducible apply State.setCgroup_quiet
    | with_reducible refine Quiet.fst (by assumption) ?_
    | ((with_reducible refine Quiet.fold _ ?_ ?_) <;> try intro x a hb)
    | ((with_reducible refine Quiet.foldP _ ?_ ?_) <;> try (intro x a hb; rcases x with ⟨x, xr⟩))
    | split
    | exact Quiet.update (by assumption)
    | (refine Quiet.update ?_; with_reducible refine Quiet.fst (by assumption) ?_)

theorem groupEvent_quiet {p : Nat → Prop} {org : State} (t g : Nat) (s : State) (sk : Quiet p org s) : Quiet p org (groupEvent t g s) := by
  unfold groupEvent
  repeat' first
    | with_reducible assumption
    | with_reducible exact hk
    | with_reducible exact h14
    | (extract_lets +onlyGivenNames b; first | (refine Only.cut (Quiet p org b) ?_ ?_ <;> first | (intro hb; clear_value b; refine Only.hold ?_) | intro hb | (unfold b; clear b)) | ((first | (have h0 : Nat := b; clear h0) | (have h0 : Bool := b; clear h0) | (have h0 : BitVec _ := b; clear h0) | (have h0 : List _ := b; clear h0)); clear_value b) | (unfold b; clear b) | clear b)
    | with_reducible apply releaseGroup_quiet
    | with_reducible apply State.setCgroup_quiet
    | with_reducible refine Quiet.fst (by assumption) ?_
    | ((with_reducible refine Quiet.fold _ ?_ ?_) <;> try intro x a hb)
    | ((with_reducible refine Quiet.foldP _ ?_ ?_) <;> try (intro x a hb; rcases x with ⟨x, xr⟩))
    | split
    | exact Quiet.update (by assumption)
    | (refine Quiet.update ?_; with_reducible refine Quiet.fst (by assumption) ?_)

theorem pendAt_quiet {p : Nat → Prop} {org : State} (t src : Nat) (s : State) (hs : p src) (sk : Quiet p org s) :
    Quiet p org (pendAt t src s) := by
  unfold pendAt
  extract_lets v b
  have hb : Quiet p org b := by
    refine sk.setTarget t _ rfl ?_ ?_
    · intro i h
      simp only [setBit_getLsbD]
      split <;> simp_all
    · intro i h
      simp only [setBit_getLsbD]
      split
      · rename_i e; exact absurd (e.1 ▸ hs) h
      · rfl
  clear_value b
  split
  · exact groupEvent_quiet _ _ _ hb
  · exact hb

theorem setOvf_quiet {p : Nat → Prop} {org : State} (k j : Nat) (s : State) (sk : Quiet p org s) : Quiet p org (setOvf k j s) :=
  Quiet.update sk

theorem addCtr_quiet {p : Nat → Prop} {org : State} (k j n : Nat) (s : State) (sk : Quiet p org s) : Quiet p org (addCtr k j n s).1 :=
  Quiet.update sk

theorem countEvent_quiet {p : Nat → Prop} {org : State} (k inst ev n : Nat) (s : State) (sk : Quiet p org s) :
    Quiet p org (countEvent k inst ev n s).1 := by
  refine Quiet.foldP _ sk (fun x j hx => ?_)
  split
  · exact addCtr_quiet _ _ _ _ hx
  · exact hx

/-- A way of counting that raises no source but those of the blocks it counts in and of the blocks that count the raising of sources:
0 and 13 count messages and requests, 14 counts wraps. -/
def Counting.Quiet (p : Nat → Prop) (count : Counting) : Prop :=
  ∀ (org : State) (k i e n : Nat) (s : State), p (273 + k) → Machine.Quiet p org s → Machine.Quiet p org (count k i e n s)

/-- The sources that counting itself can raise. -/
structure Counted (p : Nat → Prop) : Prop where
  messages : p 273
  requests : p 286
  wraps : p 287

theorem settleWith_quiet {p : Nat → Prop} {count : Counting} (hc : Counting.Quiet p count) (hp : Counted p) {org : State}
    (t : Nat) (before s : State) (sk : Quiet p org s) : Quiet p org (settleWith count t before s) :=
  hc _ _ _ _ _ _ hp.requests (hc _ _ _ _ _ _ hp.messages (settleCore_quiet _ _ _ sk))

theorem raiseAtWith_quiet {p : Nat → Prop} {count : Counting} (hc : Counting.Quiet p count) (hp : Counted p) {org : State}
    (t src : Nat) (s : State) (hk : p src) (sk : Quiet p org s) : Quiet p org (raiseAtWith count t src s) := by
  unfold raiseAtWith
  split
  · exact settleWith_quiet hc hp _ _ _ (pendAt_quiet _ _ _ hk sk)
  · exact sk

theorem raiseWith_quiet {p : Nat → Prop} {count : Counting} (hc : Counting.Quiet p count) (hp : Counted p) {org : State}
    (src : Nat) (s : State) (hk : p src) (sk : Quiet p org s) : Quiet p org (raiseWith count src s) :=
  Quiet.fold _ sk (fun x t hx => raiseAtWith_quiet hc hp t src x hk hx)

theorem wrapWith_quiet {p : Nat → Prop} {count : Counting} (hc : Counting.Quiet p count) (hp : Counted p) {org : State}
    (k j : Nat) (s : State) (hk : p (273 + k)) (sk : Quiet p org s) : Quiet p org (wrapWith count k j s) := by
  unfold wrapWith
  refine hc _ _ _ _ _ _ hp.wraps ?_
  split
  · exact setOvf_quiet _ _ _ sk
  · exact raiseWith_quiet hc hp _ _ hk (setOvf_quiet _ _ _ sk)

theorem countFuel_quiet {p : Nat → Prop} (hp : Counted p) (fuel : Nat) : Counting.Quiet p (countFuel fuel) := by
  induction fuel with
  | zero => exact fun _ _ _ _ _ _ _ sk => sk
  | succ fuel ih =>
    intro org k i e n s hk sk
    unfold countFuel
    split
    · exact sk
    · exact Quiet.fold _ (countEvent_quiet _ _ _ _ _ sk) (fun x j hx => wrapWith_quiet ih hp k j x hk hx)

/-- The counting of every event. -/
theorem perfEvent_quiet {p : Nat → Prop} (hp : Counted p) : Counting.Quiet p perfEvent := countFuel_quiet hp 130

theorem settle_quiet {p : Nat → Prop} {org : State} (t : Nat) (before s : State) (hp : Counted p) (sk : Quiet p org s) :
    Quiet p org (settle t before s) := settleWith_quiet (perfEvent_quiet hp) hp _ _ _ sk

theorem raiseAt_quiet {p : Nat → Prop} {org : State} (t src : Nat) (s : State) (hk : p src) (hp : Counted p) (sk : Quiet p org s) :
    Quiet p org (raiseAt t src s) := raiseAtWith_quiet (perfEvent_quiet hp) hp _ _ _ hk sk

theorem raise_quiet {p : Nat → Prop} {org : State} (src : Nat) (s : State) (hk : p src) (hp : Counted p) (sk : Quiet p org s) :
    Quiet p org (raise src s) := raiseWith_quiet (perfEvent_quiet hp) hp _ _ hk sk

theorem runClocks_quiet {p : Nat → Prop} {org : State} (c : Nat) (s : State) (ho : ∀ k, k < 16 → p (273 + k)) (sk : Quiet p org s) :
    Quiet p org (runClocks c s) := by
  have hc : Counted p := ⟨ho 0 (by decide), ho 13 (by decide), ho 14 (by decide)⟩
  have hw : ∀ k ∈ cycWraps s c, k < 16 := fun k hk => List.mem_range.mp (List.mem_filter.mp hk).1
  unfold runClocks countClocks
  refine Quiet.fold _ ?_ (fun x e hx => ?_)
  · have key : ∀ (l : List Nat) (x : State), (∀ k ∈ l, k < 16) → Quiet p org x →
        Quiet p org (l.foldl (fun s k => wrapWith perfEvent k 8 s) x) := by
      intro l
      induction l with
      | nil => exact fun x _ hx => hx
      | cons k l ih =>
        exact fun x hl hx => ih _ (fun j hj => hl j (List.mem_cons_of_mem _ hj))
          (wrapWith_quiet (perfEvent_quiet hc) hc _ _ _ (ho k (hl k List.mem_cons_self)) hx)
    exact key _ _ hw (Quiet.update sk)
  · split
    · exact perfEvent_quiet hc _ _ _ _ _ _ (ho 12 (by decide)) hx
    · exact hx

theorem endClock_quiet {p : Nat → Prop} {org : State} (s : State) (sk : Quiet p org s) : Quiet p org (endClock s) := by
  unfold endClock
  refine Quiet.update (Quiet.fold _ sk (fun x l hx => ?_))
  unfold loadCounter
  split
  · exact Quiet.update hx
  · exact Quiet.update hx

theorem sendMarkers_quiet {p : Nat → Prop} {org : State} (since : Nat) (s : State) (sk : Quiet p org s) :
    Quiet p org (sendMarkers since s) := by
  unfold sendMarkers
  extract_lets n
  split
  · exact sk
  · exact State.send_quiet _ _ sk

theorem toTick_quiet {p : Nat → Prop} {org : State} (t : Nat) (s : State) (ho : ∀ k, k < 16 → p (273 + k)) (sk : Quiet p org s) :
    Quiet p org (toTick t s) := by
  unfold toTick passTicks
  split
  · extract_lets c a
    have ha : Quiet p org a := sendMarkers_quiet _ _ (Quiet.update sk)
    clear_value a
    split
    · exact ha
    · exact runClocks_quiet _ _ ho (endClock_quiet _ (runClocks_quiet _ _ ho ha))
  · exact sk

/-- A source made pending at a target is pending there. -/
theorem pendAt_self (t src : Nat) (s : State) (h : src < 512) : ((pendAt t src s).target t).pend.getLsbD src = true := by
  unfold pendAt
  extract_lets v b
  have hb : (b.target t).pend.getLsbD src = true := by
    show (State.target (s.setTarget t _) t).pend.getLsbD src = true
    rw [State.target_setTarget]
    show (setBit _ src true).getLsbD src = true
    rw [setBit_getLsbD, if_pos ⟨rfl, h⟩]
  split
  · exact (groupEvent_quiet (p := fun _ => True) _ _ _ (Quiet.refl _ b)).rise t src hb
  · exact hb

/-- A raised source is pending at every target. -/
theorem raise_pends {src : Nat} (s : State) (h : realSource src = true) {k : Nat} (hk : k < 34) :
    ((raise src s).target k).pend.getLsbD src = true := by
  have h512 : src < 512 := by unfold realSource at h; simp at h; exact h.1.2
  have key : ∀ (l : List Nat) (x : State), (k ∈ l ∨ (x.target k).pend.getLsbD src = true) →
      ((l.foldl (fun s t => raiseAtWith perfEvent t src s) x).target k).pend.getLsbD src = true := by
    intro l
    induction l with
    | nil => intro x hx; exact hx.resolve_left (by simp)
    | cons a l ih =>
      intro x hx
      refine ih _ ?_
      by_cases ha : k = a
      · subst ha
        right
        show ((raiseAt k src x).target k).pend.getLsbD src = true
        unfold raiseAt raiseAtWith
        rw [if_pos h]
        exact (settle_quiet (p := fun _ => True) _ _ _ ⟨trivial, trivial, trivial⟩ (Quiet.refl _ _)).rise k src
          (pendAt_self k src x h512)
      · rcases hx with hx | hx
        · left; simpa [ha] using hx
        · right
          exact (raiseAt_quiet (p := fun _ => True) a src x trivial ⟨trivial, trivial, trivial⟩ (Quiet.refl _ x)).rise k src hx
  exact key _ s (.inl (List.mem_range.mpr hk))

end Sys2Proof.Machine
end

