-- ==== Sys2Proof/Laws/Scan.lean ====
section
/-! SUPPORT. What applying a head's state leaves of every head: how it scans. -/

set_option linter.all false

namespace Sys2Proof.Machine

/-- Two states whose heads scan alike. -/
structure Scan (s t : State) : Prop where
  head : ∀ m, (t.head m).phase = (s.head m).phase ∧ (t.head m).frame = (s.head m).frame ∧ (t.head m).anchor = (s.head m).anchor ∧
    (t.head m).line = (s.head m).line ∧ (t.head m).stopReq = (s.head m).stopReq ∧ (t.head m).pg = (s.head m).pg ∧
    (t.head m).latched = (s.head m).latched

theorem Scan.refl (s : State) : Scan s s := ⟨fun _ => ⟨rfl, rfl, rfl, rfl, rfl, rfl, rfl⟩⟩

theorem Scan.trans {s t u : State} (h : Scan s t) (k : Scan t u) : Scan s u := ⟨fun m => by
  obtain ⟨a, b, c, d, e, f, g⟩ := h.head m
  obtain ⟨a', b', c', d', e', f', g'⟩ := k.head m
  exact ⟨a'.trans a, b'.trans b, c'.trans c, d'.trans d, e'.trans e, f'.trans f, g'.trans g⟩⟩

/-- An operation that leaves the heads alone. -/
theorem Scan.same {s t : State} (h : t.heads = s.heads) : Scan s t := ⟨fun m => by
  have : t.head m = s.head m := by unfold State.head; rw [h]
  rw [this]; exact ⟨rfl, rfl, rfl, rfl, rfl, rfl, rfl⟩⟩

theorem Scan.after {l : List Part} {s t u : State} (h : Scan s t) (k : Only l t u) (hl : l.contains .heads = false) : Scan s u :=
  h.trans (Scan.same (k.same .heads hl))

theorem Scan.behind {l : List Part} {s t u : State} (k : Only l t u) (hl : l.contains .heads = false) (h : Scan s t) : Scan s u :=
  h.after k hl

/-- An update of the scheduler, the items, the dictionary or the heads' other parts. -/
theorem Scan.parts {s t : State} (h : Scan s t) {sched' : Sched} {items' : List Item} {tx' : Tx} :
    Scan s { t with sched := sched', items := items', tx := tx' } := ⟨h.head⟩

theorem Scan.update {s t u : State} (h : Scan s t) (e : u.heads = t.heads) : Scan s u := h.trans (Scan.same e)

/-- A head written that scans as it did. -/
theorem Scan.setHead {s t : State} (h : Scan s t) (n : Nat) (x : Head)
    (e : (x.phase, x.frame, x.anchor, x.line, x.stopReq, x.pg, x.latched) = ((t.head n).phase, (t.head n).frame, (t.head n).anchor,
      (t.head n).line, (t.head n).stopReq, (t.head n).pg, (t.head n).latched)) : Scan s (t.setHead n x) := by
  refine h.trans ⟨fun m => ?_⟩
  by_cases hm : m = n
  · subst hm
    rw [State.head_setHead]
    injection e with h1 e
    injection e with h2 e
    injection e with h3 e
    injection e with h4 e
    injection e with h5 e
    injection e with h6 h7
    exact ⟨h1, h2, h3, h4, h5, h6, h7⟩
  · rw [State.head_setHead_ne _ _ hm]; exact ⟨rfl, rfl, rfl, rfl, rfl, rfl, rfl⟩

theorem Scan.fst {α : Type _} {s t : State} {p : State × α} {a : α} (e : p = (t, a)) (h : Scan s p.1) : Scan s t := by
  rw [e] at h; exact h

theorem Scan.fold {α : Type _} {s t : State} {f : State → α → State} (l : List α) (h : Scan s t)
    (hf : ∀ x a, Scan s x → Scan s (f x a)) : Scan s (l.foldl f t) := by
  induction l generalizing t with
  | nil => exact h
  | cons a l ih => exact ih (hf t a h)

theorem applyEffect_scan {org : State} (before : State) (s : State) (w : Wr) (sk : Scan org s) : Scan org (applyEffect before s w) := by
  unfold applyEffect
  repeat' first
    | with_reducible assumption
    | (extract_lets +onlyGivenNames b; first | (refine Only.cut (Scan org b) ?_ ?_ <;> first | (intro hb; clear_value b; refine Only.hold ?_) | intro hb | (unfold b; clear b)) | ((first | (have h0 : Nat := b; clear h0) | (have h0 : Bool := b; clear h0) | (have h0 : BitVec _ := b; clear h0) | (have h0 : List _ := b; clear h0)); clear_value b) | (unfold b; clear b) | clear b)
    | ((with_reducible refine Scan.setHead ?_ _ _ ?_) <;> first | rfl | skip)
    | ((with_reducible apply Scan.behind (State.setLayer_only _ _ _)); · rfl)
    | ((with_reducible apply Scan.behind (State.setSig_only _ _ _ _)); · rfl)
    | ((with_reducible apply Scan.behind (showDirect_only _ _)); · rfl)
    | ((with_reducible apply Scan.behind (repinFallback_only _ _)); · rfl)
    | ((with_reducible apply Scan.behind (applyRef_only _ _)); · rfl)
    | ((with_reducible apply Scan.behind (leaveHead_only _ _ _)); · rfl)
    | with_reducible refine Scan.fst (by assumption) ?_
    | ((with_reducible refine Scan.fold _ ?_ ?_) <;> try intro x a hb)
    | split
    | exact Scan.parts (by assumption)

theorem applyWrites_scan {org : State} (n : Nat) (ws : List Wr) (before : State) (sk : Scan org before) : Scan org (applyWrites n ws before) := by
  unfold applyWrites
  repeat' first
    | with_reducible assumption
    | (extract_lets +onlyGivenNames b; first | (refine Only.cut (Scan org b) ?_ ?_ <;> first | (intro hb; clear_value b; refine Only.hold ?_) | intro hb | (unfold b; clear b)) | ((first | (have h0 : Nat := b; clear h0) | (have h0 : Bool := b; clear h0) | (have h0 : BitVec _ := b; clear h0) | (have h0 : List _ := b; clear h0)); clear_value b) | (unfold b; clear b) | clear b)
    | ((with_reducible apply Scan.behind (enforceUnavailable_only _ _)); · rfl)
    | ((with_reducible apply Scan.behind (originGroups_only _)); · rfl)
    | with_reducible apply applyEffect_scan
    | ((with_reducible apply Scan.behind (overlay_only _ _)); · rfl)
    | ((with_reducible apply Scan.behind (settleQuads_only _)); · rfl)
    | ((with_reducible apply Scan.behind (repinSlot_only _ _)); · rfl)
    | with_reducible refine Scan.fst (by assumption) ?_
    | ((with_reducible refine Scan.fold _ ?_ ?_) <;> try intro x a hb)
    | split
    | exact Scan.parts (by assumption)

theorem tryWith_scan {org t : State} {images : List (Option Image)} {n : Nat} {ws : List Wr} {s : State} (e : tryWith images n ws s = .ok t) (sk : Scan org s) : Scan org t := by
  unfold tryWith at e
  extract_lets b at e
  have hb : Scan org b := sk.after (advanceGroups_only _) rfl
  clear_value b
  split at e
  · cases e
  · cases e; exact applyWrites_scan _ _ _ hb

theorem tryItem_scan {org t : State} {n : Nat} {ws : List Wr} {s : State} (e : tryItem n ws s = .ok t) (sk : Scan org s) : Scan org t :=
  tryWith_scan e sk

theorem tryShare_scan {org t' : State} {t n : Nat} {ws : List Wr} {s : State} (e : tryShare t n ws s = .ok t') (sk : Scan org s) : Scan org t' := by
  unfold tryShare at e
  split at e
  · split at e
    · exact tryWith_scan e sk
    · exact tryItem_scan e sk
  · exact tryItem_scan e sk

theorem applyDirect_scan {org : State} (n : Nat) (ws : List Wr) (s : State) (sk : Scan org s) : Scan org (applyDirect n ws s) := by
  unfold applyDirect
  repeat' first
    | with_reducible assumption
    | (extract_lets +onlyGivenNames b; first | (refine Only.cut (Scan org b) ?_ ?_ <;> first | (intro hb; clear_value b; refine Only.hold ?_) | intro hb | (unfold b; clear b)) | ((first | (have h0 : Nat := b; clear h0) | (have h0 : Bool := b; clear h0) | (have h0 : BitVec _ := b; clear h0) | (have h0 : List _ := b; clear h0)); clear_value b) | (unfold b; clear b) | clear b)
    | with_reducible refine tryItem_scan (by assumption) ?_
    | ((with_reducible apply Scan.behind (recordReject_only _ _ _ _)); · rfl)
    | ((with_reducible apply Scan.behind (dropDirect_only _ _)); · rfl)
    | ((with_reducible apply Scan.behind (showAgain_only _ _)); · rfl)
    | with_reducible refine Scan.fst (by assumption) ?_
    | ((with_reducible refine Scan.fold _ ?_ ?_) <;> try intro x a hb)
    | split
    | exact Scan.parts (by assumption)

theorem applyEntry_scan {org : State} (n : Nat) (i : Image) (s : State) (sk : Scan org s) : Scan org (applyEntry n i s) := by
  unfold applyEntry
  repeat' first
    | with_reducible assumption
    | (extract_lets +onlyGivenNames b; first | (refine Only.cut (Scan org b) ?_ ?_ <;> first | (intro hb; clear_value b; refine Only.hold ?_) | intro hb | (unfold b; clear b)) | ((first | (have h0 : Nat := b; clear h0) | (have h0 : Bool := b; clear h0) | (have h0 : BitVec _ := b; clear h0) | (have h0 : List _ := b; clear h0)); clear_value b) | (unfold b; clear b) | clear b)
    | ((with_reducible apply Scan.behind (advanceGroups_only _)); · rfl)
    | with_reducible apply applyWrites_scan
    | with_reducible refine Scan.fst (by assumption) ?_
    | ((with_reducible refine Scan.fold _ ?_ ?_) <;> try intro x a hb)
    | split
    | exact Scan.parts (by assumption)

theorem applySwitch_scan {org : State} (n : Nat) (s : State) (sk : Scan org s) : Scan org (applySwitch n s) := by
  unfold applySwitch
  repeat' first
    | with_reducible assumption
    | (extract_lets +onlyGivenNames b; first | (refine Only.cut (Scan org b) ?_ ?_ <;> first | (intro hb; clear_value b; refine Only.hold ?_) | intro hb | (unfold b; clear b)) | ((first | (have h0 : Nat := b; clear h0) | (have h0 : Bool := b; clear h0) | (have h0 : BitVec _ := b; clear h0) | (have h0 : List _ := b; clear h0)); clear_value b) | (unfold b; clear b) | clear b)
    | ((with_reducible refine Scan.setHead ?_ _ _ ?_) <;> first | rfl | skip)
    | ((with_reducible apply Scan.behind (rejudgeRings_only _)); · rfl)
    | with_reducible apply applyEntry_scan
    | ((with_reducible apply Scan.behind (hideMoved_only _ _ _ _ _)); · rfl)
    | ((with_reducible apply Scan.behind (completeSwitch_only _ _)); · rfl)
    | with_reducible refine Scan.fst (by assumption) ?_
    | ((with_reducible refine Scan.fold _ ?_ ?_) <;> try intro x a hb)
    | split
    | exact Scan.parts (by assumption)

theorem applyFirstEntry_scan {org : State} (n : Nat) (s : State) (sk : Scan org s) : Scan org (applyFirstEntry n s) := by
  unfold applyFirstEntry
  repeat' first
    | with_reducible assumption
    | (extract_lets +onlyGivenNames b; first | (refine Only.cut (Scan org b) ?_ ?_ <;> first | (intro hb; clear_value b; refine Only.hold ?_) | intro hb | (unfold b; clear b)) | ((first | (have h0 : Nat := b; clear h0) | (have h0 : Bool := b; clear h0) | (have h0 : BitVec _ := b; clear h0) | (have h0 : List _ := b; clear h0)); clear_value b) | (unfold b; clear b) | clear b)
    | with_reducible apply applyEntry_scan
    | with_reducible refine Scan.fst (by assumption) ?_
    | ((with_reducible refine Scan.fold _ ?_ ?_) <;> try intro x a hb)
    | split
    | exact Scan.parts (by assumption)

theorem applyShare_scan {org : State} (t : Nat) (y : Share) (s : State) (sk : Scan org s) : Scan org (applyShare t y s) := by
  unfold applyShare
  repeat' first
    | with_reducible assumption
    | (extract_lets +onlyGivenNames b; first | (refine Only.cut (Scan org b) ?_ ?_ <;> first | (intro hb; clear_value b; refine Only.hold ?_) | intro hb | (unfold b; clear b)) | ((first | (have h0 : Nat := b; clear h0) | (have h0 : Bool := b; clear h0) | (have h0 : BitVec _ := b; clear h0) | (have h0 : List _ := b; clear h0)); clear_value b) | (unfold b; clear b) | clear b)
    | ((with_reducible apply Scan.behind (dropDirect_only _ _)); · rfl)
    | ((with_reducible apply Scan.behind (showAgain_only _ _)); · rfl)
    | ((with_reducible apply Scan.behind (shareResult_only _ _ _ _ _)); · rfl)
    | with_reducible refine tryShare_scan (by assumption) ?_
    | with_reducible refine Scan.fst (by assumption) ?_
    | ((with_reducible refine Scan.fold _ ?_ ?_) <;> try intro x a hb)
    | split
    | exact Scan.parts (by assumption)

theorem settleStopped_scan {org : State} (n : Nat) (s : State) (sk : Scan org s) : Scan org (settleStopped n s) := by
  unfold settleStopped
  extract_lets a joins b c mine e f
  have ha : Scan org a := applyFirstEntry_scan _ _ sk
  clear_value a
  have hb : Scan org b := by
    unfold b
    split
    · exact applySwitch_scan _ _ ha
    · exact ha
  clear_value b
  have hc : Scan org c := Scan.behind (hideLeaving_only _ _ _) rfl (Scan.fold _ hb (fun x p hx => applyShare_scan _ _ _ hx))
  clear_value c
  have he : Scan org e := Scan.parts hc
  clear_value e
  have hf : Scan org f := Scan.fold _ he (fun x p hx => applyDirect_scan _ _ _ hx)
  clear_value f
  exact Scan.behind (flushRecs_only _) rfl (Scan.fold _ hf (fun x p hx => applyDirect_scan _ _ _ hx))

theorem latchItems_scan {org : State} (n : Nat) (at_ : Nat) (cut : Nat) (s : State) (sk : Scan org s) : Scan org (latchItems n at_ cut s) := by
  unfold latchItems
  repeat' first
    | with_reducible assumption
    | (extract_lets +onlyGivenNames b; first | (refine Only.cut (Scan org b) ?_ ?_ <;> first | (intro hb; clear_value b; refine Only.hold ?_) | intro hb | (unfold b; clear b)) | ((first | (have h0 : Nat := b; clear h0) | (have h0 : Bool := b; clear h0) | (have h0 : BitVec _ := b; clear h0) | (have h0 : List _ := b; clear h0)); clear_value b) | (unfold b; clear b) | clear b)
    | with_reducible apply applyDirect_scan
    | with_reducible apply applySwitch_scan
    | with_reducible apply applyFirstEntry_scan
    | with_reducible apply applyShare_scan
    | with_reducible refine Scan.fst (by assumption) ?_
    | ((with_reducible refine Scan.fold _ ?_ ?_) <;> try intro x a hb)
    | split
    | exact Scan.parts (by assumption)

theorem autoLatch_scan {org : State} (n : Nat) (s : State) (sk : Scan org s) : Scan org (autoLatch n s) := by
  unfold autoLatch
  repeat' first
    | with_reducible assumption
    | (extract_lets +onlyGivenNames b; first | (refine Only.cut (Scan org b) ?_ ?_ <;> first | (intro hb; clear_value b; refine Only.hold ?_) | intro hb | (unfold b; clear b)) | ((first | (have h0 : Nat := b; clear h0) | (have h0 : Bool := b; clear h0) | (have h0 : BitVec _ := b; clear h0) | (have h0 : List _ := b; clear h0)); clear_value b) | (unfold b; clear b) | clear b)
    | ((with_reducible refine Scan.setHead ?_ _ _ ?_) <;> first | rfl | skip)
    | with_reducible refine Scan.fst (by assumption) ?_
    | ((with_reducible refine Scan.fold _ ?_ ?_) <;> try intro x a hb)
    | split
    | exact Scan.parts (by assumption)

end Sys2Proof.Machine
end

