-- ==== Sys2Proof/Laws/Time.lean ====
section
/-! SUPPORT. Time: where an event's own tick puts the tick counter. -/

namespace Sys2Proof.Machine

/-- The counter stands at the later of its own value and the event's tick. -/
theorem toTick_tick (t : Nat) (s : State) : (toTick t s).tick = max s.tick t := by
  unfold toTick
  split
  · rename_i h
    have hk : (passTicks (t - s.tick) s).tick = s.tick + (t - s.tick) := by
      unfold passTicks
      extract_lets c a
      have ha : a.tick = s.tick + (t - s.tick) := (sendMarkers_only _ _).same .tick rfl
      split
      · exact ha
      · have h1 : (runClocks 1 a).tick = a.tick := (runClocks_only 1 a).same .tick rfl
        have h2 : (endClock (runClocks 1 a)).tick = (runClocks 1 a).tick := (endClock_only _).same .tick rfl
        have h3 : (runClocks (c - 1) (endClock (runClocks 1 a))).tick = (endClock (runClocks 1 a)).tick :=
          (runClocks_only _ _).same .tick rfl
        rw [h3, h2, h1]; exact ha
    rw [hk]; omega
  · omega

/-- Nothing but the counter, event counters and what they raise. -/
theorem toTick_same (t : Nat) (s : State) (p : Part) (hp : [Part.tick, .corePhase, .outbox, .hl, .ic, .pm].contains p = false) :
    SameOn p s (toTick t s) := (toTick_only t s).same p hp

end Sys2Proof.Machine
end

