-- ==== Sys2Proof/WellFormed.lean ====
section
/-! DEFINITION. Well-formed commands: operands that the interfaces of the spec can carry. The machine gives every command a meaning,
well-formed or not. -/

namespace Sys2Proof

/-- What makes a command ill-formed. -/
inductive IllFormed where
  /-- An offset that is not a dword's, or lies beyond the largest BAR0 (R323, R327). -/
  | address
  /-- A write request of no dwords, or of more than Max_Payload_Size allows (R320). -/
  | dwords
  /-- A BAR2 access of no bytes, or of more than one TLP carries, or beyond 128 GiB (R320, R325). -/
  | bar2
  /-- A message longer than LEN can say (R300). -/
  | message
  /-- A CSI-2 data type of the other kind of packet, or a payload longer than its word count can say (R236, R238). -/
  | packet
  /-- A burst beyond the device's addresses (R100). -/
  | burst
  /-- Not one temperature for each of the twelve sensors (R444). -/
  | sensors
  /-- A CMAC of other than 16 bytes (R299). -/
  | mac
  /-- An AUX completion of more than 16 bytes (R267). -/
  | aux
  /-- A queue position of 4 or more (R131). -/
  | queue
  /-- A SEND length that its 13 bits cannot hold (R319). -/
  | send
  /-- A cascade line or header beyond what its fields hold (R418). -/
  | segment
  /-- A start whose outcomes are not one for each bank, channel, quad or step (R430, R434 to R436). -/
  | start
  deriving DecidableEq, Repr

/-- A PF register offset. -/
def dwordOffset (a : Nat) : Bool := decide (a % 4 = 0) && decide (a < 2 ^ 28)

/-- The outcomes of a start. -/
def StartEnv.wf (e : StartEnv) : Bool :=
  decide (e.bankOutcome.length = 2) && e.bankOutcome.all (fun x => decide (1 ≤ x) && decide (x ≤ 3)) &&
  decide (e.chSize.length = 4) && e.chSize.all (fun x => [0, 8, 16, 32].contains x) &&
  decide (e.rungOk.length = 4) && e.rungOk.all (fun l => decide (l.length = 3)) &&
  decide (e.quadRate.length = 8) && e.quadRate.all (fun l => decide (l.length = 4)) &&
  decide (e.endMs.length = 11) && decide (e.keepCode ≤ 5)

/-- The check that a command fails, if any. -/
def Instr.illFormed : Instr → Option IllFormed
  | .powerOnReset _ e | .systemReset e | .resetGlitch _ _ _ e | .watchdogExpiry e | .mcLockstepFault e =>
    if e.wf then none else some .start
  | .registerWrite _ a l | .reservedWrite _ a l =>
    if ¬ dwordOffset a then some .address else if l.isEmpty ∨ 128 < l.length then some .dwords else none
  | .groupKeyWrite _ a _ | .draftWrite _ a _ => if dwordOffset a then none else some .address
  | .bar2Read _ off n => if n = 0 ∨ 4096 < n ∨ 2 ^ 37 ≤ off then some .bar2 else none
  | .bar2Write _ off l _ => if l.isEmpty ∨ 512 < l.length ∨ 2 ^ 37 ≤ off then some .bar2 else none
  | .read m | .write m | .readSeg m | .writeSeg m | .txBegin m | .txCommit m | .txRollback m | .undefinedOpcode m =>
    if 65535 < m.len ∨ 65535 < m.data.length then some .message else none
  | .csiLongPacket _ _ dt l _ => if dt.toNat < 0x10 ∨ 65535 < l.length then some .packet else none
  | .csiShortIgnored _ _ dt => if dt.toNat < 2 ∨ 0x10 ≤ dt.toNat then some .packet else none
  | .eccCorrectable _ b _ | .eccUncorrectable _ b _ _ _ | .patrolScrub _ b _ => if 2 ^ 31 ≤ b then some .burst else none
  | .sensorSample l => if l.length = 12 then none else some .sensors
  | .diagResponse _ l => if l.length = 16 then none else some .mac
  | .jtagInstruction (.response l) => if l.length = 16 then none else some .mac
  | .auxComplete _ _ _ _ l => if 16 < l.length then some .aux else none
  | .stageCopyDone _ k _ | .stageCopyFail _ k _ _ => if 4 ≤ k then some .queue else none
  | .send _ n => if 8192 ≤ n then some .send else none
  | .segmentLineReceived _ _ _ (.header w h d _) => if 65536 ≤ w ∨ 65536 ≤ h ∨ 256 ≤ d then some .segment else none
  | .segmentLineReceived _ _ _ (.line y l) => if 65536 ≤ y ∨ 65536 ≤ l.length then some .segment else none
  | _ => none

/-- A command is well-formed when it fails no check. -/
def Instr.wf (i : Instr) : Bool := i.illFormed.isNone

end Sys2Proof
end

