-- ==== Sys2Proof/Tests/Slice0.lean ====
section
/-! SUPPORT. Small states, the refusals of the well-formedness checks, states that meet the hypotheses of the statements, and single
steps whose expected results are taken from the spec. -/

set_option Elab.async false

namespace Sys2Proof.Tests

open Sys2Proof Sys2Proof.Machine

/-! ### Small states -/

/-- A device that runs, with every register at its reset value. -/
def on : State := { State.reset with power := .on }

/-- A physical function, a virtual one, the other endpoint's physical function, and a node. -/
def pf : Source := .fn 0
def vf : Source := .fn 1
def pf1 : Source := .fn 16
def node : Source := .node 3

/-- That device with the virtual functions of both endpoints enabled. -/
def hosted : State := { on with hl := { on.hl with vfEnable := 3 } }

/-- A raster of 96 × 16 with 64 × 8 active, 3 ticks to a pair: 144 ticks a line, 2,304 a frame. -/
def raster : Raster :=
  { hTiming := 0x00600040#32, hSync := 0x00020040#32, vTiming := 0x00100008#32, vSync := 0x00010008#32, pairDiv := 0x03000000#32 }

/-- Head 0 with that raster applied, anchored at tick 1,000. -/
def timed (s : State) : State :=
  (((((s.setReg (rg .dhHTiming 0) raster.hTiming).setReg (rg .dhHSync 0) raster.hSync).setReg (rg .dhVTiming 0) raster.vTiming).setReg
    (rg .dhVSync 0) raster.vSync).setReg (rg .dhPairDiv 0) raster.pairDiv).setHead 0
      { s.head 0 with timingApplied := true, raster := raster, anchor := 1000 }

/-- Head 0 as it scans. -/
def scan (s : State) : State := (timed s).setHead 0 { (timed s).head 0 with phase := .running, selected := true, anchored := true, firstLatch := true }

/-- A lantern with one word at PC 0, running. -/
def prog (l : Nat) (w : Word) (s : State) : State := (s.setReg (rg .laProg l 0) w).setLantern l { state := .running, len := 1 }

/-- A state in which a lantern issues a word. -/
theorem issues_of (s : State) (l op : Nat) (w : Word)
    (h : s.power = .on ∧ lanternClocked s l = true ∧ (s.lantern l).state = .running ∧ (s.lantern l).startDue = false ∧ lanternWord s l = w ∧ opOf w = op ∧
      illegalWord l w = false ∧ (s.lantern l).issued < budgetOf s l) : Issues s l op w :=
  ⟨h.1, h.2.1, h.2.2.1, h.2.2.2.1, h.2.2.2.2.1, h.2.2.2.2.2.1, h.2.2.2.2.2.2.1, h.2.2.2.2.2.2.2⟩

/-! ### States that meet the hypotheses of the statements -/

theorem witness_HeadsEnableAndDisable :
    (Served (timed on) pf ∧ mayConfigure (timed on) pf = true ∧ shedRefuses (timed on) 0 = false ∧ blockBusy (timed on) (.head 0) = false ∧
      ((timed on).head 0).phase = .disabled ∧ ((timed on).head 0).timingApplied = true) ∧
    (Served on pf ∧ mayConfigure on pf = true ∧ shedRefuses on 0 = false ∧ blockBusy on (.head 0) = false ∧ (on.head 0).phase = .disabled ∧
      (on.head 0).timingApplied = false) ∧
    (Served (scan on) .mc ∧ mayConfigure (scan on) .mc = true ∧ (0#3).toNat = ((scan on).head 0).pg ∧ (0#3).toNat < 5 ∧ blockBusy (scan on) (.head 0) = false ∧
      ((scan on).head 0).phase = .running ∧ shedRefuses (scan on) 0 = false) := by decide +kernel

/-- A head in the middle of a frame, one at its latch line, and one at the end of its frame. -/
def atLatch : State := (scan on).setHead 0 { (scan on).head 0 with line := 8, opened := true }
def atEnd : State := (scan on).setHead 0 { (scan on).head 0 with line := 15, latched := true, opened := true }

theorem witness_HeadsScan :
    ((on.setHead 0 { phase := .waiting 7 }).power = .on ∧ ((on.setHead 0 { phase := .waiting 7 }).head 0).phase = .waiting 7) ∧
    ((on.setHead 0 { phase := .running, selected := false }).power = .on ∧
      ((on.setHead 0 { phase := .running, selected := false }).head 0).phase = .running ∧
      ((on.setHead 0 { phase := .running, selected := false }).head 0).latched = false ∧
      ((on.setHead 0 { phase := .running, selected := false }).head 0).selected = false) ∧
    ((on.setHead 0 { phase := .waiting 7 }).head 0).selected = false ∧
    ((scan on).power = .on ∧ ((scan on).head 0).phase = .running ∧ (((scan on).head 0).opened = true → mayAdvance (scan on) 0 = true)) ∧
    (atLatch.power = .on ∧ (atLatch.head 0).phase = .running ∧ (atLatch.head 0).latched = false ∧ (atLatch.head 0).line = latchAt atLatch 0) := by
  decide +kernel

theorem witness_FramesEnd :
    (atEnd.power = .on ∧ (atEnd.head 0).pg = 0 ∧ atFrameEnd atEnd 0 = true ∧ (atEnd.head 0).stopReq = false) ∧
    ((atEnd.setHead 0 { atEnd.head 0 with stopReq := true }).power = .on ∧
      atFrameEnd (atEnd.setHead 0 { atEnd.head 0 with stopReq := true }) 0 = true ∧
      ((atEnd.setHead 0 { atEnd.head 0 with stopReq := true }).head 0).stopReq = true) := by decide +kernel

/-- Group 1 with head 0 as its leader and member, and REF 2. -/
def grouped : State := (((scan on).setReg (rg .btPgCtrl 0) 0x2#32).setHead 0 { (scan on).head 0 with pg := 1 }).setPgroup 0 { lead := some (0, raster) }

/-- Head 1 as a member that is still in the frame before the group's. -/
def early : State := (grouped.setHead 0 { grouped.head 0 with anchor := 5000 }).setHead 1 { grouped.head 0 with anchor := 1000 }

theorem witness_GenlockEvents :
    on.power = .on ∧
    (({ on with casc := { on.casc with role := 2, state := .joined } }.setReg (rg .btPgCtrl 3) 0x4#32).casc.role = 2 ∧
      refOf ({ on with casc := { on.casc with role := 2, state := .joined } }.setReg (rg .btPgCtrl 3) 0x4#32) 3 = 4) ∧
    (grouped.power = .on ∧ groupPeriod grouped 0 = some 2304 ∧ refOf grouped 0 ≠ 0 ∧ (grouped.pgroup 0).state ≠ .holdover) := by
  decide +kernel

theorem witness_SlewIsBounded :
    (grouped.power = .on ∧ groupPeriod grouped 0 = some 2304 ∧ refOf grouped 0 ≠ 0 ∧ (grouped.head (leaderOf grouped 0)).phase = .running ∧
      (grouped.pgroup 0).event = none) ∧
    (decisionTick (grouped.setPgroup 0 { grouped.pgroup 0 with event := some 2000 }) 0 (grouped.head 0).anchor ≤ 2000 + 3 * 2304 / 2) ∧
    (0 ∈ members grouped 0 ∧ frameInGroup grouped 0 (grouped.head 0).anchor 2304 = 0) ∧
    (1 ∈ members early 0 ∧ frameInGroup early 1 (early.head (leaderOf early 0)).anchor 2304 < 0) := by decide +kernel

theorem witness_LanternArithmetic :
    Issues (prog 16 0x1001FFFF#32 on) 16 0x04 0x1001FFFF#32 ∧ Issues (prog 19 0x14008000#32 on) 19 0x05 0x14008000#32 ∧
    Issues (prog 0 0x18F0FFFF#32 (scan on)) 0 0x06 0x18F0FFFF#32 ∧ Issues (prog 16 0x1FFE0000#32 on) 16 0x07 0x1FFE0000#32 ∧
    ((prog 16 0x1001FFFF#32 on).lantern 16).pc < 511 :=
  ⟨issues_of _ _ _ _ (by decide +kernel), issues_of _ _ _ _ (by decide +kernel), issues_of _ _ _ _ (by decide +kernel),
    issues_of _ _ _ _ (by decide +kernel), by decide +kernel⟩

theorem witness_LanternControl :
    Issues (prog 16 0x00000000#32 on) 16 0x00 0x00000000#32 ∧ Issues (prog 16 0x04000000#32 on) 16 0x01 0x04000000#32 ∧
    Issues (prog 16 0x207AFFFF#32 on) 16 0x08 0x207AFFFF#32 ∧ Issues (prog 16 0x320001FF#32 on) 16 0x0C 0x320001FF#32 ∧
    Issues (prog 16 0x34000000#32 on) 16 0x0D 0x34000000#32 ∧
    (((prog 16 0x320001FF#32 on).lantern 16).flag ≠ (0x320001FF#32).getLsbD 25 → ((prog 16 0x320001FF#32 on).lantern 16).pc < 511) :=
  ⟨issues_of _ _ _ _ (by decide +kernel), issues_of _ _ _ _ (by decide +kernel), issues_of _ _ _ _ (by decide +kernel),
    issues_of _ _ _ _ (by decide +kernel), issues_of _ _ _ _ (by decide +kernel), by decide +kernel⟩

/-- Lantern 0 of a head that scans, with a word, and lantern 0 as it waits. -/
def p0 (w : Word) : State := prog 0 w (scan on)
def waits (w : LWait) (hit : Option Nat) : State := (scan on).setLantern 0 { state := .waiting, wait := some w, hit := hit }

/-- Head 0 shed and stopped: its lantern has no clock. -/
def shedOne : State := { on with therm := { on.therm with shed := 1 } }

theorem witness_LanternWaits :
    (Issues (p0 0x4000000F#32) 0 0x10 0x4000000F#32 ∧ waitOperand (p0 0x4000000F#32) 0 0x4000000F#32 < (appliedRaster (p0 0x4000000F#32) 0).vTotal) ∧
    (Issues (prog 16 0x40002000#32 on) 16 0x10 0x40002000#32 ∧ waitOperand (prog 16 0x40002000#32 on) 16 0x40002000#32 ≤ 8192) ∧
    (Issues (p0 0x4400005F#32) 0 0x11 0x4400005F#32 ∧ waitOperand (p0 0x4400005F#32) 0 0x4400005F#32 < (appliedRaster (p0 0x4400005F#32) 0).hTotal ∧
      ((p0 0x4400005F#32).head 0).phase = .running ∧ ((p0 0x4400005F#32).lantern 0).pc < 511) ∧
    (Issues (p0 0x44000060#32) 0 0x11 0x44000060#32 ∧ (appliedRaster (p0 0x44000060#32) 0).hTotal ≤ waitOperand (p0 0x44000060#32) 0 0x44000060#32) ∧
    ((prog 16 0x44000000#32 on).power = .on ∧ opOf (lanternWord (prog 16 0x44000000#32 on) 16) = 0x11 ∧
      ((prog 16 0x44000000#32 on).lantern 16).issued < budgetOf (prog 16 0x44000000#32 on) 16) ∧
    Issues (prog 16 0x687003FF#32 on) 16 0x1A 0x687003FF#32 ∧
    (lanternClocked (waits (.line 3) (some 1432)) 0 = true ∧ ((waits (.line 3) (some 1432)).lantern 0).pc < 511 ∧
      ((waits (.line 3) (some 1432)).lantern 0).wait = some (.line 3) ∧ ((waits (.line 3) (some 1432)).lantern 0).hit = some 1432) ∧
    (lanternClocked (waits (.pixel 4) (some 1006)) 0 = true ∧ ((waits (.pixel 4) (some 1006)).lantern 0).wait = some (.pixel 4) ∧ ((waits (.pixel 4) (some 1006)).lantern 0).hit = some 1006) ∧
    (lanternClocked (waits (.fence 0 1 0) none) 0 = true ∧ ((waits (.fence 0 1 0) none).lantern 0).wait = some (.fence 0 1 0) ∧ countsLines (waits (.fence 0 1 0) none) 0 = true) ∧
    ((waits (.fence 0 1 5) (some 9)).lantern 0).hit = some 9 ∧ (on.power = .on ∧ lanternClocked shedOne 0 = false) :=
  ⟨⟨issues_of _ _ _ _ (by decide +kernel), by decide +kernel⟩, ⟨issues_of _ _ _ _ (by decide +kernel), by decide +kernel⟩,
    ⟨issues_of _ _ _ _ (by decide +kernel), by decide +kernel⟩, ⟨issues_of _ _ _ _ (by decide +kernel), by decide +kernel⟩,
    by decide +kernel, issues_of _ _ _ _ (by decide +kernel), by decide +kernel, by decide +kernel, by decide +kernel, by decide +kernel,
    by decide +kernel⟩

theorem witness_LanternFencesAndScan :
    Issues (prog 16 0x647003FF#32 on) 16 0x19 0x647003FF#32 ∧ Issues (prog 16 0x6C000000#32 on) 16 0x1B 0x6C000000#32 ∧
    Issues (prog 16 0x70000007#32 on) 16 0x1C 0x70000007#32 ∧ cvIdle (prog 16 0x70000007#32 on) 7 = true ∧
    fenceOwner (prog 16 0x647003FF#32 on) 1023 = 0xFF ∧
    fenceOwner ((prog 16 0x647003FF#32 on).setReg (rg .faFenceCfg 1023) 0) 1023 ≠ 0xFF :=
  ⟨issues_of _ _ _ _ (by decide +kernel), issues_of _ _ _ _ (by decide +kernel), issues_of _ _ _ _ (by decide +kernel), by decide +kernel,
    by decide +kernel, by decide +kernel⟩

theorem witness_LanternLatchStampIrq :
    (Issues (p0 0x60000000#32) 0 0x18 0x60000000#32 ∧ ((p0 0x60000000#32).head 0).phase = .running ∧
      ((p0 0x60000000#32).head 0).latched = false ∧ ((p0 0x60000000#32).head 0).early = none ∧
      max (((p0 0x60000000#32).head 0).line + 1) ((p0 0x60000000#32).head 0).raster.vActive ≤ latchAt (p0 0x60000000#32) 0) ∧
    Issues (prog 16 0x74030000#32 on) 16 0x1D 0x74030000#32 ∧
    (Issues (prog 16 0x780001FF#32 on) 16 0x1E 0x780001FF#32 ∧ 449 ≤ fld 0x780001FF#32 0 9) ∧
    (Issues (p0 0x78000002#32) 0 0x1E 0x78000002#32 ∧ fld 0x78000002#32 0 9 = 2 + 4 * 0) :=
  ⟨⟨issues_of _ _ _ _ (by decide +kernel), by decide +kernel⟩, issues_of _ _ _ _ (by decide +kernel),
    ⟨issues_of _ _ _ _ (by decide +kernel), by decide +kernel⟩, ⟨issues_of _ _ _ _ (by decide +kernel), by decide +kernel⟩⟩

theorem witness_LanternSync :
    Issues (prog 16 0x7C0000FF#32 on) 16 0x1F 0x7C0000FF#32 ∧
    Issues (prog 16 0x7C0000FF#32 { on with casc := { on.casc with role := 1 } }) 16 0x1F 0x7C0000FF#32 ∧
    Issues (prog 16 0x7C0000FF#32 { on with casc := { on.casc with role := 2 } }) 16 0x1F 0x7C0000FF#32 ∧
    (lanternClocked (waits (.sync 5 0) none) 0 = true ∧ ((waits (.sync 5 0) none).lantern 0).wait = some (.sync 5 0) ∧ ((waits (.sync 5 0) none).lantern 0).pc < 511) ∧
    ((waits (.sync 5 64) none).lantern 0).wait = some (.sync 5 64) :=
  ⟨issues_of _ _ _ _ (by decide +kernel), issues_of _ _ _ _ (by decide +kernel), issues_of _ _ _ _ (by decide +kernel), by decide +kernel,
    by decide +kernel⟩

/-- A FLARE word, with the register that it reads, and a bank with an entry. -/
def flare (w lg0 : Word) (tick : Nat) : State :=
  (prog 16 w { on with tick := tick }).setLantern 16 { (prog 16 w { on with tick := tick }).lantern 16 with lg := [(0, lg0)] }
def banked (e : FlareEntry) : State := { on with flares := { bank := [(16, [e])] } }

theorem witness_FlareEntries :
    (Issues (flare 0x50000000#32 1 0) 16 0x14 0x50000000#32 ∧ (bankOf (flare 0x50000000#32 1 0) 16).length < 8 ∧
      ((flare 0x50000000#32 1 0).tick : Int) ≤ ((flare 0x50000000#32 1 0).lantern 16).mark.toNat + ((0x50000000#32).setWidth 18).toInt) ∧
    (Issues (flare 0x52000000#32 1 0) 16 0x14 0x52000000#32 ∧ fld 0x52000000#32 24 2 = 2 ∧ lg (flare 0x52000000#32 1 0) 16 (fld 0x52000000#32 18 3) ≠ 0) ∧
    (Issues (flare 0x53000000#32 0x200001FF#32 0) 16 0x14 0x53000000#32 ∧ fld 0x53000000#32 24 2 = 3 ∧
      fld (lg (flare 0x53000000#32 0x200001FF#32 0) 16 (fld 0x53000000#32 21 3)) 28 4 = 2 ∧
      permittedSource 16 (fld (lg (flare 0x53000000#32 0x200001FF#32 0) 16 (fld 0x53000000#32 21 3)) 0 9) = true) ∧
    (Issues (flare 0x5103FFFF#32 1 1) 16 0x14 0x5103FFFF#32 ∧
      (((flare 0x5103FFFF#32 1 1).lantern 16).mark.toNat + ((0x5103FFFF#32).setWidth 18).toInt).toNat < (flare 0x5103FFFF#32 1 1).tick ∧
      bit ((flare 0x5103FFFF#32 1 1).reg (rg .btLateFire)) 16 = false) ∧
    (firstEntry (bankOf (banked { target := 5, act := .set, mask := 1, order := 0 }) 16) =
      some { target := 5, act := .set, mask := 1, order := 0 }) ∧
    firstEntry (bankOf (banked { target := 5, act := .pulse 3, mask := 1, order := 0, fall := true }) 16) =
      some { target := 5, act := .pulse 3, mask := 1, order := 0, fall := true } ∧
    (1#32 &&& ownedPins ((banked { target := 5, act := .set, mask := 1, order := 0 }).setReg (rg .btFlareOwner 0) 16) 16).getLsbD 0 = true :=
  ⟨⟨issues_of _ _ _ _ (by decide +kernel), by decide +kernel⟩, ⟨issues_of _ _ _ _ (by decide +kernel), by decide +kernel⟩,
    ⟨issues_of _ _ _ _ (by decide +kernel), by decide +kernel⟩, ⟨issues_of _ _ _ _ (by decide +kernel), by decide +kernel⟩, by decide +kernel,
    by decide +kernel, by decide +kernel⟩

theorem witness_LanternStartStop :
    Served (scan on) .mc ∧ mayConfigure (scan on) .mc = true ∧ blockBusy (scan on) (blockOfReg (rg .laLctrl 0)) = false ∧
    ((scan on).lantern 0).image = false ∧ ((scan on).lantern 0).state = .halted ∧
    (512#10).toNat ≤ 512 ∧ (511#9).toNat < (512#10).toNat ∧
    decodeFailure 0 1 (lanternRaster (scan on) 0).vTotal (lanternRaster (scan on) 0).hTotal (programOf (scan on) 0 1) = none := by
  decide +kernel

/-- Lantern 16 past its program's end, on an undefined word, and lantern 0 beyond its budget of 32. -/
theorem witness_LanternFaults :
    (∀ l, l < 20 → lanternClocked on l = true) ∧
    (opOf (lanternWord ((prog 16 0 (on.setReg (rg .laProg 16 511) 0x04000000#32)).setLantern 16 { state := .running, pc := 511 }) 16) = 0x01 ∧
      illegalWord 16 0x04000000#32 = false ∧
      0 < budgetOf ((prog 16 0 (on.setReg (rg .laProg 16 511) 0x04000000#32)).setLantern 16 { state := .running, pc := 511 }) 16) ∧
    (opOf (lanternWord (prog 16 0x04000001#32 on) 16) = 0x01 ∧ illegalWord 16 0x04000001#32 = true ∧
      ((prog 16 0x04000001#32 on).lantern 16).issued < budgetOf (prog 16 0x04000001#32 on) 16) ∧
    (opOf (lanternWord ((p0 0x04000000#32).setLantern 0 { state := .running, len := 1, issued := 32 }) 0) = 0x01 ∧
      countsLines ((p0 0x04000000#32).setLantern 0 { state := .running, len := 1, issued := 32 }) 0 = true ∧
      budgetOf ((p0 0x04000000#32).setLantern 0 { state := .running, len := 1, issued := 32 }) 0 ≤ 32) := by decide +kernel

/-! ### Schedule banks, memory and surface ports -/

/-- A device whose channel 0 has 8 GiB. -/
def fitted : State := { on with fabric := { channels := [(0, { sizeGib := 8, rate := 8533 })] } }

/-- A load of an empty record, one into a bank that is LIVE, and a bank that holds an image. -/
def loading (busy : Bool) : State :=
  { on with sched := { load := some { bank := 2, record := [], busy := busy, before := .empty } } }
def resident : State := { on with sched := { banks := [(3, { state := .resident, image := some {} })] } }

theorem witness_BanksLoadAndUnload :
    (Served on .mc ∧ mayConfigure on .mc = true ∧ on.sched.load = none) ∧
    (Served resident pf ∧ mayConfigure resident pf = true ∧ resident.sched.load = none ∧ (resident.bank 3).state = .resident ∧
      spireHolds resident 3 = false) ∧
    (Served resident pf ∧ (resident.bank 1).state ≠ .resident) ∧
    ((loading false).power = .on ∧ (loading false).sched.load = some { bank := 2, record := [], busy := false, before := .empty } ∧
      (judgeRecord (loading false) 0 []).2 = none) ∧
    ((loading true).power = .on ∧ (loading true).sched.load = some { bank := 2, record := [], busy := true, before := .empty }) := by
  decide +kernel

/-- A channel with a burst to write back, and one with a burst that reads as uncorrectable; the last burst that it gives to data. -/
def writeback : State := { fitted with fabric := { fitted.fabric with writeback := [7] } }
def damaged : State := { fitted with fabric := { fitted.fabric with poison := [117440511] } }

theorem witness_EccEvents :
    (fitted.power = .on ∧ absentDpa fitted (117440511 * 64) = false ∧ chanOf (117440511 * 64) = 0) ∧
    ((fitted.setReg (rg .mfEccThresh 0) 1).power = .on ∧ absentDpa (fitted.setReg (rg .mfEccThresh 0) 1) 0 = false ∧ chanOf 0 = 0 ∧
      fld ((fitted.setReg (rg .mfEccThresh 0) 1).reg (rg .mfEccThresh 0)) 0 16 =
        fld ((fitted.setReg (rg .mfEccThresh 0) 1).reg (rg .mfEccCount 0)) 0 16 + 1) ∧
    (writeback.power = .on ∧ writeback.fabric.writeback.find? (fun b => chanOf (b * 64) = 0) = some 7) ∧
    (damaged.power = .on ∧ absentDpa damaged (117440511 * 64) = false ∧ burstBad damaged 117440511 = true) ∧
    (absentDpa fitted (117440512 * 64) = true ∧ chanOf (117440512 * 64) = 0) ∧ chanOf (0 * 64) ≠ 3 := by decide +kernel

/-- A pin that waits for its walk, a pinned page in context 5, a cached page in context 0, and a re-walk. -/
def askedPin : Pin := { use := .direct 0, ctx := 5, base := 0, len := 4096, state := .pending, pages := [], shadow := [] }
def rewalking : State :=
  { fitted with fabric := { fitted.fabric with
      pins := [askedPin, { askedPin with state := .done, pages := [{ va := 0, size := 65536, dpa := some 0 }] }],
      rewalks := [{ ctx := 5, va := 0, size := 65536 }] } }
def cachedPage : Page := { va := 0, size := 4096, dpa := some 64, write := true }
def caching : State := { fitted with fabric := { fitted.fabric with tlb := [{ ctx := 0, channel := 0, page := cachedPage }] } }

theorem witness_PinsAndInvalidation :
    (rewalking.power = .on ∧ rewalking.fabric.pins[0]? = some askedPin ∧ askedPin.state = .pending) ∧
    (Served caching pf ∧ mayConfigure caching pf = true ∧ caching.fabric.rewalks = []) ∧
    (Served rewalking pf ∧ mayConfigure rewalking pf = true ∧ rewalking.fabric.rewalks ≠ []) ∧
    rewalking.fabric.rewalks[0]? = some { ctx := 5, va := 0, size := 65536 } ∧
    (fitted.channel 0).reason = 0 ∧
    ({ fitted with fabric := { channels := [(1, { reason := 1 })] } : State }.channel 1).reason ≠ 0 := by decide +kernel

theorem witness_Bar2Accesses :
    (caching.power = .on ∧ bar2Outside caching 0 4095 1 = false ∧ bar2Va caching (endpointOf 0) 4095 % 4096 + 1 ≤ 4096 ∧
      cached caching (bar2Ctx caching (endpointOf 0)) (bar2Va caching (endpointOf 0) 4095) = some cachedPage ∧
      cachedPage.write = true ∧ cachedPage.mirror = false ∧ pageDpa cachedPage (bar2Va caching (endpointOf 0) 4095) = some 4159 ∧
      inKeepWin caching 4159 = false ∧ rangeBad caching 4159 1 = false) ∧
    (bar2Outside caching 16 (2 ^ 34 - 4) 4 = false) ∧ bar2Outside caching 16 (2 ^ 34 - 4) 5 = true ∧ bar2Outside caching 1 0 4 = true := by
  decide +kernel

/-- A device whose virtual functions of endpoint 0 are enabled. -/
def guests : State := { fitted with hl := { fitted.hl with vfEnable := 1 } }

/-- Port 0 opened for function 0 with slot 0, whose BIND is set. -/
def opened : State := (guests.setReg (rg .faCtrl 0) 1).setReg (rg .faPortCfg 0) 0x80000000#32

theorem witness_DoorbellsQueue :
    (Served opened pf ∧ mayUsePort opened 0 0 = true ∧ queueResult opened 0 false = 0) ∧
    (Served opened pf ∧ mayUsePort opened 0 767 = false) ∧ Served opened vf ∧ ( mayUsePort opened 1 0 = false) ∧
    (mayUsePort (fitted.setReg (rg .faPortCfg 767) 0x80000001#32) 1 767 = true ∧
      queueResult (fitted.setReg (rg .faPortCfg 767) 0x80000001#32) 767 true ≠ 0) := by decide +kernel

/-- Function 0 owns fence 1023, which the port's FENCE names. -/
def fenced : State := (opened.setReg (rg .faFenceCfg 1023) 0).setReg (rg .ppFence 0) 1023#32

theorem witness_DoorbellsSignalAndCancel :
    (Served fenced pf ∧ mayUsePort fenced 0 0 = true ∧ bit (fenced.reg (rg .ppFence 0)) 31 = false ∧
      fenceOwner fenced (fld (fenced.reg (rg .ppFence 0)) 0 10) = 0) ∧
    (mayUsePort opened 0 0 = true ∧ fenceOwner opened (fld (opened.reg (rg .ppFence 0)) 0 10) ≠ 0) ∧
    (0#4 = 0 ∨ 5 ≤ (0#4).toNat) ∧ (5#4 = 0 ∨ 5 ≤ (5#4).toNat) := by decide +kernel

/-- A queue entry whose copy runs, third in the queue of slot 95. -/
def copy : Stage := { host := 0, hostPitch := 64, pitch := 64, lineBytes := 64, first := 0, count := 1, fn := 0, begun := true }
def staged : QEntry :=
  { seq := 3, port := 0, ctx := 0, buf := 0, plane1 := 0, fence := 0, fenceVal := 0, tag := 0, stage := some copy }
def copying : State :=
  fitted.setLayer 95 { queue := [{ staged with seq := 1, stage := none }, { staged with seq := 2, stage := none }, staged] }

theorem witness_StageCopiesEnd :
    (copying.power = .on ∧ runningCopy copying 95 2 = some (staged, copy)) ∧ (1#4 ≠ 0 ∧ (1#4).toNat ≤ 5) ∧
    (5#4 ≠ 0 ∧ (5#4).toNat ≤ 5) ∧ runningCopy copying 95 1 = none ∧ runningCopy copying 0 0 = none := by decide +kernel

/-- The same entry before the engine has begun its copy. -/
def toServe : State := fitted.setLayer 95 { queue := [{ staged with stage := some { copy with begun := false } }] }

theorem witness_StageCopiesServed :
    (runningCopy toServe 95 0).isSome = true ∧ (∀ x ∈ pendingCopies toServe, x.2.2.begun = false) ∧ (pendingCopies toServe).length = 1 := by
  decide +kernel

/-! ### Keep path, check values and interrupts -/

/-- Head 0 scans with keep region 3 enabled over its first tile, and with a mismatching tile captured. -/
def keeping : State := ((scan on).setReg (rg .scKrCtrl 0 3) 1).setReg (rg .scKrRect1 0 3) 0x00040010#32
def captured : State :=
  { keeping with keep := { keeping.keep with heads := [(0, { tileValid := true, tiles := [(5, 5)] })] } }

theorem witness_KeepFaultsEnter :
    (keeping.power = .on ∧ isRunning keeping 0 = true ∧ regionAt keeping 0 (16 * 0) (4 * 0) = some 3 ∧
      (keeping.keepHead 0).tileValid = false) ∧
    ((captured.keepHead 0).tileValid = true ∧ (captured.keepHead 0).tiles.contains (0, 0) = false ∧
      regionAt captured 0 0 0 = some 3) ∧
    regionAt keeping 0 15 3 = some 3 ∧ isRunning keeping 15 = false ∧ regionAt keeping 0 16 0 = none ∧
    ((0 : Nat) ∈ clockHeads keeping (.head 0) ∧ (3 : Nat) ∈ keepRegions keeping 0 ∧ (1 : Nat) ∉ clockHeads keeping (.head 0)) ∧
    ({ keeping with keep := { keeping.keep with heads := [(0, { fault := 8 })] } : State }.keepHead 0).fault.getLsbD 3 = true := by
  decide +kernel

/-- Head 0 in its vertical blanking, with slot 88 bound to it by the image in force and a test line due. -/
def testing : State :=
  { keeping.setHead 0 { keeping.head 0 with line := 8 } with
    sched := { banks := [(0, { state := .live, image := some { assign := List.replicate 88 {} ++ [{ head := 0, env := 0 }] } })] }
    keep := { keeping.keep with available := true, owner := 0, heads := [(0, { selfFrames := 255 })] } }

theorem witness_KeepTestsAndClears :
    (testing.power = .on ∧ selftestDue testing 0 = true ∧ (3 : Nat) ∈ keepRegions testing 0) ∧ selftestDue testing 1 = false ∧
    (Served testing pf ∧ carriesSafety testing pf = true) ∧ (Served testing pf1 ∧ carriesSafety testing pf1 = false) := by
  decide +kernel

/-- Unit 6 with a program of one LINEAR descriptor at entry 63, and with one of a kind that is not defined. -/
def cvReady (cfg : Word) : State := (caching.setReg (rg .cvCfg 6 63) cfg).setReg (rg .cvLength 6 63) 16
def cvBusy (cfg : Word) (va : Word) : State :=
  { (cvReady cfg).setReg (rg .cvAddrLo 6 63) va with cv := [(6, { busy := true, entry := 63 })] }

theorem witness_CheckValuesStart :
    (Served (cvReady 0x82000000#32) pf ∧ mayScan (cvReady 0x82000000#32) pf = true ∧ (63#32).getLsbD 30 = false ∧
      cvIdle (cvReady 0x82000000#32) 6 = true ∧ firstBad none (cvProgram (cvReady 0x82000000#32) 6 (fld 63#32 0 6)) = none) ∧
    (cvIdle (cvReady 0xB0000000#32) 6 = true ∧ firstBad none (cvProgram (cvReady 0xB0000000#32) 6 (fld 0x23F#32 0 6)) = some 63 ∧
      (0x23F#32).getLsbD 9 = true) ∧
    (Served (cvBusy 0x82000000#32 0) .mc ∧ mayScan (cvBusy 0x82000000#32 0) .mc = true ∧
      mcHoldsUnit (cvBusy 0x82000000#32 0) 6 = false ∧ ((cvBusy 0x82000000#32 0).cvUnit 6).busy = true ∧ (0x200#32).getLsbD 9 = true) ∧
    (mcHoldsUnit on 7 = false ∧ (on.cvUnit 7).busy = false) := by decide +kernel

/-- A run that ends well, with the one descriptor read whole, and one whose range is not mapped. -/
theorem witness_CheckValuesEnd :
    ((cvBusy 0x82000000#32 0).power = .on ∧ ((cvBusy 0x82000000#32 0).cvUnit 6).busy = true ∧
      (runDescs 6 (cvProgram (cvBusy 0x82000000#32 0) 6 63) {} (cvBusy 0x82000000#32 0)).2.toOption.isSome = true ∧
      cvProgram (cvBusy 0x82000000#32 0) 6 63 = [(63, cvDesc (cvBusy 0x82000000#32 0) 6 63)] ∧
      (cvDesc (cvBusy 0x82000000#32 0) 6 63).kind = 0 ∧ (cvDesc (cvBusy 0x82000000#32 0) 6 63).cont = false ∧
      (cvDesc (cvBusy 0x82000000#32 0) 6 63).length ≠ 0 ∧ ((cvBusy 0x82000000#32 0).cvUnit 6).mismatch = false ∧
      (scanRange 6 0 0 16 (cvBusy 0x82000000#32 0)).2.toOption.isSome = true) ∧
    (((cvBusy 0x82000000#32 0x100000#32).cvUnit 6).busy = true ∧
      (runDescs 6 (cvProgram (cvBusy 0x82000000#32 0x100000#32) 6 63) {} (cvBusy 0x82000000#32 0x100000#32)).2.toOption.isSome = false) ∧
    (on.cvUnit 7).busy = false := by decide +kernel

/-- Target x with source 3 pending, open, of priority 15; and with sources on its claim stack. -/
def target (x : Nat) (t : Target) (s : State) : State := { s with ic := { s.ic with targets := [(x, t)] } }
def source3 : Target := { pend := 8, mask := 0, prio := [(3, 15)] }

theorem witness_ClaimsAndEnds :
    (Served (target 0 source3 on) pf ∧ 0 = targetOf (target 0 source3 on) pf false ∧
      bestSource (countBar0 pf 1 (target 0 source3 on)) 0 = 3 ∧ ((target 0 source3 on).target 0).stack.length < 8) ∧
    (Served on .mc ∧ 32 = targetOf on .mc true ∧ bestSource (countBar0 .mc 1 on) 32 = 0) ∧
    8 ≤ ((target 0 { source3 with stack := List.replicate 8 ⟨3, 15⟩ } on).target 0).stack.length ∧
    (Served (target 1 { stack := [⟨511, 15⟩, ⟨3, 1⟩] } hosted) vf ∧ 1 = targetOf (target 1 { stack := [⟨511, 15⟩, ⟨3, 1⟩] } hosted) vf true ∧
      mayTarget vf 1 = true ∧ ((target 1 { stack := [⟨511, 15⟩, ⟨3, 1⟩] } hosted).target 1).stack = ⟨511, 15⟩ :: [⟨3, 1⟩] ∧
      (511#9).toNat = 511) ∧
    (((target 1 { stack := [⟨511, 15⟩] } on).target 1).stack.map (·.source)).head? ≠ some (3#9).toNat ∧
    ((on.target 0).stack.map (·.source)).head? ≠ some (0#9).toNat := by decide +kernel

/-- Group 63 holds source 3 at target 0 with a TIME of 1 µs. -/
def holding : State :=
  { (target 0 { source3 with coal := [(3, 191)] } on).setReg (rg .icGcfg 63) 1#32 with
    ic := { targets := [(0, { source3 with coal := [(3, 191)] })], groups := [(63, { state := .holding })] } }

theorem witness_TargetWordsWritten :
    (Served hosted vf ∧ 1 = targetOf hosted vf true ∧ mayTarget vf 1 = true ∧ isPF 1 = false ∧
      (0 < 32 ∧ (1#32).getLsbD 0 = true ∧ 32 * 0 + 0 < 449) ∧ maySet vf (32 * 15 + 31) = true) ∧
    (Served on .mc ∧ 32 = targetOf on .mc false ∧ mayTarget .mc 32 = true ∧ maySet .mc 1 = true ∧ maySet .mc 0 = false) ∧
    (holding.power = .on ∧ 0 = fld (holding.reg (rg .icGcfg 63)) 24 6 ∧ (holding.cgroup 63).state = .holding ∧
      fld (holding.reg (rg .icGcfg 63)) 0 16 ≠ 0 ∧ sleeping holding 0 = false ∧
      ((3 : Nat) < 512 ∧ (holding.target 0).pend.getLsbD 3 = true ∧ coalGroup holding 0 3 = some 63)) ∧
    (on.cgroup 0).state ≠ .holding := by decide +kernel

/-! ### Register writes -/

/-- A plain write reaches a register. -/
theorem plain_of (s : State) (src : Source) (addr : Nat) (r : RegId) (v : Word)
    (h : decode s src (addr / 4 * 4) = .reg r ∧ r.name.row.posted = false ∧ portPage r = false ∧ ignoresWrites r = false ∧
      judgeWrite (countBar0 src 2 s) src false r v = none) : PlainWrite s src addr r v :=
  ⟨h.1, h.2.1, h.2.2.1, h.2.2.2.1, h.2.2.2.2⟩

/-- WO1 register MIRROR_OF written once, and a device whose configuration is locked. -/
def written : State := { on with wo1 := [(rg .mfMirrorOf).addr] }
def deviceLocked : State := { on with dict := { on.dict with deviceLock := true }, keep := { on.keep with owner := 0 } }


theorem witness_RegisterWritesTake :
    (Served on pf ∧ PlainWrite on pf (rg .pmEvtsel 15 7).addr (rg .pmEvtsel 15 7) 0xFFFF#32 ∧
      (rg .pmEvtsel 15 7).name.row.kind = .rw ∧ (rg .pmEvtsel 15 7).name ≠ .shCringCtrl) ∧
    (Served on .manager ∧ PlainWrite on .manager (rg .mfRootLo 63).addr (rg .mfRootLo 63) 1#32 ∧
      (rg .mfRootLo 63).name.row.kind = .mem .ctxRoot) ∧
    ((14#4) ≠ 15 ∧ decode on pf (rg .pmEvtsel 0 0).addr = .reg (rg .pmEvtsel 0 0)) ∧
    (Served on pf1 ∧ decode on pf1 (rg .scKrCtrl 0 0).addr = .reg (rg .scKrCtrl 0 0) ∧ (rg .scKrCtrl 0 0).name.row.kind ≠ .ro ∧
      portPage (rg .scKrCtrl 0 0) = false ∧ judgeWrite (countBar0 pf1 2 on) pf1 false (rg .scKrCtrl 0 0) 1 = some (.cause 2)) ∧
    (decode written pf (rg .mfMirrorOf).addr = .reg (rg .mfMirrorOf) ∧ (rg .mfMirrorOf).name.row.kind ≠ .ro ∧
      judgeWrite (countBar0 pf 2 written) pf false (rg .mfMirrorOf) 1 = some .written) ∧
    judgeWrite (countBar0 pf 2 deviceLocked) pf false (rg .mcFaultnMask) 0 = some .locked ∧
    (Served hosted vf ∧ decode hosted vf (0xFFFFF / 4 * 4) = .reserved ∧ 0xFFFFF / 4 * 4 < barSize vf) ∧
    (decode on pf 0xFFFFFFC = .reserved ∧ 0xFFFFFFC < barSize pf) := by
  refine ⟨⟨by decide +kernel, plain_of _ _ _ _ _ (by decide +kernel), by decide +kernel⟩,
    ⟨by decide +kernel, plain_of _ _ _ _ _ (by decide +kernel), by decide +kernel⟩, ?_⟩
  decide +kernel

/-- ROOT_LO of context 63 held since tick 5. -/
def heldRoot : State := { on with held := [((rg .mfRootLo 63).addr, { value := 1, safety := false, since := 5 })] }

theorem witness_GroupKeysComplete :
    (Served heldRoot pf ∧ PlainWrite heldRoot pf (rg .mfRootHi 63).addr (rg .mfRootHi 63) 0x1F#32 ∧ (rg .mfRootHi 63).addr % 4 = 0 ∧
      (rg .mfRootHi 63).name.row.kind = .key .ctxRoot ∧ Grp.ctxRoot.draftable = false ∧ Grp.ctxRoot ≠ .ring ∧ Grp.ctxRoot ≠ .cring ∧
      rg .mfRootHi 63 = Grp.ctxRoot.keyOf (rg .mfRootHi 63).i (rg .mfRootHi 63).j) ∧
    (heldRoot.power = .on ∧ regAt (rg .mfRootHi 63).addr = some (rg .mfRootHi 63) ∧ heldSince heldRoot .ctxRoot 63 0 = some 5 ∧
      (rg .mfRootHi 63).addr ∉ heldRoot.pendGroups) := by
  refine ⟨⟨by decide +kernel, plain_of _ _ _ _ _ (by decide +kernel), by decide +kernel⟩, ?_⟩
  decide +kernel

/-- LATCH_LINE of head 15 written and not landed; FLARE_OE about to land. -/
def postedLine : State :=
  { on with posted := [{ block := .head 15, reg := rg .dhLatchLine 15, value := 0xFFFF, src := pf, safety := false }] }
def postedOe : State := { on with posted := [{ block := .bt, reg := rg .btFlareOe, value := 1, src := pf, safety := false }] }

theorem witness_PostedWritesLand :
    (Served on pf ∧ decode on pf (rg .dhLatchLine 15).addr = .reg (rg .dhLatchLine 15) ∧ (rg .dhLatchLine 15).name.row.kind ≠ .ro ∧
      (rg .dhLatchLine 15).name.row.posted = true ∧ portPage (rg .dhLatchLine 15) = false ∧
      judgeWrite on pf false (rg .dhLatchLine 15) 1 = none ∧ blockBusy on (blockOfReg (rg .dhLatchLine 15)) = false) ∧
    (Served postedLine pf ∧ judgeWrite postedLine pf false (rg .dhLatchLine 15) 1 = none ∧
      blockBusy postedLine (blockOfReg (rg .dhLatchLine 15)) = true ∧ judgeWrite postedLine .mc false (rg .dhLatchLine 15) 1 = none) ∧
    (postedOe.power = .on ∧
      postedOe.posted.filter (fun y => y.block = .bt) = [{ block := .bt, reg := rg .btFlareOe, value := 1, src := pf, safety := false }] ∧
      (rg .btFlareOe).name.row.kind = .rw ∧ (rg .btFlareOe).name ≠ .shCringCtrl ∧ ignoresWrites (rg .btFlareOe) = false) := by
  decide +kernel

/-- LANTERN_STOP and AUX_NATIVE_READ write LCTRL and AUX_CMD; the first is refused to a virtual function. -/
theorem witness_PostedCommands :
    (Served on pf ∧ postedWrite (.lanternStop pf 19 0 0) = some (pf, rg .laLctrl 19, lctrlWord false true 0 0) ∧
      judgeWrite on pf false (rg .laLctrl 19) (lctrlWord false true 0 0) = none ∧ blockBusy on (blockOfReg (rg .laLctrl 19)) = false) ∧
    (postedWrite (.auxNativeRead pf 7 3 15) = some (pf, rg .oqAuxCmd 7 3, auxWord 2 15) ∧
      judgeWrite on pf false (rg .oqAuxCmd 7 3) (auxWord 2 15) = none) ∧
    (Served hosted vf ∧ judgeWrite hosted vf false (rg .laLctrl 19) (lctrlWord false true 0 0) = some (.cause 2)) := by decide +kernel

theorem witness_PortPagesTake :
    (Served opened pf ∧ decode opened pf ((rg .ppTag 0).addr / 4 * 4) = .reg (rg .ppTag 0) ∧ portPage (rg .ppTag 0) = true ∧
      (rg .ppTag 0).name ≠ .ppDoorbell ∧ (rg .ppTag 0).name ≠ .ppStatus ∧ ownsPort opened pf 0 = true) ∧
    (decode opened pf ((rg .ppStatus 767).addr / 4 * 4) = .reg (rg .ppStatus 767) ∧ portPage (rg .ppStatus 767) = true ∧
      ownsPort opened pf 767 = false) := by decide +kernel

theorem witness_BadRequestsAreLogged :
    on.power = .on ∧ barBytes on 0 0 ≤ 2 ^ 28 ∧ barBytes on 1 0 ≤ 2 ^ 20 ∧ barBytes on 31 2 ≤ 0 ∧ barBytes on 16 2 ≤ 2 ^ 34 := by decide +kernel

/-! ### Camera ingress and output quads -/

/-- Port 17 receives; stream 191 takes its channel 15 and RAW8, with a ring of 8 lines of 64 bytes at 0, pinned whole. -/
def ringPin : Pin :=
  { use := .ring 191, ctx := 0, base := 0, len := 512, state := .done, shadow := []
    pages := [{ va := 0, size := 65536, dpa := some 0, write := true }] }
def receiving (x : Stream) : State :=
  let s := (((fitted.setReg (rg .siPctrl 17) 1).setReg (rg .siSctrl 191) 0x80110F2A#32).setReg (rg .siRingPitch 191) 64).setReg
    (rg .siRingGeom 191) 0x00080008#32
  { s with
    si := { ports := [(17, { lock := true })], streams := [(191, x)] }, fabric := { s.fabric with pins := [ringPin] } }

theorem witness_FramesStartAndEnd :
    ((receiving {}).power = .on ∧ receives (receiving {}) 17 = true ∧ matchesPort (receiving {}) 17 15 191 = true ∧
      (∀ x, x < 192 → matchesPort (receiving {}) 17 15 x = true → ((receiving {}).stream x).waiting = [])) ∧
    (receives (receiving { active := true }) 17 = true ∧ ((receiving { active := true }).stream 191).active = true ∧
      (∀ x, x < 192 → matchesPort (receiving { active := true }) 17 15 x = true → ((receiving { active := true }).stream x).waiting = [])) ∧
    receives (receiving {}) 0 = false := by decide +kernel

/-- In a frame that writes, at its last line of 8,192; and in one without a reservation. -/
def writing : State := receiving { active := true, writes := true, wp := 8191 }
def dropping : State := receiving { active := true }

theorem witness_LinesAreWritten :
    (writing.power = .on ∧ receives writing 17 = true ∧ takerOf writing 17 (15#4).toNat (0x2A#6).toNat = some 191 ∧
      (writing.stream 191).active = true ∧ (writing.stream 191).writes = true ∧ (writing.stream 191).wp < 8192 ∧
      (List.replicate 64 7#8) = ringBytes (fld (writing.reg (rg .siSctrl 191)) 0 6) (bit (writing.reg (rg .siSctrl 191)) 24)
        (List.replicate 64 7#8) ∧ 64 ≤ (ringOf writing 191).pitch ∧
      448 = ringLineVa (ringOf writing 191) (writing.stream 191).frame.toNat (writing.stream 191).wp ∧ 448 % 4096 + 64 ≤ 4096 ∧
      ringPage writing 191 448 = some { va := 0, size := 65536, dpa := some 0, write := true } ∧ inKeepWin writing 448 = false ∧
      chanOf 448 = ingressChannel writing 191 ∧ rangeBad writing 448 64 = false) ∧
    (takerOf dropping 17 15 0x2A = some 191 ∧ (dropping.stream 191).active = true ∧ (dropping.stream 191).writes = false ∧
      (dropping.stream 191).raised = false) ∧
    ((receiving {}).stream 191).active = false ∧ takerOf writing 17 15 0x2B = none ∧ (191 : Nat) ∈ streamsOf writing 17 := by
  decide +kernel

/-- Port 0 enabled and not locked. -/
def unlocked : State := on.setReg (rg .siPctrl 0) 1
def locked : State := { unlocked with si := { ports := [(0, { lock := true })] } }

theorem witness_ReceivePortsLock :
    (unlocked.power = .on ∧ bit (unlocked.reg (rg .siPctrl 0)) 0 = true ∧ (unlocked.rx 0).lock = false) ∧
    bit (unlocked.reg (rg .siPctrl 17)) 0 = false ∧ (locked.power = .on ∧ (locked.rx 0).lock = true) ∧
    (Served locked pf ∧ mayConfigure locked pf = true ∧ blockBusy locked (.ingress 0) = false) ∧ (locked.rx 17).lock = false :=
  ⟨by decide +kernel, by decide +kernel, by decide +kernel, by decide +kernel, by decide +kernel⟩

theorem waiting_locked (x : Nat) : (locked.stream x).waiting = [] := rfl

/-- Quad 7 enabled in DP mode with egress port 63 fed by head 15 and transmit port 0 in a given state. -/
def quad (x : TxPort) : State :=
  { (on.setReg (rg .oqQctrl 7) 0x81#32).setReg (rg .epEctrl 63) 0x8000000F#32 with oq := { ports := [(28, x)] } }

theorem witness_QuadsAreControlled :
    (Served on pf ∧ mayConfigure on pf = true ∧ blockBusy on (.quad 7) = false ∧ qctrlRefused on 7 (withFld 0x80#32 0 1 1) = none ∧ (0x80#32).getLsbD 2 = false ∧
      0 ∈ trainable (on.setReg (rg .oqQctrl 7) (fixQctrl (withFld 0x80#32 0 1 1))) 7 ∧ (on.txPort 7 0).state = .down) ∧
    (Served (quad { state := .up }) .mc ∧ mayConfigure (quad { state := .up }) .mc = true ∧ blockBusy (quad { state := .up }) (.quad 7) = false ∧
      qctrlRefused (quad { state := .up }) 7 (withFld 0x81#32 0 1 0) = none) ∧
    (qctrlRefused (quad { state := .up }) 7 (withFld 0x81#32 2 1 1) = none ∧ (0x81#32).getLsbD 0 = true ∧
      0 ∈ txPortsOf ((quad { state := .up }).setReg (rg .oqQctrl 7) (fixQctrl (withFld 0x81#32 2 1 1))) 7 ∧
      portsOfTx ((quad { state := .up }).setReg (rg .oqQctrl 7) (fixQctrl (withFld 0x81#32 2 1 1))) 7 0 ≠ []) := by decide +kernel

theorem witness_LinksTrainAndDrop :
    ((quad { state := .training }).power = .on ∧ ((quad { state := .training }).txPort 7 0).state = .training ∧
      (15 : Nat) ∈ quadHeads (quad { state := .training }) 7 ∧ trainsAt (quad { state := .training, target := 2 }) 7 0 2 = true ∧
      trainsAt (quad { state := .training, target := 2 }) 7 0 31 = false) ∧
    ((quad { state := .up }).power = .on ∧ ((quad { state := .up }).txPort 7 0).state = .up) ∧
    ((quad {}).txPort 7 0).hpd ≠ true ∧ ((quad {}).txPort 7 0).hpd = false ∧ ((quad {}).txPort 7 0).state ≠ .up := by decide +kernel

theorem witness_AuxMailbox :
    (Served on pf ∧ (classesOf on pf).meets { local_ := true, host := true } = true ∧ (on.txPort 7 0).auxBusy = false ∧ blockBusy on (.quad 7) = false) ∧
    (Served (quad { auxBusy := true, auxOp := 4, auxLen := 16 }) .mc ∧
      (classesOf (quad { auxBusy := true, auxOp := 4, auxLen := 16 }) .mc).meets { local_ := true, host := true } = true ∧
      ((quad { auxBusy := true, auxOp := 4, auxLen := 16 }).txPort 7 0).auxBusy = true ∧ (4#4).toNat ≤ 4 ∧ 4 < (5#4).toNat) ∧
    ((quad { auxBusy := true, auxOp := 1 }).txPort 7 0).auxOp ≠ 2 := by decide +kernel

/-! ### Transactions and the dictionary -/

/-- Window 0 holds a message of n bytes, in the words of REQ. -/
def asks (ws : List Word) (n : Nat) (s : State) : State :=
  let s := ws.zipIdx.foldl (fun (s : State) x => s.setReg (rg .dwReq 0 x.2) x.1) s
  { s with dict := { s.dict with wins := [(0, { busy := true, len := n })] } }

/-- The state in which the agent serves it. -/
def serving (s : State) : State :=
  takenUp (windowMsg s 0) (s.setWin 0 { s.win 0 with taken := true })

theorem reaches_of (s : State) (h : s.power = .on ∧ (s.win 0).busy = true ∧ (s.win 0).taken = false) :
    Reaches s (windowMsg s 0) (serving s) := ⟨h.1, h.2.1, h.2.2, rfl, rfl⟩

/-- Function 0 holds ticket 4, with its timeout to come; and all four tickets are open. -/
def ticketOf (x : Ticket) (s : State) : State := { s with tx := { s.tx with tickets := [(4, x)] } }
def holds (s : State) : State := ticketOf { state := .opened, holder := 0, deadline := 1 } s
def noTicket (s : State) : State :=
  { s with tx := { tickets := [1, 2, 3, 4].map (fun t => (t, { state := .opened, holder := 0x40 })) } }

theorem witness_TicketsOpen :
    (Served on pf ∧ nextTicket on pf = some 1) ∧ (Served (noTicket on) pf ∧ nextTicket (noTicket on) pf = none) ∧
    (Reaches (asks [0x00010005, 0] 8 on) (windowMsg (asks [0x00010005, 0] 8 on) 0) (serving (asks [0x00010005, 0] 8 on)) ∧
      shapeOk 5 (windowMsg (asks [0x00010005, 0] 8 on) 0) = true ∧
      mayHold (windowMsg (asks [0x00010005, 0] 8 on) 0).source = true ∧
      nextTicket (asks [0x00010005, 0] 8 on) (windowMsg (asks [0x00010005, 0] 8 on) 0).source = some 1) ∧
    (Reaches (asks [0x00010005, 0] 8 (noTicket on)) (windowMsg (asks [0x00010005, 0] 8 (noTicket on)) 0)
        (serving (asks [0x00010005, 0] 8 (noTicket on))) ∧
      nextTicket (asks [0x00010005, 0] 8 (noTicket on)) (windowMsg (asks [0x00010005, 0] 8 (noTicket on)) 0).source = none) ∧
    (Served (holds on) pf ∧ decodePF (holds on) 0 (rg .ccBackground 15).addr = .reg (rg .ccBackground 15) ∧
      (rg .ccBackground 15).isT = true ∧ judgeWrite (holds on) pf true (rg .ccBackground 15) 0 = none ∧
      ignoresWrites (rg .ccBackground 15) = false ∧ heldTicket (holds on) pf .opened = some 4) ∧
    judgeWrite on pf true (rg .ccBackground 15) 0 = some (.cause 5) := by
  refine ⟨by decide +kernel, by decide +kernel, ⟨reaches_of _ (by decide +kernel), ?_⟩, ⟨reaches_of _ (by decide +kernel), ?_⟩, ?_⟩ <;>
  decide +kernel

/-- TX_COMMIT and TX_ROLLBACK of ticket 4 through window 0. -/
def commits (s : State) : State := asks [0x00010006, 0x00030000, 0x00000104] 11 s
def rollsBack (s : State) : State := asks [0x00010007, 0x00010000, 0x00000004] 9 s

theorem witness_TicketsCommitAndRollBack :
    (Served (holds on) pf ∧ mayHold pf = true ∧ commitCause (holds on) pf (4#3).toNat = none ∧
      ticketCause (holds on) pf (4#3).toNat = none) ∧
    (commitCause (holds on) pf (5#3).toNat = some 4 ∧ commitCause (holds on) .mc (4#3).toNat = some 2 ∧
      commitCause { holds on with tick := 2 } pf (4#3).toNat = some 3 ∧ ticketCause on .mc (0#3).toNat = some 4) ∧
    (Reaches (commits (holds on)) (windowMsg (commits (holds on)) 0) (serving (commits (holds on))) ∧
      mayHold (windowMsg (commits (holds on)) 0).source = true ∧ 4 = leAt (windowMsg (commits (holds on)) 0).data 0 1 ∧
      shapeOk 6 (windowMsg (commits (holds on)) 0) = true ∧
      commitCause (commits (holds on)) (windowMsg (commits (holds on)) 0).source 4 = none) ∧
    (Reaches (rollsBack (holds on)) (windowMsg (rollsBack (holds on)) 0) (serving (rollsBack (holds on))) ∧
      4 = leAt (windowMsg (rollsBack (holds on)) 0).data 0 1 ∧ shapeOk 7 (windowMsg (rollsBack (holds on)) 0) = true ∧
      ticketCause (rollsBack (holds on)) (windowMsg (rollsBack (holds on)) 0).source 4 = none) ∧
    (Reaches (rollsBack on) (windowMsg (rollsBack on) 0) (serving (rollsBack on)) ∧
      shapeOk 7 (windowMsg (rollsBack on) 0) = true ∧ ticketCause (rollsBack on) (windowMsg (rollsBack on) 0).source 4 ≠ none) := by
  refine ⟨by decide +kernel, by decide +kernel, ⟨reaches_of _ (by decide +kernel), ?_⟩, ⟨reaches_of _ (by decide +kernel), ?_⟩,
    ⟨reaches_of _ (by decide +kernel), ?_⟩⟩ <;> decide +kernel

/-- A verifying ticket: with an overfull draft, with an empty one, and with a background colour for head 0, which scans. -/
def verifying (x : Ticket) (s : State) : State := ticketOf { x with state := .verifying, holder := 0 } s
def backdrop : Ticket := { mask := 1, draft := [{ addr := (rg .ccBackground 0).addr, value := 0, safety := false }] }

/-- A node that was last heard at tick 4 holds ticket 4, opened at tick 5 with a timeout of 5 ticks. -/
def silent : State :=
  let s := ticketOf { state := .opened, holder := 0x40, openedAt := 5, deadline := 10 } on
  { s with dict := { s.dict with heard := [(0, 4)] } }

theorem witness_TicketsEnd :
    (verifyingTicket (verifying { backdrop with draftFull := true } (scan on)) = some 4 ∧ ((verifying { backdrop with draftFull := true } (scan on)).ticket 4).answer = none ∧
      judgeTicket (advanceGroups (verifying { backdrop with draftFull := true } (scan on))) ((verifying { backdrop with draftFull := true } (scan on)).ticket 4) =
        some (8, 0xFF)) ∧
    (verifyingTicket (verifying {} on) = some 4 ∧
      judgeTicket (advanceGroups (verifying {} on)) ((verifying {} on).ticket 4) = none ∧ ((verifying {} on).ticket 4).draft = []) ∧
    (verifyingTicket (verifying backdrop (scan on)) = some 4 ∧
      judgeTicket (advanceGroups (verifying backdrop (scan on))) ((verifying backdrop (scan on)).ticket 4) = none ∧
      ((verifying backdrop (scan on)).ticket 4).draft ≠ [] ∧ draftBank ((verifying backdrop (scan on)).ticket 4).draft = none ∧
      (verifying backdrop (scan on)).sched.switch = none ∧
      ((verifying backdrop (scan on)).ticket 4).done ≠ ((verifying backdrop (scan on)).ticket 4).mask ∧
      (∀ n, n < 16 → ((verifying backdrop (scan on)).ticket 4).mask.getLsbD n = true →
        isRunning (verifying backdrop (scan on)) n = true)) ∧
    verifyingTicket on = none ∧ (on.ticket 0).state ≠ .opened ∧ ((holds on).ticket 4).state = .opened ∧
    silentAt silent (silent.ticket 4) = some 9 ∧ 9 ≤ (silent.ticket 4).deadline ∧ (silent.ticket 4).state = .opened := by
  decide +kernel

/-- READ and READ_SEG of object 0x7000:03, and a second segment of it. -/
def reads (s : State) : State := asks [0x03010001, 0x00007000] 8 s
def readsSeg (off : Word) (s : State) : State := asks [0x03010003, 0x00067000, off, 16] 14 s
def segs : Segs := { source := pf, udp := false, index := 0x7000, sub := 3, data := [110], last := 0 }
def between (s : State) : State := { s with dict := { s.dict with readSegs := [segs] } }

/-- A CAN frame with no trailer and the identifier of requests, and an interface that is enabled. -/
def bare (n : Nat) : Msg :=
  { via := .can 1 { id := 0x700, length := 64, xl := none }, op := 1, flags := 0, seq := 0, sub := 3, index := 0x7000, len := n, data := List.replicate n 0, trailer := none }
def listening : State := { on with dict := { on.dict with ifaces := [(1, { on := true })] } }

theorem witness_MessagesRead :
    (Reaches (reads on) (windowMsg (reads on) 0) (serving (reads on)) ∧ shapeOk 1 (windowMsg (reads on) 0) = true ∧
      (readObject pf 0x7000 3 false (serving (reads on))).2 = (.ok, [110]) ∧
      (windowMsg (reads on) 0).index.toNat = 0x7000 ∧ (windowMsg (reads on) 0).sub.toNat = 3 ∧
      [(110 : Byte)].length ≤ dataRoom (serving (reads on)) (windowMsg (reads on) 0).via) ∧
    (Reaches (readsSeg 0 on) (windowMsg (readsSeg 0 on) 0) (serving (readsSeg 0 on)) ∧ shapeOk 3 (windowMsg (readsSeg 0 on) 0) = true ∧
      (readObject pf 0x7000 3 false (serving (readsSeg 0 on))).2 = (.ok, [110]) ∧ (windowMsg (readsSeg 0 on) 0).offset = 0) ∧
    (Reaches (readsSeg 1 (between on)) (windowMsg (readsSeg 1 (between on)) 0) (serving (readsSeg 1 (between on))) ∧
      (windowMsg (readsSeg 1 (between on)) 0).offset ≠ 0 ∧
      segsOfMsg (readsSeg 1 (between on)).dict.readSegs (windowMsg (readsSeg 1 (between on)) 0) = some segs ∧ segs.late 0 = false) ∧
    (Reaches (asks [0x0001007F, 0] 8 on) (windowMsg (asks [0x0001007F, 0] 8 on) 0) (serving (asks [0x0001007F, 0] 8 on))) ∧
    (listening.power = .on ∧ (SMap.get listening.dict.ifaces (bare 56).via.iface {}).on = true ∧
      takeNet listening (bare 56) = .taken ∧ authenticate listening (bare 56) = .fail) ∧
    takeNet listening (bare 57) = .counted ∧
    takeNet listening { bare 0 with via := .can 1 { id := 0x6FF, length := 64, xl := none } } = .ignored := by
  refine ⟨⟨reaches_of _ (by decide +kernel), ?_⟩, ⟨reaches_of _ (by decide +kernel), ?_⟩, ⟨reaches_of _ (by decide +kernel), ?_⟩,
    reaches_of _ (by decide +kernel), ?_⟩ <;> decide +kernel

/-! A request that passes or repeats needs a key in the part's fuses, which are opaque. -/

theorem leNat_lt (l : List Byte) : leNat l < 256 ^ l.length := by
  induction l with
  | nil => simp [leNat]
  | cons b t ih =>
    have := b.isLt
    simp only [leNat, List.length_cons, Nat.pow_succ]
    omega

theorem leBytes_leNat (l : List Byte) : leBytes l.length (leNat l) = l := by
  induction l with
  | nil => rfl
  | cons b t ih =>
    have := b.isLt
    have h1 : (b.toNat + 256 * leNat t) / 256 = leNat t := by omega
    have h2 : BitVec.ofNat 8 (b.toNat + 256 * leNat t) = b := by
      apply BitVec.eq_of_toNat_eq
      simp only [BitVec.toNat_ofNat]
      omega
    simp only [List.length_cons, leNat, leBytes, h1, h2, ih]

theorem cmac_length (k : BitVec 128) (m : List Byte) : (cmac k m).length = 16 := by simp [cmac, aesBlock, nextKey, subShift]

/-- A MAC as a trailer carries it. -/
theorem mac_bytes (l : List Byte) (h : l.length = 8) : beBytes 8 (BitVec.ofNat 64 (leNat l.reverse)).toNat = l := by
  have h1 := leNat_lt l.reverse
  simp only [List.length_reverse, h] at h1
  have h2 := leBytes_leNat l.reverse
  simp only [List.length_reverse, h] at h2
  simp only [beBytes, BitVec.toNat_ofNat]
  rw [Nat.mod_eq_of_lt (by omega), h2, List.reverse_reverse]

theorem slot_of (s : State) (h : Config.nodeKeyProvisioned 0 = true) (r : s.aon.fuseRevoked = 0) : slotUsable s 0 = true := by
  simp [slotUsable, h, r]

/-- A request sealed with slot 0 and a COUNTER. -/
def sealMac (c : Word) : List Byte := macBytes 0 0 1 (({ bare 0 with flags := 1 } : Msg).body ++ trailerHead 0 c.toNat)
def sealed (c : Word) : Msg :=
  { bare 0 with flags := 1, trailer := some { keySlot := 0, counter := c, mac := BitVec.ofNat 64 (leNat (sealMac c).reverse) } }

theorem sealed_passes (s : State) (c : Word) (u : slotUsable s 0 = true) :
    authenticate s (sealed c) = if slotExhausted s 0 = true ∨ c.toNat ≤ rxFloorOf s 0 then .replay 0 else .pass 0 := by
  have e : macBytes 0 0 1 ((sealed c).body ++ trailerHead 0 c.toNat) = beBytes 8 (BitVec.ofNat 64 (leNat (sealMac c).reverse)).toNat :=
    (mac_bytes _ (by simp [macBytes, cmac_length])).symm
  have k : (sealed c).seal = some { keySlot := 0, counter := c, mac := BitVec.ofNat 64 (leNat (sealMac c).reverse) } := by
    simp [Msg.seal, Msg.auth, sealed, bare]
  have v : (sealed c).via.transport = 1 := rfl
  unfold authenticate
  simp only [k, v]
  rw [dif_pos (by decide)]
  have z : (0 : Byte).toNat = 0 := rfl
  simp only [z, u, e, not_true_eq_false, if_false, ne_eq]
  rfl

/-- A request of COUNTER 0 repeats its floor; one of COUNTER 1 passes, and waits where its source has one unanswered. -/
theorem witness_MessagesRead_replay (h : Config.nodeKeyProvisioned 0 = true) :
    takeNet listening (sealed 0) = .taken ∧ authenticate listening (sealed 0) = .replay 0 := by
  refine ⟨by decide +kernel, ?_⟩
  rw [sealed_passes _ _ (slot_of listening h rfl), if_pos (.inr (Nat.zero_le _))]

def unansweredOne : State := { listening with dict := { listening.dict with blocked := [sealed 0] } }

theorem witness_MessagesRead_waits (h : Config.nodeKeyProvisioned 0 = true) :
    takeNet unansweredOne (sealed 1) = .taken ∧ authenticate unansweredOne (sealed 1) = .pass 0 ∧ sourceBusy unansweredOne (sealed 1) = true := by
  refine ⟨by decide +kernel, ?_, by decide +kernel⟩
  rw [sealed_passes _ _ (slot_of unansweredOne h rfl), if_neg (by decide +kernel)]

/-- WRITE of 120 to 0x7000:03, of 121, which is out of its range, and the first segment of a transfer to it. -/
def writes (v : Word) (s : State) : State := asks [0x03010002, 0x00017000, v] 9 s
def writesSeg (s : State) : State := asks [0x03010004, 0x00057000, 0, 110] 13 s

theorem witness_MessagesWrite :
    (Reaches (writes 121 on) (windowMsg (writes 121 on) 0) (serving (writes 121 on)) ∧
      shapeOk 2 (windowMsg (writes 121 on) 0) = true ∧ (writeObject pf 0x7000 3 false [121] (serving (writes 121 on))).2.stored = false ∧
      (windowMsg (writes 121 on) 0).data = [121]) ∧
    (Reaches (writes 120 on) (windowMsg (writes 120 on) 0) (serving (writes 120 on)) ∧
      shapeOk 2 (windowMsg (writes 120 on) 0) = true ∧ (writeObject pf 0x7000 3 false [120] (serving (writes 120 on))).2.stored = true ∧
      (windowMsg (writes 120 on) 0).txn = false ∧ findObj 0x7000 3 = .obj (kept 1 110 wCfg) ∧ (kept 1 110 wCfg).val = .kept 110 ∧
      writeGate (writes 120 on) pf (kept 1 110 wCfg) = .ok ∧ (windowMsg (writes 120 on) 0).data.length = (kept 1 110 wCfg).size ∧
      rangeOk (writes 120 on) 0x7000 3 (leNat ((windowMsg (writes 120 on) 0).data.take 8)) = true ∧ (kept 1 110 wCfg).store = true) ∧
    (Reaches (writesSeg on) (windowMsg (writesSeg on) 0) (serving (writesSeg on)) ∧ shapeOk 4 (windowMsg (writesSeg on) 0) = true ∧
      segGate (windowMsg (writesSeg on) 0) (writesSeg on) = .ok ∧ (windowMsg (writesSeg on) 0).offset = 0 ∧
      (windowMsg (writesSeg on) 0).last = false ∧ (windowMsg (writesSeg on) 0).data.length - 4 ≤ objLength 0x7000 3) := by
  refine ⟨⟨reaches_of _ (by decide +kernel), ?_⟩, ⟨reaches_of _ (by decide +kernel), ?_⟩, ⟨reaches_of _ (by decide +kernel), ?_⟩⟩ <;>
  decide +kernel

/-- A WRITE of QCTRL of quad 0 while its quad is BUSY. -/
def quadWaits : State :=
  asks [0x01010002, 0x000422C0, 0x81] 12
    { on with posted := [{ block := .quad 0, reg := rg .oqQctrl 0, value := 0x80, src := pf, safety := false }] }

theorem witness_MessagesWrite_waits :
    Reaches quadWaits (windowMsg quadWaits 0) (serving quadWaits) ∧ shapeOk 2 (windowMsg quadWaits 0) = true ∧
    mustWait (serving quadWaits) (windowMsg quadWaits 0).index.toNat (windowMsg quadWaits 0).sub.toNat (windowMsg quadWaits 0).txn = true :=
  ⟨reaches_of _ (by decide +kernel), by decide +kernel, by decide +kernel⟩

/-- A window whose response is ready, and one value, then a request, that wait for the store. -/
def ready : State := { on with dict := { on.dict with wins := [(31, { busy := true, taken := true, ready := some [1] })] } }
def storing (l : List Msg) : State := { on with dict := { on.dict with storing := [(0x700003, [90])], storeAnswers := l } }

theorem witness_WindowsAndStores :
    (Served hosted vf ∧ judgeWrite hosted vf false (rg .dwSend 1) (BitVec.ofNat 32 8) = none) ∧
    (judgeWrite (asks [] 8 on) pf false (rg .dwSend 0) (BitVec.ofNat 32 8) = some (.cause 3)) ∧ (ready.win 0).busy = false ∧
    ((ready.win 31).busy = true ∧ (ready.win 31).taken = true ∧ (ready.win 31).ready = some [1]) ∧
    ((between on).power = .on ∧ ((between on).dict.writeSegs ++ (between on).dict.readSegs).filter (fun y => y.isOf pf false && !y.expired) =
      [segs]) ∧
    ((storing []).dict.storing ≠ [] ∧ (storing []).dict.waiting = [] ∧ (storing []).dict.ledgerDue = false ∧
      (storing []).dict.storeAnswers = []) ∧
    ((storing [windowMsg (writes 120 on) 0]).dict.storeAnswers = [windowMsg (writes 120 on) 0] ∧
      (windowMsg (writes 120 on) 0).op.toNat % 128 = 2) := by decide +kernel

/-- A class 0 notification, with no interface that takes it, and with one that does, where the part has the key of its slot. -/
def noting (s : State) : State := { s with dict := { s.dict with notes := [(0, [{}])] } }
def noted : State :=
  { noting on with dict := { (noting on).dict with ifaces := [(0, { on := true, cfg := [(0x903001, [1])] })] } }

theorem witness_NotificationsAreSent (h : Config.nodeKeyProvisioned 0 = true) :
    ((noting on).power = .on ∧ SMap.get (noting on).dict.notes 1 [] = [] ∧ SMap.get (noting on).dict.notes 0 [] = {} :: []) ∧
    SMap.get (noting on).dict.notes 7 [] = [] ∧ noteCopies (noting on) 0 {} = [] ∧ noteCopies noted 0 {} ≠ [] := by
  refine ⟨by decide +kernel, by decide +kernel, by decide +kernel, ?_⟩
  have e : noteDests noted = [(canDest noted 0 5, 0)] := by decide +kernel
  have c : decide (txCounterOf noted 0 < counterMax) = true := by decide +kernel
  have d : ([(canDest noted 0 5, 0)] : List (Dest × Nat)).eraseDups = [(canDest noted 0 5, 0)] := by decide +kernel
  have u := slot_of noted h rfl
  simp [noteCopies, e, d, u, of_decide_eq_true c]

/-- A challenge that waits, for a part's own diagnostic key; a lockout; a session. -/
def challenged (n : Nat) : State := { on with dict := { on.dict with challenge := some [1, 2, 3], wrong := n } }
def lockedDown : State := { on with tick := 15999999999, dict := { on.dict with lockout := some 0 } }
def inSession : State := { on with dict := { on.dict with session := some pf } }

theorem witness_SessionsOpenAndEnd :
    (on.power = .on ∧ (classesOf on pf).meets { local_ := true, host := true, net := true } = true) ∧
    (lockedOut lockedDown = true ∧ (List.replicate 16 (0 : Byte)).length = 16) ∧
    ((cmac Config.diagKey [1, 2, 3]).length = 16 ∧ lockedOut (challenged 0) = false ∧ (challenged 0).dict.challenge = some [1, 2, 3]) ∧
    (∃ mac : List Byte, mac.length = 16 ∧ cmac Config.diagKey [1, 2, 3] ≠ mac ∧ (challenged 2).dict.wrong = 2 ∧
      (challenged 0).dict.wrong ≠ 2) ∧
    (inSession.power = .on ∧ inSession.dict.session = some pf) ∧ sessionOpen on = false ∧ sessionOpen inSession = true ∧
    lockedDown.dict.lockout = some 0 := by
  refine ⟨by decide +kernel, by decide +kernel, ⟨cmac_length _ _, by decide +kernel, by decide +kernel⟩, ?_, by decide +kernel,
    by decide +kernel, by decide +kernel, by decide +kernel⟩
  by_cases h : cmac Config.diagKey [1, 2, 3] = List.replicate 16 0
  · refine ⟨List.replicate 16 1, by simp, ?_, rfl, by decide⟩
    rw [h]
    decide
  · exact ⟨List.replicate 16 0, by simp, h, rfl, by decide⟩

theorem witness_LocksKeysAndLedger :
    (on.power = .on ∧ (classesOf on node).meets rCfg = true ∧ on.dict.deviceLock = false) ∧ deviceLocked.dict.deviceLock = true ∧
    (255#8) ≠ 1 ∧
    (inSession.power = .on ∧ inSession.dict.session = some pf ∧ inSession.aon.fuseRevoked.getLsbD 15 = false ∧
      inSession.dict.ledgerDue = false) := by decide +kernel

/-! ### Functions, blits, cascades, heat and starts -/

/-- Function 0 holds ticket 4 open. -/
theorem witness_FunctionsReset :
    (on.power = .on ∧ (Instr.functionLevelReset 0 = .functionLevelReset 0) ∧ (0 < 32 ∧ isPF 0 = true ∧ 0 ≤ 15 ∧ 15 < 0 + 16) ∧
      ((holds on).ticket 4).state = .opened ∧ ((holds on).ticket 4).holder = 0) ∧
    (∃ k : Fin 2, Instr.hotReset 1 = .hotReset k ∧ (16 : Fin 32).val = 16 * k.val) ∧ isPF 31 = false ∧
    ({ on with hl := { on.hl with links := [(1, { up := true })] } : State }.link 1).up = true :=
  ⟨by decide +kernel, ⟨1, rfl, rfl⟩, by decide +kernel, by decide +kernel⟩

theorem witness_PowerStatesAndJtag :
    (on.power = .on ∧ (on.link 1).up = false) ∧ ({ on with hl := { on.hl with links := [(1, { up := true })] } : State }.link 1).up = true ∧
    ({ on with hl := { on.hl with d3hot := 0x80000000#32 } : State }.hl.d3hot.getLsbD 31 = true ∧ (on.target 31).asleep = false) ∧
    sessionOpen on = false ∧ sessionOpen inSession = true ∧
    ((challenged 0).dict.challenge = some [1, 2, 3] ∧ lockedOut (challenged 0) = false ∧
      cmac Config.diagKey [1, 2, 3] = cmac Config.diagKey [1, 2, 3]) ∧
    cmac Config.diagKey [1, 2, 3] ≠ [] ∧ { on with power := .starting : State }.power = .starting ∧
    { on with power := .halted 4 : State }.power = .halted 4 := by
  refine ⟨by decide +kernel, by decide +kernel, by decide +kernel, by decide +kernel, by decide +kernel,
    ⟨by decide +kernel, by decide +kernel, rfl⟩, ?_, rfl, rfl⟩
  intro h
  have e : ([] : List Byte).length = 16 := h ▸ cmac_length Config.diagKey [1, 2, 3]
  simp at e

/-- A FILL of one line of 16 pixels of format 0x01 at address 0, with or without a record; and one of no width. -/
def fill (record : Bool) (width : Nat) : BlitCmd :=
  { words := [if record then 0x80020100#32 else 0x00020100#32, BitVec.ofNat 32 (width + 65536), 0, 0, 0, 0, 0, 0, 64, 0, 0, 0, 0x12345678#32, 0, 7, 0],
    seq := 1, fn := 31, ctx := 0 }
def queuedFill (c : BlitCmd) : State := { caching with bl := { engines := [(1, { queue := [c] })] } }
def doing (record : Bool) (ctrl : Word) (wr : Nat) : State :=
  { on.setReg (rg .shCringCtrl 31 1) ctrl with
    bl := { engines := [(1, { current := some (fill record 16, 0, 1) })], shares := [(63, { cringWr := wr })] } }

theorem witness_BlitsRun :
    (Served hosted vf ∧ submitResult hosted 1 0 ≠ 0) ∧ submitResult (on.setReg (rg .blShareCfg 1 31) 0x80000001#32) 31 1 = 0 ∧
    ((on.engine 0).queue = [] ∧ (doing true 0 0).power = .on ∧ ((doing true 0 0).engine 1).current ≠ none) ∧
    (((queuedFill (fill false 0)).engine 1).current = none ∧ paused (queuedFill (fill false 0)) 1 = false ∧
      ((queuedFill (fill false 0)).engine 1).queue = fill false 0 :: [] ∧ (fill false 0).judge = some 0x01 ∧ (fill false 0).wantsRecord = false) ∧
    ((fill true 16).judge = none ∧ (fill true 16).op = 2 ∧ (fill true 16).height = 1 ∧ rectRanges (fill true 16).dst 0 = [(0, 64)] ∧
      paused (queuedFill (fill true 16)) 1 = false ∧ ((queuedFill (fill true 16)).engine 1).queue = [fill true 16] ∧
      (writeRange 4 0 0 (fillBytes (fill true 16) 0 64)
        ((queuedFill (fill true 16)).setEngine 1 { (queuedFill (fill true 16)).engine 1 with queue := [] })).2 = true ∧
      undefinedBytes (writeRange 4 0 0 (fillBytes (fill true 16) 0 64)
        ((queuedFill (fill true 16)).setEngine 1 { (queuedFill (fill true 16)).engine 1 with queue := [] })).1 1 (fill true 16) 1 = []) ∧
    (ringOn (doing true 0 0) 1 31 = false ∧ ((doing true 0 0).engine 1).current = some (fill true 16, 0, 1)) ∧
    ((fill true 16).wantsRecord = true ∧ ringOn (doing true 0x80000004#32 16) 1 31 = true ∧ ringFull (doing true 0x80000004#32 16) 1 31 = true) ∧
    ringFull (doing true 0x80000004#32 15) 1 31 = false ∧ (Served hosted (.fn 31) ∧ (hosted.engine 1).stall ≠ some 31) ∧
    ((doing true 0x80000004#32 15).hl.d3hot.getLsbD 31 = false ∧
      { doing true 0x80000004#32 15 with hl := { on.hl with d3hot := 0x80000000#32 } : State }.hl.d3hot.getLsbD 31 = true) := by decide +kernel

/-- Block 15's counter 7, one below its top, on event 1 of any instance, and its cycle counter at its top. -/
def counting (c : Word) : State :=
  { (on.setReg (rg .pmCtrl 15) c).setReg (rg .pmEvtsel 15 7) 0xFF01#32 with
    pm := { on.pm with ctr := [(127, 2 ^ 48 - 1)], cyc := [(15, 2 ^ 64 - 1)] } }

theorem witness_CountersCount :
    (Served on pf ∧ mayScan on pf = true) ∧ (Served hosted vf ∧ mayScan hosted vf = false) ∧
    ((counting 0x80#32).power = .on ∧ ctrRuns (counting 0x80#32) 15 7 = true ∧ 2 ^ 48 ≤ SMap.get (counting 0x80#32).pm.ctr (15 * 8 + 7) 0 + 1 ∧
      SMap.get (counting 0x80#32).pm.ctr (15 * 8 + 7) 0 < 2 ^ 48 ∧ (ovfOf (counting 0x80#32) 15).getLsbD 7 = false) ∧
    (ctrRuns on 0 0 = false ∧ SMap.get (counting 0x80#32).pm.ctr (15 * 8 + 7) 0 + 0 < 2 ^ 48) ∧
    (cycRuns (counting 0x100#32) 15 = true ∧ SMap.get (counting 0x100#32).pm.cyc 15 0 < 2 ^ 64 ∧ (counting 0x100#32).corePhase < 8 ∧
      (counting 0x100#32).pm.held = [] ∧ (counting 0x100#32).pm.loads = []) ∧
    (clocksToWrap { counting 0x100#32 with pm := { (counting 0x100#32).pm with loads := [(3, 0, 5)] } } 15 = 1) ∧
    (cycRuns on 0 = false ∧ on.pm.held = [] ∧ on.pm.loads = []) := by
  decide +kernel

/-- A turret and a belfry, joined and alone, and a turret whose upstream port is up. -/
def cascade (role : Nat) (st : CascState) (up : Bool) : State :=
  { scan on with casc := { on.casc with role := role, state := st, ports := [(0, { up := up })] } }

/-- Segment 3 of channel 255 on head 0, with a header's sizes. -/
def segmented : State :=
  { ((cascade 2 .joined true).setReg (rg .caSegCtrl 3) 0x80FF0000#32).setHead 0 { (scan on).head 0 with line := 7 } with
    casc := { (cascade 2 .joined true).casc with segs := [(3, { usable := true, width := 2, height := 8 })] } }

/-- A turret with both ports up, and with two lines of channel 9 that wait for port 1; and one whose receive port 2 takes channel 9. -/
def relaying (free : Nat) : State :=
  { on with casc := { on.casc with role := 2, state := .joined, ports := [(0, { up := true }), (1, { up := true, free := free })]
                                   relay := if free = 0 then [] else [(265, [(0, .line 0 []), (0, .line 1 [])])] } }
def onChannel : State := ((cascade 2 .joined true).setReg (rg .caFwdRx 2) 0x80090000#32).setReg (rg .siPctrl 2) 1

theorem witness_CascadesJoinAndCarry :
    (on.casc.role = 0 ∧ ((cascade 2 .joining false).casc.role = 2 ∧ ((cascade 2 .joining false).osl 0).up = false)) ∧
    ((cascade 1 .alone false).casc.role ≠ 0 ∧ (cascade 1 .alone false).casc.role ≠ 2 ∧ (3 < 4 ∨ true = true)) ∧
    ((cascade 2 .joining true).power = .on ∧ (cascade 2 .joining true).casc.role ≠ 0 ∧ ((cascade 2 .joining true).osl 0).up = true ∧
      isRunning (cascade 2 .joining true) 0 = true) ∧
    ((cascade 2 .joined true).casc.role = 2 ∧ (cascade 2 .joined true).casc.state = .joined) ∧
    ((cascade 2 .joining true).casc.state ≠ .joined) ∧ (((cascade 2 .joined true).osl 0).up ≠ false) ∧
    (((cascade 2 .joined false).osl 1).up = false) ∧
    (((cascade 2 .joined true).osl 0).up = true ∧ segsTaking (cascade 2 .joined true) 0 = []) ∧
    ((segmented.osl 0).up = true ∧ segsTaking segmented 255 = [segOf segmented 3] ∧ (segOf segmented 3).k = 3 ∧
      ([1, 2] : List Word).length = (segmented.seg 3).width ∧ 7 < (segmented.seg 3).height ∧ (segmented.seg 3).lines.length < 4 ∧
      (segmented.seg 3).lost = false ∧ takersOf segmented 255 = [] ∧ segUntimely segmented (segOf segmented 3) 7 = false ∧
      segUntimely { segmented with tick := 100000 } (segOf segmented 3) 7 = true) ∧
    ((segOf segmented 3).enabled = true ∧ isRunning segmented (segOf segmented 3).head = true ∧
      (segmented.head (segOf segmented 3).head).line = 7 ∧ 7 < (segmented.head (segOf segmented 3).head).raster.vActive ∧
      segLine segmented (segOf segmented 3) 7 = none ∧ (segmented.seg 3).raised = false ∧
      (segmented.seg 3).missed ≠ some 7) ∧
    (segOf segmented 0).enabled = false ∧
    (oslUnused (cascade 1 .alone false) 1 = false ∧ oslUnused (cascade 1 .alone false) 0 = true ∧ oslUnused on 1 = true ∧
      ((cascade 1 .alone false).osl 1).up = false) ∧
    ((relaying 0).osl 0).up = true ∧ ((relaying 0).osl 1).up = true ∧ segsTaking (relaying 0) 9 = [] ∧ takersOf (relaying 0) 9 = [] ∧
    (waitingChannels (relaying 0) 1 = [] ∧ ((relaying 0).osl 1).free ≤ (relaying 0).tick) ∧
    ((relayOf (relaying 5) 1 9).length = 2 ∧ (relaying 5).tick < ((relaying 5).osl 1).free ∧ SMap.get (relaying 5).casc.discarded 265 false = false) ∧
    (SegPacket.isLine (.line 0 []) = true ∧ SegPacket.isLine (.long 0 0x24 [] true) = true ∧ SegPacket.isLine (.fs 0) = false) ∧
    (takersOf onChannel 9 = [2] ∧ segsTaking onChannel 9 = [] ∧ (onChannel.osl 0).up = true ∧ bit (onChannel.reg (rg .siPctrl 2)) 0 = true) := by
  decide +kernel

/-- Eleven sensors at 60 °C and sensor 11 as given; TMAX of 125 °C in a window of one sample; a shedding device; and a hot one. -/
def sample (t : Int) : List Int := List.replicate 11 480 ++ [t]
def heated : State := { on with therm := { on.therm with window := [List.replicate 12 1000], history := List.replicate 25 900 } }
def shedding : State :=
  { scan on with therm := { on.therm with state := .shedding, tmax := 1040 }
                 sched := { banks := [(0, { state := .live, image := some { headMask := 1 } })] } }

theorem witness_HeatIsWatched :
    (on.power = .on ∧ (11 : Nat) ∈ goodSensors on ∧ (1200 < (sample 1201).getD 11 0) ∧ ((sample (-441)).getD 11 0 < -440)) ∧
    ((∀ j ∈ goodSensors on, (List.replicate 12 (1200 : Int)).getD j 0 = (List.replicate 12 (1200 : Int)).getD 11 0) ∧
      -440 ≤ (List.replicate 12 (1200 : Int)).getD 11 0 ∧ (List.replicate 12 (1200 : Int)).getD 11 0 ≤ 1200) ∧
    (heated.power = .on ∧ heated.therm.mode = .sustained ∧ goodSensors heated = 0 :: (List.range 11).map (· + 1) ∧
      (∀ j ∈ (List.range 11).map (· + 1), windowSum heated j ≤ windowSum heated 0) ∧
      windowSum heated 0 = 1000 * ((max heated.therm.window.length 1 : Nat) : Int) ∧ heated.therm.history[24]? = some 900 ∧
      (1000 : Int) = 1000 + (if 2 ≤ heated.therm.excluded.length then 40 else 0)) ∧
    on.therm.state ≠ .shedding ∧
    (shedding.therm.state = .shedding ∧
      (shedOrder shedding).find? (fun n => isRunning shedding n && !shedding.therm.shed.getLsbD n) = some 0) ∧
    tempLevel on < 1040 ∧ 1040 ≤ tempLevel shedding ∧ isPF 0 = true ∧ Served on .mc ∧
    (aonRuns on = true ∧ aonRuns { on with power := .halted 1 } = true ∧ aonRuns { on with power := .shutdown } = false) ∧
    (on.therm.mode = .sustained ∧ on.dict.spireAnswers = []) ∧
    ({ on with aon := { on.aon with shutdownCause := 1 } : State }.aon.shutdownCause ≠ 0 ∧ { on with start := { startNo := 5 } : State }.start.startNo ≠ 0 ∧
      on.aon.shutdownCause = 0) := by decide +kernel

/-- A sustained image that is LIVE with its spire counterpart RESIDENT, of head 0 or of no head, and the modes of spire operation; the
same in spire mode; the state in which an exit asks for its switch; and an entry that a fault ends. -/
def ofHead0 : SMap HeadEntry := [(0, { raster := raster })]
def pairedOn (d : State) (m : Nat) (x : Thermal) : State :=
  { d with therm := x
           sched := { banks := [(0, { state := .live, image := some { headMask := m, heads := ofHead0, imageId := 1, counterpart := 2 } }),
                                (1, { state := .resident, image := some { headMask := m, heads := ofHead0, clockSpire := true, imageId := 2, counterpart := 1 } })] } }
def paired (x : Thermal) : State := pairedOn on 0 x
def leaving (d : State) (m : Nat) : State :=
  { d with therm := { mode := .spire, coreMhz := 1000, vselSpire := true }
           sched := { banks := [(0, { state := .live, image := some { headMask := m, heads := ofHead0, clockSpire := true, imageId := 1, counterpart := 2 } }),
                                (1, { state := .resident, image := some { headMask := m, heads := ofHead0, imageId := 2, counterpart := 1 } })] } }
def afterExit (s : State) : State :=
  { (countBar0 pf 2 s).setReg (rg .mcSpireCtrl) 0 with therm := { s.therm with mode := .leaving, lastExit := 3, exitDue := 0 } }
def ended : State := { paired { mode := .entering, asker := some pf } with safety := { on.safety with category := 16 } }

/-- A write of the dictionary whose answer waits for the supply. -/
def answering : State := { on with dict := { on.dict with spireAnswers := [{ bare 4 with op := 2 }] } }

theorem witness_SpireModeRuns :
    (Served (paired {}) pf ∧ mayConfigure (paired {}) pf = true ∧ (paired {}).therm.mode = .sustained ∧ spireRefusal (paired {}) = none) ∧
    spireRefusal (paired { spireSeconds := 10800000 }) = some 1 ∧ (paired { mode := .entering }).therm.mode = .entering ∧
    ((leaving on 0).therm.mode = .spire ∧ counterpartBank (leaving on 0) = some 1 ∧ (mcSwitch 1 (afterExit (leaving on 0))).isSome = true ∧
      headsOfSwitch (leaving on 0) 1 = 0) ∧
    ((leaving (scan on) 1).therm.mode = .spire ∧ counterpartBank (leaving (scan on) 1) = some 1 ∧
      (mcSwitch 1 (afterExit (leaving (scan on) 1))).isSome = true ∧ (headsOfSwitch (leaving (scan on) 1) 1).getLsbD 0 = true ∧
      isRunning (leaving (scan on) 1) 0 = true) ∧
    ((paired { mode := .spire }).therm.mode = .spire ∧ counterpartBank { on with therm := { mode := .spire } } = none) ∧
    (ended.therm.mode = .entering ∧ ended.sched.switch.any (·.spire) = false ∧ spireCauseOf ended = some 4) ∧
    (spireCauseOf (paired { mode := .entering }) = none ∧ counterpartBank { on with therm := { mode := .entering } } = none ∧
      (paired { mode := .leaving }).therm.mode = .leaving) ∧
    ((pairedOn (scan on) 1 { mode := .entering }).sched.switch = none ∧ spireCauseOf (pairedOn (scan on) 1 { mode := .entering }) = none ∧
      counterpartBank (pairedOn (scan on) 1 { mode := .entering }) = some 1 ∧
      (mcSwitch 1 (pairedOn (scan on) 1 { mode := .entering, coreMhz := 1000 })).isSome = true ∧
      (headsOfSwitch (pairedOn (scan on) 1 { mode := .entering }) 1).getLsbD 0 = true) ∧
    ({ paired {} with sched := { switch := some { fromBank := 0, toBank := 1, left := 1, done := 0, spire := true, accepted := 0, ticket := none } } : State }.sched.switch.any (·.spire) = true) ∧
    (answering.dict.spireAnswers = [{ bare 4 with op := 2 }] ∧ answering.dict.waiting = [] ∧ spireWaits answering = false ∧ ({ bare 4 with op := 2 } : Msg).op.toNat % 128 = 2) ∧
    (on.therm.mode ≠ .entering) ∧
    ((paired { mode := .entering }).therm.exitDue = 0 ∧ (paired { mode := .entering }).sched.switch = none ∧
      counterpartBank (paired { mode := .entering }) = some 1 ∧
      (mcSwitch 1 (paired { mode := .entering, coreMhz := 1000 })).isSome = true ∧ (paired { mode := .entering }).therm.coreMhz = 800) ∧
    on.therm.coreMhz ≠ 1000 ∧
    ((paired { coreMhz := 1000, spireSeconds := 10799999 }).therm.coreMhz = 1000 ∧
      (paired { coreMhz := 1000, spireSeconds := 10799999 }).therm.spireSeconds + 1 < 2 ^ 32 ∧
      (paired { coreMhz := 1000, spireSeconds := 10799999 }).therm.spireSeconds + 1 = 10800000) := by decide +kernel

/-- A device that is shut down, one without VDD_AON, and one whose SYSRST_N is low. -/
def cold (p : Power) (sysrst : Bool) : State := { State.reset with power := p, aon := { State.reset.aon with sysrstLow := sysrst } }

theorem witness_FaultsSetAndClear :
    (on.power = .on ∧ on.therm.mode = .sustained ∧ seesRails on = true ∧ (10 : Nat) ≠ 2 ∧ (10 : Nat) ∉ on.aon.railsWarn ∧
      (10 : Nat) ∉ on.aon.railsOut) ∧
    (seesRails (cold .shutdown false) = false ∧ (cold .shutdown false).power ≠ .off ∧ (cold .off false).power = .off ∧
      seesRails (cold (.halted 1) false) = true) ∧
    (clearedNow { on with safety := { on.safety with cleared := 256 } } 8 = true ∧ clearedNow on 8 = false ∧
      on.safety.category.getLsbD 8 = false) ∧
    (Pll.core ∈ { on with safety := { on.safety with pllOut := [.core] } : State }.safety.pllOut) ∧ (Pll.belfry ∉ on.safety.pllOut) ∧
    (Served on .manager ∧ carriesSafety on .manager = true) ∧ (Served on .mc ∧ carriesSafety on .mc = false) := by decide +kernel

/-- The outcomes of a start that reaches S11 at once. -/
def env : StartEnv :=
  { clocksOk := true, fusesOk := true, bankOutcome := [1, 1], recoveryLink := none, recoverySize := 4096, recoveryOutcome := 1, chSize := [8, 8, 8, 8],
    rungOk := List.replicate 4 [true, true, true], keepCode := 0, quadRate := List.replicate 8 [none, none, none, none], oslUp := 0,
    joined := false, cascRefused := false, cascPosition := 0, cascDevices := 0, cascHighest := 0,
    ledgerOk := [true, true, true, true], trainingOk := true, endMs := [1, 2, 3, 4, 5, 6, 7, 8, 9, 10, 11] }

theorem witness_ResetsStart :
    (on.power ≠ .off ∧ on.aon.porstLow = false ∧ on.power ≠ .shutdown) ∧ (cold .shutdown false).power = .shutdown ∧
    (on.aon.sysrstLow = false) ∧ (cold .inReset true).aon.sysrstLow = true ∧ (cold .off false).power = .off ∧
    ((1000 : Nat) ≤ 1000 ∧ (10000 : Nat) ≤ 10000) ∧ (2 : Fin 11).val = 2 ∧
    ({ env with clocksOk := false }.clocksOk = false ∧ { env with fusesOk := false }.fusesOk = false ∧
      recoveryOk env = false ∧ recoveryOk { env with recoveryLink := some (0, ⟨0, ⟨true, 0, 0, 0, 0⟩, true⟩) } = true ∧ bankOutcome { env with bankOutcome := [2, 3] } false ≠ 1 ∧
      bankOutcome { env with bankOutcome := [2, 3] } true ≠ 1 ∧ bankOutcome env false = 1) ∧
    ((2 : Fin 11).val = 2 ∧ on.dict.spireAnswers = []) := by decide +kernel

theorem witness_WatchdogsAndLinks :
    firmwareRuns (cold (.halted 3) false) = false ∧ firmwareRuns (cold (.halted 4) false) = true ∧ firmwareRuns on = true ∧
    (SMap.get listening.dict.ifaces 1 {}).on = true ∧ (SMap.get listening.dict.ifaces 3 {}).on = false ∧
    on.start.linksDue.getLsbD 0 = false ∧
    ({ on with start := { on.start with linksDue := 1 } : State }.start.linksDue.getLsbD 0 = true ∧ linksMissing on 0 ≠ 0) ∧
    ({ listening with start := { on.start with linksDue := 2, netUp := 2 } : State }.start.linksDue.getLsbD 1 = true ∧
      linksMissing { listening with start := { on.start with linksDue := 2, netUp := 2 } } 1 = 0) := by decide +kernel

theorem witness_StepRunsFront :
    { on with pending := [.heartbeat, .joinTimeout] }.pending = [.heartbeat, .joinTimeout] ∧
    (State.reset.pending = [] ∧ State.reset.power ≠ .on) := by decide +kernel

/-- A state that meets the invariant at its bounds. -/
def full : State :=
  { on with aon := { on.aon with otpWear := 300 }, pending := [.heartbeat]
            ic := { on.ic with targets := [(0, { stack := List.replicate 8 ⟨3, 15⟩ })] } }

theorem wf_full : Memory.wf full.mem = true := by decide +kernel

theorem witness_StepsKeepInvariant : Inv full ∧ step full = .next { full with pending := [], safety := { full.safety with refreshed := 0 } } := by
  refine ⟨⟨wf_full, fun i => ?_, fun x hx => (nomatch hx), fun i => ?_, by decide +kernel⟩, rfl⟩
  · show (SMap.get ([] : SMap Layer) i {}).queue.length ≤ 4
    simp [SMap.get]
  · show (SMap.get [(0, ({ stack := List.replicate 8 ⟨3, 15⟩ } : Target))] i {}).stack.length ≤ 8
    by_cases h : i = 0
    · subst h; decide
    · simp [SMap.get, Ne.symm h]

/-! ### The refusals of the well-formedness checks -/

/-- An ill-formed term for each check. -/
def badMsg : Msg := { bare 0 with len := 65536 }

theorem test_wellFormed_refuses :
    (Instr.registerWrite pf 2 [{ be := 15, data := 0 }]).illFormed = some .address ∧
    (Instr.groupKeyWrite pf (2 ^ 28) 0).illFormed = some .address ∧ (Instr.registerWrite pf 0 []).illFormed = some .dwords ∧
    (Instr.reservedWrite 0 0 (List.replicate 129 { be := 15, data := 0 })).illFormed = some .dwords ∧
    (Instr.bar2Read 0 0 0).illFormed = some .bar2 ∧ (Instr.bar2Write 0 (2 ^ 37) [none] false).illFormed = some .bar2 ∧
    (Instr.read badMsg).illFormed = some .message ∧ (Instr.csiLongPacket 0 0 0x0F [] true).illFormed = some .packet ∧
    (Instr.csiShortIgnored 0 0 1).illFormed = some .packet ∧ (Instr.patrolScrub 0 (2 ^ 31) true).illFormed = some .burst ∧
    (Instr.sensorSample []).illFormed = some .sensors ∧ (Instr.diagResponse pf []).illFormed = some .mac ∧
    (Instr.jtagInstruction (.response [])).illFormed = some .mac ∧
    (Instr.auxComplete 0 0 0 0 (List.replicate 17 0)).illFormed = some .aux ∧ (Instr.stageCopyDone 0 4 []).illFormed = some .queue ∧
    (Instr.send 0 8192).illFormed = some .send ∧ (Instr.segmentLineReceived 0 0 true (.line 65536 [])).illFormed = some .segment ∧
    (Instr.systemReset { env with endMs := [] }).illFormed = some .start ∧ (Instr.systemReset env).wf = true := by decide +kernel

/-! ### Results that the spec works out -/

/-- R363: the check values over "123456789", and the empty values. -/
theorem test_crc_checks :
    (List.range 4).map (fun a => crc a [0x31, 0x32, 0x33, 0x34, 0x35, 0x36, 0x37, 0x38, 0x39]) =
      [0xCBF43926, 0xE3069283, 0x6C40DF5F0B497347, 0x29B1] ∧
    (List.range 4).map (fun a => crc a []) = [0, 0, 0, 0xFFFF] := by decide +kernel

/-- The frame of reference head H0 (R38, R39): 7680 × 1200 of 7840 × 1236 with PAIR_DIV 0x0580_FA53. -/
def reference : Raster := { hTiming := 0x1EA01E00#32, vTiming := 0x04D404B0#32, pairDiv := 0x0580FA53#32 }

theorem test_reference_frame :
    reference.period = 26666666 ∧ reference.lineTime = 21574 ∧
    [(0, 7678), (1, 0), (1198, 0), (1199, 7678), (1200, 0), (1235, 0)].map (fun p => reference.offset p.1 p.2) =
      [21129, 21574, 25846817, 25889521, 25889967, 26645091] := by decide +kernel

/-- R167, R168: one NV12 pixel under PRESET 3. -/
theorem test_nv12_pixel :
    convert (preset 3) { c0 := 128 * 16, c1 := 1792, c2 := 2560 } = { c0 := 3016, c1 := 1875, c2 := 1552 } := by decide +kernel

/-- R172 to R174: a pixel of LAYER_ALPHA 0xC0 over the background (0, 2,050, 4,095), STRAIGHT, PREMULT and NONE. -/
theorem test_alpha_modes :
    (let d : Px := { c0 := 0, c1 := 2050, c2 := 4095 }
     let s : Px := { c0 := 4095, c1 := 1028, c2 := 0, a := 2056 }
     [blendOver (contribution 1 3084 s) d, blendOver (contribution 2 3084 { s with c0 := 2056, c1 := 514 }) d,
      blendOver (contribution 0 3084 s) d]) =
    [{ c0 := 1548, c1 := 1664, c2 := 2547 }, { c0 := 1548, c1 := 1662, c2 := 2547 }, { c0 := 3084, c1 := 1280, c2 := 1011 }] := by
  decide +kernel

/-- R181, R182: the colour of that pixel at depth 8, column 2 and line 5. -/
theorem test_dither :
    [0, 1, 2].map (fun mode => [1548, 1664, 2547].map (dither mode 8 2 5 3)) = [[96, 104, 159], [97, 104, 160], [97, 104, 159]] := by
  decide +kernel

/-- R149: an NV12 source of 1,080 lines shown as 1,200, INIT AUTO: the first line and the last, with the taps of each. -/
theorem test_scaler_phases :
    samplePos 0x80000000#32 0x00E66666#32 0 = (-1, 61) ∧ samplePos 0x80000000#32 0x00E66666#32 1199 = (1079, 3) ∧
    (List.range 4).map (tapIndex (-1) 4 1080) = [0, 0, 0, 1] ∧ (List.range 4).map (tapIndex 1079 4 1080) = [1078, 1079, 1079, 1079] ∧
    (List.range 4).map (fun k => coefficient 1 4 61 k (fun _ _ => 0)) = [0, 192, 3904, 0] := by decide +kernel

/-- R374: the choice between two copies across the wrap of the alive counter. -/
theorem test_copies_wrap :
    chooseCopy (some 0xFFFFFFFF) none = some false ∧ nextAlive 0xFFFFFFFF = 0 ∧ aliveOutcome (some 0xFFFFFFFF) 0 = .ok ∧
    aliveOutcome (some 0) 0xFFFFFFFF = .stale ∧ chooseCopy (some 0xFFFFFFFF) (some 0) = some true := by decide +kernel

/-- Places in the register map that the spec writes out (R61, R234, R269). -/
theorem test_addresses :
    decode on pf 0x008F0024 = .reg (rg .dhLatchLine 15) ∧ decode on pf 0x00980FC0 = .reg (rg .epEctrl 63) ∧
    decode on pf 0x009701C0 = .reg (rg .oqAuxCmd 7 3) ∧ decode on pf 0x008F97FC = .reg (rg .laProg 15 511) ∧
    decode on pf 0x00AB97FC = .reg (rg .laProg 19 511) ∧ decode on pf 0x00AB9800 = .reserved := by decide +kernel

/-! ### Single commands -/

/-- EOI of the top of a claim stack (R352). -/
theorem test_eoi_pops :
    (nextOf (exec (.eoi pf false 511) (target 0 { stack := [⟨511, 15⟩, ⟨3, 1⟩] } on))).map (fun t => (t.target 0).stack) =
      some [⟨3, 1⟩] := by decide +kernel

/-- A write of one byte has cause 1 and writes nothing (R328, R338). -/
theorem test_narrow_write :
    (nextOf (exec (.registerWrite pf (rg .pmEvtsel 0 0).addr [{ be := 1, data := 9 }]) on)).map (fun t =>
      ((t.errRec 0).cause, t.reg (rg .pmEvtsel 0 0))) = some (1, 0) := by decide +kernel

/-- OPEN answers ticket 1, and a second OPEN of the same holder 0 (R272). -/
theorem test_open_twice :
    ((nextOf (exec (.open pf true) on)).bind (fun t => (nextOf (exec (.open pf true) t)).map (fun u => (t.reply, u.reply)))) =
      some (.word 1, .word 0) := by decide +kernel

/-! ### An image that the loader accepts, written out from R64 to R79 -/

/-- The directory: HEADS, CLASSES, SLOTS, ASSIGN and CERT; the other sections are empty. -/
def imageDir : List (Nat × Nat) :=
  [(0x80, 512), (0, 0), (0x280, 32), (0x2A0, 1600), (0x8E0, 384), (0, 0), (0, 0), (0xA60, 96), (0, 0), (0, 0)]

/-- A sustained image of channel M0 and head H0 with the raster of these tests, LEAD 1 and latch line 8; one class without envelopes; a
table of refreshes; and the totals that follow. -/
def imagePayload : List Byte :=
  leBytes 4 0x4B564B53 ++ leBytes 2 0x0100 ++ leBytes 2 0x7160 ++ [0x11, 0, 1, 0] ++ leBytes 2 1 ++ leBytes 2 1 ++ leBytes 2 0xFFFF ++
  leBytes 2 8533 ++ leBytes 4 1066625 ++ leBytes 2 0 ++ leBytes 2 1 ++ leBytes 4 0 ++
  imageDir.flatMap (fun d => leBytes 4 d.1 ++ leBytes 4 d.2) ++ List.replicate 16 0 ++
  ([64, 96, 64, 2, 8, 16, 8].flatMap (leBytes 2) ++ [1, 0] ++ leBytes 4 0x03000000 ++ leBytes 2 8 ++ [1, 0, 0, 0] ++ List.replicate 6 0) ++
  List.replicate 480 0 ++
  ([0, 0] ++ leBytes 2 0 ++ leBytes 2 15 ++ [0, 0] ++ List.replicate 18 0xFF ++ List.replicate 6 0) ++
  List.replicate 1600 1 ++ (List.replicate 96 [0xFF, 0xFF, 0, 0]).flatten ++
  (List.replicate 6 0 ++ leBytes 2 1600 ++ List.replicate 56 0 ++ leBytes 4 14564 ++ List.replicate 28 0)

/-- Its guarded record (R371), with ALIVE 1 and CRC-32. -/
def imageHeader : List Byte :=
  leBytes 4 0x44524754 ++ leBytes 2 3 ++ [0, 0] ++ leBytes 4 2752 ++ leBytes 4 1 ++ leBytes 8 2810506308 ++ List.replicate 6 0
def imageRecord : List Byte := imageHeader ++ leBytes 2 46192 ++ imagePayload

/-- A part without the need for a signature, and a load of that record into bank 2. -/
def loadingImage : State :=
  { fitted with dict := { fitted.dict with values := SMap.set fitted.dict.values (0x6002 * 256) [0] [] }
                sched := { load := some { bank := 2, record := imageRecord, busy := false, before := .empty } } }

/-- The same with another bank LIVE. -/
def loadingSecond : State :=
  { loadingImage with sched := { loadingImage.sched with banks := [(0, { state := .live, image := some {} })] } }

theorem witness_BanksLoadAndUnload_refused :
    (Served (loading false) pf ∧ mayConfigure (loading false) pf = true ∧ (loading false).sched.load.isSome = true) ∧
    (liveBank loadingImage = none ∧ liveBank loadingSecond = some 0 ∧ (0 : Nat) ≠ 2) := by decide +kernel

set_option maxRecDepth 100000 in
theorem witness_BanksLoadAndUnload_accepted :
    (judgeRecord loadingImage imageRecord.length imageRecord).2.isSome = true ∧
    (judgeRecord loadingSecond imageRecord.length imageRecord).2.isSome = true := by decide +kernel

/-! ### Further clauses -/

/-- A joined turret with both ports up whose group 3 follows the belfry, and lantern 0 waiting for channel c. -/
def turret : State := (relaying 0).setReg (rg .btPgCtrl 3) 0x4#32
def syncing : State := { (waits (.sync 5 0) none) with casc := turret.casc }

theorem witness_GenlockEvents_turret :
    (turret.power = .on ∧ turret.casc.role = 2 ∧ turret.casc.state = .joined ∧ refOf turret 3 = 4 ∧ (turret.osl 1).up = true) ∧
    (on.casc.role ≠ 2 ∨ on.casc.state ≠ .joined) := by decide +kernel

/-- Lantern 0 waits for a fence, with its time out since tick 9 of 1,000. -/
def outOfTime : State :=
  { (prog 16 0x647003FF#32 (scan on)).setLantern 0 { state := .waiting, wait := some (.fence 1023 1 0), out := some 9 } with tick := 1000 }

/-- Unit 7 with no program, with a descriptor of a kind that is not defined, and at work. -/
def scans (cfg : Word) (x : CvUnit) : State := { (prog 16 0x70000007#32 on).setReg (rg .cvCfg 7 0) cfg with cv := [(7, x)] }

theorem witness_LanternFencesAndScan_cases :
    (Issues outOfTime 16 0x19 0x647003FF#32 ∧ (outOfTime.lantern 0).wait = some (.fence 1023 1 0) ∧ expired outOfTime 0 0 = true) ∧
    (cvIdle (scans 0x82000000#32 {}) 7 = true ∧ firstBad none (cvProgram (scans 0x82000000#32 {}) 7 0) = none) ∧
    (cvIdle (scans 0xB0000000#32 {}) 7 = true ∧ firstBad none (cvProgram (scans 0xB0000000#32 {}) 7 0) = some 0) ∧
    (Issues (scans 0 { busy := true }) 16 0x1C 0x70000007#32 ∧ cvIdle (scans 0 { busy := true }) 7 = false) :=
  ⟨⟨issues_of _ _ _ _ (by decide +kernel), by decide +kernel⟩, by decide +kernel, by decide +kernel,
    ⟨issues_of _ _ _ _ (by decide +kernel), by decide +kernel⟩⟩

theorem witness_LanternSync_cases :
    (lanternClocked syncing 0 = true ∧ (syncing.lantern 0).wait = some (.sync 5 0) ∧ (syncing.lantern 0).pc < 511 ∧
      syncing.casc.state = .joined ∧ syncing.casc.role = 2 ∧ (syncing.osl 1).up = true ∧ SMap.get syncing.casc.synced 5 none ≠ some 77) ∧
    on.casc.state ≠ .joined := by decide +kernel

/-- A lantern that runs on a word at PC 511; one of 16 with its budget of a pace used up; and one of 0 that has used its line's. -/
def atLast (l : Nat) (w : Word) (s : State) : State := (s.setReg (rg .laProg l 511) w).setLantern l { state := .running, pc := 511, len := 512 }
def overPace : State := (prog 16 0x1001FFFF#32 on).setLantern 16 { state := .running, len := 1, issued := 8176 }

/-- A FLARE with eight entries queued, and one that triggers a source that is not the program's. -/
def fullBank : State :=
  { prog 16 0x50000000#32 on with flares := { bank := [(16, List.replicate 8 { target := 5, act := .set, mask := 1, order := 0 })] } }
def badTrigger : State := (prog 16 0x53000000#32 on).setLantern 16 { state := .running, len := 1, lg := [(0, 0x20000002#32)] }

theorem witness_LanternFaults_cases :
    (lanternRow (.movi 16) = some (16, 0x04) ∧ (overPace.lantern 16).pace = paceOf overPace ∧
      budgetOf overPace 16 ≤ (overPace.lantern 16).issued ∧ opOf (lanternWord overPace 16) = 0x04) ∧
    (lanternRow (.waitp 16) = some (16, 0x11) ∧ ((prog 16 0x44000000#32 on).lantern 16).issued < budgetOf (prog 16 0x44000000#32 on) 16 ∧
      illegalWord 16 (lanternWord (prog 16 0x44000000#32 on) 16) = true ∧ fieldMask 0xFC000000#32 = none) ∧
    (Issues (atLast 16 0x207AFFFF#32 on) 16 0x08 0x207AFFFF#32 ∧ 511 ≤ ((atLast 16 0x207AFFFF#32 on).lantern 16).pc) ∧
    Issues (atLast 0 0x60000000#32 (scan on)) 0 0x18 0x60000000#32 ∧ Issues (atLast 19 0x70000007#32 on) 19 0x1C 0x70000007#32 ∧
    (Issues (atLast 16 0x780001FF#32 on) 16 0x1E 0x780001FF#32 ∧ permittedSource 16 (fld 0x780001FF#32 0 9) = true) ∧
    (Issues (p0 0x40000010#32) 0 0x10 0x40000010#32 ∧ (appliedRaster (p0 0x40000010#32) 0).vTotal ≤ waitOperand (p0 0x40000010#32) 0 0x40000010#32) ∧
    (Issues (prog 16 0x40002001#32 on) 16 0x10 0x40002001#32 ∧ 8192 < waitOperand (prog 16 0x40002001#32 on) 16 0x40002001#32) ∧
    (Issues fullBank 16 0x14 0x50000000#32 ∧ flareAct fullBank 16 0x50000000#32 ≠ none ∧ 8 ≤ (bankOf fullBank 16).length) ∧
    (Issues (prog 16 0x52000000#32 on) 16 0x14 0x52000000#32 ∧ fld 0x52000000#32 24 2 = 2 ∧
      lg (prog 16 0x52000000#32 on) 16 (fld 0x52000000#32 18 3) = 0) ∧
    (Issues (prog 16 0x53000000#32 on) 16 0x14 0x53000000#32 ∧ fld 0x53000000#32 24 2 = 3 ∧
      fld (lg (prog 16 0x53000000#32 on) 16 (fld 0x53000000#32 21 3)) 28 4 = 0) ∧
    (Issues badTrigger 16 0x14 0x53000000#32 ∧ fld (lg badTrigger 16 (fld 0x53000000#32 21 3)) 28 4 = 2 ∧
      permittedSource 16 (fld (lg badTrigger 16 (fld 0x53000000#32 21 3)) 0 9) = false) ∧
    (Issues (prog 16 0x780001C0#32 on) 16 0x1E 0x780001C0#32 ∧ permittedSource 16 (fld 0x780001C0#32 0 9) = false) := by
  refine ⟨by decide +kernel, by decide +kernel, ⟨issues_of _ _ _ _ (by decide +kernel), by decide +kernel⟩,
    issues_of _ _ _ _ (by decide +kernel), issues_of _ _ _ _ (by decide +kernel), ⟨issues_of _ _ _ _ (by decide +kernel), by decide +kernel⟩,
    ⟨issues_of _ _ _ _ (by decide +kernel), by decide +kernel⟩, ⟨issues_of _ _ _ _ (by decide +kernel), by decide +kernel⟩,
    ⟨issues_of _ _ _ _ (by decide +kernel), by decide +kernel⟩, ⟨issues_of _ _ _ _ (by decide +kernel), by decide +kernel⟩,
    ⟨issues_of _ _ _ _ (by decide +kernel), by decide +kernel⟩, ⟨issues_of _ _ _ _ (by decide +kernel), by decide +kernel⟩,
    ⟨issues_of _ _ _ _ (by decide +kernel), by decide +kernel⟩⟩

/-- Port 0 with a slot whose queue is full, that is unbound, whose fence names a stream that is off, and whose host pitch is too short. -/
def queueFull : State := opened.setLayer 0 { queue := List.replicate 4 { staged with stage := none } }
def streamFence : State := opened.setReg (rg .ppFence 0) 0x80000000#32
def shortPitch : State := (opened.setReg (rg .faSrcSize 0) 0x00010040#32).setReg (rg .faFormat 0) 1

theorem witness_DoorbellsQueue_results :
    queueResult queueFull 0 false = 1 ∧ queueResult (opened.setReg (rg .faCtrl 0) 0) 0 false = 2 ∧ queueResult streamFence 0 false = 3 ∧
    queueResult shortPitch 0 true = 4 ∧ queueResult shortPitch 0 false = 0 := by decide +kernel

theorem witness_EccEvents_metadata :
    fitted.power = .on ∧ absentDpa fitted (117440510 * 64) = false ∧ chanOf (117440510 * 64) = 0 ∧ (true = true → 117440510 / 8 = 117440504 / 8) := by
  decide +kernel

/-- A captured tile that is in the frame's record. -/
def recorded : State := { keeping with keep := { keeping.keep with heads := [(0, { tileValid := true, tiles := [(0, 0)] })] } }

theorem witness_KeepFaultsEnter_recorded :
    isRunning recorded 0 = true ∧ regionAt recorded 0 (16 * 0) (4 * 0) = some 3 ∧ (recorded.keepHead 0).tileValid = true ∧
    (recorded.keepHead 0).tiles.contains (0, 0) = true := by decide +kernel

/-- Stream 191 with the ring of 8 lines of 256 bytes that its group names, in a frame and out of one; and a ring whose pitch does not fit. -/
def ringed (pitch : Word) (x : Stream) : State :=
  { ((((fitted.setReg (rg .siPctrl 17) 1).setReg (rg .siSctrl 191) 0x8011202A#32).setReg (rg .siRingPitch 191) pitch).setReg
      (rg .siRingGeom 191) 0x00080008#32) with si := { streams := [(191, x)] } }

/-- Share 31 of engine 1 stalled for its ring. -/
def stalledRing : State :=
  { doing true 0x80000004#32 16 with
    hl := hosted.hl
    bl := { (doing true 0x80000004#32 16).bl with engines := [(1, { current := some (fill true 16, 0, 1), stall := some 31 })] } }

theorem witness_GroupKeysComplete_draftable :
    (Served (scan on) pf ∧ PlainWrite (scan on) pf (rg .cpPostB 0).addr (rg .cpPostB 0) 0 ∧
      (rg .cpPostB 0).name.row.kind = .key .postMatrix ∧ Grp.postMatrix.draftable = true ∧ rg .cpPostB 0 = Grp.postMatrix.keyOf 0 0 ∧
      headOfItem (scan on) (groupWrites (scan on) .postMatrix (rg .cpPostB 0) 0 (carriesSafety (scan on) pf)) = some 0 ∧
      isRunning (scan on) 0 = true) ∧
    (PlainWrite on pf (rg .cpPostB 0).addr (rg .cpPostB 0) 0 ∧ isRunning on 0 = false ∧
      headOfItem on (groupWrites on .postMatrix (rg .cpPostB 0) 0 (carriesSafety on pf)) = some 0) := by
  refine ⟨⟨by decide +kernel, plain_of _ _ _ _ _ (by decide +kernel), by decide +kernel⟩, plain_of _ _ _ _ _ (by decide +kernel),
    by decide +kernel⟩

theorem witness_GroupKeysComplete_judged :
    (tryItem 0 (groupWrites on .postMatrix (rg .cpPostB 0) 0 (carriesSafety on pf))
      (pinSurfaces (groupWrites on .postMatrix (rg .cpPostB 0) 0 (carriesSafety on pf))
        (clearPending .postMatrix 0 0 (dropHeld .postMatrix 0 0 (countBar0 pf 2 on))))).toOption.isSome = true ∧
    (headOfItem on (groupWrites on .segment (rg .caSegCtrl 0) 0x80000000#32 (carriesSafety on pf)) = some 0 ∧
      (tryItem 0 (groupWrites on .segment (rg .caSegCtrl 0) 0x80000000#32 (carriesSafety on pf)) on).toOption.isSome = false) := by
  decide +kernel

theorem witness_GroupKeysComplete_rings :
    (PlainWrite (ringed 256 { active := true }) pf (rg .siRingBaseHi 191).addr (rg .siRingBaseHi 191) 0 ∧
      (rg .siRingBaseHi 191).name.row.kind = .key .ring ∧ rg .siRingBaseHi 191 = Grp.ring.keyOf 191 0 ∧
      ((ringed 256 { active := true }).stream 191).active = true) ∧
    (PlainWrite (ringed 64 {}) pf (rg .siRingBaseHi 191).addr (rg .siRingBaseHi 191) 0 ∧ ((ringed 64 {}).stream 191).active = false ∧
      (streamFails (overlay (groupWrites (ringed 64 {}) .ring (rg .siRingBaseHi 191) 0 (carriesSafety (ringed 64 {}) pf)) (ringed 64 {})) 191 =
        some 10) ∧
      streamFails (overlay (groupWrites (ringed 256 {}) .ring (rg .siRingBaseHi 191) 0 (carriesSafety (ringed 256 {}) pf)) (ringed 256 {})) 191 =
        none) ∧
    (Served stalledRing (.fn 31) ∧ PlainWrite stalledRing (.fn 31) 0x51064 (rg .shCringHi 31 1) 0 ∧ (rg .shCringHi 31 1).name.row.kind = .key .cring ∧
      rg .shCringHi 31 1 = Grp.cring.keyOf 31 1 ∧ (stalledRing.engine 1).stall = some 31 ∧
      (stalledRing.engine 1).current = some (fill true 16, 0, 1) ∧ (fill true 16).fn = 31 ∧ (fill true 16).wantsRecord = true ∧
      ringOn stalledRing 1 31 = true ∧ stalledRing.hl.d3hot.getLsbD 31 = false) ∧
    (on.engine 0).stall ≠ some 0 := by
  refine ⟨⟨plain_of _ _ _ _ _ (by decide +kernel), by decide +kernel⟩, ⟨plain_of _ _ _ _ _ (by decide +kernel), by decide +kernel⟩,
    ⟨by decide +kernel, plain_of _ _ _ _ _ (by decide +kernel), by decide +kernel⟩, by decide +kernel⟩

/-- PAIR_DIV of head 0, the key of its timing group, waits in its block, of a head that scans. -/
def postedKey : State :=
  { scan on with posted := [{ block := .head 0, reg := rg .dhPairDiv 0, value := 0x03000000#32, src := pf, safety := false }] }

theorem witness_PostedWritesLand_keys :
    (Served on pf ∧ decode on pf (rg .dhPairDiv 0).addr = .reg (rg .dhPairDiv 0) ∧ (rg .dhPairDiv 0).name.row.kind = .key .timing ∧
      (rg .dhPairDiv 0).name.row.posted = true ∧ judgeWrite on pf false (rg .dhPairDiv 0) 1 = none ∧
      blockBusy on (blockOfReg (rg .dhPairDiv 0)) = false ∧ (rg .dhPairDiv 0).addr % 4 = 0) ∧
    (Served postedKey pf ∧ judgeWrite postedKey pf false (rg .dhPairDiv 0) 1 = none ∧ judgeWrite postedKey .manager false (rg .dhPairDiv 0) 1 = none ∧
      blockBusy postedKey (blockOfReg (rg .dhPairDiv 0)) = true) ∧
    (postedKey.power = .on ∧ postedKey.posted.filter (fun y => y.block = .head 0) =
        [{ block := .head 0, reg := rg .dhPairDiv 0, value := 0x03000000#32, src := pf, safety := false }] ∧
      ignoresWrites (rg .dhPairDiv 0) = false ∧ Grp.timing.draftable = true ∧ rg .dhPairDiv 0 = Grp.timing.keyOf 0 0 ∧
      headOfItem postedKey (groupWrites postedKey .timing (rg .dhPairDiv 0) 0x03000000#32 false) = some 0 ∧ isRunning postedKey 0 = true ∧
      postedKey.dict.blocked = [] ∧ postedKey.dict.waiting = []) := by decide +kernel

theorem witness_BadRequestsAreLogged_unreached :
    unreached on (.fn 1) = true ∧ unreached hosted (.fn 1) = false ∧
    unreached { on with hl := { on.hl with d3hot := 1 } } (.fn 0) = true := by decide +kernel

/-- Receive port 2 takes a channel of the cascade that has arrived; and a frame of 8,192 lines (LinesAreWritten and ReceivePortsLock too). -/
def arriving : State := { onChannel with si := { ports := [(2, { lock := true, via := some 0 })] } }
def lineEnd : State := receiving { active := true, writes := true, wp := 8192 }

theorem witness_FramesStartAndEnd_channels :
    (receives arriving 2 = true ∧ takesChannel arriving 2 = true ∧ takesChannel onChannel 2 = true ∧ takesChannel (receiving {}) 17 = false ∧ takesChannel on 0 = false) ∧
    ((lineEnd.stream 191).writes = true ∧ 8192 ≤ (lineEnd.stream 191).wp ∧ takerOf lineEnd 17 15 0x2A = some 191) ∧
    (bit (onChannel.reg (rg .siPctrl 2)) 0 = true ∧ (onChannel.rx 2).lock = false) := by decide +kernel

/-- Quad 7 as `quad`, with head 15 shed and stopped: its domain has no clock (LinksTrainAndDrop and AuxMailbox). -/
def darkQuad (x : TxPort) : State := { quad x with therm := { on.therm with shed := 0x8000 } }

theorem witness_QuadsWithoutClock :
    quadClocked (darkQuad { state := .training }) 7 = false ∧ ((darkQuad { state := .training }).txPort 7 0).state = .training ∧
    quadClocked (darkQuad { auxBusy := true }) 7 = false ∧ ((darkQuad { auxBusy := true }).txPort 7 0).auxBusy = true ∧
    quadClocked (quad { state := .training }) 7 = true ∧ quadClocked (quad { state := .up }) 7 = true ∧ quadClocked (quad {}) 7 = true ∧
    quadClocked (quad { auxBusy := true, auxOp := 4, auxLen := 16 }) 7 = true := by decide +kernel

/-- The sources that an exchange admits: a function, and a node with a key that it has not used up; a node without one is refused. -/
theorem witness_SessionsOpenAndEnd_admits :
    (takeDirect pf on).2 = .ok ∧ (takeDirect pf inSession).2 = .ok ∧ (takeDirect pf (challenged 0)).2 = .ok ∧ on.dict.challenge = none ∧ lockedOut on = false ∧
    slotUsable { on with aon := { on.aon with fuseRevoked := 0xFFFF } } 3 = false := by
  refine ⟨rfl, rfl, rfl, rfl, by decide +kernel, ?_⟩
  simp [slotUsable]

/-- Slot 3 with its transmit counter used up. -/
def usedUp : State := { on with dict := { on.dict with counter := [(3, counterMax)] } }

theorem witness_SessionsOpenAndEnd_keys (h : Config.nodeKeyProvisioned 3 = true) :
    (takeDirect node on).2 = .ok ∧ slotUsable usedUp 3 = true ∧ slotExhausted usedUp 3 = true := by
  have r : on.aon.fuseRevoked = 0 := rfl
  have q : usedUp.aon.fuseRevoked = 0 := rfl
  have u : slotUsable on 3 = true := by simp [slotUsable, h, r]
  have v : slotUsable usedUp 3 = true := by simp [slotUsable, h, q]
  have x : slotExhausted on 3 = false := by decide +kernel
  refine ⟨?_, v, by decide +kernel⟩
  have j : ((3 : Fin 16)).val = 3 := rfl
  simp [takeDirect, node, j, u, x]

theorem witness_LocksKeysAndLedger_admits :
    ((takeDirect .mc on).2 = .ok ∧ (classesOf on .mc).meets rCfg = true) ∧ ((takeDirect pf inSession).2 = .ok ∧ inSession.dict.session = some pf) :=
  ⟨⟨rfl, by decide +kernel⟩, rfl, rfl⟩

/-- A WRITE of 1 to SPIRE_CTRL, which begins an entry. -/
def asksSpire : State := asks [0x01010002, 0x00017010, 1] 9 (paired {})

theorem witness_MessagesWrite_spire :
    Reaches asksSpire (windowMsg asksSpire 0) (serving asksSpire) ∧ shapeOk 2 (windowMsg asksSpire 0) = true ∧
    mustWait (serving asksSpire) 0x7010 1 false = false ∧ (windowMsg asksSpire 0).index.toNat = 0x7010 ∧
    (writeObject pf 0x7010 1 false [1] (serving asksSpire)).2.stored = false ∧
    (writeObject pf 0x7010 1 false [1] (serving asksSpire)).2.spire = true :=
  ⟨reaches_of _ (by decide +kernel), by decide +kernel⟩

end Sys2Proof.Tests
end

section
/-! PROOF. What a step of a head's frame makes of that head, and that it leaves the other heads as they were. -/

namespace Sys2Proof.Machine

/-! ### One head written -/

/-- A head whose selection has come about (R133). -/
def Head.selectedNow (h : Head) : Head := { h with selected := true }

/-- A head that begins, its selection made (R41). -/
def Head.begun (h : Head) : Head := { h with phase := .running, selected := true }

/-- A head in line y, whose window is still to open. -/
def Head.inLine (y : Nat) (h : Head) : Head := { h with line := y, opened := false }

/-- A head with the window of its line open (R70). -/
def Head.openedNow (h : Head) : Head := { h with opened := true }

/-- Head n comes to `h`, and every other head stays. -/
structure HeadBecomes (n : Nat) (h : Head) (s t : State) : Prop where
  own : t.head n = h
  other : ∀ m, m ≠ n → t.head m = s.head m

/-- The heads that a frame without them leaves. -/
theorem head_of_only {l : List Part} {s t : State} (k : Only l s t) (hl : l.contains .heads = false) (m : Nat) :
    t.head m = s.head m := by
  have h : t.heads = s.heads := k.same .heads hl
  unfold State.head; rw [h]

theorem HeadBecomes.setHead (n : Nat) (h : Head) (s : State) : HeadBecomes n h s (s.setHead n h) :=
  ⟨State.head_setHead _ _ _, fun _ hm => State.head_setHead_ne _ _ hm⟩

/-- An operation that leaves the heads alone comes before. -/
theorem HeadBecomes.behind {l : List Part} {n : Nat} {h : Head} {s t u : State} (k : Only l s t)
    (hl : l.contains .heads = false) (c : HeadBecomes n h t u) : HeadBecomes n h s u :=
  ⟨c.own, fun m hm => (c.other m hm).trans (head_of_only k hl m)⟩

/-- An operation that leaves the heads alone follows. -/
theorem HeadBecomes.after {l : List Part} {n : Nat} {h : Head} {s t u : State} (c : HeadBecomes n h s t)
    (k : Only l t u) (hl : l.contains .heads = false) : HeadBecomes n h s u :=
  ⟨(head_of_only k hl n).trans c.own, fun m hm => (head_of_only k hl m).trans (c.other m hm)⟩

theorem HeadBecomes.trans {n : Nat} {h h' : Head} {s t u : State} (c : HeadBecomes n h s t) (d : HeadBecomes n h' t u) :
    HeadBecomes n h' s u :=
  ⟨d.own, fun m hm => (d.other m hm).trans (c.other m hm)⟩

/-! ### Selection -/

/-- A selection marks its head as selected (R133). -/
theorem selectHead_becomes (n : Nat) (s : State) : HeadBecomes n (s.head n).selectedNow s (selectHead n s) := by
  unfold selectHead
  extract_lets after a src
  have ha : Only [.fabric, .fa] s a := Only.fold _ (Only.refl _ s) (fun x i hx => hx.trans (selectSlot_only _ _ _ _))
  change HeadBecomes n (s.head n).selectedNow s (flushRecs (a.setHead n (a.head n).selectedNow))
  rw [← head_of_only ha rfl n]
  exact ((HeadBecomes.setHead n _ a).behind ha rfl).after (flushRecs_only _) rfl

/-- A selection that has come about is not made again: the head is selected either way. -/
theorem selectOnce_becomes (n : Nat) (s : State) :
    HeadBecomes n (s.head n).selectedNow s (if (s.head n).selected then s else selectHead n s) := by
  split
  · rename_i hsel
    exact ⟨by rw [Head.selectedNow, ← hsel], fun _ _ => rfl⟩
  · exact selectHead_becomes n s

theorem selectOnce_only (n : Nat) (s : State) :
    Only [.regs, .heads, .fabric, .fa] s (if (s.head n).selected then s else selectHead n s) := by
  split
  · exact Only.refl _ s
  · exact selectHead_only n s

/-- SELECTION of a head that waits to begin: two lines before (R136). -/
theorem selection_waiting {n b : Nat} {s : State} (hw : (s.head n).phase = .waiting b) (hsel : (s.head n).selected = false) :
    selection n s = selectHead n (toTick (b - 2 * (s.head n).raster.lineTime) s) := by
  simp [selection, hw, hsel]

/-- SELECTION of a head that scans: at the cut-off (R133). -/
theorem selection_running {n : Nat} {s : State} (hr : (s.head n).phase = .running) (hl : (s.head n).latched = false)
    (hsel : (s.head n).selected = false) : selection n s = selectHead n (toTick (cutOff s n) s) := by
  simp [selection, hr, hl, hsel]

/-- A selection at a tick. -/
theorem selectAt_becomes (n t : Nat) (s : State) :
    HeadBecomes n (s.head n).selectedNow s (selectHead n (toTick t s)) := by
  rw [← head_of_only (toTick_only t s) rfl n]
  exact (selectHead_becomes n (toTick t s)).behind (toTick_only t s) rfl

theorem selectAt_tick (n t : Nat) (s : State) : (selectHead n (toTick t s)).tick = max s.tick t :=
  Eq.trans ((selectHead_only n _).same .tick rfl) (toTick_tick t s)

/-! ### Beginning -/

/-- HEAD_BEGIN of a waiting head: it scans, selected, in the frame it had (R41). -/
theorem headBegin_becomes {n b : Nat} {s : State} (hw : (s.head n).phase = .waiting b) :
    HeadBecomes n (s.head n).begun s (headBegin n s) := by
  simp -zeta only [headBegin, hw]
  extract_lets a c src d
  have ha : HeadBecomes n (s.head n) s a :=
    ⟨(head_of_only (advanceGroups_only _) rfl n).trans (head_of_only (toTick_only b s) rfl n),
      fun m _ => (head_of_only (advanceGroups_only _) rfl m).trans (head_of_only (toTick_only b s) rfl m)⟩
  have hc : HeadBecomes n (s.head n).selectedNow s c := by
    rw [← ha.own]; exact ha.trans (selectOnce_becomes n a)
  have hd : HeadBecomes n (s.head n).begun s d := by
    have h : HeadBecomes n { c.head n with phase := .running } c d :=
      ((HeadBecomes.setHead n _ _).behind (settlePace_only n _) rfl).behind (forgetLost_only n c) rfl
    rw [hc.own] at h
    exact hc.trans h
  exact (hd.after (perfEvent_only 8 n 1 1 _) rfl).after (lanternLine_only _ _ _ _) rfl

/-- HEAD_BEGIN stands at the tick that the head waited for (R41). -/
theorem headBegin_tick {n b : Nat} {s : State} (hw : (s.head n).phase = .waiting b) :
    (headBegin n s).tick = max s.tick b := by
  simp -zeta only [headBegin, hw]
  extract_lets a c src d
  have ha : a.tick = max s.tick b := Eq.trans ((advanceGroups_only _).same .tick rfl) (toTick_tick b s)
  have hc : c.tick = a.tick := (selectOnce_only n a).same .tick rfl
  have hd : d.tick = c.tick := Eq.trans ((settlePace_only n _).same .tick rfl) ((forgetLost_only n c).same .tick rfl)
  calc (lanternLine n (d.head n).line b (perfEvent 8 n 1 1 d)).tick
      = (perfEvent 8 n 1 1 d).tick := (lanternLine_only _ _ _ _).same .tick rfl
    _ = d.tick := (perfEvent_keeps 8 n 1 1 d).tick
    _ = max s.tick b := by rw [hd, hc, ha]

/-! ### Lines and windows -/

/-- The operations that fetch a line leave the heads alone, whatever slots the head still shows (R70, R482). -/
theorem seenWindow_only (n y : Nat) (next : Bool) (lost : List LostBurst) (s : State) :
    Only [.fresh, .outbox, .regs, .hl, .fabric, .fa, .tap, .keep, .si, .dict, .ic, .pm, .safety] s
      (seenBy n (openWindow n y next lost) s) :=
  seenBy_only rfl (fun x hx => hx.trans (openWindow_only n y next lost x)) (Only.refl _ s)

/-- The window of the present line opens (R70). -/
theorem openLine_becomes (n : Nat) (lost : List LostBurst) (s : State) :
    HeadBecomes n (s.head n).openedNow s (openLine n lost s) := by
  unfold openLine
  extract_lets h y a
  have ha : HeadBecomes n (s.head n).openedNow s a := HeadBecomes.setHead n _ s
  split
  · split
    · exact ha
    · exact ha.after (seenWindow_only n _ _ lost a) rfl
  · exact ha.after (seenWindow_only n _ _ lost a) rfl

/-- A head enters a line, whose window is still to open. -/
theorem enterLine_becomes (n y : Nat) (s : State) :
    HeadBecomes n ((s.head n).inLine y) s (enterLine n y s) := by
  unfold enterLine
  extract_lets src a b line
  have ha : HeadBecomes n ((s.head n).inLine y) s a :=
    (HeadBecomes.setHead n _ s).after (perfEvent_only 8 n 1 1 _) rfl
  have hb : HeadBecomes n ((s.head n).inLine y) s b := ha.after (lanternLine_only _ _ _ _) rfl
  split
  · have ht : HeadBecomes n ((s.head n).inLine y) s
        { b with tap := SMap.set b.tap (n * 65536 + y) line [] } := ⟨hb.own, hb.other⟩
    exact ht.after (sendStreams_only _ _ _ _) rfl
  · exact hb

/-- A head whose window is still to open opens it (R70). -/
theorem fetchWindowOpen_first {n : Nat} {s : State} (lost : List LostBurst) (hr : (s.head n).phase = .running)
    (hop : (s.head n).opened = false) : fetchWindowOpen n lost s = openLine n lost s := by
  simp [fetchWindowOpen, isRunning, hr, hop]

/-- A head whose window is open leaves its line and opens the window of the next one (R70). -/
theorem fetchWindowOpen_next {n : Nat} {s : State} (lost : List LostBurst) (hr : (s.head n).phase = .running)
    (hop : (s.head n).opened = true) (hadv : mayAdvance s n = true) :
    fetchWindowOpen n lost s = openLine n lost (enterLine n ((s.head n).line + 1)
      (toTick (tickAt s n ((s.head n).line + 1) 0) (leaveLine n s))) := by
  simp [fetchWindowOpen, isRunning, hr, hop, hadv]

/-- FETCH_WINDOW_OPEN of a head that scans: the window of its line is open, of the next line where that was open before (R70). -/
theorem fetchWindowOpen_becomes {n : Nat} {lost : List LostBurst} {s : State} (hr : (s.head n).phase = .running)
    (hadv : (s.head n).opened = true → mayAdvance s n = true) :
    HeadBecomes n ((s.head n).inLine (if (s.head n).opened then (s.head n).line + 1 else (s.head n).line)).openedNow s
      (fetchWindowOpen n lost s) := by
  cases hop : (s.head n).opened with
  | false => rw [fetchWindowOpen_first lost hr hop]; exact openLine_becomes n lost s
  | true =>
    rw [fetchWindowOpen_next lost hr hop (hadv hop)]
    let a := toTick (tickAt s n ((s.head n).line + 1) 0) (leaveLine n s)
    have ha : ∀ m, a.head m = s.head m := fun m =>
      (head_of_only (toTick_only _ _) rfl m).trans (head_of_only (leaveLine_only n s) rfl m)
    have he := enterLine_becomes n ((s.head n).line + 1) a
    have ho := openLine_becomes n lost (enterLine n ((s.head n).line + 1) a)
    rw [he.own, ha n] at ho
    exact ⟨ho.own, fun m hm => (ho.other m hm).trans ((he.other m hm).trans (ha m))⟩

end Sys2Proof.Machine
end

section
/-! PROOF. What an image or an item that takes effect leaves of a head that has latched, and of pending interrupts. -/

namespace Sys2Proof.Machine

/-- Two states of which the later may differ in what an image or an item configures: of a head only its bank and whether its timing
has been applied, and pending bits have only risen. -/
structure Configures (s t : State) : Prop where
  head : ∀ m, ∃ b x, t.head m = { s.head m with bank := b, timingApplied := x }
  rise : ∀ k b, (s.target k).pend.getLsbD b = true → (t.target k).pend.getLsbD b = true

/-- Heads and targets that stay as they were. -/
theorem Configures.same {s t : State} (hh : t.heads = s.heads) (hi : t.ic = s.ic) : Configures s t where
  head m := ⟨(s.head m).bank, (s.head m).timingApplied, by unfold State.head; rw [hh]⟩
  rise k b h := by unfold State.target at h ⊢; rw [hi]; exact h

theorem Configures.refl (s : State) : Configures s s := .same rfl rfl

theorem Configures.trans {s t u : State} (h : Configures s t) (k : Configures t u) : Configures s u where
  head m := by
    obtain ⟨b, x, e⟩ := h.head m
    obtain ⟨b', x', e'⟩ := k.head m
    exact ⟨b', x', by rw [e', e]⟩
  rise i b hp := k.rise i b (h.rise i b hp)

/-- An operation whose frame names neither heads nor targets. -/
theorem Configures.of_only {l : List Part} {s t : State} (k : Only l s t) (hh : l.contains .heads = false)
    (hi : l.contains .ic = false) : Configures s t := .same (k.same .heads hh) (k.same .ic hi)

theorem Configures.after {l : List Part} {s t u : State} (h : Configures s t) (k : Only l t u)
    (hh : l.contains .heads = false) (hi : l.contains .ic = false) : Configures s u := h.trans (.of_only k hh hi)

theorem Configures.fold {α : Type _} {f : State → α → State} (l : List α) {s t : State} (h : Configures s t)
    (hf : ∀ x a, Configures x (f x a)) : Configures s (l.foldl f t) := by
  induction l generalizing t with
  | nil => exact h
  | cons a l ih => exact ih (h.trans (hf t a))

/-- A head's bank and the mark of its timing written. -/
theorem Configures.setHead (n : Nat) (b : Option Nat) (x : Bool) (s : State) :
    Configures s (s.setHead n { s.head n with bank := b, timingApplied := x }) where
  head m := by
    by_cases hm : m = n
    · subst hm; exact ⟨b, x, State.head_setHead _ _ _⟩
    · exact ⟨(s.head m).bank, (s.head m).timingApplied, State.head_setHead_ne _ _ hm⟩
  rise _ _ h := h

theorem Configures.raise (src : Nat) (s : State) : Configures s (raise src s) where
  head m := ⟨(s.head m).bank, (s.head m).timingApplied, (raise_keeps src s).at_head m⟩
  rise := (raise_quiet (p := fun _ => True) src s trivial ⟨trivial, trivial, trivial⟩ (Quiet.refl _ s)).rise

theorem Configures.perfEvent (k inst ev n : Nat) (s : State) : Configures s (perfEvent k inst ev n s) where
  head m := ⟨(s.head m).bank, (s.head m).timingApplied, (perfEvent_keeps k inst ev n s).at_head m⟩
  rise := (perfEvent_quiet (p := fun _ => True) ⟨trivial, trivial, trivial⟩ s k inst ev n s trivial (Quiet.refl _ s)).rise

/-! ### Registers that take effect -/

theorem setGState_configures (g : Nat) (x : GState) (s : State) : Configures s (setGState g x s) := by
  unfold setGState
  extract_lets p
  split
  · exact .refl s
  · exact (Configures.of_only (State.setPgroup_only _ _ _) rfl rfl).trans (.raise _ _)

theorem applyRef_configures (g : Nat) (s : State) : Configures s (applyRef g s) := by
  unfold applyRef
  exact (setGState_configures g _ s).after (State.setPgroup_only _ _ _) rfl rfl

theorem applyEffect_configures (before s : State) (w : Wr) : Configures s (applyEffect before s w) := by
  unfold applyEffect
  split
  · exact .refl s
  · split
    · exact .setHead _ _ _ s
    · split
      · exact .of_only (leaveHead_only _ _ _) rfl rfl
      · split
        · exact .of_only (State.setLayer_only _ _ _) rfl rfl
        · exact .refl s
    · exact .of_only (showDirect_only _ _) rfl rfl
    · exact .of_only (repinFallback_only _ _) rfl rfl
    · exact applyRef_configures _ s
    · extract_lets a b
      split
      · exact .of_only (State.setSig_only _ _ _ _) rfl rfl
      · exact .refl s
    · exact .refl s

theorem applyWrites_configures (n : Nat) (ws : List Wr) (s : State) : Configures s (applyWrites n ws s) := by
  unfold applyWrites
  extract_lets a b
  have heff : Configures s ((effectOrder ws).foldl (applyEffect s) (overlay ws s)) :=
    .fold _ (.of_only (overlay_only ws s) rfl rfl) (applyEffect_configures s)
  have ha : Configures s a := .fold _ heff (fun x slot => .of_only (repinSlot_only x slot) rfl rfl)
  have hb : Configures s b := (ha.after (enforceUnavailable_only n a) rfl rfl).after (originGroups_only _) rfl rfl
  split
  · exact hb.after (settleQuads_only b) rfl rfl
  · exact hb

theorem applyEntry_configures (n : Nat) (i : Image) (s : State) : Configures s (applyEntry n i s) := by
  unfold applyEntry
  split
  · exact (Configures.of_only (advanceGroups_only s) rfl rfl).trans (applyWrites_configures n _ _)
  · exact .refl s

/-! ### Bank switches -/

theorem spireSwitched_configures (s : State) : Configures s (spireSwitched s) := by
  unfold spireSwitched
  split
  · refine Configures.trans ?_ (.raise 386 _)
    exact .same rfl rfl
  · refine Configures.trans ?_ (.raise 386 _)
    refine Configures.trans ?_ (.of_only (storeWear_only _) rfl rfl)
    exact .same rfl rfl
  · exact .refl s

theorem completeSwitch_configures (w : Switch) (s : State) : Configures s (completeSwitch w s) := by
  unfold completeSwitch
  extract_lets b1 a b2 b b3 c d
  have hc : Configures s c := .same rfl rfl
  have hd : Configures s d := by
    unfold d
    split
    · exact hc
    · refine hc.trans (.fold _ (.refl c) (fun x m => ?_))
      split
      · exact .same rfl rfl
      · exact .of_only (placeIdle_only _ m x) rfl rfl
  split
  · exact hd.trans (spireSwitched_configures d)
  · exact hd

theorem settleSwitch_configures (s : State) : Configures s (settleSwitch s) := by
  unfold settleSwitch
  split
  · split
    · exact completeSwitch_configures _ s
    · exact .refl s
  · exact .refl s

theorem applySwitch_configures (n : Nat) (s : State) : Configures s (applySwitch n s) := by
  unfold applySwitch
  split
  · exact .refl s
  · rename_i w _
    split
    · exact .refl s
    · split
      · rename_i old new _ _
        extract_lets w' a1 a b c1 c d e1 e f
        have ha : Configures s a := .same rfl rfl
        have hb : Configures s b := ha.trans (applyEntry_configures n new a)
        have hc : Configures s c := hb.trans (.setHead n _ _ b)
        have hd : Configures s d := hc.after (hideMoved_only old new w.done n c) rfl rfl
        have he : Configures s e := hd.trans (.same rfl rfl)
        have hf : Configures s f := by
          unfold f
          split
          · exact he.after (rejudgeRings_only e) rfl rfl
          · exact he
        split
        · exact hf.trans (completeSwitch_configures w' f)
        · exact hf
      · exact .refl s

theorem mcSwitch_configures {dst : Nat} {s t : State} (e : mcSwitch dst s = some t) : Configures s t := by
  unfold mcSwitch at e
  extract_lets mask a at e
  split at e
  · cases e
  · split at e
    · cases e
    · cases e
      refine Configures.trans ?_ (settleSwitch_configures _)
      refine .fold _ (.of_only (acceptSwitch_only dst true none s) rfl rfl) (fun x m => ?_)
      split
      · exact .refl x
      · exact (applySwitch_configures m x).after (flushRecs_only _) rfl rfl

theorem commitExit_configures (s : State) : Configures s (commitExit s) := by
  unfold commitExit
  split
  · rename_i b _
    cases h : mcSwitch b s with
    | none => exact .refl s
    | some t => exact mcSwitch_configures h
  · exact .refl s

/-- The exit that waited for a switch's end, where one did (R451). -/
theorem followSpire_configures (s : State) : Configures s (followSpire s) := by
  unfold followSpire leaveSpire
  split
  · refine Configures.trans ?_ (commitExit_configures _)
    exact .same rfl rfl
  · exact .refl s

/-! ### Lanterns at a latch -/

theorem lanternFault_configures (l code : Nat) (s : State) : Configures s (lanternFault l code s) := by
  unfold lanternFault
  extract_lets safe src a
  refine Configures.trans ?_ (.raise _ _)
  exact .same rfl rfl

theorem faultLostWait_configures (n : Nat) (s : State) : Configures s (faultLostWait n s) := by
  unfold faultLostWait
  split
  · split
    · exact lanternFault_configures n 2 s
    · exact .refl s
  · exact .refl s

end Sys2Proof.Machine
end

section
/-! PROOF. HEAD_LATCH: what a head and the interrupt targets hold once it has latched (R43, R47). -/

namespace Sys2Proof.Machine

/-- A head as its latch at tick `at_` records it (R47). -/
def latchedHead (at_ : Nat) (h : Head) : Head :=
  { h with latched := true, firstLatch := true, latchTick := BitVec.ofNat 64 at_, latchedAt := at_, selected := false }

/-- A latch applies what it takes, records itself, raises its source, and then follows up at the lanterns. -/
theorem latchHead_eq (n at_ : Nat) (s : State) : ∃ x, Scan s x ∧
    latchHead n at_ s = placeLanterns n at_ (faultLostWait n
      (perfEvent 8 n 2 1 (raise (1 + 4 * n) (x.setHead n (latchedHead at_ (x.head n)))))) := by
  unfold latchHead
  extract_lets cut lost a p b c d e f g u
  have ha : Scan s a := ((Scan.refl s).after (retryAtLatch_only n s) rfl).after (countAges_only n _) rfl
  have hp : Scan s p.1 := ha.after (postSignatures_only n a) rfl
  have hb : Scan s b := (latchItems_scan n at_ cut p.1 hp).after (hideLeaving_only n at_ _) rfl
  have hc : Scan s c := .fold _ hb (fun x slot hx => hx.after (queueStep_only n x slot) rfl)
  have hd : Scan s d := hc.after (staleCheck_only n c) rfl
  have he : Scan s e := .fold _ hd (fun x y hx => hx.after (signatureAction_only n x y) rfl)
  have hf : Scan s f := (he.after (applyFallback_only n at_ e) rfl).after (judgeClear_only n _) rfl
  have hg : Scan s g := (autoLatch_scan n f hf).after (raceSources_only lost _) rfl
  exact ⟨flushRecs g, hg.after (flushRecs_only g) rfl, rfl⟩

/-- What a latch, with the exit that it may let follow, comes to: from a state that scans as before, with the latch recorded and its
source raised, only configuration has changed. -/
theorem latchHead_configures (n at_ : Nat) (s : State) : ∃ x, Scan s x ∧
    Configures (raise (1 + 4 * n) (x.setHead n (latchedHead at_ (x.head n)))) (followSpire (latchHead n at_ s)) := by
  obtain ⟨x, hx, e⟩ := latchHead_eq n at_ s
  refine ⟨x, hx, ?_⟩
  rw [e]
  refine Configures.trans ?_ (followSpire_configures _)
  exact ((Configures.perfEvent 8 n 2 1 _).trans (faultLostWait_configures n _)).after (placeLanterns_only n at_ _) rfl rfl

/-- A head after its latch: it has latched, LATCH_TICK holds the tick, and it scans on in its line and frame (R43, R47). -/
theorem latchHead_head (n at_ : Nat) (s : State) :
    let h := (followSpire (latchHead n at_ s)).head n
    h.latched = true ∧ h.latchTick = BitVec.ofNat 64 at_ ∧ h.phase = (s.head n).phase ∧ h.frame = (s.head n).frame ∧
      h.line = (s.head n).line := by
  obtain ⟨x, hx, hc⟩ := latchHead_configures n at_ s
  obtain ⟨b, y, e⟩ := hc.head n
  obtain ⟨hphase, hframe, -, hline, -⟩ := hx.head n
  rw [(raise_keeps _ _).at_head n, State.head_setHead] at e
  simp only [e]
  exact ⟨rfl, rfl, hphase, hframe, hline⟩

/-- Every head's latch source is one that an event makes pending (R347). -/
theorem realSource_latch {n : Nat} (hn : n < 16) : realSource (1 + 4 * n) = true := by
  have hlt : 1 + 4 * n < 512 := by omega
  have hlow : ¬ 161 ≤ 1 + 4 * n := by omega
  simp [realSource, hlt, hlow]

/-- The latch source of a head is pending at every target after its latch (R47). -/
theorem latchHead_pends {n k : Nat} (hn : n < 16) (hk : k < 34) (at_ : Nat) (s : State) :
    ((followSpire (latchHead n at_ s)).target k).pend.getLsbD (1 + 4 * n) = true := by
  obtain ⟨x, -, hc⟩ := latchHead_configures n at_ s
  exact hc.rise k _ (raise_pends _ (realSource_latch hn) hk)

/-! ### Where and when a head latches -/

/-- A count of lost records is kept in no latch line. -/
theorem latchLine_addr_ne (n f : Nat) : (rg .dhLatchLine n).addr ≠ (rg .faDoneOvr f).addr := by
  have hline : (rg .dhLatchLine n).addr = 0x800024 + (n * 0x10000 + 0) := rfl
  have hovr : (rg .faDoneOvr f).addr = 0x3d0008 + (f * 0x10 + 0) := rfl
  omega

theorem putRec_reg (f wr rd : Nat) (r : DoneRec) (s : State) (x : RegId) : (putRec f wr rd r s).reg x = s.reg x := by
  unfold putRec State.reg; rfl

/-- A record stored leaves every latch line (R140). -/
theorem storeRec_latchLine (n f : Nat) (r : DoneRec) (s : State) :
    (storeRec f r s).reg (rg .dhLatchLine n) = s.reg (rg .dhLatchLine n) := by
  unfold storeRec
  extract_lets wr rd full a
  rw [putRec_reg]
  unfold a
  split
  · unfold State.bump
    rw [State.reg_setReg_ne _ _ (latchLine_addr_ne n f)]
  · rfl

theorem flushRecs_latchLine (n : Nat) (s : State) :
    (flushRecs s).reg (rg .dhLatchLine n) = s.reg (rg .dhLatchLine n) := by
  unfold flushRecs
  refine List.foldlRecOn (motive := fun x : State => x.reg (rg .dhLatchLine n) = s.reg (rg .dhLatchLine n)) _ _ rfl
    (fun x hx k _ => ?_)
  exact List.foldlRecOn (motive := fun x : State => x.reg (rg .dhLatchLine n) = s.reg (rg .dhLatchLine n)) _ _ hx
    (fun y hy e _ => (storeRec_latchLine n _ _ y).trans hy)

/-- A selection leaves the register that says where its head latches. -/
theorem selectHead_latchLine (n : Nat) (s : State) : (selectHead n s).reg (rg .dhLatchLine n) = s.reg (rg .dhLatchLine n) := by
  unfold selectHead
  extract_lets after a src
  have ha : a.regs = s.regs :=
    (Only.fold _ (Only.refl [.fabric, .fa] s) (fun x i hx => hx.trans (selectSlot_only _ _ _ _))).same .regs rfl
  rw [flushRecs_latchLine]
  change a.reg _ = s.reg _
  unfold State.reg; rw [ha]

/-- The selection moves neither the line nor the tick of the latch that it is made for. -/
theorem selectOnce_latch (n : Nat) (s : State) :
    let t := if (s.head n).selected then s else selectHead n s
    latchAt t n = latchAt s n ∧ ∀ l p, tickAt t n l p = tickAt s n l p := by
  intro t
  have hown : t.head n = (s.head n).selectedNow := (selectOnce_becomes n s).own
  have hreg : t.reg (rg .dhLatchLine n) = s.reg (rg .dhLatchLine n) := by
    unfold t
    split
    · rfl
    · exact selectHead_latchLine n s
  clear_value t
  constructor
  · unfold latchAt; rw [hown, hreg]; rfl
  · intro l p; unfold tickAt; rw [hown]; rfl

/-- HEAD_LATCH of a head that stands at its latch line: a latch at the tick of pixel 0, from a state to which time has come there and
in which the head is selected (R43). -/
theorem headLatch_eq {n : Nat} {s : State} (hr : (s.head n).phase = .running) (hl : (s.head n).latched = false)
    (hline : (s.head n).line = latchAt s n) :
    ∃ x, HeadBecomes n (s.head n).selectedNow s x ∧ x.tick = max s.tick (tickAt s n (latchAt s n) 0) ∧
      headLatch n s = latchHead n (tickAt s n (latchAt s n) 0) x := by
  obtain ⟨hat, htick⟩ := selectOnce_latch n s
  refine ⟨toTick (tickAt s n (latchAt s n) 0) (if (s.head n).selected then s else selectHead n s),
    (selectOnce_becomes n s).after (toTick_only _ _) rfl, ?_, ?_⟩
  · rw [toTick_tick]
    exact congrArg (max · _) ((selectOnce_only n s).same .tick rfl)
  · unfold headLatch
    rw [if_pos ⟨by simp [isRunning, hr], by simp [hl], hline⟩]
    extract_lets a t
    have ht : t = tickAt s n (latchAt s n) 0 := (htick _ _).trans (by rw [hat])
    rw [ht]

/-! ### What HEAD_LATCH comes to -/

/-- The head after HEAD_LATCH (R43, R47). -/
theorem headLatch_head {n : Nat} {s : State} (hr : (s.head n).phase = .running) (hl : (s.head n).latched = false)
    (hline : (s.head n).line = latchAt s n) :
    let h := (followSpire (headLatch n s)).head n
    h.latched = true ∧ h.latchTick = BitVec.ofNat 64 (tickAt s n (latchAt s n) 0) ∧ h.phase = .running ∧
      h.frame = (s.head n).frame ∧ h.line = (s.head n).line := by
  obtain ⟨x, hx, -, e⟩ := headLatch_eq hr hl hline
  have h := latchHead_head n (tickAt s n (latchAt s n) 0) x
  rw [← e, hx.own] at h
  obtain ⟨hlatched, hlatchTick, hphase, hframe, hline'⟩ := h
  exact ⟨hlatched, hlatchTick, hphase.trans hr, hframe, hline'⟩

theorem headLatch_tick {n : Nat} {s : State} (hr : (s.head n).phase = .running) (hl : (s.head n).latched = false)
    (hline : (s.head n).line = latchAt s n) :
    (followSpire (headLatch n s)).tick = max s.tick (tickAt s n (latchAt s n) 0) := by
  obtain ⟨x, -, htick, e⟩ := headLatch_eq hr hl hline
  rw [e, ← htick]
  exact Eq.trans ((followSpire_only _).same .tick rfl) ((latchHead_only n _ x).same .tick rfl)

theorem headLatch_pends {n : Nat} {s : State} (hn : n < 16) (hr : (s.head n).phase = .running)
    (hl : (s.head n).latched = false) (hline : (s.head n).line = latchAt s n) {k : Nat} (hk : k < 34) :
    ((followSpire (headLatch n s)).target k).pend.getLsbD (1 + 4 * n) = true := by
  obtain ⟨x, -, -, e⟩ := headLatch_eq hr hl hline
  rw [e]
  exact latchHead_pends hn hk _ x

end Sys2Proof.Machine
end

section
/-! PROOF. Heads begin, select, open their windows and latch. -/

open Sys2Proof Sys2Proof.Machine

namespace Sys2Proof

/-- Settles O2: each command comes to what it makes of its own head, at its tick and within its frame; a latch is followed through what
applies after it, of which nothing takes back what it records. -/
theorem headsScan : Obligations.HeadsScan := by
  unfold Obligations.HeadsScan
  refine ⟨?begin, ?waiting, ?running, ?window, ?latch⟩
  case begin =>
    intro s n b hp hw
    have hn := headBegin_becomes hw
    exact ⟨headBegin n s, powered_on _ hp, congrArg Head.phase hn.own, congrArg Head.selected hn.own, headBegin_tick hw,
      by rw [hn.own]; rfl, hn.other, (headBegin_only n s).mono rfl⟩
  case waiting =>
    intro s n b hp hw hsel
    have hn := selectAt_becomes n (b - 2 * (s.head n).raster.lineTime) s
    have htick := selectAt_tick n (b - 2 * (s.head n).raster.lineTime) s
    rw [← selection_waiting hw hsel] at hn htick
    exact ⟨selection n s, powered_on _ hp, hn.own, htick, hn.other, (selection_only n s).mono rfl⟩
  case running =>
    intro s n hp hr hl hsel
    have hn := selectAt_becomes n (cutOff s n) s
    have htick := selectAt_tick n (cutOff s n) s
    rw [← selection_running hr hl hsel] at hn htick
    exact ⟨selection n s, powered_on _ hp, hn.own, htick, hn.other, (selection_only n s).mono rfl⟩
  case window =>
    intro s n lost hp hr hadv
    have hn := fetchWindowOpen_becomes (lost := lost) hr hadv
    have ho := fetchWindowOpen_only n lost s
    exact ⟨fetchWindowOpen n lost s, powered_on _ hp, hn.own, hn.other, ho.same .mem rfl, ho.same .tx rfl, ho.same .sched rfl⟩
  case latch =>
    intro s n hp hr hl hline
    obtain ⟨hlatched, hlatchTick, hphase, hframe, hline'⟩ := headLatch_head hr hl hline
    have ho : Only _ s (followSpire (headLatch n s)) := (headLatch_only n s).trans ((followSpire_only _).mono rfl)
    exact ⟨followSpire (headLatch n s), powered_on (fun x => followSpire (headLatch n x)) hp, hlatched, hlatchTick, hphase, hframe,
      hline', headLatch_tick hr hl hline, fun k hk => headLatch_pends n.isLt hr hl hline hk, ho.same .mem rfl, ho.same .aon rfl⟩

end Sys2Proof
end

section
/-! PROOF. What one lantern comes to, and what its issue, its fault and the end of its wait leave alone (R218, R220, R229). -/

namespace Sys2Proof.Machine

/-! ### One lantern written -/

/-- Lantern l comes to `x`, and within the frame `p` every other lantern stays. -/
structure LanternBecomes (p : List Part) (l : Nat) (x : Lantern) (s t : State) : Prop where
  own : t.lantern l = x
  other : ∀ m, m ≠ l → t.lantern m = s.lantern m
  only : Only p s t

/-- The lanterns that a frame without them leaves. -/
theorem lantern_of_only {p : List Part} {s t : State} (k : Only p s t) (hp : p.contains .lanterns = false) (m : Nat) :
    t.lantern m = s.lantern m := by
  have h : t.lanterns = s.lanterns := k.same .lanterns hp
  unfold State.lantern; rw [h]

/-- The registers that a frame without them leaves. -/
theorem reg_of_only {p : List Part} {s t : State} (k : Only p s t) (hp : p.contains .regs = false) (r : RegId) :
    t.reg r = s.reg r := by
  have h : t.regs = s.regs := k.same .regs hp
  unfold State.reg; rw [h]

theorem LanternBecomes.setLantern (l : Nat) (x : Lantern) (s : State) :
    LanternBecomes [.lanterns] l x s (s.setLantern l x) :=
  ⟨State.lantern_setLantern _ _ _, fun _ hm => State.lantern_setLantern_ne _ _ hm, State.setLantern_only _ _ _⟩

section
variable {p q : List Part} {l : Nat} {x y : Lantern} {s t u : State}

theorem LanternBecomes.mono (c : LanternBecomes p l x s t) (hpq : Part.within p q = true) : LanternBecomes q l x s t :=
  ⟨c.own, c.other, c.only.mono hpq⟩

/-- The lantern is written once more. -/
theorem LanternBecomes.trans (c : LanternBecomes p l x s t) (d : LanternBecomes q l y t u)
    (hq : Part.within q p = true) : LanternBecomes p l y s u :=
  ⟨d.own, fun m hm => (d.other m hm).trans (c.other m hm), d.only.after hq c.only⟩

/-- An operation that leaves the lanterns alone comes before. -/
theorem LanternBecomes.behind (c : LanternBecomes p l x t u) (k : Only q s t) (hq : q.contains .lanterns = false)
    (hqp : Part.within q p = true) : LanternBecomes p l x s u :=
  ⟨c.own, fun m hm => (c.other m hm).trans (lantern_of_only k hq m), (k.mono hqp).trans c.only⟩

/-- An operation that leaves the lanterns alone follows. -/
theorem LanternBecomes.after (c : LanternBecomes p l x s t) (k : Only q t u) (hq : q.contains .lanterns = false)
    (hqp : Part.within q p = true) : LanternBecomes p l x s u :=
  ⟨(lantern_of_only k hq l).trans c.own, fun m hm => (lantern_of_only k hq m).trans (c.other m hm), k.after hqp c.only⟩

end

/-- The frame of an issued instruction, from what its lantern comes to (R220). -/
theorem LanternBecomes.issueFrame {l : Nat} {x : Lantern} {s t : State}
    (c : LanternBecomes (.lanterns :: signalParts) l x s t) (hlen : x.len = (s.lantern l).len)
    (himage : x.image = (s.lantern l).image) (hcode : x.code = (s.lantern l).code) : IssueFrame l [] s t :=
  ⟨(congrArg Lantern.len c.own).trans hlen, (congrArg Lantern.image c.own).trans himage,
    (congrArg Lantern.code c.own).trans hcode, c.other, c.only⟩

/-! ### What a lantern reads beside itself -/

section
variable {p : List Part} {s t : State}

theorem lanternRaster_of_only (k : Only p s t) (hp : p.contains .regs = false) (l : Nat) :
    lanternRaster t l = lanternRaster s l := by
  simp only [lanternRaster, appliedRaster, reg_of_only k hp]

theorem countsLines_of_only (k : Only p s t) (hp : p.contains .heads = false) (l : Nat) :
    countsLines t l = countsLines s l := by
  simp only [countsLines, isRunning, head_of_only k hp]

theorem tickAt_of_only (k : Only p s t) (hp : p.contains .heads = false) (n y x : Nat) :
    tickAt t n y x = tickAt s n y x := by
  simp only [tickAt, head_of_only k hp]

theorem budgetOf_of_only (k : Only p s t) (hr : p.contains .regs = false) (hh : p.contains .heads = false) (l : Nat) :
    budgetOf t l = budgetOf s l := by
  simp only [budgetOf, reg_of_only k hr, countsLines_of_only k hh, head_of_only k hh, lanternRaster_of_only k hr]

theorem fenceValue_of_only (k : Only p s t) (hp : p.contains .fa = false) (f : Nat) : fenceValue t f = fenceValue s f := by
  have h : t.fa = s.fa := k.same .fa hp
  unfold fenceValue; rw [h]

end

/-- A value has reached a target within half the range of a fence (R128). -/
theorem reached_iff {v t : Word} : reached v t = true ↔ (v - t).toNat < 2 ^ 31 := decide_eq_true_iff

/-- A lantern that counts raster lines is a head lantern whose head scans (R217). -/
theorem countsLines_running {s : State} {l : Nat} (hl : l < 16) (hr : (s.head l).phase = .running) :
    countsLines s l = true := by
  simp [countsLines, isRunning, hl, hr]

/-- An ingress lantern has its clock always (R35). -/
theorem lanternClocked_ingress {s : State} {l : Nat} (hl : 16 ≤ l) : lanternClocked s l = true := by
  have h : ¬ l < 16 := by omega
  simp [lanternClocked, h]

/-! ### Issue -/

/-- An instruction of lantern l counts in its line or pace period (R227) and makes `f` of the lantern, all within the frame of an
instruction. With `id` for `f` it has yet to take effect. -/
def Issued (l : Nat) (f : Lantern → Lantern) (s t : State) : Prop :=
  ∃ n k, LanternBecomes (.lanterns :: signalParts) l (f { s.lantern l with issued := n, pace := k }) s t

/-- An issued instruction that goes on to make `g` of what its lantern has become. -/
theorem Issued.trans {q : List Part} {l : Nat} {f g : Lantern → Lantern} {s t u : State} (h : Issued l f s t)
    (c : LanternBecomes q l (g (t.lantern l)) t u) (hq : Part.within q (.lanterns :: signalParts) = true) :
    Issued l (g ∘ f) s u := by
  obtain ⟨n, k, hb⟩ := h
  rw [hb.own] at c
  exact ⟨n, k, hb.trans c hq⟩

theorem Issued.only {l : Nat} {f : Lantern → Lantern} {s t : State} (h : Issued l f s t) :
    Only (.lanterns :: signalParts) s t := by
  obtain ⟨n, k, hb⟩ := h
  exact hb.only

/-- No START begins where none is due. -/
theorem beginPace_of_begun {l : Nat} {s : State} (h : (s.lantern l).startDue = false) : beginPace l s = s := by
  simp [beginPace, h]

/-- A new pace period only lowers the count of issued instructions (R217, R227). -/
theorem freshBudget_becomes (l : Nat) (s : State) : ∃ n k, n ≤ (s.lantern l).issued ∧
    LanternBecomes [.lanterns] l { s.lantern l with issued := n, pace := k } s (freshBudget l s) := by
  unfold freshBudget
  extract_lets x
  split
  · exact ⟨x.issued, x.pace, Nat.le_refl _, rfl, fun _ _ => rfl, .refl _ s⟩
  · exact ⟨0, paceOf s, Nat.zero_le _, .setLantern l _ s⟩

/-- An instruction row of a lantern that runs, at its own word and within the budget: the instruction counts, and faults or takes
effect (R218, R227, R228). -/
theorem issue_eq {l op : Nat} {s : State} (body : Word → State → State) (hc : lanternClocked s l = true)
    (hr : (s.lantern l).state = .running) (hb : (s.lantern l).startDue = false) (hop : opOf (lanternWord s l) = op)
    (hroom : (s.lantern l).issued < budgetOf s l) : ∃ a, Issued l id s a ∧
      issue l op body s =
        if illegalWord l (lanternWord s l) then lanternFault l 1 a else body (lanternWord s l) a := by
  obtain ⟨n, k, hn, hf⟩ := freshBudget_becomes l s
  have hword : lanternWord (freshBudget l s) l = lanternWord s l := by
    unfold lanternWord; rw [hf.own, reg_of_only hf.only rfl]
  have hbudget : budgetOf (freshBudget l s) l = budgetOf s l := budgetOf_of_only hf.only rfl rfl l
  let b := (freshBudget l s).setLantern l { s.lantern l with issued := n + 1, pace := k }
  have hcount : LanternBecomes (.lanterns :: signalParts) l { s.lantern l with issued := n + 1, pace := k } s b :=
    (hf.mono rfl).trans (.setLantern l _ _) rfl
  refine ⟨if l < 16 then perfEvent 8 l 3 1 b else b, ⟨n + 1, k, ?_⟩, ?_⟩
  · split
    · exact hcount.after (perfEvent_only 8 l 3 1 b) rfl rfl
    · exact hcount
  · have hleft : ¬ budgetOf s l ≤ n := by omega
    simp [issue, hc, beginPace_of_begun hb, hword, hbudget, hf.own, hr, hop, hleft, b]

/-- A legal instruction takes effect (R218, R220). -/
theorem issue_legal {l op : Nat} {w : Word} {s : State} (h : Issues s l op w) (body : Word → State → State) :
    ∃ a, Issued l id s a ∧ powered s (issue l op body) = .next (body w a) := by
  obtain ⟨hpower, hclocked, hrunning, hbegun, rfl, hcode, hlegal, hroom⟩ := h
  obtain ⟨a, ha, e⟩ := issue_eq body hclocked hrunning hbegun hcode hroom
  exact ⟨a, ha, by rw [powered_on _ hpower, e, hlegal]; rfl⟩

/-- An ingress lantern has no WAITP (R223, R228). -/
theorem illegalWord_waitp_ingress {l : Nat} {w : Word} (hl : 16 ≤ l) (hop : opOf w = 0x11) : illegalWord l w = true := by
  simp [illegalWord, isIngressLantern, hl, hop]

/-- A legal WAITP stands in the program of a head lantern. -/
theorem waitp_head {l : Nat} {w : Word} {s : State} (h : Issues s l 0x11 w) : l < 16 := by
  refine Nat.lt_of_not_le fun hl => Bool.false_ne_true ?_
  rw [← h.legal]
  exact illegalWord_waitp_ingress hl h.code

/-! ### Faults -/

/-- A lantern in FAULT with a code (R229). -/
def Lantern.faulted (code : Nat) (w : Word) (x : Lantern) : Lantern :=
  { x with state := .fault, code := code, faultWord := w, wait := none, hit := none, startDue := false }

theorem lanternFault_becomes (l code : Nat) (s : State) :
    LanternBecomes ([.lanterns, .flares] ++ signalParts) l ((s.lantern l).faulted code (lanternWord s l)) s
      (lanternFault l code s) := by
  have e : ∀ m, (lanternFault l code s).lantern m =
      (s.setLantern l ((s.lantern l).faulted code (lanternWord s l))).lantern m :=
    fun m => (raise_keeps _ _).at_lantern m
  exact ⟨(e l).trans (State.lantern_setLantern _ _ _), fun m hm => (e m).trans (State.lantern_setLantern_ne _ _ hm),
    (lanternFault_only l code s).mono rfl⟩

/-- An issued instruction that faults: its lantern in FAULT with MARK as it was, and no other lantern touched (R228, R229). -/
theorem Issued.fault {l : Nat} {s a : State} (ha : Issued l id s a) (code : Nat) :
    let t := lanternFault l code a
    (t.lantern l).state = .fault ∧ (t.lantern l).code = code ∧ (t.lantern l).mark = (s.lantern l).mark ∧
      (∀ m, m ≠ l → t.lantern m = s.lantern m) ∧ Only ([.lanterns, .flares] ++ signalParts) s t := by
  obtain ⟨n, k, hb⟩ := ha
  have h := (hb.mono (q := [.lanterns, .flares] ++ signalParts) rfl).trans (lanternFault_becomes l code a) rfl
  simp only [h.own, hb.own]
  exact ⟨rfl, rfl, rfl, h.other, h.only⟩

/-! ### The PC moves on -/

/-- Below word 511 the PC moves on without a fault (R218). -/
theorem advancePc_of_lt {l : Nat} {s : State} (h : (s.lantern l).pc < 511) :
    advancePc l s = s.setLantern l { s.lantern l with pc := (s.lantern l).pc + 1 } := by
  unfold advancePc
  rw [if_neg (by omega)]

/-- A lantern whose wait is over, its PC moved on. -/
def Lantern.resumed (x : Lantern) : Lantern :=
  { x with state := .running, wait := none, hit := none, out := none, pc := x.pc + 1 }

theorem endWait_becomes {l : Nat} {s : State} (h : (s.lantern l).pc < 511) :
    LanternBecomes [.lanterns] l (s.lantern l).resumed s (endWait l s) := by
  have hb := LanternBecomes.setLantern l { s.lantern l with state := .running, wait := none, hit := none, out := none } s
  unfold endWait
  rw [advancePc_of_lt (by rw [hb.own]; exact h), hb.own]
  exact hb.trans (.setLantern l _ _) rfl

end Sys2Proof.Machine
end

section
/-! PROOF. How the waits of a lantern begin and end (R221 to R225). -/

namespace Sys2Proof.Machine

/-! ### A wait begins, or ends with its MARK or its flag -/

/-- A lantern that has begun to wait, in a pace period. -/
def Lantern.waitingFor (w : LWait) (hit : Option Nat) (pace : Nat) (x : Lantern) : Lantern :=
  { x with state := .waiting, wait := some w, hit := hit, out := none, pace := pace }

/-- A lantern whose line or pixel came at a tick: it goes on with that tick in MARK. -/
def Lantern.metAt (at_ : Nat) (x : Lantern) : Lantern := { x.resumed with mark := BitVec.ofNat 64 at_ }

/-- A lantern whose fence wait is over: it goes on with the flag that says whether the fence came. -/
def Lantern.fenceOver (came : Bool) (x : Lantern) : Lantern := { x.resumed with flag := came }

theorem beginWait_becomes (l : Nat) (w : LWait) (hit : Option Nat) (s : State) :
    LanternBecomes [.lanterns] l ((s.lantern l).waitingFor w hit (paceOf s)) s (beginWait l w hit s) :=
  .setLantern l _ s

theorem markAndGo_becomes {l : Nat} {s : State} (at_ : Nat) (h : (s.lantern l).pc < 511) :
    LanternBecomes [.lanterns] l ((s.lantern l).metAt at_) s (markAndGo l at_ s) := by
  have hb := LanternBecomes.setLantern l { s.lantern l with mark := BitVec.ofNat 64 at_ } s
  have he := endWait_becomes (by rw [hb.own]; exact h)
  rw [hb.own] at he
  exact hb.trans he rfl

theorem endWait_setFlag_becomes {l : Nat} {s : State} (came : Bool) (h : (s.lantern l).pc < 511) :
    LanternBecomes [.lanterns] l ((s.lantern l).fenceOver came) s (endWait l (setFlag l came s)) := by
  have hb : LanternBecomes [.lanterns] l { s.lantern l with flag := came } s (setFlag l came s) := .setLantern l _ s
  have he := endWait_becomes (by rw [hb.own]; exact h)
  rw [hb.own] at he
  exact hb.trans he rfl

/-! ### The waits issue -/

/-- WAITL within its range begins a wait (R222). -/
theorem waitlIssue_begins {l : Nat} {w : Word} {s : State}
    (h : if l < 16 then waitOperand s l w < (lanternRaster s l).vTotal else waitOperand s l w ≤ 8192) :
    waitlIssue l w s = beginWait l (.line (waitOperand s l w)) none s := by
  by_cases hl : l < 16
  · rw [if_pos hl] at h
    simp [waitlIssue, isIngressLantern, Nat.not_le.mpr hl, Nat.not_le.mpr h]
  · rw [if_neg hl] at h
    simp [waitlIssue, isIngressLantern, Nat.not_lt.mp hl, Nat.not_lt.mpr h]

/-- WAITP beyond the line faults (R223, R228). -/
theorem waitpIssue_beyond {l : Nat} {w : Word} {s : State} (h : (lanternRaster s l).hTotal ≤ waitOperand s l w) :
    waitpIssue l w s = lanternFault l 1 s := by
  simp [waitpIssue, h]

/-- WAITP of a head that scans: a pixel that has passed completes it at once (R223). -/
theorem waitpIssue_scanning {l : Nat} {w : Word} {s : State} (h : waitOperand s l w < (lanternRaster s l).hTotal)
    (hc : countsLines s l = true) :
    let t := tickAt s l (s.head l).line (waitOperand s l w)
    waitpIssue l w s = if t ≤ s.tick then markAndGo l t s else beginWait l (.pixel (waitOperand s l w)) (some t) s := by
  simp [waitpIssue, Nat.not_le.mpr h, hc]

/-- WAITF begins a wait, which a fence that has reached its target ends at once (R225). -/
theorem waitfIssue_eq (l : Nat) (w : Word) (s : State) :
    let b := beginWait l (.fence (fenceOf w) (lg s l (rsOf w)) (timeoutOf w)) none s
    waitfIssue l w s =
      if reached (fenceValue s (fenceOf w)) (lg s l (rsOf w)) then endWait l (setFlag l true b) else b := by
  intro b
  have hv : fenceValue b (fenceOf w) = fenceValue s (fenceOf w) := fenceValue_of_only (beginWait_only _ _ _ _) rfl _
  rw [← hv]
  rfl

/-! ### What the issued waits come to -/

section
variable {l : Nat} {w : Word} {s a : State}

/-- An instruction reads a program's own registers, PC and operand, which its count leaves. -/
theorem Issued.reads (ha : Issued l id s a) :
    (a.lantern l).lg = (s.lantern l).lg ∧ (a.lantern l).pc = (s.lantern l).pc ∧
      ∀ w, waitOperand a l w = waitOperand s l w := by
  obtain ⟨n, k, hb⟩ := ha
  simp only [waitOperand, lg, hb.own]
  exact ⟨rfl, rfl, fun _ => rfl⟩

/-- WAITL, by its operand at its issue (R222). -/
theorem Issued.waitl_eq (ha : Issued l id s a)
    (h : if l < 16 then waitOperand s l w < (lanternRaster s l).vTotal else waitOperand s l w ≤ 8192) :
    waitlIssue l w a = beginWait l (.line (waitOperand s l w)) none a := by
  obtain ⟨-, -, hoperand⟩ := ha.reads
  rw [waitlIssue_begins (by rw [hoperand, lanternRaster_of_only ha.only rfl]; exact h), hoperand]

/-- WAITP of a head that scans, by the line and the tick at which it issues (R223). -/
theorem Issued.waitp_eq (ha : Issued l id s a) (h : waitOperand s l w < (lanternRaster s l).hTotal)
    (hc : countsLines s l = true) :
    let t := tickAt s l (s.head l).line (waitOperand s l w)
    waitpIssue l w a = if t ≤ s.tick then markAndGo l t a else beginWait l (.pixel (waitOperand s l w)) (some t) a := by
  obtain ⟨-, -, hoperand⟩ := ha.reads
  have htick : a.tick = s.tick := ha.only.same .tick rfl
  have e := waitpIssue_scanning (l := l) (w := w) (s := a)
    (by rw [hoperand, lanternRaster_of_only ha.only rfl]; exact h) (by rw [countsLines_of_only ha.only rfl]; exact hc)
  simpa only [hoperand, tickAt_of_only ha.only rfl, head_of_only ha.only rfl, htick] using e

/-- WAITF, by the fence and the target at its issue (R225). -/
theorem Issued.waitf_eq (ha : Issued l id s a) :
    let b := beginWait l (.fence (fenceOf w) (lg s l (rsOf w)) (timeoutOf w)) none a
    waitfIssue l w a =
      if reached (fenceValue s (fenceOf w)) (lg s l (rsOf w)) then endWait l (setFlag l true b) else b := by
  obtain ⟨hlg, -, -⟩ := ha.reads
  have hr : lg a l (rsOf w) = lg s l (rsOf w) := congrArg (SMap.get · (rsOf w) 0) hlg
  rw [waitfIssue_eq, fenceValue_of_only ha.only rfl, hr]

/-- A wait that ends as it issues, its line or pixel past. -/
theorem Issued.passed (ha : Issued l id s a) (at_ : Nat) (hpc : (s.lantern l).pc < 511) :
    Issued l (Lantern.metAt at_) s (markAndGo l at_ a) := by
  obtain ⟨-, hpceq, -⟩ := ha.reads
  exact ha.trans (markAndGo_becomes at_ (hpceq ▸ hpc)) rfl

theorem Issued.waits (ha : Issued l id s a) (wt : LWait) (hit : Option Nat) :
    Issued l (Lantern.waitingFor wt hit (paceOf a)) s (beginWait l wt hit a) :=
  ha.trans (beginWait_becomes l wt hit a) rfl

/-- A fence wait that ends as it issues, its fence there (R225). -/
theorem Issued.fenceThere (ha : Issued l id s a) (wt : LWait) (hit : Option Nat) (hpc : (s.lantern l).pc < 511) :
    Issued l (Lantern.fenceOver true ∘ Lantern.waitingFor wt hit (paceOf a)) s
      (endWait l (setFlag l true (beginWait l wt hit a))) := by
  obtain ⟨-, hpceq, -⟩ := ha.reads
  exact (ha.waits wt hit).trans
    (endWait_setFlag_becomes true (by rw [(beginWait_becomes l wt hit a).own]; exact hpceq ▸ hpc)) rfl

end

/-! ### Waits end -/

section
variable {l : Nat} {s : State}

/-- WAITL_DONE of a line that has come (R222). -/
theorem waitlDone_becomes {y h : Nat} (hw : (s.lantern l).wait = some (.line y)) (hh : (s.lantern l).hit = some h)
    (hpc : (s.lantern l).pc < 511) : LanternBecomes [.lanterns] l ((s.lantern l).metAt h) s (waitlDone l s) := by
  simp only [waitlDone, hw, hh]
  exact markAndGo_becomes h hpc

/-- WAITP_DONE of a pixel whose tick is known: time comes to it (R223). -/
theorem waitpDone_becomes {p h : Nat} (hw : (s.lantern l).wait = some (.pixel p)) (hh : (s.lantern l).hit = some h)
    (hpc : (s.lantern l).pc < 511) :
    LanternBecomes ([.tick, .corePhase, .lanterns] ++ signalParts) l ((s.lantern l).metAt h) s (waitpDone l s) ∧
      (waitpDone l s).tick = max s.tick h := by
  simp only [waitpDone, hw, hh]
  have ht := lantern_of_only (toTick_only h s) rfl
  have hm := markAndGo_becomes (l := l) (s := toTick h s) h (by rw [ht]; exact hpc)
  rw [ht] at hm
  exact ⟨(hm.mono rfl).behind (toTick_only h s) rfl rfl, Eq.trans (hm.only.same .tick rfl) (toTick_tick h s)⟩

/-- A counted wait times out where its lines have passed, or where time alone is to come to it (R217, R225). -/
theorem timedOut_late {left : Nat} (h : countsLines s l = true → left = 0) : (timedOut l left s).2 = true := by
  unfold timedOut
  split
  · rename_i hc
    exact decide_eq_true (h hc)
  · rfl

/-- WAITF_DONE of a fence that has come, or whose lines have passed (R225). -/
theorem waitfDone_becomes {f left : Nat} {v : Word} (hw : (s.lantern l).wait = some (.fence f v left))
    (hpc : (s.lantern l).pc < 511) (hl : (s.lantern l).hit = none → countsLines s l = true → left = 0) :
    LanternBecomes ([.tick, .corePhase, .lanterns] ++ signalParts) l ((s.lantern l).fenceOver (s.lantern l).hit.isSome) s
      (waitfDone l s) := by
  simp only [waitfDone, hw]
  cases hh : (s.lantern l).hit with
  | some h => exact (endWait_setFlag_becomes true hpc).mono rfl
  | none =>
    have ht := lantern_of_only (timedOut_only l left s) rfl
    have he := endWait_setFlag_becomes (s := (timedOut l left s).1) false (by rw [ht]; exact hpc)
    rw [ht] at he
    simpa [timedOut_late (hl hh)] using (he.mono rfl).behind (timedOut_only l left s) rfl rfl

/-- A lantern without its clock waits on (R35). -/
theorem waitEvent_unclocked (body : State → State) (hp : s.power = .on) (hc : lanternClocked s l = false) :
    waitEvent l body s = .next s := by
  unfold waitEvent
  rw [powered_on _ hp, hc]
  rfl

theorem waitEvent_clocked (body : State → State) (hp : s.power = .on) (hc : lanternClocked s l = true) :
    waitEvent l body s = .next (body s) := by
  unfold waitEvent
  rw [powered_on _ hp, hc]
  rfl

end

end Sys2Proof.Machine
end

section
/-! PROOF. Lantern waits begin and end. -/

open Sys2Proof Sys2Proof.Machine

namespace Sys2Proof

/-- Settles O8: an issued wait counts in its line and then comes to what its own rule makes of its lantern; a wait that ends comes to
the lantern resumed with its MARK or flag, once the time of its end has come. -/
theorem lanternWaits : Obligations.LanternWaits := by
  unfold Obligations.LanternWaits
  refine ⟨?waitl, ?waitp, ?beyond, ?ingress, ?waitf, ?line, ?pixel, ?fence, ?unclocked⟩
  case waitl =>
    intro s l w hi hv
    obtain ⟨a, ha, e⟩ := issue_legal hi (waitlIssue l.val)
    rw [ha.waitl_eq hv] at e
    refine ⟨_, e, ?_⟩
    obtain ⟨n, k, h⟩ := ha.waits (.line (waitOperand s l.val w)) none
    rw [h.own]
    exact ⟨rfl, rfl, rfl, rfl, rfl, rfl, rfl, h.issueFrame rfl rfl rfl⟩
  case waitp =>
    intro s l w hi hpc hv hr
    obtain ⟨a, ha, e⟩ := issue_legal hi (waitpIssue l.val)
    rw [ha.waitp_eq hv (countsLines_running (waitp_head hi) hr)] at e
    refine ⟨_, e, ?_⟩
    by_cases ht : tickAt s l.val (s.head l.val).line (waitOperand s l.val w) ≤ s.tick
    · obtain ⟨n, k, h⟩ := ha.passed (tickAt s l.val (s.head l.val).line (waitOperand s l.val w)) hpc
      rw [if_pos ht, if_pos ht, h.own]
      exact ⟨⟨rfl, rfl, rfl⟩, rfl, rfl, h.issueFrame rfl rfl rfl⟩
    · obtain ⟨n, k, h⟩ := ha.waits (.pixel (waitOperand s l.val w))
        (some (tickAt s l.val (s.head l.val).line (waitOperand s l.val w)))
      rw [if_neg ht, if_neg ht, h.own]
      exact ⟨⟨rfl, rfl, rfl, rfl⟩, rfl, rfl, h.issueFrame rfl rfl rfl⟩
  case beyond =>
    intro s l w hi hv
    obtain ⟨a, ha, e⟩ := issue_legal hi (waitpIssue l.val)
    obtain ⟨-, -, hoperand⟩ := ha.reads
    rw [waitpIssue_beyond (by rw [hoperand, lanternRaster_of_only ha.only rfl]; exact hv)] at e
    exact ⟨lanternFault l.val 1 a, e, ha.fault 1⟩
  case ingress =>
    intro s l hp hl hr hb hop hroom
    obtain ⟨a, ha, e⟩ := issue_eq (waitpIssue l.val) (lanternClocked_ingress hl) hr hb hop hroom
    rw [illegalWord_waitp_ingress hl hop, if_pos rfl] at e
    obtain ⟨hstate, hcode, -, hother, honly⟩ := ha.fault 1
    exact ⟨lanternFault l.val 1 a, (powered_on _ hp).trans (congrArg _ e), hstate, hcode, hother, honly⟩
  case waitf =>
    intro s l w hi hpc
    obtain ⟨a, ha, e⟩ := issue_legal hi (waitfIssue l.val)
    rw [ha.waitf_eq] at e
    refine ⟨_, e, ?_⟩
    let wt : LWait := .fence (fenceOf w) (lg s l.val (rsOf w)) (timeoutOf w)
    by_cases ht : (fenceValue s (fld w 0 10) - lg s l.val (rsOf w)).toNat < 2 ^ 31
    · have hr : reached (fenceValue s (fenceOf w)) (lg s l.val (rsOf w)) = true := reached_iff.mpr ht
      obtain ⟨n, k, h⟩ := ha.fenceThere wt none hpc
      rw [if_pos hr, if_pos ht, h.own]
      exact ⟨⟨rfl, rfl, rfl⟩, rfl, h.issueFrame rfl rfl rfl⟩
    · have hr : ¬ reached (fenceValue s (fenceOf w)) (lg s l.val (rsOf w)) = true := mt reached_iff.mp ht
      obtain ⟨n, k, h⟩ := ha.waits wt none
      rw [if_neg hr, if_neg ht, h.own]
      exact ⟨⟨rfl, rfl, rfl, rfl⟩, rfl, h.issueFrame rfl rfl rfl⟩
  case line =>
    intro s l y h hp hc hw hh hpc
    have hd := waitlDone_becomes hw hh hpc
    exact ⟨waitlDone l.val s, waitEvent_clocked _ hp hc, hd.own, hd.other, hd.only⟩
  case pixel =>
    intro s l p h hp hc hw hh hpc
    obtain ⟨hd, htick⟩ := waitpDone_becomes hw hh hpc
    exact ⟨waitpDone l.val s, waitEvent_clocked _ hp hc, hd.own, htick, hd.other, hd.only⟩
  case fence =>
    intro s l f left v hp hc hw hpc hl
    have hd := waitfDone_becomes hw hpc hl
    exact ⟨waitfDone l.val s, waitEvent_clocked _ hp hc, hd.own, hd.other, hd.only⟩
  case unclocked =>
    intro s l m hp hc
    exact ⟨waitEvent_unclocked _ hp hc, waitEvent_unclocked _ hp hc, waitEvent_unclocked _ hp hc, waitEvent_unclocked _ hp hc⟩

end Sys2Proof
end

section
/-! PROOF. What tickets and the judgement of a draft read, and what an opened ticket and a drafted value leave (R271 to R275). -/

namespace Sys2Proof.Machine

/-! ### What tickets are judged by -/

/-- The tickets that a frame without them leaves. -/
theorem ticket_of_only {l : List Part} {s t : State} (k : Only l s t) (hl : l.contains .tx = false) (j : Nat) :
    t.ticket j = s.ticket j := by
  have h : t.tx = s.tx := k.same .tx hl
  unfold State.ticket; rw [h]

section
variable {s t : State} (htx : t.tx = s.tx) (hsession : t.dict.session = s.dict.session)
include htx hsession

/-- A source's ticket depends on the tickets and the diagnostic session alone (R271). -/
theorem heldTicket_congr (src : Source) (x : TState) : heldTicket t src x = heldTicket s src x := by
  unfold heldTicket isHolder State.ticket
  rw [htx, hsession]

/-- So does the ticket that opens for it (R272). -/
theorem nextTicket_congr (src : Source) : nextTicket t src = nextTicket s src := by
  unfold nextTicket
  rw [heldTicket_congr htx hsession, heldTicket_congr htx hsession]
  unfold State.ticket
  rw [htx]

end

/-! ### A ticket opened (R272) -/

/-- A ticket as it opens: no results, its timeout to come. -/
def openedTicket (s : State) (src : Source) : Ticket :=
  { state := .opened, holder := holderCode s src, openedAt := s.tick
    deadline := s.tick + fld (s.reg (rg .txTimeout)) 0 16 * ticksPerMs }

theorem openedTicket_congr {s t : State} (hregs : t.regs = s.regs) (htick : t.tick = s.tick)
    (hsession : t.dict.session = s.dict.session) (src : Source) : openedTicket t src = openedTicket s src := by
  unfold openedTicket holderCode State.reg
  rw [hregs, htick, hsession]

theorem openTicket_ticket (src : Source) (k : Nat) (s : State) : (openTicket src k s).ticket k = openedTicket s src :=
  State.ticket_setTicket _ _ _

theorem openTicket_ticket_ne (src : Source) {j k : Nat} (h : j ≠ k) (s : State) : (openTicket src k s).ticket j = s.ticket j :=
  State.ticket_setTicket_ne _ _ h

/-- A node whose source has not opened the session holds by its slot. -/
theorem holderCode_node {s : State} {m : Msg} {j : Nat} (hm : m.slot = some j) (hj : j < 16)
    (hs : s.dict.session ≠ some m.source) : holderCode s m.source = 0x40 + j := by
  have hsrc : m.source = .node (Fin.ofNat 16 j) := by
    cases hv : m.via with
    | window f => simp [Msg.slot, hv] at hm
    | can _ _ | udp _ _ => simp [Msg.source, hv, hm]
  unfold holderCode
  rw [if_neg hs, hsrc]
  simp [sourceCode, Nat.mod_eq_of_lt hj]

/-- OPEN with a ticket to open. -/
theorem openTx_some {s : State} {src : Source} {k : Nat} (h : nextTicket s src = some k) :
    openTx src true s = (openTicket src k s).answer (.word (BitVec.ofNat 32 k)) := by
  simp [openTx, h]

/-- OPEN that opens none: not a full read, or nothing to open. -/
theorem openTx_none {s : State} {src : Source} {full : Bool} (h : full = false ∨ nextTicket s src = none) :
    openTx src full s = s.answer (.word 0) := by
  rcases h with rfl | h
  · rfl
  · cases full <;> simp [openTx, h]

/-! ### A value drafted (R275) -/

/-- A ticket with a value entered into its draft. -/
def draftedTicket (s : State) (k : Nat) (w : Wr) : Ticket :=
  if (s.ticket k).draft.any (fun v => v.addr = w.addr) then
    { s.ticket k with draft := (s.ticket k).draft.map (fun v => if v.addr = w.addr then w else v) }
  else if poolFree s = 0 then { s.ticket k with draftFull := true }
  else { s.ticket k with draft := (s.ticket k).draft ++ [w] }

theorem enterDraft_eq (k : Nat) (w : Wr) (s : State) : enterDraft k w s = s.setTicket k (draftedTicket s k w) := by
  unfold enterDraft draftedTicket
  dsimp only
  split
  · rfl
  · split <;> rfl

theorem draftedTicket_congr {s t : State} (htx : t.tx = s.tx) (k : Nat) (w : Wr) : draftedTicket t k w = draftedTicket s k w := by
  unfold draftedTicket poolFree draftsUsed State.ticket
  rw [htx]

/-! ### The judgement of a draft (R274, R341) -/

/-- Whether a register's fields are typed ·T is a matter of its name. -/
theorem isT_name {r : RegId} {n : RegName} (hn : r.name = n) : r.isT = RegId.isT { name := n } := by subst hn; rfl

section
variable {r : RegId} (h : r.isT = true)
include h

theorem isT_not_readOnly : r.name.row.kind ≠ .ro := by
  intro hk
  simp [RegId.isT, hk] at h

/-- No register of a ·T field judges its own writes. -/
theorem judgesItself_of_isT : judgesItself r = false := by
  unfold judgesItself
  split
  case h_13 => rfl
  all_goals rename_i hn; rw [isT_name hn] at h; contradiction

/-- The value of a ·T field is checked where its draft is verified, not where it is written. -/
theorem valueAdmits_of_isT (s : State) (v : Word) : valueAdmits s r v = true := by
  unfold valueAdmits
  split
  case h_9 => rfl
  all_goals rename_i hn; rw [isT_name hn] at h; contradiction

theorem stateAdmits_of_isT (s : State) (src : Source) (v : Word) : stateAdmits s src r v = true := by
  unfold stateAdmits
  split
  case h_24 => rfl
  all_goals rename_i hn; rw [isT_name hn] at h; contradiction

/-- A draft of a ·T field is refused for its class, and else for the want of a ticket alone. -/
theorem judgeWrite_draft (s : State) (src : Source) (v : Word) : judgeWrite s src true r v =
    if classAdmits s src r v = true then (if (heldTicket s src .opened).isNone then some (.cause 5) else none)
    else some (.cause 2) := by
  have hk : r.name.row.kind ≠ .rwl ∧ r.name.row.kind ≠ .wo1 := by
    constructor <;> intro hk <;> simp [RegId.isT, hk] at h
  unfold judgeWrite classOrValue
  rw [judgesItself_of_isT h, valueAdmits_of_isT h, stateAdmits_of_isT h]
  cases classAdmits s src r v with
  | false => simp
  | true => cases (heldTicket s src .opened).isNone with
    | true => simp
    | false =>
      simp only [Bool.false_eq_true, false_and, and_false, not_true, not_false_iff, if_false, if_true]
      split <;> simp_all

end

/-- The judgement of a draft depends on the registers, the keep owner, the tickets and the session. -/
theorem judgeWrite_draft_of_signals {s t : State} (k : Signals s t) {r : RegId} (h : r.isT = true) (src : Source) (v : Word) :
    judgeWrite t src true r v = judgeWrite s src true r v := by
  have hclasses : classesOf t src = classesOf s src := by
    unfold classesOf carriesSafety
    rw [k.keep, k.dict]
  have hclass : classAdmits t src r v = classAdmits s src r v := by
    unfold classAdmits mayConfigure mayScan
    rw [hclasses, k.at_reg]
  rw [judgeWrite_draft h, judgeWrite_draft h, hclass, heldTicket_congr k.tx (congrArg Dict.session k.dict)]

/-- The value that a register stores, where only events have come. -/
theorem stored_of_signals {s t : State} (k : Signals s t) (r : RegId) (v : Word) : stored t r v = stored s r v := by
  unfold stored fixValue
  rw [k.fa]

theorem carriesSafety_of_signals {s t : State} (k : Signals s t) (src : Source) : carriesSafety t src = carriesSafety s src := by
  unfold carriesSafety
  rw [k.keep]

theorem decodePF_of_signals {s t : State} (k : Signals s t) (f a : Nat) : decodePF t f a = decodePF s f a := by
  unfold decodePF canonical
  rw [k.at_reg]

/-! ### A write of a draft (R274) -/

/-- The function in whose register space a source's draft offsets lie. -/
def aliasSpace : Source → Nat
  | .fn f => f.val
  | _ => 0

theorem draftWrite_reg {src : Source} {off : Nat} {v : Word} {s : State} {r : RegId} (hpf : isPF (aliasSpace src) = true)
    (hr : decodePF s (aliasSpace src) off = .reg r) :
    draftWrite src off v s = (writeAlias src { off := 0x8000000 + off, data := v } r v s []).1 := by
  unfold draftWrite
  cases src with
  | fn f =>
    dsimp only [aliasSpace] at hpf hr
    simp only [hpf, hr, if_true]
  | _ => dsimp only [aliasSpace] at hr; simp only [hr]

section
variable {src : Source} {a : Access} {r : RegId} {v : Word} {s : State} (h : r.isT = true)
include h

theorem writeAlias_enters {k : Nat} (hj : judgeWrite s src true r v = none) (hi : ignoresWrites r = false)
    (hk : heldTicket s src .opened = some k) (mine : List PBlock) : (writeAlias src a r v s mine).1 =
      enterDraft k { addr := r.addr, value := stored s r v, safety := carriesSafety s src } s := by
  unfold writeAlias
  simp [isT_not_readOnly h, hj, h, hk, hi]

theorem writeAlias_refuses {c : Nat} (hj : judgeWrite s src true r v = some (.cause c)) (mine : List PBlock) :
    (writeAlias src a r v s mine).1 = refuse src c a s := by
  unfold writeAlias
  simp [isT_not_readOnly h, hj, report]

end

/-! ### Refusals (R337, R338) -/

/-- The error records that a frame without them leaves. -/
theorem errRec_of_only {l : List Part} {s t : State} (k : Only l s t) (hl : l.contains .err = false) (f : Nat) :
    t.errRec f = s.errRec f := by
  have h : t.hl.err = s.hl.err := k.same .err hl
  unfold State.errRec; rw [h]

/-- A refused write leaves ACCESS_ERR set in its function's record. -/
theorem refuse_accessErr (f : Fin 32) (c : Nat) (a : Access) (s : State) :
    ((refuse (.fn f) c a s).errRec f.val).accessErr = true := by
  simp only [refuse, Source.function, errEvent, if_true]
  split
  · simp
  · rw [errRec_of_only (raiseAt_only _ _ _) rfl, errRec_of_only (raiseAt_only _ _ _) rfl]
    simp

end Sys2Proof.Machine
end

section
/-! PROOF. How the agent takes up a request and answers it (R300 to R306). -/

namespace Sys2Proof.Machine

/-! ### Responses -/

/-- Where a response goes is a matter of the dictionary's interfaces. -/
theorem responseDest_congr {s t : State} (h : t.dict = s.dict) (v : Via) : responseDest t v = responseDest s v := by
  unfold responseDest canDest canXl canObj ifaceObj
  rw [h]

/-- A response on its way: the completion is the message, and it is sent where it has a destination. -/
theorem sendResponse_sent (v : Via) (key : Option Nat) (l : List Byte) (s : State) :
    (sendResponse v key l s).reply = .msg l ∧
    ∀ d, responseDest (sendResponse v key l s) v = some d → .response d key (framed d l) ∈ (sendResponse v key l s).outbox := by
  rw [responseDest_congr ((sendResponse_only v key l s).same .dict rfl)]
  unfold sendResponse
  cases responseDest s v with
  | none => exact ⟨rfl, fun d hd => absurd hd (by simp)⟩
  | some d =>
    refine ⟨rfl, fun e he => ?_⟩
    obtain rfl := Option.some.inj he
    simp [State.send]

/-- A response up to its trailer (R300, R301). -/
def responseBody (m : Msg) (sealed : Bool) (code : Nat) (data : List Byte) (last : Bool) : List Byte :=
  headerBytes (m.op.toNat % 128 + 128) ((if sealed then 1 else 0) + (if last then 4 else 0)) m.seq.toNat
    m.sub.toNat m.index.toNat (4 + data.length) ++ leBytes 4 code ++ data

section
variable {t : State} {m : Msg} {sealed : Bool} {code : Nat} {data : List Byte} {last : Bool} {l rest : List Byte}
  (hl : l = responseBody m sealed code data last ++ rest) (hreply : t.reply = .msg l)
include hl hreply

theorem answered_of_ready {f : Fin 32} (hv : m.via = .window f) (h : (t.win f.val).ready = some l) :
    Answered t m sealed code data last := by
  refine ⟨rest, l, hl, hreply, ?_⟩
  rw [hv]
  exact h

theorem answered_of_sent (hv : ∀ f, m.via ≠ .window f)
    (h : ∀ d, responseDest t m.via = some d → ∃ key, .response d key (framed d l) ∈ t.outbox) :
    Answered t m sealed code data last := by
  refine ⟨rest, l, hl, hreply, ?_⟩
  split
  · exact absurd ‹_› (hv _)
  · exact h

end

section
variable (m : Msg) (a : Abort) (data : List Byte) (last : Bool) (s : State)

/-- A window's response waits in it to be posted (R319). -/
theorem respond_window {f : Fin 32} (hv : m.via = .window f) : ∃ s0 : State, respond m m.slot a data last s =
    (s0.setWin f.val { s0.win f.val with ready := some (responseBody m m.slot.isSome a.code data last) }).answer
      (.msg (responseBody m m.slot.isSome a.code data last)) := by
  unfold respond responseBody
  rw [hv]
  exact ⟨_, rfl⟩

/-- A network request's response is sent, with the trailer that its slot gives it (R306). -/
theorem respond_network (hv : ∀ f, m.via ≠ .window f) : ∃ s0 key rest, respond m m.slot a data last s =
    sendResponse m.via key (responseBody m m.slot.isSome a.code data last ++ rest) s0 := by
  unfold respond responseBody
  cases hvia : m.via with
  | window f => exact absurd hvia (hv f)
  | can _ _ | udp _ _ =>
    cases m.slot with
    | none => exact ⟨_, _, [], by rw [List.append_nil]⟩
    | some j => exact ⟨_, _, _, by simp only [List.append_assoc]; rfl⟩

/-- A response under a message's own slot is its answer, whatever it carries. -/
theorem respond_answered : Answered (respond m m.slot a data last s) m m.slot.isSome a.code data last := by
  by_cases hv : ∃ f, m.via = .window f
  · obtain ⟨f, hf⟩ := hv
    obtain ⟨s0, e⟩ := respond_window m a data last s hf
    rw [e]
    exact answered_of_ready (List.append_nil _).symm rfl hf (congrArg Win.ready (State.win_setWin _ _ _))
  · have hnet : ∀ f, m.via ≠ .window f := fun f hf => hv ⟨f, hf⟩
    obtain ⟨s0, key, rest, e⟩ := respond_network m a data last s hnet
    obtain ⟨hreply, hsent⟩ := sendResponse_sent m.via key (responseBody m m.slot.isSome a.code data last ++ rest) s0
    rw [e]
    exact answered_of_sent rfl hreply hnet fun d hd => ⟨key, hsent d hd⟩

end

/-! ### A request taken up (R302) -/

theorem takenUp_only (m : Msg) (s : State) : Only ([.dict] ++ signalParts) s (takenUp m s) := by
  have hturn : Only [.dict] s { s with dict := { s.dict with turn := sourcePlace m } } := (Only.refl _ s).dict rfl
  exact (touchSession_only _ _).after rfl ((perfEvent_only _ _ _ _ _).after rfl (hturn.mono rfl))

theorem touchSession_session (src : Source) (s : State) : (touchSession src s).dict.session = s.dict.session := by
  unfold touchSession
  split <;> rfl

theorem takenUp_session (m : Msg) (s : State) : (takenUp m s).dict.session = s.dict.session := by
  unfold takenUp
  rw [touchSession_session, (perfEvent_keeps _ _ _ _ _).dict]

/-- The floor raised leaves the rest of the dictionary: the session and the requests that wait for an answer. -/
theorem raiseFloor_dict (j v : Nat) (s : State) : ∃ x y, (raiseFloor j v s).dict = { s.dict with floor := x, floorRes := y } := by
  unfold raiseFloor
  dsimp only
  split
  · exact ⟨_, _, rfl⟩
  · rw [(writeStore_only _ _ _).same .dict rfl]
    exact ⟨_, _, rfl⟩

theorem heardFrom_only (m : Msg) (j : Nat) (s : State) : Only ([.dict, .aon, .fresh] ++ signalParts) s (heardFrom m j s) :=
  ((raiseFloor_only _ _ _).mono rfl).dict rfl

/-- What a request that passed authentication leaves of the session and of the requests that are not yet answered. -/
theorem heardFrom_keeps (m : Msg) (j : Nat) (s : State) :
    (heardFrom m j s).dict.session = s.dict.session ∧ unanswered (heardFrom m j s) = unanswered s := by
  obtain ⟨x, y, e⟩ := raiseFloor_dict j ((m.seal.map (fun t => t.counter.toNat)).getD 0) s
  have htx := (heardFrom_only m j s).same .tx rfl
  unfold unanswered State.ticket
  rw [htx]
  simp only [heardFrom, e, and_self]

theorem receive_window {op : Nat} {m : Msg} {s : State} {f : Fin 32} (hv : m.via = .window f) (hb : (s.win f.val).busy = true)
    (ht : (s.win f.val).taken = false) (hm : m = windowMsg s f) : receive op m s = takeWindow op f s := by
  simp only [receive, hv]
  rw [if_pos ⟨hb, by simp [ht], hm⟩]

theorem receive_network {op : Nat} {m : Msg} {s : State} (hv : ∀ f, m.via ≠ .window f) : receive op m s = receiveNet op m s := by
  unfold receive
  split
  · exact absurd ‹_› (hv _)
  · rfl

theorem arrive_free {op : Nat} {m : Msg} {s : State} (h : sourceBusy s m = false) : arrive op m s = process op m s :=
  if_pos (by simp [h])

/-- A network request that is taken, passes authentication and finds its source free is processed. -/
theorem receiveNet_passes {op : Nat} {m : Msg} {s : State} {j : Fin 16} (hon : (SMap.get s.dict.ifaces m.via.iface {}).on = true)
    (ht : takeNet s m = .taken) (hb : sourceBusy s m = false) (ha : authenticate s m = .pass j) :
    receiveNet op m s = process op m (heardFrom m j.val s) := by
  have hbusy : sourceBusy (heardFrom m j.val s) m = false := by
    unfold sourceBusy at hb ⊢
    rw [(heardFrom_keeps m j.val s).2, hb]
  simp only [receiveNet, hon, not_true, if_false, ht, authenticated, ha]
  exact arrive_free hbusy

section
variable {s s1 : State} {m : Msg} (h : Reaches s m s1)
include h

/-- A message that reaches the agent is served in the state that has taken it up. -/
theorem receive_of_reaches (op : Nat) : receive op m s = conclude op m s1 := by
  obtain ⟨-, h⟩ := h
  split at h
  · rename_i f hv
    obtain ⟨hbusy, htaken, hm, rfl⟩ := h
    rw [receive_window hv hbusy htaken hm, takeWindow, ← hm]
    rfl
  · rename_i hv
    obtain ⟨hon, htaken, hbusy, j, hauth, rfl⟩ := h
    rw [receive_network hv, receiveNet_passes hon htaken hbusy hauth]
    rfl

theorem reaches_only : Only ([.dict, .aon, .fresh] ++ signalParts) s s1 := by
  obtain ⟨-, h⟩ := h
  split at h
  · obtain ⟨-, -, -, rfl⟩ := h
    exact (takenUp_only _ _).after rfl ((State.setWin_only _ _ _).mono rfl)
  · obtain ⟨-, -, -, j, -, rfl⟩ := h
    exact (takenUp_only _ _).after rfl (heardFrom_only _ _ _)

theorem reaches_session : s1.dict.session = s.dict.session := by
  obtain ⟨-, h⟩ := h
  split at h
  · obtain ⟨-, -, -, rfl⟩ := h
    exact takenUp_session _ _
  · obtain ⟨-, -, -, j, -, rfl⟩ := h
    exact (takenUp_session _ _).trans (heardFrom_keeps _ _ _).1

end

/-- A request that is answered at once. -/
theorem conclude_now {op : Nat} {m : Msg} {s t : State} {a : Abort} {data : List Byte} {last : Bool}
    (h : serveOp op m s = (t, .now a data last)) : conclude op m s = respond m m.slot a data last t := by
  simp only [conclude, h]

/-! ### TX_BEGIN (R309) -/

section
variable {m : Msg} {s : State} (hshape : shapeOk 5 m = true) (hold : mayHold m.source = true)
include hshape hold

theorem serveOp_begin_opens {k : Nat} (h : nextTicket s m.source = some k) :
    serveOp 5 m s = (openTicket m.source k s, .now .ok (leBytes 1 k) false) := by
  simp [serveOp, serveBegin, hshape, hold, h]

theorem serveOp_begin_refuses (h : nextTicket s m.source = none) : serveOp 5 m s = (s, .now .busy [] false) := by
  simp [serveOp, serveBegin, refused, hshape, hold, h]

end

end Sys2Proof.Machine
end

section
/-! PROOF. Tickets are opened and drafts written. -/

open Sys2Proof Sys2Proof.Machine

namespace Sys2Proof

/-- Settles O38: OPEN and TX_BEGIN open the ticket that the counted access or the taken-up message leaves to open; a draft is judged by
what an access that is only counted leaves alone, and then enters the ticket's draft or is refused. -/
theorem ticketsOpen : Obligations.TicketsOpen := by
  unfold Obligations.TicketsOpen
  refine ⟨?openTx, ?txBegin, ?draft⟩
  case openTx =>
    intro s src full hs
    have hcount := countBar0_only src 1 s
    have k := countBar0_keeps src 1 s
    have hsession := congrArg Dict.session k.dict
    have hnext := nextTicket_congr k.tx hsession src
    have e : exec (.open src full) s = .next (openTx src full (countBar0 src 1 s)) := readRequest_on _ hs.1 hs.2
    refine ⟨?opens, fun h => ?opensNone⟩
    case opens =>
      rintro n rfl hn
      rw [openTx_some (hnext.trans hn)] at e
      refine ⟨_, e, rfl, ?_, fun j hj => ?_, ?_⟩
      · exact (openTicket_ticket _ _ _).trans (openedTicket_congr k.regs k.tick hsession src)
      · exact (openTicket_ticket_ne src hj _).trans (k.at_ticket j)
      · exact (State.answer_only _ _).after rfl ((openTicket_only _ _ _).after rfl (hcount.mono rfl))
    case opensNone =>
      rw [openTx_none (h.imp_right hnext.trans)] at e
      exact ⟨_, e, rfl, (State.answer_only _ _).after rfl (hcount.mono rfl)⟩
  case txBegin =>
    intro s s1 m hm hshape hold
    have htaken := reaches_only hm
    have hsession := reaches_session hm
    have hnext := nextTicket_congr (htaken.same .tx rfl) hsession m.source
    have e : exec (.txBegin m) s = .next (conclude 5 m s1) :=
      (powered_on _ hm.1).trans (congrArg _ (receive_of_reaches hm 5))
    refine ⟨fun n hn => ?opens, fun hn => ?opensNone⟩
    case opens =>
      rw [conclude_now (serveOp_begin_opens hshape hold (hnext.trans hn))] at e
      have hafter := ticket_of_only (respond_only m m.slot .ok (leBytes 1 n) false (openTicket m.source n s1)) rfl
      have hopened := (hafter n).trans ((openTicket_ticket _ _ _).trans
        (openedTicket_congr (htaken.same .regs rfl) (htaken.same .tick rfl) hsession m.source))
      refine ⟨_, e, respond_answered _ _ _ _ _, hopened, fun j hslot hj hs => ?_, fun j hj => ?_, ?_⟩
      · rw [hopened]
        exact holderCode_node hslot hj hs
      · exact (hafter j).trans ((openTicket_ticket_ne _ hj _).trans (ticket_of_only htaken rfl j))
      · exact (respond_only _ _ _ _ _ _).after rfl ((openTicket_only _ _ _).after rfl (htaken.mono rfl))
    case opensNone =>
      rw [conclude_now (serveOp_begin_refuses hshape hold (hnext.trans hn))] at e
      exact ⟨_, e, respond_answered _ _ _ _ _, (respond_only _ _ _ _ _ _).after rfl (htaken.mono rfl)⟩
  case draft =>
    intro s src off v r f hs hf hpf hr ht
    have hspace : f = aliasSpace src := by cases src <;> exact hf
    subst hspace
    have hcount := countBar0_only src 2 s
    have k := countBar0_keeps src 2 s
    have hjudge := judgeWrite_draft_of_signals k ht src v
    have e : exec (.draftWrite src off v) s =
        .next (writeAlias src { off := 0x8000000 + off, data := v } r v (countBar0 src 2 s) []).1 := by
      rw [← draftWrite_reg hpf ((decodePF_of_signals k _ _).trans hr)]
      exact request_on _ hs.1 hs.2
    refine ⟨fun n hj hi hn => ?enters, fun c hj => ?refused⟩
    case enters =>
      have hheld := (heldTicket_congr k.tx (congrArg Dict.session k.dict) src .opened).trans hn
      rw [writeAlias_enters ht (hjudge.trans hj) hi hheld, stored_of_signals k, carriesSafety_of_signals k, enterDraft_eq,
        draftedTicket_congr k.tx] at e
      refine ⟨_, e, State.ticket_setTicket _ _ _, fun j hj => ?_, ?_⟩
      · exact (State.ticket_setTicket_ne _ _ hj).trans (k.at_ticket j)
      · exact (State.setTicket_only _ _ _).after rfl (hcount.mono rfl)
    case refused =>
      rw [writeAlias_refuses ht (hjudge.trans hj)] at e
      refine ⟨_, e, ?_, (refuse_only _ _ _ _).after rfl (hcount.mono rfl)⟩
      rintro g rfl
      exact refuse_accessErr g c _ _

end Sys2Proof
end

section
/-! PROOF. ARMED rises only with a message of the target's vector (R350, R358): what every event leaves of it. -/

namespace Sys2Proof.Machine

/-- Two states between which messages have only been added, and ARMED of a target has changed only with a message of its vector among
them. -/
def Arms (s t : State) : Prop :=
  ∃ sent, t.outbox = s.outbox ++ sent ∧ ∀ k, (t.target k).armed = (s.target k).armed ∨ OutMsg.msix k ∈ sent

/-! ### Composing -/

/-- Messages and targets that stay as they were. -/
theorem Arms.same {s t : State} (ho : t.outbox = s.outbox) (ht : t.ic.targets = s.ic.targets) : Arms s t :=
  ⟨[], by simp [ho], fun k => .inl (by unfold State.target; rw [ht])⟩

theorem Arms.refl (s : State) : Arms s s := .same rfl rfl

theorem Arms.trans {s t u : State} (h : Arms s t) (k : Arms t u) : Arms s u := by
  obtain ⟨first, ho, ha⟩ := h
  obtain ⟨second, ho', ha'⟩ := k
  refine ⟨first ++ second, by rw [ho', ho, List.append_assoc], fun j => ?_⟩
  rcases ha' j with same | sent
  · exact (ha j).imp same.trans (List.mem_append_left _)
  · exact .inr (List.mem_append_right _ sent)

theorem Arms.fold {α : Type _} {f : State → α → State} (l : List α) (s : State) (hf : ∀ x a, Arms x (f x a)) :
    Arms s (l.foldl f s) := by
  induction l generalizing s with
  | nil => exact .refl s
  | cons a l ih => exact (hf s a).trans (ih _)

theorem Arms.foldP {α β : Type _} {f : State × β → α → State × β} (l : List α) (p : State × β)
    (hf : ∀ x a, Arms x.1 (f x a).1) : Arms p.1 (l.foldl f p).1 := by
  induction l generalizing p with
  | nil => exact .refl p.1
  | cons a l ih => exact (hf p a).trans (ih _)

/-- A target written with ARMED as it was. -/
theorem Arms.setTarget {s : State} {t : Nat} {x : Target} (h : x.armed = (s.target t).armed) : Arms s (s.setTarget t x) := by
  refine ⟨[], by simp, fun k => .inl ?_⟩
  by_cases e : k = t
  · subst e; rw [State.target_setTarget, h]
  · rw [State.target_setTarget_ne _ _ e]

theorem State.wakeLink_arms (k : Nat) (s : State) : Arms s (s.wakeLink k) := by
  unfold State.wakeLink
  split
  · exact .same rfl rfl
  · exact .refl s

theorem State.sendTlp_arms (k : Nat) (m : OutMsg) (s : State) : Arms s (s.sendTlp k m) :=
  (State.wakeLink_arms k s).trans ⟨[m], rfl, fun _ => .inl rfl⟩

/-- A target written together with the message of its vector (R350). -/
theorem Arms.message (t : Nat) (x : Target) (s : State) : Arms s ((s.setTarget t x).sendTlp (t / 16) (.msix t)) := by
  obtain ⟨sent, ho, ha⟩ := State.wakeLink_arms (t / 16) (s.setTarget t x)
  refine ⟨sent ++ [.msix t], ?_, fun k => ?_⟩
  · show (State.wakeLink _ _).outbox ++ [OutMsg.msix t] = s.outbox ++ (sent ++ [OutMsg.msix t])
    rw [ho, State.setTarget_outbox, List.append_assoc]
  · by_cases e : k = t
    · exact .inr (by simp [e])
    · exact (ha k).imp (·.trans (congrArg _ (State.target_setTarget_ne _ _ e))) (List.mem_append_left _)

/-- ARMED of a target between two states, with the messages sent between them. -/
theorem Arms.armed {s t : State} (h : Arms s t) (k : Nat) :
    (t.target k).armed = (s.target k).armed ∨ OutMsg.msix k ∈ t.outbox.drop s.outbox.length := by
  obtain ⟨sent, ho, ha⟩ := h
  rw [ho, List.drop_left]
  exact ha k

/-! ### A change at a target -/

theorem idleGroups_arms (t : Nat) (s : State) : Arms s (idleGroups t s) := by
  refine .fold _ s (fun x g => ?_)
  split
  · exact .same rfl rfl
  · exact .refl x

theorem sendRequest_arms (t : Nat) (s : State) : Arms s (sendRequest t s) := by
  unfold sendRequest
  split
  · exact .same rfl rfl
  split
  · split
    · exact .setTarget rfl
    split
    · exact .same rfl rfl
    · refine Arms.trans ?_ (Arms.message t _ _)
      exact .same rfl rfl
  · exact .refl s

theorem stopSleeping_arms (t : Nat) (s : State) : Arms s (stopSleeping t s) := by
  unfold stopSleeping
  extract_lets released _ noted
  have hreleased : Arms s released := by
    refine .fold _ s (fun x g => ?_)
    split
    · exact .same rfl rfl
    · exact .refl x
  clear_value released
  have hnoted : Arms released noted := .same rfl rfl
  refine hreleased.trans (hnoted.trans (Arms.trans (Arms.setTarget ?_) ((idleGroups_arms _ _).trans (sendRequest_arms _ _))))
  rfl

theorem wake_arms (t : Nat) (s : State) : Arms s (wake t s) := by
  unfold wake
  split
  · split
    · refine Arms.trans ?_ (State.sendTlp_arms _ _ _)
      exact .same rfl rfl
    · exact .refl s
  · refine Arms.trans (Arms.setTarget ?_) (stopSleeping_arms _ _)
    rfl

theorem settleCore_arms (t : Nat) (before s : State) : Arms s (settleCore t before s) := by
  unfold settleCore
  extract_lets idled woken
  have hwoken : Arms idled woken := by
    unfold woken
    split
    · exact wake_arms t idled
    · exact .refl idled
  exact (idleGroups_arms t s).trans (hwoken.trans (sendRequest_arms t woken))

/-! ### A member event of a coalescing group -/

theorem releaseGroup_arms (t g count since : Nat) (s : State) : Arms s (releaseGroup t g count since s) := by
  unfold releaseGroup
  split
  · extract_lets expired
    have hexpired : Arms s expired := .same rfl rfl
    split
    · exact hexpired.trans (wake_arms t expired)
    · exact hexpired
  · exact .same rfl rfl

theorem groupEvent_arms (t g : Nat) (s : State) : Arms s (groupEvent t g s) := by
  unfold groupEvent
  extract_lets x c
  split
  · split
    · exact releaseGroup_arms _ _ _ _ _
    · exact .same rfl rfl
  · split
    · exact releaseGroup_arms _ _ _ _ _
    · exact .same rfl rfl
  · exact .refl s

theorem pendAt_arms (t src : Nat) (s : State) : Arms s (pendAt t src s) := by
  unfold pendAt
  extract_lets _ pended
  have hpended : Arms s pended := .setTarget rfl
  split
  · exact hpended.trans (groupEvent_arms _ _ _)
  · exact hpended

/-! ### Counting -/

/-- A way of counting that arms no target without its message. -/
def Counting.Arms (count : Counting) : Prop := ∀ (k i e n : Nat) (s : State), Machine.Arms s (count k i e n s)

theorem countEvent_arms (k inst ev n : Nat) (s : State) : Arms s (countEvent k inst ev n s).1 := by
  refine Arms.foldP _ (s, []) (fun p j => ?_)
  split
  · exact .same rfl rfl
  · exact .refl p.1

theorem settleWith_arms {count : Counting} (hc : Counting.Arms count) (t : Nat) (before s : State) :
    Arms s (settleWith count t before s) :=
  (settleCore_arms t before s).trans ((hc _ _ _ _ _).trans (hc _ _ _ _ _))

theorem raiseAtWith_arms {count : Counting} (hc : Counting.Arms count) (t src : Nat) (s : State) :
    Arms s (raiseAtWith count t src s) := by
  unfold raiseAtWith
  split
  · exact (pendAt_arms t src s).trans (settleWith_arms hc _ _ _)
  · exact .refl s

theorem wrapWith_arms {count : Counting} (hc : Counting.Arms count) (k j : Nat) (s : State) :
    Arms s (wrapWith count k j s) := by
  have hovf : Arms s (setOvf k j s) := .same rfl rfl
  refine Arms.trans ?_ (hc _ _ _ _ _)
  split
  · exact hovf
  · exact hovf.trans (.fold _ _ (fun x t => raiseAtWith_arms hc t _ x))

theorem countFuel_arms (fuel : Nat) : Counting.Arms (countFuel fuel) := by
  induction fuel with
  | zero => exact fun _ _ _ _ s => .refl s
  | succ fuel ih =>
    intro k i e n s
    unfold countFuel
    split
    · exact .refl s
    · exact (countEvent_arms k i e n s).trans (.fold _ _ (fun x j => wrapWith_arms ih k j x))

theorem perfEvent_arms : Counting.Arms perfEvent := countFuel_arms 130

theorem settle_arms (t : Nat) (before s : State) : Arms s (settle t before s) := settleWith_arms perfEvent_arms t before s

theorem raiseAt_arms (t src : Nat) (s : State) : Arms s (raiseAt t src s) := raiseAtWith_arms perfEvent_arms t src s

/-! ### Accesses -/

theorem countBar0_arms (src : Source) (ev : Nat) (s : State) : Arms s (countBar0 src ev s) := by
  cases src with
  | fn f => exact (State.wakeLink_arms _ s).trans (perfEvent_arms _ _ _ _ _)
  | _ => exact .refl s

/-- A change of a target that leaves its ARMED. -/
theorem changeTarget_arms {t : Nat} {f : Target → Target} {s : State} (h : (f (s.target t)).armed = (s.target t).armed) :
    Arms s (changeTarget t f s) := (Arms.setTarget h).trans (settle_arms t s _)

end Sys2Proof.Machine
end

section
/-! PROOF. What a counted access, a changed target and a refused write leave of the targets and of the error records. -/

namespace Sys2Proof.Machine

/-- The sources that the wraps of event counters raise (R398). -/
def wrapSource (n : Nat) : Prop := 273 ≤ n ∧ n ≤ 288

theorem wrapSource_counted : Counted wrapSource := ⟨⟨by omega, by omega⟩, ⟨by omega, by omega⟩, ⟨by omega, by omega⟩⟩

theorem countBar0_quiet (src : Source) (ev : Nat) (s : State) : Quiet wrapSource s (countBar0 src ev s) := by
  cases src with
  | fn f => exact perfEvent_quiet wrapSource_counted _ _ _ _ _ _ wrapSource_counted.messages (State.wakeLink_quiet _ _ (.refl _ s))
  | _ => exact .refl _ s

theorem Quiet.mask {p : Nat → Prop} {s t : State} (h : Quiet p s t) (k : Nat) : (t.target k).mask = (s.target k).mask := (h.set k).1

theorem Quiet.stack {p : Nat → Prop} {s t : State} (h : Quiet p s t) (k : Nat) : (t.target k).stack = (s.target k).stack := by
  obtain ⟨-, -, -, -, hstack, -⟩ := h.set k
  exact hstack

/-- The stacks of the targets other than one that is written. -/
theorem Quiet.stack_ne {p : Nat → Prop} {s t : State} {k j : Nat} {x : Target} (h : Quiet p (s.setTarget k x) t) (hj : j ≠ k) :
    (t.target j).stack = (s.target j).stack := by
  rw [h.stack j, State.target_setTarget_ne _ _ hj]

/-- The target that a source reaches does not depend on what events change. -/
theorem targetOf_of_signals {s t : State} (k : Signals s t) (src : Source) (selected : Bool) :
    targetOf t src selected = targetOf s src selected := by
  unfold targetOf
  simp only [k.at_reg]

/-- A changed target is the changed one, but for what its events bring. -/
theorem changeTarget_quiet {t : Nat} {f : Target → Target} {s : State} {x : Target} (h : f (s.target t) = x) :
    Quiet wrapSource (s.setTarget t x) (changeTarget t f s) := by
  subst h
  exact settle_quiet t s _ wrapSource_counted (.refl _ _)

/-! ### Refusals (R337, R338) -/

/-- An error record after a refused write. -/
def ErrRec.refused (c : Nat) (a : Access) (e : ErrRec) : ErrRec := { capture e 1 c a with accessErr := true }

/-- A refused write of a function: its record, and source 417 at its own and the MC's target where ACCESS_ERR rises. -/
theorem refuse_fn (f : Fin 32) (c : Nat) (a : Access) (s : State) : refuse (.fn f) c a s =
    if (s.errRec f.val).accessErr then s.setErrRec f.val ((s.errRec f.val).refused c a)
    else raiseAt 32 417 (raiseAt f.val 417 (s.setErrRec f.val ((s.errRec f.val).refused c a))) := rfl

theorem refuse_errRec (f : Fin 32) (c : Nat) (a : Access) (s : State) :
    (refuse (.fn f) c a s).errRec f.val = (s.errRec f.val).refused c a := by
  rw [refuse_fn]
  split
  · exact State.errRec_setErrRec _ _ _
  · rw [errRec_of_only (raiseAt_only _ _ _) rfl, errRec_of_only (raiseAt_only _ _ _) rfl, State.errRec_setErrRec]

/-- A record that was free has the cause of the refused write. -/
theorem ErrRec.refused_cause {e : ErrRec} (h : e.held = false) (c : Nat) (a : Access) : (e.refused c a).cause = c := by
  simp [ErrRec.refused, capture, h]

theorem refuse_quiet (src : Source) (c : Nat) (a : Access) (s : State) : Quiet (fun _ => True) s (refuse src c a s) := by
  have hcounted : Counted (fun _ => True) := ⟨trivial, trivial, trivial⟩
  cases src with
  | fn f =>
    have hrecord : Quiet (fun _ => True) s (s.setErrRec f.val ((s.errRec f.val).refused c a)) := Quiet.update (.refl _ s)
    rw [refuse_fn]
    split
    · exact hrecord
    · exact raiseAt_quiet _ _ _ trivial hcounted (raiseAt_quiet _ _ _ trivial hcounted hrecord)
  | _ => exact .refl _ s

theorem refuse_arms (src : Source) (c : Nat) (a : Access) (s : State) : Arms s (refuse src c a s) := by
  cases src with
  | fn f =>
    have hrecord : Arms s (s.setErrRec f.val ((s.errRec f.val).refused c a)) := .same rfl rfl
    rw [refuse_fn]
    split
    · exact hrecord
    · exact hrecord.trans ((raiseAt_arms _ _ _).trans (raiseAt_arms _ _ _))
  | _ => exact .refl s

end Sys2Proof.Machine
end

section
/-! PROOF. CLAIM and EOI by their cases (R327, R348, R351, R352). -/

namespace Sys2Proof.Machine

/-! ### CLAIM (R351) -/

/-- A bit that is cleared reads 0, also one that the set does not have. -/
theorem setBit_cleared {w : Nat} (m : BitVec w) (i : Nat) : (setBit m i false).getLsbD i = false := by
  rw [setBit_getLsbD]
  split
  · rfl
  · next h => exact BitVec.getLsbD_of_ge m i (by omega)

/-- A target after a full read of CLAIM whose best source is `b`. -/
def Target.claimed (b : Nat) (x : Target) : Target :=
  if 8 ≤ x.stack.length then { x with armed := false, nestFull := true }
  else if b = 0 then { x with armed := false }
  else { x with armed := false, pend := setBit x.pend b false, stack := { source := b, prio := SMap.get x.prio b 0 } :: x.stack }

theorem Target.claimed_full {x : Target} (h : 8 ≤ x.stack.length) (b : Nat) :
    x.claimed b = { x with armed := false, nestFull := true } := if_pos h

theorem Target.claimed_none {x : Target} (h : ¬ 8 ≤ x.stack.length) {b : Nat} (hb : b = 0) :
    x.claimed b = { x with armed := false } := by
  simp [Target.claimed, h, hb]

theorem Target.claimed_source {x : Target} (h : ¬ 8 ≤ x.stack.length) {b : Nat} (hb : b ≠ 0) : x.claimed b =
    { x with armed := false, pend := setBit x.pend b false, stack := { source := b, prio := SMap.get x.prio b 0 } :: x.stack } := by
  simp [Target.claimed, h, hb]

@[simp] theorem Target.claimed_mask (b : Nat) (x : Target) : (x.claimed b).mask = x.mask := by
  unfold Target.claimed
  split
  · rfl
  · split <;> rfl

@[simp] theorem Target.claimed_threshold (b : Nat) (x : Target) : (x.claimed b).threshold = x.threshold := by
  unfold Target.claimed
  split
  · rfl
  · split <;> rfl

/-- What a full read of CLAIM returns: nothing while the stack is full, else the best source. -/
theorem claimAt_answer (t : Nat) (s : State) :
    (claimAt t s).2 = if 8 ≤ (s.target t).stack.length then 0 else bestSource s t := by
  unfold claimAt
  extract_lets x b
  by_cases hfull : 8 ≤ x.stack.length
  · rw [if_pos hfull, if_pos hfull]
  · rw [if_neg hfull, if_neg hfull]
    split
    · next hb => exact hb.symm
    · rfl

/-- What a full read of CLAIM makes of the targets: the claimed one, but for what its events bring. -/
theorem claimAt_quiet (t : Nat) (s : State) :
    Quiet wrapSource (s.setTarget t ((s.target t).claimed (bestSource s t))) (claimAt t s).1 := by
  unfold claimAt
  extract_lets x b
  by_cases hfull : 8 ≤ x.stack.length
  · rw [if_pos hfull]
    dsimp only
    exact changeTarget_quiet (Target.claimed_full hfull b).symm
  · rw [if_neg hfull]
    by_cases hb : b = 0
    · rw [if_pos hb]
      dsimp only
      exact changeTarget_quiet (Target.claimed_none hfull hb).symm
    · rw [if_neg hb]
      dsimp only
      exact perfEvent_quiet wrapSource_counted _ _ _ _ _ _ wrapSource_counted.requests
        (changeTarget_quiet (Target.claimed_source hfull hb).symm)

/-- A full stack takes no claim: 0 is read, and NEST_FULL is set. -/
theorem claimAt_full {t : Nat} {s : State} (h : 8 ≤ (s.target t).stack.length) : (claimAt t s).2 = 0 ∧
    ((claimAt t s).1.target t).stack = (s.target t).stack ∧ ((claimAt t s).1.target t).nestFull = true := by
  obtain ⟨-, -, -, -, hstack, hnest⟩ := (claimAt_quiet t s).set t
  rw [State.target_setTarget, Target.claimed_full h] at hstack hnest
  exact ⟨by rw [claimAt_answer, if_pos h], hstack, hnest⟩

/-- With no source to claim, 0 is read. -/
theorem claimAt_none {t : Nat} {s : State} (h : ¬ 8 ≤ (s.target t).stack.length) (hb : bestSource s t = 0) :
    (claimAt t s).2 = 0 ∧ ((claimAt t s).1.target t).stack = (s.target t).stack := by
  have hstack := (claimAt_quiet t s).stack t
  rw [State.target_setTarget, Target.claimed_none h hb] at hstack
  exact ⟨by rw [claimAt_answer, if_neg h, hb], hstack⟩

/-- The best source is read and pushed with its priority, and its pending bit is popped, unless the wrap of an event counter that the
claim brings raises it again. -/
theorem claimAt_source {t : Nat} {s : State} (h : ¬ 8 ≤ (s.target t).stack.length) (hb : bestSource s t ≠ 0) :
    (claimAt t s).2 = bestSource s t ∧
    ((claimAt t s).1.target t).stack =
      Claim.mk (bestSource s t) (SMap.get (s.target t).prio (bestSource s t) 0) :: (s.target t).stack ∧
    (¬ wrapSource (bestSource s t) → ((claimAt t s).1.target t).pend.getLsbD (bestSource s t) = false) := by
  have hstack := (claimAt_quiet t s).stack t
  have hpend := (claimAt_quiet t s).stay t (bestSource s t)
  rw [State.target_setTarget, Target.claimed_source h hb] at hstack hpend
  exact ⟨by rw [claimAt_answer, if_neg h], hstack, fun hwrap => (hpend hwrap).trans (setBit_cleared _ _)⟩

/-- A claim leaves the mask and the threshold of its target. -/
theorem claimAt_keeps (t : Nat) (s : State) : ((claimAt t s).1.target t).mask = (s.target t).mask ∧
    ((claimAt t s).1.target t).threshold = (s.target t).threshold := by
  obtain ⟨hmask, -, -, hthreshold, -⟩ := (claimAt_quiet t s).set t
  rw [State.target_setTarget] at hmask hthreshold
  exact ⟨hmask.trans (Target.claimed_mask _ _), hthreshold.trans (Target.claimed_threshold _ _)⟩

/-- CLAIM is judged once the access is counted (R351, R397). -/
theorem exec_claim {s : State} {src : Source} (hs : Served s src) (selected full : Bool) :
    exec (.claim src selected full) s = .next (claim src selected full (countBar0 src 1 s)) := readRequest_on _ hs.1 hs.2

/-- A full read of CLAIM by a source that may claim there. -/
theorem claim_claims {src : Source} {selected : Bool} {x : Nat} {s : State} (hx : targetOf s src selected = x)
    (h : x ≠ 32 ∨ isMc src = true) :
    claim src selected true s = (claimAt x s).1.answer (.word (BitVec.ofNat 32 (claimAt x s).2)) := by
  subst hx
  unfold claim
  exact if_pos (by simpa using h)

/-- A narrower read of CLAIM, and one of the MC's target by another, only looks (R327, R348). -/
theorem claim_looks {src : Source} {selected full : Bool} {s : State}
    (h : full = false ∨ (targetOf s src selected = 32 ∧ isMc src = false)) :
    claim src selected full s = s.answer (.word (BitVec.ofNat 32
      (if (s.target (targetOf s src selected)).stack.length < 8 then bestSource s (targetOf s src selected) else 0))) := by
  unfold claim
  refine if_neg ?_
  rcases h with narrow | ⟨htarget, hmc⟩
  · simp [narrow]
  · simp [htarget, hmc]

/-! ### EOI (R352) -/

/-- The running priority is that of the top of the stack (R346). -/
theorem running_eq_headD (x : Target) : running x = (x.stack.map (·.prio)).headD 0 := by
  unfold running
  cases x.stack <;> rfl

/-- An EOI is judged once the access is counted (R352, R397). -/
theorem exec_eoi {s : State} {src : Source} (hs : Served s src) (selected : Bool) (n : BitVec 9) :
    ∃ a, exec (.eoi src selected n) s = .next (eoiAt src (targetOf s src selected) a n.toNat (countBar0 src 2 s)) := by
  refine ⟨targetAccess src selected 0x184 (n.zeroExtend 32), ?_⟩
  show execEoi src selected n s = _
  unfold execEoi
  rw [request_on _ hs.1 hs.2, targetOf_of_signals (countBar0_keeps src 2 s) src selected]

/-- EOI of the top of the stack pops it. -/
theorem eoiAt_pops {src : Source} {t n : Nat} {s : State} {c : Claim} {rest : List Claim} (h : mayTarget src t = true)
    (hs : (s.target t).stack = c :: rest) (hc : c.source = n) (a : Access) :
    eoiAt src t a n s = changeTarget t (fun x => { x with stack := rest }) s := by
  unfold eoiAt
  rw [if_neg (by simp [h]), hs]
  exact if_pos hc

/-- A target after an EOI of the top of its stack: the rest of the stack, and the running priority of the new top. -/
theorem changeTarget_popped (t : Nat) (rest : List Claim) (s : State) :
    let x := (changeTarget t (fun x => { x with stack := rest }) s).target t
    x.stack = rest ∧ running x = (rest.map (·.prio)).headD 0 := by
  have hstack : ((changeTarget t (fun x => { x with stack := rest }) s).target t).stack = rest := by
    rw [(changeTarget_quiet rfl).stack t, State.target_setTarget]
  exact ⟨hstack, by rw [running_eq_headD, hstack]⟩

/-- EOI of any other source is refused: cause 3 while nothing is claimed, else 4. -/
theorem eoiAt_refused {src : Source} {t n : Nat} {s : State} (h : mayTarget src t = true)
    (hn : ((s.target t).stack.map (·.source)).head? ≠ some n) (a : Access) :
    eoiAt src t a n s = refuse src (if (s.target t).stack = [] then 3 else 4) a s := by
  unfold eoiAt
  rw [if_neg (by simp [h])]
  cases hs : (s.target t).stack with
  | nil => rfl
  | cons c rest => exact if_neg (by simpa [hs] using hn)

/-- Whatever is written to EOI, it is a stack popped or a refusal. -/
theorem eoiAt_cases (src : Source) (t n : Nat) (a : Access) (s : State) :
    (∃ rest, eoiAt src t a n s = changeTarget t (fun x => { x with stack := rest }) s) ∨
    ∃ cause, eoiAt src t a n s = refuse src cause a s := by
  unfold eoiAt
  split
  · exact .inr ⟨2, rfl⟩
  split
  · exact .inr ⟨3, rfl⟩
  split
  · exact .inl ⟨_, rfl⟩
  · exact .inr ⟨4, rfl⟩

/-- An EOI leaves every mask, and the stack of every other target. -/
theorem eoiAt_keeps (src : Source) (t n : Nat) (a : Access) (s : State) (k : Nat) :
    ((eoiAt src t a n s).target k).mask = (s.target k).mask ∧
    (k ≠ t → ((eoiAt src t a n s).target k).stack = (s.target k).stack) := by
  rcases eoiAt_cases src t n a s with ⟨rest, e⟩ | ⟨cause, e⟩
  · have hpopped : Quiet wrapSource _ (eoiAt src t a n s) := e ▸ changeTarget_quiet rfl
    refine ⟨(hpopped.mask k).trans ?_, hpopped.stack_ne⟩
    by_cases hk : k = t
    · subst hk; rw [State.target_setTarget]
    · rw [State.target_setTarget_ne _ _ hk]
  · have hrefused := refuse_quiet src cause a s
    rw [e]
    exact ⟨hrefused.mask k, fun _ => hrefused.stack k⟩

theorem eoiAt_arms (src : Source) (t n : Nat) (a : Access) (s : State) : Arms s (eoiAt src t a n s) := by
  rcases eoiAt_cases src t n a s with ⟨rest, e⟩ | ⟨cause, e⟩
  · rw [e]; exact changeTarget_arms rfl
  · rw [e]; exact refuse_arms src cause a s

end Sys2Proof.Machine
end

section
/-! PROOF. Claims and ends of interrupts. -/

open Sys2Proof Sys2Proof.Machine

namespace Sys2Proof

/-- Settles O26: the access is counted, which leaves every stack; a full read of CLAIM then makes of its target the claimed one, and a
narrower one only looks; an EOI pops the top of the stack or is refused, and nothing that it brings arms a target without its message. -/
theorem claimsAndEnds : Obligations.ClaimsAndEnds := by
  unfold Obligations.ClaimsAndEnds
  refine ⟨?claims, ?looks, ?ends⟩
  case claims =>
    intro s src selected x hs hx hmay
    have k := countBar0_keeps src 1 s
    have hquiet := countBar0_quiet src 1 s
    obtain ⟨hmask, hprio, -, hthreshold, hstack, -⟩ := hquiet.set x
    have e := exec_claim hs selected true
    rw [claim_claims ((targetOf_of_signals k src selected).trans hx.symm) hmay] at e
    obtain ⟨hmask', hthreshold'⟩ := claimAt_keeps x (countBar0 src 1 s)
    refine ⟨_, e, ?result, ?mask, ?threshold, fun j hj => ?others, ?only⟩
    case result =>
      rw [← hstack, ← hprio]
      by_cases hfull : 8 ≤ ((countBar0 src 1 s).target x).stack.length
      · obtain ⟨hread, hkept, hnest⟩ := claimAt_full hfull
        rw [if_pos hfull, hread]
        exact ⟨rfl, hkept, hnest⟩
      rw [if_neg hfull]
      by_cases hb : bestSource (countBar0 src 1 s) x = 0
      · obtain ⟨hread, hkept⟩ := claimAt_none hfull hb
        rw [if_pos hb, hread]
        exact ⟨rfl, hkept⟩
      · obtain ⟨hread, hpushed, hpopped⟩ := claimAt_source hfull hb
        rw [if_neg hb, hread]
        exact ⟨rfl, hpushed, fun hrange => hpopped (by unfold wrapSource; omega)⟩
    case mask => exact hmask'.trans hmask
    case threshold => exact hthreshold'.trans hthreshold
    case others => exact ((claimAt_quiet x _).stack_ne hj).trans (hquiet.stack j)
    case only => exact (State.answer_only _ _).after rfl ((claimAt_only _ _).after rfl ((countBar0_only src 1 s).mono rfl))
  case looks =>
    intro s src selected full hs h
    have htarget := targetOf_of_signals (countBar0_keeps src 1 s) src selected
    rw [exec_claim hs, claim_looks (by rwa [htarget]), htarget, (countBar0_quiet src 1 s).stack]
  case ends =>
    intro s src selected n x hs hx hmay
    have hquiet := countBar0_quiet src 2 s
    have hcount := countBar0_only src 2 s
    have hstack := hquiet.stack x
    obtain ⟨a, e⟩ := exec_eoi hs selected n
    rw [← hx] at e
    have hkeeps := eoiAt_keeps src x n.toNat a (countBar0 src 2 s)
    refine ⟨_, e, fun c rest hc hsource => ?pops, fun hn => ?refused, ?armed, fun j hj => ?others, ?mask, ?only⟩
    case pops =>
      rw [eoiAt_pops hmay (hstack.trans hc) hsource]
      obtain ⟨hrest, hrunning⟩ := changeTarget_popped x rest (countBar0 src 2 s)
      exact ⟨hrest, hrunning, (changeTarget_only _ _ _).after rfl (hcount.mono rfl)⟩
    case refused =>
      rw [← hstack] at hn ⊢
      rw [eoiAt_refused hmay hn]
      refine ⟨(refuse_quiet _ _ _ _).stack x, ?_⟩
      rintro f rfl
      refine ⟨refuse_accessErr _ _ _ _, fun hfree => ?_⟩
      rw [refuse_errRec]
      exact ErrRec.refused_cause ((congrArg _ (errRec_of_only hcount rfl f.val)).trans hfree) _ _
    case armed => exact ((countBar0_arms src 2 s).trans (eoiAt_arms src x n.toNat a _)).armed x
    case others => exact ((hkeeps j).2 hj).trans (hquiet.stack j)
    case mask => exact (hkeeps x).1.trans (hquiet.mask x)
    case only => exact (eoiAt_only _ _ _ _ _).after rfl (hcount.mono rfl)

end Sys2Proof
end
